-- ==== Sys2Proof/Word.lean ====
section
/-! DEFINITION. The plain word types of the model: bytes, byte strings, and the small number ranges by which the spec
numbers queues, cores, ports and the other units. -/

namespace Sys2Proof

/-- One byte (00_scope, numbers and units). -/
abbrev Byte := BitVec 8

/-- A string of bytes, first byte first. -/
abbrev Bytes := List Byte

/-- Queue number q of Table 2.4. -/
abbrev Qn := Fin 45
/-- Marker number, M0000 to M4095 (R33). -/
abbrev Mk := Fin 4096
/-- Device number in a domain (R16). -/
abbrev Dev := Fin 64
/-- Compute core C00 to C63 (R8). -/
abbrev Core := Fin 64
/-- Sequence slot Q00 to Q63 (R123). -/
abbrev Slot := Fin 64
/-- Memory stack S0 to S7 (R8). -/
abbrev StackN := Fin 8
/-- One of the eighteen LPDDR5X packages (R158 and the text before it). -/
abbrev Pkg := Fin 18
/-- Compute die, and the half of the stream engine on it (R9, R183). -/
abbrev Die := Fin 2
/-- DMA channel D00 to D31 (R199). -/
abbrev Chan := Fin 32
/-- Stash entry number (R206). -/
abbrev EntryN := Fin 4096
/-- Compressor and expander pair: 0 to 23 the ports, 24 the loopback pair (chapter 12). -/
abbrev Pair := Fin 25
/-- Viril port L00 to L23 (R237). -/
abbrev Port := Fin 24
/-- Lane of a Viril port. -/
abbrev Lane := Fin 8
/-- Codec context (R306). -/
abbrev Ctx := Fin 16
/-- Clock island n of Table 17.2. -/
abbrev Island := Fin 124
/-- Power domain of Table 17.1. -/
abbrev Domain := Fin 152
/-- Block code of Table 19.3. -/
abbrev Block := Fin 22

end Sys2Proof
end

