-- ==== Sys2Proof/Syntax.lean ====
section
/-! DEFINITION. The commands of the block: one constructor per row of spec/opcode_table.json, with the operands the
rows' rules name. A command of a command list that has started is named by the number under which COMMAND_START
recorded it (`c`); its operands are the units it was started with. -/

namespace Sys2Proof

/-- What a host access on the PCIe link is routed to: the BAR 4 window (R24), BAR 2 (Table 2.3), or configuration space
(R21). BAR 0 has rows of its own. -/
inductive HostSpace | window | bar2 | config
  deriving DecidableEq, Repr

/-- Severity of a DRAM read (R146). -/
inductive Severity | clean | corrected | uncorrected
  deriving DecidableEq, Repr

/-- How a transfer went (R146, R147, R198): the severity of its DRAM read and the 128-byte line of the transfer that it
concerns, parity repeats on a vertical interface of the read and of the write, and whether a host or peer window answered a
fetch with an error. -/
structure Landing where
  sev          : Severity
  line         : Nat
  readRepeats  : Nat
  writeRepeats : Nat
  error        : Bool
  deriving DecidableEq, Repr

/-- A host access (R24, R25): a read of `len` bytes when `data` is none, else a write. For an access through the window, how
its DRAM accesses went that were not clean. -/
structure WindowAcc where
  offset : Nat
  len    : Nat
  data   : Option Bytes
  space  : HostSpace := .window
  dram   : List Landing := []
  deriving DecidableEq, Repr

/-- What a PCIe training or change ends in (R20): SPEED code and WIDTH of HIF_LINKSTAT (Table 21.4). -/
structure LinkTrained where
  speed : Fin 8
  width : Nat
  flit  : Bool
  up    : Bool
  deriving DecidableEq, Repr

/-- A parity error that a bank unit detects in slot `slot` (pair `slot` for BANK_COPY); two in one slot are the
second error of R181. -/
structure ParityErr where
  slot  : Nat
  stack : StackN
  deriving DecidableEq, Repr

/-- How a DMA transfer ended badly (R204, Table 10.8). -/
inductive TransferErr | errorResponse | linkContained | hostTimeout
  deriving DecidableEq, Repr

/-- What an upset of an array's cell, checksum cell, accumulator or fraction table falsifies while a tile is computed (R80,
R81): `place` names cell (i, j), and accumulation k of it. -/
inductive UpsetPlace | product | column | row | accumulator | table
  deriving DecidableEq, Repr

/-- An upset: `wrong` is what it adds to the residue, or to the image of the accumulator, that it falsifies. -/
structure Upset where
  place : UpsetPlace
  i     : Fin 64
  j     : Fin 64
  k     : Nat
  wrong : Nat
  deriving DecidableEq, Repr

/-- What befell a tile by its verdict: upsets of the array, single-bit errors that the tile store corrected, and a block that it
could not correct, of operands (false) or of scales (true) (R65). -/
structure TileCheck where
  upsets    : List Upset := []
  corrected : Nat := 0
  lost      : Option Bool := none
  deriving DecidableEq, Repr

/-- A message on a Viril port: its header (Table 13.5) and its data. -/
structure Msg where
  kind   : BitVec 4
  cmp    : Bool
  poison : Bool
  dstDev : BitVec 6
  dstDom : BitVec 4
  srcDev : BitVec 6
  srcDom : BitVec 4
  addr   : BitVec 48
  tag    : BitVec 16
  data   : Bytes
  deriving DecidableEq, Repr

/-- A flit received on a port, with the FEC codewords of its reception that were corrected and that could not be (R237). -/
structure FlitIn where
  bytes  : Bytes
  fecCor : Nat := 0
  fecUnc : Nat := 0
  deriving DecidableEq, Repr

/-- The 10 microsecond sample of the input (R317), in the units of PWR_INPUT. -/
structure InputSample where
  mV   : BitVec 16
  amps : BitVec 16
  watt : BitVec 16
  deriving DecidableEq, Repr

/-- A consumer of power budget tokens (Table 17.4). -/
inductive Consumer
  | core (n : Core)
  | bank (k : StackN)
  | vert (k : StackN)
  | port (p : Port)
  deriving DecidableEq, Repr

/-- The 100 microsecond readings (R325 to R328), in degrees Celsius: per sensor of each die, the sensor nearest each
core island (by core number), and the coolant. -/
structure SensorReading where
  cd0 : List Nat
  cd1 : List Nat
  hd  : List Nat
  nearest : List Nat
  inlet : Nat
  outlet : Nat
  deriving DecidableEq, Repr

/-- What a core is doing at a meter tick (R294): busy, or the set of idle causes that hold (codes of Table 15.6). -/
inductive CoreTick
  | busy
  | idle (causes : List (Fin 16))
  deriving DecidableEq, Repr

/-- A unit of memory training (R364). -/
inductive TrainUnit
  | stack (k : StackN)
  | spill (group : Fin 8)
  deriving DecidableEq, Repr

/-- Who writes a register (Table 21.2). -/
inductive Requester | host | keeper
  deriving DecidableEq, Repr

/-- A marker that the host writes through its window of BAR 2, or that the Keeper asks an add of (R33). -/
structure MarkerPort where
  who    : Requester
  marker : Mk
  deriving DecidableEq, Repr

/-- A register write (R6, R371): offset in the register space, width in bits, value; and the bits of the written registers,
placed as in the value, that hardware sets in the same cycle (R40): the rows of those events come just before. -/
structure RegWrite where
  who    : Requester
  offset : Nat
  width  : Nat
  value  : BitVec 64
  hwSet  : BitVec 64 := 0
  deriving DecidableEq, Repr

/-- A register read (R6, R7): offset in the register space and width in bits. -/
structure RegRead where
  who    : Requester
  offset : Nat
  width  : Nat
  deriving DecidableEq, Repr

/-- Where a job-control command comes from (R287): it is the started command `c` of this module's KQ0, or the manager's Keeper
hands a worker's Keeper the command's 32-byte header. -/
inductive JobCmd
  | started (c : Nat)
  | handed (header : Bytes)
  deriving DecidableEq, Repr

/-- The rows of spec/opcode_table.json, in the table's order. -/
inductive Instr
  /-- DOORBELL_WRITE (R26). -/
  | doorbellWrite (q : Qn) (tail : BitVec 32)
  /-- MARKER_WINDOW_WRITE (R33): an add that the host asks for through BAR 2, or the Keeper asks for. -/
  | markerWindowWrite (m : MarkerPort) (v : BitVec 32)
  /-- WINDOW_ACCESS (R24). -/
  | windowAccess (a : WindowAcc)
  /-- FUNCTION_LEVEL_RESET (R22): of this module's own function, or of its manager's, which stops the domain's queues (log 143). -/
  | functionLevelReset
  /-- PCIE_LINK_CHANGE (R20). -/
  | pcieLinkChange (l : LinkTrained)
  /-- PERST_DEASSERT (R365). -/
  | perstDeassert
  /-- HIF_WIN_BASE_WRITE (R24). -/
  | hifWinBaseWrite (v : BitVec 64)
  /-- QUEUE_ENABLE (R387). -/
  | queueEnable (q : Qn)
  /-- QUEUE_DISABLE (R389). -/
  | queueDisable (q : Qn)
  /-- RESUME_RETRY (R37). -/
  | resumeRetry (q : Qn)
  /-- RESUME_SKIP (R37). -/
  | resumeSkip (q : Qn)
  /-- RESUME_ABORT (R37). -/
  | resumeAbort (q : Qn)
  /-- FLUSH (R41). -/
  | flush (q : Qn)
  /-- RCTL_RETRY (R29). -/
  | rctlRetry (d : Dev) (q : Qn)
  /-- RCTL_SKIP (R29). -/
  | rctlSkip (d : Dev) (q : Qn)
  /-- RCTL_ABORT (R29). -/
  | rctlAbort (d : Dev) (q : Qn)
  /-- RHALT_POP (R29). -/
  | rhaltPop
  /-- ENTRY_HEAD_CHECK (R388). -/
  | entryHeadCheck (q : Qn)
  /-- COMMAND_START (R31). -/
  | commandStart (q : Qn)
  /-- WAIT_TIMEOUT (R32). -/
  | waitTimeout (q : Qn)
  /-- COMMAND_COMPLETE (R34). -/
  | commandComplete (c : Nat)
  /-- MARKER_ADD (R33). -/
  | markerAdd (c : Nat)
  /-- MARKER_SET (R33). -/
  | markerSet (c : Nat)
  /-- NOP (R31). -/
  | nop (c : Nat)
  /-- SNAP (R342). -/
  | snap (c : Nat)
  /-- MATMUL (R74). -/
  | matmul (c : Nat)
  /-- MATMUL2 (R74). -/
  | matmul2 (c : Nat)
  /-- GRAD_PAIR (R78). -/
  | gradPair (c : Nat)
  /-- CORE_SHARE_START (R76). -/
  | coreShareStart (n : Core)
  /-- TILE_FINISH (R82). -/
  | tileFinish (n : Core) (arrayB : Bool) (v : TileCheck)
  /-- INJECT (R82). -/
  | inject (n : Core) (arrayB : Bool)
  /-- CHAIN_TILE (R85). -/
  | chainTile (n : Core)
  /-- CHAIN_LOAD (R91). -/
  | chainLoad (c : Nat)
  /-- TABLE_LOAD (R91). -/
  | tableLoad (c : Nat)
  /-- VECTOR (R92). -/
  | vector (c : Nat)
  /-- ATTN_FWD (R107). -/
  | attnFwd (c : Nat)
  /-- ATTN_BWD (R119). -/
  | attnBwd (c : Nat)
  /-- ATTN_MERGE (R118). -/
  | attnMerge (c : Nat)
  /-- ATTN_PAGED (R136). -/
  | attnPaged (c : Nat)
  /-- ATT_BATON_TIMEOUT (R115). -/
  | attBatonTimeout (n : Core)
  /-- SLOT_OPEN (R126). -/
  | slotOpen (c : Nat)
  /-- SLOT_CLOSE (R127). -/
  | slotClose (c : Nat)
  /-- SLOT_FORK (R129). -/
  | slotFork (c : Nat)
  /-- KV_WRITE (R128). -/
  | kvWrite (c : Nat)
  /-- SLOT_TRUNC (R127). -/
  | slotTrunc (c : Nat)
  /-- PAGE_HINT (R135). -/
  | pageHint (c : Nat)
  /-- AGEING_SWEEP (R133). -/
  | ageingSweep
  /-- PAGE_AGE_DONE (R133). -/
  | pageAgeDone (q : Slot) (page : Nat)
  /-- PAGE_PREFETCH (R135). -/
  | pagePrefetch (n : Core) (q : Slot) (page : Nat)
  /-- DEMAND_FETCH (R135). -/
  | demandFetch (n : Core) (q : Slot) (page : Nat)
  /-- KVP_ENABLE (R139). -/
  | kvpEnable
  /-- PATROL_SCRUB (R148). -/
  | patrolScrub (line : Nat) (l : Landing)
  /-- STACK_TEMP_REPORT (R149). -/
  | stackTempReport (k : StackN) (temp : Nat)
  /-- SPILL_TEMP_REPORT (R159). -/
  | spillTempReport (pkg : Pkg) (hot : Bool)
  /-- ATOMIC (R153). -/
  | atomic (c : Nat)
  /-- ACC_OPEN (R154). -/
  | accOpen (c : Nat)
  /-- ACC_CLOSE (R156). -/
  | accClose (c : Nat)
  /-- BANK_MV (R172). -/
  | bankMv (c : Nat) (parity : List ParityErr)
  /-- BANK_OPT (R175). -/
  | bankOpt (c : Nat) (parity : List ParityErr)
  /-- BANK_EW (R178). -/
  | bankEw (c : Nat) (parity : List ParityErr)
  /-- BANK_COPY (R179). -/
  | bankCopy (c : Nat) (parity : List ParityErr)
  /-- BANK_HOLD (R170). -/
  | bankHold
  /-- BANK_HOLD_DONE (R170). -/
  | bankHoldDone
  /-- BANK_WAKE (R170). -/
  | bankWake
  /-- BANK_WAKE_DONE (R170). -/
  | bankWakeDone
  /-- BANK_BIST (R182). -/
  | bankBist (allPass : Bool)
  /-- RING_SET (R188). -/
  | ringSet (c : Nat)
  /-- STREAM_TRANSFER_GRANT (R193). -/
  | streamTransferGrant (h : Die)
  /-- TRANSFER_LANDED (R192). -/
  | transferLanded (h : Die) (t : Nat) (l : Landing)
  /-- DEADLOCK_TEST (R195). -/
  | deadlockTest (h : Die)
  /-- DMA (R200). -/
  | dma (c : Nat)
  /-- DMA_START (R199). -/
  | dmaStart (n : Chan)
  /-- DMA_ABORT (R203). -/
  | dmaAbort (n : Chan)
  /-- DMA_TRANSFER_ERROR (R204). -/
  | dmaTransferError (n : Chan) (t : Nat) (err : TransferErr)
  /-- DMA_COMPLETE (R202). -/
  | dmaComplete (n : Chan)
  /-- STASH_PUT (R209). -/
  | stashPut (c : Nat)
  /-- STASH_GET (R210). -/
  | stashGet (c : Nat)
  /-- STASH_DROP (R211). -/
  | stashDrop (c : Nat)
  /-- STASH_FILL_RETRY (R214). -/
  | stashFillRetry (d : Die)
  /-- STASH_BG_OFFLOAD (R213). -/
  | stashBgOffload (d : Die)
  /-- STASH_OFFLOAD_DONE (R215). -/
  | stashOffloadDone (e : EntryN)
  /-- STS_ENABLE (R207). -/
  | stsEnable
  /-- EXPANDER_BLOCK (R235). -/
  | expanderBlock (p : Pair)
  /-- GEN_STALL_TIMEOUT (R234). -/
  | genStallTimeout (p : Pair)
  /-- TABLE_IMAGE_LOAD (R233). -/
  | tableImageLoad (p : Pair)
  /-- LINK_TRAIN (R238). -/
  | linkTrain (p : Port) (lanes : BitVec 8)
  /-- LINK_TRAIN_TIMEOUT (R238). -/
  | linkTrainTimeout (p : Port)
  /-- IDENT_FLIT (R242). -/
  | identFlit (p : Port) (f : FlitIn)
  /-- DATA_FLIT (R247). -/
  | dataFlit (p : Port) (f : FlitIn)
  /-- IDLE_FLIT (R243). -/
  | idleFlit (p : Port) (f : FlitIn)
  /-- ACK_TIMEOUT (R247). -/
  | ackTimeout (p : Port)
  /-- LANE_LOSS (R248). -/
  | laneLoss (p : Port) (lane : Lane)
  /-- RETRAIN_END (R248). -/
  | retrainEnd (p : Port) (sameIdentity : Bool)
  /-- LNK_RETRAIN (R239). -/
  | lnkRetrain (v : BitVec 32)
  /-- LNK_PORT_EN_WRITE (R239). -/
  | lnkPortEnWrite (v : BitVec 32)
  /-- READ_TIMEOUT (R253). -/
  | readTimeout (tag : BitVec 16)
  /-- REDUCTION_ADMIT (R255). -/
  | reductionAdmit
  /-- WRITE (R244). -/
  | write (p : Port) (m : Msg)
  /-- READ_REQ (R246). -/
  | readReq (p : Port) (m : Msg)
  /-- READ_RESP (R246). -/
  | readResp (p : Port) (m : Msg)
  /-- BATON (R263). -/
  | baton (p : Port) (m : Msg)
  /-- CONTRIB (R254). -/
  | contrib (p : Port) (m : Msg)
  /-- ENTRY (R28). -/
  | entry (p : Port) (m : Msg)
  /-- TABLE (R233). -/
  | table (p : Port) (m : Msg)
  /-- JOIN (R283). -/
  | join (p : Port) (m : Msg)
  /-- JOINED (R283). -/
  | joined (p : Port) (m : Msg)
  /-- REFUSE (R283). -/
  | refuse (p : Port) (m : Msg)
  /-- PING (R285). -/
  | ping (p : Port) (m : Msg)
  /-- PONG (R285). -/
  | pong (p : Port) (m : Msg)
  /-- MJOIN (R286). -/
  | mjoin (p : Port) (m : Msg)
  /-- TRIGGER (R347). -/
  | trigger (p : Port) (m : Msg)
  /-- RESEND (R235). -/
  | resend (p : Port) (m : Msg)
  /-- ACCEPT (R235). -/
  | accept (p : Port) (m : Msg)
  /-- DOWN (R253). -/
  | down (p : Port) (m : Msg)
  /-- FATAL (R354). -/
  | fatal (p : Port) (m : Msg)
  /-- COMPLETION (R28). -/
  | completion (p : Port) (m : Msg)
  /-- METER (R302). -/
  | meter (p : Port) (m : Msg)
  /-- METER_ACK (R341). -/
  | meterAck (p : Port) (m : Msg)
  /-- HALT (R29). -/
  | halt (p : Port) (m : Msg)
  /-- RESUME (R29). -/
  | resume (p : Port) (m : Msg)
  /-- REPORT (R265). -/
  | report (p : Port) (m : Msg)
  /-- SCALE (R266). -/
  | scale (p : Port) (m : Msg)
  /-- START (R273). -/
  | start (p : Port) (m : Msg)
  /-- CUT (R273). -/
  | cut (p : Port) (m : Msg)
  /-- CLOSED (R273). -/
  | closed (p : Port) (m : Msg)
  /-- HOLD (R276). -/
  | hold (p : Port) (m : Msg)
  /-- RELEASE (R276). -/
  | release (p : Port) (m : Msg)
  /-- GRANT (R264). -/
  | grant (p : Port) (m : Msg)
  /-- FAIL (R279). -/
  | fail (p : Port) (m : Msg)
  /-- BROADCAST (R262). -/
  | broadcast (c : Nat)
  /-- ALL_GATHER (R262). -/
  | allGather (c : Nat)
  /-- ALL_TO_ALL (R262). -/
  | allToAll (c : Nat)
  /-- REDUCE (R265). -/
  | reduce (c : Nat)
  /-- SOURCES_READY (R265). -/
  | sourcesReady (c : Nat)
  /-- BUCKET_APPLY (R270). -/
  | bucketApply
  /-- BUCKET_DEADLINE_EXPIRY (R273). -/
  | bucketDeadlineExpiry (b : BitVec 32)
  /-- RELAY_NO_PROGRESS (R278). -/
  | relayNoProgress (c : Nat)
  /-- RING_PASS (R264). -/
  | ringPass (c : Nat)
  /-- EPOCH_FENCE (R275). -/
  | epochFence (c : Nat)
  /-- JOB_START (R287). -/
  | jobStart (j : JobCmd)
  /-- JOB_SUSPEND (R295). -/
  | jobSuspend (j : JobCmd)
  /-- JOB_RESUME (R296). -/
  | jobResume (j : JobCmd)
  /-- JOB_RELEASE (R287). -/
  | jobRelease (j : JobCmd)
  /-- JOB_END (R287). -/
  | jobEnd (j : JobCmd)
  /-- RESHARD (R292). -/
  | reshard (j : JobCmd)
  /-- REMAP (R299). -/
  | remap (j : JobCmd)
  /-- CHECKPOINT (R297). -/
  | checkpoint (j : JobCmd)
  /-- METER_COLLECT (R302). -/
  | meterCollect (j : JobCmd)
  /-- SNAP_FETCH (R350). -/
  | snapFetch (c : Nat)
  /-- SUSPEND_TIMEOUT (R295). -/
  | suspendTimeout
  /-- FORMATION_END (R283). -/
  | formationEnd
  /-- HEARTBEAT (R285). -/
  | heartbeat
  /-- MANAGER_SILENCE (R300). -/
  | managerSilence
  /-- CDC_OPEN (R307). -/
  | cdcOpen (c : Nat)
  /-- CDC_CLOSE (R308). -/
  | cdcClose (c : Nat)
  /-- CDC_DECODE (R310). -/
  | cdcDecode (c : Nat)
  /-- CDC_ENCODE (R314). -/
  | cdcEncode (c : Nat)
  /-- CDC_FLUSH (R308). -/
  | cdcFlush (c : Nat)
  /-- CODEC_OUTPUT (R309). -/
  | codecOutput (x : Ctx)
  /-- INPUT_SAMPLE (R317). -/
  | inputSample (x : InputSample)
  /-- NEAP_REQ (R321). -/
  | neapReq (on : Bool)
  /-- SLACK_ENTRY (R321). -/
  | slackEntry
  /-- TOKEN_REQUEST (R322). -/
  | tokenRequest (u : Consumer)
  /-- TOKEN_GRANT (R322). -/
  | tokenGrant
  /-- TOKEN_RELEASE (R322). -/
  | tokenRelease (u : Consumer)
  /-- CLOCK_TARGET_WRITE (R320). -/
  | clockTargetWrite (n : Island) (v : BitVec 8)
  /-- SENSOR_READ (R325). -/
  | sensorRead (r : SensorReading)
  /-- HOLD_TIMEOUT (R326). -/
  | holdTimeout
  /-- HOLDFAST_SHUTDOWN (R329). -/
  | holdfastShutdown (recordSent : Bool)
  /-- TRIGGER_ISSUE (R345). -/
  | triggerIssue
  /-- SNP_TRIG_WRITE (R343). -/
  | snpTrigWrite (v : BitVec 32)
  /-- SNAP_IN_EDGE (R348). -/
  | snapInEdge (highNs : Nat)
  /-- SNAPSHOT_BANK_RELEASE (R346). -/
  | snapshotBankRelease (bits : BitVec 32)
  /-- METER_TICK (R294). -/
  | meterTick (cores : List CoreTick)
  /-- CLOSE_NOW (R340). -/
  | closeNow
  /-- CEIL_RELOAD (R338). -/
  | ceilReload
  /-- COMMIT_SVN (R333). -/
  | commitSvn
  /-- NST_MACK (R341). -/
  | nstMack (v : BitVec 32)
  /-- RECORD_SIGNED (R341). -/
  | recordSigned
  /-- GET_VERSION (R336). -/
  | getVersion (req : Bytes)
  /-- GET_CAPABILITIES (R336). -/
  | getCapabilities (req : Bytes)
  /-- NEGOTIATE_ALGORITHMS (R336). -/
  | negotiateAlgorithms (req : Bytes)
  /-- GET_DIGESTS (R336). -/
  | getDigests (req : Bytes)
  /-- GET_CERTIFICATE (R336). -/
  | getCertificate (req : Bytes)
  /-- CHALLENGE (R336). -/
  | challenge (req : Bytes)
  /-- GET_MEASUREMENTS (R336). -/
  | getMeasurements (req : Bytes)
  /-- UNSUPPORTED_REQUEST (R336). -/
  | unsupportedRequest (req : Bytes)
  /-- DOE_ABORT (R337). -/
  | doeAbort
  /-- INPUT_QUALIFIED (R356). -/
  | inputQualified
  /-- INPUT_LOSS (R356). -/
  | inputLoss
  /-- SUPPLY_TIMEOUT (R357). -/
  | supplyTimeout
  /-- MOD_RST_N (R359). -/
  | modRstN
  /-- NAUST_START (R362). -/
  | naustStart
  /-- KEEPER_VERIFY (R331). -/
  | keeperVerify
  /-- THERMAL_GATE_OPEN (R363). -/
  | thermalGateOpen
  /-- MEMORY_TRAINING_DONE (R364). -/
  | memoryTrainingDone (u : TrainUnit) (ok : Bool)
  /-- KEEPER_RELEASE (R366). -/
  | keeperRelease
  /-- READY (R367). -/
  | ready
  /-- READ (R381). -/
  | read (addr : BitVec 48) (n : Nat)
  /-- FLASH_WRITE (R381). -/
  | flashWrite (region : Nat) (off : Nat) (data : Bytes)
  /-- FLASH_READ (R381). -/
  | flashRead (region : Nat) (off : Nat) (n : Nat)
  /-- CEIL_LOAD (R339). -/
  | ceilLoad
  /-- RESET (R361). -/
  | reset (key : BitVec 8)
  /-- STATUS (R381). -/
  | status
  /-- BYPASS (R380). -/
  | bypass
  /-- IDCODE (R380). -/
  | idcode
  /-- SAMPLE_PRELOAD (R380). -/
  | samplePreload (cells : Bytes)
  /-- EXTEST (R380). -/
  | extest (rstLow : Bool)
  /-- LOCK_SET (R375). -/
  | lockSet (b : Block)
  /-- REGISTER_WRITE (R376). -/
  | registerWrite (w : RegWrite)
  /-- PERST_ASSERT (R359). -/
  | perstAssert
  /-- HOT_RESET (R359). -/
  | hotReset
  /-- DOE_DISCOVERY (R21). -/
  | doeDiscovery (index : BitVec 8)
  /-- PM_STATE_WRITE (R21). -/
  | pmStateWrite (d3hot : Bool)
  /-- RESIZABLE_BAR_WRITE (R24). -/
  | resizableBarWrite (log2 : Nat)
  /-- LOW_HALF_READ (R6, R7): a register read; a 32-bit one of a low half latches the high half. -/
  | lowHalfRead (r : RegRead)
  /-- PAGE_FETCH_DONE (R135). -/
  | pageFetchDone (q : Slot) (page : Nat)
  /-- DOMAIN_WAKE_DONE (R319). -/
  | domainWakeDone (d : Domain)
  /-- FREQUENCY_CHANGE_DONE (R320). -/
  | frequencyChangeDone (n : Island)
  /-- SUPPLY_GOOD (R356). -/
  | supplyGood (step : Nat)
  /-- SNAP_OUT_PULSE_END (R348). -/
  | snapOutPulseEnd
  deriving DecidableEq, Repr

end Sys2Proof
end

