-- ==== Sys2Proof/Decode.lean ====
section
/-! DEFINITION. Decoding by the table's words. The table gives no row any bits: its rows are commands that come from
outside the block, and no word spells one. -/

namespace Sys2Proof

/-- The command that a word of the table's bits spells: none, since no row has bits. -/
def decodeTableWord (_nbits _w : Nat) : Option Instr := none

end Sys2Proof
end

