-- ==== Sys2Proof/Config.lean ====
section
/-! DEFINITION. What the spec leaves open: free values. Each is an opaque constant, so that no proof can depend on what it
is; the assumption log says where each is used. -/

namespace Sys2Proof.Config

/-- A byte of memory whose contents the spec leaves undefined, by the range's tag and the address (log 4). -/
opaque freeByte : Nat → Nat → Byte

/-- What a peer module's memory answers to an engine's read: device, address, and how many reads went before (log 5). -/
opaque peerByte : Nat → Nat → Nat → Byte

/-- A free value, kept apart by the model's counter (log 2). -/
opaque freeNat : Nat → Nat

/-- Where R98 allows an error of one unit in the last place: does the function give the upper neighbour of the exact
value? Arguments: function code, FP32 operand (log 6). -/
opaque roundsHigh : Nat → Nat → Bool

/-- In the package-merge algorithm, does a symbol precede a package of the same count (log 37)? -/
opaque symbolFirst : Bool

/-- SHA-256, SHA-384 and SHA-512 by digest bits, of a byte string (log 7). -/
opaque hash : Nat → Bytes → Bytes

/-- Signature of a byte string by the identity key, at draw n of the generator that gives the salt (log 7). -/
opaque sign : Nat → Bytes → Bytes

/-- Does a signature of a byte string verify under a public key (log 7)? -/
opaque verifies : Bytes → Bytes → Bytes → Bool

/-- Random bits drawn by Naust's generator at draw n: byte i (log 7). -/
opaque randomByte : Nat → Nat → Byte

/-- Certificate chain of a slot at a minting (log 7). -/
opaque certificate : Nat → Bytes

/-- SHA-256 of the Naust ROM (log 7). -/
opaque romHash : Bytes

/-- What decoding by the named standard gives: mode, every byte of the stream since the last random access point, and a
selector of the field or sample asked for (log 8). -/
opaque decoded : Nat → Bytes → Nat → Int

/-- What an encoder of the named standard produces (log 8): mode, operands, raw pictures, selector. -/
opaque encoded : Nat → Bytes → Bytes → Nat → Nat

/-- 2^(i/6) in the rate control's table of 16-bit fractions, which the spec does not print (log 47). -/
opaque rateFraction : Nat → Nat

/-- Where a program keeps a shard unit: address of its weights (part 0), first and second moments (parts 1 and 2), by unit
number (log 49). -/
opaque unitPlace : Nat → Nat → Nat

/-- Vendor and device ID, and the identifier of the 128.0 GT/s capability, in configuration space (log 118). -/
opaque pciIds : Nat
opaque cap128 : Nat

/-- Where a worker's Keeper places the rings of queue q in stacked memory: number of the 4 KiB page (log 142). -/
opaque ringPage : Nat → Nat

/-- Is a member of a relay group in another domain not present there: domain, device, and the model's counter (log 79)? -/
opaque farAbsent : Nat → Nat → Nat → Bool

end Sys2Proof.Config
end

