-- ==== Sys2Proof/Machine/State.lean ====
section
/-! DEFINITION. The state of the module as plain data, the reasons a step can stop, and the state after reset.

Everything a register shows has its one home in `regs`; everything the rules imply beside the registers has a field of
its own below. A collection with many like members is a sparse association list: a member that is not listed is in its
initial condition. Each field's docstring names the rule of spec/ it follows. -/

namespace Sys2Proof.Machine

open Sys2Proof

/-! ### Queues (chapter 02) -/

/-- A ring entry past its head check and unfinished (R28, R35, R388), or waiting on a worker (R29). It has started when one of
its commands has, or when it has been forwarded. -/
structure Flight where
  /-- Completion-ring index, and the ring index of the entry. -/
  idx      : Nat := 0
  /-- PHASE of the pass in which the entry was read (R35). -/
  phase    : Bool := true
  /-- On a worker: the entry came from the manager (R28), with the manager's ring index in `idx`. -/
  remote   : Bool := false
  entryId  : Nat := 0
  kind     : Nat := 0
  irq      : Bool := false
  user     : Nat := 0
  jobTag   : Nat := 0
  target   : Nat := 0
  listAddr : Nat := 0
  units    : Nat := 0
  /-- The list itself, for an inline command or a forwarded entry that carries its list. -/
  body     : Option Bytes := none
  /-- The list came poisoned with its ENTRY message (R252). -/
  bad      : Bool := false
  /-- Unit index of the next command to start. -/
  pos      : Nat := 0
  /-- COMMANDS of Table 2.8. -/
  done     : Nat := 0
  /-- Sticky FLAGS of Table 2.8. -/
  flags    : Nat := 0
  /-- Unit index of the last skipped command (R37). -/
  skipped  : Option Nat := none
  /-- The manager has forwarded the entry and awaits its COMPLETION (R28). -/
  sent     : Bool := false
  deriving DecidableEq, Repr, Inhabited

/-- A halt (R36): of a command (`c` its number when it had started) or of a whole entry. -/
structure HaltRec where
  status : Nat := 0
  idx    : Nat := 0
  unit   : Nat := 0
  whole  : Bool := false
  detail : Nat := 0
  c      : Option Nat := none
  deriving DecidableEq, Repr, Inhabited

/-- What a queue holds beside its registers. -/
structure QueueX where
  /-- PHASE of the pass that head is in (R35). -/
  phase   : Bool := true
  /-- Entries past their head check and unfinished, oldest first. -/
  flights : List Flight := []
  /-- On a worker: forwarded entries not yet started (R29). -/
  inbox   : List Flight := []
  /-- Halts held behind the one shown (R36), oldest first. -/
  held    : List HaltRec := []
  /-- Command that the shown halt concerns, when it had started. -/
  shown   : Option Nat := none
  /-- A FLUSH waits for the state it acts in (R41). -/
  flush   : Bool := false
  /-- State to which a STOPPING or SUSPENDED queue returns (R295, R296). -/
  before  : Nat := 0
  /-- Where head goes when the entry at the head has started: past entries that FLUSH has discarded behind it (R41). -/
  jump    : Option Nat := none
  /-- Commands that had started and failed and are to start again (R37). -/
  redo    : List Nat := []
  /-- ENABLE was cleared (R389): the queue stops for good. -/
  closing : Bool := false
  /-- A yield point has been reached since the suspend request (R32's pre-emption text). -/
  yielded : Bool := false
  /-- The stash entry that the command at the head waits on (Table 11.3). -/
  awaits  : Option Nat := none
  /-- FENCE: the commands that had started when the head command reached the head (Table 2.7). -/
  fence   : Option (List Nat) := none
  deriving DecidableEq, Repr, Inhabited

/-- How far a started command is. -/
inductive CmdState
  | running
  /-- Its effect is complete; COMMAND_COMPLETE may take it. -/
  | done
  /-- It failed as a contained error with this cause and waits in a halt. -/
  | failed (cause : Nat)
  deriving DecidableEq, Repr, Inhabited

/-- A started command of a list (R31): where it stands, its units, and what it has done. -/
structure Started where
  id     : Nat := 0
  /-- Its place in the order of starts; a retry starts again (R37). -/
  turn   : Nat := 0
  q      : Nat := 0
  /-- Ring index of its entry. -/
  idx    : Nat := 0
  unit   : Nat := 0
  bytes  : Bytes := []
  /-- Sticky flags it has raised (R63). -/
  flags  : Nat := 0
  state  : CmdState := .running
  /-- Progress of a command that runs in parts: parts left, or the next leg. -/
  prog   : Nat := 0
  /-- The parts have been dealt or the work has begun. -/
  begun  : Bool := false
  /-- Memory it may write, as (address, length): undefined if it is stopped inside (R22, Table 2.15). -/
  outs   : List (Nat × Nat) := []
  /-- Stopped by a reset, a job-fatal error or Holdfast (Table 2.15): it makes no add and no record. -/
  muted  : Bool := false
  /-- What the command read when it started, where its chapter says that it reads then (R91, R136). -/
  image  : Bytes := []
  deriving DecidableEq, Repr, Inhabited

/-! ### Cores and chains (chapters 04 and 05) -/

/-- A piece that an attention walk reads (Table 10.1): its logical port and source ranges; for ATTN_PAGED the slot in whose region
the ranges lie (R137); batons from ARRIVE_BASE on that its wait asks for (R115); with `own`, records that the command itself writes
before (R109, R119). -/
structure APiece where
  port   : Nat := 0
  ranges : List (Nat × Nat) := []
  slot   : Option Nat := none
  need   : Nat := 0
  own    : Bool := false
  deriving DecidableEq, Repr, Inhabited

/-- A unit of an attention command (R107, R118 to R120, R137): its pass as ATT_Cnn_STAT.PASS has it, leg, number among the units of
the pass, key pass over GKV; the list entries and the blocks of a paged unit; what it reads, step by step. -/
structure AUnit where
  pass   : Nat := 0
  leg    : Nat := 0
  idx    : Nat := 0
  gkv    : Bool := false
  ents   : List Nat := []
  tiles  : List (Nat × List Nat) := []
  pieces : List APiece := []
  steps  : List (List Nat) := []
  deriving DecidableEq, Repr, Inhabited

/-- A command share of one core (R75, R92): the tiles dealt to each array that have not passed their check, in order. -/
structure Share where
  c      : Nat := 0
  q      : Nat := 0
  /-- Backward class (R76). -/
  bwd    : Bool := false
  /-- Units of an attention share, in the order in which the core takes them (R107). -/
  units  : List AUnit := []
  /-- (tile row, tile column) for array A; (number of the unit, 0) for an attention share. -/
  tilesA : List (Nat × Nat) := []
  tilesB : List (Nat × Nat) := []
  /-- Chain descriptors captured for arrays A and B at the share's start (R89). -/
  chainA : Bytes := []
  chainB : Bytes := []
  /-- Captured function tables by slot (R89). -/
  tables : List (Nat × Bytes) := []
  /-- Steps of the walk that the arrays have read (R67, R78). -/
  pos    : Nat := 0
  deriving DecidableEq, Repr, Inhabited

/-- A tile in the finished-tile queue with its record (R79, Table 4.5): `rows` by `cols` in-extent elements, row-major,
as 32-bit words. -/
structure QTile where
  c        : Nat := 0
  row      : Nat := 0
  col      : Nat := 0
  arrayB   : Bool := false
  int      : Bool := false
  invalid  : Bool := false
  overflow : Bool := false
  retried  : Bool := false
  last     : Bool := false
  rows     : Nat := 0
  cols     : Nat := 0
  elems    : List Nat := []
  chain    : Bytes := []
  tables   : List (Nat × Bytes) := []
  deriving DecidableEq, Repr, Inhabited

/-- What a core holds beside its registers. -/
structure CoreX where
  /-- Shares dealt, in arrival order, and shares committed to the operand streams and not yet started, in order (R189). -/
  ready   : List Share := []
  queued  : List Share := []
  /-- The share in progress. -/
  run     : Option Share := none
  /-- Place in the 16-slot round robin (R76). -/
  slot    : Nat := 0
  /-- Queue last served in the forward and in the backward class. -/
  lastF   : Nat := 7
  lastB   : Nat := 15
  /-- Finished-tile queue, oldest first; at most 16 tiles. -/
  ftq     : List QTile := []
  /-- The tile in progress of array A, of array B has failed once (R82), by a real failure or a forced one. -/
  onceA   : Bool := false
  onceB   : Bool := false
  /-- Chain slots 0 to 15: 640-byte descriptors; table slots 0 to 7: 3,136-byte tables. -/
  chains  : List (Nat × Bytes) := []
  tables  : List (Nat × Bytes) := []
  /-- Loads that take effect after the share in progress (R91, R188): (0 table, 1 chain, 2 ring, slot or class, contents). -/
  loads   : List (Nat × Nat × Bytes) := []
  deriving DecidableEq, Repr, Inhabited

/-! ### Sequence slots and pages (chapter 07) -/

/-- A sequence slot (R123): open, its descriptor unit and global positions. Its LENGTH is in KVP_Qnn_LEN. -/
structure SlotX where
  isOpen : Bool := false
  desc   : Bytes := []
  glist  : List Nat := []
  deriving DecidableEq, Repr, Inhabited

/-- A page on its way (R133, R135): to the Lagoon frame, or back to the stacked frame. -/
structure PageMove where
  slot  : Nat := 0
  page  : Nat := 0
  frame : Nat := 0
  /-- Fetch on demand rather than ahead of need; to be pinned (R135). -/
  demand : Bool := false
  pin    : Bool := false
  /-- Core whose walk asked for it. -/
  core  : Nat := 64
  deriving DecidableEq, Repr, Inhabited

/-- The page manager's own state (R131, R133, R135). -/
structure KvpX where
  slots    : List (Nat × SlotX) := []
  freeS    : List Nat := []
  freeL    : List Nat := []
  handSlot : Nat := 0
  handPage : Nat := 0
  ageing   : List PageMove := []
  fetching : List PageMove := []
  /-- Frames (of the Lagoon pool or not) without a reference that a read translated to them still uses (R131). -/
  limbo    : List (Bool × Nat) := []
  deriving DecidableEq, Repr, Inhabited

/-! ### Shared caches and bank units (chapters 08 and 09) -/

/-- An accumulator region (R154): type, exponent, size, the 64-bit sums that are not 0, and whether it is closing. -/
structure AccRegion where
  int      : Bool := false
  e        : Int := 0
  elements : Nat := 0
  sums     : List (Nat × Nat) := []
  closing  : Bool := false
  /-- 128-byte lines of the window that a poisoned contribution has reached (R146). -/
  bad      : List Nat := []
  deriving DecidableEq, Repr, Inhabited

/-- A range of memory whose contents the spec leaves undefined: addresses lo to hi - 1 read as free values of `tag`. -/
structure UndefRange where
  lo  : Nat
  hi  : Nat
  tag : Nat
  deriving DecidableEq, Repr, Inhabited

/-- The bank units' state beside BNK registers (R170). -/
structure BankX where
  /-- A write of HOLD waits for the running command. -/
  holdPending : Bool := false
  waking      : Bool := false
  /-- Ranges of the running command, as (device address, length), to which accesses are held (R152, R166). -/
  ranges      : List (Nat × Nat) := []
  deriving DecidableEq, Repr, Inhabited

/-! ### Stream engine and DMA (chapter 10) -/

/-- A piece of a stream (R184, R185): the stored tile `row`, `col` of the operand in tensor descriptor `td` of command
`c`. -/
structure Piece where
  c       : Nat := 0
  td      : Nat := 0
  row     : Nat := 0
  col     : Nat := 0
  /-- Its source bytes as (address, length), in fetch order; the spill area once it has been spilled (R195). -/
  ranges  : List (Nat × Nat) := []
  /-- The slot in whose region the source lies (R137). -/
  via     : Option Nat := none
  /-- Bytes granted, and bytes landed. -/
  granted : Nat := 0
  landed  : Nat := 0
  /-- What has landed: a snapshot of the source bytes at the time of the fetch (R185), and its poisoned parts as (offset,
  length). -/
  data    : Bytes := []
  bad     : List (Nat × Nat) := []
  /-- The slot it holds: the stream that owns the slot, and the slot's number (R194). -/
  slot    : Option (Nat × Nat) := none
  /-- The consumer has begun to read it; it has read it for the last time, and the slot is free again. -/
  begun   : Bool := false
  freed   : Bool := false
  /-- Place in the die's spill area that holds it (R195). -/
  spill   : Option Nat := none
  deriving DecidableEq, Repr, Inhabited

/-- A stream's port: ring or resident window (R185, R186, R188) and its pieces, oldest first. -/
structure StreamX where
  base    : Nat := 0
  size    : Nat := 0
  /-- 0 for a resident window. -/
  slots   : Nat := 0
  lend    : Bool := false
  /-- TAIL of the ring (R185). -/
  tail    : Nat := 0
  pieces  : List Piece := []
  /-- First reads of the consumer in the current share (R193). -/
  nReads  : Nat := 0
  deriving DecidableEq, Repr, Inhabited

/-- A transfer in flight with the tag it holds (R192). -/
structure Transfer where
  id     : Nat := 0
  /-- Stream number, or 512 + channel. -/
  owner  : Nat := 0
  addr   : Nat := 0
  len    : Nat := 0
  /-- Stream: command, tensor descriptor, row and column of the piece. -/
  c      : Nat := 0
  td     : Nat := 0
  row    : Nat := 0
  col    : Nat := 0
  /-- Place in the piece or in the copy; repeats that DMA_RETRY gave it at its issue and are left (R198, R204, R376); tag of the
  READ_REQ it waits on. -/
  off    : Nat := 0
  left   : Nat := 0
  req    : Option Nat := none
  deriving DecidableEq, Repr, Inhabited

/-- One half of the stream engine (R192, R195). -/
structure HalfX where
  transfers : List Transfer := []
  nextId    : Nat := 0
  /-- Cycles (core, waiting stream) found at the last test. -/
  cycles    : List (Nat × Nat) := []
  deriving DecidableEq, Repr, Inhabited

/-- Data in a channel's funnel (R201): place in the copy, bytes, and the places of the poisoned ones. -/
structure FunnelPart where
  off  : Nat := 0
  data : Bytes := []
  bad  : List Nat := []
  deriving DecidableEq, Repr, Inhabited

/-- A DMA channel's work in progress (R199 to R204). -/
structure ChanX where
  src    : Nat := 0
  dst    : Nat := 0
  count  : Nat := 0
  barrier : Bool := false
  irq    : Bool := false
  /-- Bytes issued, and bytes that have reached their destination. -/
  issued : Nat := 0
  moved  : Nat := 0
  /-- What has landed and waits for the rest of its 512-byte piece of the destination, by place. -/
  funnel : List FunnelPart := []
  /-- A halt waits for the transfers in flight: (ERR, cause, failing address) (R204). -/
  halting : Option (Nat × Nat × Nat) := none
  /-- The started command it serves. -/
  cmd    : Option Nat := none
  deriving DecidableEq, Repr, Inhabited

/-! ### Stash (chapter 11) -/

/-- States of a stash entry (R211). -/
inductive StashState | free | putting | resident | offloading | offloaded | recompute
  deriving DecidableEq, Repr, Inhabited

structure StashEntry where
  state    : StashState := .free
  rows     : Nat := 0
  cols     : Nat := 0
  fmt      : Nat := 0
  axis0    : Bool := false
  recomp   : Bool := false
  pin      : Bool := false
  compress : Bool := false
  mb       : Nat := 0
  age      : Nat := 0
  /-- Stacked frames and Lagoon frames, by index in their pools, in order. -/
  sframes  : List Nat := []
  lframes  : List Nat := []
  /-- The stored bytes in the Lagoon are compressed blocks (R232). -/
  packed   : Bool := false
  deriving DecidableEq, Repr, Inhabited

/-- One stash manager (R206, R209, R212): free frames of its pools, next put number, PUTs that wait for frames. -/
structure StashDie where
  freeS : List Nat := []
  freeL : List Nat := []
  next  : Nat := 0
  stalled : List Nat := []
  deriving DecidableEq, Repr, Inhabited

/-! ### Compressor and expander (chapter 12) -/

/-- A table (R228): generation, class, code lengths of the alphabet in symbol order. -/
structure CodeTable where
  gen  : Nat := 0
  cls  : Nat := 0
  lens : List Nat := []
  deriving DecidableEq, Repr, Inhabited

/-- A block queued at an expander: header (Table 12.4), payload, and the STASH_GET it belongs to with its block number; on a
link the message it belongs to is the oldest in reception. -/
structure BlockQ where
  hdr     : Nat := 0
  payload : Bytes := []
  c       : Option Nat := none
  num     : Nat := 0
  /-- It has failed once (R235, R236). -/
  once    : Bool := false
  /-- A resend has been asked for and has not arrived. -/
  asked   : Bool := false
  /-- Its payload was poisoned in the Lagoon. -/
  bad     : Bool := false
  deriving DecidableEq, Repr, Inhabited

/-- One compressor and expander pair (R233). -/
structure CompX where
  txGen    : Nat := 0
  slot0    : Option CodeTable := none
  slot1    : Option CodeTable := none
  waiting  : List Bytes := []
  queued   : List BlockQ := []
  rejected : List Nat := []
  /-- Compressed messages in reception order: number at the port, message, its data expanded so far, blocks left (R235). -/
  msgs     : List (Nat × Msg × Bytes × Nat) := []
  /-- STASH_GET whose table image waits (R233). -/
  getc     : List Nat := []
  /-- Bytes sent raw and coded beyond the last whole KiB counted. -/
  rawB     : Nat := 0
  codedB   : Nat := 0
  deriving DecidableEq, Repr, Inhabited

/-! ### Links (chapter 13) -/

/-- What a port holds beside its registers. -/
structure PortX where
  /-- Lanes that locked (R238). -/
  lanes   : BitVec 8 := 0
  /-- Next SEQ to send, and next SEQ expected. -/
  txSeq   : Nat := 0
  rxSeq   : Nat := 0
  /-- The last ACK received. -/
  acked   : Nat := 4095
  /-- A NAK is being sent (R247). -/
  nak     : Bool := false
  /-- Replay buffer: (SEQ, flit), oldest first. -/
  replay  : List (Nat × Bytes) := []
  /-- Flits waiting to be sent: class, header slot, data. -/
  txq     : List (Nat × Bytes × Bytes) := []
  /-- Replays since ACK last advanced (R248); ACK of the NAK that has been answered with a replay (R247). -/
  stuck   : Nat := 0
  naked   : Option Nat := none
  /-- Flits of other classes sent since one of TC3, up to 3, and which of TC0 and TC2 was sent last (Table 13.6). -/
  since3  : Nat := 3
  last02  : Nat := 2
  /-- Flits handed to the port since it trained, for TC0 to TC3: what an operation waits on is those up to its last (R247, R262). -/
  handed  : List Nat := [0, 0, 0, 0]
  /-- Cumulative sent U, freed count seen, own freed count F, far allocation, each for TC0 to TC3. -/
  sentU   : List Nat := [0, 0, 0, 0]
  seenF   : List Nat := [0, 0, 0, 0]
  ownF    : List Nat := [0, 0, 0, 0]
  farAlloc : List Nat := [0, 0, 0, 0]
  /-- Entries of the receive buffer in use, oldest first: class, and number of the message whose taking frees it (R249). -/
  held    : List (Nat × Nat) := []
  /-- Number of the next message to arrive. -/
  nextNo  : Nat := 0
  /-- Per class: headers waiting for their data, with their messages' numbers; bytes of the class stream not yet used. -/
  hdrs    : List (Nat × Nat × Nat) := []
  stream  : List (Nat × Bytes) := []
  /-- Messages complete and not yet taken, oldest first, with their numbers. -/
  inbox   : List (Nat × Msg) := []
  deriving DecidableEq, Repr, Inhabited

/-- A READ_REQ this module has sent (R246, R253). -/
structure ReadOut where
  tag  : Nat := 0
  port : Nat := 0
  len  : Nat := 0
  dst  : Nat := 0
  c    : Option Nat := none
  deriving DecidableEq, Repr, Inhabited

/-- A reduction operation in the admission queue or admitted (R254, R255): the ports and the tokens on each, and its
64-bit sums by element. -/
structure RedOp where
  bucket : Nat := 0
  chunk  : Nat := 0
  c      : Nat := 0
  needs  : List (Nat × Nat) := []
  sums   : List (Nat × Nat) := []
  /-- Ports whose member partial has been folded, with the COUNTs folded. -/
  got    : List (Nat × Nat) := []
  poison : Bool := false
  deriving DecidableEq, Repr, Inhabited

/-! ### Relay engine (chapter 14) -/

/-- A report received and folded (R265). -/
structure Rep where
  dev  : Nat := 0
  dom  : Nat := 0
  exp  : Int := 0
  count : Nat := 0
  mask : Nat := 0
  deriving DecidableEq, Repr, Inhabited

/-- A message sent compressed whose ACCEPT is awaited, with its raw data (R235, R262, R272). -/
structure SentC where
  msg : Msg
  raw : Bytes := []
  /-- Its source address, at whose 4 KiB boundaries it was cut. -/
  src : Nat := 0
  deriving DecidableEq, Repr

/-- A bucket entry (R280): what this module knows of one bucket. -/
structure Bucket where
  num     : Nat := 0
  epoch   : Nat := 0
  /-- The REDUCE that opened it. -/
  c       : Option Nat := none
  reports : List Rep := []
  /-- Own report: none before the sources are read or absent. -/
  own     : Option Rep := none
  /-- Source values, read once (R265): exact values as (mantissa, exponent) by element, of sources 0 and 1. -/
  src0    : List (Int × Int) := []
  src1    : List (Int × Int) := []
  cut     : Bool := false
  sent    : Bool := false
  scale   : Option (Int × Nat) := none
  /-- Backed copies taken: (CI, chunk). -/
  taken   : List (Nat × Nat) := []
  /-- Sums at the owner by element; chunks whose partials are folded (owner) or sent onward. -/
  sums    : List (Nat × Nat) := []
  chunks  : List Nat := []
  /-- CONTRIBs formed and not yet sent; CONTRIBs sent compressed and not yet accepted. -/
  outbox  : List Msg := []
  unacked : List SentC := []
  /-- Ports, and the flits of TC2 handed to each when the bucket's last CONTRIB on it was (R272). -/
  marks   : List (Nat × Nat) := []
  ready   : Bool := false
  /-- Port on which a message for the bucket failed in the expander before its REDUCE opened it (R236). -/
  lost    : Option Nat := none
  poison  : Bool := false
  deriving DecidableEq, Repr, Inhabited

/-- A collective or ring pass in progress (R262 to R264). -/
structure RelayOp where
  c       : Nat := 0
  /-- Stages of an ALL_GATHER whose sends have been formed: tray, rack, machine. -/
  stage   : Nat := 0
  /-- Batons landed and counted, per source rank (or leg). -/
  counted : List (Nat × Nat) := []
  /-- Batons landed out of order: (rank or leg, baton). -/
  early   : List (Nat × Nat) := []
  /-- Batons still to send: (destination domain, device, address, length, index, rank or leg). -/
  toSend  : List (Nat × Nat × Nat × Nat × Nat × Nat) := []
  /-- Grants received from NEXT, and sent to PREV. -/
  granted : List Nat := []
  given   : List Nat := []
  /-- Batons sent compressed whose ACCEPT is awaited. -/
  unacked : List SentC := []
  /-- Ports, and the flits of TC2 handed to each when the operation's last baton on it was (R262). -/
  marks   : List (Nat × Nat) := []
  deriving DecidableEq, Repr, Inhabited

structure RelayX where
  ops      : List RelayOp := []
  buckets  : List Bucket := []
  /-- Completed buckets waiting for application (R271), in bucket order. -/
  reorder  : List Nat := []
  /-- Staging slots in use: slot and bucket, CI, chunk; the flits of TC2 handed to the port when it was sent on, 0 before (R268). -/
  staged   : List (Nat × Nat × Nat × Nat × Nat) := []
  /-- Grants that came before their RING_PASS began: OPTAG and leg (R264). -/
  grants   : List (Nat × Nat) := []
  /-- OPTAGs whose message failed in the expander before their command began, and the port (R236). -/
  lostTags : List (Nat × Nat) := []
  /-- Manager's timers: (bucket, owner domain, owner device). -/
  timers   : List (Nat × Nat × Nat) := []
  /-- Buckets that CLOSED has reached: their later STARTs are ignored. -/
  closedB  : List Nat := []
  /-- STARTs that have come for the present use of a bucket's number: bucket, domain and device of the member (R273). -/
  starts   : List (Nat × Nat × Nat) := []
  /-- The last 256 buckets closed on this module. -/
  past     : List Nat := []
  /-- Holds in force: (origin domain, origin device, number). -/
  holds    : List (Nat × Nat × Nat) := []
  /-- Holds that have been lifted. -/
  lifted   : List (Nat × Nat × Nat) := []
  holdNum  : Nat := 0
  deriving DecidableEq, Repr, Inhabited

/-! ### Keeper (chapter 15) -/

/-- A checkpoint generation (R297): its STEP, and the runs of units by owner at that time: (device, first unit, count). -/
structure CkptGen where
  step : Nat := 0
  runs : List (Nat × Nat × Nat) := []
  deriving DecidableEq, Repr, Inhabited

structure KeeperX where
  /-- PINGs unanswered in a row, by device (R285). -/
  missed    : List (Nat × Nat) := []
  /-- A worker has answered JOINED (R283). -/
  joined    : Bool := false
  /-- The manager's formation is open (R283). -/
  forming   : Bool := false
  /-- The standby holds the manager's role (R300). -/
  tookOver  : Bool := false
  /-- The layout in force: its 64 bytes (R288). -/
  layout    : Bytes := []
  /-- Runs of shard units by owner (R292, R299): (device, first unit, count). -/
  runs      : List (Nat × Nat × Nat) := []
  /-- The two checkpoint generations, and the one committed last (R297). -/
  gens      : List (Nat × CkptGen) := []
  committed : Option Nat := none
  /-- JOB_TAG of the job that the machine's lead manager has handed to this manager, 0 for none (R286). -/
  leadJob   : Nat := 0
  /-- Ports, and the flits of TC0 handed to each when the job-control command in progress had sent its last WRITE (R292, R297, R299). -/
  marks     : List (Nat × Nat) := []
  deriving DecidableEq, Repr, Inhabited

/-! ### Codec (chapter 16) -/

/-- An output of a codec context that CODEC_OUTPUT has still to write (R309). -/
structure CodecOut where
  /-- The command that produced it. -/
  c      : Nat := 0
  /-- The bytes that the standard's process depends on, and the output's place among the pictures it gives. -/
  stream : Bytes := []
  k      : Nat := 0
  /-- Encode: the source pictures, QP, intra, and CAP_MISS (R314). -/
  raw    : Bytes := []
  qp     : Nat := 0
  intra  : Bool := false
  miss   : Bool := false
  deriving DecidableEq, Repr, Inhabited

/-- A codec context (R306). -/
structure CodecX where
  isOpen : Bool := false
  mode   : Nat := 0
  q      : Nat := 0
  /-- Units 0 to 5 of its CDC_OPEN. -/
  units  : Bytes := []
  /-- Number of the next output. -/
  next   : Nat := 0
  /-- Decode: access units since the last random access point. Encode: source pictures, newest last. -/
  hist   : List Bytes := []
  /-- Outputs waiting for CODEC_OUTPUT, in output order. -/
  outs   : List CodecOut := []
  /-- Pictures encoded; size in bits and QP of the last intra and of the last inter picture (R314). -/
  coded  : Nat := 0
  lastI  : Option (Nat × Nat) := none
  lastP  : Option (Nat × Nat) := none
  /-- Bits of the preceding pictures, newest first. -/
  window : List Nat := []
  /-- Bytes of bitstream beyond the last whole KiB counted. -/
  bytes  : Nat := 0
  deriving DecidableEq, Repr, Inhabited

/-! ### Power (chapter 17) -/

structure PowerX where
  /-- Token requests in arrival order (R322). -/
  requests : List (Consumer × Nat) := []
  /-- Stacks whose vertical interface holds its tokens; the other consumers' tokens are in PWR_Inn_CLK. -/
  vert     : List Nat := []
  /-- Domains being woken (R319). -/
  waking   : List Nat := []
  /-- Frequency changes in progress: (island, new frequency). -/
  changing : List (Nat × Nat) := []
  /-- Highest frequency, in units of 100 MHz, that throttling leaves a core island (R325). -/
  throttle : List (Nat × Nat) := []
  /-- Cool readings since a throttled core last stepped. -/
  cool     : List (Nat × Nat) := []
  /-- Consecutive samples below 40.0 V, below 38.0 V, above 52.0 V, and above the ceiling (R317). -/
  under40  : Nat := 0
  under38  : Nat := 0
  over52   : Nat := 0
  overCeil : Nat := 0
  /-- Samples since the forced causes UNDERVOLT and OVERPOWER were last met. -/
  clearV   : Nat := 0
  clearP   : Nat := 0
  /-- Readings since COOLANT was last met. -/
  clearT   : Nat := 0
  /-- Holdfast shut-down has run (Table 17.6, columns after cycle 1,000). -/
  shutDown : Bool := false
  deriving DecidableEq, Repr, Inhabited

/-! ### Naust (chapter 18) -/

/-- A closed metering record (R341). -/
structure MeterRec where
  bootId : Nat := 0
  seq    : Nat := 0
  bytes  : Bytes := []
  signed : Bool := false
  deriving DecidableEq, Repr, Inhabited

structure NaustX where
  /-- Fuses: the two counters (R333), the operator key hashes (R338), the Qorwyn key hash (R331). -/
  keeperCtr : Nat := 0
  ceilCtr   : Nat := 0
  opKeys    : List Bytes := []
  qorwyn    : Bytes := []
  /-- Does each of the two wrapped copies of the identity key in flash pass its tag check (R334)? -/
  idCopies  : List Bool := [true, true]
  /-- SVN, firmware version and measurement of the running image (R331, Table 18.1). -/
  runSvn    : Nat := 0
  fwVersion : Nat := 0
  fwHash    : Bytes := []
  cfgHash   : Bytes := []
  ceilHash  : Bytes := []
  /-- Meter tick now, and START of the open interval (R340). -/
  tick      : Nat := 0
  start     : Nat := 0
  /-- Ticks in Spring, Neap, Slack, Holdfast of the open interval. -/
  states    : List Nat := [0, 0, 0, 0]
  /-- Energy of the open interval in units of 1 mV x 10 mA x 10 us as sampled; the last samples in W. -/
  energy    : Nat := 0
  samples   : List Nat := []
  peakW     : Nat := 0
  minCeil   : Nat := 2800
  /-- Causes that closed, or would have closed, the interval. -/
  causes    : Nat := 0
  seq       : Nat := 0
  /-- SHA-256 of the record signed last in this boot. -/
  prevHash  : Bytes := []
  /-- Records held, oldest first; records saved in flash (R361). -/
  held      : List MeterRec := []
  saved     : List MeterRec := []
  /-- SPDM: the version in use (0 none), and how far the connection is: 1 version, 2 capabilities, 3 algorithms (R336). -/
  spdmVer   : Nat := 0
  spdmStage : Nat := 0
  /-- Messages of the connection so far, for the transcript of signed responses. -/
  transcript : Bytes := []
  deriving DecidableEq, Repr, Inhabited

/-! ### Snapshots (chapter 19) -/

structure Trig where
  num  : Nat := 0
  src  : Nat := 0
  port : Nat := 0
  hops : Nat := 0
  /-- Forwarded when issued (R347). -/
  fwd  : Bool := false
  /-- A Holdfast trigger (R344, R346). -/
  hf   : Bool := false
  /-- The SNAP command that raised it (R342). -/
  cmd  : Option Nat := none
  deriving DecidableEq, Repr, Inhabited

structure SnapX where
  queue   : List Trig := []
  last    : List Nat := []
  /-- Bank images: (bank, registers that differ from reset). -/
  images  : List (Nat × List (Nat × Nat)) := []
  /-- SNAP_OUT is high. -/
  out     : Bool := false
  /-- Meter tick until which SNAP_IN edges are ignored. -/
  holdoff : Nat := 0
  /-- Banks of the triggers that have frozen the engines (R349). -/
  frozen  : List Nat := []
  deriving DecidableEq, Repr, Inhabited

/-! ### Bring-up, host port and side band (chapters 02, 20 and 22) -/

structure BootX where
  qualified : Bool := false
  /-- Supply steps of Table 20.1 that are good. -/
  supplies  : Nat := 0
  gate      : Bool := false
  naust     : Bool := false
  verified  : Bool := false
  released  : Bool := false
  /-- Stacks and channel groups that finished training (bit sets). -/
  trained   : Nat := 0
  groups    : Nat := 0
  /-- LPDDR5X packages whose last report was above their high limit (R159). -/
  hotPkgs   : List Nat := []
  deriving DecidableEq, Repr, Inhabited

structure PcieX where
  d3hot    : Bool := false
  perst    : Bool := true
  training : Bool := false
  /-- SYS_READY is released high. -/
  sysReady : Bool := false
  /-- Errors logged through AER, newest first: bit of the uncorrectable status register. -/
  aer      : List Nat := []
  /-- Words of configuration space that the host has written, by byte offset (R21). -/
  cfg      : List (Nat × Nat) := []
  /-- MSI-X table words that are not their reset value, by byte offset / 4; pending vectors. -/
  msix     : List (Nat × Nat) := []
  pba      : List Nat := []
  /-- DOE response not yet read (R337). -/
  doe      : Option Bytes := none
  deriving DecidableEq, Repr, Inhabited

/-- Instruction of the test access port (R380). -/
inductive TapInstr | bypass | idcode | samplePreload | extest
  deriving DecidableEq, Repr, Inhabited

structure MgmtX where
  /-- Result of the last command: status byte and data (R381). -/
  result : Bytes := []
  /-- Flash: (region, bytes written: (offset, byte)), erased bytes unlisted. -/
  flash  : List (Nat × List (Nat × Byte)) := []
  /-- FLASH_WRITEs held until Keeper verification ends (R362, R382), oldest first: (region, offset, data). -/
  held   : List (Nat × Nat × Bytes) := []
  tap    : TapInstr := .idcode
  cells  : Bytes := []
  deriving DecidableEq, Repr, Inhabited

/-- What the module has put out for others to take. -/
structure OutX where
  /-- MSI-X messages signalled, newest first. -/
  irqs  : List Nat := []
  /-- Messages handed to ports, newest first. -/
  sent  : List (Nat × Msg) := []
  /-- Flits sent on ports, newest first (R243). -/
  flits : List (Nat × Bytes) := []
  /-- Data of the last completed read (host window, register or management read). -/
  rdata : Bytes := []
  /-- The last host access completed as Unsupported Request (R24), or with poisoned data (R146). -/
  ur    : Bool := false
  ep    : Bool := false
  deriving DecidableEq, Repr, Inhabited

/-- What sections 2 to 5 of a suspend image hold (R160), by what the module puts there. The bytes of sections 4 and 5 in memory
are the undefined range `tag`, since the spec gives their layout no form. -/
structure SavedImage where
  tag     : Nat := 0
  /-- CRC-64 of sections 2 to 5: SCRC of the header. -/
  scrc    : Nat := 0
  started : List Started := []
  jobTag  : Nat := 0
  regs    : List (Nat × Nat) := []
  queues  : List (Nat × QueueX) := []
  markers : List (Nat × Nat) := []
  acc     : List (Nat × AccRegion) := []
  cores   : List (Nat × CoreX) := []
  kvp     : KvpX := {}
  streams : List (Nat × StreamX) := []
  stash   : List (Nat × StashEntry) := []
  stashD  : List (Nat × StashDie) := []
  codecs  : List (Nat × CodecX) := []
  deriving DecidableEq, Repr, Inhabited

/-- The module. -/
structure State where
  /-- Registers that differ from their reset value: (offset in the register space, value), offsets rising. -/
  regs    : List (Nat × Nat) := []
  /-- Per block, the 64-bit register last read low and the high half latched (R7). -/
  latches : List (Nat × Nat × Nat) := []
  /-- Memory bytes that are not 0, addresses rising (R140); host memory at its host-window addresses. -/
  mem     : List Host.Cell := []
  poison  : List Nat := []
  undef   : List UndefRange := []
  /-- Markers that are not 0. -/
  markers : List (Nat × Nat) := []
  queues  : List (Nat × QueueX) := []
  started : List Started := []
  nextCmd : Nat := 0
  /-- Remote halts (R29), oldest first: (QFE_RHALT image, manager's ring index). -/
  rhalts  : List (Nat × Nat) := []
  /-- Forwarded entries unfinished: (device, queue, manager's ring index). -/
  fwds    : List (Nat × Nat × Nat) := []
  cores   : List (Nat × CoreX) := []
  /-- Core and array of the injection that is pending (R82). -/
  injects : Option (Nat × Bool) := none
  kvp     : KvpX := {}
  acc     : List (Nat × AccRegion) := []
  /-- Interleave groups an access has reached since reset: 64 x die + group (R142). -/
  touched : List Nat := []
  bank    : BankX := {}
  streams : List (Nat × StreamX) := []
  halves  : List (Nat × HalfX) := []
  chans   : List (Nat × ChanX) := []
  stash   : List (Nat × StashEntry) := []
  stashD  : List (Nat × StashDie) := []
  comps   : List (Nat × CompX) := []
  ports   : List (Nat × PortX) := []
  reads   : List ReadOut := []
  /-- HALT notices that no port could take: none is lost (R29). -/
  notices : List Msg := []
  redWait   : List RedOp := []
  admitted : List RedOp := []
  relay   : RelayX := {}
  keeper  : KeeperX := {}
  /-- Suspend images this module has written (R160). -/
  images  : List SavedImage := []
  codecs  : List (Nat × CodecX) := []
  power   : PowerX := {}
  naust   : NaustX := {}
  snap    : SnapX := {}
  boot    : BootX := {}
  pcie    : PcieX := {}
  mgmt    : MgmtX := {}
  out     : OutX := {}
  /-- The model's own counter that keeps free values apart; no value of it means anything. -/
  freeCtr : Nat := 0
  /-- Commands waiting, first in, first out. -/
  pending : List Instr := []
  deriving DecidableEq, Repr, Inhabited

/-- Why a step stops with a fault. The spec gives the module no machine fault, so no meaning answers with one. -/
inductive Fault
  /-- Raised by nothing: every error of the spec is a next state (R351). Safe. -/
  | none
  deriving DecidableEq, Repr

/-- Why a step refuses a command. -/
inductive Refusal
  /-- Raised by Dispatch alone for a command without a meaning; `mnemonic` is the table's. Safe. -/
  | notModelled (mnemonic : String)
  deriving DecidableEq, Repr

/-- The module right after a module reset with nothing in flash: every register at its reset value, no memory listed,
nothing in progress, no command waiting (R360). -/
def State.reset : State := {}

end Sys2Proof.Machine
end

