-- ==== Sys2Proof/Machine/RegMap.lean ====
section
/-! DEFINITION. The register map (R369, Table 21.1 and the register table of each block's chapter): where each register
lies in the register space, its width, its reset value and the access type of its bits (Table 0.2). Offsets carry the
spec's register names. -/

namespace Sys2Proof.Machine

/-- A row of a register table: `count` registers, `stride` apart from `base`; masks of the bits of each access type. A
bit in no mask is RO, WO or reserved (R4, R5). -/
structure RegDef where
  base   : Nat
  stride : Nat
  count  : Nat
  width  : Nat
  reset  : Nat := 0
  rw     : Nat := 0
  rwl    : Nat := 0
  w1c    : Nat := 0
  w1s    : Nat := 0
  deriving DecidableEq, Repr, Inhabited

namespace R

abbrev QFE_Qn_BASE (i : Nat) : Nat := 0x100000 + 0x100 * i
abbrev QFE_Qn_CBASE (i : Nat) : Nat := 0x100008 + 0x100 * i
abbrev QFE_Qn_SIZE (i : Nat) : Nat := 0x100010 + 0x100 * i
abbrev QFE_Qn_HEAD (i : Nat) : Nat := 0x100014 + 0x100 * i
abbrev QFE_Qn_TAIL (i : Nat) : Nat := 0x100018 + 0x100 * i
abbrev QFE_Qn_WTO (i : Nat) : Nat := 0x10001c + 0x100 * i
abbrev QFE_Qn_CTL (i : Nat) : Nat := 0x100020 + 0x100 * i
abbrev QFE_Qn_STAT (i : Nat) : Nat := 0x100028 + 0x100 * i
abbrev QFE_Qn_HALT (i : Nat) : Nat := 0x100030 + 0x100 * i
abbrev QFE_Qn_HALTS (i : Nat) : Nat := 0x100038 + 0x100 * i
abbrev QFE_JOB : Nat := 0x110000
abbrev QFE_MISUSE : Nat := 0x110008
abbrev QFE_SETWIN : Nat := 0x11000c
abbrev QFE_RHALT : Nat := 0x110010
abbrev QFE_RHALT_ENTRY : Nat := 0x110018
abbrev QFE_RCTL : Nat := 0x11001c
abbrev QFE_RHALTS : Nat := 0x110020
abbrev QFE_MARM (i : Nat) : Nat := 0x120000 + 8 * i
abbrev CORE_ARB : Nat := 0x200000
abbrev CORE_CTL : Nat := 0x200004
abbrev CORE_LOCK : Nat := 0x200008
abbrev CORE_SETWIN : Nat := 0x20000c
abbrev CORE_MISUSE : Nat := 0x200010
abbrev CORE_Cnn_STAT (i : Nat) : Nat := 0x201000 + 0x40 * i
abbrev CORE_Cnn_EXC (i : Nat) : Nat := 0x201008 + 0x40 * i
abbrev CORE_Cnn_EXCN (i : Nat) : Nat := 0x201010 + 0x40 * i
abbrev CORE_Cnn_CKS (i : Nat) : Nat := 0x201014 + 0x40 * i
abbrev CORE_Cnn_ECC (i : Nat) : Nat := 0x201018 + 0x40 * i
abbrev VCH_CTL : Nat := 0x300000
abbrev VCH_SETWIN : Nat := 0x30000c
abbrev VCH_MISUSE : Nat := 0x300010
abbrev VCH_Cnn_STAT (i : Nat) : Nat := 0x301000 + 0x40 * i
abbrev VCH_Cnn_SLOTS (i : Nat) : Nat := 0x301004 + 0x40 * i
abbrev VCH_Cnn_EXC (i : Nat) : Nat := 0x301008 + 0x40 * i
abbrev VCH_Cnn_EMPTY (i : Nat) : Nat := 0x301010 + 0x40 * i
abbrev VCH_Cnn_FULL (i : Nat) : Nat := 0x301014 + 0x40 * i
abbrev ATT_CTL : Nat := 0x400000
abbrev ATT_WTO : Nat := 0x400004
abbrev ATT_SETWIN : Nat := 0x40000c
abbrev ATT_MISUSE : Nat := 0x400010
abbrev ATT_Cnn_STAT (i : Nat) : Nat := 0x401000 + 0x40 * i
abbrev ATT_Cnn_SKIP (i : Nat) : Nat := 0x401004 + 0x40 * i
abbrev ATT_Cnn_EXC (i : Nat) : Nat := 0x401008 + 0x40 * i
abbrev ATT_Cnn_EMPTY (i : Nat) : Nat := 0x401010 + 0x40 * i
abbrev ATT_Cnn_INF (i : Nat) : Nat := 0x401014 + 0x40 * i
abbrev ATT_Cnn_HOLDS (i : Nat) : Nat := 0x401018 + 0x40 * i
abbrev KVP_CTL : Nat := 0x500000
abbrev KVP_SPOOL_BASE : Nat := 0x500008
abbrev KVP_SPOOL_FRAMES : Nat := 0x500010
abbrev KVP_LPOOL_BASE : Nat := 0x500018
abbrev KVP_LPOOL_FRAMES : Nat := 0x500020
abbrev KVP_FT_BASE : Nat := 0x500028
abbrev KVP_WATER : Nat := 0x500030
abbrev KVP_PF : Nat := 0x500038
abbrev KVP_LOCK : Nat := 0x50003c
abbrev KVP_FREE : Nat := 0x500040
abbrev KVP_EVT : Nat := 0x500048
abbrev KVP_SETWIN : Nat := 0x50004c
abbrev KVP_MISUSE : Nat := 0x500050
abbrev KVP_STAT : Nat := 0x500054
abbrev KVP_COW : Nat := 0x500058
abbrev KVP_AGED : Nat := 0x50005c
abbrev KVP_FETCHED : Nat := 0x500060
abbrev KVP_DEMAND : Nat := 0x500064
abbrev KVP_ABANDON : Nat := 0x500068
abbrev KVP_RCSAT : Nat := 0x50006c
abbrev KVP_OPEN : Nat := 0x500070
abbrev KVP_Qnn_LEN (i : Nat) : Nat := 0x501000 + 0x10 * i
abbrev KVP_Qnn_SPAGES (i : Nat) : Nat := 0x501004 + 0x10 * i
abbrev KVP_Qnn_LPAGES (i : Nat) : Nat := 0x501008 + 0x10 * i
abbrev MEM_D0_ILV : Nat := 0x700000
abbrev MEM_D1_ILV : Nat := 0x700008
abbrev MEM_RETRY : Nat := 0x700010
abbrev MEM_THERM : Nat := 0x700014
abbrev MEM_SCRUB : Nat := 0x700018
abbrev MEM_LOCK : Nat := 0x70001c
abbrev MEM_SETWIN : Nat := 0x700020
abbrev MEM_MISUSE : Nat := 0x700024
abbrev MEM_EVT : Nat := 0x700028
abbrev MEM_UNMAPPED : Nat := 0x700030
abbrev MEM_Sn_STAT (i : Nat) : Nat := 0x701000 + 0x40 * i
abbrev MEM_Sn_CECC (i : Nat) : Nat := 0x701004 + 0x40 * i
abbrev MEM_Sn_UECC (i : Nat) : Nat := 0x701008 + 0x40 * i
abbrev MEM_Sn_RETRY (i : Nat) : Nat := 0x70100c + 0x40 * i
abbrev MEM_Sn_RFAIL (i : Nat) : Nat := 0x701010 + 0x40 * i
abbrev MEM_Sn_THRCYC (i : Nat) : Nat := 0x701014 + 0x40 * i
abbrev SHC_POLICY : Nat := 0x600000
abbrev SHC_ACC_LIMIT : Nat := 0x600004
abbrev SHC_LOCK : Nat := 0x600008
abbrev SHC_SETWIN : Nat := 0x60000c
abbrev SHC_MISUSE : Nat := 0x600010
abbrev SHC_ACC_OPEN0 : Nat := 0x600018
abbrev SHC_ACC_OPEN1 : Nat := 0x600020
abbrev SHC_D0_ACCUSED : Nat := 0x600028
abbrev SHC_D1_ACCUSED : Nat := 0x60002c
abbrev SPL_STAT : Nat := 0x900000
abbrev SPL_CECC : Nat := 0x900004
abbrev SPL_UECC : Nat := 0x900008
abbrev SPL_SCRUB : Nat := 0x90000c
abbrev SPL_EVT : Nat := 0x900010
abbrev SPL_SETWIN : Nat := 0x900014
abbrev SPL_MISUSE : Nat := 0x900018
abbrev BNK_CTL : Nat := 0x800000
abbrev BNK_SHARE : Nat := 0x800004
abbrev BNK_LOCK : Nat := 0x800008
abbrev BNK_SETWIN : Nat := 0x80000c
abbrev BNK_MISUSE : Nat := 0x800010
abbrev BNK_STAT : Nat := 0x800014
abbrev BNK_EVT : Nat := 0x800018
abbrev BNK_FAIL : Nat := 0x800020
abbrev BNK_CMDS : Nat := 0x800028
abbrev BNK_COPIES : Nat := 0x80002c
abbrev BNK_LRETRY : Nat := 0x800030
abbrev BNK_Sn_BUSY (i : Nat) : Nat := 0x801000 + 0x40 * i
abbrev STR_CTL : Nat := 0xa00000
abbrev STR_TAGCAP : Nat := 0xa00004
abbrev STR_DMA_SLACK : Nat := 0xa00008
abbrev STR_LOCK : Nat := 0xa0000c
abbrev STR_SETWIN : Nat := 0xa00010
abbrev STR_MISUSE : Nat := 0xa00014
abbrev STR_EVT : Nat := 0xa00018
abbrev STR_D0_SPILL_BASE : Nat := 0xa00020
abbrev STR_D1_SPILL_BASE : Nat := 0xa00028
abbrev STR_SPILL_SIZE : Nat := 0xa00030
abbrev STR_D0_TAGS : Nat := 0xa00040
abbrev STR_D1_TAGS : Nat := 0xa00044
abbrev STR_DLK : Nat := 0xa00048
abbrev STR_SPILLED : Nat := 0xa0004c
abbrev STR_Snnn_STAT (i : Nat) : Nat := 0xa01000 + 0x10 * i
abbrev STR_Snnn_DRY (i : Nat) : Nat := 0xa01004 + 0x10 * i
abbrev STR_Snnn_TAGS (i : Nat) : Nat := 0xa01008 + 0x10 * i
abbrev DMA_RETRY : Nat := 0xb00000
abbrev DMA_LOCK : Nat := 0xb00004
abbrev DMA_SETWIN : Nat := 0xb00008
abbrev DMA_MISUSE : Nat := 0xb0000c
abbrev DMA_EVT : Nat := 0xb00010
abbrev DMA_Dnn_SRC (i : Nat) : Nat := 0xb01000 + 0x40 * i
abbrev DMA_Dnn_DST (i : Nat) : Nat := 0xb01008 + 0x40 * i
abbrev DMA_Dnn_COUNT (i : Nat) : Nat := 0xb01010 + 0x40 * i
abbrev DMA_Dnn_CTL (i : Nat) : Nat := 0xb01014 + 0x40 * i
abbrev DMA_Dnn_STAT (i : Nat) : Nat := 0xb01018 + 0x40 * i
abbrev DMA_Dnn_RESIDUE (i : Nat) : Nat := 0xb0101c + 0x40 * i
abbrev DMA_Dnn_RETRIES (i : Nat) : Nat := 0xb01020 + 0x40 * i
abbrev DMA_Dnn_FAILADDR (i : Nat) : Nat := 0xb01028 + 0x40 * i
abbrev STS_CTL : Nat := 0xc00000
abbrev STS_SNAP : Nat := 0xc00004
abbrev STS_WATER : Nat := 0xc00008
abbrev STS_LOCK : Nat := 0xc0000c
abbrev STS_SETWIN : Nat := 0xc00010
abbrev STS_MISUSE : Nat := 0xc00014
abbrev STS_EVT : Nat := 0xc00018
abbrev STS_Dd_SBASE (i : Nat) : Nat := 0xc01000 + 0x40 * i
abbrev STS_Dd_SFRAMES (i : Nat) : Nat := 0xc01008 + 0x40 * i
abbrev STS_Dd_LBASE (i : Nat) : Nat := 0xc01010 + 0x40 * i
abbrev STS_Dd_LFRAMES (i : Nat) : Nat := 0xc01018 + 0x40 * i
abbrev STS_Dd_FREE (i : Nat) : Nat := 0xc0101c + 0x40 * i
abbrev STS_Dd_LFREE (i : Nat) : Nat := 0xc01020 + 0x40 * i
abbrev STS_Dd_OFFLOADS (i : Nat) : Nat := 0xc01024 + 0x40 * i
abbrev STS_Dd_RECOMP (i : Nat) : Nat := 0xc01028 + 0x40 * i
abbrev STS_Dd_STALLCYC (i : Nat) : Nat := 0xc0102c + 0x40 * i
abbrev STS_Dd_ENTRIES (i : Nat) : Nat := 0xc01030 + 0x40 * i
abbrev CMP_CTL : Nat := 0xd00000
abbrev CMP_SNAP : Nat := 0xd00004
abbrev CMP_SAMPLE : Nat := 0xd00008
abbrev CMP_GENTO : Nat := 0xd0000c
abbrev CMP_LOCK : Nat := 0xd00010
abbrev CMP_SETWIN : Nat := 0xd00014
abbrev CMP_MISUSE : Nat := 0xd00018
abbrev CMP_EVT : Nat := 0xd0001c
abbrev CMP_Pnn_SLOTS (i : Nat) : Nat := 0xd01000 + 0x40 * i
abbrev CMP_Pnn_STAT (i : Nat) : Nat := 0xd01004 + 0x40 * i
abbrev CMP_Pnn_RAW (i : Nat) : Nat := 0xd01008 + 0x40 * i
abbrev CMP_Pnn_CODED (i : Nat) : Nat := 0xd0100c + 0x40 * i
abbrev CMP_Pnn_STORED (i : Nat) : Nat := 0xd01010 + 0x40 * i
abbrev CMP_Pnn_TABLES (i : Nat) : Nat := 0xd01014 + 0x40 * i
abbrev CMP_Pnn_MISMATCH (i : Nat) : Nat := 0xd01018 + 0x40 * i
abbrev CMP_Pnn_FAIL (i : Nat) : Nat := 0xd0101c + 0x40 * i
abbrev CMP_Pnn_GENSTALL (i : Nat) : Nat := 0xd01020 + 0x40 * i
abbrev LNK_PORT_EN : Nat := 0xe00000
abbrev LNK_CREDIT : Nat := 0xe00008
abbrev LNK_RETRY : Nat := 0xe00010
abbrev LNK_ACKTO : Nat := 0xe00014
abbrev LNK_TRAIN_TO : Nat := 0xe00018
abbrev LNK_LOCK : Nat := 0xe0001c
abbrev LNK_SETWIN : Nat := 0xe00020
abbrev LNK_MISUSE : Nat := 0xe00024
abbrev LNK_EVT : Nat := 0xe00028
abbrev LNK_SNAP : Nat := 0xe0002c
abbrev LNK_RBQ : Nat := 0xe00030
abbrev LNK_RETRAIN : Nat := 0xe00034
abbrev LNK_Lnn_CFG (i : Nat) : Nat := 0xe01000 + 0x40 * i
abbrev LNK_Lnn_STAT (i : Nat) : Nat := 0xe01004 + 0x40 * i
abbrev LNK_Lnn_REPLAY (i : Nat) : Nat := 0xe01008 + 0x40 * i
abbrev LNK_Lnn_CRC (i : Nat) : Nat := 0xe0100c + 0x40 * i
abbrev LNK_Lnn_FECCOR (i : Nat) : Nat := 0xe01010 + 0x40 * i
abbrev LNK_Lnn_FECUNC (i : Nat) : Nat := 0xe01014 + 0x40 * i
abbrev LNK_Lnn_RETRAINS (i : Nat) : Nat := 0xe01018 + 0x40 * i
abbrev LNK_Lnn_PROTO (i : Nat) : Nat := 0xe0101c + 0x40 * i
abbrev LNK_Lnn_TXFLITS (i : Nat) : Nat := 0xe01020 + 0x40 * i
abbrev LNK_Lnn_CREDSTALL (i : Nat) : Nat := 0xe01024 + 0x40 * i
abbrev LNK_Lnn_RBFREE (i : Nat) : Nat := 0xe01028 + 0x40 * i
abbrev RLY_CTL : Nat := 0xf00000
abbrev RLY_DEADLINE : Nat := 0xf00004
abbrev RLY_WTO : Nat := 0xf00008
abbrev RLY_LOCK : Nat := 0xf0000c
abbrev RLY_SETWIN : Nat := 0xf00010
abbrev RLY_MISUSE : Nat := 0xf00014
abbrev RLY_EVT : Nat := 0xf00018
abbrev RLY_EPOCH : Nat := 0xf0001c
abbrev RLY_STAGE_BASE : Nat := 0xf00020
abbrev RLY_OPEN : Nat := 0xf00028
abbrev RLY_LATE : Nat := 0xf0002c
abbrev RLY_DUP : Nat := 0xf00030
abbrev RLY_STALE : Nat := 0xf00034
abbrev RLY_CUTS : Nat := 0xf00038
abbrev RLY_HOLDS : Nat := 0xf0003c
abbrev RLY_APPLIED : Nat := 0xf00040
abbrev RLY_BATONS_TX : Nat := 0xf00044
abbrev RLY_BATONS_RX : Nat := 0xf00048
abbrev KPR_CFG : Nat := 0x1100000
abbrev KPR_EXPECT : Nat := 0x1100008
abbrev KPR_PRESENT : Nat := 0x1100010
abbrev KPR_FAILED : Nat := 0x1100018
abbrev KPR_MACHINE : Nat := 0x1100020
abbrev KPR_STAT : Nat := 0x1100024
abbrev KPR_CTL : Nat := 0x1100028
abbrev KPR_FORM_TO : Nat := 0x110002c
abbrev KPR_HB : Nat := 0x1100030
abbrev KPR_SUSP_TO : Nat := 0x1100034
abbrev KPR_LOCK : Nat := 0x1100038
abbrev KPR_SETWIN : Nat := 0x110003c
abbrev KPR_MISUSE : Nat := 0x1100040
abbrev KPR_EVT : Nat := 0x1100044
abbrev KPR_CKPT_BASE : Nat := 0x1100048
abbrev KPR_CKPT_SIZE : Nat := 0x1100050
abbrev KPR_CKPT_STEP : Nat := 0x1100054
abbrev KPR_MREC_BASE : Nat := 0x1100058
abbrev KPR_MREC_SLOTS : Nat := 0x1100060
abbrev KPR_MREC_HEAD : Nat := 0x1100064
abbrev KPR_MREC_TAIL : Nat := 0x1100068
abbrev KPR_IDLE (i : Nat) : Nat := 0x1100100 + 8 * i
abbrev KPR_BUSY : Nat := 0x1100180
abbrev CDC_CTL : Nat := 0x1000000
abbrev CDC_LOCK : Nat := 0x1000004
abbrev CDC_SETWIN : Nat := 0x1000008
abbrev CDC_MISUSE : Nat := 0x100000c
abbrev CDC_EVT : Nat := 0x1000010
abbrev CDC_LOAD : Nat := 0x1000014
abbrev CDC_Vnn_STAT (i : Nat) : Nat := 0x1001000 + 0x40 * i
abbrev CDC_Vnn_NEED (i : Nat) : Nat := 0x1001004 + 0x40 * i
abbrev CDC_Vnn_OUT (i : Nat) : Nat := 0x1001008 + 0x40 * i
abbrev CDC_Vnn_BITS (i : Nat) : Nat := 0x100100c + 0x40 * i
abbrev CDC_Vnn_CAPMISS (i : Nat) : Nat := 0x1001010 + 0x40 * i
abbrev CDC_Vnn_ERR (i : Nat) : Nat := 0x1001014 + 0x40 * i
abbrev PWR_STAT : Nat := 0x1300000
abbrev PWR_CTL : Nat := 0x1300004
abbrev PWR_LOCK : Nat := 0x1300008
abbrev PWR_SETWIN : Nat := 0x130000c
abbrev PWR_MISUSE : Nat := 0x1300010
abbrev PWR_EVT : Nat := 0x1300014
abbrev PWR_HF_CAUSE : Nat := 0x1300018
abbrev PWR_TOK : Nat := 0x1300020
abbrev PWR_INPUT : Nat := 0x1300028
abbrev PWR_THERM : Nat := 0x1300030
abbrev PWR_HOLD_TO : Nat := 0x1300034
abbrev PWR_TEMP : Nat := 0x1300038
abbrev PWR_WAITCYC : Nat := 0x130003c
abbrev PWR_HOLDS : Nat := 0x1300040
abbrev PWR_CLAMPS : Nat := 0x1300044
abbrev PWR_DOM (i : Nat) : Nat := 0x1300048 + 4 * i
abbrev PWR_CEIL_W : Nat := 0x1300080
abbrev PWR_CEIL_CLK : Nat := 0x1300084
abbrev PWR_CEIL_THERM : Nat := 0x1300088
abbrev PWR_CEIL_PF : Nat := 0x130008c
abbrev PWR_CEIL_STS : Nat := 0x1300090
abbrev PWR_CEIL_DL : Nat := 0x1300094
abbrev NST_STAT : Nat := 0x1200000
abbrev NST_CTL : Nat := 0x1200004
abbrev NST_CTR : Nat := 0x1200008
abbrev NST_SETWIN : Nat := 0x120000c
abbrev NST_MISUSE : Nat := 0x1200010
abbrev NST_EVT : Nat := 0x1200014
abbrev NST_CEIL_REJ : Nat := 0x1200018
abbrev NST_MBUF : Nat := 0x120001c
abbrev NST_SERIAL : Nat := 0x1200020
abbrev NST_MACK : Nat := 0x1200028
abbrev NST_BOOTID (i : Nat) : Nat := 0x1200030 + 4 * i
abbrev NST_FWHASH (i : Nat) : Nat := 0x1200040 + 4 * i
abbrev SNP_CTL : Nat := 0x1400000
abbrev SNP_TRIG : Nat := 0x1400004
abbrev SNP_PIN_NUM : Nat := 0x1400008
abbrev SNP_FWD : Nat := 0x140000c
abbrev SNP_FULL : Nat := 0x1400010
abbrev SNP_DROP : Nat := 0x1400014
abbrev SNP_DUP : Nat := 0x1400018
abbrev SNP_LASTDROP : Nat := 0x140001c
abbrev SNP_SEQ : Nat := 0x1400020
abbrev SNP_PIN_HOLDOFF : Nat := 0x1400024
abbrev SNP_LOCK : Nat := 0x1400028
abbrev SNP_SETWIN : Nat := 0x140002c
abbrev SNP_MISUSE : Nat := 0x1400030
abbrev SNP_Bb_NUM (i : Nat) : Nat := 0x1400040 + 0x10 * i
abbrev SNP_Bb_INFO (i : Nat) : Nat := 0x1400044 + 0x10 * i
abbrev SNP_Bb_TICK (i : Nat) : Nat := 0x1400048 + 0x10 * i
abbrev ERR_SNAP : Nat := 0x1800000
abbrev ERR_EVT : Nat := 0x1800004
abbrev ERR_LOCK : Nat := 0x1800008
abbrev ERR_SETWIN : Nat := 0x180000c
abbrev ERR_MISUSE : Nat := 0x1800010
abbrev ERR_LOCKED_WRITES : Nat := 0x1800014
abbrev ERR_CNT (i : Nat) : Nat := 0x1800020 + 4 * i
abbrev ERR_LOG_HEAD : Nat := 0x1800040
abbrev ERR_FATAL : Nat := 0x1800048
abbrev ERR_LOG (i : Nat) : Nat := 0x1800100 + 8 * i
abbrev HIF_IDENT : Nat := 0
abbrev HIF_DIESTEP : Nat := 4
abbrev HIF_LINKSTAT : Nat := 8
abbrev HIF_WIN_BASE : Nat := 0x10
abbrev HIF_WIN_STAT : Nat := 0x18
abbrev HIF_SETWIN : Nat := 0x20
abbrev HIF_MISUSE : Nat := 0x24
abbrev HIF_EVT : Nat := 0x28
abbrev HIF_BOOT : Nat := 0x40
abbrev PWR_Inn_CLK (i : Nat) : Nat := 0x1301000 + 4 * i

end R

/-- Registers of HIF. -/
def regsHIF : List RegDef := [
  { base := 0, stride := 0, count := 1, width := 32, reset := 0xf510020 },
  { base := 4, stride := 0, count := 1, width := 32, reset := 0x202020 },
  { base := 8, stride := 0, count := 1, width := 32 },
  { base := 0x10, stride := 0, count := 1, width := 64, rw := 0xffffc0000000 },
  { base := 0x18, stride := 0, count := 1, width := 32, reset := 0x241 },
  { base := 0x20, stride := 0, count := 1, width := 32, rw := 0xffff },
  { base := 0x24, stride := 0, count := 1, width := 32, rw := 0xffff },
  { base := 0x28, stride := 0, count := 1, width := 32, w1c := 3 },
  { base := 0x40, stride := 0, count := 1, width := 32 }]

/-- Registers of QFE. -/
def regsQFE : List RegDef := [
  { base := 0x100000, stride := 0x100, count := 45, width := 64, rw := 0xffffffffffff },
  { base := 0x100008, stride := 0x100, count := 45, width := 64, rw := 0xffffffffffff },
  { base := 0x100010, stride := 0x100, count := 45, width := 32, reset := 4, rw := 0x1f },
  { base := 0x100014, stride := 0x100, count := 45, width := 32 },
  { base := 0x100018, stride := 0x100, count := 45, width := 32 },
  { base := 0x10001c, stride := 0x100, count := 45, width := 32, rw := 0xffffffff },
  { base := 0x100020, stride := 0x100, count := 45, width := 32, reset := 0x100, rw := 0x101 },
  { base := 0x100028, stride := 0x100, count := 45, width := 32, w1c := 0xf00 },
  { base := 0x100030, stride := 0x100, count := 45, width := 64 },
  { base := 0x100038, stride := 0x100, count := 45, width := 32 },
  { base := 0x110000, stride := 0, count := 1, width := 32 },
  { base := 0x110008, stride := 0, count := 1, width := 32, rw := 0xffff },
  { base := 0x11000c, stride := 0, count := 1, width := 32, rw := 0xffff },
  { base := 0x110010, stride := 0, count := 1, width := 64 },
  { base := 0x110018, stride := 0, count := 1, width := 32 },
  { base := 0x11001c, stride := 0, count := 1, width := 32 },
  { base := 0x110020, stride := 0, count := 1, width := 32 },
  { base := 0x120000, stride := 8, count := 1792, width := 64, rw := 0x8000ffffffff0fff }]

/-- Registers of CORE. -/
def regsCORE : List RegDef := [
  { base := 0x200000, stride := 0, count := 1, width := 32, reset := 8, rwl := 0x1f },
  { base := 0x200004, stride := 0, count := 1, width := 32, rw := 0x7f03 },
  { base := 0x200008, stride := 0, count := 1, width := 32, w1s := 1 },
  { base := 0x20000c, stride := 0, count := 1, width := 32, rw := 0xffff },
  { base := 0x200010, stride := 0, count := 1, width := 32, rw := 0xffff },
  { base := 0x201000, stride := 0x40, count := 64, width := 32 },
  { base := 0x201008, stride := 0x40, count := 64, width := 64, w1c := 0x8000000000000000 },
  { base := 0x201010, stride := 0x40, count := 64, width := 32, rw := 0xffff },
  { base := 0x201014, stride := 0x40, count := 64, width := 32 },
  { base := 0x201018, stride := 0x40, count := 64, width := 32 }]

/-- Registers of VCH. -/
def regsVCH : List RegDef := [
  { base := 0x300000, stride := 0, count := 1, width := 32, rw := 3 },
  { base := 0x30000c, stride := 0, count := 1, width := 32, rw := 0xffff },
  { base := 0x300010, stride := 0, count := 1, width := 32, rw := 0xffff },
  { base := 0x301000, stride := 0x40, count := 64, width := 32 },
  { base := 0x301004, stride := 0x40, count := 64, width := 32 },
  { base := 0x301008, stride := 0x40, count := 64, width := 64, w1c := 0x8000000000000000 },
  { base := 0x301010, stride := 0x40, count := 64, width := 32, rw := 0xffff },
  { base := 0x301014, stride := 0x40, count := 64, width := 32 }]

/-- Registers of ATT. -/
def regsATT : List RegDef := [
  { base := 0x400000, stride := 0, count := 1, width := 32, rw := 3 },
  { base := 0x400004, stride := 0, count := 1, width := 32, rw := 0xffffffff },
  { base := 0x40000c, stride := 0, count := 1, width := 32, rw := 0xffff },
  { base := 0x400010, stride := 0, count := 1, width := 32, rw := 0xffff },
  { base := 0x401000, stride := 0x40, count := 64, width := 32 },
  { base := 0x401004, stride := 0x40, count := 64, width := 32 },
  { base := 0x401008, stride := 0x40, count := 64, width := 64, w1c := 0x8000000000000000 },
  { base := 0x401010, stride := 0x40, count := 64, width := 32, rw := 0xffff },
  { base := 0x401014, stride := 0x40, count := 64, width := 32, rw := 0xffff },
  { base := 0x401018, stride := 0x40, count := 64, width := 32 }]

/-- Registers of KVP. -/
def regsKVP : List RegDef := [
  { base := 0x500000, stride := 0, count := 1, width := 32, reset := 2, rwl := 7 },
  { base := 0x500008, stride := 0, count := 1, width := 64, rwl := 0xffffffff0000 },
  { base := 0x500010, stride := 0, count := 1, width := 32, rwl := 0xffffff },
  { base := 0x500018, stride := 0, count := 1, width := 64, rwl := 0xffffffff0000 },
  { base := 0x500020, stride := 0, count := 1, width := 32, rwl := 0x1ffffff },
  { base := 0x500028, stride := 0, count := 1, width := 64, rwl := 0xfffffffff000 },
  { base := 0x500030, stride := 0, count := 1, width := 64, reset := 0x100000000400, rw := 0xffffff00ffffff },
  { base := 0x500038, stride := 0, count := 1, width := 32, reset := 0x20, rw := 0xff },
  { base := 0x50003c, stride := 0, count := 1, width := 32, w1s := 1 },
  { base := 0x500040, stride := 0, count := 1, width := 64 },
  { base := 0x500048, stride := 0, count := 1, width := 32, w1c := 0xf },
  { base := 0x50004c, stride := 0, count := 1, width := 32, rw := 0xffff },
  { base := 0x500050, stride := 0, count := 1, width := 32, rw := 0xffff },
  { base := 0x500054, stride := 0, count := 1, width := 32 },
  { base := 0x500058, stride := 0, count := 1, width := 32 },
  { base := 0x50005c, stride := 0, count := 1, width := 32 },
  { base := 0x500060, stride := 0, count := 1, width := 32 },
  { base := 0x500064, stride := 0, count := 1, width := 32 },
  { base := 0x500068, stride := 0, count := 1, width := 32 },
  { base := 0x50006c, stride := 0, count := 1, width := 32 },
  { base := 0x500070, stride := 0, count := 1, width := 64 },
  { base := 0x501000, stride := 0x10, count := 64, width := 32 },
  { base := 0x501004, stride := 0x10, count := 64, width := 32 },
  { base := 0x501008, stride := 0x10, count := 64, width := 32 }]

/-- Registers of SHC. -/
def regsSHC : List RegDef := [
  { base := 0x600000, stride := 0, count := 1, width := 32, reset := 0x21, rw := 0x3f },
  { base := 0x600004, stride := 0, count := 1, width := 32, reset := 0x20, rwl := 0x7f },
  { base := 0x600008, stride := 0, count := 1, width := 32, w1s := 1 },
  { base := 0x60000c, stride := 0, count := 1, width := 32, rw := 0xffff },
  { base := 0x600010, stride := 0, count := 1, width := 32, rw := 0xffff },
  { base := 0x600018, stride := 0, count := 1, width := 64 },
  { base := 0x600020, stride := 0, count := 1, width := 64 },
  { base := 0x600028, stride := 0, count := 1, width := 32 },
  { base := 0x60002c, stride := 0, count := 1, width := 32 }]

/-- Registers of MEM. -/
def regsMEM : List RegDef := [
  { base := 0x700000, stride := 0, count := 1, width := 64, rwl := 0xffffffffffffffff },
  { base := 0x700008, stride := 0, count := 1, width := 64, rwl := 0xffffffffffffffff },
  { base := 0x700010, stride := 0, count := 1, width := 32, reset := 4, rwl := 0xf },
  { base := 0x700014, stride := 0, count := 1, width := 32, reset := 0x3640355, rwl := 0xfffffff },
  { base := 0x700018, stride := 0, count := 1, width := 32, reset := 0x18, rw := 0xffff },
  { base := 0x70001c, stride := 0, count := 1, width := 32, w1s := 1 },
  { base := 0x700020, stride := 0, count := 1, width := 32, rw := 0xffff },
  { base := 0x700024, stride := 0, count := 1, width := 32, rw := 0xffff },
  { base := 0x700028, stride := 0, count := 1, width := 32, w1c := 0xf },
  { base := 0x700030, stride := 0, count := 1, width := 64 },
  { base := 0x701000, stride := 0x40, count := 8, width := 32 },
  { base := 0x701004, stride := 0x40, count := 8, width := 32 },
  { base := 0x701008, stride := 0x40, count := 8, width := 32 },
  { base := 0x70100c, stride := 0x40, count := 8, width := 32 },
  { base := 0x701010, stride := 0x40, count := 8, width := 32 },
  { base := 0x701014, stride := 0x40, count := 8, width := 32 }]

/-- Registers of BNK. -/
def regsBNK : List RegDef := [
  { base := 0x800000, stride := 0, count := 1, width := 32, reset := 1, rw := 3 },
  { base := 0x800004, stride := 0, count := 1, width := 32, reset := 4, rwl := 0xf },
  { base := 0x800008, stride := 0, count := 1, width := 32, w1s := 1 },
  { base := 0x80000c, stride := 0, count := 1, width := 32, rw := 0xffff },
  { base := 0x800010, stride := 0, count := 1, width := 32, rw := 0xffff },
  { base := 0x800014, stride := 0, count := 1, width := 32, reset := 1 },
  { base := 0x800018, stride := 0, count := 1, width := 32, w1c := 7 },
  { base := 0x800020, stride := 0, count := 1, width := 64, w1c := 0x8000000000000000 },
  { base := 0x800028, stride := 0, count := 1, width := 32 },
  { base := 0x80002c, stride := 0, count := 1, width := 32 },
  { base := 0x800030, stride := 0, count := 1, width := 32 },
  { base := 0x801000, stride := 0x40, count := 8, width := 32 }]

/-- Registers of SPL. -/
def regsSPL : List RegDef := [
  { base := 0x900000, stride := 0, count := 1, width := 32 },
  { base := 0x900004, stride := 0, count := 1, width := 32 },
  { base := 0x900008, stride := 0, count := 1, width := 32 },
  { base := 0x90000c, stride := 0, count := 1, width := 32, reset := 0x18, rw := 0xffff },
  { base := 0x900010, stride := 0, count := 1, width := 32, w1c := 3 },
  { base := 0x900014, stride := 0, count := 1, width := 32, rw := 0xffff },
  { base := 0x900018, stride := 0, count := 1, width := 32, rw := 0xffff }]

/-- Registers of STR. -/
def regsSTR : List RegDef := [
  { base := 0xa00000, stride := 0, count := 1, width := 32, reset := 0x8004, rw := 0x10000, rwl := 0xf11f },
  { base := 0xa00004, stride := 0, count := 1, width := 32, reset := 0x2000100, rwl := 0xfff0fff },
  { base := 0xa00008, stride := 0, count := 1, width := 32, reset := 0x2000, rw := 0xffffff },
  { base := 0xa0000c, stride := 0, count := 1, width := 32, w1s := 1 },
  { base := 0xa00010, stride := 0, count := 1, width := 32, rw := 0xffff },
  { base := 0xa00014, stride := 0, count := 1, width := 32, rw := 0xffff },
  { base := 0xa00018, stride := 0, count := 1, width := 32, w1c := 3 },
  { base := 0xa00020, stride := 0, count := 1, width := 64, rwl := 0xffffffff0000 },
  { base := 0xa00028, stride := 0, count := 1, width := 64, rwl := 0xffffffff0000 },
  { base := 0xa00030, stride := 0, count := 1, width := 32, rwl := 0xffff },
  { base := 0xa00040, stride := 0, count := 1, width := 32, reset := 0x800 },
  { base := 0xa00044, stride := 0, count := 1, width := 32, reset := 0x800 },
  { base := 0xa00048, stride := 0, count := 1, width := 32 },
  { base := 0xa0004c, stride := 0, count := 1, width := 32 },
  { base := 0xa01000, stride := 0x10, count := 512, width := 32 },
  { base := 0xa01004, stride := 0x10, count := 512, width := 32 },
  { base := 0xa01008, stride := 0x10, count := 512, width := 32 }]

/-- Registers of DMA. -/
def regsDMA : List RegDef := [
  { base := 0xb00000, stride := 0, count := 1, width := 32, reset := 3, rwl := 0xf },
  { base := 0xb00004, stride := 0, count := 1, width := 32, w1s := 1 },
  { base := 0xb00008, stride := 0, count := 1, width := 32, rw := 0xffff },
  { base := 0xb0000c, stride := 0, count := 1, width := 32, rw := 0xffff },
  { base := 0xb00010, stride := 0, count := 1, width := 32, w1c := 0xffffffff },
  { base := 0xb01000, stride := 0x40, count := 32, width := 64, rw := 0xffffffffffff },
  { base := 0xb01008, stride := 0x40, count := 32, width := 64, rw := 0xffffffffffff },
  { base := 0xb01010, stride := 0x40, count := 32, width := 32, rw := 0xffffffff },
  { base := 0xb01014, stride := 0x40, count := 32, width := 32, rw := 0xc, w1s := 1 },
  { base := 0xb01018, stride := 0x40, count := 32, width := 32, w1c := 0x10000 },
  { base := 0xb0101c, stride := 0x40, count := 32, width := 32 },
  { base := 0xb01020, stride := 0x40, count := 32, width := 32 },
  { base := 0xb01028, stride := 0x40, count := 32, width := 64 }]

/-- Registers of STS. -/
def regsSTS : List RegDef := [
  { base := 0xc00000, stride := 0, count := 1, width := 32, reset := 4, rwl := 7 },
  { base := 0xc00004, stride := 0, count := 1, width := 32, rw := 3 },
  { base := 0xc00008, stride := 0, count := 1, width := 32, reset := 0x4000100, rw := 0xffffffff },
  { base := 0xc0000c, stride := 0, count := 1, width := 32, w1s := 1 },
  { base := 0xc00010, stride := 0, count := 1, width := 32, rw := 0xffff },
  { base := 0xc00014, stride := 0, count := 1, width := 32, rw := 0xffff },
  { base := 0xc00018, stride := 0, count := 1, width := 32, w1c := 0xf },
  { base := 0xc01000, stride := 0x40, count := 2, width := 64, rwl := 0xffffffff0000 },
  { base := 0xc01008, stride := 0x40, count := 2, width := 32, rwl := 0xffffff },
  { base := 0xc01010, stride := 0x40, count := 2, width := 64, rwl := 0xffffffff0000 },
  { base := 0xc01018, stride := 0x40, count := 2, width := 32, rwl := 0x1ffffff },
  { base := 0xc0101c, stride := 0x40, count := 2, width := 32 },
  { base := 0xc01020, stride := 0x40, count := 2, width := 32 },
  { base := 0xc01024, stride := 0x40, count := 2, width := 32 },
  { base := 0xc01028, stride := 0x40, count := 2, width := 32 },
  { base := 0xc0102c, stride := 0x40, count := 2, width := 32 },
  { base := 0xc01030, stride := 0x40, count := 2, width := 32 }]

/-- Registers of CMP. -/
def regsCMP : List RegDef := [
  { base := 0xd00000, stride := 0, count := 1, width := 32, reset := 3, rwl := 3 },
  { base := 0xd00004, stride := 0, count := 1, width := 32, rw := 3 },
  { base := 0xd00008, stride := 0, count := 1, width := 32, reset := 0x400, rwl := 0xfff },
  { base := 0xd0000c, stride := 0, count := 1, width := 32, reset := 0x10000, rw := 0xffffff },
  { base := 0xd00010, stride := 0, count := 1, width := 32, w1s := 1 },
  { base := 0xd00014, stride := 0, count := 1, width := 32, rw := 0xffff },
  { base := 0xd00018, stride := 0, count := 1, width := 32, rw := 0xffff },
  { base := 0xd0001c, stride := 0, count := 1, width := 32, w1c := 0xf },
  { base := 0xd01000, stride := 0x40, count := 25, width := 32 },
  { base := 0xd01004, stride := 0x40, count := 25, width := 32 },
  { base := 0xd01008, stride := 0x40, count := 25, width := 32 },
  { base := 0xd0100c, stride := 0x40, count := 25, width := 32 },
  { base := 0xd01010, stride := 0x40, count := 25, width := 32 },
  { base := 0xd01014, stride := 0x40, count := 25, width := 32 },
  { base := 0xd01018, stride := 0x40, count := 25, width := 32 },
  { base := 0xd0101c, stride := 0x40, count := 25, width := 32 },
  { base := 0xd01020, stride := 0x40, count := 25, width := 32 }]

/-- Registers of LNK. -/
def regsLNK : List RegDef := [
  { base := 0xe00000, stride := 0, count := 1, width := 32, rwl := 0xffffff },
  { base := 0xe00008, stride := 0, count := 1, width := 64, reset := 0x80058001000100, rwl := 0xffffffffffffffff },
  { base := 0xe00010, stride := 0, count := 1, width := 32, reset := 8, rwl := 0xf },
  { base := 0xe00014, stride := 0, count := 1, width := 32, reset := 0x2000, rw := 0xffffff },
  { base := 0xe00018, stride := 0, count := 1, width := 32, reset := 0x1f4, rwl := 0xffff },
  { base := 0xe0001c, stride := 0, count := 1, width := 32, w1s := 1 },
  { base := 0xe00020, stride := 0, count := 1, width := 32, rw := 0xffff },
  { base := 0xe00024, stride := 0, count := 1, width := 32, rw := 0xffff },
  { base := 0xe00028, stride := 0, count := 1, width := 32, w1c := 0x1f },
  { base := 0xe0002c, stride := 0, count := 1, width := 32, rw := 3 },
  { base := 0xe00030, stride := 0, count := 1, width := 32 },
  { base := 0xe00034, stride := 0, count := 1, width := 32 },
  { base := 0xe01000, stride := 0x40, count := 24, width := 32, reset := 0x10, rwl := 0x13 },
  { base := 0xe01004, stride := 0x40, count := 24, width := 32 },
  { base := 0xe01008, stride := 0x40, count := 24, width := 32 },
  { base := 0xe0100c, stride := 0x40, count := 24, width := 32 },
  { base := 0xe01010, stride := 0x40, count := 24, width := 32 },
  { base := 0xe01014, stride := 0x40, count := 24, width := 32 },
  { base := 0xe01018, stride := 0x40, count := 24, width := 32 },
  { base := 0xe0101c, stride := 0x40, count := 24, width := 32 },
  { base := 0xe01020, stride := 0x40, count := 24, width := 32 },
  { base := 0xe01024, stride := 0x40, count := 24, width := 32 },
  { base := 0xe01028, stride := 0x40, count := 24, width := 32, reset := 0x20 }]

/-- Registers of RLY. -/
def regsRLY : List RegDef := [
  { base := 0xf00000, stride := 0, count := 1, width := 32, rw := 3 },
  { base := 0xf00004, stride := 0, count := 1, width := 32, reset := 0x989680, rwl := 0xffffffff },
  { base := 0xf00008, stride := 0, count := 1, width := 32, rw := 0xffffffff },
  { base := 0xf0000c, stride := 0, count := 1, width := 32, w1s := 1 },
  { base := 0xf00010, stride := 0, count := 1, width := 32, rw := 0xffff },
  { base := 0xf00014, stride := 0, count := 1, width := 32, rw := 0xffff },
  { base := 0xf00018, stride := 0, count := 1, width := 32, w1c := 0x1f },
  { base := 0xf0001c, stride := 0, count := 1, width := 32 },
  { base := 0xf00020, stride := 0, count := 1, width := 64, rwl := 0xfffffff00000 },
  { base := 0xf00028, stride := 0, count := 1, width := 32 },
  { base := 0xf0002c, stride := 0, count := 1, width := 32 },
  { base := 0xf00030, stride := 0, count := 1, width := 32 },
  { base := 0xf00034, stride := 0, count := 1, width := 32 },
  { base := 0xf00038, stride := 0, count := 1, width := 32 },
  { base := 0xf0003c, stride := 0, count := 1, width := 32 },
  { base := 0xf00040, stride := 0, count := 1, width := 32 },
  { base := 0xf00044, stride := 0, count := 1, width := 32 },
  { base := 0xf00048, stride := 0, count := 1, width := 32 }]

/-- Registers of CDC. -/
def regsCDC : List RegDef := [
  { base := 0x1000000, stride := 0, count := 1, width := 32, rw := 1 },
  { base := 0x1000004, stride := 0, count := 1, width := 32, w1s := 1 },
  { base := 0x1000008, stride := 0, count := 1, width := 32, rw := 0xffff },
  { base := 0x100000c, stride := 0, count := 1, width := 32, rw := 0xffff },
  { base := 0x1000010, stride := 0, count := 1, width := 32, w1c := 3 },
  { base := 0x1000014, stride := 0, count := 1, width := 32 },
  { base := 0x1001000, stride := 0x40, count := 16, width := 32 },
  { base := 0x1001004, stride := 0x40, count := 16, width := 32 },
  { base := 0x1001008, stride := 0x40, count := 16, width := 32 },
  { base := 0x100100c, stride := 0x40, count := 16, width := 32 },
  { base := 0x1001010, stride := 0x40, count := 16, width := 32 },
  { base := 0x1001014, stride := 0x40, count := 16, width := 32 }]

/-- Registers of KPR. -/
def regsKPR : List RegDef := [
  { base := 0x1100000, stride := 0, count := 1, width := 64, reset := 0x1ff000000 },
  { base := 0x1100008, stride := 0, count := 1, width := 64, reset := 1 },
  { base := 0x1100010, stride := 0, count := 1, width := 64 },
  { base := 0x1100018, stride := 0, count := 1, width := 64 },
  { base := 0x1100020, stride := 0, count := 1, width := 32 },
  { base := 0x1100024, stride := 0, count := 1, width := 32 },
  { base := 0x1100028, stride := 0, count := 1, width := 32, reset := 1, rwl := 3 },
  { base := 0x110002c, stride := 0, count := 1, width := 32, reset := 0x3c, rwl := 0xfff },
  { base := 0x1100030, stride := 0, count := 1, width := 32, reset := 0x64, rwl := 0x3fff },
  { base := 0x1100034, stride := 0, count := 1, width := 32, reset := 0x1e, rw := 0xffff },
  { base := 0x1100038, stride := 0, count := 1, width := 32, w1s := 1 },
  { base := 0x110003c, stride := 0, count := 1, width := 32, rw := 0xffff },
  { base := 0x1100040, stride := 0, count := 1, width := 32, rw := 0xffff },
  { base := 0x1100044, stride := 0, count := 1, width := 32, w1c := 0x1f },
  { base := 0x1100048, stride := 0, count := 1, width := 64, rwl := 0xffffffff0000 },
  { base := 0x1100050, stride := 0, count := 1, width := 32, rwl := 0x1ff },
  { base := 0x1100054, stride := 0, count := 1, width := 32 },
  { base := 0x1100058, stride := 0, count := 1, width := 64, rw := 0xfffffffffc00 },
  { base := 0x1100060, stride := 0, count := 1, width := 32, reset := 4, rw := 0x1f },
  { base := 0x1100064, stride := 0, count := 1, width := 32 },
  { base := 0x1100068, stride := 0, count := 1, width := 32, rw := 0xffffffff },
  { base := 0x1100100, stride := 8, count := 16, width := 64 },
  { base := 0x1100180, stride := 0, count := 1, width := 64 }]

/-- Registers of NST. -/
def regsNST : List RegDef := [
  { base := 0x1200000, stride := 0, count := 1, width := 32 },
  { base := 0x1200004, stride := 0, count := 1, width := 32 },
  { base := 0x1200008, stride := 0, count := 1, width := 32 },
  { base := 0x120000c, stride := 0, count := 1, width := 32, rw := 0xffff },
  { base := 0x1200010, stride := 0, count := 1, width := 32, rw := 0xffff },
  { base := 0x1200014, stride := 0, count := 1, width := 32, w1c := 0xf },
  { base := 0x1200018, stride := 0, count := 1, width := 32 },
  { base := 0x120001c, stride := 0, count := 1, width := 32 },
  { base := 0x1200020, stride := 0, count := 1, width := 64 },
  { base := 0x1200028, stride := 0, count := 1, width := 32 },
  { base := 0x1200030, stride := 4, count := 4, width := 32 },
  { base := 0x1200040, stride := 4, count := 8, width := 32 }]

/-- Registers of PWR, part 1. -/
def regsPWR1 : List RegDef := [
  { base := 0x1300000, stride := 0, count := 1, width := 32 },
  { base := 0x1300004, stride := 0, count := 1, width := 32, reset := 0x3e80002, rw := 0xffff000f },
  { base := 0x1300008, stride := 0, count := 1, width := 32, w1s := 1 },
  { base := 0x130000c, stride := 0, count := 1, width := 32, rw := 0xffff },
  { base := 0x1300010, stride := 0, count := 1, width := 32, rw := 0xffff },
  { base := 0x1300014, stride := 0, count := 1, width := 32, w1c := 0x7f },
  { base := 0x1300018, stride := 0, count := 1, width := 32 },
  { base := 0x1300020, stride := 0, count := 1, width := 64, reset := 0x57800e1000004970 },
  { base := 0x1300028, stride := 0, count := 1, width := 64 },
  { base := 0x1300030, stride := 0, count := 1, width := 32, reset := 0x32d695f, rwl := 0xfffffff },
  { base := 0x1300034, stride := 0, count := 1, width := 32, reset := 0x7d0, rwl := 0xffff },
  { base := 0x1300038, stride := 0, count := 1, width := 32 },
  { base := 0x130003c, stride := 0, count := 1, width := 32 },
  { base := 0x1300040, stride := 0, count := 1, width := 32 },
  { base := 0x1300044, stride := 0, count := 1, width := 32 },
  { base := 0x1300048 + 16, stride := 0, count := 1, width := 32, reset := 0xfe0000 },
  { base := 0x1300048, stride := 4, count := 4, width := 32 },
  { base := 0x1300080, stride := 0, count := 1, width := 32, reset := 0xaf0 },
  { base := 0x1300084, stride := 0, count := 1, width := 32, reset := 0x8012c },
  { base := 0x1300088, stride := 0, count := 1, width := 32, reset := 0x2d73695f },
  { base := 0x130008c, stride := 0, count := 1, width := 32, reset := 0xff },
  { base := 0x1300090, stride := 0, count := 1, width := 32, reset := 0xffff },
  { base := 0x1300094, stride := 0, count := 1, width := 32, reset := 0x2625a00 },
  { base := 0x1301000, stride := 4, count := 64, width := 32, reset := 0x2828, rw := 0xff }]

/-- Registers of PWR, part 2. -/
def regsPWR2 : List RegDef := [
  { base := 0x1301100, stride := 4, count := 8, width := 32, reset := 0x808, rw := 0xff },
  { base := 0x1301120, stride := 4, count := 8, width := 32, reset := 0xa0a },
  { base := 0x1301140, stride := 4, count := 5, width := 32, reset := 0x1414 },
  { base := 0x1301154, stride := 4, count := 4, width := 32, reset := 0x1414 },
  { base := 0x1301164, stride := 4, count := 24, width := 32, reset := 0x1414 },
  { base := 0x13011c4, stride := 0, count := 1, width := 32, reset := 0x1414 },
  { base := 0x13011c8, stride := 0, count := 1, width := 32, reset := 0xa0a },
  { base := 0x13011cc, stride := 4, count := 3, width := 32, reset := 0xa0a },
  { base := 0x13011d8, stride := 0, count := 1, width := 32, reset := 0x1414 },
  { base := 0x13011dc, stride := 0, count := 1, width := 32, reset := 0xa0a },
  { base := 0x13011e0, stride := 0, count := 1, width := 32, reset := 0x1414 },
  { base := 0x13011e4, stride := 4, count := 3, width := 32, reset := 0x505 }]

/-- Registers of PWR. -/
def regsPWR : List RegDef := regsPWR1 ++ regsPWR2

/-- Registers of SNP. -/
def regsSNP : List RegDef := [
  { base := 0x1400000, stride := 0, count := 1, width := 32, reset := 2, rw := 0xf },
  { base := 0x1400004, stride := 0, count := 1, width := 32 },
  { base := 0x1400008, stride := 0, count := 1, width := 32, rw := 0x7fffffff },
  { base := 0x140000c, stride := 0, count := 1, width := 32, rwl := 0x7ffffff },
  { base := 0x1400010, stride := 0, count := 1, width := 32, w1c := 0xf },
  { base := 0x1400014, stride := 0, count := 1, width := 32 },
  { base := 0x1400018, stride := 0, count := 1, width := 32 },
  { base := 0x140001c, stride := 0, count := 1, width := 32 },
  { base := 0x1400020, stride := 0, count := 1, width := 32 },
  { base := 0x1400024, stride := 0, count := 1, width := 32, reset := 1, rw := 0xffff },
  { base := 0x1400028, stride := 0, count := 1, width := 32, w1s := 1 },
  { base := 0x140002c, stride := 0, count := 1, width := 32, rw := 0xffff },
  { base := 0x1400030, stride := 0, count := 1, width := 32, rw := 0xffff },
  { base := 0x1400040, stride := 0x10, count := 4, width := 32 },
  { base := 0x1400044, stride := 0x10, count := 4, width := 32 },
  { base := 0x1400048, stride := 0x10, count := 4, width := 64 }]

/-- Registers of ERR. -/
def regsERR : List RegDef := [
  { base := 0x1800000, stride := 0, count := 1, width := 32, reset := 0x10, rwl := 0xf },
  { base := 0x1800004, stride := 0, count := 1, width := 32, w1c := 0x1f },
  { base := 0x1800008, stride := 0, count := 1, width := 32, w1s := 1 },
  { base := 0x180000c, stride := 0, count := 1, width := 32, rw := 0xffff },
  { base := 0x1800010, stride := 0, count := 1, width := 32, rw := 0xffff },
  { base := 0x1800014, stride := 0, count := 1, width := 32 },
  { base := 0x1800020, stride := 4, count := 5, width := 32 },
  { base := 0x1800040, stride := 0, count := 1, width := 32 },
  { base := 0x1800048, stride := 0, count := 1, width := 64 },
  { base := 0x1800100, stride := 8, count := 16, width := 64 }]

/-- Block whose window holds `off` (Table 21.1); 22 beyond the last window. -/
def blockOf (off : Nat) : Nat :=
  if off < 0x1400000 then off / 0x100000
  else if off < 0x1800000 then 20
  else if off < 0x1900000 then 21
  else 22

/-- Base of a block's window (Table 21.1). -/
def blockBase (b : Nat) : Nat := if b = 21 then 0x1800000 else 0x100000 * b

/-- The register table of a block, by block code. -/
def blockRegs : Nat → List RegDef
  | 0 => regsHIF
  | 1 => regsQFE
  | 2 => regsCORE
  | 3 => regsVCH
  | 4 => regsATT
  | 5 => regsKVP
  | 6 => regsSHC
  | 7 => regsMEM
  | 8 => regsBNK
  | 9 => regsSPL
  | 10 => regsSTR
  | 11 => regsDMA
  | 12 => regsSTS
  | 13 => regsCMP
  | 14 => regsLNK
  | 15 => regsRLY
  | 16 => regsCDC
  | 17 => regsKPR
  | 18 => regsNST
  | 19 => regsPWR
  | 20 => regsSNP
  | 21 => regsERR
  | _ => []

/-- Does `d` hold a register at `off`? -/
def RegDef.has (d : RegDef) (off : Nat) : Bool :=
  decide (d.base ≤ off) &&
    (if d.stride = 0 then off == d.base
     else decide ((off - d.base) % d.stride = 0) && decide ((off - d.base) / d.stride < d.count))

/-- The register whose first byte lies at `off`, if any (R370). -/
def regAt (off : Nat) : Option RegDef := (blockRegs (blockOf off)).find? (·.has off)

/-- The value a register holds after a module reset (R360 and the Reset columns). -/
def resetOf (off : Nat) : Nat := ((regAt off).map (·.reset)).getD 0

/-- Offset of the lock register of a block (Table 21.1, R375). -/
def lockOf : Nat → Option Nat
  | 2 => some R.CORE_LOCK
  | 5 => some R.KVP_LOCK
  | 6 => some R.SHC_LOCK
  | 7 => some R.MEM_LOCK
  | 8 => some R.BNK_LOCK
  | 10 => some R.STR_LOCK
  | 11 => some R.DMA_LOCK
  | 12 => some R.STS_LOCK
  | 13 => some R.CMP_LOCK
  | 14 => some R.LNK_LOCK
  | 15 => some R.RLY_LOCK
  | 16 => some R.CDC_LOCK
  | 17 => some R.KPR_LOCK
  | 19 => some R.PWR_LOCK
  | 20 => some R.SNP_LOCK
  | 21 => some R.ERR_LOCK
  | _ => none

/-- Offset of a block's misuse count, if it has one. -/
def misuseOf : Nat → Option Nat
  | 0 => some R.HIF_MISUSE
  | 1 => some R.QFE_MISUSE
  | 2 => some R.CORE_MISUSE
  | 3 => some R.VCH_MISUSE
  | 4 => some R.ATT_MISUSE
  | 5 => some R.KVP_MISUSE
  | 6 => some R.SHC_MISUSE
  | 7 => some R.MEM_MISUSE
  | 8 => some R.BNK_MISUSE
  | 9 => some R.SPL_MISUSE
  | 10 => some R.STR_MISUSE
  | 11 => some R.DMA_MISUSE
  | 12 => some R.STS_MISUSE
  | 13 => some R.CMP_MISUSE
  | 14 => some R.LNK_MISUSE
  | 15 => some R.RLY_MISUSE
  | 16 => some R.CDC_MISUSE
  | 17 => some R.KPR_MISUSE
  | 18 => some R.NST_MISUSE
  | 19 => some R.PWR_MISUSE
  | 20 => some R.SNP_MISUSE
  | 21 => some R.ERR_MISUSE
  | _ => none

/-- Offset of a block's set-wins count (R40). -/
def setwinOf : Nat → Option Nat
  | 0 => some R.HIF_SETWIN
  | 1 => some R.QFE_SETWIN
  | 2 => some R.CORE_SETWIN
  | 3 => some R.VCH_SETWIN
  | 4 => some R.ATT_SETWIN
  | 5 => some R.KVP_SETWIN
  | 6 => some R.SHC_SETWIN
  | 7 => some R.MEM_SETWIN
  | 8 => some R.BNK_SETWIN
  | 9 => some R.SPL_SETWIN
  | 10 => some R.STR_SETWIN
  | 11 => some R.DMA_SETWIN
  | 12 => some R.STS_SETWIN
  | 13 => some R.CMP_SETWIN
  | 14 => some R.LNK_SETWIN
  | 15 => some R.RLY_SETWIN
  | 16 => some R.CDC_SETWIN
  | 17 => some R.KPR_SETWIN
  | 18 => some R.NST_SETWIN
  | 19 => some R.PWR_SETWIN
  | 20 => some R.SNP_SETWIN
  | 21 => some R.ERR_SETWIN
  | _ => none

end Sys2Proof.Machine
end

