-- ==== Sys2Proof/Machine/Bits.lean ====
section
/-! DEFINITION. Bit fields, byte order and sparse lists: the small operations the rest of the machine is written in. A
bit range is written high:low as in 00_scope; byte strings hold the low byte first. -/

namespace Sys2Proof.Machine

/-- Bits hi:lo of `v`. -/
def bits (v hi lo : Nat) : Nat := (v >>> lo) % 2 ^ (hi + 1 - lo)

/-- Bit i of `v`. -/
def bitAt (v i : Nat) : Bool := v.testBit i

/-- `v` with bits hi:lo replaced by `x`, of which only as many bits as fit are used. -/
def setBits (v hi lo x : Nat) : Nat :=
  v - (bits v hi lo <<< lo) + ((x % 2 ^ (hi + 1 - lo)) <<< lo)

/-- 1 for true. -/
def nb (b : Bool) : Nat := if b then 1 else 0

/-- `v` modulo 2^w read as a signed number. -/
def signed (w v : Nat) : Int :=
  let u := v % 2 ^ w
  if u < 2 ^ (w - 1) then (u : Int) else (u : Int) - (2 ^ w : Nat)

/-- `i` modulo 2^w, in two's complement. -/
def unsigned (w : Nat) (i : Int) : Nat := (i % ((2 ^ w : Nat) : Int)).toNat

/-- The number a byte string spells, low byte first. -/
def ofLe : Bytes → Nat
  | [] => 0
  | b :: t => b.toNat + 256 * ofLe t

/-- `n` bytes of `v`, low byte first. -/
def leBytes : Nat → Nat → Bytes
  | 0, _ => []
  | n + 1, v => BitVec.ofNat 8 v :: leBytes n (v / 256)

/-- Bytes off to off + len - 1 of a string. -/
def slice (b : Bytes) (off len : Nat) : Bytes := (b.drop off).take len

/-- The number in `n` bytes at `off`. -/
def u (b : Bytes) (off n : Nat) : Nat := ofLe (slice b off n)

/-- `b` extended with zero bytes, or cut, to n bytes. -/
def padTo (n : Nat) (b : Bytes) : Bytes := (b ++ List.replicate (n - b.length) 0).take n

/-- `b` with `x` written over it from `off`. -/
def patch (b : Bytes) (off : Nat) (x : Bytes) : Bytes := b.take off ++ x ++ b.drop (off + x.length)

/-- x / y rounded up. -/
def ceilDiv (x y : Nat) : Nat := (x + y - 1) / y

/-- `x` rounded up to a multiple of `y`. -/
def roundUp (x y : Nat) : Nat := ceilDiv x y * y

/-- Positions of the set bits of `v` below `w`, rising. -/
def setPositions (w v : Nat) : List Nat := (List.range w).filter (fun i => v.testBit i)

/-- Number of set bits of `v` below `w`. -/
def popCount (w v : Nat) : Nat := (setPositions w v).length

/-- Position of the highest set bit, plus one. -/
def bitLen (v : Nat) : Nat := if v = 0 then 0 else Nat.log2 v + 1

/-! ### Sparse lists -/

/-- The member at `k`, `d` when it is not listed. -/
def AL.get {V : Type} (d : V) (k : Nat) : List (Nat × V) → V
  | [] => d
  | (j, v) :: t => if j = k then v else AL.get d k t

/-- `l` without the member at `k`. -/
def AL.erase {V : Type} (k : Nat) : List (Nat × V) → List (Nat × V)
  | [] => []
  | (j, v) :: t => if j = k then AL.erase k t else (j, v) :: AL.erase k t

/-- `l` with `v` at `k`, kept in rising order of keys. -/
def AL.insert {V : Type} (k : Nat) (v : V) : List (Nat × V) → List (Nat × V)
  | [] => [(k, v)]
  | (j, w) :: t =>
    if k < j then (k, v) :: (j, w) :: t
    else if k = j then (k, v) :: t
    else (j, w) :: AL.insert k v t

/-- `l` with the member at `k` set to `v`; a member equal to `d` is not listed. -/
def AL.set {V : Type} [DecidableEq V] (d : V) (k : Nat) (v : V) (l : List (Nat × V)) : List (Nat × V) :=
  if v = d then AL.erase k l else AL.insert k v l

/-- Keys strictly rising from above `lo`, and no listed member equal to what `d` gives for its key. -/
def AL.wfFrom {V : Type} [DecidableEq V] (d : Nat → V) : Option Nat → List (Nat × V) → Bool
  | _, [] => true
  | lo, (k, v) :: t =>
    (match lo with | none => true | some a => decide (a < k)) && decide (v ≠ d k) && AL.wfFrom d (some k) t

/-- The one canonical form of a sparse list. -/
def AL.wf {V : Type} [DecidableEq V] (d : Nat → V) (l : List (Nat × V)) : Bool := AL.wfFrom d none l

/-- The first member of a list of pairs with first part `k`. -/
def findKey {V : Type} (k : Nat) (l : List (Nat × V)) : Option V := (l.find? (fun x => x.1 == k)).map (·.2)

/-- The least number below `n` that satisfies `p`. -/
def leastBelow (n : Nat) (p : Nat → Bool) : Option Nat := (List.range n).find? p

end Sys2Proof.Machine
end

