-- ==== Sys2Proof/Machine/Num.lean ====
section
/-! DEFINITION. Number formats, rounding and exact arithmetic (chapter 03). A value is an exact signed dyadic number, an
infinity or NaN; every rounding goes through `roundsUp` (R54), so the three modes are defined once. -/

namespace Sys2Proof.Machine

/-- An exact value: (-1)^neg × m × 2^e, so that zero keeps its sign (R44). -/
inductive FVal
  | nan
  | inf (neg : Bool)
  | fin (neg : Bool) (m : Nat) (e : Int)
  deriving DecidableEq, Repr, Inhabited

/-- Rounding mode (R54); under SR the number of random bits and the bits drawn. -/
inductive RMode
  | rne
  | rtz
  | sr (n r : Nat)
  deriving DecidableEq, Repr, Inhabited

/-- Does a magnitude that lies num/den of the way from lo to hi round up (R54)? `loOdd`: the code of lo ends in 1. -/
def roundsUp (mode : RMode) (loOdd : Bool) (num den : Nat) : Bool :=
  match mode with
  | .rne => decide (den < 2 * num) || (decide (den = 2 * num) && loOdd)
  | .rtz => false
  | .sr n r => decide (r < 2 ^ n * num / den)

/-- floor(num/den × 2^e) with the remainder as a fraction of one. -/
def floorScaled (num den : Nat) (e : Int) : Nat × Nat × Nat :=
  if 0 ≤ e then
    let n := num <<< e.toNat
    (n / den, n % den, den)
  else
    let d := den <<< (-e).toNat
    (num / d, num % d, d)

/-- floor(log2(num/den)) for num > 0. -/
def log2Ratio (num den : Nat) : Int :=
  let k : Int := (bitLen num : Int) - (bitLen den : Int)
  if 0 ≤ k then (if den <<< k.toNat ≤ num then k else k - 1)
  else (if den ≤ num <<< (-k).toNat then k else k - 1)

/-- A linear target (Tables 3.2, 3.3): significand bits with the hidden one, exponent of the smallest normal, largest
finite magnitude maxM × 2^maxE. `fixed`: the spacing is 2^emin everywhere. -/
structure LinFmt where
  p    : Nat
  emin : Int
  maxM : Nat
  maxE : Int
  hasInf : Bool := false
  hasNan : Bool := false
  fixed  : Bool := false
  width  : Nat := 32
  bias   : Nat := 0
  deriving DecidableEq, Repr, Inhabited

/-- Table 3.2. -/
def fmtFP32 : LinFmt := { p := 24, emin := -126, maxM := 0xFFFFFF, maxE := 104, hasInf := true, hasNan := true, width := 32, bias := 127 }
def fmtBF16 : LinFmt := { p := 8, emin := -126, maxM := 0xFF, maxE := 120, hasInf := true, hasNan := true, width := 16, bias := 127 }
def fmtFP16 : LinFmt := { p := 11, emin := -14, maxM := 0x7FF, maxE := 5, hasInf := true, hasNan := true, width := 16, bias := 15 }
def fmtE5M2 : LinFmt := { p := 3, emin := -14, maxM := 7, maxE := 13, hasInf := true, hasNan := true, width := 8, bias := 15 }
def fmtE4M3 : LinFmt := { p := 4, emin := -6, maxM := 14, maxE := 5, hasNan := true, width := 8, bias := 7 }
def fmtE3M2 : LinFmt := { p := 3, emin := -2, maxM := 7, maxE := 2, width := 6, bias := 3 }
def fmtE2M3 : LinFmt := { p := 4, emin := 0, maxM := 15, maxE := -1, width := 6, bias := 1 }
def fmtE2M1 : LinFmt := { p := 2, emin := 0, maxM := 3, maxE := 1, width := 4, bias := 1 }

/-- Sticky flags (R63). -/
def flagInvalid : Nat := 1
def flagOverflow : Nat := 2

/-- Overflow result of a target with infinity (R59): does it become infinity? `ovf` is OVF of Table 3.6. -/
def overflowsToInf (f : LinFmt) (ovf : Nat) (mode : RMode) : Bool :=
  (ovf == 2 || (ovf == 0 && f.p == 24)) && decide (mode ≠ .rtz)

/-- The magnitude num/den × 2^e rounded to `f`: the rounded significand and its exponent before any overflow (R54, R61).
The exponent range is unbounded above (R59). -/
def roundLin (f : LinFmt) (mode : RMode) (num den : Nat) (e : Int) : Nat × Int :=
  if num = 0 then (0, 0)
  else
    let q : Int :=
      if f.fixed then f.emin
      else max (log2Ratio num den + e) f.emin - ((f.p : Int) - 1)
    let (m, rn, rd) := floorScaled num den (e - q)
    (if roundsUp mode (m % 2 == 1) rn rd then m + 1 else m, q)

/-- a × 2^ae < b × 2^be. -/
def dyLt (a : Nat) (ae : Int) (b : Nat) (be : Int) : Bool :=
  if ae ≤ be then decide (a < b <<< (be - ae).toNat) else decide (a <<< (ae - be).toNat < b)

/-- A signed magnitude converted to a target with infinity or a plain float target: value and flags (R59). -/
def roundTo (f : LinFmt) (mode : RMode) (ovf : Nat) (neg : Bool) (num den : Nat) (e : Int) : FVal × Nat :=
  let (m, q) := roundLin f mode num den e
  if dyLt f.maxM f.maxE m q then
    if f.hasInf && overflowsToInf f ovf mode then (.inf neg, flagOverflow)
    else (.fin neg f.maxM f.maxE, flagOverflow)
  else (.fin neg m q, 0)

/-- The code of a value that the format holds exactly; canonical NaN with sign 0 (R45). -/
def encodeLin (f : LinFmt) : FVal → Nat
  | .nan => if f.hasInf then (2 ^ (f.width - f.p) - 1) <<< (f.p - 1) ||| (if f.width = 8 then 3 else 1 <<< (f.p - 2)) else 0x7F
  | .inf neg => (nb neg <<< (f.width - 1)) + ((2 ^ (f.width - f.p) - 1) <<< (f.p - 1))
  | .fin neg m e =>
    let s := nb neg <<< (f.width - 1)
    if m = 0 then s
    else
      let top := (Nat.log2 m : Int) + e
      let q := max top f.emin - ((f.p : Int) - 1)
      let sig := if q ≤ e then m <<< (e - q).toNat else m >>> (q - e).toNat
      if top < f.emin then s + sig
      else s + ((top + f.bias).toNat <<< (f.p - 1)) + (sig - 2 ^ (f.p - 1))

/-- The value a code of a float format stands for (R43, Table 3.2). -/
def decodeLin (f : LinFmt) (c : Nat) : FVal :=
  let neg := c.testBit (f.width - 1)
  let fr := c % 2 ^ (f.p - 1)
  let ex := (c >>> (f.p - 1)) % 2 ^ (f.width - f.p)
  let top := 2 ^ (f.width - f.p) - 1
  if f.hasInf && ex == top then (if fr = 0 then .inf neg else .nan)
  else if f.hasNan && !f.hasInf && c % 2 ^ (f.width - 1) == 2 ^ (f.width - 1) - 1 then .nan
  else if ex = 0 then .fin neg fr (f.emin - ((f.p : Int) - 1))
  else .fin neg (fr + 2 ^ (f.p - 1)) ((ex : Int) - f.bias - ((f.p : Int) - 1))

/-! ### Log formats (R50 to R53) -/

/-- Significands of T of Table 3.5 (R52): T[k] × 2^23. -/
def tableT : List Nat := [8388608, 8760003, 9147842, 9552851, 9975792, 10417458, 10878679, 11360319, 11863283,
  12388516, 12937002, 13509772, 14107901, 14732511, 15384775, 16065917]

/-- Significands of U (R52): U[j] × 2^23. -/
def tableU : List Nat := [8388608, 8411352, 8434157, 8457025, 8479954, 8502945, 8525999, 8549116, 8572295, 8595536,
  8618841, 8642209, 8665641, 8689136, 8712694, 8736317]

/-- Significand of RNE(T[b] × U[j]) over 2^23; i = 16b + j, and 2.0 for i = 256. -/
def lin16 (i : Nat) : Nat :=
  if 256 ≤ i then 16777216
  else
    let pr := tableT.getD (i / 16) 0 * tableU.getD (i % 16) 0
    let (m, rn, rd) := floorScaled pr 1 (-23)
    if roundsUp .rne (m % 2 == 1) rn rd then m + 1 else m

/-- Significand of T[k] over 2^23; 2.0 for k = 16. -/
def lin8 (k : Nat) : Nat := if 16 ≤ k then 16777216 else tableT.getD k 0

/-- Floor division and remainder of a log field: g = n × a + k (R53). -/
def splitLog (n : Nat) (g : Int) : Int × Nat := (g / (n : Int), (g % (n : Int)).toNat)

/-- Linear magnitude of log field g of L8 without its scale, or of L16: significand and exponent (R53). -/
def linOf (l16 : Bool) (g : Int) : Nat × Int :=
  if l16 then let (a, i) := splitLog 256 g; (lin16 i, a - 23)
  else let (a, k) := splitLog 16 g; (lin8 k, a - 23)

/-- The greatest i below n with f i × 2^ae ≤ num/den (f rising, f 0 below it). -/
def lastLe (f : Nat → Nat) (num den : Nat) (ae : Int) : Nat → Nat
  | 0 => 0
  | i + 1 =>
    let ok := if 0 ≤ ae then decide ((f i <<< ae.toNat) * den ≤ num) else decide (f i * den ≤ num <<< (-ae).toNat)
    if ok then i else lastLe f num den ae i

/-- A magnitude num/den × 2^e (not 0) rounded to a log field (R54): the field, none for zero; unbounded above. Lowest
field `gmin`. -/
def roundLog (l16 : Bool) (mode : RMode) (num den : Nat) (e : Int) : Option Int :=
  let gmin : Int := if l16 then -16383 else -63
  let n : Nat := if l16 then 256 else 16
  let a := log2Ratio num den + e
  let g : Int := a * n + (lastLe (if l16 then lin16 else lin8) num den (a - 23 - e) n : Nat)
  let frac (lo hi : Nat × Int) : Nat × Nat :=
    let z := min (min lo.2 hi.2) e
    let s (x : Nat) (xe : Int) : Nat := x <<< (xe - z).toNat
    (s num e - s lo.1 lo.2 * den, (s hi.1 hi.2 - s lo.1 lo.2) * den)
  if g < gmin then
    let (x, y) := frac (0, e) (linOf l16 gmin)
    if roundsUp mode false x y then some gmin else none
  else
    let (x, y) := frac (linOf l16 g) (linOf l16 (g + 1))
    if roundsUp mode (g % 2 == 1) x y then some (g + 1) else some g

/-! ### Arithmetic on exact values -/

def FVal.isNan : FVal → Bool
  | .nan => true
  | _ => false

def FVal.isZero : FVal → Bool
  | .fin _ 0 _ => true
  | _ => false

def FVal.neg? : FVal → Bool
  | .nan => false
  | .inf n => n
  | .fin n _ _ => n

def FVal.negate : FVal → FVal
  | .nan => .nan
  | .inf n => .inf (!n)
  | .fin n m e => .fin (!n) m e

def FVal.abs : FVal → FVal
  | .nan => .nan
  | .inf _ => .inf false
  | .fin _ m e => .fin false m e

/-- The signed significand of a finite value. -/
def FVal.int (neg : Bool) (m : Nat) : Int := if neg then -(m : Int) else m

/-- Exact sum of two finite values as signed significand and exponent. -/
def dyAdd (a b : Int × Int) : Int × Int :=
  if a.1 = 0 then b
  else if b.1 = 0 then a
  else
    let e := min a.2 b.2
    (a.1 * 2 ^ (a.2 - e).toNat + b.1 * 2 ^ (b.2 - e).toNat, e)

/-- Exact sum; a zero sum is +0 but for (-0) + (-0). Flags: INVALID for ∞ - ∞ (R63). -/
def FVal.add : FVal → FVal → FVal × Nat
  | .nan, _ => (.nan, 0)
  | _, .nan => (.nan, 0)
  | .inf a, .inf b => if a = b then (.inf a, 0) else (.nan, flagInvalid)
  | .inf a, _ => (.inf a, 0)
  | _, .inf b => (.inf b, 0)
  | .fin a m x, .fin b n y =>
    let (s, e) := dyAdd (FVal.int a m, x) (FVal.int b n, y)
    (.fin (if s = 0 then a && b && (m == 0) && (n == 0) else decide (s < 0)) s.natAbs e, 0)

/-- Exact product. Flags: INVALID for 0 × ∞ (R63). -/
def FVal.mul : FVal → FVal → FVal × Nat
  | .nan, _ => (.nan, 0)
  | _, .nan => (.nan, 0)
  | .inf a, .inf b => (.inf (a != b), 0)
  | .inf a, .fin b n _ => if n = 0 then (.nan, flagInvalid) else (.inf (a != b), 0)
  | .fin a m _, .inf b => if m = 0 then (.nan, flagInvalid) else (.inf (a != b), 0)
  | .fin a m x, .fin b n y => (.fin (a != b) (m * n) (x + y), 0)

/-- Order of two values that are not NaN; +0 and -0 are equal. -/
def FVal.lt : FVal → FVal → Bool
  | .nan, _ => false
  | _, .nan => false
  | .inf a, .inf b => a && !b
  | .inf a, _ => a
  | _, .inf b => !b
  | .fin a m x, .fin b n y =>
    let e := min x y
    decide (FVal.int a m * 2 ^ (x - e).toNat < FVal.int b n * 2 ^ (y - e).toNat)

/-- A value rounded to a float format under a mode and OVF: infinities and NaN pass (R59, R60). -/
def FVal.round (f : LinFmt) (mode : RMode) (ovf : Nat) : FVal → FVal × Nat
  | .nan => (.nan, 0)
  | .inf n => if f.hasInf then (.inf n, 0) else (.fin n f.maxM f.maxE, flagOverflow)
  | .fin n m e => roundTo f mode ovf n m 1 e

/-! ### FP32 words -/

/-- The value of an FP32 word. -/
def f32 (w : Nat) : FVal := decodeLin fmtFP32 w

/-- A value rounded to an FP32 word, RNE, overflow by OVF: word and flags. -/
def toF32 (v : FVal) (ovf : Nat := 0) : Nat × Nat :=
  let (r, fl) := v.round fmtFP32 .rne ovf
  (encodeLin fmtFP32 r, fl)

/-- FP32 sum, product and negation of words, rounded to nearest even. -/
def f32Add (a b : Nat) (ovf : Nat := 0) : Nat × Nat :=
  let (v, x) := (f32 a).add (f32 b)
  let (w, y) := toF32 v ovf
  (w, x ||| y)

def f32Mul (a b : Nat) (ovf : Nat := 0) : Nat × Nat :=
  let (v, x) := (f32 a).mul (f32 b)
  let (w, y) := toF32 v ovf
  (w, x ||| y)

def f32Neg (a : Nat) : Nat := encodeLin fmtFP32 (f32 a).negate

/-- a × b + c with one rounding. -/
def f32Fma (a b c : Nat) (ovf : Nat := 0) : Nat × Nat :=
  let (p, x) := (f32 a).mul (f32 b)
  let (v, y) := p.add (f32 c)
  let (w, z) := toF32 v ovf
  (w, x ||| y ||| z)

/-- An exact signed significand and exponent as a value. -/
def ofDy (d : Int × Int) : FVal := .fin (decide (d.1 < 0)) d.1.natAbs d.2

/-- FP32 quotient, RNE. Flags: INVALID for 0/0 and ∞/∞ (R63). A finite value over zero is infinite. -/
def f32Div (a b : Nat) (ovf : Nat := 0) : Nat × Nat :=
  match f32 a, f32 b with
  | .nan, _ => (0x7FC00000, 0)
  | _, .nan => (0x7FC00000, 0)
  | .inf _, .inf _ => (0x7FC00000, flagInvalid)
  | .inf s, .fin t _ _ => (encodeLin fmtFP32 (.inf (s != t)), 0)
  | .fin s _ _, .inf t => (encodeLin fmtFP32 (.fin (s != t) 0 0), 0)
  | .fin s m x, .fin t n y =>
    if n = 0 then (if m = 0 then (0x7FC00000, flagInvalid) else (encodeLin fmtFP32 (.inf (s != t)), 0))
    else
      let (r, fl) := roundTo fmtFP32 .rne ovf (s != t) m n (x - y)
      (encodeLin fmtFP32 r, fl)

/-! ### Residue images (chapter 04, tile checksums) -/

/-- q of the residue images. -/
def resQ : Nat := 2 ^ 31 - 1

/-- The residue image of a value: (m mod q) × 2^(e mod 31) mod q of m × 2^e, and 0 of an infinity or NaN. -/
def FVal.image : FVal → Nat
  | .fin n m e =>
    let r := (m % resQ) * 2 ^ (e % 31).toNat % resQ
    if n then (resQ - r) % resQ else r
  | _ => 0

/-- Image of an integer. -/
def intImage (i : Int) : Nat := (i % (resQ : Int)).toNat

/-- Largest r with r² ≤ n, built bit by bit from bit i down. -/
def isqrtFrom (n : Nat) : Nat → Nat → Nat
  | 0, r => r
  | i + 1, r =>
    let t := r + 2 ^ i
    isqrtFrom n i (if t * t ≤ n then t else r)

def isqrt (n : Nat) : Nat := isqrtFrom n (bitLen n / 2 + 1) 0

/-- Numerator and exponent of the square root of m × 2^e with 40 or more correct bits, its last bit set when the root is
not exact, so that a rounding to 24 bits comes out as of the exact root. -/
def sqrtSticky (m : Nat) (e : Int) : Nat × Int :=
  let sh : Nat := 96 + (if (e - 96) % 2 = 0 then 0 else 1)
  let n := m <<< sh
  let r := isqrt n
  (2 * r + nb (decide (r * r < n)), (e - sh) / 2 - 1)

/-! ### Conversion to a named format (R62) -/

/-- Is the code one of Table 3.1's element formats (not E8M0, not MASK1)? -/
def isElemFmt (c : Nat) : Bool := decide (c ≤ 12)

/-- Element bits (Table 3.1). -/
def fmtBits : Nat → Nat
  | 0 => 32 | 1 => 16 | 2 => 16 | 3 => 8 | 4 => 8 | 5 => 6 | 6 => 6 | 7 => 4 | 8 => 8 | 9 => 8 | 10 => 4 | 11 => 8
  | 12 => 16 | 13 => 8 | 14 => 1 | _ => 0

/-- Does the format carry an E8M0 scale per 32 elements (Table 3.1)? -/
def isBlockFmt (c : Nat) : Bool := (decide (3 ≤ c) && decide (c ≤ 8)) || c == 11

/-- An integer format (Table 3.3, unscaled). -/
def isIntFmt (c : Nat) : Bool := c == 9 || c == 10

def isLogFmt (c : Nat) : Bool := c == 11 || c == 12

/-- The float layout of a format code. -/
def linFmt : Nat → LinFmt
  | 0 => fmtFP32 | 1 => fmtBF16 | 2 => fmtFP16 | 3 => fmtE4M3 | 4 => fmtE5M2 | 5 => fmtE3M2 | 6 => fmtE2M3
  | _ => fmtE2M1

/-- Value of a scale code: none for NaN (R46). -/
def scaleExp (c : Nat) : Option Int := if c = 0xFF then none else some ((c : Int) - 127)

/-- A value times 2^x. -/
def FVal.scaled (x : Int) : FVal → FVal
  | .nan => .nan
  | .inf n => .inf n
  | .fin n m e => .fin n m (e + x)

/-- Value of an element code in a block with scale code `sc` (R46, R50, R51); exact. -/
def decodeElem (fmt : Nat) (uns : Bool) (sc : Nat) (c : Nat) : FVal :=
  let own : FVal :=
    match fmt with
    | 8 => let n := signed 8 c; .fin (decide (n < 0)) n.natAbs (-6)
    | 9 => if uns then .fin false (c % 256) 0 else let n := signed 8 c; .fin (decide (n < 0)) n.natAbs 0
    | 10 => if uns then .fin false (c % 16) 0 else let n := signed 4 c; .fin (decide (n < 0)) n.natAbs 0
    | 11 =>
      if c % 128 = 64 then (if c.testBit 7 then .nan else .fin false 0 0)
      else let (m, e) := linOf false (signed 7 c); .fin (c.testBit 7) m e
    | 12 =>
      if c % 32768 = 16384 then (if c.testBit 15 then .nan else .fin false 0 0)
      else let (m, e) := linOf true (signed 15 c); .fin (c.testBit 15) m e
    | 13 => (match scaleExp c with | none => .nan | some x => .fin false 1 x)
    | 14 => .fin false (c % 2) 0
    | _ => decodeLin (linFmt fmt) c
  if isBlockFmt fmt then (match scaleExp sc with | none => .nan | some x => own.scaled x) else own

/-- A log code: sign, field; none is the zero code. -/
def logCode (l16 : Bool) (neg : Bool) : Option Int → Nat
  | none => if l16 then 0x4000 else 0x40
  | some g => if l16 then nb neg * 32768 + unsigned 15 g else nb neg * 128 + unsigned 7 g

/-- A value converted to a format without a block scale: code and flags (R59 to R62). For an element of a block the value
has been divided by its scale, and `quiet` says that saturation of a finite value is the scale rule's (R49). -/
def encodeElem (fmt : Nat) (uns : Bool) (mode : RMode) (ovf : Nat) (quiet : Bool) (v : FVal) : Nat × Nat :=
  let fo := if quiet then 0 else flagOverflow
  if fmt == 11 || fmt == 12 then
    let l16 := fmt == 12
    let gmax : Int := if l16 then 16383 else 63
    match v with
    | .nan => (if l16 then 0xC000 else 0xC0, 0)
    | .inf n => (logCode l16 n (some gmax), flagOverflow)
    | .fin n m e =>
      if m = 0 then (logCode l16 false none, 0)
      else
        match roundLog l16 mode m 1 e with
        | none => (logCode l16 false none, 0)
        | some g => if gmax < g then (logCode l16 n (some gmax), fo) else (logCode l16 n (some g), 0)
  else if fmt == 8 || fmt == 9 || fmt == 10 then
    let w : Nat := if fmt == 10 then 4 else 8
    let q : Int := if fmt == 8 then -6 else 0
    let un := uns && fmt != 8
    let hi : Nat := if un then 2 ^ w - 1 else 2 ^ (w - 1) - 1
    let lo : Nat := if un then 0 else 2 ^ (w - 1)
    let code (n : Bool) (m : Nat) : Nat := unsigned w (FVal.int n m)
    match v with
    | .nan => (0, flagInvalid)
    | .inf n => (code n (if n then lo else hi), flagOverflow)
    | .fin n m e =>
      let (r, _) := roundLin { p := 64, emin := q, maxM := 0, maxE := 0, fixed := true } mode m 1 e
      let lim := if n then lo else hi
      if lim < r then (code n lim, fo) else (code n r, 0)
  else
    let f := linFmt fmt
    let (r, fl) := v.round f mode ovf
    let fl := match v with | .fin _ _ _ => (if quiet then 0 else fl) | _ => fl
    (encodeLin f r, fl)

/-- emax of Table 3.4. -/
def emaxOf : Nat → Int
  | 3 => 8 | 4 => 15 | 5 => 4 | 6 => 2 | 7 => 2 | 8 => 0 | 11 => 3 | _ => 0

/-- Does the block element format hold NaN (R49 step 4)? -/
def blockHasNan (fmt : Nat) : Bool := fmt == 3 || fmt == 4 || fmt == 11

/-- floor(log2) of a finite magnitude that is not 0. -/
def FVal.log2 : FVal → Option Int
  | .fin _ m e => if m = 0 then none else some ((Nat.log2 m : Int) + e)
  | _ => none

/-- The larger of two optional exponents. -/
def maxOpt : Option Int → Option Int → Option Int
  | none, b => b
  | a, none => a
  | some x, some y => some (max x y)

/-- A block of values (32, or fewer padded by the caller) in a block format: scale code, element codes, flags (R49). The
mode is given per element, since each draws its own word (R55). An element beyond the largest finite value saturates unless
the scale was clamped at 127, when OVF decides (R59). -/
def encodeBlock (fmt : Nat) (ovf : Nat) (vs : List (FVal × RMode)) : Nat × List Nat × Nat :=
  if vs.any (fun x => x.1.isNan) && !blockHasNan fmt then (0xFF, vs.map (fun _ => 0), 0)
  else
    let top := vs.foldl (fun a x => maxOpt a x.1.log2) none
    let hasInf := vs.any (fun x => match x.1 with | .inf _ => true | _ => false)
    let (e, clamped) : Int × Bool :=
      match top with
      | none => (if hasInf then 127 else -127, false)
      | some l =>
        let r := l - emaxOf fmt
        (max (-127) (min 127 r), decide (127 < r))
    let cs := vs.map (fun x => encodeElem fmt false x.2 (if clamped then ovf else 0) (!clamped) (x.1.scaled (-e)))
    ((e + 127).toNat, cs.map (·.1), cs.foldl (fun a c => a ||| c.2) 0)

/-! ### Random words (R56, R57) -/

/-- One Philox round with its keys. -/
def philoxRound (k0 k1 : Nat) (c : Nat × Nat × Nat × Nat) : Nat × Nat × Nat × Nat :=
  let w := 2 ^ 32
  let p0 := 0xD2511F53 * c.1
  let p1 := 0xCD9E8D57 * c.2.2.1
  ((p1 / w) ^^^ c.2.1 ^^^ k0, p1 % w, (p0 / w) ^^^ c.2.2.2 ^^^ k1, p0 % w)

def philoxRounds : Nat → Nat → Nat → Nat × Nat × Nat × Nat → Nat × Nat × Nat × Nat
  | 0, _, _, c => c
  | n + 1, k0, k1, c =>
    philoxRounds n ((k0 + 0x9E3779B9) % 2 ^ 32) ((k1 + 0xBB67AE85) % 2 ^ 32) (philoxRound k0 k1 c)

/-- Word `i` that a lane takes (R57): seed, counter base, lane, purpose, tag. -/
def randomWord (seed base lane purpose tag i : Nat) : Nat :=
  let c := (base + i / 4) % 2 ^ 64
  let r := philoxRounds 10 (seed % 2 ^ 32) (seed / 2 ^ 32)
    (c % 2 ^ 32, c / 2 ^ 32, (lane + purpose * 2 ^ 20) % 2 ^ 32, tag)
  match i % 4 with
  | 0 => r.1
  | 1 => r.2.1
  | 2 => r.2.2.1
  | _ => r.2.2.2

/-! ### The rounding unit (R58, Table 3.6) -/

structure RUnit where
  mode    : Nat := 0
  srBits  : Nat := 0
  ovf     : Nat := 0
  fmt     : Nat := 0
  uns     : Bool := false
  tag     : Nat := 0
  seed    : Nat := 0
  base    : Nat := 0
  deriving DecidableEq, Repr, Inhabited

def RUnit.parse (b : Bytes) : RUnit :=
  let b0 := u b 0 1
  let b1 := u b 1 1
  { mode := bits b0 1 0, srBits := bits b0 3 2, ovf := bits b0 5 4, fmt := bits b1 4 0, uns := bitAt b1 5,
    tag := u b 4 4, seed := u b 8 8, base := u b 16 8 }

/-- A field value that Table 3.6 marks as malformed, or a target that is no element format (R42). -/
def RUnit.malformed (r : RUnit) : Bool :=
  r.mode == 3 || (r.mode == 2 && r.srBits == 3) || r.ovf == 3 || !isElemFmt r.fmt

/-- Random bits of SR (Table 3.6). -/
def RUnit.nbits (r : RUnit) : Nat := if r.srBits = 1 then 8 else if r.srBits = 2 then 16 else 12

/-- The rounding mode for the i-th element that a lane converts (R55, R57). -/
def RUnit.rmode (r : RUnit) (lane i : Nat) : RMode :=
  match r.mode with
  | 0 => .rne
  | 1 => .rtz
  | _ => .sr r.nbits (randomWord r.seed r.base lane 1 r.tag i >>> (32 - r.nbits))

/-! ### The exp and ln units (R98): accurate to one unit in the last place -/

/-- Fixed-point places of the exp and ln units' exact values. -/
def fixP : Nat := 160

/-- ln 2 in fixed point, rounded down. -/
def ln2Fix : Nat := 1013035739299659071135698605846798551586536899366

/-- 1 + r/n (1 + r/(n+1) (1 + ...)) for the n terms from `i` down, in fixed point. -/
def expTaylor (r : Nat) : Nat → Nat → Nat
  | 0, acc => acc
  | i + 1, acc => expTaylor r i (2 ^ fixP + r * acc / ((i + 1) * 2 ^ fixP))

/-- A positive magnitude a × 2^e as an FP32 word: one of the two neighbours of the value, or the value itself when FP32
holds it (log 6). -/
def ulpPick (f w : Nat) (neg : Bool) (a : Nat) (e : Int) : Nat :=
  let (m, q) := roundLin fmtFP32 .rtz a 1 e
  let exact := decide ((floorScaled a 1 (e - q)).2.1 = 0)
  let m' := if !exact && Config.roundsHigh f w then m + 1 else m
  encodeLin fmtFP32 (if dyLt fmtFP32.maxM fmtFP32.maxE m' q then .inf neg else .fin neg m' q)

/-- exp of an FP32 word. -/
def exp32 (w : Nat) : Nat :=
  match f32 w with
  | .nan => 0x7FC00000
  | .inf true => 0
  | .inf false => 0x7F800000
  | .fin neg m e =>
    if m = 0 then 0x3F800000
    else if !dyLt m e 128 0 then (if neg then ulpPick 0 w false 1 (-300) else 0x7F800000)
    else
      let x : Int := FVal.int neg (floorScaled m 1 (e + fixP)).1
      let k : Int := x / (ln2Fix : Int)
      let r : Nat := (x - k * (ln2Fix : Int)).toNat
      ulpPick 0 w false (expTaylor r 44 (2 ^ fixP)) (k - fixP)

/-- 1/(2i+1) + z/(2i+3) + ... in fixed point, from the term below `i` down. -/
def lnSeries (z2 : Nat) : Nat → Nat → Nat
  | 0, acc => acc
  | i + 1, acc => lnSeries z2 i (2 ^ fixP / (2 * i + 1) + z2 * acc / 2 ^ fixP)

/-- ln of an FP32 word; -∞ at zero, NaN below it. -/
def ln32 (w : Nat) : Nat :=
  match f32 w with
  | .nan => 0x7FC00000
  | .inf true => 0x7FC00000
  | .inf false => 0x7F800000
  | .fin neg m e =>
    if m = 0 then 0xFF800000
    else if neg then 0x7FC00000
    else
      let l := Nat.log2 m
      let y := m <<< (fixP - l)
      let z := (y - 2 ^ fixP) * 2 ^ fixP / (y + 2 ^ fixP)
      let ly := 2 * (z * lnSeries (z * z / 2 ^ fixP) 64 0 / 2 ^ fixP)
      let v : Int := ((l : Int) + e) * (ln2Fix : Int) + ly
      if v = 0 then 0 else ulpPick 1 w (decide (v < 0)) v.natAbs (-(fixP : Int))

end Sys2Proof.Machine
end

