-- ==== Sys2Proof/Machine/Ops.lean ====
section
/-! DEFINITION. The named operations over the state that every family of commands is written in: registers, memory and
the address map (chapter 08), the members of the state's sparse lists, interrupts (R38), markers (R33, R39) and the
sending of messages (chapter 13). -/

namespace Sys2Proof.Machine

/-! ### Registers -/

/-- Value of the register at `off`. -/
def rget (off : Nat) (s : State) : Nat := AL.get (resetOf off) off s.regs

/-- Bits hi:lo of the register at `off`. -/
def rbits (off hi lo : Nat) (s : State) : Nat := bits (rget off s) hi lo

/-- Bit i of the register at `off`. -/
def rbit (off i : Nat) (s : State) : Bool := (rget off s).testBit i

/-- The hardware sets the register at `off`. -/
def rset (off v : Nat) (s : State) : State := { s with regs := AL.set (resetOf off) off v s.regs }

/-- The hardware sets bits hi:lo of the register at `off`. -/
def rsetBits (off hi lo x : Nat) (s : State) : State := rset off (setBits (rget off s) hi lo x) s

/-- The hardware sets bit i of the register at `off`: an event flag. -/
def rsetBit (off i : Nat) (s : State) : State := rset off (rget off s ||| (1 <<< i)) s

/-- The hardware clears bit i of the register at `off`. -/
def rclrBit (off i : Nat) (s : State) : State := rsetBits off i i 0 s

/-- A count that wraps modulo 2^32 goes up by n. -/
def rcountBy (off n : Nat) (s : State) : State := rset off ((rget off s + n) % 2 ^ 32) s

def rcount (off : Nat) (s : State) : State := rcountBy off 1 s

/-- A 16-bit count that saturates at 0xFFFF goes up by one; the bits above it stay. -/
def rcountSat (off : Nat) (s : State) : State :=
  rsetBits off 15 0 (min 0xFFFF (rbits off 15 0 s + 1)) s

/-- A misuse counts in the block's MISUSE register (R4, R373). -/
def misuse (b : Nat) (s : State) : State :=
  match misuseOf b with
  | none => s
  | some off => rcountSat off s

/-! ### Configuration and place of the module (R16, R281) -/

def myDev (s : State) : Nat := rbits R.KPR_CFG 13 8 s
def myDom (s : State) : Nat := rbits R.KPR_CFG 3 0 s
def standbyDev (s : State) : Nat := rbits R.KPR_CFG 31 24 s

/-- Device of the domain's manager: MANAGER of the record, or STANDBY after a take-over (R300). -/
def managerDev (s : State) : Nat := if s.keeper.tookOver then standbyDev s else rbits R.KPR_CFG 21 16 s

/-- Is this module the manager of its domain (R282, R300)? -/
def isManager (s : State) : Bool := myDev s == managerDev s

/-- Is device d present in the domain (R283)? -/
def present (d : Nat) (s : State) : Bool := (rget R.KPR_PRESENT s).testBit d

/-- The module's state of Table 17.3. -/
def pwrState (s : State) : Nat := rbits R.PWR_STAT 1 0 s

def inHoldfast (s : State) : Bool := pwrState s == 3

/-! ### Members of the state's lists -/

def qx (q : Nat) (s : State) : QueueX := AL.get {} q s.queues
def setQx (q : Nat) (x : QueueX) (s : State) : State := { s with queues := AL.set {} q x s.queues }
def corex (n : Nat) (s : State) : CoreX := AL.get {} n s.cores
def setCorex (n : Nat) (x : CoreX) (s : State) : State := { s with cores := AL.set {} n x s.cores }
def portx (p : Nat) (s : State) : PortX := AL.get {} p s.ports
def setPortx (p : Nat) (x : PortX) (s : State) : State := { s with ports := AL.set {} p x s.ports }
def slotx (q : Nat) (s : State) : SlotX := AL.get {} q s.kvp.slots
def setSlotx (q : Nat) (x : SlotX) (s : State) : State :=
  { s with kvp := { s.kvp with slots := AL.set {} q x s.kvp.slots } }
/-- A stream after module reset: port p is a ring at BASE p × 8,192 with 62 slots of 16,896 bytes (R188). -/
def freshStream (i : Nat) : StreamX := { base := 8192 * (i % 8), size := 132, slots := 62 }
def streamx (i : Nat) (s : State) : StreamX := AL.get (freshStream i) i s.streams
def setStreamx (i : Nat) (x : StreamX) (s : State) : State := { s with streams := AL.set (freshStream i) i x s.streams }
def halfx (h : Nat) (s : State) : HalfX := AL.get {} h s.halves
def setHalfx (h : Nat) (x : HalfX) (s : State) : State := { s with halves := AL.set {} h x s.halves }
def chanx (n : Nat) (s : State) : ChanX := AL.get {} n s.chans
def setChanx (n : Nat) (x : ChanX) (s : State) : State := { s with chans := AL.set {} n x s.chans }
def stashx (e : Nat) (s : State) : StashEntry := AL.get {} e s.stash
def setStashx (e : Nat) (x : StashEntry) (s : State) : State := { s with stash := AL.set {} e x s.stash }
def stashd (d : Nat) (s : State) : StashDie := AL.get {} d s.stashD
def setStashd (d : Nat) (x : StashDie) (s : State) : State := { s with stashD := AL.set {} d x s.stashD }
def compx (p : Nat) (s : State) : CompX := AL.get {} p s.comps
def setCompx (p : Nat) (x : CompX) (s : State) : State := { s with comps := AL.set {} p x s.comps }
def codecx (v : Nat) (s : State) : CodecX := AL.get {} v s.codecs
def setCodecx (v : Nat) (x : CodecX) (s : State) : State := { s with codecs := AL.set {} v x s.codecs }

/-- A free value is used up (log 2). -/
def bumpFree (s : State) : State := { s with freeCtr := s.freeCtr + 1 }

/-! ### Started commands (R31) -/

def startedAt (c : Nat) (s : State) : Option Started := s.started.find? (fun x => x.id == c)

def updStarted (c : Nat) (f : Started → Started) (s : State) : State :=
  { s with started := s.started.map (fun x => if x.id = c then f x else x) }

/-- The command's effect is complete (R34 then takes it). -/
def markDone (c : Nat) (s : State) : State := updStarted c (fun x => { x with state := .done }) s

/-- The command raises sticky flags of Table 2.8. -/
def addFlags (c fl : Nat) (s : State) : State := updStarted c (fun x => { x with flags := x.flags ||| fl }) s

/-- The command has made progress n. -/
def setProg (c n : Nat) (s : State) : State := updStarted c (fun x => { x with prog := n, begun := true }) s

/-! ### The address map (R140, R141) -/

/-- What an address of Table 8.1 reaches; `mem` carries the address at which the module itself holds the byte. -/
inductive Reach
  | mem (a : Nat)
  | acc (r off : Nat)
  | peer (d o : Nat)
  | regs (o : Nat)
  | none
  deriving DecidableEq, Repr, Inhabited

def stackedEnd : Nat := 0x008000000000
def spillBase : Nat := 0x010000000000
def spillEnd : Nat := 0x020000000000
def accBase : Nat := 0x040000000000
def accEnd : Nat := 0x042000000000
def peerBase : Nat := 0x100000000000
def peerEnd : Nat := 0x900000000000
def peerSize : Nat := 0x020000000000
def hostBase : Nat := 0xC00000000000
def hostEnd : Nat := 0xD00000000000
def regBase : Nat := 0xF00000000000
def regEnd : Nat := 0xF00004000000

def inStacked (a len : Nat) : Bool := decide (a + len ≤ stackedEnd)
def inSpill (a len : Nat) : Bool := decide (spillBase ≤ a) && decide (a + len ≤ spillEnd)
def inHost (a len : Nat) : Bool := decide (hostBase ≤ a) && decide (a + len ≤ hostEnd)

/-- What address `a` reaches for an engine of this module (R140, R141). -/
def reach (s : State) (a : Nat) : Reach :=
  if a < stackedEnd then .mem a
  else if a < spillBase then .none
  else if a < spillEnd then .mem a
  else if a < accBase then .none
  else if a < accEnd then .acc ((a - accBase) / 0x40000000) ((a - accBase) % 0x40000000)
  else if a < peerBase then .none
  else if a < peerEnd then
    let d := (a - peerBase) / peerSize
    let o := (a - peerBase) % peerSize
    if stackedEnd ≤ o ∧ o < spillBase then .none
    else if d = myDev s then .mem o
    else if present d s then .peer d o
    else .none
  else if a < hostBase then .none
  else if a < hostEnd then (if isManager s then .mem a else .none)
  else if a < regBase then .none
  else if a < regEnd then .regs (a - regBase)
  else .none

/-- Is `a` unmapped to an engine other than a DMA channel (R141)? -/
def unmappedAt (s : State) (a : Nat) : Bool :=
  match reach s a with
  | .none => true
  | .regs _ => true
  | _ => false

/-- First address above `a` at which another row of Table 8.1, or another peer window's part, begins. -/
def nextEdge (a : Nat) : Nat :=
  if a < stackedEnd then stackedEnd
  else if a < spillBase then spillBase
  else if a < spillEnd then spillEnd
  else if a < accBase then accBase
  else if a < accEnd then accEnd
  else if a < peerBase then peerBase
  else if a < peerEnd then
    let w := a - (a - peerBase) % peerSize
    let o := (a - peerBase) % peerSize
    if o < stackedEnd then w + stackedEnd else if o < spillBase then w + spillBase else w + peerSize
  else if a < hostBase then hostBase
  else if a < hostEnd then hostEnd
  else if a < regBase then regBase
  else if a < regEnd then regEnd
  else 0x1000000000000

def portState (p : Nat) (s : State) : Nat := rbits (R.LNK_Lnn_STAT p) 2 0 s

def portUp (p : Nat) (s : State) : Bool := portState p s == 3

/-- A port that takes traffic: UP, or in RETRAIN, during which traffic waits (R248). -/
def portUsable (p : Nat) (s : State) : Bool := portState p s == 3 || portState p s == 4

/-- The port by which a message to device d of domain dm leaves (R251, Table 13.2); none for the module itself. -/
def portTo (dm d : Nat) (s : State) : Option Nat :=
  if dm = myDom s then
    if d / 8 ≠ myDev s / 8 then some (7 + (d / 8 + 8 - myDev s / 8 - 1) % 8)
    else if d % 8 ≠ myDev s % 8 then some ((d % 8 + 8 - myDev s % 8 - 1) % 8)
    else none
  else some (14 + (dm + 11 - myDom s - 1) % 11)

/-- Does `a` lie in the memory of a peer whose port takes no traffic (R253)? -/
def cutOffAt (s : State) (a : Nat) : Bool :=
  match reach s a with
  | .peer d _ => (match portTo (myDom s) d s with | none => false | some p => !portUsable p s)
  | _ => false

/-- First address of the range from `a` to `e` - 1 that an engine cannot reach, unmapped or behind a lost port, looking at no more
than `n` rows. -/
def firstUnreachedGo (s : State) : Nat → Nat → Nat → Option Nat
  | 0, _, _ => none
  | n + 1, a, e =>
    if e ≤ a then none
    else if unmappedAt s a || cutOffAt s a then some a
    else firstUnreachedGo s n (nextEdge a) e

def firstUnreached (s : State) (a len : Nat) : Option Nat := firstUnreachedGo s 256 a (a + len)

/-- Cause with which an access to an address that cannot be reached fails (R141, R253). -/
def reachCause (s : State) (a : Nat) : Nat := if unmappedAt s a then 0x0140 else 0x0190

/-- Capture of an unmapped address (R141). -/
def captureUnmapped (a : Nat) (s : State) : State :=
  if rbit R.MEM_EVT 3 s then s else rsetBit R.MEM_EVT 3 (rset R.MEM_UNMAPPED (a % 2 ^ 48) s)

/-- Capture of an address that could not be reached, where it is unmapped. -/
def captureReach (a : Nat) (s : State) : State := if unmappedAt s a then captureUnmapped a s else s

/-! ### Bytes of memory -/

/-- The range of undefined contents that holds `a`, if any. -/
def undefAt (a : Nat) (s : State) : Option UndefRange := s.undef.find? (fun r => decide (r.lo ≤ a) && decide (a < r.hi))

/-- The byte the module's memory holds at its own address `a`. -/
def byteAt (a : Nat) (s : State) : Byte :=
  match undefAt a s with
  | some r => Config.freeByte r.tag a
  | none => AL.get 0 a s.mem

/-- What is left of a range when lo to hi - 1 are taken out. -/
def cutRange (lo hi : Nat) (r : UndefRange) : List UndefRange :=
  if hi ≤ r.lo ∨ r.hi ≤ lo then [r]
  else (if r.lo < lo then [{ r with hi := lo }] else []) ++ (if hi < r.hi then [{ r with lo := hi }] else [])

def cutUndef (lo hi : Nat) (l : List UndefRange) : List UndefRange := l.flatMap (cutRange lo hi)

/-- The memory's list with `b` written from `a` on. -/
def putBytes : Nat → Bytes → List Host.Cell → List Host.Cell
  | _, [], m => m
  | a, b :: t, m => putBytes (a + 1) t (AL.set 0 a b m)

/-- Number of the 128-byte line of an address. -/
def lineOf (a : Nat) : Nat := a / 128

/-- Interleave group of 1 GiB stretch number k of stacked memory, 64 × die + group (R142). -/
def groupOf (k : Nat) : Nat := 64 * (k / 256) + k % 64

/-- Interleave groups that n bytes from the module's own address `a` reach. -/
def groupsOf (a n : Nat) : List Nat :=
  if n = 0 then []
  else (((List.range ((a + n - 1) / 0x40000000 - a / 0x40000000 + 1)).map (· + a / 0x40000000)).filter (· < 512)).map groupOf

/-- A list with further members, each once. -/
def addNew (l : List Nat) (x : Nat) : List Nat := if l.contains x then l else x :: l

/-- An access reaches the groups of n bytes from `a` (R142). -/
def touchRange (a n : Nat) (s : State) : State := { s with touched := (groupsOf a n).foldl addNew s.touched }

/-- Poisoned lines after a write of a to a + n - 1: one that covers a whole line clears it (R146); one of poisoned data
marks every line it writes (R252). -/
def poisonAfter (a n : Nat) (bad : Bool) (l : List Nat) : List Nat :=
  let keep := l.filter (fun x => !(decide (a ≤ 128 * x) && decide (128 * x + 128 ≤ a + n)))
  if bad && n != 0 then
    let new := (List.range (lineOf (a + n - 1) - lineOf a + 1)).map (· + lineOf a)
    keep ++ new.filter (fun x => !keep.contains x)
  else keep

/-- The module's memory is written at its own addresses. -/
def storeBytes (a : Nat) (b : Bytes) (bad : Bool) (s : State) : State :=
  { s with mem := putBytes a b s.mem, undef := cutUndef a (a + b.length) s.undef,
           poison := poisonAfter a b.length bad s.poison, touched := (groupsOf a b.length).foldl addNew s.touched }

/-- The contents of lo to hi - 1 become undefined (log 4). -/
def forgetRange (lo hi : Nat) (s : State) : State :=
  { s with undef := cutUndef lo hi s.undef ++ (if lo < hi then [{ lo := lo, hi := hi, tag := s.freeCtr }] else []),
           freeCtr := s.freeCtr + 1 }

/-- The stored bytes from lo to hi - 1 become zero. -/
def zeroRange (lo hi : Nat) (s : State) : State :=
  { s with mem := s.mem.filter (fun c => !(decide (lo ≤ c.1) && decide (c.1 < hi))), undef := cutUndef lo hi s.undef,
           poison := s.poison.filter (fun x => !(decide (lo ≤ 128 * x) && decide (128 * x + 128 ≤ hi))) }

/-! ### Accumulator windows (R155) -/

def accRegion (r : Nat) (s : State) : Option AccRegion := findKey r s.acc

/-- FP32 word an accumulator window shows for element i. -/
def accWord (g : AccRegion) (i : Nat) : Nat :=
  let n := signed 64 (AL.get 0 i g.sums)
  (toF32 (ofDy (n, g.e))).1

/-- FP32 contribution as a 64-bit integer of scale 2^E, with flags (R155). -/
def accTerm (g : AccRegion) (w : Nat) : Int × Nat :=
  if g.int then (signed 32 w, 0)
  else
    match f32 w with
    | .nan => (0, flagInvalid)
    | .inf _ => (0, flagInvalid)
    | .fin neg m e =>
      let (q, rn, rd) := floorScaled m 1 (e - g.e)
      let k := if roundsUp .rne (q % 2 == 1) rn rd then q + 1 else q
      if 2 ^ 63 ≤ k then (FVal.int neg (2 ^ 63 - 1), flagOverflow) else (FVal.int neg k, 0)

/-- 4-byte groups of a string as words. -/
def words32 : Bytes → List Nat
  | a :: b :: c :: d :: t => ofLe [a, b, c, d] :: words32 t
  | _ => []

/-- Contributions from element i on. -/
def accAddAll (g : AccRegion) : Nat → List Nat → AccRegion × Nat
  | _, [] => (g, 0)
  | i, w :: t =>
    let (x, f) := accTerm g w
    let n := (AL.get 0 i g.sums + unsigned 64 x) % 2 ^ 64
    let (g', f') := accAddAll { g with sums := AL.set 0 i n g.sums } (i + 1) t
    (g', f ||| f')

/-! ### Engine reads -/

/-- The byte an engine reads at device address `a`. -/
def readByte (s : State) (a : Nat) : Byte :=
  match reach s a with
  | .mem o => byteAt o s
  | .acc r off =>
    (match accRegion r s with
     | none => 0
     | some g => if off / 4 < g.elements then BitVec.ofNat 8 (accWord g (off / 4) >>> (8 * (off % 4))) else 0)
  | .peer d o => Config.peerByte d o s.freeCtr
  | _ => 0

/-- The `n` bytes an engine reads from device address `a`. -/
def readBytes (s : State) (a n : Nat) : Bytes := (List.range n).map (fun i => readByte s (a + i))

/-- The number in `n` bytes from `a`. -/
def readNat (s : State) (a n : Nat) : Nat := ofLe (readBytes s a n)

/-- Is one of the lines `l` among those of n bytes from `a`? -/
def linesHit (l : List Nat) (a n : Nat) : Bool := n != 0 && l.any (fun x => decide (lineOf a ≤ x) && decide (x ≤ lineOf (a + n - 1)))

/-- Is any byte of the range poisoned (R146)? The lines of an accumulator window that poisoned contributions reached are. -/
def poisoned (s : State) (a n : Nat) : Bool :=
  match reach s a with
  | .mem o => linesHit s.poison o n
  | .acc r off => (match accRegion r s with | none => false | some g => linesHit g.bad off n)
  | _ => false

/-- Nothing is poisoned. -/
def noPoison (s : State) : Bool := s.poison.isEmpty && s.acc.all (fun g => g.2.bad.isEmpty)

/-- An engine's read reaches the groups of the range (R142). -/
def touchRead (s : State) (x : Nat × Nat) : State :=
  match reach s x.1 with
  | .mem o => touchRange o x.2 s
  | _ => s

def touchReads (l : List (Nat × Nat)) (s : State) : State := l.foldl touchRead s

/-- Does the home cache hold accesses to any of n bytes from device address `a`, for a bank command (R152)? -/
def bankHolds (a n : Nat) (s : State) : Bool :=
  !s.bank.ranges.isEmpty &&
  (match reach s a with
   | .mem o => n != 0 && s.bank.ranges.any (fun r => decide (o < r.1 + r.2) && decide (r.1 < o + n))
   | _ => false)

/-- A range becomes undefined if it is the module's own memory. -/
def forgetAt (s : State) (x : Nat × Nat) : State :=
  match reach s x.1 with
  | .mem a => forgetRange a (a + x.2) s
  | _ => s

/-! ### Interrupts (R38) -/

/-- Byte offset of the MSI-X capability in configuration space (log 118). -/
def msixCap : Nat := 0x48

/-- Is vector v held back: MSI-X disabled, the function masked, or the vector's own mask bit set (log 15)? -/
def vectorHeld (v : Nat) (s : State) : Bool :=
  let c := AL.get 0 msixCap s.pcie.cfg
  !c.testBit 31 || c.testBit 30 || decide (AL.get 1 (4 * v + 3) s.pcie.msix % 2 = 1)

/-- The manager signals MSI-X vector v; one that is held back is pending instead. A worker signals none. -/
def raiseVector (v : Nat) (s : State) : State :=
  if isManager s then
    if vectorHeld v s then
      { s with pcie := { s.pcie with pba := if s.pcie.pba.contains v then s.pcie.pba else v :: s.pcie.pba } }
    else { s with out := { s.out with irqs := v :: s.out.irqs } }
  else s

/-- Pending vectors that are no longer held back are signalled. -/
def deliverPending (s : State) : State :=
  if isManager s then
    let go := s.pcie.pba.filter (fun v => !vectorHeld v s)
    { s with pcie := { s.pcie with pba := s.pcie.pba.filter (fun v => vectorHeld v s) }, out := { s.out with irqs := go ++ s.out.irqs } }
  else s

/-- A reset sets what the host has written in configuration space and the MSI-X table back (R21, log 118). -/
def clearConfig (s : State) : State :=
  { s with pcie := { s.pcie with d3hot := false, cfg := [], msix := [], pba := [] } }

/-! ### Markers (R33, R39) -/

def markerCount (m : Nat) (s : State) : Nat := AL.get 0 m s.markers

/-- A wait on count c is satisfied (R32). -/
def satisfied (count c : Nat) : Bool := decide ((count + 2 ^ 32 - c % 2 ^ 32) % 2 ^ 32 < 2 ^ 31)

def numArms : Nat := 1792

/-- Does the arm image `v` fire in state s (R39)? -/
def armReady (v : Nat) (s : State) : Bool := bitAt v 63 && satisfied (markerCount (bits v 11 0) s) (bits v 47 16)

/-- Arm i fires if it is armed and satisfied: ARMED clears and vector 256 + i is raised. -/
def fireArm (i : Nat) (s : State) : State :=
  if armReady (rget (R.QFE_MARM i) s) s then
    raiseVector (256 + i) (rclrBit (R.QFE_MARM i) 63 s)
  else s

/-- Numbers of the arms that are armed. -/
def armed (s : State) : List Nat :=
  s.regs.filterMap (fun x =>
    if R.QFE_MARM 0 ≤ x.1 ∧ x.1 < R.QFE_MARM numArms ∧ bitAt x.2 63 then some ((x.1 - R.QFE_MARM 0) / 8) else none)

/-- Numbers of the arms that are armed on marker m. -/
def armsOf (m : Nat) (s : State) : List Nat :=
  s.regs.filterMap (fun x =>
    if R.QFE_MARM 0 ≤ x.1 ∧ x.1 < R.QFE_MARM numArms ∧ bitAt x.2 63 ∧ bits x.2 11 0 = m then some ((x.1 - R.QFE_MARM 0) / 8)
    else none)

/-- The count of marker m becomes v, and its arms are looked at. -/
def markerPut (m v : Nat) (s : State) : State :=
  let t := { s with markers := AL.set 0 m (v % 2 ^ 32) s.markers }
  (armsOf m t).foldl (fun t i => fireArm i t) t

/-- Every arm is looked at: marker counts have come from elsewhere (R39, R296). -/
def fireArms (s : State) : State := (armed s).foldl (fun t i => fireArm i t) s

/-- An add to marker m (R33). -/
def markerInc (m v : Nat) (s : State) : State := markerPut m (markerCount m s + v) s

/-! ### Messages (R243, R244, R247, R249, R251) -/

/-- CRC-64 with the ECMA-182 polynomial, most significant bit first (log 9). -/
def crc64Bit (c : Nat) : Nat → Nat
  | 0 => c
  | n + 1 => crc64Bit (if c.testBit 63 then ((c <<< 1) % 2 ^ 64) ^^^ 0x42F0E1EBA9EA3693 else c <<< 1) n

def crc64From (c : Nat) : Bytes → Nat
  | [] => c
  | b :: t => crc64From (crc64Bit (c ^^^ (b.toNat <<< 56)) 8) t

def crc64 (b : Bytes) : Nat := crc64From 0 b

/-- Header of a message (Table 13.5): 16 bytes. -/
def msgHeader (m : Msg) : Bytes :=
  leBytes 16 (m.kind.toNat + (nb m.cmp <<< 4) + (nb m.poison <<< 5) + (m.dstDev.toNat <<< 8) + (m.dstDom.toNat <<< 14)
    + (m.srcDev.toNat <<< 18) + (m.srcDom.toNat <<< 24) + (m.data.length <<< 32) + (m.addr.toNat <<< 64)
    + (m.tag.toNat <<< 112))

/-- The message a header and its data spell. -/
def msgOfHeader (h : Nat) (data : Bytes) : Msg :=
  { kind := BitVec.ofNat 4 (bits h 3 0), cmp := bitAt h 4, poison := bitAt h 5, dstDev := BitVec.ofNat 6 (bits h 13 8),
    dstDom := BitVec.ofNat 4 (bits h 17 14), srcDev := BitVec.ofNat 6 (bits h 23 18),
    srcDom := BitVec.ofNat 4 (bits h 27 24), addr := BitVec.ofNat 48 (bits h 111 64), tag := BitVec.ofNat 16 (bits h 127 112),
    data := data }

/-- Traffic class of a message kind (Table 13.6). -/
def classOf (kind : Nat) : Nat :=
  if kind = 1 ∨ kind = 2 ∨ kind = 6 then 0 else if kind = 3 then 1 else if kind = 7 then 3 else 2

/-- A flit of a TYPE (Table 13.3): every flit carries ACK, NAK and the freed counts. -/
def flitOf (x : PortX) (type tc seq : Nat) (body : Bytes) : Bytes :=
  let b := leBytes 2 (type + (tc <<< 2) + (nb x.nak <<< 4)) ++ leBytes 2 seq ++ leBytes 2 ((x.rxSeq + 4095) % 4096)
    ++ leBytes 2 0 ++ x.ownF.flatMap (leBytes 2) ++ leBytes 8 0 ++ padTo 224 body
  b ++ leBytes 8 (crc64 b)

/-- A DATA flit of class `tc`. -/
def dataFlit (x : PortX) (tc seq : Nat) (hdr data : Bytes) : Bytes :=
  flitOf x 1 tc seq (padTo 16 hdr ++ leBytes 16 0 ++ padTo 192 data)

/-- A flit of the replay buffer as it goes out now. -/
def resentFlit (x : PortX) (f : Nat × Bytes) : Bytes := flitOf x 1 (bits (u f.2 0 1) 3 2) f.1 (slice f.2 24 224)

/-- Port p sends a flit. -/
def emitFlit (p : Nat) (f : Bytes) (s : State) : State := { s with out := { s.out with flits := (p, f) :: s.out.flits } }

/-- The class stream's pieces of a message, each with the header slot it goes with: the header rides with the first. -/
def flitParts : Nat → Bytes → Bytes → List (Bytes × Bytes)
  | 0, _, _ => []
  | n + 1, h, d => if d.length ≤ 192 then [(h, d)] else (h, d.take 192) :: flitParts n [] (d.drop 192)

def msgParts (m : Msg) : List (Bytes × Bytes) :=
  flitParts (m.data.length / 192 + 1) (msgHeader m) (padTo (roundUp m.data.length 16) m.data)

/-- Is there credit for one more flit of class c, and room in the replay buffer (R247, R249)? -/
def mayTransmit (x : PortX) (c : Nat) : Bool :=
  decide ((x.sentU.getD c 0 + 65536 - x.seenF.getD c 0) % 65536 < x.farAlloc.getD c 0) && decide (x.replay.length < 2048)

/-- Has class c a flit waiting that may be sent? -/
def sendable (x : PortX) (c : Nat) : Bool := x.txq.any (fun f => f.1 == c) && mayTransmit x c

/-- The class that sends next (Table 13.6): TC3 before the others, but with one flit in four at most while another may send;
then TC1; then TC0 and TC2 in turn. -/
def nextClass (x : PortX) : Option Nat :=
  if sendable x 3 && (decide (3 ≤ x.since3) || !(sendable x 0 || sendable x 1 || sendable x 2)) then some 3
  else if sendable x 1 then some 1
  else if sendable x 0 && (x.last02 != 0 || !sendable x 2) then some 0
  else if sendable x 2 then some 2
  else none

/-- A waiting flit goes out, if there is one and it may. -/
def pumpOne (p : Nat) (s : State) : Option State :=
  let x := portx p s
  match nextClass x with
  | none => none
  | some c =>
    match x.txq.find? (fun f => f.1 == c) with
    | none => none
    | some f =>
      if portUp p s then
        let flit := dataFlit x c x.txSeq f.2.1 f.2.2
        some (rcount (R.LNK_Lnn_TXFLITS p) (emitFlit p flit (setPortx p { x with
          txq := x.txq.erase f, replay := x.replay ++ [(x.txSeq, flit)], txSeq := (x.txSeq + 1) % 4096,
          since3 := if c = 3 then 0 else min 3 (x.since3 + 1), last02 := if c = 0 ∨ c = 2 then c else x.last02,
          sentU := x.sentU.set c ((x.sentU.getD c 0 + 1) % 65536) } s)))
      else none

/-- Waiting flits go out, as long as credits and the replay buffer allow. -/
def pump (p : Nat) : Nat → State → State
  | 0, s => s
  | n + 1, s =>
    match pumpOne p s with
    | none => s
    | some t => pump p n t

/-- What a port that is UP has to say goes out: waiting flits, or an IDLE flit when no DATA flit is ready (R243). -/
def speak (p : Nat) (s : State) : State :=
  if portUp p s then
    let x := portx p s
    if (nextClass x).isSome then pump p x.txq.length s else emitFlit p (flitOf x 0 0 0 []) s
  else s

/-- Message m is handed to port p. -/
def sendOn (p : Nat) (m : Msg) (s : State) : State :=
  let x := portx p s
  let fl := (msgParts m).map (fun f => (classOf m.kind.toNat, f.1, f.2))
  let c := classOf m.kind.toNat
  let t := setPortx p { x with txq := x.txq ++ fl, handed := x.handed.set c (x.handed.getD c 0 + fl.length) }
    { s with out := { s.out with sent := (p, m) :: s.out.sent } }
  pump p (x.txq.length + fl.length) t

/-- A message of this module to device d of domain dm. -/
def mkMsg (s : State) (kind dm d addr tag : Nat) (data : Bytes) (bad : Bool := false) : Msg :=
  { kind := BitVec.ofNat 4 kind, cmp := false, poison := bad, dstDev := BitVec.ofNat 6 d, dstDom := BitVec.ofNat 4 dm,
    srcDev := BitVec.ofNat 6 (myDev s), srcDom := BitVec.ofNat 4 (myDom s), addr := BitVec.ofNat 48 addr,
    tag := BitVec.ofNat 16 tag, data := data }

/-- Flits of class c handed to port p that the link has acknowledged (R247). -/
def ackedOf (c p : Nat) (s : State) : Nat :=
  let x := portx p s
  x.handed.getD c 0 - ((x.txq.filter (fun f => f.1 == c)).length + (x.replay.filter (fun f => bits (u f.2 0 1) 3 2 == c)).length)

/-- The link has acknowledged all that was handed to ports in class c up to these marks: (port, flits handed). -/
def quiet (c : Nat) (l : List (Nat × Nat)) (s : State) : Bool := l.all (fun k => decide (k.2 ≤ ackedOf c k.1 s))

/-- Message m is sent on its way; none when the port it needs is lost (R253). -/
def sendMsg (m : Msg) (s : State) : Option State :=
  match portTo m.dstDom.toNat m.dstDev.toNat s with
  | none => some s
  | some p => if portUsable p s then some (sendOn p m s) else none

/-- A CTRL message of a TYPE of Table 13.9. -/
def ctrlMsg (s : State) (type dm d : Nat) (data : Bytes) : Msg := mkMsg s 7 dm d type 0 data

/-- A CTRL message is sent, or dropped where no port can take it. -/
def sendCtrl (type dm d : Nat) (data : Bytes) (s : State) : State :=
  (sendMsg (ctrlMsg s type dm d data) s).getD s

/-- A notice that must not be lost is sent, or waits for a port that can take it (R29). -/
def sendNotice (s : State) (m : Msg) : State :=
  match sendMsg m s with
  | some t => t
  | none => { s with notices := s.notices ++ [m] }

/-- Waiting notices are sent, as far as ports can take them. -/
def sendNotices (s : State) : State := s.notices.foldl sendNotice { s with notices := [] }

/-! ### Engine writes -/

/-- What a write by an engine came to: the state, a cause when it failed (R141, R155, R253), and sticky flags. -/
structure Wrote where
  s     : State
  cause : Option Nat := none
  flags : Nat := 0

/-- A write that falls wholly into one row of the address map. -/
def writeIn (a : Nat) (b : Bytes) (bad : Bool) (s : State) : Wrote :=
  match reach s a with
  | .mem o => { s := storeBytes o b bad s }
  | .acc r off =>
    (match accRegion r s with
     | none => { s := s, cause := some 0x0144 }
     | some g =>
       if g.closing || off % 4 != 0 || b.length % 4 != 0 || decide (g.elements * 4 < off + b.length) then
         { s := s, cause := some 0x0144 }
       else
         let (g', f) := accAddAll g (off / 4) (words32 b)
         let g' : AccRegion := { g' with bad := if bad then poisonAfter off b.length true g'.bad else g'.bad }
         { s := { s with acc := AL.insert r g' s.acc }, flags := f })
  | .peer d o =>
    (match sendMsg (mkMsg s 1 (myDom s) d o 0 b bad) s with
     | none => { s := s, cause := some 0x0190 }
     | some t => { s := t })
  | _ => { s := captureUnmapped a s, cause := some 0x0140 }

/-- An engine writes `b` from device address `a`; an access that meets an unmapped address writes nothing (R141). -/
def writeMem (a : Nat) (b : Bytes) (s : State) (bad : Bool := false) : Wrote :=
  match firstUnreached s a b.length with
  | some x => { s := captureReach x s, cause := some (reachCause s x) }
  | none =>
    if b.length = 0 then { s := s }
    else if a + b.length ≤ nextEdge a then writeIn a b bad s
    else
      let k := nextEdge a - a
      let w := writeIn a (b.take k) bad s
      match w.cause with
      | some _ => w
      | none =>
        let w2 := writeIn (a + k) (b.drop k) bad w.s
        { w2 with flags := w.flags ||| w2.flags }

/-- A write whose outcome nobody looks at: a store of the module's own structures at checked addresses. -/
def poke (a : Nat) (b : Bytes) (s : State) : State := (writeMem a b s).s

end Sys2Proof.Machine
end

