-- ==== Sys2Proof/Machine/Meter.lean ====
section
/-! DEFINITION. The closing of a metering interval (R301, R340, R341, Tables 18.5 and 18.6). Signing and acknowledgement
stand in `Naust`. -/

namespace Sys2Proof.Machine

/-- Records that Naust's buffer holds (R341). -/
def meterBuffer : Nat := 64

/-- The lowest set bit below 16. -/
def lowestBit (v : Nat) : Nat := (leastBelow 16 (fun i => v.testBit i)).getD 0

/-- BOOT_ID as a number, low byte first. -/
def bootId (s : State) : Nat := ofLe ((List.range 4).flatMap (fun i => leBytes 4 (rget (R.NST_BOOTID i) s)))

/-- Flash or fuse hash of 32 bytes. -/
def hash32 (b : Bytes) : Bytes := padTo 32 b

/-- NST_MBUF (Table 18.7). -/
def showMbuf (s : State) : State :=
  rset R.NST_MBUF (s.naust.held.length + (((match s.naust.held with | [] => 0 | r :: _ => r.seq) % 2 ^ 16) <<< 16)) s

/-- The record of the open interval, closed by `causes` (Table 18.5); PREV_HASH and SIG are put in when it is signed. -/
def meterRecord (causes : Nat) (extended : Bool) (s : State) : Bytes :=
  let n := s.naust
  let flags := nb extended + (nb (rbit R.NST_STAT 4 s) <<< 1) + (nb (inHoldfast s) <<< 2)
  padTo 1024 (leBytes 4 0x4D524651 ++ leBytes 2 1 ++ leBytes 1 (lowestBit causes) ++ leBytes 1 flags
    ++ leBytes 8 (rget R.NST_SERIAL s) ++ leBytes 16 (bootId s) ++ leBytes 4 n.seq ++ leBytes 4 (rget R.QFE_JOB s)
    ++ leBytes 1 (myDom s) ++ leBytes 1 (myDev s) ++ leBytes 2 causes ++ leBytes 4 0 ++ leBytes 8 n.start ++ leBytes 8 n.tick
    ++ leBytes 8 (rget R.KPR_BUSY s) ++ (List.range 16).flatMap (fun c => leBytes 8 (rget (R.KPR_IDLE c) s))
    ++ (List.range 4).flatMap (fun i => leBytes 8 (n.states.getD i 0)) ++ leBytes 8 (n.energy / 10 ^ 7) ++ leBytes 2 n.peakW
    ++ leBytes 2 n.minCeil ++ leBytes 1 (rbits R.PWR_HF_CAUSE 3 0 s) ++ leBytes 3 0 ++ leBytes 1 n.keeperCtr
    ++ leBytes 1 n.ceilCtr ++ leBytes 6 0 ++ hash32 n.fwHash ++ hash32 n.ceilHash)

/-- The bins start again from 0 at the tick at which the closed interval ended. -/
def openInterval (s : State) : State :=
  let t := (List.range 16).foldl (fun t c => rset (R.KPR_IDLE c) 0 t) (rset R.KPR_BUSY 0 s)
  { t with naust := { t.naust with start := t.naust.tick, states := [0, 0, 0, 0], energy := 0, samples := [], peakW := 0,
                                   minCeil := rbits R.PWR_CEIL_W 11 0 t, causes := 0 } }

/-- A further cause in the tick of the last close joins that record's CAUSES and CAUSE (R340). -/
def joinRecord (cause : Nat) (r : MeterRec) : MeterRec :=
  let cs := u r.bytes 42 2 ||| 2 ^ cause
  { r with bytes := patch (patch r.bytes 42 (leBytes 2 cs)) 6 (leBytes 1 (lowestBit cs)) }

/-- Does the last record held end at the present tick, unsigned? -/
def closedThisTick (s : State) : Bool :=
  match s.naust.held.getLast? with
  | none => false
  | some r => !r.signed && u r.bytes 56 8 == s.naust.tick && s.naust.start == s.naust.tick && r.seq + 1 == s.naust.seq

/-- A closing cause of Table 18.6 (R340, R341): a record enters the buffer; while the buffer is full the cause is only
kept, and the record that closes the interval in the end carries EXTENDED. -/
def closeInterval (cause : Nat) (s : State) : State :=
  let n := s.naust
  if closedThisTick s then
    { s with naust := { n with held := n.held.dropLast ++ (n.held.getLast?.map (joinRecord cause)).toList } }
  else if meterBuffer ≤ n.held.length then { s with naust := { n with causes := n.causes ||| 2 ^ cause } }
  else
    let r : MeterRec := { bootId := bootId s, seq := n.seq, bytes := meterRecord (n.causes ||| 2 ^ cause) (n.causes != 0) s }
    let t := openInterval { s with naust := { n with held := n.held ++ [r], seq := n.seq + 1 } }
    showMbuf (if n.held.length + 1 = meterBuffer then rsetBit R.NST_EVT 2 t else t)

end Sys2Proof.Machine
end

