-- ==== Sys2Proof/Machine/Errors.lean ====
section
/-! DEFINITION. What every family of commands shares beside its own work: snapshot triggers (R342 to R347), the five
error classes (R351 to R353), completion records (R35), and the stopping of the queues on a job-fatal error and on entry
to Holdfast (Table 2.9, R329, R354, R355). -/

namespace Sys2Proof.Machine

/-! ### Block codes (Table 19.3) -/

def bHIF : Nat := 0
def bQFE : Nat := 1
def bCORE : Nat := 2
def bVCH : Nat := 3
def bATT : Nat := 4
def bKVP : Nat := 5
def bSHC : Nat := 6
def bMEM : Nat := 7
def bBNK : Nat := 8
def bSPL : Nat := 9
def bSTR : Nat := 10
def bDMA : Nat := 11
def bSTS : Nat := 12
def bCMP : Nat := 13
def bLNK : Nat := 14
def bRLY : Nat := 15
def bCDC : Nat := 16
def bKPR : Nat := 17
def bNST : Nat := 18
def bPWR : Nat := 19
def bSNP : Nat := 20
def bERR : Nat := 21

/-! ### Triggers -/

/-- Data of a TRIGGER message (Table 13.9). -/
def triggerData (num hops : Nat) : Bytes := padTo 16 (leBytes 4 num ++ leBytes 1 hops)

/-- A trigger is sent on every port of SNP_FWD.PORTS that is UP, but for `except` (R347). -/
def forwardTrigger (num hops : Nat) (except : Option Nat) (s : State) : State :=
  (setPositions 24 (rbits R.SNP_FWD 23 0 s)).foldl
    (fun t p => if portUp p t && except != some p then sendOn p (ctrlMsg t 0x18 (myDom t) (myDev t) (triggerData num hops)) t else t) s

/-- What follows every trigger, latched or not: the pulse of SNAP_OUT (R348) and the messages of R347. -/
def announceTrigger (t : Trig) (s : State) : State :=
  let s1 := if rbit R.SNP_CTL 3 s then { s with snap := { s.snap with out := true } } else s
  if t.src = 4 then (if 0 < t.hops then forwardTrigger t.num (t.hops - 1) (some t.port) s1 else s1)
  else if t.fwd then forwardTrigger t.num (rbits R.SNP_FWD 26 24 s1) none s1
  else s1

/-- A trigger that is not latched counts (R344, R346). -/
def dropTrigger (t : Trig) (s : State) : State :=
  announceTrigger t (rset R.SNP_LASTDROP t.num (rcountSat R.SNP_DROP s))

/-- A trigger enters the root's queue of 16 (R344): a Holdfast trigger ahead of every other and never dropped. Its number is
among the module's last 16 from now on (R347). -/
def queueTrigger (t : Trig) (s : State) : State :=
  let s := { s with snap := { s.snap with last := (t.num :: s.snap.last).take 16 } }
  if t.hf then { s with snap := { s.snap with queue := t :: s.snap.queue } }
  else if s.snap.queue.length < 16 then { s with snap := { s.snap with queue := s.snap.queue ++ [t] } }
  else dropTrigger t s

/-- Number of a module event (R343, Table 19.2). -/
def eventNumber (kind block : Nat) (s : State) : Nat :=
  2 ^ 31 + (myDom s <<< 27) + (myDev s <<< 21) + (kind <<< 18) + (block <<< 13) + rbits R.SNP_SEQ 12 0 s

/-- The root forms a number and raises a trigger of source 0. -/
def moduleTrigger (kind block : Nat) (hf : Bool) (s : State) : State :=
  let n := eventNumber kind block s
  queueTrigger { num := n, src := 0, fwd := true, hf := hf }
    (rset R.SNP_SEQ ((rget R.SNP_SEQ s + 1) % 2 ^ 13) s)

/-- A SNAP_ON_ bit: bit i of the register at `off` asks for a trigger on this event (KIND 5, or 1 for a retried
error). -/
def snapOn (off i kind block : Nat) (s : State) : State :=
  if rbit off i s then moduleTrigger kind block false s else s

/-! ### Error classes -/

/-- An ERR_LOG entry (Table 19.8). -/
def logEntry (cls block cause queue inst seq : Nat) (trig : Bool) : Nat :=
  cls + (block <<< 3) + (cause <<< 8) + (queue <<< 24) + (inst <<< 32) + (seq <<< 40) + (nb trig <<< 53) + 2 ^ 63

/-- The log takes an entry of class 2 to 4 (R353). -/
def logError (cls v : Nat) (s : State) : State :=
  let h := rget R.ERR_LOG_HEAD s
  let t := rset (R.ERR_LOG (h % 16)) v s
  let t := rset R.ERR_LOG_HEAD ((h % 16 + 1) % 16 + (((bits h 31 16 + 1) % 2 ^ 16) <<< 16)) t
  if 3 ≤ cls ∧ rget R.ERR_FATAL t = 0 then rset R.ERR_FATAL v t else t

/-- Vectors of an error (R352). -/
def errorVector (cls : Nat) (first : Bool) (s : State) : State :=
  match cls with
  | 0 => if first then raiseVector 128 s else s
  | 1 => if first then raiseVector 128 s else s
  | 2 => raiseVector 129 s
  | 3 => raiseVector 130 s
  | _ => s

/-- An error is counted once in its class, sets its ERR_EVT bit, may raise a trigger and a vector, and is logged from
class 2 up (R352, R353). Queue 0x3F is none. -/
def reportError (cls block cause queue inst : Nat) (s : State) : State :=
  let first := !rbit R.ERR_EVT cls s
  let s1 := if cls < 2 then rcount (R.ERR_CNT cls) s else rcountSat (R.ERR_CNT cls) s
  let s2 := rsetBit R.ERR_EVT cls s1
  let trig := rbit R.ERR_SNAP cls s2 && !(cls == 4 && inHoldfast s2)
  let seq := if trig then rbits R.SNP_SEQ 12 0 s2 else 0
  let s3 := if trig then moduleTrigger cls block (cls == 4) s2 else s2
  let s4 := if 2 ≤ cls then logError cls (logEntry cls block cause queue inst seq trig) s3 else s3
  errorVector cls first s4

def noQueue : Nat := 0x3F

/-! ### Locks (R375, Table 0.2) -/

/-- Is the lock bit of block b set? -/
def isLocked (b : Nat) (s : State) : Bool := match lockOf b with | none => false | some off => rbit off 0 s

/-- A write met a locked field: it is ignored and counted. -/
def countLocked (s : State) : State := rcountSat R.ERR_LOCKED_WRITES s

/-! ### Queue state -/

def qState (q : Nat) (s : State) : Nat := rbits (R.QFE_Qn_STAT q) 2 0 s
def setQState (q v : Nat) (s : State) : State := rsetBits (R.QFE_Qn_STAT q) 2 0 v s
def qRunning : Nat := 1
def qHalted : Nat := 2
def qStalled : Nat := 3
def qSuspended : Nat := 4
def qStopping : Nat := 5
def numQueues : Nat := 45

/-- Entries of a ring (R26). -/
def ringSize (q : Nat) (s : State) : Nat := 2 ^ rbits (R.QFE_Qn_SIZE q) 4 0 s

/-! ### Completion records (R35) -/

/-- Status codes of Table 2.9. -/
def stOK : Nat := 0
def stOutOfState : Nat := 1
def stMalformed : Nat := 2
def stContained : Nat := 3
def stWaitTimeout : Nat := 4
def stAborted : Nat := 5
def stSkipped : Nat := 6
def stJobFatal : Nat := 7
def stHoldfast : Nat := 8

/-- Layout of Table 2.8. -/
def recordBytes (q : Nat) (f : Flight) (status unit detail : Nat) : Bytes :=
  leBytes 2 f.entryId ++ leBytes 1 q ++ leBytes 1 status ++ leBytes 4 unit ++ leBytes 4 f.flags ++ leBytes 4 f.done
    ++ leBytes 8 f.user ++ leBytes 4 f.jobTag ++ leBytes 2 detail ++ leBytes 1 0 ++ leBytes 1 (nb f.phase)

/-- The ring entry that 64 bytes spell (Table 2.5), at ring index `idx` in the pass of PHASE `phase`. -/
def parseEntry (b : Bytes) (idx : Nat) (phase : Bool) : Flight :=
  let kind := u b 2 1
  { idx := idx, phase := phase, entryId := u b 0 2, kind := kind, irq := bitAt (u b 3 1) 0, user := u b 16 8, jobTag := u b 24 4,
    target := u b 28 1, listAddr := u b 8 6, units := if kind = 1 then u b 4 4 else if kind = 2 then 1 else 0,
    body := if kind = 2 then some (slice b 32 32) else none }

/-- Address of entry `idx` in the ring of queue q. -/
def entryAddr (q idx : Nat) (s : State) : Nat := rget (R.QFE_Qn_BASE q) s + 64 * idx

def qHead (q : Nat) (s : State) : Nat := rget (R.QFE_Qn_HEAD q) s
def qTail (q : Nat) (s : State) : Nat := rget (R.QFE_Qn_TAIL q) s

/-- The entry at ring index `idx` of queue q, as the ring holds it now: an index below head lies in the next pass. -/
def ringEntry (q idx : Nat) (s : State) : Flight :=
  let x := qx q s
  parseEntry (readBytes s (entryAddr q idx s) 64) idx (if qHead q s ≤ idx then x.phase else !x.phase)

/-- Address of the completion record of ring index `idx`. -/
def recordAddr (q idx : Nat) (s : State) : Nat := rget (R.QFE_Qn_CBASE q) s + 32 * idx

/-- Is the started command one of entry `idx` of queue q? -/
def ofEntry (q idx : Nat) (x : Started) : Bool := x.q == q && x.idx == idx

/-- Flags gathered so far over the list of entry `idx` by commands that have not completed (R63). -/
def openFlags (q idx : Nat) (s : State) : Nat := (s.started.filter (ofEntry q idx)).foldl (fun a x => a ||| x.flags) 0

/-- The record of an entry is written, or on a worker sent to the manager (R28, R34, R35). -/
def writeRecord (q : Nat) (f : Flight) (status unit detail : Nat) (s : State) : State :=
  let b := recordBytes q { f with flags := f.flags ||| openFlags q f.idx s } status unit detail
  if f.remote then sendCtrl 0x24 (myDom s) (managerDev s) (padTo 48 (b ++ leBytes 4 f.idx)) s
  else
    let t := poke (recordAddr q f.idx s) b s
    if f.irq then raiseVector q t else t

/-- Header of the first command of an entry's list, in list order, that has not completed (Table 2.9). -/
def firstUnfinished (q : Nat) (f : Flight) (s : State) : Nat :=
  (s.started.filter (ofEntry q f.idx)).foldl (fun a x => min a x.unit) f.pos

/-! ### Stopping started commands (Table 2.15) -/

def opcodeOf (b : Bytes) : Nat := u b 0 1
def engineOf (b : Bytes) : Nat := u b 1 1

/-- Does a command of this engine and opcode stop at an internal point (Table 2.15)? -/
def stopsInside (eng op : Nat) : Bool :=
  (eng == 1 && (op == 0x10 || op == 0x11 || op == 0x12 || op == 0x22 || (decide (0x30 ≤ op) && decide (op ≤ 0x33))
    || (decide (0x50 ≤ op) && decide (op ≤ 0x53)))) ||
  (eng == 2 && (op == 0x60 || op == 0x70)) ||
  (eng == 3 && op != 0x86) || (eng == 4 && (op == 3 || op == 4))

/-- A core forgets its work on the commands `cs`. -/
def dropWork (cs : List Nat) (x : CoreX) : CoreX :=
  { x with ready := x.ready.filter (fun h => !cs.contains h.c), queued := x.queued.filter (fun h => !cs.contains h.c),
           run := (match x.run with | none => none | some h => if cs.contains h.c then none else some h),
           ftq := x.ftq.filter (fun t => !cs.contains t.c) }

/-- Has channel n a transfer in flight? -/
def chanBusy (n : Nat) (s : State) : Bool := (halfx (n / 16) s).transfers.any (fun t => t.owner == 512 + n)

/-- A channel comes to rest in STATE `st` with ERR `err`: RESIDUE, vector 136, and DMA_EVT for a direct start (R203, R204,
R205). -/
def chanEnd (n st err : Nat) (s : State) : State :=
  let x := chanx n s
  let t := if st = 2 then setChanx n {} s else rset (R.DMA_Dnn_RESIDUE n) (x.count - x.issued) (setChanx n {} s)
  let t := rclrBit (R.DMA_Dnn_CTL n) 0 (rsetBits (R.DMA_Dnn_STAT n) 7 4 err (rsetBits (R.DMA_Dnn_STAT n) 2 0 st t))
  let direct := !rbit (R.DMA_Dnn_STAT n) 8 t
  let t := if direct then rsetBit R.DMA_EVT n t else t
  if st != 2 || (direct && x.irq) then raiseVector 136 t else t

/-- A running channel issues no further transfer, and is at rest when none is in flight (R203). -/
def chanAbort (n : Nat) (s : State) : State :=
  if chanBusy n s then rsetBits (R.DMA_Dnn_STAT n) 2 0 5 s else chanEnd n 4 0 s

/-- A channel that serves a stopped command ends as an abort does (R203). -/
def stopChannel (cs : List Nat) (s : State) (n : Nat) : State :=
  let x := chanx n s
  match x.cmd with
  | none => s
  | some c => if cs.contains c then chanAbort n (setChanx n { x with cmd := none } s) else s

/-- The streams forget the pieces of stopped commands. -/
def dropPieces (cs : List Nat) (s : State) : State :=
  s.streams.foldl (fun t k =>
    let x := streamx k.1 t
    setStreamx k.1 { x with pieces := x.pieces.filter (fun p => !cs.contains p.c) } t) s

/-! ### Reduction buffers (R254 to R256) -/

def showRbq (s : State) : State := rset R.LNK_RBQ (s.redWait.length % 256 + ((s.admitted.length % 256) <<< 8)) s

def rbFree (p : Nat) (s : State) : Nat := rbits (R.LNK_Lnn_RBFREE p) 5 0 s

/-- An admitted operation that has completed or failed gives its tokens back. -/
def releaseOp (o : RedOp) (s : State) : State :=
  let t := o.needs.foldl (fun t n => rset (R.LNK_Lnn_RBFREE n.1) (min 32 (rbFree n.1 t + n.2)) t) s
  showRbq { t with admitted := t.admitted.erase o }

/-- The buckets and reductions of stopped REDUCEs are given up. -/
def dropBuckets (cs : List Nat) (s : State) : State :=
  let gone := (s.relay.buckets.filter (fun k => match k.c with | none => false | some c => cs.contains c)).map (·.num)
  let t := (s.admitted.filter (fun o => gone.contains o.bucket)).foldl (fun t o => releaseOp o t) s
  let t : State := { t with redWait := t.redWait.filter (fun o => !gone.contains o.bucket),
                            relay := { t.relay with buckets := t.relay.buckets.filter (fun k => !gone.contains k.num),
                                                    reorder := t.relay.reorder.filter (fun b => !gone.contains b) } }
  if gone.isEmpty then t
  else rsetBits R.RLY_OPEN 22 16 t.relay.reorder.length (rsetBits R.RLY_OPEN 8 0 t.relay.buckets.length (showRbq t))

/-- The status of core n once work has been taken from it: its finished tiles, and idle when no share and no leg is left. -/
def showCore (s : State) (n : Nat) : State :=
  let k := corex n s
  let t := rsetBits (R.VCH_Cnn_STAT n) 12 8 k.ftq.length s
  if k.run.isNone then rset (R.ATT_Cnn_STAT n) 0 (rset (R.CORE_Cnn_STAT n) 0 t) else t

/-- The bank units are idle once the bank command among those stopped is gone, and hold no access (R152, Table 9.9). -/
def freeBanks (inner : List Started) (s : State) : State :=
  if inner.any (fun x => engineOf x.bytes == 1 && decide (0x50 ≤ opcodeOf x.bytes) && decide (opcodeOf x.bytes ≤ 0x53)) then
    rsetBits R.BNK_STAT 23 8 0 (rclrBit R.BNK_STAT 1 { s with bank := { s.bank with ranges := [] } })
  else s

/-- Started commands satisfying `p` stop at the points of Table 2.15: those that stop inside leave what they may write
undefined (log 4), the others run to their end; none makes a SIGNAL add or a record. -/
def stopCommands (p : Started → Bool) (s : State) : State :=
  let inner := s.started.filter (fun x => p x && stopsInside (engineOf x.bytes) (opcodeOf x.bytes))
  let cs := inner.map (·.id)
  let s1 : State := { s with
    started := (s.started.filter (fun x => !cs.contains x.id)).map (fun x => if p x then { x with muted := true } else x),
    cores := s.cores.map (fun k => (k.1, dropWork cs k.2)),
    relay := { s.relay with ops := s.relay.ops.filter (fun o => !cs.contains o.c) } }
  let s1 := (s1.cores.map (·.1)).foldl showCore s1
  let s2 := (inner.flatMap (·.outs)).foldl (fun t r => forgetRange r.1 (r.1 + r.2) t) (dropBuckets cs (dropPieces cs s1))
  (List.range 32).foldl (stopChannel cs) (freeBanks inner s2)

/-- A queue's entries are forgotten and it goes to DISABLED. -/
def disableQueue (q : Nat) (s : State) : State :=
  setQx q {} (rsetBits (R.QFE_Qn_STAT q) 7 0 0 (rset (R.QFE_Qn_HALT q) 0 (rclrBit (R.QFE_Qn_CTL q) 0 s)))

/-- The oldest unfinished entry of a queue gets a record of `status`, and the queue is DISABLED (Table 2.9). DESIGN CHOICE
(log 140): every queue that is not DISABLED counts as a running queue. -/
def stopQueue (status : Nat) (s : State) (q : Nat) : State :=
  if qState q s = 0 then s
  else
    match (qx q s).flights ++ (qx q s).inbox with
    | [] =>
      disableQueue q (if qHead q s = qTail q s then s else writeRecord q (ringEntry q (qHead q s) s) status 0 0 s)
    | f :: _ => disableQueue q (writeRecord q f status (firstUnfinished q f s) 0 s)

/-- Every queue stops with a record of `status`, and the started commands stop. -/
def stopAll (status : Nat) (s : State) : State :=
  stopCommands (fun _ => true) ((List.range numQueues).foldl (stopQueue status) s)

/-! ### Holdfast (R329, R355) -/

/-- Codes of PWR_HF_CAUSE. -/
def hfChip : Nat := 1
def hfDie : Nat := 2
def hfStack : Nat := 3
def hfCoolant : Nat := 4
def hfInput : Nat := 5
def hfHold : Nat := 6

/-- Change of the module's state of Table 17.3 (R321). -/
def setPwrState (v : Nat) (s : State) : State :=
  if pwrState s = v then s
  else raiseVector 132 (rsetBit R.PWR_EVT 0 (rsetBits R.PWR_STAT 1 0 v s))

/-- Is power domain d on (R318)? -/
def domainOn (d : Nat) (s : State) : Bool := rbit (R.PWR_DOM (d / 32)) (d % 32) s

def setDomain (d : Nat) (on : Bool) (s : State) : State := rsetBits (R.PWR_DOM (d / 32)) (d % 32) (d % 32) (nb on) s

/-- Domains of the stacks and of the spill tier. -/
def memoryDomains : List Nat := (List.range 8).map (· + 72) ++ (List.range 9).map (· + 129)

/-- Domains that Slack switches off or retains (Table 17.1). -/
def slackDomains : List Nat := List.range 64 ++ memoryDomains ++ [87, 88, 114, 115] ++ (List.range 13).map (· + 116)

/-- Is the stack, or the spill tier, of domain d in self-refresh? -/
def refreshing (d : Nat) (s : State) : Bool :=
  if 72 ≤ d ∧ d < 80 then rbit (R.MEM_Sn_STAT (d - 72)) 12 s else d == 129 && rbit R.SPL_STAT 2 s

/-- Have the stacks and the spill tier left self-refresh? -/
def memoryAwake (s : State) : Bool := memoryDomains.all (fun d => domainOn d s && !refreshing d s)

/-- Is Neap due: NEAP_REQ, or a forced cause in effect (Table 17.3)? -/
def neapDue (s : State) : Bool := rbit R.PWR_CTL 0 s || rbits R.PWR_STAT 6 4 s != 0

/-- Stacks whose vertical interface has neither its tokens nor a request. -/
def vertsWithout (s : State) : List StackN :=
  (List.finRange 8).filter (fun k => !s.power.vert.contains k.val && !s.power.requests.any (fun r => r.1 == .vert k))

/-- The module leaves Slack (Table 17.3): domains that were off are being woken, and the vertical interfaces ask for their
tokens. -/
def leaveSlack (s : State) : State :=
  if pwrState s = 2 then
    let t := setPwrState (if neapDue s then 1 else 0) s
    let off := slackDomains.filter (fun d => (!domainOn d t || refreshing d t) && !t.power.waking.contains d)
    { t with power := { t.power with waking := t.power.waking ++ off,
                                     requests := t.power.requests ++ (vertsWithout t).map (fun k => (.vert k, 300)) } }
  else s

/-- Entry to Holdfast up to cycle 2,500 of Table 17.6: the cause is latched, the queues stop with HOLDFAST records, vector
131 is raised and the engines stop. A further cause during entry goes to SECOND. -/
def enterHoldfast (cause num : Nat) (s : State) : State :=
  if inHoldfast s then
    if rbits R.PWR_HF_CAUSE 7 4 s = 0 ∧ !s.power.shutDown then rsetBits R.PWR_HF_CAUSE 7 4 cause s else s
  else
    raiseVector 131 (stopAll stHoldfast
      (setPwrState 3 (rclrBit R.HIF_WIN_STAT 0 (rsetBits R.HIF_BOOT 3 0 7 (rsetBits R.PWR_HF_CAUSE 31 16 num (rsetBits R.PWR_HF_CAUSE 3 0 cause s))))))

/-- A chip-fatal error (R355): logged, and entry to Holdfast. -/
def chipFatal (block src queue inst : Nat) (s : State) : State :=
  enterHoldfast hfChip src (reportError 4 block src queue inst s)

/-- A thermal emergency or an input condition (R328, R317): entry to Holdfast with a trigger of its own (Table 19.1). -/
def emergency (cause num : Nat) (s : State) : State :=
  if inHoldfast s then enterHoldfast cause num s
  else enterHoldfast cause num (moduleTrigger 5 bPWR true s)

/-! ### Job-fatal and contained errors -/

/-- JOB states of Table 15.3. -/
def jobState (s : State) : Nat := rbits R.KPR_STAT 2 0 s

def jobRecovering : Nat := 5

/-- The manager places the job in RECOVERING, and its metering interval closes (R298, R301, R354). -/
def recovering (s : State) : State :=
  if isManager s && jobState s != 0 && jobState s != jobRecovering then
    rsetBits R.KPR_STAT 2 0 jobRecovering (closeInterval 8 s)
  else s

/-- A job-fatal error (R354): logged, JOB_FATAL records, and the notice to the manager. -/
def jobFatal (block cause inst : Nat) (s : State) : State :=
  let h := rget R.ERR_LOG_HEAD s % 16
  let s1 := reportError 3 block cause noQueue inst s
  let s2 := stopAll stJobFatal s1
  if isManager s2 then recovering s2
  else sendCtrl 0x23 (myDom s2) (managerDev s2)
    (padTo 16 (leBytes 1 (myDev s2) ++ leBytes 1 (myDom s2) ++ leBytes 6 0 ++ leBytes 8 (rget (R.ERR_LOG h) s2))) s2

/-! ### Entries of a queue -/

/-- The entry of a queue at ring index `idx`. -/
def flightAt (q idx : Nat) (s : State) : Option Flight := (qx q s).flights.find? (fun f => f.idx == idx)

/-- An entry has started when one of its commands has started or counts as completed, or when it has been forwarded. -/
def Flight.begun (f : Flight) : Bool := f.pos != 0 || f.sent

/-- Commands of the list are still to start on this module. -/
def Flight.more (f : Flight) : Bool := decide (f.pos < f.units) && !f.sent

def setFlight (q : Nat) (f : Flight) (s : State) : State :=
  setQx q { qx q s with flights := (qx q s).flights.map (fun g => if g.idx = f.idx then f else g) } s

def dropFlight (q idx : Nat) (s : State) : State :=
  setQx q { qx q s with flights := (qx q s).flights.filter (fun g => g.idx != idx) } s

/-- Head goes to `k`; PHASE is inverted when it passes the ring's end (R35). -/
def setHead (q k : Nat) (s : State) : State :=
  let t := if k < qHead q s ∨ k = ringSize q s then setQx q { qx q s with phase := !(qx q s).phase } s else s
  rset (R.QFE_Qn_HEAD q) (k % ringSize q s) t

/-- Head goes past the entry that stood at it, and past those discarded behind it. -/
def advanceHead (q : Nat) (s : State) : State :=
  match (qx q s).jump with
  | some k => setHead q k (setQx q { qx q s with jump := none } s)
  | none => setHead q (qHead q s + 1) s

/-- The entry at the head starts (QFE_Qn_HEAD). On a worker the ring's entries start in the order in which they came. -/
def entryStarts (q : Nat) (f : Flight) (s : State) : State :=
  if f.begun then s
  else if f.remote then rset (R.QFE_Qn_HEAD q) ((qHead q s + 1) % ringSize q s) s
  else if qHead q s = f.idx then advanceHead q s
  else s

/-- The entry finishes: its record is written, once, and the queue forgets it (R34, R35). -/
def finishEntry (q : Nat) (f : Flight) (status unit detail : Nat) (s : State) : State :=
  entryStarts q f (dropFlight q f.idx (writeRecord q f status unit detail s))

/-- Has every command of the entry started, and none is left unfinished? -/
def entryWhole (q : Nat) (f : Flight) (s : State) : Bool :=
  !f.sent && decide (f.units ≤ f.pos) && !s.started.any (ofEntry q f.idx)

/-- An entry that is whole finishes OK, or SKIPPED with the last skipped command (R37). -/
def settleEntry (q idx : Nat) (s : State) : State :=
  match flightAt q idx s with
  | none => s
  | some f =>
    if entryWhole q f s then
      (match f.skipped with
       | none => finishEntry q f stOK 0 0 s
       | some k => finishEntry q f stSkipped k 0 s)
    else s

/-! ### FLUSH (R41) -/

/-- Does the queue stand halted, or did it when it was suspended (R295)? -/
def standsHalted (q : Nat) (s : State) : Bool :=
  qState q s == qHalted || ((qState q s == qSuspended || qState q s == qStopping) && (qx q s).before == qHalted)

/-- Does the halt that the queue shows, or one held behind it, concern the entry? -/
def entryHalted (q idx : Nat) (s : State) : Bool :=
  standsHalted q s && (rbits (R.QFE_Qn_HALT q) 47 32 s == idx || (qx q s).held.any (fun h => h.idx == idx))

/-- Ring indices from k up to, and without, the tail. -/
def ringFrom (q k : Nat) (s : State) : List Nat :=
  ((List.range (ringSize q s)).map (fun i => (k + i) % ringSize q s)).takeWhile (fun i => i != qTail q s)

/-- Does the entry that stands at the head stay there because it is halted? -/
def headStays (q : Nat) (s : State) : Bool := entryHalted q (qHead q s) s && qHead q s != qTail q s

/-- Every unstarted entry up to the tail is discarded, each with an ABORTED record, but for one that stands halted. -/
def flushNow (q : Nat) (s : State) : State :=
  let loose := (qx q s).flights.filter (fun f => !f.begun && !entryHalted q f.idx s)
  let s1 := loose.foldl (fun t f => finishEntry q f stAborted 0 0 t) s
  if isManager s1 then
    let stays := headStays q s1
    let k := if stays then (qx q s1).jump.getD ((qHead q s1 + 1) % ringSize q s1) else qHead q s1
    let s2 := (ringFrom q k s1).foldl (fun t i => writeRecord q (ringEntry q i t) stAborted 0 0 t) s1
    let s3 := setQx q { qx q s2 with flush := false } s2
    if stays then (if k = qTail q s3 then s3 else setQx q { qx q s3 with jump := some (qTail q s3) } s3)
    else if qHead q s3 = qTail q s3 then s3 else setHead q (qTail q s3) s3
  else
    let s2 := (qx q s1).inbox.foldl (fun t f => writeRecord q f stAborted 0 0 t) s1
    rset (R.QFE_Qn_HEAD q) (qTail q s2) (setQx q { qx q s2 with inbox := [], flush := false } s2)

/-! ### The end of a queue (R389) -/

/-- A STASH_PUT that waits for its frames: it has not started (R209, R214). -/
def unstartedPut (x : Started) : Bool := x.state == .running && !x.begun && engineOf x.bytes == 1 && opcodeOf x.bytes == 0x48

/-- Started commands of queue q that are still at work. -/
def working (q : Nat) (s : State) : Bool :=
  s.started.any (fun x => x.q == q && !unstartedPut x && (match x.state with | .failed _ => false | _ => true)) || (qx q s).flights.any (·.sent)

/-- A queue that is stopping for good and has nothing left at work enters DISABLED: entries that had started or stand
halted finish ABORTED; unstarted ones get no record. -/
def closeQueue (q : Nat) (s : State) : State :=
  let t := (qx q s).flights.foldl (fun t f => writeRecord q f stAborted (firstUnfinished q f t) 0 t) s
  let t : State := { t with started := t.started.filter (fun x => x.q != q) }
  disableQueue q (if (qx q s).flush then misuse bQFE t else t)

/-- What is due once nothing of the queue is at work: the end of a closing queue, or a FLUSH that waited (R41, R389). -/
def settleQueue (q : Nat) (s : State) : State :=
  let x := qx q s
  if x.closing then (if qState q s != 0 && !working q s then closeQueue q s else s)
  else if x.flush && (qState q s == qRunning || qState q s == qStalled) && !x.flights.any (·.begun) then flushNow q s
  else s

/-! ### Halts (R36) -/

/-- Image of QFE_Qn_HALT (Table 2.12). -/
def haltImage (h : HaltRec) : Nat :=
  h.unit % 2 ^ 20 + (nb h.whole <<< 20) + (h.status <<< 24) + ((h.idx % 2 ^ 16) <<< 32) + (h.detail <<< 48)

/-- Data of a HALT notice (Table 13.9): the QFE_RHALT image without VALID, and the manager's ring index. -/
def haltNotice (q : Nat) (h : HaltRec) (s : State) : Bytes :=
  padTo 32 (leBytes 8 (h.unit % 2 ^ 20 + (h.status <<< 20) + (q <<< 28) + (myDev s <<< 34) + (h.detail <<< 40))
    ++ leBytes 4 h.idx)

/-- A halt becomes the one the queue shows: QFE_Qn_HALT, HALTED_F, the count and vector 64 + q; on a worker the notice to
the manager (R29, R36). -/
def showHalt (q : Nat) (h : HaltRec) (s : State) : State :=
  let t := setQState q qHalted (setQx q { qx q s with shown := h.c } (rset (R.QFE_Qn_HALT q) (haltImage h) s))
  let t := rcountSat (R.QFE_Qn_HALTS q) (rsetBit (R.QFE_Qn_STAT q) 8 t)
  let t := if rbit (R.QFE_Qn_CTL q) 8 t then raiseVector (64 + q) t else t
  if isManager t then t else sendNotice t (ctrlMsg t 0x27 (myDom t) (managerDev t) (haltNotice q h t))

/-- A queue halts: shown at once, or held while another halt is shown (R36). A queue that is being disabled makes no
halt: its entry ends ABORTED, and the queue ends when nothing of it is left at work (R389, log 21). -/
def haltQueue (q : Nat) (h : HaltRec) (s : State) : State :=
  let x := qx q s
  if x.closing then settleQueue q s
  else if qState q s = qHalted then setQx q { x with held := x.held ++ [h] } s
  else showHalt q h s

/-- A started command fails as a contained error: the error is reported and its queue halts (R36, R352). A command that a
stop has muted makes no halt. -/
def failCmd (c block cause inst : Nat) (s : State) : State :=
  match startedAt c s with
  | none => s
  | some x =>
    let t := updStarted c (fun y => { y with state := .failed cause }) (reportError 2 block cause x.q inst s)
    if x.muted then t
    else haltQueue x.q { status := stContained, idx := x.idx, unit := x.unit, detail := cause, c := some c } t

/-- A started command whose contents turn out malformed halts its queue (R30). -/
def haltMalformed (c : Nat) (s : State) : State :=
  match startedAt c s with
  | none => s
  | some x =>
    let t := updStarted c (fun y => { y with state := .failed 0 }) s
    if x.muted then t else haltQueue x.q { status := stMalformed, idx := x.idx, unit := x.unit, c := some c } t

end Sys2Proof.Machine
end

