-- ==== Sys2Proof/Machine/Operands.lean ====
section
/-! DEFINITION. Operand forms shared by the commands of command lists: the header (Table 2.6), reserved fields (R385),
tensor descriptors and the blocked layout (R69 to R72), and the reading and writing of tensor elements. -/

namespace Sys2Proof.Machine

/-! ### Commands and opcodes -/

/-- The commands of command lists, by engine code and opcode. -/
inductive Op
  | markerAdd | markerSet | nop | snap
  | matmul | matmul2 | gradPair | chainLoad | tableLoad | vector | ringSet
  | attnFwd | attnBwd | attnMerge | attnPaged
  | slotOpen | slotClose | slotFork | kvWrite | slotTrunc | pageHint
  | stashPut | stashGet | stashDrop
  | bankMv | bankOpt | bankEw | bankCopy
  | atomic | accOpen | accClose | dma
  | broadcast | allGather | allToAll | reduce | ringPass | epochFence
  | cdcOpen | cdcClose | cdcDecode | cdcEncode | cdcFlush
  | jobStart | jobSuspend | jobResume | jobRelease | jobEnd | reshard | remap | checkpoint | meterCollect | snapFetch
  deriving DecidableEq, Repr, Inhabited

/-- The command of an engine code and an opcode (the opcode tables of chapters 02 to 19); none is undefined (R30). -/
def opOf (eng op : Nat) : Option Op :=
  match eng with
  | 0xF => (match op with | 1 => some .markerAdd | 2 => some .markerSet | 3 => some .nop | 4 => some .snap | _ => none)
  | 1 =>
    (match op with
     | 0x10 => some .matmul | 0x11 => some .matmul2 | 0x12 => some .gradPair
     | 0x20 => some .chainLoad | 0x21 => some .tableLoad | 0x22 => some .vector | 0x23 => some .ringSet
     | 0x30 => some .attnFwd | 0x31 => some .attnBwd | 0x32 => some .attnMerge | 0x33 => some .attnPaged
     | 0x40 => some .slotOpen | 0x41 => some .slotClose | 0x42 => some .slotFork | 0x43 => some .kvWrite
     | 0x44 => some .slotTrunc | 0x45 => some .pageHint
     | 0x48 => some .stashPut | 0x49 => some .stashGet | 0x4A => some .stashDrop
     | 0x50 => some .bankMv | 0x51 => some .bankOpt | 0x52 => some .bankEw | 0x53 => some .bankCopy
     | _ => none)
  | 2 => (match op with | 0x60 => some .atomic | 0x61 => some .accOpen | 0x62 => some .accClose | 0x70 => some .dma | _ => none)
  | 3 =>
    (match op with
     | 0x81 => some .broadcast | 0x82 => some .allGather | 0x83 => some .allToAll | 0x84 => some .reduce
     | 0x85 => some .ringPass | 0x86 => some .epochFence | _ => none)
  | 4 =>
    (match op with
     | 1 => some .cdcOpen | 2 => some .cdcClose | 3 => some .cdcDecode | 4 => some .cdcEncode | 5 => some .cdcFlush
     | _ => none)
  | 5 =>
    (match op with
     | 1 => some .jobStart | 2 => some .jobSuspend | 3 => some .jobResume | 4 => some .jobRelease | 5 => some .jobEnd
     | 6 => some .reshard | 7 => some .remap | 8 => some .checkpoint | 9 => some .meterCollect | 10 => some .snapFetch
     | _ => none)
  | _ => none

/-- The command that a started command's units spell. -/
def opOfBytes (b : Bytes) : Option Op := opOf (engineOf b) (opcodeOf b)

/-- UNITS of each command (R30). -/
def unitsOf : Op → Nat
  | .matmul => 5 | .matmul2 => 7 | .gradPair => 6 | .chainLoad => 2 | .tableLoad => 2 | .vector => 3 | .ringSet => 2
  | .attnFwd => 9 | .attnBwd => 12 | .attnMerge => 5 | .attnPaged => 8
  | .slotOpen => 2 | .kvWrite => 3 | .stashPut => 3 | .stashGet => 2
  | .bankMv => 4 | .bankOpt => 5 | .bankEw => 4
  | .accOpen => 2 | .accClose => 2 | .dma => 2
  | .broadcast => 3 | .allGather => 3 | .allToAll => 3 | .reduce => 5 | .ringPass => 3
  | .cdcOpen => 6
  | _ => 1

/-- Engine code of a queue (Table 2.4). -/
def engineOfQueue (q : Nat) : Nat := if q < 16 then 1 else if q < 32 then 2 else if q < 40 then 3 else if q < 44 then 4 else 5

def isBankOp (o : Op) : Bool := o == .bankMv || o == .bankOpt || o == .bankEw || o == .bankCopy

/-- Are memory writes of a started command held by a bank command's ranges (R152)? -/
def outsHeld (x : Started) (s : State) : Bool := x.outs.any (fun r => bankHolds r.1 r.2 s)

/-- Does a command wait for a bank command to complete, since its writes go to that command's ranges (R152)? -/
def heldByBank (op : Op) (x : Started) (s : State) : Bool := !isBankOp op && outsHeld x s

/-- The started command `c`, when it is a running command of kind `op` that nothing holds. -/
def runningCmd (c : Nat) (op : Op) (s : State) : Option Started :=
  match startedAt c s with
  | none => none
  | some x => if x.state = .running ∧ opOfBytes x.bytes = some op ∧ !heldByBank op x s then some x else none

/-! ### Reserved fields (R385) -/

/-- Bytes hi:lo of a structure, as a bit range. -/
def byteRange (hi lo : Nat) : Nat × Nat := (8 * hi + 7, 8 * lo)

/-- Every bit outside the given ranges (high, low) is 0. -/
def onlyBits (ranges : List (Nat × Nat)) (b : Bytes) : Bool :=
  ranges.foldl (fun v r => setBits v r.1 r.2 0) (ofLe b) == 0

/-- Unit i of a command. -/
def unitAt (b : Bytes) (i : Nat) : Bytes := slice b (32 * i) 32

/-- Reserved bits of bytes 15:0 of a header (Table 2.6). -/
def headerOk (b : Bytes) : Bool :=
  onlyBits [byteRange 2 0, (28, 24), (43, 32), (59, 48), byteRange 11 8] (b.take 16)

/-- Header operand bits, bytes 31:16, with nothing set outside the ranges, which count from byte 0 of the header. -/
def operandsOk (ranges : List (Nat × Nat)) (b : Bytes) : Bool :=
  onlyBits ((127, 0) :: ranges) (b.take 32)

/-! ### Rounding units in commands -/

/-- Reserved bits of a rounding unit (Table 3.6). -/
def runitBits (b : Bytes) : Bool :=
  onlyBits [(5, 0), (13, 8), byteRange 7 4, byteRange 15 8, byteRange 23 16] b

/-- A rounding unit that Table 3.6, R42 or R385 makes malformed; `target` says whether the command looks at OUT_FMT, which must
then name an element format. Matrix commands, VECTOR and chains ignore it. -/
def runitBad (target : Bool) (b : Bytes) : Bool :=
  let r := RUnit.parse b
  !runitBits b || r.mode == 3 || (r.mode == 2 && r.srBits == 3) || r.ovf == 3 || (target && !isElemFmt r.fmt)

/-! ### Tensor descriptors (R72, Table 4.3) -/

structure TD where
  base    : Nat := 0
  rows    : Nat := 0
  cols    : Nat := 0
  fmt     : Nat := 0
  uns     : Bool := false
  axis    : Bool := false
  trans   : Bool := false
  loadFmt : Nat := 0
  quant   : Bool := false
  scale   : Nat := 0
  deriving DecidableEq, Repr, Inhabited

def TD.parse (b : Bytes) : TD :=
  { base := u b 0 6, rows := u b 8 4, cols := u b 12 4, fmt := bits (u b 16 1) 4 0, uns := bitAt (u b 16 1) 5,
    axis := bitAt (u b 16 1) 6, trans := bitAt (u b 16 1) 7, loadFmt := bits (u b 17 1) 4 0, quant := bitAt (u b 17 1) 6,
    scale := u b 18 6 }

def tdBits (b : Bytes) : Bool :=
  onlyBits [byteRange 5 0, byteRange 11 8, byteRange 15 12, byteRange 16 16, (140, 136), (142, 142), byteRange 23 18] b

/-- The rules of R72 and R42; `mask`: the format must be MASK1, else an element format. -/
def TD.bad (mask : Bool) (t : TD) : Bool :=
  t.base % 256 != 0 || (isBlockFmt t.fmt && t.scale % 32 != 0) ||
  t.rows == 0 || decide (16777216 < t.rows) || t.cols == 0 || decide (16777216 < t.cols) ||
  (if mask then t.fmt != 14 else !isElemFmt t.fmt) ||
  decide (14 < t.loadFmt) || (t.quant && (decide (2 < t.fmt) || !isBlockFmt t.loadFmt))

def tdBad (mask : Bool) (b : Bytes) : Bool := !tdBits b || (TD.parse b).bad mask

/-- Rows and columns of the operand after TRANSPOSE. -/
def TD.opRows (t : TD) : Nat := if t.trans then t.cols else t.rows
def TD.opCols (t : TD) : Nat := if t.trans then t.rows else t.cols

/-- Format of the elements that the arrays see (R73). -/
def TD.useFmt (t : TD) : Nat := if t.quant then t.loadFmt else t.fmt

/-- Blocks in one block row (R69). -/
def TD.nbc (t : TD) : Nat := (t.cols + 31) / 32

/-- Block that holds element (r, c), and the element's index in it (R69). -/
def TD.block (t : TD) (r c : Nat) : Nat := (r / 32) * t.nbc + c / 32
def elemIndex (r c : Nat) : Nat := 32 * (r % 32) + c % 32

/-- First byte of element (r, c) and its first bit within that byte, at element width w (R69, R48). -/
def TD.elemAddr (t : TD) (w r c : Nat) : Nat × Nat :=
  let e := elemIndex r c * w
  (t.base + 128 * w * t.block r c + e / 8, e % 8)

/-- Address of the scale byte of the group that holds (r, c) (R70). -/
def TD.scaleAddr (t : TD) (r c : Nat) : Nat :=
  t.scale + 32 * t.block r c + (if t.axis then c % 32 else r % 32)

/-- Bytes of storage of a tensor at width w, and of its scale array. -/
def TD.size (t : TD) : Nat := 128 * fmtBits t.fmt * (((t.rows + 31) / 32) * t.nbc)
def TD.scaleSize (t : TD) : Nat := if isBlockFmt t.fmt then 32 * (((t.rows + 31) / 32) * t.nbc) else 0

/-- First unmapped address of a tensor's storage or scales, if any (R141). -/
def TD.unmapped (s : State) (t : TD) : Option Nat := firstUnreached s t.base t.size <|> firstUnreached s t.scale t.scaleSize

/-- Storage ranges of a tensor. -/
def TD.ranges (t : TD) : List (Nat × Nat) := (t.base, t.size) :: (if isBlockFmt t.fmt then [(t.scale, t.scaleSize)] else [])

/-- Bytes of the elements within ROWS and COLS of block (i, j), as ranges: one range where the block's rows are full, else one
range a row (R69). -/
def TD.blockUsed (t : TD) (i j : Nat) : List (Nat × Nat) :=
  let w := fmtBits t.fmt
  let rows := min 32 (t.rows - 32 * i)
  let cols := min 32 (t.cols - 32 * j)
  let a := t.base + 128 * w * (i * t.nbc + j)
  if cols = 32 then [(a, 4 * w * rows)]
  else (List.range rows).map (fun r => (a + 4 * w * r, (w * cols + 7) / 8))

/-- Storage of a tensor that holds elements within ROWS and COLS, and the scale bytes of their groups: what is not padding
(R69, R70). -/
def TD.used (t : TD) : List (Nat × Nat) :=
  (List.range ((t.rows + 31) / 32)).flatMap (fun i => (List.range t.nbc).flatMap (fun j =>
    t.blockUsed i j ++ (if isBlockFmt t.fmt then
      [(t.scale + 32 * (i * t.nbc + j), if t.axis then min 32 (t.cols - 32 * j) else min 32 (t.rows - 32 * i))] else [])))

/-- Is anything but padding poisoned? -/
def TD.poisoned (s : State) (t : TD) : Bool := !noPoison s && t.used.any (fun x => Machine.poisoned s x.1 x.2)

/-- Code of stored element (r, c). -/
def TD.code (s : State) (t : TD) (r c : Nat) : Nat :=
  let w := fmtBits t.fmt
  let (a, b) := t.elemAddr w r c
  (readNat s a ((b + w + 7) / 8) >>> b) % 2 ^ w

/-- Scale code of the group of stored element (r, c); 127, a scale of one, without block scale. -/
def TD.scaleCode (s : State) (t : TD) (r c : Nat) : Nat := if isBlockFmt t.fmt then readNat s (t.scaleAddr r c) 1 else 127

/-- Exact value of stored element (r, c). -/
def TD.value (s : State) (t : TD) (r c : Nat) : FVal := decodeElem t.fmt t.uns (t.scaleCode s r c) (t.code s r c)

/-- Is any byte of stored element (r, c) poisoned; of its scale? -/
def TD.elemPoisoned (s : State) (t : TD) (r c : Nat) : Bool :=
  let w := fmtBits t.fmt
  let (a, b) := t.elemAddr w r c
  Machine.poisoned s a ((b + w + 7) / 8)

def TD.scalePoisoned (s : State) (t : TD) (r c : Nat) : Bool := isBlockFmt t.fmt && Machine.poisoned s (t.scaleAddr r c) 1

/-- The FP32 word an element widens to (Table 3.7), with the flags of leaving the FP32 range under OVF (R53). -/
def widen (ovf : Nat) (v : FVal) : Nat × Nat :=
  let (r, fl) := v.round fmtFP32 .rne ovf
  (encodeLin fmtFP32 r, fl)

/-! ### Writing elements -/

/-- A code of `w` bits to be stored `bit` bits above the first bit of the byte at `addr`. -/
structure ElemPut where
  addr : Nat
  bit  : Nat
  w    : Nat
  code : Nat
  deriving DecidableEq, Repr, Inhabited

def TD.put (t : TD) (w r c code : Nat) : ElemPut :=
  let (a, b) := t.elemAddr w r c
  { addr := a, bit := b, w := w, code := code }

/-- The bytes of one element: whole bytes as they are, parts of bytes merged with what memory holds. -/
def ElemPut.bytes (s : State) (p : ElemPut) : Bytes :=
  let n := (p.bit + p.w + 7) / 8
  if p.w % 8 = 0 then leBytes n p.code
  else leBytes n (setBits (readNat s p.addr n) (p.bit + p.w - 1) p.bit p.code)

/-- Elements of whole bytes at adjacent addresses are joined into one write (log 22). -/
def joinPuts : List ElemPut → List (Nat × Bytes)
  | [] => []
  | p :: t =>
    match joinPuts t with
    | [] => [(p.addr, leBytes (p.w / 8) p.code)]
    | (a, b) :: rest =>
      if p.addr + p.w / 8 = a then (p.addr, leBytes (p.w / 8) p.code ++ b) :: rest
      else (p.addr, leBytes (p.w / 8) p.code) :: (a, b) :: rest

/-- Writes in order; the first that fails ends them. -/
def writeAll : List (Nat × Bytes) → State → Wrote
  | [], s => { s := s }
  | (a, b) :: t, s =>
    let w := writeMem a b s
    match w.cause with
    | some _ => w
    | none =>
      let w2 := writeAll t w.s
      { w2 with flags := w.flags ||| w2.flags }

/-- Elements narrower than a byte are merged one by one into what memory holds. -/
def writeMerged : List ElemPut → State → Wrote
  | [], s => { s := s }
  | p :: t, s =>
    let w := writeMem p.addr (p.bytes s) s
    match w.cause with
    | some _ => w
    | none =>
      let w2 := writeMerged t w.s
      { w2 with flags := w.flags ||| w2.flags }

/-- Elements are written. -/
def writeElems (ps : List ElemPut) (s : State) : Wrote :=
  if ps.all (fun p => p.w % 8 == 0) then writeAll (joinPuts ps) s else writeMerged ps s

/-- A value to be stored at element (r, c), with the mode that its own random word gives. -/
structure Cell where
  r    : Nat
  c    : Nat
  v    : FVal
  mode : RMode := .rne
  deriving DecidableEq, Repr, Inhabited

/-- The part of a block that shares a scale with (r, c): (block row, block column, place along the other axis) (R70). -/
def TD.group (t : TD) (r c : Nat) : Nat × Nat × Nat := (r / 32, c / 32, if t.axis then c % 32 else r % 32)

/-- The distinct members of a list, first occurrences kept. -/
def distinct {α : Type} [BEq α] : List α → List α
  | [] => []
  | x :: t => x :: (distinct t).filter (fun y => !(y == x))

/-- What storing cells in a tensor comes to: element writes, scale bytes, flags, and flags by cell. -/
structure Stored where
  puts   : List ElemPut := []
  scales : List (Nat × Bytes) := []
  flags  : List (Nat × Nat × Nat) := []
  deriving Inhabited

/-- Cells converted to the tensor's format: each alone, or by whole scale groups (R49, R390). -/
def TD.store (t : TD) (ovf : Nat) (cells : List Cell) : Stored :=
  let w := fmtBits t.fmt
  if isBlockFmt t.fmt then
    let gs := distinct (cells.map (fun x => t.group x.r x.c))
    gs.foldl (fun a g =>
      let ms := cells.filter (fun x => t.group x.r x.c == g)
      let (sc, codes, fl) := encodeBlock t.fmt ovf (ms.map (fun x => (x.v, x.mode)))
      let hd := (ms.head?).getD default
      { puts := a.puts ++ (ms.zip codes).map (fun p => t.put w p.1.r p.1.c p.2),
        scales := a.scales ++ [(t.scaleAddr hd.r hd.c, leBytes 1 sc)],
        flags := a.flags ++ (if fl = 0 then [] else ms.map (fun x => (x.r, x.c, fl))) }) {}
  else
    let cs := cells.map (fun x => (x, encodeElem t.fmt t.uns x.mode ovf false x.v))
    { puts := cs.map (fun p => t.put w p.1.r p.1.c p.2.1),
      flags := (cs.filter (fun p => p.2.2 != 0)).map (fun p => (p.1.r, p.1.c, p.2.2)) }

/-- The converted cells are written: elements, then scales. -/
def Stored.write (x : Stored) (s : State) : Wrote :=
  let w := writeElems x.puts s
  match w.cause with
  | some _ => w
  | none =>
    let w2 := writeAll x.scales w.s
    { w2 with flags := w.flags ||| w2.flags }

/-- All flags of a conversion. -/
def Stored.allFlags (x : Stored) : Nat := x.flags.foldl (fun a f => a ||| f.2.2) 0

/-- Cores of a group named by FIRST_CORE and CORE_COUNT in bytes 16 and 17 (Table 4.4). -/
def firstCore (b : Bytes) : Nat := bits (u b 16 1) 5 0
def coreCount (b : Bytes) : Nat := u b 17 1

/-- Cores of a command. -/
def coresOf (b : Bytes) : List Nat := (List.range (coreCount b)).map (fun j => firstCore b + j)

/-- FIRST_CORE's upper bits are reserved; CORE_COUNT is 1 to 64 and the group ends by core 63. -/
def coreGroupBad (b : Bytes) : Bool :=
  decide (63 < u b 16 1) || coreCount b == 0 || decide (64 < firstCore b + coreCount b)

end Sys2Proof.Machine
end

