-- ==== Sys2Proof/Machine/Matrix.lean ====
section
/-! DEFINITION. The matrix pairs (chapter 04): operand rows with on-load quantisation, the accumulation of R68, dealing
of R75, the arbitration of R76, and the commands MATMUL, MATMUL2 and GRAD_PAIR. -/

namespace Sys2Proof.Machine

/-! ### Operand rows -/

/-- An element as an array sees it: its code and the code of its group's scale. -/
abbrev Opnd := Nat × Nat

/-- Stored place of reduction index k of row i of a left operand, or of column i of a right one. -/
def redPlace (t : TD) (left : Bool) (i k : Nat) : Nat × Nat :=
  if left != t.trans then (i, k) else (k, i)

/-- Is the element within the stored extents? -/
def inExtent (t : TD) (p : Nat × Nat) : Bool := decide (p.1 < t.rows) && decide (p.2 < t.cols)

/-- Code and scale of a stored element; padding reads as +0 (R69). -/
def operandAt (s : State) (t : TD) (p : Nat × Nat) : Opnd :=
  if inExtent t p then (t.code s p.1 p.2, t.scaleCode s p.1 p.2) else ((if t.fmt = 11 then 0x40 else if t.fmt = 12 then 0x4000 else 0), 127)

/-- One group of 32 reduction indices quantised on load (R49, R73). -/
def quantGroup (t : TD) (mode : RMode) (ovf : Nat) (g : List Opnd) : List Opnd × Nat :=
  let vs := g.map (fun x => (decodeElem t.fmt t.uns x.2 x.1, mode))
  let (sc, cs, fl) := encodeBlock t.loadFmt ovf vs
  (cs.map (fun c => (c, sc)), fl)

/-- k-block kb of row i (left) or column i (right): 32 operands and the flags of quantisation. -/
def kblock (s : State) (t : TD) (ru : RUnit) (left : Bool) (i kb : Nat) : List Opnd × Nat :=
  let raw := (List.range 32).map (fun k => operandAt s t (redPlace t left i (32 * kb + k)))
  if t.quant then quantGroup t (if ru.mode = 1 then .rtz else .rne) ru.ovf raw else (raw, 0)

/-- Row i of a left operand, or column i of a right one, over `n` k-blocks. -/
def operandLine (s : State) (t : TD) (ru : RUnit) (left : Bool) (i n : Nat) : List (List Opnd) × Nat :=
  let bs := (List.range n).map (kblock s t ru left i)
  (bs.map (·.1), bs.foldl (fun a b => a ||| b.2) 0)

/-! ### Products and accumulation (R66, R68) -/

/-- How a pair of formats is accumulated (Table 4.2, R68). -/
inductive PairKind | int | block | l8 | l16 | half | wide
  deriving DecidableEq, Repr, Inhabited

def isMx (f : Nat) : Bool := decide (3 ≤ f) && decide (f ≤ 8)
def is16 (f : Nat) : Bool := f == 1 || f == 2

/-- The kind of an operand pair; none is malformed (Table 4.2). -/
def pairKind (fa fb : Nat) : Option PairKind :=
  if isIntFmt fa && isIntFmt fb then some .int
  else if isIntFmt fa || isIntFmt fb then none
  else if isMx fa && isMx fb then some .block
  else if fa == 11 && fb == 11 then some .l8
  else if fa == 12 && fb == 12 then some .l16
  else if (is16 fa && (is16 fb || isMx fb)) || (isMx fa && is16 fb) then some .half
  else some .wide

/-- Log field of a log code; none is the zero code, and the flag says NaN. -/
def logField (l16 : Bool) (c : Nat) : Option Int × Bool :=
  if l16 then (if c % 32768 = 16384 then (none, c.testBit 15) else (some (signed 15 c), false))
  else (if c % 128 = 64 then (none, c.testBit 7) else (some (signed 7 c), false))

/-- Linear product of two log elements (R53), of L8 without the block scales. DEDUCED (log 144): of a NaN and a zero it is NaN. -/
def logProduct (l16 : Bool) (a b : Nat) : FVal :=
  let s := if l16 then 15 else 7
  match logField l16 a, logField l16 b with
  | (_, true), _ => .nan
  | _, (_, true) => .nan
  | (some g, _), (some h, _) =>
    let (m, e) := linOf l16 (g + h)
    .fin (a.testBit s != b.testBit s) m e
  | _, _ => .fin false 0 0

/-- One product of a pair, exact, with flags; block and L8 products carry no block scale. At the FP32 rate an operand that
leaves the FP32 range as it is widened follows the command's overflow mode (R53, R59, R66). -/
def product (k : PairKind) (ta tb : TD) (ovf : Nat) (a b : Opnd) : FVal × Nat :=
  let fa := ta.useFmt
  let fb := tb.useFmt
  match k with
  | .l8 => (logProduct false a.1 b.1, 0)
  | .l16 => (logProduct true a.1 b.1).round fmtFP32 .rne ovf
  | .block => (decodeElem fa ta.uns 127 a.1).mul (decodeElem fb tb.uns 127 b.1)
  | .wide =>
    let x := widen ovf (decodeElem fa ta.uns a.2 a.1)
    let y := widen ovf (decodeElem fb tb.uns b.2 b.1)
    let p := (f32 x.1).mul (f32 y.1)
    (p.1, x.2 ||| y.2 ||| p.2)
  | _ => (decodeElem fa ta.uns a.2 a.1).mul (decodeElem fb tb.uns b.2 b.1)

/-- An accumulator while a tile runs: FP32 word, sticky flags, k-block of the first INVALID; accumulations so far, and whether
the check of R81 has agreed on each. -/
structure Acc where
  w     : Nat := 0
  flags : Nat := 0
  inv   : Option Nat := none
  n     : Nat := 0
  ok    : Bool := true
  deriving DecidableEq, Repr, Inhabited

/-- One accumulation with a single rounding (R68). -/
def Acc.add (a : Acc) (ovf kb : Nat) (p : FVal × Nat) : Acc :=
  let (v, x) := (f32 a.w).add p.1
  let (r, y) := v.round fmtFP32 .rne ovf
  let fl := p.2 ||| x ||| y
  { a with w := encodeLin fmtFP32 r, flags := a.flags ||| fl,
           inv := match a.inv with | some k => some k | none => if fl % 2 = 1 then some kb else none }

def FVal.finite : FVal → Bool
  | .fin _ _ _ => true
  | _ => false

/-- The accumulator check (R81): an update of `a` to `b` by `p`, whose products have images `dp` in sum; `wrong` falsifies the
image of the new accumulator. -/
def updateOk (a b : Acc) (p : FVal) (dp wrong : Nat) : Bool :=
  let x := f32 a.w
  let y := f32 b.w
  if x.finite && y.finite && p.finite then
    let d := ((x.add p).1.add y.negate).1
    (y.image + d.image + wrong) % resQ == (x.image + dp) % resQ
  else true

/-- What upsets add to the image of a cell's accumulator at accumulation k: (k, wrong). -/
abbrev AccUpsets := List (Nat × Nat)

def wrongAt (up : AccUpsets) (k : Nat) : Nat := (up.filter (fun x => x.1 == k)).foldl (fun a x => a + x.2) 0

/-- One checked accumulation. -/
def Acc.step (up : AccUpsets) (a : Acc) (ovf kb dp : Nat) (p : FVal × Nat) : Acc :=
  let b := a.add ovf kb p
  { b with n := a.n + 1, ok := a.ok && updateOk a b p.1 dp (wrongAt up a.n) }

/-- Exact sum of a k-block's products. -/
def sumProducts : List (FVal × Nat) → FVal × Nat
  | [] => (.fin false 0 0, 0)
  | p :: t => t.foldl (fun a q => let (v, f) := a.1.add q.1; (v, a.2 ||| q.2 ||| f)) p

/-- Power of two of the block scales; none is NaN (R46). -/
def scalePair (a b : Opnd) : Option Int :=
  match scaleExp a.2, scaleExp b.2 with
  | some x, some y => some (x + y)
  | _, _ => none

/-- One k-block accumulated into a cell (R68). -/
def accBlock (k : PairKind) (ta tb : TD) (ovf kb : Nat) (acc : Acc) (xs : List (Opnd × Opnd)) (up : AccUpsets := []) : Acc :=
  let ps := xs.map (fun x => product k ta tb ovf x.1 x.2)
  if k = .block ∨ k = .l8 then
    match xs with
    | [] => acc
    | x :: _ =>
      (match scalePair x.1 x.2 with
       | none => acc.step up ovf kb 0 (.nan, 0)
       | some e =>
         let (v, f) := sumProducts ps
         acc.step up ovf kb (ps.foldl (fun a p => a + (p.1.scaled e).image) 0) (v.scaled e, f))
  else ps.foldl (fun a p => a.step up ovf kb p.1.image p) acc

/-- All k-blocks of a cell in ascending order. -/
def accBlocks (k : PairKind) (ta tb : TD) (ovf : Nat) (up : AccUpsets) : Nat → Acc → List (List Opnd × List Opnd) → Acc
  | _, a, [] => a
  | kb, a, (x, y) :: t => accBlocks k ta tb ovf up (kb + 1) (accBlock k ta tb ovf kb a (x.zip y) up) t

/-- Integer of an INT8 or INT4 code. -/
def intOf (t : TD) (c : Nat) : Int :=
  let w := fmtBits t.useFmt
  if t.uns then ((c % 2 ^ w : Nat) : Int) else signed w c

/-- Exact integer sum of products. -/
def intDot (ta tb : TD) (xs : List (Opnd × Opnd)) : Int :=
  xs.foldl (fun a x => a + intOf ta x.1.1 * intOf tb x.2.1) 0

/-- A value as a signed integer of w bits, RNE, saturated with OVERFLOW; NaN gives 0 and INVALID (R68, Table 3.7). -/
def toIntSat (w : Nat) (v : FVal) : Int × Nat :=
  match v with
  | .nan => (0, flagInvalid)
  | .inf n => (if n then -(2 ^ (w - 1) : Nat) else ((2 ^ (w - 1) - 1 : Nat) : Int), flagOverflow)
  | .fin n m e =>
    let (q, rn, rd) := floorScaled m 1 e
    let k := FVal.int n (if roundsUp .rne (q % 2 == 1) rn rd then q + 1 else q)
    if k < -(2 ^ (w - 1) : Nat) then (-(2 ^ (w - 1) : Nat), flagOverflow)
    else if ((2 ^ (w - 1) - 1 : Nat) : Int) < k then (((2 ^ (w - 1) - 1 : Nat) : Int), flagOverflow)
    else (k, 0)

/-- Images of an integer cell's products, in sum. -/
def intImages (ta tb : TD) (xs : List (Opnd × Opnd)) : Nat :=
  xs.foldl (fun a x => a + intImage (intOf ta x.1.1) * intImage (intOf tb x.2.1)) 0

/-- Integer cell: CIN plus the products, saturated to 32 bits (R68). A sum that leaves 48 bits, which only a CIN near the
limit can reach, has no stated value: the accumulator then holds a free value, saturated as every other (log 23). DESIGN CHOICE
(log 146): an INVALID of CIN's conversion is captured with k-block 0. -/
def intCell (ta tb : TD) (free cin : Nat) (hasCin : Bool) (xs : List (Opnd × Opnd)) (up : AccUpsets := []) : Acc :=
  let (c0, f0) := if hasCin then toIntSat 48 (f32 cin) else (0, 0)
  let sum := c0 + intDot ta tb xs
  let wrong := up.foldl (fun a x => a + x.2) 0
  let half : Int := ((2 ^ 47 : Nat) : Int)
  let v := if sum < -half ∨ half ≤ sum then ((Config.freeNat free % 2 ^ 48 : Nat) : Int) - half else sum
  let lo : Int := -(2 ^ 31 : Nat)
  let hi : Int := ((2 ^ 31 - 1 : Nat) : Int)
  { w := unsigned 32 (max lo (min hi v)),
    flags := f0 ||| (if v < lo ∨ hi < v then flagOverflow else 0),
    inv := if f0 % 2 = 1 then some 0 else none,
    ok := (intImage sum + wrong) % resQ == (intImage c0 + intImages ta tb xs) % resQ }

/-! ### Tiles -/

/-- A product that an array computes: operands after the command's own transposes, and CIN. -/
structure Prod where
  l   : TD
  r   : TD
  cin : Option TD := none
  ru  : RUnit := {}
  deriving DecidableEq, Repr, Inhabited

def Prod.rows (p : Prod) : Nat := p.l.opRows
def Prod.cols (p : Prod) : Nat := p.r.opCols
def Prod.red (p : Prod) : Nat := p.l.opCols

/-- A tile as an array leaves it: in-extent elements row by row, flags, k-block of the first INVALID. -/
structure TileVal where
  rows  : Nat := 0
  cols  : Nat := 0
  int   : Bool := false
  elems : List Nat := []
  flags : Nat := 0
  /-- Flags of on-load quantisation, which are the command's and not the tile's. -/
  qflags : Nat := 0
  inv   : Option Nat := none
  /-- Every comparison of R80 and R81 agrees. -/
  ok    : Bool := true
  deriving DecidableEq, Repr, Inhabited

/-- In-extent size of tile number m along an extent n. -/
def tileExt (n m : Nat) : Nat := min 64 (n - 64 * m)

/-- Number of tiles along an extent. -/
def tilesAlong (n : Nat) : Nat := (n + 63) / 64

def minOpt : Option Nat → Option Nat → Option Nat
  | none, b => b
  | a, none => a
  | some x, some y => some (min x y)

/-- Value of the CIN element of an output element. -/
def cinWord (s : State) (t : TD) (i j : Nat) : Nat :=
  if t.trans then t.code s j i else t.code s i j

/-- What the product check accumulates for an operand element (R80): its residue image, or the log field of an L8 or L16 pair. -/
def checkImage (k : PairKind) (t : TD) (x : Opnd) : Nat :=
  match k with
  | .l8 => intImage (signed 7 x.1)
  | .l16 => intImage (signed 15 x.1)
  | .int => intImage (intOf t x.1)
  | _ => (decodeElem t.useFmt t.uns x.2 x.1).image

/-- What one pair adds to a cell's residue: the product of the images, or the sum of the log fields. -/
def checkTerm (k : PairKind) (a b : Nat) : Nat := if k = .l8 ∨ k = .l16 then a + b else a * b

/-- Wrong amounts of the upsets of a place that concern row or column number `x`. -/
def wrongSum (ups : List Upset) (f : Upset → Bool) : Nat := (ups.filter f).foldl (fun a x => a + x.wrong) 0

/-- The product check (R80): for each row of cells the residues against the checksum column, for each column against the
checksum row. `as` and `bs` are the images of the operand lines. -/
def productCheck (k : PairKind) (as bs : List (List Nat)) (ups : List Upset) : Bool :=
  let term (a b : List Nat) : Nat := (a.zip b).foldl (fun t x => t + checkTerm k x.1 x.2) 0
  let sumOf (ls : List (List Nat)) (a : List Nat) : Nat :=
    a.zipIdx.foldl (fun t x =>
      let o := ls.foldl (fun y l => y + l.getD x.2 0) 0
      t + (if k = .l8 ∨ k = .l16 then ls.length * x.1 + o else x.1 * o)) 0
  let rowOk (i : Nat) : Bool :=
    let ps := match as[i]? with | none => 0 | some a => bs.foldl (fun t b => t + term a b) 0
    let col := match as[i]? with | none => 0 | some a => sumOf bs a
    (ps + wrongSum ups (fun u => u.place == .product && u.i.val == i)) % resQ ==
      (col + wrongSum ups (fun u => u.place == .column && u.i.val == i)) % resQ
  let colOk (j : Nat) : Bool :=
    let ps := match bs[j]? with | none => 0 | some b => as.foldl (fun t a => t + term a b) 0
    let row := match bs[j]? with | none => 0 | some b => sumOf as b
    (ps + wrongSum ups (fun u => u.place == .product && u.j.val == j)) % resQ ==
      (row + wrongSum ups (fun u => u.place == .row && u.j.val == j)) % resQ
  (List.range 64).all rowOk && (List.range 64).all colOk

/-- Upsets of the accumulator of cell (i, j). -/
def accUpsets (ups : List Upset) (i j : Nat) : AccUpsets :=
  (ups.filter (fun u => u.place == .accumulator && u.i.val == i && u.j.val == j)).map (fun u => (u.k, u.wrong))

/-- An upset outside the cells of the tile's extent, or of a fraction table that the tile uses. -/
def strayUpset (k : PairKind) (rows cols accs : Nat) (u : Upset) : Bool :=
  (u.place == .accumulator && (decide (rows ≤ u.i.val) || decide (cols ≤ u.j.val)) && decide (u.k < accs) && u.wrong % resQ != 0) ||
  (u.place == .table && decide (k = .l8 ∨ k = .l16))

/-- The tile at tile row m and tile column n of a product (R68), with the verdict that upsets lead to (R80, R81). -/
def tileValue (s : State) (p : Prod) (m n : Nat) (ups : List Upset := []) : TileVal :=
  let nb := (p.red + 31) / 32
  let rows := tileExt p.rows m
  let cols := tileExt p.cols n
  let ls := (List.range rows).map (fun i => operandLine s p.l p.ru true (64 * m + i) nb)
  let rs := (List.range cols).map (fun j => operandLine s p.r p.ru false (64 * n + j) nb)
  let qf := (ls ++ rs).foldl (fun a x => a ||| x.2) 0
  let k := (pairKind p.l.useFmt p.r.useFmt).getD .wide
  let cell (i j : Nat) (a b : List (List Opnd)) : Acc :=
    let cw := match p.cin with | none => 0 | some t => cinWord s t (64 * m + i) (64 * n + j)
    let up := accUpsets ups i j
    if k = .int then intCell p.l p.r s.freeCtr cw p.cin.isSome ((a.flatten).zip b.flatten) up
    else accBlocks k p.l p.r p.ru.ovf up 0 { w := cw } (a.zip b)
  let cells := ls.zipIdx.flatMap (fun a => rs.zipIdx.map (fun b => cell a.2 b.2 a.1.1 b.1.1))
  let accs := if k = .block ∨ k = .l8 then nb else p.red
  { rows := rows, cols := cols, int := decide (k = .int), elems := cells.map (·.w),
    flags := cells.foldl (fun a c => a ||| c.flags) 0, qflags := qf,
    inv := cells.foldl (fun a c => minOpt a c.inv) none,
    ok := cells.all (·.ok) && !ups.any (strayUpset k rows cols accs) &&
      productCheck k (ls.map (fun x => x.1.flatten.map (checkImage k p.l))) (rs.map (fun x => x.1.flatten.map (checkImage k p.r))) ups }

/-- Stored places that a tile's operand reads: of lines from `first`, `n` of them, over the whole reduction. -/
def linePlaces (t : TD) (left : Bool) (first n red : Nat) : List (Nat × Nat) :=
  (List.range n).flatMap (fun i => (List.range red).map (fun k => redPlace t left (first + i) k))

/-- Does the tile read a poisoned operand element (0x0101) or scale (0x0102) (R65)? -/
def tilePoison (s : State) (p : Prod) (m n : Nat) : Option Nat :=
  if noPoison s then none
  else
    let a := linePlaces p.l true (64 * m) (tileExt p.rows m) p.red
    let b := linePlaces p.r false (64 * n) (tileExt p.cols n) p.red
    let c := match p.cin with
      | none => false
      | some t => (List.range (tileExt p.rows m)).any (fun i => (List.range (tileExt p.cols n)).any (fun j =>
          if t.trans then t.elemPoisoned s (64 * n + j) (64 * m + i) else t.elemPoisoned s (64 * m + i) (64 * n + j)))
    if a.any (fun x => p.l.elemPoisoned s x.1 x.2) || b.any (fun x => p.r.elemPoisoned s x.1 x.2) || c then some 0x0101
    else if a.any (fun x => p.l.scalePoisoned s x.1 x.2) || b.any (fun x => p.r.scalePoisoned s x.1 x.2) then some 0x0102
    else none

/-! ### The three commands (R74, R77, R78) -/

/-- ACC_IN of Table 4.4. -/
def accIn (b : Bytes) : Bool := bitAt (u b 18 1) 0

def TD.withTrans (t : TD) (v : Bool) : TD := { t with trans := v }

/-- The product that an array computes for a matrix command. -/
def matrixProd (b : Bytes) (arrayB : Bool) : Prod :=
  let td (i : Nat) : TD := TD.parse (unitAt b i)
  match opOfBytes b with
  | some .matmul2 =>
    { l := if arrayB then td 3 else td 1, r := if arrayB then td 4 else td 2,
      cin := if accIn b && !arrayB then some (td 5) else none, ru := RUnit.parse (unitAt b 6) }
  | some .gradPair =>
    if arrayB then { l := (td 3).withTrans true, r := td 1, ru := RUnit.parse (unitAt b 5) }
    else { l := td 1, r := (td 2).withTrans true, cin := if accIn b then some (td 4) else none,
           ru := RUnit.parse (unitAt b 5) }
  | _ =>
    { l := td 1, r := td 2, cin := if accIn b then some (td 3) else none, ru := RUnit.parse (unitAt b 4) }

/-- A left or right operand whose scale groups do not run along its reduction axis (R71). -/
def axisBad (t : TD) (left : Bool) : Bool :=
  isBlockFmt t.fmt && !t.quant && (if left then t.axis != t.trans else t.axis == t.trans)

/-- The rules of R66, R71 and R74 on one product. DEDUCED (log 145): a CIN that is quantised on load is not FP32. -/
def prodBad (p : Prod) : Bool :=
  p.l.opCols != p.r.opRows || decide (1048576 < p.red) || (pairKind p.l.useFmt p.r.useFmt).isNone ||
  axisBad p.l true || axisBad p.r false ||
  (match p.cin with
   | none => false
   | some t => t.fmt != 0 || t.quant || t.opRows != p.rows || t.opCols != p.cols)

/-- Is the matrix command malformed (R30, R42, R66, R71 to R74, R77, R88)? -/
def matrixBad (b : Bytes) : Bool :=
  let op := opOfBytes b
  let n := b.length / 32
  let cinAt := n - 2
  let tds := (List.range (n - 2)).filter (fun i => i + 1 != cinAt || accIn b)
  !operandsOk [(133, 128), byteRange 17 17, (144, 144), byteRange 19 19] b || coreGroupBad b ||
  tds.any (fun i => tdBad false (unitAt b (i + 1))) ||
  runitBad false (unitAt b (n - 1)) || (RUnit.parse (unitAt b (n - 1))).mode == 2 ||
  prodBad (matrixProd b false) || (op != some .matmul && prodBad (matrixProd b true)) ||
  (op == some .matmul && u b 19 1 % 16 != u b 19 1 / 16) ||
  (op == some .gradPair &&
    (let dy := TD.parse (unitAt b 1)
     let w := TD.parse (unitAt b 2)
     let x := TD.parse (unitAt b 3)
     dy.trans || w.trans || x.trans || !is16 dy.fmt || decide (1024 < dy.cols) || w.cols != dy.cols || x.rows != dy.rows ||
       x.cols != w.rows || (isBlockFmt x.fmt && !x.quant && !x.axis)))

/-! ### Dealing (R75) and arbitration (R76) -/

/-- Units dealt to the j-th core of a group of n. -/
def dealt {α : Type} (n j : Nat) (units : List α) : List α :=
  (units.zipIdx.filter (fun x => x.2 % n == j)).map (·.1)

/-- Tiles of an output of rows × cols, row by row. -/
def allTiles (rows cols : Nat) : List (Nat × Nat) :=
  (List.range (tilesAlong rows)).flatMap (fun m => (List.range (tilesAlong cols)).map (fun n => (m, n)))

/-- Tiles of arrays A and B that the j-th core of the group receives. -/
def shareTiles (b : Bytes) (j : Nat) : List (Nat × Nat) × List (Nat × Nat) :=
  let n := coreCount b
  let pa := matrixProd b false
  let pb := matrixProd b true
  match opOfBytes b with
  | some .matmul2 => (dealt n j (allTiles pa.rows pa.cols), dealt n j (allTiles pb.rows pb.cols))
  | some .gradPair =>
    let ks := dealt n j (List.range (tilesAlong pa.cols))
    (ks.flatMap (fun k => (List.range (tilesAlong pa.rows)).map (fun t => (t, k))),
     ks.flatMap (fun k => (List.range (tilesAlong pb.cols)).map (fun i => (k, i))))
  | some .vector =>
    let t := TD.parse (unitAt b 1)
    (dealt n j (allTiles t.opRows t.opCols), [])
  | _ =>
    let nt := tilesAlong pa.cols
    let strips := (List.range (tilesAlong pa.rows)).flatMap (fun m => (List.range ((nt + 1) / 2)).map (fun k => (m, k)))
    let mine := dealt n j strips
    (mine.map (fun x => (x.1, 2 * x.2)),
     (mine.filter (fun x => decide (2 * x.2 + 1 < nt))).map (fun x => (x.1, 2 * x.2 + 1)))

/-- The j-th core of the group receives its share, if any unit falls to it. -/
def dealTo (x : Started) (s : State) (j : Nat) : State :=
  let (ta, tb) := shareTiles x.bytes j
  if ta.isEmpty && tb.isEmpty then s
  else
    let n := firstCore x.bytes + j
    let k := corex n s
    setCorex n { k with ready := k.ready ++ [{ c := x.id, q := x.q, bwd := decide (8 ≤ x.q), tilesA := ta, tilesB := tb }] } s

/-- Tiles of a command, which its last chain tile counts down to its completion. -/
def tileCount (b : Bytes) : Nat :=
  (List.range (coreCount b)).foldl (fun a j => a + (shareTiles b j).1.length + (shareTiles b j).2.length) 0

/-- A command's work is divided and dealt to the cores of its group. -/
def dealCommand (x : Started) (s : State) : State :=
  setProg x.id (tileCount x.bytes) ((List.range (coreCount x.bytes)).foldl (dealTo x) s)

/-- A command's shares that have not started stay out, with the pieces that were fetched ahead for them; with `running` the share
in progress leaves too, with `tiles` its finished tiles. -/
def withdraw (c : Nat) (running tiles : Bool) (s : State) : State :=
  let t : State := { s with cores := s.cores.map (fun k => (k.1, { k.2 with
      ready := k.2.ready.filter (fun h => h.c != c),
      queued := k.2.queued.filter (fun h => h.c != c),
      run := (match k.2.run with | none => none | some h => if running && h.c == c then none else some h),
      ftq := if tiles then k.2.ftq.filter (fun t => t.c != c) else k.2.ftq })) }
  if running then dropPieces [c] ((t.cores.map (·.1)).foldl showCore t)
  else
    let busy := (t.cores.filter (fun k => match k.2.run with | some h => h.c == c | none => false)).map (·.1)
    { t with streams := t.streams.map (fun x => if busy.contains (x.1 / 8) then x
                                                else (x.1, { x.2 with pieces := x.2.pieces.filter (fun p => p.c != c) })) }

/-- A matrix command begins: its shares are dealt (R75). -/
def startMatrix (c : Nat) (op : Op) (s : State) : State :=
  match runningCmd c op s with
  | none => s
  | some x => if x.begun then s else dealCommand x s

/-- MATMUL (R74, R75). -/
def execMatmul (c : Nat) (s : State) : Host.Outcome State Fault Refusal := .next (startMatrix c .matmul s)

/-- MATMUL2 (R74, R75). -/
def execMatmul2 (c : Nat) (s : State) : Host.Outcome State Fault Refusal := .next (startMatrix c .matmul2 s)

/-- GRAD_PAIR (R75, R78). -/
def execGradPair (c : Nat) (s : State) : Host.Outcome State Fault Refusal := .next (startMatrix c .gradPair s)

/-- Do the engines stand still: a hold of this module or a peer, or a freezing snapshot (R116, R326, R349)? -/
def enginesHeld (s : State) : Bool := rbit R.PWR_STAT 7 s || !s.snap.frozen.isEmpty || !s.relay.holds.isEmpty || inHoldfast s

/-- Tokens that a core island's consumer holds (Table 17.8). -/
def coreTokens (n : Nat) (s : State) : Nat := rbits (R.PWR_Inn_CLK n) 31 16 s

/-- The queue of a class served next: ascending round robin after the one served last (R76). -/
def nextQueue (ready : List Share) (lo last : Nat) : Option Nat :=
  ((List.range 8).map (fun i => lo + (last - lo + 1 + i) % 8)).find? (fun q => ready.any (fun h => h.q == q))

/-- Commands of queue q that the Pacer looks at: the oldest RUNAHEAD that have not completed (R189). -/
def runAhead (q : Nat) (s : State) : List Nat :=
  ((s.started.filter (fun x => x.q == q)).map (·.id)).take (max 1 (rbits R.STR_CTL 4 0 s))

/-- Is a RING_SET of the class still to take effect on the core (R188, R190)? -/
def ringPending (bwd : Bool) (k : CoreX) : Bool := k.loads.any (fun l => l.1 == 2 && l.2.1 == nb bwd)

/-- The share of a class that the Pacer commits next for a core: its queues are served in turn (R76, R189). -/
def nextCommit (bwd : Bool) (k : CoreX) (s : State) : Option Share :=
  if ringPending bwd k then none
  else
    let may := k.ready.filter (fun h => h.bwd == bwd && (runAhead h.q s).contains h.c)
    match nextQueue may (if bwd then 8 else 0) (if bwd then k.lastB else k.lastF) with
    | none => none
    | some q => may.find? (fun h => h.q == q)

/-- The share a core takes next (R76): of the class that holds the present slot, the first committed, or of the other class where
that one has none. DESIGN CHOICE (log 147): the forward class holds the first FWD_WEIGHT of the 16 slots. -/
def chooseShare (fwd : Nat) (k : CoreX) : Option Share :=
  let f := k.queued.find? (fun h => !h.bwd)
  let b := k.queued.find? (·.bwd)
  if k.slot < fwd then f <|> b else b <|> f

end Sys2Proof.Machine
end

