-- ==== Sys2Proof/Machine/Walks.lean ====
section
/-! DEFINITION. Attention walks (chapters 06, 07 and 10): attention, merge and paged descriptors, positions and masks, leg buffers,
slot regions and page tables, and the units of an attention command with the pieces that they read (Table 10.1). -/

namespace Sys2Proof.Machine

/-! ### Descriptors (R101, R102, Table 6.2) -/

structure AD where
  zigzag  : Bool := false
  causal  : Bool := false
  window  : Bool := false
  glob    : Bool := false
  hdCode  : Nat := 0
  group   : Nat := 0
  kvHeads : Nat := 0
  shard   : Nat := 0
  scale   : Nat := 0
  win     : Nat := 0
  g       : Nat := 0
  ringPos : Nat := 0
  legFirst : Nat := 0
  legCount : Nat := 0
  arrive  : Nat := 0
  free    : Nat := 0
  arriveBase : Nat := 0
  carry   : Nat := 0
  nGlobal : Nat := 0
  rb0     : Nat := 0
  rb1     : Nat := 0
  glist   : Nat := 0
  gkv     : Nat := 0
  kFmt    : Nat := 0
  vFmt    : Nat := 0
  deriving DecidableEq, Repr, Inhabited

def AD.parse (b : Bytes) : AD :=
  { zigzag := bits (u b 0 1) 1 0 == 1, causal := bitAt (u b 0 1) 2, window := bitAt (u b 0 1) 3, glob := bitAt (u b 0 1) 4,
    hdCode := bits (u b 1 1) 1 0, group := u b 2 1, kvHeads := u b 3 1, shard := u b 4 4, scale := u b 8 4, win := u b 12 4,
    g := u b 16 1, ringPos := u b 17 1, legFirst := u b 18 1, legCount := u b 19 1, arrive := bits (u b 20 2) 11 0,
    free := bits (u b 22 2) 11 0, arriveBase := u b 24 4, carry := bits (u b 28 2) 11 0, nGlobal := u b 30 2,
    rb0 := u b 32 6, rb1 := u b 38 6, glist := u b 44 6, gkv := u b 50 6, kFmt := bits (u b 56 1) 4 0,
    vFmt := bits (u b 57 1) 4 0 }

/-- The attention descriptor of a command: units 1 and 2. -/
def adOf (b : Bytes) : AD := AD.parse (slice b 32 64)

def AD.hd (a : AD) : Nat := 64 * 2 ^ a.hdCode
def AD.hq (a : AD) : Nat := a.group * a.kvHeads
def AD.n (a : AD) : Nat := if a.zigzag then 2 * a.shard else a.shard
def AD.nkb (a : AD) : Nat := a.n / 64
def AD.len (a : AD) : Nat := a.g * a.n
def AD.lastLeg (a : AD) : Nat := a.legFirst + a.legCount - 1
def AD.gblocks (a : AD) : Nat := if a.glob then (a.nGlobal + 63) / 64 else 0

/-- Merge unit (Table 6.6). -/
structure MU where
  planes : Nat := 0
  stride : Nat := 0
  n      : Nat := 0
  hdCode : Nat := 0
  hq     : Nat := 0
  rows   : Nat := 0
  deriving DecidableEq, Repr, Inhabited

def MU.parse (b : Bytes) : MU :=
  { planes := u b 0 6, stride := u b 8 8, n := u b 16 1, hdCode := bits (u b 17 1) 1 0, hq := u b 18 2, rows := u b 20 4 }

def MU.hd (m : MU) : Nat := 64 * 2 ^ m.hdCode

/-- Address of the STATE record of (t, h) (Table 6.3). -/
def stateAddr (base hd hq t h : Nat) : Nat := base + (t * hq + h) * (4 * hd + 16)

/-- Address of D of a row (R119). -/
def deltaAddr (base hq t h : Nat) : Nat := base + 4 * (t * hq + h)

/-! ### Positions and masks (R104 to R106) -/

/-- Absolute position of local token t of ring position o. -/
def AD.pos (a : AD) (o t : Nat) : Nat :=
  if a.zigzag ∧ a.shard ≤ t then (2 * a.g - 1 - o) * a.shard + (t - a.shard) else o * a.shard + t

/-- Does a query at qp see a key at kp (R105)? -/
def AD.sees (a : AD) (gl : List Nat) (qp kp : Nat) (fromGkv : Bool) : Bool :=
  (!a.causal || decide (kp ≤ qp)) &&
  ((!a.window && !a.glob) || gl.contains qp ||
    (a.window && (if a.causal then decide (qp < kp + a.win) else decide (qp < kp + a.win) && decide (kp < qp + a.win))) || fromGkv) &&
  (!a.glob || !gl.contains kp || fromGkv)

/-- Ring position whose keys leg l reads (R107). -/
def AD.owner (a : AD) (l : Nat) : Nat := (a.ringPos + a.g - l) % a.g

/-- Positions of the keys of a block; none for the padding of GKV. -/
def AD.keyPos (a : AD) (gl : List Nat) (fromGkv : Bool) (l kb : Nat) : List (Option Nat) :=
  (List.range 64).map (fun j =>
    if fromGkv then (gl[64 * kb + j]?) else some (a.pos (a.owner l) (64 * kb + j)))

/-- Columns that each of the 64 rows of query block qb sees in a key block. -/
def AD.visible (a : AD) (gl : List Nat) (fromGkv : Bool) (l qb kb : Nat) : List (List Nat) :=
  let ks := a.keyPos gl fromGkv l kb
  (List.range 64).map (fun i =>
    (List.range 64).filter (fun j =>
      match ks[j]? with
      | some (some kp) => a.sees gl (a.pos a.ringPos (64 * qb + i)) kp fromGkv
      | _ => false))

def anyVisible (v : List (List Nat)) : Bool := v.any (fun r => !r.isEmpty)

/-! ### Leg buffers (R114) -/

/-- Bytes of a tile of 64 × HD elements with its scales. -/
def kvTileBytes (hd fmt : Nat) : Nat := 8 * hd * fmtBits fmt + (if isBlockFmt fmt then 2 * hd else 0)

/-- Bytes of one key-value head within a segment. -/
def AD.headBytes (a : AD) (keyPass : Bool) : Nat :=
  roundUp (kvTileBytes a.hd a.kFmt) 256 + roundUp (kvTileBytes a.hd a.vFmt) 256 + (if keyPass then 512 * a.hd else 0)

def AD.segment (a : AD) (keyPass : Bool) : Nat := a.kvHeads * a.headBytes keyPass

/-- Batons of a leg buffer. -/
def AD.batons (a : AD) (keyPass : Bool) : Nat := ceilDiv (a.nkb * a.segment keyPass) (2 ^ 20)

/-- K tile of head g in block kb of the buffer at `base`, its V tile, and the addresses of dK and dV. -/
structure KvPlace where
  k  : TD
  v  : TD
  dk : Nat
  dv : Nat
  deriving DecidableEq, Repr, Inhabited

def kvTd (base hd fmt : Nat) (axis : Bool) : TD :=
  { base := base, rows := 64, cols := hd, fmt := fmt, axis := axis, scale := base + 8 * hd * fmtBits fmt }

def AD.place (a : AD) (keyPass : Bool) (base kb g : Nat) : KvPlace :=
  let p := base + kb * a.segment keyPass + g * a.headBytes keyPass
  let v := p + roundUp (kvTileBytes a.hd a.kFmt) 256
  let c := v + roundUp (kvTileBytes a.hd a.vFmt) 256
  { k := { kvTd p a.hd a.kFmt false with trans := true }, v := kvTd v a.hd a.vFmt true, dk := c, dv := c + 256 * a.hd }

/-- End offset of what a unit reads of block kb, head g (R115): with `carry`, the block's dK and dV too. -/
def AD.endOffset (a : AD) (keyPass carry : Bool) (kb g : Nat) : Nat :=
  let p := a.place keyPass 0 kb g
  if carry then p.dv + 256 * a.hd else p.v.base + kvTileBytes a.hd a.vFmt

/-- Buffer that leg l reads. -/
def AD.buffer (a : AD) (own l : Nat) : Nat := if l = 0 then own else if (l - 1) % 2 = 0 then a.rb0 else a.rb1

/-- Batons from ARRIVE_BASE on that bytes of leg l up to offset e need (R115). -/
def AD.needs (a : AD) (keyPass : Bool) (l e : Nat) : Nat :=
  (l - max 1 a.legFirst) * a.batons keyPass + ceilDiv e (2 ^ 20)

/-- A unit's rows: heads of the group, then the 64 rows: (t, h). -/
def AD.unitRows (a : AD) (qb g : Nat) : List (Nat × Nat) :=
  (List.range a.group).flatMap (fun x => (List.range 64).map (fun i => (64 * qb + i, g * a.group + x)))

/-! ### Slot descriptors, regions and page tables (R124 to R126, Table 7.2) -/

structure SD where
  slot    : Nat := 0
  hdCode  : Nat := 0
  kvHeads : Nat := 0
  layers  : Nat := 0
  kFmt    : Nat := 0
  vFmt    : Nat := 0
  nGlobal : Nat := 0
  maxLen  : Nat := 0
  window  : Nat := 0
  pt      : Nat := 0
  glist   : Nat := 0
  deriving DecidableEq, Repr, Inhabited

def SD.parse (b : Bytes) : SD :=
  { slot := bits (u b 0 1) 5 0, hdCode := bits (u b 1 1) 1 0, kvHeads := u b 2 1, layers := u b 3 1,
    kFmt := bits (u b 4 1) 4 0, vFmt := bits (u b 5 1) 4 0, nGlobal := u b 6 2, maxLen := u b 8 4, window := u b 12 4,
    pt := u b 16 6, glist := u b 22 6 }

def pageSize : Nat := 65536

/-- The slot's geometry as an attention descriptor, so that tiles are placed as in a leg buffer (R125). -/
def SD.ad (d : SD) : AD :=
  { hdCode := d.hdCode, group := 1, kvHeads := d.kvHeads, shard := d.maxLen, g := 1, kFmt := d.kFmt, vFmt := d.vFmt,
    window := d.window != 0, win := d.window, glob := d.nGlobal != 0, nGlobal := d.nGlobal }

def SD.seg (d : SD) : Nat := d.ad.segment false

/-- LB of R125. -/
def SD.layerBytes (d : SD) : Nat := pageSize * ceilDiv (d.maxLen / 64 * d.seg) pageSize

def SD.pagesPerLayer (d : SD) : Nat := d.layerBytes / pageSize

def SD.pages (d : SD) : Nat := d.layers * d.pagesPerLayer

/-- Descriptor and global positions of an open slot. -/
def sdOf (q : Nat) (s : State) : SD := SD.parse (slotx q s).desc

def slotLen (q : Nat) (s : State) : Nat := rbits (R.KVP_Qnn_LEN q) 22 0 s

def pteAddr (q p : Nat) (s : State) : Nat := (sdOf q s).pt + 8 * p
def pte (q p : Nat) (s : State) : Nat := readNat s (pteAddr q p s) 8
def setPte (q p v : Nat) (s : State) : State := poke (pteAddr q p s) (leBytes 8 v) s

def pteValid (e : Nat) : Bool := bitAt e 0
def pteWhere (e : Nat) : Nat := bits e 2 1
def pteFrame (e : Nat) : Nat := bits e 47 16 <<< 16

/-- Bytes of the page tables of open slots, and of the frame table (R126, R131). -/
def bookRanges (s : State) : List (Nat × Nat) :=
  (s.kvp.slots.filter (fun x => x.2.isOpen)).map (fun x => ((sdOf x.1 s).pt, 8 * (sdOf x.1 s).pages)) ++
  (if rbit R.KVP_CTL 0 s then
     [(rget R.KVP_FT_BASE s, 4 * (rbits R.KVP_SPOOL_FRAMES 23 0 s + rbits R.KVP_LPOOL_FRAMES 24 0 s))] else [])

/-- Does 128-byte line `line` hold an entry of a page table or of the frame table? -/
def bookLine (line : Nat) (s : State) : Bool :=
  (bookRanges s).any (fun r => decide (r.1 < 128 * line + 128) && decide (128 * line < r.1 + r.2))

/-- The page manager's books can no longer be proved (R131); the spec gives the error no cause code (log 153). -/
def booksFatal (s : State) : State := jobFatal bKVP 0 0 s

/-- Pages that byte ranges touch. -/
def rangePages (rs : List (Nat × Nat)) : List Nat :=
  distinct (rs.flatMap (fun r => if r.2 = 0 then [] else
    (List.range ((r.1 + r.2 - 1) / pageSize - r.1 / pageSize + 1)).map (· + r.1 / pageSize)))

/-- Device address of region byte a of slot q. -/
def regionAddr (q a : Nat) (s : State) : Nat := pteFrame (pte q (a / pageSize) s) + a % pageSize

/-! ### Paged commands (R136, R137) -/

/-- Paged descriptor (Table 7.5). -/
structure PD where
  layer  : Nat := 0
  nslots : Nat := 0
  nq     : Nat := 0
  group  : Nat := 0
  scale  : Nat := 0
  causal : Bool := false
  slots  : List Nat := []
  deriving DecidableEq, Repr, Inhabited

def pdOf (b : Bytes) : PD :=
  let un := unitAt b 1
  { layer := u un 0 1, nslots := u un 1 1, nq := u un 2 1, group := u un 3 1, scale := u un 4 4, causal := bitAt (u un 8 1) 0,
    slots := (List.range (u un 1 1)).map (fun i => bits (u b (64 + i) 1) 5 0) }

/-- Attention descriptor with the mask of a slot (R136). -/
def pagedAd (p : PD) (d : SD) : AD := { d.ad with causal := p.causal, group := p.group, scale := p.scale }

/-- Core of unit i of n units dealt in contiguous runs to `k` cores: the first n mod k take one more (R137). -/
def runCore (n k i : Nat) : Nat :=
  let big := (n / k + 1) * (n % k)
  if i < big then i / (n / k + 1) else n % k + (i - big) / (n / k)

/-- Columns of block kb that the rows of a list entry see: rows are query by query, NQ of them. -/
def pagedVisible (a : AD) (gl : List Nat) (len nq kb : Nat) : List (List Nat) :=
  (List.range nq).map (fun j =>
    (List.range 64).filter (fun c =>
      let kp := 64 * kb + c
      decide (kp < len) && a.sees gl (len - nq + j) kp (gl.contains kp)))

/-- Region ranges of the K and V tiles of a block. -/
def pagedRanges (p : KvPlace) : List (Nat × Nat) := p.k.ranges ++ p.v.ranges

/-- Source bytes of a stored tile with its scales, as ranges (R184, R69, R70). -/
def tileRanges (t : TD) (r c : Nat) : List (Nat × Nat) :=
  let w := fmtBits t.fmt
  let is := (List.range 2).filter (fun i => decide (2 * r + i < (t.rows + 31) / 32))
  let n := min 2 (t.nbc - 2 * c)
  is.map (fun i => (t.base + 128 * w * ((2 * r + i) * t.nbc + 2 * c), 128 * w * n)) ++
    (if isBlockFmt t.fmt then is.map (fun i => (t.scale + 32 * ((2 * r + i) * t.nbc + 2 * c), 32 * n)) else [])

/-! ### Units and their pieces (R107, R118 to R120, R137, Table 10.1) -/

/-- Tiles of a query-side tensor that hold the rows of block qb for the heads of group g. -/
def headTiles (t : TD) (a : AD) (qb g : Nat) : List (Nat × Nat) :=
  let w := a.group * a.hd / 64
  (List.range w).flatMap (fun j => tileRanges t qb (g * w + j))

/-- Records of `size` bytes by (token, head), of the rows of block qb for the heads of group g. -/
def unitRecords (base size : Nat) (a : AD) (qb g : Nat) : List (Nat × Nat) :=
  (List.range 64).map (fun i => (base + size * ((64 * qb + i) * a.hq + g * a.group), size * a.group))

/-- A segment of key-value head g: its K and V tiles, and its carry areas in the layout of the key pass; in a leg buffer it waits for
what the unit reads of it (R114, R115). -/
def segPiece (a : AD) (layout carry gkv : Bool) (l base kb g : Nat) : APiece :=
  let p := a.place layout base kb g
  { port := 1, ranges := p.k.ranges ++ p.v.ranges ++ (if layout then [(p.dk, 512 * a.hd)] else []),
    need := if gkv || l == 0 then 0 else a.needs layout l (a.endOffset layout carry kb g) }

/-- The steps of a unit: `first` is read at its start, `each` in every block, and the blocks in turn. -/
def AUnit.reading (u : AUnit) (first each : List APiece) (blocks : List (List APiece)) : AUnit :=
  let f := List.range first.length
  let e := (List.range each.length).map (· + f.length)
  let n := f.length + e.length
  if blocks.isEmpty then { u with pieces := first, steps := if first.isEmpty then [] else [f] }
  else
    { u with
      pieces := first ++ each ++ blocks.flatten
      steps := (blocks.zipIdx.foldl (fun (acc : Nat × List (List Nat)) x =>
        (acc.1 + x.1.length, acc.2 ++ [(if x.2 = 0 then f else []) ++ e ++ (List.range x.1.length).map (· + acc.1)])) (n, [])).2 }

/-- Blocks of a buffer in which some row of query block qb sees a key. -/
def AD.blocksSeen (a : AD) (gl : List Nat) (gkv : Bool) (l qb : Nat) : List Nat :=
  (List.range (if gkv then a.gblocks else a.nkb)).filter (fun kb => anyVisible (a.visible gl gkv l qb kb))

/-- Segments of the blocks that a unit of the query side visits in leg l: GKV first in leg 0 (R107). -/
def walkSegs (a : AD) (gl : List Nat) (layout : Bool) (own l qb g : Nat) : List (List APiece) :=
  (if l = 0 then (a.blocksSeen gl true l qb).map (fun kb => [segPiece a layout false true l a.gkv kb g]) else []) ++
  (a.blocksSeen gl false l qb).map (fun kb => [segPiece a layout false false l (a.buffer own l) kb g])

/-- Unit `ui` of ATTN_FWD in leg l. -/
def fwdAUnit (b : Bytes) (gl : List Nat) (l ui : Nat) : AUnit :=
  let a := adOf b
  let qb := ui / a.kvHeads
  let g := ui % a.kvHeads
  AUnit.reading { pass := 0, leg := l, idx := ui }
    (if l = 0 then [] else
      [{ port := 2, own := decide (a.legFirst < l), ranges := unitRecords (TD.parse (unitAt b 6)).base (4 * a.hd + 16) a qb g }])
    [{ port := 0, ranges := headTiles (TD.parse (unitAt b 3)) a qb g }]
    (walkSegs a gl false (TD.parse (unitAt b 4)).base l qb g)

/-- O, LSE, DELTA and STATE records of a unit of ATTN_BWD. -/
def bwdRecords (b : Bytes) (own : Bool) (qb g : Nat) : APiece :=
  let a := adOf b
  { port := 3, own := own,
    ranges := headTiles (TD.parse (unitAt b 5)) a qb g ++ unitRecords (TD.parse (unitAt b 6)).base 8 a qb g ++
      unitRecords (TD.parse (unitAt b 7)).base 4 a qb g ++ unitRecords (TD.parse (unitAt b 10)).base (4 * a.hd + 16) a qb g }

def bwdQ (b : Bytes) (qb g : Nat) : APiece := { port := 0, ranges := headTiles (TD.parse (unitAt b 3)) (adOf b) qb g }

def bwdDo (b : Bytes) (qb g : Nat) : APiece := { port := 2, ranges := headTiles (TD.parse (unitAt b 4)) (adOf b) qb g }

/-- Unit `ui` of the D preamble (R119). -/
def deltaAUnit (b : Bytes) (ui : Nat) : AUnit :=
  let g := ui % (adOf b).kvHeads
  AUnit.reading { pass := 3, idx := ui }
    [bwdDo b (ui / (adOf b).kvHeads) g, bwdRecords b false (ui / (adOf b).kvHeads) g] [] []

/-- Unit `ui` of the query pass in leg l. -/
def queryAUnit (b : Bytes) (gl : List Nat) (l ui : Nat) : AUnit :=
  let a := adOf b
  let qb := ui / a.kvHeads
  let g := ui % a.kvHeads
  AUnit.reading { pass := 1, leg := l, idx := ui } [bwdRecords b true qb g] [bwdQ b qb g, bwdDo b qb g]
    (walkSegs a gl true (TD.parse (unitAt b 8)).base l qb g)

/-- Unit `ui` of the key pass in leg l, over GKV or over the leg's buffer: it walks the query blocks that see its keys (R120). -/
def keyAUnit (b : Bytes) (gl : List Nat) (gkv : Bool) (l ui : Nat) : AUnit :=
  let a := adOf b
  let kb := ui / a.kvHeads
  let g := ui % a.kvHeads
  AUnit.reading { pass := 2, leg := l, idx := ui, gkv := gkv } []
    [segPiece a true true gkv l (if gkv then a.gkv else a.buffer (TD.parse (unitAt b 8)).base l) kb g]
    (((List.range a.nkb).filter (fun qb => anyVisible (a.visible gl gkv l qb kb))).map (fun qb =>
      [bwdQ b qb g, bwdDo b qb g, bwdRecords b true qb g]))

/-- Unit i of ATTN_MERGE: 64 rows, plane by plane (R118). -/
def mergeAUnit (b : Bytes) (i : Nat) : AUnit :=
  let m := MU.parse (unitAt b 1)
  AUnit.reading { idx := i } [] [] ((List.range m.n).map (fun p =>
    [{ port := 0, ranges := [(stateAddr (m.planes + p * m.stride) m.hd m.hq (64 * i) 0,
        min 64 (m.rows - 64 * i) * m.hq * (4 * m.hd + 16))] }]))

/-- GLIST as the command read it at its start. -/
def glistOf (x : Started) : List Nat :=
  (List.range (if (adOf x.bytes).glob then (adOf x.bytes).nGlobal else 0)).map (fun i => u x.image (4 * i) 4)

/-- LENGTH of list entry i at the start of an ATTN_PAGED (R136). -/
def lenOf (x : Started) (i : Nat) : Nat := u x.image (4 * i) 4

/-- Slot of list entry i. -/
def PD.slot (p : PD) (i : Nat) : Nat := (p.slots[i]?).getD 0

/-- The region bytes of block kb of head g in the layer that a paged command reads. -/
def pagedPlace (p : PD) (d : SD) (kb g : Nat) : KvPlace := (pagedAd p d).place false (p.layer * d.layerBytes) kb g

/-- Blocks that list entry i's rows see, ascending (R106, R136). -/
def pagedSeen (x : Started) (i : Nat) (s : State) : List Nat :=
  let p := pdOf x.bytes
  let q := p.slot i
  let d := sdOf q s
  let len := lenOf x i
  (List.range ((len + 63) / 64)).filter (fun kb => anyVisible (pagedVisible (pagedAd p d) (slotx q s).glist len p.nq kb))

/-- Frames that hold a block of list entry i. -/
def blockFrames (p : PD) (i kb g : Nat) (s : State) : List Nat :=
  (rangePages (pagedRanges (pagedPlace p (sdOf (p.slot i) s) kb g))).map (fun n => pteFrame (pte (p.slot i) n s))

/-- Entries in runs of at most `n`. -/
def chunks (n : Nat) : Nat → List Nat → List (List Nat)
  | 0, _ => []
  | f + 1, l => if l.isEmpty then [] else l.take n :: chunks n f (l.drop n)

/-- The tiles in which a core computes the units of head g of the list entries `es` (R137): block by block, entries that map the same
frames together where NQ is 1, at most floor(64 / GROUP) of them. -/
def pagedTiles (x : Started) (g : Nat) (es : List Nat) (s : State) : List (Nat × List Nat) :=
  let p := pdOf x.bytes
  let seen := es.map (fun i => (i, pagedSeen x i s))
  (List.range (seen.foldl (fun a e => max a (e.2.foldl (fun a b => max a (b + 1)) 0)) 0)).flatMap (fun kb =>
    let on := (seen.filter (fun e => e.2.contains kb)).map (fun e => (blockFrames p e.1 kb g s, e.1))
    (distinct (on.map (·.1))).flatMap (fun f =>
      (chunks (if p.nq = 1 then max 1 (64 / p.group) else 1) on.length ((on.filter (fun y => y.1 == f)).map (·.2))).map (fun c => (kb, c))))

/-- The units of head g of the entries `es`, taken together. -/
def pagedAUnit (x : Started) (g : Nat) (es : List Nat) (s : State) : AUnit :=
  let b := x.bytes
  let p := pdOf b
  let tq := TD.parse (unitAt b 4)
  let a := pagedAd p (sdOf (p.slot 0) s)
  let w := a.group * a.hd / 64
  let rows := distinct (es.flatMap (fun i => (List.range p.nq).map (fun j => (i * p.nq + j) / 64)))
  let ts := pagedTiles x g es s
  AUnit.reading { idx := g, ents := es, tiles := ts } []
    [{ port := 0, ranges := rows.flatMap (fun r => (List.range w).flatMap (fun j => tileRanges tq r (g * w + j))) }]
    (ts.map (fun t =>
      let i := (t.2.head?).getD 0
      [{ port := 1, slot := some (p.slot i), ranges := pagedRanges (pagedPlace p (sdOf (p.slot i) s) t.1 g) }]))

/-- Units of a paged command: key-value heads by list entries. -/
def pagedCount (b : Bytes) (s : State) : Nat := (pdOf b).nslots * (sdOf ((pdOf b).slot 0) s).kvHeads

/-- The units of core j of the group (R137): a run, taken head by head where NQ is 1, else one by one. -/
def pagedUnits (x : Started) (j : Nat) (s : State) : List AUnit :=
  let p := pdOf x.bytes
  let n := pagedCount x.bytes s
  let mine := (List.range n).filter (fun i => runCore n (coreCount x.bytes) i == j)
  if p.nq = 1 then
    (distinct (mine.map (fun i => i / p.nslots))).map (fun g =>
      pagedAUnit x g ((mine.filter (fun i => i / p.nslots == g)).map (fun i => i % p.nslots)) s)
  else mine.map (fun i => pagedAUnit x (i / p.nslots) [i % p.nslots] s)

/-- Units of the passes of leg l of ATTN_BWD, on core j: the key pass ahead of the query pass. -/
def bwdLegUnits (b : Bytes) (gl : List Nat) (j l : Nat) : List AUnit :=
  let a := adOf b
  let pass := u b 18 1
  let mine := dealt (coreCount b) j (List.range (a.nkb * a.kvHeads))
  (if pass = 0 then [] else
    (if l = 0 then (dealt (coreCount b) j (List.range (a.gblocks * a.kvHeads))).map (keyAUnit b gl true l) else []) ++
    mine.map (keyAUnit b gl false l)) ++
  (if pass = 1 then [] else mine.map (queryAUnit b gl l))

/-- The legs of a command. -/
def AD.legs (a : AD) : List Nat := (List.range a.legCount).map (· + a.legFirst)

/-- The units that the j-th core of an attention command receives, in order (R107, R118, R119, R137). -/
def attnUnits (x : Started) (j : Nat) (s : State) : List AUnit :=
  let b := x.bytes
  let a := adOf b
  let mine := dealt (coreCount b) j (List.range (a.nkb * a.kvHeads))
  match opOfBytes b with
  | some .attnFwd => a.legs.flatMap (fun l => mine.map (fwdAUnit b (glistOf x) l))
  | some .attnBwd => (if a.legFirst = 0 then mine.map (deltaAUnit b) else []) ++ a.legs.flatMap (bwdLegUnits b (glistOf x) j)
  | some .attnMerge => (dealt (coreCount b) j (List.range (((MU.parse (unitAt b 1)).rows + 63) / 64))).map (mergeAUnit b)
  | _ => pagedUnits x j s

/-- Is the command of these units one of the attention sequencer's? -/
def isAttn (b : Bytes) : Bool :=
  match opOfBytes b with
  | some .attnFwd | some .attnBwd | some .attnMerge | some .attnPaged => true
  | _ => false

end Sys2Proof.Machine
end

