-- ==== Sys2Proof/Machine/Pieces.lean ====
section
/-! DEFINITION. Operand ports and pieces (chapter 10): the pieces that a share's walk reads (Table 10.1, R183 to R185), the
check of R187, and the taking and freeing of pieces. -/

namespace Sys2Proof.Machine

/-- A piece of a command's operand: tensor descriptor, stored tile row and column. -/
abbrev PKey := Nat × Nat × Nat

/-- A read of the walk: logical port and piece. -/
abbrev PRead := Nat × PKey

/-- Stored tile that holds tile (m, k) of an operand as the arrays see it. -/
def storedTile (t : TD) (m k : Nat) : Nat × Nat := if t.trans then (k, m) else (m, k)

def rangesLen (l : List (Nat × Nat)) : Nat := l.foldl (fun a x => a + x.2) 0

def keyRanges (b : Bytes) (k : PKey) : List (Nat × Nat) := tileRanges (TD.parse (unitAt b k.1)) k.2.1 k.2.2

/-- Reads of CIN at the start of a tile. -/
def cinReads (b : Bytes) (port td m n k : Nat) : List PRead :=
  if accIn b && k == 0 then [(port, td, storedTile (TD.parse (unitAt b td)) m n)] else []

/-- Steps of a tile's walk: 64 reduction indices each; token tiles for GRAD_PAIR's array B (R75, R78). -/
def tileSteps (b : Bytes) (arrayB : Bool) : Nat :=
  match opOfBytes b with
  | some .vector => 1
  | _ => tilesAlong (matrixProd b arrayB).red

/-- Pieces that step k of tile (m, n) of an array reads (Table 10.1). -/
def stepReads (b : Bytes) (arrayB : Bool) (m n k : Nat) : List PRead :=
  let p := matrixProd b arrayB
  match opOfBytes b with
  | some .vector => [(0, 1, storedTile (TD.parse (unitAt b 1)) m n)]
  | some .matmul2 =>
    if arrayB then [(2, 3, storedTile p.l m k), (3, 4, storedTile p.r k n)]
    else cinReads b 0 5 m n k ++ [(0, 1, storedTile p.l m k), (1, 2, storedTile p.r k n)]
  | some .gradPair =>
    if arrayB then [(2, 3, storedTile p.l m k), (0, 1, storedTile p.r k n)]
    else cinReads b 3 4 m n k ++ [(0, 1, storedTile p.l m k), (1, 2, storedTile p.r k n)]
  | _ => cinReads b 2 3 m n k ++ [(0, 1, storedTile p.l m k), (1, 2, storedTile p.r k n)]

/-- What an array reads in one step: the array and its tile, and the reads. -/
abbrev ARead := (Bool × Nat × Nat) × List PRead

/-- The steps of one tile, alone. -/
def tileWalk (b : Bytes) (arrayB : Bool) (t : Nat × Nat) : List ARead :=
  (List.range (tileSteps b arrayB)).map (fun k => ((arrayB, t.1, t.2), stepReads b arrayB t.1 t.2 k))

/-- Two arrays step by step together; the longer one goes on alone (R67). -/
def zipSteps : List ARead → List ARead → List (List ARead)
  | [], bs => bs.map (fun x => [x])
  | as, [] => as.map (fun x => [x])
  | a :: as, b :: bs => [a, b] :: zipSteps as bs

/-- The walk of a share, step by step: the two arrays of a paired command advance together (R67, R75, R78). -/
def shareWalk (b : Bytes) (ta tb : List (Nat × Nat)) : List (List ARead) :=
  match opOfBytes b with
  | some .matmul =>
    ta.flatMap (fun t => (List.range (tileSteps b false)).map (fun k =>
      ((false, t.1, t.2), stepReads b false t.1 t.2 k) ::
        (if tb.contains (t.1, t.2 + 1) then [((true, t.1, t.2 + 1), stepReads b true t.1 (t.2 + 1) k)] else [])))
  | some .gradPair =>
    ta.flatMap (fun t => (List.range (tileSteps b false)).map (fun ni =>
      [((false, t.1, t.2), stepReads b false t.1 t.2 ni), ((true, t.2, ni), stepReads b true t.2 ni t.1)]))
  | some .matmul2 => zipSteps (ta.flatMap (tileWalk b false)) (tb.flatMap (tileWalk b true))
  | _ => (ta.flatMap (tileWalk b false)).map (fun x => [x])

/-- The walk of unit k of an attention share; its pieces are named by the unit and their place in it. -/
def unitWalk (k : Nat) (x : AUnit) : List (List ARead) :=
  x.steps.map (fun st => [((false, k, 0), st.map (fun j => ((x.pieces[j]?.getD {}).port, (k, j, 0))))])

/-- The whole walk of a share of the command `b` on core n. -/
def coreWalk (h : Share) (b : Bytes) (n : Nat) : List (List ARead) :=
  if isAttn b then h.units.zipIdx.flatMap (fun x => unitWalk x.2 x.1)
  else
    let t := shareTiles b (n - firstCore b)
    shareWalk b t.1 t.2

/-- The attention piece of a key. -/
def attnPiece (h : Share) (k : PKey) : APiece := ((h.units[k.1]?.getD {}).pieces[k.2.1]?).getD {}

/-- Source bytes of a piece of a share: device addresses, or region bytes of the slot of a paged command. -/
def pieceRanges (h : Share) (b : Bytes) (k : PKey) : List (Nat × Nat) :=
  if isAttn b then (attnPiece h k).ranges else keyRanges b k

def stepOf (x : List ARead) : List PRead := x.flatMap (·.2)

/-- Reads of one logical port, with their steps. -/
def portReads (w : List (List ARead)) (p : Nat) : List (Nat × PKey) :=
  w.zipIdx.flatMap (fun x => ((stepOf x.1).filter (fun r => r.1 == p)).map (fun r => (x.2, r.2)))

/-- Pieces of one port in the order of their first reads. -/
def portPieces (w : List (List ARead)) (p : Nat) : List PKey := distinct ((portReads w p).map (·.2))

/-- Is a piece live at step i: between its first and its last read? -/
def liveAt (rs : List (Nat × PKey)) (i : Nat) (k : PKey) : Bool :=
  rs.any (fun r => r.2 == k && decide (r.1 ≤ i)) && rs.any (fun r => r.2 == k && decide (i ≤ r.1))

/-- Most pieces live at any moment. -/
def maxLive (w : List (List ARead)) (p : Nat) : Nat :=
  let rs := portReads w p
  (List.range w.length).foldl (fun a i => max a ((portPieces w p).filter (liveAt rs i)).length) 0

/-- Stream that serves logical port p of a share on core n (R183). -/
def streamOf (n : Nat) (bwd : Bool) (p : Nat) : Nat := 8 * n + 4 * nb bwd + p

/-- Does a port lack the room for a share (R187)? -/
def portLacks (h : Share) (b : Bytes) (w : List (List ARead)) (p : Nat) (x : StreamX) : Bool :=
  let ls := (portPieces w p).map (fun k => rangesLen (pieceRanges h b k))
  if x.slots = 0 then decide (128 * x.size < ls.foldl (· + ·) 0)
  else ls.any (fun l => decide (128 * x.size < l)) || decide (x.slots < maxLive w p)

/-- The check of R187 on every port that the share uses. -/
def shareLacks (n : Nat) (h : Share) (b : Bytes) (s : State) : Bool :=
  let w := coreWalk h b n
  (List.range 4).any (fun p => !(portPieces w p).isEmpty && portLacks h b w p (streamx (streamOf n h.bwd p) s))

/-- The streams of a share take its pieces, in the order of their first reads, behind those of the shares committed before it
(R185, R189). -/
def commitPieces (n : Nat) (h : Share) (b : Bytes) (s : State) : State :=
  let w := coreWalk h b n
  (List.range 4).foldl (fun t p =>
    let i := streamOf n h.bwd p
    let ks := portPieces w p
    if ks.isEmpty then t
    else setStreamx i { streamx i t with pieces := (streamx i t).pieces ++ ks.map (fun k =>
      ({ c := h.c, td := k.1, row := k.2.1, col := k.2.2, ranges := pieceRanges h b k, via := if isAttn b then (attnPiece h k).slot else none } : Piece)) } t) s

def Piece.key (p : Piece) : PKey := (p.td, p.row, p.col)
def Piece.len (p : Piece) : Nat := rangesLen p.ranges
def Piece.whole (p : Piece) : Bool := p.landed == p.len

/-- Bytes stand at address `a` of the view in which a tile reads its landed pieces; only the module's own memory and host
memory can be shown so (log 62). -/
def overlay (a : Nat) (d : Bytes) (s : State) : State :=
  match reach s a with
  | .mem o => storeBytes o d false s
  | _ => s

/-- A piece's data at the addresses of its source. -/
def spreadData : List (Nat × Nat) → Bytes → State → State
  | [], _, s => s
  | (a, l) :: t, d, s => spreadData t (d.drop l) (overlay a (d.take l) s)

/-- Address of the byte at `off` of a list of ranges. -/
def placeIn : List (Nat × Nat) → Nat → Nat
  | [], _ => 0
  | (a, l) :: t, off => if off < l then a + off else placeIn t (off - l)

def markBad (rs : List (Nat × Nat)) (s : State) (p : Nat × Nat) : State :=
  match reach s (placeIn rs p.1) with
  | .mem o => { s with poison := poisonAfter o p.2 true s.poison }
  | _ => s

/-- The pieces of share h on core n that have landed whole. -/
def landedPieces (n : Nat) (h : Share) (s : State) : List Piece :=
  ((List.range 4).flatMap (fun p => (streamx (streamOf n h.bwd p) s).pieces)).filter (fun p => p.c == h.c && p.whole)

/-- A piece is seen at its source. -/
def showPiece (h : Share) (b : Bytes) (t : State) (p : Piece) : State :=
  p.bad.foldl (markBad (pieceRanges h b p.key)) (spreadData (pieceRanges h b p.key) p.data t)

/-- Memory as the pieces of a share on core n show it: snapshots of the time of each fetch (R185). -/
def viewPieces (n : Nat) (h : Share) (b : Bytes) (s : State) : State := (landedPieces n h s).foldl (showPiece h b) s

/-- Memory as the pieces of unit k of an attention share show it. -/
def viewUnit (n : Nat) (h : Share) (b : Bytes) (k : Nat) (s : State) : State :=
  ((landedPieces n h s).filter (fun p => p.td == k && p.via.isNone)).foldl (showPiece h b) s

/-- Is the piece that a read of share h names landed? -/
def readLanded (n : Nat) (h : Share) (s : State) (r : PRead) : Bool :=
  (streamx (streamOf n h.bwd r.1) s).pieces.any (fun p => p.c == h.c && p.key == r.2 && p.whole)

/-- Slots that a stream's pieces, and borrowers' pieces, hold of stream i's own. -/
def slotsHeld (i : Nat) (s : State) : List Nat :=
  (List.range 8).flatMap (fun j =>
    (streamx (8 * (i / 8) + j) s).pieces.filterMap (fun p =>
      match p.slot with
      | some (o, k) => if o = i then some k else none
      | none => none))

/-! ### Gates (R115, R119, R135, R190) -/

/-- Has every core of an attention command formed D (R119)? -/
def deltaDone (c : Nat) (s : State) : Bool :=
  !s.cores.any (fun k => (k.2.ready ++ k.2.queued ++ k.2.run.toList).any (fun h =>
    h.c == c && h.tilesA.any (fun t => ((h.units[t.1]?).getD {}).pass == 3)))

/-- Does the piece still wait for a baton (R115)? -/
def batonShut (b : Bytes) (p : APiece) (s : State) : Bool :=
  p.need != 0 && !satisfied (markerCount (adOf b).arrive s) ((adOf b).arriveBase + p.need)

/-- Do records that the command itself writes still have to be written: D (R119), or what the unit parked in its last leg (R109)? -/
def ownShut (h : Share) (k : PKey) (s : State) : Bool :=
  let u := (h.units[k.1]?).getD {}
  (attnPiece h k).own && ((u.pass != 0 && !deltaDone h.c s) ||
    h.tilesA.any (fun t => let v := (h.units[t.1]?).getD {}; decide (v.leg < u.leg) && v.pass == u.pass && v.idx == u.idx))

/-- Is a region page of a paged piece not in stacked memory (R135)? -/
def pageShut (p : APiece) (s : State) : Bool :=
  match p.slot with
  | none => false
  | some q => (rangePages p.ranges).any (fun n => pteWhere (pte q n s) == 1)

/-- May the piece of a committed share not be fetched yet? -/
def gateShut (h : Share) (b : Bytes) (k : PKey) (s : State) : Bool :=
  isAttn b && (batonShut b (attnPiece h k) s || ownShut h k s || pageShut (attnPiece h k) s)

/-- The share on core n to which a piece belongs, with its command's units. -/
def shareOfPiece (n : Nat) (p : Piece) (s : State) : Option (Share × Bytes) :=
  match ((corex n s).run.toList ++ (corex n s).queued).find? (fun h => h.c == p.c), startedAt p.c s with
  | some h, some x => some (h, x.bytes)
  | _, _ => none

/-- Is a piece of stream i held by a gate? -/
def pieceShut (i : Nat) (p : Piece) (s : State) : Bool :=
  match shareOfPiece (i / 8) p s with
  | none => false
  | some (h, b) => gateShut h b p.key s

/-- WAIT of a stream (Table 10.4): while its next piece is not asked for, 3 at a gate
(R115, R190), 1 without a slot and 2 without a tag. -/
def waitOf (i : Nat) (s : State) : Nat :=
  let x := streamx i s
  let ts := (halfx (i / 256) s).transfers
  match x.pieces.find? (fun p => decide (p.granted < p.len)) with
    | none => 0
    | some p =>
      if pieceShut i p s then 3
      else if p.slot.isNone && (if x.slots = 0 then x.pieces.head?.any (fun g => g.c != p.c) else (slotsHeld i s).contains x.tail) then 1
      else if decide (2048 ≤ ts.length) || decide (rbits R.STR_TAGCAP 11 0 s ≤ (ts.filter (fun t => t.owner == i)).length) then 2
      else 0

/-- Registers of a stream follow it (Table 10.4): LANDED counts its own slots, a lent one counts at its lender and a borrowed one at
its borrower (R197); of a resident window, the pieces it holds. -/
def showStream (i : Nat) (s : State) : State :=
  let x := streamx i s
  let borrowed := (x.pieces.filter (fun p => match p.slot with | some (o, _) => o != i | none => false)).length
  let own := x.pieces.filter (fun p => match p.slot with | some (o, _) => o == i | none => false)
  let lent := if x.slots = 0 then 0 else (slotsHeld i s).length - own.length
  let landed := (own.filter (·.whole)).length
  let t := rsetBits (R.STR_Snnn_STAT i) 31 30 (waitOf i s) (rsetBits (R.STR_Snnn_STAT i) 29 24 borrowed
    (rsetBits (R.STR_Snnn_STAT i) 21 16 lent (rsetBits (R.STR_Snnn_STAT i) 14 8 landed (rsetBits (R.STR_Snnn_STAT i) 6 0 x.slots s))))
  rset (R.STR_Snnn_TAGS i) (((halfx (i / 256) s).transfers.filter (fun t => t.owner == i)).length) t

/-- The registers of the eight streams of a core. -/
def showStreams (n : Nat) (s : State) : State := (List.range 8).foldl (fun t j => showStream (8 * n + j) t) s

/-! ### Reading the walk (R67, R78, R79, R82) -/

/-- The step after the last one in which an array works on a tile. -/
def lastStep (w : List (List ARead)) (x : Bool × Nat × Nat) : Nat :=
  w.zipIdx.foldl (fun a st => if st.1.any (fun r => r.1 == x) then st.2 + 1 else a) 0

/-- Has the array done all accumulations of the tile? -/
def tileDone (w : List (List ARead)) (h : Share) (arrayB : Bool) (t : Nat × Nat) : Bool :=
  decide (lastStep w (arrayB, t.1, t.2) ≤ h.pos)

/-- The bank that a tile fills in its array, by the order of filling: array B of GRAD_PAIR holds the dW tiles of a strip in one
(R78). -/
def bankOf (b : Bytes) (arrayB : Bool) (t : Nat × Nat) : Nat × Nat := if opOfBytes b = some .gradPair ∧ arrayB then (t.1, 0) else t

/-- Banks of an array that tiles fill which are done and have not passed. -/
def fullBanks (b : Bytes) (w : List (List ARead)) (h : Share) (arrayB : Bool) : List (Nat × Nat) :=
  distinct (((if arrayB then h.tilesB else h.tilesA).takeWhile (tileDone w h arrayB)).map (bankOf b arrayB))

/-- Batons from ARRIVE_BASE on that a step of an attention share touches (R115). -/
def stepNeed (h : Share) (st : List ARead) : Nat := (stepOf st).foldl (fun a r => max a (attnPiece h r.2).need) 0

/-- Is a share held at its next step? A matrix pair stands still with the engines; the sequencer goes on to the next block that touches
a later baton (R116). -/
def stepHeld (h : Share) (b : Bytes) (w : List (List ARead)) (s : State) : Bool :=
  if isAttn b && s.snap.frozen.isEmpty && !inHoldfast s then
    enginesHeld s && decide ((w.take h.pos).foldl (fun a st => max a (stepNeed h st)) 0 < stepNeed h ((w[h.pos]?).getD []))
  else enginesHeld s

/-- May the unit of an attention share that the next step belongs to begin: D stands where it needs it (R119)? -/
def unitMay (h : Share) (b : Bytes) (st : List ARead) (s : State) : Bool :=
  !isAttn b || st.all (fun r => (((h.units[r.1.2.1]?).getD {}).pass % 3 == 0) || deltaDone h.c s)

/-- May the arrays read the next step: its pieces have landed, no tile is being recomputed (R82), each array has a bank to fill
while it drains the other (R78), and no done tile stands before a full finished-tile queue (R79)? -/
def mayStep (n : Nat) (h : Share) (b : Bytes) (w : List (List ARead)) (s : State) : Bool :=
  let k := corex n s
  let waiting (x : Bool) : List (Nat × Nat) := fullBanks b w h x
  !k.onceA && !k.onceB && !stepHeld h b w s &&
  (match w[h.pos]? with
   | none => false
   | some st => unitMay h b st s && (stepOf st).all (readLanded n h s) && st.all (fun r => decide ((waiting r.1.1).length ≤ 1))) &&
  (isAttn b || decide (k.ftq.length < 16) || ((waiting false).isEmpty && (waiting true).isEmpty))

/-- A stream after step `i` of the walk has been read: pieces read for the first time are begun, and a ring's slot is free after the
last read of its piece (R185); a resident window keeps its pieces (R186). -/
def afterStep (c : Nat) (now later : List PKey) (x : StreamX) : StreamX :=
  let touched (p : Piece) : Bool := p.c == c && now.contains p.key
  { x with nReads := x.nReads + (x.pieces.filter (fun p => touched p && !p.begun)).length,
           pieces := x.pieces.map (fun p =>
             if touched p then
               let last := x.slots != 0 && !later.contains p.key
               { p with begun := true, freed := p.freed || last, slot := if last then none else p.slot }
             else p) }

/-- The arrays of core n read the next step. -/
def readStep (n : Nat) (h : Share) (w : List (List ARead)) (s : State) : State :=
  let now := stepOf ((w[h.pos]?).getD [])
  let later := (w.drop (h.pos + 1)).flatMap stepOf
  let pick (p : Nat) (l : List PRead) : List PKey := (l.filter (fun r => r.1 == p)).map (·.2)
  let t := (List.range 4).foldl (fun s p =>
    let i := streamOf n h.bwd p
    if (pick p now).isEmpty then s else setStreamx i (afterStep h.c (pick p now) (pick p later) (streamx i s)) s) s
  setCorex n { corex n t with run := some { h with pos := h.pos + 1 } } t

/-- The arrays read on as far as they may. -/
def advanceGo (n : Nat) : Nat → State → State
  | 0, s => s
  | f + 1, s =>
    match (corex n s).run with
    | none => s
    | some h =>
      match startedAt h.c s with
      | none => s
      | some x =>
        let w := coreWalk h x.bytes n
        if mayStep n h x.bytes w s then advanceGo n f (readStep n h w s) else s

/-- STATE, LEG and PASS of ATT_Cnn_STAT, and attention in CORE_Cnn_STAT. -/
def showAttn (q st leg pass : Nat) (s : State) (n : Nat) : State :=
  let t := rset (R.ATT_Cnn_STAT n) (st + (leg <<< 8) + (pass <<< 16)) s
  if st = 0 then rset (R.CORE_Cnn_STAT n) 0 t
  else rset (R.CORE_Cnn_STAT n) (3 + (nb (decide (8 ≤ q)) <<< 4) + (q <<< 8)) t

/-- The attention share in progress on core n, with its command's units. -/
def attnShare (n : Nat) (s : State) : Option (Share × Bytes) :=
  match (corex n s).run with
  | none => none
  | some h => (match startedAt h.c s with | none => none | some x => if isAttn x.bytes then some (h, x.bytes) else none)

/-- The command for which core n waits on a baton (R115). -/
def waitsBaton (n : Nat) (s : State) : Option Nat :=
  match attnShare n s with
  | none => none
  | some (h, b) =>
    if ((stepOf (((coreWalk h b n)[h.pos]?).getD [])).any (fun r => batonShut b (attnPiece h r.2) s)) then some h.c else none

/-- ATT_Cnn_STAT follows the walk; a hold that core n obeys is counted when it stops for it (R116). -/
def showWalk (n : Nat) (s : State) : State :=
  match attnShare n s with
  | none => s
  | some (h, b) =>
    let w := coreWalk h b n
    let k := match w[h.pos]? with
      | some (r :: _) => r.1.2.1
      | _ => (h.tilesA.head?.getD (0, 0)).1
    let x := (h.units[k]?).getD {}
    let st := if (waitsBaton n s).isSome then 2 else if stepHeld h b w s then 3 else 1
    let s1 := if st = 3 ∧ rbits (R.ATT_Cnn_STAT n) 1 0 s ≠ 3 then rcountSat (R.ATT_Cnn_HOLDS n) s else s
    let x0 := rbits (R.CORE_Cnn_STAT n) 1 0 s
    let t := showAttn h.q st x.leg x.pass s1 n
    if x0 = 2 then rsetBits (R.CORE_Cnn_STAT n) 1 0 2 t else t

/-- The same on every core. -/
def showWalks (s : State) : State := (s.cores.map (·.1)).foldl (fun t n => showWalk n t) s

/-- The share in progress on core n reads on, and its streams show it. -/
def advance (n : Nat) (s : State) : State :=
  match (corex n s).run with
  | none => s
  | some h =>
    match startedAt h.c s with
    | none => s
    | some x => showWalk n (showStreams n (advanceGo n ((coreWalk h x.bytes n).length - h.pos) s))

/-- The same on every core: what held them all has ended. -/
def advanceAll (s : State) : State := (s.cores.map (·.1)).foldl (fun t n => advance n t) s

/-- Pieces of share h that no tile still to pass reads leave the streams; with the share's last tile all of them do. -/
def forgetPieces (n : Nat) (h : Share) (b : Bytes) (s : State) : State :=
  let w := (coreWalk h b n).flatten.filter (fun r => (if r.1.1 then h.tilesB else h.tilesA).contains r.1.2)
  let left (p : Nat) : List PKey := ((w.flatMap (·.2)).filter (fun r => r.1 == p)).map (·.2)
  let whole := h.tilesA.isEmpty && h.tilesB.isEmpty
  (List.range 4).foldl (fun s p =>
    let i := streamOf n h.bwd p
    let x := streamx i s
    let ks := left p
    setStreamx i { x with pieces := x.pieces.filter (fun y => y.c != h.c || (!whole && (!y.freed || ks.contains y.key))) } s) s

end Sys2Proof.Machine
end

