-- ==== Sys2Proof/Machine/Tile.lean ====
section
/-! DEFINITION. Finished tiles (chapter 04): the value of a share's tile, the verdict of R82, the finished-tile queue, loads
between shares, and the commands TILE_FINISH and INJECT. -/

namespace Sys2Proof.Machine

/-! ### Verdicts (R82 to R84) -/

/-- The tile an array works on: head of its part of the share in progress. -/
def tileAt (k : CoreX) (arrayB : Bool) : Option (Share × Nat × Nat) :=
  match k.run with
  | none => none
  | some h => (match (if arrayB then h.tilesB else h.tilesA) with | [] => none | t :: _ => some (h, t.1, t.2))

/-- QDEPTH of VCH_Cnn_STAT follows the finished-tile queue. -/
def showDepth (n : Nat) (s : State) : State :=
  rsetBits (R.VCH_Cnn_STAT n) 12 8 (corex n s).ftq.length s

/-- VCH_Cnn_SLOTS shows the slots that hold a chain or a table (Table 5.7). -/
def showSlots (n : Nat) (s : State) : State :=
  let k := corex n s
  rset (R.VCH_Cnn_SLOTS n) (k.chains.foldl (fun a x => a ||| (1 <<< x.1)) (k.tables.foldl (fun a x => a ||| (1 <<< (16 + x.1))) 0)) s

/-- Image of CORE_Cnn_EXC (Table 4.9). -/
def excImage (row col kb : Nat) (arrayB : Bool) (q : Nat) : Nat :=
  row % 2 ^ 18 + ((col % 2 ^ 18) <<< 18) + ((kb % 2 ^ 15) <<< 36) + (nb arrayB <<< 51) + (q <<< 56) + 2 ^ 63

/-- An accepted tile with INVALID is counted, and its first occurrence captured when VALID is clear (R84). -/
def captureInvalid (n row col kb : Nat) (arrayB : Bool) (q : Nat) (s : State) : State :=
  let t := rcountSat (R.CORE_Cnn_EXCN n) s
  if rbit (R.CORE_Cnn_EXC n) 63 t then t
  else snapOn R.CORE_CTL 0 5 bCORE (rset (R.CORE_Cnn_EXC n) (excImage row col kb arrayB q) t)

/-- A port field of RING_SET (Table 10.2). -/
def ringOfField (b : Bytes) (i : Nat) : StreamX :=
  { base := u b (8 * i) 2, size := u b (8 * i + 2) 2, slots := u b (8 * i + 4) 1, lend := bitAt (u b (8 * i + 5) 1) 0 }

/-- Committed shares of a class go back to be committed anew, and what was fetched for them is dropped: a RING_SET has changed the
rings (R188). -/
def recommit (n : Nat) (bwd : Bool) (s : State) : State :=
  let k := corex n s
  let back := k.queued.filter (fun h => h.bwd == bwd)
  setCorex n { k with ready := back ++ k.ready, queued := k.queued.filter (fun h => h.bwd != bwd) } s

/-- One load takes effect (R91, R188). -/
def applyLoad (n : Nat) (s : State) (l : Nat × Nat × Bytes) : State :=
  let k := corex n s
  match l.1 with
  | 0 => setCorex n { k with tables := AL.insert l.2.1 l.2.2 k.tables } s
  | 1 => setCorex n { k with chains := AL.insert l.2.1 l.2.2 k.chains } s
  | _ => (List.range 4).foldl (fun t p =>
      let i := 8 * n + 4 * l.2.1 + p
      showStream i (setStreamx i (ringOfField l.2.2 p) t)) (recommit n (l.2.1 == 1) s)

/-- Loads waiting for the end of a share take effect (R91). -/
def applyLoads (n : Nat) (s : State) : State :=
  let k := corex n s
  showSlots n (k.loads.foldl (applyLoad n) (setCorex n { k with loads := [] } s))

/-- Loads that waited for a share which failed or was stopped take effect (R91). -/
def settleLoad (s : State) (n : Nat) : State :=
  if (corex n s).run.isNone && !(corex n s).loads.isEmpty then applyLoads n s else s

/-- Tile t of an array has passed: it leaves the share. -/
def Share.without (h : Share) (arrayB : Bool) : Share :=
  if arrayB then { h with tilesB := h.tilesB.drop 1 } else { h with tilesA := h.tilesA.drop 1 }

def Share.finished (h : Share) : Bool := h.tilesA.isEmpty && h.tilesB.isEmpty

/-- The head tile of an array leaves the share; the share ends with the last tile of both arrays. -/
def popTile (arrayB : Bool) (k : CoreX) : CoreX :=
  match k.run with
  | none => k
  | some h =>
    let k' : CoreX := if arrayB then { k with onceB := false } else { k with onceA := false }
    { k' with run := if (h.without arrayB).finished then none else some (h.without arrayB) }

/-- Tile value of the command a share belongs to; VECTOR's tiles land as they are stored, and a scale product beyond
FP32 sets OVERFLOW for the entry (R53, R59, R92, log 138). -/
def shareTileValue (s : State) (b : Bytes) (arrayB : Bool) (m n : Nat) (ups : List Upset := []) : TileVal :=
  if opOfBytes b = some .vector then
    let t := TD.parse (unitAt b 1)
    let rows := tileExt t.opRows m
    let cols := tileExt t.opCols n
    let at' (i j : Nat) : Nat × Nat := if t.trans then (64 * n + j, 64 * m + i) else (64 * m + i, 64 * n + j)
    let ws := (List.range rows).flatMap (fun i => (List.range cols).map (fun j =>
      if t.fmt = 0 then (t.code s (at' i j).1 (at' i j).2, 0)
      else widen (RUnit.parse (unitAt b 2)).ovf (t.value s (at' i j).1 (at' i j).2)))
    { rows := rows, cols := cols, elems := ws.map (·.1), qflags := ws.foldl (fun a w => a ||| w.2) 0 }
  else tileValue s (matrixProd b arrayB) m n ups

/-- Poison that a share's tile meets. -/
def shareTilePoison (s : State) (b : Bytes) (arrayB : Bool) (m n : Nat) : Option Nat :=
  if opOfBytes b = some .vector then
    let t := TD.parse (unitAt b 1)
    if noPoison s then none
    else
      let ps := (List.range (tileExt t.opRows m)).flatMap (fun i => (List.range (tileExt t.opCols n)).map (fun j =>
        if t.trans then (64 * n + j, 64 * m + i) else (64 * m + i, 64 * n + j)))
      if ps.any (fun p => t.elemPoisoned s p.1 p.2) then some 0x0101
      else if ps.any (fun p => t.scalePoisoned s p.1 p.2) then some 0x0102 else none
  else tilePoison s (matrixProd b arrayB) m n

/-- Flag CHECKSUM_RETRIED of Table 2.8. -/
def flagRetried : Nat := 256

/-- The verdict of a tile is a first failure, real or forced: the array recomputes it (R82). -/
def tileRetry (n : Nat) (arrayB : Bool) (c q : Nat) (s : State) : State :=
  let k := corex n s
  let k' : CoreX := if arrayB then { k with onceB := true } else { k with onceA := true }
  let s := if s.injects = some (n, arrayB) then { s with injects := none } else s
  let t := rsetBits (R.CORE_Cnn_STAT n) 1 0 2 (setCorex n k' s)
  snapOn R.CORE_CTL 1 1 bCORE
    (reportError 1 bCORE 0 q n (addFlags c flagRetried (rcountSat (R.CORE_Cnn_CKS n) t)))

/-- The record with which a tile enters the finished-tile queue (R79). -/
def tileRecord (k : CoreX) (h : Share) (arrayB : Bool) (row col : Nat) (v : TileVal) : QTile :=
  { c := h.c, row := row, col := col, arrayB := arrayB, int := v.int, invalid := v.flags % 2 == 1, overflow := bitAt v.flags 1,
    retried := if arrayB then k.onceB else k.onceA, last := (if arrayB then h.tilesB else h.tilesA).length == 1,
    rows := v.rows, cols := v.cols, elems := v.elems, chain := if arrayB then h.chainB else h.chainA, tables := h.tables }

/-- The tile passes: it enters the finished-tile queue with its record, its flags are reported, and the arrays read on (R79, R83,
R84). -/
def tilePass (n : Nat) (arrayB : Bool) (h : Share) (b : Bytes) (row col : Nat) (v : TileVal) (s : State) : State :=
  let k := corex n s
  let k' := popTile arrayB { k with ftq := k.ftq ++ [tileRecord k h arrayB row col v] }
  let t := forgetPieces n (h.without arrayB) b (setCorex n k' s)
  let t := if k'.run.isSome then rsetBits (R.CORE_Cnn_STAT n) 1 0 1 t else rset (R.CORE_Cnn_STAT n) 0 (applyLoads n t)
  let t := addFlags h.c ((v.flags ||| v.qflags) % 4) (showDepth n t)
  let t := advance n (showStreams n t)
  match v.inv with
  | none => if v.flags % 2 = 1 then captureInvalid n row col 0 arrayB h.q t else t
  | some kb => captureInvalid n row col kb arrayB h.q t

/-- An operand or scale block of the tile cannot be read: the command fails and produces no further tile (R65). -/
def tileLost (n : Nat) (h : Share) (cause : Nat) (s : State) : State :=
  failCmd h.c bCORE cause n (withdraw h.c true false s)

/-- A single-bit error that the tile store corrected (R65). -/
def tileCorrected (n q : Nat) (s : State) : State := reportError 0 bCORE 0 q n (rcountSat (R.CORE_Cnn_ECC n) s)

/-- Does a done tile of the other array come first: one done in an earlier step, or in the same one for array A (R79)? One that is
being recomputed comes later. -/
def otherFirst (k : CoreX) (h : Share) (w : List (List ARead)) (arrayB : Bool) (t : Nat × Nat) : Bool :=
  let mine := lastStep w (arrayB, t.1, t.2)
  match (if arrayB then h.tilesA else h.tilesB) with
  | [] => false
  | o :: _ =>
    let its := lastStep w (!arrayB, o.1, o.2)
    !(if arrayB then k.onceA else k.onceB) && (if arrayB then decide (its ≤ mine) else decide (its < mine))

/-- Core n's share of attention command c is over, or never came to start: the core is free for its next share. -/
def leaveCore (c : Nat) (s : State) (n : Nat) : State :=
  let k := corex n s
  let s := setCorex n { k with ready := k.ready.filter (fun h => h.c != c), queued := k.queued.filter (fun h => h.c != c) } s
  if k.run.any (fun h => h.c == c) then
    settleLoad (setCorex n { corex n s with run := none, onceA := false, onceB := false } (showAttn 0 0 0 0 s n)) n
  else s

/-- The command's cores are its own no more, and its pieces leave their streams. -/
def leaveCores (c : Nat) (b : Bytes) (s : State) : State :=
  (coresOf b).foldl (fun t n => showStreams n t) (dropPieces [c] ((coresOf b).foldl (leaveCore c) s))

/-- An attention command loses data that a core's tile store cannot correct (R122). -/
def attnLost (n : Nat) (x : Started) (s : State) : State :=
  failCmd x.id bATT (if opOfBytes x.bytes = some .attnPaged then 0x0130 else 0x0120) n
    (x.outs.foldl forgetAt (leaveCores x.id x.bytes s))

/-- A verdict for a core whose matrix pair the attention sequencer has: its tiles are checked as all are (R82), and go on in the
sequencer when they pass. -/
def attnVerdict (n : Nat) (arrayB : Bool) (v : TileCheck) (c : Nat) (s : State) : State :=
  match startedAt c s with
  | none => s
  | some x =>
    let k := corex n s
    let s := (List.range v.corrected).foldl (fun t _ => tileCorrected n x.q t) s
    let fails := v.upsets.any (fun y => y.wrong % resQ != 0)
    if v.lost.isSome then attnLost n x s
    else if fails && (if arrayB then k.onceB else k.onceA) then chipFatal bCORE 1 x.q n s
    else if fails || s.injects == some (n, arrayB) then tileRetry n arrayB c x.q s
    else rsetBits (R.CORE_Cnn_STAT n) 1 0 3 (setCorex n (if arrayB then { corex n s with onceB := false } else { corex n s with onceA := false }) s)

/-- The tile of an array that waits for its verdict, with its command's units: the arrays have done all its accumulations, no tile
comes first, and the finished-tile queue has room (R79). -/
def awaitsVerdict (n : Nat) (arrayB : Bool) (s : State) : Option (Share × Nat × Nat × Bytes) :=
  let k := corex n s
  match tileAt k arrayB with
  | none => none
  | some (h, row, col) =>
    match startedAt h.c s with
    | none => none
    | some x =>
      let w := coreWalk h x.bytes n
      if isAttn x.bytes || decide (16 ≤ k.ftq.length) || enginesHeld s || !tileDone w h arrayB (row, col) || otherFirst k h w arrayB (row, col) then none
      else some (h, row, col, x.bytes)

/-- Cause for which a tile is lost: a block that the tile store cannot correct, or poison (R65, R198). -/
def lostCause (n : Nat) (h : Share) (b : Bytes) (arrayB : Bool) (row col : Nat) (v : TileCheck) (s : State) : Option Nat :=
  match v.lost with
  | some sc => some (if sc then 0x0102 else 0x0101)
  | none => shareTilePoison (viewPieces n h b s) b arrayB row col

/-- TILE_FINISH: an array's tile gets its verdict (R82). A tile of VECTOR comes from no array and has none. -/
def tileFinish (n : Nat) (arrayB : Bool) (v : TileCheck) (s : State) : State :=
  match attnShare n s with
  | some (h, _) => attnVerdict n arrayB v h.c s
  | none =>
    match awaitsVerdict n arrayB s with
    | none => s
    | some (h, row, col, b) =>
      let s := (List.range v.corrected).foldl (fun t _ => tileCorrected n h.q t) s
      match lostCause n h b arrayB row col v s with
      | some cause => tileLost n h cause s
      | none =>
        let x := shareTileValue (viewPieces n h b s) b arrayB row col v.upsets
        let once := if arrayB then (corex n s).onceB else (corex n s).onceA
        if !x.ok && once then chipFatal bCORE 1 h.q n s
        else if !x.ok || (s.injects == some (n, arrayB) && opOfBytes b != some .vector) then tileRetry n arrayB h.c h.q s
        else tilePass n arrayB h b row col x s

def execTileFinish (n : Core) (arrayB : Bool) (v : TileCheck) (s : State) : Host.Outcome State Fault Refusal :=
  .next (tileFinish n.val arrayB v s)

/-- An injection is asked for by CORE_CTL.INJECT: one that finds an earlier one pending has no further effect and counts as misuse
(Table 4.8). -/
def inject (n : Nat) (arrayB : Bool) (s : State) : State :=
  if s.injects.isSome then misuse bCORE s else { s with injects := some (n, arrayB) }

/-- INJECT (R82): a write of CORE_CTL with INJECT set, naming the core and the array. -/
def execInject (n : Core) (arrayB : Bool) (s : State) : Host.Outcome State Fault Refusal :=
  .next (inject n.val arrayB (rsetBits R.CORE_CTL 14 8 (n.val + 64 * nb arrayB) s))

end Sys2Proof.Machine
end

