-- ==== Sys2Proof/Machine/Chain.lean ====
section
/-! DEFINITION. The vector chain (chapter 05): descriptors and function tables and their checks, the stages, reductions
and packed output, and the commands CHAIN_LOAD, TABLE_LOAD, VECTOR and CHAIN_TILE. -/

namespace Sys2Proof.Machine

/-! ### Descriptors (Table 5.1, Table 5.3, R90) -/

structure Stage where
  type   : Nat := 0
  masked : Bool := false
  src    : Nat := 0
  td     : Nat := 0
  sub    : Nat := 0
  imm0   : Nat := 0
  imm1   : Nat := 0
  imm2   : Nat := 0
  deriving DecidableEq, Repr, Inhabited

def Stage.parse (b : Bytes) : Stage :=
  { type := bits (u b 0 1) 3 0, masked := bitAt (u b 0 1) 4, src := bits (u b 1 1) 2 0, td := bits (u b 2 1) 2 0,
    sub := u b 3 1, imm0 := u b 4 4, imm1 := u b 8 4, imm2 := u b 12 4 }

/-- Stage types of Table 5.3. -/
def tyMadd : Nat := 1
def tyBinary : Nat := 2
def tyFunc : Nat := 3
def tyDeriv : Nat := 4
def tyCmp : Nat := 5
def tyDropout : Nat := 6
def tyCompress : Nat := 7
def tyExpand : Nat := 8
def tyReduce : Nat := 9
def tySave : Nat := 10
def tyToint : Nat := 11
def tyStore : Nat := 12

def chainBytes : Nat := 640
def tableBytes : Nat := 3136

def chainStages (b : Bytes) : List Stage :=
  (List.range (bits (u b 1 1) 3 0)).map (fun i => Stage.parse (unitAt b (2 + i)))

def chainTD (b : Bytes) (i : Nat) : TD := TD.parse (unitAt b (14 + i))
def chainRU (b : Bytes) : RUnit := RUnit.parse (unitAt b 1)
def initMask (b : Bytes) : Bool := bitAt (u b 2 1) 0
def maskTD (b : Bytes) : Nat := bits (u b 3 1) 2 0

/-- A tensor descriptor of the chain that its user cannot take (R90, Table 5.1). -/
def chainTDBad (b : Bytes) (mask : Bool) (i : Nat) : Bool :=
  decide (5 < i) || tdBad mask (unitAt b (14 + i)) || (chainTD b i).trans || (chainTD b i).quant

/-- Does the stage read a side operand through SRC? -/
def usesSide (st : Stage) : Bool :=
  st.src != 0 && (st.type == tyMadd || st.type == tyBinary || st.type == tyDeriv ||
    (st.type == tyCmp && decide (st.sub % 8 < 4)))

def stageBits (b : Bytes) : Bool := onlyBits [(4, 0), (10, 8), (18, 16), byteRange 3 3, byteRange 19 4] b

/-- SUBOP and IMM0 of a stage outside what Table 5.3 defines. DEDUCED (log 149): so is TOINT's shift in IMM0 outside -256 to 255. -/
def subopBad (st : Stage) : Bool :=
  match st.type with
  | 1 => decide (1 < st.sub)
  | 2 => decide (6 < st.sub)
  | 3 => decide (7 < st.sub)
  | 4 => decide (7 < st.sub) || st.src != 3
  | 5 => decide (5 < st.sub % 8) || bits st.sub 5 4 == 3 || st.sub &&& 0xC8 != 0
  | 6 => decide (1 < st.sub)
  | 7 => st.sub != 0
  | 8 => decide (3 < st.sub)
  | 9 => decide (7 < st.sub % 16) || bits st.sub 5 4 == 3 || bitAt st.sub 6
  | 10 => st.sub != 0
  | 11 => decide (1 < st.sub) || (st.sub == 0 && (decide (signed 32 st.imm0 < -256) || decide (255 < signed 32 st.imm0)))
  | 12 => decide (1 < st.sub)
  | _ => true

/-- Is the output packed: a COMPRESS with no EXPAND after it (R95)? -/
def isPacked (sts : List Stage) : Bool :=
  sts.any (fun x => x.type == tyCompress) && !sts.any (fun x => x.type == tyExpand)

/-- Tensor descriptors and formats that stage `st` names (R90, R95). -/
def stageTDBad (b : Bytes) (packed afterInt : Bool) (st : Stage) : Bool :=
  (usesSide st && chainTDBad b false st.td) ||
  (st.type == tyCmp && st.sub % 8 == 5 && chainTDBad b true st.td) ||
  ((st.type == tyReduce || st.type == tySave || st.type == tyStore || (st.type == tyToint && st.sub == 1)) &&
    chainTDBad b false st.td) ||
  (st.type == tyStore && afterInt && (chainTD b st.td).fmt != 0) ||
  (st.type == tyStore && packed && isBlockFmt (chainTD b st.td).fmt && ((chainTD b st.td).axis || st.imm0 % 4 != 0)) ||
  (st.type == tyStore && packed && !isBlockFmt (chainTD b st.td).fmt && (chainTD b st.td).scale % 4 != 0)

/-- Index of the first stage of a type. -/
def stageIdx (sts : List Stage) (ty : Nat) : Option Nat := sts.findIdx? (fun x => x.type == ty)

/-- Placement of COMPRESS, EXPAND, TOINT and STORE (R90). DEDUCED (log 150): without EXPAND, the stages from COMPRESS to the end stand
between the two. -/
def orderBad (sts : List Stage) : Bool :=
  let n := sts.length
  let cnt (ty : Nat) : Nat := (sts.filter (fun x => x.type == ty)).length
  (match sts.getLast? with | none => true | some x => x.type != tyStore) || cnt tyStore != 1 ||
  decide (1 < cnt tyCompress) || decide (1 < cnt tyExpand) ||
  (match stageIdx sts tyExpand, stageIdx sts tyCompress with
   | some e, some c => decide (e < c)
   | some _, none => true
   | _, _ => false) ||
  sts.zipIdx.any (fun x => x.1.type == tyToint && x.2 + 2 != n) ||
  (match stageIdx sts tyCompress with
   | none => false
   | some c =>
     let e := (stageIdx sts tyExpand).getD n
     sts.zipIdx.any (fun x => decide (c < x.2) && decide (x.2 < e) &&
       (x.1.type == tyCmp || x.1.type == tyReduce || x.1.type == tySave || x.1.type == tyToint)))

/-- Is a chain descriptor malformed (R90, R385)? -/
def chainBad (b : Bytes) : Bool :=
  let n := bits (u b 1 1) 3 0
  let sts := chainStages b
  let packed := isPacked sts
  let afterInt := sts.any (fun x => x.type == tyToint)
  u b 0 1 != 1 || n == 0 || decide (12 < n) || !onlyBits [byteRange 0 0, (11, 8), (16, 16), (26, 24)] (unitAt b 0) ||
  runitBad false (unitAt b 1) ||
  (List.range 12).any (fun i => if i < n then !stageBits (unitAt b (2 + i)) else ofLe (unitAt b (2 + i)) != 0) ||
  sts.any (fun x => x.type == 0 || decide (12 < x.type) || decide (3 < x.src) || subopBad x) ||
  orderBad sts || (initMask b && chainTDBad b true (maskTD b)) || sts.any (stageTDBad b packed afterInt)

/-- Is a function table malformed (Table 5.4, R385)? -/
def tableBad (b : Bytes) : Bool :=
  let m := u b 12 1
  let fin (w : Nat) : Bool := match f32 w with | .fin _ _ _ => true | _ => false
  !onlyBits [byteRange 11 0, (97, 96), (101, 100), byteRange 35 16] (b.take 64) ||
  !(fin (u b 0 4)) || !(fin (u b 4 4)) || !((f32 (u b 0 4)).lt (f32 (u b 4 4))) || bits m 1 0 == 3 || bits m 5 4 == 3

/-! ### Function tables (R96) -/

/-- Sequencing of FP32 results with their flags. -/
def thenF (a : Nat × Nat) (f : Nat → Nat × Nat) : Nat × Nat :=
  let r := f a.1
  (r.1, a.2 ||| r.2)

/-- Segment number: floor of a word, clamped to 0 to 255. -/
def segmentOf (w : Nat) : Nat :=
  match f32 w with
  | .fin false m e => min 255 (floorScaled m 1 e).1
  | .inf false => 255
  | _ => 0

/-- A side of a table beyond its range: mode, A, B (R96 step 4). -/
def tableSide (ovf mode a b x : Nat) : Nat × Nat :=
  match mode with
  | 0 => (a, 0)
  | 1 =>
    (match f32 x with
     | .inf n =>
       (match f32 b with
        | .nan => (0x7FC00000, 0)
        | v => if v.isZero then (a, 0) else (encodeLin fmtFP32 (.inf (n != v.neg?)), 0))
     | _ => f32Fma b x a ovf)
  | _ => (0x7FC00000, flagInvalid)

/-- A function table at an FP32 word (R96), under OVF. -/
def evalTable (ovf : Nat) (b : Bytes) (x0 : Nat) : Nat × Nat :=
  let x := if (f32 x0).isZero then 0 else x0
  let lo := u b 0 4
  let hi := u b 4 4
  if (f32 x).isNan then (0x7FC00000, 0)
  else if (f32 x).lt (f32 lo) then tableSide ovf (bits (u b 12 1) 1 0) (u b 16 4) (u b 20 4) x
  else if !(f32 x).lt (f32 hi) then tableSide ovf (bits (u b 12 1) 5 4) (u b 24 4) (u b 28 4) x
  else
    thenF (f32Add x (f32Neg lo) ovf) (fun d => thenF (f32Mul d (u b 8 4) ovf) (fun v =>
      let k := segmentOf v
      let c (i : Nat) : Nat := u b (64 + 12 * k + 4 * i) 4
      thenF (f32Add v (f32Neg (toF32 (.fin false k 0)).1) ovf) (fun t =>
        thenF (f32Fma t (c 2) (c 1) ovf) (fun y => f32Fma t y (c 0) ovf))))

/-! ### Elements of a tile in the chain -/

/-- An element on its way through the chain: place in the output tensor, place in the tile (64 × row + column), value, word
as it entered, mask bit; within COMPRESS the dense place, and the value held before it (R95). -/
structure CE where
  r    : Nat
  c    : Nat
  pos  : Nat
  v    : Nat
  raw  : Nat
  on   : Bool := true
  live : Bool := true
  slot : Nat := 0
  keep : Nat := 0
  conv : Bool := false
  deriving DecidableEq, Repr, Inhabited

/-- An occurrence of a flag: beat, stage, lane, KIND of Table 5.8. -/
abbrev Occ := Nat × Nat × Nat × Nat

/-- A tile's run through its chain. -/
structure CRun where
  s     : State
  es    : List CE := []
  occ   : List Occ := []
  flags : Nat := 0
  cause : Option Nat := none
  /-- Output stages so far (R94). -/
  nOut  : Nat := 0
  packed : Bool := false

/-- What a chain's stages need to know of the tile's command. -/
structure CEnv where
  chain  : Bytes
  tables : List (Nat × Bytes)
  core   : Nat
  tr     : Nat
  tc     : Nat
  rows   : Nat
  cols   : Nat
  outRows : Nat
  outCols : Nat

def CEnv.ntc (e : CEnv) : Nat := tilesAlong e.outCols

/-- OVF of the chain's rounding unit, which is every stage's (Table 5.1, R59). -/
def CEnv.ovf (e : CEnv) : Nat := (chainRU e.chain).ovf

/-- Occurrences of an element's flags in a stage (R93). -/
def occOf (st : Nat) (slot fl : Nat) : List Occ :=
  (if fl % 2 = 1 then [(slot / 256, st, slot % 256, 1)] else []) ++ (if bitAt fl 1 then [(slot / 256, st, slot % 256, 2)] else [])

/-- Does the stage work on this element? -/
def selected (st : Stage) (e : CE) : Bool := e.live && (!st.masked || e.on)

/-- Elements whose value a stage changes, with flags. -/
def mapVals (st : Stage) (i : Nat) (f : CE → Nat × Nat) (x : CRun) : CRun :=
  let rs := x.es.map (fun e => if selected st e then let (v, fl) := f e; ({ e with v := v }, fl) else (e, 0))
  { x with es := rs.map (·.1), flags := rs.foldl (fun a r => a ||| r.2) x.flags,
           occ := x.occ ++ rs.flatMap (fun r => occOf i r.1.slot r.2) }

/-- Place in the side operand's tensor of an element (Table 5.3). -/
def sidePlace (src : Nat) (e : CE) : Nat × Nat := if src = 1 then (e.r, 0) else if src = 2 then (0, e.c) else (e.r, e.c)

/-- FP32 word of a stage's side operand for an element. DESIGN CHOICE (log 151): ROWS and COLS of the operand are not checked. -/
def sideWord (env : CEnv) (s : State) (st : Stage) (e : CE) : Nat × Nat :=
  let t := chainTD env.chain st.td
  let p := sidePlace st.src e
  if t.fmt = 0 then (t.code s p.1 p.2, 0) else widen (chainRU env.chain).ovf (t.value s p.1 p.2)

/-- The side operand, or an immediate where SRC is 0. -/
def operandOr (env : CEnv) (s : State) (st : Stage) (imm : Nat) (e : CE) : Nat × Nat :=
  if st.src = 0 then (imm, 0) else sideWord env s st e

/-- a above b; +0 is above -0 (R98). -/
def f32Above (a b : Nat) : Bool :=
  let x := f32 a
  let y := f32 b
  y.lt x || (x.isZero && y.isZero && !x.neg? && y.neg?)

def f32Max (a b : Nat) : Nat := if (f32 a).isNan || (f32 b).isNan then 0x7FC00000 else if f32Above b a then b else a
def f32Min (a b : Nat) : Nat := if (f32 a).isNan || (f32 b).isNan then 0x7FC00000 else if f32Above a b then b else a

/-- BINARY of Table 5.3. -/
def binaryOp (ovf sub x v : Nat) : Nat × Nat :=
  match sub with
  | 0 => f32Add x v ovf
  | 1 => f32Add x (f32Neg v) ovf
  | 2 => f32Add v (f32Neg x) ovf
  | 3 => f32Mul x v ovf
  | 4 => (f32Max x v, 0)
  | 5 => (f32Min x v, 0)
  | _ => f32Div x v ovf

/-- Tests of CMP (Table 5.3) but the mask tensor's; false with NaN. -/
def cmpTest (t x v : Nat) : Bool :=
  let a := f32 x
  let b := f32 v
  if a.isNan || (t != 4 && b.isNan) then false
  else
    match t with
    | 0 => b.lt a
    | 1 => !a.lt b
    | 2 => a.lt b
    | 3 => !b.lt a
    | _ => !a.isZero

/-- Random word of an element for a purpose and a tag (R94, R97). -/
def chainWord (env : CEnv) (purpose tag : Nat) (r c : Nat) : Nat :=
  let ru := chainRU env.chain
  randomWord ru.seed ru.base (c % 256) purpose tag (r * ceilDiv env.outCols 256 + c / 256)

/-- Rounding mode of output stage n for element (r, c) (R94). -/
def outMode (env : CEnv) (n : Nat) (r c : Nat) : RMode :=
  let ru := chainRU env.chain
  match ru.mode with
  | 0 => .rne
  | 1 => .rtz
  | _ => .sr ru.nbits (chainWord env 1 ((ru.tag + n) % 2 ^ 32) r c >>> (32 - ru.nbits))

/-- TOINT (Table 5.3): x × 2^S rounded to a signed 32-bit integer, saturated; NaN gives 0 and INVALID. -/
def tointWord (mode : RMode) (sh : Int) (w : Nat) : Nat × Nat :=
  match f32 w with
  | .nan => (0, flagInvalid)
  | .inf n => (if n then 2 ^ 31 else 2 ^ 31 - 1, flagOverflow)
  | .fin n m e =>
    let (q, rn, rd) := floorScaled m 1 (e + sh)
    let k := if roundsUp mode (q % 2 == 1) rn rd then q + 1 else q
    let lim := if n then 2 ^ 31 else 2 ^ 31 - 1
    if lim < k then (unsigned 32 (FVal.int n lim), flagOverflow) else (unsigned 32 (FVal.int n k), 0)

/-! ### Reductions (R98 to R100) -/

/-- A member of a reduction group: value, INDEX, COUNT. -/
abbrev Item := Nat × Nat × Nat

/-- VALUE of an empty group (Table 5.5). -/
def emptyValue (kind : Nat) : Nat :=
  match kind with
  | 1 => 0x3F800000 | 2 => 0xFF800000 | 3 => 0x7F800000 | 4 => 0xFF800000 | 5 => 0x7F800000 | 7 => 0xFF800000 | _ => 0

/-- Values combined in ascending position from the first: the result, and the flags of each member's step. -/
def foldFirst (f : Nat → Nat → Nat × Nat) : List Nat → Nat × List Nat
  | [] => (0, [])
  | v :: t => t.foldl (fun a w => let r := f a.1 w; (r.1, a.2 ++ [r.2])) (v, [0])

/-- Flags of two steps of each member. -/
def orFlags (a b : List Nat) : List Nat := (a.zip b).map (fun x => x.1 ||| x.2)

/-- The member that max or min keeps: the lowest position among equals. -/
def bestItem (above : Nat → Nat → Bool) : List Item → Item
  | [] => (0, 0xFFFFFFFF, 0)
  | x :: t => t.foldl (fun a y => if above y.1 a.1 then y else a) x

/-- m + ln Σ exp(x - m) (R98): the result, the members' flags, and those of the last step. -/
def logSumExp (ovf : Nat) (vs : List Nat) : Nat × List Nat × Nat :=
  let m := (bestItem f32Above (vs.map (fun v => (v, 0, 0)))).1
  match f32 m with
  | .inf _ => (m, vs.map (fun _ => 0), 0)
  | _ =>
    let terms := vs.map (fun v => let d := f32Add v (f32Neg m) ovf; (exp32 d.1, d.2))
    let (sum, f2) := foldFirst (fun a b => f32Add a b ovf) (terms.map (·.1))
    let (r, f3) := f32Add m (ln32 sum) ovf
    (r, orFlags (terms.map (·.2)) f2, f3)

/-- What a group comes to (R98 to R100): VALUE, INDEX, COUNT; flags by member, and of the last step. -/
structure Grouped where
  value : Nat
  index : Nat := 0xFFFFFFFF
  count : Nat
  flags : List Nat := []
  last  : Nat := 0

def combineGroup (ovf kind : Nat) (g : List Item) : Grouped :=
  let cnt := g.foldl (fun a x => a + x.2.2) 0
  let arg := kind == 4 || kind == 5
  match g with
  | [] => { value := emptyValue kind, count := 0 }
  | _ =>
    match g.find? (fun x => (f32 x.1).isNan) with
    | some x => { value := 0x7FC00000, index := if arg then x.2.1 else 0xFFFFFFFF, count := cnt }
    | none =>
      let vs := g.map (·.1)
      match kind with
      | 0 => let (v, f) := foldFirst (fun a b => f32Add a b ovf) vs; { value := v, count := cnt, flags := f }
      | 1 => let (v, f) := foldFirst (fun a b => f32Mul a b ovf) vs; { value := v, count := cnt, flags := f }
      | 6 =>
        let ps := g.map (fun x => f32Mul x.1 (toF32 (.fin false x.2.2 0)).1 ovf)
        let (v, f) := foldFirst (fun a b => f32Add a b ovf) (ps.map (·.1))
        let (q, f2) := f32Div v (toF32 (.fin false cnt 0)).1 ovf
        { value := q, count := cnt, flags := orFlags (ps.map (·.2)) f, last := f2 }
      | 7 => let (v, f, f2) := logSumExp ovf vs; { value := v, count := cnt, flags := f, last := f2 }
      | _ =>
        let b := bestItem (if kind == 2 || kind == 4 then f32Above else fun a b => f32Above b a) g
        { value := b.1, index := if arg then b.2.1 else 0xFFFFFFFF, count := cnt }

/-- Group of an element: record address index, and the tile row on whose beat the group ends. -/
def reduceKey (env : CEnv) (axis : Nat) (merge : Bool) (e : CE) : Nat × Nat :=
  let cx := if merge then e.c / 4 else e.c
  let colsx := if merge then ceilDiv env.outCols 4 else env.outCols
  match axis with
  | 0 => (e.r * env.ntc + env.tc, e.pos / 64)
  | 1 => (env.tr * colsx + cx, env.rows - 1)
  | _ => (env.tr * env.ntc + env.tc, env.rows - 1)

/-- The raw word that entered at (r, c) of the tile. -/
def rawAt (es : List CE) (r c : Nat) : Nat := ((es.find? (fun e => e.r == r && e.c == c)).map (·.raw)).getD 0

/-- Members of a group (R98, R100). -/
def itemOf (env : CEnv) (axis : Nat) (merge : Bool) (es : List CE) (e : CE) : Item :=
  if merge then (e.v, rawAt es e.r (e.c + 1), rawAt es e.r (e.c + 2))
  else (e.v, (if axis = 0 then e.c else if axis = 1 then e.r else (e.r * env.outCols + e.c) % 2 ^ 32), 1)

/-- EMPTY_REDUCTION of Table 2.8. -/
def flagEmptyReduction : Nat := 4

/-- One group's record is formed and written (R98, R99). A flag occurs in the beat of the member whose step raised it; that of the
last step, and an empty group, in the group's last beat (R93). -/
def reduceGroup (env : CEnv) (st : Stage) (i : Nat) (es : List CE) (x : CRun) (key : Nat × Nat) : CRun :=
  let axis := bits st.sub 5 4
  let merge := bitAt st.sub 7
  let ms := ((es.filter (fun e => e.on && reduceKey env axis merge e == key)).map
    (fun e => (e.slot, itemOf env axis merge x.es e))).filter (fun y => y.2.2.2 != 0)
  let g := combineGroup env.ovf (st.sub % 16) (ms.map (·.2))
  let w := writeMem ((chainTD env.chain st.td).base + 16 * key.1)
    (leBytes 4 g.value ++ leBytes 4 g.index ++ leBytes 4 (g.count % 2 ^ 32) ++ leBytes 4 0) x.s
  let s' := if g.count = 0 then rcountSat (R.VCH_Cnn_EMPTY env.core) w.s else w.s
  { x with s := s', cause := x.cause <|> w.cause,
           flags := x.flags ||| g.flags.foldl (· ||| ·) g.last ||| w.flags ||| (if g.count = 0 then flagEmptyReduction else 0),
           occ := x.occ ++ ((ms.map (·.1)).zip g.flags).flatMap (fun y => occOf i y.1 y.2) ++ occOf i (64 * key.2) g.last ++
             (if g.count = 0 then [(64 * key.2 / 256, i, 64 * key.2 % 256, 3)] else []) }

/-! ### Output (R390, R95) -/

/-- Elements that SAVE or STORE writes, each with the place it is written to. DEDUCED (log 152): packed output writes all n values,
whatever SUBOP bit 0 holds and whatever mask bits later stages cleared. -/
def outputCells (env : CEnv) (st : Stage) (t : TD) (x : CRun) : List (CE × Nat × Nat) :=
  let live := x.es.filter (·.live)
  if st.type = tyStore ∧ x.packed then
    live.map (fun e => (e, 64 * env.tr + e.slot / env.cols, 64 * env.tc + e.slot % env.cols))
  else
    let all := live.map (fun e => (e, e.r, e.c))
    if st.type = tyStore ∧ st.sub % 2 = 1 then
      if isBlockFmt t.fmt then
        let gs := (all.filter (fun p => p.1.on)).map (fun p => t.group p.2.1 p.2.2)
        all.filter (fun p => gs.contains (t.group p.2.1 p.2.2))
      else all.filter (fun p => p.1.on)
    else all

/-- Unfilled positions of the last group of packed output in a block format: written as zero (R95). -/
def packFill (env : CEnv) (t : TD) (ps : List (CE × Nat × Nat)) : List Cell :=
  if isBlockFmt t.fmt then
    let gs := distinct (ps.map (fun p => t.group p.2.1 p.2.2))
    (List.range env.rows).flatMap (fun i => (List.range env.cols).filterMap (fun j =>
      let r := 64 * env.tr + i
      let c := 64 * env.tc + j
      if gs.contains (t.group r c) && !ps.any (fun p => p.2.1 == r && p.2.2 == c) then some { r := r, c := c, v := .fin false 0 0 }
      else none))
  else []

/-- Place whose beat counts for a flag at (r, c): in a block format the last element of the group (R93). -/
def flagSlot (t : TD) (ps : List (CE × Nat × Nat)) (r c : Nat) : Nat :=
  let same := ps.filter (fun p => if isBlockFmt t.fmt then t.group p.2.1 p.2.2 == t.group r c else p.2.1 == r && p.2.2 == c)
  same.foldl (fun a p => max a p.1.slot) 0

/-- Address of the count words of packed output (R95). -/
def countBase (t : TD) (st : Stage) : Nat := if isBlockFmt t.fmt then st.imm0 + (bits st.imm1 15 0 <<< 32) else t.scale

/-- SAVE or STORE (Table 5.3, R390, R95). -/
def outputStage (env : CEnv) (st : Stage) (i : Nat) (afterInt : Bool) (x : CRun) : CRun :=
  let t := chainTD env.chain st.td
  let ps := outputCells env st t x
  let packing := decide (st.type = tyStore) && x.packed
  if afterInt then
    let w := writeAll (joinPuts ((ps.filter (fun p => p.1.conv)).map (fun p => t.put 32 p.2.1 p.2.2 p.1.v))) x.s
    { x with s := w.s, cause := x.cause <|> w.cause, flags := x.flags ||| w.flags }
  else
    let cells := ps.map (fun p => ({ r := p.2.1, c := p.2.2, v := f32 p.1.v, mode := outMode env x.nOut p.1.r p.1.c } : Cell))
    let st' := t.store (chainRU env.chain).ovf (cells ++ (if packing then packFill env t ps else []))
    let w := st'.write x.s
    let w2 : Wrote :=
      if packing && w.cause.isNone then
        writeMem (countBase t st + 4 * (env.tr * env.ntc + env.tc)) (leBytes 4 ps.length) w.s
      else { s := w.s }
    { x with s := w2.s, cause := x.cause <|> w.cause <|> w2.cause, nOut := x.nOut + 1,
             flags := x.flags ||| w.flags ||| st'.allFlags,
             occ := x.occ ++ st'.flags.flatMap (fun f => occOf i (flagSlot t ps f.1 f.2.1) f.2.2) }

/-! ### Stages (Table 5.3) -/

/-- The table in a slot as the share captured it. -/
def tableOf (env : CEnv) (k : Nat) : Bytes := (findKey k env.tables).getD []

/-- New mask bit of CMP. -/
def cmpMask (env : CEnv) (s : State) (st : Stage) (e : CE) : Bool × Nat :=
  let t := st.sub % 8
  let (b, fl) :=
    if t = 5 then (decide ((chainTD env.chain st.td).code s e.r e.c ≠ 0), 0)
    else
      let (v, fl) := if t = 4 then (0, 0) else operandOr env s st st.imm0 e
      (cmpTest t e.v v, fl)
  (match bits st.sub 5 4 with | 0 => b | 1 => e.on && b | _ => e.on || b, fl)

/-- DROPOUT on one element (R97). -/
def dropoutElem (env : CEnv) (st : Stage) (e : CE) : CE × Nat :=
  if bits (chainWord env 2 st.imm2 e.r e.c) 31 16 < st.imm0 % 2 ^ 16 then
    ({ e with v := 0, on := e.on && st.sub % 2 == 0 }, 0)
  else
    let (v, f) := f32Mul e.v st.imm1 env.ovf
    ({ e with v := v }, f)

/-- Active elements take dense places in ascending position (R95). -/
def compressGo : Nat → List CE → List CE
  | _, [] => []
  | k, e :: t =>
    if e.on then { e with keep := e.v, slot := k } :: compressGo (k + 1) t
    else { e with keep := e.v, live := false } :: compressGo k t

/-- EXPAND: inactive positions take the fill (Table 5.3). -/
def expandElem (st : Stage) (e : CE) : CE :=
  let e' := if e.live then e
    else { e with v := match st.sub with | 0 => 0 | 1 => 0xFF800000 | 2 => st.imm0 | _ => e.keep }
  { e' with live := true, slot := e.pos }

/-- Tensors that a stage reads beside the tile, with the SRC by which it finds an element's place. -/
def stageReads (b : Bytes) (st : Stage) : Option (Nat × TD) :=
  if usesSide st then some (st.src, chainTD b st.td)
  else if st.type = tyCmp ∧ st.sub % 8 = 5 then some (3, chainTD b st.td) else none

/-- Is the side operand or mask poisoned at a position that holds an element: within COMPRESS, at one that was active (R95, R146)? -/
def sidePoison (s : State) (r : Nat × TD) (es : List CE) : Bool :=
  !noPoison s && es.any (fun e =>
    let p := sidePlace r.1 e
    e.live && (r.2.elemPoisoned s p.1 p.2 || r.2.scalePoisoned s p.1 p.2))

/-- One stage; nothing more happens once a read or a write has failed. -/
def runStage (env : CEnv) (afterInt : Bool) (x : CRun) (p : Stage × Nat) : CRun :=
  let st := p.1
  let i := p.2
  let ovf := env.ovf
  if x.cause.isSome then x
  else if (stageReads env.chain st).any (fun r => sidePoison x.s r x.es) then { x with cause := some 0x0142 }
  else
    match st.type with
    | 1 => mapVals st i (fun e =>
        if st.sub = 0 then thenF (operandOr env x.s st st.imm0 e) (fun a => f32Fma e.v a st.imm1 ovf)
        else thenF (operandOr env x.s st st.imm1 e) (fun b => f32Fma e.v st.imm0 b ovf)) x
    | 2 => mapVals st i (fun e => thenF (operandOr env x.s st st.imm0 e) (fun v => binaryOp ovf st.sub e.v v)) x
    | 3 => mapVals st i (fun e => evalTable ovf (tableOf env (st.sub % 8)) e.v) x
    | 4 => mapVals st i (fun e => thenF (sideWord env x.s st e) (fun v =>
        thenF (evalTable ovf (tableOf env (st.sub % 8)) v) (fun d => f32Mul e.v d ovf))) x
    | 5 =>
      let rs := x.es.map (fun e => if selected st e then let (b, f) := cmpMask env x.s st e; ({ e with on := b }, f) else (e, 0))
      { x with es := rs.map (·.1), flags := rs.foldl (fun a r => a ||| r.2) x.flags,
               occ := x.occ ++ rs.flatMap (fun r => occOf i r.1.slot r.2) }
    | 6 =>
      let rs := x.es.map (fun e => if selected st e then dropoutElem env st e else (e, 0))
      { x with es := rs.map (·.1), flags := rs.foldl (fun a r => a ||| r.2) x.flags,
               occ := x.occ ++ rs.flatMap (fun r => occOf i r.1.slot r.2) }
    | 7 => { x with es := compressGo 0 x.es, packed := true }
    | 8 => { x with es := x.es.map (expandElem st), packed := false }
    | 9 =>
      let axis := bits st.sub 5 4
      let merge := bitAt st.sub 7
      let es := if merge then x.es.filter (fun e => e.pos % 4 == 0 && decide (e.pos % 64 + 2 < env.cols)) else x.es
      (distinct (es.map (reduceKey env axis merge))).foldl (reduceGroup env st i es) x
    | 11 =>
      let rs := x.es.map (fun e =>
        if selected st e then
          let (v, f) := tointWord (outMode env x.nOut e.r e.c) (signed 32 st.imm0) e.v
          ({ e with v := v, conv := true }, f)
        else (e, 0))
      { x with es := rs.map (·.1), nOut := x.nOut + 1, flags := rs.foldl (fun a r => a ||| r.2) x.flags,
               occ := x.occ ++ rs.flatMap (fun r => occOf i r.1.slot r.2) }
    | 10 => outputStage env st i false x
    | 12 => outputStage env st i afterInt x
    | _ => x

/-- The elements of a tile as they enter the chain (R86). -/
def enterTile (s : State) (t : QTile) : List CE :=
  let m := initMask t.chain
  let mt := chainTD t.chain (maskTD t.chain)
  t.elems.zipIdx.map (fun p =>
    let i := p.2 / t.cols
    let j := p.2 % t.cols
    let v := if t.int then (toF32 (ofDy (signed 32 p.1, 0))).1 else p.1
    { r := 64 * t.row + i, c := 64 * t.col + j, pos := 64 * i + j, slot := 64 * i + j, v := v, raw := p.1,
      on := !m || decide (mt.code s (64 * t.row + i) (64 * t.col + j) ≠ 0) })

/-- Tensors of a chain that are read beside the tile: with the mask of INIT_MASK. -/
def chainReads (b : Bytes) : List (Nat × TD) :=
  (if initMask b then [(3, chainTD b (maskTD b))] else []) ++ (chainStages b).filterMap (stageReads b)

/-- Tensors a chain writes: (tensor, SAVE or STORE). -/
def chainWrites (b : Bytes) : List TD :=
  (chainStages b).filterMap (fun st => if st.type = tySave ∨ st.type = tyStore then some (chainTD b st.td) else none)

/-- Memory ranges a chain may write (for R22): SAVE and STORE tensors, reduction records, counts of packed output. -/
def chainOuts (b : Bytes) (rows cols : Nat) : List (Nat × Nat) :=
  (chainStages b).flatMap (fun st =>
    let t := chainTD b st.td
    if st.type = tyReduce then [(t.base, 16 * rows * (cols + 1))]
    else if st.type = tySave then t.ranges
    else if st.type = tyStore then t.ranges ++ (if isPacked (chainStages b) then [(countBase t st, 4 * tilesAlong rows * tilesAlong cols)] else [])
    else [])

/-- Output shape of the array of a command: rows and columns. -/
def outShape (b : Bytes) (arrayB : Bool) : Nat × Nat :=
  if opOfBytes b = some .vector then let t := TD.parse (unitAt b 1); (t.opRows, t.opCols)
  else let p := matrixProd b arrayB; (p.rows, p.cols)

/-- A tile runs through its whole chain. -/
def runChain (s : State) (env : CEnv) (t : QTile) : CRun :=
  let es := enterTile s t
  match (chainReads t.chain).findSome? (fun x => x.2.unmapped s) with
  | some a => { s := captureReach a s, cause := some (reachCause s a) }
  | none =>
    let sts := chainStages t.chain
    let s := touchReads ((chainReads t.chain).flatMap (fun x => x.2.ranges)) s
    let bad := initMask t.chain && sidePoison s (3, chainTD t.chain (maskTD t.chain)) es
    sts.zipIdx.foldl (runStage env (sts.any (fun x => x.type == tyToint))) { s := s, es := es, cause := if bad then some 0x0142 else none }

/-- Order of occurrences: beat, then stage, then lane (R93, log 24). -/
def occBefore (a b : Occ) : Bool :=
  decide (a.1 < b.1) || (a.1 == b.1 && (decide (a.2.1 < b.2.1) || (a.2.1 == b.2.1 &&
    (decide (a.2.2.1 < b.2.2.1) || (a.2.2.1 == b.2.2.1 && decide (a.2.2.2 < b.2.2.2))))))

def firstOcc : List Occ → Option Occ
  | [] => none
  | o :: t => match firstOcc t with | none => some o | some p => some (if occBefore p o then p else o)

/-- The first occurrence of the tile is captured in VCH_Cnn_EXC when VALID is clear (R93, Table 5.8). -/
def captureChain (n : Nat) (t : QTile) (q : Nat) (o : Option Occ) (s : State) : State :=
  match o with
  | none => s
  | some o =>
    if rbit (R.VCH_Cnn_EXC n) 63 s then s
    else
      let v := t.row % 2 ^ 18 + ((t.col % 2 ^ 18) <<< 18) + (o.2.1 <<< 36) + (o.2.2.2 <<< 40) + (nb t.arrayB <<< 42)
        + (q <<< 56) + 2 ^ 63
      let s1 := rset (R.VCH_Cnn_EXC n) v s
      if o.2.2.2 = 1 then snapOn R.VCH_CTL 0 5 bVCH s1 else if o.2.2.2 = 3 then snapOn R.VCH_CTL 1 5 bVCH s1 else s1

/-- One tile of a command has left the chain; the last one completes it. -/
def tileOut (c : Nat) (s : State) : State :=
  match startedAt c s with
  | none => s
  | some x => if x.prog ≤ 1 then markDone c (setProg c 0 s) else setProg c (x.prog - 1) s

/-- An entry of a full finished-tile queue is freed: the cycles for which an array stood stopped before it are a free value (R86,
log 30), and the arrays read on. -/
def endFull (n : Nat) (full : Bool) (s : State) : State :=
  let held := (awaitsVerdict n false s).isSome || (awaitsVerdict n true s).isSome
  advance n (if full && held then bumpFree (rcountBy (R.VCH_Cnn_FULL n) (Config.freeNat s.freeCtr) s) else s)

/-- CHAIN_TILE: the oldest tile of the finished-tile queue goes through its chain (R85), once no bank command holds its writes
(R152). -/
def chainTile (n : Nat) (s : State) : State :=
  let k := corex n s
  match k.ftq with
  | [] => s
  | t :: rest =>
    if enginesHeld s then s
    else
      let full := decide (16 ≤ k.ftq.length)
      match startedAt t.c s with
      | none => endFull n full (showDepth n (setCorex n { k with ftq := rest } s))
      | some x =>
        if outsHeld x s then s
        else
        let sh := outShape x.bytes t.arrayB
        let env : CEnv := { chain := t.chain, tables := t.tables, core := n, tr := t.row, tc := t.col, rows := t.rows,
                            cols := t.cols, outRows := sh.1, outCols := sh.2 }
        let r := runChain (showDepth n (setCorex n { k with ftq := rest } s)) env t
        let s1 := captureChain n t x.q (firstOcc r.occ) (addFlags t.c (r.flags % 8) r.s)
        match r.cause with
        | none => endFull n full (tileOut t.c s1)
        | some cause => failCmd t.c bVCH cause n (withdraw t.c true true s1)

def execChainTile (n : Core) (s : State) : Host.Outcome State Fault Refusal := .next (chainTile n.val s)

/-! ### Loads (R91) -/

/-- Address of the descriptor or table that a load reads. -/
def loadAddr (b : Bytes) : Nat := u b 32 6

/-- Malformed in its own units (Table 5.2). -/
def loadUnitsBad (isChain : Bool) (b : Bytes) : Bool :=
  !operandsOk [(133, 128), byteRange 17 17, if isChain then (147, 144) else (146, 144)] b || coreGroupBad b ||
  !onlyBits [byteRange 5 0] (unitAt b 1) || loadAddr b % 32 != 0

/-- Is the load malformed in its units or in what it reads (R90, R91)? What is unmapped or poisoned is not looked at: the
load then fails when it runs. -/
def loadBad (isChain : Bool) (b : Bytes) (s : State) : Bool :=
  let n := if isChain then chainBytes else tableBytes
  loadUnitsBad isChain b ||
  ((firstUnreached s (loadAddr b) n).isNone && !poisoned s (loadAddr b) n &&
    (if isChain then chainBad (readBytes s (loadAddr b) n) else tableBad (readBytes s (loadAddr b) n)))

/-- A load reaches a core: at once between shares, else after the share in progress. Kinds: 0 table, 1 chain, 2 ring. -/
def loadCore (kind slot : Nat) (d : Bytes) (s : State) (n : Nat) : State :=
  let t := setCorex n { corex n s with loads := (corex n s).loads ++ [(kind, slot, d)] } s
  settleLoad t n

/-- Has some core of the group not yet taken a load? -/
def loadPending (kind slot : Nat) (b : Bytes) (s : State) : Bool :=
  (List.range (coreCount b)).any (fun j =>
    (corex (firstCore b + j) s).loads.any (fun l => l.1 == kind && l.2.1 == slot))

/-- Slot of a load. -/
def loadSlotOf (isChain : Bool) (b : Bytes) : Nat := if isChain then bits (u b 18 1) 3 0 else bits (u b 18 1) 2 0

/-- The start of a load: its descriptor or table is read, and goes to the cores in the order in which loads start (R91). What cannot
be read, or is no valid contents any more, is left to the command. -/
def loadStart (isChain : Bool) (c : Nat) (b : Bytes) (s : State) : State :=
  let n := if isChain then chainBytes else tableBytes
  if (firstUnreached s (loadAddr b) n).isSome || poisoned s (loadAddr b) n || loadBad isChain b s then s
  else
    let d := readBytes s (loadAddr b) n
    updStarted c (fun x => { x with begun := true, image := d })
      ((List.range (coreCount b)).foldl (fun t j => loadCore (nb isChain) (loadSlotOf isChain b) d t (firstCore b + j))
        (touchRead s (loadAddr b, n)))

/-- CHAIN_LOAD or TABLE_LOAD: the command completes once every core holds the contents that its start read. -/
def loadRun (isChain : Bool) (c : Nat) (s : State) : State :=
  match runningCmd c (if isChain then .chainLoad else .tableLoad) s with
  | none => s
  | some x =>
    let n := if isChain then chainBytes else tableBytes
    let t := if x.begun then (coresOf x.bytes).foldl settleLoad s else loadStart isChain c x.bytes s
    if (runningCmd c (if isChain then .chainLoad else .tableLoad) t).any (·.begun) then
      if loadPending (nb isChain) (loadSlotOf isChain x.bytes) x.bytes t then t else markDone c t
    else
      match firstUnreached s (loadAddr x.bytes) n with
      | some a => failCmd c bVCH (reachCause s a) (firstCore x.bytes) (captureReach a s)
      | none =>
        if poisoned s (loadAddr x.bytes) n then failCmd c bVCH 0x0142 (firstCore x.bytes) s
        else haltMalformed c s

/-- CHAIN_LOAD (R91). -/
def execChainLoad (c : Nat) (s : State) : Host.Outcome State Fault Refusal := .next (loadRun true c s)

/-- TABLE_LOAD (R91). -/
def execTableLoad (c : Nat) (s : State) : Host.Outcome State Fault Refusal := .next (loadRun false c s)

/-! ### VECTOR (R92) -/

/-- Does a chain use MERGE, which reads records (R100)? -/
def usesMerge (b : Bytes) : Bool := (chainStages b).any (fun st => st.type == tyReduce && bitAt st.sub 7)

/-- Is VECTOR malformed (R92, R100)? MERGE is looked for in the chain that the group's cores hold now (log 25). -/
def vectorBad (b : Bytes) (s : State) : Bool :=
  let t := TD.parse (unitAt b 1)
  let slot := u b 19 1 % 16
  let merge := (List.range (coreCount b)).any (fun j =>
    match findKey slot (corex (firstCore b + j) s).chains with | none => false | some d => usesMerge d)
  !operandsOk [(133, 128), byteRange 17 17, byteRange 19 19] b || coreGroupBad b || tdBad false (unitAt b 1) || t.quant ||
  runitBad false (unitAt b 2) || u b 19 1 % 16 != u b 19 1 / 16 || (merge && (t.fmt != 0 || t.opCols % 4 != 0))

/-- VECTOR: its tiles are dealt to the cores (R92). -/
def vectorRun (c : Nat) (s : State) : State :=
  match runningCmd c .vector s with
  | none => s
  | some x =>
    if x.begun then s else dealCommand x s

def execVector (c : Nat) (s : State) : Host.Outcome State Fault Refusal := .next (vectorRun c s)

/-! ### The start of a share (R89) -/

/-- TOINT with SUBOP 1 takes its shift when the share starts: the unit then reads as SUBOP 0 with that shift. -/
def fixShift (s : State) (b : Bytes) (i : Nat) : Bytes :=
  let st := Stage.parse (unitAt b (2 + i))
  if i < bits (u b 1 1) 3 0 ∧ st.type = tyToint ∧ st.sub = 1 then
    patch (patch b (32 * (2 + i) + 3) [0]) (32 * (2 + i) + 4)
      (leBytes 4 (unsigned 32 (signed 8 (readNat s (chainTD b st.td).base 1))))
  else b

def fixShifts (s : State) (b : Bytes) : Bytes := (List.range 12).foldl (fixShift s) b

/-- Table slots that a chain names. -/
def tablesNamed (b : Bytes) : List Nat :=
  ((chainStages b).filter (fun st => st.type == tyFunc || st.type == tyDeriv)).map (fun st => st.sub % 8)

/-- What a share captures of one chain slot, or the cause of its failure (R89). DESIGN CHOICE (log 148): of several causes that hold,
the empty slot is reported before the empty table and that before the shape, and array A's before array B's. -/
def captureSlot (s : State) (k : CoreX) (slot : Nat) (shape : Nat × Nat) : Except Nat Bytes :=
  match findKey slot k.chains with
  | none => .error 0x0110
  | some b =>
    if (tablesNamed b).any (fun t => (findKey t k.tables).isNone) then .error 0x0111
    else if (chainWrites b).any (fun t => t.rows != shape.1 || t.cols != shape.2) then .error 0x0112
    else .ok (fixShifts s b)

/-- A share that cannot start fails its command, none of whose further shares starts (R89, R187). -/
def refuseShare (n : Nat) (h : Share) (block cause : Nat) (s : State) : State :=
  failCmd h.c block cause n (withdraw h.c false false s)

/-- The Pacer commits a share (R189): the ports are checked (R187) and take its pieces. -/
def commitShare (n : Nat) (h : Share) (s : State) : State :=
  let k := corex n s
  let t := setCorex n { k with ready := k.ready.erase h, lastF := if h.bwd then k.lastF else h.q,
                               lastB := if h.bwd then h.q else k.lastB } s
  match startedAt h.c s with
  | none => t
  | some x =>
    if shareLacks n h x.bytes t then refuseShare n h bSTR 0x0160 t
    else
      commitPieces n h x.bytes (setCorex n { corex n t with queued := (corex n t).queued ++ [h] } t)

/-- Shares of a class are committed in turn, as far as the Pacer looks. -/
def commitClass (n : Nat) (bwd : Bool) : Nat → State → State
  | 0, s => s
  | f + 1, s =>
    match nextCommit bwd (corex n s) s with
    | none => s
    | some h => commitClass n bwd f (commitShare n h s)

def commitShares (n : Nat) (s : State) : State :=
  let f := (corex n s).ready.length
  if f = 0 then s else commitClass n true f (commitClass n false f s)

/-- First reads are counted anew in every share (R193). -/
def restartReads (n : Nat) (h : Share) (s : State) : State :=
  (List.range 4).foldl (fun t p =>
    let i := streamOf n h.bwd p
    if (streamx i t).pieces.isEmpty then t else setStreamx i { streamx i t with nReads := 0 } t) s

/-- A matrix or VECTOR share starts on its core: slots and tables are captured (R89). -/
def startShare (n : Nat) (h : Share) (x : Started) (s : State) : State :=
  let ch := u x.bytes 19 1
  let k := corex n s
  match captureSlot s k (ch % 16) (outShape x.bytes false), captureSlot s k (ch / 16) (outShape x.bytes true) with
  | .ok a, .ok b =>
    let h' : Share := { h with chainA := a, chainB := b, tables := k.tables }
    let outs := chainOuts a (outShape x.bytes false).1 (outShape x.bytes false).2
      ++ chainOuts b (outShape x.bytes true).1 (outShape x.bytes true).2
    let t := restartReads n h s
    advance n (updStarted h.c (fun y => { y with outs := outs })
      (rset (R.CORE_Cnn_STAT n) (1 + (nb h.bwd <<< 4) + (h.q <<< 8)) (setCorex n { k with run := some h' } t)))
  | .error e, _ => refuseShare n h bVCH e s
  | _, .error e => refuseShare n h bVCH e s

/-- An attention share starts: the sequencer has the core's matrix pair until the share is complete (R64). -/
def startAttn (n : Nat) (h : Share) (s : State) : State := advance n (restartReads n h (setCorex n { corex n s with run := some h } s))

/-- Is core n between shares, awake and not held? -/
def coreFree (n : Nat) (s : State) : Bool :=
  (corex n s).run.isNone && !enginesHeld s && coreTokens n s != 0

/-- The share chosen leaves the committed ones, and the round robin goes on. -/
def takeShare (h : Share) (k : CoreX) : CoreX := { k with queued := k.queued.erase h, slot := (k.slot + 1) % 16 }

/-- CORE_SHARE_START: a core between shares, awake and not held, takes its next share (R64, R76). -/
def coreShareStart (n : Nat) (s : State) : State :=
  if coreFree n s then
    let s := commitShares n s
    match chooseShare (rbits R.CORE_ARB 4 0 s) (corex n s) with
    | none => s
    | some h =>
      let t := setCorex n (takeShare h (corex n s)) s
      match startedAt h.c s with
      | none => t
      | some x => if isAttn x.bytes then startAttn n h t else startShare n h x t
  else s

def execCoreShareStart (n : Core) (s : State) : Host.Outcome State Fault Refusal := .next (coreShareStart n.val s)

end Sys2Proof.Machine
end

