-- ==== Sys2Proof/Machine/Stream.lean ====
section
/-! DEFINITION. The stream engine and the DMA channels (chapter 10): RING_SET, STREAM_TRANSFER_GRANT, DEADLOCK_TEST, and the
commands of a channel but for the landing of its transfers. -/

namespace Sys2Proof.Machine

/-! ### RING_SET (R188) -/

/-- Area of a ring or window in units of 128 bytes: base and size. -/
def areaOf (x : StreamX) : Nat × Nat := (x.base, if x.slots = 0 then x.size else x.slots * x.size)

def areasOverlap (a b : Nat × Nat) : Bool := decide (a.1 < b.1 + b.2) && decide (b.1 < a.1 + a.2)

/-- A field of Table 10.2 out of its range, or past the end of the tile store of 65,536 units. -/
def ringFieldBad (x : StreamX) : Bool :=
  (if x.slots = 0 then decide (x.size < 4) else decide (x.size < 4) || decide (2048 < x.size) || decide (x.slots < 3) || decide (64 < x.slots)) ||
  decide (65536 < (areaOf x).1 + (areaOf x).2)

def ringSetBad (b : Bytes) : Bool :=
  let un := unitAt b 1
  let xs := (List.range 4).map (ringOfField un)
  !operandsOk [(133, 128), byteRange 17 17, (144, 144)] b || coreGroupBad b ||
  !onlyBits ((List.range 4).flatMap (fun i => [byteRange (8 * i + 4) (8 * i), (64 * i + 40, 64 * i + 40)])) un ||
  xs.any ringFieldBad ||
  xs.zipIdx.any (fun a => xs.zipIdx.any (fun c => decide (a.2 < c.2) && areasOverlap (areaOf a.1) (areaOf c.1)))

/-- Does a new area overlap one of the other class on core n? -/
def ringClash (b : Bytes) (cls n : Nat) (s : State) : Bool :=
  (List.range 4).any (fun i => (List.range 4).any (fun j =>
    areasOverlap (areaOf (ringOfField (unitAt b 1) i)) (areaOf (streamx (8 * n + 4 * (1 - cls) + j) s))))

/-- The start of a RING_SET: each core takes it as a load, in order with the others (R91, R188); one that overlaps changes none. -/
def ringStart (c : Nat) (b : Bytes) (s : State) : State :=
  let cls := u b 18 1 % 2
  if (coresOf b).any (fun n => ringClash b cls n s) then s
  else updStarted c (fun x => { x with begun := true }) ((coresOf b).foldl (fun t n => loadCore 2 cls (unitAt b 1) t n) s)

/-- RING_SET completes once every core has taken it (R188). -/
def ringSetRun (c : Nat) (s : State) : State :=
  match runningCmd c .ringSet s with
  | none => s
  | some x =>
    let cls := u x.bytes 18 1 % 2
    let t := if x.begun then (coresOf x.bytes).foldl settleLoad s else ringStart c x.bytes s
    if (runningCmd c .ringSet t).any (·.begun) then (if loadPending 2 cls x.bytes t then t else markDone c t)
    else failCmd c bSTR 0x0163 (firstCore x.bytes) s

def execRingSet (c : Nat) (s : State) : Host.Outcome State Fault Refusal := .next (ringSetRun c s)

/-! ### Transfers (R192 to R194) -/

def numTags : Nat := 2048

/-- STR_D0_TAGS or STR_D1_TAGS follows the half's transfers (R196). -/
def showTags (h : Nat) (s : State) : State :=
  let ts := (halfx h s).transfers
  let dma := (ts.filter (fun t => decide (512 ≤ t.owner))).length
  rset (if h = 0 then R.STR_D0_TAGS else R.STR_D1_TAGS) (numTags - ts.length + (dma <<< 16)) s

/-- A core's share with the units of its command. -/
def runningShare (n : Nat) (s : State) : Option (Share × Bytes) :=
  match (corex n s).run with
  | none => none
  | some h => (startedAt h.c s).map (fun x => (h, x.bytes))

/-- First read of the next step whose piece has not landed: what the core waits for. -/
def firstMissing (n : Nat) (s : State) : Option PRead :=
  match runningShare n s with
  | none => none
  | some (h, b) => (stepOf (((coreWalk h b n)[h.pos]?).getD [])).find? (fun r => !readLanded n h s r)

/-- Does the core that stream i serves wait on it? -/
def consumerWaits (i : Nat) (s : State) : Bool :=
  match (corex (i / 8) s).run, firstMissing (i / 8) s with
  | some h, some r => i == streamOf (i / 8) h.bwd r.1
  | _, _ => false

/-- The piece that a stream fetches next, strictly in order. -/
def nextPiece (x : StreamX) : Option Piece := x.pieces.find? (fun p => decide (p.granted < p.len))

/-- Slots that a stream has borrowed. -/
def borrowed (i : Nat) (x : StreamX) : Nat :=
  (x.pieces.filter (fun p => match p.slot with | some (o, _) => o != i | none => false)).length

/-- A slot that stream i may borrow: lender and slot; the lowest lender and its highest free slot but the home slot (R194,
log 27). -/
def borrowSlot (i : Nat) (s : State) : Option (Nat × Nat) :=
  let x := streamx i s
  if !rbit R.STR_CTL 8 s || decide (rbits R.STR_CTL 15 12 s ≤ borrowed i x) then none
  else
    ((List.range 8).map (fun j => 8 * (i / 8) + j)).findSome? (fun j =>
      let y := streamx j s
      if j != i && y.lend && y.slots != 0 && decide (x.size ≤ y.size) then
        (((List.range y.slots).filter (fun k => k != 0 && !(slotsHeld j s).contains k)).getLast?).map (fun k => (j, k))
      else none)

/-- The slot for the next piece of stream i; none when none can be allocated. A resident window has no slots, (i, 0), and takes the
pieces of one share at a time (R186); a spilled piece comes back into an own slot (R195). -/
def slotFor (i : Nat) (p : Piece) (s : State) : Option (Nat × Nat) :=
  let x := streamx i s
  match p.slot with
  | some k => some k
  | none =>
    if x.slots = 0 then (if x.pieces.head?.any (fun y => y.c == p.c) then some (i, 0) else none)
    else if !(slotsHeld i s).contains x.tail then some (i, x.tail)
    else if p.spill.isSome then none
    else borrowSlot i s

/-- Address and length of the transfer at offset `off` of some ranges (R192). -/
def transferAt : List (Nat × Nat) → Nat → Nat × Nat
  | [], _ => (0, 0)
  | (a, l) :: t, off => if off < l then (a + off, min (l - off) (4096 - (a + off) % 4096)) else transferAt t (off - l)

/-- A requester of a grant: whether its consumer waits, its deadline counted from now, and the stream, or 512 + channel. -/
structure Asker where
  early : Bool
  dead  : Int
  who   : Nat
  deriving DecidableEq, Repr, Inhabited

def Asker.before (a b : Asker) : Bool :=
  if a.early != b.early then a.early
  else if a.early then decide (a.who < b.who)
  else decide (a.dead < b.dead) || (a.dead == b.dead && decide (a.who < b.who))

def bestAsker : List Asker → Option Asker
  | [] => none
  | a :: t => match bestAsker t with | none => some a | some b => some (if b.before a then b else a)

/-- I_s of R193: 0 until eight first reads, then an interval of time, which the model does not hold (log 28). -/
def meanInterval (i : Nat) (x : StreamX) (s : State) : Nat := if x.nReads < 8 then 0 else Config.freeNat (s.freeCtr + i)

/-- A_s × I_s. -/
def dryOf (i : Nat) (s : State) : Nat :=
  let x := streamx i s
  (x.pieces.filter (fun p => p.whole && !p.begun)).length * meanInterval i x s

/-- Tags held by owner `o`. -/
def tagsOf (h o : Nat) (s : State) : Nat := ((halfx h s).transfers.filter (fun t => t.owner == o)).length

/-- Is stream i eligible (R193)? -/
def streamAsks (h i : Nat) (s : State) : Option Asker :=
  match nextPiece (streamx i s) with
  | none => none
  | some p =>
    if (slotFor i p s).isSome && !pieceShut i p s && decide (tagsOf h i s < rbits R.STR_TAGCAP 11 0 s) then
      some { early := consumerWaits i s, dead := dryOf i s, who := i }
    else none

/-- Does channel n ask for a transfer? Its deadline is DMA_SLACK after its request, which lies a free number of cycles back (log 28). -/
def channelAsks (h n : Nat) (s : State) : Option Asker :=
  let x := chanx n s
  if rbits (R.DMA_Dnn_STAT n) 2 0 s == 1 && x.halting.isNone && decide (x.issued < x.count) &&
      decide (((halfx h s).transfers.filter (fun t => decide (512 ≤ t.owner))).length < rbits R.STR_TAGCAP 27 16 s) then
    some { early := false, dead := (rbits R.STR_DMA_SLACK 23 0 s : Int) - Config.freeNat (s.freeCtr + 512 + n), who := 512 + n }
  else none

/-- Streams of a half that have pieces. -/
def busyStreams (h : Nat) (s : State) : List Nat :=
  (s.streams.filter (fun x => x.1 / 256 == h && !x.2.pieces.isEmpty)).map (·.1)

def setTail (i : Nat) (k : Nat × Nat) (x : StreamX) : StreamX :=
  if x.slots ≠ 0 ∧ k.1 = i ∧ k.2 = x.tail then { x with tail := (x.tail + 1) % x.slots } else x

/-- A transfer takes a tag. -/
def issueTransfer (h : Nat) (t : Transfer) (s : State) : State :=
  let x := halfx h s
  showTags h (setHalfx h { x with transfers := x.transfers ++ [{ t with id := x.nextId, left := rbits R.DMA_RETRY 3 0 s }], nextId := x.nextId + 1 } s)

/-- READ_REQ of `len` bytes at `o` of device d; the first four data bytes hold the length (log 26). -/
def readReqMsg (s : State) (d o len tag : Nat) : Msg := mkMsg s 2 (myDom s) d o tag (padTo 16 (leBytes 4 len))

/-- A tag for a READ_REQ that no unanswered one holds. -/
def freshTag (s : State) : Nat := (leastBelow 65536 (fun t => !s.reads.any (fun r => r.tag == t))).getD 0

/-- The n bytes at `a` are asked for: a peer's by a READ_REQ with a tag (R246), the module's own and the host's directly; none where
no port takes it. -/
def askBytes (a n dst : Nat) (c : Option Nat) (s : State) : Option (Option Nat × State) :=
  match reach s a with
  | .peer d o =>
    let tag := freshTag s
    (match portTo (myDom s) d s, sendMsg (readReqMsg s d o n tag) s with
     | some p, some t => some (some tag, { t with reads := t.reads ++ [{ tag := tag, port := p, len := n, dst := dst, c := c }] })
     | _, _ => none)
  | _ => some (none, s)

/-- Device address of byte `a` of a piece's source: of a slot's region by the page table as it stands now (R137). -/
def sourceAddr (p : Piece) (a : Nat) (s : State) : Nat :=
  match p.via with
  | none => a
  | some q => regionAddr q a s

/-- A fetch of region byte `a` marks its page ACCESSED (Table 7.2). -/
def markAccess (p : Piece) (a : Nat) (s : State) : State :=
  match p.via with
  | none => s
  | some q => setPte q (a / pageSize) (pte q (a / pageSize) s ||| 16) s

/-- A stream's fetch fails its command. -/
def fetchFails (c i cause : Nat) (s : State) : State := failCmd c bSTR cause (i / 8) (withdraw c true false (rsetBit R.STR_EVT 1 s))

/-- The registers of a core's streams and their DRY follow a grant. -/
def showGrant (i : Nat) (s : State) : State :=
  rset (R.STR_Snnn_DRY i) (min (dryOf i s) (2 ^ 32 - 1)) (showStreams (i / 8) s)

/-- Piece p of stream i is granted its next transfer; a source that cannot be reached fails the command (R198). -/
def grantPiece (h i : Nat) (p : Piece) (k : Nat × Nat) (s : State) : State :=
  let x := streamx i s
  let r := transferAt p.ranges p.granted
  let a := sourceAddr p r.1 s
  if p.via.any (fun q => poisoned s (pteAddr q (r.1 / pageSize) s) 8) then booksFatal s
  else match firstUnreached s a r.2 with
  | some e => fetchFails p.c i (reachCause s e) (captureReach e s)
  | none =>
    match askBytes a r.2 0 (some p.c) (markAccess p r.1 s) with
    | none => fetchFails p.c i 0x0190 s
    | some (tag, t) =>
      let p' : Piece := { p with granted := p.granted + r.2, slot := some k }
      let x' := setTail i (if p.slot.isNone then k else (512, 0)) x
      let t := setStreamx i { x' with pieces := x.pieces.map (fun q => if q == p then p' else q) } t
      showGrant i (issueTransfer h { owner := i, addr := a, len := r.2, c := p.c, td := p.td, row := p.row, col := p.col,
                                     off := p.granted, req := tag } t)

/-- Stream i is granted a transfer. -/
def grantStream (h i : Nat) (s : State) : State :=
  match nextPiece (streamx i s) with
  | none => s
  | some p => (match slotFor i p s with | none => s | some k => grantPiece h i p k s)

/-- First address of a channel's access that it cannot reach, which may reach the module's own registers (R141, R371). -/
def chanUnmapped (s : State) (a l : Nat) : Option Nat :=
  if regBase ≤ a ∧ a + l ≤ regEnd then (if a % 4 = 0 ∧ l % 4 = 0 then none else some a) else firstUnreached s a l

/-! ### The funnel (R201) -/

/-- The piece of the destination that holds place o of a copy, as (first place, end): the head, an aligned piece of 512 bytes or the
tail; one word of the module's registers. -/
def destPiece (x : ChanX) (o : Nat) : Nat × Nat :=
  let w := if regBase ≤ x.dst then 4 else 512
  let a := (x.dst + o) / w * w
  (a - x.dst, min x.count (a + w - x.dst))

/-- The part of p that lies in places lo to hi - 1. -/
def FunnelPart.within (p : FunnelPart) (lo hi : Nat) : FunnelPart :=
  let a := max lo p.off
  { off := a, data := slice p.data (a - p.off) (min hi (p.off + p.data.length) - a), bad := p.bad.filter (fun i => decide (lo ≤ i) && decide (i < hi)) }

def FunnelPart.meets (p : FunnelPart) (lo hi : Nat) : Bool := decide (p.off < hi) && decide (lo < p.off + p.data.length)

/-- What the funnel holds of places lo to hi - 1, in order. -/
def funnelParts (f : List FunnelPart) (lo hi : Nat) : List FunnelPart := (f.filter (·.meets lo hi)).map (·.within lo hi)

/-- The funnel without places lo to hi - 1. -/
def funnelCut (f : List FunnelPart) (lo hi : Nat) : List FunnelPart :=
  f.flatMap (fun p => if p.meets lo hi then [p.within 0 lo, p.within hi (p.off + p.data.length)].filter (fun q => !q.data.isEmpty) else [p])

/-- Data enter the funnel in the order of their places. -/
def funnelAdd (p : FunnelPart) : List FunnelPart → List FunnelPart
  | [] => [p]
  | q :: t => if p.off < q.off then p :: q :: t else q :: funnelAdd p t

/-- Lines of data in turn, each with its poison. -/
def writeLines (put : Nat → Bytes → Bool → State → Wrote) : Nat → Nat → Bytes → (Nat → Bool) → Nat → State → Wrote
  | 0, _, _, _, _, s => { s := s }
  | f + 1, a, b, bad, i, s =>
    if b.isEmpty then { s := s }
    else
      let k := 128 - a % 128
      let w := put a (b.take k) ((List.range (min k b.length)).any (fun j => bad (i + j))) s
      match w.cause with
      | some _ => w
      | none =>
        let r := writeLines put f (a + k) (b.drop k) bad (i + k) w.s
        { r with flags := w.flags ||| r.flags }

/-- Do the source and the destination of a copy overlap (R201)? -/
def copyOverlaps (x : ChanX) : Bool := decide (x.src < x.dst + x.count) && decide (x.dst < x.src + x.count)

/-- What the funnel of channel n holds of places lo to hi - 1 is written with byte masks. Poison goes with the data and sets
STAT.POISON; where source and destination overlap the contents are undefined. -/
def writeParts (put : Nat → Bytes → Bool → State → Wrote) (n lo hi : Nat) (s : State) : Wrote :=
  let x := chanx n s
  let ps := funnelParts x.funnel lo hi
  let b := ps.flatMap (·.data)
  let bad := ps.flatMap (·.bad)
  let a := x.dst + lo
  let w := if bad.isEmpty then put a b false s else writeLines put (b.length / 128 + 2) a b (fun i => bad.contains (lo + i)) 0 s
  match w.cause with
  | some _ => w
  | none =>
    let t := if bad.isEmpty then w.s else rsetBit (R.DMA_Dnn_STAT n) 16 w.s
    let t := if copyOverlaps x then forgetAt t (a, b.length) else t
    let t := match x.cmd with | none => t | some c => addFlags c w.flags t
    { w with s := setChanx n { chanx n t with moved := x.moved + b.length, funnel := funnelCut x.funnel lo hi } t }

/-- What a channel at rest has read and not yet written is written; a part of a register's word is not. -/
def emptyFunnel (n : Nat) (s : State) : State :=
  let x := chanx n s
  if regBase ≤ x.dst then s
  else x.funnel.foldl (fun t p => (writeParts (fun a b bad u => writeMem a b u bad) n p.off (p.off + p.data.length) t).s) s

/-- A channel that has nothing in flight comes to rest, as an abort or a halt asked (R203, R204): what it has read is written. -/
def chanSettle (n : Nat) (s : State) : State :=
  let x := chanx n s
  if chanBusy n s then s
  else
    match x.halting with
    | some (err, cause, addr) =>
      let s := emptyFunnel n s
      let t := chanEnd n 3 err (rset (R.DMA_Dnn_FAILADDR n) addr s)
      (match x.cmd with | none => t | some c => failCmd c bDMA cause n t)
    | none =>
      if rbits (R.DMA_Dnn_STAT n) 2 0 s = 5 then
        let s := emptyFunnel n s
        let t := chanEnd n 4 0 s
        (match x.cmd with | none => t | some c => failCmd c bDMA 0x0162 n t)
      else s

/-- A channel issues no further transfer and halts once those in flight have ended (R204). -/
def chanHalt (n err cause addr : Nat) (s : State) : State :=
  chanSettle n (setChanx n { chanx n s with halting := some (err, cause, addr) } s)

/-- ERR code of a channel's access to an address that cannot be reached (Table 10.8). -/
def reachErr (s : State) (a : Nat) : Nat := if unmappedAt s a then 2 else 3

/-- Channel n is granted a transfer. A source or destination that cannot be reached halts it at once (R204, R253); a source in a
peer's memory is asked for by a READ_REQ (R246). -/
def grantChannel (h n : Nat) (s : State) : State :=
  let x := chanx n s
  let a := x.src + x.issued
  let l := min (x.count - x.issued) (4096 - a % 4096)
  match chanUnmapped s a l <|> chanUnmapped s (x.dst + x.issued) l with
  | some e => if regBase ≤ e then chanHalt n 2 0x0140 e (captureUnmapped e s) else chanHalt n (reachErr s e) (reachCause s e) e (captureReach e s)
  | none =>
    match askBytes a l (x.dst + x.issued) x.cmd (setChanx n { x with issued := x.issued + l } s) with
    | none => chanHalt n 3 0x0190 a s
    | some (tag, t) => issueTransfer h { owner := 512 + n, addr := a, len := l, off := x.issued, req := tag } t

/-- STREAM_TRANSFER_GRANT: the half grants one transfer to the eligible requester with the earliest deadline (R193). Nothing
is granted without a free tag or in Holdfast. -/
def streamTransferGrant (h : Nat) (s : State) : State :=
  if decide (numTags ≤ (halfx h s).transfers.length) || inHoldfast s then s
  else
    match bestAsker ((busyStreams h s).filterMap (fun i => streamAsks h i s) ++
        (List.range 16).filterMap (fun n => channelAsks h (16 * h + n) s)) with
    | none => s
    | some a => bumpFree (if a.who < 512 then grantStream h a.who s else grantChannel h (a.who - 512) s)

def execStreamTransferGrant (h : Die) (s : State) : Host.Outcome State Fault Refusal := .next (streamTransferGrant h.val s)

/-! ### Deadlock (R195) -/

/-- Streams of stream i's core that hold slots lent by i. -/
def holders (i : Nat) (s : State) : List Nat :=
  ((List.range 8).map (fun j => 8 * (i / 8) + j)).filter (fun j =>
    j != i && (streamx j s).pieces.any (fun p => match p.slot with | some (o, _) => o == i | none => false))

/-- The stream on which core n stands in a cycle, if it does. -/
def cycleAt (h n : Nat) (s : State) : Option Nat :=
  match (corex n s).run, firstMissing n s with
  | some sh, some r =>
    let i := streamOf n sh.bwd r.1
    let x := streamx i s
    if tagsOf h i s == 0 && x.slots != 0 && (List.range x.slots).all (fun k => (slotsHeld i s).contains k) &&
        !(holders i s).isEmpty && (holders i s).all (fun j => !(streamx j s).pieces.any (fun p => p.begun && p.slot.isSome)) then some i
    else none
  | _, _ => none

/-- The stream with the latest deadline: the greatest A × I, the higher number among equals. -/
def latestStream (s : State) : List Nat → Option Nat
  | [] => none
  | i :: t => match latestStream s t with | none => some i | some j => some (if dryOf j s < dryOf i s then i else j)

/-- Place `j` of core n in the spill area of its half (log 29): 32 cores with BORROW_MAX places each (R194). -/
def spillPlace (h n j : Nat) (s : State) : Nat :=
  rget (if h = 0 then R.STR_D0_SPILL_BASE else R.STR_D1_SPILL_BASE) s
    + ((n % 32) * rbits R.STR_CTL 15 12 s + j) * 262144

/-- Places of the spill area that pieces of core n hold. -/
def spillsHeld (n : Nat) (s : State) : List Nat :=
  (List.range 8).flatMap (fun j => (streamx (8 * n + j) s).pieces.filterMap (·.spill))

/-- A landed piece in a borrowed slot goes to the lowest free place of the spill area and gives the slot back; it is fetched from
there later. -/
def spillPiece (h i : Nat) (s : State) (p : Piece) : State :=
  let held := spillsHeld (i / 8) s
  let j := (leastBelow (held.length + 1) (fun j => !held.contains j)).getD 0
  let a := spillPlace h (i / 8) j s
  let t := p.bad.foldl (fun t b => (writeMem (a + b.1) (slice p.data b.1 b.2) t true).s) (poke a p.data s)
  let x := streamx i t
  rcount R.STR_SPILLED (setStreamx i { x with pieces := x.pieces.map (fun q =>
    if q == p then { p with ranges := [(a, p.len)], via := none, granted := 0, landed := 0, data := [], bad := [], slot := none,
                            spill := some j } else q) } t)

/-- A cycle on stream i is broken (R195). -/
def breakCycle (h : Nat) (s : State) (ni : Nat × Nat) : State :=
  match latestStream s (holders ni.2 s) with
  | none => s
  | some j =>
    let ps := (streamx j s).pieces.filter (fun p => p.whole && (match p.slot with | some (o, _) => o != j | none => false))
    let t := showStreams ni.1 (ps.foldl (spillPiece h j) s)
    snapOn R.STR_CTL 16 5 bSTR (raiseVector 136 (rsetBit R.STR_EVT 0 (rcountSat R.STR_DLK t)))

/-- DEADLOCK_TEST: the cores of a half are tested; a cycle found at two tests in a row is broken. -/
def deadlockTest (h : Nat) (s : State) : State :=
  let now := ((List.range 32).map (fun n => 32 * h + n)).filterMap (fun n => (cycleAt h n s).map (fun i => (n, i)))
  let x := halfx h s
  let twice := now.filter (fun c => x.cycles.contains c)
  twice.foldl (breakCycle h) (setHalfx h { x with cycles := now.filter (fun c => !twice.contains c) } s)

def execDeadlockTest (h : Die) (s : State) : Host.Outcome State Fault Refusal := .next (deadlockTest h.val s)

/-! ### DMA channels (R199 to R205) -/

/-- Unit 1 of DMA (R200). -/
def dmaBad (b : Bytes) : Bool :=
  let un := unitAt b 1
  !operandsOk [] b || !onlyBits [byteRange 5 0, byteRange 13 8, byteRange 19 16, (162, 162)] un || u un 16 4 == 0

/-- RUNNING or ABORTING. -/
def chanWorks (n : Nat) (s : State) : Bool := let st := rbits (R.DMA_Dnn_STAT n) 2 0 s; st == 1 || st == 5

/-- A channel runs with the image in its registers. -/
def chanStart (n : Nat) (cmd : Option Nat) (s : State) : State :=
  let ctl := rget (R.DMA_Dnn_CTL n) s
  rsetBits (R.DMA_Dnn_STAT n) 8 8 (nb cmd.isSome) (rsetBits (R.DMA_Dnn_STAT n) 7 4 0 (rsetBits (R.DMA_Dnn_STAT n) 2 0 1
    (rsetBit (R.DMA_Dnn_CTL n) 0 (setChanx n {
      src := rget (R.DMA_Dnn_SRC n) s, dst := rget (R.DMA_Dnn_DST n) s, count := rget (R.DMA_Dnn_COUNT n) s,
      barrier := bitAt ctl 2, irq := bitAt ctl 3, cmd := cmd } s))))

/-- Image of a DMA command in a channel's registers. -/
def chanLoad (n : Nat) (un : Bytes) (s : State) : State :=
  rset (R.DMA_Dnn_CTL n) (u un 20 4) (rset (R.DMA_Dnn_COUNT n) (u un 16 4)
    (rset (R.DMA_Dnn_DST n) (u un 8 6) (rset (R.DMA_Dnn_SRC n) (u un 0 6) s)))

/-- Channels of SQ `q` that stand idle (R199). -/
def idleChannels (q : Nat) (s : State) : Nat := ([2 * (q - 16), 2 * (q - 16) + 1].filter (fun n => !chanWorks n s)).length

/-- DMA: the image goes into the lower-numbered idle channel of the queue's two; with neither idle the command waits
(R199). -/
def dmaRun (c : Nat) (s : State) : State :=
  match runningCmd c .dma s with
  | none => s
  | some x =>
    let n := 2 * (x.q - 16)
    if x.begun then s
    else if chanWorks n s && chanWorks (n + 1) s then s
    else
      let k := if chanWorks n s then n + 1 else n
      let un := unitAt x.bytes 1
      updStarted c (fun y => { y with begun := true, outs := [(u un 8 6, u un 16 4)] })
        (chanStart k (some c) (chanLoad k un s))

def execDma (c : Nat) (s : State) : Host.Outcome State Fault Refusal := .next (dmaRun c s)

/-- DMA_START: a direct start (R199, R200). -/
def dmaStart (n : Nat) (s : State) : State :=
  if qState (16 + n / 2) s ≠ 0 ∨ chanWorks n s then misuse bDMA s
  else if rget (R.DMA_Dnn_COUNT n) s = 0 then
    let t := rsetBits (R.DMA_Dnn_STAT n) 8 0 (3 + (5 <<< 4)) s
    let t := rsetBit R.DMA_EVT n t
    if rbit (R.DMA_Dnn_CTL n) 3 t then raiseVector 136 t else t
  else chanStart n none s

def execDmaStart (n : Chan) (s : State) : Host.Outcome State Fault Refusal := .next (dmaStart n.val s)

/-- DMA_ABORT (R203). -/
def dmaAbort (n : Nat) (s : State) : State :=
  if rbits (R.DMA_Dnn_STAT n) 2 0 s = 1 then chanSettle n (rsetBits (R.DMA_Dnn_STAT n) 2 0 5 s) else misuse bDMA s

def execDmaAbort (n : Chan) (s : State) : Host.Outcome State Fault Refusal := .next (dmaAbort n.val s)

/-- ERR code of Table 10.8 and cause of a transfer that ends badly (R204, R253). -/
def errOf : TransferErr → Nat × Nat
  | .errorResponse => (1, 0x0161)
  | .linkContained => (3, 0x0190)
  | .hostTimeout => (4, 0x0161)

/-- A half forgets a transfer and its tag is free. -/
def releaseTag (h t : Nat) (s : State) : State :=
  let x := halfx h s
  showTags h (setHalfx h { x with transfers := x.transfers.filter (fun y => y.id != t) } s)

/-- A transfer is made again; a peer is asked again under a new tag (R198, R204). None where no port takes the request. -/
def repeatTransfer (h : Nat) (y : Transfer) (dst : Nat) (c : Option Nat) (s : State) : Option State :=
  let t : State := { s with reads := s.reads.filter (fun r => y.req != some r.tag) }
  (if y.req.isNone then some (none, t) else askBytes y.addr y.len dst c t).map (fun a =>
    setHalfx h { halfx h a.2 with transfers := (halfx h a.2).transfers.map (fun z =>
      if z.id = y.id then { z with left := z.left - 1, req := a.1 } else z) } a.2)

/-- DMA_TRANSFER_ERROR: a transfer is repeated, or the channel halts (R204). -/
def dmaTransferError (n t : Nat) (err : TransferErr) (s : State) : State :=
  let h := n / 16
  let x := halfx h s
  match x.transfers.find? (fun y => y.id == t && y.owner == 512 + n) with
  | none => s
  | some y =>
    let gone (e : TransferErr) : State :=
      chanHalt n (errOf e).1 (errOf e).2 y.addr
        (releaseTag h t { s with reads := s.reads.filter (fun r => y.req != some r.tag) })
    if err ≠ .linkContained ∧ y.left ≠ 0 then
      match repeatTransfer h y ((chanx n s).dst + y.off) (chanx n s).cmd s with
      | none => gone .linkContained
      | some s1 => rcountSat (R.DMA_Dnn_RETRIES n) s1
    else gone err

def execDmaTransferError (n : Chan) (t : Nat) (err : TransferErr) (s : State) : Host.Outcome State Fault Refusal :=
  .next (dmaTransferError n.val t err s)

/-- Ports by which the n bytes from `a` leave the module. -/
def portsOf (a n : Nat) (s : State) : List Nat :=
  (List.range 64).filterMap (fun d =>
    let w := peerBase + peerSize * d
    if n ≠ 0 ∧ a < w + peerSize ∧ w < a + n then portTo (myDom s) d s else none)

/-- With BARRIER set, have the channel's writes arrived? No message of Table 13.5 brings a home's acknowledgement: a write has arrived
when the port it left by holds nothing unacknowledged (R202, log 69). -/
def writesArrived (x : ChanX) (s : State) : Bool :=
  !x.barrier || (portsOf x.dst x.count s).all (fun p => (portx p s).replay.isEmpty && (portx p s).txq.isEmpty)

/-- DMA_COMPLETE: every byte has moved (R202, R205). -/
def dmaComplete (n : Nat) (s : State) : State :=
  let x := chanx n s
  if rbits (R.DMA_Dnn_STAT n) 2 0 s == 1 && x.halting.isNone && x.moved == x.count && x.count != 0 && writesArrived x s then
    let t := chanEnd n 2 0 s
    match x.cmd with | none => t | some c => markDone c t
  else s

def execDmaComplete (n : Chan) (s : State) : Host.Outcome State Fault Refusal := .next (dmaComplete n.val s)

end Sys2Proof.Machine
end

