-- ==== Sys2Proof/Machine/Memory.lean ====
section
/-! DEFINITION. Stacked memory, the shared caches and the spill tier (chapter 08): placement, patrol scrubbing, temperature
reports, ATOMIC, and accumulator regions. -/

namespace Sys2Proof.Machine

/-! ### Placement and integrity (R142, R146, R148, R149, R158, R159) -/

/-- Stack that holds stacked address `a`, and the offset in it (R142). -/
def stackPlace (a : Nat) (s : State) : Nat × Nat :=
  let z := bits a 38 36
  let g := bits a 35 30
  let ilv := rget (if z < 4 then R.MEM_D0_ILV else R.MEM_D1_ILV) s
  if bitAt ilv g then
    let x := (z % 4) * 2 ^ 30 + a % 2 ^ 30
    (4 * (z / 4) + (x / 4096) % 4, g * 2 ^ 30 + x / 16384 * 4096 + x % 4096)
  else (z, a % 2 ^ 36)

def stackOf (a : Nat) (s : State) : Nat := (stackPlace a s).1

/-- A line's contents are uncorrectable from now on: it is poisoned (R146). -/
def poisonLine (line : Nat) (s : State) : State :=
  { s with poison := if s.poison.contains line then s.poison else s.poison ++ [line] }

/-- A patrol read of a stack's line. -/
def scrubStack (line : Nat) (sev : Severity) (s : State) : State :=
  let k := stackOf (128 * line) s
  match sev with
  | .clean => s
  | .corrected => reportError 0 bMEM 0 noQueue k (rcount (R.MEM_Sn_CECC k) s)
  | .uncorrected => poisonLine line (rsetBit R.MEM_EVT 1 (rcountSat (R.MEM_Sn_UECC k) s))

/-- A patrol read of a line of the spill tier. -/
def scrubSpill (line : Nat) (sev : Severity) (s : State) : State :=
  match sev with
  | .clean => s
  | .corrected => reportError 0 bSPL 0 noQueue 0 (rcount R.SPL_CECC s)
  | .uncorrected => poisonLine line (rsetBit R.SPL_EVT 1 (rcountSat R.SPL_UECC s))

/-- A severity that comes with line `line` of memory is acted on; an uncorrectable error in a page table or in the frame table is
job-fatal (R131). -/
def noteRead (line : Nat) (sev : Severity) (s : State) : State :=
  if inStacked (128 * line) 128 then
    if sev == .uncorrected && bookLine line s then booksFatal (scrubStack line sev s) else scrubStack line sev s
  else if inSpill (128 * line) 128 then scrubSpill line sev s
  else s

/-! ### Parity on the vertical interfaces (R147) -/

def parityLimit (s : State) : Nat := max 1 (rbits R.MEM_RETRY 3 0 s)

/-- One repeat of a transfer of stack k. -/
def parityRepeat (k : Nat) (s : State) : State := reportError 1 bMEM 0 noQueue k (rcount (R.MEM_Sn_RETRY k) s)

/-- Repeats that parity errors force on a transfer at stacked address `a`. -/
def parityRepeats (a n : Nat) (s : State) : State :=
  if inStacked a 1 then (List.range (min n (parityLimit s))).foldl (fun t _ => parityRepeat (stackOf a s) t) s else s

/-- Has every repeat failed? -/
def parityLost (a n : Nat) (s : State) : Bool := inStacked a 1 && decide (parityLimit s < n)

/-- Every repeat of a transfer of stack k has failed. -/
def retryFailed (k : Nat) (s : State) : State := rsetBit R.MEM_EVT 2 (rcountSat (R.MEM_Sn_RFAIL k) s)

/-- The module's memory at its own address `a` has been read as `l` says. Is the data delivered poisoned, for want of a good repeat? -/
def dramRead (a : Nat) (l : Landing) (s : State) : State × Bool :=
  let t := parityRepeats a l.readRepeats s
  if parityLost a l.readRepeats s then (retryFailed (stackOf a s) t, true)
  else (noteRead (lineOf a + l.line) l.sev t, false)

/-- The module's memory at its own address `a` is written as `l` says. Is the stack lost? Then the error is chip-fatal. -/
def dramWrite (a : Nat) (l : Landing) (s : State) : State × Bool :=
  let t := parityRepeats a l.writeRepeats s
  if parityLost a l.writeRepeats s then (chipFatal bMEM 2 noQueue (stackOf a s) (retryFailed (stackOf a s) t), true)
  else (t, false)

/-- A patrol read of a line; corrected data is written back (R148). -/
def patrolLine (line : Nat) (l : Landing) (s : State) : State :=
  let r := dramRead (128 * line) { l with line := 0 } s
  if !r.2 && l.sev == .corrected then (dramWrite (128 * line) l r.1).1 else r.1

/-- PATROL_SCRUB of 128-byte line number `line` (R148, R158); HOURS of 0 stops it. -/
def patrolScrub (line : Nat) (l : Landing) (s : State) : State :=
  if inStacked (128 * line) 128 then (if rbits R.MEM_SCRUB 15 0 s = 0 then s else patrolLine line l s)
  else if inSpill (128 * line) 128 then (if rbits R.SPL_SCRUB 15 0 s = 0 then s else patrolLine line l s)
  else s

def execPatrolScrub (line : Nat) (l : Landing) (s : State) : Host.Outcome State Fault Refusal := .next (patrolScrub line l s)

/-- Threshold at which throttle step k is entered (Table 8.5). -/
def stackThreshold (k : Nat) (s : State) : Nat := rbits R.MEM_THERM 7 0 s + (k - 1) * rbits R.MEM_THERM 15 8 s

/-- Throttle step after a report (R149). -/
def stackStep (old temp : Nat) (s : State) : Nat :=
  let up := (List.range 5).foldl (fun a k => if k ≠ 0 ∧ stackThreshold k s ≤ temp then k else a) 0
  if old < up then up
  else if old ≠ 0 ∧ temp + rbits R.MEM_THERM 27 24 s ≤ stackThreshold old s then old - 1
  else old

/-- STACK_TEMP_REPORT (R149): the throttled cycles since the last report are a free value (log 30). -/
def stackTempReport (k temp : Nat) (s : State) : State :=
  let old := rbits (R.MEM_Sn_STAT k) 10 8 s
  let new := stackStep old temp s
  let t := rsetBits (R.MEM_Sn_STAT k) 10 8 new (rsetBits (R.MEM_Sn_STAT k) 7 0 temp s)
  let t := if old = 0 then t else bumpFree (rcountBy (R.MEM_Sn_THRCYC k) (Config.freeNat t.freeCtr) t)
  let t := if new = old then t else raiseVector 132 (rsetBit R.MEM_EVT 0 t)
  if rbits R.MEM_THERM 23 16 s ≤ temp then emergency hfStack k t else t

def execStackTempReport (k : StackN) (temp : Nat) (s : State) : Host.Outcome State Fault Refusal :=
  .next (stackTempReport k.val temp s)

/-- SPILL_TEMP_REPORT (R159): the tier runs at half rate while any package is above its limit. -/
def spillTempReport (p : Nat) (hot : Bool) (s : State) : State :=
  let l := s.boot.hotPkgs.filter (fun x => x != p) ++ (if hot then [p] else [])
  let t : State := { s with boot := { s.boot with hotPkgs := l } }
  if l.isEmpty then rclrBit R.SPL_STAT 1 t
  else
    let t := rsetBit R.SPL_STAT 1 t
    if hot then rsetBit R.SPL_EVT 0 t else t

def execSpillTempReport (pkg : Pkg) (hot : Bool) (s : State) : Host.Outcome State Fault Refusal :=
  .next (spillTempReport pkg.val hot s)

/-! ### ATOMIC (R153) -/

def atomicList (b : Bytes) : Nat := u b 16 6
def atomicCount (b : Bytes) : Nat := u b 24 4

def atomicBad (b : Bytes) (s : State) : Bool :=
  let a := atomicList b
  let n := atomicCount b
  !operandsOk [byteRange 21 16, byteRange 27 24] b || a % 32 != 0 || n == 0 || decide (65536 < n) ||
  ((firstUnreached s a (32 * n)).isNone && !poisoned s a (32 * n) &&
    (List.range n).any (fun i => let op := readNat s (a + 32 * i + 6) 1
                                 op == 0 || decide (13 < op) || readNat s (a + 32 * i + 7) 1 != 0))

/-- FP32 maximum or minimum of two words (Table 8.6). -/
def atomicF (mx : Bool) (a b : Nat) : Nat := if mx then f32Max a b else f32Min a b

def atomicWidth (op : Nat) : Nat := if op = 1 ∨ op = 7 ∨ op = 8 then 4 else 8

/-- Result stored by an operation of Table 8.6. -/
def atomicOp (op old a b : Nat) : Nat :=
  match op with
  | 1 => (old + a) % 2 ^ 32
  | 2 => (old + a) % 2 ^ 64
  | 3 => if signed 64 old < signed 64 a then a else old
  | 4 => if signed 64 a < signed 64 old then a else old
  | 5 => max old a
  | 6 => min old a
  | 7 => atomicF true old (a % 2 ^ 32)
  | 8 => atomicF false old (a % 2 ^ 32)
  | 9 => old &&& a
  | 10 => old ||| a
  | 11 => old ^^^ a
  | 12 => a
  | _ => if old = a then b else old

/-- Entries applied in order from entry `i`; the first that fails ends the command (R153). -/
def atomicGo (c list : Nat) : Nat → Nat → State → State
  | 0, _, s => markDone c s
  | n + 1, i, s =>
    let e := list + 32 * i
    let t := readNat s e 6
    let op := readNat s (e + 6) 1
    let w := atomicWidth op
    if !(inStacked t w || inSpill t w) then failCmd c bSHC 0x0140 0 (captureUnmapped t s)
    else if t % w ≠ 0 then failCmd c bSHC 0x0143 0 s
    else if poisoned s t w then failCmd c bSHC 0x0142 0 s
    else
      let old := readNat s t w
      let new := atomicOp op old (readNat s (e + 8) 8) (readNat s (e + 16) 8)
      let s1 := poke t (leBytes w new) s
      let r := writeMem (e + 24) (leBytes 8 old) s1
      match r.cause with
      | some cause => failCmd c bSHC cause 0 r.s
      | none => atomicGo c list n (i + 1) (addFlags c r.flags r.s)

def atomicRun (c : Nat) (s : State) : State :=
  match runningCmd c .atomic s with
  | none => s
  | some x =>
    let a := atomicList x.bytes
    let n := atomicCount x.bytes
    match firstUnreached s a (32 * n) with
    | some e => failCmd c bSHC (reachCause s e) 0 (captureReach e s)
    | none =>
      if bankHolds a (32 * n) s then s
      else if poisoned s a (32 * n) then failCmd c bSHC 0x0142 0 s
      else atomicGo c a n 0 (touchRead s (a, 32 * n))

/-- ATOMIC. -/
def execAtomic (c : Nat) (s : State) : Host.Outcome State Fault Refusal := .next (atomicRun c s)

/-! ### Accumulator regions (R154 to R157) -/

/-- Die on which region r is homed. -/
def accDie (r : Nat) : Nat := r / 64

/-- Bytes pinned on a die (R157). -/
def accPinned (d : Nat) (s : State) : Nat := s.acc.foldl (fun a g => if accDie g.1 = d then a + 8 * g.2.elements else a) 0

/-- SHC_ACC_OPEN and SHC_Dd_ACCUSED follow the open regions. -/
def showAcc (s : State) : State :=
  let mask (d : Nat) : Nat := s.acc.foldl (fun a g => if accDie g.1 = d then a ||| (1 <<< (g.1 % 64)) else a) 0
  rset R.SHC_D1_ACCUSED (ceilDiv (accPinned 1 s) 1024) (rset R.SHC_D0_ACCUSED (ceilDiv (accPinned 0 s) 1024)
    (rset R.SHC_ACC_OPEN1 (mask 1) (rset R.SHC_ACC_OPEN0 (mask 0) s)))

def accOpenBad (b : Bytes) : Bool :=
  let un := unitAt b 1
  !operandsOk [] b || !onlyBits [byteRange 2 0, byteRange 7 4] un || decide (127 < u un 0 1) || decide (1 < u un 1 1) ||
  u un 2 1 == 128 || u un 4 4 == 0 || decide (2 ^ 28 < u un 4 4)

/-- ACC_OPEN (R154). -/
def accOpenRun (c : Nat) (s : State) : State :=
  match runningCmd c .accOpen s with
  | none => s
  | some x =>
    let un := unitAt x.bytes 1
    let r := u un 0 1
    if (accRegion r s).isSome then failCmd c bSHC 0x0144 0 s
    else if rbits R.SHC_ACC_LIMIT 6 0 s * 2 ^ 20 < accPinned (accDie r) s + 8 * u un 4 4 then failCmd c bSHC 0x0141 0 s
    else
      let g : AccRegion := { int := u un 1 1 == 1, e := signed 8 (u un 2 1), elements := u un 4 4 }
      markDone c (showAcc { s with acc := AL.insert r g s.acc })

def execAccOpen (c : Nat) (s : State) : Host.Outcome State Fault Refusal := .next (accOpenRun c s)

def accCloseRegion (b : Bytes) : Nat := u b 16 1
def accCloseRaw (b : Bytes) : Bool := bitAt (u b 17 1) 1

def accCloseBad (b : Bytes) : Bool :=
  let un := unitAt b 1
  let f := bits (u un 6 1) 4 0
  !operandsOk [byteRange 16 16, (137, 136)] b || decide (127 < accCloseRegion b) ||
  !onlyBits [byteRange 5 0, (52, 48)] un || u un 0 6 % 256 != 0 || (!accCloseRaw b && decide (2 < f))

/-- A region is closing from the start of its ACC_CLOSE; `begun` marks the command that closes it (R156). -/
def accCloseHook (c : Nat) (b : Bytes) (s : State) : State :=
  match accRegion (accCloseRegion b) s with
  | none => s
  | some g =>
    if g.closing then s
    else setProg c 0 { s with acc := AL.insert (accCloseRegion b) { g with closing := true } s.acc }

/-- Elements of a region as they are written out, with the flags of rounding. -/
def accOut (g : AccRegion) (raw : Bool) (fmt : Nat) : List (Nat × Nat) :=
  (List.range g.elements).map (fun i =>
    let n := AL.get 0 i g.sums
    if raw then (n, 0) else encodeElem fmt false .rne 0 false (ofDy (signed 64 n, g.e)))

/-- ACC_CLOSE (R156): the region is read out, and released or, with KEEP, reopened. -/
def accCloseRun (c : Nat) (s : State) : State :=
  match runningCmd c .accClose s with
  | none => s
  | some x =>
    let r := accCloseRegion x.bytes
    let un := unitAt x.bytes 1
    match accRegion r s with
    | none => failCmd c bSHC 0x0144 0 s
    | some g =>
      if !x.begun then failCmd c bSHC 0x0144 0 s
      else if !g.bad.isEmpty then failCmd c bSHC 0x0142 0 { s with acc := AL.insert r { g with closing := false } s.acc }
      else
        let raw := accCloseRaw x.bytes
        let fmt := bits (u un 6 1) 4 0
        let out := accOut g raw fmt
        let w := writeMem (u un 0 6) (out.flatMap (fun v => leBytes (if raw then 8 else fmtBits fmt / 8) v.1)) s
        let keep : State → State := fun t => { t with acc := AL.insert r { g with closing := false } t.acc }
        match w.cause with
        | some cause => failCmd c bSHC cause 0 (keep w.s)
        | none =>
          let t := addFlags c ((out.foldl (fun a v => a ||| v.2) 0) ||| w.flags) w.s
          markDone c (showAcc (if bitAt (u x.bytes 17 1) 0 then keep t else { t with acc := AL.erase r t.acc }))

def execAccClose (c : Nat) (s : State) : Host.Outcome State Fault Refusal := .next (accCloseRun c s)

end Sys2Proof.Machine
end

