-- ==== Sys2Proof/Machine/Attn.lean ====
section
/-! DEFINITION. Block attention (chapter 06): descriptors and masks, the running state of a row, edge rows, the forward
walk, merging, the backward passes, and the commands ATTN_FWD, ATTN_BWD, ATTN_MERGE and ATT_BATON_TIMEOUT. -/

namespace Sys2Proof.Machine

/-! ### Malformed descriptors (R101, R102) -/

/-- The formats of R112. -/
def attnFmt (f : Nat) : Bool := decide (f ≤ 8) || f == 11 || f == 12

def adBits (b : Bytes) : Bool :=
  onlyBits [(4, 0), (9, 8), byteRange 3 2, byteRange 19 4, (171, 160), (187, 176), byteRange 27 24, (235, 224),
    byteRange 55 30, (452, 448), (460, 456)] b

/-- GLIST as memory holds it. -/
def readGlist (a : AD) (s : State) : List Nat :=
  if a.glob then (List.range a.nGlobal).map (fun i => readNat s (a.glist + 4 * i) 4) else []

/-- Strictly ascending, all below `n`. -/
def ascendingBelow (n : Nat) : List Nat → Bool
  | [] => true
  | [x] => decide (x < n)
  | x :: y :: t => decide (x < y) && ascendingBelow n (y :: t)

/-- GLIST is checked when it can be read; else the command fails when it runs. -/
def glistBad (a : AD) (s : State) : Bool :=
  let len := 4 * (if a.glob then a.nGlobal else 0)
  (firstUnreached s a.glist len).isNone && !poisoned s a.glist len && !ascendingBelow a.len (readGlist a s)

/-- The rules of R102 on the descriptor. -/
def adBad (raw : Bytes) (s : State) : Bool :=
  let a := AD.parse raw
  let fin := match f32 a.scale with | .fin _ m _ => m != 0 | _ => false
  !adBits raw || decide (1 < bits (u raw 0 1) 1 0) || a.hdCode == 3 || a.group == 0 || decide (16 < a.group) ||
  a.kvHeads == 0 || decide (64 < a.kvHeads) || a.shard % 64 != 0 || a.shard == 0 || !fin ||
  (a.window && (a.win == 0 || decide (65536 < a.win))) || a.g == 0 || decide (64 < a.g) || decide (a.g ≤ a.ringPos) ||
  decide (a.g ≤ a.legFirst) || a.legCount == 0 || decide (a.g < a.legFirst + a.legCount) ||
  (a.glob && decide (256 < a.nGlobal)) || a.rb0 % 4096 != 0 || a.rb1 % 4096 != 0 || !attnFmt a.kFmt || !attnFmt a.vFmt ||
  decide (256 < a.hq) || decide (16 < a.group * a.hd / 64) || decide (4194304 < a.len) || glistBad a s

/-- A full tensor descriptor of N rows and HQ × HD columns without TRANSPOSE and QUANT (R101). -/
def attnTdBad (rows cols : Nat) (ok : Nat → Bool) (raw : Bytes) : Bool :=
  let t := TD.parse raw
  tdBad false raw || t.rows != rows || t.cols != cols || t.trans || t.quant || !ok t.fmt || (isBlockFmt t.fmt && t.axis)

/-- A descriptor of which only BASE is used. -/
def baseBad (raw : Bytes) : Bool := (TD.parse raw).base % 256 != 0

/-- A rounding unit of an attention command: RNE or RTZ. -/
def attnRuBad (raw : Bytes) : Bool := runitBad true raw || (RUnit.parse raw).mode == 2

def attnFwdBad (b : Bytes) (s : State) : Bool :=
  let a := adOf b
  !operandsOk [(133, 128), byteRange 17 17] b || coreGroupBad b || adBad (slice b 32 64) s ||
  attnTdBad a.n (a.hq * a.hd) attnFmt (unitAt b 3) || baseBad (unitAt b 4) ||
  attnTdBad a.n (a.hq * a.hd) attnFmt (unitAt b 5) || baseBad (unitAt b 6) || baseBad (unitAt b 7) || attnRuBad (unitAt b 8)

def attnBwdBad (b : Bytes) (s : State) : Bool :=
  let a := adOf b
  let td (i : Nat) (ok : Nat → Bool) : Bool := attnTdBad a.n (a.hq * a.hd) ok (unitAt b i)
  !operandsOk [(133, 128), byteRange 17 17, byteRange 18 18] b || decide (2 < u b 18 1) || coreGroupBad b ||
  adBad (slice b 32 64) s || !is16 a.kFmt || !is16 a.vFmt || td 3 is16 || td 4 is16 || td 5 is16 ||
  td 9 (fun f => decide (f ≤ 2)) || baseBad (unitAt b 6) || baseBad (unitAt b 7) || baseBad (unitAt b 8) ||
  baseBad (unitAt b 10) || attnRuBad (unitAt b 11)

def attnMergeBad (b : Bytes) : Bool :=
  let raw := unitAt b 1
  let m := MU.parse raw
  !operandsOk [(133, 128), byteRange 17 17] b || coreGroupBad b ||
  !onlyBits [byteRange 5 0, byteRange 15 8, byteRange 16 16, (137, 136), byteRange 23 18] raw ||
  m.planes % 256 != 0 || m.stride % 256 != 0 || m.n == 0 || decide (64 < m.n) || m.hdCode == 3 || m.hq == 0 ||
  decide (256 < m.hq) || m.rows == 0 || decide (16777216 < m.rows) ||
  attnTdBad m.rows (m.hq * m.hd) attnFmt (unitAt b 2) || baseBad (unitAt b 3) || attnRuBad (unitAt b 4)

/-! ### Arithmetic of the sequencer (R108, R112, R113) -/

/-- FP32 sum of products as an array forms it over k-blocks of 32 (R68): operands with their tensors. -/
def arrayDot (k : PairKind) (ta tb : TD) (ovf : Nat) (acc : Acc) (xs : List (Opnd × Opnd)) : Nat → Acc
  | 0 => acc
  | n + 1 => accBlock k ta tb ovf n (arrayDot k ta tb ovf acc xs n) ((xs.drop (32 * n)).take 32)

/-- How queries and keys pair (R112): keys that the query's format holds exactly, scale apart, multiply exactly; every other
pair is used as stored, at its rate of Table 4.2. -/
def scoreKind (fq fk : Nat) : PairKind := (pairKind fq fk).getD .wide

def opndRow (s : State) (t : TD) (r c0 n : Nat) : List Opnd := (List.range n).map (fun c => operandAt s t (r, c0 + c))

def opndCol (s : State) (t : TD) (c n : Nat) : List Opnd := (List.range n).map (fun r => operandAt s t (r, c))

/-- Dot product of a row of the query side, in memory, and a key row, in `sk`, over HD. A sum beyond FP32 follows the OVF
field of the command's rounding unit (R68), in both arrays. -/
def headDot (ovf : Nat) (s sk : State) (tq : TD) (tk : TD) (r c0 j hd : Nat) : Acc :=
  arrayDot (scoreKind tq.fmt tk.fmt) tq tk ovf {} ((opndRow s tq r c0 hd).zip (opndRow sk tk j 0 hd)) (hd / 32)

/-- Format in which P enters array B (R113). -/
def pFmt (v : Nat) : Nat := if v = 0 ∨ v = 11 ∨ v = 12 then 0 else 1

/-- A word rounded to BF16, as an FP32 word and as an operand code of format f, with the flags of the rounding. -/
def toP (f w : Nat) : Nat × Nat := if f = 0 then (w, 0) else encodeElem 1 false .rne 0 false (f32 w)

/-- A running row (R107): output accumulators, maximum, sum, kind. -/
structure Row where
  o   : List Nat := []
  m   : Nat := 0xFF800000
  l   : Nat := 0
  nan : Bool := false
  deriving DecidableEq, Repr, Inhabited

def emptyRow (hd : Nat) : Row := { o := List.replicate hd 0 }

def isPosInf (w : Nat) : Bool := w == 0x7F800000
def isNegInf (w : Nat) : Bool := w == 0xFF800000

/-- a > b as FP32 values; false with NaN. -/
def f32Gt (a b : Nat) : Bool := (f32 b).lt (f32 a)

/-- Values accumulated one by one into a cell: left code of format f and right operand. -/
def accPairs (ovf f : Nat) (tv : TD) (acc : Nat) (xs : List (Nat × Opnd)) : Acc :=
  let k : PairKind := if f = 0 then .wide else (pairKind 1 tv.fmt).getD .wide
  xs.foldl (fun a x => a.add ovf 0 (product k { fmt := f } tv ovf (x.1, 127) x.2)) { w := acc }

/-- Words with the flags that came with them: the words, and the flags together. -/
def gather (l : List (Nat × Nat)) : List Nat × Nat := (l.map (·.1), l.foldl (fun f x => f ||| x.2) 0)

/-- exp of a difference, with the flags of the subtraction. -/
def expDiff (a b : Nat) : Nat × Nat := let d := f32Add a (f32Neg b); (exp32 d.1, d.2)

/-- Weight p[j] of a score when the running maximum is m (R108). -/
def weightOf (m x : Nat) : Nat × Nat :=
  if isPosInf m then (if isPosInf x then 0x3F800000 else 0, 0) else if isNegInf m then (0, 0) else expDiff x m

/-- The update of one row by a computed key block (R108): `ss` are the scores of its visible columns. -/
def rowUpdate (ovf : Nat) (s : State) (vt : TD) (r : Row) (ss : List (Nat × Nat)) : Row × Nat :=
  let mb := ss.foldl (fun a x => f32Max a x.2) 0xFF800000
  let mnew := f32Max r.m mb
  let up := f32Gt mnew r.m
  let (alpha, f0) := if !up || isNegInf r.m || isPosInf mnew then (0, 0) else expDiff r.m mnew
  let (o1, f1) := if up then gather (r.o.map (fun x => f32Mul alpha x)) else (r.o, 0)
  let (l1, f2) := if up then f32Mul alpha r.l else (r.l, 0)
  let m := if up then mnew else r.m
  let ps := ss.map (fun x => (x.1, weightOf m x.2))
  let (l2, f3) := ps.foldl (fun a p => let y := f32Add a.1 p.2.1; (y.1, a.2 ||| p.2.2 ||| y.2)) (l1, 0)
  let f := pFmt vt.fmt
  let o2 := o1.zipIdx.map (fun x => accPairs ovf f vt x.1 (ps.map (fun p => ((toP f p.2.1).1, operandAt s vt (p.1, x.2)))))
  ({ o := o2.map (·.w), m := m, l := l2, nan := r.nan || ss.any (fun x => (f32 x.2).isNan) },
   o2.foldl (fun a x => a ||| x.flags) (f0 ||| f1 ||| f2 ||| f3))

/-! ### The run of a command -/

/-- The run of a unit: the state, memory as its pieces show it (R185), sticky flags, and the failure that ends it with its core. -/
structure ARun where
  s     : State
  v     : State
  flags : Nat := 0
  cause : Option (Nat × Nat) := none

/-- Data that cannot be read ends the run: unmapped (R141), or uncorrectable (R122). -/
def ARun.reads (r : ARun) (core bad : Nat) (ranges : List (Nat × Nat)) : ARun :=
  match r.cause with
  | some _ => r
  | none =>
    match ranges.findSome? (fun x => firstUnreached r.v x.1 x.2) with
    | some a => { r with s := captureReach a r.s, cause := some (reachCause r.v a, core) }
    | none => if ranges.any (fun x => poisoned r.v x.1 x.2) then { r with cause := some (bad, core) } else r

def ARun.flag (r : ARun) (f : Nat) : ARun := { r with flags := r.flags ||| f }

/-- A write of the run. -/
def ARun.wrote (r : ARun) (core : Nat) (w : Wrote) : ARun :=
  { r with s := w.s, flags := r.flags ||| w.flags, cause := r.cause <|> w.cause.map (fun c => (c, core)) }

def ARun.write (r : ARun) (core a : Nat) (b : Bytes) : ARun :=
  if r.cause.isSome then r else r.wrote core (writeMem a b r.s)

/-- Bytes of a row's elements in a tensor are touched: address ranges by element. -/
def rowRanges (t : TD) (r c0 n : Nat) : List (Nat × Nat) :=
  (List.range ((n + 31) / 32)).flatMap (fun i =>
    let (a, b) := t.elemAddr (fmtBits t.fmt) r (c0 + 32 * i)
    (a, (b + 32 * fmtBits t.fmt + 7) / 8) :: (if isBlockFmt t.fmt then [(t.scaleAddr r (c0 + 32 * i), 1)] else []))

/-- Storage of a tile. -/
def tileRange (t : TD) : List (Nat × Nat) := t.ranges

/-- Flags of Table 2.8 for edge rows. -/
def flagEmptyRow : Nat := 8
def flagInfiniteRow : Nat := 16

/-- An edge row is counted, flagged and captured (R111, Table 6.8). -/
def edgeRow (n q leg pass t h kind : Nat) (s : State) : State :=
  let cnt := if kind = 1 then R.ATT_Cnn_EMPTY n else R.ATT_Cnn_INF n
  let s1 := rcountSat cnt s
  if rbit (R.ATT_Cnn_EXC n) 63 s1 then s1
  else
    snapOn R.ATT_CTL (kind - 1) 5 bATT
      (rset (R.ATT_Cnn_EXC n) (t % 2 ^ 24 + (h <<< 24) + (kind <<< 32) + (leg <<< 34) + (pass <<< 40) + (q <<< 56) + 2 ^ 63) s1)

/-- Case of a row at finalisation (Table 6.5): 3 NaN, 1 empty, 2 infinite, 0 otherwise. -/
def Row.kind (r : Row) : Nat :=
  if r.nan then 3 else if (f32 r.l).isZero then 1 else if isPosInf r.m then 2 else 0

/-- KCOUNT of a row: the sum counts infinite entries exactly. -/
def Row.kcount (r : Row) : Nat := match f32 r.l with | .fin _ m e => (floorScaled m 1 e).1 % 2 ^ 24 | _ => 0

/-- Output words and the LSE word of a row, with flags (R110, R111). -/
def Row.final (r : Row) : List Nat × Nat × Nat :=
  match r.kind with
  | 3 => (r.o.map (fun _ => 0x7FC00000), 0x7FC00000, 0)
  | 1 => (r.o.map (fun _ => 0), 0xFF800000, 0)
  | 2 => let o := gather (r.o.map (fun x => f32Div x r.l)); (o.1, 0x7F800000, o.2)
  | _ =>
    let o := gather (r.o.map (fun x => f32Div x r.l))
    let l := f32Add r.m (ln32 r.l)
    (o.1, l.1, o.2 ||| l.2)

/-- Rows are finalised: edge flags, O, LSE (R110, R111). Rows come as (t, h, row), heads before rows. -/
def finaliseRows (n q leg : Nat) (hd hq : Nat) (tOut : TD) (ru : RUnit) (lse : Nat) (rows : List (Nat × Nat × Row)) (r : ARun) : ARun :=
  if r.cause.isSome then r
  else
    let s1 := rows.foldl (fun s x =>
      let k := x.2.2.kind
      if k = 1 ∨ k = 2 then edgeRow n q leg 0 x.1 x.2.1 k s else s) r.s
    let fl := rows.foldl (fun a x => a ||| (match x.2.2.kind with | 1 => flagEmptyRow | 2 => flagInfiniteRow | _ => 0) ||| x.2.2.final.2.2) 0
    let cells := rows.flatMap (fun x => x.2.2.final.1.zipIdx.map (fun o =>
      ({ r := x.1, c := x.2.1 * hd + o.2, v := f32 o.1, mode := ru.rmode 0 0 } : Cell)))
    let st := tOut.store ru.ovf cells
    let w := st.write s1
    let r1 := ARun.wrote { r with flags := r.flags ||| fl ||| st.allFlags } n w
    rows.foldl (fun r x =>
      let k := x.2.2.kind
      r.write n (lse + 8 * (x.1 * hq + x.2.1))
        (leBytes 4 x.2.2.final.2.1 ++ leBytes 4 (k + ((if k = 2 then x.2.2.kcount else 0) <<< 8)))) r1

def Row.record (r : Row) : Bytes :=
  r.o.flatMap (leBytes 4) ++ leBytes 4 r.m ++ leBytes 4 r.l ++ leBytes 4 (if r.nan then 3 else 0) ++ leBytes 4 0

def readRow (s : State) (a hd : Nat) : Row :=
  { o := (List.range hd).map (fun c => readNat s (a + 4 * c) 4), m := readNat s (a + 4 * hd) 4,
    l := readNat s (a + 4 * hd + 4) 4, nan := bits (readNat s (a + 4 * hd + 8) 1) 1 0 == 3 }

/-- What every unit of a command knows: the command, its queue and units, and the core at work. -/
structure AEnv where
  c    : Nat
  q    : Nat
  b    : Bytes
  a    : AD
  gl   : List Nat
  n    : Nat

/-- First INVALID of a score tile is captured (R84, R391). -/
def captureScores (n qb kb q : Nat) (accs : List Acc) (s : State) : State :=
  match accs.foldl (fun m x => minOpt m x.inv) none with
  | none => s
  | some k => captureInvalid n qb kb k false q s

/-- Scores of a row's visible columns: (column, scaled score), with the dots they come from. -/
def rowScores (ovf : Nat) (s sk : State) (a : AD) (tq tk : TD) (t h : Nat) (vis : List Nat) : List (Nat × Nat) × List Acc × Nat :=
  let ds := vis.map (fun j => headDot ovf s sk tq tk t (h * a.hd) j a.hd)
  let ss := ds.map (fun x => f32Mul a.scale x.w)
  (vis.zip (ss.map (·.1)), ds, (ds.foldl (fun f x => f ||| x.flags) 0) ||| (ss.foldl (fun f x => f ||| x.2) 0))

/-- A computed key block updates a unit's rows (R108): one score tile a head (R391). -/
def fwdBlock (e : AEnv) (qb g kb : Nat) (p : KvPlace) (vis : List (List Nat)) (rr : List Row × ARun) : List Row × ARun :=
  let (rows, r) := rr
  let tq := TD.parse (unitAt e.b 3)
  let ovf := (RUnit.parse (unitAt e.b 8)).ovf
  let r := r.reads e.n 0x0120 (p.k.ranges ++ p.v.ranges)
  if r.cause.isSome then (rows, r)
  else
    let outs := ((e.a.unitRows qb g).zip rows).map (fun x =>
      let v := (vis[x.1.1 - 64 * qb]?).getD []
      let (ss, ds, f) := rowScores ovf r.v r.v e.a tq p.k x.1.1 x.1.2 v
      if v.isEmpty then (x.2, ([] : List Acc), 0)
      else let (y, f2) := rowUpdate ovf r.v p.v x.2 ss; (y, ds, f ||| f2))
    let s1 := (List.range e.a.group).foldl (fun s i =>
      captureScores e.n qb kb e.q (((outs.drop (64 * i)).take 64).flatMap (fun o => o.2.1)) s) r.s
    (outs.map (·.1), ({ r with s := s1 } : ARun).flag (outs.foldl (fun a o => a ||| (o.2.2 % 4)) 0))

/-- The walk of one buffer by one unit: skipped blocks are counted, the others computed, ascending. -/
def fwdBuffer (e : AEnv) (qb g l : Nat) (fromGkv : Bool) (base nkb : Nat) (rr : List Row × ARun) : List Row × ARun :=
  (List.range nkb).foldl (fun rr kb =>
    let vis := e.a.visible e.gl fromGkv l qb kb
    if anyVisible vis then fwdBlock e qb g kb (e.a.place false base kb g) vis rr
    else (rr.1, { rr.2 with s := rcount (R.ATT_Cnn_SKIP e.n) rr.2.s })) rr

/-- Does a unit read pieces of a port? -/
def AUnit.uses (x : AUnit) (p : Nat) : Bool := x.pieces.any (fun y => y.port == p)

/-- One unit in one leg of the forward walk (R107). -/
def fwdUnit (e : AEnv) (x : AUnit) (r : ARun) : ARun :=
  let a := e.a
  let l := x.leg
  let qb := x.idx / a.kvHeads
  let g := x.idx % a.kvHeads
  let tq := TD.parse (unitAt e.b 3)
  let stb := (TD.parse (unitAt e.b 6)).base
  let pl := a.unitRows qb g
  let r := if x.uses 0 then r.reads e.n 0x0120 (pl.flatMap (fun x => rowRanges tq x.1 (x.2 * a.hd) a.hd)) else r
  let r := if l = 0 then r else r.reads e.n 0x0120 (pl.map (fun x => (stateAddr stb a.hd a.hq x.1 x.2, 4 * a.hd + 16)))
  if r.cause.isSome then r
  else
    let rows := pl.map (fun x => if l = 0 then emptyRow a.hd else readRow r.v (stateAddr stb a.hd a.hq x.1 x.2) a.hd)
    let rr := if l = 0 then fwdBuffer e qb g l true a.gkv a.gblocks (rows, r) else (rows, r)
    let (rows, r) := fwdBuffer e qb g l false (a.buffer (TD.parse (unitAt e.b 4)).base l) a.nkb rr
    if r.cause.isSome then r
    else if l + 1 = a.g then
      finaliseRows e.n e.q l a.hd a.hq (TD.parse (unitAt e.b 5)) (RUnit.parse (unitAt e.b 8)) (TD.parse (unitAt e.b 7)).base
        ((pl.zip rows).map (fun x => (x.1.1, x.1.2, x.2))) r
    else (pl.zip rows).foldl (fun r x => r.write e.n (stateAddr stb a.hd a.hq x.1.1 x.1.2) x.2.record) r

/-! ### The shares of a command on their cores (R64, R107, R115, R119, R120, R122) -/

/-- What a failed attention command leaves undefined when leg l is in progress (R122). -/
def attnSpoil (b : Bytes) (l : Nat) : List (Nat × Nat) :=
  let a := adOf b
  let td (i : Nat) : TD := TD.parse (unitAt b i)
  match opOfBytes b with
  | some .attnFwd =>
    [((td 6).base, a.n * a.hq * (4 * a.hd + 16))] ++
    (if l + 1 = a.g then (td 5).ranges ++ [((td 7).base, 8 * a.n * a.hq)] else [])
  | some .attnBwd =>
    let carries (base n : Nat) : List (Nat × Nat) :=
      (List.range (n * a.kvHeads)).map (fun i => ((a.place true base (i / a.kvHeads) (i % a.kvHeads)).dk, 512 * a.hd))
    [((td 10).base, a.n * a.hq * (4 * a.hd + 16))] ++ (td 9).ranges ++ carries (a.buffer (td 8).base l) a.nkb ++
    (if l = 0 then carries a.gkv a.gblocks else [])
  | some .attnMerge => let m := MU.parse (unitAt b 1); (td 2).ranges ++ [((td 3).base, 8 * m.rows * m.hq)]
  | _ => (td 5).ranges ++ [((td 6).base, 8 * (td 5).rows * ((td 5).cols / 64))]

/-- The core's failure is the command's: its cores are free, and what R122 names is undefined. -/
def attnFail (x : Started) (l cause n : Nat) (s : State) : State :=
  failCmd x.id bATT cause n (leaveCores x.id x.bytes ((attnSpoil x.bytes l).foldl forgetAt s))

/-- The j-th core of the group receives its units. -/
def dealUnits (x : Started) (s : State) (j : Nat) : State :=
  let us := attnUnits x j s
  if us.isEmpty then s
  else
    let n := firstCore x.bytes + j
    let k := corex n s
    setCorex n { k with ready := k.ready ++ [{ c := x.id, q := x.q, bwd := decide (8 ≤ x.q), units := us,
                                               tilesA := (List.range us.length).map (fun i => (i, 0)) }] } s

/-- An attention command begins: its units are dealt to its cores (R107). -/
def dealAttn (x : Started) (s : State) : State :=
  let a := adOf x.bytes
  let outs := match opOfBytes x.bytes with
    | some .attnFwd | some .attnBwd => distinct (a.legs.flatMap (attnSpoil x.bytes))
    | _ => attnSpoil x.bytes 0
  (List.range (coreCount x.bytes)).foldl (dealUnits x) (updStarted x.id (fun y => { y with begun := true, prog := 0, outs := outs }) s)

/-- Is the next unit of core n's share of command x read to its end, its tiles checked, and nothing held by a snapshot or Holdfast? -/
def unitDone (x : Started) (n : Nat) (s : State) : Option (Share × Nat) :=
  match (corex n s).run with
  | none => none
  | some h =>
    match h.tilesA with
    | [] => none
    | t :: _ =>
      let k := corex n s
      let w := coreWalk h x.bytes n
      if h.c == x.id && tileDone w h false t && !k.onceA && !k.onceB && s.snap.frozen.isEmpty && !inHoldfast s &&
          (((h.units[t.1]?).getD {}).pass % 3 == 0 || deltaDone x.id s) then some (h, t.1) else none

/-- The share that core n holds of command c, started or not. -/
def heldShare (c : Nat) (k : CoreX) : Option Share := (k.ready ++ k.queued ++ k.run.toList).find? (fun h => h.c == c)

/-- Legs that every core of a command has passed (R115). -/
def legsPassed (x : Started) (s : State) : Nat :=
  let a := adOf x.bytes
  (coresOf x.bytes).foldl (fun m n =>
    match heldShare x.id (corex n s) with
    | none => m
    | some h => (match h.tilesA with | [] => m | t :: _ => min m (((h.units[t.1]?).getD {}).leg - a.legFirst))) a.legCount

/-- Has the key pass of leg l written the carry of block kb, head g (R120)? -/
def carryDone (x : Started) (l i : Nat) (s : State) : Bool :=
  match heldShare x.id (corex (firstCore x.bytes + i % coreCount x.bytes) s) with
  | none => true
  | some h => !h.tilesA.any (fun t =>
      let v := (h.units[t.1]?).getD {}
      v.pass == 2 && v.leg == l && v.idx == i && !v.gkv)

/-- Batons of leg l, in order, whose carry is final (R120). -/
def finalBatons (x : Started) (l : Nat) (s : State) : Nat :=
  let a := adOf x.bytes
  ((List.range (a.batons true)).takeWhile (fun b =>
    (List.range (a.nkb * a.kvHeads)).all (fun i =>
      let d := (a.place true 0 (i / a.kvHeads) (i % a.kvHeads)).dk
      !(decide (d < (b + 1) * 2 ^ 20) && decide (b * 2 ^ 20 < d + 512 * a.hd)) || carryDone x l i s))).length

/-- Final batons of all legs of an ATTN_BWD with a key pass. -/
def carryCount (x : Started) (s : State) : Nat :=
  if opOfBytes x.bytes = some .attnBwd ∧ u x.bytes 18 1 ≠ 0 then
    (adOf x.bytes).legs.foldl (fun m l => m + finalBatons x l s) 0
  else 0

/-- Adds to a marker. -/
def markerIncs (m k : Nat) (s : State) : State := (List.range k).foldl (fun t _ => markerInc m 1 t) s

/-- The adds to FREE_MARKER and CARRY_MARKER after a unit: `had` final batons stood before it (R115, R120). -/
def legAdds (x : Started) (had : Nat) (s : State) : State :=
  let a := adOf x.bytes
  if opOfBytes x.bytes = some .attnFwd ∨ opOfBytes x.bytes = some .attnBwd then
    let p := legsPassed x s
    let was := ((startedAt x.id s).map (·.prog)).getD 0
    let t := setProg x.id p (markerIncs a.carry (carryCount x s - had) s)
    markerIncs a.free (((List.range p).drop was).filter (fun i => a.legFirst + i != 0)).length t
  else s

/-- What the units of a command do. -/
abbrev UnitRun := Started → Nat → AUnit → ARun → ARun

/-- Unit k of core n's share is complete. -/
def finishUnit (run : UnitRun) (x : Started) (n : Nat) (h : Share) (k : Nat) (s : State) : State :=
  let un := (h.units[k]?).getD {}
  let r := run x n un { s := s, v := viewUnit n h x.bytes k s }
  let t := addFlags x.id r.flags r.s
  match r.cause with
  | some (cause, m) => attnFail x un.leg cause m t
  | none =>
    let had := carryCount x t
    let h' := h.without false
    let t := forgetPieces n h' x.bytes (setCorex n { corex n t with run := some h' } t)
    legAdds x had (if h'.tilesA.isEmpty then leaveCore x.id (showStreams n t) n else advance n t)

/-- The units of core n that stand read are completed in order. -/
def finishUnits (run : UnitRun) (x : Started) (n : Nat) : Nat → State → State
  | 0, s => s
  | f + 1, s =>
    match unitDone x n s with
    | none => s
    | some (h, k) => finishUnits run x n f (finishUnit run x n h k s)

/-- A command whose cores have all finished is done. -/
def attnSettle (x : Started) (s : State) : State :=
  match startedAt x.id s with
  | none => s
  | some y => if y.state == .running && (coresOf x.bytes).all (fun n => (heldShare x.id (corex n s)).isNone) then markDone x.id s else s

/-- An attention command goes on: its units are dealt, or completed on the cores that have read them. -/
def attnRun (op : Op) (begin' : Started → State → State) (run : UnitRun) (c : Nat) (s : State) : State :=
  match runningCmd c op s with
  | none => s
  | some x =>
    if !x.begun then begin' x s
    else
      attnSettle x ((coresOf x.bytes).foldl (fun t n =>
        finishUnits run x n (match (corex n t).run with | none => 0 | some h => h.tilesA.length) (advance n t)) s)

/-- What every unit of a ring command knows. -/
def attnEnv (x : Started) (n : Nat) : AEnv := { c := x.id, q := x.q, b := x.bytes, a := adOf x.bytes, gl := glistOf x, n := n }

/-- Bytes of GLIST that a command reads at its start. -/
def glistLen (b : Bytes) : Nat := if (adOf b).glob then 4 * (adOf b).nGlobal else 0

/-- The start of a ring command: GLIST is read (R104). -/
def attnStart (c : Nat) (b : Bytes) (s : State) : State :=
  let a := (adOf b).glist
  if (firstUnreached s a (glistLen b)).isSome || poisoned s a (glistLen b) then s
  else updStarted c (fun x => { x with image := readBytes s a (glistLen b) }) (touchRead s (a, glistLen b))

/-- A ring command begins, or fails for want of GLIST (R141, R122). -/
def ringBegin (x : Started) (s : State) : State :=
  if x.image.length = glistLen x.bytes then dealAttn x s
  else
    let a := (adOf x.bytes).glist
    match firstUnreached s a (glistLen x.bytes) with
    | some e => failCmd x.id bATT (reachCause s e) (firstCore x.bytes) (captureReach e s)
    | none => failCmd x.id bATT 0x0120 (firstCore x.bytes) s

/-- ATTN_FWD (R107). -/
def execAttnFwd (c : Nat) (s : State) : Host.Outcome State Fault Refusal :=
  .next (attnRun .attnFwd ringBegin (fun x n un r => fwdUnit (attnEnv x n) un r) c s)

/-- ATT_BATON_TIMEOUT: a core has waited ATT_WTO cycles on a baton (R115). -/
def attBatonTimeout (n : Nat) (s : State) : State :=
  match waitsBaton n s with
  | none => s
  | some c =>
    if rget R.ATT_WTO s = 0 then s
    else
      match startedAt c s with
      | none => s
      | some x => attnFail x (rbits (R.ATT_Cnn_STAT n) 13 8 s) 0x0121 n s

def execAttBatonTimeout (n : Core) (s : State) : Host.Outcome State Fault Refusal := .next (attBatonTimeout n.val s)

/-! ### ATTN_MERGE (R118) -/

/-- Weight of a state with maximum m when the larger maximum is m'. -/
def mergeWeight (m m' : Nat) : Nat × Nat :=
  if isPosInf m' then (if isPosInf m then 0x3F800000 else 0, 0)
  else if isNegInf m then (0, 0)
  else expDiff m m'

/-- One plane folded into a row with flags; `kind` is the plane's KIND. -/
def mergeFold (r : Row) (kind : Nat) (p : Row) : Row × Nat :=
  if r.nan || kind == 3 then ({ r with nan := true }, 0)
  else if kind = 1 then (r, 0)
  else
    let m' := f32Max r.m p.m
    let w := mergeWeight r.m m'
    let wp := mergeWeight p.m m'
    let mix (a b : Nat) : Nat × Nat :=
      let x := f32Mul a w.1
      let y := f32Mul b wp.1
      let z := f32Add x.1 y.1
      (z.1, x.2 ||| y.2 ||| z.2)
    let o := gather ((r.o.zip p.o).map (fun x => mix x.1 x.2))
    let l := mix r.l p.l
    ({ o := o.1, l := l.1, m := m', nan := false }, w.2 ||| wp.2 ||| o.2 ||| l.2)

/-- The planes of a row, plane 0 first. -/
def mergeRow (s : State) (m : MU) (t h : Nat) : Row × Nat :=
  (List.range m.n).foldl (fun (a : Row × Nat) p =>
    let ad := stateAddr (m.planes + p * m.stride) m.hd m.hq t h
    let y := mergeFold a.1 (bits (readNat s (ad + 4 * m.hd + 8) 1) 1 0) (readRow s ad m.hd)
    (y.1, a.2 ||| y.2)) (emptyRow m.hd, 0)

/-- A block of up to 64 rows is merged and finalised. -/
def mergeUnit (x : Started) (n : Nat) (un : AUnit) (r : ARun) : ARun :=
  let m := MU.parse (unitAt x.bytes 1)
  let i := un.idx
  let pl := (List.range m.hq).flatMap (fun h => (List.range (min 64 (m.rows - 64 * i))).map (fun k => (64 * i + k, h)))
  let r := r.reads n 0x0120 ((List.range m.n).flatMap (fun p =>
    pl.map (fun y => (stateAddr (m.planes + p * m.stride) m.hd m.hq y.1 y.2, 4 * m.hd + 16))))
  if r.cause.isSome then r
  else
    let rows := pl.map (fun y => (y.1, y.2, mergeRow r.v m y.1 y.2))
    finaliseRows n x.q 0 m.hd m.hq (TD.parse (unitAt x.bytes 2)) (RUnit.parse (unitAt x.bytes 4)) (TD.parse (unitAt x.bytes 3)).base
      (rows.map (fun y => (y.1, y.2.1, y.2.2.1))) (r.flag ((rows.foldl (fun f y => f ||| y.2.2.2) 0) % 4))

/-- ATTN_MERGE (R118). A failure leaves O and LSE undefined, as R122 gives for outputs of a last leg. -/
def execAttnMerge (c : Nat) (s : State) : Host.Outcome State Fault Refusal := .next (attnRun .attnMerge dealAttn mergeUnit c s)

/-! ### The backward passes (R119 to R121) -/

/-- LSE record of a row: LSE word, KIND, KCOUNT. -/
def lseOf (s : State) (base hq t h : Nat) : Nat × Nat × Nat :=
  let a := base + 8 * (t * hq + h)
  let i := readNat s (a + 4) 4
  (readNat s a 4, i % 4, i / 256)

def wordAt (s : State) (t : TD) (r c : Nat) : Nat × Nat := widen 0 (t.value s r c)

/-- D of a row, with flags. -/
def deltaOf (s : State) (tdo tOut : TD) (t h hd : Nat) : Nat × Nat :=
  (List.range hd).foldl (fun a c =>
    let y := f32Fma (wordAt s tdo t (h * hd + c)).1 (wordAt s tOut t (h * hd + c)).1 a.1
    (y.1, a.2 ||| y.2)) (0, 0)

/-- D of the rows of a unit is formed (R119). -/
def deltaUnit (e : AEnv) (x : AUnit) (r : ARun) : ARun :=
  let a := e.a
  let tdo := TD.parse (unitAt e.b 4)
  let tOut := TD.parse (unitAt e.b 5)
  let db := (TD.parse (unitAt e.b 7)).base
  (a.unitRows (x.idx / a.kvHeads) (x.idx % a.kvHeads)).foldl (fun r x =>
    let r := r.reads e.n 0x0120 (rowRanges tdo x.1 (x.2 * a.hd) a.hd ++ rowRanges tOut x.1 (x.2 * a.hd) a.hd)
    if r.cause.isSome then r
    else
      let d := deltaOf r.v tdo tOut x.1 x.2 a.hd
      (r.flag (d.2 % 4)).write e.n (deltaAddr db a.hq x.1 x.2) (leBytes 4 d.1)) r

/-- P and dS of a visible entry as BF16 codes, by the row's KIND (R119, R121); none adds nothing. -/
structure BwdEntry where
  j  : Nat
  p  : Option Nat
  ds : Option Nat
  deriving DecidableEq, Repr, Inhabited

/-- What array A and the lanes form of a row in a block: its entries, the accumulations of S and of dP, and flags. -/
structure BwdRow where
  es    : List BwdEntry := []
  ss    : List Acc := []
  dps   : List Acc := []
  flags : Nat := 0

/-- P and dS of an entry of a normal row, with flags (R119); the rounding of P sets none (R113). -/
def bwdEntry (scale lse d j sc dp : Nat) : BwdEntry × Nat :=
  let p := expDiff sc lse
  let x := f32Mul scale p.1
  let y := f32Add dp (f32Neg d)
  let z := f32Mul x.1 y.1
  let w := toP 1 z.1
  ({ j := j, p := some (toP 1 p.1).1, ds := some w.1 }, p.2 ||| x.2 ||| y.2 ||| z.2 ||| w.2)

/-- A row in a computed block: array A forms S and dP of the entries it sees, whatever its KIND (R119, R121, R391). -/
def bwdRow (e : AEnv) (s : State) (p : KvPlace) (t h : Nat) (vis : List Nat) : BwdRow :=
  let a := e.a
  let tq := TD.parse (unitAt e.b 3)
  let tdo := TD.parse (unitAt e.b 4)
  let ovf := (RUnit.parse (unitAt e.b 11)).ovf
  let (lse, kind, kc) := lseOf s (TD.parse (unitAt e.b 6)).base a.hq t h
  let d := readNat s (deltaAddr (TD.parse (unitAt e.b 7)).base a.hq t h) 4
  let nan := (encodeElem 1 false .rne 0 false .nan).1
  let (ss, sa, f) := rowScores ovf s s a tq p.k t h vis
  let dps := vis.map (fun j => headDot ovf s s tdo { p.v with trans := true } t (h * a.hd) j a.hd)
  let fl := f ||| dps.foldl (fun f x => f ||| x.flags) 0
  match kind with
  | 1 => { ss := sa, dps := dps, flags := fl }
  | 3 => { es := vis.map (fun j => { j := j, p := some nan, ds := some nan }), ss := sa, dps := dps, flags := fl }
  | 2 =>
    let w := (toP 1 (f32Div 0x3F800000 (toF32 (.fin false kc 0)).1).1).1
    { es := ss.map (fun x => { j := x.1, p := some (if isPosInf x.2 then w else 0), ds := none }), ss := sa, dps := dps, flags := fl }
  | _ =>
    let es := (ss.zip dps).map (fun x => bwdEntry a.scale lse d x.1.1 x.1.2 x.2.w)
    { es := es.map (·.1), ss := sa, dps := dps, flags := es.foldl (fun f x => f ||| x.2) fl }

/-- Data of the local rows of a unit that a pass reads. -/
def bwdRowReads (e : AEnv) (rows : List (Nat × Nat)) : List (Nat × Nat) :=
  let a := e.a
  rows.flatMap (fun x =>
    rowRanges (TD.parse (unitAt e.b 3)) x.1 (x.2 * a.hd) a.hd ++ rowRanges (TD.parse (unitAt e.b 4)) x.1 (x.2 * a.hd) a.hd ++
    [((TD.parse (unitAt e.b 6)).base + 8 * (x.1 * a.hq + x.2), 8), (deltaAddr (TD.parse (unitAt e.b 7)).base a.hq x.1 x.2, 4)])

/-- The S tile and the dP tile of a block are captured, one after the other (R391). -/
def captureBwd (n qb kb q : Nat) (rows : List BwdRow) (s : State) : State :=
  captureScores n qb kb q (rows.flatMap (·.dps)) (captureScores n qb kb q (rows.flatMap (·.ss)) s)

/-- dS × K added to the dQ of a unit's rows for one block. -/
def queryBlock (e : AEnv) (qb g kb : Nat) (p : KvPlace) (vis : List (List Nat)) (rr : List (List Nat) × ARun) : List (List Nat) × ARun :=
  let (rows, r) := rr
  let r := r.reads e.n 0x0120 (p.k.ranges ++ p.v.ranges)
  if r.cause.isSome then (rows, r)
  else
    let outs := ((e.a.unitRows qb g).zip rows).map (fun (x : (Nat × Nat) × List Nat) =>
      let y := bwdRow e r.v p x.1.1 x.1.2 ((vis[x.1.1 - 64 * qb]?).getD [])
      let cells := x.2.zipIdx.map (fun (o : Nat × Nat) =>
        accPairs (RUnit.parse (unitAt e.b 11)).ovf 1 p.k o.1 (y.es.filterMap (fun (z : BwdEntry) => z.ds.map (fun w => (w, operandAt r.v p.k (z.j, o.2))))))
      (cells.map (fun (c : Acc) => c.w), y, y.flags ||| cells.foldl (fun a (c : Acc) => a ||| c.flags) 0))
    let s1 := (List.range e.a.group).foldl (fun s i =>
      captureBwd e.n qb kb e.q (((outs.drop (64 * i)).take 64).map (fun o => o.2.1)) s) r.s
    (outs.map (·.1), ({ r with s := s1 } : ARun).flag (outs.foldl (fun a o => a ||| (o.2.2 % 4)) 0))

/-- Flags of edge rows are set again (R121). -/
def bwdEdges (e : AEnv) (m : State) (l pass : Nat) (rows : List (Nat × Nat)) (r : ARun) : ARun :=
  rows.foldl (fun r x =>
    let k := (lseOf m (TD.parse (unitAt e.b 6)).base e.a.hq x.1 x.2).2.1
    if k = 1 then ({ r with s := edgeRow e.n e.q l pass x.1 x.2 1 r.s } : ARun).flag flagEmptyRow
    else if k = 2 then ({ r with s := edgeRow e.n e.q l pass x.1 x.2 2 r.s } : ARun).flag flagInfiniteRow
    else r) r

/-- One unit of the query pass: dQ stands in the O field of STATE between legs, and goes to DQ in the last leg. -/
def queryUnit (e : AEnv) (x : AUnit) (r : ARun) : ARun :=
  let a := e.a
  let l := x.leg
  let qb := x.idx / a.kvHeads
  let g := x.idx % a.kvHeads
  let stb := (TD.parse (unitAt e.b 10)).base
  let pl := a.unitRows qb g
  let r := r.reads e.n 0x0120 (if x.uses 0 then bwdRowReads e pl else [])
  let r := if l = 0 then r else r.reads e.n 0x0120 (pl.map (fun x => (stateAddr stb a.hd a.hq x.1 x.2, 4 * a.hd)))
  if r.cause.isSome then r
  else
    let rows := pl.map (fun x => if l = 0 then List.replicate a.hd 0 else (readRow r.v (stateAddr stb a.hd a.hq x.1 x.2) a.hd).o)
    let walk (fromGkv : Bool) (base nkb : Nat) (rr : List (List Nat) × ARun) : List (List Nat) × ARun :=
      (List.range nkb).foldl (fun rr kb =>
        let vis := a.visible e.gl fromGkv l qb kb
        if anyVisible vis then queryBlock e qb g kb (a.place true base kb g) vis rr
        else (rr.1, { rr.2 with s := rcount (R.ATT_Cnn_SKIP e.n) rr.2.s })) rr
    let rr := if l = 0 then walk true a.gkv a.gblocks (rows, r) else (rows, r)
    let (rows, r) := walk false (a.buffer (TD.parse (unitAt e.b 8)).base l) a.nkb rr
    if r.cause.isSome then r
    else if l + 1 = a.g then
      let r := r.reads e.n 0x0120 (pl.map (fun x => ((TD.parse (unitAt e.b 6)).base + 8 * (x.1 * a.hq + x.2), 8)))
      if r.cause.isSome then r
      else
        let ru := RUnit.parse (unitAt e.b 11)
        let cells := (pl.zip rows).flatMap (fun x =>
          let nan := (lseOf r.v (TD.parse (unitAt e.b 6)).base a.hq x.1.1 x.1.2).2.1 == 3
          x.2.zipIdx.map (fun o => ({ r := x.1.1, c := x.1.2 * a.hd + o.2, v := if nan then .nan else f32 o.1, mode := ru.rmode 0 0 } : Cell)))
        let st := (TD.parse (unitAt e.b 9)).store ru.ovf cells
        bwdEdges e r.v l 1 pl ((r.flag st.allFlags).wrote e.n (st.write r.s))
    else (pl.zip rows).foldl (fun r x => r.write e.n (stateAddr stb a.hd a.hq x.1.1 x.1.2) (x.2.flatMap (leBytes 4))) r

/-- Carries of a key block: dK and dV by key and feature. -/
abbrev Carry := List (List Nat) × List (List Nat)

def readCarry (s : State) (p : KvPlace) (hd : Nat) : Carry :=
  let rd (base : Nat) : List (List Nat) := (List.range 64).map (fun j => (List.range hd).map (fun c =>
    let (x, _) := ({ base := base, rows := 64, cols := hd } : TD).elemAddr 32 j c
    readNat s x 4))
  (rd p.dk, rd p.dv)

/-- One block of the key pass: rows of query block qb and head h add to the carries in ascending row order. -/
def keyBlockHead (e : AEnv) (kb qb h : Nat) (p : KvPlace) (vis : List (List Nat)) (cr : Carry × ARun) : Carry × ARun :=
  let (c, r) := cr
  let rows := (List.range 64).map (fun i => (64 * qb + i, h))
  let r := r.reads e.n 0x0120 (bwdRowReads e rows)
  if r.cause.isSome then (c, r)
  else
    let tq := TD.parse (unitAt e.b 3)
    let tdo := TD.parse (unitAt e.b 4)
    let hd := e.a.hd
    let es := rows.map (fun x => (x.1, bwdRow e r.v p x.1 h ((vis[x.1 - 64 * qb]?).getD [])))
    let part (sel : BwdEntry → Option Nat) (j : Nat) : List (Nat × Nat) := es.filterMap (fun x =>
      match x.2.es.find? (fun y => y.j == j) with | none => none | some y => (sel y).map (fun w => (x.1, w)))
    let addTo (acc : List (List Nat)) (sel : BwdEntry → Option Nat) (t : TD) : List (List Acc) :=
      acc.zipIdx.map (fun row =>
        let ps := part sel row.2
        row.1.zipIdx.map (fun o => accPairs (RUnit.parse (unitAt e.b 11)).ovf 1 t o.1 (ps.map (fun w => (w.2, operandAt r.v t (w.1, h * hd + o.2))))))
    let k := addTo c.1 (·.ds) tq
    let v := addTo c.2 (·.p) tdo
    let fl := (k ++ v).foldl (fun a x => x.foldl (fun a y => a ||| y.flags) a) (es.foldl (fun a x => a ||| x.2.flags) 0)
    ((k.map (·.map (·.w)), v.map (·.map (·.w))),
      ({ r with s := captureBwd e.n qb kb e.q (es.map (·.2)) r.s } : ARun).flag (fl % 4))

/-- The edge rows of the query-side units dealt to core n are flagged again by a key pass alone, with the last unit of the last leg. -/
def keyEdges (e : AEnv) (x : AUnit) (r : ARun) : ARun :=
  let a := e.a
  let mine := dealt (coreCount e.b) (e.n - firstCore e.b) (List.range (a.nkb * a.kvHeads))
  if u e.b 18 1 = 1 ∧ x.leg + 1 = a.g ∧ !x.gkv ∧ mine.getLast? = some x.idx ∧ r.cause.isNone then
    let pl := mine.flatMap (fun i => a.unitRows (i / a.kvHeads) (i % a.kvHeads))
    let r := ({ r with v := r.s } : ARun).reads e.n 0x0120 (pl.map (fun x => ((TD.parse (unitAt e.b 6)).base + 8 * (x.1 * a.hq + x.2), 8)))
    if r.cause.isSome then r else bwdEdges e r.v x.leg 2 pl r
  else r

/-- One unit of the key pass: carries start at +0 in leg 0, else from the buffer, and are written back (R120). -/
def keyUnit (e : AEnv) (x : AUnit) (r : ARun) : ARun :=
  let a := e.a
  let l := x.leg
  let kb := x.idx / a.kvHeads
  let g := x.idx % a.kvHeads
  let p := a.place true (if x.gkv then a.gkv else a.buffer (TD.parse (unitAt e.b 8)).base l) kb g
  let qbs := (List.range a.nkb).map (fun qb => (qb, a.visible e.gl x.gkv l qb kb))
  let todo := qbs.filter (fun y => anyVisible y.2)
  let r := { r with s := rcountBy (R.ATT_Cnn_SKIP e.n) (qbs.length - todo.length) r.s }
  if todo.isEmpty && l != 0 then keyEdges e x r
  else
    let r := r.reads e.n 0x0120 (if todo.isEmpty then [] else p.k.ranges ++ p.v.ranges ++ (if l = 0 then [] else [(p.dk, 512 * a.hd)]))
    if r.cause.isSome then r
    else
      let c0 : Carry := if l = 0 then (List.replicate 64 (List.replicate a.hd 0), List.replicate 64 (List.replicate a.hd 0))
        else readCarry r.v p a.hd
      let (c, r) := todo.foldl (fun cr y =>
        (List.range a.group).foldl (fun cr i => keyBlockHead e kb y.1 (g * a.group + i) p y.2 cr) cr) (c0, r)
      let put (base : Nat) (m : List (List Nat)) (r : ARun) : ARun :=
        if r.cause.isSome then r
        else
          let t : TD := { base := base, rows := 64, cols := a.hd }
          r.wrote e.n (writeElems (m.zipIdx.flatMap (fun row => row.1.zipIdx.map (fun o => t.put 32 row.2 o.2 o.1))) r.s)
      keyEdges e x (put p.dv c.2 (put p.dk c.1 r))

/-- A unit of ATTN_BWD, by its pass. -/
def bwdUnit (x : Started) (n : Nat) (un : AUnit) (r : ARun) : ARun :=
  match un.pass with
  | 3 => deltaUnit (attnEnv x n) un r
  | 2 => keyUnit (attnEnv x n) un r
  | _ => queryUnit (attnEnv x n) un r

/-- ATTN_BWD (R119). -/
def execAttnBwd (c : Nat) (s : State) : Host.Outcome State Fault Refusal := .next (attnRun .attnBwd ringBegin bwdUnit c s)

end Sys2Proof.Machine
end

