-- ==== Sys2Proof/Machine/Pages.lean ====
section
/-! DEFINITION. Sequence slots and pages (chapter 07): slot descriptors, page tables, frames, copy-on-write, ageing and
fetching back, the page commands of Table 7.3, ATTN_PAGED, and KVP_ENABLE. -/

namespace Sys2Proof.Machine

/-! ### Slot descriptors and regions (R124, R125) -/

/-- Is a slot descriptor malformed (R124)? GLIST is looked at when it can be read. -/
def slotDescBad (b : Bytes) (s : State) : Bool :=
  let d := SD.parse b
  let gl := (List.range d.nGlobal).map (fun i => readNat s (d.glist + 4 * i) 4)
  !onlyBits [(5, 0), (9, 8), byteRange 3 2, (36, 32), (44, 40), byteRange 27 6] b || d.hdCode == 3 || d.kvHeads == 0 ||
  decide (64 < d.kvHeads) || d.layers == 0 || !attnFmt d.kFmt || !attnFmt d.vFmt || decide (256 < d.nGlobal) ||
  d.maxLen % 64 != 0 || d.maxLen == 0 || decide (4194304 < d.maxLen) || decide (65536 < d.window) || d.pt % 4096 != 0 ||
  d.glist % 4 != 0 || decide (2 ^ 24 < d.pages) || !inStacked d.pt (8 * d.pages) ||
  ((firstUnreached s d.glist (4 * d.nGlobal)).isNone && !poisoned s d.glist (4 * d.nGlobal) && !ascendingBelow d.maxLen gl)

/-- Region bytes of a tile's row: for each 32 columns their elements and their scales. -/
def tokenParts (t : TD) (r : Nat) : List (Nat × Nat) :=
  (List.range (t.cols / 32)).flatMap (fun i =>
    let (a, b) := t.elemAddr (fmtBits t.fmt) r (32 * i)
    (a, (b + 32 * fmtBits t.fmt + 7) / 8) ::
      (if isBlockFmt t.fmt then [(t.scaleAddr r (32 * i), if t.axis then 32 else 1)] else []))

/-- Region byte ranges that hold token t of layer l. -/
def SD.tokenRanges (d : SD) (l t : Nat) : List (Nat × Nat) :=
  (List.range d.kvHeads).flatMap (fun g =>
    let p := d.ad.place false (l * d.layerBytes) (t / 64) g
    tokenParts p.k (t % 64) ++ tokenParts p.v (t % 64))

/-- Pages of layer l that hold a token from `a` to `b` - 1. -/
def SD.tokenPages (d : SD) (l a b : Nat) : List Nat :=
  rangePages ((List.range (b - a)).flatMap (fun i => d.tokenRanges l (a + i)))

/-- The same over all layers. -/
def SD.tokenPagesAll (d : SD) (a b : Nat) : List Nat := (List.range d.layers).flatMap (fun l => d.tokenPages l a b)

/-- Does page p hold a key at a global position (GPIN)? -/
def SD.globalPage (d : SD) (gl : List Nat) (p : Nat) : Bool :=
  gl.any (fun t => (List.range d.layers).any (fun l =>
    (rangePages ((List.range d.kvHeads).flatMap (fun g =>
      tokenParts (d.ad.place false (l * d.layerBytes) (t / 64) g).k (t % 64)))).contains p))

/-! ### Page tables, the frame table and frames (Table 7.2, R126, R131) -/

def sBase (s : State) : Nat := rget R.KVP_SPOOL_BASE s
def lBase (s : State) : Nat := rget R.KVP_LPOOL_BASE s
def sFrames (s : State) : Nat := rbits R.KVP_SPOOL_FRAMES 23 0 s
def lFrames (s : State) : Nat := rbits R.KVP_LPOOL_FRAMES 24 0 s
def ftBase (s : State) : Nat := rget R.KVP_FT_BASE s

/-- A frame: of the Lagoon pool or of the stacked pool, by index. -/
abbrev Frame := Bool × Nat

def frameAddr (f : Frame) (s : State) : Nat := (if f.1 then lBase s else sBase s) + pageSize * f.2

/-- The frame at an address. -/
def frameAt (a : Nat) (s : State) : Frame :=
  if inSpill a 1 then (true, (a - lBase s) / pageSize) else (false, (a - sBase s) / pageSize)

/-- Entry of the frame table: the stacked pool's entries come first. -/
def ftAddr (f : Frame) (s : State) : Nat := ftBase s + 4 * (if f.1 then sFrames s + f.2 else f.2)

def frameCount (f : Frame) (s : State) : Nat := readNat s (ftAddr f s) 2
def setFrame (f : Frame) (n : Nat) (alloc : Bool) (s : State) : State := poke (ftAddr f s) (leBytes 4 (n + 2 ^ 31 * nb alloc)) s

/-- Working depth of prefetch: 4 while the stacked pool is below LOW, at most DEPTH (R135). -/
def workingDepth (s : State) : Nat :=
  let d := rbits R.KVP_PF 7 0 s
  if s.kvp.freeS.length < rbits R.KVP_WATER 23 0 s then min d 4 else d

/-- KVP_FREE, SPOOL_LOW, SWEEPING and the working depth follow the free lists. -/
def showPool (s : State) : State :=
  let f := s.kvp.freeS.length
  let low := decide (f < rbits R.KVP_WATER 23 0 s)
  let was := decide (bits (rget R.KVP_FREE s) 23 0 < rbits R.KVP_WATER 23 0 s)
  let t := rset R.KVP_FREE (f + (s.kvp.freeL.length <<< 32)) s
  let t := rsetBits R.KVP_STAT 15 8 (workingDepth t) (rsetBits R.KVP_STAT 1 1 (nb (!s.kvp.ageing.isEmpty)) t)
  if low && !was then rsetBit R.KVP_EVT 0 t else t

/-- The working depth that KVP_STAT shows follows the registers it depends on (R139). -/
def showDepthOfPool (s : State) : State := if rbit R.KVP_STAT 0 s then showPool s else s

/-- Pages of a slot by residence: SPAGES and LPAGES. -/
def showSlot (q : Nat) (s : State) : State :=
  let es := (List.range (sdOf q s).pages).map (fun p => pte q p s)
  let n (lag : Bool) : Nat := (es.filter (fun e => pteValid e && (pteWhere e == 1) == lag)).length
  rset (R.KVP_Qnn_LPAGES q) (n true) (rset (R.KVP_Qnn_SPAGES q) (n false) s)

/-- Numbers of the open slots, ascending. -/
def openSlots (s : State) : List Nat := (List.range 64).filter (fun q => (slotx q s).isOpen)

/-- KVP_OPEN follows the slots. -/
def showOpen (s : State) : State := rset R.KVP_OPEN ((openSlots s).foldl (fun a q => a ||| (1 <<< q)) 0) s

/-- Do two stacked frames lie in the same banks: every 4 KiB granule in the same stack, channels and bank (R142, R143)? -/
def sameBanks (a b : Nat) (s : State) : Bool :=
  (List.range 16).all (fun i =>
    let x := stackPlace (a + 4096 * i) s
    let y := stackPlace (b + 4096 * i) s
    x.1 == y.1 && bits x.2 18 9 == bits y.2 18 9)

/-- A member of a list by a free value (log 35). -/
def freePick (l : List Nat) (s : State) : Option Nat := l[Config.freeNat s.freeCtr % l.length]?

/-- A stacked frame is taken; with the bank units in service one from the banks of `near` where the pool holds such a frame
free (R130). -/
def takeS (near : Option Nat) (s : State) : Option (Nat × State) :=
  let good := match near with
    | none => []
    | some a => if rbit R.BNK_STAT 0 s then [] else s.kvp.freeS.filter (fun f => sameBanks (frameAddr (false, f) s) a s)
  (freePick (if good.isEmpty then s.kvp.freeS else good) s).map (fun f =>
    (f, showPool (bumpFree { s with kvp := { s.kvp with freeS := s.kvp.freeS.erase f } })))

def takeL (s : State) : Option (Nat × State) :=
  (freePick s.kvp.freeL s).map (fun f => (f, showPool (bumpFree { s with kvp := { s.kvp with freeL := s.kvp.freeL.erase f } })))

/-- Is a read in flight that was translated to a frame (R131)? -/
def frameBusy (f : Frame) (s : State) : Bool :=
  s.halves.any (fun h => h.2.transfers.any (fun t =>
    decide (t.owner < 512) && decide (frameAddr f s ≤ t.addr) && decide (t.addr < frameAddr f s + pageSize)))

/-- A frame joins its free list. -/
def freeFrame (s : State) (f : Frame) : State :=
  showPool (if f.1 then { s with kvp := { s.kvp with freeL := s.kvp.freeL ++ [f.2] } }
            else { s with kvp := { s.kvp with freeS := s.kvp.freeS ++ [f.2] } })

/-- A frame whose count has reached 0 goes back to its free list, once every read translated to it has completed (R131). -/
def giveBack (f : Frame) (s : State) : State :=
  let t := setFrame f 0 false s
  if frameBusy f t then { t with kvp := { t.kvp with limbo := t.kvp.limbo ++ [f] } } else freeFrame t f

/-- Frames whose last read has completed are free. -/
def settleFrames (s : State) : State :=
  let l := s.kvp.limbo
  (l.filter (fun f => !frameBusy f s)).foldl freeFrame { s with kvp := { s.kvp with limbo := l.filter (fun f => frameBusy f s) } }

/-- A frame loses a reference (R131). -/
def dropRef (f : Frame) (s : State) : State :=
  let n := frameCount f s
  if n ≤ 1 then giveBack f s else setFrame f (n - 1) true s

/-- 64 KiB copied from one frame to another, poison with it. -/
def copyFrame (src dst : Nat) (s : State) : State :=
  let bad := (List.range 512).filter (fun i => poisoned s (src + 128 * i) 128)
  let t := poke dst (readBytes s src pageSize) s
  { t with poison := t.poison ++ (bad.map (fun i => lineOf dst + i)).filter (fun x => !t.poison.contains x) }

/-- A copy between stacked frames: in-stack, and counted in BNK_COPIES, where the bank units are in service and both frames
lie in the same banks; else by the channel path (R130, R179). -/
def copyStacked (src dst : Nat) (s : State) : State :=
  let t := copyFrame src dst s
  if !rbit R.BNK_STAT 0 s && sameBanks src dst s then rcount R.BNK_COPIES t else t

/-! ### Ageing (R132 to R134) -/

def ageingOf (q p : Nat) (s : State) : Option PageMove := s.kvp.ageing.find? (fun m => m.slot == q && m.page == p)
def fetchingOf (q p : Nat) (s : State) : Option PageMove := s.kvp.fetching.find? (fun m => m.slot == q && m.page == p)

/-- Is an entry of the books that page p of slot q needs uncorrectable (R131)? -/
def booksLost (q p : Nat) (s : State) : Bool :=
  poisoned s (pteAddr q p s) 8 || (pteValid (pte q p s) && poisoned s (ftAddr (frameAt (pteFrame (pte q p s)) s) s) 4)

/-- Does a KV_WRITE in progress touch the page (R132)? -/
def beingWritten (q p : Nat) (s : State) : Bool :=
  s.started.any (fun x =>
    x.state == .running && opOfBytes x.bytes == some .kvWrite && u x.bytes 16 1 == q &&
    ((sdOf q s).tokenPages (u x.bytes 17 1) (u x.bytes 20 4) (u x.bytes 20 4 + u x.bytes 24 4)).contains p)

/-- Is the page eligible to age (R132)? -/
def eligible (q p : Nat) (s : State) : Bool :=
  let e := pte q p s
  pteValid e && pteWhere e == 0 && frameCount (frameAt (pteFrame e) s) s == 1 && !bitAt e 3 && !bitAt e 5 && !beingWritten q p s

/-- Ageing of a page begins: a Lagoon frame is taken and the entry is in transit. A full Lagoon pool sets LPOOL_FULL. -/
def beginAge (q p : Nat) (s : State) : State :=
  match takeL s with
  | none => rsetBit R.KVP_EVT 1 s
  | some (f, t) =>
    let t := setFrame (true, f) 0 true (setPte q p (setBits (pte q p t) 2 1 2) t)
    showPool { t with kvp := { t.kvp with ageing := t.kvp.ageing ++ [{ slot := q, page := p, frame := f }] } }

/-- The page stands in the Lagoon: copied, the entry retargeted, the stacked frame freed (R133). -/
def finishAge (q p : Nat) (s : State) : State :=
  match ageingOf q p s with
  | none => s
  | some m =>
    let e := pte q p s
    let old := frameAt (pteFrame e) s
    let dst := frameAddr (true, m.frame) s
    let t := copyFrame (pteFrame e) dst s
    let t := setFrame (true, m.frame) 1 true t
    let t := setPte q p (setBits (setBits e 2 1 1) 47 16 (dst >>> 16)) t
    let t := dropRef old { t with kvp := { t.kvp with ageing := t.kvp.ageing.erase m } }
    showSlot q (rcount R.KVP_AGED (showPool t))

/-- An ageing is abandoned (Table 7.4). -/
def abandonAge (q p : Nat) (s : State) : State :=
  match ageingOf q p s with
  | none => s
  | some m =>
    let t := setPte q p (setBits (pte q p s) 2 1 0) { s with kvp := { s.kvp with ageing := s.kvp.ageing.erase m } }
    rcount R.KVP_ABANDON (giveBack (true, m.frame) t)

/-- Next place of the hand: the first page at or after it, over the open slots in ascending order, and round again. -/
def handPlaces (s : State) : List (Nat × Nat) :=
  let all := (openSlots s).flatMap (fun q => (List.range (sdOf q s).pages).map (fun p => (q, p)))
  let before (x : Nat × Nat) : Bool := decide (x.1 < s.kvp.handSlot) || (x.1 == s.kvp.handSlot && decide (x.2 < s.kvp.handPage))
  all.filter (fun x => !before x) ++ all.filter before

/-- The hand passes one page; `now` ages it whole. -/
def handStep (now : Bool) (s : State) (x : Nat × Nat) : State :=
  let t : State := { s with kvp := { s.kvp with handSlot := x.1, handPage := x.2 + 1 } }
  if eligible x.1 x.2 t then
    let e := pte x.1 x.2 t
    if bitAt e 4 then setPte x.1 x.2 (setBits e 4 4 0) t
    else if now then finishAge x.1 x.2 (beginAge x.1 x.2 t) else beginAge x.1 x.2 t
  else t

/-- The hand goes on until `met`, or until the Lagoon pool is full; it stops where the books are lost. -/
def handGo (now : Bool) (met : State → Bool) (a : State × Bool) (x : Nat × Nat) : State × Bool :=
  if a.2 || met a.1 then a
  else if booksLost x.1 x.2 a.1 then (a.1, true)
  else if a.1.kvp.freeL.isEmpty then (rsetBit R.KVP_EVT 1 a.1, false)
  else (handStep now a.1 x, false)

/-- Two rounds of the hand: by then every eligible page has been aged. -/
def sweep (now : Bool) (met : State → Bool) (s : State) : State :=
  let a := (handPlaces s).foldl (handGo now met) (s, false)
  let b := (handPlaces a.1).foldl (handGo now met) a
  if b.2 then booksFatal b.1 else b.1

/-- Has the sweep freed enough, counting the frames on their way (R133)? -/
def sweptTo (goal : Nat) (s : State) : Bool := decide (goal ≤ s.kvp.freeS.length + s.kvp.ageing.length)

/-- AGEING_SWEEP (R133). -/
def ageingSweep (s : State) : State :=
  if rbit R.KVP_CTL 1 s && rbit R.KVP_STAT 0 s && decide (s.kvp.freeS.length < rbits R.KVP_WATER 23 0 s) then
    showPool (sweep false (sweptTo (rbits R.KVP_WATER 55 32 s)) s)
  else s

def execAgeingSweep (s : State) : Host.Outcome State Fault Refusal := .next (ageingSweep s)

/-- PAGE_AGE_DONE (R133). -/
def execPageAgeDone (q : Slot) (page : Nat) (s : State) : Host.Outcome State Fault Refusal := .next (finishAge q.val page s)

/-! ### Fetching back (R135) -/

/-- A fetch of a Lagoon page begins: a stacked frame is taken. -/
def beginFetch (q p core : Nat) (demand pin : Bool) (s : State) : State :=
  let e := pte q p s
  if booksLost q p s then booksFatal s
  else if !pteValid e || pteWhere e != 1 || (fetchingOf q p s).isSome then s
  else
    match takeS none s with
    | none => s
    | some (f, t) =>
      let t := setFrame (false, f) 0 true t
      let t : State := { t with kvp := { t.kvp with
        fetching := t.kvp.fetching ++ [{ slot := q, page := p, frame := f, demand := demand, pin := pin, core := core }] } }
      if demand then rcount R.KVP_DEMAND t else t

/-- The page stands in stacked memory again, marked ACCESSED. -/
def landFetch (q p f : Nat) (pin : Bool) (s : State) : State :=
  let e := pte q p s
  let old := frameAt (pteFrame e) s
  let dst := frameAddr (false, f) s
  let t := setFrame (false, f) 1 true (copyFrame (pteFrame e) dst s)
  let v := setBits (setBits (setBits e 2 1 0) 47 16 (dst >>> 16)) 4 4 1
  showSlot q (dropRef old (setPte q p (if pin then setBits v 3 3 1 else v) t))

/-- PAGE_FETCH_DONE (R135). -/
def pageFetchDone (q p : Nat) (s : State) : State :=
  match fetchingOf q p s with
  | none => s
  | some m =>
    let t := landFetch q p m.frame m.pin { s with kvp := { s.kvp with fetching := s.kvp.fetching.erase m } }
    if m.demand then t else rcount R.KVP_FETCHED t

def execPageFetchDone (q : Slot) (page : Nat) (s : State) : Host.Outcome State Fault Refusal := .next (pageFetchDone q.val page s)

/-- A Lagoon page is fetched at once for a write, fork or walk that waits for it. -/
def fetchNow (q p : Nat) (s : State) : State :=
  let e := pte q p s
  if pteValid e && pteWhere e == 1 then
    match fetchingOf q p s with
    | some _ => pageFetchDone q p s
    | none => (match takeS none s with | none => s | some (f, t) => landFetch q p f false t)
  else s

/-! ### Mapping and unmapping -/

/-- A page loses its frame; what was on its way is given up (Table 7.4). -/
def unmapPage (q : Nat) (s : State) (p : Nat) : State :=
  let t := abandonAge q p s
  let t := match fetchingOf q p t with
    | none => t
    | some m => giveBack (false, m.frame) { t with kvp := { t.kvp with fetching := t.kvp.fetching.erase m } }
  let e := pte q p t
  if pteValid e then dropRef (frameAt (pteFrame e) t) (setPte q p 0 t) else t

/-- Entry of a page in stacked frame f. -/
def pteFor (q p f : Nat) (s : State) : Nat :=
  1 + 16 + 32 * nb ((sdOf q s).globalPage (slotx q s).glist p) + (frameAddr (false, f) s >>> 16 <<< 16)

/-- A fresh frame is mapped. -/
def mapPage (q p : Nat) (s : State) : State :=
  match takeS none s with
  | none => s
  | some (f, t) => setPte q p (pteFor q p f t) (setFrame (false, f) 1 true t)

/-- Copy-on-write of a shared page (R130). -/
def copyOnWrite (q p : Nat) (s : State) : State :=
  let e := pte q p s
  match takeS (some (pteFrame e)) s with
  | none => s
  | some (f, t) =>
    let t := copyStacked (pteFrame e) (frameAddr (false, f) t) (setFrame (false, f) 1 true t)
    rcount R.KVP_COW (dropRef (frameAt (pteFrame e) s) (setPte q p (setBits e 47 16 (frameAddr (false, f) s >>> 16)) t))

/-- Stacked frames that a write of page p needs. -/
def framesToWrite (q p : Nat) (s : State) : Nat :=
  let e := pte q p s
  if !pteValid e then 1
  else if pteWhere e == 1 then (if (fetchingOf q p s).isSome then 0 else 1)
  else if frameCount (frameAt (pteFrame e) s) s > 1 then 1 else 0

/-- A reservation of the stacked frames that a command needs, which its own pages' moves change: pages in transit arrive, and the
sweep runs, until it is met; if it cannot be, EXHAUSTED is set (R133). -/
def reserve (need : State → Nat) (s : State) : Bool × State :=
  let met (s : State) : Bool := decide (need s ≤ s.kvp.freeS.length)
  let t := s.kvp.ageing.foldl (fun t m => if met t || beingWritten m.slot m.page t then t else finishAge m.slot m.page t) s
  let t := if met t then t else sweep true met t
  if met t then (true, t) else (false, snapOn R.KVP_CTL 2 5 bKVP (rsetBit R.KVP_EVT 2 t))

/-- Page p of slot q is ready for a write: in stacked memory, its frame its own, nothing in transit, ACCESSED set. -/
def readyToWrite (q : Nat) (s : State) (p : Nat) : State :=
  let t := fetchNow q p (abandonAge q p s)
  let e := pte q p t
  let t := if !pteValid e then mapPage q p t
    else if frameCount (frameAt (pteFrame e) t) t > 1 then copyOnWrite q p t else t
  let e := pte q p t
  setPte q p (e ||| 16 ||| (32 * nb ((sdOf q t).globalPage (slotx q t).glist p))) t

/-! ### The page commands (R126 to R129) -/

/-- The page commands. -/
def isPageOp (o : Op) : Bool :=
  o == .slotOpen || o == .slotClose || o == .slotFork || o == .kvWrite || o == .slotTrunc || o == .pageHint

/-- Pages whose books a page command reads. -/
def pagesRead (op : Op) (b : Bytes) (s : State) : List (Nat × Nat) :=
  let q := u b 16 1
  let d := sdOf q s
  let on (q : Nat) (l : List Nat) : List (Nat × Nat) := l.map (fun p => (q, p))
  match op with
  | .slotOpen => []
  | .slotFork => let ps := (sdOf (u b 17 1) s).tokenPagesAll 0 (u b 20 4); on (u b 17 1) ps ++ on q ps
  | .kvWrite => on q (d.tokenPages (u b 17 1) (u b 20 4) (u b 20 4 + u b 24 4))
  | .pageHint =>
    let lo := min d.maxLen (u b 20 4)
    let hi := min d.maxLen (u b 20 4 + u b 24 4)
    on q (if u b 17 1 = 0xFF then d.tokenPagesAll lo hi else d.tokenPages (u b 17 1) lo hi)
  | _ => on q (List.range d.pages)

/-- The start of a page command notes whether the page manager is enabled (R127). -/
def pageStart (c : Nat) (s : State) : State := updStarted c (fun x => { x with image := [BitVec.ofNat 8 (nb (rbit R.KVP_CTL 0 s))] }) s

/-- A page command runs when no page command that started earlier is unfinished; it fails if the page manager was not
enabled when it started (R123, R127). -/
def pageCmd (c : Nat) (op : Op) (f : Started → State → State) (s : State) : State :=
  match runningCmd c op s with
  | none => s
  | some x =>
    if s.started.any (fun y => decide (y.turn < x.turn) && y.state == .running && (match opOfBytes y.bytes with | none => false | some o => isPageOp o)) then s
    else if u x.image 0 1 = 0 then failCmd c bKVP 0x0135 0 s
    else if (pagesRead op x.bytes s).any (fun y => booksLost y.1 y.2 s) then booksFatal s
    else f x s

def slotBad (n : Nat) : Bool := decide (63 < n)

def slotOpenBad (b : Bytes) (s : State) : Bool := !operandsOk [] b || slotDescBad (unitAt b 1) s

/-- SLOT_OPEN (R126, R127). -/
def slotOpenGo (x : Started) (s : State) : State :=
  let raw := unitAt x.bytes 1
  let d := SD.parse raw
  if (slotx d.slot s).isOpen then failCmd x.id bKVP 0x0133 0 s
  else
    match firstUnreached s d.glist (4 * d.nGlobal) with
    | some a => failCmd x.id bKVP (reachCause s a) 0 (captureReach a s)
    | none =>
      if poisoned s d.glist (4 * d.nGlobal) then failCmd x.id bKVP 0x0142 0 s
      else
        let gl := (List.range d.nGlobal).map (fun i => readNat s (d.glist + 4 * i) 4)
        let s := touchRead s (d.glist, 4 * d.nGlobal)
        let t := setSlotx d.slot { isOpen := true, desc := raw, glist := gl } (zeroRange d.pt (d.pt + 8 * d.pages) s)
        let gp := distinct (gl.flatMap (fun g => (List.range d.layers).flatMap (fun l =>
          rangePages ((List.range d.kvHeads).flatMap (fun h =>
            tokenParts (d.ad.place false (l * d.layerBytes) (g / 64) h).k (g % 64))))))
        let t := gp.foldl (fun t p => setPte d.slot p 32 t) t
        markDone x.id (showSlot d.slot (showOpen (rset (R.KVP_Qnn_LEN d.slot) 0 t)))

def execSlotOpen (c : Nat) (s : State) : Host.Outcome State Fault Refusal := .next (pageCmd c .slotOpen slotOpenGo s)

def slotCloseBad (b : Bytes) : Bool := !operandsOk [byteRange 16 16] b || slotBad (u b 16 1)

/-- SLOT_CLOSE (R127). -/
def slotCloseGo (x : Started) (s : State) : State :=
  let q := u x.bytes 16 1
  let t := (List.range (sdOf q s).pages).foldl (unmapPage q) s
  let t := rset (R.KVP_Qnn_LPAGES q) 0 (rset (R.KVP_Qnn_SPAGES q) 0 (rset (R.KVP_Qnn_LEN q) 0 (setSlotx q {} t)))
  markDone x.id (showOpen t)

def execSlotClose (c : Nat) (s : State) : Host.Outcome State Fault Refusal := .next (pageCmd c .slotClose slotCloseGo s)

def slotForkBad (b : Bytes) (s : State) : Bool :=
  !operandsOk [byteRange 16 16, byteRange 17 17, byteRange 23 20] b || slotBad (u b 16 1) || slotBad (u b 17 1) ||
  u b 20 4 == 0 || ((slotx (u b 17 1) s).isOpen && decide (slotLen (u b 17 1) s < u b 20 4))

/-- One page of SRC shared with DST, or copied where its count is saturated (R129). -/
def forkPage (dst src : Nat) (s : State) (p : Nat) : State :=
  let t := abandonAge src p s
  let e := pte src p t
  let f := frameAt (pteFrame e) t
  if !pteValid e then t
  else if frameCount f t < 0xFFFF then
    let t := setFrame f (frameCount f t + 1) true t
    setPte dst p (1 + 16 * nb (bitAt e 4) + 32 * nb ((sdOf dst t).globalPage (slotx dst t).glist p) + (pteFrame e)) t
  else
    match takeS (some (pteFrame e)) t with
    | none => t
    | some (g, t) =>
      let t := setPte dst p (pteFor dst p g t) (copyStacked (pteFrame e) (frameAddr (false, g) t) (setFrame (false, g) 1 true t))
      rsetBit R.KVP_EVT 3 (rcountSat R.KVP_RCSAT t)

/-- SLOT_FORK (R129). -/
def slotForkGo (x : Started) (s : State) : State :=
  let dst := u x.bytes 16 1
  let src := u x.bytes 17 1
  let a := sdOf dst s
  let b := sdOf src s
  let len := u x.bytes 20 4
  if slotLen dst s ≠ 0 ∨ a.hdCode ≠ b.hdCode ∨ a.kvHeads ≠ b.kvHeads ∨ a.layers ≠ b.layers ∨ a.kFmt ≠ b.kFmt ∨
      a.vFmt ≠ b.vFmt ∨ a.maxLen ≠ b.maxLen then failCmd x.id bKVP 0x0133 0 s
  else
    let ps := b.tokenPagesAll 0 len
    let need (s : State) : Nat := (ps.filter (fun p =>
      let e := pte src p s
      pteValid e && ((pteWhere e == 1 && (fetchingOf src p s).isNone) || frameCount (frameAt (pteFrame e) s) s == 0xFFFF))).length
    let (ok, t) := reserve need s
    if !ok then failCmd x.id bKVP 0x0131 0 t
    else
      let t := ps.foldl (fun t p => fetchNow src p t) t
      let t := ps.foldl (forkPage dst src) t
      markDone x.id (showSlot src (showSlot dst (rset (R.KVP_Qnn_LEN dst) len t)))

def execSlotFork (c : Nat) (s : State) : Host.Outcome State Fault Refusal := .next (pageCmd c .slotFork slotForkGo s)

/-- Rows and columns of a source as KV_WRITE uses it, which TRANSPOSE swaps (Table 4.3). -/
def srcShape (t : TD) : Nat × Nat := if t.trans then (t.cols, t.rows) else (t.rows, t.cols)

/-- KV_WRITE is malformed (R127); the slot's own layers bound LAYER (log 31). QUANT of a source has no effect: the command has no
rounding unit (log 154). -/
def kvWriteBad (b : Bytes) (s : State) : Bool :=
  let q := u b 16 1
  let d := sdOf q s
  let k := TD.parse (unitAt b 1)
  let v := TD.parse (unitAt b 2)
  let n := u b 24 4
  !operandsOk [byteRange 17 16, byteRange 27 20] b || slotBad q || n == 0 || decide (65536 < n) ||
  tdBad false (unitAt b 1) || tdBad false (unitAt b 2) ||
  ((slotx q s).isOpen &&
    (decide (d.layers ≤ u b 17 1) || srcShape k != (n, d.kvHeads * d.ad.hd) || srcShape v != (n, d.kvHeads * d.ad.hd) ||
     k.fmt != d.kFmt || v.fmt != d.vFmt || (isBlockFmt k.fmt && k.axis) || (isBlockFmt v.fmt && !v.axis) ||
     (isBlockFmt v.fmt && (u b 20 4 % 32 != 0 || n % 32 != 0))))

/-- A code of `w` bits is written into the region at bit `b` of byte `a`. -/
def putRegion (q : Nat) (s : State) (p : ElemPut) : State :=
  let n := (p.bit + p.w + 7) / 8
  let ad := (List.range n).map (fun i => regionAddr q (p.addr + i) s)
  let old := ofLe (ad.map (readByte s))
  ((ad.zip (leBytes n (setBits old (p.bit + p.w - 1) p.bit p.code))).foldl (fun t x => poke x.1 [x.2] t) s)

/-- Stored place of element (r, c) of a source. -/
def srcAt (t : TD) (r c : Nat) : Nat × Nat := if t.trans then (c, r) else (r, c)

/-- Element and scale codes of source row r that go to token t of layer l. -/
def kvPuts (s : State) (d : SD) (l t r : Nat) (k v : TD) : List ElemPut :=
  let hd := d.ad.hd
  (List.range d.kvHeads).flatMap (fun g =>
    let p := d.ad.place false (l * d.layerBytes) (t / 64) g
    let one (src dst : TD) : List ElemPut := (List.range hd).flatMap (fun c =>
      dst.put (fmtBits dst.fmt) (t % 64) c (src.code s (srcAt src r (g * hd + c)).1 (srcAt src r (g * hd + c)).2) ::
        (if isBlockFmt dst.fmt && (dst.axis || c % 32 == 0) then
          [{ addr := dst.scaleAddr (t % 64) c, bit := 0, w := 8, code := src.scaleCode s (srcAt src r (g * hd + c)).1 (srcAt src r (g * hd + c)).2 }] else []))
    one k p.k ++ one v p.v)

/-- Region ranges of the rows that a transposed source with block scales goes to: its groups run the other way, and the spec states
no result (log 155). -/
def kvOpen (d : SD) (l t : Nat) (k v : TD) : List (Nat × Nat) :=
  (List.range d.kvHeads).flatMap (fun g =>
    let p := d.ad.place false (l * d.layerBytes) (t / 64) g
    (if k.trans && isBlockFmt k.fmt then tokenParts p.k (t % 64) else []) ++
    (if v.trans && isBlockFmt v.fmt then tokenParts p.v (t % 64) else []))

/-- KV_WRITE (R128, R130). -/
def kvWriteGo (x : Started) (s : State) : State :=
  let b := x.bytes
  let q := u b 16 1
  let l := u b 17 1
  let first := u b 20 4
  let n := u b 24 4
  let d := sdOf q s
  let k := TD.parse (unitAt b 1)
  let v := TD.parse (unitAt b 2)
  if slotLen q s < first ∨ d.maxLen < first + n then failCmd x.id bKVP 0x0132 0 s
  else
    match k.unmapped s <|> v.unmapped s with
    | some a => failCmd x.id bKVP (reachCause s a) 0 (captureReach a s)
    | none =>
      if (k.ranges ++ v.ranges).any (fun r => bankHolds r.1 r.2 s) then s
      else if k.poisoned s || v.poisoned s then failCmd x.id bKVP 0x0142 0 (touchReads (k.ranges ++ v.ranges) s)
      else
        let ps := d.tokenPages l first (first + n)
        let (ok, t) := reserve (fun s => ps.foldl (fun a p => a + framesToWrite q p s) 0) (touchReads (k.ranges ++ v.ranges) s)
        if !ok then failCmd x.id bKVP 0x0131 0 t
        else
          let t := ps.foldl (readyToWrite q) t
          let puts := (List.range n).flatMap (fun r => kvPuts s d l (first + r) r k v)
          let t := puts.foldl (putRegion q) t
          let t := ((List.range n).flatMap (fun r => kvOpen d l (first + r) k v)).foldl (fun t y => forgetAt t (regionAddr q y.1 t, y.2)) t
          markDone x.id (showSlot q (rset (R.KVP_Qnn_LEN q) (max (slotLen q s) (first + n)) t))

def execKvWrite (c : Nat) (s : State) : Host.Outcome State Fault Refusal := .next (pageCmd c .kvWrite kvWriteGo s)

def slotTruncBad (b : Bytes) (s : State) : Bool :=
  !operandsOk [byteRange 16 16, byteRange 23 20] b || slotBad (u b 16 1) ||
  ((slotx (u b 16 1) s).isOpen && decide (slotLen (u b 16 1) s < u b 20 4))

/-- SLOT_TRUNC (R127). -/
def slotTruncGo (x : Started) (s : State) : State :=
  let q := u x.bytes 16 1
  let d := sdOf q s
  let keep := d.tokenPagesAll 0 (u x.bytes 20 4)
  let t := ((List.range d.pages).filter (fun p => !keep.contains p)).foldl (unmapPage q) s
  markDone x.id (showSlot q (rset (R.KVP_Qnn_LEN q) (u x.bytes 20 4) t))

def execSlotTrunc (c : Nat) (s : State) : Host.Outcome State Fault Refusal := .next (pageCmd c .slotTrunc slotTruncGo s)

def pageHintBad (b : Bytes) (s : State) : Bool :=
  !operandsOk [byteRange 18 16, byteRange 27 20] b || slotBad (u b 16 1) || decide (3 < u b 18 1) ||
  ((slotx (u b 16 1) s).isOpen && u b 17 1 != 0xFF && decide ((sdOf (u b 16 1) s).layers ≤ u b 17 1))

/-- One page of a hint (Table 7.3, R133, R135). -/
def hintPage (q op : Nat) (s : State) (p : Nat) : State :=
  let e := pte q p s
  match op with
  | 2 => if pteValid e then setPte q p (setBits e 3 3 0) s else s
  | 3 => if eligible q p s then beginAge q p s else s
  | _ =>
    let t := beginFetch q p 64 false (op == 1) s
    if op = 1 ∧ pteValid e then setPte q p (setBits (pte q p t) 3 3 1) t else t

/-- PAGE_HINT: positions beyond the slot's region have no page. -/
def pageHintGo (x : Started) (s : State) : State :=
  let q := u x.bytes 16 1
  let d := sdOf q s
  let a := min d.maxLen (u x.bytes 20 4)
  let b := min d.maxLen (u x.bytes 20 4 + u x.bytes 24 4)
  let ps := if u x.bytes 17 1 = 0xFF then d.tokenPagesAll a b else d.tokenPages (u x.bytes 17 1) a b
  markDone x.id (ps.foldl (hintPage q (u x.bytes 18 1)) s)

def execPageHint (c : Nat) (s : State) : Host.Outcome State Fault Refusal := .next (pageCmd c .pageHint pageHintGo s)

/-! ### KVP_ENABLE (R139) -/

/-- A pool or the frame table is out of place. -/
def poolsBad (s : State) : Bool :=
  let ft := 4 * (sFrames s + lFrames s)
  let hit (a n b m : Nat) : Bool := decide (a < b + m) && decide (b < a + n)
  sBase s % pageSize != 0 || lBase s % pageSize != 0 || !inStacked (sBase s) (pageSize * sFrames s) ||
  (lFrames s != 0 && !inSpill (lBase s) (pageSize * lFrames s)) || !inStacked (ftBase s) ft ||
  hit (ftBase s) ft (sBase s) (pageSize * sFrames s)

/-- KVP_ENABLE: a write of 1 to KVP_CTL.ENABLE. -/
def kvpEnable (s : State) : State :=
  if isLocked bKVP s then countLocked s
  else if rbit R.KVP_CTL 0 s then s
  else if poolsBad s then misuse bKVP s
  else
    let ft := ftBase s
    let t := zeroRange ft (ft + 4 * (sFrames s + lFrames s)) (rsetBit R.KVP_STAT 0 (rsetBit R.KVP_CTL 0 s))
    showPool { t with kvp := { t.kvp with freeS := List.range (sFrames s), freeL := List.range (lFrames s) } }

def execKvpEnable (s : State) : Host.Outcome State Fault Refusal := .next (kvpEnable s)

/-! ### ATTN_PAGED (R136, R137) -/

def attnPagedBad (b : Bytes) (s : State) : Bool :=
  let un := unitAt b 1
  let p := pdOf b
  let ds := (p.slots.filter (fun q => (slotx q s).isOpen)).map (fun q => sdOf q s)
  let d := (ds.head?).getD {}
  let fin := match f32 p.scale with | .fin _ m _ => m != 0 | _ => false
  let cols := p.group * d.kvHeads * d.ad.hd
  !operandsOk [(133, 128), byteRange 17 17] b || coreGroupBad b || !onlyBits [byteRange 7 0, (64, 64)] un ||
  p.nslots == 0 || decide (64 < p.nslots) || p.nq == 0 || decide (64 < p.nq) || p.group == 0 || decide (16 < p.group) ||
  !fin || decide (64 < p.group * p.nq) || (List.range 64).any (fun i => decide (63 < u b (64 + i) 1)) ||
  distinct p.slots != p.slots || attnRuBad (unitAt b 7) || baseBad (unitAt b 6) ||
  ds.any (fun x => x.hdCode != d.hdCode || x.kvHeads != d.kvHeads || x.kFmt != d.kFmt || x.vFmt != d.vFmt) ||
  (ds.length == p.nslots && (attnTdBad (p.nslots * p.nq) cols attnFmt (unitAt b 4) || attnTdBad (p.nslots * p.nq) cols attnFmt (unitAt b 5)))

/-- A state whose memory holds, from address 0, a paged piece that has landed: K's tile at 0, V's behind it. -/
def tileState (p : KvPlace) (y : Piece) (s : State) : State :=
  { s with undef := [], poison := [],
           mem := (y.ranges.foldl (fun (a : List Host.Cell × Bytes) r =>
             (putBytes (r.1 - p.k.base) (a.2.take r.2) a.1, a.2.drop r.2)) ([], y.data)).1 }

/-- Query rows of list entry i for head g: heads of the group, then the entry's tokens. -/
def entryRows (p : PD) (i g : Nat) : List (Nat × Nat) :=
  (List.range p.group).flatMap (fun x => (List.range p.nq).map (fun j => (i * p.nq + j, g * p.group + x)))

/-- A computed tile of block kb updates the rows of the entry i, with the scores' accumulations and flags (R136, R137). -/
def pagedEntry (x : Started) (g kb : Nat) (v sk : State) (p : KvPlace) (i : Nat) (rows : List Row) : List Row × List Acc × Nat :=
  let d := pdOf x.bytes
  let q := d.slot i
  let a := pagedAd d (sdOf q v)
  let ovf := (RUnit.parse (unitAt x.bytes 7)).ovf
  let tk := { p.k with base := 0, scale := p.k.scale - p.k.base }
  let tv := { p.v with base := p.v.base - p.k.base, scale := p.v.scale - p.k.base }
  let vis := pagedVisible a (slotx q v).glist (lenOf x i) d.nq kb
  let outs := ((entryRows d i g).zip rows).map (fun (y : (Nat × Nat) × Row) =>
    let cs := (vis[y.1.1 - i * d.nq]?).getD []
    let (ss, ds, f) := rowScores ovf v sk a (TD.parse (unitAt x.bytes 4)) tk y.1.1 y.1.2 cs
    if cs.isEmpty then (y.2, ([] : List Acc), 0)
    else let (z, f2) := rowUpdate ovf sk tv y.2 ss; (z, ds, f ||| f2))
  (outs.map (·.1), outs.flatMap (fun o => o.2.1), outs.foldl (fun m o => m ||| o.2.2) 0)

/-- Running rows of the entries that a unit takes together. -/
abbrev EntryRows := List (Nat × List Row)

/-- A tile is computed: block kb for the entries `es`, read from piece y (R137). -/
def pagedTile (x : Started) (n : Nat) (un : AUnit) (t : Nat × List Nat) (y : Piece) (rr : EntryRows × ARun) : EntryRows × ARun :=
  if rr.2.cause.isSome then rr
  else if !y.bad.isEmpty then (rr.1, { rr.2 with cause := some (0x0130, n) })
  else
    let d := pdOf x.bytes
    let i0 := (t.2.head?).getD 0
    let p := pagedPlace d (sdOf (d.slot i0) rr.2.v) t.1 un.idx
    let sk := tileState p y rr.2.v
    let outs := rr.1.map (fun e => if t.2.contains e.1 then
      (let o := pagedEntry x un.idx t.1 rr.2.v sk p e.1 e.2; ((e.1, o.1), o.2.1, o.2.2)) else (e, [], 0))
    (outs.map (·.1), ({ rr.2 with s := captureScores n i0 t.1 x.q (outs.flatMap (fun o => o.2.1)) rr.2.s } : ARun).flag
      (outs.foldl (fun m o => m ||| (o.2.2 % 4)) 0))

/-- Blocks of list entry i that no row sees. -/
def pagedSkipped (x : Started) (i : Nat) (s : State) : Nat := (lenOf x i + 63) / 64 - (pagedSeen x i s).length

/-- The units of a head that a core takes together (R137). -/
def pagedUnitRun (x : Started) (n : Nat) (un : AUnit) (r : ARun) : ARun :=
  let p := pdOf x.bytes
  let tq := TD.parse (unitAt x.bytes 4)
  let a := pagedAd p (sdOf (p.slot 0) r.s)
  let ys : List Piece := match attnShare n r.s with
    | none => []
    | some (h, _) => (landedPieces n h r.s).filter (fun y => y.via.isSome && y.td == (h.tilesA.head?.getD (0, 0)).1)
  let pl := un.ents.flatMap (fun i => entryRows p i un.idx)
  let r := { r with s := rcountBy (R.ATT_Cnn_SKIP n) (un.ents.foldl (fun k i => k + pagedSkipped x i r.s) 0) r.s }
  let r := if un.uses 0 then r.reads n 0x0120 (pl.flatMap (fun y => rowRanges tq y.1 (y.2 * a.hd) a.hd)) else r
  let (rows, r) := un.tiles.zipIdx.foldl (fun rr t =>
    match ys.find? (fun y => y.row == t.2 + 1) with
    | none => rr
    | some y => pagedTile x n un t.1 y rr) (un.ents.map (fun i => (i, (entryRows p i un.idx).map (fun _ => emptyRow a.hd))), r)
  finaliseRows n x.q 0 a.hd a.hq (TD.parse (unitAt x.bytes 5)) (RUnit.parse (unitAt x.bytes 7)) (TD.parse (unitAt x.bytes 6)).base
    ((pl.zip (rows.flatMap (·.2))).map (fun y => (y.1.1, y.1.2, y.2))) r

/-- The start of an ATTN_PAGED takes the LENGTH of every listed slot (R136). -/
def pagedStart (c : Nat) (b : Bytes) (s : State) : State :=
  updStarted c (fun x => { x with image := (pdOf b).slots.flatMap (fun q => leBytes 4 (slotLen q s)) }) s

/-- A paged command begins, or fails for a slot that is too short or has too few layers (R136). -/
def pagedBegin (x : Started) (s : State) : State :=
  let p := pdOf x.bytes
  if (List.range p.nslots).any (fun i => decide (lenOf x i < p.nq) || decide ((sdOf (p.slot i) s).layers ≤ p.layer)) then
    failCmd x.id bATT 0x0134 (firstCore x.bytes) s
  else dealAttn x s

/-- ATTN_PAGED (R136, R137). -/
def execAttnPaged (c : Nat) (s : State) : Host.Outcome State Fault Refusal := .next (attnRun .attnPaged pagedBegin pagedUnitRun c s)

/-! ### Fetching ahead of a walk (R135) -/

/-- The region pages of the pieces `ks` of a share that have not landed. -/
def piecePages (n : Nat) (h : Share) (s : State) (ks : List PRead) : List (Nat × Nat) :=
  (ks.filter (fun k => !readLanded n h s k)).flatMap (fun k =>
    let y := attnPiece h k.2
    match y.slot with
    | none => []
    | some q => (rangePages y.ranges).map (fun p => (q, p)))

/-- Pages that core n's walks have still to read, in reading order. -/
def walkPages (n : Nat) (s : State) : List (Nat × Nat) :=
  let k := corex n s
  distinct ((k.run.toList ++ k.queued ++ k.ready).flatMap (fun h =>
    piecePages n h s (((h.units.zipIdx.filter (fun x => h.tilesA.contains (x.2, 0))).flatMap (fun x => unitWalk x.2 x.1)).flatMap stepOf)))

/-- Is page p of slot q in the Lagoon, and not on its way back? -/
def inLagoon (s : State) (x : Nat × Nat) : Bool := pteWhere (pte x.1 x.2 s) == 1 && (fetchingOf x.1 x.2 s).isNone

/-- Pages on their way back for core n's walk. -/
def inFlight (n : Nat) (s : State) : Nat := (s.kvp.fetching.filter (fun m => m.core == n)).length

/-- PAGE_PREFETCH: the next Lagoon page of a core's walk, as long as fewer than the working depth are in flight for it. -/
def pagePrefetch (n q p : Nat) (s : State) : State :=
  if (walkPages n s).find? (inLagoon s) = some (q, p) ∧ inFlight n s < workingDepth s then beginFetch q p n false false s else s

def execPagePrefetch (n : Core) (q : Slot) (page : Nat) (s : State) : Host.Outcome State Fault Refusal :=
  .next (pagePrefetch n.val q.val page s)

/-- Pages that core n's next step reads. -/
def stepPages (n : Nat) (s : State) : List (Nat × Nat) :=
  match attnShare n s with
  | none => []
  | some (h, b) => piecePages n h s (stepOf (((coreWalk h b n)[h.pos]?).getD []))

/-- DEMAND_FETCH: the read that a core stands at finds its page in the Lagoon (R135). -/
def demandFetch (n q p : Nat) (s : State) : State :=
  if (stepPages n s).contains (q, p) && inLagoon s (q, p) then beginFetch q p n true false s else s

def execDemandFetch (n : Core) (q : Slot) (page : Nat) (s : State) : Host.Outcome State Fault Refusal :=
  .next (demandFetch n.val q.val page s)

end Sys2Proof.Machine
end

