-- ==== Sys2Proof/Machine/Bank.lean ====
section
/-! DEFINITION. The bank units (chapter 09): the bank layout, BANK_MV, BANK_OPT, BANK_EW and BANK_COPY with their poison and
parity rules, and the holding and waking of the units. -/

namespace Sys2Proof.Machine

/-! ### The bank layout (R164, R165) -/

/-- Device address of bank-local address `a` of bank n' of stack z (R164). -/
def bankAddr (z n' a : Nat) : Nat :=
  z * 2 ^ 36 + (a / 512) * 2 ^ 19 + (n' % 8) * 2 ^ 16 + (n' / 8) * 2 ^ 9 + a % 512

/-- An array in the bank layout: its OFFSET, slot bytes and number of rows. -/
structure BArr where
  off  : Nat := 0
  slot : Nat := 0
  rows : Nat := 0
  deriving DecidableEq, Repr, Inhabited

/-- The stacks of a mask, ascending. -/
def stackSet (mask : Nat) : List Nat := setPositions 8 mask

/-- Banks of a set. -/
def numBanks (zs : List Nat) : Nat := 1024 * zs.length

/-- Slot numbers an array uses. -/
def BArr.slots (x : BArr) (zs : List Nat) : Nat := ceilDiv x.rows (numBanks zs)

/-- Device address of byte i of row j (R165). -/
def BArr.addr (x : BArr) (zs : List Nat) (j i : Nat) : Nat :=
  let un := j % numBanks zs
  bankAddr (zs.getD (un / 1024) 0) (un % 1024) (x.off + j / numBanks zs * x.slot + i)

/-- Bank number of R143 that holds row j. -/
def bankOfRow (zs : List Nat) (j : Nat) : Nat :=
  let un := j % numBanks zs
  1024 * zs.getD (un / 1024) 0 + un % 1024

/-- INDEX interval of an array's range (R166). -/
def BArr.index (x : BArr) (zs : List Nat) : Nat × Nat := (x.off / 512, (x.off + x.slots zs * x.slot - 1) / 512)

/-- Is group g of the zone of stack z interleaved (R142)? -/
def interleaved (z g : Nat) (s : State) : Bool := rbit (if z < 4 then R.MEM_D0_ILV else R.MEM_D1_ILV) g s

/-- Does a range of device addresses overlap the stacked page pool? -/
def overlapsPool (lo hi : Nat) (s : State) : Bool :=
  let b := rget R.KVP_SPOOL_BASE s
  let n := 65536 * rget R.KVP_SPOOL_FRAMES s
  n != 0 && decide (lo < b + n) && decide (b < hi)

/-- Cause for which an array keeps its command from starting (R166). -/
def BArr.fault (x : BArr) (zs : List Nat) (s : State) : Option Nat :=
  let (lo, hi) := x.index zs
  if 2 ^ 26 < x.off + x.slots zs * x.slot then some 0x0150
  else if zs.any (fun z => (List.range (hi / 2048 - lo / 2048 + 1)).any (fun i => interleaved z (lo / 2048 + i) s)) then some 0x0150
  else if zs.any (fun z => overlapsPool (z * 2 ^ 36 + lo * 2 ^ 19) (z * 2 ^ 36 + (hi + 1) * 2 ^ 19) s) then some 0x0151
  else none

/-- The first fault of a command's arrays: 0x0150 before 0x0151. -/
def arraysFault (l : List BArr) (zs : List Nat) (s : State) : Option Nat :=
  let fs := l.filterMap (fun x => x.fault zs s)
  if fs.contains 0x0150 then some 0x0150 else fs.head?

/-- An array's range in the stacks of a set, as device ranges (R166). -/
def BArr.range (zs : List Nat) (x : BArr) : List (Nat × Nat) :=
  let (lo, hi) := x.index zs
  zs.map (fun z => (z * 2 ^ 36 + lo * 2 ^ 19, (hi + 1 - lo) * 2 ^ 19))

/-- Elements of row j that exist, of n in rows of 256. -/
def rowLen (n j : Nat) : Nat := min 256 (n - 256 * j)

/-- Where an array's n elements of w bytes stand, in rows of 256 elements (R174). -/
def BArr.pieces (zs : List Nat) (w n : Nat) (x : BArr) : List (Nat × Nat) :=
  (List.range x.rows).flatMap (fun j => (List.range (ceilDiv (w * rowLen n j) 512)).map (fun i =>
    (x.addr zs j (512 * i), min 512 (w * rowLen n j - 512 * i))))

/-! ### Faults (R180, R181) -/

/-- Image of BNK_FAIL (Table 9.10). -/
def bankFailImage (bank slot op q : Nat) : Nat := bank + ((slot % 2 ^ 24) <<< 16) + (op <<< 40) + (q <<< 48) + 2 ^ 63

/-- A bank unit has read poisoned data (R180): captured when VALID is clear. -/
def capturePoison (bank slot : Nat) (x : Started) (s : State) : State :=
  let t := rsetBit R.BNK_EVT 0 s
  if rbit R.BNK_FAIL 63 t then t
  else snapOn R.BNK_CTL 1 5 bBNK (rset R.BNK_FAIL (bankFailImage bank slot (opcodeOf x.bytes) x.q) t)

/-- Parity errors reported for slot k by stacks of the set. -/
def parityOf (ps : List ParityErr) (zs : List Nat) (k : Nat) : List ParityErr :=
  ps.filter (fun p => p.slot == k && zs.contains p.stack.val)

/-- A slot is repeated (R181). -/
def repeatSlot (p : ParityErr) (q : Nat) (s : State) : State :=
  reportError 1 bBNK 0 q p.stack.val (rsetBit R.BNK_EVT 1 (rcountSat R.BNK_LRETRY s))

/-- What the parity errors of slot k come to: the slot repeated, or at the second error the module's Holdfast. -/
def slotParity (ps : List ParityErr) (zs : List Nat) (k q : Nat) (s : State) : State × Bool :=
  match parityOf ps zs k with
  | [] => (s, false)
  | p :: [] => (repeatSlot p q s, false)
  | p :: r :: _ => (chipFatal bBNK 3 q r.stack.val (repeatSlot p q s), true)

/-- A read by a bank unit: which array piece, at which step of its slot. -/
def rowPoison (s : State) (reads : List (Nat × Nat × Nat)) : Option Nat :=
  (reads.filter (fun r => poisoned s r.2.1 r.2.2)).foldl (fun a r => some (match a with | none => r.1 | some x => min x r.1)) none

/-- The earliest of several (step, bank) pairs. -/
def firstFail : List (Nat × Nat) → Option (Nat × Nat)
  | [] => none
  | a :: t =>
    match firstFail t with
    | none => some a
    | some b => if a.1 < b.1 ∨ (a.1 = b.1 ∧ a.2 ≤ b.2) then some a else some b

/-- The bank units' own bookkeeping at a command's end (R167, Table 9.9): lane cycles are a free value (log 30). -/
def bankIdle (zs : List Nat) (s : State) : State :=
  let t := zs.foldl (fun t z => bumpFree (rcountBy (R.BNK_Sn_BUSY z) (Config.freeNat t.freeCtr) t)) s
  rsetBits R.BNK_STAT 23 8 0 (rclrBit R.BNK_STAT 1 { t with bank := { t.bank with ranges := [] } })

def bankDone (c : Nat) (zs : List Nat) (s : State) : State := markDone c (rcount R.BNK_CMDS (bankIdle zs s))

def bankFailed (c cause inst : Nat) (zs : List Nat) (s : State) : State := failCmd c bBNK cause inst (bankIdle zs s)

/-- The running bank command is shown (Table 9.9), and its ranges are held (R152). -/
def bankShow (op mask : Nat) (ranges : List (Nat × Nat)) (s : State) : State :=
  rsetBits R.BNK_STAT 23 16 mask (rsetBits R.BNK_STAT 15 8 op (rsetBit R.BNK_STAT 1
    (touchReads ranges { s with bank := { s.bank with ranges := ranges } })))

/-! ### Bank commands by slots -/

/-- A command that goes through its rows slot by slot: the sets, how many rows and slots, what a row reads as (step,
address, length), and what a row writes. -/
structure BankJob where
  x     : Started
  zs    : List Nat
  rows  : Nat
  reads : Nat → List (Nat × Nat × Nat)
  work  : State → Nat → List (Nat × Bytes) × Nat

/-- Rows of slot k. -/
def BankJob.rowsOf (b : BankJob) (k : Nat) : List Nat :=
  (List.range (numBanks b.zs)).filterMap (fun i => let j := k * numBanks b.zs + i; if j < b.rows then some j else none)

/-- One row is worked and written. -/
def BankJob.doRow (b : BankJob) (s : State) (j : Nat) : State :=
  let (ws, fl) := b.work s j
  addFlags b.x.id fl (ws.foldl (fun t w => poke w.1 w.2 t) s)

/-- Slots from k on, `n` of them left (R165, R180, R181). -/
def BankJob.go (ps : List ParityErr) (b : BankJob) : Nat → Nat → State → State
  | 0, _, s => bankDone b.x.id b.zs s
  | n + 1, k, s =>
    let (s1, dead) := slotParity ps b.zs k b.x.q s
    if dead then s1
    else
      let js := b.rowsOf k
      let bad := js.filterMap (fun j => (rowPoison s1 (b.reads j)).map (fun st => (st, bankOfRow b.zs j)))
      let good := js.filter (fun j => (rowPoison s1 (b.reads j)).isNone)
      let t := good.foldl b.doRow s1
      match firstFail bad with
      | none => b.go ps n (k + 1) t
      | some (_, bank) => bankFailed b.x.id 0x0152 (bank / 1024) b.zs (capturePoison bank k b.x t)

/-! ### FP32 arithmetic of a lane (R163) -/

/-- Correctly rounded square root of an FP32 word; INVALID below zero (R63). -/
def f32Sqrt (w : Nat) : Nat × Nat :=
  match f32 w with
  | .nan => (0x7FC00000, 0)
  | .inf true => (0x7FC00000, flagInvalid)
  | .inf false => (0x7F800000, 0)
  | .fin neg m e =>
    if m = 0 then (w, 0)
    else if neg then (0x7FC00000, flagInvalid)
    else
      let (r, q) := sqrtSticky m e
      let (v, fl) := roundTo fmtFP32 .rne 0 false r 1 q
      (encodeLin fmtFP32 v, fl)

/-- FP32 word of a 16-bit element or of an FP32 word. -/
def wordOf (fmt code : Nat) : Nat := encodeLin fmtFP32 (decodeElem fmt false 127 code)

/-- Is an FP32 immediate finite? -/
def finite32 (w : Nat) : Bool := bits w 30 23 != 255

/-- Pairwise sum of words by levels (R172). -/
def pairSum : Nat → List Nat → Nat × Nat
  | 0, l => (l.headD 0, 0)
  | n + 1, l =>
    let rec pairs : List Nat → List Nat × Nat
      | a :: b :: t =>
        let (v, x) := f32Add a b
        let (r, y) := pairs t
        (v :: r, x ||| y)
      | l => (l, 0)
    let (r, x) := pairs l
    let (v, y) := pairSum n r
    (v, x ||| y)

/-! ### BANK_MV (R171 to R173) -/

structure MV where
  zs  : List Nat
  b   : Nat
  ks  : Nat
  fmt : Nat
  r   : Nat
  c   : Nat
  w   : BArr
  x   : TD
  y   : TD
  ru  : RUnit
  deriving Inhabited

def MV.parse (b : Bytes) : MV :=
  let ks := 2 ^ bits (u b 18 1) 1 0
  let r := u b 20 4
  let c := u b 24 4
  { zs := stackSet (u b 16 1), b := u b 17 1, ks := ks, fmt := bits (u b 19 1) 4 0, r := r, c := c,
    w := { off := u b 28 4, slot := 2 * c / ks, rows := r * ks },
    x := TD.parse (unitAt b 1), y := TD.parse (unitAt b 2), ru := RUnit.parse (unitAt b 3) }

def bankMvBad (b : Bytes) : Bool :=
  let m := MV.parse b
  !operandsOk [byteRange 17 16, (145, 144), (156, 152), byteRange 31 20] b || u b 16 1 == 0 ||
  m.c % (32 * m.ks) != 0 || m.c == 0 || decide (65536 < m.c) || m.b == 0 || decide (64 < m.b) || !is16 m.fmt ||
  m.r == 0 || decide (16777216 < m.r) || m.w.off % 512 != 0 ||
  tdBad false (unitAt b 1) || m.x.rows != m.b || m.x.cols != m.c || m.x.fmt != m.fmt || m.x.trans || m.x.quant ||
  tdBad false (unitAt b 2) || m.y.rows != m.b || m.y.cols != m.r || decide (2 < m.y.fmt) || m.y.trans || m.y.quant ||
  runitBad true (unitAt b 3) || m.ru.mode == 2

/-- FP32 words of weights of segment row j. -/
def MV.weights (m : MV) (s : State) (j : Nat) : List Nat :=
  (List.range (m.c / m.ks)).map (fun i => wordOf m.fmt (readNat s (m.w.addr m.zs j (2 * i)) 2))

/-- Lane l of a row: fused multiply-adds in ascending column order. -/
def laneAcc (ws xs : List Nat) (l : Nat) : Nat × Nat :=
  (List.range (ws.length / 32)).foldl (fun a k =>
    let (v, fl) := f32Fma (ws.getD (32 * k + l) 0) (xs.getD (32 * k + l) 0) a.1
    (v, a.2 ||| fl)) (0, 0)

/-- Partial of a segment row for one vector (R172). -/
def partialMV (ws xs : List Nat) : Nat × Nat :=
  let ls := (List.range 32).map (laneAcc ws xs)
  let (v, fl) := pairSum 5 (ls.map (·.1))
  (v, ls.foldl (fun a x => a ||| x.2) fl)

/-- FP32 words of vector b at the columns of segment g. -/
def MV.vec (m : MV) (s : State) (b g : Nat) : List Nat :=
  let n := m.c / m.ks
  (List.range n).map (fun i => wordOf m.fmt (m.x.code s b (g * n + i)))

/-- Y[b][r] in FP32 before its rounding to Y's format: the partials of the segments in ascending order. -/
def MV.out (m : MV) (s : State) (b r : Nat) : Nat × Nat :=
  let ps := (List.range m.ks).map (fun g => partialMV (m.weights s (r * m.ks + g)) (m.vec s b g))
  match ps with
  | [] => (0, 0)
  | p :: t => t.foldl (fun a q => let (v, fl) := f32Add a.1 q.1; (v, a.2 ||| q.2 ||| fl)) p

/-- The weight reads that meet poison, as (pass, chunk, slot, bank) in the order of R172. -/
def MV.poisons (m : MV) (s : State) : List (Nat × Nat × Nat × Nat) :=
  let n := m.c / m.ks / 32
  let p := 256 / m.b
  (List.range m.w.rows).flatMap (fun j =>
    (List.range n).filterMap (fun k =>
      if poisoned s (m.w.addr m.zs j (64 * k)) 64 then
        let slot := j / numBanks m.zs
        some (slot / p, (j % m.ks) * n + k, slot, bankOfRow m.zs j)
      else none))

def mvBefore (a b : Nat × Nat × Nat × Nat) : Bool :=
  decide (a.1 < b.1) || (a.1 == b.1 && (decide (a.2.1 < b.2.1) || (a.2.1 == b.2.1 && (decide (a.2.2.1 < b.2.2.1) ||
    (a.2.2.1 == b.2.2.1 && decide (a.2.2.2 ≤ b.2.2.2))))))

def firstMv : List (Nat × Nat × Nat × Nat) → Option (Nat × Nat × Nat × Nat)
  | [] => none
  | a :: t => match firstMv t with | none => some a | some b => if mvBefore a b then some a else some b

/-- The ranges of an operand become undefined. -/
def forgetAll (l : List (Nat × Nat)) (s : State) : State :=
  l.foldl (fun t r => match reach t r.1 with | .mem o => forgetRange o (o + r.2) t | _ => t) s

/-- Parity of slots below n, in order. -/
def paritySlots (ps : List ParityErr) (zs : List Nat) (q : Nat) : Nat → Nat → State → State × Bool
  | 0, _, s => (s, false)
  | n + 1, k, s =>
    let (t, dead) := slotParity ps zs k q s
    if dead then (t, true) else paritySlots ps zs q n (k + 1) t

/-- The products are rounded and written. -/
def mvWrite (c : Nat) (m : MV) (s : State) : State :=
  let outs := (List.range m.b).flatMap (fun b => (List.range m.r).map (fun r => (b, r, m.out s b r)))
  let mode : RMode := if m.ru.mode = 1 then .rtz else .rne
  let st := m.y.store m.ru.ovf (outs.map (fun o => { r := o.1, c := o.2.1, v := f32 o.2.2.1, mode := mode }))
  let w := st.write s
  let t := addFlags c (outs.foldl (fun a o => a ||| o.2.2.2) (st.allFlags ||| w.flags)) w.s
  match w.cause with
  | some cause => bankFailed c cause 0 m.zs t
  | none => bankDone c m.zs t

/-- BANK_MV. -/
def bankMvRun (c : Nat) (ps : List ParityErr) (s : State) : State :=
  match runningCmd c .bankMv s with
  | none => s
  | some x =>
    if enginesHeld s then s
    else
      let m := MV.parse x.bytes
      match m.w.fault m.zs s with
      | some e => failCmd c bBNK e 0 s
      | none =>
        match m.x.unmapped s <|> m.y.unmapped s with
        | some a => bankFailed c (reachCause s a) 0 m.zs (captureReach a s)
        | none =>
          if m.x.poisoned s then bankFailed c 0x0142 0 m.zs (forgetAll m.y.used (touchReads m.x.used s))
          else
            let fail := firstMv (m.poisons s)
            let n := match fail with | none => m.w.slots m.zs | some f => f.2.2.1 + 1
            let (t, dead) := paritySlots ps m.zs x.q n 0 s
            if dead then t
            else
              match fail with
              | some f =>
                bankFailed c 0x0152 (f.2.2.2 / 1024) m.zs
                  (capturePoison f.2.2.2 f.2.2.1 x (forgetAll m.y.used t))
              | none => mvWrite c m (touchReads m.x.used t)

def execBankMv (c : Nat) (parity : List ParityErr) (s : State) : Host.Outcome State Fault Refusal :=
  .next (bankMvRun c parity s)

/-! ### BANK_OPT (R174 to R177) -/

structure OptB where
  zs   : List Nat
  opt  : Nat
  gInt : Bool
  wFmt : Nat
  e    : Int
  np   : Nat
  d    : Nat
  w    : BArr
  g    : BArr
  m    : BArr
  v    : BArr
  mFmt : Nat
  vFmt : Nat
  imm  : Nat → Nat
  ru   : RUnit

def OptB.parse (b : Bytes) : OptB :=
  let un := unitAt b 1
  let np := u b 20 4
  let rows := ceilDiv np 256
  let gi := bitAt (u b 17 1) 2
  { zs := stackSet (u b 16 1), opt := bits (u b 17 1) 1 0, gInt := gi, wFmt := bits (u b 18 1) 4 0,
    e := signed 8 (u b 19 1), np := np, d := u b 24 2,
    w := { off := u un 0 4, slot := 512, rows := rows },
    g := { off := u un 4 4, slot := if gi then 2048 else 1024, rows := rows },
    m := { off := u un 8 4, slot := 512, rows := rows },
    v := { off := u un 12 4, slot := 512, rows := rows },
    mFmt := bits (u un 16 1) 4 0, vFmt := bits (u un 17 1) 4 0,
    imm := fun i => if i < 8 then u (unitAt b 2) (4 * i) 4 else u (unitAt b 3) 0 4,
    ru := RUnit.parse (unitAt b 4) }

def OptB.usesM (o : OptB) : Bool := o.opt == 0 || o.opt == 1
def OptB.usesV (o : OptB) : Bool := o.opt == 0

/-- The arrays that OPT uses. -/
def OptB.arrays (o : OptB) : List BArr := [o.w, o.g] ++ (if o.usesM then [o.m] else []) ++ (if o.usesV then [o.v] else [])

def bankOptBad (b : Bytes) : Bool :=
  let o := OptB.parse b
  !operandsOk [byteRange 16 16, (138, 136), (148, 144), byteRange 19 19, byteRange 23 20, (207, 192)] b ||
  !onlyBits [byteRange 15 0, (132, 128), (140, 136)] (unitAt b 1) || !onlyBits [byteRange 3 0] (unitAt b 3) ||
  u b 16 1 == 0 || !is16 o.wFmt || (o.usesM && !is16 o.mFmt) || (o.usesV && !is16 o.vFmt) || o.opt == 3 ||
  o.np == 0 || o.d == 0 || (List.range 9).any (fun i => !finite32 (o.imm i)) ||
  o.arrays.any (fun a => a.off % 512 != 0) || runitBad true (unitAt b 4)

/-- Rounding mode of element p of row j for the array of output stage `stage` (R176). -/
def bankMode (ru : RUnit) (zs : List Nat) (stage j p : Nat) : RMode :=
  match ru.mode with
  | 0 => .rne
  | 1 => .rtz
  | _ =>
    .sr ru.nbits (randomWord ru.seed ru.base (32 * bankOfRow zs j + p % 32) 1 ((ru.tag + stage) % 2 ^ 32)
      ((j / numBanks zs) * 8 + p / 32) >>> (32 - ru.nbits))

/-- Results of flags and values gathered in order. -/
def andThen (a : Nat × Nat) (f : Nat → Nat × Nat) : Nat × Nat := let r := f a.1; (r.1, a.2 ||| r.2)

/-- Element update of R175: (w, m, v) words and flags. -/
def optElem (o : OptB) (w g0 m0 v0 : Nat) : Nat × Nat × Nat × Nat :=
  let g := andThen (f32Div g0 (toF32 (ofDy (o.d, 0))).1) (fun g => f32Mul g (o.imm 8))
  let (m, v, un) : (Nat × Nat) × (Nat × Nat) × (Nat × Nat) :=
    if o.opt = 0 then
      let m := andThen (f32Mul (o.imm 1) g.1) (fun t => f32Fma (o.imm 0) m0 t)
      let v := andThen (andThen (f32Mul g.1 g.1) (fun t => f32Mul (o.imm 3) t)) (fun t => f32Fma (o.imm 2) v0 t)
      let num := f32Mul m.1 (o.imm 5)
      let den := andThen (andThen (f32Mul v.1 (o.imm 6)) f32Sqrt) (fun t => f32Add t (o.imm 4))
      let q := f32Div num.1 den.1
      (m, v, (q.1, q.2 ||| num.2 ||| den.2))
    else if o.opt = 1 then
      let m := f32Fma (o.imm 0) m0 g.1
      (m, (0, 0), f32Mul m.1 (o.imm 5))
    else ((0, 0), (0, 0), f32Mul g.1 (o.imm 5))
  let dw := f32Fma (o.imm 7) w un.1
  let r := f32Add w (f32Neg dw.1)
  (r.1, m.1, v.1, g.2 ||| m.2 ||| v.2 ||| un.2 ||| dw.2 ||| r.2)

/-- A stored element of an array with elements of `w` bytes. -/
def BArr.elem (x : BArr) (s : State) (zs : List Nat) (w j p : Nat) : Nat := readNat s (x.addr zs j (p * w)) w

/-- Row j updated: the writes and the flags. -/
def OptB.row (o : OptB) (s : State) (j : Nat) : List (Nat × Bytes) × Nat :=
  (List.range (rowLen o.np j)).foldl (fun a p =>
    let g := if o.gInt then (toF32 (ofDy (signed 64 (o.g.elem s o.zs 8 j p), o.e))) else (o.g.elem s o.zs 4 j p, 0)
    let m0 := if o.usesM then wordOf o.mFmt (o.m.elem s o.zs 2 j p) else 0
    let v0 := if o.usesV then wordOf o.vFmt (o.v.elem s o.zs 2 j p) else 0
    let (w, m, v, fl) := optElem o (wordOf o.wFmt (o.w.elem s o.zs 2 j p)) g.1 m0 v0
    let out (stage fmt : Nat) (x : BArr) (val : Nat) : (Nat × Bytes) × Nat :=
      let (code, f) := encodeElem fmt false (bankMode o.ru o.zs stage j p) o.ru.ovf false (f32 val)
      ((x.addr o.zs j (2 * p), leBytes 2 code), f)
    let outs := [out 0 o.wFmt o.w w] ++ (if o.usesM then [out 1 o.mFmt o.m m] else [])
      ++ (if o.usesV then [out 2 o.vFmt o.v v] else [])
    (a.1 ++ outs.map (·.1), outs.foldl (fun f x => f ||| x.2) (a.2 ||| fl ||| g.2))) ([], 0)

/-- Reads of row j of an array by steps of 32 elements, of `w` bytes each. -/
def BArr.reads (x : BArr) (zs : List Nat) (w n j : Nat) : List (Nat × Nat × Nat) :=
  (List.range (ceilDiv (rowLen n j) 32)).flatMap (fun g =>
    (List.range (min 32 (rowLen n j - 32 * g))).map (fun i => (g, x.addr zs j ((32 * g + i) * w), w)))

def OptB.reads (o : OptB) (j : Nat) : List (Nat × Nat × Nat) :=
  o.w.reads o.zs 2 o.np j ++ o.g.reads o.zs (if o.gInt then 8 else 4) o.np j
    ++ (if o.usesM then o.m.reads o.zs 2 o.np j else []) ++ (if o.usesV then o.v.reads o.zs 2 o.np j else [])

/-- BANK_OPT. -/
def bankOptRun (c : Nat) (ps : List ParityErr) (s : State) : State :=
  match runningCmd c .bankOpt s with
  | none => s
  | some x =>
    if enginesHeld s then s
    else
      let o := OptB.parse x.bytes
      match arraysFault o.arrays o.zs s with
      | some e => failCmd c bBNK e 0 s
      | none => BankJob.go ps { x := x, zs := o.zs, rows := o.w.rows, reads := o.reads, work := o.row } (o.w.slots o.zs) 0 s

def execBankOpt (c : Nat) (parity : List ParityErr) (s : State) : Host.Outcome State Fault Refusal :=
  .next (bankOptRun c parity s)

/-! ### BANK_EW (R178) -/

structure EW where
  zs    : List Nat
  op    : Nat
  ne    : Nat
  off   : Nat → Nat
  fmt   : Nat → Nat
  alpha : Nat
  beta  : Nat
  ru    : RUnit

def EW.parse (b : Bytes) : EW :=
  let un := unitAt b 1
  { zs := stackSet (u b 16 1), op := u b 17 1, ne := u b 20 4, off := fun i => u un (4 * i) 4,
    fmt := fun i => bits (u un (12 + i) 1) 4 0, alpha := u (unitAt b 2) 0 4, beta := u (unitAt b 2) 4 4,
    ru := RUnit.parse (unitAt b 3) }

/-- Arrays that an operation uses: 0 X, 1 Y, 2 Z. -/
def EW.uses (e : EW) : List Nat := if e.op = 2 then [2] else if e.op = 3 then [0, 2] else [0, 1, 2]

def EW.arr (e : EW) (i : Nat) : BArr :=
  { off := e.off i, slot := 256 * (fmtBits (e.fmt i) / 8), rows := ceilDiv e.ne 256 }

def bankEwBad (b : Bytes) : Bool :=
  let e := EW.parse b
  !operandsOk [byteRange 17 16, byteRange 23 20] b ||
  !onlyBits [byteRange 11 0, (100, 96), (108, 104), (116, 112)] (unitAt b 1) || !onlyBits [byteRange 7 0] (unitAt b 2) ||
  u b 16 1 == 0 || decide (3 < e.op) || e.ne == 0 || e.uses.any (fun i => decide (2 < e.fmt i) || e.off i % 512 != 0) ||
  ((e.op == 0 || e.op == 2) && !finite32 e.alpha) || (e.op == 0 && !finite32 e.beta) || runitBad true (unitAt b 3)

def EW.width (e : EW) (i : Nat) : Nat := fmtBits (e.fmt i) / 8

/-- z of one element (Table 9.6). -/
def EW.value (e : EW) (x y : Nat) : Nat × Nat :=
  match e.op with
  | 0 => andThen (f32Mul e.beta y) (fun t => f32Fma e.alpha x t)
  | 1 => f32Mul x y
  | 2 => (e.alpha, 0)
  | _ => (x, 0)

def EW.row (e : EW) (s : State) (j : Nat) : List (Nat × Bytes) × Nat :=
  (List.range (rowLen e.ne j)).foldl (fun a p =>
    let arg (i : Nat) : Nat := if e.uses.contains i then wordOf (e.fmt i) ((e.arr i).elem s e.zs (e.width i) j p) else 0
    let (z, fl) := e.value (arg 0) (arg 1)
    let (code, f) := encodeElem (e.fmt 2) false (bankMode e.ru e.zs 0 j p) e.ru.ovf false (f32 z)
    (a.1 ++ [((e.arr 2).addr e.zs j (p * e.width 2), leBytes (e.width 2) code)], a.2 ||| fl ||| f)) ([], 0)

def EW.reads (e : EW) (j : Nat) : List (Nat × Nat × Nat) :=
  ((e.uses.filter (fun i => i != 2)).map (fun i => (e.arr i).reads e.zs (e.width i) e.ne j)).flatten

/-- BANK_EW. -/
def bankEwRun (c : Nat) (ps : List ParityErr) (s : State) : State :=
  match runningCmd c .bankEw s with
  | none => s
  | some x =>
    if enginesHeld s then s
    else
      let e := EW.parse x.bytes
      match arraysFault (e.uses.map e.arr) e.zs s with
      | some f => failCmd c bBNK f 0 s
      | none =>
        BankJob.go ps { x := x, zs := e.zs, rows := (e.arr 2).rows, reads := e.reads, work := e.row } ((e.arr 2).slots e.zs) 0 s

def execBankEw (c : Nat) (parity : List ParityErr) (s : State) : Host.Outcome State Fault Refusal :=
  .next (bankEwRun c parity s)

/-! ### BANK_COPY (R179) -/

def copyList (b : Bytes) : Nat := u b 16 6
def copyCount (b : Bytes) : Nat := u b 24 4

/-- Pair i of the list: source and target. -/
def copyPair (s : State) (b : Bytes) (i : Nat) : Nat × Nat :=
  (readNat s (copyList b + 16 * i) 6, readNat s (copyList b + 16 * i + 8) 6)

/-- A pair that makes the command malformed. -/
def pairBad (s : State) (b : Bytes) (i : Nat) : Bool :=
  let (x, y) := copyPair s b i
  readNat s (copyList b + 16 * i + 6) 2 != 0 || readNat s (copyList b + 16 * i + 14) 2 != 0 ||
  x % 65536 != 0 || y % 65536 != 0 || !inStacked x 65536 || !inStacked y 65536 || x / 2 ^ 36 != y / 2 ^ 36 ||
  bits x 18 16 != bits y 18 16

def bankCopyBad (b : Bytes) (s : State) : Bool :=
  let a := copyList b
  let n := copyCount b
  !operandsOk [byteRange 21 16, byteRange 27 24] b || a % 16 != 0 || n == 0 || decide (65536 < n) ||
  ((firstUnreached s a (16 * n)).isNone && !poisoned s a (16 * n) && (List.range n).any (pairBad s b))

/-- Stacks named by the pairs. -/
def copyStacks (s : State) (b : Bytes) : List Nat :=
  (List.range 8).filter (fun z => (List.range (copyCount b)).any (fun i => (copyPair s b i).1 / 2 ^ 36 == z))

/-- Cause for which a page keeps the command from starting (R166). -/
def pageFault (s : State) (a : Nat) : Option Nat :=
  if interleaved (a / 2 ^ 36) (bits a 35 30) s then some 0x0150
  else if overlapsPool a (a + 65536) s then some 0x0151
  else none

/-- Channel pieces of a page whose source is poisoned. -/
def badPieces (s : State) (src : Nat) : List Nat := (List.range 128).filter (fun c => poisoned s (src + 512 * c) 512)

/-- Pairs from i on (R180): a failing pair is written but for its poisoned pieces, and ends the command. -/
def copyGo (x : Started) (zs : List Nat) (ps : List ParityErr) : Nat → Nat → State → State
  | 0, _, s => bankDone x.id zs s
  | n + 1, i, s =>
    let (s1, dead) := slotParity ps zs i x.q s
    if dead then s1
    else
      let (src, dst) := copyPair s1 x.bytes i
      let bad := badPieces s1 src
      let put (t : State) (c : Nat) : State := poke (dst + 512 * c) (readBytes s1 (src + 512 * c) 512) t
      match bad with
      | [] => copyGo x zs ps n (i + 1) (rcount R.BNK_COPIES (poke dst (readBytes s1 src 65536) s1))
      | c :: _ =>
        let t := ((List.range 128).filter (fun c => !bad.contains c)).foldl put s1
        let bank := 1024 * (src / 2 ^ 36) + 8 * c + bits src 18 16
        bankFailed x.id 0x0152 (src / 2 ^ 36) zs (capturePoison bank i x t)

/-- BANK_COPY. -/
def bankCopyRun (c : Nat) (ps : List ParityErr) (s : State) : State :=
  match runningCmd c .bankCopy s with
  | none => s
  | some x =>
    if enginesHeld s then s
    else
      let a := copyList x.bytes
      let n := copyCount x.bytes
      let zs := copyStacks s x.bytes
      match firstUnreached s a (16 * n) with
      | some e => bankFailed c (reachCause s e) 0 zs (captureReach e s)
      | none =>
        if poisoned s a (16 * n) then bankFailed c 0x0142 0 zs s
        else
          let fs := ((List.range n).flatMap (fun i => [(copyPair s x.bytes i).1, (copyPair s x.bytes i).2])).filterMap (pageFault s)
          if fs.contains 0x0150 then failCmd c bBNK 0x0150 0 s
          else if fs.contains 0x0151 then failCmd c bBNK 0x0151 0 s
          else copyGo x zs ps n 0 s

def execBankCopy (c : Nat) (parity : List ParityErr) (s : State) : Host.Outcome State Fault Refusal :=
  .next (bankCopyRun c parity s)

/-! ### What COMMAND_START asks of a bank command (R167, R170, R322) -/

/-- The stacks of a bank command. -/
def bankStacks (o : Op) (b : Bytes) (s : State) : List Nat :=
  if o = .bankCopy then
    (if (firstUnreached s (copyList b) (16 * copyCount b)).isNone then copyStacks s b else [])
  else stackSet (u b 16 1)

/-- A bank command that has started and is neither complete nor failed, or whose completion is still to be taken. -/
def bankRunning (s : State) : Bool :=
  s.started.any (fun x => (match opOfBytes x.bytes with | some o => isBankOp o | none => false)
    && (match x.state with | .failed _ => false | _ => true))

/-- A bank command waits for the one before it and for the tokens of its stacks. -/
def bankWaits (o : Op) (b : Bytes) (s : State) : Bool :=
  bankRunning s || (bankStacks o b s).any (fun z => rbits (R.PWR_Inn_CLK (64 + z)) 31 16 s == 0)

/-- Are the bank units held, or about to be (R170)? -/
def bankHeld (s : State) : Bool := rbit R.BNK_STAT 0 s || s.bank.holdPending

/-- Ranges of a command's arrays, or of the pages of its pairs, and the cause that keeps it from starting (R166, R179). -/
def bankRanges (o : Op) (b : Bytes) (s : State) : List (Nat × Nat) × Option Nat :=
  let of (l : List BArr) (zs : List Nat) : List (Nat × Nat) × Option Nat := (l.flatMap (BArr.range zs), arraysFault l zs s)
  match o with
  | .bankMv => let m := MV.parse b; of [m.w] m.zs
  | .bankOpt => let p := OptB.parse b; of p.arrays p.zs
  | .bankEw => let e := EW.parse b; of (e.uses.map e.arr) e.zs
  | _ =>
    if (firstUnreached s (copyList b) (16 * copyCount b)).isSome || poisoned s (copyList b) (16 * copyCount b) then ([], none)
    else
      let ps := (List.range (copyCount b)).flatMap (fun i => [(copyPair s b i).1, (copyPair s b i).2])
      (ps.map (fun a => (a, 65536)), (ps.filterMap (pageFault s)).head?)

/-- A bank command starts: it is shown and its ranges are held, unless R166 keeps it from starting. -/
def bankStart (o : Op) (b : Bytes) (s : State) : State :=
  let r := bankRanges o b s
  if r.2.isSome then s else bankShow (opcodeOf b) ((bankStacks o b s).foldl (fun a z => a ||| (1 <<< z)) 0) r.1 s

/-- Memory a bank command may write. -/
def bankOuts (o : Op) (b : Bytes) (s : State) : List (Nat × Nat) :=
  match o with
  | .bankMv => (MV.parse b).y.used
  | .bankOpt =>
    let p := OptB.parse b
    ([p.w] ++ (if p.usesM then [p.m] else []) ++ (if p.usesV then [p.v] else [])).flatMap (BArr.pieces p.zs 2 p.np)
  | .bankEw => let e := EW.parse b; BArr.pieces e.zs (e.width 2) e.ne (e.arr 2)
  | .bankCopy =>
    if (firstUnreached s (copyList b) (16 * copyCount b)).isNone then
      (List.range (copyCount b)).map (fun i => ((copyPair s b i).2, 65536))
    else []
  | _ => []

/-! ### Holding and waking (R170, R182) -/

/-- The units are gated: HELD, HOLD_DONE. -/
def bankGate (s : State) : State :=
  rsetBit R.BNK_EVT 2 (rsetBit R.BNK_STAT 0 { s with bank := {} })

/-- BANK_HOLD: a write of 1 to BNK_CTL.HOLD. During a wake it stops the wake. -/
def bankHold (s : State) : State :=
  if rbit R.BNK_CTL 0 s then s
  else
    let t := rsetBit R.BNK_CTL 0 s
    if s.bank.waking then bankGate t else { t with bank := { t.bank with holdPending := true } }

def execBankHold (s : State) : Host.Outcome State Fault Refusal := .next (bankHold s)

/-- BANK_HOLD_DONE: the running command has completed and the hold takes effect. -/
def bankHoldDone (s : State) : State := if s.bank.holdPending && !bankRunning s then bankGate s else s

def execBankHoldDone (s : State) : Host.Outcome State Fault Refusal := .next (bankHoldDone s)

/-- BANK_WAKE: a write of 0 to BNK_CTL.HOLD. It is ignored before BIST_PASS, and cancels a pending hold. -/
def bankWake (s : State) : State :=
  if !rbit R.BNK_STAT 2 s then misuse bBNK s
  else if !rbit R.BNK_CTL 0 s then s
  else
    let t := rclrBit R.BNK_CTL 0 s
    if s.bank.holdPending then { t with bank := { t.bank with holdPending := false } }
    else { t with bank := { t.bank with waking := true } }

def execBankWake (s : State) : Host.Outcome State Fault Refusal := .next (bankWake s)

/-- BANK_WAKE_DONE: HELD becomes 0 and HOLD_DONE is set. -/
def bankWakeDone (s : State) : State :=
  if s.bank.waking then
    rsetBit R.BNK_EVT 2 (rclrBit R.BNK_STAT 0 { s with bank := { s.bank with waking := false } })
  else s

def execBankWakeDone (s : State) : Host.Outcome State Fault Refusal := .next (bankWakeDone s)

/-- Does every die read below T_THR, so that engine clocks may start in bring-up (R363)? -/
def diesCool (s : State) : Bool := (List.range 3).all (fun i => decide (rbits R.PWR_TEMP (8 * i + 7) (8 * i) s < rbits R.PWR_THERM 7 0 s))

/-- BANK_BIST (R182): once the stacks are trained (Table 20.3) and engine clocks may start, BIST_PASS, or a chip-fatal error. -/
def bankBist (allPass : Bool) (s : State) : State :=
  if !rbit R.BNK_CTL 0 s || !rbit R.HIF_BOOT 8 s || !diesCool s then s
  else if allPass then rsetBit R.HIF_BOOT 10 (rsetBit R.BNK_STAT 2 s)
  else chipFatal bBNK 4 noQueue 0 s

def execBankBist (allPass : Bool) (s : State) : Host.Outcome State Fault Refusal := .next (bankBist allPass s)

end Sys2Proof.Machine
end

