-- ==== Sys2Proof/Machine/Comp.lean ====
section
/-! DEFINITION. The compressor and expander (chapter 12): symbol classes, the building of tables, canonical codes, the coding
and expanding of blocks, and the two table slots of an expander. -/

namespace Sys2Proof.Machine

/-! ### Symbol classes (R225, Table 12.2) -/

def clsElem (c : Nat) : Nat := if c = 1 ∨ c = 2 then 2 else if c = 3 then 4 else 1
/-- Bits of the residue. -/
def clsRes (c : Nat) : Nat := match c with | 1 => 7 | 2 => 10 | 3 => 23 | 4 => 3 | 5 => 2 | _ => 0
def clsAlpha (c : Nat) : Nat := match c with | 0 => 256 | 1 => 512 | 2 => 64 | 3 => 512 | 4 => 32 | _ => 64

/-- A byte string as elements of n bytes, little-endian; at most `k` of them. -/
def elemsOf (n : Nat) : Nat → Bytes → List Nat
  | 0, _ => []
  | k + 1, b => ofLe (b.take n) :: elemsOf n k (b.drop n)

def blockElems (cls : Nat) (b : Bytes) : List Nat := elemsOf (clsElem cls) (b.length / clsElem cls) b

/-! ### Tables (R226, R227) -/

/-- An item of the package-merge algorithm: count, the symbols in it, and whether it is a package. -/
structure PkItem where
  w    : Nat
  syms : List Nat
  pkg  : Bool := false

/-- A symbol goes into a list ordered by count, ties by symbol value. -/
def insertLeaf (x : PkItem) : List PkItem → List PkItem
  | [] => [x]
  | y :: t => if x.w < y.w then x :: y :: t else y :: insertLeaf x t

/-- A package goes into a list ordered by count, after packages of its own count (log 37). -/
def insertPkg (x : PkItem) : List PkItem → List PkItem
  | [] => [x]
  | y :: t => if y.w < x.w || (y.w == x.w && (y.pkg || Config.symbolFirst)) then y :: insertPkg x t else x :: y :: t

/-- Items taken in pairs. -/
def packages : List PkItem → List PkItem
  | a :: b :: t => { w := a.w + b.w, syms := a.syms ++ b.syms, pkg := true } :: packages t
  | _ => []

def pkLevels (leaves : List PkItem) : Nat → List PkItem
  | 0 => leaves
  | n + 1 => (packages (pkLevels leaves n)).foldl (fun l x => insertPkg x l) leaves

/-- Code lengths of at most 15 bits for the counts of an alphabet (R226). -/
def codeLens (counts : List Nat) : List Nat :=
  let n := counts.length
  let leaves := (counts.zipIdx).foldl (fun l c => insertLeaf { w := c.1, syms := [c.2] } l) []
  let chosen := ((pkLevels leaves 14).take (2 * n - 2)).flatMap (·.syms)
  (List.range n).map (fun i => chosen.count i)

/-- Counts of the symbols of a sample, each 1 higher. -/
def sampleCounts (cls : Nat) (b : Bytes) : List Nat :=
  let syms := (blockElems cls b).map (fun e => e >>> clsRes cls)
  (List.range (clsAlpha cls)).map (fun i => syms.count i + 1)

/-- Canonical codes (R227): (symbol, length, code) by rising length and symbol. -/
def canonCodes (lens : List Nat) : List (Nat × Nat × Nat) :=
  let syms := (List.range 16).flatMap (fun n => (lens.zipIdx).filterMap (fun x => if x.1 = n ∧ n ≠ 0 then some (x.2, n) else none))
  (syms.foldl (fun (a : List (Nat × Nat × Nat) × Nat × Nat) x =>
    let code := if a.1.isEmpty then 0 else (a.2.2 + 1) <<< (x.2 - a.2.1)
    (a.1 ++ [(x.1, x.2, code)], x.2, code)) ([], 0, 0)).1

/-! ### Table images (R228, Table 12.3) -/

def imageOf (gen cls : Nat) (lens : List Nat) : Bytes :=
  let l := padTo 256 ((List.range ((lens.length + 1) / 2)).map (fun i => BitVec.ofNat 8 (lens.getD (2 * i) 0 + 16 * lens.getD (2 * i + 1) 0)))
  padTo 512 (leBytes 2 gen ++ leBytes 1 cls ++ List.replicate 29 0 ++ l)

def imageGen (b : Bytes) : Nat := u b 0 2
def imageCls (b : Bytes) : Nat := u b 2 1 % 8

/-- Length of symbol i in an image. -/
def imageLen (b : Bytes) (i : Nat) : Nat := let x := u b (32 + i / 2) 1; if i % 2 = 0 then x % 16 else x / 16

/-- The cases in which an expander rejects an image. -/
def imageBad (b : Bytes) : Bool :=
  let n := clsAlpha (imageCls b)
  decide (5 < imageCls b) || decide (b.length ≠ 512) ||
  (List.range 512).any (fun i => if i < n then imageLen b i == 0 else imageLen b i != 0) ||
  (List.range n).foldl (fun a i => a + 2 ^ (15 - imageLen b i)) 0 != 2 ^ 15 ||
  !onlyBits [byteRange 1 0, (18, 16), byteRange 287 32] b

def tableOfImage (b : Bytes) : CodeTable :=
  { gen := imageGen b, cls := imageCls b, lens := (List.range (clsAlpha (imageCls b))).map (imageLen b) }

/-! ### Coding (R229 to R231) -/

/-- Bits packed into bytes from bit 0 upward, `n` bytes. -/
def packBits : Nat → List Bool → Bytes
  | 0, _ => []
  | n + 1, l => BitVec.ofNat 8 ((l.take 8).zipIdx.foldl (fun a x => a + (nb x.1 <<< x.2)) 0) :: packBits n (l.drop 8)

def bitsOfBytes (b : Bytes) : List Bool := b.flatMap (fun x => (List.range 8).map (fun i => x.toNat.testBit i))

/-- An element's code, most significant bit first, and its residue, least significant bit first. -/
def elemBits (cls : Nat) (codes : List (Nat × Nat × Nat)) (e : Nat) : List Bool :=
  match codes.find? (fun x => x.1 == e >>> clsRes cls) with
  | none => []
  | some (_, n, code) =>
    (List.range n).map (fun i => code.testBit (n - 1 - i)) ++ (List.range (clsRes cls)).map (fun i => e.testBit i)

def encodePayload (cls : Nat) (lens : List Nat) (b : Bytes) : Bytes :=
  let codes := canonCodes lens
  let l := (blockElems cls b).flatMap (elemBits cls codes)
  packBits ((l.length + 7) / 8) l

/-- Block header (Table 12.4). -/
def blockHdr (gen clen cls raw : Nat) (stored : Bool) (index : Nat) : Nat :=
  gen + (clen <<< 16) + (cls <<< 29) + (raw <<< 32) + (nb stored <<< 45) + ((index % 65536) <<< 48)

def hdrGen (h : Nat) : Nat := bits h 15 0
def hdrClen (h : Nat) : Nat := bits h 28 16
def hdrRaw (h : Nat) : Nat := bits h 44 32
def hdrStored (h : Nat) : Bool := bitAt h 45
def hdrIndex (h : Nat) : Nat := bits h 63 48

/-- Data cut into compression blocks at the 4 KiB boundaries of its source address (R224); at most `n` blocks. -/
def cutBlocks : Nat → Nat → Bytes → List Bytes
  | 0, _, _ => []
  | n + 1, a, b =>
    if b.isEmpty then []
    else
      let k := 4096 - a % 4096
      b.take k :: cutBlocks n (a + k) (b.drop k)

def blocksOf (a : Nat) (b : Bytes) : List Bytes := cutBlocks (b.length / 4096 + 2) a b

/-- Counts of KiB, with what lies beyond the last whole KiB kept (Table 12.5). -/
def countComp (p raw coded : Nat) (s : State) : State :=
  let x := compx p s
  let r := x.rawB + raw
  let k := x.codedB + coded
  rcountBy (R.CMP_Pnn_CODED p) (k / 1024) (rcountBy (R.CMP_Pnn_RAW p) (r / 1024)
    (setCompx p { x with rawB := r % 1024, codedB := k % 1024 } s))

/-- A new table is built from a sample; its generation is one above the last (R233, log 17). -/
def newTable (p cls : Nat) (sample : Bytes) (s : State) : CodeTable × State :=
  let x := compx p s
  let g := (x.txGen + 1) % 65536
  ({ gen := g, cls := cls, lens := codeLens (sampleCounts cls sample) }, setCompx p { x with txGen := g } s)

/-- What a compressor puts out: a table image or a block. -/
inductive CompOut
  | image (b : Bytes)
  | block (hdr : Nat) (payload : Bytes)

/-- One block under a table, or STORED (R229, R230). -/
def codeBlock (p : Nat) (t : CodeTable) (i : Nat) (b : Bytes) (s : State) : CompOut × State :=
  let pl := encodePayload t.cls t.lens b
  if b.length < pl.length + 64 then
    (.block (blockHdr 0 b.length t.cls b.length true i) b, rcount (R.CMP_Pnn_STORED p) (countComp p b.length (b.length + 8) s))
  else (.block (blockHdr t.gen pl.length t.cls b.length false i) pl, countComp p b.length (pl.length + 8) s)

/-- The blocks of a run from block i on. A block of a size that its class cannot cut is coded in class BYTE under a table of
its own (log 38). -/
def codeBlocks (p : Nat) (t : CodeTable) : Nat → List Bytes → State → List CompOut × State
  | _, [], s => ([], s)
  | i, b :: rest, s =>
    if b.length % clsElem t.cls = 0 then
      let (o, s1) := codeBlock p t i b s
      let (os, s2) := codeBlocks p t (i + 1) rest s1
      (o :: os, s2)
    else
      let (t0, s0) := newTable p 0 b s
      let (o, s1) := codeBlock p t0 i b (countComp p 0 512 s0)
      let (os, s2) := codeBlocks p t (i + 1) rest s1
      (.image (imageOf t0.gen 0 t0.lens) :: o :: os, s2)

/-- A run of data with source address `a` in class `cls`: its table image and its blocks (R224 to R230). -/
def compressRun (p cls a : Nat) (data : Bytes) (s : State) : List CompOut × State :=
  let (t, s1) := newTable p cls (data.take (1024 * rbits R.CMP_SAMPLE 11 0 s)) s
  let (os, s2) := codeBlocks p t 0 (blocksOf a data) (countComp p 0 512 s1)
  (.image (imageOf t.gen t.cls t.lens) :: os, s2)

/-! ### Expanding (R234, R235) -/

/-- The symbol at the front of a bit string: `acc` and `n` are the bits read so far. -/
def decodeSym (codes : List (Nat × Nat × Nat)) : Nat → Nat → List Bool → Option (Nat × List Bool)
  | _, _, [] => none
  | acc, n, b :: t =>
    let a := 2 * acc + nb b
    match codes.find? (fun x => x.2.1 == n + 1 && x.2.2 == a) with
    | some x => some (x.1, t)
    | none => decodeSym codes a (n + 1) t

/-- `k` elements decoded; what is left of the bits. -/
def decodeElems (cls : Nat) (codes : List (Nat × Nat × Nat)) : Nat → List Bool → Option (Bytes × List Bool)
  | 0, l => some ([], l)
  | k + 1, l =>
    match decodeSym codes 0 0 l with
    | none => none
    | some (sym, rest) =>
      if rest.length < clsRes cls then none
      else
        let res := ((rest.take (clsRes cls)).zipIdx).foldl (fun a x => a + (nb x.1 <<< x.2)) 0
        match decodeElems cls codes k (rest.drop (clsRes cls)) with
        | none => none
        | some (b, l') => some (leBytes (clsElem cls) ((sym <<< clsRes cls) + res) ++ b, l')

/-- What an expander makes of a block. -/
inductive Expanded
  | ok (b : Bytes)
  | fail
  | stall (gen : Nat)
  deriving DecidableEq, Repr

def slotTable (x : CompX) (gen : Nat) : Option CodeTable :=
  match x.slot0 with
  | some t => if t.gen = gen then some t else (match x.slot1 with | some t => if t.gen = gen then some t else none | none => none)
  | none => (match x.slot1 with | some t => if t.gen = gen then some t else none | none => none)

def expandBlock (x : CompX) (b : BlockQ) : Expanded :=
  let raw := hdrRaw b.hdr
  let clen := hdrClen b.hdr
  if raw == 0 || decide (4096 < raw) || clen == 0 || decide (4096 < clen) then .fail
  else if hdrStored b.hdr then (if clen = raw ∧ b.payload.length = raw then .ok b.payload else .fail)
  else if x.rejected.contains (hdrGen b.hdr) then .fail
  else
    match slotTable x (hdrGen b.hdr) with
    | none => .stall (hdrGen b.hdr)
    | some t =>
      if raw % clsElem t.cls ≠ 0 then .fail
      else
        match decodeElems t.cls (canonCodes t.lens) (raw / clsElem t.cls) (bitsOfBytes (b.payload.take clen)) with
        | none => .fail
        | some (d, rest) => if rest.length ≤ 7 ∧ rest.all (fun x => !x) then .ok d else .fail

/-! ### Table slots (R233) -/

def showTables (p : Nat) (s : State) : State :=
  let x := compx p s
  let g (t : Option CodeTable) : Nat := match t with | none => 0 | some t => t.gen
  rsetBits (R.CMP_Pnn_STAT p) 1 0 (nb x.slot0.isSome + 2 * nb x.slot1.isSome)
    (rset (R.CMP_Pnn_SLOTS p) (g x.slot0 + (g x.slot1 <<< 16)) s)

/-- No queued block names the slot's generation; a block that has been discarded and asked for again is not queued until it arrives
(R233, R235). -/
def slotFree (x : CompX) : Option CodeTable → Bool
  | none => true
  | some t => !x.queued.any (fun b => !b.asked && !hdrStored b.hdr && hdrGen b.hdr == t.gen)

/-- Is slot 0 the one that holds the older generation, when both hold one? -/
def olderIs0 (a b : CodeTable) : Bool := decide ((b.gen + 65536 - a.gen) % 65536 < 32768)

/-- The slot that an image would replace. -/
def loadSlot (x : CompX) : Option Bool :=
  match slotFree x x.slot0, slotFree x x.slot1 with
  | true, true =>
    (match x.slot0, x.slot1 with
     | none, _ => some false
     | _, none => some true
     | some a, some b => some (!olderIs0 a b))
  | true, false => some false
  | false, true => some true
  | false, false => none

/-- A generation stall ends when an image of the awaited generation loads, or is rejected: its blocks fail then (R228, R234). -/
def endStall (p gen : Nat) (s : State) : State :=
  if rbit (R.CMP_Pnn_STAT p) 2 s && rbits (R.CMP_Pnn_STAT p) 31 16 s == gen then
    rsetBits (R.CMP_Pnn_STAT p) 31 16 0 (rclrBit (R.CMP_Pnn_STAT p) 2 s)
  else s

/-- The waiting image at the front loads, is rejected, or waits (R228, R233). The answer says what became of it: none when
it waits, else whether it loaded. -/
def loadImage (p : Nat) (s : State) : Option Bool × State :=
  let x := compx p s
  match x.waiting with
  | [] => (none, s)
  | b :: rest =>
    if imageBad b then
      (some false, endStall p (imageGen b) (rsetBit R.CMP_EVT 3 (setCompx p { x with waiting := rest, rejected := imageGen b :: x.rejected } s)))
    else
      match loadSlot x with
      | none => (none, s)
      | some k =>
        let t := tableOfImage b
        let y : CompX := { x with waiting := rest, rejected := x.rejected.filter (fun g => g != t.gen) }
        let y : CompX := if k then { y with slot1 := some t } else { y with slot0 := some t }
        (some true, endStall p t.gen (showTables p (rcount (R.CMP_Pnn_TABLES p) (setCompx p y s))))

/-- A block of generation `gen` stalls its expander (R234). -/
def genStall (p gen : Nat) (s : State) : State :=
  if rbit (R.CMP_Pnn_STAT p) 2 s then s
  else
    let t := rsetBits (R.CMP_Pnn_STAT p) 31 16 gen (rsetBit (R.CMP_Pnn_STAT p) 2 s)
    snapOn R.CMP_SNAP 1 1 bCMP (reportError 1 bCMP 0 noQueue p (rcountSat (R.CMP_Pnn_GENSTALL p) (rsetBit R.CMP_EVT 2 t)))

/-- First failure of a block (R235). -/
def mismatch (p : Nat) (s : State) : State :=
  reportError 1 bCMP 0 noQueue p (rcountSat (R.CMP_Pnn_MISMATCH p) (rsetBit R.CMP_EVT 0 s))

/-- Second failure of a block (R236). -/
def secondFailure (p : Nat) (s : State) : State :=
  snapOn R.CMP_SNAP 0 5 bCMP (rcountSat (R.CMP_Pnn_FAIL p) (rsetBit R.CMP_EVT 1 s))

end Sys2Proof.Machine
end

