-- ==== Sys2Proof/Machine/Stash.lean ====
section
/-! DEFINITION. The activation stash (chapter 11, R206 to R217): pools and entries, the fill order, STASH_PUT, STASH_GET and
STASH_DROP, offload with and without the compressor, and the loading of a table image (R233). -/

namespace Sys2Proof.Machine

/-! ### Operands (Table 11.2) -/

def stashEntryOf (b : Bytes) : Nat := u b 16 2
def putFmt (b : Bytes) : Nat := u b 19 1
def recompUnits (b : Bytes) : Nat := u b 20 4
def getKeep (b : Bytes) : Bool := bitAt (u b 18 1) 0

/-- Die that serves an entry (R206). -/
def stashDieOf (e : Nat) : Nat := e / 2048

/-- A format of Table 11.1. -/
def isStoreFmt (f : Nat) : Bool := isElemFmt f && !isIntFmt f

def stashPutBad (b : Bytes) : Bool :=
  let t := TD.parse (unitAt b 1)
  !operandsOk [(139, 128), (147, 144), (156, 152), byteRange 23 20] b || !isStoreFmt (putFmt b) ||
  tdBad false (unitAt b 1) || isIntFmt t.fmt || t.trans || t.quant ||
  runitBad true (unitAt b 2) || (RUnit.parse (unitAt b 2)).mode == 2

/-- The sequence of commands after the GET is checked by COMMAND_START, which reads the list. -/
def stashGetBad (b : Bytes) : Bool :=
  !operandsOk [(139, 128), (144, 144), byteRange 23 20] b || decide (1048575 < recompUnits b) || tdBad false (unitAt b 1)

def stashDropBad (b : Bytes) : Bool := !operandsOk [(139, 128)] b

/-! ### The stored form (R208) -/

/-- The stored form as a tensor whose first byte is byte 0 of the image: blocks first, then the scales (log 39). -/
def storedTD (rows cols fmt : Nat) (axis0 : Bool) : TD :=
  let t : TD := { rows := rows, cols := cols, fmt := fmt, axis := !axis0 }
  { t with scale := t.size }

def StashEntry.td (x : StashEntry) : TD := storedTD x.rows x.cols x.fmt x.axis0

/-- Bytes of the stored form, scales included. -/
def TD.imageLen (t : TD) : Nat := t.size + t.scaleSize

def stashFrame : Nat := 65536

def framesOf (t : TD) : Nat := ceilDiv t.imageLen stashFrame

def poolBase (lagoon : Bool) (d : Nat) (s : State) : Nat := rget (if lagoon then R.STS_Dd_LBASE d else R.STS_Dd_SBASE d) s

/-- Device address of byte o of a list of frames. -/
def frameByte (lagoon : Bool) (d : Nat) (fs : List Nat) (o : Nat) (s : State) : Nat :=
  poolBase lagoon d s + stashFrame * fs.getD (o / stashFrame) 0 + o % stashFrame

/-- Bytes off to off + n - 1 of what a list of frames holds. -/
def readFrames (lagoon : Bool) (d : Nat) (fs : List Nat) (off n : Nat) (s : State) : Bytes :=
  (List.range n).map (fun i => readByte s (frameByte lagoon d fs (off + i) s))

/-- Bytes written into frames from offset `off`, by runs that stay in one frame. -/
def writeFrames (lagoon : Bool) (d : Nat) (fs : List Nat) : Nat → Nat → Bytes → State → State
  | 0, _, _, s => s
  | n + 1, off, b, s =>
    if b.isEmpty then s
    else
      let k := stashFrame - off % stashFrame
      writeFrames lagoon d fs n (off + k) (b.drop k) (poke (frameByte lagoon d fs off s) (b.take k) s)

def putFrames (lagoon : Bool) (d : Nat) (fs : List Nat) (off : Nat) (b : Bytes) (s : State) : State :=
  writeFrames lagoon d fs (b.length / stashFrame + 2) off b s

/-- Is any of the bytes off to off + n - 1 of the frames poisoned? -/
def framesPoisoned (lagoon : Bool) (d : Nat) (fs : List Nat) (off n : Nat) (s : State) : Bool :=
  (List.range (ceilDiv n 32)).any (fun i => poisoned s (frameByte lagoon d fs (off + 32 * i) s) (min 32 (n - 32 * i)))

/-- Does element e of block b of a stored tensor exist (R69)? -/
def TD.hasElem (t : TD) (b e : Nat) : Bool :=
  decide (32 * (b / t.nbc) + e / 32 < t.rows) && decide (32 * (b % t.nbc) + e % 32 < t.cols)

/-- Bits of byte o of a stored tensor's image that are not padding. -/
def TD.byteMask (t : TD) (o : Nat) : Nat :=
  let w := fmtBits t.fmt
  if o < t.size then
    (List.range 8).foldl (fun a i =>
      if t.hasElem (o / (128 * w)) ((8 * (o % (128 * w)) + i) / w) then a + 2 ^ i else a) 0
  else
    let b := (o - t.size) / 32
    let i := (o - t.size) % 32
    if (if t.axis then decide (32 * (b % t.nbc) + i < t.cols) else decide (32 * (b / t.nbc) + i < t.rows)) then 255 else 0

/-- Device address of byte o of a tensor's image. -/
def TD.imageAddr (t : TD) (o : Nat) : Nat := if o < t.size then t.base + o else t.scale + (o - t.size)

/-- Single bytes joined into runs of adjacent addresses. -/
def joinBytes : List (Nat × Byte) → List (Nat × Bytes)
  | [] => []
  | (a, b) :: t =>
    match joinBytes t with
    | [] => [(a, [b])]
    | (c, l) :: rest => if a + 1 = c then (a, b :: l) :: rest else (a, [b]) :: (c, l) :: rest

/-- Bytes `d` of a stored image from offset `off` are written to the tensor, padding left alone (R210). -/
def restoreBytes (t : TD) (off : Nat) (d : Bytes) (s : State) : Wrote :=
  writeAll (joinBytes (d.zipIdx.filterMap (fun x =>
    let o := off + x.2
    let m := t.byteMask o
    let a := t.imageAddr o
    if m = 0 then none
    else if m = 255 then some (a, x.1)
    else
      let old := (readByte s a).toNat
      some (a, BitVec.ofNat 8 ((old - (old &&& m)) + (x.1.toNat &&& m)))))) s

/-- Lines of the tensor that hold bytes off to off + n - 1 of its image become poisoned (R217). -/
def poisonImage (t : TD) (off n : Nat) (s : State) : State :=
  (List.range (ceilDiv n 32)).foldl (fun s i =>
    match reach s (t.imageAddr (off + 32 * i)) with
    | .mem o => poisonLine (lineOf o) s
    | _ => s) s

/-! ### Books (R206, R215) -/

/-- STS_Dd_FREE, LFREE and ENTRIES follow the books of die d. -/
def showStash (d : Nat) (s : State) : State :=
  let x := stashd d s
  let n := (s.stash.filter (fun e => stashDieOf e.1 == d && e.2.state != .free)).length
  rset (R.STS_Dd_ENTRIES d) n (rset (R.STS_Dd_LFREE d) x.freeL.length (rset (R.STS_Dd_FREE d) x.freeS.length s))

/-- `n` members of a list by free values (log 35): those taken, and the rest. -/
def pickN : Nat → Nat → List Nat → List Nat × List Nat
  | 0, _, l => ([], l)
  | n + 1, k, l =>
    match l[Config.freeNat k % l.length]? with
    | none => ([], l)
    | some f =>
      let (t, r) := pickN n (k + 1) (l.erase f)
      (f :: t, r)

def takeFrames (lagoon : Bool) (d n : Nat) (s : State) : List Nat × State :=
  let x := stashd d s
  let (fs, rest) := pickN n s.freeCtr (if lagoon then x.freeL else x.freeS)
  let t := setStashd d (if lagoon then { x with freeL := rest } else { x with freeS := rest }) s
  (fs, showStash d { t with freeCtr := t.freeCtr + n })

/-- An entry's frames go back to the free lists of its die. -/
def freeFrames (e : Nat) (stacked lagoon : Bool) (s : State) : State :=
  let x := stashx e s
  let d := stashDieOf e
  let y := stashd d s
  let y : StashDie := if stacked then { y with freeS := y.freeS ++ x.sframes } else y
  let y : StashDie := if lagoon then { y with freeL := y.freeL ++ x.lframes } else y
  let x : StashEntry := { x with sframes := if stacked then [] else x.sframes, lframes := if lagoon then [] else x.lframes }
  showStash d (setStashd d y (setStashx e x s))

/-- An entry becomes FREE. -/
def freeEntry (e : Nat) (s : State) : State := showStash (stashDieOf e) (setStashx e {} (freeFrames e true true s))

/-- Stacked frames of die d that are being offloaded. -/
def inTransit (d : Nat) (s : State) : Nat :=
  s.stash.foldl (fun a e => if stashDieOf e.1 = d ∧ e.2.state = .offloading then a + e.2.sframes.length else a) 0

/-- A GET or DROP runs on the entry, or waits on it at the head of its queue (R211). -/
def entryHeld (e : Nat) (s : State) : Bool :=
  s.queues.any (fun x => x.2.awaits == some e) ||
  s.started.any (fun x => x.state == .running && stashEntryOf x.bytes == e &&
    (opOfBytes x.bytes == some .stashGet || opOfBytes x.bytes == some .stashDrop))

/-- Eligible entries of die d, oldest first (R212). -/
def eligibleEntries (d : Nat) (s : State) : List Nat :=
  let es := s.stash.filter (fun e => stashDieOf e.1 == d && e.2.state == .resident && !e.2.pin && !entryHeld e.1 s)
  let rec insertAge (x : Nat × Nat) : List (Nat × Nat) → List (Nat × Nat)
    | [] => [x]
    | y :: t => if x.2 < y.2 then x :: y :: t else y :: insertAge x t
  (es.foldl (fun l e => insertAge (e.1, e.2.age) l) []).map (·.1)

/-- Is the entry's offload compressed (R216, R223)? -/
def packs (x : StashEntry) (s : State) : Bool := x.compress && rbit R.STS_CTL 1 s && rbit R.CMP_CTL 1 s

/-- Map frames of a compressed entry (R232). -/
def mapFrames (x : StashEntry) : Nat := ceilDiv (512 + 8 * ceilDiv x.td.imageLen 4096) 65536

/-- Lagoon frames an entry's offload takes. -/
def lagoonNeed (x : StashEntry) (s : State) : Nat := framesOf x.td + (if packs x s then mapFrames x else 0)

/-- The offload of an entry starts. -/
def startOffload (e : Nat) (s : State) : State :=
  let x := stashx e s
  let (fs, t) := takeFrames true (stashDieOf e) (lagoonNeed x s) s
  setStashx e { x with state := .offloading, lframes := fs, packed := packs x s } t

/-- An entry is switched to recompute (R212). -/
def switchRecompute (e : Nat) (s : State) : State :=
  let t := freeFrames e true true s
  let t := setStashx e { stashx e t with state := .recompute } t
  snapOn R.STS_SNAP 1 5 bSTS (rsetBit R.STS_EVT 1 (rcount (R.STS_Dd_RECOMP (stashDieOf e)) t))

/-! ### The fill order (R212, R214) -/

def flagOffloaded : Nat := 64
def flagRecomputed : Nat := 128

/-- Step 1: the oldest are offloaded while there is a deficit. -/
def fillOffload (c d : Nat) : List Nat → Int → State → Int × State
  | [], k, s => (k, s)
  | e :: t, k, s =>
    if k ≤ 0 then (k, s)
    else if lagoonNeed (stashx e s) s ≤ (stashd d s).freeL.length then
      fillOffload c d t (k - (stashx e s).sframes.length) (addFlags c flagOffloaded (startOffload e s))
    else fillOffload c d t k s

/-- Step 2: recomputable entries are switched while there is a deficit. -/
def fillRecompute (c : Nat) : List Nat → Int → State → Int × State
  | [], k, s => (k, s)
  | e :: t, k, s =>
    if k ≤ 0 then (k, s)
    else if (stashx e s).recomp then
      fillRecompute c t (k - (stashx e s).sframes.length) (addFlags c flagRecomputed (switchRecompute e s))
    else fillRecompute c t k s

/-- The entry of a PUT as it will stand. -/
def putEntry (b : Bytes) : StashEntry :=
  let t := TD.parse (unitAt b 1)
  let f := u b 18 1
  { rows := t.rows, cols := t.cols, fmt := putFmt b, recomp := bitAt f 0, pin := bitAt f 1, compress := bitAt f 2,
    axis0 := bitAt f 3, mb := u b 20 4 }

/-- A PUT leaves the list of those that wait, and its queue returns to RUNNING (R214); the stalled cycles are a free value
(log 30). -/
def putGoes (c q d : Nat) (s : State) : State :=
  let x := stashd d s
  let t := setStashd d { x with stalled := x.stalled.erase c } s
  if qState q t = qStalled ∧ rbits (R.QFE_Qn_STAT q) 7 4 t = 1 then
    bumpFree (rcountBy (R.STS_Dd_STALLCYC d) (Config.freeNat t.freeCtr) (rsetBits (R.QFE_Qn_STAT q) 7 4 0 (setQState q qRunning t)))
  else t

/-- A PUT waits for frames. -/
def putWaits (c d : Nat) (s : State) : State :=
  let x := stashd d s
  if x.stalled.contains c then s else setStashd d { x with stalled := x.stalled ++ [c] } s

/-- Step 3: the forward queue stalls. -/
def putStalls (c q d : Nat) (s : State) : State :=
  let t := putWaits c d s
  if qState q t = qRunning then
    snapOn R.STS_SNAP 0 5 bSTS (rsetBit R.STS_EVT 0 (rsetBit (R.QFE_Qn_STAT q) 11
      (rsetBits (R.QFE_Qn_STAT q) 7 4 1 (setQState q qStalled t))))
  else t

/-- The loop of R212, at most `n` passes without a wait. A PUT whose queue has stopped at it for a suspension does not start (R214). -/
def fillLoop (x : Started) (e d need : Nat) : Nat → State → State
  | 0, s => putWaits x.id d s
  | n + 1, s =>
    if qState x.q s == qStopping && (qx x.q s).yielded then putWaits x.id d s
    else if need ≤ (stashd d s).freeS.length then
      let (fs, t) := takeFrames false d need s
      let t := setStashx e { putEntry x.bytes with state := .putting, sframes := fs } t
      showStash d (setProg x.id 1 (putGoes x.id x.q d t))
    else
      let k : Int := (need : Int) - (stashd d s).freeS.length - inTransit d s
      if k ≤ 0 then putWaits x.id d s
      else
        let (k1, s1) := fillOffload x.id d (eligibleEntries d s) k s
        if k1 ≤ 0 then putWaits x.id d s1
        else
          let (k2, s2) := fillRecompute x.id (eligibleEntries d s1) k1 s1
          if 0 < k2 ∧ (putEntry x.bytes).recomp then
            let t := setStashx e { putEntry x.bytes with state := .recompute } s2
            let t := snapOn R.STS_SNAP 1 5 bSTS (rsetBit R.STS_EVT 1 (rcount (R.STS_Dd_RECOMP d) t))
            markDone x.id (addFlags x.id flagRecomputed (showStash d (putGoes x.id x.q d t)))
          else if k2 ≤ 0 then fillLoop x e d need n s2
          else putStalls x.id x.q d s2

/-! ### STASH_PUT (R208, R209) -/

/-- Cells of the source converted to the stored form, or its codes copied exactly: the image number before, the one after,
and flags. -/
def putImage (b : Bytes) (old : Nat) (s : State) : Nat × Nat :=
  let src := TD.parse (unitAt b 1)
  let ru := RUnit.parse (unitAt b 2)
  let e := putEntry b
  let t := e.td
  let w := fmtBits t.fmt
  let cells := (List.range t.rows).flatMap (fun r => (List.range t.cols).map (fun c => (r, c)))
  let place (v : Nat) (p : ElemPut) : Nat := setBits v (8 * p.addr + p.bit + p.w - 1) (8 * p.addr + p.bit) p.code
  if src.fmt = t.fmt ∧ src.axis = t.axis then
    (cells.foldl (fun v x =>
      let v := place v (t.put w x.1 x.2 (src.code s x.1 x.2))
      if isBlockFmt t.fmt then setBits v (8 * t.scaleAddr x.1 x.2 + 7) (8 * t.scaleAddr x.1 x.2) (src.scaleCode s x.1 x.2) else v) old, 0)
  else
    let val (x : Nat × Nat) : FVal × Nat :=
      let v := src.value s x.1 x.2
      if isLogFmt src.fmt && decide (t.fmt ≤ 2) then (f32 (widen ru.ovf v).1, (widen ru.ovf v).2) else (v, 0)
    let mode : RMode := if ru.mode = 1 then .rtz else .rne
    let st := t.store ru.ovf (cells.map (fun x => { r := x.1, c := x.2, v := (val x).1, mode := mode }))
    let v := st.puts.foldl place old
    (st.scales.foldl (fun v x => setBits v (8 * x.1 + 7) (8 * x.1) (ofLe x.2)) v,
      cells.foldl (fun f x => f ||| (val x).2) st.allFlags)

/-- The PUT fails after its frames were allocated: they are freed. -/
def putFails (c e cause : Nat) (s : State) : State := failCmd c bSTS cause 0 (freeEntry e s)

/-- The PUT reads, converts, writes its frames and completes. -/
def putFinish (x : Started) (e : Nat) (s : State) : State :=
  let src := TD.parse (unitAt x.bytes 1)
  let d := stashDieOf e
  match src.unmapped s with
  | some a => putFails x.id e (reachCause s a) (captureReach a s)
  | none =>
    if src.ranges.any (fun r => bankHolds r.1 r.2 s) then s
    else if src.poisoned s then putFails x.id e 0x0142 (rsetBit R.STS_EVT 3 s)
    else
      let s := touchReads src.ranges s
      let y := stashx e s
      let n := y.td.imageLen
      let (v, fl) := putImage x.bytes (ofLe (readFrames false d y.sframes 0 n s)) s
      let t := putFrames false d y.sframes 0 (leBytes n v) s
      let k := stashd d t
      let t := setStashd d { k with next := k.next + 1 } (setStashx e { y with state := .resident, age := k.next } t)
      markDone x.id (addFlags x.id fl t)

/-- STASH_PUT. -/
def stashPutRun (c : Nat) (s : State) : State :=
  match runningCmd c .stashPut s with
  | none => s
  | some x =>
    let e := stashEntryOf x.bytes
    let d := stashDieOf e
    let fail (cause : Nat) : State := failCmd c bSTS cause 0 s
    if x.begun then putFinish x e s
    else if !rbit R.STS_CTL 0 s then fail 0x0176
    else if 8 ≤ x.q then fail 0x0170
    else if rget (R.STS_Dd_SFRAMES d) s < framesOf (putEntry x.bytes).td then fail 0x0171
    else if (stashx e s).state ≠ .free then fail 0x0172
    else fillLoop x e d (framesOf (putEntry x.bytes).td) 2 s

def execStashPut (c : Nat) (s : State) : Host.Outcome State Fault Refusal := .next (stashPutRun c s)

/-- STASH_FILL_RETRY (R214): a frame of the die has been freed, and the loop of each waiting PUT runs again. -/
def stashFillRetry (d : Nat) (s : State) : State := (stashd d s).stalled.foldl (fun t c => stashPutRun c t) s

def execStashFillRetry (d : Die) (s : State) : Host.Outcome State Fault Refusal := .next (stashFillRetry d.val s)

/-! ### STASH_GET and STASH_DROP (R210, R211) -/

/-- Unit i of an entry's list. -/
def listUnit (f : Flight) (i : Nat) (s : State) : Bytes :=
  match f.body with
  | some b => slice b (32 * i) 32
  | none => readBytes s (f.listAddr + 32 * i) 32

/-- Number of commands in the units from `i` to `e` - 1 of a list. -/
def countCommands (f : Flight) (s : State) (e : Nat) : Nat → Nat → Nat
  | 0, _ => 0
  | n + 1, i => if e ≤ i then 0 else 1 + countCommands f s e n (i + max 1 (u (listUnit f i s) 2 1))

/-- The queue passes over the recompute sequence of a GET (R210). -/
def passOver (x : Started) (s : State) : State :=
  let y := qx x.q s
  let n := recompUnits x.bytes
  setQx x.q { y with flights := y.flights.map (fun f =>
    if f.idx = x.idx then { f with pos := f.pos + n, done := f.done + countCommands f s (f.pos + n) n f.pos } else f) } s

/-- The GET is complete: without KEEP the entry is freed. -/
def getDone (c e : Nat) (keep : Bool) (s : State) : State := markDone c (if keep then s else freeEntry e s)

/-- The GET of a stored entry is complete: the queue passes over the recompute sequence (log 156). -/
def getRestored (x : Started) (e : Nat) (s : State) : State := getDone x.id e (getKeep x.bytes) (passOver x s)

/-- A stored entry is restored from uncompressed frames. -/
def getPlain (x : Started) (e : Nat) (lagoon : Bool) (s : State) : State :=
  let y := stashx e s
  let d := stashDieOf e
  let dst := TD.parse (unitAt x.bytes 1)
  let fs := if lagoon then y.lframes else y.sframes
  let n := y.td.imageLen
  let w := restoreBytes dst 0 (readFrames lagoon d fs 0 n s) s
  match w.cause with
  | some cause => failCmd x.id bSTS cause 0 w.s
  | none =>
    let t := (List.range (ceilDiv n 32)).foldl (fun t i =>
      if framesPoisoned lagoon d fs (32 * i) (min 32 (n - 32 * i)) s then rsetBit R.STS_EVT 3 (poisonImage dst (32 * i) 1 t) else t) w.s
    getRestored x e (addFlags x.id w.flags t)

/-- No GET or DROP that started earlier still runs on the entry (Table 11.3). -/
def stashTurn (c e : Nat) (s : State) : Bool :=
  !s.started.any (fun x => decide (x.turn < ((startedAt c s).map (·.turn)).getD 0) && x.state == .running && stashEntryOf x.bytes == e &&
    (opOfBytes x.bytes == some .stashGet || opOfBytes x.bytes == some .stashDrop))

/-- The GET of an entry that holds its tensor. -/
def getStored (x : Started) (e : Nat) (s : State) : State :=
  let y := stashx e s
  let d := stashDieOf e
  let dst := TD.parse (unitAt x.bytes 1)
  match dst.unmapped s with
  | some a => failCmd x.id bSTS (reachCause s a) 0 (captureReach a s)
  | none =>
    if dst.used.any (fun r => bankHolds r.1 r.2 s) then s
    else if y.state ≠ .offloaded then getPlain x e false s
    else if !y.packed then getPlain x e true s
    else
      let k := compx 24 s
      let img := readFrames true d y.lframes (stashFrame * framesOf y.td) 512 s
      setProg x.id 0 (setCompx 24 { k with waiting := k.waiting ++ [img], getc := k.getc ++ [x.id] } s)

/-- STASH_GET. -/
def stashGetRun (c : Nat) (s : State) : State :=
  match runningCmd c .stashGet s with
  | none => s
  | some x =>
    let e := stashEntryOf x.bytes
    let y := stashx e s
    let t := TD.parse (unitAt x.bytes 1)
    let fail (cause : Nat) : State := failCmd c bSTS cause 0 s
    if x.begun || !stashTurn c e s then s
    else if !rbit R.STS_CTL 0 s then fail 0x0176
    else if y.state = .free then fail 0x0173
    else if y.state = .putting then s
    else if t.fmt ≠ y.fmt ∨ t.axis = y.axis0 ∨ t.rows ≠ y.rows ∨ t.cols ≠ y.cols then fail 0x0175
    else if y.state = .recompute then
      if recompUnits x.bytes = 0 then fail 0x0174
      else getDone c e (getKeep x.bytes) (addFlags c flagRecomputed s)
    else getStored x e s

def execStashGet (c : Nat) (s : State) : Host.Outcome State Fault Refusal := .next (stashGetRun c s)

/-- STASH_DROP. -/
def stashDropRun (c : Nat) (s : State) : State :=
  match runningCmd c .stashDrop s with
  | none => s
  | some x =>
    let e := stashEntryOf x.bytes
    if !stashTurn c e s then s
    else if !rbit R.STS_CTL 0 s then failCmd c bSTS 0x0176 0 s
    else if (stashx e s).state = .free then failCmd c bSTS 0x0173 0 s
    else if (stashx e s).state = .putting then s
    else markDone c (freeEntry e s)

def execStashDrop (c : Nat) (s : State) : Host.Outcome State Fault Refusal := .next (stashDropRun c s)

/-! ### Offload (R213, R215, R216, R232) -/

/-- Background offload of die d, oldest first, until free frames and frames in transit reach HIGH. -/
def bgGo (d : Nat) : List Nat → State → State
  | [], s => s
  | e :: t, s =>
    if rbits R.STS_WATER 31 16 s ≤ (stashd d s).freeS.length + inTransit d s then s
    else if lagoonNeed (stashx e s) s ≤ (stashd d s).freeL.length then bgGo d t (startOffload e s)
    else rsetBit R.STS_EVT 2 s

/-- STASH_BG_OFFLOAD (R213). -/
def stashBgOffload (d : Nat) (s : State) : State :=
  if rbit R.STS_CTL 0 s && rbit R.STS_CTL 2 s && decide ((stashd d s).freeS.length < rbits R.STS_WATER 15 0 s) then
    bgGo d (eligibleEntries d s) s
  else s

def execStashBgOffload (d : Die) (s : State) : Host.Outcome State Fault Refusal := .next (stashBgOffload d.val s)

/-- The stored bytes copied to the Lagoon as they stand, poison with them (R217). -/
def offloadPlain (e : Nat) (s : State) : State :=
  let x := stashx e s
  let d := stashDieOf e
  let n := x.td.imageLen
  let t := putFrames true d x.lframes 0 (readFrames false d x.sframes 0 n s) s
  (List.range (ceilDiv n 128)).foldl (fun t i =>
    if framesPoisoned false d x.sframes (128 * i) (min 128 (n - 128 * i)) s then
      match reach t (frameByte true d x.lframes (128 * i) t) with
      | .mem o => rsetBit R.STS_EVT 3 (poisonLine (lineOf o) t)
      | _ => t
    else t) t

/-- Class of a stored format on the stash path (R225). -/
def stashClass (f : Nat) : Nat := match f with | 0 => 3 | 1 => 1 | 2 => 2 | _ => 0

/-- One block into its 4 KiB slot, in pieces of 256 bytes, and its header into the map (R232). -/
def packBlock (e : Nat) (bad : Nat → Bool) (a : Nat × State) (o : CompOut) : Nat × State :=
  let x := stashx e a.2
  let d := stashDieOf e
  let m := stashFrame * framesOf x.td
  match o with
  | .image b => (a.1, putFrames true d x.lframes m b a.2)
  | .block h pl =>
    let t := putFrames true d x.lframes (4096 * a.1) (padTo (roundUp pl.length 256) pl) a.2
    let t := putFrames true d x.lframes (m + 512 + 8 * a.1) (leBytes 8 h) t
    let t := if bad a.1 then
        (List.range (roundUp pl.length 256 / 128)).foldl (fun t i =>
          match reach t (frameByte true d x.lframes (4096 * a.1 + 128 * i) t) with
          | .mem o => rsetBit R.STS_EVT 3 (poisonLine (lineOf o) t)
          | _ => t) t
      else t
    (a.1 + 1, t)

/-- The stored bytes through the compressor of the loopback pair. -/
def offloadPacked (e : Nat) (s : State) : State :=
  let x := stashx e s
  let d := stashDieOf e
  let n := x.td.imageLen
  let (os, t) := compressRun 24 (stashClass x.fmt) 0 (readFrames false d x.sframes 0 n s) s
  let bad (i : Nat) : Bool := framesPoisoned false d x.sframes (4096 * i) (min 4096 (n - 4096 * i)) s
  (os.foldl (packBlock e bad) (0, t)).2

/-- STASH_OFFLOAD_DONE (R215): the last Lagoon write has completed and the stacked frames are free. -/
def stashOffloadDone (e : Nat) (s : State) : State :=
  let x := stashx e s
  if x.state ≠ .offloading then s
  else
    let t := if x.packed then offloadPacked e s else offloadPlain e s
    let t := freeFrames e true false t
    rcount (R.STS_Dd_OFFLOADS (stashDieOf e)) (setStashx e { stashx e t with state := .offloaded } t)

def execStashOffloadDone (e : EntryN) (s : State) : Host.Outcome State Fault Refusal := .next (stashOffloadDone e.val s)

/-! ### TABLE_IMAGE_LOAD (R228, R233) -/

/-- The GET whose image has loaded issues its block reads. -/
def queueBlocks (c : Nat) (s : State) : State :=
  match runningCmd c .stashGet s with
  | none => s
  | some x =>
    let e := stashEntryOf x.bytes
    let y := stashx e s
    let d := stashDieOf e
    let m := stashFrame * framesOf y.td
    let k := compx 24 s
    let bs : List BlockQ := (List.range (ceilDiv y.td.imageLen 4096)).map (fun i =>
      let h := ofLe (readFrames true d y.lframes (m + 512 + 8 * i) 8 s)
      { hdr := h, payload := readFrames true d y.lframes (4096 * i) (hdrClen h) s, c := some c, num := i,
        bad := framesPoisoned true d y.lframes (4096 * i) (hdrClen h) s })
    setCompx 24 { k with queued := k.queued ++ bs } s

/-- The images of stopped GETs leave the expander. -/
def dropDeadImages (s : State) : State :=
  let k := compx 24 s
  let live := (k.getc.zip k.waiting).filter (fun x => (runningCmd x.1 .stashGet s).isSome)
  setCompx 24 { k with getc := live.map (·.1), waiting := live.map (·.2) } s

/-- TABLE_IMAGE_LOAD. -/
def tableImageLoad (p : Nat) (s : State) : State :=
  if p < 24 then (loadImage p s).2
  else
    let s := dropDeadImages s
    match (compx 24 s).getc with
    | [] => s
    | c :: rest =>
      match loadImage 24 s with
      | (none, _) => s
      | (some ok, t) =>
        let t := setCompx 24 { compx 24 t with getc := rest } t
        if ok then queueBlocks c t else failCmd c bCMP 0x0181 24 t

def execTableImageLoad (p : Pair) (s : State) : Host.Outcome State Fault Refusal := .next (tableImageLoad p.val s)

/-! ### STS_ENABLE (R207) -/

/-- Two ranges (address, length) share a byte. -/
def rangesHit (a b : Nat × Nat) : Bool := a.2 != 0 && b.2 != 0 && decide (a.1 < b.1 + b.2) && decide (b.1 < a.1 + a.2)

def stackedPool (d : Nat) (s : State) : Nat × Nat := (poolBase false d s, stashFrame * rget (R.STS_Dd_SFRAMES d) s)
def lagoonPool (d : Nat) (s : State) : Nat × Nat := (poolBase true d s, stashFrame * rget (R.STS_Dd_LFRAMES d) s)

/-- Memory that a stash pool must keep clear of: page pools and spill areas. -/
def takenAreas (s : State) : List (Nat × Nat) :=
  let sz := 2 ^ 20 * rget R.STR_SPILL_SIZE s
  let area (b : Nat) : List (Nat × Nat) := if b = 0 then [] else [(b, sz)]
  [(sBase s, pageSize * sFrames s), (lBase s, pageSize * lFrames s)]
    ++ area (rget R.STR_D0_SPILL_BASE s) ++ area (rget R.STR_D1_SPILL_BASE s)

def diePoolsBad (d : Nat) (s : State) : Bool :=
  let a := stackedPool d s
  let b := lagoonPool d s
  (a.2 != 0 && !(decide (2 ^ 38 * d ≤ a.1) && decide (a.1 + a.2 ≤ 2 ^ 38 * (d + 1)))) || (b.2 != 0 && !inSpill b.1 b.2) ||
  (takenAreas s ++ [stackedPool (1 - d) s, lagoonPool (1 - d) s]).any (fun r => rangesHit a r || rangesHit b r)

/-- STS_ENABLE: a write of 1 to STS_CTL.ENABLE. -/
def stsEnable (s : State) : State :=
  if isLocked bSTS s then countLocked s
  else if rbit R.STS_CTL 0 s then s
  else if diePoolsBad 0 s || diePoolsBad 1 s then misuse bSTS s
  else
    let die (t : State) (d : Nat) : State :=
      showStash d (setStashd d { freeS := List.range (rget (R.STS_Dd_SFRAMES d) t), freeL := List.range (rget (R.STS_Dd_LFRAMES d) t) } t)
    [0, 1].foldl die (rsetBit R.STS_CTL 0 s)

def execStsEnable (s : State) : Host.Outcome State Fault Refusal := .next (stsEnable s)

/-- A GET or DROP waits at the head of its queue while its entry is PUTTING (Table 11.3). -/
def stashWaits (o : Op) (b : Bytes) (s : State) : Bool :=
  (o == .stashGet || o == .stashDrop) && (stashx (stashEntryOf b) s).state == .putting

/-- Queue q notes the entry that its head command waits on. -/
def noteAwaits (q : Nat) (o : Op) (b : Bytes) (s : State) : State :=
  setQx q { qx q s with awaits := if stashWaits o b s then some (stashEntryOf b) else none } s

end Sys2Proof.Machine
end

