-- ==== Sys2Proof/Machine/Link.lean ====
section
/-! DEFINITION. Viril links at the flit level (chapter 13): training, identity, flits, replay, credits, the messages a port
takes in and forwards, peer-window writes and reads, and the admission of reductions. -/

namespace Sys2Proof.Machine

/-! ### Port state (Table 13.1) -/

def psDisabled : Nat := 0
def psTraining : Nat := 1
def psIdent : Nat := 2
def psUp : Nat := 3
def psRetrain : Nat := 4
def psMiswired : Nat := 5
def psDown : Nat := 6

def portEnabled (p : Nat) (s : State) : Bool := rbit R.LNK_PORT_EN p s

/-- Has port p finished training, one way or the other? -/
def portSettled (p : Nat) (s : State) : Bool :=
  portState p s == psUp || portState p s == psDown || portState p s == psMiswired

/-- HIF_BOOT.LINKS_DONE (Table 20.5). -/
def showLinks (s : State) : State :=
  if s.boot.released then
    rsetBits R.HIF_BOOT 11 11 (nb ((List.range 24).all (fun p => !portEnabled p s || portSettled p s))) s
  else s

def setPortState (p v : Nat) (s : State) : State := showLinks (rsetBits (R.LNK_Lnn_STAT p) 2 0 v s)

/-- Tokens that the port holds (R322). -/
def portTokens (p : Nat) (s : State) : Nat := rbits (R.PWR_Inn_CLK (89 + p)) 31 16 s

/-- The port trains from phase 1 (R238, R239); buffers and books start anew, and nothing that has arrived whole is lost. -/
def trainPort (p : Nat) (s : State) : State :=
  setPortState p psTraining (setPortx p { inbox := (portx p s).inbox, nextNo := (portx p s).nextNo } s)

/-- An enabled port that holds its tokens leaves DISABLED. -/
def portWake (p : Nat) (s : State) : State :=
  if portEnabled p s && portState p s == psDisabled && portTokens p s != 0 then trainPort p s else s

/-- Far end of a port: domain, device and port (Table 13.2). -/
def farEnd (p : Nat) (s : State) : Nat × Nat × Nat :=
  let a := myDev s / 8
  let sl := myDev s % 8
  if p < 7 then (myDom s, 8 * a + (sl + p + 1) % 8, 6 - p)
  else if p < 14 then (myDom s, 8 * ((a + (p - 7) + 1) % 8) + sl, 13 - (p - 7))
  else ((myDom s + (p - 14) + 1) % 11, myDev s, 23 - (p - 14))

/-- A port goes to RETRAIN (R248): counted, and buffers and books kept. -/
def toRetrain (p : Nat) (s : State) : State :=
  let t := setPortx p { portx p s with stuck := 0 } (setPortState p psRetrain s)
  snapOn R.LNK_SNAP 1 5 bLNK (rsetBit R.LNK_EVT 2 (rcountSat (R.LNK_Lnn_RETRAINS p) t))

/-- A protocol error (R245). -/
def protocolError (p : Nat) (s : State) : State := toRetrain p (rsetBit R.LNK_EVT 4 (rcountSat (R.LNK_Lnn_PROTO p) s))

/-- A replay (R247): counted and reported, and every flit of the replay buffer goes out again with the ACK, NAK and credits of now;
after LNK_RETRY.MAX that failed to advance ACK the port retrains instead (R248). -/
def replay (p : Nat) (s : State) : State :=
  let x := portx p s
  if max 1 (rbits R.LNK_RETRY 3 0 s) ≤ x.stuck then toRetrain p s
  else
    let t := reportError 1 bLNK 0 noQueue p (rcount (R.LNK_Lnn_REPLAY p) (setPortx p { x with stuck := x.stuck + 1 } s))
    x.replay.foldl (fun t f => emitFlit p (resentFlit x f) t) t

/-- The identity flit that a port sends (Table 13.4, R241). -/
def identFlit (p : Nat) (s : State) : Bytes :=
  flitOf (portx p s) 2 0 0 (leBytes 1 (myDom s) ++ leBytes 1 (myDev s) ++ leBytes 1 p
    ++ leBytes 1 (nb (isManager s) + 2 * nb (rbit (R.LNK_Lnn_STAT p) 3 s)) ++ leBytes 8 (rget R.LNK_CREDIT s)
    ++ leBytes 1 (rbits R.HIF_IDENT 7 0 s))

/-! ### Flits (R243, Table 13.3) -/

def flitCrcOk (f : Bytes) : Bool := decide (f.length = 256) && crc64 (f.take 248) == u f 248 8
def flitType (f : Bytes) : Nat := bits (u f 0 1) 1 0
def flitTC (f : Bytes) : Nat := bits (u f 0 1) 3 2
def flitNak (f : Bytes) : Bool := bitAt (u f 0 1) 4
def flitSeq (f : Bytes) : Nat := bits (u f 2 2) 11 0
def flitAck (f : Bytes) : Nat := bits (u f 4 2) 11 0
def flitCred (f : Bytes) : List Nat := (List.range 4).map (fun c => u f (8 + 2 * c) 2)

/-- Reserved bits of a flit's first 24 bytes. -/
def flitReservedOk (f : Bytes) : Bool :=
  onlyBits [(4, 0), (27, 16), (43, 32), byteRange 15 8] (f.take 24)

/-- A flit that fails its CRC is counted and discarded. -/
def crcFailed (p : Nat) (s : State) : State := rcount (R.LNK_Lnn_CRC p) s

/-- The replay buffer without the flits that ACK covers; an ACK that names none of them covers none. -/
def ackedReplay (ack : Nat) (l : List (Nat × Bytes)) : List (Nat × Bytes) :=
  match l.findIdx? (fun f => f.1 == ack) with
  | none => l
  | some i => l.drop (i + 1)

/-- Data are ready on the port and a class of them lacks credit (R250). -/
def creditStalled (x : PortX) : Bool :=
  x.txq.any (fun f => decide (x.farAlloc.getD f.1 0 ≤ (x.sentU.getD f.1 0 + 65536 - x.seenF.getD f.1 0) % 65536))

/-- The cycles for which data have waited without credit until now: a free value (log 30). -/
def countStall (p : Nat) (s : State) : State :=
  if creditStalled (portx p s) then bumpFree (rcountBy (R.LNK_Lnn_CREDSTALL p) (Config.freeNat s.freeCtr) s) else s

/-- ACK, NAK and credits of a good flit (R247, R249). A NAK asks for one replay for each ACK that it names: its repeats until the
replayed flit has arrived ask for no other (log 40). -/
def takeAck (p : Nat) (f : Bytes) (s : State) : State :=
  let s := countStall p s
  let x := portx p s
  let r := ackedReplay (flitAck f) x.replay
  let moved := decide (r.length < x.replay.length)
  let asks := flitNak f && !r.isEmpty && x.naked != some (flitAck f)
  let y : PortX := { x with replay := r, acked := flitAck f, seenF := flitCred f, stuck := if moved then 0 else x.stuck,
                            naked := if flitNak f then some (flitAck f) else none }
  if asks then replay p (setPortx p y s) else setPortx p y s

/-! ### Messages in reception (R244, R245, R251, R257) -/

/-- LEN of a CTRL type (Tables 13.9 and 14.3); none is unknown. -/
def ctrlLen (type : Nat) : Option Nat :=
  if 1 ≤ type ∧ type ≤ 9 then some 16
  else if [0x10, 0x11, 0x12, 0x13, 0x14, 0x15, 0x18, 0x20, 0x21, 0x22, 0x23, 0x28].contains type then some 16
  else if type = 0x24 then some 48
  else if type = 0x25 then some 1024
  else if type = 0x26 ∨ type = 0x27 then some 32
  else none

/-- A header that makes a protocol error on port p in class tc. -/
def headerProto (p tc h : Nat) : Bool :=
  let k := bits h 3 0
  decide (8 < k) || classOf k != tc || bits h 7 6 != 0 || bits h 31 28 != 0 ||
  decide (2 ^ 20 + 2 ^ 20 / 4096 * 8 + 512 < bits h 63 32) ||
  (decide (14 ≤ p) && (k == 1 || k == 2 || k == 6)) ||
  (k == 7 && (bits h 111 72 != 0 || bits h 127 112 != 0 || ctrlLen (bits h 71 64) != some (bits h 63 32)))

/-- Headers of a flit that are not empty. -/
def flitHeaders (f : Bytes) : List Nat := [u f 24 16, u f 40 16].filter (fun h => bits h 3 0 != 0)

/-- Messages of a class stream in order: number, header, and the first byte and the length of the data's place in the stream. -/
def layOut : Nat → List (Nat × Nat) → List (Nat × Nat × Nat × Nat)
  | _, [] => []
  | o, (n, h) :: t => let k := roundUp (bits h 63 32) 16; (n, h, o, k) :: layOut (o + k) t

/-- Complete messages at the front of a class stream, with their numbers; the headers and bytes that are left. -/
def takeMessages : List (Nat × Nat) → Bytes → List (Nat × Msg) × List (Nat × Nat) × Bytes
  | [], b => ([], [], b)
  | (n, h) :: t, b =>
    let k := roundUp (bits h 63 32) 16
    if b.length < k then ([], (n, h) :: t, b)
    else
      let (ms, hs', b') := takeMessages t (b.drop k)
      ((n, msgOfHeader h (b.take (bits h 63 32))) :: ms, hs', b')

/-- Entries of the receive buffer that wait on message `n` are freed (R249); the freed counts go out with the next flit. -/
def freeHeld (p n : Nat) (s : State) : State :=
  let x := portx p s
  let gone := (x.held.filter (fun e => e.2 == n)).map (·.1)
  setPortx p { x with held := x.held.filter (fun e => e.2 != n),
                      ownF := gone.foldl (fun l c => l.set c ((l.getD c 0 + 1) % 65536)) x.ownF } s

/-- Does a CONTRIB header name an operation's partial (R254)? -/
def partialOf (h : Nat) (o : RedOp) : Bool := bits h 3 0 == 5 && !bitAt h 127 && bits h 95 64 == o.bucket && bits h 105 96 == o.chunk

/-- Do the data of a message still in reception move on as they arrive? A partial for an operation that is not admitted waits
in the receive buffer (R255). -/
def drains (h : Nat) (s : State) : Bool := bits h 3 0 != 5 || bitAt h 127 || s.admitted.any (partialOf h)

/-- Blocks of compressed data with their in-band headers (R231); at most `n`. -/
def parseBlocks : Nat → Bytes → List (Nat × Bytes)
  | 0, _ => []
  | n + 1, b =>
    if b.length < 8 then []
    else
      let h := u b 0 8
      (h, slice b 8 (hdrClen h)) :: parseBlocks n (b.drop (8 + hdrClen h))

/-- Does message m answer a resend asked for the front block of the pair (R235)? It has the header of the message that carried
the block, and that block alone, STORED. -/
def answersResend (x : CompX) (m : Msg) : Bool :=
  match x.msgs, x.queued with
  | (_, y, _, _) :: _, q :: _ =>
    q.asked && y.kind == m.kind && y.addr == m.addr && y.tag == m.tag && y.srcDev == m.srcDev && y.srcDom == m.srcDom &&
      (match parseBlocks 1 m.data with
       | [b] => hdrIndex b.1 == hdrIndex q.hdr && hdrStored b.1 && m.data.length == 8 + hdrClen b.1
       | _ => false)
  | _, _ => false

/-- A compressed message, number n at its port, enters the expander of the port, or supplies the block asked for again. -/
def queueCompressed (p n : Nat) (m : Msg) (s : State) : State :=
  let x := compx p s
  let bs := parseBlocks (m.data.length / 8 + 1) m.data
  if answersResend x m then
    match x.queued, bs with
    | q :: rest, b :: _ => freeHeld p n (setCompx p { x with queued := { q with hdr := b.1, payload := b.2, asked := false } :: rest } s)
    | _, _ => s
  else
    setCompx p { x with
      queued := x.queued ++ bs.map (fun b => { hdr := b.1, payload := b.2 }),
      msgs := x.msgs ++ [(n, m, [], bs.length)] } s

/-- Does a message's arrival take the module out of Slack (Table 17.3)? -/
def wakes (m : Msg) : Bool :=
  let k := m.kind.toNat
  k == 1 || k == 2 || k == 4 || k == 5 || k == 6 || (k == 7 && decide (1 ≤ m.addr.toNat % 256) && decide (m.addr.toNat % 256 ≤ 9))

/-- A message has arrived whole at port p: forwarded towards another module, handed to the expander, or kept until it is
taken. -/
def arrive (p : Nat) (s : State) (nm : Nat × Msg) : State :=
  let m := nm.2
  let s := if wakes m then leaveSlack s else s
  match portTo m.dstDom.toNat m.dstDev.toNat s with
  | some o => freeHeld p nm.1 (if portUsable o s then sendOn o m s else s)
  | none =>
    if m.cmp then queueCompressed p nm.1 m s
    else setPortx p { portx p s with inbox := (portx p s).inbox ++ [nm] } s

/-- Number of the last message that has its header or data in a flit whose bytes begin at `o` of the class stream, and whose
headers are the last `k` of those laid out. -/
def lastIn (o k : Nat) (l : List (Nat × Nat × Nat × Nat)) : Option Nat :=
  let inFlit (i : Nat) (e : Nat × Nat × Nat × Nat) : Bool :=
    decide (l.length ≤ i + k) || (e.2.2.2 != 0 && decide (e.2.2.1 < o + 192) && decide (o < e.2.2.1 + e.2.2.2))
  ((l.zipIdx.filter (fun e => inFlit e.2 e.1)).getLast?).map (fun e => e.1.1)

/-- A good DATA flit in sequence: its headers and data join the class stream. Its entry is held for the last message that it
carries, or is free at once where that message's data move on. -/
def acceptData (p : Nat) (f : Bytes) (s : State) : State :=
  let x := portx p s
  let c := flitTC f
  let mine := (x.hdrs.filter (fun h => h.1 == c)).map (·.2)
  let new := (flitHeaders f).zipIdx.map (fun h => (x.nextNo + h.2, h.1))
  let old := if mine.isEmpty then [] else (findKey c x.stream).getD []
  let (ms, hs', b') := takeMessages (mine ++ new) (old ++ slice f 56 192)
  let n := lastIn old.length new.length (layOut 0 (mine ++ new))
  let moves : Bool := match n with
    | none => true
    | some n => (match hs'.find? (fun h => h.1 == n) with | none => false | some h => drains h.2 s)
  let y : PortX := { x with
    rxSeq := (x.rxSeq + 1) % 4096, nak := false, nextNo := x.nextNo + new.length,
    held := if moves then x.held else x.held ++ [(c, n.getD 0)],
    ownF := if moves then x.ownF.set c ((x.ownF.getD c 0 + 1) % 65536) else x.ownF,
    hdrs := x.hdrs.filter (fun h => h.1 != c) ++ hs'.map (fun h => (c, h)),
    stream := AL.set [] c (if hs'.isEmpty then [] else b') x.stream }
  ms.foldl (arrive p) (setPortx p y s)

/-- The port asks for replay from the last good flit (R247). -/
def sendNak (p : Nat) (s : State) : State := setPortx p { portx p s with nak := true } s

/-- FEC codewords of a flit's reception (R237): each corrected one is reported. -/
def fecCount (p : Nat) (f : FlitIn) (s : State) : State :=
  (List.range f.fecCor).foldl (fun t _ => reportError 0 bLNK 0 noQueue p t)
    (rcountBy (R.LNK_Lnn_FECUNC p) f.fecUnc (rcountBy (R.LNK_Lnn_FECCOR p) f.fecCor s))

/-- A DATA flit (R243 to R245, R247, R249). -/
def dataFlitBytes (p : Nat) (f : Bytes) (s : State) : State :=
  if !flitCrcOk f then sendNak p (crcFailed p s)
  else if !flitReservedOk f || flitType f != 1 then protocolError p s
  else
    let t := takeAck p f s
    if !portUp p t then t
    else if flitSeq f ≠ (portx p t).rxSeq then sendNak p t
    else if (flitHeaders f).any (headerProto p (flitTC f)) then protocolError p t
    else acceptData p f t

/-- DATA_FLIT: taken, and answered with what the port has to send (R243). -/
def dataFlitIn (p : Nat) (f : FlitIn) (s : State) : State :=
  if !portUp p s then s else speak p (dataFlitBytes p f.bytes (fecCount p f s))

def execDataFlit (p : Port) (f : FlitIn) (s : State) : Host.Outcome State Fault Refusal := .next (dataFlitIn p.val f s)

/-- IDLE_FLIT (R243): only ACK, NAK and credits; lost when its CRC fails. -/
def idleFlitIn (p : Nat) (f : FlitIn) (s : State) : State :=
  if !portUp p s then s
  else
    let t := fecCount p f s
    if !flitCrcOk f.bytes then crcFailed p t
    else if !flitReservedOk f.bytes || flitType f.bytes != 0 then protocolError p t
    else speak p (takeAck p f.bytes t)

def execIdleFlit (p : Port) (f : FlitIn) (s : State) : Host.Outcome State Fault Refusal := .next (idleFlitIn p.val f s)

/-- ACK_TIMEOUT (R247): the sender replays from its oldest unacknowledged flit. -/
def ackTimeout (p : Nat) (s : State) : State :=
  if portUp p s && !(portx p s).replay.isEmpty then replay p s else s

def execAckTimeout (p : Port) (s : State) : Host.Outcome State Fault Refusal := .next (ackTimeout p.val s)

/-! ### Training and identity (R238, R239, R242, R248) -/

/-- LINK_TRAIN: phases 1 and 2 have ended with these lanes locked; phase 3 sends the identity flit. -/
def linkTrain (p : Nat) (lanes : BitVec 8) (s : State) : State :=
  let l := lanes.toNat
  let st := portState p s
  if st ≠ psTraining ∧ st ≠ psRetrain then s
  else
    let full := l == 255
    let half := rbit (R.LNK_Lnn_CFG p) 4 s && (l % 16 == 15 || l / 16 == 15)
    let t := setPortx p { portx p s with lanes := lanes } s
    let go (t : State) : State := let t := if st = psTraining then setPortState p psIdent t else t; emitFlit p (identFlit p t) t
    if full then go (rclrBit (R.LNK_Lnn_STAT p) 3 t)
    else if half then go (rsetBit R.LNK_EVT 3 (rsetBit (R.LNK_Lnn_STAT p) 3 t))
    else t

def execLinkTrain (p : Port) (lanes : BitVec 8) (s : State) : Host.Outcome State Fault Refusal :=
  .next (linkTrain p.val lanes s)

/-- Identity of a flit: domain, device, port (Table 13.4). -/
def identFar (f : Bytes) : Nat × Nat × Nat := (u f 24 1, u f 25 1, u f 26 1)

/-- Does the identity agree with the wiring, the class allocation and the stepping of this module (R242)? -/
def identOk (p : Nat) (f : Bytes) (s : State) : Bool :=
  identFar f == farEnd p s && u f 28 8 == rget R.LNK_CREDIT s && u f 36 1 == rbits R.HIF_IDENT 7 0 s

/-- FAR_DEV, FAR_DOM and FAR_PORT of LNK_Lnn_STAT. -/
def recordFar (p : Nat) (f : Bytes) (s : State) : State :=
  let (dm, d, q) := identFar f
  rsetBits (R.LNK_Lnn_STAT p) 22 18 q (rsetBits (R.LNK_Lnn_STAT p) 17 14 dm (rsetBits (R.LNK_Lnn_STAT p) 13 8 d s))

/-- Reserved bytes of an IDENT flit. -/
def identReservedOk (f : Bytes) : Bool := onlyBits [byteRange 26 24, (217, 216), byteRange 36 28] (List.replicate 24 0 ++ slice f 24 224)

/-! ### JOIN (R283, R286) -/

/-- On the manager: the device and port by which the second module of the route to device d sends (R251); none when the
route has one stage. -/
def secondHop (d : Nat) (s : State) : Option (Nat × Nat) :=
  let v := 8 * (d / 8) + myDev s % 8
  if d / 8 ≠ myDev s / 8 ∧ d % 8 ≠ myDev s % 8 then some (v, (d % 8 + 8 - v % 8 - 1) % 8) else none

/-- Data of JOIN, JOINED, REFUSE, PING, PONG and MJOIN (Table 13.9). -/
def joinData (s : State) : Bytes :=
  padTo 16 (leBytes 1 (myDom s) ++ leBytes 1 (myDev s) ++ leBytes 1 (rbits R.HIF_IDENT 7 0 s) ++ leBytes 1 0 ++ leBytes 4 s.naust.fwVersion)

def expected (d : Nat) (s : State) : Bool := (rget R.KPR_EXPECT s).testBit d

/-- The manager sends JOIN to device d, when it is expected and absent and its route is joined. -/
def sendJoin (d : Nat) (s : State) : State :=
  let open1 := match secondHop d s with | none => true | some (v, _) => present v s
  if expected d s && !present d s && d != myDev s && open1 then sendCtrl 0x10 (myDom s) d (joinData s) s else s

/-- A port has come UP: the manager sends JOIN while formation is open, and MJOIN to a counterpart. -/
def keeperPortUp (p : Nat) (s : State) : State :=
  if !s.boot.released || !isManager s then s
  else if p < 14 then
    if s.keeper.forming then
      ((List.range 64).filter (fun d => portTo (myDom s) d s == some p)).foldl (fun t d => sendJoin d t) s
    else s
  else
    let dm := (farEnd p s).1
    if (rbits R.KPR_CFG 42 32 s).testBit dm then sendCtrl 0x14 dm (myDev s) (joinData s) s else s

/-- IDENT_FLIT (R238, R242): the port enters UP with its counts at their initial values, or MISWIRED. -/
def identFlitIn (p : Nat) (g : FlitIn) (s : State) : State :=
  let f := g.bytes
  if portState p s ≠ psIdent then s
  else
    let s := fecCount p g s
    if !flitCrcOk f then crcFailed p s
    else if !flitReservedOk f || flitType f != 2 || !identReservedOk f then protocolError p s
    else if identOk p f s then
      let x := portx p s
      let y : PortX := { inbox := x.inbox, nextNo := x.nextNo, lanes := x.lanes, txq := x.txq, handed := x.handed,
                         farAlloc := (List.range 4).map (fun c => u f (28 + 2 * c) 2) }
      speak p (sendNotices (keeperPortUp p (setPortState p psUp (recordFar p f (setPortx p y s)))))
    else setPortState p psMiswired (rsetBit R.LNK_EVT 1 (recordFar p f s))

def execIdentFlit (p : Port) (f : FlitIn) (s : State) : Host.Outcome State Fault Refusal := .next (identFlitIn p.val f s)

/-- Is the lane one that the port uses? -/
def laneUsed (p lane : Nat) (s : State) : Bool :=
  if rbit (R.LNK_Lnn_STAT p) 3 s then
    let l := (portx p s).lanes.toNat
    if l % 16 = 15 then decide (lane < 4) else decide (4 ≤ lane)
  else true

/-- LANE_LOSS (R248). -/
def laneLoss (p lane : Nat) (s : State) : State := if portUp p s && laneUsed p lane s then toRetrain p s else s

def execLaneLoss (p : Port) (lane : Lane) (s : State) : Host.Outcome State Fault Refusal := .next (laneLoss p.val lane.val s)

/-- LNK_RETRAIN (R239): it has no effect when it names a port that cannot train again. -/
def lnkRetrain (v : Nat) (s : State) : State :=
  let ps := setPositions 24 v
  let may (p : Nat) : Bool := portEnabled p s && (portState p s == psDown || portState p s == psMiswired)
  if ps.all may then ps.foldl (fun t p => trainPort p t) s else misuse bLNK s

def execLnkRetrain (v : BitVec 32) (s : State) : Host.Outcome State Fault Refusal := .next (lnkRetrain v.toNat s)

/-! ### Taking messages (R244) -/

/-- Message m may be taken at port p, and by this number: every message of its class before it is a CONTRIB, which may have to
wait (R255). -/
def mayTake (m : Msg) : List (Nat × Msg) → Option Nat
  | [] => none
  | x :: t => if x.2 = m then some x.1 else if classOf x.2.kind.toNat ≠ classOf m.kind.toNat ∨ x.2.kind = 5 then mayTake m t else none

/-- Message m of kind `kind` leaves the receive buffer of port p and its entries are freed; none when it is not there to be
taken. -/
def takeMsg (p kind : Nat) (m : Msg) (s : State) : Option State :=
  let x := portx p s
  let s := if wakes m then leaveSlack s else s
  if m.kind.toNat = kind then
    (mayTake m x.inbox).map (fun n => speak p (freeHeld p n (setPortx p { x with inbox := x.inbox.filter (fun e => e.1 != n) } s)))
  else none

/-- A CTRL message of a type leaves the receive buffer. -/
def takeCtrl (p type : Nat) (m : Msg) (s : State) : Option State :=
  if m.addr.toNat % 256 = type then takeMsg p 7 m s else none

/-! ### Peer-window accesses (R140, R246, R252) -/

/-- WRITE: the data go to the address the message names, poison with them; an unmapped address is captured. An access to a bank
command's ranges waits in the receive buffer (R152). -/
def peerWrite (p : Nat) (m : Msg) (s : State) : State :=
  if bankHolds m.addr.toNat m.data.length s then s
  else
  match takeMsg p 1 m s with
  | none => s
  | some t => (writeMem m.addr.toNat m.data t m.poison).s

def execWrite (p : Port) (m : Msg) (s : State) : Host.Outcome State Fault Refusal := .next (peerWrite p.val m s)

/-- READ_REQ: answered by a READ_RESP with the data and the tag. -/
def peerRead (p : Nat) (m : Msg) (s : State) : State :=
  if bankHolds m.addr.toNat (u m.data 0 4) s then s
  else
  match takeMsg p 2 m s with
  | none => s
  | some t =>
    let a := m.addr.toNat
    let n := u m.data 0 4
    let answer (bad : Bool) (b : Bytes) (t : State) : State :=
      (sendMsg (mkMsg t 3 m.srcDom.toNat m.srcDev.toNat a m.tag.toNat b bad) t).getD t
    match firstUnreached t a n with
    | some e => answer true (List.replicate n 0) (captureReach e t)
    | none => answer (poisoned t a n) (readBytes t a n) (touchRead t (a, n))

def execReadReq (p : Port) (m : Msg) (s : State) : Host.Outcome State Fault Refusal := .next (peerRead p.val m s)

/-- Is p the piece that transfer y fetches for? -/
def fetchedFor (y : Transfer) (p : Piece) : Bool := p.c == y.c && p.key == (y.td, y.row, y.col)

/-- A fetch has failed for good: so has the command of its piece (R198). -/
def fetchLost (h : Nat) (y : Transfer) (cause : Nat) (s : State) : State :=
  let t := settleFrames (releaseTag h y.id { s with reads := s.reads.filter (fun r => y.req != some r.tag) })
  if (streamx y.owner t).pieces.any (fetchedFor y) then fetchFails y.c y.owner cause t else showStreams (y.owner / 8) t

/-- The transfer that waits for the READ_REQ of a tag, with its half. -/
def waitingRead (tag : Nat) (s : State) : Option (Nat × Transfer) :=
  (List.range 2).findSome? (fun h => ((halfx h s).transfers.find? (fun y => y.req == some tag)).map (fun y => (h, y)))

/-- A READ_REQ will have no answer: the transfer that waits for it fails, or the command that sent it (R253). -/
def readLost (cause : Nat) (r : ReadOut) (s : State) : State :=
  let t : State := { s with reads := s.reads.erase r }
  match waitingRead r.tag t with
  | none => (match r.c with | none => t | some c => failCmd c bLNK cause r.port t)
  | some (h, y) =>
    if y.owner < 512 then fetchLost h y cause t else chanHalt (y.owner - 512) 3 cause y.addr (releaseTag h y.id t)

/-- READ_TIMEOUT (R253): a READ_REQ has gone 10 ms without its response. -/
def readTimeout (tag : Nat) (s : State) : State :=
  match s.reads.find? (fun r => r.tag == tag) with
  | none => s
  | some r => readLost 0x0192 r s

def execReadTimeout (tag : BitVec 16) (s : State) : Host.Outcome State Fault Refusal := .next (readTimeout tag.toNat s)

/-- TABLE (R233): the image waits at the expander of its port. -/
def tableIn (p : Nat) (m : Msg) (s : State) : State :=
  match takeMsg p 8 m s with
  | none => s
  | some t =>
    let x := compx p t
    setCompx p { x with waiting := x.waiting ++ [m.data] } t

def execTable (p : Port) (m : Msg) (s : State) : Host.Outcome State Fault Refusal := .next (tableIn p.val m s)

/-! ### Admission of reductions (R254 to R256) -/

/-- Bucket a precedes bucket b (R255). -/
def bucketBefore (a b : Nat) : Bool := let d := (b + 2 ^ 32 - a % 2 ^ 32) % 2 ^ 32; d != 0 && decide (d < 2 ^ 31)

/-- An operation asks for admission: bucket-number order, then order of asking. -/
def askAdmission (o : RedOp) : List RedOp → List RedOp
  | [] => [o]
  | x :: t => if bucketBefore o.bucket x.bucket then o :: x :: t else x :: askAdmission o t

/-- An admitted operation's partial that is still in reception at a port leaves the receive buffer as it arrives (R255). -/
def drainAdmitted (o : RedOp) (s : State) (n : Nat × Nat) : State :=
  ((portx n.1 s).hdrs.filter (fun h => partialOf h.2.2 o)).foldl (fun t h => speak n.1 (freeHeld n.1 h.2.1 t)) s

/-- REDUCTION_ADMIT: the head of the queue is admitted whole, or not at all. -/
def reductionAdmit (s : State) : State :=
  match s.redWait with
  | [] => s
  | o :: rest =>
    if o.needs.all (fun n => decide (n.2 ≤ rbFree n.1 s)) then
      let t := o.needs.foldl (fun t n => rset (R.LNK_Lnn_RBFREE n.1) (rbFree n.1 t - n.2) t) s
      o.needs.foldl (drainAdmitted o) (showRbq { t with redWait := rest, admitted := t.admitted ++ [o] })
    else s

def execReductionAdmit (s : State) : Host.Outcome State Fault Refusal := .next (reductionAdmit s)

end Sys2Proof.Machine
end

