-- ==== Sys2Proof/Machine/Relay.lean ====
section
/-! DEFINITION. The relay engine (chapter 14): groups and stages, batons and markers, BROADCAST, ALL_GATHER, ALL_TO_ALL,
RING_PASS, REDUCE with its exponent and data phases, EPOCH_FENCE, deadlines, holds, and the control messages of Table 14.3. -/

namespace Sys2Proof.Machine

/-! ### Groups (R258, R259, Table 14.1) -/

structure Grp where
  doms  : List Nat := []
  trays : Nat := 0
  slots : Nat := 0
  rdom  : Nat := 0
  rdev  : Nat := 0
  cmp   : Bool := false
  cls   : Nat := 0
  optag : Nat := 0
  deriving DecidableEq, Repr, Inhabited

def Grp.parse (b : Bytes) (s : State) : Grp :=
  let un := unitAt b 1
  let d := setPositions 11 (u un 0 2)
  { doms := if d.isEmpty then [myDom s] else d, trays := u un 2 1, slots := u un 3 1, rdom := u un 4 1, rdev := u un 5 1,
    cmp := bitAt (u un 6 1) 0, cls := bits (u un 6 1) 3 1, optag := u un 8 3 }

def Grp.has (g : Grp) (dm d : Nat) : Bool := g.doms.contains dm && g.trays.testBit (d / 8) && g.slots.testBit (d % 8)

/-- Members as (domain, device), in rank order. -/
def Grp.members (g : Grp) : List (Nat × Nat) :=
  (g.doms.flatMap (fun dm => (List.range 64).map (fun d => (dm, d)))).filter (fun m => g.has m.1 m.2)

def Grp.rank (g : Grp) (m : Nat × Nat) : Nat := g.members.idxOf m

def me (s : State) : Nat × Nat := (myDom s, myDev s)

def Grp.root (g : Grp) : Nat × Nat := (g.rdom, g.rdev)

/-- Is a member not present in its domain (R258)? Of another domain the manager knows that its manager has answered (R286);
whether the device is present there no module is told: a free value (log 79). -/
def absentMember (s : State) (m : Nat × Nat) : Bool :=
  if m.1 = myDom s then !present m.2 s
  else (isManager s && !rbit R.KPR_MACHINE m.1 s) || Config.farAbsent m.1 m.2 s.freeCtr

def Grp.absent (g : Grp) (s : State) : Bool := g.members.any (absentMember s)

/-- Tray, rack and machine peers of a module (R259). -/
def Grp.trayPeers (g : Grp) (m : Nat × Nat) : List (Nat × Nat) := g.members.filter (fun x => x.1 == m.1 && x.2 / 8 == m.2 / 8 && x != m)
def Grp.rackPeers (g : Grp) (m : Nat × Nat) : List (Nat × Nat) :=
  g.members.filter (fun x => x.1 == m.1 && x.2 % 8 == m.2 % 8 && x.2 / 8 != m.2 / 8)
def Grp.machinePeers (g : Grp) (m : Nat × Nat) : List (Nat × Nat) := g.members.filter (fun x => x.2 == m.2 && x.1 != m.1)

/-- The member to which a module sends toward the root; none at the root (R259). -/
def Grp.parent (g : Grp) (m : Nat × Nat) : Option (Nat × Nat) :=
  if m.2 % 8 ≠ g.rdev % 8 then some (m.1, 8 * (m.2 / 8) + g.rdev % 8)
  else if m.2 ≠ g.rdev then some (m.1, g.rdev)
  else if m.1 ≠ g.rdom then some (g.rdom, g.rdev)
  else none

/-- The members that send to a module toward the root, and to which it sends away from the root in this order: machine, rack,
tray (R18, R259). -/
def Grp.children (g : Grp) (m : Nat × Nat) : List (Nat × Nat) :=
  (g.machinePeers m ++ g.rackPeers m ++ g.trayPeers m).filter (fun x => g.parent x == some m)

/-! ### Malformed commands (R258, R261 to R265) -/

def grpBad (rooted : Bool) (b : Bytes) (s : State) : Bool :=
  let un := unitAt b 1
  let g := Grp.parse b s
  !onlyBits [(10, 0), byteRange 3 2, (35, 32), (45, 40), (51, 48), (87, 64)] un || g.trays == 0 || g.slots == 0 ||
  !g.has (myDom s) (myDev s) || (rooted && !g.has g.rdom g.rdev) || (g.cmp && decide (5 < g.cls))

def bufBad (b : Bytes) : Bool :=
  let un := unitAt b 2
  !onlyBits [byteRange 5 0, byteRange 13 8, byteRange 19 16, (171, 160)] un || u un 0 6 % 256 != 0 || u un 8 6 % 256 != 0 ||
  u un 16 4 == 0

def collectiveBad (o : Op) (b : Bytes) (s : State) : Bool :=
  !operandsOk [byteRange 17 16] b || grpBad (o == .broadcast) b s || bufBad b ||
  (o == .allToAll && decide (1 < popCount 11 (u (unitAt b 1) 0 2)))

/-- Ring unit (Table 14.6): two units. -/
structure Ring where
  kvOwn : Nat
  rb    : Nat × Nat
  b     : Nat
  g     : Nat
  first : Nat
  count : Nat
  carry : Bool
  home  : Bool
  cmp   : Bool
  cls   : Nat
  next  : Nat × Nat
  prev  : Nat × Nat
  arrM  : Nat
  freeM : Nat
  freeB : Nat
  carM  : Nat
  homM  : Nat
  carB  : Nat
  optag : Nat
  deriving DecidableEq, Repr, Inhabited

def Ring.parse (b : Bytes) : Ring :=
  let r := slice b 32 64
  let f := u r 31 1
  { kvOwn := u r 0 6, rb := (u r 8 6, u r 16 6), b := u r 24 4, g := u r 28 1, first := u r 29 1, count := u r 30 1,
    carry := bitAt f 0, home := bitAt f 1, cmp := bitAt f 2, cls := bits f 5 3, next := (u r 33 1, u r 32 1),
    prev := (u r 35 1, u r 34 1), arrM := u r 36 2, freeM := u r 38 2, freeB := u r 40 4, carM := u r 44 2, homM := u r 46 2,
    carB := u r 48 4, optag := u r 52 3 }

def ringPassBad (b : Bytes) (s : State) : Bool :=
  let r := Ring.parse b
  let far (x : Nat × Nat) : Bool := decide (10 < x.1) || decide (63 < x.2) || (x.1 != myDom s && x.2 != myDev s)
  !operandsOk [byteRange 17 16] b ||
  !onlyBits [byteRange 5 0, byteRange 13 8, byteRange 21 16, byteRange 30 24, (253, 248), byteRange 35 32, (299, 288), (315, 304),
    byteRange 43 40, (363, 352), (379, 368), byteRange 51 48, (439, 416)] (slice b 32 64) ||
  far r.next || far r.prev || r.rb.1 % 4096 != 0 || r.rb.2 % 4096 != 0 || r.b == 0 || decide (4096 < r.b) || decide (r.g < 2) || decide (64 < r.g) || r.first == 0 ||
  decide (r.g ≤ r.first) || r.count == 0 || decide (r.g < r.first + r.count) || (r.home && !r.carry) ||
  (r.cmp && decide (5 < r.cls))

/-- A source of a REDUCE (Table 14.8). -/
structure Src where
  addr   : Nat
  kind   : Nat
  e      : Int
  ci     : Nat
  backed : Bool
  deriving DecidableEq, Repr, Inhabited

structure RD where
  g      : Grp
  bucket : Nat
  n      : Nat
  nexp   : Nat
  done   : Nat
  dl     : Nat
  srcs   : List Src
  srcM   : Nat
  srcC   : Nat
  out    : Nat
  zmask : Nat
  off    : Nat
  grow   : Nat
  dst    : Nat
  patch  : Nat
  deriving DecidableEq, Repr, Inhabited

def RD.parse (b : Bytes) (s : State) : RD :=
  let k := unitAt b 2
  let r := unitAt b 3
  let o := unitAt b 4
  { g := Grp.parse b s, bucket := u k 0 4, n := u k 4 4, nexp := u k 8 2, done := u k 10 2, dl := u k 12 4,
    srcs := [{ addr := u r 0 6, kind := bits (u r 6 1) 1 0, e := signed 8 (u r 7 1), ci := u r 16 2 % 16, backed := bitAt (u r 16 2) 15 },
             { addr := u r 8 6, kind := bits (u r 14 1) 1 0, e := signed 8 (u r 15 1), ci := u r 18 2 % 16, backed := bitAt (u r 18 2) 15 }],
    srcM := u r 20 2, srcC := u r 24 4, out := bits (u o 0 1) 1 0, zmask := u o 1 1, off := u o 4 4, grow := u o 8 4,
    dst := u o 16 6, patch := u o 24 6 }

def reduceBad (b : Bytes) (s : State) : Bool :=
  let x := RD.parse b s
  !operandsOk [byteRange 17 16] b || grpBad true b s ||
  !onlyBits [byteRange 7 0, (75, 64), (91, 80), byteRange 15 12] (unitAt b 2) ||
  !onlyBits [byteRange 5 0, (49, 48), byteRange 13 7, (113, 112), byteRange 15 15, (131, 128), (143, 143), (147, 144), (159, 159),
    (171, 160), byteRange 27 24] (unitAt b 3) ||
  x.n == 0 || decide (2 ^ 28 < x.n) || x.nexp == 0 || decide (2048 < x.nexp) ||
  x.srcs.any (fun r => r.kind == 3 || r.addr % 256 != 0) ||
  (x.g.root == me s &&
    (!onlyBits [(1, 0), byteRange 1 1, byteRange 11 4, byteRange 21 16, byteRange 29 24] (unitAt b 4) || x.out == 3 ||
     (x.out == 0 && (x.zmask == 0 || x.off % 512 != 0 || x.patch % 32 != 0)) ||
     (x.out != 0 && (x.dst % 256 != 0 || x.patch != 0))))

def fenceBad (b : Bytes) : Bool := !operandsOk [byteRange 17 16] b

/-- Layout epoch of a relay command. -/
def epochOf (b : Bytes) : Nat := u b 16 2
def epochNow (s : State) : Nat := rbits R.RLY_EPOCH 15 0 s

/-! ### Operations in progress -/

def relayOp (c : Nat) (s : State) : Option RelayOp := s.relay.ops.find? (fun o => o.c == c)

def setRelayOp (o : RelayOp) (s : State) : State :=
  { s with relay := { s.relay with ops := s.relay.ops.map (fun x => if x.c = o.c then o else x) } }

def addRelayOp (o : RelayOp) (s : State) : State := { s with relay := { s.relay with ops := s.relay.ops ++ [o] } }

def dropRelayOp (c : Nat) (s : State) : State :=
  { s with relay := { s.relay with ops := s.relay.ops.filter (fun o => o.c != c) } }

/-- A relay operation fails as a contained error. -/
def failRelay (c cause inst : Nat) (s : State) : State := failCmd c bRLY cause inst (dropRelayOp c s)

def batonSize : Nat := 2 ^ 20

/-- Batons of a block, and length of baton b. -/
def batonsOf (n : Nat) : Nat := ceilDiv n batonSize
def batonLen (n b : Nat) : Nat := min batonSize (n - b * batonSize)

/-! ### Sending (R223, R260, R262) -/

/-- Data as the compressor of a port puts it out: table messages to go first, then the message (R231, R233). -/
def packMsg (p cls a : Nat) (m : Msg) (s : State) : List Msg × Msg × State :=
  let (os, t) := compressRun p cls a m.data s
  let imgs := os.filterMap (fun o => match o with | .image b => some ({ m with kind := 8, cmp := false, data := b } : Msg) | .block _ _ => none)
  let body := os.flatMap (fun o => match o with | .image _ => [] | .block h pl => leBytes 8 h ++ pl)
  (imgs, { m with cmp := true, data := body }, t)

/-- What sending a relay message came to. -/
structure SentR where
  s    : State
  /-- Messages whose ACCEPT is awaited. -/
  sent : List SentC := []
  /-- Mark of the port that carries it. -/
  mark : Option (Nat × Nat) := none

/-- The marks with one more. -/
def SentR.marks (r : SentR) (l : List (Nat × Nat)) : List (Nat × Nat) :=
  match r.mark with
  | none => l
  | some (p, n) => AL.set 0 p n l

/-- A relay message is sent, compressed where that is asked for and enabled; none when its port is lost. -/
def sendRelay (cmp : Bool) (cls a : Nat) (m : Msg) (s : State) : Option SentR :=
  match portTo m.dstDom.toNat m.dstDev.toNat s with
  | none => some { s := s }
  | some p =>
    if !portUsable p s then none
    else
      let t := rcount R.RLY_BATONS_TX s
      if cmp && rbit R.CMP_CTL 0 s then
        let (imgs, z, t) := packMsg p cls a m t
        let t := (imgs ++ [z]).foldl (fun t x => sendOn p x t) t
        some { s := t, sent := [{ msg := z, raw := m.data, src := a }], mark := some (p, (portx p t).handed.getD 2 0) }
      else
        let t := sendOn p m t
        some { s := t, mark := some (p, (portx p t).handed.getD 2 0) }

/-- A baton (Table 14.2); its TAG holds 6 bits of the rank or leg (log 157). -/
def batonMsg (s : State) (m : Nat × Nat) (idx optag tag a len : Nat) : Msg :=
  mkMsg s 4 m.1 m.2 (idx + (optag <<< 24)) (tag % 64) (readBytes s a len) (poisoned s a len)

/-- Batons to send: (domain, device, address, length, index, rank or leg). -/
abbrev ToSend := Nat × Nat × Nat × Nat × Nat × Nat

/-- Batons of a list are sent while `may` allows, in order. -/
def sendBatons (c optag : Nat) (cmp : Bool) (cls : Nat) (may : State → ToSend → Bool) : Nat → State → State
  | 0, s => s
  | n + 1, s =>
    match relayOp c s with
    | none => s
    | some o =>
      match o.toSend with
      | [] => s
      | x :: rest =>
        if enginesHeld s || !may s x then s
        else
          match sendRelay cmp cls x.2.2.1 (batonMsg s (x.1, x.2.1) x.2.2.2.2.1 optag x.2.2.2.2.2 x.2.2.1 x.2.2.2.1) s with
          | none => failRelay c 0x0190 ((portTo x.1 x.2.1 s).getD 0) s
          | some r =>
            sendBatons c optag cmp cls may n
              (setRelayOp { o with toSend := rest, unacked := o.unacked ++ r.sent, marks := r.marks o.marks } r.s)

/-- All batons of a block for each of some members. -/
def blockSends (ms : List (Nat × Nat)) (a n tag : Nat) : List ToSend :=
  ms.flatMap (fun m => (List.range (batonsOf n)).map (fun b => (m.1, m.2, a + b * batonSize, batonLen n b, b, tag)))

/-! ### Counting batons (R263) -/

def countedOf (k : Nat) (o : RelayOp) : Nat := AL.get 0 k o.counted

/-- Batons that have landed out of order and are now in order are counted; answers how many. -/
def settle (k : Nat) : Nat → RelayOp → RelayOp × Nat
  | 0, o => (o, 0)
  | n + 1, o =>
    if o.early.contains (k, countedOf k o) then
      let (o', i) := settle k n { o with early := o.early.erase (k, countedOf k o), counted := AL.set 0 k (countedOf k o + 1) o.counted }
      (o', i + 1)
    else (o, 0)

/-- `n` adds of 1 to a marker. -/
def markerTimes (m : Nat) : Nat → State → State
  | 0, s => s
  | n + 1, s => markerTimes m n (markerInc m 1 s)

/-- Baton b of block (or leg) k has landed: counted in baton order. -/
def countBaton (c k b marker : Nat) (s : State) : State :=
  match relayOp c s with
  | none => s
  | some o =>
    let (o', n) := settle k (o.early.length + 1) { o with early := o.early ++ [(k, b)] }
    rcountBy R.RLY_BATONS_RX n (markerTimes marker n (setRelayOp o' s))

/-- The same for every baton of a block of n bytes. -/
def countBlock (c k n marker : Nat) (s : State) : State :=
  (List.range (batonsOf n)).foldl (fun t b => countBaton c k b marker t) s

/-- Has baton b of block k landed? -/
def landed (o : RelayOp) (k b : Nat) : Bool := decide (b < countedOf k o) || o.early.contains (k, b)

/-! ### The data collectives (R262) -/

structure Coll where
  g   : Grp
  src : Nat
  dst : Nat
  n   : Nat
  mark : Nat
  deriving DecidableEq, Repr, Inhabited

def Coll.parse (b : Bytes) (s : State) : Coll :=
  let un := unitAt b 2
  { g := Grp.parse b s, src := u un 0 6, dst := u un 8 6, n := u un 16 4, mark := u un 20 2 }

/-- Blocks that an ALL_GATHER has at hand in a stage, by rank: own, its tray's, its domain's. -/
def gatherRanks (g : Grp) (m : Nat × Nat) (stage : Nat) : List Nat :=
  (g.members.filter (fun x =>
    if stage = 0 then x == m else if stage = 1 then x.1 == m.1 && x.2 / 8 == m.2 / 8 else x.1 == m.1)).map g.rank

/-- The next stages of an ALL_GATHER are formed as soon as the blocks they send are whole. -/
def gatherStages (c : Nat) (k : Coll) : Nat → State → State
  | 0, s => s
  | n + 1, s =>
    match relayOp c s with
    | none => s
    | some o =>
      let rs := gatherRanks k.g (me s) o.stage
      if o.stage < 3 ∧ rs.all (fun r => countedOf r o == batonsOf k.n) then
        let ps := match o.stage with | 0 => k.g.trayPeers (me s) | 1 => k.g.rackPeers (me s) | _ => k.g.machinePeers (me s)
        let more := rs.flatMap (fun r => blockSends ps (k.dst + r * k.n) k.n r)
        gatherStages c k n (setRelayOp { o with stage := o.stage + 1, toSend := o.toSend ++ more } s)
      else s

/-- Ranks whose blocks the module counts; a BROADCAST's root counts its own (log 158). -/
def expectedRanks (op : Op) (g : Grp) : List Nat :=
  match op with
  | .broadcast => [g.rank g.root]
  | _ => List.range g.members.length

/-- Sends what may be sent and completes the command when all is sent, acknowledged, accepted and counted. -/
def collectiveGo (op : Op) (x : Started) (s : State) : State :=
  let k := Coll.parse x.bytes s
  let c := x.id
  let t := if op = .allGather then gatherStages c k 4 s else s
  let n := match relayOp c t with | none => 0 | some o => o.toSend.length
  let t := sendBatons c k.g.optag k.g.cmp k.g.cls (fun _ _ => true) n t
  match relayOp c t with
  | none => t
  | some o =>
    if o.toSend.isEmpty && o.unacked.isEmpty && (op != .allGather || o.stage == 3) && quiet 2 o.marks t &&
       (expectedRanks op k.g).all (fun r => countedOf r o == batonsOf k.n) then markDone c (dropRelayOp c t)
    else t

/-- Local data of a collective that an engine access cannot reach. -/
def collUnmapped (op : Op) (k : Coll) (s : State) : Option Nat :=
  let nm := k.g.members.length
  match op with
  | .broadcast => if k.g.root = me s then firstUnreached s k.src k.n else firstUnreached s k.dst k.n
  | .allGather => firstUnreached s k.src k.n <|> firstUnreached s k.dst (nm * k.n)
  | _ => firstUnreached s k.src (nm * k.n) <|> firstUnreached s k.dst (nm * k.n)

/-- The module's own block, copied locally and counted. -/
def ownBlock (c r a d n mk : Nat) (s : State) : State :=
  let w := writeMem d (readBytes s a n) (touchRead s (a, n)) (poisoned s a n)
  countBlock c r n mk w.s

/-- The port on which a message for an OPTAG failed before the command of that OPTAG began (R236). -/
def lostOf (optag : Nat) (s : State) : Option Nat := findKey optag s.relay.lostTags

def forgetLost (optag : Nat) (s : State) : State :=
  { s with relay := { s.relay with lostTags := s.relay.lostTags.filter (fun x => x.1 != optag) } }

def collectiveStart (op : Op) (x : Started) (s : State) : State :=
  let k := Coll.parse x.bytes s
  let c := x.id
  let m := me s
  let r := k.g.rank m
  if k.g.absent s then failCmd c bRLY 0x01A3 0 s
  else
    match lostOf k.g.optag s with
    | some p => failCmd c bRLY 0x0191 p (forgetLost k.g.optag s)
    | none =>
    match collUnmapped op k s with
    | some a => failCmd c bRLY (reachCause s a) 0 (captureReach a s)
    | none =>
      let t := setProg c 0 s
      let t := match op with
        | .broadcast =>
          if k.g.root = m then
            countBlock c r k.n k.mark (addRelayOp { c := c, toSend := blockSends (k.g.children m) k.src k.n r } t)
          else addRelayOp { c := c } t
        | .allGather => ownBlock c r k.src (k.dst + r * k.n) k.n k.mark (addRelayOp { c := c } t)
        | _ =>
          let sends := (k.g.members.filter (fun y => y != m)).flatMap (fun y => blockSends [y] (k.src + k.g.rank y * k.n) k.n r)
          ownBlock c r (k.src + r * k.n) (k.dst + r * k.n) k.n k.mark (addRelayOp { c := c, toSend := sends } t)
      collectiveGo op x t

def collectiveRun (op : Op) (c : Nat) (s : State) : State :=
  match runningCmd c op s with
  | none => s
  | some x => if x.begun then collectiveGo op x s else collectiveStart op x s

/-- BROADCAST. -/
def broadcastRun (c : Nat) (s : State) : State := collectiveRun .broadcast c s
def execBroadcast (c : Nat) (s : State) : Host.Outcome State Fault Refusal := .next (broadcastRun c s)

/-- ALL_GATHER. -/
def allGatherRun (c : Nat) (s : State) : State := collectiveRun .allGather c s
def execAllGather (c : Nat) (s : State) : Host.Outcome State Fault Refusal := .next (allGatherRun c s)

/-- ALL_TO_ALL. -/
def allToAllRun (c : Nat) (s : State) : State := collectiveRun .allToAll c s
def execAllToAll (c : Nat) (s : State) : Host.Outcome State Fault Refusal := .next (allToAllRun c s)

/-! ### RING_PASS (R264) -/

/-- Buffer in which the module's leg l stands: KV_OWN for leg 0. -/
def Ring.buf (r : Ring) (l : Nat) : Nat := if l = 0 then r.kvOwn else if (l - 1) % 2 = 0 then r.rb.1 else r.rb.2

/-- Does the range end at leg G - 1, with HOME? -/
def Ring.sendsHome (r : Ring) : Bool := r.home && r.first + r.count == r.g

/-- Batons a RING_PASS sends, leg by leg and then home; the tag is the leg at the receiver, 0 for home (log 41). -/
def Ring.sends (r : Ring) : List ToSend :=
  ((List.range r.count).flatMap (fun i => (List.range r.b).map (fun b =>
    let l := r.first + i
    (r.next.1, r.next.2, r.buf (l - 1) + b * batonSize, batonSize, b, l)))) ++
  (if r.sendsHome then (List.range r.b).map (fun b => (r.next.1, r.next.2, r.buf (r.g - 1) + b * batonSize, batonSize, b, 0)) else [])

/-- Has leg l, which an earlier RING_PASS of the ring lands, baton b here? Once that command is gone, it has (R264). -/
def Ring.before (r : Ring) (c l b : Nat) (s : State) : Bool :=
  l == 0 || s.relay.ops.all (fun o =>
    match startedAt o.c s with
    | none => true
    | some y =>
      let q := Ring.parse y.bytes
      o.c == c || opOfBytes y.bytes != some .ringPass || q.rb != r.rb || q.prev != r.prev || decide (l < q.first) ||
      decide (q.first + q.count ≤ l) || landed o l b)

/-- Gates on a baton: landed here, carried, granted (R264). -/
def Ring.may (r : Ring) (c : Nat) (s : State) (x : ToSend) : Bool :=
  match relayOp c s with
  | none => false
  | some o =>
    let l := if x.2.2.2.2.2 = 0 then r.g else x.2.2.2.2.2
    let b := x.2.2.2.2.1
    let own := l - 1
    (if own < r.first then r.before c own b s else landed o own b) &&
    (!r.carry || satisfied (markerCount r.carM s) (r.carB + own * r.b + b + 1)) &&
    (x.2.2.2.2.2 == 0 || decide (l < 3) || o.granted.contains l)

/-- GRANTs that may be sent to PREV. -/
def ringGrants (c : Nat) (r : Ring) (s : State) : State :=
  (List.range r.count).foldl (fun t i =>
    let l := r.first + i
    match relayOp c t with
    | none => t
    | some o =>
      if 3 ≤ l ∧ !o.given.contains l ∧ satisfied (markerCount r.freeM t) (r.freeB + l - 2) then
        sendCtrl 8 r.prev.1 r.prev.2 (padTo 16 (leBytes 4 r.optag ++ leBytes 2 l)) (setRelayOp { o with given := o.given ++ [l] } t)
      else t) s

def ringGo (x : Started) (s : State) : State :=
  let r := Ring.parse x.bytes
  let c := x.id
  let t := ringGrants c r s
  let n := match relayOp c t with | none => 0 | some o => o.toSend.length
  let t := sendBatons c r.optag r.cmp r.cls (r.may c) n t
  match relayOp c t with
  | none => t
  | some o =>
    let legs := (List.range r.count).map (fun i => r.first + i) ++ (if r.sendsHome then [0] else [])
    if o.toSend.isEmpty && o.unacked.isEmpty && quiet 2 o.marks t && legs.all (fun l => countedOf l o == r.b) then
      markDone c (dropRelayOp c t)
    else t

/-- A RING_PASS begins: its own sends wait for their legs, and grants that came before it are its own. -/
def ringBeginSends (c : Nat) (r : Ring) (s : State) : State :=
  let mine (g : Nat × Nat) : Bool := g.1 == r.optag && decide (r.first ≤ g.2) && decide (g.2 < r.first + r.count)
  addRelayOp { c := c, toSend := r.sends, granted := (s.relay.grants.filter mine).map (·.2) }
    (setProg c 0 { s with relay := { s.relay with grants := s.relay.grants.filter (fun g => !mine g) } })

/-- A buffer of a RING_PASS that the module cannot reach whole. -/
def ringUnreached (r : Ring) (s : State) : Option Nat :=
  firstUnreached s r.kvOwn (r.b * batonSize) <|> firstUnreached s r.rb.1 (r.b * batonSize) <|> firstUnreached s r.rb.2 (r.b * batonSize)

/-- RING_PASS starts, unless a buffer cannot be reached. -/
def ringPassStart (c : Nat) (x : Started) (r : Ring) (lacks : Option Nat) (s : State) : State :=
  match lacks with
  | some a => failCmd c bRLY (reachCause s a) 0 (captureReach a s)
  | none => ringGo x (ringBeginSends c r s)

/-- RING_PASS. -/
def ringPassRun (c : Nat) (s : State) : State :=
  match runningCmd c .ringPass s with
  | none => s
  | some x =>
    let r := Ring.parse x.bytes
    if x.begun then ringGo x s
    else
      match lostOf r.optag s with
      | some p => failCmd c bRLY 0x0191 p (forgetLost r.optag s)
      | none => ringPassStart c x r (ringUnreached r s) s

def execRingPass (c : Nat) (s : State) : Host.Outcome State Fault Refusal := .next (ringPassRun c s)

/-! ### BATON -/

/-- Relay commands in progress that OPTAG names. -/
def opsOfTag (optag : Nat) (s : State) : List (Started × Op) :=
  s.started.filterMap (fun x =>
    match opOfBytes x.bytes with
    | none => none
    | some o =>
      if x.state == .running && x.begun &&
         ((o == .ringPass && (Ring.parse x.bytes).optag == optag) ||
          ((o == .broadcast || o == .allGather || o == .allToAll) && (Grp.parse x.bytes s).optag == optag))
      then some (x, o) else none)

/-- The rank whose low 6 bits the TAG of a baton holds: the root's in a BROADCAST, else that of a member of the sender's domain,
whose blocks alone a stage's sender sends (log 157). -/
def rankOfTag (o : Op) (g : Grp) (m : Msg) : Nat :=
  if o = .broadcast then g.rank g.root
  else
    ((g.members.zipIdx.find? (fun x => x.1.1 == m.srcDom.toNat && x.2 % 64 == m.tag.toNat % 64)).map (·.2)).getD g.members.length

/-- Where a baton lands for an operation: address, marker, and the rank or leg it is of; none while it must not land. -/
def landing (x : Started) (o : Op) (m : Msg) (s : State) : Option (Nat × Nat × Nat) :=
  let idx := m.addr.toNat % 2 ^ 24
  if o = .ringPass then
    let r := Ring.parse x.bytes
    let leg := m.tag.toNat % 64
    match relayOp x.id s with
    | none => none
    | some p =>
      if leg = 0 then (if r.sendsHome && decide (idx < r.b) then some (r.kvOwn + idx * batonSize, r.homM, 0) else none)
      else if r.first ≤ leg ∧ leg < r.first + r.count ∧ idx < r.b ∧ (leg < 3 ∨ p.given.contains leg) then
        some (r.buf leg + idx * batonSize, r.arrM, leg)
      else none
  else
    let k := Coll.parse x.bytes s
    let rank := rankOfTag o k.g m
    if batonsOf k.n ≤ idx ∨ !(expectedRanks o k.g).contains rank then none
    else if o = .broadcast then some (k.dst + idx * batonSize, k.mark, rank)
    else some (k.dst + rank * k.n + idx * batonSize, k.mark, rank)

/-- The operation that a baton belongs to, and where it lands. -/
def ownerOfBaton (m : Msg) (s : State) : Option (Started × Op × Nat × Nat × Nat) :=
  (opsOfTag (m.addr.toNat / 2 ^ 24) s).findSome? (fun x => (landing x.1 x.2 m s).map (fun l => (x.1, x.2, l)))

/-- A landed baton of a BROADCAST is to be forwarded (R259). -/
def forwardBaton (x : Started) (o : Op) (idx tag : Nat) (s : State) : State :=
  if o = .broadcast then
    let k := Coll.parse x.bytes s
    match relayOp x.id s with
    | none => s
    | some p => setRelayOp { p with toSend := p.toSend ++ (k.g.children (me s)).map (fun m =>
        (m.1, m.2, k.dst + idx * batonSize, batonLen k.n idx, idx, tag)) } s
  else s

/-- Work that a running relay command can do now. -/
def relayGo (x : Started) (o : Op) (s : State) : State := if o = .ringPass then ringGo x s else collectiveGo o x s

/-- BATON: it lands, is counted in order and is forwarded; it waits in the receive buffer for its operation. Engines that wait for a
count see it (R115). -/
def batonIn (p : Nat) (m : Msg) (s : State) : State :=
  match ownerOfBaton m s, takeMsg p 4 m s with
  | some (x, o, a, mk, k), some t =>
    if bankHolds a m.data.length s then s
    else
    let idx := m.addr.toNat % 2 ^ 24
    let w := writeMem a m.data t m.poison
    (match w.cause with
     | some cause => failRelay x.id cause p w.s
     | none => relayGo x o (advanceAll (countBaton x.id k idx mk (forwardBaton x o idx k w.s))))
  | _, _ => s

def execBaton (p : Port) (m : Msg) (s : State) : Host.Outcome State Fault Refusal := .next (batonIn p.val m s)

/-- GRANT (R264): NEXT takes leg l. One that comes before its RING_PASS has begun is kept for it (log 159). -/
def grantIn (p : Nat) (m : Msg) (s : State) : State :=
  match takeCtrl p 8 m s with
  | none => s
  | some t =>
    let optag := u m.data 0 4
    let leg := u m.data 4 2
    let takes (y : Started × Op) : Bool :=
      let r := Ring.parse y.1.bytes
      y.2 == .ringPass && decide (r.first ≤ leg) && decide (leg < r.first + r.count)
    match (opsOfTag optag t).find? takes with
    | none => { t with relay := { t.relay with grants := t.relay.grants ++ [(optag, leg)] } }
    | some (x, _) =>
      (match relayOp x.id t with
       | none => t
       | some o => ringGo x (setRelayOp { o with granted := o.granted ++ [leg] } t))

def execGrant (p : Port) (m : Msg) (s : State) : Host.Outcome State Fault Refusal := .next (grantIn p.val m s)

/-! ### Buckets (R280) -/

def bucketAt (b : Nat) (s : State) : Option Bucket := s.relay.buckets.find? (fun k => k.num == b)

def showRelay (s : State) : State :=
  rsetBits R.RLY_OPEN 22 16 s.relay.reorder.length (rsetBits R.RLY_OPEN 8 0 s.relay.buckets.length s)

def setBucket (k : Bucket) (s : State) : State :=
  { s with relay := { s.relay with buckets := s.relay.buckets.map (fun x => if x.num = k.num then k else x) } }

/-- The entry of a bucket, taken if there is none (R280). -/
def needBucket (b epoch : Nat) (s : State) : Bucket × State :=
  match bucketAt b s with
  | some k => (k, s)
  | none =>
    let k : Bucket := { num := b, epoch := epoch }
    (k, showRelay { s with relay := { s.relay with buckets := s.relay.buckets ++ [k] } })

/-- A bucket is closed on this module. -/
def closeBucket (b : Nat) (s : State) : State :=
  showRelay { s with relay := { s.relay with
    buckets := s.relay.buckets.filter (fun k => k.num != b), reorder := s.relay.reorder.erase b,
    past := (b :: s.relay.past).take 256 } }

/-- The number of a bucket is open anew: what was closed under it is past no longer (R265). -/
def reopen (b : Nat) (s : State) : State := { s with relay := { s.relay with past := s.relay.past.filter (· != b) } }

/-- The command of a bucket's REDUCE and its operands. -/
def reduceOf (k : Bucket) (s : State) : Option (Started × RD) :=
  match k.c with
  | none => none
  | some c => (runningCmd c .reduce s).map (fun x => (x, RD.parse x.bytes s))

/-- Reduction operations of a bucket leave the queue and the admitted. -/
def dropReductions (b : Nat) (s : State) : State :=
  let t := (s.admitted.filter (fun o => o.bucket == b)).foldl (fun t o => releaseOp o t) s
  showRbq { t with redWait := t.redWait.filter (fun o => o.bucket != b) }

/-- A REDUCE fails; its bucket counts as closed. -/
def failReduce (k : Bucket) (cause inst : Nat) (s : State) : State :=
  match k.c with
  | none => s
  | some c => failCmd c bRLY cause inst (closeBucket k.num (dropReductions k.num s))

/-- Data of a relay CTRL message that begins with bucket and epoch. -/
def bucketData (b epoch : Nat) (rest : Bytes) : Bytes := padTo 16 (leBytes 4 b ++ leBytes 2 epoch ++ rest)

def noExp : Int := -32768

/-! ### The exponent phase (R265) -/

/-- Exact value of an FP32 word; none for infinity and NaN. -/
def exact32 (w : Nat) : Option (Int × Int) :=
  match f32 w with
  | .fin neg m e => some (FVal.int neg m, e)
  | _ => none

/-- Values of a source and whether it raised INVALID. -/
def srcValues (r : Src) (n : Nat) (s : State) : List (Int × Int) × Bool :=
  match r.kind with
  | 1 =>
    let vs := (List.range n).map (fun i => exact32 (readNat s (r.addr + 4 * i) 4))
    (vs.map (fun v => v.getD (0, 0)), vs.any (·.isNone))
  | 2 => ((List.range n).map (fun i => (signed 64 (readNat s (r.addr + 8 * i) 8), r.e)), false)
  | _ => ([], false)

def srcLen (r : Src) (n : Nat) : Nat := if r.kind = 1 then 4 * n else if r.kind = 2 then 8 * n else 0

/-- Largest floor(log2 |v|) of nonzero values. -/
def topExp (vs : List (Int × Int)) : Int :=
  vs.foldl (fun a v => if v.1 = 0 then a else max a ((Nat.log2 v.1.natAbs : Int) + v.2)) noExp

/-- REPORT data (Table 14.3). -/
def reportData (b epoch : Nat) (r : Rep) : Bytes :=
  bucketData b epoch (leBytes 2 (unsigned 16 r.exp) ++ leBytes 2 r.count ++ leBytes 2 r.mask)

/-- Reports folded: EXP by maximum, COUNT by sum, BACKMASK by OR. -/
def foldReports (own : Rep) (l : List Rep) : Rep :=
  l.foldl (fun a r => { a with exp := max a.exp r.exp, count := a.count + r.count, mask := a.mask ||| r.mask }) own

/-- h of the owner's scale: ceil(log2 NEXPECT). -/
def headroom (n : Nat) : Nat := if n ≤ 1 then 0 else Nat.log2 (n - 1) + 1

/-- S and P (R265 step 4). -/
def scaleOf (r : Rep) (nexp : Nat) : Int × Nat :=
  (if r.exp = noExp then 0 else max (-128) (min 127 (r.exp + headroom nexp - 29)), r.count + popCount 16 r.mask)

/-! ### The data phase (R266, R267) -/

def chunkElems : Nat := 262144
def chunksOf (n : Nat) : Nat := ceilDiv n chunkElems
def chunkLen (n k : Nat) : Nat := min chunkElems (n - k * chunkElems)

/-- n of a value under scale S, and whether it saturated (R266). -/
def toChunk (sc : Int) (h : Nat) (v : Int × Int) : Int × Bool :=
  let (q, rn, rd) := floorScaled v.1.natAbs 1 (v.2 - sc)
  let m := if roundsUp .rne (q % 2 == 1) rn rd then q + 1 else q
  let lim := 2 ^ (30 - h)
  if lim < m then (FVal.int (decide (v.1 < 0)) lim, true) else (FVal.int (decide (v.1 < 0)) m, false)

/-- Values of source i of a bucket's member. -/
def Bucket.src (k : Bucket) (i : Nat) : List (Int × Int) := if i = 0 then k.src0 else k.src1

/-- The integers of a source in chunk j. -/
def chunkInts (k : Bucket) (x : RD) (i j : Nat) : List Int :=
  match k.scale with
  | none => []
  | some (sc, _) =>
    ((k.src i).drop (j * chunkElems)).take (chunkLen x.n j) |>.map (fun v => (toChunk sc (headroom x.nexp) v).1)

/-- The member's own partial of a chunk: its unbacked sources (the package stage). -/
def ownPartial (k : Bucket) (x : RD) (j : Nat) : List Int :=
  let add (a : List Int) (i : Nat) : List Int :=
    let r := (x.srcs.getD i default)
    if r.kind == 0 || r.backed || (k.src i).isEmpty then a else (a.zip (chunkInts k x i j)).map (fun p => p.1 + p.2)
  [0, 1].foldl add (List.replicate (chunkLen x.n j) 0)

/-- A CONTRIB message (Table 14.2). -/
def contribMsg (s : State) (m : Nat × Nat) (b j tag : Nat) (vs : List Int) (bad : Bool) : Msg :=
  mkMsg s 5 m.1 m.2 (b + (j <<< 32) + ((epochNow s % 64) <<< 42)) tag (vs.flatMap (fun v => leBytes 4 (unsigned 32 v))) bad

/-- Sums of an owner's bucket with one more list of integers from element `lo` on. -/
def addSums (lo : Nat) : List Int → List (Nat × Nat) → List (Nat × Nat)
  | [], l => l
  | v :: t, l => addSums (lo + 1) t (AL.set 0 lo ((AL.get 0 lo l + unsigned 64 v) % 2 ^ 64) l)

/-- The staging slot of a backed chunk sent on is free once the link has acknowledged it (R268). -/
def markStaged (b : Nat) (m : Msg) (r : SentR) (s : State) : State :=
  match r.mark with
  | none => s
  | some (_, n) =>
    let this (x : Nat × Nat × Nat × Nat × Nat) : Bool :=
      bitAt m.tag.toNat 15 && x.2.1 == b && x.2.2.1 == m.tag.toNat % 16 && x.2.2.2.1 == bits m.addr.toNat 41 32
    { s with relay := { s.relay with
        staged := s.relay.staged.map (fun x => if this x then (x.1, x.2.1, x.2.2.1, x.2.2.2.1, n) else x) } }

/-- CONTRIBs that wait are sent, in order (R276). -/
def sendContribs : Nat → Nat → State → State
  | 0, _, s => s
  | n + 1, b, s =>
    match bucketAt b s with
    | none => s
    | some k =>
      match k.outbox, reduceOf k s with
      | m :: rest, some (_, x) =>
        if enginesHeld s then s
        else
          (match sendRelay x.g.cmp x.g.cls 0 m s with
           | none => failReduce k 0x0190 ((portTo m.dstDom.toNat m.dstDev.toNat s).getD 0) s
           | some r => sendContribs n b (markStaged b m r
               (setBucket { k with outbox := rest, unacked := k.unacked ++ r.sent, marks := r.marks k.marks } r.s)))
      | _, _ => s

def flushContribs (b : Nat) (s : State) : State :=
  match bucketAt b s with
  | none => s
  | some k => sendContribs k.outbox.length b s

/-- The owner writes a sum (R269). -/
def ownerWrite (x : RD) (sc : Int) (p : Nat) (k : Bucket) (s : State) : Wrote :=
  let sum (e : Nat) : Int := signed 64 (AL.get 0 e k.sums)
  if x.out = 0 then
    let zs := stackSet x.zmask
    let a : BArr := { off := x.off, slot := 2048, rows := 0 }
    writeAll ((List.range x.n).map (fun e => (a.addr zs (x.grow + e / 256) (8 * (e % 256)), leBytes 8 (unsigned 64 (sum e))))) s
  else
    let word (e : Nat) : Nat × Nat :=
      if x.out = 1 then toF32 (ofDy (sum e, sc))
      else
        let v := sum e
        let (r, fl) := roundTo fmtFP32 .rne 0 (decide (v < 0)) v.natAbs (max 1 p) sc
        (encodeLin fmtFP32 r, fl)
    let ws := (List.range x.n).map word
    let w := writeMem x.dst (ws.flatMap (fun w => leBytes 4 w.1)) s
    { w with flags := ws.foldl (fun a w => a ||| w.2) w.flags }

/-- Completed buckets in bucket-number order (R271). -/
def insertReady (b : Nat) : List Nat → List Nat
  | [] => [b]
  | x :: t => if bucketBefore b x then b :: x :: t else x :: insertReady b t

/-- The owner looks whether every chunk is complete (R269, R270, R279). -/
def ownerCheck (b : Nat) (s : State) : State :=
  match bucketAt b s with
  | none => s
  | some k =>
    match reduceOf k s, k.scale, k.own with
    | some (x, r), some (sc, p), some own =>
      let mask := (foldReports own k.reports).mask
      let cs := List.range (chunksOf r.n)
      if k.ready || !cs.all (fun j => k.chunks.contains j && (setPositions 16 mask).all (fun ci => k.taken.contains (ci, j))) then s
      else if k.poison then failReduce k 0x01A1 0 s
      else
        let w := ownerWrite r sc p k s
        (match w.cause with
         | some cause => failReduce k cause 0 w.s
         | none => showRelay (addFlags x.id w.flags (setBucket { k with ready := true }
             { w.s with relay := { w.s.relay with reorder := insertReady b w.s.relay.reorder } })))
    | _, _, _ => s

/-- The partial of a chunk is whole at this node: folded at the owner, sent on elsewhere. -/
def chunkWhole (b j : Nat) (vs : List Int) (bad : Bool) (s : State) : State :=
  match bucketAt b s with
  | none => s
  | some k =>
    match reduceOf k s, k.own with
    | some (_, x), some own =>
      (match x.g.parent (me s) with
       | none =>
         let sums := addSums (j * chunkElems) vs k.sums
         ownerCheck b (rcount R.RLY_BATONS_RX
           (setBucket { k with sums := sums, chunks := k.chunks ++ [j], poison := k.poison || bad } s))
       | some up =>
         let n := (foldReports own k.reports).count
         let k := { k with chunks := k.chunks ++ [j] }
         if n = 0 then setBucket k s
         else flushContribs b (setBucket { k with outbox := k.outbox ++ [contribMsg s up b j n vs (bad || k.poison)] } s))
    | _, _ => s

/-- Chunk j begins at a node: a reduction on the ports of the members that send partials, or the own partial alone. -/
def chunkBegin (b : Nat) (s : State) (j : Nat) : State :=
  match bucketAt b s with
  | none => s
  | some k =>
    match reduceOf k s with
    | none => s
    | some (st, x) =>
      let from' := k.reports.filter (fun r => decide (0 < r.count))
      let own := ownPartial k x j
      if from'.isEmpty then chunkWhole b j own k.poison s
      else
        let tok := ceilDiv (8 * chunkLen x.n j) 65536
        let needs := from'.filterMap (fun r => (portTo r.dom r.dev s).map (fun p => (p, tok)))
        let o : RedOp := { bucket := b, chunk := j, c := st.id, needs := needs, poison := k.poison }
        if needs.any (fun n => decide (32 < n.2)) then failReduce k 0x0193 0 s
        else showRbq { s with redWait := askAdmission o s.redWait }

/-- The member to which a backed chunk goes first (R268); none at the owner. -/
def backedTo (x : RD) (s : State) : Option (Nat × Nat) :=
  if x.g.root = me s then none
  else if x.g.rdom = myDom s ∨ x.g.rdev = myDev s then some x.g.root
  else some (myDom s, x.g.rdev)

/-- The chunks of a backed source. -/
def sendBacked (b : Nat) (s : State) (i : Nat) : State :=
  match bucketAt b s with
  | none => s
  | some k =>
    match reduceOf k s with
    | none => s
    | some (_, x) =>
      let r := x.srcs.getD i default
      if r.kind == 0 || !r.backed || (k.src i).isEmpty then s
      else
        let js := List.range (chunksOf x.n)
        (match backedTo x s with
         | none =>
           let new := js.filter (fun j => !k.taken.contains (r.ci, j))
           rcountBy R.RLY_DUP (js.length - new.length) (setBucket { k with
             taken := k.taken ++ new.map (fun j => (r.ci, j)),
             sums := new.foldl (fun l j => addSums (j * chunkElems) (chunkInts k x i j) l) k.sums } s)
         | some m =>
           setBucket { k with outbox := k.outbox ++ js.map (fun j =>
             contribMsg s m b j (0x8000 + r.ci) (chunkInts k x i j) k.poison) } s)

/-- Does a value of the member's sources saturate under the scale? -/
def overflows (k : Bucket) (x : RD) : Bool :=
  match k.scale with
  | none => false
  | some (sc, _) => (k.src0 ++ k.src1).any (fun v => (toChunk sc (headroom x.nexp) v).2)

/-- The data phase begins at a node that holds SCALE. -/
def dataPhase (b : Nat) (s : State) : State :=
  match bucketAt b s with
  | none => s
  | some k =>
    match reduceOf k s with
    | none => s
    | some (st, x) =>
      let t := if overflows k x then addFlags st.id flagOverflow s else s
      let t := [0, 1].foldl (sendBacked b) t
      ownerCheck b (flushContribs b ((List.range (chunksOf x.n)).foldl (chunkBegin b) t))

/-! ### The manager's timers (R273) -/

/-- Is a START from member m ignored, since the timer of its bucket runs or the bucket is closed? A member starts a bucket once, so its
second START is of the next use of the number (log 182). -/
def startIgnored (b : Nat) (m : Nat × Nat) (s : State) : Bool :=
  s.relay.timers.any (fun t => t.1 == b) || (s.relay.closedB.contains b && !s.relay.starts.contains (b, m.1, m.2))

/-- START from member m at the manager of the owner's domain. -/
def timerStart (b od ov : Nat) (m : Nat × Nat) (s : State) : State :=
  let r := s.relay
  if startIgnored b m s then { s with relay := { r with starts := (b, m.1, m.2) :: r.starts } }
  else { s with relay := { r with timers := r.timers ++ [(b, od, ov)], closedB := r.closedB.filter (· != b),
                                  starts := (b, m.1, m.2) :: r.starts.filter (fun x => x.1 != b) } }

/-- CLOSED at the manager. -/
def timerStop (b : Nat) (s : State) : State :=
  let r := s.relay
  { s with relay := { r with timers := r.timers.filter (fun t => t.1 != b), closedB := (b :: r.closedB.filter (· != b)).take 256,
                             starts := if r.closedB.contains b then r.starts.filter (fun x => x.1 != b) else r.starts } }

/-- A relay CTRL message to a member, or to the module itself by `own`. -/
def ctrlTo (type : Nat) (m : Nat × Nat) (data : Bytes) (own : State → State) (s : State) : State :=
  if m = me s then own s else sendCtrl type m.1 m.2 data s

/-- The manager of a domain (log 42). -/
def managerOf (dm : Nat) (s : State) : Nat × Nat := (dm, managerDev s)

/-- SCALE is known at the owner: sent outbound, CLOSED to the manager, and the data phase begins. -/
def ownerScale (k : Bucket) (x : RD) (own : Rep) (s : State) : State :=
  let (sc, p) := scaleOf (foldReports own k.reports) x.nexp
  let t := setBucket { k with scale := some (sc, p), sent := true } s
  let d := bucketData k.num k.epoch (leBytes 2 (unsigned 16 sc) ++ leBytes 2 p)
  let t := (x.g.children (me s)).foldl (fun t m => sendCtrl 2 m.1 m.2 d t) t
  let t := ctrlTo 5 (managerOf (myDom s) s) (bucketData k.num k.epoch []) (timerStop k.num) t
  dataPhase k.num t

/-- A node whose own report and whose members' reports are all in sends its report on (R265 step 3). -/
def tryReport (b : Nat) (s : State) : State :=
  match bucketAt b s with
  | none => s
  | some k =>
    match reduceOf k s, k.own with
    | some (_, x), some own =>
      if k.sent || !(x.g.children (me s)).all (fun m => k.reports.any (fun r => (r.dom, r.dev) == m)) then s
      else
        (match x.g.parent (me s) with
         | none => ownerScale k x own s
         | some up => sendCtrl 1 up.1 up.2 (reportData b k.epoch (foldReports own k.reports)) (setBucket { k with sent := true } s))
    | _, _ => s

/-- Sources that a REDUCE names. -/
def RD.named (x : RD) : List Src := x.srcs.filter (fun r => r.kind != 0)

/-- A source not ready is absent from now on (R273). -/
def sourcesAbsent (b : Nat) (s : State) : State :=
  match bucketAt b s with
  | none => s
  | some k =>
    match reduceOf k s, k.own with
    | some (_, x), none =>
      let n := x.named.length
      let t := if n = 0 then s else rsetBit R.RLY_EVT 1 (rcountBy R.RLY_LATE n s)
      setBucket { k with own := some { dev := myDev s, dom := myDom s, exp := noExp } } t
    | _, _ => s

/-- The sources of a member are read, once (R265 steps 1 and 2). -/
def readSources (b : Nat) (s : State) : State :=
  match bucketAt b s with
  | none => s
  | some k =>
    match reduceOf k s, k.own with
    | some (st, x), none =>
      (match x.named.findSome? (fun r => firstUnreached s r.addr (srcLen r x.n)) with
       | some a => failReduce k (reachCause s a) 0 (captureReach a s)
       | none =>
         let v0 := srcValues (x.srcs.getD 0 default) x.n s
         let v1 := srcValues (x.srcs.getD 1 default) x.n s
         let own : Rep := { dev := myDev s, dom := myDom s, exp := max (topExp v0.1) (topExp v1.1),
                            count := (x.named.filter (fun r => !r.backed)).length,
                            mask := (x.named.filter (·.backed)).foldl (fun a r => a ||| (1 <<< r.ci)) 0 }
         let bad := x.named.any (fun r => poisoned s r.addr (srcLen r x.n))
         let t := setBucket { k with own := some own, src0 := v0.1, src1 := v1.1, poison := k.poison || bad } s
         let t := if v0.2 || v1.2 then addFlags st.id flagInvalid t else t
         if x.named.isEmpty || x.dl == 0xFFFFFFFF then t
         else ctrlTo 3 (managerOf x.g.rdom s)
           (bucketData b k.epoch (leBytes 2 x.g.rdev ++ leBytes 1 x.g.rdom)) (timerStart b x.g.rdom x.g.rdev (me s)) t)
    | _, _ => s

/-- Are the sources of a REDUCE ready (R265, Table 14.8)? -/
def RD.ready (x : RD) (s : State) : Bool := x.named.isEmpty || satisfied (markerCount x.srcM s) x.srcC

/-- A module that holds CUT passes it on and marks unready sources absent (R273). -/
def applyCut (b : Nat) (s : State) : State :=
  match bucketAt b s with
  | none => s
  | some k =>
    match reduceOf k s with
    | none => s
    | some (_, x) =>
      let t := (x.g.children (me s)).foldl (fun t m => sendCtrl 4 m.1 m.2 (bucketData b k.epoch []) t) s
      tryReport b (if x.ready s then readSources b t else sourcesAbsent b t)

/-- A CUT reaches this module: held for a bucket not yet open, ignored for one closed or past its exponent phase here. -/
def cutBucket (b epoch : Nat) (s : State) : State :=
  if s.relay.past.contains b then s
  else
    let (k, t) := needBucket b epoch s
    if k.cut || k.scale.isSome then t else applyCut b (setBucket { k with cut := true } t)

/-! ### REDUCE -/

/-- Does this module forward backed chunks of its domain from staging (R268)? -/
def RD.forwards (r : RD) (s : State) : Bool :=
  r.g.rdom != myDom s && r.g.rdev == myDev s && rget R.RLY_STAGE_BASE s != 0

/-- A non-owner's REDUCE completes: all it has to send, the chunks that it forwards from staging among them (log 160), is sent and
acknowledged (R272). -/
def reduceDone (x : Started) (r : RD) (k : Bucket) (s : State) : State :=
  match k.own, r.g.parent (me s) with
  | some own, some _ =>
    let f := foldReports own k.reports
    let js := List.range (chunksOf r.n)
    if k.scale.isSome && k.outbox.isEmpty && k.unacked.isEmpty && quiet 2 k.marks s &&
       (f.count == 0 || js.all (fun j => k.chunks.contains j)) &&
       (!r.forwards s || (setPositions 16 f.mask).all (fun ci => js.all (fun j => k.taken.contains (ci, j))))
    then markDone x.id (closeBucket k.num s)
    else s
  | _, _ => s

/-- REDUCE: opens its bucket, and later completes on a non-owner. -/
def reduceRun (c : Nat) (s : State) : State :=
  match runningCmd c .reduce s with
  | none => s
  | some x =>
    let r := RD.parse x.bytes s
    if x.begun then
      let t := flushContribs r.bucket s
      match bucketAt r.bucket t with
      | none => t
      | some k => reduceDone x r k t
    else if (match bucketAt r.bucket s with | some k => k.c.isSome | none => false) then failCmd c bRLY 0x01A0 0 s
    else if r.g.absent s then failCmd c bRLY 0x01A3 0 s
    else
      let (k, t) := needBucket r.bucket (epochOf x.bytes) (reopen r.bucket s)
      let t := setProg c 0 (setBucket { k with c := some c, epoch := epochOf x.bytes } t)
      if k.lost.isSome then failReduce { k with c := some c } 0x0191 (k.lost.getD 0) t
      else if k.cut then applyCut r.bucket t
      else if r.named.isEmpty then tryReport r.bucket (readSources r.bucket t)
      else t

def execReduce (c : Nat) (s : State) : Host.Outcome State Fault Refusal := .next (reduceRun c s)

/-- SOURCES_READY (R265): SRC_MARKER satisfies SRC_COUNT. -/
def sourcesReady (c : Nat) (s : State) : State :=
  match runningCmd c .reduce s with
  | none => s
  | some x =>
    let r := RD.parse x.bytes s
    if x.begun && r.ready s then tryReport r.bucket (readSources r.bucket s) else s

def execSourcesReady (c : Nat) (s : State) : Host.Outcome State Fault Refusal := .next (sourcesReady c s)

/-! ### CONTRIB -/

/-- A message of another epoch is dropped (R275). -/
def staleMsg (s : State) : State :=
  snapOn R.RLY_CTL 1 5 bRLY (rsetBit R.RLY_EVT 3 (rcount R.RLY_STALE s))

def isStale (epoch : Nat) (s : State) : Bool := epoch != epochNow s

/-- Integers of a CONTRIB. -/
def contribInts (m : Msg) : List Int := (words32 m.data).map (fun w => signed 32 w)

/-- A copy of a backed chunk that is not the first (R268). -/
def duplicate (s : State) : State := rsetBit R.RLY_EVT 2 (rcount R.RLY_DUP s)

/-- A staging slot for one more chunk; slots whose chunk the link has acknowledged are free. -/
def stageSlot (up : Nat × Nat) (s : State) : Option (Nat × State) :=
  let gone (x : Nat × Nat × Nat × Nat × Nat) : Bool :=
    x.2.2.2.2 != 0 && (match portTo up.1 up.2 s with | none => true | some p => decide (x.2.2.2.2 ≤ ackedOf 2 p s))
  let t : State := { s with relay := { s.relay with staged := s.relay.staged.filter (fun x => !gone x) } }
  (leastBelow 16 (fun i => !t.relay.staged.any (fun x => x.1 == i))).map (fun i => (i, t))

/-- A backed chunk that `w` has written at `a`, in staging slot i, goes on to the root. -/
def stageOn (p : Nat) (m : Msg) (b j ci : Nat) (k : Bucket) (x : RD) (i a : Nat) (w : Wrote) : State :=
  match w.cause with
  | some cause => failReduce k cause p w.s
  | none =>
    let t : State := { w.s with relay := { w.s.relay with staged := (i, b, ci, j, 0) :: w.s.relay.staged } }
    let out := mkMsg t 5 x.g.rdom x.g.rdev m.addr.toNat m.tag.toNat (readBytes t a m.data.length) m.poison
    flushContribs b (rcount R.RLY_BATONS_RX (setBucket { k with taken := k.taken ++ [(ci, j)], outbox := k.outbox ++ [out] } t))

/-- Address of staging slot i. -/
def stageAddr (i : Nat) (s : State) : Nat := rget R.RLY_STAGE_BASE s + i * batonSize

/-- A backed chunk at the member that forwards it from staging (R268). -/
def stageChunk (p : Nat) (m : Msg) (b j ci : Nat) (k : Bucket) (x : RD) (s : State) : State :=
  match takeMsg p 5 m s with
  | none => s
  | some t =>
    if k.taken.contains (ci, j) then duplicate t
    else if rget R.RLY_STAGE_BASE s = 0 then rsetBit R.RLY_EVT 1 (rcount R.RLY_LATE t)
    else
      match stageSlot x.g.root t with
      | none => s
      | some (i, t) => stageOn p m b j ci k x i (stageAddr i t) (writeMem (stageAddr i t) m.data t m.poison)

/-- A backed chunk at the owner: the first copy of each (CI, chunk) is taken. -/
def takeBacked (p : Nat) (m : Msg) (b j ci : Nat) (k : Bucket) (s : State) : State :=
  match takeMsg p 5 m s with
  | none => s
  | some t =>
    if k.taken.contains (ci, j) then duplicate t
    else
      let sums := addSums (j * chunkElems) (contribInts m) k.sums
      ownerCheck b (rcount R.RLY_BATONS_RX
        (setBucket { k with taken := k.taken ++ [(ci, j)], poison := k.poison || m.poison, sums := sums } t))

/-- A reduction that has every port's partial is complete: tokens are released and the node's partial is whole (R254). -/
def reductionWhole (o : RedOp) (s : State) : State :=
  if o.needs.all (fun n => o.got.any (fun g => g.1 == n.1)) then
    let t := releaseOp o s
    match bucketAt o.bucket t with
    | none => t
    | some k =>
      match reduceOf k t with
      | none => t
      | some (_, x) =>
        let own := ownPartial k x o.chunk
        let vs := own.zipIdx.map (fun v => v.1 + signed 64 (AL.get 0 v.2 o.sums))
        chunkWhole o.bucket o.chunk vs o.poison t
  else s

/-- An unbacked partial on port p: folded if its operation is admitted, else it waits (R254, R255). -/
def foldPartial (p : Nat) (m : Msg) (b j : Nat) (s : State) : State :=
  match s.admitted.find? (fun o => o.bucket == b && o.chunk == j && o.needs.any (fun n => n.1 == p) && !o.got.any (fun g => g.1 == p)) with
  | none => s
  | some o =>
    match takeMsg p 5 m s with
    | none => s
    | some t =>
      let o' : RedOp := { o with sums := addSums 0 (contribInts m) o.sums, got := o.got ++ [(p, m.tag.toNat % 4096)],
                                 poison := o.poison || m.poison }
      reductionWhole o' (rcount R.RLY_BATONS_RX { t with admitted := t.admitted.map (fun y => if y = o then o' else y) })

/-- CONTRIB (R254, R260, R267, R268). -/
def contribIn (p : Nat) (m : Msg) (s : State) : State :=
  let a := m.addr.toNat
  let b := a % 2 ^ 32
  let j := bits a 41 32
  let ci := m.tag.toNat % 16
  if bits a 47 42 ≠ epochNow s % 64 then (match takeMsg p 5 m s with | none => s | some t => staleMsg t)
  else if !bitAt m.tag.toNat 15 then foldPartial p m b j s
  else if s.relay.past.contains b then (match takeMsg p 5 m s with | none => s | some t => duplicate t)
  else
    let (k, t) := needBucket b (epochNow s) s
    match reduceOf k t with
    | none => t
    | some (_, x) => if x.g.root = me s then takeBacked p m b j ci k t else stageChunk p m b j ci k x t

def execContrib (p : Port) (m : Msg) (s : State) : Host.Outcome State Fault Refusal := .next (contribIn p.val m s)

/-! ### Relay control messages (Table 14.3) -/

/-- A relay CTRL message with a bucket and an epoch is taken, or dropped as of another epoch (R275). -/
def bucketCtrl (p type : Nat) (m : Msg) (f : Nat → Nat → State → State) (s : State) : State :=
  match takeCtrl p type m s with
  | none => s
  | some t => if isStale (u m.data 4 2) s then staleMsg t else f (u m.data 0 4) (u m.data 4 2) t

/-- REPORT: held for its bucket, which it opens where it is not open, and folded once all reports are in (R265, R280). -/
def reportIn (p : Nat) (m : Msg) (s : State) : State :=
  bucketCtrl p 1 m (fun b e t =>
    let (k, t) := needBucket b e (reopen b t)
    let r : Rep := { dev := m.srcDev.toNat, dom := m.srcDom.toNat, exp := signed 16 (u m.data 6 2), count := u m.data 8 2,
                     mask := u m.data 10 2 }
    tryReport b (setBucket { k with reports := k.reports ++ [r] } t)) s

def execReport (p : Port) (m : Msg) (s : State) : Host.Outcome State Fault Refusal := .next (reportIn p.val m s)

/-- SCALE: passed on outbound, and the data phase begins here (R265, R267). -/
def scaleIn (p : Nat) (m : Msg) (s : State) : State :=
  bucketCtrl p 2 m (fun b _ t =>
    match bucketAt b t with
    | none => t
    | some k =>
      match reduceOf k t with
      | none => t
      | some (_, x) =>
        if k.scale.isSome then t
        else
          let t := setBucket { k with scale := some (signed 16 (u m.data 6 2), u m.data 8 2) } t
          let t := (x.g.children (me t)).foldl (fun t c => sendCtrl 2 c.1 c.2 m.data t) t
          dataPhase b t) s

def execScale (p : Port) (m : Msg) (s : State) : Host.Outcome State Fault Refusal := .next (scaleIn p.val m s)

/-- START: the manager's timer of the bucket starts (R273). -/
def startIn (p : Nat) (m : Msg) (s : State) : State :=
  match takeCtrl p 3 m s with
  | none => s
  | some t => if isManager t then timerStart (u m.data 0 4) (u m.data 8 1) (u m.data 6 2) (m.srcDom.toNat, m.srcDev.toNat) t else t

def execStart (p : Port) (m : Msg) (s : State) : Host.Outcome State Fault Refusal := .next (startIn p.val m s)

/-- CUT. -/
def cutIn (p : Nat) (m : Msg) (s : State) : State := bucketCtrl p 4 m (fun b e t => cutBucket b e t) s

def execCut (p : Port) (m : Msg) (s : State) : Host.Outcome State Fault Refusal := .next (cutIn p.val m s)

/-- CLOSED: the manager's timer stops. -/
def closedIn (p : Nat) (m : Msg) (s : State) : State :=
  match takeCtrl p 5 m s with
  | none => s
  | some t => if isManager t then timerStop (u m.data 0 4) t else t

def execClosed (p : Port) (m : Msg) (s : State) : Host.Outcome State Fault Refusal := .next (closedIn p.val m s)

/-- FAIL: passed toward the owner, whose REDUCE fails (R279). -/
def failIn (p : Nat) (m : Msg) (s : State) : State :=
  bucketCtrl p 9 m (fun b _ t =>
    match bucketAt b t with
    | none => t
    | some k =>
      match reduceOf k t with
      | none => t
      | some (_, x) =>
        match x.g.parent (me t) with
        | none => failReduce k 0x0190 p t
        | some up => sendCtrl 9 up.1 up.2 m.data t) s

def execFail (p : Port) (m : Msg) (s : State) : Host.Outcome State Fault Refusal := .next (failIn p.val m s)

/-- BUCKET_DEADLINE_EXPIRY (R273): the manager cuts a bucket whose timer has reached its deadline. -/
def deadlineExpiry (b : Nat) (s : State) : State :=
  match s.relay.timers.find? (fun t => t.1 == b) with
  | none => s
  | some (_, od, ov) =>
    let t : State := { s with relay := { s.relay with timers := s.relay.timers.filter (fun t => t.1 != b) } }
    let t := snapOn R.RLY_CTL 0 5 bRLY (rsetBit R.RLY_EVT 0 (rcountSat R.RLY_CUTS t))
    ctrlTo 4 (od, ov) (bucketData b (epochNow s) []) (cutBucket b (epochNow s)) t

def execBucketDeadlineExpiry (b : BitVec 32) (s : State) : Host.Outcome State Fault Refusal := .next (deadlineExpiry b.toNat s)

/-! ### Application (R270, R271) -/

/-- The bucket to be applied next: the first in bucket-number order, unless one precedes it whose REDUCE has started and which this
module owns. -/
def nextApply (s : State) : Option Nat :=
  match s.relay.reorder with
  | [] => none
  | b :: _ =>
    let owned (x : Started) : Bool :=
      let r := RD.parse x.bytes s
      x.state == .running && opOfBytes x.bytes == some .reduce && r.g.root == me s && bucketBefore r.bucket b &&
      (match bucketAt r.bucket s with | some k => !k.ready | none => true)
    if s.started.any owned then none else some b

/-- BUCKET_APPLY: the patch, the marker add, and the REDUCE is complete. -/
def bucketApply (s : State) : State :=
  match nextApply s with
  | none => s
  | some b =>
    match bucketAt b s with
    | none => s
    | some k =>
      match reduceOf k s, k.scale with
      | some (x, r), some (sc, p) =>
        if r.patch != 0 && bankHolds r.patch 32 s then s
        else
        match (if r.patch = 0 then none else firstUnreached s (r.patch + 19) 9) with
        | some a => failReduce k (reachCause s a) 0 (captureReach a s)
        | none =>
        let t := if r.patch = 0 then s else poke (r.patch + 24) (leBytes 4 p) (poke (r.patch + 19) (leBytes 1 (unsigned 8 sc)) s)
        let t := markerInc r.done 1 t
        let t := if p < r.nexp then addFlags x.id 32 t else t
        markDone x.id (rcount R.RLY_APPLIED (closeBucket b t))
      | _, _ => s

def execBucketApply (s : State) : Host.Outcome State Fault Refusal := .next (bucketApply s)

/-! ### No progress (R278) -/

def isRelayOp (o : Op) : Bool :=
  o == .broadcast || o == .allGather || o == .allToAll || o == .reduce || o == .ringPass

/-- RELAY_NO_PROGRESS. -/
def relayNoProgress (c : Nat) (s : State) : State :=
  match startedAt c s with
  | none => s
  | some x =>
    match opOfBytes x.bytes with
    | none => s
    | some o =>
      if rget R.RLY_WTO s = 0 ∨ x.state ≠ .running ∨ !isRelayOp o then s
      else if o = .reduce then
        (match bucketAt (RD.parse x.bytes s).bucket s with
         | none => failCmd c bRLY 0x01A2 0 s
         | some k => if k.c = some c then failReduce k 0x01A2 0 s else failCmd c bRLY 0x01A2 0 s)
      else failRelay c 0x01A2 0 s

def execRelayNoProgress (c : Nat) (s : State) : Host.Outcome State Fault Refusal := .next (relayNoProgress c s)

/-! ### EPOCH_FENCE (R275) -/

/-- Open buckets of which this module holds a REDUCE and whose exponent phase is open. -/
def openBuckets (ownedOnly : Bool) (s : State) : List Nat :=
  (s.relay.buckets.filter (fun k => k.scale.isNone &&
    (match reduceOf k s with | some (_, x) => !ownedOnly || x.g.root == me s | none => false))).map (·.num)

/-- Relay commands that have started and have not completed. -/
def relayPending (c : Nat) (s : State) : Bool :=
  s.started.any (fun x => x.id != c && (match opOfBytes x.bytes with | some o => isRelayOp o | none => false)
    && (match x.state with | .failed _ => false | _ => true))

def epochFenceRun (c : Nat) (s : State) : State :=
  match runningCmd c .epochFence s with
  | none => s
  | some x =>
    let e := epochOf x.bytes
    if e = epochNow s then markDone c s
    else
      let t := if x.begun then s else (openBuckets true s).foldl (fun t b => cutBucket b (epochNow t) t) (setProg c 0 s)
      if relayPending c t then t else markDone c (rset R.RLY_EPOCH e { t with relay := { t.relay with past := [] } })

def execEpochFence (c : Nat) (s : State) : Host.Outcome State Fault Refusal := .next (epochFenceRun c s)

/-- Owners of the open buckets that the manager knows: of those whose timer runs, and of those of which it holds a REDUCE. -/
def bucketOwners (s : State) : List (Nat × Nat × Nat) :=
  distinct (s.relay.timers ++ (openBuckets false s).filterMap (fun b =>
    ((bucketAt b s).bind (fun k => reduceOf k s)).map (fun x => (b, x.2.g.rdom, x.2.g.rdev))))

/-- The manager cuts every open bucket before a suspension, by a CUT to its owner (R273, R277). -/
def cutAllOpen (s : State) : State :=
  (bucketOwners s).foldl (fun t b =>
    ctrlTo 4 (b.2.1, b.2.2) (bucketData b.1 (epochNow t) []) (cutBucket b.1 (epochNow t)) t) s

/-! ### Holds (R276) -/

/-- Members of the groups of running relay commands, without this module. -/
def runningMembers (s : State) : List (Nat × Nat) :=
  distinct ((s.started.flatMap (fun x =>
    if x.state == .running then
      match opOfBytes x.bytes with
      | some .ringPass => [(Ring.parse x.bytes).next, (Ring.parse x.bytes).prev]
      | some o => if isRelayOp o then (Grp.parse x.bytes s).members else []
      | none => []
    else [])).filter (fun m => m != me s))

def holdData (h : Nat × Nat × Nat) : Bytes := padTo 16 (leBytes 2 h.2.1 ++ leBytes 1 h.1 ++ leBytes 1 0 ++ leBytes 4 h.2.2)

/-- HOLD or RELEASE to every member of every running group. -/
def spreadHold (type : Nat) (h : Nat × Nat × Nat) (s : State) : State :=
  (runningMembers s).foldl (fun t m => sendCtrl type m.1 m.2 (holdData h) t) s

/-- The power controller requests a hold: a new number, sent to every group. -/
def relayHold (s : State) : State :=
  let h := (myDom s, myDev s, s.relay.holdNum)
  spreadHold 6 h (showWalks { s with relay := { s.relay with holds := s.relay.holds ++ [h], holdNum := s.relay.holdNum + 1 } })

/-- Everything that waited for the end of a hold goes on: the cores, and the relay's operations. -/
def resumeRelay (s : State) : State :=
  s.started.foldl (fun t x =>
    match runningCmd x.id ((opOfBytes x.bytes).getD .nop) t, opOfBytes x.bytes with
    | some y, some .ringPass => if y.begun then ringGo y t else t
    | some y, some .reduce => if y.begun then flushContribs (RD.parse y.bytes t).bucket t else t
    | some y, some o => if isRelayOp o && y.begun then collectiveGo o y t else t
    | _, _ => t) (advanceAll s)

/-- A hold is lifted. -/
def liftHold (h : Nat × Nat × Nat) (s : State) : State :=
  if s.relay.holds.contains h then
    let t : State := { s with relay := { s.relay with holds := s.relay.holds.erase h, lifted := (h :: s.relay.lifted).take 256 } }
    let t := spreadHold 7 h t
    if t.relay.holds.isEmpty then resumeRelay t else t
  else s

/-- The module's own holds are lifted. -/
def relayRelease (s : State) : State :=
  (s.relay.holds.filter (fun h => (h.1, h.2.1) == me s)).foldl (fun t h => liftHold h t) s

def holdOf (m : Msg) : Nat × Nat × Nat := (u m.data 2 1, u m.data 0 2, u m.data 4 4)

/-- HOLD: one not seen before is passed on and obeyed. -/
def holdIn (p : Nat) (m : Msg) (s : State) : State :=
  match takeCtrl p 6 m s with
  | none => s
  | some t =>
    let h := holdOf m
    if (h.1, h.2.1) = me t ∨ t.relay.holds.contains h ∨ t.relay.lifted.contains h then t
    else
      spreadHold 6 h (showWalks (rsetBit R.RLY_EVT 4 (rcountSat R.RLY_HOLDS
        { t with relay := { t.relay with holds := t.relay.holds ++ [h] } })))

def execHold (p : Port) (m : Msg) (s : State) : Host.Outcome State Fault Refusal := .next (holdIn p.val m s)

/-- RELEASE: lifts that hold in the same way. -/
def releaseIn (p : Nat) (m : Msg) (s : State) : State :=
  match takeCtrl p 7 m s with
  | none => s
  | some t => liftHold (holdOf m) t

def execRelease (p : Port) (m : Msg) (s : State) : Host.Outcome State Fault Refusal := .next (releaseIn p.val m s)

/-! ### Resends and acceptances (R235) -/

/-- Does a message sent compressed answer to (KIND, ADDR) asked by a member? -/
def sentMatches (m : Msg) (x : SentC) : Bool :=
  x.msg.addr.toNat == u m.data 0 6 && x.msg.kind.toNat == u m.data 6 1 && x.msg.dstDev == m.srcDev && x.msg.dstDom == m.srcDom

/-- The oldest message sent compressed to the sender of m that m names. -/
def findSent (m : Msg) (s : State) : Option SentC :=
  (s.relay.ops.findSome? (fun o => o.unacked.find? (sentMatches m))) <|>
  (s.relay.buckets.findSome? (fun k => k.unacked.find? (sentMatches m)))

/-- The source of a message sent compressed as it is now: a baton's is read again from memory (R235). -/
def SentC.now (x : SentC) (s : State) : Bytes := if x.msg.kind.toNat = 4 then readBytes s x.src x.raw.length else x.raw

/-- RESEND: the block is read again from its source and sent STORED; a resend that can no longer be served counts as a second failure. -/
def resendIn (p : Nat) (m : Msg) (s : State) : State :=
  match takeCtrl p 0x20 m s with
  | none => s
  | some t =>
    let i := u m.data 8 2
    match findSent m t with
    | none => secondFailure p t
    | some x =>
      let b := (blocksOf x.src (x.now t)).getD i []
      let h := blockHdr 0 b.length 0 b.length true i
      (sendMsg { x.msg with data := leBytes 8 h ++ b } t).getD t

def execResend (p : Port) (m : Msg) (s : State) : Host.Outcome State Fault Refusal := .next (resendIn p.val m s)

/-- The first member of a list that satisfies `f` leaves it. -/
def eraseFirst {α : Type} (f : α → Bool) : List α → List α
  | [] => []
  | x :: t => if f x then t else x :: eraseFirst f t

/-- ACCEPT: every block of a message sent compressed has passed. -/
def acceptIn (p : Nat) (m : Msg) (s : State) : State :=
  match takeCtrl p 0x21 m s with
  | none => s
  | some t =>
    if t.relay.ops.any (fun o => o.unacked.any (sentMatches m)) then
      let rec go : List RelayOp → List RelayOp
        | [] => []
        | o :: r => if o.unacked.any (sentMatches m) then { o with unacked := eraseFirst (sentMatches m) o.unacked } :: r else o :: go r
      { t with relay := { t.relay with ops := go t.relay.ops } }
    else
      { t with relay := { t.relay with
          buckets := t.relay.buckets.map (fun k => { k with unacked := eraseFirst (sentMatches m) k.unacked }) } }

def execAccept (p : Port) (m : Msg) (s : State) : Host.Outcome State Fault Refusal := .next (acceptIn p.val m s)

/-! ### EXPANDER_BLOCK and GEN_STALL_TIMEOUT (R234 to R236) -/

/-- The operation that carried message n of port p fails as link-contained; nothing of the message is left in reception. The failure
waits for an operation that has not begun here (log 161). -/
def linkFail (p n : Nat) (m : Msg) (got : Bytes) (left : Nat) (s : State) : State :=
  let x := compx p s
  let t := freeHeld p n (setCompx p { x with msgs := x.msgs.drop 1, queued := x.queued.drop left } s)
  if m.kind.toNat = 4 then
    let optag := m.addr.toNat / 2 ^ 24
    match ownerOfBaton m t with
    | some (y, _, a, _, _) => failRelay y.id 0x0191 p (writeMem a got t m.poison).s
    | none =>
      (match opsOfTag optag t with
       | (y, _) :: _ => failRelay y.id 0x0191 p t
       | [] => { t with relay := { t.relay with lostTags := t.relay.lostTags ++ [(optag, p)] } })
  else
    let (k, t) := needBucket (m.addr.toNat % 2 ^ 32) (epochNow t) t
    if k.c.isSome then failReduce k 0x0191 p t else setBucket { k with lost := some p } t

/-- The front block of a link's expander has passed. -/
def linkPassed (p : Nat) (b : Bytes) (s : State) : State :=
  let x := compx p s
  match x.msgs with
  | [] => setCompx p { x with queued := x.queued.drop 1 } s
  | (n, m, got, left) :: rest =>
    if left ≤ 1 then
      let t := setCompx p { x with queued := x.queued.drop 1, msgs := rest } s
      let y := portx p t
      let t := setPortx p { y with inbox := y.inbox ++ [(n, { m with data := got ++ b })] } t
      sendCtrl 0x21 m.srcDom.toNat m.srcDev.toNat (padTo 16 (leBytes 6 m.addr.toNat ++ leBytes 1 m.kind.toNat)) t
    else setCompx p { x with queued := x.queued.drop 1, msgs := (n, m, got ++ b, left - 1) :: rest } s

/-- The front block of a link's expander has failed: asked for again, or at the second failure the operation fails. -/
def linkFailed (p : Nat) (q : BlockQ) (s : State) : State :=
  let x := compx p s
  match x.msgs with
  | [] => setCompx p { x with queued := x.queued.drop 1 } s
  | (n, m, got, left) :: _ =>
    if q.once then linkFail p n m got left (secondFailure p s)
    else
      let t := setCompx p { x with queued := { q with once := true, asked := true } :: x.queued.drop 1 } (mismatch p s)
      sendCtrl 0x20 m.srcDom.toNat m.srcDev.toNat
        (padTo 16 (leBytes 6 m.addr.toNat ++ leBytes 1 m.kind.toNat ++ leBytes 1 0 ++ leBytes 2 (hdrIndex q.hdr))) t

/-- A block of a STASH_GET has passed: written, and the GET is complete with its last block. -/
def loopPassed (x : Started) (q : BlockQ) (b : Bytes) (s : State) : State :=
  let e := stashEntryOf x.bytes
  let dst := TD.parse (unitAt x.bytes 1)
  let k := compx 24 s
  let t := setCompx 24 { k with queued := k.queued.drop 1 } s
  let w := restoreBytes dst (4096 * q.num) b t
  let t := if q.bad then rsetBit R.STS_EVT 3 (poisonImage dst (4096 * q.num) b.length w.s) else w.s
  match w.cause with
  | some cause =>
    let k := compx 24 t
    failCmd x.id bSTS cause 0 (setCompx 24 { k with queued := k.queued.filter (fun y => y.c != some x.id) } t)
  | none =>
    if (compx 24 t).queued.any (fun y => y.c == some x.id) then t else getRestored x e t

/-- A block of a STASH_GET has failed: its slot and header are read again, or at the second failure the GET fails. -/
def loopFailed (x : Started) (q : BlockQ) (s : State) : State :=
  let e := stashEntryOf x.bytes
  let y := stashx e s
  let d := stashDieOf e
  let k := compx 24 s
  if q.once then
    let t := setCompx 24 { k with queued := k.queued.filter (fun z => z.c != some x.id) } (secondFailure 24 s)
    failCmd x.id bCMP 0x0180 24 t
  else
    let h := ofLe (readFrames true d y.lframes (stashFrame * framesOf y.td + 512 + 8 * q.num) 8 s)
    let q' : BlockQ := { q with hdr := h, payload := readFrames true d y.lframes (4096 * q.num) (hdrClen h) s, once := true }
    mismatch 24 (setCompx 24 { k with queued := q' :: k.queued.drop 1 } s)

/-- Blocks of commands that no longer run are discarded from the front. -/
def liveBlocks (s : State) : List BlockQ → List BlockQ
  | [] => []
  | q :: t =>
    match q.c with
    | some c => if (runningCmd c .stashGet s).isSome then q :: t else liveBlocks s t
    | none => q :: t

/-- What becomes of the front block; `forced` treats one that stalls as failed. -/
def expandFront (p : Nat) (forced : Bool) (s0 : State) : State :=
  let x0 := compx p s0
  let s := setCompx p { x0 with queued := liveBlocks s0 x0.queued } s0
  let x := compx p s
  match x.queued with
  | [] => s
  | q :: _ =>
    if q.asked then s
    else
      let fail (t : State) : State :=
        match q.c with
        | none => linkFailed p q t
        | some c => (match runningCmd c .stashGet t with | none => t | some y => loopFailed y q t)
        match expandBlock x q with
        | .stall g => if forced then fail (endStall p g s) else genStall p g s
        | .fail => fail s
        | .ok b =>
          (match q.c with
           | none => linkPassed p b s
           | some c => (match runningCmd c .stashGet s with | none => s | some y => loopPassed y q b s))

/-- EXPANDER_BLOCK. -/
def execExpanderBlock (p : Pair) (s : State) : Host.Outcome State Fault Refusal := .next (expandFront p.val false s)

/-- GEN_STALL_TIMEOUT (R234): no image of the awaited generation has loaded in CMP_GENTO cycles. -/
def genStallTimeout (p : Nat) (s : State) : State :=
  let stalls := match (compx p s).queued with
    | q :: _ => (match expandBlock (compx p s) q with | .stall _ => true | _ => false)
    | [] => false
  if rbits R.CMP_GENTO 23 0 s = 0 ∨ !rbit (R.CMP_Pnn_STAT p) 2 s ∨ !stalls then s else expandFront p true s

def execGenStallTimeout (p : Pair) (s : State) : Host.Outcome State Fault Refusal := .next (genStallTimeout p.val s)

end Sys2Proof.Machine
end

