-- ==== Sys2Proof/Machine/Ports.lean ====
section
/-! DEFINITION. Loss of a port (R253, R279), failure of a device (R285, R298), and the commands by which a port comes up,
trains again or is taken down (R238, R239, R248). -/

namespace Sys2Proof.Machine

/-! ### Failure of a device (R285, R298) -/

/-- A device has failed: it leaves KPR_PRESENT, and an active job enters RECOVERING with JOB_FATAL records. -/
def failOne (d : Nat) (s : State) : State :=
  if !present d s || d == myDev s then s
  else
    let t := rclrBit R.KPR_PRESENT d (rsetBit R.KPR_FAILED d s)
    let t := raiseVector 135 (rsetBit R.KPR_EVT 1 t)
    let t := snapOn R.KPR_CTL 1 5 bKPR t
    if jobState t = 0 then t else recovering (stopAll stJobFatal t)

/-- Device d has failed, and with it the devices whose route passes through it (R285). -/
def deviceFailed (d : Nat) (s : State) : State :=
  ((List.range 64).filter (fun e => match secondHop e s with | some (v, _) => v == d | none => false)).foldl
    (fun t e => failOne e t) (failOne d s)

/-- On the manager: a port has been lost at device v; every device whose route needs it has failed. -/
def routeLost (v q : Nat) (s : State) : State :=
  ((List.range 64).filter (fun d => decide (d ≠ myDev s) &&
      ((v == myDev s && portTo (myDom s) d s == some q) || secondHop d s == some (v, q)))).foldl
    (fun t d => deviceFailed d t) s

/-! ### Operations that a lost port fails (R253) -/

/-- Messages among `ms`, newest first, of which the last `n` flits of a class are not acknowledged. -/
def unackedAmong : Nat → List Msg → List Msg
  | _, [] => []
  | 0, _ => []
  | n + 1, m :: t => m :: unackedAmong (n + 1 - (msgParts m).length) t

/-- Messages handed to port p that are not fully acknowledged. -/
def unackedOn (p : Nat) (s : State) : List Msg :=
  let x := portx p s
  (List.range 4).flatMap (fun c =>
    unackedAmong ((x.txq.filter (fun f => f.1 == c)).length + (x.replay.filter (fun f => flitTC f.2 == c)).length)
      ((s.out.sent.filter (fun m => m.1 == p && classOf m.2.kind.toNat == c)).map (·.2)))

/-- Device address that a WRITE of this module named. -/
def writtenAt (m : Msg) : Nat := peerBase + peerSize * m.dstDev.toNat + m.addr.toNat

/-- Does the range hold the address? -/
def holds (a : Nat) (r : Nat × Nat) : Bool := decide (r.1 ≤ a) && decide (a < r.1 + r.2)

/-- The operation of an OPTAG of which `which` holds fails: it needed the lost port. -/
def failTag (optag : Nat) (which : RelayOp → Bool) (p : Nat) (s : State) : State :=
  match (opsOfTag optag s).find? (fun x => (relayOp x.1.id s).any which) with
  | none => s
  | some (x, _) => failRelay x.id 0x0190 p s

/-- A lost CTRL message (R253): a grant fails its ring pass, a bucket's message its REDUCE, and a HALT notice is sent again. -/
def loseCtrl (p : Nat) (m : Msg) (s : State) : State :=
  let type := m.addr.toNat % 256
  if type = 8 then failTag (u m.data 0 4) (fun _ => true) p s
  else if 1 ≤ type ∧ type ≤ 5 then (match bucketAt (u m.data 0 4) s with | none => s | some k => failReduce k 0x0190 p s)
  else if type = 0x27 then { s with notices := s.notices ++ [m] }
  else s

/-- The operation that a lost message belonged to fails. -/
def loseMessage (p : Nat) (s : State) (m : Msg) : State :=
  if m.srcDev.toNat ≠ myDev s ∨ m.srcDom.toNat ≠ myDom s then s
  else if m.kind = 1 then
    let a := writtenAt m
    match s.started.find? (fun x => engineOf x.bytes != 2 && x.state == .running && x.outs.any (holds a)) with
    | some x => failCmd x.id bLNK 0x0190 p (withdraw x.id true true s)
    | none =>
      (match (List.range 32).find? (fun n => rbits (R.DMA_Dnn_STAT n) 2 0 s == 1 && holds a ((chanx n s).dst, (chanx n s).count)) with
       | some n => chanHalt n 3 0x0190 a s
       | none => s)
  else if m.kind = 4 then failTag (m.addr.toNat / 2 ^ 24) (fun o => (findKey p o.marks).isSome) p s
  else if m.kind = 5 then (match bucketAt (m.addr.toNat % 2 ^ 32) s with | none => s | some k => failReduce k 0x0190 p s)
  else if m.kind = 6 then
    let q := bits m.addr.toNat 21 16
    let i := m.addr.toNat % 65536
    if (qx q s).flights.any (fun f => f.idx == i && f.sent) then
      haltQueue q { status := stContained, idx := i, whole := true, detail := 0x0190 }
        (setQx q { qx q s with flights := (qx q s).flights.map (fun f => if f.idx = i then { f with sent := false } else f) }
          { s with fwds := s.fwds.filter (fun f => f != (m.dstDev.toNat, q, i)) })
    else s
  else if m.kind = 7 then loseCtrl p m s
  else s

/-- A read whose answer would have come over the lost port fails. -/
def loseRead (p : Nat) (s : State) (r : ReadOut) : State := if r.port ≠ p then s else readLost 0x0190 r s

/-- An operation of a bucket awaits a partial over port p. -/
def awaitsPartial (p b : Nat) (s : State) : Bool :=
  (s.redWait ++ s.admitted).any (fun o => o.bucket == b && o.needs.any (fun n => n.1 == p) && !o.got.any (fun g => g.1 == p))

/-- A bucket whose members were reached over the lost port: their awaited reports count as absent, and an awaited partial
fails the operation here and at the owner (R279). -/
def loseMember (p : Nat) (s : State) (b : Nat) : State :=
  match bucketAt b s with
  | none => s
  | some k =>
    match reduceOf k s with
    | none => s
    | some (_, x) =>
      if awaitsPartial p b s then
        let t := failReduce k 0x0190 p s
        (match x.g.parent (me s) with
         | none => t
         | some up => sendCtrl 9 up.1 up.2 (bucketData b k.epoch []) t)
      else
        let away := (x.g.children (me s)).filter (fun m => portTo m.1 m.2 s == some p && !k.reports.any (fun r => (r.dom, r.dev) == m))
        if away.isEmpty || k.sent then s
        else tryReport b (setBucket { k with reports := k.reports ++ away.map (fun m => { dev := m.2, dom := m.1, exp := noExp }) } s)

/-- Data of a DOWN notice (Table 13.9). -/
def downData (s : State) (p cause : Nat) : Bytes :=
  padTo 16 (leBytes 1 (myDev s) ++ leBytes 1 (myDom s) ++ leBytes 1 p ++ leBytes 1 cause)

/-- The loss of a port is reported to the manager's Keeper over a remaining port. -/
def reportDown (p : Nat) (s : State) : State :=
  if isManager s then routeLost (myDev s) p s
  else
    let m := ctrlMsg s 0x22 (myDom s) (managerDev s) (downData s p 0)
    match sendMsg m s with
    | some t => t
    | none => (match (List.range 14).find? (fun q => portUsable q s) with | none => s | some q => sendOn q m s)

/-- A port enters DOWN: the operations that needed it fail, its books are discarded (R250), and the loss is reported. -/
def portDown (p : Nat) (s : State) : State :=
  let lost := unackedOn p s
  let t := rsetBit R.LNK_EVT 0 (setPortState p psDown (setPortx p { inbox := (portx p s).inbox, nextNo := (portx p s).nextNo } s))
  let t := snapOn R.LNK_SNAP 0 5 bLNK t
  let t := lost.foldl (loseMessage p) t
  let t := t.reads.foldl (loseRead p) t
  let t := (t.relay.buckets.map (·.num)).foldl (loseMember p) t
  reportDown p t

/-- LINK_TRAIN_TIMEOUT (R238, R248): a port that has not come up within LNK_TRAIN_TO enters DOWN. -/
def linkTrainTimeout (p : Nat) (s : State) : State :=
  let st := portState p s
  if st = psTraining ∨ st = psIdent ∨ st = psRetrain then portDown p s else s

def execLinkTrainTimeout (p : Port) (s : State) : Host.Outcome State Fault Refusal := .next (linkTrainTimeout p.val s)

/-- RETRAIN_END (R248): the port resumes at UP and replays what is not acknowledged, or it enters DOWN. -/
def retrainEnd (p : Nat) (same : Bool) (s : State) : State :=
  if portState p s ≠ psRetrain then s
  else if same then
    let t := setPortState p psUp s
    let t := if (portx p t).replay.isEmpty then t else replay p t
    speak p (sendNotices t)
  else portDown p s

def execRetrainEnd (p : Port) (sameIdentity : Bool) (s : State) : Host.Outcome State Fault Refusal :=
  .next (retrainEnd p.val sameIdentity s)

/-- A bit of LNK_PORT_EN is written: a set one trains the port once it holds its tokens (R239, R322), a cleared one takes a
port beyond DISABLED down. -/
def portEnable (old new : Nat) (s : State) (p : Nat) : State :=
  let st := portState p s
  if !old.testBit p && new.testBit p then
    if (st = psDown ∨ st = psMiswired) then trainPort p s else portWake p s
  else if old.testBit p && !new.testBit p && st != psDisabled && st != psDown then portDown p s
  else s

/-- LNK_PORT_EN_WRITE (R238, R239). -/
def lnkPortEnWrite (v : Nat) (s : State) : State :=
  if isLocked bLNK s then countLocked s
  else
    let old := rget R.LNK_PORT_EN s
    let new := v % 2 ^ 24
    showLinks ((List.range 24).foldl (portEnable old new) (rset R.LNK_PORT_EN new s))

def execLnkPortEnWrite (v : BitVec 32) (s : State) : Host.Outcome State Fault Refusal := .next (lnkPortEnWrite v.toNat s)

end Sys2Proof.Machine
end

