-- ==== Sys2Proof/Machine/Codec.lean ====
section
/-! DEFINITION. The codec engine (chapter 16): contexts and their commands, output pictures, statistics, the keep mask and
rate control. What the HEVC and AV1 standards decode or encode is a free value (log 8). -/

namespace Sys2Proof.Machine

/-! ### Operands (Tables 16.2, 16.3, 16.5, 16.6) -/

/-- Context that a codec command names, and the address it carries with those four bits taken as 0 (log 43). -/
def ctxOf (b : Bytes) : Nat := u b 16 1 % 16
def codecAddr (b : Bytes) : Nat := u b 16 6 / 16 * 16

/-- A CDC_OPEN's fields. -/
structure CU where
  mode    : Nat := 0
  work    : Nat := 0
  workMib : Nat := 0
  w       : Nat := 0
  h       : Nat := 0
  stats   : Nat := 0
  slots   : Nat := 1
  frameM  : Nat := 0
  freeM   : Nat := 0
  freeB   : Nat := 0
  td      : TD := {}
  ru      : RUnit := {}
  patchEn : Bool := false
  pack    : Bool := false
  fgOff   : Bool := false
  recRes  : Bool := false
  matrix  : Nat := 0
  range   : Nat := 0
  resArea : Nat := 0
  mask    : Nat := 0
  mvThr   : Nat := 0
  resThr  : Nat := 0
  keepEvery : Nat := 0
  index   : Nat := 0
  norm    : List Nat := []
  cq      : Nat := 0
  qpMax   : Nat := 0
  iOff    : Int := 0
  window  : Nat := 1
  cap     : Nat := 0
  gop     : Nat := 1
  depth   : Nat := 8
  bs      : Nat := 0
  bsMib   : Nat := 0
  deriving Inhabited

def CU.parse (b : Bytes) : CU :=
  let c := unitAt b 1
  let k := unitAt b 3
  let nrm := unitAt b 4
  let k0 := u k 0 1
  { mode := u b 17 1, work := u c 0 6, workMib := u c 8 4, w := u c 12 2, h := u c 14 2, stats := u c 16 6, slots := u c 22 1,
    frameM := u c 24 2, freeM := u c 26 2, freeB := u c 28 4, td := TD.parse (unitAt b 2), ru := RUnit.parse (unitAt b 5),
    patchEn := bitAt k0 0, pack := bitAt k0 1, fgOff := bitAt k0 2, recRes := bitAt k0 3, matrix := bits (u k 1 1) 1 0,
    range := bits (u k 1 1) 3 2, resArea := u k 2 6, mask := u k 8 6, mvThr := u k 14 2, resThr := u k 16 2,
    keepEvery := u k 18 2, index := u k 24 6, norm := (List.range 6).map (fun i => u nrm (4 * i) 4),
    cq := u k 0 1, qpMax := u k 1 1, iOff := signed 8 (u k 2 1), window := u k 3 1, cap := u k 4 4, gop := u k 8 4,
    depth := u k 12 1, bs := u k 16 6, bsMib := u k 22 4 }

/-- Patches per frame (R310). -/
def CU.ppf (x : CU) : Nat := ceilDiv x.w 16 * ceilDiv x.h 16

/-- MiB of WORK needed (R307): 6 times the largest picture's 4:2:0 bytes and 4 MiB; a decode counts 2 bytes a sample, its
depth being unknown when it opens (log 44). -/
def CU.need (x : CU) : Nat :=
  let px := x.w * x.h + 2 * (ceilDiv x.w 2 * ceilDiv x.h 2)
  ceilDiv (6 * px * (if x.mode = 2 ∧ x.depth = 8 then 1 else 2)) (2 ^ 20) + 4

/-- Picture limits of Table 16.1 by MODE; AV1 level 6.1 has those of its standard (log 45). -/
def CU.tooLarge (x : CU) : Bool :=
  x.w == 0 || x.h == 0 ||
  (match x.mode with
   | 0 => decide (8192 < x.w) || decide (4320 < x.h)
   | 1 => decide (16384 < x.w) || decide (8704 < x.h) || decide (35651584 < x.w * x.h)
   | _ => decide (4096 < x.w) || decide (8912896 < x.w * x.h))

/-- Units 2 to 4 of a decode context. -/
def CU.decodeBad (x : CU) (b : Bytes) : Bool :=
  let k := unitAt b 3
  tdBad false (unitAt b 2) || !([0, 1, 3, 4].contains x.td.fmt) || x.td.cols != 768 || x.td.rows != x.slots * x.ppf ||
  x.td.axis || x.td.trans || x.td.quant ||
  !onlyBits [(3, 0), (11, 8), byteRange 7 2, byteRange 13 8, byteRange 19 14, byteRange 29 24] k || x.range == 3 ||
  x.resArea % 64 != 0 || x.mask % 64 != 0 || x.index % 64 != 0 ||
  !onlyBits [byteRange 23 0] (unitAt b 4) || !x.norm.all finite32

/-- Units 2 to 4 of an encode context. -/
def CU.encodeBad (x : CU) (b : Bytes) : Bool :=
  !onlyBits [] (unitAt b 2) || !onlyBits [] (unitAt b 4) || !onlyBits [byteRange 12 0, byteRange 25 16] (unitAt b 3) ||
  decide (51 < x.cq) || decide (51 < x.qpMax) || decide (x.qpMax < x.cq) || decide (x.iOff < -12) || decide (12 < x.iOff) ||
  x.window == 0 || x.gop == 0 || (x.depth != 8 && x.depth != 10) || x.bs % 4096 != 0

/-- CDC_OPEN is malformed (R307, R310). -/
def cdcOpenBad (b : Bytes) : Bool :=
  let x := CU.parse b
  !operandsOk [(131, 128), byteRange 17 17] b || decide (2 < x.mode) ||
  !onlyBits [byteRange 5 0, byteRange 22 8, (203, 192), (219, 208), byteRange 31 28] (unitAt b 1) ||
  x.work % 65536 != 0 || !(inStacked x.work (x.workMib * 2 ^ 20) || inSpill x.work (x.workMib * 2 ^ 20)) ||
  x.stats % 64 != 0 || x.slots == 0 || decide (64 < x.slots) || x.tooLarge || runitBad true (unitAt b 5) ||
  decide (1 < x.ru.mode) || (if x.mode = 2 then x.encodeBad b else x.decodeBad b)

def cdcPlainBad (b : Bytes) : Bool := !operandsOk [(131, 128)] b
def cdcDecodeBad (b : Bytes) : Bool :=
  !operandsOk [byteRange 21 16, byteRange 27 24] b || u b 24 4 == 0 || decide (2 ^ 26 < u b 24 4)
def cdcEncodeBad (b : Bytes) : Bool := !operandsOk [byteRange 21 16, (176, 176)] b || codecAddr b % 256 != 0

/-! ### Order and failure (R306, R315) -/

def isCodecOp (o : Op) : Bool := o == .cdcOpen || o == .cdcClose || o == .cdcDecode || o == .cdcEncode || o == .cdcFlush

/-- Started commands of context v that started before c. -/
def codecBefore (v c : Nat) (s : State) : List Started :=
  (s.started.takeWhile (fun x => x.id != c)).filter (fun x =>
    (match opOfBytes x.bytes with | some o => isCodecOp o | none => false) && ctxOf x.bytes == v)

/-- The commands of one context take effect in the order in which they start. -/
def codecTurn (v c : Nat) (s : State) : Bool := (codecBefore v c s).all (fun x => x.state != .running)

/-- A codec command must wait to start while an open or a close of its context is in progress (log 46). -/
def codecWaits (b : Bytes) (s : State) : Bool :=
  s.started.any (fun x => (opOfBytes x.bytes == some .cdcOpen || opOfBytes x.bytes == some .cdcClose) && x.state == .running
    && ctxOf x.bytes == ctxOf b)

def ctxOpen (v : Nat) (s : State) : Bool := (codecx v s).isOpen

/-- A failure of R315: counted, flagged, and perhaps a trigger. -/
def codecError (v c cause : Nat) (s : State) : State :=
  failCmd c bCDC cause v (snapOn R.CDC_CTL 0 5 bCDC (rsetBit R.CDC_EVT 0 (rcountSat (R.CDC_Vnn_ERR v) s)))

/-- Bytes of bitstream parsed or written, counted in whole KiB. -/
def countBits (v n : Nat) (s : State) : State :=
  let x := codecx v s
  rcountBy (R.CDC_Vnn_BITS v) ((x.bytes + n) / 1024) (setCodecx v { x with bytes := (x.bytes + n) % 1024 } s)

def setResync (v : Nat) (on : Bool) (s : State) : State := rsetBits (R.CDC_Vnn_STAT v) 6 6 (nb on) s

/-- WORK is written by the engine: its contents are undefined to the program (log 8). -/
def spoilWork (x : CodecX) (s : State) : State :=
  let k := CU.parse x.units
  forgetRange k.work (k.work + k.workMib * 2 ^ 20) s

def workPoisoned (x : CodecX) (s : State) : Bool := let k := CU.parse x.units; poisoned s k.work (k.workMib * 2 ^ 20)

/-! ### CDC_OPEN, CDC_CLOSE, CDC_FLUSH -/

/-- CDC_OPEN (R307). -/
def cdcOpenRun (c : Nat) (s : State) : State :=
  match runningCmd c .cdcOpen s with
  | none => s
  | some y =>
    let v := ctxOf y.bytes
    if !codecTurn v c s then s
    else
      let x := CU.parse y.bytes
      if ctxOpen v s then failCmd c bCDC 0x01C0 v s
      else
        let t := rset (R.CDC_Vnn_NEED v) x.need s
        if x.workMib < x.need then failCmd c bCDC 0x01C5 v t
        else
          let z : CodecX := { isOpen := true, mode := x.mode, q := y.q, units := y.bytes }
          markDone c (rset (R.CDC_Vnn_STAT v) (1 + (x.mode <<< 1) + (((y.q - 40) % 4) <<< 4) + (nb (x.mode != 2) <<< 6))
            (setCodecx v z t))

def execCdcOpen (c : Nat) (s : State) : Host.Outcome State Fault Refusal := .next (cdcOpenRun c s)

/-- Why a command may not use the context: closed meanwhile, bound to another queue, or of the other direction (R306,
R307). -/
def ctxRefuses (y : Started) (dir : Option Bool) (s : State) : Option Nat :=
  let x := codecx (ctxOf y.bytes) s
  if !x.isOpen then some 0x0004
  else if x.q ≠ y.q then some 0x01C4
  else match dir with
    | none => none
    | some enc => if (x.mode == 2) == enc then none else some 0x01C3

/-- CDC_CLOSE (R308). -/
def cdcCloseRun (c : Nat) (s : State) : State :=
  match runningCmd c .cdcClose s with
  | none => s
  | some y =>
    let v := ctxOf y.bytes
    if !(codecBefore v c s).isEmpty then s
    else
      match ctxRefuses y none s with
      | some cause => failCmd c bCDC cause v s
      | none => markDone c (rset (R.CDC_Vnn_STAT v) 0 (setCodecx v {} s))

def execCdcClose (c : Nat) (s : State) : Host.Outcome State Fault Refusal := .next (cdcCloseRun c s)

/-! ### Decoding -/

/-- What the standard's process gives for a stream: field f of picture k at place i (log 8). -/
def dec (mode : Nat) (stream : Bytes) (f k i : Nat) : Int := Config.decoded mode stream (f + 64 * (k + 128 * i))

/-- Place of the first picture still held for output. -/
def heldPlace : Nat := 64

/-- Mode as the sample process sees it: bit 4 leaves film grain off (R304). -/
def sampleMode (x : CU) : Nat := x.mode + 16 * nb x.fgOff

/-- Width and height of picture k. -/
def picSize (x : CU) (st : Bytes) (k : Nat) : Nat × Nat := (max 1 (dec x.mode st 8 k 0).toNat, max 1 (dec x.mode st 9 k 0).toNat)

/-- CDC_FLUSH (R308): every picture still held is to be output, and the decoded picture buffer is cleared. -/
def cdcFlushRun (c : Nat) (s : State) : State :=
  match runningCmd c .cdcFlush s with
  | none => s
  | some y =>
    let v := ctxOf y.bytes
    if y.begun || !codecTurn v c s then s
    else
      match ctxRefuses y none s with
      | some cause => failCmd c bCDC cause v s
      | none =>
        let x := codecx v s
        if x.mode = 2 then markDone c s
        else
          let st := x.hist.flatten
          let n := if x.hist.isEmpty then 0 else (dec x.mode st 4 0 0).toNat % 64
          let os := (List.range n).map (fun k => ({ c := c, stream := st, k := heldPlace + k } : CodecOut))
          let t := setResync v true (setCodecx v { x with hist := [], outs := x.outs ++ os } s)
          if n = 0 then markDone c t else setProg c 0 t

def execCdcFlush (c : Nat) (s : State) : Host.Outcome State Fault Refusal := .next (cdcFlushRun c s)

/-- CDC_DECODE (R303, R307, R309, R315). -/
def cdcDecodeRun (c : Nat) (s : State) : State :=
  match runningCmd c .cdcDecode s with
  | none => s
  | some y =>
    let v := ctxOf y.bytes
    if y.begun || !codecTurn v c s then s
    else
      match ctxRefuses y (some false) s with
      | some cause => failCmd c bCDC cause v s
      | none =>
        let x := codecx v s
        let k := CU.parse x.units
        let a := codecAddr y.bytes
        let n := u y.bytes 24 4
        match firstUnreached s a n with
        | some e => failCmd c bCDC (reachCause s e) v (captureReach e s)
        | none =>
          if poisoned s a n || workPoisoned x s then codecError v c 0x01C6 s
          else
            let au := readBytes s a n
            let rap := dec x.mode au 1 0 0 != 0
            if x.hist.isEmpty && !rap then codecError v c 0x01C2 s
            else
              let hist := if rap then [au] else x.hist ++ [au]
              let st := hist.flatten
              let pics := (dec x.mode st 2 0 0).toNat % 64
              let big := (List.range pics).any (fun i => decide (k.w < (picSize k st i).1) || decide (k.h < (picSize k st i).2))
              let t := spoilWork x (countBits v n s)
              if dec x.mode st 0 0 0 != 0 then
                codecError v c 0x01C1 (setResync v true (setCodecx v { codecx v t with hist := [] } t))
              else if big || dec x.mode st 3 0 0 != 0 then failCmd c bCDC 0x01C5 v t
              else
                let os := (List.range pics).map (fun i => ({ c := c, stream := st, k := i } : CodecOut))
                let t := setResync v false (setCodecx v { codecx v t with hist := hist, outs := x.outs ++ os } t)
                if pics = 0 then markDone c t else setProg c 0 t

def execCdcDecode (c : Nat) (s : State) : Host.Outcome State Fault Refusal := .next (cdcDecodeRun c s)

/-! ### Encoding (R313, R314) -/

/-- Bytes of a source picture (the text after Table 16.6): luma rows and half as many CbCr rows of one pitch. -/
def sourceSize (x : CU) : Nat := roundUp (x.w * (if x.depth = 8 then 1 else 2)) 256 * (x.h + ceilDiv x.h 2)

/-- Predicted bits at QP q from size b at QP p, by a table of 16-bit fractions that the spec does not print (log 47). -/
def predictedBits (b p q : Nat) : Nat :=
  let d : Int := (p : Int) - q
  let i := (d % 6).toNat
  let k := d / 6
  let f := Config.rateFraction i
  if 0 ≤ k then b * f * 2 ^ k.toNat / 2 ^ 16 else b * f / 2 ^ (16 + (-k).toNat)

/-- QP of a picture: base, or the smallest whose predicted bits fit the budget, or QP_MAX. -/
def chooseQp (k : CU) (x : CodecX) (intra : Bool) : Nat :=
  let base := (min 51 (max 0 ((k.cq : Int) + if intra then k.iOff else 0))).toNat
  if k.cap = 0 then base
  else
    let budget := (k.cap : Int) - ((x.window.take (k.window - 1)).foldl (· + ·) 0 : Nat)
    let last := if intra then x.lastI else x.lastP
    let bitsAt (q : Nat) : Nat := match last with | none => 0 | some (b, p) => predictedBits b p q
    ((List.range (k.qpMax + 1 - base)).map (· + base)).find? (fun q => decide ((bitsAt q : Int) ≤ budget)) |>.getD k.qpMax

/-- What the encoder produces for the pictures of `raw`, the last one now: selector i (log 8). -/
def enc (k : CU) (v qp : Nat) (intra : Bool) (raw : Bytes) (i : Nat) : Nat :=
  Config.encoded (nb (decide (4 ≤ v)))
    (leBytes 2 k.w ++ leBytes 2 k.h ++ leBytes 1 k.depth ++ leBytes 1 qp ++ leBytes 1 (nb intra)) raw i

/-- Selectors of an encode: 0 the length of the access unit, 4i + 1 its byte i; 4i + 2 luma sample i of the decoded picture;
4 (8i + f) + 3 field f of block i. -/
def auLen (k : CU) (v qp : Nat) (intra : Bool) (raw : Bytes) : Nat := enc k v qp intra raw 0

/-- CDC_ENCODE (R314). -/
def cdcEncodeRun (c : Nat) (s : State) : State :=
  match runningCmd c .cdcEncode s with
  | none => s
  | some y =>
    let v := ctxOf y.bytes
    if y.begun || !codecTurn v c s then s
    else
      match ctxRefuses y (some true) s with
      | some cause => failCmd c bCDC cause v s
      | none =>
        let x := codecx v s
        let k := CU.parse x.units
        let a := codecAddr y.bytes
        let n := sourceSize k
        match firstUnreached s a n with
        | some e => failCmd c bCDC (reachCause s e) v (captureReach e s)
        | none =>
          if poisoned s a n || workPoisoned x s then codecError v c 0x01C6 s
          else
            let intra := x.coded % k.gop == 0 || bitAt (u y.bytes 22 1) 0
            let qp := chooseQp k x intra
            let hist := (if intra then [] else x.hist) ++ [leBytes 1 qp ++ readBytes s a n]
            let raw := hist.flatten
            let len := auLen k v qp intra raw
            let t := spoilWork x s
            if k.bsMib * 2 ^ 20 / k.slots < len then failCmd c bCDC 0x01C7 v t
            else
              let w := (8 * len :: x.window).take 254
              let miss := k.cap != 0 && decide (k.cap < (w.take k.window).foldl (· + ·) 0)
              let t := if miss then rsetBit R.CDC_EVT 1 (rcountSat (R.CDC_Vnn_CAPMISS v) t) else t
              let o : CodecOut := { c := c, raw := raw, qp := qp, intra := intra, miss := miss }
              let z : CodecX := { x with hist := hist, outs := x.outs ++ [o], coded := x.coded + 1, window := w,
                                         lastI := if intra then some (8 * len, qp) else x.lastI,
                                         lastP := if intra then x.lastP else some (8 * len, qp) }
              setProg c 0 (countBits v len (setCodecx v z t))

def execCdcEncode (c : Nat) (s : State) : Host.Outcome State Fault Refusal := .next (cdcEncodeRun c s)

/-! ### Block statistics (R311, Table 16.4) -/

/-- A block's measures. -/
structure BlockStat where
  mvx   : Int := 0
  mvy   : Int := 0
  dist  : Int := 0
  intra : Bool := false
  skip  : Bool := false
  cplx  : Nat := 0
  res   : Nat := 0
  deriving DecidableEq, Repr, Inhabited

def sat16 (n : Nat) : Nat := min 0xFFFF n

/-- CPLX of the samples of a block that lie inside the picture. -/
def complexity (ys : List Nat) : Nat :=
  let m : Nat := ys.foldl (· + ·) 0 / 256
  sat16 (ys.foldl (fun a y => a + ((y : Int) - (m : Int)).natAbs) 0 / 16)

/-- Positions of block (bx, by) inside a picture of w by h samples. -/
def blockPixels (w h bx bY : Nat) : List (Nat × Nat) :=
  (List.range 16).flatMap (fun y => (List.range 16).filterMap (fun x =>
    if 16 * bx + x < w ∧ 16 * bY + y < h then some (16 * bx + x, 16 * bY + y) else none))

def sat127 (d : Int) : Int := min 127 (max (-127) d)

def decodedDepth (k : CU) (st : Bytes) (p : Nat) : Nat := if dec k.mode st 10 p 0 = 10 then 10 else 8

/-- Sample of plane f (16 Y, 17 Cb, 18 Cr) at place i of picture p. -/
def sample (k : CU) (st : Bytes) (p f i : Nat) : Nat := (dec (sampleMode k) st f p i).toNat % 2 ^ decodedDepth k st p

/-- Measures of block i, column bx and row by, of a decoded picture. -/
def decodedBlock (k : CU) (st : Bytes) (p w h i bx bY : Nat) : BlockStat :=
  let unit : Int := if k.mode = 0 then 2 else 1
  let intra := dec k.mode st 27 p i != 0
  { mvx := unit * dec k.mode st 24 p i, mvy := unit * dec k.mode st 25 p i,
    dist := if intra then 0 else sat127 (dec k.mode st 26 p i), intra := intra, skip := dec k.mode st 28 p i != 0,
    cplx := complexity ((blockPixels w h bx bY).map (fun q => sample k st p 16 (q.2 * w + q.1))),
    res := sat16 ((dec k.mode st 29 p i).toNat / 16) }

/-- A vector of an encode in 1/8 sample: whole samples for contexts 4 to 15, quarter samples for 0 to 3, within the reach of
R313. -/
def encodedVector (v raw : Nat) : Int :=
  if 4 ≤ v then 8 * min 262 (max (-262) (signed 16 raw)) else 2 * min 1051 (max (-1051) (signed 16 raw))

/-- Measures of block i of an encoded picture. -/
def encodedBlock (k : CU) (v : Nat) (o : CodecOut) (i bx bY : Nat) : BlockStat :=
  let g (f : Nat) : Nat := enc k v o.qp o.intra o.raw (4 * (8 * i + f) + 3)
  let intra := o.intra || g 2 % 2 == 1
  { mvx := if intra then 0 else encodedVector v (g 0), mvy := if intra then 0 else encodedVector v (g 1),
    dist := if intra then 0 else 1, intra := intra, skip := g 3 % 2 == 1,
    cplx := complexity ((blockPixels k.w k.h bx bY).map (fun q =>
      enc k v o.qp o.intra o.raw (4 * (q.2 * k.w + q.1) + 2) % 2 ^ k.depth)) }

/-- Record of a block. -/
def blockRecord (x : BlockStat) (kept recRes : Bool) : Bytes :=
  leBytes 2 (unsigned 16 x.mvx) ++ leBytes 2 (unsigned 16 x.mvy) ++ leBytes 1 (unsigned 8 x.dist)
    ++ leBytes 1 (nb x.intra + (nb x.skip <<< 1) + (nb kept <<< 2)) ++ leBytes 2 (if recRes then x.res else x.cplx)

/-- The keep rule (R312). -/
def keptBlock (k : CU) (n : Nat) (interPic : Bool) (x : BlockStat) : Bool :=
  !interPic || (k.keepEvery != 0 && n % k.keepEvery == 0) || x.intra ||
  (k.mvThr != 0 && decide (k.mvThr ≤ x.mvx.natAbs + x.mvy.natAbs)) || decide (k.resThr ≤ x.res)

/-! ### Patch rows (R310) -/

/-- A ratio of integers as an FP32 word, rounded once to nearest even. -/
def ratio32 (n : Int) (d : Nat) (e : Int) : Nat :=
  encodeLin fmtFP32 (roundTo fmtFP32 .rne 0 (decide (n < 0)) n.natAbs d e).1

/-- Step 2: a sample in [0, 1] by the range in use (log 48). -/
def normalise (full luma : Bool) (depth y : Nat) : Nat :=
  let z := 2 ^ (depth - 8)
  if full then ratio32 y (2 ^ depth - 1) 0
  else ratio32 ((y : Int) - (16 * z : Nat)) ((if luma then 219 else 224) * z) 0

/-- Exact significand and exponent of a finite FP32 word. -/
def dyOf (w : Nat) : Int × Int := match f32 w with | .fin n m e => (FVal.int n m, e) | _ => (0, 0)

def dyMul (k : Int) (d : Int × Int) : Int × Int := (k * d.1, d.2)

/-- Red and blue weights of the matrices, in units of 1/10,000: BT.601, BT.709, BT.2020. -/
def matrixK (m : Nat) : Nat × Nat := if m = 1 then (2990, 1140) else if m = 3 then (2627, 593) else (2126, 722)

/-- Step 3: channel ch of RGB from normalised Y, Cb and Cr, rounded once. -/
def toRgb (m y cb cr ch : Nat) : Nat :=
  let (kr, kb) := matrixK m
  let kg := 10000 - kr - kb
  let c (w : Nat) : Int × Int := dyAdd (dyOf w) (-1, -1)
  let out (d : Int × Int) (den : Nat) : Nat := ratio32 d.1 den d.2
  match ch with
  | 0 => out (dyAdd (dyMul 10000 (dyOf y)) (dyMul (2 * (10000 - kr)) (c cr))) 10000
  | 1 => out (dyAdd (dyMul (10000 * kg) (dyOf y))
      (dyAdd (dyMul (-(2 * kb * (10000 - kb) : Int)) (c cb)) (dyMul (-(2 * kr * (10000 - kr) : Int)) (c cr)))) (10000 * kg)
  | _ => out (dyAdd (dyMul 10000 (dyOf y)) (dyMul (2 * (10000 - kb)) (c cb))) 10000

/-- Colour matrix and range in use. -/
def colourOf (k : CU) (st : Bytes) (p : Nat) : Nat × Bool :=
  let sm := (dec k.mode st 13 p 0).toNat
  let m := if k.matrix != 0 then k.matrix else if 1 ≤ sm ∧ sm ≤ 3 then sm else 2
  let full := if k.range = 2 then true else if k.range = 1 then false else (1 ≤ sm && decide (sm ≤ 3) && dec k.mode st 14 p 0 != 0)
  (m, full)

/-- Element 3 (16 y + x) + ch of the patch of block (bx, by): an FP32 word, and the flags of step 4 (R59, R63). -/
def patchElem (k : CU) (st : Bytes) (p w h bx bY i : Nat) : Nat × Nat :=
  let ch := i % 3
  let px := min (w - 1) (16 * bx + i / 3 % 16)
  let py := min (h - 1) (16 * bY + i / 48)
  let (m, full) := colourOf k st p
  let d := decodedDepth k st p
  let ci := py / 2 * ceilDiv w 2 + px / 2
  let y := normalise full true d (sample k st p 16 (py * w + px))
  let cb := normalise full false d (sample k st p 17 ci)
  let cr := normalise full false d (sample k st p 18 ci)
  f32Fma (toRgb m y cb cr ch) (k.norm.getD ch 0) (k.norm.getD (3 + ch) 0)

/-- Patch of a block written to row r of the patch tensor. -/
def writePatch (k : CU) (st : Bytes) (p w h bx bY r : Nat) (s : State) : Wrote :=
  let vs := (List.range 768).map (patchElem k st p w h bx bY)
  let cells := vs.zipIdx.map (fun v => ({ r := r, c := v.2, v := f32 v.1.1, mode := k.ru.rmode 0 v.2 } : Cell))
  let x := k.td.store k.ru.ovf cells
  let z := x.write s
  { z with flags := vs.foldl (fun a v => a ||| v.2) (z.flags ||| x.allFlags) }

/-- Writes in order, the first failure ending them. -/
def writeSteps : List (State → Wrote) → State → Wrote
  | [], s => { s := s }
  | f :: t, s =>
    let w := f s
    match w.cause with
    | some _ => w
    | none =>
      let w2 := writeSteps t w.s
      { w2 with flags := w.flags ||| w2.flags }

/-- Bytes of a bit mask, bit t of byte t / 8. -/
def maskBytes (n : Nat) (l : List Bool) : Bytes :=
  (List.range n).map (fun i => BitVec.ofNat 8 ((List.range 8).foldl (fun a j => a + (nb (l.getD (8 * i + j) false) <<< j)) 0))

/-- Output n of a decode is written (R310 to R312). -/
def writeDecoded (k : CU) (n : Nat) (o : CodecOut) (s : State) : Wrote :=
  let (w, h) := picSize k o.stream o.k
  let nx := ceilDiv w 16
  let ny := ceilDiv h 16
  let slot := n % k.slots
  let interPic := dec k.mode o.stream 12 o.k 0 != 0
  let blocks := (List.range (nx * ny)).map (fun i => decodedBlock k o.stream o.k w h i (i % nx) (i / nx))
  let kept := blocks.map (keptBlock k n interPic)
  let count := (kept.filter id).length
  let rows := (List.range (nx * ny)).filter (fun i => !k.pack || kept.getD i false)
  let patches := if k.patchEn then
      rows.zipIdx.map (fun r => fun t =>
        writePatch k o.stream o.k w h (r.1 % nx) (r.1 / nx) (slot * k.ppf + (if k.pack then r.2 else r.1)) t) else []
  let header := leBytes 2 w ++ leBytes 2 h ++ leBytes 4 (unsigned 32 (dec k.mode o.stream 11 o.k 0)) ++ leBytes 1 (nb interPic)
    ++ leBytes 3 0 ++ leBytes 4 count
  let recs := (blocks.zip kept).flatMap (fun b => blockRecord b.1 b.2 k.recRes)
  let res := if k.resArea = 0 then [] else
      [fun t => writeMem (k.resArea + slot * 2 * k.ppf) (blocks.flatMap (fun b => leBytes 2 b.res)) t]
  let mask := if k.patchEn then
      [fun t => writeMem (k.mask + slot * 64 * ceilDiv k.ppf 512) (maskBytes (64 * ceilDiv k.ppf 512) kept) t] else []
  let index := if k.patchEn && k.pack then
      [fun t => writeMem (k.index + slot * 4 * (k.ppf + 1)) (leBytes 4 count ++ rows.flatMap (leBytes 4)) t] else []
  writeSteps (patches ++ [fun t => writeMem (k.stats + slot * (16 + 8 * k.ppf)) (header ++ recs) t] ++ res ++ mask ++ index) s

/-- Output n of an encode is written: the access unit, its record and the block records (R311, R314). -/
def writeEncoded (v : Nat) (k : CU) (n : Nat) (o : CodecOut) (s : State) : Wrote :=
  let nx := ceilDiv k.w 16
  let slot := n % k.slots
  let len := auLen k v o.qp o.intra o.raw
  let au := (List.range len).map (fun i => BitVec.ofNat 8 (enc k v o.qp o.intra o.raw (4 * i + 1)))
  let header := leBytes 2 k.w ++ leBytes 2 k.h ++ leBytes 1 o.qp ++ leBytes 1 (nb !o.intra) ++ leBytes 1 (nb o.miss)
    ++ leBytes 1 0 ++ leBytes 8 len
  let recs := (List.range k.ppf).flatMap (fun i => blockRecord (encodedBlock k v o i (i % nx) (i / nx)) false false)
  writeSteps [fun t => writeMem (k.bs + slot * ((k.bsMib <<< 20) / k.slots)) au t,
               fun t => writeMem (k.stats + slot * (16 + 8 * k.ppf)) (header ++ recs) t] s

/-! ### CODEC_OUTPUT (R309) -/

/-- Outputs of commands that run no more are dropped. -/
def liveOuts (s : State) (os : List CodecOut) : List CodecOut :=
  os.filter (fun o => match startedAt o.c s with | some x => x.state == .running | none => false)

/-- The next output of context v is written and counted, or waits for its slot. A command that a reset has muted makes no marker
add (R22). -/
def codecOutput (v : Nat) (s : State) : State :=
  let x := codecx v s
  match liveOuts s x.outs with
  | [] => s
  | o :: rest =>
    let k := CU.parse x.units
    let n := x.next
    if (startedAt o.c s).any (fun y => outsHeld y s) then s
    else if decide (k.slots ≤ n) && !satisfied (markerCount k.freeM s) (k.freeB + n - k.slots + 1) then
      rsetBit (R.CDC_Vnn_STAT v) 7 s
    else
      let t := rclrBit (R.CDC_Vnn_STAT v) 7 s
      let w := if x.mode = 2 then writeEncoded v k n o t else writeDecoded k n o t
      let t := addFlags o.c (w.flags % 4) w.s
      match w.cause with
      | some cause => failCmd o.c bCDC cause v (setCodecx v { x with outs := rest.filter (fun r => r.c != o.c) } t)
      | none =>
        let t := setCodecx v { x with outs := rest, next := n + 1 } t
        let mute := (startedAt o.c t).any (·.muted)
        let t := rcount (R.CDC_Vnn_OUT v) (if mute then t else markerInc k.frameM 1 t)
        if rest.any (fun r => r.c == o.c) then t else markDone o.c t

def execCodecOutput (x : Ctx) (s : State) : Host.Outcome State Fault Refusal := .next (codecOutput x.val s)

/-- Memory that a codec command may leave undefined when it is stopped inside (R22). -/
def codecOuts (b : Bytes) (s : State) : List (Nat × Nat) :=
  let x := codecx (ctxOf b) s
  let k := CU.parse x.units
  let common := [(k.work, k.workMib * 2 ^ 20), (k.stats, k.slots * (16 + 8 * k.ppf))]
  if x.mode = 2 then (k.bs, k.bsMib * 2 ^ 20) :: common
  else common ++ (if k.patchEn then (k.mask, k.slots * 64 * ceilDiv k.ppf 512) :: k.td.ranges else [])
    ++ (if k.resArea = 0 then [] else [(k.resArea, k.slots * 2 * k.ppf)])
    ++ (if k.patchEn && k.pack then [(k.index, k.slots * 4 * (k.ppf + 1))] else [])

end Sys2Proof.Machine
end

