-- ==== Sys2Proof/Machine/Rings.lean ====
section
/-! DEFINITION. Writes of ENABLE (R387, R389) and of FLUSH (R41). -/

namespace Sys2Proof.Machine

/-! ### The end of a queue (R389) -/

/-- A write of 0 to ENABLE (R389). The entry of a halt that stands at the head counts as started. -/
def queueDisable (q : Nat) (s : State) : State :=
  if qState q s = 0 then s
  else
    let whole := standsHalted q s && rbit (R.QFE_Qn_HALT q) 20 s
    let i := rbits (R.QFE_Qn_HALT q) 47 32 s
    let t := if whole && (flightAt q i s).isNone then writeRecord q (ringEntry q i s) stAborted 0 0 s else s
    let fs := (qx q t).flights.filter (fun f => f.begun || entryHalted q f.idx s || s.started.any (ofEntry q f.idx))
    let x : QueueX := { qx q t with closing := true, held := [], flights := fs }
    settleQueue q (setQState q qStopping (rset (R.QFE_Qn_HALT q) 0 (rclrBit (R.QFE_Qn_CTL q) 0 (setQx q x t))))

def execQueueDisable (q : Qn) (s : State) : Host.Outcome State Fault Refusal := .next (queueDisable q.val s)

/-! ### Enabling a queue (R387, R367) -/

/-- Does a ring of `len` bytes at `a` meet R387? -/
def ringPlaced (a len : Nat) (s : State) : Bool := a % 4096 == 0 && (inStacked a len || (isManager s && inHost a len))

def ringsValid (q : Nat) (s : State) : Bool :=
  let k := rbits (R.QFE_Qn_SIZE q) 4 0 s
  decide (4 ≤ k) && decide (k ≤ 16) && ringPlaced (rget (R.QFE_Qn_BASE q) s) (64 * 2 ^ k) s &&
  ringPlaced (rget (R.QFE_Qn_CBASE q) s) (32 * 2 ^ k) s

/-- READY on the manager (R367); on a worker its Keeper has joined the domain (R29, R283). -/
def isReady (s : State) : Bool := if isManager s then rbits R.HIF_BOOT 3 0 s == 5 else s.keeper.joined

/-- A write of 1 to ENABLE: refused while a ring is invalid, before READY or in Holdfast (R377), without effect while enabled. -/
def queueEnable (q : Nat) (s : State) : State :=
  if qState q s ≠ 0 then s
  else if !isReady s || inHoldfast s || !ringsValid q s then misuse bQFE s
  else
    setQState q qRunning (rsetBits (R.QFE_Qn_STAT q) 7 4 0 (rsetBits (R.QFE_Qn_CTL q) 0 0 1
      (rset (R.QFE_Qn_HEAD q) 0 (rset (R.QFE_Qn_TAIL q) 0 (setQx q {} s)))))

def execQueueEnable (q : Qn) (s : State) : Host.Outcome State Fault Refusal := .next (queueEnable q.val s)

/-- A running channel is aborted: it comes to rest once what it has issued is done (R203). -/
def abortChan (n : Nat) (s : State) : State := chanSettle n (rsetBits (R.DMA_Dnn_STAT n) 2 0 5 s)

/-- The running channels that serve commands of queue q are aborted (R203, log 162). -/
def abortChannels (q : Nat) (s : State) : State :=
  (List.range 32).foldl (fun t n =>
    match (chanx n t).cmd with
    | none => t
    | some c => if rbits (R.DMA_Dnn_STAT n) 2 0 t == 1 && (startedAt c t).any (fun x => x.q == q) then abortChan n t else t) s

/-- FLUSH (R41, R203). -/
def flushQueue (q : Nat) (s : State) : State :=
  let st := qState q s
  if st = 0 then misuse bQFE s
  else
    let t := abortChannels q s
    if st = qHalted ∨ st = qSuspended then flushNow q t
    else settleQueue q (setQx q { qx q t with flush := true } t)

def execFlush (q : Qn) (s : State) : Host.Outcome State Fault Refusal := .next (flushQueue q.val s)

end Sys2Proof.Machine
end

