-- ==== Sys2Proof/Machine/Snap.lean ====
section
/-! DEFINITION. The snapshot root, its banks and its pins (chapter 19). -/

namespace Sys2Proof.Machine

/-! ### What a snapshot holds (R345) -/

/-- KVP_STAT as it reads: bit 2 follows BNK_STAT (R170). -/
def kvpStat (s : State) : Nat := setBits (rget R.KVP_STAT s) 2 2 (rbits R.BNK_STAT 0 0 s)

/-- Base of NST_MREC, the oldest held metering record (Table 18.7). -/
def mrecBase : Nat := blockBase bNST + 0x1000

/-- The oldest held record, all zero when none is held; records saved in flash come first (R361). -/
def oldestRecord (s : State) : Bytes :=
  match s.naust.saved ++ s.naust.held with
  | [] => List.replicate 1024 0
  | r :: _ => padTo 1024 r.bytes

/-- Words of eight bytes from offset `off` on, without those that are 0. -/
def wordsFrom : Nat → Nat → Bytes → List (Nat × Nat)
  | 0, _, _ => []
  | n + 1, off, b => (if u b 0 8 = 0 then [] else [(off, u b 0 8)]) ++ wordsFrom n (off + 8) (b.drop 8)

/-- The registers as they read when a trigger latches them: those that differ from reset. -/
def latchedRegs (s : State) : List (Nat × Nat) :=
  (wordsFrom 128 mrecBase (oldestRecord s)).foldl (fun l x => AL.insert x.1 x.2 l)
    (AL.set (resetOf R.KVP_STAT) R.KVP_STAT (kvpStat s) s.regs)

/-- Value latched in a bank for the register at `off`. -/
def latchedReg (bank off : Nat) (s : State) : Nat :=
  match findKey bank s.snap.images with
  | none => 0
  | some l => AL.get (resetOf off) off l

/-- Offset in the register space of the register whose image lies at offset `o` of block k's image: none where nothing is
latched. -/
def imageOffset (k o : Nat) : Option Nat :=
  if 21 < k then none
  else if o < 0x3F00 then some (blockBase k + o)
  else if k = bQFE then some (0x110000 + (o - 0x3F00))
  else none

/-- The 4-byte word at offset `o` of a bank's image. -/
def imageWord (bank o : Nat) (s : State) : Nat :=
  match imageOffset (o / 0x4000) (o % 0x4000) with
  | none => 0
  | some off =>
    let lo := off / 8 * 8
    if off % 8 = 4 && (match regAt lo with | some d => d.width == 64 | none => decide (mrecBase ≤ lo) && decide (lo < mrecBase + 1024)) then
      latchedReg bank lo s >>> 32 % 2 ^ 32
    else latchedReg bank off s % 2 ^ 32

/-! ### Issue (R344 to R346, R349) -/

def bankFull (b : Nat) (s : State) : Bool := rbit R.SNP_FULL b s

/-- The bank that a trigger takes. -/
def bankFor (hf : Bool) (s : State) : Option Nat :=
  let free (n : Nat) : Option Nat := leastBelow n (fun b => !bankFull b s)
  if rbit R.SNP_CTL 1 s then (if hf then (if bankFull 3 s then free 3 else some 3) else free 3) else free 4

/-- Every tap latches into bank b; with FREEZE the trigger stops the engines (R349). -/
def latchBank (b : Nat) (t : Trig) (s : State) : State :=
  let s1 : State := { s with snap := { s.snap with images := (b, latchedRegs s) :: s.snap.images.filter (fun x => x.1 != b) } }
  let s2 := rset (R.SNP_Bb_NUM b) t.num (rset (R.SNP_Bb_INFO b) (t.src % 8 + (t.port % 32 <<< 8) + (t.hops % 8 <<< 16))
    (rset (R.SNP_Bb_TICK b) (s.naust.tick % 2 ^ 64) (rsetBit R.SNP_FULL b s1)))
  let s3 := if rbit R.SNP_CTL 0 s2 then showWalks { s2 with snap := { s2.snap with frozen := addNew s2.snap.frozen b } } else s2
  raiseVector 133 s3

/-- SNAP commands whose trigger the root has issued are complete (R342). -/
def settleSnaps (s : State) : State :=
  s.started.foldl (fun t x =>
    if x.state == .running && x.begun && opOfBytes x.bytes == some .snap
      && !t.snap.queue.any (fun g => g.cmd == some x.id) then markDone x.id t else t) s

/-- TRIGGER_ISSUE: the root issues the first trigger of its queue. -/
def triggerIssue (s : State) : State :=
  match s.snap.queue with
  | [] => s
  | t :: rest =>
    let s1 : State := { s with snap := { s.snap with queue := rest } }
    settleSnaps (match bankFor t.hf s1 with
      | none => dropTrigger t s1
      | some b => announceTrigger t (latchBank b t s1))

def execTriggerIssue (s : State) : Host.Outcome State Fault Refusal := .next (triggerIssue s)

/-! ### Sources (Table 19.1) -/

def snapBad (b : Bytes) : Bool := !operandsOk [byteRange 19 16, (160, 160)] b || bitAt (u b 16 4) 31

/-- SNAP (R342): its trigger joins the queue, and the command completes when the root has issued it. -/
def snapRun (c : Nat) (s : State) : State :=
  match runningCmd c .snap s with
  | none => s
  | some x =>
    if x.begun then settleSnaps s
    else settleSnaps (queueTrigger { num := u x.bytes 16 4, src := 1, fwd := bitAt (u x.bytes 20 1) 0, cmd := some c } (setProg c 0 s))

/-- With a queue that was full the trigger is dropped and the command is complete at once. -/
def execSnap (c : Nat) (s : State) : Host.Outcome State Fault Refusal := .next (snapRun c s)

/-- SNP_TRIG_WRITE (R343): bit 31 belongs to the root. -/
def snpTrigWrite (v : Nat) (s : State) : State :=
  queueTrigger { num := v % 2 ^ 31, src := 2, fwd := true } (if v.testBit 31 then misuse bSNP s else s)

def execSnpTrigWrite (v : BitVec 32) (s : State) : Host.Outcome State Fault Refusal := .next (snpTrigWrite v.toNat s)

/-- SNAP_IN_EDGE (R348): a rising edge that stays high for `ns`. A microsecond is 25 meter ticks. -/
def snapInEdge (ns : Nat) (s : State) : State :=
  if rbit R.SNP_CTL 2 s && decide (20 ≤ ns) && decide (s.snap.holdoff ≤ s.naust.tick) then
    queueTrigger { num := rbits R.SNP_PIN_NUM 30 0 s, src := 3, fwd := true }
      { s with snap := { s.snap with holdoff := s.naust.tick + 25 * rbits R.SNP_PIN_HOLDOFF 15 0 s } }
  else s

def execSnapInEdge (highNs : Nat) (s : State) : Host.Outcome State Fault Refusal := .next (snapInEdge highNs s)

/-- TRIGGER (R347): issued as source 4, or ignored as one of the last 16. -/
def triggerIn (p : Nat) (m : Msg) (s : State) : State :=
  match takeCtrl p 0x18 m s with
  | none => s
  | some t =>
    let n := u m.data 0 4
    if t.snap.last.contains n then rcount R.SNP_DUP t else queueTrigger { num := n, src := 4, port := p, hops := u m.data 4 1 } t

def execTrigger (p : Port) (m : Msg) (s : State) : Host.Outcome State Fault Refusal := .next (triggerIn p.val m s)

/-! ### Release (R346, R349) -/

/-- A bank is released: its contents are gone (log 14), and the engines resume when no trigger that froze them holds a bank. -/
def releaseBank (b : Nat) (s : State) : State :=
  let t := rset (R.SNP_Bb_NUM b) 0 (rset (R.SNP_Bb_INFO b) 0 (rset (R.SNP_Bb_TICK b) 0 (rclrBit R.SNP_FULL b s)))
  let t : State := { t with snap := { t.snap with images := t.snap.images.filter (fun x => x.1 != b) } }
  if t.snap.frozen.contains b then
    let t : State := { t with snap := { t.snap with frozen := t.snap.frozen.filter (fun x => x != b) } }
    if enginesHeld t then t else resumeRelay t
  else t

/-- SNAPSHOT_BANK_RELEASE: ones written to SNP_FULL. -/
def bankRelease (v : Nat) (s : State) : State := ((List.range 4).filter (fun b => v.testBit b && bankFull b s)).foldl (fun t b => releaseBank b t) s

def execSnapshotBankRelease (bits : BitVec 32) (s : State) : Host.Outcome State Fault Refusal := .next (bankRelease bits.toNat s)

/-- SNAP_OUT_PULSE_END (R348). -/
def pulseEnd (s : State) : State := { s with snap := { s.snap with out := false } }

def execSnapOutPulseEnd (s : State) : Host.Outcome State Fault Refusal := .next (pulseEnd s)

end Sys2Proof.Machine
end

