-- ==== Sys2Proof/Machine/Layout.lean ====
section
/-! DEFINITION. Layouts (R288 to R293): what makes one legal, each device's share of it, and the result table. -/

namespace Sys2Proof.Machine

/-- A layout descriptor (Table 15.4). -/
structure Lay where
  data    : Nat := 1
  pipe    : Nat := 1
  expert  : Nat := 1
  tensor  : Nat := 1
  seq     : Nat := 1
  zigzag  : Bool := false
  layers  : Nat := 1
  kvHeads : Nat := 1
  group   : Nat := 1
  experts : Nat := 0
  seqlen  : Nat := 64
  units   : Nat := 1
  use     : Nat := 0
  own     : Nat := 0
  ties    : Nat := 0
  nties   : Nat := 0
  deriving DecidableEq, Repr, Inhabited

def Lay.parse (b : Bytes) : Lay :=
  { data := u b 0 1, pipe := u b 1 1, expert := u b 2 1, tensor := u b 3 1, seq := u b 4 1, zigzag := bitAt (u b 5 1) 0,
    layers := u b 6 2, kvHeads := u b 8 2, group := u b 10 2, experts := u b 12 2, seqlen := u b 14 4, units := u b 18 4,
    use := u b 22 8, own := u b 30 8, ties := u b 38 6, nties := u b 44 2 }

def axisOk (n : Nat) : Bool := decide (1 ≤ n) && decide (n ≤ 64)

/-- A range of Table 15.4, or a reserved bit, is broken: the command is malformed (R288, R385). -/
def layBad (b : Bytes) : Bool :=
  let x := Lay.parse b
  !onlyBits [byteRange 4 0, (40, 40), byteRange 45 6] b ||
  !(axisOk x.data && axisOk x.pipe && axisOk x.expert && axisOk x.tensor && axisOk x.seq) || x.layers == 0 ||
  !axisOk x.kvHeads || x.group == 0 || decide (16 < x.group) || decide (x.seqlen < 64) || decide (4194304 < x.seqlen) ||
  x.units == 0 || x.own == 0 || decide (1024 < x.nties)

/-- Devices of USE and of OWN, rising. -/
def Lay.users (x : Lay) : List Nat := setPositions 64 x.use
def Lay.owners (x : Lay) : List Nat := setPositions 64 x.own

/-- n items divided among k (R291): first item and number of items of coordinate c. -/
def divideItems (n k c : Nat) : Nat × Nat :=
  let q := n / k
  let m := n % k
  if c < m then (c * (q + 1), q + 1) else (m * (q + 1) + (c - m) * q, q)

/-- Coordinates of rank r (R289): data, pipe, expert, tensor, seq. -/
def Lay.coords (x : Lay) (r : Nat) : Nat × Nat × Nat × Nat × Nat :=
  (r / (x.seq * x.tensor * x.expert * x.pipe), r / (x.seq * x.tensor * x.expert) % x.pipe, r / (x.seq * x.tensor) % x.expert,
   r / x.seq % x.tensor, r % x.seq)

/-- Pipeline stage that runs a layer. -/
def Lay.stageOf (x : Lay) (l : Nat) : Option Nat :=
  (List.range x.pipe).find? (fun c => let d := divideItems x.layers x.pipe c; decide (d.1 ≤ l) && decide (l < d.1 + d.2))

/-- Every layer of a tie falls in one stage (R293). -/
def Lay.tieOk (x : Lay) (e : Bytes) : Bool :=
  let ls := ((List.range 4).map (fun i => u e (2 * i) 2)).filter (fun l => l != 0xFFFF)
  match ls with
  | [] => true
  | l :: rest => (x.stageOf l).isSome && rest.all (fun m => x.stageOf m == x.stageOf l)

/-- The check that a layout of legal ranges fails first, if any: its cause (R288, R290, R291, R293). -/
def layCause (x : Lay) (s : State) : Option Nat :=
  if x.data * x.pipe * x.expert * x.tensor * x.seq ≠ x.users.length then some 0x01B0
  else if (x.users ++ x.owners).any (fun d => !present d s && d != myDev s) then some 0x01B6
  else if x.seqlen % ((if x.zigzag then 128 else 64) * x.seq) ≠ 0 then some 0x01B1
  else if x.layers < x.pipe ∨ x.kvHeads < x.tensor ∨ (1 < x.expert ∧ x.experts < x.expert) then some 0x01B2
  else if !(List.range x.nties).all (fun i => x.tieOk (readBytes s (x.ties + 8 * i) 8)) then some 0x0177
  else none

/-- Shard units divided afresh among the devices of OWN (R292). -/
def Lay.freshRuns (x : Lay) : List (Nat × Nat × Nat) :=
  x.owners.zipIdx.map (fun d => (d.1, divideItems x.units x.owners.length d.2))

/-- The buddy of owner d among the owners (R297). -/
def buddyOf (owners : List Nat) (d : Nat) : Option Nat :=
  ((List.range 64).map (fun i => (d + 8 + i) % 64)).find? (fun e => e != d && owners.contains e)

/-- Units of a device, in order. -/
def unitsOfDev (d : Nat) (runs : List (Nat × Nat × Nat)) : List Nat :=
  (runs.filter (fun r => r.1 == d)).flatMap (fun r => (List.range r.2.2).map (· + r.2.1))

/-- Result entry of device d (Table 15.5). -/
def Lay.entry (x : Lay) (runs : List (Nat × Nat × Nat)) (d : Nat) : Bytes :=
  let used := x.use.testBit d
  let owner := x.own.testBit d
  let r := x.users.idxOf d
  let (cd, cp, ce, ct, cs) := x.coords r
  let near (o : Nat) : Nat := x.users.getD (r - cs + o % x.seq) 0
  let (fl, nl) := divideItems x.layers x.pipe cp
  let (fk, nk) := divideItems x.kvHeads x.tensor ct
  let (fe, ne) := divideItems x.experts x.expert ce
  let shard := x.seqlen / ((if x.zigzag then 2 else 1) * x.seq)
  let mine := runs.filter (fun g => g.1 == d)
  let first := match mine with | [] => 0 | g :: _ => g.2.1
  let count := mine.foldl (fun a g => a + g.2.2) 0
  let place := if used then
      leBytes 1 cd ++ leBytes 1 cp ++ leBytes 1 ce ++ leBytes 1 ct ++ leBytes 1 cs ++ leBytes 1 (near (cs + 1))
        ++ leBytes 1 (near (cs + x.seq - 1)) ++ leBytes 2 fl ++ leBytes 2 nl ++ leBytes 1 fk ++ leBytes 1 nk ++ leBytes 2 fe
        ++ leBytes 2 ne ++ leBytes 4 shard
    else List.replicate 21 0
  padTo 64 (leBytes 1 (nb used + 2 * nb owner) ++ place ++ leBytes 4 (if owner then first else 0)
    ++ leBytes 4 (if owner then count else 0) ++ leBytes 1 (if owner then (buddyOf x.owners d).getD 0xFF else 0xFF))

/-- The result table, directly after the descriptor (R293). -/
def Lay.table (x : Lay) (runs : List (Nat × Nat × Nat)) : Bytes := (List.range 64).flatMap (x.entry runs)

/-- Bytes of a part of a shard unit: its weights, its first or its second moments (R292, R297). -/
def partBytes : Nat := 524288

/-- Part i of unit `un` is sent to device d's place for it (log 49). -/
def sendPart (d un i a : Nat) (s : State) : State :=
  (sendMsg (mkMsg s 1 (myDom s) d (Config.unitPlace un i) 0 (readBytes s a partBytes) (poisoned s a partBytes)) s).getD s

/-- A unit of this module goes to device d, with its moments (R292). -/
def sendUnit (d : Nat) (s : State) (un : Nat) : State :=
  (List.range 3).foldl (fun t i => sendPart d un i (Config.unitPlace un i) t) s

/-- Owner of a unit. -/
def ownerOf (un : Nat) (runs : List (Nat × Nat × Nat)) : Option Nat :=
  (runs.find? (fun r => decide (r.2.1 ≤ un) && decide (un < r.2.1 + r.2.2))).map (·.1)

/-- Units whose owner changes leave this module for their new owners (R292). -/
def moveUnits (old new : List (Nat × Nat × Nat)) (s : State) : State :=
  (unitsOfDev (myDev s) old).foldl (fun t un =>
    match ownerOf un new with
    | none => t
    | some d => if d = myDev t then t else sendUnit d t un) s

end Sys2Proof.Machine
end

