-- ==== Sys2Proof/Machine/Keeper.lean ====
section
/-! DEFINITION. The manager's duties (chapter 15): formation, heartbeat, job control, suspension and resumption with their
images (R160 to R162), checkpoints, recovery and the collection of metering records. -/

namespace Sys2Proof.Machine

/-! ### Collection of metering records (R301, R302, R341) -/

/-- The oldest record in Naust's buffer is acknowledged and leaves it; records saved in flash leave first (R341, R361). -/
def ackOldest (s : State) : State :=
  match s.naust.saved with
  | _ :: rest => showMbuf { s with naust := { s.naust with saved := rest } }
  | [] => showMbuf { s with naust := { s.naust with held := s.naust.held.drop 1 } }

/-- Records in the order in which they are offered. -/
def offered (s : State) : List MeterRec := s.naust.saved ++ s.naust.held

/-- An acknowledgement by SEQ and BOOT_ID; one that does not name the oldest record is ignored and counted. -/
def acknowledge (seq boot : Nat) (s : State) : State :=
  match offered s with
  | [] => misuse bNST s
  | r :: _ => if r.signed && r.seq == seq && r.bootId == boot then ackOldest s else misuse bNST s

/-- Slots of the collection ring; one stays free (log 50). -/
def mrecSlots (s : State) : Nat := 2 ^ rbits R.KPR_MREC_SLOTS 4 0 s
def mrecFull (s : State) : Bool :=
  (rget R.KPR_MREC_HEAD s + 1) % mrecSlots s == rget R.KPR_MREC_TAIL s % mrecSlots s

/-- A record is written to the collection ring, with the poison of the message that brought it (R252). -/
def collect (b : Bytes) (bad : Bool) (s : State) : State :=
  let t := (writeMem (rget R.KPR_MREC_BASE s + 1024 * (rget R.KPR_MREC_HEAD s % mrecSlots s)) (padTo 1024 b) s bad).s
  let t := rset R.KPR_MREC_HEAD ((rget R.KPR_MREC_HEAD t + 1) % mrecSlots t) t
  raiseVector 134 (if mrecFull t then rsetBit R.KPR_EVT 3 t else t)

/-- The manager's own signed records go into the ring, oldest first, as long as there is room. -/
def collectOwn : Nat → State → State
  | 0, s => s
  | n + 1, s =>
    match offered s with
    | r :: _ => if r.signed && !mrecFull s then collectOwn n (ackOldest (collect r.bytes false s)) else s
    | [] => s

/-- A worker offers its oldest signed record to the manager. -/
def offerRecord (s : State) : State :=
  match offered s with
  | r :: _ => if r.signed then sendCtrl 0x25 (myDom s) (managerDev s) (padTo 1024 r.bytes) s else s
  | [] => s

/-- METER (R302): written to the ring, and acknowledged; it waits while the ring is full. -/
def meterIn (p : Nat) (m : Msg) (s : State) : State :=
  if !isManager s || mrecFull s then s
  else
    match takeCtrl p 0x25 m s with
    | none => s
    | some t => sendCtrl 0x26 m.srcDom.toNat m.srcDev.toNat (padTo 32 (leBytes 4 (u m.data 32 4) ++ leBytes 12 0 ++ slice m.data 16 16)) (collect m.data m.poison t)

def execMeter (p : Port) (m : Msg) (s : State) : Host.Outcome State Fault Refusal := .next (meterIn p.val m s)

/-- METER_ACK (R341). -/
def meterAckIn (p : Nat) (m : Msg) (s : State) : State :=
  match takeCtrl p 0x26 m s with
  | none => s
  | some t => offerRecord (acknowledge (u m.data 0 4) (u m.data 16 16) t)

def execMeterAck (p : Port) (m : Msg) (s : State) : Host.Outcome State Fault Refusal := .next (meterAckIn p.val m s)

/-! ### Formation (R283, R284, R286) -/

/-- Formation ends: FORMED, and vector 135. -/
def formationDone (s : State) : State :=
  if rbit R.KPR_STAT 4 s then s
  else
    raiseVector 135 (rsetBit R.KPR_EVT 0 (rsetBit R.HIF_BOOT 12 (rsetBit R.KPR_STAT 4
      { s with keeper := { s.keeper with forming := false } })))

/-- Has every device of EXPECT joined? -/
def allJoined (s : State) : Bool := (setPositions 64 (rget R.KPR_EXPECT s)).all (fun d => present d s)

/-- FORMATION_END: KPR_FORM_TO has passed. -/
def formationEnd (s : State) : State := if isManager s && s.keeper.forming then formationDone s else s

def execFormationEnd (s : State) : Host.Outcome State Fault Refusal := .next (formationEnd s)

/-- Own training, zero fills and bank test are complete (R366, R367). -/
def memoriesReady (s : State) : Bool := rbit R.HIF_BOOT 8 s && rbit R.HIF_BOOT 9 s && rbit R.HIF_BOOT 10 s

/-- JOIN on a worker: JOINED, or REFUSE (R283); unanswered until its memories are ready (R366). A worker that has joined
takes the devices of EXPECT as present (log 51). -/
def joinIn (p : Nat) (m : Msg) (s : State) : State :=
  if !s.boot.released || !memoriesReady s || isManager s then s
  else
    match takeCtrl p 0x10 m s with
    | none => s
    | some t =>
      let ok := u m.data 0 1 == myDom t && u m.data 1 1 == managerDev t && u m.data 2 1 == rbits R.HIF_IDENT 7 0 t &&
                u m.data 4 4 == t.naust.fwVersion
      if ok then
        sendCtrl 0x11 m.srcDom.toNat m.srcDev.toNat (joinData t)
          (rset R.KPR_PRESENT (rget R.KPR_EXPECT t) { t with keeper := { t.keeper with joined := true } })
      else sendCtrl 0x12 m.srcDom.toNat m.srcDev.toNat (joinData t) t

def execJoin (p : Port) (m : Msg) (s : State) : Host.Outcome State Fault Refusal := .next (joinIn p.val m s)

/-- JOINED on the manager: the device is present; after FORMED only while the job state is IDLE (R284). -/
def joinedIn (p : Nat) (m : Msg) (s : State) : State :=
  match takeCtrl p 0x11 m s with
  | none => s
  | some t =>
    let d := m.srcDev.toNat
    if !isManager t || !expected d t || m.srcDom.toNat != myDom t || (rbit R.KPR_STAT 4 t && jobState t != 0) then t
    else
      let t := rsetBit R.KPR_PRESENT d (rclrBit R.KPR_FAILED d t)
      let t : State := { t with keeper := { t.keeper with missed := t.keeper.missed.filter (fun x => x.1 != d) } }
      let t := ((List.range 64).filter (fun e => match secondHop e t with | some (v, _) => v == d | none => false)).foldl
        (fun t e => sendJoin e t) t
      if t.keeper.forming && allJoined t then formationDone t else t

def execJoined (p : Port) (m : Msg) (s : State) : Host.Outcome State Fault Refusal := .next (joinedIn p.val m s)

/-- REFUSE on the manager. -/
def refuseIn (p : Nat) (m : Msg) (s : State) : State :=
  match takeCtrl p 0x12 m s with
  | none => s
  | some t => if isManager t then rsetBit R.KPR_EVT 2 t else t

def execRefuse (p : Port) (m : Msg) (s : State) : Host.Outcome State Fault Refusal := .next (refuseIn p.val m s)

/-- KPR_MACHINE's lead domain and KPR_STAT.LEAD (R286). -/
def showLead (s : State) : State :=
  let lead := (leastBelow 11 (fun d => rbit R.KPR_MACHINE d s)).getD (myDom s)
  rsetBits R.KPR_STAT 6 6 (nb (lead == myDom s)) (rsetBits R.KPR_MACHINE 19 16 lead s)

/-- MJOIN: a counterpart that is no manager forwards it; a manager records the sender's domain and answers with an MJOIN the
first time (R286, log 52). -/
def mjoinIn (p : Nat) (m : Msg) (s : State) : State :=
  if !s.boot.released then s
  else
    match takeCtrl p 0x14 m s with
    | none => s
    | some t =>
      let dm := u m.data 0 1
      if !isManager t then sendCtrl 0x14 (myDom t) (managerDev t) m.data t
      else if 10 < dm ∨ rbit R.KPR_MACHINE dm t then t
      else sendCtrl 0x14 dm (u m.data 1 1) (joinData t) (showLead (rsetBit R.KPR_MACHINE dm t))

def execMjoin (p : Port) (m : Msg) (s : State) : Host.Outcome State Fault Refusal := .next (mjoinIn p.val m s)

/-- Queues of the job: every queue but KQ0, which runs the job-control commands (log 53). -/
def jobQueues : List Nat := List.range 44

/-! ### Heartbeat and failures (R285, R298, R300) -/

/-- A worker's PING goes out, or the worker has failed: three in a row are unanswered. -/
def beatDevice (s : State) (d : Nat) : State :=
  let n := AL.get 0 d s.keeper.missed
  if 3 ≤ n then deviceFailed d s
  else sendCtrl 0x13 (myDom s) d (joinData s) { s with keeper := { s.keeper with missed := AL.set 0 d (n + 1) s.keeper.missed } }

/-- HEARTBEAT: PING to every present worker; while formation is open, JOIN again to those that are absent (R366). -/
def heartbeat (s : State) : State :=
  if !isManager s || !s.boot.released then s
  else
    let t := ((List.range 64).filter (fun d => present d s && d != myDev s)).foldl beatDevice s
    if t.keeper.forming then (List.range 64).foldl (fun t d => sendJoin d t) t else t

def execHeartbeat (s : State) : Host.Outcome State Fault Refusal := .next (heartbeat s)

/-- PING on a worker that has joined: PONG. -/
def pingIn (p : Nat) (m : Msg) (s : State) : State :=
  if !s.keeper.joined then s
  else
    match takeCtrl p 0x13 m s with
    | none => s
    | some t => sendCtrl 0x15 m.srcDom.toNat m.srcDev.toNat (joinData t) t

def execPing (p : Port) (m : Msg) (s : State) : Host.Outcome State Fault Refusal := .next (pingIn p.val m s)

/-- PONG on the manager. -/
def pongIn (p : Nat) (m : Msg) (s : State) : State :=
  match takeCtrl p 0x15 m s with
  | none => s
  | some t => { t with keeper := { t.keeper with missed := AL.set 0 m.srcDev.toNat 0 t.keeper.missed } }

def execPong (p : Port) (m : Msg) (s : State) : Host.Outcome State Fault Refusal := .next (pongIn p.val m s)

/-- The module loses its job: JOB_FATAL records, and its metering interval closes (R298). -/
def loseJob (s : State) : State :=
  if jobState s = 0 ∨ jobState s = jobRecovering then s
  else rsetBits R.KPR_STAT 2 0 jobRecovering (closeInterval 8 (stopAll stJobFatal s))

/-- The standby takes the manager's role: its PCIe link goes down and retrains, for its host to enumerate afresh (R23, R300). -/
def takeOver (old : Nat) (s : State) : State :=
  let t := clearConfig (rset R.HIF_LINKSTAT 0 { s with pcie := { s.pcie with training := true }, keeper := { s.keeper with missed := [] } })
  deviceFailed old (rsetBit R.HIF_BOOT 12 (rsetBit R.KPR_STAT 4 (rsetBit R.KPR_STAT 5 t)))

/-- MANAGER_SILENCE (R300): a worker that has had no PING for three periods. The standby takes over and the job is in RECOVERING;
without a standby the worker disables its queues. -/
def managerSilence (s : State) : State :=
  if isManager s || !s.keeper.joined then s
  else if 64 ≤ standbyDev s ∨ s.keeper.tookOver then
    jobQueues.foldl (fun t q => queueDisable q t) s
  else
    let t : State := { s with keeper := { s.keeper with tookOver := true } }
    if myDev t = standbyDev t then takeOver (managerDev s) t else loseJob t

def execManagerSilence (s : State) : Host.Outcome State Fault Refusal := .next (managerSilence s)

/-- DOWN on the manager (R253, R285): cause 1 names a device in Holdfast, cause 0 a lost port. -/
def downIn (p : Nat) (m : Msg) (s : State) : State :=
  match takeCtrl p 0x22 m s with
  | none => s
  | some t =>
    if !isManager t || u m.data 1 1 != myDom t then t
    else if u m.data 3 1 = 1 then deviceFailed (u m.data 0 1) t
    else routeLost (u m.data 0 1) (u m.data 2 1) t

def execDown (p : Port) (m : Msg) (s : State) : Host.Outcome State Fault Refusal := .next (downIn p.val m s)

/-- FATAL (R352, R354): on the manager vector 130, and the job enters RECOVERING with no device failed. A worker takes one from its
manager as word that the job is in RECOVERING (R298, log 143). -/
def fatalIn (p : Nat) (m : Msg) (s : State) : State :=
  match takeCtrl p 0x23 m s with
  | none => s
  | some t =>
    if isManager t then recovering (stopAll stJobFatal (raiseVector 130 t))
    else if m.srcDom.toNat = myDom t ∧ m.srcDev.toNat = managerDev t then loseJob t
    else t

def execFatal (p : Port) (m : Msg) (s : State) : Host.Outcome State Fault Refusal := .next (fatalIn p.val m s)

/-! ### Job control: checks (R287, Tables 15.2 and 15.3) -/

def isJobOp (o : Op) : Bool :=
  o == .jobStart || o == .jobSuspend || o == .jobResume || o == .jobRelease || o == .jobEnd || o == .reshard || o == .remap ||
  o == .checkpoint || o == .meterCollect || o == .snapFetch

/-- Is the module a manager in a machine of several domains whose lead is another (R286)? -/
def otherLeads (s : State) : Bool :=
  isManager s && decide (1 < popCount 11 (rbits R.KPR_MACHINE 10 0 s)) && !rbit R.KPR_STAT 6 s

/-- Does a manager refuse job control on its own KQ0, since the job that the lead has handed to it is active (R286)? -/
def jobElsewhere (s : State) : Bool := otherLeads s && s.keeper.leadJob != 0 && s.keeper.leadJob == rget R.QFE_JOB s

/-- May the command start in the present job state (Table 15.3)? -/
def jobStateOk (o : Op) (s : State) : Bool :=
  match o, jobState s with
  | .meterCollect, _ => true
  | .snapFetch, _ => true
  | .jobStart, 0 => true
  | .jobResume, 0 => true
  | .jobSuspend, 1 => true
  | .reshard, 1 => true
  | .remap, 1 => true
  | .checkpoint, 1 => true
  | .jobEnd, 1 => true
  | .jobResume, 3 => true
  | .jobRelease, 3 => true
  | .remap, 5 => true
  | .jobEnd, 5 => true
  | _, _ => false

def layAddr (b : Bytes) : Nat := u b 24 6
def imageAddr (b : Bytes) : Nat := u b 16 6

/-- LAYOUT is 64-byte aligned in stacked memory, and its descriptor keeps its ranges (R288). -/
def layAddrBad (b : Bytes) (s : State) : Bool :=
  layAddr b % 64 != 0 || !inStacked (layAddr b) 64 || layBad (readBytes s (layAddr b) 64)

/-- A range of a suspension: base and length multiples of 64 KiB in stacked memory, nothing else but its CRC's place
(Table 8.8). -/
def rangeBad (e : Bytes) : Bool :=
  !onlyBits [byteRange 5 0, byteRange 23 8] e || u e 0 6 % 65536 != 0 || u e 8 8 % 65536 != 0 || !inStacked (u e 0 6) (u e 8 8)

def nRanges (b : Bytes) : Nat := u b 30 2
def rangeList (b : Bytes) (s : State) : List (Nat × Nat) :=
  (List.range (nRanges b)).map (fun i => (readNat s (layAddr b + 32 * i) 6, readNat s (layAddr b + 32 * i + 8) 8))

/-- A job-control command is malformed (R288, R295, R350, R385, R386). -/
def jobBad (o : Op) (b : Bytes) (s : State) : Bool :=
  match o with
  | .jobStart => !operandsOk [byteRange 19 16, byteRange 29 24] b || u b 16 4 == 0 || layAddrBad b s
  | .jobSuspend =>
    !operandsOk [byteRange 21 16, byteRange 31 24] b || imageAddr b % 65536 != 0 || decide (256 < nRanges b) ||
    (List.range (nRanges b)).any (fun i => rangeBad (readBytes s (layAddr b + 32 * i) 32))
  | .jobResume => !operandsOk [byteRange 21 16] b || imageAddr b % 65536 != 0
  | .reshard => !operandsOk [byteRange 17 16, byteRange 29 24] b || layAddrBad b s
  | .remap => !operandsOk [byteRange 17 16, byteRange 29 24] b || layAddrBad b s
  | .checkpoint => !operandsOk [byteRange 19 16] b
  | .snapFetch =>
    !operandsOk [byteRange 16 16, (137, 136), (143, 143), byteRange 29 24] b || decide (63 < u b 16 1) ||
    u b 24 6 % 65536 != 0 || !inStacked (u b 24 6) (524288 + 16 + 16384)
  | _ => !operandsOk [] b

/-- The command that the manager's Keeper has handed on: the one in progress here, or a new one. It makes no halt and no record here. -/
def handedCmd (h : Bytes) (s : State) : Started × State :=
  match s.started.find? (fun x => x.q == 44 && x.muted && x.bytes == h && x.state == .running) with
  | some x => (x, s)
  | none =>
    let x : Started := { id := s.nextCmd, turn := s.nextCmd, q := 44, bytes := h, muted := true }
    (x, { s with started := s.started ++ [x], nextCmd := s.nextCmd + 1 })

/-- A handed command that has ended leaves nothing behind. -/
def dropHanded (c : Nat) (s : State) : State :=
  { s with started := s.started.filter (fun x => x.id != c || x.state == .running) }

/-- Does the module take job-control commands from another: a worker that has joined from its manager (R287), a manager from the
machine's lead (R286, log 180)? -/
def takesHanded (s : State) : Bool := if isManager s then otherLeads s else s.keeper.joined

/-- A manager notes the job that the lead has handed to it. -/
def noteLead (s : State) : State :=
  if isManager s then { s with keeper := { s.keeper with leadJob := rget R.QFE_JOB s } } else s

/-- A job-control command runs here: on KQ0, or handed on. -/
def jobRun (o : Op) (j : JobCmd) (run : Started → State → State) (s : State) : State :=
  match j with
  | .started c => (match runningCmd c o s with | none => s | some x => run x s)
  | .handed h =>
    if !takesHanded s || opOfBytes h != some o then s
    else
      let p := handedCmd h s
      noteLead (dropHanded p.1.id (run p.1 p.2))

def setJob (v : Nat) (s : State) : State := rsetBits R.KPR_STAT 2 0 v s

/-- Address of the layout descriptor, which is in the manager's memory (R288). -/
def layPlace (b : Bytes) (s : State) : Nat := if isManager s then layAddr b else peerBase + peerSize * managerDev s + layAddr b

/-- The layout that a command names. -/
def layNamed (b : Bytes) (s : State) : Bytes := readBytes s (layPlace b s) 64

/-- JOIN again to every absent expected device when the job state returns to IDLE, after the module's own DOWN ports on
their routes have been set training (R284). -/
def rejoin (s : State) : State :=
  if !isManager s then s else
  (List.range 64).foldl (fun t d =>
    if expected d t && !present d t && d != myDev t then
      let t := match portTo (myDom t) d t with
        | some p => if portEnabled p t && portState p t == psDown then trainPort p t else t
        | none => t
      sendJoin d t
    else t) s

/-- A change of QFE_JOB closes the interval first (R301, Table 18.6). -/
def changeJob (cause tag job : Nat) (s : State) : State := setJob job (rset R.QFE_JOB tag (closeInterval cause s))

/-! ### JOB_START, JOB_RELEASE, JOB_END -/

/-- A layout's check, which the manager makes, with an unmapped or poisoned descriptor or tie list. -/
def layFails (b : Bytes) (s : State) : Option Nat × State :=
  let x := Lay.parse (readBytes s (layAddr b) 64)
  if !isManager s then (none, s) else
  match firstUnreached s x.ties (8 * x.nties) with
  | some e => (some (reachCause s e), captureReach e s)
  | none =>
    if poisoned s (layAddr b) 64 || poisoned s x.ties (8 * x.nties) then (some 0x0142, s)
    else if !inStacked (layAddr b) (64 * 65) then (some 0x0140, s)
    else (layCause x s, s)

/-- A layout comes into force with these runs of units; the manager writes its table after it. -/
def putLayout (b : Bytes) (runs : List (Nat × Nat × Nat)) (s : State) : State :=
  let raw := layNamed b s
  let t := if isManager s then poke (layAddr b + 64) ((Lay.parse raw).table runs) s else s
  { t with keeper := { t.keeper with layout := raw, runs := runs } }

/-- Where a worker's Keeper places the ring of queue q, its completion ring behind it (log 142). -/
def workerRing (q : Nat) : Nat := 4096 * (Config.ringPage q % (stackedEnd / 4096 - 6))

/-- A worker's Keeper places the rings of 256 entries and enables them at JOB_START (R29). -/
def enableRings (s : State) : State :=
  if isManager s then s
  else jobQueues.foldl (fun t q =>
    if qState q t ≠ 0 then t
    else queueEnable q (rset (R.QFE_Qn_SIZE q) 8 (rset (R.QFE_Qn_CBASE q) (workerRing q + 16384) (rset (R.QFE_Qn_BASE q) (workerRing q) t)))) s

/-- A worker's Keeper disables its rings at JOB_RELEASE and JOB_END (R29). -/
def disableRings (s : State) : State := if isManager s then s else jobQueues.foldl (fun t q => queueDisable q t) s

/-- JOB_START (R287 to R293). -/
def jobStartRun (x : Started) (s : State) : State :=
  match layFails x.bytes s with
  | (some cause, t) => failCmd x.id bKPR cause 0 t
  | (none, t) =>
    markDone x.id (enableRings (changeJob 1 (u x.bytes 16 4) 1 (putLayout x.bytes (Lay.parse (layNamed x.bytes t)).freshRuns t)))

def execJobStart (j : JobCmd) (s : State) : Host.Outcome State Fault Refusal := .next (jobRun .jobStart j jobStartRun s)

/-- JOB_RELEASE (R287): the images stay. -/
def jobReleaseRun (x : Started) (s : State) : State := markDone x.id (rejoin (changeJob 4 0 0 (disableRings s)))

def execJobRelease (j : JobCmd) (s : State) : Host.Outcome State Fault Refusal := .next (jobRun .jobRelease j jobReleaseRun s)

/-- JOB_END (R287): every queue of the job must be DISABLED. -/
def jobEndRun (x : Started) (s : State) : State :=
  let t := disableRings s
  if jobQueues.all (fun q => qState q t == 0) then markDone x.id (rejoin (changeJob 5 0 0 t)) else failCmd x.id bKPR 0x01B7 0 t

def execJobEnd (j : JobCmd) (s : State) : Host.Outcome State Fault Refusal := .next (jobRun .jobEnd j jobEndRun s)

/-! ### Bringing queues to a yield point (R32, R295) -/

/-- Nothing of the queue is left to start. -/
def queueEmpty (q : Nat) (s : State) : Bool :=
  !(qx q s).flights.any (·.more) && (qx q s).inbox.isEmpty && qHead q s == qTail q s

/-- A running queue enters STOPPING; an empty one, or one stalled at a STASH_PUT, already stands at a yield point (R214, R295). -/
def stopAtYield (s : State) (q : Nat) : State :=
  let st := qState q s
  if st = qRunning ∨ st = qStalled then
    let x : QueueX := { qx q s with before := st, yielded := queueEmpty q s || st == qStalled }
    rsetBits (R.QFE_Qn_STAT q) 7 4 2 (setQState q qStopping (setQx q x s))
  else s

/-- Does the queue stand at a yield point, with none of its commands at work? -/
def atYield (q : Nat) (s : State) : Bool :=
  let st := qState q s
  !working q s && (st == 0 || st == qHalted || st == qSuspended || (st == qStopping && ((qx q s).yielded || queueEmpty q s)))

def allAtYield (s : State) : Bool := jobQueues.all (fun q => atYield q s)

/-- A STOPPING queue returns to the state it came from. -/
def releaseYield (s : State) (q : Nat) : State :=
  let x := qx q s
  if qState q s = qStopping ∧ !x.closing then
    rsetBits (R.QFE_Qn_STAT q) 7 4 (if x.before = qStalled then 1 else 0) (setQState q x.before (setQx q { x with yielded := false } s))
  else s

/-! ### Suspend images (R160 to R162) -/

/-- Bytes of section 2: each open region's 32 bytes of fields and its 64-bit sums. -/
def accSection (s : State) : Nat := s.acc.foldl (fun a g => a + 32 + 8 * g.2.elements) 0

/-- Starts of the sections behind ranges of this total length, and the image's length. -/
def section2 (len : Nat) : Nat := 65536 + len
def section3 (len : Nat) (s : State) : Nat := roundUp (section2 len + accSection s) 65536
def section4 (len : Nat) (s : State) : Nat := roundUp (section3 len s + 16384) 65536
def imageTotal (len : Nat) (s : State) : Nat := section4 len s + 64 * 2 ^ 23 + 2 ^ 22

/-- Section 2: each open region's fields of Table 8.7 and its sums. -/
def accImage (s : State) : Bytes :=
  s.acc.flatMap (fun a =>
    padTo 32 (leBytes 1 a.1 ++ leBytes 1 (nb a.2.int) ++ leBytes 1 (unsigned 8 a.2.e) ++ leBytes 1 0 ++ leBytes 4 a.2.elements) ++
    (List.range a.2.elements).flatMap (fun i => leBytes 8 (AL.get 0 i a.2.sums)))

/-- Section 3: the marker counts. -/
def markerImage (s : State) : Bytes := (List.range 4096).flatMap (fun m => leBytes 4 (markerCount m s))

/-- CRC-64 of `n` bytes of memory from `a`, going on from c. -/
def crcMem (s : State) : Nat → Nat → Nat → Nat
  | 0, _, c => c
  | n + 1, a, c => crcMem s n (a + 1) (crc64From c [readByte s a])

/-- Spill-tier areas the module has been given (R161). -/
def givenAreas (s : State) : List (Nat × Nat) :=
  [(rget R.KVP_LPOOL_BASE s, 65536 * rget R.KVP_LPOOL_FRAMES s),
   (rget (R.STS_Dd_LBASE 0) s, 65536 * rget (R.STS_Dd_LFRAMES 0) s), (rget (R.STS_Dd_LBASE 1) s, 65536 * rget (R.STS_Dd_LFRAMES 1) s),
   (rget R.STR_D0_SPILL_BASE s, 2 ^ 20 * rget R.STR_SPILL_SIZE s), (rget R.STR_D1_SPILL_BASE s, 2 ^ 20 * rget R.STR_SPILL_SIZE s),
   (rget R.KPR_CKPT_BASE s, 4 * 2 ^ 30 * rget R.KPR_CKPT_SIZE s)]
  ++ (s.codecs.filter (fun v => v.2.isOpen)).map (fun v => let k := CU.parse v.2.units; (k.work, k.workMib * 2 ^ 20))

/-- Do two ranges meet? -/
def overlap (a la b lb : Nat) : Bool := la != 0 && lb != 0 && decide (a < b + lb) && decide (b < a + la)

/-- Is an image of `total` bytes at `a` refused (R161)? -/
def imageRefused (a total : Nat) (s : State) : Bool := !inSpill a total || (givenAreas s).any (fun r => overlap a total r.1 r.2)

/-- Registers that section 5 carries: queues, slots, page manager, accumulators, stash, streams and codec contexts. -/
def imageReg (off : Nat) : Bool :=
  (decide (R.QFE_Qn_BASE 0 ≤ off) && decide (off < R.QFE_Qn_BASE 44)) || (decide (R.KVP_FREE ≤ off) && decide (off < 0x600000)) ||
  (decide (R.SHC_ACC_OPEN0 ≤ off) && decide (off < 0x700000)) || (decide (R.VCH_Cnn_STAT 0 ≤ off) && decide (off < 0x400000)) ||
  (decide (R.STR_Snnn_STAT 0 ≤ off) && decide (off < 0xb00000)) || (decide (R.STS_Dd_FREE 0 ≤ off) && decide (off < 0xd00000)) ||
  (decide (R.CDC_Vnn_STAT 0 ≤ off) && decide (off < 0x1100000))

/-- The header with HCRC 0; the range CRCs and SCRC are put in. -/
def imageHeader (tag total scrc : Nat) (rs : List (Nat × Nat × Nat)) (hcrc : Nat) : Bytes :=
  let fixed := padTo 256 (leBytes 4 1 ++ leBytes 4 tag ++ leBytes 4 rs.length ++ leBytes 4 0 ++ leBytes 8 total ++ leBytes 8 hcrc)
  padTo 16384 (padTo 8448 (fixed ++ rs.flatMap (fun r => leBytes 8 r.1 ++ leBytes 8 r.2.1 ++ leBytes 8 r.2.2 ++ leBytes 8 0)) ++ leBytes 8 scrc)

/-- `n` pieces of 128 bytes are copied, the poison of each with it (R146). -/
def copyPieces : Nat → Nat → Nat → State → State
  | 0, _, _, s => s
  | n + 1, src, dst, s => copyPieces n (src + 128) (dst + 128) (writeMem dst (readBytes s src 128) s (poisoned s src 128)).s

/-- The saved bytes of the ranges, one after the other from `a`. -/
def saveRanges : Nat → List (Nat × Nat) → State → State
  | _, [], s => s
  | a, r :: t, s => saveRanges (a + r.2) t (copyPieces (r.2 / 128) r.1 a s)

/-- The queue enters SUSPENDED; one that stood HALTED returns to HALTED. A FLUSH that waited takes effect (R41). -/
def suspendQueue (s : State) (q : Nat) : State :=
  let st := qState q s
  let x := qx q s
  if st = qHalted then setQState q qSuspended (setQx q { x with before := qHalted } s)
  else if st = qStopping then
    let t := rsetBits (R.QFE_Qn_STAT q) 7 4 0 (setQState q qSuspended (setQx q { x with yielded := false } s))
    if x.flush then flushNow q t else t
  else s

/-- The image is written (R160). The bytes of sections 4 and 5 have no stated form: they are undefined to software, and what
they hold is kept beside them (log 54). -/
def writeImage (a : Nat) (ranges : List (Nat × Nat)) (s : State) : State :=
  let len := ranges.foldl (fun n r => n + r.2) 0
  let total := imageTotal len s
  let tag := s.freeCtr
  let rs := ranges.map (fun r => (r.1, r.2, crc64 (readBytes s r.1 r.2)))
  let t := storeBytes (a + section3 len s) (markerImage s) false (forgetRange (a + section4 len s) (a + total) s)
  let t := saveRanges (a + 65536) ranges (storeBytes (a + section2 len) (accImage s) false t)
  let scrc := crcMem t (total - section2 len) (a + section2 len) 0
  let hcrc := crc64 ((imageHeader (rget R.QFE_JOB s) total scrc rs 0).take 256)
  let img0 : SavedImage := { tag := tag, scrc := scrc, jobTag := rget R.QFE_JOB s, markers := s.markers, acc := s.acc, cores := s.cores }
  let img1 : SavedImage := { img0 with kvp := s.kvp, streams := s.streams, stash := s.stash, stashD := s.stashD, codecs := s.codecs }
  let img : SavedImage := { img1 with started := s.started.filter (fun x => x.q != 44), queues := s.queues.filter (fun x => x.1 != 44), regs := s.regs.filter (fun x => imageReg x.1) }
  storeBytes a (imageHeader (rget R.QFE_JOB s) total scrc rs hcrc) false { t with images := img :: t.images }

/-- JOB_SUSPEND (R295): begins by stopping the queues, and writes the image once they all stand at yield points. The manager cuts the
open buckets. -/
def jobSuspendRun (x : Started) (s : State) : State :=
  let c := x.id
  let rs := rangeList x.bytes s
  let len := rs.foldl (fun n r => n + r.2) 0
  if !x.begun then
    match firstUnreached s (layAddr x.bytes) (32 * nRanges x.bytes) with
    | some e => failCmd c bKPR (reachCause s e) 0 (captureReach e s)
    | none =>
      if imageRefused (imageAddr x.bytes) (imageTotal len s) s then failCmd c bKPR 0x01B4 0 s
      else
        let t := jobQueues.foldl stopAtYield (setJob 2 s)
        setProg c 1 (if isManager t then cutAllOpen t else t)
  else if allAtYield s && !relayPending c s then
    let t := jobQueues.foldl suspendQueue s
    markDone c (setJob 3 (closeInterval 2 (writeImage (imageAddr x.bytes) rs t)))
  else s

def execJobSuspend (j : JobCmd) (s : State) : Host.Outcome State Fault Refusal := .next (jobRun .jobSuspend j jobSuspendRun s)

/-- A handed command that a limit has ended leaves nothing behind. -/
def dropHandedFail (x : Started) (s : State) : State := if x.muted && x.q == 44 then dropHanded x.id s else s

/-- SUSPEND_TIMEOUT (R295): the suspension is abandoned before any image is written. -/
def suspendTimeout (s : State) : State :=
  if rbits R.KPR_SUSP_TO 15 0 s = 0 then s
  else
    match s.started.find? (fun x => x.state == .running && x.begun && opOfBytes x.bytes == some .jobSuspend) with
    | none => s
    | some x => dropHandedFail x (failCmd x.id bKPR 0x01B3 0 (setJob 1 (jobQueues.foldl releaseYield s)))

def execSuspendTimeout (s : State) : Host.Outcome State Fault Refusal := .next (suspendTimeout s)

/-- Ranges of an image in memory: base, length, CRC. -/
def imageRanges (a : Nat) (s : State) : List (Nat × Nat × Nat) :=
  (List.range (readNat s (a + 8) 4)).map (fun i =>
    let e := a + 256 + 32 * i
    (readNat s e 8, readNat s (e + 8) 8, readNat s (e + 16) 8))

/-- Range CRCs, from the first saved byte at `at`. -/
def rangesIntact (s : State) : Nat → List (Nat × Nat × Nat) → Bool
  | _, [] => true
  | a, r :: t => crc64 (readBytes s a r.2.1) == r.2.2 && rangesIntact s (a + r.2.1) t

/-- The image at `a` with what it holds, when every check of R162 passes. -/
def soundImage (a : Nat) (s : State) : Option (SavedImage × List (Nat × Nat × Nat)) :=
  if !inSpill a 65536 || poisoned s a 16384 then none
  else if readNat s a 4 ≠ 1 ∨ 256 < readNat s (a + 8) 4 then none
  else
    let h := readBytes s a 256
    let rs := imageRanges a s
    let s2 := section2 (rs.foldl (fun n r => n + r.2.1) 0)
    let total := readNat s (a + 16) 8
    let tag := readNat s (a + 4) 4
    if crc64 (patch h 24 (leBytes 8 0)) ≠ u h 24 8 ∨ (rget R.QFE_JOB s ≠ 0 ∧ rget R.QFE_JOB s ≠ tag) then none
    else if !inSpill a total || decide (total < s2) || !rangesIntact s (a + 65536) rs || poisoned s (a + s2) (total - s2) then none
    else if crcMem s (total - s2) (a + s2) 0 ≠ readNat s (a + 8448) 8 then none
    else (s.images.find? (fun g => g.jobTag == tag && readNat s (a + 8448) 8 == g.scrc)).map (fun g => (g, rs))

/-- The saved bytes of the ranges go back to their places. -/
def loadRanges : Nat → List (Nat × Nat × Nat) → State → State
  | _, [], s => s
  | a, r :: t, s => loadRanges (a + r.2.1) t (copyPieces (r.2.1 / 128) a r.1 s)

/-- A queue returns to the state it held when it was suspended. -/
def wakeQueue (s : State) (q : Nat) : State :=
  if qState q s = qSuspended then setQState q (qx q s).before s else s

/-- Registers of the queues, which a job that is still SUSPENDED here has kept. -/
def queueReg (off : Nat) : Bool := decide (R.QFE_Qn_BASE 0 ≤ off) && decide (off < R.QFE_Qn_BASE 44)

/-- What an image holds comes back, and the arms see the counts (R39); stacked memory that it does not name is undefined (R160). The
queues of a job that is still SUSPENDED here are as they stand: a FLUSH may have emptied one since (R41). -/
def restoreImage (a : Nat) (g : SavedImage) (rs : List (Nat × Nat × Nat)) (s : State) : State :=
  let live := jobState s == 3
  let back (off : Nat) : Bool := imageReg off && !(live && queueReg off)
  let regs := (g.regs.filter (fun x => back x.1)).foldl (fun l x => AL.set (resetOf x.1) x.1 x.2 l) (s.regs.filter (fun x => !back x.1))
  let t := loadRanges (a + 65536) rs (forgetRange 0 stackedEnd s)
  let t : State := { t with
    regs := regs, markers := g.markers, acc := g.acc, cores := g.cores, kvp := g.kvp, streams := g.streams,
    stash := g.stash, stashD := g.stashD, codecs := g.codecs }
  let t : State := if live then t
    else { t with queues := (t.queues.filter (fun x => x.1 == 44)) ++ g.queues,
                  started := g.started ++ t.started.filter (fun x => x.q == 44) }
  fireArms (jobQueues.foldl wakeQueue t)

/-- JOB_RESUME (R296): everything, or nothing with every queue of the job DISABLED. -/
def jobResumeRun (x : Started) (s : State) : State :=
  match soundImage (imageAddr x.bytes) s with
  | none => failCmd x.id bKPR 0x0145 0 (jobQueues.foldl (fun t q => if qState q t = 0 then t else disableQueue q t) s)
  | some (g, rs) => markDone x.id (changeJob 3 g.jobTag 1 (restoreImage (imageAddr x.bytes) g rs s))

def execJobResume (j : JobCmd) (s : State) : Host.Outcome State Fault Refusal := .next (jobRun .jobResume j jobResumeRun s)

/-! ### RESHARD and REMAP (R275, R292, R299) -/

/-- The fence to a new epoch on this module: none while a relay command is in progress. -/
def fenceTo (c e : Nat) (s : State) : Option State :=
  if e = epochNow s then some s else if relayPending c s then none else some (rset R.RLY_EPOCH e s)

/-- Before the fence, the open buckets that this module owns are cut. -/
def fenceCut (e : Nat) (s : State) : State :=
  if e = epochNow s then s else (openBuckets true s).foldl (fun t b => cutBucket b (epochNow t) t) s

/-- Ports to these devices that take no traffic (R253). -/
def lostPorts (ds : List Nat) (s : State) : List Nat :=
  (ds.filterMap (fun d => portTo (myDom s) d s)).filter (fun p => !portUsable p s)

/-- What has been sent to these devices is awaited (R247); a port that is lost fails the command (R253). -/
def awaitSent (c : Nat) (ds : List Nat) (a n : Nat) (s : State) : State :=
  let ps := distinct (ds.filterMap (fun d => portTo (myDom s) d s))
  let outs := ds.map (fun d => (peerBase + peerSize * d + a, n))
  updStarted c (fun y => { y with outs := outs })
    { s with keeper := { s.keeper with marks := ps.map (fun p => (p, (portx p s).handed.getD 0 0)) } }

/-- Devices other than this to which units of a list go. -/
def unitTargets (us : List Nat) (new : List (Nat × Nat × Nat)) (s : State) : List Nat :=
  distinct ((us.filterMap (fun un => ownerOf un new)).filter (fun d => d != myDev s))

/-- The phases of a command that waits for a fence, sends and waits for what it has sent: `ds` are the devices that it sends to,
`send` the sending, `finish` what follows. -/
def fencedRun (e : Nat) (x : Started) (ds : State → List Nat) (send finish : State → State) (s : State) : State :=
  let ends (t : State) : State := if quiet 0 t.keeper.marks t then markDone x.id (finish t) else t
  if x.prog = 2 then ends s
  else
    match fenceTo x.id e s with
    | none => s
    | some t =>
      match lostPorts (ds t) t with
      | p :: _ => failCmd x.id bKPR 0x0190 p t
      | [] => ends (awaitSent x.id (ds t) 0 peerSize (setProg x.id 2 (send t)))

/-- RESHARD (R292). -/
def reshardRun (x : Started) (s : State) : State :=
  let e := u x.bytes 16 2
  let go (x : Started) (t : State) : State :=
    let runs := (Lay.parse (layNamed x.bytes t)).freshRuns
    fencedRun e x (fun t => unitTargets (unitsOfDev (myDev t) t.keeper.runs) runs t) (fun t => moveUnits t.keeper.runs runs t)
      (putLayout x.bytes runs) t
  if x.begun then go x s
  else
    match layFails x.bytes s with
    | (some cause, t) => failCmd x.id bKPR cause 0 t
    | (none, t) => go { x with begun := true, prog := 1 } (fenceCut e (setProg x.id 1 t))

def execReshard (j : JobCmd) (s : State) : Host.Outcome State Fault Refusal := .next (jobRun .reshard j reshardRun s)

/-- Bytes of a generation (KPR_CKPT_SIZE), and where generation g of this module and of the mirror it keeps begin (R297). -/
def genBytes (s : State) : Nat := 2 ^ 30 * rbits R.KPR_CKPT_SIZE 8 0 s
def genAddr (g : Nat) (s : State) : Nat := rget R.KPR_CKPT_BASE s + g * genBytes s
def mirrorAddr (g : Nat) (s : State) : Nat := rget R.KPR_CKPT_BASE s + (2 + g) * genBytes s

def devicesOf (runs : List (Nat × Nat × Nat)) : List Nat := distinct (runs.map (·.1))

/-- Owners that are neither present nor this module. -/
def lostOwners (runs : List (Nat × Nat × Nat)) (s : State) : List Nat :=
  (devicesOf runs).filter (fun d => !present d s && d != myDev s)

/-- One lost owner's runs are divided among the owners of a layout (R291, R299). -/
def shareRuns (x : Lay) (runs : List (Nat × Nat × Nat)) (f : Nat) : List (Nat × Nat × Nat) :=
  let us := unitsOfDev f runs
  let parts := x.owners.zipIdx.flatMap (fun d =>
    let (i, n) := divideItems us.length x.owners.length d.2
    ((us.drop i).take n).map (fun un => (d.1, un, 1)))
  runs.filter (fun r => r.1 != f) ++ parts

/-- Adjoining runs of one device are joined. -/
def joinRuns : List (Nat × Nat × Nat) → List (Nat × Nat × Nat)
  | [] => []
  | r :: t =>
    match joinRuns t with
    | [] => [r]
    | y :: rest => if r.1 = y.1 ∧ r.2.1 + r.2.2 = y.2.1 then (r.1, r.2.1, r.2.2 + y.2.2) :: rest else r :: y :: rest

/-- Runs after a REMAP: surviving owners keep theirs; a layout with a new owner divides afresh. -/
def remapRuns (x : Lay) (runs : List (Nat × Nat × Nat)) : List (Nat × Nat × Nat) :=
  let old := devicesOf runs
  if x.owners.all (fun d => old.contains d) then
    joinRuns ((old.filter (fun d => !x.owners.contains d)).mergeSort.foldl (shareRuns x) runs)
  else x.freshRuns

/-- A unit saved at `a` goes to its owner's place: here, or by the links. -/
def restoreUnit (new : List (Nat × Nat × Nat)) (s : State) (k : Nat × Nat) : State :=
  let (un, a) := k
  match ownerOf un new with
  | none => s
  | some d =>
    (List.range 3).foldl (fun t i =>
      if d = myDev t then copyPieces (partBytes / 128) (a + partBytes * i) (Config.unitPlace un i) t
      else sendPart d un i (a + partBytes * i) t) s

/-- Units of a device in a generation, with the addresses at which they are saved. -/
def savedUnits (d a : Nat) (runs : List (Nat × Nat × Nat)) : List (Nat × Nat) :=
  (unitsOfDev d runs).zipIdx.map (fun k => (k.1, a + 3 * partBytes * k.2))

/-- Units that this module restores from generation g: its own, and those of lost owners whose mirror it keeps (R299). -/
def unitsToRestore (g : Nat) (gen : CkptGen) (s : State) : List (Nat × Nat) :=
  let lost := (lostOwners gen.runs s).filter (fun f => buddyOf (devicesOf gen.runs) f == some (myDev s))
  savedUnits (myDev s) (genAddr g s) gen.runs ++ lost.flatMap (fun f => savedUnits f (mirrorAddr g s) gen.runs)

def restoreUnits (g : Nat) (gen : CkptGen) (new : List (Nat × Nat × Nat)) (s : State) : State :=
  (unitsToRestore g gen s).foldl (restoreUnit new) s

/-- Is a lost owner's buddy lost as well, or is nothing committed (R299)? -/
def cannotRestore (s : State) : Bool :=
  match s.keeper.committed with
  | none => true
  | some g =>
    let runs := (AL.get {} g s.keeper.gens).runs
    let lost := lostOwners runs s
    lost.any (fun f => match buddyOf (devicesOf runs) f with | none => true | some b => lost.contains b)

/-- REMAP (R299). -/
def remapRun (x : Started) (s : State) : State :=
  let e := u x.bytes 16 2
  let go (x : Started) (t : State) : State :=
    let g := t.keeper.committed.getD 0
    let gen := AL.get {} g t.keeper.gens
    let runs := remapRuns (Lay.parse (layNamed x.bytes t)) gen.runs
    fencedRun e x (fun t => unitTargets ((unitsToRestore g gen t).map (·.1)) runs t) (restoreUnits g gen runs)
      (fun t => setJob 1 (closeInterval 6 (putLayout x.bytes runs t))) t
  if x.begun then go x s
  else
    match layFails x.bytes s with
    | (some cause, t) => failCmd x.id bKPR cause 0 t
    | (none, t) =>
      if cannotRestore t then failCmd x.id bKPR 0x01B5 0 t else go { x with begun := true, prog := 1 } (fenceCut e (setProg x.id 1 t))

def execRemap (j : JobCmd) (s : State) : Host.Outcome State Fault Refusal := .next (jobRun .remap j remapRun s)

/-! ### CHECKPOINT (R297) -/

/-- Bytes that owner d's generation needs. -/
def genNeed (d : Nat) (runs : List (Nat × Nat × Nat)) : Nat := (unitsOfDev d runs).length * (3 * partBytes) + 4096

/-- Why a CHECKPOINT cannot begin. -/
def checkpointFails (s : State) : Option Nat :=
  if genBytes s = 0 then some 0x01B5
  else if !inSpill (rget R.KPR_CKPT_BASE s) (4 * genBytes s) || (devicesOf s.keeper.runs).any (fun d => decide (genBytes s < genNeed d s.keeper.runs)) then
    some 0x01B8
  else none

/-- The generation that is written next: the older one. -/
def olderGen (s : State) : Nat := match s.keeper.committed with | none => 0 | some g => 1 - g

/-- This owner's units are copied into its generation, and a record of 4 KiB that the spec gives no form follows. -/
def copyGeneration (g : Nat) (s : State) : State :=
  let a := genAddr g s
  let us := savedUnits (myDev s) a s.keeper.runs
  if us.isEmpty then s
  else
    let t := us.foldl (fun t k => (List.range 3).foldl (fun t i =>
      copyPieces (partBytes / 128) (Config.unitPlace k.1 i) (k.2 + partBytes * i) t) t) s
    let e := a + 3 * partBytes * us.length
    forgetRange e (e + 4096) t

/-- The buddy that this module's units are mirrored to; none when it owns none. -/
def mirrorDev (s : State) : Option Nat :=
  if (unitsOfDev (myDev s) s.keeper.runs).isEmpty then none else buddyOf (devicesOf s.keeper.runs) (myDev s)

/-- The same bytes go to the buddy's mirror as WRITE messages, in pieces of a part's size, poison with them (R252). -/
def sendMirror (g d : Nat) (s : State) : State :=
  let n := (unitsOfDev (myDev s) s.keeper.runs).length
  let piece (t : State) (o len : Nat) : State :=
    let a := genAddr g t + o
    (sendMsg (mkMsg t 1 (myDom t) d (mirrorAddr g t + o) 0 (readBytes t a len) (poisoned t a len)) t).getD t
  piece ((List.range (3 * n)).foldl (fun t i => piece t (partBytes * i) partBytes) s) (3 * partBytes * n) 4096

/-- The generation is committed. -/
def commitGeneration (c g step : Nat) (s : State) : State :=
  let k := { s.keeper with gens := AL.set {} g { step := step, runs := s.keeper.runs } s.keeper.gens, committed := some g }
  markDone c (rsetBit R.KPR_EVT 4 (rset R.KPR_CKPT_STEP (step % 2 ^ 31 + g * 2 ^ 31) { s with keeper := k }))

/-- The mirror's messages go out and are awaited; a lost port fails the command (R253, R297). -/
def mirrorRun (c g step : Nat) (s : State) : State :=
  let ends (t : State) : State := if quiet 0 t.keeper.marks t then commitGeneration c g step t else t
  match mirrorDev s with
  | none => ends { s with keeper := { s.keeper with marks := [] } }
  | some d =>
    match lostPorts [d] s with
    | p :: _ => failCmd c bKPR 0x0190 p s
    | [] => ends (awaitSent c [d] (mirrorAddr g s) (genBytes s) (sendMirror g d s))

/-- CHECKPOINT: stop the queues, copy and release, mirror, commit. -/
def checkpointRun (x : Started) (s : State) : State :=
  let c := x.id
  let step := u x.bytes 16 4
  let g := olderGen s
  if !x.begun then
    match checkpointFails s with
    | some cause => failCmd c bKPR cause 0 s
    | none =>
      let t := jobQueues.foldl stopAtYield s
      setProg c 1 (if isManager t then cutAllOpen t else t)
  else if x.prog = 1 then
    if allAtYield s && !relayPending c s then mirrorRun c g step (setProg c 2 (jobQueues.foldl releaseYield (copyGeneration g s)))
    else s
  else if quiet 0 s.keeper.marks s then commitGeneration c g step s
  else s

def execCheckpoint (j : JobCmd) (s : State) : Host.Outcome State Fault Refusal := .next (jobRun .checkpoint j checkpointRun s)

/-! ### METER_COLLECT and SNAP_FETCH -/

/-- METER_COLLECT (R302): closes the interval, and completes when this module's closed records are in the ring. -/
def meterCollectRun (x : Started) (s : State) : State :=
  let t := if x.begun then s else closeInterval 7 (setProg x.id 0 s)
  let t := if isManager t then collectOwn 128 t else offerRecord t
  if (offered t).isEmpty then markDone x.id t else t

def execMeterCollect (j : JobCmd) (s : State) : Host.Outcome State Fault Refusal := .next (jobRun .meterCollect j meterCollectRun s)

/-- A bank's 512 KiB image, its NUM, INFO and TICK, and a 16 KiB image of the ERR block. -/
def fetchBytes (b : Nat) (s : State) : Bytes :=
  (List.range 131072).flatMap (fun i => leBytes 4 (imageWord b (4 * i) s)) ++ leBytes 4 (rget (R.SNP_Bb_NUM b) s)
    ++ leBytes 4 (rget (R.SNP_Bb_INFO b) s) ++ leBytes 8 (rget (R.SNP_Bb_TICK b) s)
    ++ padTo 16384 ((List.range 8).flatMap (fun i => leBytes 4 (rget (R.ERR_SNAP + 4 * i) s))
      ++ (List.range 8).flatMap (fun i => leBytes 4 (rget (R.ERR_CNT 0 + 4 * i) s))
      ++ leBytes 8 (rget R.ERR_LOG_HEAD s) ++ leBytes 8 (rget R.ERR_FATAL s) ++ List.replicate 176 0
      ++ (List.range 16).flatMap (fun i => leBytes 8 (rget (R.ERR_LOG i) s)))

/-- SNAP_FETCH (R350): this module's own bank, or a worker's, of which the contents, whether it is full and whether the worker is
in Holdfast are free values here (log 55). -/
def snapFetchRun (c : Nat) (s : State) : State :=
  match runningCmd c .snapFetch s with
  | none => s
  | some x =>
    let d := u x.bytes 16 1
    let b := u x.bytes 17 1 % 4
    let a := u x.bytes 24 6
    if d = myDev s then
      if !bankFull b s then failCmd c bSNP 0x01D1 0 s
      else
        let t := poke a (fetchBytes b s) s
        markDone c (if bitAt (u x.bytes 17 1) 7 then releaseBank b t else t)
    else if !present d s then failCmd c bSNP 0x01D0 0 s
    else
      let t := bumpFree s
      let n := Config.freeNat s.freeCtr % 3
      if n < 2 then failCmd c bSNP (0x01D0 + n) 0 t
      else markDone c (forgetRange a (a + 524288 + 16 + 16384) t)

def execSnapFetch (c : Nat) (s : State) : Host.Outcome State Fault Refusal := .next (snapFetchRun c s)

end Sys2Proof.Machine
end

