-- ==== Sys2Proof/Machine/Clock.lean ====
section
/-! DEFINITION. Power budget tokens (R322, R323), clock targets and frequency changes (R320, R324), and the clamping of
governed fields (R324, Table 17.5). -/

namespace Sys2Proof.Machine

/-! ### The books (R323) -/

def tokHeld (s : State) : Nat := rbits R.PWR_TOK 31 16 s
def tokReserve (s : State) : Nat := rbits R.PWR_TOK 47 32 s
def tokCeil (s : State) : Nat := rbits R.PWR_TOK 63 48 s

/-- FREE: negative after the ceiling has been lowered below what is held and reserved. -/
def tokFree (s : State) : Int := (tokCeil s : Int) - (tokReserve s : Int) - (tokHeld s : Int)

/-- PWR_TOK shows these quantities. -/
def putTokens (ceil reserve held : Nat) (s : State) : State :=
  rset R.PWR_TOK (unsigned 16 ((ceil : Int) - (reserve : Int) - (held : Int)) + ((held % 2 ^ 16) <<< 16)
    + ((reserve % 2 ^ 16) <<< 32) + ((ceil % 2 ^ 16) <<< 48)) s

/-- HELD becomes `h`. -/
def putHeld (h : Nat) (s : State) : State := putTokens (tokCeil s) (tokReserve s) h s

/-- Costs of Table 17.4. -/
def coreCost (f : Nat) : Nat := if f ≤ 20 then 40 else if f ≤ 25 then 52 else if f ≤ 30 then 65 else if f ≤ 35 then 81 else if f ≤ 40 then 100 else 133
def bankCost (f : Nat) : Nat := if f ≤ 4 then 300 else 700
def islandCost (n f : Nat) : Nat := if n < 64 then coreCost f else bankCost f

def clkTarget (n : Nat) (s : State) : Nat := rbits (R.PWR_Inn_CLK n) 7 0 s
def clkCurrent (n : Nat) (s : State) : Nat := rbits (R.PWR_Inn_CLK n) 15 8 s
def clkTokens (n : Nat) (s : State) : Nat := rbits (R.PWR_Inn_CLK n) 31 16 s

/-- The consumer of island n holds `k` tokens: TOKENS, HELD and FREE. -/
def setTokens (n k : Nat) (s : State) : State :=
  putHeld (tokHeld s - clkTokens n s + k) (rsetBits (R.PWR_Inn_CLK n) 31 16 k s)

/-- Island whose consumer is meant; the vertical interfaces have none of their own. -/
def islandOf : Consumer → Option Nat
  | .core n => some n.val
  | .bank k => some (64 + k.val)
  | .vert _ => none
  | .port p => some (89 + p.val)

/-- Tokens a consumer holds. -/
def tokensOf (x : Consumer) (s : State) : Nat :=
  match x with
  | .vert k => if s.power.vert.contains k.val then 300 else 0
  | .core n => clkTokens n.val s
  | .bank k => clkTokens (64 + k.val) s
  | .port p => clkTokens (89 + p.val) s

/-- Frequency of island n, or the one it is rising to: its consumer starts with the tokens of the higher. -/
def clkHeading (n : Nat) (s : State) : Nat := max (clkCurrent n s) ((findKey n s.power.changing).getD 0)

/-- Tokens a consumer needs to start. -/
def needs (x : Consumer) (s : State) : Nat :=
  match x with
  | .core n => coreCost (clkHeading n.val s)
  | .bank k => bankCost (clkHeading (64 + k.val) s)
  | .vert _ => 300
  | .port _ => 97

def askTokens (x : Consumer) (k : Nat) (s : State) : State :=
  { s with power := { s.power with requests := s.power.requests ++ [(x, k)] } }

def hasAsked (x : Consumer) (s : State) : Bool := s.power.requests.any (fun r => r.1 == x)

/-! ### Frequencies (R320, R321, R325) -/

/-- Valid core frequencies, in units of 100 MHz, highest first. -/
def coreSteps : List Nat := [44, 40, 35, 30, 25, 20]

/-- The highest valid frequency of island n that is not above f; the lowest valid one where there is none. -/
def snapDown (n f : Nat) : Nat := if n < 64 then (coreSteps.find? (fun g => decide (g ≤ f))).getD 20 else if 8 ≤ f then 8 else 4

/-- Do the caps of Neap apply, now or on leaving Slack? -/
def neapCaps (s : State) : Bool := pwrState s == 1 || (pwrState s == 2 && neapDue s)

/-- Frequency that island n should run at, by TARGET, boost, Neap and throttling. -/
def wanted (n : Nat) (s : State) : Nat :=
  let t := clkTarget n s
  if n < 64 then
    let t := if t = 44 && !(rbit R.PWR_CTL 2 s && rbit R.PWR_CEIL_CLK 8 s) then 40 else t
    let t := if neapCaps s then min t 20 else t
    min t (AL.get 44 n s.power.throttle)
  else if neapCaps s then min t 4 else t

/-- The consumer of a core or bank island. -/
def consumerOf (n : Nat) : Consumer := if n < 64 then .core (Fin.ofNat 64 n) else .bank (Fin.ofNat 8 (n - 64))

/-- Island n moves towards the frequency it should have (R322): downward, or with no tokens held, the change begins; upward
it asks for the difference first. While a request or a change is on its way it waits for that. -/
def retarget (n : Nat) (s : State) : State :=
  let w := wanted n s
  let c := clkCurrent n s
  if w = c || s.power.changing.any (fun x => x.1 == n) then s
  else if w < c || (clkTokens n s = 0 && !hasAsked (consumerOf n) s) then
    { s with power := { s.power with changing := s.power.changing ++ [(n, w)] } }
  else if hasAsked (consumerOf n) s then s
  else askTokens (consumerOf n) (islandCost n w - islandCost n c) s

def retargetAll (s : State) : State := (List.range 72).foldl (fun t n => retarget n t) s

/-- PWR_STAT.BOOSTING. -/
def showBoost (s : State) : State :=
  rsetBits R.PWR_STAT 8 8 (nb ((List.range 64).any (fun n => clkCurrent n s == 44))) s

/-- FREQUENCY_CHANGE_DONE (R320, R322): the island runs at its new frequency; tokens beyond its cost are released. -/
def frequencyDone (n : Nat) (s : State) : State :=
  match findKey n s.power.changing with
  | none => s
  | some f =>
    let t : State := { s with power := { s.power with changing := s.power.changing.filter (fun x => x.1 != n) } }
    let t := rsetBits (R.PWR_Inn_CLK n) 15 8 f t
    let t := if clkTokens n t = 0 then t else setTokens n (islandCost n f) t
    retarget n (showBoost t)

def execFrequencyChangeDone (n : Island) (s : State) : Host.Outcome State Fault Refusal := .next (frequencyDone n.val s)

/-! ### Requests, grants and releases (R322) -/

/-- Is a consumer about to become active, so that it asks for its tokens? -/
def mayAsk (x : Consumer) (s : State) : Bool :=
  !inHoldfast s && tokensOf x s == 0 && !hasAsked x s &&
  (match x with
   | .core n => domainOn n.val s && (!(corex n.val s).ready.isEmpty || (corex n.val s).run.isSome)
   | .bank _ => !bankHeld s
   | .vert _ => pwrState s != 2
   | .port p => portEnabled p.val s && portState p.val s == psDisabled)

/-- TOKEN_REQUEST. -/
def tokenRequest (x : Consumer) (s : State) : State := if mayAsk x s then askTokens x (needs x s) s else s

def execTokenRequest (u : Consumer) (s : State) : Host.Outcome State Fault Refusal := .next (tokenRequest u s)

/-- A grant of k tokens reaches island n: a consumer that starts keeps what it needs; one that rises in frequency begins the
change as far as its tokens go. -/
def grantIsland (n k : Nat) (s : State) : State :=
  let h := clkTokens n s
  if h = 0 ∨ 72 ≤ n then
    let t := setTokens n (if n < 72 then islandCost n (clkHeading n s) else k) s
    if n < 72 then retarget n t else portWake (n - 89) t
  else
    let w := wanted n s
    let c := clkCurrent n s
    if w ≤ c then retarget n s
    else
      let f := if n < 64 then (coreSteps.find? (fun g => decide (g ≤ w) && decide (coreCost g ≤ h + k))).getD c else w
      let t := setTokens n (h + k) s
      { t with power := { t.power with changing := t.power.changing ++ [(n, f)] } }

/-- TOKEN_GRANT: the oldest request, when FREE covers it; the cycles of its wait are a free value (log 30). -/
def tokenGrant (s : State) : State :=
  match s.power.requests with
  | [] => s
  | (x, k) :: rest =>
    if (k : Int) ≤ tokFree s then
      let t : State := { s with power := { s.power with requests := rest } }
      let t := bumpFree (rcountBy R.PWR_WAITCYC (Config.freeNat t.freeCtr) t)
      match islandOf x with
      | some n => grantIsland n k t
      | none =>
        (match x with
         | .vert z => putHeld (tokHeld t + k) { t with power := { t.power with vert := t.power.vert ++ [z.val] } }
         | _ => t)
    else s

def execTokenGrant (s : State) : Host.Outcome State Fault Refusal := .next (tokenGrant s)

/-- Does a bank command at work include stack z? -/
def bankUses (z : Nat) (s : State) : Bool :=
  s.started.any (fun x => (match opOfBytes x.bytes with | some o => isBankOp o && (bankStacks o x.bytes s).contains z | none => false)
    && (match x.state with | .failed _ => false | _ => true))

/-- Has the consumer stopped? -/
def hasStopped (x : Consumer) (s : State) : Bool :=
  match x with
  | .core n => (corex n.val s).ready.isEmpty && (corex n.val s).run.isNone
  | .bank k => !bankUses k.val s
  | .vert k => rbit (R.MEM_Sn_STAT k.val) 12 s
  | .port p => portState p.val s == psDisabled

/-- TOKEN_RELEASE: a consumer that has stopped gives its tokens back, and takes back a request for more. -/
def tokenRelease (x : Consumer) (s : State) : State :=
  if hasStopped x s && tokensOf x s != 0 then
    let t : State := { s with power := { s.power with requests := s.power.requests.filter (fun r => !(r.1 == x)) } }
    match x with
    | .vert k => putHeld (tokHeld t - 300) { t with power := { t.power with vert := t.power.vert.filter (fun z => z != k.val) } }
    | .core n => setTokens n.val 0 t
    | .bank k => setTokens (64 + k.val) 0 t
    | .port p => setTokens (89 + p.val) 0 t
  else s

def execTokenRelease (u : Consumer) (s : State) : Host.Outcome State Fault Refusal := .next (tokenRelease u s)

/-! ### Governed fields (R324, Table 17.5) -/

/-- A write was clamped. -/
def clamped (s : State) : State := rsetBit R.PWR_EVT 2 (rcountSat R.PWR_CLAMPS s)

def ceilCore (s : State) : Nat := if rbit R.PWR_CEIL_CLK 8 s then rbits R.PWR_CEIL_CLK 7 0 s else min 40 (rbits R.PWR_CEIL_CLK 7 0 s)
def ceilBank (s : State) : Nat := rbits R.PWR_CEIL_CLK 23 16 s

/-- Ceiling of the TARGET of island n, as a valid frequency. -/
def ceilTarget (n : Nat) (s : State) : Nat := snapDown n (if n < 64 then ceilCore s else ceilBank s)

/-- CLOCK_TARGET_WRITE (Table 17.8): an invalid value is stored as the next lower valid one, a value above the ceiling as the
ceiling. The other islands' TARGET is RO. -/
def clockTarget (n v : Nat) (s : State) : State :=
  if 72 ≤ n then s
  else
    let f := snapDown n v
    let t := if f = v then s else misuse bPWR s
    let g := min f (ceilTarget n t)
    let t := if g = f then t else clamped t
    retarget n (rsetBits (R.PWR_Inn_CLK n) 7 0 g t)

def execClockTargetWrite (n : Island) (v : BitVec 8) (s : State) : Host.Outcome State Fault Refusal := .next (clockTarget n.val v.toNat s)

/-- Governed bits hi:lo of a register are lowered to `c` when they lie above it. -/
def lower (off hi lo c : Nat) (s : State) : State := if c < rbits off hi lo s then rsetBits off hi lo c s else s

/-- Every governed field comes down to its ceiling at once (R324). -/
def lowerGoverned (s : State) : State :=
  let t := (List.range 72).foldl (fun t n => lower (R.PWR_Inn_CLK n) 7 0 (ceilTarget n t) t) s
  let t := lower R.PWR_THERM 7 0 (rbits R.PWR_CEIL_THERM 7 0 t) t
  let t := lower R.PWR_THERM 15 8 (rbits R.PWR_CEIL_THERM 15 8 t) t
  let t := lower R.PWR_THERM 23 16 (rbits R.PWR_CEIL_THERM 31 24 t) t
  let t := showDepthOfPool (lower R.KVP_PF 7 0 (rbits R.PWR_CEIL_PF 7 0 t) t)
  let t := lower R.STS_WATER 31 16 (rbits R.PWR_CEIL_STS 15 0 t) t
  let t := lower R.RLY_DEADLINE 31 0 (rget R.PWR_CEIL_DL t) t
  retargetAll t

/-- Images of the six ceiling registers (Table 18.4) come into force. -/
def putCeilings (w clk therm pf sts dl : Nat) (s : State) : State :=
  let t := rset R.PWR_CEIL_W w (rset R.PWR_CEIL_CLK clk (rset R.PWR_CEIL_THERM therm
    (rset R.PWR_CEIL_PF pf (rset R.PWR_CEIL_STS sts (rset R.PWR_CEIL_DL dl s)))))
  let t : State := { t with naust := { t.naust with minCeil := min t.naust.minCeil w } }
  lowerGoverned (putTokens (8 * w) (tokReserve t) (tokHeld t) t)

end Sys2Proof.Machine
end

