-- ==== Sys2Proof/Machine/Naust.lean ====
section
/-! DEFINITION. Naust (chapter 18): image verification, anti-rollback counters, ceilings from the operator, the signing and
acknowledgement of metering records, and attestation. SPDM messages have the layouts of DSP0274, versions 1.2 and 1.3
(log 56); keys, signatures and hashes are free functions (log 7). -/

namespace Sys2Proof.Machine

/-! ### Flash (Table 22.4) -/

def flashSize (r : Nat) : Nat := if r < 2 then 65 * 2 ^ 20 else if r = 2 then 1 else if r = 3 then 64 else 1024

/-- A byte of a flash region; erased bytes are unlisted and read as 0xFF. -/
def flashByte (r off : Nat) (s : State) : Byte := AL.get 0xFF off ((findKey r s.mgmt.flash).getD [])

def flashBytes (r off n : Nat) (s : State) : Bytes := (List.range n).map (fun i => flashByte r (off + i) s)

def ascii (x : String) : Bytes := x.toList.map (fun c => BitVec.ofNat 8 c.toNat)

def zeros (n : Nat) : Bytes := List.replicate n 0

def allZero (b : Bytes) : Bool := b.all (fun x => x == 0)

/-! ### Keeper images (R331 to R333) -/

/-- Does the image of slot r pass every check of R331? -/
def imageAccepted (r : Nat) (s : State) : Bool :=
  let h := flashBytes r 0 1024 s
  let len := u h 16 4
  u h 0 4 == 0x4B575146 && u h 4 4 == 1 && allZero (slice h 52 12) && allZero (slice h 452 60) && allZero (slice h 896 128) &&
  Config.hash 256 (slice h 64 388) == s.naust.qorwyn &&
  Config.verifies (slice h 64 388) (ascii "qorwyn-longshore-keeper-v1" ++ h.take 512) (slice h 512 384) &&
  decide (u h 8 4 ≤ 127) && decide (s.naust.keeperCtr ≤ u h 8 4) && decide (2 ^ 20 ≤ len) && decide (len ≤ 64 * 2 ^ 20) &&
  Config.hash 256 (flashBytes r 1024 len s) == slice h 20 32

/-- NST_FWHASH shows measurement block 2. -/
def showFwHash (b : Bytes) (s : State) : State := (List.range 8).foldl (fun t i => rset (R.NST_FWHASH i) (u b (4 * i) 4) t) s

/-- The accepted image runs: measured, and the Keeper cores may be released. -/
def takeImage (r : Nat) (s : State) : State :=
  let h := flashBytes r 0 1024 s
  let m := Config.hash 256 (h ++ flashBytes r 1024 (u h 16 4) s)
  let n := { s.naust with runSvn := u h 8 4, fwVersion := u h 12 4, fwHash := m }
  showFwHash m (rsetBits R.NST_STAT 1 0 (r + 1) { s with naust := n, boot := { s.boot with verified := true } })

/-- COMMIT_SVN (R333): the counter is burnt up to the running image's SVN; it never falls. -/
def commitSvn (s : State) : State :=
  if s.boot.verified && decide (s.naust.keeperCtr < s.naust.runSvn) then
    rsetBits R.NST_CTR 7 0 s.naust.runSvn { s with naust := { s.naust with keeperCtr := s.naust.runSvn } }
  else s

def execCommitSvn (s : State) : Host.Outcome State Fault Refusal := .next (commitSvn s)

/-! ### Ceilings (R338, R339) -/

/-- Hash of the active operator key: that of the highest programmed slot. -/
def activeKey (s : State) : Option Bytes := s.naust.opKeys.getLast?

/-- Are the ceilings of a record no higher than the defaults of Table 17.5, in order, and without reserved bits? -/
def ceilingsOk (b : Bytes) : Bool :=
  let clk := u b 68 4
  let th := u b 72 4
  decide (u b 64 4 ≤ 2800) && onlyBits [(8, 0), (23, 16)] (leBytes 4 clk) && decide (bits clk 7 0 ≤ 44) &&
  decide (bits clk 23 16 ≤ 8) && decide (bits th 7 0 ≤ 95) && decide (bits th 15 8 ≤ 105) && decide (bits th 23 16 ≤ 115) &&
  decide (bits th 31 24 ≤ 45) && decide (bits th 7 0 < bits th 15 8) && decide (bits th 15 8 < bits th 23 16) &&
  decide (u b 76 4 ≤ 255) && decide (u b 80 4 ≤ 65535) && decide (u b 84 4 ≤ 40000000)

def recEnroll (b : Bytes) : Bool := bitAt (u b 6 1) 1
def recAdvance (b : Bytes) : Bool := bitAt (u b 6 1) 0

/-- Fixed fields and reserved bits of a ceiling record (Table 18.4). -/
def recFixed (b : Bytes) : Bool :=
  u b 0 4 == 0x43455146 && u b 4 2 == 1 && decide (u b 6 1 < 4) && u b 7 1 == 0 && decide (u b 16 4 ≤ 255) &&
  allZero (slice b 20 12) && (recEnroll b || allZero (slice b 32 32)) && allZero (slice b 88 40) && allZero (slice b 516 124)

/-- Is the key that signed the record one that may: the active key; or, for the first enrolment over the management bus, the
key that NEW_HASH names? -/
def recKeyOk (bus : Bool) (b : Bytes) (s : State) : Bool :=
  let k := Config.hash 256 (slice b 128 388)
  match activeKey s with
  | some a => k == a && !(recEnroll b && decide (4 ≤ s.naust.opKeys.length))
  | none => recEnroll b && bus && k == slice b 32 32

def recordAccepted (bus : Bool) (b : Bytes) (s : State) : Bool :=
  recFixed b && (u b 8 8 == 0 || u b 8 8 == rget R.NST_SERIAL s) && recKeyOk bus b s &&
  Config.verifies (slice b 128 388) (ascii "qorwyn-longshore-ceiling-v1" ++ b.take 640) (slice b 640 384) &&
  decide (s.naust.ceilCtr ≤ u b 16 4) && ceilingsOk b

/-- NEW_HASH is burnt into the next empty slot, which becomes active. -/
def enrol (b : Bytes) (s : State) : State :=
  let n := s.naust.opKeys.length
  rsetBit R.NST_EVT 3 (rsetBits R.NST_STAT 7 6 n (rsetBit R.NST_STAT 5
    { s with naust := { s.naust with opKeys := s.naust.opKeys ++ [slice b 32 32] } }))

/-- An accepted record takes effect at once. -/
def takeRecord (b : Bytes) (s : State) : State :=
  let t := putCeilings (u b 64 4) (u b 68 4) (u b 72 4) (u b 76 4) (u b 80 4) (u b 84 4) s
  let t := rsetBit R.NST_STAT 8 { t with naust := { t.naust with ceilHash := Config.hash 256 b } }
  let t := if recAdvance b then rsetBits R.NST_CTR 15 8 (u b 16 4) { t with naust := { t.naust with ceilCtr := u b 16 4 } } else t
  if recEnroll b then enrol b t else t

/-- Naust checks the ceiling region; an erased region holds no record (log 57). -/
def checkCeilings (bus : Bool) (s : State) : State :=
  let b := flashBytes 4 0 1024 s
  if b.all (fun x => x == 0xFF) then s
  else if recordAccepted bus b s then takeRecord b s
  else rsetBit R.NST_EVT 1 (rcountSat R.NST_CEIL_REJ s)

/-- CEIL_RELOAD. -/
def execCeilReload (s : State) : Host.Outcome State Fault Refusal := .next (if s.boot.naust then checkCeilings false s else s)

/-! ### Metering records (R340, R341) -/

/-- CLOSE_NOW. -/
def execCloseNow (s : State) : Host.Outcome State Fault Refusal := .next (if s.boot.naust then closeInterval 10 s else s)

/-- NST_MACK: SEQ of the oldest held record. -/
def nstMack (v : Nat) (s : State) : State :=
  match offered s with
  | [] => misuse bNST s
  | r :: _ => acknowledge v r.bootId s

def execNstMack (v : BitVec 32) (s : State) : Host.Outcome State Fault Refusal := .next (nstMack v.toNat s)

/-- A record with PREV_HASH and SIG put in; SIG stays 0 when the identity is lost (R334). -/
def signedBytes (b : Bytes) (s : State) : Bytes :=
  let b := patch b 320 (hash32 s.naust.prevHash)
  if rbit R.NST_STAT 4 s then b
  else patch b 640 (padTo 384 (Config.sign s.freeCtr (ascii "qorwyn-longshore-meter-v1" ++ b.take 640)))

/-- The first record of a list that is not signed is replaced. -/
def signFirst (f : MeterRec → MeterRec) : List MeterRec → List MeterRec
  | [] => []
  | r :: t => if r.signed then r :: signFirst f t else f r :: t

/-- The oldest unsigned record is signed: records are signed in SEQ order. -/
def signNext (s : State) : State :=
  match s.naust.held.find? (fun r => !r.signed) with
  | none => s
  | some r =>
    let b := signedBytes r.bytes s
    bumpFree { s with naust := { s.naust with
      held := signFirst (fun r => { r with bytes := b, signed := true }) s.naust.held, prevHash := Config.hash 256 b } }

/-- RECORD_SIGNED: the signature is complete, and the record is offered for collection (R302, R341). -/
def recordSigned (s : State) : State :=
  if s.naust.held.any (fun r => !r.signed) then
    let t := signNext s
    if isManager t then collectOwn 128 t else offerRecord t
  else s

def execRecordSigned (s : State) : Host.Outcome State Fault Refusal := .next (recordSigned s)

/-! ### Attestation (R334 to R337) -/

/-- A response goes to the DOE mailbox; request and response join the connection's transcript. -/
def respond (req resp : Bytes) (s : State) : State :=
  { s with pcie := { s.pcie with doe := some resp }, naust := { s.naust with transcript := s.naust.transcript ++ req ++ resp } }

/-- Version byte of a response. -/
def spdmByte (s : State) : Nat := if s.naust.spdmVer = 0 then 0x10 else s.naust.spdmVer

/-- ERROR with a code and its extension byte. -/
def spdmError (code ext : Nat) (s : State) : State :=
  { s with pcie := { s.pcie with doe := some [BitVec.ofNat 8 (spdmByte s), 0x7F, BitVec.ofNat 8 code, BitVec.ofNat 8 ext] } }

def errInvalid : Nat := 1
def errUnexpected : Nat := 4
def errUnspecified : Nat := 5
def errUnsupported : Nat := 7
def errVersion : Nat := 0x41

def spdmCode (req : Bytes) : Nat := u req 1 1

/-- A request of this code, when Naust is there to answer it through Keeper core 0; others leave the state as it is. -/
def asked (code : Nat) (req : Bytes) (s : State) (f : State → State) : State :=
  if s.boot.released && spdmCode req == code then f s else s

/-- A request that the connection must have reached `stage` for, in the version in use. -/
def inStage (stage : Nat) (req : Bytes) (s : State) (f : State → State) : State :=
  if s.naust.spdmStage < stage then spdmError errUnexpected 0 s
  else if u req 0 1 ≠ s.naust.spdmVer then spdmError errVersion 0 s
  else f s

/-- GET_VERSION starts the connection anew: VERSION with 1.2 and 1.3. -/
def getVersion (req : Bytes) (s : State) : State :=
  asked 0x84 req s (fun s =>
    let t : State := { s with naust := { s.naust with spdmVer := 0, spdmStage := 1, transcript := [] } }
    if u req 0 1 ≠ 0x10 then spdmError errVersion 0 t
    else respond req ([0x10, 0x04, 0, 0, 0, 2] ++ leBytes 2 0x1200 ++ leBytes 2 0x1300) t)

def execGetVersion (req : Bytes) (s : State) : Host.Outcome State Fault Refusal := .next (getVersion req s)

/-- GET_CAPABILITIES: CERT_CAP, CHAL_CAP, MEAS_CAP 2, CTExponent 14. The transfer sizes are free values. -/
def getCapabilities (req : Bytes) (s : State) : State :=
  asked 0xE1 req s (fun s =>
    if s.naust.spdmStage < 1 then spdmError errUnexpected 0 s
    else if u req 0 1 ≠ 0x12 ∧ u req 0 1 ≠ 0x13 then spdmError errVersion 0 s
    else
      let t : State := { s with naust := { s.naust with spdmVer := u req 0 1, spdmStage := 2 } }
      bumpFree (respond req (leBytes 1 (u req 0 1) ++ [0x61, 0, 0, 0, 14, 0, 0] ++ leBytes 4 0x16
        ++ leBytes 8 (Config.freeNat s.freeCtr)) t))

def execGetCapabilities (req : Bytes) (s : State) : Host.Outcome State Fault Refusal := .next (getCapabilities req s)

/-- NEGOTIATE_ALGORITHMS: what is offered of RSAPSS_3072 and SHA_256 is selected; neither offered is an invalid request. -/
def negotiate (req : Bytes) (s : State) : State :=
  asked 0xE3 req s (fun s => inStage 2 req s (fun s =>
    let asym := nb (bitAt (u req 8 4) 3)
    let hash := nb (bitAt (u req 12 4) 0)
    if asym + hash = 0 then spdmError errInvalid 0 s
    else
      let t : State := { s with naust := { s.naust with spdmStage := 3 } }
      respond req (leBytes 1 s.naust.spdmVer ++ [0x63, 0, 0] ++ leBytes 2 36 ++ [1, 0] ++ leBytes 4 2 ++ leBytes 4 (8 * asym)
        ++ leBytes 4 hash ++ zeros 16) t))

def execNegotiateAlgorithms (req : Bytes) (s : State) : Host.Outcome State Fault Refusal := .next (negotiate req s)

/-- The certificate chain of slot 0: 8 KiB at most (R335). -/
def certChain : Bytes := (Config.certificate 0).take 8192

/-- GET_DIGESTS: slot 0 only. -/
def getDigests (req : Bytes) (s : State) : State :=
  asked 0x81 req s (fun s => inStage 3 req s (fun s =>
    respond req (leBytes 1 s.naust.spdmVer ++ [0x01, BitVec.ofNat 8 (nb (s.naust.spdmVer == 0x13)), 1] ++ hash32 (Config.hash 256 certChain)) s))

def execGetDigests (req : Bytes) (s : State) : Host.Outcome State Fault Refusal := .next (getDigests req s)

/-- GET_CERTIFICATE: slot 0, in portions of up to 1,024 bytes. -/
def getCertificate (req : Bytes) (s : State) : State :=
  asked 0x82 req s (fun s => inStage 3 req s (fun s =>
    let off := u req 4 2
    let n := min (min (u req 6 2) 1024) (certChain.length - off)
    if u req 2 1 % 16 ≠ 0 ∨ certChain.length ≤ off then spdmError errInvalid 0 s
    else
      respond req (leBytes 1 s.naust.spdmVer ++ [0x02, 0, 0] ++ leBytes 2 n ++ leBytes 2 (certChain.length - off - n)
        ++ slice certChain off n) s))

def execGetCertificate (req : Bytes) (s : State) : Host.Outcome State Fault Refusal := .next (getCertificate req s)

/-- A measurement block (Table 18.3) in the DMTF form: value type with bit 7 for a raw value. -/
def measBlock (index type : Nat) (v : Bytes) : Bytes :=
  leBytes 1 index ++ [1] ++ leBytes 2 (v.length + 3) ++ leBytes 1 type ++ leBytes 2 v.length ++ v

/-- Contents of a measurement block. -/
def measurement (i : Nat) (s : State) : Option Bytes :=
  match i with
  | 1 => some (measBlock 1 0 (hash32 Config.romHash))
  | 2 => some (measBlock 2 1 (hash32 s.naust.fwHash))
  | 3 => some (measBlock 3 3 (hash32 s.naust.cfgHash))
  | 4 => some (measBlock 4 3 (hash32 s.naust.ceilHash))
  | 5 => some (measBlock 5 0x82 (leBytes 1 (rbits R.HIF_IDENT 7 0 s) ++ leBytes 1 s.naust.keeperCtr ++ leBytes 1 s.naust.ceilCtr
      ++ leBytes 1 (rbits R.NST_STAT 7 6 s)))
  | 6 => some (measBlock 6 0x82 (hash32 ((activeKey s).getD [])))
  | _ => none

def allMeasurements (s : State) : Bytes := (List.range 6).flatMap (fun i => (measurement (i + 1) s).getD [])

/-- 32 random bytes of Naust's generator. -/
def nonce (n : Nat) : Bytes := (List.range 32).map (Config.randomByte n)

/-- What a signed response's signature covers: the signing context of the version, and the transcript's hash. -/
def spdmSign (what : String) (pad : Nat) (req resp : Bytes) (s : State) : Bytes :=
  let v := if s.naust.spdmVer = 0x13 then ascii "dmtf-spdm-v1.3.*" else ascii "dmtf-spdm-v1.2.*"
  padTo 384 (Config.sign s.freeCtr (v ++ v ++ v ++ v ++ zeros pad ++ ascii what
    ++ hash32 (Config.hash 256 (s.naust.transcript ++ req ++ resp))))

def idLost (s : State) : Bool := rbit R.NST_STAT 4 s

/-- Version 1.3 echoes the requester's context of eight bytes. -/
def echoContext (req : Bytes) (off : Nat) (s : State) : Bytes := if s.naust.spdmVer = 0x13 then padTo 8 (slice req off 8) else []

/-- CHALLENGE: CHALLENGE_AUTH signed by the identity key. -/
def challenge (req : Bytes) (s : State) : State :=
  asked 0x83 req s (fun s => inStage 3 req s (fun s =>
    let sum := u req 3 1
    if u req 2 1 % 16 ≠ 0 ∨ (sum ≠ 0 ∧ sum ≠ 0xFF) then spdmError errInvalid 0 s
    else if idLost s then spdmError errUnspecified 0 s
    else
      let body := leBytes 1 s.naust.spdmVer ++ [0x03, 0, 1] ++ hash32 (Config.hash 256 certChain) ++ nonce s.freeCtr
        ++ (if sum = 0xFF then hash32 (Config.hash 256 (allMeasurements s)) else []) ++ leBytes 2 0 ++ echoContext req 36 s
      bumpFree (respond req (body ++ spdmSign "responder-challenge_auth signing" 4 req body s) s)))

def execChallenge (req : Bytes) (s : State) : Host.Outcome State Fault Refusal := .next (challenge req s)

/-- GET_MEASUREMENTS: one block, all of them, or with operation 0 their number; signed on request, by the key of slot 0. -/
def getMeasurements (req : Bytes) (s : State) : State :=
  asked 0xE0 req s (fun s => inStage 3 req s (fun s =>
    let op := u req 3 1
    let wantSig := bitAt (u req 2 1) 0
    if (6 < op ∧ op ≠ 0xFF) ∨ (wantSig ∧ u req 36 1 % 16 ≠ 0) then spdmError errInvalid 0 s
    else if wantSig && idLost s then spdmError errUnspecified 0 s
    else
      let rec_ := if op = 0 then [] else if op = 0xFF then allMeasurements s else (measurement op s).getD []
      let body := leBytes 1 s.naust.spdmVer ++ [0x60] ++ leBytes 1 (if op = 0 then 6 else 0) ++ [0]
        ++ leBytes 1 (if op = 0 then 0 else if op = 0xFF then 6 else 1) ++ leBytes 3 rec_.length ++ rec_ ++ nonce s.freeCtr
        ++ leBytes 2 0 ++ echoContext req (if wantSig then 37 else 4) s
      bumpFree (respond req (if wantSig then body ++ spdmSign "responder-measurements signing" 6 req body s else body) s)))

def execGetMeasurements (req : Bytes) (s : State) : Host.Outcome State Fault Refusal := .next (getMeasurements req s)

/-- Request codes of Table 18.2. -/
def spdmKnown : List Nat := [0x81, 0x82, 0x83, 0x84, 0xE0, 0xE1, 0xE3]

/-- Any other request code: ERROR with UnsupportedRequest. -/
def unsupportedRequest (req : Bytes) (s : State) : State :=
  if s.boot.released && !spdmKnown.contains (spdmCode req) then spdmError errUnsupported (spdmCode req) s else s

def execUnsupportedRequest (req : Bytes) (s : State) : Host.Outcome State Fault Refusal := .next (unsupportedRequest req s)

/-- DOE_ABORT: the response that has not been read is discarded (R337). -/
def doeAbort (s : State) : State := { s with pcie := { s.pcie with doe := none } }

def execDoeAbort (s : State) : Host.Outcome State Fault Refusal := .next (doeAbort s)

end Sys2Proof.Machine
end

