-- ==== Sys2Proof/Machine/Power.lean ====
section
/-! DEFINITION. The power controller's events (chapter 17): input and sensor readings, module states, holds, Slack, and the
shut-down that ends entry to Holdfast; and the meter's ticks (R294). -/

namespace Sys2Proof.Machine

/-! ### Module states (R321) -/

/-- Spring or Neap, as NEAP_REQ and the forced causes say; the islands follow. -/
def settlePower (s : State) : State :=
  let t :=
    if pwrState s = 0 ∧ neapDue s then setPwrState 1 s
    else if pwrState s = 1 ∧ !neapDue s then setPwrState 0 s
    else s
  retargetAll t

/-- NEAP_REQ: PWR_CTL bit 0 is written. -/
def neapReq (on : Bool) (s : State) : State := settlePower (rsetBits R.PWR_CTL 0 0 (nb on) s)

def execNeapReq (on : Bool) (s : State) : Host.Outcome State Fault Refusal := .next (neapReq on s)

/-- Does nothing of the module's work run? -/
def atRest (s : State) : Bool :=
  !s.started.any (fun x => match x.state with | .failed _ => false | _ => true) && s.cores.all (fun k => k.2.ready.isEmpty && k.2.run.isNone)

/-- The stacks and the spill tier are in self-refresh. -/
def selfRefresh (on : Bool) (s : State) : State :=
  rsetBits R.SPL_STAT 2 2 (nb on) ((List.range 8).foldl (fun t k => rsetBits (R.MEM_Sn_STAT k) 12 12 (nb on) t) s)

/-- SLACK_ENTRY: SLACK_DWELL has passed with nothing started, running or counted as work. -/
def slackEntry (s : State) : State :=
  if (pwrState s = 0 ∨ pwrState s = 1) ∧ rbit R.PWR_CTL 1 s ∧ atRest s then
    let t := selfRefresh true (setPwrState 2 s)
    slackDomains.foldl (fun t d => setDomain d false t) { t with power := { t.power with waking := t.power.waking.filter (fun d => !slackDomains.contains d) } }
  else s

def execSlackEntry (s : State) : Host.Outcome State Fault Refusal := .next (slackEntry s)

/-- DOMAIN_WAKE_DONE (R319): the domain is on. A stack leaves self-refresh once its interface holds its tokens (R322). -/
def domainWakeDone (d : Nat) (s : State) : State :=
  if !s.power.waking.contains d || (decide (72 ≤ d) && decide (d < 80) && !s.power.vert.contains (d - 72)) then s
  else
    let t := setDomain d true { s with power := { s.power with waking := s.power.waking.filter (fun x => x != d) } }
    if 72 ≤ d ∧ d < 80 then rclrBit (R.MEM_Sn_STAT (d - 72)) 12 t
    else if d = 129 then rclrBit R.SPL_STAT 2 t
    else t

def execDomainWakeDone (d : Domain) (s : State) : Host.Outcome State Fault Refusal := .next (domainWakeDone d.val s)

/-! ### The input (R317) -/

/-- PWR_EVT and vector 132 for a power or thermal event (Table 2.14, log 58). -/
def powerEvent (i : Nat) (s : State) : State := raiseVector 132 (rsetBit R.PWR_EVT i s)

/-- A forced cause of PWR_STAT bit `i`, event bit `e`: it begins when its condition is met, and ends when that has been
absent for `limit` looks; `clear` counts them. -/
def forced (i e limit : Nat) (met : Bool) (clear : Nat) (s : State) : State × Nat :=
  if met then (if rbit R.PWR_STAT i s then s else powerEvent e (rsetBit R.PWR_STAT i s), 0)
  else if limit ≤ clear + 1 then (rclrBit R.PWR_STAT i s, limit)
  else (s, clear + 1)

/-- One more sample in a row, or none. -/
def runOf (b : Bool) (n : Nat) : Nat := if b then n + 1 else 0

/-- The sample joins the open interval: energy, and the mean power of the last 10 ms. -/
def meterSample (mV amps watt : Nat) (s : State) : State :=
  let ws := (watt :: s.naust.samples).take 1000
  let mean := if ws.length = 1000 then ws.foldl (· + ·) 0 / 1000 else 0
  { s with naust := { s.naust with energy := s.naust.energy + mV * amps, samples := ws, peakW := max s.naust.peakW mean } }

/-- INPUT_SAMPLE: every 10 us. -/
def inputSample (i : InputSample) (s : State) : State :=
  let mV := i.mV.toNat
  let w := i.watt.toNat
  let t := meterSample mV i.amps.toNat w (rset R.PWR_INPUT (mV + (i.amps.toNat <<< 16) + (w <<< 32)) s)
  let p := t.power
  let u40 := runOf (decide (mV < 40000)) p.under40
  let u38 := runOf (decide (mV < 38000)) p.under38
  let o52 := runOf (decide (52000 < mV)) p.over52
  let oc := runOf (decide (rget R.PWR_CEIL_W t < w)) p.overCeil
  let (t, cv) := forced 4 3 10000 (decide (100 ≤ u40)) p.clearV t
  let (t, cp) := forced 6 5 10000 (decide (1000 ≤ oc)) p.clearP t
  let t := settlePower { t with power := { t.power with under40 := u40, under38 := u38, over52 := o52, overCeil := oc, clearV := cv, clearP := cp } }
  if u38 = 5 ∨ o52 = 5 then emergency hfInput 0 t else t

def execInputSample (i : InputSample) (s : State) : Host.Outcome State Fault Refusal := .next (inputSample i s)

/-! ### Temperatures (R325 to R328) -/

def tThr (s : State) : Nat := rbits R.PWR_THERM 7 0 s
def tHold (s : State) : Nat := rbits R.PWR_THERM 15 8 s
def tInMax (s : State) : Nat := rbits R.PWR_THERM 23 16 s
def tHyst (s : State) : Nat := rbits R.PWR_THERM 27 24 s
def tCrit (s : State) : Nat := rbits R.PWR_CEIL_THERM 23 16 s

def maxOf (l : List Nat) : Nat := l.foldl max 0

/-- Highest die reading that PWR_TEMP shows. -/
def shownMax (s : State) : Nat := max (max (rbits R.PWR_TEMP 7 0 s) (rbits R.PWR_TEMP 15 8 s)) (rbits R.PWR_TEMP 23 16 s)

/-- One step down, or up, of a core's highest frequency. -/
def stepDown (f : Nat) : Nat := snapDown 0 (f - 1)
def stepUp (f : Nat) : Nat := if f = 40 then 44 else f + 5

/-- Reading `r` next to core n (R325): down one step at T_THR or more; up one step after every tenth reading HYST or more
below it. -/
def throttleCore (s : State) (x : Nat × Nat) : State :=
  let (n, r) := x
  let cap := AL.get 44 n s.power.throttle
  let put (cap cool : Nat) (t : State) : State :=
    { t with power := { t.power with throttle := AL.set 44 n cap t.power.throttle, cool := AL.set 0 n cool t.power.cool } }
  if tThr s ≤ r then
    let low := stepDown (min cap (clkCurrent n s))
    let t := put low 0 s
    let t := if low < clkCurrent n s then (if rbit R.PWR_EVT 6 t then t else powerEvent 6 t) else t
    retarget n t
  else if cap < 44 ∧ r + tHyst s ≤ tThr s then
    let k := AL.get 0 n s.power.cool + 1
    if k < 10 then put cap k s else retarget n (put (stepUp cap) 0 s)
  else put cap 0 s

/-- A hold begins (R326). -/
def beginHold (s : State) : State :=
  let t := snapOn R.PWR_CTL 3 5 bPWR (rcountSat R.PWR_HOLDS (powerEvent 1 (rsetBit R.PWR_STAT 7 s)))
  relayHold t

/-- A hold ends; what it stopped goes on. -/
def endHold (s : State) : State :=
  let t := relayRelease (rclrBit R.PWR_STAT 7 s)
  if enginesHeld t then t else resumeRelay t

/-- Sensor readings of the dies in one list: CD0, CD1, HD (log 59). -/
def dieReadings (r : SensorReading) : List Nat := r.cd0 ++ r.cd1 ++ r.hd

/-- Emergencies of R328 that a reading shows: each arises once. -/
def thermalEmergency (r : SensorReading) (before : Nat × Nat) (s : State) : State :=
  let ds := dieReadings r
  let t :=
    match ds.findIdx? (fun x => decide (tCrit s ≤ x)) with
    | some i => if inHoldfast s && decide (tCrit s ≤ before.1) then s else emergency hfDie i s
    | none => s
  if tInMax t + 10 ≤ r.inlet && !(inHoldfast s && decide (tInMax t + 10 ≤ before.2)) then emergency hfCoolant ds.length t else t

/-- The readings are shown, the coolant may force Neap, and the cores next to hot sensors are throttled (R325, R327). -/
def takeReadings (r : SensorReading) (s : State) : State :=
  let t := rset R.PWR_TEMP (maxOf r.cd0 % 256 + ((maxOf r.cd1 % 256) <<< 8) + ((maxOf r.hd % 256) <<< 16) + ((r.inlet % 256) <<< 24)) s
  let (t, c) := forced 5 4 1000 (decide (tInMax t ≤ r.inlet)) t.power.clearT t
  let t := settlePower { t with power := { t.power with clearT := c } }
  ((List.range 64).zip r.nearest).foldl throttleCore t

/-- A hold begins when a die reads T_HOLD or more, and ends when all read HYST or more below it (R326). -/
def holdByReadings (ds : List Nat) (s : State) : State :=
  if inHoldfast s then s
  else if !rbit R.PWR_STAT 7 s && ds.any (fun x => decide (tHold s ≤ x)) then beginHold s
  else if rbit R.PWR_STAT 7 s && ds.all (fun x => decide (x + tHyst s ≤ tHold s)) then endHold s
  else s

/-- SENSOR_READ: every 100 us. -/
def sensorRead (r : SensorReading) (s : State) : State :=
  thermalEmergency r (shownMax s, rbits R.PWR_TEMP 31 24 s) (holdByReadings (dieReadings r) (takeReadings r s))

def execSensorRead (r : SensorReading) (s : State) : Host.Outcome State Fault Refusal := .next (sensorRead r s)

/-- HOLD_TIMEOUT: the hold has lasted PWR_HOLD_TO. -/
def holdTimeout (s : State) : State := if rbit R.PWR_STAT 7 s && !inHoldfast s then emergency hfHold 0 s else s

def execHoldTimeout (s : State) : Host.Outcome State Fault Refusal := .next (holdTimeout s)

/-! ### The end of entry to Holdfast (R329, Table 17.6) -/

/-- Domains that Holdfast switches off (Table 17.1). -/
def holdfastDomains : List Nat := List.range 138 ++ [142, 143, 144]

/-- A DOWN notice with cause Holdfast leaves on port p; then the port is switched off. -/
def noticePort (s : State) (p : Nat) : State :=
  let t := if portUp p s then sendOn p (ctrlMsg s 0x22 (myDom s) (managerDev s) (padTo 16
    (leBytes 1 (myDev s) ++ leBytes 1 (myDom s) ++ leBytes 1 p ++ leBytes 1 1))) s else s
  setPortState p psDisabled (setPortx p {} t)

/-- The records closed so far are signed; the newest goes to the manager. -/
def sendLast (s : State) : State :=
  let t := (List.range meterBuffer).foldl (fun t _ => signNext t) s
  match t.naust.held.getLast? with
  | none => t
  | some r =>
    if isManager t then (if inHost (rget R.KPR_MREC_BASE t) (1024 * mrecSlots t) then collectOwn 128 t else t)
    else sendCtrl 0x25 (myDom t) (managerDev t) (padTo 1024 r.bytes) t

/-- HOLDFAST_SHUTDOWN: the domains go off, memory goes into self-refresh with its contents undefined, the interval closes,
the record and the DOWN notices go out, and the ports are switched off. -/
def holdfastShutdown (sent : Bool) (s : State) : State :=
  if !inHoldfast s || s.power.shutDown then s
  else
    let t := forgetRange spillBase spillEnd (forgetRange 0 stackedEnd (selfRefresh true s))
    let t := closeInterval 9 { t with started := [], power := { t.power with shutDown := true, waking := [] } }
    let t := if sent then sendLast t else t
    let t := (List.range 24).foldl noticePort t
    holdfastDomains.foldl (fun t d => setDomain d false t) t

def execHoldfastShutdown (recordSent : Bool) (s : State) : Host.Outcome State Fault Refusal := .next (holdfastShutdown recordSent s)

/-! ### The meter (R294, R340) -/

/-- Why a core waits for the piece of a read (R191): a baton, the spill tier or a spill area, or memory. -/
def readCause (h : Share) (b : Bytes) (n : Nat) (s : State) (r : PRead) : Nat :=
  if isAttn b && batonShut b (attnPiece h r.2) s then 6
  else if isAttn b && pageShut (attnPiece h r.2) s then 9
  else
    match (streamx (streamOf n h.bwd r.1) s).pieces.find? (fun p => p.c == h.c && p.key == r.2) with
    | none => 11
    | some p =>
      let far (x : Nat × Nat) : Bool := match reach s x.1 with | .mem o => inSpill o 1 | _ => false
      if p.spill.isSome || (p.via.isNone && p.ranges.any far) then 9 else 11

/-- Idle causes of a core whose share stands before pieces that have not landed. -/
def pieceCauses (n : Nat) (s : State) : List Nat :=
  match (corex n s).run with
  | none => []
  | some h =>
    match startedAt h.c s with
    | none => []
    | some x =>
      ((stepOf (((coreWalk h x.bytes n)[h.pos]?).getD [])).filter (fun r => !readLanded n h s r)).map (readCause h x.bytes n s)

/-- Has the core a share, or a tile still to leave it? -/
def hasWork (n : Nat) (s : State) : Bool := let k := corex n s; !k.ready.isEmpty || k.run.isSome || !k.ftq.isEmpty

/-- Idle causes of core n that the module's state shows (Table 15.6): the job's state, readout, a hold, tokens or a waking domain,
its pieces, no share. -/
def idleCauses (n : Nat) (s : State) : List Nat :=
  (if jobState s = 3 then [1] else []) ++ (if jobState s = jobRecovering then [2] else []) ++ (if s.snap.frozen.isEmpty then [] else [3])
    ++ (if hasWork n s && (rbit R.PWR_STAT 7 s || !s.relay.holds.isEmpty) then [4] else [])
    ++ (if hasAsked (.core (Fin.ofNat 64 n)) s || (!(corex n s).ready.isEmpty && s.power.waking.contains n) then [5] else [])
    ++ pieceCauses n s ++ (if hasWork n s then [] else [15])

/-- Bin of a core at a tick: none is BUSY, which a core with work may be. In Holdfast every core counts HOLDFAST; else the least
cause that the state shows or that the tick brings; with none NO_WORK. -/
def tickBin (s : State) (n : Nat) (c : CoreTick) : Option Nat :=
  if inHoldfast s then some 0
  else
    let more : List Nat := match c with | .busy => [] | .idle l => l.map (·.val)
    if c = .busy ∧ hasWork n s then none
    else
      let l := idleCauses n s ++ more
      some ((leastBelow 16 (fun i => l.contains i)).getD 15)

/-- A core counts in the bin. -/
def countBin (s : State) (b : Option Nat) : State :=
  match b with
  | none => rset R.KPR_BUSY ((rget R.KPR_BUSY s + 1) % 2 ^ 64) s
  | some i => rset (R.KPR_IDLE i) ((rget (R.KPR_IDLE i) s + 1) % 2 ^ 64) s

/-- METER_TICK: each of the 64 cores counts in one bin, and the module's state in one. -/
def meterTick (cores : List CoreTick) (s : State) : State :=
  if s.boot.naust then
    let t := ((List.range 64).map (fun i => tickBin s i (cores.getD i (.idle [])))).foldl countBin s
    let k := pwrState t
    { t with naust := { t.naust with tick := t.naust.tick + 1, states := t.naust.states.set k (t.naust.states.getD k 0 + 1) } }
  else s

def execMeterTick (cores : List CoreTick) (s : State) : Host.Outcome State Fault Refusal := .next (meterTick cores s)

end Sys2Proof.Machine
end

