-- ==== Sys2Proof/Machine/Queue.lean ====
section
/-! DEFINITION. The queue front end (chapter 02): doorbells and marker windows, the head check of an entry, the start and
the completion of commands, halts and resumption here and on workers, and the marker commands. -/

namespace Sys2Proof.Machine

/-! ### Doorbells and marker windows (R26, R33) -/

/-- Is the PCIe link up, and does the function decode BARs (R21, R23)? -/
def barsDecode (s : State) : Bool := rbit R.HIF_LINKSTAT 14 s && !s.pcie.d3hot

/-- Does the host reach BAR 0 and the doorbells and marker windows of BAR 2 of this module (Table 2.2)? -/
def hostDecodes (s : State) : Bool := isManager s && barsDecode s

/-- A rejected doorbell (R26). -/
def rejectDoorbell (q : Nat) (s : State) : State := misuse bQFE (rsetBit (R.QFE_Qn_STAT q) 9 s)

/-- Does a new tail keep to R26? -/
def tailOk (q v : Nat) (s : State) : Bool :=
  let n := ringSize q s
  decide (v < n) && decide ((qTail q s + n - qHead q s) % n ≤ (v + n - qHead q s) % n)

/-- DOORBELL_WRITE: ignored in Holdfast (R22). -/
def doorbell (q v : Nat) (s : State) : State :=
  if !hostDecodes s || inHoldfast s then s
  else if qState q s = 0 ∨ !tailOk q v s then rejectDoorbell q s
  else leaveSlack (rset (R.QFE_Qn_TAIL q) v s)

def execDoorbellWrite (q : Qn) (tail : BitVec 32) (s : State) : Host.Outcome State Fault Refusal := .next (doorbell q.val tail.toNat s)

/-- A write of a marker window; ignored in Holdfast. -/
def markerWindow (m v : Nat) (s : State) : State := if !hostDecodes s || inHoldfast s then s else markerInc m v (leaveSlack s)

/-- MARKER_WINDOW_WRITE: a host's write, or an add that the Keeper requests (R33). -/
def markerAsk (who : Requester) (m v : Nat) (s : State) : State :=
  match who with
  | .host => markerWindow m v s
  | .keeper => if s.boot.released && !inHoldfast s then markerInc m v s else s

def execMarkerWindowWrite (m : MarkerPort) (v : BitVec 32) (s : State) : Host.Outcome State Fault Refusal :=
  .next (markerAsk m.who m.marker.val v.toNat s)

/-! ### The marker commands -/

def markerOf (b : Bytes) : Nat := u b 16 2 % 4096
def markerCmdBad (b : Bytes) : Bool := !operandsOk [(139, 128), byteRange 23 20] b

/-- MARKER_ADD. -/
def markerAddRun (c : Nat) (s : State) : State :=
  match runningCmd c .markerAdd s with
  | none => s
  | some x => markDone c (markerInc (markerOf x.bytes) (u x.bytes 20 4) s)

def execMarkerAdd (c : Nat) (s : State) : Host.Outcome State Fault Refusal := .next (markerAddRun c s)

/-- MARKER_SET. -/
def markerSetRun (c : Nat) (s : State) : State :=
  match runningCmd c .markerSet s with
  | none => s
  | some x => markDone c (markerPut (markerOf x.bytes) (u x.bytes 20 4) s)

def execMarkerSet (c : Nat) (s : State) : Host.Outcome State Fault Refusal := .next (markerSetRun c s)

/-- NOP. -/
def nopRun (c : Nat) (s : State) : State :=
  match runningCmd c .nop s with
  | none => s
  | some _ => markDone c s

def execNop (c : Nat) (s : State) : Host.Outcome State Fault Refusal := .next (nopRun c s)

/-! ### The head of a ring (R388, R387, R28) -/

/-- May queue q start an entry or a command? A STOPPING queue goes on to its yield point (R32); one that is being disabled
does not (R389). -/
def mayStart (q : Nat) (s : State) : Bool :=
  !inHoldfast s && memoryAwake s &&
  (qState q s == qRunning || (qState q s == qStopping && !(qx q s).closing && !(qx q s).yielded))

/-- Do the entry's own fields make it malformed? -/
def entryBad (b : Bytes) : Bool :=
  let k := u b 2 1
  decide (2 < k) || u b 3 1 / 2 != 0 || (k == 1 && (u b 4 4 == 0 || decide (1048576 < u b 4 4))) || u b 14 2 != 0 ||
  u b 8 6 % 32 != 0 || decide (63 < u b 28 1) || u b 29 3 != 0 || (k != 2 && !allZero (slice b 32 32))

/-- Does a list lie wholly within one of the ranges of R387? -/
def listMapped (a len : Nat) (s : State) : Bool := inStacked a len || inSpill a len || (isManager s && inHost a len)

/-- An entry halts as a whole. -/
def haltEntry (q idx status detail : Nat) (s : State) : State :=
  haltQueue q { status := status, idx := idx, whole := true, detail := detail } s

/-- First address of a list that lies outside the ranges of R387. DESIGN CHOICE (log 141): where every byte of the list is
mapped, but some in a region that R387 does not allow, the next edge of the address map. -/
def listFault (a len : Nat) (s : State) : Nat := if unmappedAt s a then a else (firstUnreached s a len).getD (nextEdge a)

/-- Forwarded entries of queue q unfinished on one device. -/
def forwardedTo (d q : Nat) (s : State) : Nat := (s.fwds.filter (fun f => f.1 == d && f.2.1 == q)).length

/-- ADDR of an ENTRY message: the manager's ring index and the queue (log 60). -/
def entryMsgAddr (q idx : Nat) : Nat := idx % 65536 + (q <<< 16)

/-- The list that goes with a forwarded entry. -/
def listBytes (f : Flight) (s : State) : Bytes := if f.kind = 1 then readBytes s f.listAddr (32 * f.units) else []

/-- The entry, its 64 bytes and its list go to the device it names; it has started. Nothing happens while no port can take
the message. -/
def forwardEntry (q : Nat) (f : Flight) (s : State) : State :=
  let raw := readBytes s (entryAddr q f.idx s) 64
  let bad := f.kind == 1 && poisoned s f.listAddr (32 * f.units)
  match sendMsg (mkMsg s 6 (myDom s) f.target (entryMsgAddr q f.idx) 0 (raw ++ listBytes f s) bad) s with
  | none => s
  | some t =>
    let g := { f with sent := true }
    let rest := (qx q t).flights.filter (fun x => x.idx != f.idx)
    let t := entryStarts q f t
    setQx q { qx q t with flights := rest ++ [g] } { t with fwds := t.fwds ++ [(f.target, q, f.idx)] }

/-- The checks of R388 in their order, then the entry's beginning. -/
def checkEntry (q : Nat) (raw : Bytes) (f : Flight) (s : State) : State :=
  if entryBad raw then haltEntry q f.idx stMalformed 0 s
  else if f.target ≠ myDev s ∧ !present f.target s then haltEntry q f.idx stOutOfState 0x0007 s
  else if f.kind == 1 && !listMapped f.listAddr (32 * f.units) s then
    haltEntry q f.idx stContained 0x0140 (captureUnmapped (listFault f.listAddr (32 * f.units) s) (reportError 2 bQFE 0x0140 q 0 s))
  else if f.target ≠ myDev s then forwardEntry q f s
  else if f.kind = 0 then finishEntry q f stOK 0 0 s
  else setQx q { qx q s with flights := (qx q s).flights ++ [f] } s

/-- The first entry of the queue that has commands to start. -/
def currentFlight (q : Nat) (s : State) : Option Flight := (qx q s).flights.find? (·.more)

/-- A worker takes the first forwarded entry of its inbox. -/
def takeInbox (q : Nat) (s : State) : State :=
  match (qx q s).inbox with
  | [] => s
  | f :: rest =>
    let t := setQx q { qx q s with inbox := rest } s
    if f.units = 0 then finishEntry q f stOK 0 0 t else setQx q { qx q t with flights := (qx q t).flights ++ [f] } t

/-- Does a FLUSH that waits keep new entries back? One made while the queue is STOPPING takes effect later (R41). -/
def flushHolds (q : Nat) (s : State) : Bool := (qx q s).flush && qState q s != qStopping

/-- ENTRY_HEAD_CHECK. An entry whose message was lost with its port is sent again once its halt has been resumed. -/
def headCheck (q : Nat) (s : State) : State :=
  if !mayStart q s || flushHolds q s then s
  else
    match currentFlight q s with
    | some f => if !f.remote && f.target != myDev s then checkEntry q (readBytes s (entryAddr q f.idx s) 64) f s else s
    | none =>
      if !isManager s then takeInbox q s
      else if qHead q s = qTail q s ∨ (List.range 64).any (fun d => decide (255 ≤ forwardedTo d q s)) then s
      else checkEntry q (readBytes s (entryAddr q (qHead q s) s) 64) (ringEntry q (qHead q s) s) s

def execEntryHeadCheck (q : Qn) (s : State) : Host.Outcome State Fault Refusal := .next (headCheck q.val s)

/-! ### Flags of a command (Table 2.7) -/

def flagHurdle : Nat := 0
def flagWait : Nat := 1
def flagSignal : Nat := 2
def flagYield : Nat := 3
def flagFence : Nat := 4

def hasFlag (i : Nat) (b : Bytes) : Bool := bitAt (u b 3 1) i
def waitMarker (b : Bytes) : Nat := u b 4 2 % 4096
def signalMarker (b : Bytes) : Nat := u b 6 2 % 4096
def waitCount (b : Bytes) : Nat := u b 8 4

def waitMet (b : Bytes) (s : State) : Bool := !hasFlag flagWait b || satisfied (markerCount (waitMarker b) s) (waitCount b)

/-- Commands of queue q that started before command c and have not completed. -/
def earlierOf (q c : Nat) (s : State) : List Started := s.started.filter (fun x => x.q == q && decide (x.id < c))

/-- Have the writes of this module's completed commands reached their destinations? -/
def writesLanded (s : State) : Bool :=
  s.ports.all (fun p => !p.2.txq.any (fun f => f.1 == 0) && !p.2.replay.any (fun f => flitTC f.2 == 0))

/-- FENCE: the commands that had started when the fence came to the head are complete, and their writes have landed. -/
def fenceMet (q c : Nat) (b : Bytes) (s : State) : Bool :=
  !hasFlag flagFence b ||
  (writesLanded s && (match (qx q s).fence with
    | none => true
    | some ids => !s.started.any (fun x => x.id != c && ids.contains x.id)))

/-- A fence that has come to the head notes what had started by then. -/
def noteFence (q c : Nat) (b : Bytes) (s : State) : State :=
  if hasFlag flagFence b && (qx q s).fence.isNone then
    setQx q { qx q s with fence := some ((s.started.map (·.id)).filter (fun i => i != c)) } s
  else s

/-- Is the command of the relay engine behind an EPOCH_FENCE of its queue that still waits (R275)? -/
def behindEpoch (b : Bytes) (before : List Started) : Bool :=
  (match opOfBytes b with | some o => isRelayOp o || o == .epochFence | none => false) &&
  before.any (fun x => opOfBytes x.bytes == some .epochFence && x.state == .running)

/-- Do the start conditions of every set flag hold, and does no earlier FENCE or EPOCH_FENCE of the queue stand in the way? KQ0 runs
one command at a time. -/
def flagsMet (q c : Nat) (b : Bytes) (s : State) : Bool :=
  let before := earlierOf q c s
  (!hasFlag flagHurdle b || before.isEmpty) && waitMet b s && fenceMet q c b s && !before.any (fun x => hasFlag flagFence x.bytes) &&
  !behindEpoch b before && (q != 44 || before.isEmpty)

/-! ### What a command names -/

/-- Sequence slots that a command names and that must be open (R123). -/
def slotsNamed (o : Op) (b : Bytes) : List Nat :=
  match o with
  | .slotClose => [u b 16 1]
  | .slotFork => [u b 16 1, u b 17 1]
  | .kvWrite => [u b 16 1]
  | .slotTrunc => [u b 16 1]
  | .pageHint => [u b 16 1]
  | .attnPaged => (pdOf b).slots
  | _ => []

/-- Slots on which a started command holds a lease (R123). -/
def slotsLeased (o : Op) (b : Bytes) : List Nat := if o = .slotOpen then [(SD.parse (unitAt b 1)).slot] else slotsNamed o b

/-- Is slot n closing under another command, a SLOT_CLOSE that has started? -/
def closing (n c : Nat) (s : State) : Bool :=
  s.started.any (fun x => x.id != c && x.state == .running && opOfBytes x.bytes == some .slotClose && u x.bytes 16 1 == n)

/-- Does another started command hold a lease on slot n? -/
def leased (n c : Nat) (s : State) : Bool :=
  s.started.any (fun x => x.id != c && (match x.state with | .failed _ => false | _ => true) &&
    (match opOfBytes x.bytes with | some o => (slotsLeased o x.bytes).contains n | none => false))

/-- Power domains that a command's engine needs (R319). -/
def domainsOf (o : Op) (b : Bytes) : List Nat :=
  let cores := (List.range (coreCount b)).map (· + firstCore b)
  match o with
  | .matmul => cores | .matmul2 => cores | .gradPair => cores | .vector => cores | .chainLoad => cores | .tableLoad => cores
  | .attnFwd => cores | .attnBwd => cores | .attnMerge => cores | .attnPaged => 115 :: cores
  | .stashPut => [87 + stashDieOf (stashEntryOf b), 114] | .stashGet => [87 + stashDieOf (stashEntryOf b), 114]
  | .stashDrop => [87 + stashDieOf (stashEntryOf b)]
  | .bankMv => (List.range 8).map (· + 64) | .bankOpt => (List.range 8).map (· + 64) | .bankEw => (List.range 8).map (· + 64)
  | .bankCopy => (List.range 8).map (· + 64)
  | .cdcOpen => (List.range 13).map (· + 116) | .cdcClose => (List.range 13).map (· + 116)
  | .cdcDecode => (List.range 13).map (· + 116) | .cdcEncode => (List.range 13).map (· + 116)
  | .cdcFlush => (List.range 13).map (· + 116)
  | _ => if isPageOp o then [115] else if isRelayOp o || o == .epochFence then [113] else []

/-! ### Checks at the start (R30, R36) -/

/-- Operands malformed under the command's own chapter, R385 or R386. -/
def operandsBad (o : Op) (b : Bytes) (s : State) : Bool :=
  match o with
  | .markerAdd => markerCmdBad b
  | .markerSet => markerCmdBad b
  | .nop => !operandsOk [] b
  | .snap => snapBad b
  | .matmul => matrixBad b
  | .matmul2 => matrixBad b
  | .gradPair => matrixBad b
  | .chainLoad => loadBad true b s
  | .tableLoad => loadBad false b s
  | .vector => vectorBad b s
  | .ringSet => ringSetBad b
  | .attnFwd => attnFwdBad b s
  | .attnBwd => attnBwdBad b s
  | .attnMerge => attnMergeBad b
  | .attnPaged => attnPagedBad b s
  | .slotOpen => slotOpenBad b s
  | .slotClose => slotCloseBad b
  | .slotFork => slotForkBad b s
  | .kvWrite => kvWriteBad b s
  | .slotTrunc => slotTruncBad b s
  | .pageHint => pageHintBad b s
  | .stashPut => stashPutBad b
  | .stashGet => stashGetBad b
  | .stashDrop => stashDropBad b
  | .bankMv => bankMvBad b
  | .bankOpt => bankOptBad b
  | .bankEw => bankEwBad b
  | .bankCopy => bankCopyBad b s
  | .atomic => atomicBad b s
  | .accOpen => accOpenBad b
  | .accClose => accCloseBad b
  | .dma => dmaBad b
  | .broadcast => collectiveBad .broadcast b s
  | .allGather => collectiveBad .allGather b s
  | .allToAll => collectiveBad .allToAll b s
  | .reduce => reduceBad b s
  | .ringPass => ringPassBad b s
  | .epochFence => fenceBad b
  | .cdcOpen => cdcOpenBad b
  | .cdcClose => cdcPlainBad b
  | .cdcDecode => cdcDecodeBad b
  | .cdcEncode => cdcEncodeBad b
  | .cdcFlush => cdcPlainBad b
  | o => jobBad o b s

/-- Units `i` to `i + n` - 1 of an entry's list are whole commands that a recompute sequence may hold (R210); at most `k`. -/
def sequenceOk (f : Flight) (e : Nat) (s : State) : Nat → Nat → Bool
  | 0, i => i == e
  | k + 1, i =>
    if i = e then true
    else
      let h := listUnit f i s
      let n := u h 2 1
      let o := opOfBytes h
      n != 0 && decide (i + n ≤ e) && !hasFlag flagYield h && o != some .stashPut &&
      !(o == some .stashGet && recompUnits h != 0) && sequenceOk f e s k (i + n)

/-- Is the command malformed (R30)? -/
def commandBad (q : Nat) (f : Flight) (pos : Nat) (b : Bytes) (s : State) : Bool :=
  let n := u b 2 1
  (engineOf b != engineOfQueue q && engineOf b != 0xF) || n == 0 || decide (16 < n) || decide (f.units < pos + n) ||
  (match opOfBytes b with
   | none => true
   | some o =>
     unitsOf o != n || !headerOk b || operandsBad o b s ||
     (o == .stashGet && (decide (f.units < pos + n + recompUnits b) ||
       !sequenceOk f (pos + n + recompUnits b) s (recompUnits b) (pos + n))))

/-- Cause for which the command is not allowed in the present state (Table 2.10). -/
def stateCause (c : Nat) (f : Flight) (o : Op) (b : Bytes) (s : State) : Option Nat :=
  if f.jobTag ≠ rget R.QFE_JOB s then some 0x0001
  else if (slotsNamed o b).any (fun n => !(slotx n s).isOpen || closing n c s) then some 0x0002
  else if isRelayOp o && epochOf b != epochNow s then some 0x0003
  else if (isCodecOp o && o != .cdcOpen) && !codecWaits b s && !ctxOpen (ctxOf b) s then some 0x0004
  else if isBankOp o && bankHeld s then some 0x0005
  else if (isJobOp o && !jobStateOk o s) || (isJobOp o && o != .snapFetch && jobElsewhere s) then some 0x0006
  else none

/-- Must the command wait at the head of its queue for its engine? -/
def engineWaits (q c : Nat) (o : Op) (b : Bytes) (s : State) : Bool :=
  (domainsOf o b).any (fun d => !domainOn d s) || (isBankOp o && bankWaits o b s) || (isCodecOp o && codecWaits b s) ||
  stashWaits o b s || (o == .slotClose && leased (u b 16 1) c s) ||
  (o == .reduce && (RD.parse b s).g.root == me s && decide (64 ≤ s.relay.reorder.length)) ||
  (earlierOf q c s).any (fun x =>
    (opOfBytes x.bytes == some .stashGet && recompUnits x.bytes != 0 && x.state == .running) || unstartedPut x) ||
  (o == .dma && decide (idleChannels q s ≤ ((earlierOf q c s).filter (fun x =>
    opOfBytes x.bytes == some .dma && x.state == .running && !x.begun)).length))

/-- Memory that a command may leave undefined when it is stopped inside; shares, legs and channels add theirs when they
begin. -/
def startOuts (o : Op) (b : Bytes) (s : State) : List (Nat × Nat) :=
  if isBankOp o then bankOuts o b s
  else
    match o with
    | .cdcDecode => codecOuts b s
    | .cdcEncode => codecOuts b s
    | .atomic =>
      if (firstUnreached s (atomicList b) (32 * atomicCount b)).isNone then
        (List.range (atomicCount b)).flatMap (fun i =>
          let e := atomicList b + 32 * i
          [(readNat s e 6, atomicWidth (readNat s (e + 6) 1)), (e + 24, 8)])
      else []
    | .broadcast => [(u (unitAt b 2) 8 6, u (unitAt b 2) 16 4)]
    | .allGather => [(u (unitAt b 2) 8 6, u (unitAt b 2) 16 4 * (Grp.parse b s).members.length)]
    | .allToAll => [(u (unitAt b 2) 8 6, u (unitAt b 2) 16 4 * (Grp.parse b s).members.length)]
    | .ringPass => let r := Ring.parse b; [(r.rb.1, r.b * 2 ^ 20), (r.rb.2, r.b * 2 ^ 20)]
    | .reduce => let x := RD.parse b s; if x.g.root = me s ∧ x.out ≠ 0 then [(x.dst, 4 * x.n)] else []
    | _ => []

/-- What the start itself does in an engine. -/
def startHook (c : Nat) (o : Op) (b : Bytes) (s : State) : State :=
  if isBankOp o then bankStart o b s
  else if isPageOp o then pageStart c s
  else
    match o with
    | .accClose => accCloseHook c b s
    | .chainLoad => loadStart true c b s
    | .tableLoad => loadStart false c b s
    | .ringSet => ringStart c b s
    | .attnFwd => attnStart c b s
    | .attnBwd => attnStart c b s
    | .attnPaged => pagedStart c b s
    | .reduce =>
      let d := (RD.parse b s).dl
      if d != 0 && d != 0xFFFFFFFF && decide (rget R.PWR_CEIL_DL s < d) then clamped s else s
    | _ => s

/-! ### The start of a command (R30, R31) -/

/-- A halt before a command starts. -/
def haltAt (q : Nat) (f : Flight) (pos : Nat) (c : Option Nat) (status detail : Nat) (s : State) : State :=
  haltQueue q { status := status, idx := f.idx, unit := pos, detail := detail, c := c } s

/-- Are units of an entry's list poisoned? -/
def unitPoisoned (f : Flight) (i n : Nat) (s : State) : Bool :=
  f.bad || (f.body.isNone && poisoned s (f.listAddr + 32 * i) (32 * n))

/-- A command whose flags are met is checked, and starts, halts or waits for its engine. `go` is what starting does. -/
def tryStart (q c : Nat) (f : Flight) (pos : Nat) (held : Option Nat) (go : Bytes → State → State) (s : State) : State :=
  let h := listUnit f pos s
  let n := u h 2 1
  let b := (List.range n).flatMap (fun i => listUnit f (pos + i) s)
  if unitPoisoned f pos (max 1 n) s then
    haltAt q f pos held stContained 0x0142 (reportError 2 bQFE 0x0142 q 0 s)
  else if commandBad q f pos b s then haltAt q f pos held stMalformed 0 s
  else
    match opOfBytes b with
    | none => s
    | some o =>
      match stateCause c f o b s with
      | some cause => haltAt q f pos held stOutOfState cause s
      | none => if engineWaits q c o b s then noteAwaits q o b s else startHook (held.getD c) o b (go b s)

/-- The next command of an entry starts. -/
def startNew (q : Nat) (f : Flight) (b : Bytes) (s : State) : State :=
  let o := (opOfBytes b).getD .nop
  let x : Started := { id := s.nextCmd, turn := s.nextCmd, q := q, idx := f.idx, unit := f.pos, bytes := b, outs := startOuts o b s }
  let t := entryStarts q f (setQx q { qx q s with fence := none, awaits := none } s)
  setFlight q { f with pos := f.pos + u b 2 1 } { t with started := t.started ++ [x], nextCmd := t.nextCmd + 1 }

/-- A failed command starts again from its beginning, behind what has started since (R37). -/
def startAgain (q c : Nat) (s : State) : State :=
  updStarted c (fun x => { x with state := .running, begun := false, prog := 0, image := [], turn := s.nextCmd })
    (setQx q { qx q s with fence := none, awaits := none, redo := (qx q s).redo.filter (fun i => i != c) }
      { s with nextCmd := s.nextCmd + 1 })

/-- The command that stands at the head of the queue: its number, its entry and its unit; one that is to start again comes
first. -/
def headCommand (q : Nat) (s : State) : Option (Nat × Flight × Nat × Bool) :=
  match (qx q s).redo with
  | c :: _ =>
    (match startedAt c s with
     | none => none
     | some x => (flightAt q x.idx s).map (fun f => (c, f, x.unit, true)))
  | [] =>
    (match currentFlight q s with
     | none => none
     | some f =>
       if (!f.remote && f.target != myDev s) || (flushHolds q s && !f.begun) then none else some (s.nextCmd, f, f.pos, false))

/-- COMMAND_START. -/
def commandStart (q : Nat) (s : State) : State :=
  if !mayStart q s then s
  else
    match headCommand q s with
    | none => s
    | some (c, f, pos, again) =>
      let h := listUnit f pos s
      if unitPoisoned f pos 1 s then
        haltAt q f pos (if again then some c else none) stContained 0x0142 (reportError 2 bQFE 0x0142 q 0 s)
      else
        let t := noteFence q c h s
        if !flagsMet q c h t then t
        else if again then tryStart q c f pos (some c) (fun _ t => startAgain q c t) t
        else tryStart q c f pos none (startNew q f) t

def execCommandStart (q : Qn) (s : State) : Host.Outcome State Fault Refusal := .next (commandStart q.val s)

/-- WAIT_TIMEOUT (R32): a wait has not been satisfied for QFE_Qn_WTO cycles. -/
def waitTimeout (q : Nat) (s : State) : State :=
  if !mayStart q s || rget (R.QFE_Qn_WTO q) s == 0 then s
  else
    match headCommand q s with
    | none => s
    | some (c, f, pos, again) =>
      if waitMet (listUnit f pos s) s then s
      else haltAt q f pos (if again then some c else none) stWaitTimeout 0 (rsetBit (R.QFE_Qn_STAT q) 10 s)

def execWaitTimeout (q : Qn) (s : State) : Host.Outcome State Fault Refusal := .next (waitTimeout q.val s)

/-! ### Completion (R34) -/

/-- The entry of a completed command counts it and gathers its flags. -/
def countDone (x : Started) (s : State) : State :=
  match flightAt x.q x.idx s with
  | none => s
  | some f => setFlight x.q { f with done := f.done + 1, flags := f.flags ||| x.flags } s

/-- A YIELD that completes on a stopping queue is its yield point (R32). -/
def noteYield (x : Started) (s : State) : State :=
  if hasFlag flagYield x.bytes && qState x.q s == qStopping then setQx x.q { qx x.q s with yielded := true } s else s

/-- The marker add of SIGNAL. -/
def signalAdd (x : Started) (s : State) : State := if hasFlag flagSignal x.bytes then markerInc (signalMarker x.bytes) 1 s else s

/-- COMMAND_COMPLETE: its writes are visible; then the marker add, the record and the interrupt, in that order. A command
that a stop has muted only ends (R22). -/
def commandComplete (c : Nat) (s : State) : State :=
  match startedAt c s with
  | none => s
  | some x =>
    if x.state ≠ .done then s
    else
      let t : State := { s with started := s.started.filter (fun y => y.id != c) }
      if x.muted then settleQueue x.q t
      else settleQueue x.q (settleEntry x.q x.idx (signalAdd x (noteYield x (countDone x t))))

def execCommandComplete (c : Nat) (s : State) : Host.Outcome State Fault Refusal := .next (commandComplete c s)

/-! ### Resumption (R36, R37) -/

/-- The halt that queue q shows. -/
def shownHalt (q : Nat) (s : State) : HaltRec :=
  { status := rbits (R.QFE_Qn_HALT q) 31 24 s, idx := rbits (R.QFE_Qn_HALT q) 47 32 s, unit := rbits (R.QFE_Qn_HALT q) 19 0 s,
    whole := rbit (R.QFE_Qn_HALT q) 20 s, detail := rbits (R.QFE_Qn_HALT q) 63 48 s, c := (qx q s).shown }

/-- Place of a halt in the queue's order of commands. -/
def haltOrder (q : Nat) (s : State) (h : HaltRec) : Nat := ((qx q s).flights.findIdx (fun f => f.idx == h.idx)) * 2 ^ 20 + h.unit

/-- The first of the held halts in that order. -/
def firstHeld (q : Nat) (s : State) : List HaltRec → Option HaltRec
  | [] => none
  | h :: t => match firstHeld q s t with | none => some h | some g => some (if haltOrder q s g < haltOrder q s h then g else h)

/-- Is a suspension or a checkpoint bringing the queues to yield points? -/
def stopping (s : State) : Bool :=
  jobState s == 2 || s.started.any (fun x => x.state == .running && x.prog == 1 && x.begun && opOfBytes x.bytes == some .checkpoint)

/-- The shown halt is settled: the oldest held one is shown, or the queue goes on. During a suspension it stands at a yield
point (R32). -/
def afterHalt (q : Nat) (s : State) : State :=
  let x := { qx q s with shown := none }
  match firstHeld q s x.held with
  | some h => showHalt q h (setQx q { x with held := x.held.erase h } s)
  | none =>
    if stopping s && jobQueues.contains q then setQState q qStopping (setQx q { x with before := qRunning, yielded := true } s)
    else settleQueue q (setQState q qRunning (setQx q x s))

/-- Retry of a command that had started is noted; one that had not is found again at the head. -/
def retryHalt (q : Nat) (h : HaltRec) (s : State) : State :=
  match h.c with
  | none => s
  | some c => setQx q { qx q s with redo := ((qx q s).redo ++ [c]).mergeSort } s

/-- Skip of a halt that concerns the whole entry. -/
def skipEntry (q : Nat) (h : HaltRec) (s : State) : State :=
  finishEntry q ((flightAt q h.idx s).getD (ringEntry q h.idx s)) stSkipped 0 0 s

/-- Unit at which the list goes on behind a skipped command; none when UNITS leaves no next command to find (R37). -/
def skipTo (f : Flight) (unit : Nat) (s : State) : Option Nat :=
  let n := u (listUnit f unit s) 2 1
  if n = 0 ∨ 16 < n ∨ f.units < unit + n then none else some (unit + n)

/-- An index that no ring entry has: that of commands whose entry has been finished before them. -/
def noEntry : Nat := 2 ^ 20

/-- A resume finishes an entry with a record: its failed commands and held halts go with it, and its running commands run on
without it. -/
def endEntry (q : Nat) (f : Flight) (status unit detail : Nat) (s : State) : State :=
  let t := finishEntry q f status unit detail s
  let x := qx q t
  let gone (y : Started) : Bool := ofEntry q f.idx y && (match y.state with | .failed _ => true | _ => false)
  let left := x.redo.filter (fun c => !(t.started.filter gone).any (fun y => y.id == c))
  let t := setQx q { x with held := x.held.filter (fun g => g.idx != f.idx), fence := none, redo := left } t
  { t with started := (t.started.filter (fun y => !gone y)).map (fun y => if ofEntry q f.idx y then { y with idx := noEntry } else y) }

/-- Skip of a command: it counts as completed, without effect and without its add. Where it leaves no next command to find, the
entry finishes. -/
def skipCommand (q : Nat) (h : HaltRec) (s : State) : State :=
  match flightAt q h.idx s with
  | none => s
  | some f =>
    let k := match f.skipped with | none => h.unit | some i => max i h.unit
    match h.c with
    | some c =>
      let fl := match startedAt c s with | none => 0 | some x => x.flags
      let t := setFlight q { f with done := f.done + 1, flags := f.flags ||| fl, skipped := some k } { s with started := s.started.filter (fun x => x.id != c) }
      settleEntry q h.idx t
    | none =>
      match skipTo f h.unit s with
      | none => endEntry q { f with done := f.done + 1 } stSkipped h.unit 0 s
      | some pos =>
        let t := entryStarts q f (setQx q { qx q s with fence := none } s)
        settleEntry q h.idx (setFlight q { f with done := f.done + 1, skipped := some k, pos := pos } t)

/-- Abort: the entry finishes with the halt's status. -/
def abortEntry (q : Nat) (h : HaltRec) (s : State) : State :=
  endEntry q ((flightAt q h.idx s).getD (ringEntry q h.idx s)) h.status h.unit h.detail s

/-- RESUME of queue q: 1 retry, 2 skip, 3 abort; without effect on a queue that is not halted. -/
def resumeQueue (q choice : Nat) (s : State) : State :=
  if qState q s ≠ qHalted ∨ inHoldfast s then misuse bQFE s
  else
    let h := shownHalt q s
    let t :=
      match choice with
      | 1 => retryHalt q h s
      | 2 => if h.whole then skipEntry q h s else skipCommand q h s
      | 3 => abortEntry q h s
      | _ => s
    if choice = 0 ∨ 3 < choice then s else afterHalt q t

def execResumeRetry (q : Qn) (s : State) : Host.Outcome State Fault Refusal := .next (resumeQueue q.val 1 s)
def execResumeSkip (q : Qn) (s : State) : Host.Outcome State Fault Refusal := .next (resumeQueue q.val 2 s)
def execResumeAbort (q : Qn) (s : State) : Host.Outcome State Fault Refusal := .next (resumeQueue q.val 3 s)

/-! ### Remote halts (R29) -/

/-- QFE_RHALT and QFE_RHALT_ENTRY show the oldest remote halt. -/
def showRhalt (s : State) : State :=
  match s.rhalts with
  | [] => rset R.QFE_RHALT_ENTRY 0 (rset R.QFE_RHALT 0 s)
  | h :: _ => rset R.QFE_RHALT_ENTRY (h.2 % 65536) (rset R.QFE_RHALT (h.1 + 2 ^ 63) s)

/-- HALT: the notice joins the queue of remote halts; while 64 wait, the notice waits. -/
def haltIn (p : Nat) (m : Msg) (s : State) : State :=
  if !isManager s || decide (64 ≤ s.rhalts.length) then s
  else
    match takeCtrl p 0x27 m s with
    | none => s
    | some t =>
      raiseVector 137 (rcountSat R.QFE_RHALTS (showRhalt { t with rhalts := t.rhalts ++ [(u m.data 0 8 % 2 ^ 63, u m.data 8 4)] }))

def execHalt (p : Port) (m : Msg) (s : State) : Host.Outcome State Fault Refusal := .next (haltIn p.val m s)

/-- RHALT_POP. -/
def rhaltPop (s : State) : State := if hostDecodes s then showRhalt { s with rhalts := s.rhalts.drop 1 } else s

def execRhaltPop (s : State) : Host.Outcome State Fault Refusal := .next (rhaltPop s)

/-- A write of QFE_RCTL with a RESUME choice: a notice to the worker. The manager's own queues and absent devices are never
halted remotely: the write counts as misuse. -/
def rctl (choice d q : Nat) (s : State) : State :=
  if !isManager s || d == myDev s || !present d s then misuse bQFE s
  else sendCtrl 0x28 (myDom s) d (padTo 16 (leBytes 1 q ++ leBytes 1 choice)) s

def execRctlRetry (d : Dev) (q : Qn) (s : State) : Host.Outcome State Fault Refusal := .next (rctl 1 d.val q.val s)
def execRctlSkip (d : Dev) (q : Qn) (s : State) : Host.Outcome State Fault Refusal := .next (rctl 2 d.val q.val s)
def execRctlAbort (d : Dev) (q : Qn) (s : State) : Host.Outcome State Fault Refusal := .next (rctl 3 d.val q.val s)

/-- RESUME on a worker. -/
def resumeIn (p : Nat) (m : Msg) (s : State) : State :=
  match takeCtrl p 0x28 m s with
  | none => s
  | some t => if u m.data 0 1 < numQueues then resumeQueue (u m.data 0 1) (u m.data 1 1 % 4) t else misuse bQFE t

def execResume (p : Port) (m : Msg) (s : State) : Host.Outcome State Fault Refusal := .next (resumeIn p.val m s)

/-! ### Forwarded entries (R28, R29) -/

/-- ENTRY on a worker: the entry enters the ring of its queue, with the list it carries. -/
def entryIn (p : Nat) (m : Msg) (s : State) : State :=
  let q := bits m.addr.toNat 21 16
  if isManager s || !s.keeper.joined || decide (numQueues ≤ q) || qState q s == 0 ||
      decide (ringSize q s ≤ (qx q s).inbox.length + (qx q s).flights.length + 1) then s
  else
    match takeMsg p 6 m s with
    | none => s
    | some t =>
      let e := parseEntry m.data (m.addr.toNat % 65536) true
      let f : Flight := { e with remote := true, bad := m.poison && e.kind == 1, body := if e.kind = 1 then some (m.data.drop 64) else e.body }
      let k := qTail q t
      let t := poke (entryAddr q k t) (m.data.take 64) t
      rset (R.QFE_Qn_TAIL q) ((k + 1) % ringSize q t) (setQx q { qx q t with inbox := (qx q t).inbox ++ [f] } t)

def execEntry (p : Port) (m : Msg) (s : State) : Host.Outcome State Fault Refusal := .next (entryIn p.val m s)

/-- COMPLETION on the manager: the record is written at the entry's own index, with the PHASE of its pass. -/
def completionIn (p : Nat) (m : Msg) (s : State) : State :=
  if !isManager s then s
  else
    match takeCtrl p 0x24 m s with
    | none => s
    | some t =>
      let q := u m.data 2 1
      let i := u m.data 32 4
      match (qx q t).flights.find? (fun f => f.idx == i && f.sent && f.target == m.srcDev.toNat) with
      | none => t
      | some f =>
        let t := poke (recordAddr q i t) (patch (m.data.take 32) 31 (leBytes 1 (nb f.phase))) t
        let t := if f.irq then raiseVector q t else t
        settleQueue q (dropFlight q i { t with fwds := t.fwds.filter (fun x => x != (m.srcDev.toNat, q, i)) })

def execCompletion (p : Port) (m : Msg) (s : State) : Host.Outcome State Fault Refusal := .next (completionIn p.val m s)

end Sys2Proof.Machine
end

