-- ==== Sys2Proof/Machine/Reads.lean ====
section
/-! DEFINITION. What a register reads as (R4 to R7, R369 to R371, R377), and the reads of 32 and 64 bits with the high-half
latches. -/

namespace Sys2Proof.Machine

/-- Blocks whose registers stay live in Holdfast (R377). -/
def liveBlock (b : Nat) : Bool := b == bHIF || b == bQFE || b == bKPR || b == bNST || b == bPWR || b == bSNP || b == bERR

/-- Offset of the snapshot banks' images (Table 21.1). -/
def imagesBase : Nat := 0x1500000

/-- The 32-bit word of the register space at offset `off`, a multiple of 4, as it stands now. -/
def liveWord (off : Nat) (s : State) : Nat :=
  if imagesBase ≤ off ∧ off < imagesBase + 0x200000 then imageWord ((off - imagesBase) / 0x80000) ((off - imagesBase) % 0x80000) s
  else if mrecBase ≤ off ∧ off < mrecBase + 1024 then u (oldestRecord s) (off - mrecBase) 4
  else if off = R.KVP_STAT then kvpStat s
  else
    match regAt off with
    | some _ => rget off s % 2 ^ 32
    | none =>
      (match regAt (off / 8 * 8) with
       | some d => if off % 8 = 4 && d.width == 64 then bits (rget (off / 8 * 8) s) 63 32 else 0
       | none => 0)

/-- The word as a read returns it: 0 from a block that is not live in Holdfast. -/
def shownWord (off : Nat) (s : State) : Nat := if inHoldfast s && !liveBlock (blockOf off) then 0 else liveWord off s

/-- Does `off` hold a 64-bit register? -/
def isWide (off : Nat) : Bool := match regAt off with | some d => d.width == 64 | none => false

/-- A 32-bit read at `off` (R7): the low half of a 64-bit register latches its high half; a high half reads as latched when
the block's last low-half read was of the same register. A misaligned read returns 0. -/
def readWord (off : Nat) (s : State) : Nat × State :=
  if off % 4 ≠ 0 then (0, s)
  else if inHoldfast s && !liveBlock (blockOf off) then (0, s)
  else if isWide off then (liveWord off s, { s with latches := AL.insert (blockOf off) (off, liveWord (off + 4) s) s.latches })
  else
    match findKey (blockOf off) s.latches with
    | some (lo, high) => (if off = lo + 4 then high else liveWord off s, s)
    | none => (liveWord off s, s)

/-- `n` 32-bit reads in ascending order. -/
def readWords : Nat → Nat → State → Bytes × State
  | 0, _, s => ([], s)
  | n + 1, off, s =>
    let (v, t) := readWord off s
    let (r, t') := readWords n (off + 4) t
    (leBytes 4 v ++ r, t')

/-- Does the requester reach the registers (Table 21.2)? -/
def reaches (w : Requester) (s : State) : Bool :=
  match w with
  | .host => hostDecodes s
  | .keeper => s.boot.released

/-- A register read of 32 or 64 bits, aligned: one of 64 bits returns both words as they stand in one cycle and latches nothing;
any other read returns 0 (R6, R7). -/
def readReg (off width : Nat) (s : State) : Bytes × State :=
  if width = 32 ∧ off % 4 = 0 then let (v, t) := readWord off s; (leBytes 4 v, t)
  else if width = 64 ∧ off % 8 = 0 then (leBytes 4 (shownWord off s) ++ leBytes 4 (shownWord (off + 4) s), s)
  else (List.replicate (width / 8) 0, s)

/-- LOW_HALF_READ (R6, R7). -/
def lowHalfRead (r : RegRead) (s : State) : State :=
  if reaches r.who s then
    let (b, t) := readReg r.offset r.width s
    { t with out := { t.out with rdata := b } }
  else s

def execLowHalfRead (r : RegRead) (s : State) : Host.Outcome State Fault Refusal := .next (lowHalfRead r s)

end Sys2Proof.Machine
end

