-- ==== Sys2Proof/Machine/BringUp.lean ====
section
/-! DEFINITION. Power-up, resets and bring-up (chapter 20), the management bus and the test access port (chapter 22). -/

namespace Sys2Proof.Machine

/-! ### HIF_BOOT and the supplies (R356, R357, R363, R368) -/

def bootStage (s : State) : Nat := rbits R.HIF_BOOT 3 0 s

/-- Has bring-up ended: READY, FAILED or Holdfast? -/
def bootEnded (s : State) : Bool := decide (5 ≤ bootStage s)

/-- STAGE that bring-up has reached (Table 20.5). -/
def stageNow (s : State) : Nat :=
  let b := s.boot
  if 3 ≤ b.supplies ∧ !b.gate then 2
  else if !b.verified then 0
  else if !b.released then 1
  else if !memoriesReady s then 3
  else 4

def showStage (s : State) : State := if bootEnded s then s else rsetBits R.HIF_BOOT 3 0 (stageNow s) s

/-- Power domains that a supply step of Table 20.1 powers (log 13). -/
def stepDomains (k : Nat) : List Nat :=
  if k = 2 then (List.range 40).map (· + 89) ++ (List.range 7).map (· + 138)
  else if k = 3 then (List.range 9).map (· + 129)
  else if k = 4 then List.range 64 ++ (List.range 9).map (· + 80)
  else if k = 5 then (List.range 16).map (· + 64)
  else []

/-- The supplies above step 1 go off; the hub's and the PCIe PHY's stay once the Keeper is released, since the host is still answered
(Table 20.4, log 163). -/
def supplyOff (s : State) : State :=
  let keep := if s.boot.released then 2 else 1
  (([2, 3, 4, 5].filter (fun k => decide (keep < k))).flatMap stepDomains).foldl (fun t d => setDomain d false t)
    { s with boot := { s.boot with supplies := min keep s.boot.supplies }, pcie := { s.pcie with sysReady := false } }

/-- Bring-up halts with a code and item of Table 20.5, and SYS_READY is held low (R357, R364, Table 22.2). -/
def bootFails (code item : Nat) (s : State) : State :=
  supplyOff (rsetBits R.HIF_BOOT 31 24 item (rsetBits R.HIF_BOOT 23 16 code (rsetBits R.HIF_BOOT 3 0 6 s)))

/-- SUPPLY_GOOD: the next supply of Table 20.1 is within tolerance; step 4 starts only when the thermal gate is open. -/
def supplyGood (k : Nat) (s : State) : State :=
  if s.boot.qualified && !bootEnded s && k == s.boot.supplies + 1 && decide (k ≤ 5) && (k != 4 || s.boot.gate) then
    showStage ((stepDomains k).foldl (fun t d => setDomain d true t) { s with boot := { s.boot with supplies := k } })
  else s

def execSupplyGood (step : Nat) (s : State) : Host.Outcome State Fault Refusal := .next (supplyGood step s)

/-- SUPPLY_TIMEOUT (R357): the supply that is due has not come good. -/
def supplyTimeout (s : State) : State :=
  if s.boot.qualified && !bootEnded s && decide (s.boot.supplies < 5) && (s.boot.supplies != 3 || s.boot.gate) then
    bootFails 1 (s.boot.supplies + 1) s
  else s

def execSupplyTimeout (s : State) : Host.Outcome State Fault Refusal := .next (supplyTimeout s)

/-- THERMAL_GATE_OPEN (R363). -/
def thermalGateOpen (s : State) : State :=
  if s.boot.qualified && !bootEnded s && decide (3 ≤ s.boot.supplies) && decide (rbits R.PWR_TEMP 31 24 s < tInMax s)
      && decide (rbits R.PWR_TEMP 23 16 s < tThr s) then
    showStage { s with boot := { s.boot with gate := true } }
  else s

def execThermalGateOpen (s : State) : Host.Outcome State Fault Refusal := .next (thermalGateOpen s)

/-! ### Resets (R359 to R361) -/

/-- Is `a` host memory? -/
def isHost (a : Nat) : Bool := decide (hostBase ≤ a) && decide (a < hostEnd)

/-- Naust after a reset: the fuses, the flash outside the regions of Table 22.4, and nothing else. -/
def naustKept (s : State) : NaustX :=
  let n := s.naust
  let k : NaustX := { keeperCtr := n.keeperCtr, ceilCtr := n.ceilCtr, opKeys := n.opKeys, qorwyn := n.qorwyn }
  { k with idCopies := n.idCopies, saved := n.saved }

/-- A module reset (R360): every register and everything in progress is at its reset value, and module memory is zero.
Fuses, flash, the pins and host memory are not the module's to reset; the always-on supplies stay up. -/
def moduleReset (s : State) : State :=
  let m := s.mgmt
  let t : State := { regs := AL.set 0 R.NST_SERIAL (rget R.NST_SERIAL s) [], mem := s.mem.filter (fun c => isHost c.1),
                     poison := s.poison.filter (fun x => isHost (128 * x)) }
  let t : State := { t with undef := s.undef.filter (fun r => isHost r.lo), naust := naustKept s, pending := s.pending }
  let t : State := { t with boot := { qualified := s.boot.qualified, supplies := min 1 s.boot.supplies } }
  let t : State := { t with pcie := { perst := s.pcie.perst }, mgmt := { flash := m.flash, tap := m.tap, cells := m.cells } }
  { t with out := s.out, freeCtr := s.freeCtr }

/-- Naust writes the records of its buffer to flash, each signed first (R341, R361). -/
def saveRecords (s : State) : State :=
  let t := (List.range meterBuffer).foldl (fun t _ => signNext t) s
  { t with naust := { t.naust with saved := t.naust.saved ++ t.naust.held } }

/-- INPUT_QUALIFIED: t0, a power-on reset. -/
def inputQualified (s : State) : State :=
  if s.boot.qualified then s
  else
    let t := moduleReset s
    { t with boot := { qualified := true } }

def execInputQualified (s : State) : Host.Outcome State Fault Refusal := .next (inputQualified s)

/-- INPUT_LOSS: the module is powered off; records in Naust's buffer are lost (R358). -/
def inputLoss (s : State) : State :=
  if s.boot.qualified then
    let t := moduleReset s
    { t with boot := {}, mgmt := { flash := t.mgmt.flash } }
  else s

def execInputLoss (s : State) : Host.Outcome State Fault Refusal := .next (inputLoss s)

/-- MOD_RST_N: its rising edge after at least 1 us low. -/
def modRstN (s : State) : State := if s.boot.qualified then moduleReset (saveRecords s) else s

def execModRstN (s : State) : Host.Outcome State Fault Refusal := .next (modRstN s)

/-! ### Naust's start (R281, R282, R334, R338, R362) -/

/-- CRC-32 of IEEE 802.3 (log 9). -/
def crc32Bit (c : Nat) : Nat → Nat
  | 0 => c
  | n + 1 => crc32Bit (if c.testBit 0 then (c >>> 1) ^^^ 0xEDB88320 else c >>> 1) n

def crc32From (c : Nat) : Bytes → Nat
  | [] => c
  | b :: t => crc32From (crc32Bit (c ^^^ b.toNat) 8) t

def crc32 (b : Bytes) : Nat := crc32From 0xFFFFFFFF b ^^^ 0xFFFFFFFF

/-- Is a configuration record valid (R282, Table 15.1)? -/
def configOk (b : Bytes) : Bool :=
  let dom := u b 0 1
  let dev := u b 1 1
  let man := u b 2 1
  let stb := u b 3 1
  let doms := u b 4 2
  let exp := u b 8 8
  crc32 (b.take 60) == u b 60 4 && decide (dom ≤ 10) && decide (dev ≤ 63) && decide (man ≤ 63) && (decide (stb ≤ 63) || stb == 0xFF)
    && decide (doms < 2048) && u b 6 2 == 0 && allZero (slice b 16 44) && exp.testBit dev && exp.testBit man
    && (stb == 0xFF || (stb != man && exp.testBit stb)) && doms.testBit dom

/-- The record of a module that stands alone (R282). -/
def aloneRecord : Bytes :=
  let b := padTo 60 ([0, 0, 0, 0xFF] ++ leBytes 2 1 ++ leBytes 2 0 ++ leBytes 8 1)
  b ++ leBytes 4 (crc32 b)

/-- The record in force goes to KPR_CFG and KPR_EXPECT. -/
def takeConfig (b : Bytes) (s : State) : State :=
  let t := rset R.KPR_EXPECT (u b 8 8) (rset R.KPR_CFG (u b 0 1 + (u b 1 1 <<< 8) + (u b 2 1 <<< 16) + (u b 3 1 <<< 24) + (u b 4 2 <<< 32)) s)
  let t : State := { t with naust := { t.naust with cfgHash := Config.hash 256 b } }
  rsetBits R.KPR_STAT 5 5 (nb (isManager t)) t

/-- BOOT_ID is drawn (R360). -/
def drawBootId (s : State) : State :=
  let b := (List.range 16).map (Config.randomByte s.freeCtr)
  bumpFree ((List.range 4).foldl (fun t i => rset (R.NST_BOOTID i) (u b (4 * i) 4) t) s)

/-- NST_CTR and NST_STAT show the fuses and the identity (R333, R334). -/
def showFuses (s : State) : State :=
  let n := s.naust
  let k := n.opKeys.length
  let t := rset R.NST_CTR (n.keeperCtr + (n.ceilCtr <<< 8)) s
  let t := rsetBits R.NST_STAT 5 5 (nb (k != 0)) (rsetBits R.NST_STAT 7 6 (k - 1) t)
  rsetBits R.NST_STAT 4 4 (nb (!n.idCopies.any (fun x => x))) t

/-- NAUST_START: fuses, identity, configuration record, ceiling record. -/
def naustStart (s : State) : State :=
  if !s.boot.qualified || s.boot.supplies = 0 || s.boot.naust || bootEnded s then s
  else
    let t : State := { s with boot := { s.boot with naust := true } }
    let t := showFuses (drawBootId t)
    let b := flashBytes 3 0 64 t
    let t := if configOk b then takeConfig b t else rsetBit R.KPR_STAT 7 (takeConfig aloneRecord t)
    checkCeilings false t

def execNaustStart (s : State) : Host.Outcome State Fault Refusal := .next (naustStart s)

/-! ### Flash writes and Keeper verification (R331, R332, R362, R382) -/

/-- Bytes of a region from `off` on. -/
def putFlash : Nat → Bytes → List (Nat × Byte) → List (Nat × Byte)
  | _, [], l => l
  | o, b :: t, l => putFlash (o + 1) t (AL.set 0xFF o b l)

/-- A write into a region; one at offset 0 of a slot first erases the slot. -/
def writeFlash (r off : Nat) (b : Bytes) (s : State) : State :=
  let old := if r < 2 ∧ off = 0 then [] else (findKey r s.mgmt.flash).getD []
  { s with mgmt := { s.mgmt with flash := AL.set [] r (putFlash off b old) s.mgmt.flash } }

/-- The writes that verification has held are carried out. -/
def releaseWrites (s : State) : State :=
  let t := s.mgmt.held.foldl (fun t w => writeFlash w.1 w.2.1 w.2.2 t) s
  if s.mgmt.held.isEmpty then t else { t with mgmt := { t.mgmt with held := [], result := [0] } }

/-- Does verification run: Naust has started, and no slot has been accepted or both refused? -/
def verifying (s : State) : Bool := s.boot.naust && rbits R.NST_STAT 1 0 s == 0 && !bootEnded s

/-- Neither slot is accepted (R332). -/
def noImage (s : State) : State := rsetBits R.HIF_BOOT 23 16 4 (rsetBits R.HIF_BOOT 3 0 6 (rsetBits R.NST_STAT 1 0 3 s))

/-- KEEPER_VERIFY: the preferred slot first, then the other one; neither accepted stops the boot. -/
def keeperVerify (s : State) : State :=
  if verifying s then
    let a := if flashByte 2 0 s = 1 then 1 else 0
    releaseWrites (
      if imageAccepted a s then showStage (takeImage a s)
      else if imageAccepted (1 - a) s then showStage (takeImage (1 - a) (rsetBit R.NST_EVT 0 s))
      else noImage s)
  else s

def execKeeperVerify (s : State) : Host.Outcome State Fault Refusal := .next (keeperVerify s)

/-! ### Memories, release and READY (R362 to R367) -/

/-- Every unit of a bit set of eight is done. -/
def allEight (v : Nat) : Bool := v % 256 == 255

/-- A stack has trained and been written to zero. -/
def stackTrained (k : Nat) (s : State) : State :=
  let v := s.boot.trained ||| 2 ^ k
  let t := zeroRange (k * 2 ^ 36) ((k + 1) * 2 ^ 36) { s with boot := { s.boot with trained := v } }
  showStage (if allEight v then rsetBit R.HIF_BOOT 8 t else t)

/-- A channel group of the spill tier has trained; the last one ends the zero fill. -/
def spillTrained (g : Nat) (s : State) : State :=
  let v := s.boot.groups ||| 2 ^ g
  let t : State := { s with boot := { s.boot with groups := v } }
  showStage (if allEight v then rsetBit R.HIF_BOOT 9 (zeroRange spillBase spillEnd t) else t)

/-- MEMORY_TRAINING_DONE: a stack whose interface holds its tokens (R322), or a channel group; a failure halts bring-up
(R364). -/
def trainingDone (x : TrainUnit) (ok : Bool) (s : State) : State :=
  if bootEnded s then s
  else
    match x with
    | .stack k =>
      if s.boot.supplies < 5 ∨ s.boot.trained.testBit k.val ∨ !s.power.vert.contains k.val then s
      else if ok then stackTrained k.val s else bootFails 2 k.val s
    | .spill g =>
      if s.boot.supplies < 3 ∨ s.boot.groups.testBit g.val then s
      else if ok then spillTrained g.val s else bootFails 3 g.val s

def execMemoryTrainingDone (u : TrainUnit) (ok : Bool) (s : State) : Host.Outcome State Fault Refusal := .next (trainingDone u ok s)

/-- Device at the far end of port p as Table 13.2 gives it, when this domain expects it, or the domain of a counterpart that
DOMAINS holds (R366). -/
def portWanted (s : State) (p : Nat) : Bool :=
  let (dm, d, _) := farEnd p s
  if p < 14 then expected d s else dm != myDom s && (rbits R.KPR_CFG 42 32 s).testBit dm

/-- LNK_PORT_EN as the Keeper sets it at release. -/
def portsWanted (s : State) : Nat := ((List.range 24).filter (portWanted s)).foldl (fun v p => v ||| 2 ^ p) 0

/-- KEEPER_RELEASE (R283, R362, R365, R366): the ports, LNK_LOCK, SYS_READY, and on the manager formation. -/
def keeperRelease (s : State) : State :=
  if !s.boot.verified || s.boot.released || bootEnded s then s
  else
    let t : State := { s with boot := { s.boot with released := true }, keeper := { s.keeper with forming := isManager s } }
    let t : State := { t with pcie := { t.pcie with sysReady := true, training := !t.pcie.perst } }
    let t := if isManager t then showLead (rsetBit R.KPR_MACHINE (myDom t) (rset R.KPR_PRESENT (2 ^ myDev t) t)) else t
    let old := rget R.LNK_PORT_EN t
    let new := portsWanted t
    let t := showLinks ((List.range 24).foldl (portEnable old new) (rset R.LNK_PORT_EN new t))
    let t := showStage (rsetBit R.LNK_LOCK 0 t)
    if isManager t && allJoined t then formationDone t else t

def execKeeperRelease (s : State) : Host.Outcome State Fault Refusal := .next (keeperRelease s)

/-- READY (R367). -/
def becomeReady (s : State) : State :=
  if isManager s && s.boot.released && memoriesReady s && rbit R.KPR_STAT 4 s && !bootEnded s then
    raiseVector 135 (setPwrState 0 (rsetBits R.HIF_BOOT 3 0 5 s))
  else s

def execReady (s : State) : Host.Outcome State Fault Refusal := .next (becomeReady s)

/-! ### The management bus (R381, R382) -/

/-- Is the bus served: its always-on supply is good? -/
def busServed (s : State) : Bool := s.boot.qualified && decide (1 ≤ s.boot.supplies)

/-- Status codes of R381. -/
def mOK : Byte := 0
def mBUSY : Byte := 1
def mBADADDR : Byte := 2
def mBADCMD : Byte := 3

def setResult (b : Bytes) (s : State) : State := { s with mgmt := { s.mgmt with result := b } }

/-- A command of the bus; one that arrives while a write is held waits its turn, and the status reads BUSY. -/
def busCommand (f : State → State) (s : State) : State :=
  if !busServed s then s else if !s.mgmt.held.isEmpty then setResult [mBUSY] s else f s

/-- READ: 32-bit words of the register space. -/
def busRead (a n : Nat) (s : State) : State :=
  busCommand (fun s =>
    if a % 4 ≠ 0 ∨ n = 0 ∨ 64 < n then setResult [mBADCMD] s
    else if a < regBase ∨ regEnd < a + 4 * n then setResult [mBADADDR] s
    else
      let (b, t) := readWords n (a - regBase) s
      setResult (mOK :: b) t) s

def execRead (addr : BitVec 48) (n : Nat) (s : State) : Host.Outcome State Fault Refusal := .next (busRead addr.toNat n s)

/-- FLASH_WRITE: held while verification runs. -/
def flashWrite (r off : Nat) (b : Bytes) (s : State) : State :=
  if !busServed s then s
  else if 4 < r ∨ b.length = 0 ∨ 256 < b.length then (if s.mgmt.held.isEmpty then setResult [mBADCMD] s else setResult [mBUSY] s)
  else if flashSize r < off + b.length then (if s.mgmt.held.isEmpty then setResult [mBADADDR] s else setResult [mBUSY] s)
  else if verifying s then setResult [mBUSY] { s with mgmt := { s.mgmt with held := s.mgmt.held ++ [(r, off, b)] } }
  else setResult [mOK] (writeFlash r off b s)

def execFlashWrite (region off : Nat) (data : Bytes) (s : State) : Host.Outcome State Fault Refusal := .next (flashWrite region off data s)

/-- FLASH_READ. -/
def flashRead (r off n : Nat) (s : State) : State :=
  busCommand (fun s =>
    if 4 < r ∨ n = 0 ∨ 256 < n then setResult [mBADCMD] s
    else if flashSize r < off + n then setResult [mBADADDR] s
    else setResult (mOK :: flashBytes r off n s) s) s

def execFlashRead (region off n : Nat) (s : State) : Host.Outcome State Fault Refusal := .next (flashRead region off n s)

/-- CEIL_LOAD (R339): a record that arrives through the bus. -/
def execCeilLoad (s : State) : Host.Outcome State Fault Refusal :=
  .next (busCommand (fun s => if s.boot.naust then setResult [mOK] (checkCeilings true s) else s) s)

/-- RESET: byte 1 must be 0xA5; held writes are carried out first, and records saved. -/
def busReset (key : Nat) (s : State) : State :=
  if !busServed s then s
  else if key ≠ 0xA5 then setResult [mBADCMD] s
  else setResult [mOK] (moduleReset (saveRecords (releaseWrites s)))

def execReset (key : BitVec 8) (s : State) : Host.Outcome State Fault Refusal := .next (busReset key.toNat s)

/-- STATUS: HIF_BOOT, then NST_STAT. -/
def busStatus (s : State) : State :=
  busCommand (fun s => setResult (mOK :: (leBytes 4 (rget R.HIF_BOOT s) ++ leBytes 4 (rget R.NST_STAT s))) s) s

def execStatus (s : State) : Host.Outcome State Fault Refusal := .next (busStatus s)

/-! ### The test access port (R380) -/

/-- An instruction is loaded. -/
def loadTap (i : TapInstr) (s : State) : State := { s with mgmt := { s.mgmt with tap := i } }

def execBypass (s : State) : Host.Outcome State Fault Refusal := .next (if busServed s then loadTap .bypass s else s)

/-- IDCODE reads 0x20F5_1947. -/
def tapIdcode (s : State) : State :=
  let t := loadTap .idcode s
  { t with out := { t.out with rdata := leBytes 4 0x20F51947 } }

def execIdcode (s : State) : Host.Outcome State Fault Refusal := .next (if busServed s then tapIdcode s else s)

/-- SAMPLE/PRELOAD: the boundary cells are loaded. -/
def tapPreload (cells : Bytes) (s : State) : State :=
  let t := loadTap .samplePreload s
  { t with mgmt := { t.mgmt with cells := cells } }

def execSamplePreload (cells : Bytes) (s : State) : Host.Outcome State Fault Refusal := .next (if busServed s then tapPreload cells s else s)

/-- EXTEST: only while MOD_RST_N is held low; otherwise the port is left in BYPASS. -/
def execExtest (rstLow : Bool) (s : State) : Host.Outcome State Fault Refusal :=
  .next (if busServed s then loadTap (if rstLow then .extest else .bypass) s else s)

end Sys2Proof.Machine
end

