-- ==== Sys2Proof/Machine/HostPort.lean ====
section
/-! DEFINITION. The PCIe port and its function (chapter 02, R359, R365): resets, link changes, power states, the BAR 4
window and DOE discovery. -/

namespace Sys2Proof.Machine

/-! ### Function Level Reset (R22) -/

/-- Queue q goes to DISABLED without a record. -/
def dropQueue (s : State) (q : Nat) : State := if qState q s = 0 then s else disableQueue q s

/-- A running channel is aborted (R203). -/
def abortRunning (s : State) (n : Nat) : State := if rbits (R.DMA_Dnn_STAT n) 2 0 s = 1 then abortChan n s else s

/-- Every queue is DISABLED without a record, started commands run to their stopping points, and channels that were started
directly are aborted (R203); memory, markers and QFE_JOB are kept. -/
def functionReset (s : State) : State :=
  let t := (List.range 32).foldl abortRunning (stopCommands (fun _ => true) ((List.range numQueues).foldl dropQueue s))
  showRhalt { t with fwds := [], rhalts := [] }

/-- A reset of the module's function: on the manager the queues stop. -/
def flr (s : State) : State := if isManager s then functionReset (clearConfig s) else clearConfig s

/-- FUNCTION_LEVEL_RESET. The manager's stops the queues of every device of its domain: it reaches a worker that has joined through
its Keeper. Where such a worker has a host link of its own, a free value says whose function is meant (log 143). -/
def flrHere (s : State) : State :=
  if isManager s || !s.keeper.joined then flr s
  else if !rbit R.HIF_LINKSTAT 14 s then functionReset s
  else if Config.freeNat s.freeCtr % 2 = 0 then flr (bumpFree s) else functionReset (bumpFree s)

def execFunctionLevelReset (s : State) : Host.Outcome State Fault Refusal := .next (flrHere s)

/-! ### The link (R20, R359, R365) -/

/-- The interface retrains: no link for now; on the manager as for a Function Level Reset (Table 20.2). -/
def linkLost (training : Bool) (s : State) : State :=
  flr (rset R.HIF_LINKSTAT 0 { s with pcie := { s.pcie with training := training } })

/-- Does a link of this speed code and width run degraded (R20)? -/
def linkDegraded (l : LinkTrained) : Bool := decide (l.speed.val < 5) || decide (l.width < 16)

/-- HIF_LINKSTAT of a trained link (Table 21.4). -/
def linkImage (l : LinkTrained) : Nat := l.speed.val + (l.width <<< 8) + (nb l.flit <<< 13) + 2 ^ 14 + (nb (linkDegraded l) <<< 16)

/-- A link that the module supports (R20): non-flit mode only at 32 GT/s and below. -/
def linkOk (l : LinkTrained) : Bool :=
  l.speed.val != 0 && (l.width == 4 || l.width == 8 || l.width == 16) && (l.flit || decide (l.speed.val ≤ 5))

/-- PCIE_LINK_CHANGE: training ends or the link changes, once SYS_READY is high and PERST# is not asserted; or the link is
lost. -/
def pcieLinkChange (l : LinkTrained) (s : State) : State :=
  if !s.pcie.sysReady || s.pcie.perst then s
  else if l.up then
    if linkOk l then
      let was := rbit R.HIF_LINKSTAT 16 s
      let t := rset R.HIF_LINKSTAT (linkImage l) { s with pcie := { s.pcie with training := false } }
      if linkDegraded l && !was then raiseVector 132 (rsetBit R.HIF_EVT 0 t) else t
    else s
  else if rbit R.HIF_LINKSTAT 14 s then linkLost true s
  else s

def execPcieLinkChange (l : LinkTrained) (s : State) : Host.Outcome State Fault Refusal := .next (pcieLinkChange l s)

/-- PERST_ASSERT: no training while it is asserted. -/
def perstAssert (s : State) : State := if s.pcie.perst then s else linkLost false { s with pcie := { s.pcie with perst := true } }

def execPerstAssert (s : State) : Host.Outcome State Fault Refusal := .next (perstAssert s)

/-- PERST_DEASSERT: training starts, or waits for SYS_READY. -/
def perstDeassert (s : State) : State :=
  if s.pcie.perst then { s with pcie := { s.pcie with perst := false, training := s.pcie.sysReady } } else s

def execPerstDeassert (s : State) : Host.Outcome State Fault Refusal := .next (perstDeassert s)

/-- HOT_RESET on a link that is up. -/
def hotReset (s : State) : State := if rbit R.HIF_LINKSTAT 14 s then linkLost true s else s

def execHotReset (s : State) : Host.Outcome State Fault Refusal := .next (hotReset s)

/-! ### The BAR 4 window (R24, R25) -/

def winBase (s : State) : Nat := rget R.HIF_WIN_BASE s
def winSize (s : State) : Nat := 2 ^ rbits R.HIF_WIN_STAT 9 4 s

/-- Does the window meet R24? -/
def winPlaced (s : State) : Bool :=
  winBase s % winSize s == 0 && (inStacked (winBase s) (winSize s) || inSpill (winBase s) (winSize s))

/-- HIF_WIN_STAT.OPEN; in Holdfast it reads 0 (R22). -/
def showWindow (s : State) : State := rsetBits R.HIF_WIN_STAT 0 0 (nb (winPlaced s && !inHoldfast s)) s

def winOpen (s : State) : Bool := rbit R.HIF_WIN_STAT 0 s

/-- HIF_WIN_BASE_WRITE: bits 47:30. -/
def winBaseWrite (v : Nat) (s : State) : State := showWindow (rset R.HIF_WIN_BASE (v &&& 0xFFFFC0000000) s)

def execHifWinBaseWrite (v : BitVec 64) (s : State) : Host.Outcome State Fault Refusal := .next (winBaseWrite v.toNat s)

/-- RESIZABLE_BAR_WRITE: sizes from 1 GiB to 512 GiB (Table 2.1); the capability offers no other. -/
def barSize (k : Nat) (s : State) : State := if 30 ≤ k ∧ k ≤ 39 then showWindow (rsetBits R.HIF_WIN_STAT 9 4 k s) else s

def execResizableBarWrite (log2 : Nat) (s : State) : Host.Outcome State Fault Refusal := .next (barSize log2 s)

/-- AER's uncorrectable kind for Unsupported Request. -/
def aerUR : Nat := 20

/-- An access completes as Unsupported Request; a read returns all ones. -/
def unsupported (a : WindowAcc) (s : State) : State :=
  let b := match a.data with | none => List.replicate a.len 0xFF | some _ => []
  { s with out := { s.out with rdata := b, ur := true, ep := false } }

/-- An access meets a closed window. -/
def closedAccess (a : WindowAcc) (s : State) : State :=
  unsupported a (rsetBit R.HIF_EVT 1 { s with pcie := { s.pcie with aer := aerUR :: s.pcie.aer } })

/-- AER's uncorrectable kind for a poisoned completion. -/
def aerPoison : Nat := 12

/-- DRAM accesses of n bytes from the module's own address `x`, as they went: each names its line from the first. Is data delivered
poisoned for want of a good repeat? -/
def windowReads (x n : Nat) (l : List Landing) (s : State) : State × Bool :=
  (l.filter (fun e => decide (128 * e.line < x % 128 + n))).foldl (fun r e =>
    let d := dramRead (128 * (lineOf x + e.line)) { e with line := 0 } r.1
    (d.1, r.2 || d.2)) (s, false)

/-- A read through the window: what its DRAM reads come to is acted on, and poisoned data come with EP, which AER logs (R146,
R147). -/
def windowRead (x n : Nat) (l : List Landing) (s : State) : State :=
  let r := windowReads x n l (touchRange x n s)
  let ep := r.2 || poisoned r.1 x n
  { r.1 with out := { r.1.out with rdata := readBytes r.1 x n, ur := false, ep := ep },
             pcie := { r.1.pcie with aer := if ep then aerPoison :: r.1.pcie.aer else r.1.pcie.aer } }

/-- A write through the window, coherent with every engine; a stack that no repeat of a write reaches is lost (R147). -/
def windowWrite (x : Nat) (b : Bytes) (l : List Landing) (s : State) : State :=
  let r := (l.filter (fun e => decide (128 * e.line < x % 128 + b.length))).foldl (fun r e =>
    if r.2 then r else dramWrite (128 * (lineOf x + e.line)) e r.1) (s, false)
  if r.2 then r.1
  else
    let t := poke x b r.1
    { t with out := { t.out with rdata := [], ur := false, ep := false } }

/-- A host access through BAR 4: it leaves Slack (Table 17.3), and waits for a bank command that holds what it reaches (R152). -/
def barWindow (a : WindowAcc) (s : State) : State :=
  let n := match a.data with | none => a.len | some b => b.length
  if !winOpen s || decide (winSize s < a.offset + n) then closedAccess a s
  else
    let t := leaveSlack s
    if bankHolds (winBase s + a.offset) n t then t
    else
      match a.data with
      | none => windowRead (winBase s + a.offset) a.len a.dram t
      | some b => windowWrite (winBase s + a.offset) b a.dram t

/-! ### BAR 2 (Table 2.3, R38) -/

/-- Data of a completed access. -/
def completes (b : Bytes) (s : State) : State := { s with out := { s.out with rdata := b, ur := false, ep := false } }

/-- Word i of the MSI-X table: a vector's control word is masked after reset. -/
def msixWord (i : Nat) (s : State) : Nat := AL.get (if i % 4 = 3 then 1 else 0) i s.pcie.msix

/-- The 32-bit word of BAR 2 at `off`, a multiple of 4 (Table 2.3); a worker has the MSI-X table and the PBA only. -/
def bar2Word (off : Nat) (s : State) : Nat :=
  if 0xF0000 ≤ off ∧ off < 0xF8000 then msixWord ((off - 0xF0000) / 4) s
  else if 0xF8000 ≤ off ∧ off < 0xF8100 then (s.pcie.pba.filter (fun v => v / 32 == (off - 0xF8000) / 4)).foldl (fun a v => a + 2 ^ (v % 32)) 0
  else if !isManager s then 0
  else if off % 0x1000 = 0 ∧ off / 0x1000 < numQueues then qHead (off / 0x1000) s
  else if 0x80000 ≤ off ∧ off < 0x88000 ∧ off % 8 = 0 then (if inHoldfast s then 0 else markerCount ((off - 0x80000) / 8) s)
  else 0

/-- A read of BAR 2: 32 or 64 bits, aligned; any other returns 0 (R6). -/
def bar2Read (off n : Nat) (s : State) : Bytes :=
  if n = 4 ∧ off % 4 = 0 then leBytes 4 (bar2Word off s)
  else if n = 8 ∧ off % 8 = 0 then leBytes 4 (bar2Word off s) ++ leBytes 4 (bar2Word (off + 4) s)
  else List.replicate n 0

/-- A word of the MSI-X table is written: vectors that are no longer masked and pending are signalled. -/
def msixWrite (i v : Nat) (s : State) : State :=
  deliverPending { s with pcie := { s.pcie with msix := AL.set (if i % 4 = 3 then 1 else 0) i v s.pcie.msix } }

/-- An aligned 32-bit or 64-bit write of BAR 2: of 64 bits a doorbell or a marker window takes the low half. -/
def bar2Write (off n v : Nat) (s : State) : State :=
  if !(n = 4 ∧ off % 4 = 0) ∧ !(n = 8 ∧ off % 8 = 0) then s
  else if 0xF0000 ≤ off ∧ off < 0xF8000 then
    let t := msixWrite ((off - 0xF0000) / 4) (v % 2 ^ 32) s
    if n = 8 then msixWrite ((off - 0xF0000) / 4 + 1) (v / 2 ^ 32) t else t
  else if !isManager s then s
  else if off % 0x1000 = 0 ∧ off / 0x1000 < numQueues then doorbell (off / 0x1000) (v % 2 ^ 32) s
  else if 0x80000 ≤ off ∧ off < 0x88000 ∧ off % 8 = 0 then markerWindow ((off - 0x80000) / 8) (v % 2 ^ 32) s
  else s

def barTwo (a : WindowAcc) (s : State) : State :=
  match a.data with
  | none => completes (bar2Read a.offset a.len s) s
  | some b => completes [] (bar2Write a.offset b.length (ofLe b) s)

/-! ### Configuration space (R21, Table 2.1, log 118) -/

/-- Extended capabilities in the order of the list: offset and identifier. -/
def extCaps : List (Nat × Nat) :=
  [(0x100, 0x0001), (0x150, 0x0003), (0x160, 0x0015), (0x170, 0x002E), (0x190, 0x0019), (0x1C0, 0x0025), (0x1D0, 0x0026),
   (0x200, 0x0027), (0x250, 0x002A), (0x290, 0x0031), (0x2D0, Config.cap128), (0x310, 0x002F), (0x330, 0x0032)]

/-- Header of the i-th extended capability: identifier, version 1, offset of the next. -/
def extHeader (i : Nat) : Nat :=
  (extCaps.getD i (0, 0)).2 % 65536 + 2 ^ 16 + ((extCaps.getD (i + 1) (0, 0)).1 <<< 20)

/-- What the host has written at `off`. -/
def cfgStored (off : Nat) (s : State) : Nat := AL.get 0 off s.pcie.cfg

/-- Base address register pair `i` (Table 2.2): the address bits above the size, and the kind; a worker has no BAR 0. -/
def barPair (i : Nat) (s : State) : Nat :=
  let raw := cfgStored (0x10 + 8 * i) s + (cfgStored (0x14 + 8 * i) s <<< 32)
  if i = 0 then (if isManager s then raw / 2 ^ 26 * 2 ^ 26 + 4 else 0)
  else if i = 1 then raw / 2 ^ 20 * 2 ^ 20 + 4
  else raw / winSize s * winSize s + 12

/-- The 32-bit word of configuration space at `off`, a multiple of 4. -/
def configWord (off : Nat) (s : State) : Nat :=
  match extCaps.findIdx? (fun c => c.1 == off) with
  | some i => extHeader i
  | none =>
    match off with
    | 0x00 => Config.pciIds % 2 ^ 32
    | 0x04 => cfgStored 0x04 s + (0x10 <<< 16)
    | 0x08 => 0x12000000 + rbits R.HIF_IDENT 7 0 s
    | 0x10 => barPair 0 s % 2 ^ 32
    | 0x14 => barPair 0 s / 2 ^ 32
    | 0x18 => barPair 1 s % 2 ^ 32
    | 0x1C => barPair 1 s / 2 ^ 32
    | 0x20 => barPair 2 s % 2 ^ 32
    | 0x24 => barPair 2 s / 2 ^ 32
    | 0x2C => Config.pciIds % 2 ^ 32
    | 0x34 => 0x40
    | 0x40 => 0x00034801
    | 0x44 => if s.pcie.d3hot then 3 else 0
    | 0x48 => 0x07FF6011 + cfgStored 0x48 s
    | 0x4C => 0xF0002
    | 0x50 => 0xF8002
    | 0x60 => 0x00020010
    | 0x64 => 0x10000022
    | 0x68 => AL.get 0x2000 0x68 s.pcie.cfg
    | 0x6C => 0x00000107
    | 0x70 => (rbits R.HIF_LINKSTAT 2 0 s + (rbits R.HIF_LINKSTAT 12 8 s <<< 4)) <<< 16
    | 0x104 => (s.pcie.aer.eraseDups).foldl (fun a k => a + 2 ^ (k % 32)) 0
    | 0x154 => rget R.NST_SERIAL s % 2 ^ 32
    | 0x158 => rget R.NST_SERIAL s / 2 ^ 32
    | 0x164 => 0x00FFC000
    | 0x168 => 0x24 + ((rbits R.HIF_WIN_STAT 9 4 s - 20) <<< 8)
    | 0x314 => 2
    | _ => 0

/-- PM_STATE_WRITE: D3hot stops the decoding of BARs and nothing else (Table 2.1). -/
def pmState (d3hot : Bool) (s : State) : State := { s with pcie := { s.pcie with d3hot := d3hot } }

def execPmStateWrite (d3hot : Bool) (s : State) : Host.Outcome State Fault Refusal := .next (pmState d3hot s)

def cfgStore (off v : Nat) (s : State) : State := { s with pcie := { s.pcie with cfg := AL.set (if off = 0x68 then 0x2000 else 0) off v s.pcie.cfg } }

/-- The word at `off` is written: power state, MSI-X control, payload of 128 to 512 bytes and read requests up to 4,096, Function
Level Reset, errors cleared, and the size of BAR 4. -/
def configPut (off v : Nat) (s : State) : State :=
  if off = 0x04 then cfgStore off (v &&& 0x547) s
  else if 0x10 ≤ off ∧ off ≤ 0x24 then cfgStore off v s
  else if off = 0x44 then (if v % 4 = 0 then pmState false s else if v % 4 = 3 then pmState true s else s)
  else if off = 0x48 then deliverPending (cfgStore off (v &&& 0xC0000000) s)
  else if off = 0x68 then
    let t := if bits v 7 5 ≤ 2 ∧ bits v 14 12 ≤ 5 then cfgStore off (v &&& 0x70E0) s else s
    if v.testBit 15 then flr t else t
  else if off = 0x104 then { s with pcie := { s.pcie with aer := s.pcie.aer.filter (fun k => !v.testBit (k % 32)) } }
  else if off = 0x168 then barSize (bits v 13 8 + 20) s
  else s

/-- An access of configuration space within one word. -/
def configAccess (a : WindowAcc) (s : State) : State :=
  let w := a.offset / 4 * 4
  let k := a.offset % 4
  if 4096 ≤ a.offset ∨ 4 < k + (match a.data with | none => a.len | some b => b.length) then s
  else
    match a.data with
    | none => completes (slice (leBytes 4 (configWord w s)) k a.len) s
    | some b => completes [] (configPut w (ofLe (patch (leBytes 4 (configWord w s)) k b)) s)

/-- WINDOW_ACCESS: a host access arrives only while the link is up; in D3hot no BAR decodes (Table 2.1). -/
def windowAccess (a : WindowAcc) (s : State) : State :=
  if !rbit R.HIF_LINKSTAT 14 s then s
  else
    match a.space with
    | .config => configAccess a s
    | .bar2 => if s.pcie.d3hot then unsupported a s else barTwo a s
    | .window => if s.pcie.d3hot then unsupported a s else barWindow a s

def execWindowAccess (a : WindowAcc) (s : State) : Host.Outcome State Fault Refusal := .next (windowAccess a s)

/-! ### DOE discovery (Table 2.1) -/

/-- A discovery response: vendor ID, object type and next index, as the PCIe base specification lays it out (log 61). -/
def doeEntry (index : Nat) : Bytes :=
  if index = 0 then leBytes 2 1 ++ [0, 1] else if index = 1 then leBytes 2 1 ++ [1, 0] else leBytes 2 0xFFFF ++ [0, 0]

/-- DOE_DISCOVERY: discovery and SPDM are all the mailbox carries. -/
def doeDiscovery (index : Nat) (s : State) : State :=
  if s.boot.released then { s with pcie := { s.pcie with doe := some (doeEntry index) } } else s

def execDoeDiscovery (index : BitVec 8) (s : State) : Host.Outcome State Fault Refusal := .next (doeDiscovery index.toNat s)

end Sys2Proof.Machine
end

