-- ==== Sys2Proof/Machine/Regs.lean ====
section
/-! DEFINITION. Writes of registers (R4 to R6, R371 to R377): access types and locks, the special stores of each block's map,
the refusals of Table 21.6, the clamps of R324, and the writes that have rows of their own. -/

namespace Sys2Proof.Machine

/-! ### Plain stores (Table 0.2) -/

/-- Bits of `v` outside `m` kept, those inside taken from `x`. -/
def mergeBits (v m x : Nat) : Nat := (v - (v &&& m)) ||| (x &&& m)

/-- Bits of `v` inside `m` cleared. -/
def clearBits (v m : Nat) : Nat := v - (v &&& m)

/-- The bits `m` of a register are written with `v`, by its access types. -/
def storeReg (d : RegDef) (off m v : Nat) (locked : Bool) (s : State) : State :=
  let wm := (d.rw ||| (if locked then 0 else d.rwl)) &&& m
  rset off (clearBits (mergeBits (rget off s) wm v) (d.w1c &&& m &&& v) ||| (d.w1s &&& m &&& v)) s

/-- Bits hi:lo of a register are stored as x instead of what was written, and that counts as misuse. -/
def storedAs (b off hi lo x : Nat) (s : State) : State := misuse b (rsetBits off hi lo x s)

/-- A field is clamped to its ceiling (R324). -/
def clampField (off hi lo c : Nat) (s : State) : State := if c < rbits off hi lo s then clamped (rsetBits off hi lo c s) else s

/-! ### Special stores, block by block. `s` is the state before the write, `t` the one after the plain store. -/

/-- Register and queue of an offset in the per-queue part of QFE. -/
def queueOfReg (off : Nat) : Option (Nat × Nat) :=
  let k := off - R.QFE_Qn_BASE 0
  if R.QFE_Qn_BASE 0 ≤ off ∧ k / 0x100 < numQueues then some (k / 0x100, k % 0x100) else none

/-- QFE_Qn_CTL (Table 2.13). In Holdfast every queue is DISABLED: RESUME, FLUSH and a 1 to ENABLE count as misuse and change
no queue (R377). -/
def fixQueueCtl (q v : Nat) (s t : State) : State :=
  let on := rbit (R.QFE_Qn_CTL q) 0 s
  let t := rsetBits (R.QFE_Qn_CTL q) 0 0 (nb on) t
  let t := if bits v 5 4 = 0 then t else resumeQueue q (bits v 5 4) t
  let t := if v.testBit 6 then flushQueue q t else t
  if v.testBit 0 then (if on then t else queueEnable q t) else if on then queueDisable q t else t

/-- QFE_RCTL (Table 2.12). -/
def fixRctl (v : Nat) (t : State) : State :=
  let t := if bits v 17 16 = 0 ∨ inHoldfast t then t else rctl (bits v 17 16) (bits v 5 0) (bits v 13 8) t
  if v.testBit 24 then rhaltPop t else t

def fixQFE (off v : Nat) (s t : State) : State :=
  match queueOfReg off with
  | some (q, r) =>
    if r = 0 ∨ r = 8 then (if qState q s = 0 then t else misuse bQFE s)
    else if r = 0x20 then fixQueueCtl q v s t
    else t
  | none =>
    if off = R.QFE_RCTL then fixRctl v t
    else if R.QFE_MARM 0 ≤ off then fireArm ((off - R.QFE_MARM 0) / 8) t
    else t

def fixCORE (off v : Nat) (t : State) : State :=
  if off = R.CORE_ARB then (if 16 < rget off t then storedAs bCORE off 4 0 16 t else t)
  else if off = R.CORE_CTL ∧ v.testBit 15 then inject (rbits off 13 8 t) (rbit off 14 t) t
  else t

/-- KVP_CTL.ENABLE: 1 enables or is refused (R139); 0 is ignored while a slot is open. -/
def fixKvpCtl (v : Nat) (s t : State) : State :=
  let on := rbit R.KVP_CTL 0 s
  let t := rsetBits R.KVP_CTL 0 0 (nb on) t
  if v.testBit 0 then (if on then t else kvpEnable t)
  else if !on then t
  else if s.kvp.slots.any (fun x => x.2.isOpen) then misuse bKVP t
  else rclrBit R.KVP_STAT 0 (rclrBit R.KVP_CTL 0 t)

def fixKVP (off v : Nat) (s t : State) : State :=
  if off = R.KVP_CTL then fixKvpCtl v s t
  else if off = R.KVP_WATER then
    showDepthOfPool (if rbits off 55 32 t ≤ rbits off 23 0 t then storedAs bKVP off 55 32 (rbits off 23 0 t + 1) t else t)
  else if off = R.KVP_PF then showDepthOfPool (clampField off 7 0 (rbits R.PWR_CEIL_PF 7 0 t) t)
  else t

/-- The contents of group g of die d become undefined (R142). -/
def forgetGroup (d g : Nat) (s : State) : State :=
  (List.range 4).foldl (fun t z => let a := (4 * d + z) * 2 ^ 36 + g * 2 ^ 30; forgetRange a (a + 2 ^ 30) t) s

/-- Groups whose placement a write changes, of those that an access has reached. -/
def fixIlv (d off : Nat) (s t : State) : State :=
  let hit (g : Nat) : Bool := rbit off g s != rbit off g t && s.touched.contains (64 * d + g)
  ((List.range 64).filter hit).foldl (fun t g => forgetGroup d g t) t

/-- MEM_THERM (Table 8.9). -/
def fixMemTherm (s t : State) : State :=
  let u := if 105 < rbits R.MEM_THERM 23 16 t then rsetBits R.MEM_THERM 23 16 105 t else t
  if rbits R.MEM_THERM 23 16 u ≤ rbits R.MEM_THERM 7 0 u + 3 * rbits R.MEM_THERM 15 8 u then misuse bMEM s else u

def fixMEM (off : Nat) (s t : State) : State :=
  if off = R.MEM_D0_ILV then fixIlv 0 off s t
  else if off = R.MEM_D1_ILV then fixIlv 1 off s t
  else if off = R.MEM_RETRY then (if rget off t = 0 then storedAs bMEM off 3 0 1 t else t)
  else if off = R.MEM_THERM then fixMemTherm s t
  else t

def fixSHC (off : Nat) (t : State) : State :=
  if off = R.SHC_ACC_LIMIT ∧ 96 < rget off t then storedAs bSHC off 6 0 96 t else t

def fixBNK (off v : Nat) (s t : State) : State :=
  if off = R.BNK_CTL then
    let t := rsetBits off 0 0 (rbits off 0 0 s) t
    if v.testBit 0 then bankHold t else bankWake t
  else t

/-- May LEND_EN be set (R194)? -/
def lendOk (s : State) : Bool :=
  rget R.STR_D0_SPILL_BASE s != 0 && rget R.STR_D1_SPILL_BASE s != 0 &&
    decide (32 * rbits R.STR_CTL 15 12 s * 2 ^ 18 ≤ rget R.STR_SPILL_SIZE s * 2 ^ 20)

/-- STR_CTL (Table 10.5): RUNAHEAD within 1 to 16, LEND_EN only with spill areas. -/
def fixStrCtl (t : State) : State :=
  let r := rbits R.STR_CTL 4 0 t
  let t := if r = 0 then storedAs bSTR R.STR_CTL 4 0 1 t else if 16 < r then storedAs bSTR R.STR_CTL 4 0 16 t else t
  if rbit R.STR_CTL 8 t && !lendOk t then storedAs bSTR R.STR_CTL 8 8 0 t else t

/-- A field of STR_TAGCAP: 0 or above 2,048 is stored as 2,048. -/
def capOk (x : Nat) : Bool := decide (1 ≤ x) && decide (x ≤ 2048)

def fixTagcap (t : State) : State :=
  let a := rbits R.STR_TAGCAP 11 0 t
  let b := rbits R.STR_TAGCAP 27 16 t
  if capOk a && capOk b then t
  else misuse bSTR (rsetBits R.STR_TAGCAP 11 0 (if capOk a then a else 2048) (rsetBits R.STR_TAGCAP 27 16 (if capOk b then b else 2048) t))

def fixSTR (off : Nat) (t : State) : State :=
  if off = R.STR_CTL then fixStrCtl t else if off = R.STR_TAGCAP then fixTagcap t else t

/-- DMA_Dnn_CTL (Table 10.7): START, then ABORT. -/
def fixDmaCtl (n v : Nat) (s t : State) : State :=
  let t := rsetBits (R.DMA_Dnn_CTL n) 0 0 (rbits (R.DMA_Dnn_CTL n) 0 0 s) t
  let t := if v.testBit 0 then dmaStart n t else t
  if v.testBit 1 then dmaAbort n t else t

def fixDMA (off v : Nat) (s t : State) : State :=
  if R.DMA_Dnn_CTL 0 ≤ off ∧ (off - R.DMA_Dnn_CTL 0) % 0x40 = 0 then fixDmaCtl ((off - R.DMA_Dnn_CTL 0) / 0x40) v s t else t

/-- STS_CTL.ENABLE: 1 enables or is refused (R207); 0 is ignored while an entry is not FREE. -/
def fixStsCtl (v : Nat) (s t : State) : State :=
  let on := rbit R.STS_CTL 0 s
  let t := rsetBits R.STS_CTL 0 0 (nb on) t
  if v.testBit 0 then (if on then t else stsEnable t)
  else if !on then t
  else if s.stash.any (fun x => x.2.state != .free) then misuse bSTS t
  else rclrBit R.STS_CTL 0 t

/-- STS_WATER: HIGH comes down to its ceiling, and is kept above LOW. -/
def fixWater (t : State) : State :=
  let t := clampField R.STS_WATER 31 16 (rbits R.PWR_CEIL_STS 15 0 t) t
  if rbits R.STS_WATER 31 16 t ≤ rbits R.STS_WATER 15 0 t then storedAs bSTS R.STS_WATER 31 16 (rbits R.STS_WATER 15 0 t + 1) t else t

def fixSTS (off v : Nat) (s t : State) : State :=
  if off = R.STS_CTL then fixStsCtl v s t else if off = R.STS_WATER then fixWater t else t

def fixCMP (off : Nat) (t : State) : State :=
  if off = R.CMP_SAMPLE ∧ rget off t < 4 then storedAs bCMP off 11 0 4 t else t

/-- Is any port beyond DISABLED? -/
def portsBeyond (s : State) : Bool := (List.range 24).any (fun p => portState p s != psDisabled)

/-- LNK_CREDIT (R249): its classes are at least 16 and sum to 2,048 at most. -/
def creditOk (v : Nat) : Bool :=
  let l := [bits v 15 0, bits v 31 16, bits v 47 32, bits v 63 48]
  l.all (fun x => decide (16 ≤ x)) && decide (l.foldl (· + ·) 0 ≤ 2048)

/-- A register is kept within lo to hi, at the nearer bound. -/
def within (b off lo hi : Nat) (t : State) : State :=
  if rget off t < lo then misuse b (rset off lo t) else if hi < rget off t then misuse b (rset off hi t) else t

def fixLNK (off v : Nat) (s t : State) : State :=
  if off = R.LNK_PORT_EN then lnkPortEnWrite v s
  else if off = R.LNK_RETRAIN then lnkRetrain v s
  else if off = R.LNK_CREDIT then (if creditOk (rget off t) then t else misuse bLNK s)
  else if off = R.LNK_RETRY then (if rget off t = 0 then storedAs bLNK off 3 0 1 t else t)
  else if off = R.LNK_TRAIN_TO then within bLNK off 10 10000 t
  else if off = R.LNK_ACKTO then (if rget off t < 0x800 then rset off 0x800 t else t)
  else if R.LNK_Lnn_CFG 0 ≤ off ∧ (off - R.LNK_Lnn_CFG 0) % 0x40 = 0 then
    (if 1 < rbits off 1 0 t then storedAs bLNK off 1 0 0 t else t)
  else t

def fixRLY (off : Nat) (t : State) : State :=
  if off = R.RLY_DEADLINE then
    clampField off 31 0 (rget R.PWR_CEIL_DL t) (if rget off t = 0 then storedAs bRLY off 31 0 1 t else t)
  else t

def fixKPR (off : Nat) (t : State) : State :=
  if off = R.KPR_FORM_TO then within bKPR off 1 3600 t
  else if off = R.KPR_HB then within bKPR off 10 10000 t
  else if off = R.KPR_MREC_SLOTS then (if rget off t < 4 ∨ 16 < rget off t then misuse bKPR (rset off 4 t) else t)
  else if off = R.KPR_MREC_TAIL then (if isManager t then collectOwn 128 t else t)
  else t

/-- NST_CTL: CLOSE_NOW, CEIL_RELOAD, COMMIT_SVN. -/
def fixNstCtl (v : Nat) (t : State) : State :=
  if t.boot.naust then
    let t := if v.testBit 0 then closeInterval 10 t else t
    let t := if v.testBit 1 then checkCeilings false t else t
    if v.testBit 2 then commitSvn t else t
  else t

def fixNST (off v : Nat) (t : State) : State :=
  if off = R.NST_CTL then fixNstCtl v t else if off = R.NST_MACK then nstMack v t else t

/-- PWR_CTL: SLACK_DWELL is at least 1; the state and the islands follow. -/
def fixPwrCtl (t : State) : State := settlePower (if rbits R.PWR_CTL 31 16 t = 0 then storedAs bPWR R.PWR_CTL 31 16 1 t else t)

/-- PWR_THERM: ignored unless T_THR lies below T_HOLD; then clamped. -/
def fixTherm (s t : State) : State :=
  if tHold t ≤ tThr t then misuse bPWR s
  else
    clampField R.PWR_THERM 23 16 (rbits R.PWR_CEIL_THERM 31 24 t) (clampField R.PWR_THERM 15 8 (rbits R.PWR_CEIL_THERM 15 8 t)
      (clampField R.PWR_THERM 7 0 (rbits R.PWR_CEIL_THERM 7 0 t) t))

def fixPWR (off v : Nat) (s t : State) : State :=
  if off = R.PWR_CTL then fixPwrCtl t
  else if off = R.PWR_THERM then fixTherm s t
  else if off = R.PWR_HOLD_TO then (if rget off t = 0 then rset off 1 t else t)
  else if R.PWR_Inn_CLK 0 ≤ off then clockTarget ((off - R.PWR_Inn_CLK 0) / 4) (v % 256) s
  else t

def fixSNP (off v : Nat) (s t : State) : State :=
  if off = R.SNP_FULL then bankRelease v s else if off = R.SNP_TRIG then snpTrigWrite v s else t

/-- What a write of `v` does beyond the plain store. -/
def fixWrite (off v : Nat) (s t : State) : State :=
  match blockOf off with
  | 0 => if off = R.HIF_WIN_BASE then showWindow t else t
  | 1 => fixQFE off v s t
  | 2 => fixCORE off v t
  | 5 => fixKVP off v s t
  | 6 => fixSHC off t
  | 7 => fixMEM off s t
  | 8 => fixBNK off v s t
  | 10 => fixSTR off t
  | 11 => fixDMA off v s t
  | 12 => fixSTS off v s t
  | 13 => fixCMP off t
  | 14 => fixLNK off v s t
  | 15 => fixRLY off t
  | 17 => fixKPR off t
  | 18 => fixNST off v t
  | 19 => fixPWR off v s t
  | 20 => fixSNP off v s t
  | _ => t

/-! ### One write access -/

/-- Is a REDUCE running on the module? -/
def reduceRuns (s : State) : Bool := s.started.any (fun x => x.state == .running && opOfBytes x.bytes == some .reduce)

/-- Set-up writes that Table 21.6 refuses. -/
def refused (off : Nat) (s : State) : Bool :=
  if off = R.KVP_SPOOL_BASE ∨ off = R.KVP_SPOOL_FRAMES ∨ off = R.KVP_LPOOL_BASE ∨ off = R.KVP_LPOOL_FRAMES ∨ off = R.KVP_FT_BASE then
    rbit R.KVP_STAT 0 s
  else if R.STS_Dd_SBASE 0 ≤ off ∧ off < R.STS_Dd_FREE 0 + 0x40 ∧ blockOf off = bSTS then rbit R.STS_CTL 0 s
  else if off = R.STR_D0_SPILL_BASE ∨ off = R.STR_D1_SPILL_BASE ∨ off = R.STR_SPILL_SIZE then rbit R.STR_CTL 8 s
  else if off = R.RLY_STAGE_BASE then reduceRuns s
  else if off = R.KPR_CKPT_BASE ∨ off = R.KPR_CKPT_SIZE then jobState s != 0
  else if off = R.LNK_CREDIT then portsBeyond s
  else false

/-- Does the write reach a field that is locked (R375)? -/
def touchesLocked (off m : Nat) (s : State) : Bool :=
  match regAt off with
  | none => false
  | some d => isLocked (blockOf off) s && (d.rwl &&& m) != 0

/-- Flags that the write would clear and that hardware has set in the same cycle: they stay set, and SETWIN of the block counts
each (R40, log 65). -/
def setWins (d : RegDef) (off m v hw : Nat) (s : State) : Nat := d.w1c &&& m &&& v &&& hw &&& rget off s

def countSetWins (b n : Nat) (s : State) : State :=
  match setwinOf b with
  | none => s
  | some off => rsetBits off 15 0 (min 0xFFFF (rbits off 15 0 s + n)) s

/-- The bits `m` of the register at `off` are written with `v`, while hardware sets the bits `hw`. -/
def writePart (off m v hw : Nat) (s : State) : State :=
  match regAt off with
  | none => s
  | some d =>
    let lk := touchesLocked off m s
    let win := setWins d off m v hw s
    let v := clearBits v win
    if lk && d.rw == 0 then s
    else if (d.rwl &&& m) != 0 && refused off s then misuse (blockOf off) s
    else countSetWins (blockOf off) (popCount 64 win) (fixWrite off (v &&& m) s (storeReg d off m v lk s))

/-- The register that a 32-bit access at `off` reaches, with the bits it writes, and the value and the bits that hardware sets in
their place. -/
def halfPart (off v hw : Nat) : Nat × Nat × Nat × Nat :=
  if off % 8 = 4 && isWide (off - 4) then (off - 4, 0xFFFFFFFF00000000, v <<< 32, hw <<< 32) else (off, 0xFFFFFFFF, v, hw)

/-- Parts of a write access in the order in which they take effect: a lock bit before the fields it locks (R373). -/
def accessParts (off width v hw : Nat) : List (Nat × Nat × Nat × Nat) :=
  if width = 32 then [halfPart off (v % 2 ^ 32) (hw % 2 ^ 32)]
  else if isWide off then [(off, 2 ^ 64 - 1, v, hw)]
  else
    let l := (off, 0xFFFFFFFF, v % 2 ^ 32, hw % 2 ^ 32)
    let h := (off + 4, 0xFFFFFFFF, v / 2 ^ 32, hw / 2 ^ 32)
    if lockOf (blockOf off) = some (off + 4) then [h, l] else [l, h]

/-- The parts take effect; was a locked field touched? -/
def runParts : List (Nat × Nat × Nat × Nat) → State → State × Bool
  | [], s => (s, false)
  | (off, m, v, hw) :: t, s =>
    let r := runParts t (writePart off m v hw s)
    (r.1, touchesLocked off m s || r.2)

/-- A domain that is off in Slack wakes for a write to its block (R377). -/
def blockDomains (off : Nat) : List Nat :=
  let b := blockOf off
  let k := off - blockBase b
  if b = bCORE ∨ b = bVCH ∨ b = bATT then (if 0x1000 ≤ k ∧ k < 0x2000 then [(k - 0x1000) / 0x40] else [])
  else if b = bSTS then (if 0x1000 ≤ k then [87 + (k - 0x1000) / 0x40 % 2] else [87, 88])
  else if b = bMEM then (if 0x1000 ≤ k ∧ k < 0x1200 then [72 + (k - 0x1000) / 0x40] else (List.range 8).map (· + 72))
  else if b = bSPL then [129]
  else if b = bCMP then [114]
  else if b = bKVP then [115]
  else if b = bCDC then (List.range 13).map (· + 116)
  else []

def wakeBlock (off : Nat) (s : State) : State :=
  if pwrState s = 2 then (blockDomains off).foldl (fun t d => setDomain d true t) s else s

/-- A write access of 32 or 64 bits; one that is narrower or misaligned has no effect (R6). In Holdfast a block that is not
live ignores it (R377). -/
def regWrite (off width v hw : Nat) (s : State) : State :=
  if !((width == 32 && off % 4 == 0) || (width == 64 && off % 8 == 0)) then s
  else if inHoldfast s && decide (blockOf off < 22) && !liveBlock (blockOf off) then misuse bERR s
  else
    let r := runParts (accessParts off width v hw) (wakeBlock off s)
    if r.2 then countLocked r.1 else r.1

/-- REGISTER_WRITE. -/
def execRegisterWrite (w : RegWrite) (s : State) : Host.Outcome State Fault Refusal :=
  .next (if reaches w.who s then regWrite w.offset w.width w.value.toNat w.hwSet.toNat s else s)

/-- LOCK_SET: a write of 1 to the block's lock bit. -/
def lockSet (b : Nat) (s : State) : State :=
  match lockOf b with
  | none => s
  | some off => regWrite off 32 1 0 s

def execLockSet (b : Block) (s : State) : Host.Outcome State Fault Refusal := .next (lockSet b.val s)

end Sys2Proof.Machine
end

