-- ==== Sys2Proof/Machine/Landing.lean ====
section
/-! DEFINITION. The landing of transfers in slots and funnels (R146, R147, R185, R192, R196, R198, R201, R371), and the
READ_RESP that brings the data of a peer's memory (R246, R252). -/

namespace Sys2Proof.Machine

/-- The module's own memory at `a` has been read as `l` says. Is the data delivered poisoned? -/
def readDone (a : Nat) (l : Landing) (s : State) : State × Bool :=
  match reach s a with
  | .mem o => dramRead o l s
  | _ => (s, false)

/-! ### Stream pieces (R185, R192, R198) -/

/-- Poisoned parts of the n bytes at `a`, as (offset, length) from `off` on: one part per line. -/
def badParts (s : State) (a n off : Nat) : List (Nat × Nat) :=
  (List.range n).filterMap (fun i =>
    if (i = 0 ∨ (a + i) % 128 = 0) ∧ poisoned s (a + i) 1 then some (off + i, min (n - i) (128 - (a + i) % 128)) else none)

/-- The piece takes the bytes `b` of a transfer in its slot, with their poisoned parts; a spilled piece that has come back whole leaves
the spill area (R195). -/
def landPiece (y : Transfer) (b : Bytes) (bad : List (Nat × Nat)) (p : Piece) : Piece :=
  if fetchedFor y p then
    let l := p.landed + y.len
    { p with landed := l, data := patch (padTo p.len p.data) y.off b, bad := p.bad ++ bad, spill := if l = p.len then none else p.spill }
  else p

/-- A stream's transfer has landed: its tag is free, its core reads on, and frames that only this read kept are free (R131, R185,
R192). -/
def landStream (h : Nat) (y : Transfer) (b : Bytes) (bad : List (Nat × Nat)) (s : State) : State :=
  let x := streamx y.owner s
  let t := releaseTag h y.id (bumpFree (setStreamx y.owner { x with pieces := x.pieces.map (landPiece y b bad) } s))
  advance (y.owner / 8) (settleFrames (showStreams (y.owner / 8) t))

/-- An error response to a fetch: it is repeated, or the command fails (R198). -/
def fetchError (h : Nat) (y : Transfer) (s : State) : State :=
  if y.left ≠ 0 then
    (match repeatTransfer h y 0 (some y.c) s with
     | some t => t
     | none => fetchLost h y 0x0190 s)
  else fetchLost h y 0x0161 s

/-! ### DMA (R201, R371) -/

/-- Bytes a channel reads: memory, or 32-bit reads of registers in ascending order. -/
def chanRead (a n : Nat) (s : State) : Bytes × State :=
  if regBase ≤ a then readWords (n / 4) (a - regBase) s else (readBytes s a n, s)

/-- 32-bit writes of registers in ascending order. -/
def writeWords : Nat → List Nat → State → State
  | _, [], s => s
  | off, w :: t, s => writeWords (off + 4) t (regWrite off 32 w 0 s)

/-- A channel writes: registers, or memory. -/
def chanWrite (a : Nat) (b : Bytes) (bad : Bool) (s : State) : Wrote :=
  if regBase ≤ a then { s := writeWords (a - regBase) (words32 b) s } else writeMem a b s bad

/-- The pieces of the destination that the places from `o` to `e` - 1 touch, ascending. -/
def destPieces (x : ChanX) (e : Nat) : Nat → Nat → List (Nat × Nat)
  | 0, _ => []
  | f + 1, o => if e ≤ o then [] else let p := destPiece x o; p :: destPieces x e f p.2

/-- A piece of the destination is written once all of it has landed; a write that fails halts the channel (R141, R155, R253). -/
def drainPiece (n : Nat) (s : State) (p : Nat × Nat) : State :=
  let x := chanx n s
  if x.halting.isSome || ((funnelParts x.funnel p.1 p.2).foldl (fun a q => a + q.data.length) 0) != p.2 - p.1 then s
  else
    let w := writeParts chanWrite n p.1 p.2 s
    match w.cause with
    | some cause => setChanx n { chanx n w.s with halting := some (if cause = 0x0190 then 3 else 2, cause, x.dst + p.1) } w.s
    | none => w.s

/-- A transfer's data enter the funnel, and go on to the destination piece by piece. -/
def landCopy (h n : Nat) (y : Transfer) (b : Bytes) (bad : Nat → Bool) (s : State) : State :=
  let x := chanx n s
  let f := funnelAdd { off := y.off, data := b, bad := ((List.range b.length).filter bad).map (· + y.off) } x.funnel
  let t := setChanx n { x with funnel := f } (releaseTag h y.id s)
  chanSettle n ((destPieces x (y.off + b.length) (b.length + 1) y.off).foldl (drainPiece n) t)

/-- The write of a channel to a stack has failed every repeat: chip-fatal (R147). -/
def copyLanded (h n : Nat) (y : Transfer) (l : Landing) (b : Bytes) (bad : Nat → Bool) (s : State) : State :=
  match reach s ((chanx n s).dst + y.off) with
  | .mem o => let w := dramWrite o l s; if w.2 then w.1 else landCopy h n y b bad w.1
  | _ => landCopy h n y b bad s

/-- Does the home cache hold a transfer's read, or the write of what it brings (R152)? -/
def transferHeld (y : Transfer) (s : State) : Bool :=
  bankHolds y.addr y.len s || (decide (512 ≤ y.owner) && bankHolds ((chanx (y.owner - 512) s).dst + y.off) y.len s)

/-- The data of transfer y arrive, read by this module itself. -/
def dataLanded (h : Nat) (y : Transfer) (l : Landing) (s : State) : State :=
  let r := readDone y.addr l (touchRead s (y.addr, y.len))
  let t := r.1
  if y.owner < 512 then
    landStream h y (readBytes t y.addr y.len) (if r.2 then [(y.off, y.len)] else badParts t y.addr y.len y.off) t
  else
    let d := chanRead y.addr y.len t
    copyLanded h (y.owner - 512) y l d.1 (fun i => r.2 || poisoned t (y.addr + i) 1) d.2

/-- TRANSFER_LANDED: a transfer whose source this module reads itself lands, or a fetch has met an error response. Data of a READ_REQ
come by READ_RESP, an error of a channel's transfer by DMA_TRANSFER_ERROR; what a bank command's ranges hold back lands later. -/
def transferLanded (h t : Nat) (l : Landing) (s : State) : State :=
  match (halfx h s).transfers.find? (fun y => y.id == t) with
  | none => s
  | some y =>
    if inHoldfast s || transferHeld y s then s
    else if l.error then (if y.owner < 512 then fetchError h y s else s)
    else if y.req.isSome then s
    else dataLanded h y l s

def execTransferLanded (h : Die) (t : Nat) (l : Landing) (s : State) : Host.Outcome State Fault Refusal :=
  .next (transferLanded h.val t l s)

/-! ### READ_RESP (R246, R252) -/

/-- READ_RESP: the data go where the READ_REQ was issued for; POISON marks them all. -/
def readRespIn (p : Nat) (m : Msg) (s : State) : State :=
  if (waitingRead m.tag.toNat s).any (fun x => transferHeld x.2 s) then s
  else
  match takeMsg p 3 m s with
  | none => s
  | some t =>
    match t.reads.find? (fun r => r.tag == m.tag.toNat) with
    | none => t
    | some r =>
      let t : State := { t with reads := t.reads.erase r }
      match waitingRead m.tag.toNat t with
      | none => t
      | some (h, y) =>
        if y.owner < 512 then landStream h y (padTo y.len m.data) (if m.poison then [(y.off, y.len)] else []) t
        else copyLanded h (y.owner - 512) y ⟨.clean, 0, 0, 0, false⟩ (padTo y.len m.data) (fun _ => m.poison) t

def execReadResp (p : Port) (m : Msg) (s : State) : Host.Outcome State Fault Refusal := .next (readRespIn p.val m s)

end Sys2Proof.Machine
end

