-- ==== Sys2Proof/Machine/Dispatch.lean ====
section
/-! DEFINITION. The effect of each command of the table: one arm per constructor, each one direct call of its meaning. -/

namespace Sys2Proof.Machine

open Sys2Proof

/-- The effect of a command on everything but the queue of waiting commands. -/
def exec (i : Instr) (s : State) : Host.Outcome State Fault Refusal :=
  match i with
  | .doorbellWrite q tail => Sys2Proof.Machine.execDoorbellWrite q tail s
  | .markerWindowWrite m v => Sys2Proof.Machine.execMarkerWindowWrite m v s
  | .windowAccess a => Sys2Proof.Machine.execWindowAccess a s
  | .functionLevelReset => Sys2Proof.Machine.execFunctionLevelReset s
  | .pcieLinkChange l => Sys2Proof.Machine.execPcieLinkChange l s
  | .perstDeassert => Sys2Proof.Machine.execPerstDeassert s
  | .hifWinBaseWrite v => Sys2Proof.Machine.execHifWinBaseWrite v s
  | .queueEnable q => Sys2Proof.Machine.execQueueEnable q s
  | .queueDisable q => Sys2Proof.Machine.execQueueDisable q s
  | .resumeRetry q => Sys2Proof.Machine.execResumeRetry q s
  | .resumeSkip q => Sys2Proof.Machine.execResumeSkip q s
  | .resumeAbort q => Sys2Proof.Machine.execResumeAbort q s
  | .flush q => Sys2Proof.Machine.execFlush q s
  | .rctlRetry d q => Sys2Proof.Machine.execRctlRetry d q s
  | .rctlSkip d q => Sys2Proof.Machine.execRctlSkip d q s
  | .rctlAbort d q => Sys2Proof.Machine.execRctlAbort d q s
  | .rhaltPop => Sys2Proof.Machine.execRhaltPop s
  | .entryHeadCheck q => Sys2Proof.Machine.execEntryHeadCheck q s
  | .commandStart q => Sys2Proof.Machine.execCommandStart q s
  | .waitTimeout q => Sys2Proof.Machine.execWaitTimeout q s
  | .commandComplete c => Sys2Proof.Machine.execCommandComplete c s
  | .markerAdd c => Sys2Proof.Machine.execMarkerAdd c s
  | .markerSet c => Sys2Proof.Machine.execMarkerSet c s
  | .nop c => Sys2Proof.Machine.execNop c s
  | .snap c => Sys2Proof.Machine.execSnap c s
  | .matmul c => Sys2Proof.Machine.execMatmul c s
  | .matmul2 c => Sys2Proof.Machine.execMatmul2 c s
  | .gradPair c => Sys2Proof.Machine.execGradPair c s
  | .coreShareStart n => Sys2Proof.Machine.execCoreShareStart n s
  | .tileFinish n arrayB checkFails => Sys2Proof.Machine.execTileFinish n arrayB checkFails s
  | .inject n arrayB => Sys2Proof.Machine.execInject n arrayB s
  | .chainTile n => Sys2Proof.Machine.execChainTile n s
  | .chainLoad c => Sys2Proof.Machine.execChainLoad c s
  | .tableLoad c => Sys2Proof.Machine.execTableLoad c s
  | .vector c => Sys2Proof.Machine.execVector c s
  | .attnFwd c => Sys2Proof.Machine.execAttnFwd c s
  | .attnBwd c => Sys2Proof.Machine.execAttnBwd c s
  | .attnMerge c => Sys2Proof.Machine.execAttnMerge c s
  | .attnPaged c => Sys2Proof.Machine.execAttnPaged c s
  | .attBatonTimeout n => Sys2Proof.Machine.execAttBatonTimeout n s
  | .slotOpen c => Sys2Proof.Machine.execSlotOpen c s
  | .slotClose c => Sys2Proof.Machine.execSlotClose c s
  | .slotFork c => Sys2Proof.Machine.execSlotFork c s
  | .kvWrite c => Sys2Proof.Machine.execKvWrite c s
  | .slotTrunc c => Sys2Proof.Machine.execSlotTrunc c s
  | .pageHint c => Sys2Proof.Machine.execPageHint c s
  | .ageingSweep => Sys2Proof.Machine.execAgeingSweep s
  | .pageAgeDone q page => Sys2Proof.Machine.execPageAgeDone q page s
  | .pagePrefetch n q page => Sys2Proof.Machine.execPagePrefetch n q page s
  | .demandFetch n q page => Sys2Proof.Machine.execDemandFetch n q page s
  | .kvpEnable => Sys2Proof.Machine.execKvpEnable s
  | .patrolScrub line sev => Sys2Proof.Machine.execPatrolScrub line sev s
  | .stackTempReport k temp => Sys2Proof.Machine.execStackTempReport k temp s
  | .spillTempReport pkg hot => Sys2Proof.Machine.execSpillTempReport pkg hot s
  | .atomic c => Sys2Proof.Machine.execAtomic c s
  | .accOpen c => Sys2Proof.Machine.execAccOpen c s
  | .accClose c => Sys2Proof.Machine.execAccClose c s
  | .bankMv c parity => Sys2Proof.Machine.execBankMv c parity s
  | .bankOpt c parity => Sys2Proof.Machine.execBankOpt c parity s
  | .bankEw c parity => Sys2Proof.Machine.execBankEw c parity s
  | .bankCopy c parity => Sys2Proof.Machine.execBankCopy c parity s
  | .bankHold => Sys2Proof.Machine.execBankHold s
  | .bankHoldDone => Sys2Proof.Machine.execBankHoldDone s
  | .bankWake => Sys2Proof.Machine.execBankWake s
  | .bankWakeDone => Sys2Proof.Machine.execBankWakeDone s
  | .bankBist allPass => Sys2Proof.Machine.execBankBist allPass s
  | .ringSet c => Sys2Proof.Machine.execRingSet c s
  | .streamTransferGrant h => Sys2Proof.Machine.execStreamTransferGrant h s
  | .transferLanded h t l => Sys2Proof.Machine.execTransferLanded h t l s
  | .deadlockTest h => Sys2Proof.Machine.execDeadlockTest h s
  | .dma c => Sys2Proof.Machine.execDma c s
  | .dmaStart n => Sys2Proof.Machine.execDmaStart n s
  | .dmaAbort n => Sys2Proof.Machine.execDmaAbort n s
  | .dmaTransferError n t err => Sys2Proof.Machine.execDmaTransferError n t err s
  | .dmaComplete n => Sys2Proof.Machine.execDmaComplete n s
  | .stashPut c => Sys2Proof.Machine.execStashPut c s
  | .stashGet c => Sys2Proof.Machine.execStashGet c s
  | .stashDrop c => Sys2Proof.Machine.execStashDrop c s
  | .stashFillRetry d => Sys2Proof.Machine.execStashFillRetry d s
  | .stashBgOffload d => Sys2Proof.Machine.execStashBgOffload d s
  | .stashOffloadDone e => Sys2Proof.Machine.execStashOffloadDone e s
  | .stsEnable => Sys2Proof.Machine.execStsEnable s
  | .expanderBlock p => Sys2Proof.Machine.execExpanderBlock p s
  | .genStallTimeout p => Sys2Proof.Machine.execGenStallTimeout p s
  | .tableImageLoad p => Sys2Proof.Machine.execTableImageLoad p s
  | .linkTrain p lanes => Sys2Proof.Machine.execLinkTrain p lanes s
  | .linkTrainTimeout p => Sys2Proof.Machine.execLinkTrainTimeout p s
  | .identFlit p f => Sys2Proof.Machine.execIdentFlit p f s
  | .dataFlit p f => Sys2Proof.Machine.execDataFlit p f s
  | .idleFlit p f => Sys2Proof.Machine.execIdleFlit p f s
  | .ackTimeout p => Sys2Proof.Machine.execAckTimeout p s
  | .laneLoss p lane => Sys2Proof.Machine.execLaneLoss p lane s
  | .retrainEnd p sameIdentity => Sys2Proof.Machine.execRetrainEnd p sameIdentity s
  | .lnkRetrain v => Sys2Proof.Machine.execLnkRetrain v s
  | .lnkPortEnWrite v => Sys2Proof.Machine.execLnkPortEnWrite v s
  | .readTimeout tag => Sys2Proof.Machine.execReadTimeout tag s
  | .reductionAdmit => Sys2Proof.Machine.execReductionAdmit s
  | .write p m => Sys2Proof.Machine.execWrite p m s
  | .readReq p m => Sys2Proof.Machine.execReadReq p m s
  | .readResp p m => Sys2Proof.Machine.execReadResp p m s
  | .baton p m => Sys2Proof.Machine.execBaton p m s
  | .contrib p m => Sys2Proof.Machine.execContrib p m s
  | .entry p m => Sys2Proof.Machine.execEntry p m s
  | .table p m => Sys2Proof.Machine.execTable p m s
  | .join p m => Sys2Proof.Machine.execJoin p m s
  | .joined p m => Sys2Proof.Machine.execJoined p m s
  | .refuse p m => Sys2Proof.Machine.execRefuse p m s
  | .ping p m => Sys2Proof.Machine.execPing p m s
  | .pong p m => Sys2Proof.Machine.execPong p m s
  | .mjoin p m => Sys2Proof.Machine.execMjoin p m s
  | .trigger p m => Sys2Proof.Machine.execTrigger p m s
  | .resend p m => Sys2Proof.Machine.execResend p m s
  | .accept p m => Sys2Proof.Machine.execAccept p m s
  | .down p m => Sys2Proof.Machine.execDown p m s
  | .fatal p m => Sys2Proof.Machine.execFatal p m s
  | .completion p m => Sys2Proof.Machine.execCompletion p m s
  | .meter p m => Sys2Proof.Machine.execMeter p m s
  | .meterAck p m => Sys2Proof.Machine.execMeterAck p m s
  | .halt p m => Sys2Proof.Machine.execHalt p m s
  | .resume p m => Sys2Proof.Machine.execResume p m s
  | .report p m => Sys2Proof.Machine.execReport p m s
  | .scale p m => Sys2Proof.Machine.execScale p m s
  | .start p m => Sys2Proof.Machine.execStart p m s
  | .cut p m => Sys2Proof.Machine.execCut p m s
  | .closed p m => Sys2Proof.Machine.execClosed p m s
  | .hold p m => Sys2Proof.Machine.execHold p m s
  | .release p m => Sys2Proof.Machine.execRelease p m s
  | .grant p m => Sys2Proof.Machine.execGrant p m s
  | .fail p m => Sys2Proof.Machine.execFail p m s
  | .broadcast c => Sys2Proof.Machine.execBroadcast c s
  | .allGather c => Sys2Proof.Machine.execAllGather c s
  | .allToAll c => Sys2Proof.Machine.execAllToAll c s
  | .reduce c => Sys2Proof.Machine.execReduce c s
  | .sourcesReady c => Sys2Proof.Machine.execSourcesReady c s
  | .bucketApply => Sys2Proof.Machine.execBucketApply s
  | .bucketDeadlineExpiry b => Sys2Proof.Machine.execBucketDeadlineExpiry b s
  | .relayNoProgress c => Sys2Proof.Machine.execRelayNoProgress c s
  | .ringPass c => Sys2Proof.Machine.execRingPass c s
  | .epochFence c => Sys2Proof.Machine.execEpochFence c s
  | .jobStart c => Sys2Proof.Machine.execJobStart c s
  | .jobSuspend c => Sys2Proof.Machine.execJobSuspend c s
  | .jobResume c => Sys2Proof.Machine.execJobResume c s
  | .jobRelease c => Sys2Proof.Machine.execJobRelease c s
  | .jobEnd c => Sys2Proof.Machine.execJobEnd c s
  | .reshard c => Sys2Proof.Machine.execReshard c s
  | .remap c => Sys2Proof.Machine.execRemap c s
  | .checkpoint c => Sys2Proof.Machine.execCheckpoint c s
  | .meterCollect c => Sys2Proof.Machine.execMeterCollect c s
  | .snapFetch c => Sys2Proof.Machine.execSnapFetch c s
  | .suspendTimeout => Sys2Proof.Machine.execSuspendTimeout s
  | .formationEnd => Sys2Proof.Machine.execFormationEnd s
  | .heartbeat => Sys2Proof.Machine.execHeartbeat s
  | .managerSilence => Sys2Proof.Machine.execManagerSilence s
  | .cdcOpen c => Sys2Proof.Machine.execCdcOpen c s
  | .cdcClose c => Sys2Proof.Machine.execCdcClose c s
  | .cdcDecode c => Sys2Proof.Machine.execCdcDecode c s
  | .cdcEncode c => Sys2Proof.Machine.execCdcEncode c s
  | .cdcFlush c => Sys2Proof.Machine.execCdcFlush c s
  | .codecOutput x => Sys2Proof.Machine.execCodecOutput x s
  | .inputSample x => Sys2Proof.Machine.execInputSample x s
  | .neapReq on => Sys2Proof.Machine.execNeapReq on s
  | .slackEntry => Sys2Proof.Machine.execSlackEntry s
  | .tokenRequest u => Sys2Proof.Machine.execTokenRequest u s
  | .tokenGrant => Sys2Proof.Machine.execTokenGrant s
  | .tokenRelease u => Sys2Proof.Machine.execTokenRelease u s
  | .clockTargetWrite n v => Sys2Proof.Machine.execClockTargetWrite n v s
  | .sensorRead r => Sys2Proof.Machine.execSensorRead r s
  | .holdTimeout => Sys2Proof.Machine.execHoldTimeout s
  | .holdfastShutdown recordSent => Sys2Proof.Machine.execHoldfastShutdown recordSent s
  | .triggerIssue => Sys2Proof.Machine.execTriggerIssue s
  | .snpTrigWrite v => Sys2Proof.Machine.execSnpTrigWrite v s
  | .snapInEdge highNs => Sys2Proof.Machine.execSnapInEdge highNs s
  | .snapshotBankRelease bits => Sys2Proof.Machine.execSnapshotBankRelease bits s
  | .meterTick cores => Sys2Proof.Machine.execMeterTick cores s
  | .closeNow => Sys2Proof.Machine.execCloseNow s
  | .ceilReload => Sys2Proof.Machine.execCeilReload s
  | .commitSvn => Sys2Proof.Machine.execCommitSvn s
  | .nstMack v => Sys2Proof.Machine.execNstMack v s
  | .recordSigned => Sys2Proof.Machine.execRecordSigned s
  | .getVersion req => Sys2Proof.Machine.execGetVersion req s
  | .getCapabilities req => Sys2Proof.Machine.execGetCapabilities req s
  | .negotiateAlgorithms req => Sys2Proof.Machine.execNegotiateAlgorithms req s
  | .getDigests req => Sys2Proof.Machine.execGetDigests req s
  | .getCertificate req => Sys2Proof.Machine.execGetCertificate req s
  | .challenge req => Sys2Proof.Machine.execChallenge req s
  | .getMeasurements req => Sys2Proof.Machine.execGetMeasurements req s
  | .unsupportedRequest req => Sys2Proof.Machine.execUnsupportedRequest req s
  | .doeAbort => Sys2Proof.Machine.execDoeAbort s
  | .inputQualified => Sys2Proof.Machine.execInputQualified s
  | .inputLoss => Sys2Proof.Machine.execInputLoss s
  | .supplyTimeout => Sys2Proof.Machine.execSupplyTimeout s
  | .modRstN => Sys2Proof.Machine.execModRstN s
  | .naustStart => Sys2Proof.Machine.execNaustStart s
  | .keeperVerify => Sys2Proof.Machine.execKeeperVerify s
  | .thermalGateOpen => Sys2Proof.Machine.execThermalGateOpen s
  | .memoryTrainingDone u ok => Sys2Proof.Machine.execMemoryTrainingDone u ok s
  | .keeperRelease => Sys2Proof.Machine.execKeeperRelease s
  | .ready => Sys2Proof.Machine.execReady s
  | .read addr n => Sys2Proof.Machine.execRead addr n s
  | .flashWrite region off data => Sys2Proof.Machine.execFlashWrite region off data s
  | .flashRead region off n => Sys2Proof.Machine.execFlashRead region off n s
  | .ceilLoad => Sys2Proof.Machine.execCeilLoad s
  | .reset key => Sys2Proof.Machine.execReset key s
  | .status => Sys2Proof.Machine.execStatus s
  | .bypass => Sys2Proof.Machine.execBypass s
  | .idcode => Sys2Proof.Machine.execIdcode s
  | .samplePreload cells => Sys2Proof.Machine.execSamplePreload cells s
  | .extest rstLow => Sys2Proof.Machine.execExtest rstLow s
  | .lockSet b => Sys2Proof.Machine.execLockSet b s
  | .registerWrite w => Sys2Proof.Machine.execRegisterWrite w s
  | .perstAssert => Sys2Proof.Machine.execPerstAssert s
  | .hotReset => Sys2Proof.Machine.execHotReset s
  | .doeDiscovery index => Sys2Proof.Machine.execDoeDiscovery index s
  | .pmStateWrite d3hot => Sys2Proof.Machine.execPmStateWrite d3hot s
  | .resizableBarWrite log2 => Sys2Proof.Machine.execResizableBarWrite log2 s
  | .lowHalfRead r => Sys2Proof.Machine.execLowHalfRead r s
  | .pageFetchDone q page => Sys2Proof.Machine.execPageFetchDone q page s
  | .domainWakeDone d => Sys2Proof.Machine.execDomainWakeDone d s
  | .frequencyChangeDone n => Sys2Proof.Machine.execFrequencyChangeDone n s
  | .supplyGood step => Sys2Proof.Machine.execSupplyGood step s
  | .snapOutPulseEnd => Sys2Proof.Machine.execSnapOutPulseEnd s

end Sys2Proof.Machine
end

