-- ==== Sys2Proof/WellFormed.lean ====
section
/-! DEFINITION. Which commands can arrive at all: the shapes that their senders give them. A command that the module itself
answers with an error, such as a management command with a field out of range, is well formed. -/

namespace Sys2Proof

/-- A host access of 1 to 4,096 bytes (Table 2.1), with as many bytes of data as it says; in configuration space of 1, 2 or 4. -/
def WindowAcc.ok (a : WindowAcc) : Bool :=
  decide (1 ≤ a.len) && decide (a.len ≤ 4096) && (a.space != .config || a.len == 1 || a.len == 2 || a.len == 4) && (match a.data with | none => true | some b => b.length == a.len)

/-- A link that is up has a speed, a supported width, and FLIT mode above 32 GT/s (R20). -/
def LinkTrained.ok (l : LinkTrained) : Bool :=
  !l.up || (l.speed.val != 0 && (l.width == 4 || l.width == 8 || l.width == 16) && (l.flit || decide (l.speed.val ≤ 5)))

/-- A message's kind and the length of its data are as Table 13.5 allows. -/
def Msg.ok (m : Msg) : Bool :=
  decide (1 ≤ m.kind.toNat) && decide (m.kind.toNat ≤ 8) && decide (m.data.length ≤ 2 ^ 20 + 2 ^ 20 / 4096 * 8 + 512)

/-- Readings of 24 sensors on each compute die and 12 on the hub die, and of the one next to each core, in degrees. -/
def SensorReading.ok (r : SensorReading) : Bool :=
  r.cd0.length == 24 && r.cd1.length == 24 && r.hd.length == 12 && r.nearest.length == 64 &&
    (r.inlet :: r.outlet :: (r.cd0 ++ r.cd1 ++ r.hd ++ r.nearest)).all (fun x => decide (x < 256))

/-- Widths of an access in bits: those below 32 are R6's narrower ones. -/
def accessWidth (n : Nat) : Bool := n == 8 || n == 16 || n == 32 || n == 64

/-- A write within the register space (R6, R369), aligned or not. -/
def RegWrite.ok (w : RegWrite) : Bool := accessWidth w.width && decide (w.offset < 2 ^ 26) && decide (w.value.toNat < 2 ^ w.width)

/-- A read within the register space, aligned or not. -/
def RegRead.ok (r : RegRead) : Bool := accessWidth r.width && decide (r.offset < 2 ^ 26)

/-- A header that the manager's Keeper hands on has 32 bytes (R287). -/
def JobCmd.ok : JobCmd → Bool
  | .started _ => true
  | .handed h => h.length == 32

/-- Is the command one that can arrive? -/
def Instr.wf (i : Instr) : Bool :=
  match i with
  | .doorbellWrite _ _ => true
  | .markerWindowWrite _ _ => true
  | .windowAccess a => a.ok
  | .functionLevelReset => true
  | .pcieLinkChange l => l.ok
  | .perstDeassert => true
  | .hifWinBaseWrite _ => true
  | .queueEnable _ => true
  | .queueDisable _ => true
  | .resumeRetry _ => true
  | .resumeSkip _ => true
  | .resumeAbort _ => true
  | .flush _ => true
  | .rctlRetry _ _ => true
  | .rctlSkip _ _ => true
  | .rctlAbort _ _ => true
  | .rhaltPop => true
  | .entryHeadCheck _ => true
  | .commandStart _ => true
  | .waitTimeout _ => true
  | .commandComplete _ => true
  | .markerAdd _ => true
  | .markerSet _ => true
  | .nop _ => true
  | .snap _ => true
  | .matmul _ => true
  | .matmul2 _ => true
  | .gradPair _ => true
  | .coreShareStart _ => true
  | .tileFinish _ _ _ => true
  | .inject _ _ => true
  | .chainTile _ => true
  | .chainLoad _ => true
  | .tableLoad _ => true
  | .vector _ => true
  | .attnFwd _ => true
  | .attnBwd _ => true
  | .attnMerge _ => true
  | .attnPaged _ => true
  | .attBatonTimeout _ => true
  | .slotOpen _ => true
  | .slotClose _ => true
  | .slotFork _ => true
  | .kvWrite _ => true
  | .slotTrunc _ => true
  | .pageHint _ => true
  | .ageingSweep => true
  | .pageAgeDone _ _ => true
  | .pagePrefetch _ _ _ => true
  | .demandFetch _ _ _ => true
  | .kvpEnable => true
  | .patrolScrub line _ => decide (128 * line < 2 ^ 41)
  | .stackTempReport _ temp => decide (temp < 256)
  | .spillTempReport _ _ => true
  | .atomic _ => true
  | .accOpen _ => true
  | .accClose _ => true
  | .bankMv _ _ => true
  | .bankOpt _ _ => true
  | .bankEw _ _ => true
  | .bankCopy _ _ => true
  | .bankHold => true
  | .bankHoldDone => true
  | .bankWake => true
  | .bankWakeDone => true
  | .bankBist _ => true
  | .ringSet _ => true
  | .streamTransferGrant _ => true
  | .transferLanded _ _ l => decide (l.line < 32)
  | .deadlockTest _ => true
  | .dma _ => true
  | .dmaStart _ => true
  | .dmaAbort _ => true
  | .dmaTransferError _ _ _ => true
  | .dmaComplete _ => true
  | .stashPut _ => true
  | .stashGet _ => true
  | .stashDrop _ => true
  | .stashFillRetry _ => true
  | .stashBgOffload _ => true
  | .stashOffloadDone _ => true
  | .stsEnable => true
  | .expanderBlock _ => true
  | .genStallTimeout _ => true
  | .tableImageLoad _ => true
  | .linkTrain _ _ => true
  | .linkTrainTimeout _ => true
  | .identFlit _ f => decide (f.bytes.length = 256)
  | .dataFlit _ f => decide (f.bytes.length = 256)
  | .idleFlit _ f => decide (f.bytes.length = 256)
  | .ackTimeout _ => true
  | .laneLoss _ _ => true
  | .retrainEnd _ _ => true
  | .lnkRetrain _ => true
  | .lnkPortEnWrite _ => true
  | .readTimeout _ => true
  | .reductionAdmit => true
  | .write _ m => m.ok
  | .readReq _ m => m.ok
  | .readResp _ m => m.ok
  | .baton _ m => m.ok
  | .contrib _ m => m.ok
  | .entry _ m => m.ok
  | .table _ m => m.ok
  | .join _ m => m.ok
  | .joined _ m => m.ok
  | .refuse _ m => m.ok
  | .ping _ m => m.ok
  | .pong _ m => m.ok
  | .mjoin _ m => m.ok
  | .trigger _ m => m.ok
  | .resend _ m => m.ok
  | .accept _ m => m.ok
  | .down _ m => m.ok
  | .fatal _ m => m.ok
  | .completion _ m => m.ok
  | .meter _ m => m.ok
  | .meterAck _ m => m.ok
  | .halt _ m => m.ok
  | .resume _ m => m.ok
  | .report _ m => m.ok
  | .scale _ m => m.ok
  | .start _ m => m.ok
  | .cut _ m => m.ok
  | .closed _ m => m.ok
  | .hold _ m => m.ok
  | .release _ m => m.ok
  | .grant _ m => m.ok
  | .fail _ m => m.ok
  | .broadcast _ => true
  | .allGather _ => true
  | .allToAll _ => true
  | .reduce _ => true
  | .sourcesReady _ => true
  | .bucketApply => true
  | .bucketDeadlineExpiry _ => true
  | .relayNoProgress _ => true
  | .ringPass _ => true
  | .epochFence _ => true
  | .jobStart j => j.ok
  | .jobSuspend j => j.ok
  | .jobResume j => j.ok
  | .jobRelease j => j.ok
  | .jobEnd j => j.ok
  | .reshard j => j.ok
  | .remap j => j.ok
  | .checkpoint j => j.ok
  | .meterCollect j => j.ok
  | .snapFetch _ => true
  | .suspendTimeout => true
  | .formationEnd => true
  | .heartbeat => true
  | .managerSilence => true
  | .cdcOpen _ => true
  | .cdcClose _ => true
  | .cdcDecode _ => true
  | .cdcEncode _ => true
  | .cdcFlush _ => true
  | .codecOutput _ => true
  | .inputSample _ => true
  | .neapReq _ => true
  | .slackEntry => true
  | .tokenRequest _ => true
  | .tokenGrant => true
  | .tokenRelease _ => true
  | .clockTargetWrite _ _ => true
  | .sensorRead r => r.ok
  | .holdTimeout => true
  | .holdfastShutdown _ => true
  | .triggerIssue => true
  | .snpTrigWrite _ => true
  | .snapInEdge _ => true
  | .snapshotBankRelease _ => true
  | .meterTick cores => decide (cores.length = 64)
  | .closeNow => true
  | .ceilReload => true
  | .commitSvn => true
  | .nstMack _ => true
  | .recordSigned => true
  | .getVersion req => decide (4 ≤ req.length)
  | .getCapabilities req => decide (4 ≤ req.length)
  | .negotiateAlgorithms req => decide (4 ≤ req.length)
  | .getDigests req => decide (4 ≤ req.length)
  | .getCertificate req => decide (4 ≤ req.length)
  | .challenge req => decide (4 ≤ req.length)
  | .getMeasurements req => decide (4 ≤ req.length)
  | .unsupportedRequest req => decide (4 ≤ req.length)
  | .doeAbort => true
  | .inputQualified => true
  | .inputLoss => true
  | .supplyTimeout => true
  | .modRstN => true
  | .naustStart => true
  | .keeperVerify => true
  | .thermalGateOpen => true
  | .memoryTrainingDone _ _ => true
  | .keeperRelease => true
  | .ready => true
  | .read _ _ => true
  | .flashWrite _ _ _ => true
  | .flashRead _ _ _ => true
  | .ceilLoad => true
  | .reset _ => true
  | .status => true
  | .bypass => true
  | .idcode => true
  | .samplePreload _ => true
  | .extest _ => true
  | .lockSet _ => true
  | .registerWrite w => w.ok
  | .perstAssert => true
  | .hotReset => true
  | .doeDiscovery _ => true
  | .pmStateWrite _ => true
  | .resizableBarWrite log2 => decide (30 ≤ log2 ∧ log2 ≤ 39)
  | .lowHalfRead r => r.ok
  | .pageFetchDone _ _ => true
  | .domainWakeDone _ => true
  | .frequencyChangeDone _ => true
  | .supplyGood step => decide (1 ≤ step ∧ step ≤ 5)
  | .snapOutPulseEnd => true

end Sys2Proof
end

