-- ==== Sys2Proof/Safety.lean ====
section
/-! DEFINITION. What claims call a sound state and a good step. -/

namespace Sys2Proof

open Sys2Proof.Machine

/-- Memory is in its canonical form: addresses strictly rising, and no listed byte is 0. -/
abbrev Memory.wf (m : List Host.Cell) : Bool := AL.wf (fun _ => (0 : Byte)) m

/-- The registers are in canonical form: offsets strictly rising, and no listed register holds its reset value. -/
abbrev Regs.wf (r : List (Nat × Nat)) : Bool := AL.wf resetOf r

/-- Equal contents are equal data: memory and registers are each in their one canonical form. -/
def Canonical (s : State) : Prop := Memory.wf s.mem = true ∧ Regs.wf s.regs = true

/-- `t` differs from `s` in registers alone, and in none outside `os`: every other register, and all state that is no
register, is as before. -/
def OnlyRegs (os : List Nat) (s t : State) : Prop :=
  { t with regs := s.regs } = s ∧ ∀ o, o ∉ os → rget o t = rget o s

/-- `t` differs from `s` in registers alone, in none outside `os`, and in what the host sees of interrupts. -/
def OnlyRegsAndIrq (os : List Nat) (s t : State) : Prop :=
  { t with regs := s.regs, out := s.out, pcie := s.pcie } = s ∧ ∀ o, o ∉ os → rget o t = rget o s

/-- The 16-bit count at `o` has gone up by one, and stops at 0xFFFF (R4). -/
def Counted (o : Nat) (s t : State) : Prop := rbits o 15 0 t = min 0xFFFF (rbits o 15 0 s + 1)

/-- A step that takes effect: neither a fault nor a refusal. -/
def Completes (o : Host.Outcome State Fault Refusal) : Prop := ∃ t, o = .next t

end Sys2Proof
end

