-- ==== Sys2Proof/Certificates/Slice0/Obligations.lean ====
section
/-! DEFINITION. The statements for the provers, by chapter of the spec. A statement that rests on a choice of the model names
the log entry. `exec c s = .next t` says that the command completes; what the statement says of `t` is its effect, and
`{ t with f := s.f } = s` that nothing but the fields `f` changes. -/

open Sys2Proof Sys2Proof.Machine

/-! ### The block as a whole -/

/-- One step takes the command at the front of the queue of waiting commands, and runs it on the rest. With no command waiting
a step changes nothing (the model's choice, log 1). -/
def Obligations.StepRunsTheFrontCommand : Prop :=
  (∀ (c : Instr) (rest : List Instr) (s : State), step { s with pending := c :: rest } = exec c { s with pending := rest }) ∧
  (∀ s : State, s.pending = [] → step s = .next s)

/-- Every step keeps memory and registers in their one canonical form, so that equal contents are equal data. -/
def Obligations.StepKeepsCanonical : Prop := ∀ s t : State, Canonical s → step s = .next t → Canonical t

/-- The module after reset has memory and registers in canonical form and no command waiting. -/
def Obligations.ResetIsCanonical : Prop := Canonical State.reset ∧ State.reset.pending = []

/-- No command puts a command into the queue or takes one out of it: a step leaves exactly the rest of the queue. -/
def Obligations.StepTakesOneCommand : Prop :=
  ∀ s t : State, Canonical s → step s = .next t → t.pending = s.pending.tail

/-- R331, R333, R339: whatever the command, the two fused counters never fall, an operator's key hash that has been fused stays
fused in its place, and the maker's key hash never changes. -/
def Obligations.FusesAreNeverUndone : Prop :=
  ∀ s t : State, Canonical s → step s = .next t →
    s.naust.keeperCtr ≤ t.naust.keeperCtr ∧ s.naust.ceilCtr ≤ t.naust.ceilCtr ∧
    s.naust.opKeys <+: t.naust.opKeys ∧ t.naust.qorwyn = s.naust.qorwyn

/-! ### Host queues (chapter 02) -/

/-- R26: a doorbell write moves the tail of an enabled queue to a value below N that does not pass the head; any other sets
DB_ERR, counts as misuse, and changes nothing else. In Holdfast it is ignored (R22). -/
def Obligations.DoorbellMovesTheTailOrIsRejected : Prop :=
  (∀ (q : Qn) (v : BitVec 32) (s : State), hostDecodes s = true → inHoldfast s = false →
    let n := 2 ^ rbits (R.QFE_Qn_SIZE q.val) 4 0 s
    let head := rget (R.QFE_Qn_HEAD q.val) s
    let good := rbits (R.QFE_Qn_STAT q.val) 2 0 s ≠ 0 ∧ v.toNat < n ∧
      (rget (R.QFE_Qn_TAIL q.val) s + n - head) % n ≤ (v.toNat + n - head) % n
    (good → exec (.doorbellWrite q v) s = .next (leaveSlack (rset (R.QFE_Qn_TAIL q.val) v.toNat s))) ∧
    (¬ good → ∃ t, exec (.doorbellWrite q v) s = .next t ∧ rbit (R.QFE_Qn_STAT q.val) 9 t = true ∧
      Counted R.QFE_MISUSE s t ∧ OnlyRegs [R.QFE_Qn_STAT q.val, R.QFE_MISUSE] s t)) ∧
  (∀ (q : Qn) (v : BitVec 32) (s : State), inHoldfast s = true → exec (.doorbellWrite q v) s = .next s)

/-- R33: MARKER_ADD, a write to the marker window and an add that the Keeper requests add to the count of the marker that they name,
modulo 2^32, and MARKER_SET sets it; no other marker, no byte of memory and no register but the arms of R39 changes; a host's
write also ends Slack. In Holdfast a write to the window is ignored (R22). -/
def Obligations.MarkersAddAndSet : Prop :=
  (∀ (c : Nat) (s : State) (x : Started), runningCmd c .markerAdd s = some x → ∃ t, exec (.markerAdd c) s = .next t ∧
    (∀ n, markerCount n t = if n = markerOf x.bytes then (markerCount n s + u x.bytes 20 4) % 2 ^ 32 else markerCount n s) ∧
    startedAt c t = some { x with state := .done } ∧ (∀ a, byteAt a t = byteAt a s) ∧
    (∀ o, (∀ i < numArms, o ≠ R.QFE_MARM i) → rget o t = rget o s)) ∧
  (∀ (c : Nat) (s : State) (x : Started), runningCmd c .markerSet s = some x → ∃ t, exec (.markerSet c) s = .next t ∧
    (∀ n, markerCount n t = if n = markerOf x.bytes then u x.bytes 20 4 % 2 ^ 32 else markerCount n s) ∧
    startedAt c t = some { x with state := .done } ∧ (∀ a, byteAt a t = byteAt a s) ∧
    (∀ o, (∀ i < numArms, o ≠ R.QFE_MARM i) → rget o t = rget o s)) ∧
  (∀ (m : Mk) (v : BitVec 32) (s : State), hostDecodes s = true → inHoldfast s = false →
    ∃ t, exec (.markerWindowWrite ⟨.host, m⟩ v) s = .next t ∧
    (∀ n, markerCount n t = if n = m.val then (markerCount n s + v.toNat) % 2 ^ 32 else markerCount n s) ∧
    (∀ a, byteAt a t = byteAt a s) ∧
    (∀ o, (∀ i < numArms, o ≠ R.QFE_MARM i) → o ≠ R.PWR_STAT → o ≠ R.PWR_EVT → rget o t = rget o s)) ∧
  (∀ (m : Mk) (v : BitVec 32) (s : State), s.boot.released = true → inHoldfast s = false →
    ∃ t, exec (.markerWindowWrite ⟨.keeper, m⟩ v) s = .next t ∧
    (∀ n, markerCount n t = if n = m.val then (markerCount n s + v.toNat) % 2 ^ 32 else markerCount n s) ∧
    (∀ a, byteAt a t = byteAt a s) ∧ (∀ o, (∀ i < numArms, o ≠ R.QFE_MARM i) → rget o t = rget o s)) ∧
  (∀ (r : Requester) (m : Mk) (v : BitVec 32) (s : State), inHoldfast s = true → exec (.markerWindowWrite ⟨r, m⟩ v) s = .next s)

/-- R39: when a marker's count has been put, no arm on that marker is left armed and satisfied. -/
def Obligations.SatisfiedArmsFire : Prop :=
  ∀ (m v i : Nat) (s : State), i < numArms → rbits (R.QFE_MARM i) 11 0 s = m →
    armReady (rget (R.QFE_MARM i) (markerPut m v s)) (markerPut m v s) = false

/-- R387, R367, R389: a write of 1 to ENABLE of a DISABLED queue whose rings are valid, once the module is ready and outside Holdfast,
leaves an empty ring in state RUNNING; where one of these does not hold it counts as misuse and changes nothing else; of a queue
that is enabled it has no effect. A write of 0 leaves a queue STOPPING while something of it is at work, and else DISABLED, with no
halt in force; one at which nothing of an unhalted queue has started writes no record. -/
def Obligations.QueueEnableAndDisable : Prop :=
  ∀ (q : Qn) (s : State),
    (qState q.val s = 0 → isReady s = true → inHoldfast s = false → ringsValid q.val s = true →
      ∃ t, exec (.queueEnable q) s = .next t ∧
      qState q.val t = 1 ∧ rbit (R.QFE_Qn_CTL q.val) 0 t = true ∧ rget (R.QFE_Qn_HEAD q.val) t = 0 ∧
      rget (R.QFE_Qn_TAIL q.val) t = 0 ∧ qx q.val t = {} ∧ (∀ p, p ≠ q.val → qx p t = qx p s) ∧
      { t with regs := s.regs, queues := s.queues } = s ∧
      (∀ o, o ∉ [R.QFE_Qn_STAT q.val, R.QFE_Qn_CTL q.val, R.QFE_Qn_HEAD q.val, R.QFE_Qn_TAIL q.val] → rget o t = rget o s)) ∧
    (qState q.val s = 0 → (isReady s = false ∨ inHoldfast s = true ∨ ringsValid q.val s = false) →
      ∃ t, exec (.queueEnable q) s = .next t ∧ Counted R.QFE_MISUSE s t ∧ OnlyRegs [R.QFE_MISUSE] s t) ∧
    (qState q.val s ≠ 0 → exec (.queueEnable q) s = .next s) ∧
    (qState q.val s = 0 → exec (.queueDisable q) s = .next s) ∧
    (qState q.val s ≠ 0 → ∃ t, exec (.queueDisable q) s = .next t ∧ rbit (R.QFE_Qn_CTL q.val) 0 t = false ∧
      rget (R.QFE_Qn_HALT q.val) t = 0 ∧ qState q.val t = if working q.val s then 5 else 0) ∧
    (qState q.val s ≠ 0 → standsHalted q.val s = false → (qx q.val s).flights = [] → (∀ x ∈ s.started, x.q ≠ q.val) →
      (qx q.val s).flush = false → ∃ t, exec (.queueDisable q) s = .next t ∧ qx q.val t = {} ∧
      { t with regs := s.regs, queues := s.queues } = s ∧
      (∀ o, o ∉ [R.QFE_Qn_STAT q.val, R.QFE_Qn_CTL q.val, R.QFE_Qn_HALT q.val] → rget o t = rget o s)) ∧
    (qState q.val s ≠ 0 → standsHalted q.val s = false → working q.val s = true → ∃ t, exec (.queueDisable q) s = .next t ∧
      (qx q.val t).closing = true ∧ { t with regs := s.regs, queues := s.queues } = s ∧
      (∀ o, o ∉ [R.QFE_Qn_STAT q.val, R.QFE_Qn_CTL q.val, R.QFE_Qn_HALT q.val] → rget o t = rget o s))

/-- R37: RESUME of a halted queue carries out the choice on the halt that the queue shows, and the queue goes on; of a queue
that is not halted, or in Holdfast, it counts as misuse and has no other effect. -/
def Obligations.ResumeActsOnAHaltedQueueOnly : Prop :=
  ∀ (q : Qn) (s : State),
    (qState q.val s = 2 → inHoldfast s = false →
      let h := shownHalt q.val s
      exec (.resumeRetry q) s = .next (afterHalt q.val (retryHalt q.val h s)) ∧
      exec (.resumeSkip q) s = .next (afterHalt q.val (if h.whole then skipEntry q.val h s else skipCommand q.val h s)) ∧
      exec (.resumeAbort q) s = .next (afterHalt q.val (abortEntry q.val h s)) ∧
      ((qx q.val s).held = [] → stopping s = false → (qx q.val s).closing = false → (qx q.val s).flush = false →
        ∃ t, exec (.resumeRetry q) s = .next t ∧ qState q.val t = 1 ∧ (∀ c, h.c = some c → c ∈ (qx q.val t).redo) ∧
          { t with regs := s.regs, queues := s.queues } = s ∧ (∀ o, o ≠ R.QFE_Qn_STAT q.val → rget o t = rget o s))) ∧
    (qState q.val s ≠ 2 ∨ inHoldfast s = true → ∀ c ∈ [Instr.resumeRetry q, .resumeSkip q, .resumeAbort q],
      ∃ t, exec c s = .next t ∧ Counted R.QFE_MISUSE s t ∧ OnlyRegs [R.QFE_MISUSE] s t)

/-- R41, R203: FLUSH of a queue that is not DISABLED aborts the channels that serve it. Of a HALTED or SUSPENDED queue it then discards
its unstarted entries at once, so that none is left but what has started or stands halted; of a queue in another state it takes
effect when the entries that have started are finished, and on a STOPPING one later; of a DISABLED queue it counts as misuse and
does nothing else. -/
def Obligations.FlushByQueueState : Prop :=
  ∀ (q : Qn) (s : State),
    let r := abortChannels q.val s
    ((∀ n < 32, (chanx n s).cmd = none) → r = s) ∧
    (qState q.val s = 2 ∨ qState q.val s = 4 → ∃ t, exec (.flush q) s = .next t ∧ t = flushNow q.val r ∧
      (qx q.val t).flush = false ∧ ∀ f ∈ (qx q.val t).flights, f.begun = true ∨ entryHalted q.val f.idx r = true) ∧
    (qState q.val s ≠ 0 → qState q.val s ≠ 2 → qState q.val s ≠ 4 → (qx q.val r).closing = false →
      (qState q.val r = 5 ∨ (qx q.val r).flights.any (·.begun) = true) →
      ∃ t, exec (.flush q) s = .next t ∧ qx q.val t = { qx q.val r with flush := true } ∧ { t with queues := r.queues } = r) ∧
    (qState q.val s ≠ 0 → qState q.val s ≠ 2 → qState q.val s ≠ 4 → (qState q.val r = 1 ∨ qState q.val r = 3) →
      (qx q.val r).closing = false → (qx q.val r).flights.any (·.begun) = false →
      exec (.flush q) s = .next (flushNow q.val (setQx q.val { qx q.val r with flush := true } r))) ∧
    (qState q.val s = 0 → ∃ t, exec (.flush q) s = .next t ∧ Counted R.QFE_MISUSE s t ∧ OnlyRegs [R.QFE_MISUSE] s t)

/-- R388, R387, R28: the entry at the head of a running queue is checked in the order of R388: malformed, then a target that is
not present, then a list outside the memory it may lie in; each halts the queue with its status and cause. An entry for another
device is forwarded, an empty one finishes OK, and any other begins. On a worker the oldest forwarded entry begins (R29). -/
def Obligations.HeadEntryIsCheckedInOrder : Prop :=
  (∀ (q : Qn) (s : State), mayStart q.val s = true → flushHolds q.val s = false → currentFlight q.val s = none →
    isManager s = true → qHead q.val s ≠ qTail q.val s → (∀ d < 64, forwardedTo d q.val s < 255) →
    let raw := readBytes s (entryAddr q.val (qHead q.val s) s) 64
    let f := ringEntry q.val (qHead q.val s) s
    let lost := f.kind = 1 ∧ listMapped f.listAddr (32 * f.units) s = false
    (entryBad raw = true → exec (.entryHeadCheck q) s = .next (haltEntry q.val f.idx 2 0 s)) ∧
    (entryBad raw = false → f.target ≠ myDev s → present f.target s = false →
      exec (.entryHeadCheck q) s = .next (haltEntry q.val f.idx 1 0x0007 s)) ∧
    (entryBad raw = false → (f.target = myDev s ∨ present f.target s = true) → lost →
      exec (.entryHeadCheck q) s = .next (haltEntry q.val f.idx 3 0x0140
        (captureUnmapped (listFault f.listAddr (32 * f.units) s) (reportError 2 bQFE 0x0140 q.val 0 s)))) ∧
    (entryBad raw = false → f.target ≠ myDev s → present f.target s = true → ¬ lost →
      exec (.entryHeadCheck q) s = .next (forwardEntry q.val f s)) ∧
    (entryBad raw = false → f.target = myDev s → ¬ lost → f.kind = 0 →
      exec (.entryHeadCheck q) s = .next (finishEntry q.val f 0 0 0 s)) ∧
    (entryBad raw = false → f.target = myDev s → ¬ lost → f.kind ≠ 0 → ∃ t, exec (.entryHeadCheck q) s = .next t ∧
      (qx q.val t).flights = (qx q.val s).flights ++ [f] ∧ { t with queues := s.queues } = s ∧
      (∀ p, p ≠ q.val → qx p t = qx p s))) ∧
  (∀ (q : Qn) (s : State) (f : Flight) (rest : List Flight), mayStart q.val s = true → flushHolds q.val s = false →
    currentFlight q.val s = none → isManager s = false → (qx q.val s).inbox = f :: rest → f.units ≠ 0 →
    ∃ t, exec (.entryHeadCheck q) s = .next t ∧ (qx q.val t).inbox = rest ∧ (qx q.val t).flights = (qx q.val s).flights ++ [f] ∧
      { t with queues := s.queues } = s ∧ (∀ p, p ≠ q.val → qx p t = qx p s))

/-- R30 to R32, R36: the command at the head of a running queue waits while a flag of its header is not met; then a poisoned unit
halts the queue as a contained error 0x0142, a malformed command with status MALFORMED, and one that the present state does not
allow with OUT_OF_STATE and its cause; otherwise, once its engine can take it, it starts: a new command is recorded as running,
with its entry and unit and under the next number, and a failed one that is retried runs again from its beginning. -/
def Obligations.CommandStartsOrHalts : Prop :=
  ∀ (q : Qn) (s : State) (c pos : Nat) (f : Flight) (again : Bool), mayStart q.val s = true →
    headCommand q.val s = some (c, f, pos, again) →
    let h := listUnit f pos s
    let r := noteFence q.val c h s
    let b := (List.range (u h 2 1)).flatMap (fun i => listUnit f (pos + i) r)
    let held := if again then some c else none
    (unitPoisoned f pos 1 s = true →
      exec (.commandStart q) s = .next (haltAt q.val f pos held 3 0x0142 (reportError 2 bQFE 0x0142 q.val 0 s))) ∧
    (unitPoisoned f pos 1 s = false → flagsMet q.val c h r = false → exec (.commandStart q) s = .next r) ∧
    (unitPoisoned f pos 1 s = false → flagsMet q.val c h r = true → unitPoisoned f pos (max 1 (u h 2 1)) r = true →
      exec (.commandStart q) s = .next (haltAt q.val f pos held 3 0x0142 (reportError 2 bQFE 0x0142 q.val 0 r))) ∧
    (unitPoisoned f pos 1 s = false → unitPoisoned f pos (max 1 (u h 2 1)) r = false → flagsMet q.val c h r = true →
      (commandBad q.val f pos b r = true → exec (.commandStart q) s = .next (haltAt q.val f pos held 2 0 r)) ∧
      (commandBad q.val f pos b r = false → ∀ o, opOfBytes b = some o →
        (∀ k, stateCause c f o b r = some k → exec (.commandStart q) s = .next (haltAt q.val f pos held 1 k r)) ∧
        (stateCause c f o b r = none → engineWaits q.val c o b r = true →
          exec (.commandStart q) s = .next (noteAwaits q.val o b r)) ∧
        (stateCause c f o b r = none → engineWaits q.val c o b r = false →
          exec (.commandStart q) s = .next (startHook c o b (if again then startAgain q.val c r else startNew q.val f b r))) ∧
        (stateCause c f o b r = none → engineWaits q.val c o b r = false → again = false → engineOf b = 0xF →
          ∃ t, exec (.commandStart q) s = .next t ∧ t.started = s.started ++
            [{ id := s.nextCmd, turn := s.nextCmd, q := q.val, idx := f.idx, unit := f.pos, bytes := b, outs := startOuts o b r }] ∧
          t.nextCmd = s.nextCmd + 1 ∧ { t with regs := s.regs, queues := s.queues, started := s.started, nextCmd := s.nextCmd } = s)))

/-- R32, R36: when the command at the head has waited QFE_Qn_WTO cycles for its marker, WTO_F is set and the manager's queue halts
before the command with status WAIT_TIMEOUT; a worker's halts likewise, with a notice to the manager (R29). -/
def Obligations.WaitTimeoutHaltsTheQueue : Prop :=
  ∀ (q : Qn) (s : State) (c pos : Nat) (f : Flight) (again : Bool), mayStart q.val s = true → rget (R.QFE_Qn_WTO q.val) s ≠ 0 →
    headCommand q.val s = some (c, f, pos, again) → waitMet (listUnit f pos s) s = false →
    exec (.waitTimeout q) s = .next (haltAt q.val f pos (if again then some c else none) 4 0 (rsetBit (R.QFE_Qn_STAT q.val) 10 s)) ∧
    (isManager s = true → (qx q.val s).closing = false → ∃ t, exec (.waitTimeout q) s = .next t ∧ qState q.val t = 2 ∧
      rbit (R.QFE_Qn_STAT q.val) 10 t = true ∧ rbits (R.QFE_Qn_HALT q.val) 31 24 t = 4 ∧ Counted (R.QFE_Qn_HALTS q.val) s t ∧
      { t with regs := s.regs, queues := s.queues, out := s.out, pcie := s.pcie } = s ∧
      ∀ o, o ∉ [R.QFE_Qn_STAT q.val, R.QFE_Qn_HALT q.val, R.QFE_Qn_HALTS q.val] → rget o t = rget o s)

/-- R34: NOP has no effect but its completion. When a command completes it leaves the started commands; then the add of SIGNAL is
made and its entry finishes when it was the last. A command that has not finished does not complete, and one that does not run, or
waits for a bank command that holds what it reaches (R152), has no effect. -/
def Obligations.CommandsComplete : Prop :=
  (∀ (c : Nat) (s : State) (x : Started), runningCmd c .nop s = some x → ∃ t, exec (.nop c) s = .next t ∧
    startedAt c t = some { x with state := .done } ∧ { t with started := s.started } = s) ∧
  (∀ (c : Nat) (ps : List ParityErr) (s : State),
    ∀ a ∈ [(Instr.markerAdd, Op.markerAdd), (.markerSet, .markerSet), (.nop, .nop), (.snap, .snap), (.matmul, .matmul), (.matmul2, .matmul2),
      (.gradPair, .gradPair), (.chainLoad, .chainLoad), (.tableLoad, .tableLoad), (.vector, .vector), (.attnFwd, .attnFwd), (.attnBwd, .attnBwd),
      (.attnMerge, .attnMerge), (.attnPaged, .attnPaged), (.slotOpen, .slotOpen), (.slotClose, .slotClose), (.slotFork, .slotFork),
      (.kvWrite, .kvWrite), (.slotTrunc, .slotTrunc), (.pageHint, .pageHint), (.atomic, .atomic), (.accOpen, .accOpen), (.accClose, .accClose),
      (.ringSet, .ringSet), (.dma, .dma), (.stashPut, .stashPut), (.stashGet, .stashGet), (.stashDrop, .stashDrop), (.broadcast, .broadcast),
      (.allGather, .allGather), (.allToAll, .allToAll), (.reduce, .reduce), (.ringPass, .ringPass), (.epochFence, .epochFence),
      (.snapFetch, .snapFetch), (.cdcOpen, .cdcOpen), (.cdcClose, .cdcClose), (.cdcDecode, .cdcDecode), (.cdcEncode, .cdcEncode),
      (.cdcFlush, .cdcFlush), (fun c => .bankMv c ps, .bankMv), (fun c => .bankOpt c ps, .bankOpt), (fun c => .bankEw c ps, .bankEw),
      (fun c => .bankCopy c ps, .bankCopy)],
      runningCmd c a.2 s = none → exec (a.1 c) s = .next s) ∧
  (∀ (c : Nat) (s : State) (x : Started), startedAt c s = some x → x.state ≠ .done → exec (.commandComplete c) s = .next s) ∧
  (∀ (c : Nat) (s : State) (x : Started) (f : Flight), startedAt c s = some x → x.state = .done → x.muted = false →
    exec (.commandComplete c) s = .next (settleQueue x.q (settleEntry x.q x.idx (signalAdd x (noteYield x (countDone x
      { s with started := s.started.filter (fun y => y.id != c) }))))) ∧
    (hasFlag flagSignal x.bytes = true → hasFlag flagYield x.bytes = false → flightAt x.q x.idx s = some f →
      f.pos < f.units → (qx x.q s).closing = false → (qx x.q s).flush = false → ∃ t, exec (.commandComplete c) s = .next t ∧
      (∀ n, markerCount n t = if n = signalMarker x.bytes then (markerCount n s + 1) % 2 ^ 32 else markerCount n s) ∧
      startedAt c t = none ∧ (∀ a, byteAt a t = byteAt a s)))

/-- R29: a HALT notice of a worker joins the manager's queue of remote halts and is counted and signalled; RHALT_POP takes the
oldest out; a write of QFE_RCTL sends the worker the choice, and of a device that cannot be halted remotely counts as misuse; the
worker carries the choice out on its queue. A notice that no port can take waits and is not lost. -/
def Obligations.RemoteHaltsQueueAndResume : Prop :=
  (∀ (p : Port) (m : Msg) (s t : State), isManager s = true → s.rhalts.length < 64 → takeCtrl p.val 0x27 m s = some t →
    ∃ r, exec (.halt p m) s = .next r ∧ r.rhalts = t.rhalts ++ [(u m.data 0 8 % 2 ^ 63, u m.data 8 4)] ∧ r.mem = t.mem ∧
      Counted R.QFE_RHALTS t r ∧ (∀ o, o ∉ [R.QFE_RHALT, R.QFE_RHALT_ENTRY, R.QFE_RHALTS] → rget o r = rget o t)) ∧
  (∀ (s : State), hostDecodes s = true → ∃ t, exec .rhaltPop s = .next t ∧ t.rhalts = s.rhalts.drop 1 ∧
    { t with regs := s.regs, rhalts := s.rhalts } = s ∧
    (∀ h r, s.rhalts.drop 1 = h :: r → rget R.QFE_RHALT t = h.1 + 2 ^ 63) ∧ (s.rhalts.drop 1 = [] → rget R.QFE_RHALT t = 0) ∧
    (∀ o, o ∉ [R.QFE_RHALT, R.QFE_RHALT_ENTRY] → rget o t = rget o s)) ∧
  (∀ (d : Dev) (q : Qn) (s : State), isManager s = true → d.val ≠ myDev s → present d.val s = true →
    exec (.rctlRetry d q) s = .next (sendCtrl 0x28 (myDom s) d.val (padTo 16 (leBytes 1 q.val ++ leBytes 1 1)) s) ∧
    exec (.rctlSkip d q) s = .next (sendCtrl 0x28 (myDom s) d.val (padTo 16 (leBytes 1 q.val ++ leBytes 1 2)) s) ∧
    exec (.rctlAbort d q) s = .next (sendCtrl 0x28 (myDom s) d.val (padTo 16 (leBytes 1 q.val ++ leBytes 1 3)) s)) ∧
  (∀ (d : Dev) (q : Qn) (s : State), (isManager s = false ∨ d.val = myDev s ∨ present d.val s = false) →
    ∀ c ∈ [Instr.rctlRetry d q, .rctlSkip d q, .rctlAbort d q],
      ∃ t, exec c s = .next t ∧ Counted R.QFE_MISUSE s t ∧ OnlyRegs [R.QFE_MISUSE] s t) ∧
  (∀ (p : Port) (m : Msg) (s t : State), takeCtrl p.val 0x28 m s = some t → u m.data 0 1 < numQueues →
    exec (.resume p m) s = .next (resumeQueue (u m.data 0 1) (u m.data 1 1 % 4) t)) ∧
  (∀ (m : Msg) (s : State), sendMsg m s = none → (sendNotice s m).notices = s.notices ++ [m] ∧
    { sendNotice s m with notices := s.notices } = s)

/-- R28, R29: a worker that has joined takes a forwarded entry into the ring of the queue that the message names: its 64 bytes are
written at the tail, the tail moves on, and the entry waits with the list it carries. The manager writes a COMPLETION's record at
the entry's own index of the completion ring, with the PHASE of its pass, and forgets the forwarded entry. -/
def Obligations.EntriesAreForwardedAndAnswered : Prop :=
  (∀ (p : Port) (m : Msg) (s t : State), isManager s = false → s.keeper.joined = true → bits m.addr.toNat 21 16 < numQueues →
    qState (bits m.addr.toNat 21 16) s ≠ 0 →
    (qx (bits m.addr.toNat 21 16) s).inbox.length + (qx (bits m.addr.toNat 21 16) s).flights.length + 1 < ringSize (bits m.addr.toNat 21 16) s →
    takeMsg p.val 6 m s = some t →
    let q := bits m.addr.toNat 21 16
    let e := parseEntry m.data (m.addr.toNat % 65536) true
    let w := poke (entryAddr q (qTail q t) t) (m.data.take 64) t
    ∃ r, exec (.entry p m) s = .next r ∧ rget (R.QFE_Qn_TAIL q) r = (qTail q t + 1) % ringSize q w ∧
      (qx q r).inbox = (qx q w).inbox ++
        [{ e with remote := true, bad := m.poison && e.kind == 1, body := if e.kind = 1 then some (m.data.drop 64) else e.body }] ∧
      (∀ a, byteAt a r = byteAt a w)) ∧
  (∀ (p : Port) (m : Msg) (s t : State) (f : Flight), isManager s = true → takeCtrl p.val 0x24 m s = some t →
    let q := u m.data 2 1
    let i := u m.data 32 4
    (qx q t).flights.find? (fun g => g.idx == i && g.sent && g.target == m.srcDev.toNat) = some f →
    let w := poke (recordAddr q i t) (patch (m.data.take 32) 31 (leBytes 1 (nb f.phase))) t
    let v := if f.irq then raiseVector q w else w
    exec (.completion p m) s = .next (settleQueue q (dropFlight q i { v with fwds := v.fwds.filter (fun x => x != (m.srcDev.toNat, q, i)) })))

/-! ### The PCIe port (chapter 02) -/

/-- R22, R359: a Function Level Reset of the manager leaves every queue DISABLED and forgets what workers hold for it; the bytes of
memory, markers and QFE_JOB are kept (memory that a stopped command may write is undefined, log 4), and what the host has set up in
configuration space is at its reset value. A worker that has joined follows its manager's; with a host link of its own a free value says
whose function is meant (log 143). On the manager a PERST#, a hot reset and the loss of the link act in the same way after the link has
gone down; on a worker the interface alone retrains. -/
def Obligations.FunctionResetDisablesEveryQueue : Prop :=
  (∀ s : State, isManager s = true → ∃ t, exec .functionLevelReset s = .next t ∧
    (∀ q < numQueues, qState q t = 0) ∧ t.fwds = [] ∧ t.rhalts = [] ∧ t.markers = s.markers ∧ t.pcie.cfg = [] ∧
    ((∀ n < 32, (chanx n s).funnel = []) → t.mem = s.mem) ∧ rget R.QFE_JOB t = rget R.QFE_JOB s) ∧
  (∀ s : State, isManager s = false → s.keeper.joined = false → exec .functionLevelReset s =
    .next { s with pcie := { s.pcie with d3hot := false, cfg := [], msix := [], pba := [] } }) ∧
  (∀ s : State, isManager s = false → s.keeper.joined = true → rbit R.HIF_LINKSTAT 14 s = false → ∃ t, exec .functionLevelReset s = .next t ∧
    (∀ q < numQueues, qState q t = 0) ∧ t.markers = s.markers ∧ t.pcie = s.pcie ∧
    ((∀ n < 32, (chanx n s).funnel = []) → t.mem = s.mem) ∧ rget R.QFE_JOB t = rget R.QFE_JOB s) ∧
  (∀ s : State, isManager s = false → s.keeper.joined = true → rbit R.HIF_LINKSTAT 14 s = true → ∃ t, exec .functionLevelReset s = .next t ∧
    t.markers = s.markers ∧ rget R.QFE_JOB t = rget R.QFE_JOB s ∧
    ((∀ q < numQueues, qState q t = 0) ∨ (t.queues = s.queues ∧ t.regs = s.regs ∧ t.mem = s.mem ∧ t.pcie.cfg = []))) ∧
  (∀ s : State, s.pcie.perst = false →
    let u := rset R.HIF_LINKSTAT 0 { s with pcie := { s.pcie with perst := true, training := false } }
    (isManager s = true → exec .perstAssert s = exec .functionLevelReset u) ∧
    (isManager s = false → exec .perstAssert s = .next { u with pcie := { u.pcie with d3hot := false, cfg := [], msix := [], pba := [] } })) ∧
  (∀ s : State, rbit R.HIF_LINKSTAT 14 s = true →
    let u := rset R.HIF_LINKSTAT 0 { s with pcie := { s.pcie with training := true } }
    (isManager s = true → exec .hotReset s = exec .functionLevelReset u) ∧
    (isManager s = false → exec .hotReset s = .next { u with pcie := { u.pcie with d3hot := false, cfg := [], msix := [], pba := [] } })) ∧
  (∀ (l : LinkTrained) (s : State), s.pcie.sysReady = true → s.pcie.perst = false → l.up = false → rbit R.HIF_LINKSTAT 14 s = true →
    let u := rset R.HIF_LINKSTAT 0 { s with pcie := { s.pcie with training := true } }
    (isManager s = true → exec (.pcieLinkChange l) s = exec .functionLevelReset u) ∧
    (isManager s = false →
      exec (.pcieLinkChange l) s = .next { u with pcie := { u.pcie with d3hot := false, cfg := [], msix := [], pba := [] } }))

/-- R20, R365, Table 2.1: PERST# released lets training start once SYS_READY is high, and not before; training that ends in a
supported rate, width and mode sets HIF_LINKSTAT, and a link that runs below 32 GT/s or narrower than x16 is DEGRADED and raises
vector 132; non-flit mode is used at 32 GT/s and below only. D3hot stops the decoding of BARs and changes nothing else. -/
def Obligations.LinkTrainsAfterSysReady : Prop :=
  (∀ s : State, s.pcie.perst = true → ∃ t, exec .perstDeassert s = .next t ∧ t.pcie.perst = false ∧
    t.pcie.training = s.pcie.sysReady ∧ { t with pcie := s.pcie } = s) ∧
  (∀ s : State, s.pcie.perst = false → exec .perstDeassert s = .next s) ∧
  (∀ (l : LinkTrained) (s : State), s.pcie.sysReady = true → s.pcie.perst = false → l.up = true →
    (l.width = 4 ∨ l.width = 8 ∨ l.width = 16) → l.speed ≠ 0 → (l.flit = true ∨ l.speed.val ≤ 5) →
    ∃ t, exec (.pcieLinkChange l) s = .next t ∧
    rbits R.HIF_LINKSTAT 2 0 t = l.speed.val ∧ rbits R.HIF_LINKSTAT 12 8 t = l.width ∧ rbit R.HIF_LINKSTAT 13 t = l.flit ∧
    rbit R.HIF_LINKSTAT 14 t = true ∧
    rbit R.HIF_LINKSTAT 16 t = (decide (l.speed.val < 5) || decide (l.width < 16)) ∧ t.pcie.training = false ∧
    (rbit R.HIF_LINKSTAT 16 t = true → rbit R.HIF_LINKSTAT 16 s = false → rbit R.HIF_EVT 0 t = true) ∧
    { t with regs := s.regs, pcie := s.pcie, out := s.out } = s ∧
    (∀ o, o ∉ [R.HIF_LINKSTAT, R.HIF_EVT] → rget o t = rget o s)) ∧
  (∀ (l : LinkTrained) (s : State), (s.pcie.sysReady = false ∨ s.pcie.perst = true ∨ (l.up = true ∧ linkOk l = false)) →
    exec (.pcieLinkChange l) s = .next s) ∧
  (∀ (b : Bool) (s : State), ∃ t, exec (.pmStateWrite b) s = .next t ∧ t = { s with pcie := { s.pcie with d3hot := b } })

/-- R24, Table 2.1: a write of HIF_WIN_BASE keeps bits 47:30; the window is open exactly when its base is aligned to its size and it
lies wholly in stacked memory or wholly in the spill tier, and the module is not in Holdfast. The window's size is 1 GiB to 512
GiB. -/
def Obligations.WindowOpensWhereR24Allows : Prop :=
  (∀ (v : BitVec 64) (s : State), ∃ t, exec (.hifWinBaseWrite v) s = .next t ∧
    rget R.HIF_WIN_BASE t = v.toNat &&& 0xFFFFC0000000 ∧ winSize t = winSize s ∧
    (winOpen t = true ↔ (winBase t % winSize t = 0 ∧ (winBase t + winSize t ≤ stackedEnd ∨
      (spillBase ≤ winBase t ∧ winBase t + winSize t ≤ spillEnd)) ∧ pwrState s ≠ 3)) ∧
    OnlyRegs [R.HIF_WIN_BASE, R.HIF_WIN_STAT] s t) ∧
  (∀ (k : Nat) (s : State), 30 ≤ k → k ≤ 39 → ∃ t, exec (.resizableBarWrite k) s = .next t ∧ winSize t = 2 ^ k ∧
    (winOpen t = true ↔ (winBase t % 2 ^ k = 0 ∧ (winBase t + 2 ^ k ≤ stackedEnd ∨
      (spillBase ≤ winBase t ∧ winBase t + 2 ^ k ≤ spillEnd)) ∧ pwrState s ≠ 3)) ∧
    OnlyRegs [R.HIF_WIN_STAT] s t) ∧
  (∀ (k : Nat) (s : State), k < 30 ∨ 39 < k → exec (.resizableBarWrite k) s = .next s)

/-- R24, R25, R38: while the link is up, an access to a closed window, or beyond it, completes as Unsupported Request, is logged through
AER, and returns all ones on a read, with no byte of memory changed; a read of an open window returns the bytes at base + offset,
with EP where one is poisoned, and a write stores there and nowhere else; each waits while a bank command holds what it reaches
(R152), and ends Slack. In D3hot no BAR decodes. Of BAR 2, a doorbell page reads as the head and takes the tail, a marker window
reads as the count and takes an add, and the words of the MSI-X table read as written, where a write signals pending vectors that
are no longer held back. -/
def Obligations.WindowReadsAndWritesMemory : Prop :=
  (∀ (a : WindowAcc) (s : State), rbit R.HIF_LINKSTAT 14 s = false → exec (.windowAccess a) s = .next s) ∧
  (∀ (a : WindowAcc) (s : State), rbit R.HIF_LINKSTAT 14 s = true → a.space ≠ .config → s.pcie.d3hot = true →
    ∃ t, exec (.windowAccess a) s = .next t ∧ t.out.ur = true ∧ (a.data = none → t.out.rdata = List.replicate a.len 0xFF) ∧
    { t with out := s.out } = s) ∧
  (∀ (a : WindowAcc) (s : State), rbit R.HIF_LINKSTAT 14 s = true → a.space = .window → s.pcie.d3hot = false →
    let n := match a.data with | none => a.len | some b => b.length
    (winOpen s = false ∨ winSize s < a.offset + n) → ∃ t, exec (.windowAccess a) s = .next t ∧
    t.out.ur = true ∧ (a.data = none → t.out.rdata = List.replicate a.len 0xFF) ∧ t.pcie.aer = 20 :: s.pcie.aer ∧
    rbit R.HIF_EVT 1 t = true ∧ (∀ x, byteAt x t = byteAt x s) ∧ (∀ o, o ≠ R.HIF_EVT → rget o t = rget o s)) ∧
  (∀ (a : WindowAcc) (s : State), rbit R.HIF_LINKSTAT 14 s = true → a.space = .window → s.pcie.d3hot = false → winOpen s = true →
    a.data = none → a.offset + a.len ≤ winSize s →
    let x := winBase s + a.offset
    (bankHolds x a.len (leaveSlack s) = true → exec (.windowAccess a) s = .next (leaveSlack s)) ∧
    (bankHolds x a.len (leaveSlack s) = false → exec (.windowAccess a) s = .next (windowRead x a.len a.dram (leaveSlack s)) ∧
      (a.dram = [] → ∃ t, exec (.windowAccess a) s = .next t ∧ t.out.ur = false ∧ t.out.rdata = readBytes s x a.len ∧
        t.out.ep = poisoned s x a.len ∧ (poisoned s x a.len = true → t.pcie.aer = 12 :: s.pcie.aer) ∧
        (∀ y, byteAt y t = byteAt y s) ∧ (∀ o, o ≠ R.PWR_STAT → o ≠ R.PWR_EVT → rget o t = rget o s)))) ∧
  (∀ (a : WindowAcc) (b : Bytes) (s : State), rbit R.HIF_LINKSTAT 14 s = true → a.space = .window → s.pcie.d3hot = false →
    winOpen s = true → a.data = some b → a.offset + b.length ≤ winSize s →
    let x := winBase s + a.offset
    (bankHolds x b.length (leaveSlack s) = true → exec (.windowAccess a) s = .next (leaveSlack s)) ∧
    (bankHolds x b.length (leaveSlack s) = false → exec (.windowAccess a) s = .next (windowWrite x b a.dram (leaveSlack s)) ∧
      (a.dram = [] → (winBase s + winSize s ≤ stackedEnd ∨ (spillBase ≤ winBase s ∧ winBase s + winSize s ≤ spillEnd)) →
        ∃ t, exec (.windowAccess a) s = .next t ∧ t.out.ur = false ∧
        (∀ y, byteAt y t = if x ≤ y ∧ y < x + b.length then b.getD (y - x) 0 else byteAt y s) ∧
        (∀ o, o ≠ R.PWR_STAT → o ≠ R.PWR_EVT → rget o t = rget o s)))) ∧
  (∀ (a : WindowAcc) (s : State), rbit R.HIF_LINKSTAT 14 s = true → a.space = .bar2 → s.pcie.d3hot = false → a.data = none →
    a.len = 4 → (∀ q : Qn, a.offset = 0x1000 * q.val → isManager s = true → ∃ t, exec (.windowAccess a) s = .next t ∧
      t.out.rdata = leBytes 4 (rget (R.QFE_Qn_HEAD q.val) s) ∧ { t with out := s.out } = s) ∧
    (∀ m : Mk, a.offset = 0x80000 + 8 * m.val → isManager s = true → ∃ t, exec (.windowAccess a) s = .next t ∧
      t.out.rdata = leBytes 4 (if inHoldfast s then 0 else markerCount m.val s) ∧ { t with out := s.out } = s) ∧
    (∀ i < 8192, a.offset = 0xF0000 + 4 * i → ∃ t, exec (.windowAccess a) s = .next t ∧
      t.out.rdata = leBytes 4 (msixWord i s) ∧ { t with out := s.out } = s)) ∧
  (∀ (a : WindowAcc) (b : Bytes) (s : State), rbit R.HIF_LINKSTAT 14 s = true → a.space = .bar2 → s.pcie.d3hot = false →
    a.data = some b → b.length = 4 →
    (∀ q : Qn, a.offset = 0x1000 * q.val → ∃ t, exec (.doorbellWrite q (BitVec.ofNat 32 (ofLe b))) s = .next t ∧
      exec (.windowAccess a) s = .next { t with out := { t.out with rdata := [], ur := false, ep := false } }) ∧
    (∀ m : Mk, a.offset = 0x80000 + 8 * m.val → ∃ t, exec (.markerWindowWrite ⟨.host, m⟩ (BitVec.ofNat 32 (ofLe b))) s = .next t ∧
      exec (.windowAccess a) s = .next { t with out := { t.out with rdata := [], ur := false, ep := false } }) ∧
    (∀ i < 8192, a.offset = 0xF0000 + 4 * i → ∃ t, exec (.windowAccess a) s = .next t ∧ msixWord i t = ofLe b % 2 ^ 32 ∧
      (∀ j, j ≠ i → msixWord j t = msixWord j s) ∧ (isManager s = true → ∀ v ∈ t.pcie.pba, vectorHeld v t = true) ∧
      { t with pcie := s.pcie, out := s.out } = s)) ∧
  (∀ (a : WindowAcc) (s : State), rbit R.HIF_LINKSTAT 14 s = true → a.space = .config → a.data = none → a.len = 4 →
    a.offset % 4 = 0 → a.offset < 4096 → ∃ t, exec (.windowAccess a) s = .next t ∧
    t.out.rdata = leBytes 4 (configWord a.offset s) ∧ { t with out := s.out } = s)

/-! ### Snapshots (chapter 19) -/

/-- R342, R343, R347, R348: a write of SNP_TRIG, an edge on SNAP_IN that is long enough and not held off, the command SNAP and a
TRIGGER message whose number is not among the last 16 each put one trigger at the end of the root's queue while it holds fewer than
16; a write with bit 31 set is taken with the bit cleared and counts as misuse, and a TRIGGER with a number already seen only counts
in SNP_DUP. -/
def Obligations.TriggersJoinTheRootsQueue : Prop :=
  (∀ (v : BitVec 32) (s : State), s.snap.queue.length < 16 → ∃ t, exec (.snpTrigWrite v) s = .next t ∧
    t.snap.queue = s.snap.queue ++ [{ num := v.toNat % 2 ^ 31, src := 2, fwd := true }] ∧
    { t with regs := s.regs, snap := s.snap } = s ∧
    (v.toNat < 2 ^ 31 → t.regs = s.regs) ∧
    (2 ^ 31 ≤ v.toNat → Counted R.SNP_MISUSE s t ∧ ∀ o, o ≠ R.SNP_MISUSE → rget o t = rget o s)) ∧
  (∀ (ns : Nat) (s : State), rbit R.SNP_CTL 2 s = true → 20 ≤ ns → s.snap.holdoff ≤ s.naust.tick → s.snap.queue.length < 16 →
    ∃ t, exec (.snapInEdge ns) s = .next t ∧
    t.snap.queue = s.snap.queue ++ [{ num := rbits R.SNP_PIN_NUM 30 0 s, src := 3, fwd := true }] ∧
    t.snap.holdoff = s.naust.tick + 25 * rbits R.SNP_PIN_HOLDOFF 15 0 s ∧ { t with snap := s.snap } = s) ∧
  (∀ (ns : Nat) (s : State), (rbit R.SNP_CTL 2 s = false ∨ ns < 20 ∨ s.naust.tick < s.snap.holdoff) →
    exec (.snapInEdge ns) s = .next s) ∧
  (∀ (c : Nat) (s : State) (x : Started), runningCmd c .snap s = some x → x.begun = false → s.snap.queue.length < 16 → ∃ t, exec (.snap c) s = .next t ∧
    t.snap.queue = s.snap.queue ++ [{ num := u x.bytes 16 4, src := 1, fwd := bitAt (u x.bytes 20 1) 0, cmd := some c }] ∧
    startedAt c t = some { x with begun := true, prog := 0 } ∧ { t with started := s.started, snap := s.snap } = s) ∧
  (∀ (c : Nat) (s : State) (x : Started), runningCmd c .snap s = some x → x.begun = false → 16 ≤ s.snap.queue.length →
    s.snap.queue.any (fun g => g.cmd == some c) = false → ∃ t, exec (.snap c) s = .next t ∧ t.snap.queue = s.snap.queue ∧
    startedAt c t = some { x with begun := true, prog := 0, state := .done }) ∧
  (∀ (p : Port) (m : Msg) (s t : State), takeCtrl p.val 0x18 m s = some t →
    (u m.data 0 4 ∈ t.snap.last → ∃ r, exec (.trigger p m) s = .next r ∧ rget R.SNP_DUP r = (rget R.SNP_DUP t + 1) % 2 ^ 32 ∧
      OnlyRegs [R.SNP_DUP] t r) ∧
    (u m.data 0 4 ∉ t.snap.last → t.snap.queue.length < 16 → ∃ r, exec (.trigger p m) s = .next r ∧
      r.snap.queue = t.snap.queue ++ [{ num := u m.data 0 4, src := 4, port := p.val, hops := u m.data 4 1 }] ∧
      { r with snap := t.snap } = t)) ∧
  (∀ (v : BitVec 32) (s : State), v.toNat < 2 ^ 31 → 16 ≤ s.snap.queue.length → exec (.snpTrigWrite v) s =
    .next (dropTrigger { num := v.toNat, src := 2, fwd := true } { s with snap := { s.snap with last := (v.toNat :: s.snap.last).take 16 } }))

/-- R344 to R346: the root issues the first trigger of its queue: every tap latches into the lowest-numbered bank that is free and not
kept back, the bank shows the trigger's number and is full, and vector 133 is raised; with no such bank the trigger is dropped and
counted. Then it is announced, and SNAP commands whose trigger has left the queue are complete. R346, R348, R350: a written 1
releases a full bank and no other; the pulse of SNAP_OUT ends; SNAP_FETCH writes this module's own full bank to memory and, with
RELEASE, releases it, and fails on a bank that is not full or a device that is absent; what a worker's bank holds, and whether it is
full and the worker in Holdfast, are free values (log 55). -/
def Obligations.TriggersFillBanksThatAreReleased : Prop :=
  ((∀ (s : State) (t : Trig) (rest : List Trig), s.snap.queue = t :: rest →
    let r : State := { s with snap := { s.snap with queue := rest } }
    (∀ b, bankFor t.hf r = some b → exec .triggerIssue s = .next (settleSnaps (announceTrigger t (latchBank b t r)))) ∧
    (bankFor t.hf r = none → exec .triggerIssue s = .next (settleSnaps (dropTrigger t r)))) ∧
  (∀ (b : Nat) (t : Trig) (s : State), b < 4 → bankFull b (latchBank b t s) = true ∧ rget (R.SNP_Bb_NUM b) (latchBank b t s) = t.num ∧
    ∀ o, latchedReg b o (latchBank b t s) = AL.get (resetOf o) o (latchedRegs s))) ∧
  ((∀ (v : BitVec 32) (s : State), s.snap.frozen = [] → ∃ t, exec (.snapshotBankRelease v) s = .next t ∧
    (∀ b < 4, bankFull b t = (bankFull b s && !v.toNat.testBit b)) ∧
    (∀ b < 4, v.toNat.testBit b = true → bankFull b s = true → rget (R.SNP_Bb_NUM b) t = 0) ∧
    { t with regs := s.regs, snap := s.snap } = s) ∧
  (∀ (v : BitVec 32) (s : State), exec (.snapshotBankRelease v) s =
    .next (((List.range 4).filter (fun b => v.toNat.testBit b && bankFull b s)).foldl (fun t b => releaseBank b t) s)) ∧
  (∀ s : State, exec .snapOutPulseEnd s = .next { s with snap := { s.snap with out := false } }) ∧
  (∀ (c : Nat) (s : State) (x : Started), runningCmd c .snapFetch s = some x →
    let d := u x.bytes 16 1
    let b := u x.bytes 17 1 % 4
    let a := u x.bytes 24 6
    (d = myDev s → bankFull b s = true → exec (.snapFetch c) s =
      .next (markDone c (if bitAt (u x.bytes 17 1) 7 then releaseBank b (poke a (fetchBytes b s) s) else poke a (fetchBytes b s) s))) ∧
    (d = myDev s → bankFull b s = false → exec (.snapFetch c) s = .next (failCmd c bSNP 0x01D1 0 s)) ∧
    (d ≠ myDev s → present d s = false → exec (.snapFetch c) s = .next (failCmd c bSNP 0x01D0 0 s)) ∧
    (d ≠ myDev s → present d s = true →
      exec (.snapFetch c) s = .next (failCmd c bSNP 0x01D0 0 (bumpFree s)) ∨
      exec (.snapFetch c) s = .next (failCmd c bSNP 0x01D1 0 (bumpFree s)) ∨
      exec (.snapFetch c) s = .next (markDone c (forgetRange a (a + 524288 + 16 + 16384) (bumpFree s))))))

/-! ### Compute cores (chapters 04 and 05) -/

/-- R75, R78, R92: a matrix or VECTOR command that begins deals its tiles to the cores of its group: each core with tiles gets one
share behind those it holds, every other core is as before, and nothing else changes but the command's count of tiles. -/
def Obligations.MatrixCommandsDealShares : Prop :=
  ∀ (c : Nat) (s : State) (x : Started) (i : Instr) (op : Op),
    (i, op) ∈ [(Instr.matmul c, Op.matmul), (.matmul2 c, .matmul2), (.gradPair c, .gradPair), (.vector c, .vector)] →
    runningCmd c op s = some x → (x.begun = true → exec i s = .next s) ∧ (x.begun = false → ∃ t, exec i s = .next t ∧
    startedAt c t = some { x with begun := true, prog := tileCount x.bytes } ∧
    (∀ j < coreCount x.bytes, (corex (firstCore x.bytes + j) t).ready = (corex (firstCore x.bytes + j) s).ready ++
      (if shareTiles x.bytes j = ([], []) then []
       else [{ c := c, q := x.q, bwd := decide (8 ≤ x.q), tilesA := (shareTiles x.bytes j).1, tilesB := (shareTiles x.bytes j).2 }])) ∧
    (∀ n, (n < firstCore x.bytes ∨ firstCore x.bytes + coreCount x.bytes ≤ n) → corex n t = corex n s) ∧
    { t with cores := s.cores, started := s.started } = s)

/-- R75, R78: whatever the number of cores, the shares of a matrix command hold every tile of its outputs exactly once: of MATMUL's
output on arrays A and B together, of MATMUL2's and GRAD_PAIR's two outputs each on its own array. -/
def Obligations.SharesHoldEveryTileOnce : Prop :=
  ∀ b : Bytes, coreCount b ≠ 0 →
    let pa := matrixProd b false
    let pb := matrixProd b true
    let onA := (List.range (coreCount b)).flatMap (fun j => (shareTiles b j).1)
    let onB := (List.range (coreCount b)).flatMap (fun j => (shareTiles b j).2)
    (opOfBytes b = some .matmul → (onA ++ onB).Perm (allTiles pa.rows pa.cols)) ∧
    (opOfBytes b = some .matmul2 → onA.Perm (allTiles pa.rows pa.cols) ∧ onB.Perm (allTiles pb.rows pb.cols)) ∧
    (opOfBytes b = some .gradPair → onA.Perm (allTiles pa.rows pa.cols) ∧
      onB.Perm ((List.range (tilesAlong pa.cols)).flatMap (fun k => (List.range (tilesAlong pb.cols)).map (fun i => (k, i)))))

/-- R64, R76, R89, R187, R189: a core between shares that is awake and not held commits the shares that its queues may run ahead, and
takes the committed share that the arbitration chooses: it leaves the committed ones, and a matrix or VECTOR share is in progress
with the chains that it captured, an attention share with the core's matrix pair. A core at work or held takes none. A share is
committed behind the others of its class, or, where a port lacks the room for it, its command fails with cause 0x0160. -/
def Obligations.CoreTakesTheChosenShare : Prop :=
  (∀ (n : Core) (s : State) (h : Share) (x : Started), coreFree n.val s = true →
    let r := commitShares n.val s
    let t := setCorex n.val (takeShare h (corex n.val r)) r
    chooseShare (rbits R.CORE_ARB 4 0 r) (corex n.val r) = some h → startedAt h.c r = some x →
      h ∈ (corex n.val r).queued ∧ (corex n.val t).queued = (corex n.val r).queued.erase h ∧
      (isAttn x.bytes = true → exec (.coreShareStart n) s = .next (startAttn n.val h t)) ∧
      (isAttn x.bytes = false → exec (.coreShareStart n) s = .next (startShare n.val h x t)) ∧
      (isAttn x.bytes = false → ∀ a b, captureSlot t (corex n.val t) (u x.bytes 19 1 % 16) (outShape x.bytes false) = .ok a →
        captureSlot t (corex n.val t) (u x.bytes 19 1 / 16) (outShape x.bytes true) = .ok b →
        ∃ v, exec (.coreShareStart n) s = .next v ∧ (corex n.val v).run.map (fun g => (g.c, g.chainA, g.chainB, g.tables)) =
          some (h.c, a, b, (corex n.val t).tables)) ∧
      (isAttn x.bytes = false → ∀ e, captureSlot t (corex n.val t) (u x.bytes 19 1 % 16) (outShape x.bytes false) = .error e →
        exec (.coreShareStart n) s = .next (refuseShare n.val h bVCH e t))) ∧
  (∀ (n : Core) (s : State), coreFree n.val s = false → exec (.coreShareStart n) s = .next s) ∧
  (∀ (n : Nat) (h : Share) (s : State) (x : Started), startedAt h.c s = some x →
    let k := corex n s
    let t := setCorex n { k with ready := k.ready.erase h, lastF := if h.bwd then k.lastF else h.q,
                                 lastB := if h.bwd then h.q else k.lastB } s
    (shareLacks n h x.bytes t = true → commitShare n h s = refuseShare n h bSTR 0x0160 t) ∧
    (shareLacks n h x.bytes t = false → (corex n (commitShare n h s)).queued = k.queued ++ [h] ∧
      (corex n (commitShare n h s)).ready = k.ready.erase h))

/-- R65, R79, R82: an array's tile whose accumulations are done, which no tile comes before and for which the finished-tile queue has
room, gets its verdict: an operand that is poisoned or cannot be corrected fails the command; a first failure of its checks, real
or forced by INJECT, is retried; a second is chip-fatal; otherwise the tile enters the finished-tile queue with its record. Where no
tile waits nothing happens, and a core that the attention sequencer has gets its verdict there. INJECT is noted for the core and
array that it names, and one that finds an earlier one pending counts as misuse. -/
def Obligations.TileVerdicts : Prop :=
  (∀ (n : Core) (ab : Bool) (v : TileCheck) (s : State) (h : Share) (row col : Nat) (b : Bytes), attnShare n.val s = none →
    awaitsVerdict n.val ab s = some (h, row, col, b) →
    let r := (List.range v.corrected).foldl (fun t _ => tileCorrected n.val h.q t) s
    let y := shareTileValue (viewPieces n.val h b r) b ab row col v.upsets
    let lost := lostCause n.val h b ab row col v r
    let once := if ab then (corex n.val r).onceB else (corex n.val r).onceA
    let forced := r.injects = some (n.val, ab) ∧ opOfBytes b ≠ some .vector
    (∀ cause, lost = some cause → exec (.tileFinish n ab v) s = .next (tileLost n.val h cause r)) ∧
    (lost = none → y.ok = false → once = true → exec (.tileFinish n ab v) s = .next (chipFatal bCORE 1 h.q n.val r)) ∧
    (lost = none → (y.ok = false ∧ once = false ∨ y.ok = true ∧ forced) →
      exec (.tileFinish n ab v) s = .next (tileRetry n.val ab h.c h.q r)) ∧
    (lost = none → y.ok = true → ¬ forced → ∃ t, exec (.tileFinish n ab v) s = .next t ∧ t = tilePass n.val ab h b row col y r ∧
      (corex n.val t).ftq = (corex n.val s).ftq ++ [tileRecord (corex n.val r) h ab row col y])) ∧
  (∀ (n : Core) (ab : Bool) (v : TileCheck) (s : State), attnShare n.val s = none → awaitsVerdict n.val ab s = none →
    exec (.tileFinish n ab v) s = .next s) ∧
  (∀ (n : Core) (ab : Bool) (v : TileCheck) (s : State) (h : Share) (b : Bytes), attnShare n.val s = some (h, b) →
    exec (.tileFinish n ab v) s = .next (attnVerdict n.val ab v h.c s)) ∧
  (∀ (n : Core) (ab : Bool) (s : State), s.injects = none → ∃ t, exec (.inject n ab) s = .next t ∧ t.injects = some (n.val, ab) ∧
    { t with regs := s.regs, injects := s.injects } = s ∧ (∀ o, o ≠ R.CORE_CTL → rget o t = rget o s)) ∧
  (∀ (n : Core) (ab : Bool) (s : State), s.injects.isSome = true →
    ∃ t, exec (.inject n ab) s = .next t ∧ Counted R.CORE_MISUSE s t ∧ OnlyRegs [R.CORE_CTL, R.CORE_MISUSE] s t)

/-- R79, R85, R93, R152: the oldest tile of the finished-tile queue leaves it and goes through the chain that its share captured; it
counts down to the command's completion, and a failing stage fails the command. While the engines are held, or a bank command holds
what the chain may write, nothing happens. -/
def Obligations.ChainTakesTheOldestTile : Prop :=
  (∀ (n : Core) (s : State) (t : QTile) (rest : List QTile) (x : Started), (corex n.val s).ftq = t :: rest → enginesHeld s = false →
    startedAt t.c s = some x → outsHeld x s = false →
    let sh := outShape x.bytes t.arrayB
    let env : CEnv := { chain := t.chain, tables := t.tables, core := n.val, tr := t.row, tc := t.col, rows := t.rows,
                        cols := t.cols, outRows := sh.1, outCols := sh.2 }
    let r := runChain (showDepth n.val (setCorex n.val { corex n.val s with ftq := rest } s)) env t
    let w := captureChain n.val t x.q (firstOcc r.occ) (addFlags t.c (r.flags % 8) r.s)
    (r.cause = none → exec (.chainTile n) s = .next (endFull n.val (decide (16 ≤ (corex n.val s).ftq.length)) (tileOut t.c w))) ∧
    (∀ cause, r.cause = some cause → exec (.chainTile n) s = .next (failCmd t.c bVCH cause n.val (withdraw t.c true true w)))) ∧
  (∀ (n : Core) (s : State) (t : QTile) (rest : List QTile) (x : Started), (corex n.val s).ftq = t :: rest →
    startedAt t.c s = some x → (enginesHeld s = true ∨ outsHeld x s = true) → exec (.chainTile n) s = .next s) ∧
  (∀ (c : Nat) (s : State) (x : Started), startedAt c s = some x →
    startedAt c (tileOut c s) = some (if x.prog ≤ 1 then { x with prog := 0, begun := true, state := .done }
      else { x with prog := x.prog - 1, begun := true }) ∧ { tileOut c s with started := s.started } = s)

/-- R91, R188: the start of a load of chains, tables or ring areas brings its contents to each core of its group: in effect at once
between shares, and after the share in progress otherwise; the command is complete once every core holds the contents. An unmapped
or poisoned source, or ring areas that overlap the other class, fails it before any core is reached. -/
def Obligations.LoadsReachEveryCore : Prop :=
  (∀ (c : Nat) (s : State) (x : Started) (chain : Bool), runningCmd c (if chain then .chainLoad else .tableLoad) s = some x →
    let i : Instr := if chain then .chainLoad c else .tableLoad c
    let n := if chain then 640 else 3136
    let slot := if chain then u x.bytes 18 1 % 16 else u x.bytes 18 1 % 8
    let a := loadAddr x.bytes
    let t := if x.begun then (coresOf x.bytes).foldl settleLoad s
      else updStarted c (fun y => { y with begun := true, image := readBytes s a n })
        ((List.range (coreCount x.bytes)).foldl (fun t j => loadCore (nb chain) slot (readBytes s a n) t (firstCore x.bytes + j))
          (touchRead s (a, n)))
    (x.begun = true ∨ (firstUnreached s a n = none ∧ poisoned s a n = false ∧ loadBad chain x.bytes s = false) →
      exec i s = .next (if loadPending (nb chain) slot x.bytes t then t else markDone c t)) ∧
    (x.begun = false → ∀ e, firstUnreached s a n = some e →
      exec i s = .next (failCmd c bVCH (reachCause s e) (firstCore x.bytes) (captureReach e s))) ∧
    (x.begun = false → firstUnreached s a n = none → poisoned s a n = true →
      exec i s = .next (failCmd c bVCH 0x0142 (firstCore x.bytes) s)) ∧
    (x.begun = false → firstUnreached s a n = none → poisoned s a n = false → loadBad chain x.bytes s = true →
      exec i s = .next (haltMalformed c s))) ∧
  (∀ (c : Nat) (s : State) (x : Started), runningCmd c .ringSet s = some x →
    let cls := u x.bytes 18 1 % 2
    let t := if x.begun then (coresOf x.bytes).foldl settleLoad s
      else updStarted c (fun y => { y with begun := true }) ((coresOf x.bytes).foldl (fun t n => loadCore 2 cls (unitAt x.bytes 1) t n) s)
    (x.begun = false → (∃ n ∈ coresOf x.bytes, ringClash x.bytes cls n s = true) →
      exec (.ringSet c) s = .next (failCmd c bSTR 0x0163 (firstCore x.bytes) s)) ∧
    (x.begun = true ∨ (∀ n ∈ coresOf x.bytes, ringClash x.bytes cls n s = false) →
      exec (.ringSet c) s = .next (if loadPending 2 cls x.bytes t then t else markDone c t))) ∧
  (∀ (kind slot : Nat) (d : Bytes) (s : State) (n : Nat), kind < 2 → (corex n s).loads = [] → (corex n s).run = none →
    findKey slot (if kind = 1 then (corex n (loadCore kind slot d s n)).chains else (corex n (loadCore kind slot d s n)).tables) = some d) ∧
  (∀ (kind slot : Nat) (d : Bytes) (s : State) (n : Nat), (corex n s).run.isSome = true →
    (corex n (loadCore kind slot d s n)).loads = (corex n s).loads ++ [(kind, slot, d)] ∧
    (corex n (loadCore kind slot d s n)).chains = (corex n s).chains ∧ (corex n (loadCore kind slot d s n)).tables = (corex n s).tables)

/-! ### Attention (chapters 06 and 07) -/

/-- R107, R115, R118, R119, R136: an attention command that begins deals its units to the cores of its group, each of which gets one
share behind those it holds, and changes nothing else; ring commands whose global list could not be read at their start fail, and
ATTN_PAGED fails with cause 0x0134 for a slot that is too short or has too few layers. A command that has begun completes the units
that its cores have read, and is done once no core holds a share of it. A core whose wait for a baton expires fails the command
with cause 0x0121; without a wait or a limit nothing happens. -/
def Obligations.AttentionRunsInOrder : Prop :=
  (∀ (c : Nat) (s : State) (x : Started) (i : Instr) (op : Op), (i, op) ∈ [(Instr.attnFwd c, Op.attnFwd), (.attnBwd c, .attnBwd)] →
    runningCmd c op s = some x → x.begun = false →
    let a := (adOf x.bytes).glist
    (x.image.length = glistLen x.bytes → exec i s = .next (dealAttn x s)) ∧
    (x.image.length ≠ glistLen x.bytes → ∀ e, firstUnreached s a (glistLen x.bytes) = some e →
      exec i s = .next (failCmd c bATT (reachCause s e) (firstCore x.bytes) (captureReach e s))) ∧
    (x.image.length ≠ glistLen x.bytes → firstUnreached s a (glistLen x.bytes) = none →
      exec i s = .next (failCmd c bATT 0x0120 (firstCore x.bytes) s))) ∧
  (∀ (c : Nat) (s : State) (x : Started), runningCmd c .attnMerge s = some x → x.begun = false →
    exec (.attnMerge c) s = .next (dealAttn x s)) ∧
  (∀ (c : Nat) (s : State) (x : Started), runningCmd c .attnPaged s = some x → x.begun = false →
    let p := pdOf x.bytes
    let short := ∃ i < p.nslots, lenOf x i < p.nq ∨ (sdOf (p.slot i) s).layers ≤ p.layer
    (short → exec (.attnPaged c) s = .next (failCmd c bATT 0x0134 (firstCore x.bytes) s)) ∧
    (¬ short → exec (.attnPaged c) s = .next (dealAttn x s))) ∧
  (∀ (s : State) (x : Started), startedAt x.id s = some x →
    let t := dealAttn x s
    (startedAt x.id t).map (fun y => (y.begun, y.prog, y.state, y.bytes)) = some (true, 0, x.state, x.bytes) ∧
    (∀ j < coreCount x.bytes, ∃ r, { r with cores := s.cores, started := s.started } = s ∧
      (corex (firstCore x.bytes + j) t).ready = (corex (firstCore x.bytes + j) s).ready ++
        (if attnUnits x j r = [] then []
         else [{ c := x.id, q := x.q, bwd := decide (8 ≤ x.q), units := attnUnits x j r,
                 tilesA := (List.range (attnUnits x j r).length).map (fun i => (i, 0)) }])) ∧
    (∀ n, (n < firstCore x.bytes ∨ firstCore x.bytes + coreCount x.bytes ≤ n) → corex n t = corex n s) ∧
    { t with cores := s.cores, started := s.started } = s) ∧
  (∀ (c : Nat) (s : State) (x : Started) (i : Instr) (op : Op) (run : UnitRun),
    (i, op, run) ∈ [(Instr.attnFwd c, Op.attnFwd, (fun x n un r => fwdUnit (attnEnv x n) un r : UnitRun)),
      (.attnBwd c, .attnBwd, bwdUnit), (.attnMerge c, .attnMerge, mergeUnit), (.attnPaged c, .attnPaged, pagedUnitRun)] →
    runningCmd c op s = some x → x.begun = true → exec i s = .next (attnSettle x ((coresOf x.bytes).foldl (fun t n =>
      finishUnits run x n (match (corex n t).run with | none => 0 | some h => h.tilesA.length) (advance n t)) s))) ∧
  (∀ (s : State) (x y : Started), startedAt x.id s = some y → y.state = .running →
    ((∀ n ∈ coresOf x.bytes, heldShare x.id (corex n s) = none) → startedAt x.id (attnSettle x s) = some { y with state := .done }) ∧
    ((∃ n ∈ coresOf x.bytes, (heldShare x.id (corex n s)).isSome = true) → attnSettle x s = s)) ∧
  (∀ (n : Core) (s : State) (c : Nat) (x : Started), waitsBaton n.val s = some c → startedAt c s = some x → rget R.ATT_WTO s ≠ 0 →
    exec (.attBatonTimeout n) s = .next (attnFail x (rbits (R.ATT_Cnn_STAT n.val) 13 8 s) 0x0121 n.val s)) ∧
  (∀ (n : Core) (s : State), waitsBaton n.val s = none ∨ rget R.ATT_WTO s = 0 → exec (.attBatonTimeout n) s = .next s)

/-! ### Sequence slots and pages (chapter 07) -/

/-- R123, R126, R127: once no page command that started earlier is unfinished, SLOT_OPEN opens a closed slot with LENGTH 0 and the
global positions of its list; SLOT_CLOSE closes its slot, whose counts of pages are then 0; SLOT_TRUNC sets LENGTH. A page command
fails with cause 0x0135 where the page manager was not enabled when it started, and one that meets an entry of the books which cannot
be corrected is job-fatal (R131). -/
def Obligations.SlotsOpenCloseAndTruncate : Prop :=
  (∀ (c : Nat) (s : State) (x : Started),
    (s.started.any (fun y => decide (y.turn < x.turn) && y.state == .running && (opOfBytes y.bytes).any isPageOp)) = false →
    u x.image 0 1 ≠ 0 →
    (runningCmd c .slotOpen s = some x →
      let d := SD.parse (unitAt x.bytes 1)
      d.slot < 64 → (slotx d.slot s).isOpen = false → firstUnreached s d.glist (4 * d.nGlobal) = none →
      poisoned s d.glist (4 * d.nGlobal) = false → ∃ t, exec (.slotOpen c) s = .next t ∧
      slotx d.slot t = { isOpen := true, desc := unitAt x.bytes 1,
                         glist := (List.range d.nGlobal).map (fun i => readNat s (d.glist + 4 * i) 4) } ∧
      rget (R.KVP_Qnn_LEN d.slot) t = 0 ∧ startedAt c t = some { x with state := .done } ∧
      (∀ q, q ≠ d.slot → slotx q t = slotx q s)) ∧
    (runningCmd c .slotOpen s = some x → (slotx (SD.parse (unitAt x.bytes 1)).slot s).isOpen = true →
      exec (.slotOpen c) s = .next (failCmd c bKVP 0x0133 0 s)) ∧
    (runningCmd c .slotOpen s = some x →
      let d := SD.parse (unitAt x.bytes 1)
      (slotx d.slot s).isOpen = false →
      (∀ a, firstUnreached s d.glist (4 * d.nGlobal) = some a → exec (.slotOpen c) s = .next (failCmd c bKVP (reachCause s a) 0 (captureReach a s))) ∧
      (firstUnreached s d.glist (4 * d.nGlobal) = none → poisoned s d.glist (4 * d.nGlobal) = true →
        exec (.slotOpen c) s = .next (failCmd c bKVP 0x0142 0 s))) ∧
    (runningCmd c .slotClose s = some x → u x.bytes 16 1 < 64 →
      (pagesRead .slotClose x.bytes s).any (fun y => booksLost y.1 y.2 s) = false →
      let q := u x.bytes 16 1
      ∃ t, exec (.slotClose c) s = .next t ∧ slotx q t = {} ∧ rget (R.KVP_Qnn_LEN q) t = 0 ∧ rget (R.KVP_Qnn_SPAGES q) t = 0 ∧
      rget (R.KVP_Qnn_LPAGES q) t = 0 ∧ rbit R.KVP_OPEN q t = false ∧ startedAt c t = some { x with state := .done } ∧
      (∀ p, p ≠ q → slotx p t = slotx p s)) ∧
    (runningCmd c .slotTrunc s = some x → u x.bytes 16 1 < 64 →
      (pagesRead .slotTrunc x.bytes s).any (fun y => booksLost y.1 y.2 s) = false →
      ∃ t, exec (.slotTrunc c) s = .next t ∧ rget (R.KVP_Qnn_LEN (u x.bytes 16 1)) t = u x.bytes 20 4 ∧
      startedAt c t = some { x with state := .done } ∧ (∀ q, slotx q t = slotx q s))) ∧
  (∀ (c : Nat) (s : State) (x : Started) (o : Op) (i : Instr),
    (o, i) ∈ [(Op.slotOpen, Instr.slotOpen c), (.slotClose, .slotClose c), (.slotFork, .slotFork c), (.kvWrite, .kvWrite c),
      (.slotTrunc, .slotTrunc c), (.pageHint, .pageHint c)] → runningCmd c o s = some x →
    let before := s.started.any (fun y => decide (y.turn < x.turn) && y.state == .running && (opOfBytes y.bytes).any isPageOp)
    (before = true → exec i s = .next s) ∧
    (before = false → u x.image 0 1 = 0 → exec i s = .next (failCmd c bKVP 0x0135 0 s)) ∧
    (before = false → u x.image 0 1 ≠ 0 → (pagesRead o x.bytes s).any (fun y => booksLost y.1 y.2 s) = true →
      exec i s = .next (booksFatal s))) ∧
  (∀ (c : Nat) (s : State) (x : Started), startedAt c s = some x →
    startedAt c (pageStart c s) = some { x with image := [BitVec.ofNat 8 (nb (rbit R.KVP_CTL 0 s))] })

/-- R128 to R130, R133: SLOT_FORK of slots that do not match, or into one that is not empty, fails with 0x0133; with the frames it needs
it shares SRC's pages and sets DST's LENGTH. KV_WRITE outside the slot fails with 0x0132; otherwise it makes its pages ready and writes
keys and values there, and LENGTH grows to the end of what was written. When the frames cannot be found either fails with 0x0131.
PAGE_HINT acts on every page that it names. -/
def Obligations.SlotForkWriteAndHint : Prop :=
  ∀ (c : Nat) (s : State) (x : Started),
    (s.started.any (fun y => decide (y.turn < x.turn) && y.state == .running && (opOfBytes y.bytes).any isPageOp)) = false →
    u x.image 0 1 ≠ 0 →
    (runningCmd c .slotFork s = some x → (pagesRead .slotFork x.bytes s).any (fun y => booksLost y.1 y.2 s) = false →
      let dst := u x.bytes 16 1
      let src := u x.bytes 17 1
      let a := sdOf dst s
      let b := sdOf src s
      let len := u x.bytes 20 4
      let same := slotLen dst s = 0 ∧ a.hdCode = b.hdCode ∧ a.kvHeads = b.kvHeads ∧ a.layers = b.layers ∧ a.kFmt = b.kFmt ∧
        a.vFmt = b.vFmt ∧ a.maxLen = b.maxLen
      let ps := b.tokenPagesAll 0 len
      let r := reserve (fun v => (ps.filter (fun p => pteValid (pte src p v) && ((pteWhere (pte src p v) == 1 &&
        (fetchingOf src p v).isNone) || frameCount (frameAt (pteFrame (pte src p v)) v) v == 0xFFFF))).length) s
      (¬ same → exec (.slotFork c) s = .next (failCmd c bKVP 0x0133 0 s)) ∧
      (same → r.1 = false → exec (.slotFork c) s = .next (failCmd c bKVP 0x0131 0 r.2)) ∧
      (same → r.1 = true → exec (.slotFork c) s = .next (markDone c (showSlot src (showSlot dst (rset (R.KVP_Qnn_LEN dst) len
        (ps.foldl (forkPage dst src) (ps.foldl (fun t p => fetchNow src p t) r.2)))))))) ∧
    (runningCmd c .kvWrite s = some x → (pagesRead .kvWrite x.bytes s).any (fun y => booksLost y.1 y.2 s) = false →
      let q := u x.bytes 16 1
      let l := u x.bytes 17 1
      let first := u x.bytes 20 4
      let n := u x.bytes 24 4
      let d := sdOf q s
      let k := TD.parse (unitAt x.bytes 1)
      let v := TD.parse (unitAt x.bytes 2)
      let ps := d.tokenPages l first (first + n)
      let r := reserve (fun w => ps.foldl (fun a p => a + framesToWrite q p w) 0) (touchReads (k.ranges ++ v.ranges) s)
      let puts := (List.range n).flatMap (fun i => kvPuts s d l (first + i) i k v)
      let opens := (List.range n).flatMap (fun i => kvOpen d l (first + i) k v)
      let fits := first ≤ slotLen q s ∧ first + n ≤ d.maxLen
      let there := (k.unmapped s <|> v.unmapped s) = none
      let held := (k.ranges ++ v.ranges).any (fun y => bankHolds y.1 y.2 s)
      let sound := k.poisoned s = false ∧ v.poisoned s = false
      (¬ fits → exec (.kvWrite c) s = .next (failCmd c bKVP 0x0132 0 s)) ∧
      (fits → ∀ a, (k.unmapped s <|> v.unmapped s) = some a →
        exec (.kvWrite c) s = .next (failCmd c bKVP (reachCause s a) 0 (captureReach a s))) ∧
      (fits → there → held = true → exec (.kvWrite c) s = .next s) ∧
      (fits → there → held = false → ¬ sound →
        exec (.kvWrite c) s = .next (failCmd c bKVP 0x0142 0 (touchReads (k.ranges ++ v.ranges) s))) ∧
      (fits → there → held = false → sound → r.1 = false → exec (.kvWrite c) s = .next (failCmd c bKVP 0x0131 0 r.2)) ∧
      (fits → there → held = false → sound → r.1 = true → exec (.kvWrite c) s = .next (markDone c (showSlot q (rset (R.KVP_Qnn_LEN q)
        (max (slotLen q s) (first + n))
        (opens.foldl (fun t y => forgetAt t (regionAddr q y.1 t, y.2)) (puts.foldl (putRegion q) (ps.foldl (readyToWrite q) r.2)))))))) ∧
    (runningCmd c .pageHint s = some x → (pagesRead .pageHint x.bytes s).any (fun y => booksLost y.1 y.2 s) = false →
      let q := u x.bytes 16 1
      let d := sdOf q s
      let a := min d.maxLen (u x.bytes 20 4)
      let b := min d.maxLen (u x.bytes 20 4 + u x.bytes 24 4)
      let ps := if u x.bytes 17 1 = 0xFF then d.tokenPagesAll a b else d.tokenPages (u x.bytes 17 1) a b
      exec (.pageHint c) s = .next (markDone c (ps.foldl (hintPage q (u x.bytes 18 1)) s)))

/-- R133, R135: a sweep ages pages while fewer stacked frames than LOW are free, and does nothing else; ageing that is done leaves the
page no longer on its way and counts in KVP_AGED; a prefetch starts a fetch of the next Lagoon page of a core's walk, within the working
depth, and a demand fetch one of a page that the core's next read needs; a fetch that is done leaves the page no longer on its way.
R139, R207: a write of 1 to the ENABLE of the page manager or the stash, not locked and not yet enabled, is refused and counts as
misuse when a pool is out of place; otherwise every frame of the pools is free. A locked register only counts the write. -/
def Obligations.PagesAgeAndPoolsAreEnabled : Prop :=
  ((∀ s : State, (rbit R.KVP_CTL 1 s = true → rbit R.KVP_STAT 0 s = true → s.kvp.freeS.length < rbits R.KVP_WATER 23 0 s →
      exec .ageingSweep s = .next (showPool (sweep false (sweptTo (rbits R.KVP_WATER 55 32 s)) s))) ∧
    (rbit R.KVP_CTL 1 s = false ∨ rbit R.KVP_STAT 0 s = false ∨ rbits R.KVP_WATER 23 0 s ≤ s.kvp.freeS.length →
      exec .ageingSweep s = .next s)) ∧
  (∀ (q : Slot) (p : Nat) (s : State) (m : PageMove), ageingOf q.val p s = some m → ∃ t, exec (.pageAgeDone q p) s = .next t ∧
    t.kvp.ageing = s.kvp.ageing.erase m ∧ rget R.KVP_AGED t = (rget R.KVP_AGED s + 1) % 2 ^ 32 ∧ t.kvp.slots = s.kvp.slots) ∧
  (∀ (q : Slot) (p : Nat) (s : State), ageingOf q.val p s = none → exec (.pageAgeDone q p) s = .next s) ∧
  (∀ (n : Core) (q : Slot) (p : Nat) (s : State),
    let next := (walkPages n.val s).find? (inLagoon s) = some (q.val, p) ∧ inFlight n.val s < workingDepth s
    let needed := (q.val, p) ∈ stepPages n.val s ∧ inLagoon s (q.val, p) = true
    (next → exec (.pagePrefetch n q p) s = .next (beginFetch q.val p n.val false false s)) ∧
    (¬ next → exec (.pagePrefetch n q p) s = .next s) ∧
    (needed → exec (.demandFetch n q p) s = .next (beginFetch q.val p n.val true false s)) ∧
    (¬ needed → exec (.demandFetch n q p) s = .next s) ∧
    (∀ f r, next → booksLost q.val p s = false → pteValid (pte q.val p s) = true → takeS none s = some (f, r) →
      ∃ t, exec (.pagePrefetch n q p) s = .next t ∧
      t.kvp.fetching = s.kvp.fetching ++ [{ slot := q.val, page := p, frame := f, demand := false, core := n.val }]) ∧
    (∀ f r, needed → booksLost q.val p s = false → pteValid (pte q.val p s) = true → takeS none s = some (f, r) →
      ∃ t, exec (.demandFetch n q p) s = .next t ∧ rget R.KVP_DEMAND t = (rget R.KVP_DEMAND s + 1) % 2 ^ 32 ∧
      t.kvp.fetching = s.kvp.fetching ++ [{ slot := q.val, page := p, frame := f, demand := true, core := n.val }])) ∧
  (∀ (q : Slot) (p : Nat) (s : State) (m : PageMove), fetchingOf q.val p s = some m → ∃ t, exec (.pageFetchDone q p) s = .next t ∧
    t.kvp.fetching = s.kvp.fetching.erase m ∧ t.kvp.slots = s.kvp.slots ∧
    (m.demand = false → rget R.KVP_FETCHED t = (rget R.KVP_FETCHED s + 1) % 2 ^ 32) ∧
    (m.demand = true → rget R.KVP_FETCHED t = rget R.KVP_FETCHED s)) ∧
  (∀ (q : Slot) (p : Nat) (s : State), fetchingOf q.val p s = none → exec (.pageFetchDone q p) s = .next s)) ∧
  ((∀ s : State, isLocked bKVP s = false → rbit R.KVP_CTL 0 s = false →
    (poolsBad s = true → ∃ t, exec .kvpEnable s = .next t ∧ Counted R.KVP_MISUSE s t ∧ OnlyRegs [R.KVP_MISUSE] s t) ∧
    (poolsBad s = false → ∃ t, exec .kvpEnable s = .next t ∧ rbit R.KVP_CTL 0 t = true ∧ rbit R.KVP_STAT 0 t = true ∧
      t.kvp = { s.kvp with freeS := List.range (sFrames s), freeL := List.range (lFrames s) } ∧
      { t with regs := s.regs, mem := s.mem, undef := s.undef, poison := s.poison, kvp := s.kvp } = s ∧
      (∀ a, (a < ftBase s ∨ ftBase s + 4 * (sFrames s + lFrames s) ≤ a) → byteAt a t = byteAt a s))) ∧
  (∀ s : State, isLocked bSTS s = false → rbit R.STS_CTL 0 s = false →
    (diePoolsBad 0 s = true ∨ diePoolsBad 1 s = true →
      ∃ t, exec .stsEnable s = .next t ∧ Counted R.STS_MISUSE s t ∧ OnlyRegs [R.STS_MISUSE] s t) ∧
    (diePoolsBad 0 s = false → diePoolsBad 1 s = false → ∃ t, exec .stsEnable s = .next t ∧ rbit R.STS_CTL 0 t = true ∧
      (∀ d < 2, stashd d t = { freeS := List.range (rget (R.STS_Dd_SFRAMES d) s), freeL := List.range (rget (R.STS_Dd_LFRAMES d) s) }) ∧
      { t with regs := s.regs, stashD := s.stashD } = s)) ∧
  (∀ s : State, (isLocked bKVP s = false → rbit R.KVP_CTL 0 s = true → exec .kvpEnable s = .next s) ∧
    (isLocked bSTS s = false → rbit R.STS_CTL 0 s = true → exec .stsEnable s = .next s)) ∧
  (∀ s : State, isLocked bKVP s = true → ∃ t, exec .kvpEnable s = .next t ∧ Counted R.ERR_LOCKED_WRITES s t ∧
    OnlyRegs [R.ERR_LOCKED_WRITES] s t) ∧
  (∀ s : State, isLocked bSTS s = true → ∃ t, exec .stsEnable s = .next t ∧ Counted R.ERR_LOCKED_WRITES s t ∧
    OnlyRegs [R.ERR_LOCKED_WRITES] s t))

/-! ### Stacked memory and the shared caches (chapter 08) -/

/-- R131, R146 to R149, R158, R159: where its tier is patrolled, a patrol read of a clean line changes nothing; a corrected error is
counted, reported in class 0 and written back; an uncorrected one is counted and poisons the line, and in a table of the page manager
it is job-fatal (log 153). A read whose parity errors outlast the repeats allowed raises RETRY_FAIL. A temperature report shows the
temperature and the throttle step of Table 8.5 and, at the limit, is an emergency. The spill tier runs at half rate while any of its packages is above its limit. -/
def Obligations.PatrolAndHeatReports : Prop :=
  (∀ (line : Nat) (l : Landing) (s : State), 128 * line + 128 ≤ stackedEnd → rbits R.MEM_SCRUB 15 0 s ≠ 0 →
    let k := stackOf (128 * line) s
    exec (.patrolScrub line l) s = .next (patrolLine line l s) ∧
    (l.readRepeats = 0 → l.sev = .clean → exec (.patrolScrub line l) s = .next s) ∧
    (l.readRepeats = 0 → l.writeRepeats = 0 → l.sev = .corrected → exec (.patrolScrub line l) s =
      .next (reportError 0 bMEM 0 noQueue k (rcount (R.MEM_Sn_CECC k) s))) ∧
    (l.readRepeats = 0 → l.sev = .uncorrected → bookLine line s = false → ∃ t, exec (.patrolScrub line l) s = .next t ∧
      Counted (R.MEM_Sn_UECC k) s t ∧ rbit R.MEM_EVT 1 t = true ∧ line ∈ t.poison ∧ (∀ a, byteAt a t = byteAt a s)) ∧
    (l.readRepeats = 0 → l.sev = .uncorrected → bookLine line s = true →
      exec (.patrolScrub line l) s = .next (booksFatal (scrubStack line .uncorrected s))) ∧
    (parityLimit s < l.readRepeats → ∃ t, exec (.patrolScrub line l) s = .next t ∧ rbit R.MEM_EVT 2 t = true ∧
      t.mem = s.mem ∧ t.poison = s.poison)) ∧
  (∀ (line : Nat) (l : Landing) (s : State), spillBase ≤ 128 * line → 128 * line + 128 ≤ spillEnd → rbits R.SPL_SCRUB 15 0 s ≠ 0 →
    (l.sev = .clean → exec (.patrolScrub line l) s = .next s) ∧
    (l.sev = .corrected → exec (.patrolScrub line l) s = .next (reportError 0 bSPL 0 noQueue 0 (rcount R.SPL_CECC s))) ∧
    (l.sev = .uncorrected → ∃ t, exec (.patrolScrub line l) s = .next t ∧ Counted R.SPL_UECC s t ∧ rbit R.SPL_EVT 1 t = true ∧
      line ∈ t.poison ∧ (∀ a, byteAt a t = byteAt a s))) ∧
  (∀ (line : Nat) (l : Landing) (s : State), (128 * line + 128 ≤ stackedEnd ∧ rbits R.MEM_SCRUB 15 0 s = 0) ∨
    (spillBase ≤ 128 * line ∧ 128 * line + 128 ≤ spillEnd ∧ rbits R.SPL_SCRUB 15 0 s = 0) → exec (.patrolScrub line l) s = .next s) ∧
  (∀ (k : StackN) (temp : Nat) (s : State), temp < 256 →
    ∃ t, exec (.stackTempReport k temp) s = .next (if rbits R.MEM_THERM 23 16 s ≤ temp then emergency hfStack k.val t else t) ∧ rbits (R.MEM_Sn_STAT k.val) 7 0 t = temp ∧
      rbits (R.MEM_Sn_STAT k.val) 10 8 t = stackStep (rbits (R.MEM_Sn_STAT k.val) 10 8 s) temp s ∧ t.mem = s.mem ∧
      (∀ o, o ∉ [R.MEM_Sn_STAT k.val, R.MEM_Sn_THRCYC k.val, R.MEM_EVT] → rget o t = rget o s)) ∧
  (∀ (p : Pkg) (hot : Bool) (s : State), ∃ t, exec (.spillTempReport p hot) s = .next t ∧
    (rbit R.SPL_STAT 1 t = true ↔ t.boot.hotPkgs ≠ []) ∧ (p.val ∈ t.boot.hotPkgs ↔ hot = true) ∧
    (∀ g, g ≠ p.val → (g ∈ t.boot.hotPkgs ↔ g ∈ s.boot.hotPkgs)) ∧ { t with regs := s.regs, boot := s.boot } = s ∧
    (∀ o, o ∉ [R.SPL_STAT, R.SPL_EVT] → rget o t = rget o s))

/-- R153, Table 8.6: ATOMIC applies the entries of its list in order. One entry stores the operation's result at its aligned target and
the old value in the entry, and changes no other byte. A list that cannot be reached or is poisoned fails the command and no byte changes; one that a
running bank command holds waits for it (R152).
R154, R156, R157: ACC_OPEN opens a region that is not open, with every sum 0, as long as the die's limit allows it; ACC_CLOSE writes
the region's elements out, and the region is then gone or, with KEEP, open again; a region that poisoned contributions reached, one that
is not open, and one that another command closes fail it. -/
def Obligations.AtomicsAndAccumulatorRegions : Prop :=
  (∀ (c : Nat) (s : State) (x : Started), runningCmd c .atomic s = some x →
    let a := atomicList x.bytes
    let n := atomicCount x.bytes
    let tgt := readNat s a 6
    let op := readNat s (a + 6) 1
    let w := atomicWidth op
    (∀ e, firstUnreached s a (32 * n) = some e → exec (.atomic c) s = .next (failCmd c bSHC (reachCause s e) 0 (captureReach e s))) ∧
    (firstUnreached s a (32 * n) = none → bankHolds a (32 * n) s = true → exec (.atomic c) s = .next s) ∧
    (firstUnreached s a (32 * n) = none → bankHolds a (32 * n) s = false → poisoned s a (32 * n) = true → exec (.atomic c) s = .next (failCmd c bSHC 0x0142 0 s)) ∧
    (firstUnreached s a (32 * n) = none → bankHolds a (32 * n) s = false → poisoned s a (32 * n) = false →
      exec (.atomic c) s = .next (atomicGo c a n 0 (touchRead s (a, 32 * n)))) ∧
    (n = 1 → bankHolds a 32 s = false → a + 32 ≤ stackedEnd → tgt + w ≤ stackedEnd → tgt % w = 0 → poisoned s a 32 = false → poisoned s tgt w = false →
      (tgt + w ≤ a ∨ a + 32 ≤ tgt) → ∃ t, exec (.atomic c) s = .next t ∧ startedAt c t = some { x with state := .done } ∧
      readBytes t tgt w = leBytes w (atomicOp op (readNat s tgt w) (readNat s (a + 8) 8) (readNat s (a + 16) 8)) ∧
      readBytes t (a + 24) 8 = leBytes 8 (readNat s tgt w) ∧ t.regs = s.regs ∧
      (∀ y, (y < tgt ∨ tgt + w ≤ y) → (y < a + 24 ∨ a + 32 ≤ y) → byteAt y t = byteAt y s))) ∧
  ((∀ (c : Nat) (s : State) (x : Started), runningCmd c .accOpen s = some x →
    let un := unitAt x.bytes 1
    let r := u un 0 1
    (accRegion r s = none → accPinned (accDie r) s + 8 * u un 4 4 ≤ rbits R.SHC_ACC_LIMIT 6 0 s * 2 ^ 20 →
      ∃ t, exec (.accOpen c) s = .next t ∧
      accRegion r t = some { int := u un 1 1 == 1, e := signed 8 (u un 2 1), elements := u un 4 4 } ∧
      (∀ k, k ≠ r → accRegion k t = accRegion k s) ∧ startedAt c t = some { x with state := .done } ∧
      { t with regs := s.regs, acc := s.acc, started := s.started } = s) ∧
    (accRegion r s ≠ none → exec (.accOpen c) s = .next (failCmd c bSHC 0x0144 0 s)) ∧
    (accRegion r s = none → rbits R.SHC_ACC_LIMIT 6 0 s * 2 ^ 20 < accPinned (accDie r) s + 8 * u un 4 4 →
      exec (.accOpen c) s = .next (failCmd c bSHC 0x0141 0 s))) ∧
  (∀ (c : Nat) (s : State) (x : Started) (g : AccRegion), runningCmd c .accClose s = some x → x.begun = true →
    accRegion (accCloseRegion x.bytes) s = some g →
    let r := accCloseRegion x.bytes
    let un := unitAt x.bytes 1
    let out := accOut g (accCloseRaw x.bytes) (bits (u un 6 1) 4 0)
    let w := writeMem (u un 0 6) (out.flatMap (fun v => leBytes (if accCloseRaw x.bytes then 8 else fmtBits (bits (u un 6 1) 4 0) / 8) v.1)) s
    let t := addFlags c ((out.foldl (fun a v => a ||| v.2) 0) ||| w.flags) w.s
    (g.bad ≠ [] → exec (.accClose c) s =
      .next (failCmd c bSHC 0x0142 0 { s with acc := AL.insert r { g with closing := false } s.acc })) ∧
    (g.bad = [] → w.cause = none → exec (.accClose c) s = .next (markDone c (showAcc (if bitAt (u x.bytes 17 1) 0
      then { t with acc := AL.insert r { g with closing := false } t.acc } else { t with acc := AL.erase r t.acc })))) ∧
    (∀ k, g.bad = [] → w.cause = some k → exec (.accClose c) s =
      .next (failCmd c bSHC k 0 { w.s with acc := AL.insert r { g with closing := false } w.s.acc }))) ∧
  (∀ (c : Nat) (s : State) (x : Started), runningCmd c .accClose s = some x →
    (accRegion (accCloseRegion x.bytes) s = none ∨ x.begun = false) →
    exec (.accClose c) s = .next (failCmd c bSHC 0x0144 0 s)))

/-! ### Bank units (chapter 09) -/

/-- R165, R166, R172, R174, R178 to R181: an array out of range, interleaved or over the page pool fails a bank command with 0x0150 before
0x0151, and nothing is written. Otherwise BANK_OPT and BANK_EW go through their slots in order: a slot that reads no poison works every row
and the next slot follows; a slot that reads poison still works its other rows, and the command fails with 0x0152 and the failing bank; a
second parity error in a slot is chip-fatal. BANK_MV writes its rounded products, or fails with 0x0152
and the bank of the first weight it reads poisoned, and BANK_COPY copies a page for each pair. While the
engines are held, a bank command does no work. -/
def Obligations.BankCommandsRunBySlots : Prop :=
  (∀ (c : Nat) (ps : List ParityErr) (s : State) (x : Started), runningCmd c .bankOpt s = some x → enginesHeld s = false →
    let o := OptB.parse x.bytes
    (∀ e, arraysFault o.arrays o.zs s = some e → exec (.bankOpt c ps) s = .next (failCmd c bBNK e 0 s)) ∧
    (arraysFault o.arrays o.zs s = none → exec (.bankOpt c ps) s = .next
      (BankJob.go ps { x := x, zs := o.zs, rows := o.w.rows, reads := o.reads, work := o.row } (o.w.slots o.zs) 0 s))) ∧
  (∀ (c : Nat) (ps : List ParityErr) (s : State) (x : Started), runningCmd c .bankEw s = some x → enginesHeld s = false →
    let e := EW.parse x.bytes
    (∀ f, arraysFault (e.uses.map e.arr) e.zs s = some f → exec (.bankEw c ps) s = .next (failCmd c bBNK f 0 s)) ∧
    (arraysFault (e.uses.map e.arr) e.zs s = none → exec (.bankEw c ps) s = .next
      (BankJob.go ps { x := x, zs := e.zs, rows := (e.arr 2).rows, reads := e.reads, work := e.row } ((e.arr 2).slots e.zs) 0 s))) ∧
  (∀ (i : Instr) (s : State), (∃ (c : Nat) (ps : List ParityErr), i = .bankOpt c ps ∨ i = .bankEw c ps ∨ i = .bankMv c ps ∨ i = .bankCopy c ps) →
    enginesHeld s = true → exec i s = .next s) ∧
  (∀ (b : BankJob) (ps : List ParityErr) (n k : Nat) (s : State),
    let js := b.rowsOf k
    b.go ps 0 k s = bankDone b.x.id b.zs s ∧
    (parityOf ps b.zs k = [] → (∀ j ∈ js, rowPoison s (b.reads j) = none) →
      b.go ps (n + 1) k s = b.go ps n (k + 1) (js.foldl b.doRow s)) ∧
    (parityOf ps b.zs k = [] → (∃ j ∈ js, rowPoison s (b.reads j) ≠ none) →
      ∃ j ∈ js, rowPoison s (b.reads j) ≠ none ∧ b.go ps (n + 1) k s =
        bankFailed b.x.id 0x0152 (bankOfRow b.zs j / 1024) b.zs (capturePoison (bankOfRow b.zs j) k b.x
          ((js.filter (fun i => (rowPoison s (b.reads i)).isNone)).foldl b.doRow s))) ∧
    (∀ p r rest, parityOf ps b.zs k = p :: r :: rest →
      b.go ps (n + 1) k s = chipFatal bBNK 3 b.x.q r.stack.val (repeatSlot p b.x.q s))) ∧
  (∀ (c : Nat) (s : State) (x : Started), runningCmd c .bankMv s = some x → enginesHeld s = false →
    let m := MV.parse x.bytes
    (∀ e, m.w.fault m.zs s = some e → ∀ ps, exec (.bankMv c ps) s = .next (failCmd c bBNK e 0 s)) ∧
    (m.w.fault m.zs s = none → ∀ a ps, (m.x.unmapped s <|> m.y.unmapped s) = some a →
      exec (.bankMv c ps) s = .next (bankFailed c (reachCause s a) 0 m.zs (captureReach a s))) ∧
    (m.w.fault m.zs s = none → (m.x.unmapped s <|> m.y.unmapped s) = none →
      (m.x.poisoned s = true → ∀ ps, exec (.bankMv c ps) s =
        .next (bankFailed c 0x0142 0 m.zs (forgetAll m.y.used (touchReads m.x.used s)))) ∧
      (m.x.poisoned s = false → m.poisons s = [] → ∀ ps, (∀ k, parityOf ps m.zs k = []) →
        exec (.bankMv c ps) s = .next (mvWrite c m (touchReads m.x.used s))) ∧
      (m.x.poisoned s = false → ∀ f, firstMv (m.poisons s) = some f → ∀ ps, (∀ k, parityOf ps m.zs k = []) →
        exec (.bankMv c ps) s = .next (bankFailed c 0x0152 (f.2.2.2 / 1024) m.zs
          (capturePoison f.2.2.2 f.2.2.1 x (forgetAll m.y.used s)))))) ∧
  (∀ (c : Nat) (s : State) (x : Started), runningCmd c .bankCopy s = some x → enginesHeld s = false →
    let a := copyList x.bytes
    let n := copyCount x.bytes
    let zs := copyStacks s x.bytes
    (∀ e, firstUnreached s a (16 * n) = some e → ∀ ps, exec (.bankCopy c ps) s = .next (bankFailed c (reachCause s e) 0 zs (captureReach e s))) ∧
    (firstUnreached s a (16 * n) = none → poisoned s a (16 * n) = true → ∀ ps, exec (.bankCopy c ps) s = .next (bankFailed c 0x0142 0 zs s)) ∧
    (firstUnreached s a (16 * n) = none → poisoned s a (16 * n) = false →
      ((∃ i < n, pageFault s (copyPair s x.bytes i).1 = some 0x0150 ∨ pageFault s (copyPair s x.bytes i).2 = some 0x0150) →
        ∀ ps, exec (.bankCopy c ps) s = .next (failCmd c bBNK 0x0150 0 s)) ∧
      ((∀ i < n, pageFault s (copyPair s x.bytes i).1 ≠ some 0x0150 ∧ pageFault s (copyPair s x.bytes i).2 ≠ some 0x0150) →
        (∃ i < n, pageFault s (copyPair s x.bytes i).1 = some 0x0151 ∨ pageFault s (copyPair s x.bytes i).2 = some 0x0151) →
        ∀ ps, exec (.bankCopy c ps) s = .next (failCmd c bBNK 0x0151 0 s))) ∧
    (firstUnreached s a (16 * n) = none → poisoned s a (16 * n) = false →
      (∀ i < n, pageFault s (copyPair s x.bytes i).1 = none ∧ pageFault s (copyPair s x.bytes i).2 = none) →
      ∀ ps, exec (.bankCopy c ps) s = .next (copyGo x zs ps n 0 s)) ∧
    (∀ i m : Nat, badPieces s (copyPair s x.bytes i).1 = [] → copyGo x zs [] (m + 1) i s = copyGo x zs [] m (i + 1)
      (rcount R.BNK_COPIES (poke (copyPair s x.bytes i).2 (readBytes s (copyPair s x.bytes i).1 65536) s))))

/-- R170, R182: a write of 1 to HOLD holds the units once the running bank command has completed, and at once during a wake; a write of
0 cancels a pending hold or wakes them, and before BIST_PASS is ignored and counts as misuse. The built-in test sets BIST_PASS once the
stacks are trained, every die is cool (R363) and every unit passes, and is chip-fatal where a unit fails. -/
def Obligations.BankUnitsAreHeldAndWoken : Prop :=
  (∀ s : State, rbit R.BNK_CTL 0 s = true → exec .bankHold s = .next s) ∧
  (∀ s : State, rbit R.BNK_CTL 0 s = false →
    (s.bank.waking = false → ∃ t, exec .bankHold s = .next t ∧ rbit R.BNK_CTL 0 t = true ∧ t.bank = { s.bank with holdPending := true } ∧
      { t with regs := s.regs, bank := s.bank } = s ∧ (∀ o, o ≠ R.BNK_CTL → rget o t = rget o s)) ∧
    (s.bank.waking = true → ∃ t, exec .bankHold s = .next t ∧ rbit R.BNK_CTL 0 t = true ∧ rbit R.BNK_STAT 0 t = true ∧
      rbit R.BNK_EVT 2 t = true ∧ t.bank = {} ∧ { t with regs := s.regs, bank := s.bank } = s)) ∧
  (∀ s : State, s.bank.holdPending = true → bankRunning s = false → ∃ t, exec .bankHoldDone s = .next t ∧ rbit R.BNK_STAT 0 t = true ∧
    rbit R.BNK_EVT 2 t = true ∧ t.bank = {} ∧ { t with regs := s.regs, bank := s.bank } = s ∧
    (∀ o, o ∉ [R.BNK_STAT, R.BNK_EVT] → rget o t = rget o s)) ∧
  (∀ s : State, (s.bank.holdPending = false ∨ bankRunning s = true) → exec .bankHoldDone s = .next s) ∧
  (∀ s : State, rbit R.BNK_STAT 2 s = false → ∃ t, exec .bankWake s = .next t ∧ Counted R.BNK_MISUSE s t ∧ OnlyRegs [R.BNK_MISUSE] s t) ∧
  (∀ s : State, rbit R.BNK_STAT 2 s = true → rbit R.BNK_CTL 0 s = false → exec .bankWake s = .next s) ∧
  (∀ s : State, rbit R.BNK_STAT 2 s = true → rbit R.BNK_CTL 0 s = true → ∃ t, exec .bankWake s = .next t ∧ rbit R.BNK_CTL 0 t = false ∧
    t.bank = (if s.bank.holdPending then { s.bank with holdPending := false } else { s.bank with waking := true }) ∧
    { t with regs := s.regs, bank := s.bank } = s ∧ (∀ o, o ≠ R.BNK_CTL → rget o t = rget o s)) ∧
  (∀ s : State, s.bank.waking = true → ∃ t, exec .bankWakeDone s = .next t ∧ rbit R.BNK_STAT 0 t = false ∧ rbit R.BNK_EVT 2 t = true ∧
    t.bank = { s.bank with waking := false } ∧ { t with regs := s.regs, bank := s.bank } = s ∧
    (∀ o, o ∉ [R.BNK_STAT, R.BNK_EVT] → rget o t = rget o s)) ∧
  (∀ s : State, s.bank.waking = false → exec .bankWakeDone s = .next s) ∧
  (∀ (pass : Bool) (s : State), (rbit R.BNK_CTL 0 s = false ∨ rbit R.HIF_BOOT 8 s = false ∨ diesCool s = false) →
    exec (.bankBist pass) s = .next s) ∧
  (∀ s : State, rbit R.BNK_CTL 0 s = true → rbit R.HIF_BOOT 8 s = true → diesCool s = true →
    (∃ t, exec (.bankBist true) s = .next t ∧ rbit R.BNK_STAT 2 t = true ∧ rbit R.HIF_BOOT 10 t = true ∧
      OnlyRegs [R.BNK_STAT, R.HIF_BOOT] s t) ∧
    exec (.bankBist false) s = .next (chipFatal bBNK 4 noQueue 0 s))

/-! ### The stream engine and the DMA channels (chapter 10) -/

/-- R192, R193, R196, R198: with no tag free, or in Holdfast, a half grants nothing; otherwise the eligible requester with the earliest
deadline is granted one transfer, which takes a tag, moves at most 4,096 bytes, and does not cross a 4 KiB boundary of its source; a
source that cannot be reached fails its command. A transfer that lands gives its tag back, and its bytes are the piece's snapshot; what a
bank command's ranges hold (R152) and what a READ_REQ brings land otherwise; an error response is repeated up to DMA_RETRY.COUNT times,
and then fails the command. R195: a core that stands in the same
cycle at two tests in a row has it broken; a cycle found for the first time is only noted. -/
def Obligations.TransfersTakeAndReturnTags : Prop :=
  (∀ (h : Die) (s : State), 2048 ≤ (halfx h.val s).transfers.length ∨ inHoldfast s = true → exec (.streamTransferGrant h) s = .next s) ∧
  (∀ (h : Die) (s : State), (halfx h.val s).transfers.length < 2048 → inHoldfast s = false →
    let best := bestAsker ((busyStreams h.val s).filterMap (fun i => streamAsks h.val i s) ++
      (List.range 16).filterMap (fun n => channelAsks h.val (16 * h.val + n) s))
    (best = none → exec (.streamTransferGrant h) s = .next s) ∧
    (∀ a, best = some a → exec (.streamTransferGrant h) s =
      .next (bumpFree (if a.who < 512 then grantStream h.val a.who s else grantChannel h.val (a.who - 512) s)))) ∧
  (∀ (h i : Nat) (s : State), (nextPiece (streamx i s) = none → grantStream h i s = s) ∧
    (∀ p, nextPiece (streamx i s) = some p → (slotFor i p s = none → grantStream h i s = s) ∧
      (∀ k, slotFor i p s = some k → grantStream h i s = grantPiece h i p k s))) ∧
  (∀ (h i : Nat) (s : State) (p : Piece) (k : Nat × Nat), h < 2 → p.via = none →
    let a := (transferAt p.ranges p.granted).1
    let l := (transferAt p.ranges p.granted).2
    l ≤ 4096 ∧ a % 4096 + l ≤ 4096 ∧
    (∀ e, firstUnreached s a l = some e → grantPiece h i p k s = fetchFails p.c i (reachCause s e) (captureReach e s)) ∧
    (firstUnreached s a l = none → (∀ d o, reach s a ≠ .peer d o) →
      (halfx h (grantPiece h i p k s)).transfers = (halfx h s).transfers ++
        [{ id := (halfx h s).nextId, owner := i, addr := a, len := l, c := p.c, td := p.td, row := p.row, col := p.col,
           off := p.granted, left := rbits R.DMA_RETRY 3 0 s }] ∧ (grantPiece h i p k s).mem = s.mem)) ∧
  (∀ (h : Nat) (s : State), h < 2 → let n := (halfx h s).transfers.length
    let d := ((halfx h s).transfers.filter (fun t => decide (512 ≤ t.owner))).length
    n ≤ 2048 → rbits (if h = 0 then R.STR_D0_TAGS else R.STR_D1_TAGS) 11 0 (showTags h s) + d + (n - d) = 2048 ∧
      rbits (if h = 0 then R.STR_D0_TAGS else R.STR_D1_TAGS) 27 16 (showTags h s) = d) ∧
  (∀ (h : Die) (t : Nat) (l : Landing) (s : State),
    ((halfx h.val s).transfers.find? (fun y => y.id == t) = none → exec (.transferLanded h t l) s = .next s) ∧
    (∀ y, (halfx h.val s).transfers.find? (fun y => y.id == t) = some y →
      (inHoldfast s = true ∨ transferHeld y s = true → exec (.transferLanded h t l) s = .next s) ∧
      (inHoldfast s = false → transferHeld y s = false →
        (l.error = true → y.owner < 512 → exec (.transferLanded h t l) s = .next (fetchError h.val y s)) ∧
        (l.error = true → 512 ≤ y.owner → exec (.transferLanded h t l) s = .next s) ∧
        (l.error = false → y.req ≠ none → exec (.transferLanded h t l) s = .next s) ∧
        (l.error = false → y.req = none → exec (.transferLanded h t l) s = .next (dataLanded h.val y l s))))) ∧
  (∀ (h : Nat) (y : Transfer) (l : Landing) (s : State), l.sev = .clean → l.readRepeats = 0 →
    let t := touchRead s (y.addr, y.len)
    (y.owner < 512 → dataLanded h y l s =
      landStream h y (readBytes t y.addr y.len) (badParts t y.addr y.len y.off) t) ∧
    (512 ≤ y.owner → y.addr < regBase → dataLanded h y l s = copyLanded h (y.owner - 512) y l (readBytes t y.addr y.len)
      (fun i => poisoned t (y.addr + i) 1) t)) ∧
  (∀ (h : Nat) (y : Transfer) (b : Bytes) (bad : List (Nat × Nat)) (s : State), h < 2 → y.owner < 512 →
    ∃ r, landStream h y b bad s = advance (y.owner / 8) (settleFrames r) ∧
    (halfx h r).transfers = (halfx h s).transfers.filter (fun z => z.id != y.id) ∧
    (streamx y.owner r).pieces = (streamx y.owner s).pieces.map (landPiece y b bad) ∧ r.mem = s.mem) ∧
  (∀ (h : Nat) (y : Transfer) (s : State), h < 2 →
    (y.left = 0 → fetchError h y s = fetchLost h y 0x0161 s) ∧
    (y.left ≠ 0 → y.req = none → (halfx h (fetchError h y s)).transfers = (halfx h s).transfers.map (fun z =>
      if z.id = y.id then { z with left := z.left - 1, req := none } else z) ∧ { fetchError h y s with halves := s.halves } = s)) ∧
  (∀ (h : Die) (s : State),
    let now := ((List.range 32).map (fun n => 32 * h.val + n)).filterMap (fun n => (cycleAt h.val n s).map (fun i => (n, i)))
    let twice := now.filter (fun c => (halfx h.val s).cycles.contains c)
    (twice = [] → ∃ t, exec (.deadlockTest h) s = .next t ∧ (halfx h.val t).cycles = now ∧
      (halfx h.val t).transfers = (halfx h.val s).transfers ∧ { t with halves := s.halves } = s) ∧
    (∀ c, twice = [c] → ∃ u, exec (.deadlockTest h) s = .next (breakCycle h.val u c) ∧ (halfx h.val u).cycles = now.filter (· != c) ∧
      { u with halves := s.halves } = s))

/-- R199 to R204: DMA loads its image into the lower-numbered idle channel of its queue's two, and waits while both work; a direct start
runs the registers' image, and counts as misuse while the queue is not DISABLED or the channel works; COUNT 0 halts it with ERR 5. ABORT
of a channel with nothing in flight ends it ABORTED with RESIDUE = COUNT - bytes issued; of one that does not run it counts as misuse. An
error response is repeated up to DMA_RETRY.COUNT times, from a peer under a new READ_REQ, then the channel halts. A channel that has
moved every byte is DONE; until then, and with BARRIER until its writes have arrived (log 69), it is not. -/
def Obligations.ChannelsStartEndAndHalt : Prop :=
  (∀ (c : Nat) (s : State) (x : Started), runningCmd c .dma s = some x → x.begun = false →
    let n := 2 * (x.q - 16)
    let un := unitAt x.bytes 1
    (chanWorks n s = true → chanWorks (n + 1) s = true → exec (.dma c) s = .next s) ∧
    (∀ k, (k = n ∧ chanWorks n s = false) ∨ (k = n + 1 ∧ chanWorks n s = true ∧ chanWorks (n + 1) s = false) →
      ∃ t, exec (.dma c) s = .next t ∧ chanx k t =
        { src := u un 0 6, dst := u un 8 6, count := u un 16 4, barrier := bitAt (u un 20 4) 2, irq := bitAt (u un 20 4) 3, cmd := some c } ∧
      rbits (R.DMA_Dnn_STAT k) 2 0 t = 1 ∧ rbit (R.DMA_Dnn_STAT k) 8 t = true ∧ rget (R.DMA_Dnn_SRC k) t = u un 0 6 ∧
      (∀ j, j ≠ k → chanx j t = chanx j s) ∧ t.mem = s.mem)) ∧
  (∀ (c : Nat) (s : State), (∀ x, runningCmd c .dma s = some x → x.begun = true) → exec (.dma c) s = .next s) ∧
  (∀ (n : Chan) (s : State),
    (qState (16 + n.val / 2) s = 0 → chanWorks n.val s = false → rget (R.DMA_Dnn_COUNT n.val) s ≠ 0 →
      ∃ t, exec (.dmaStart n) s = .next t ∧ rbits (R.DMA_Dnn_STAT n.val) 2 0 t = 1 ∧ rbit (R.DMA_Dnn_STAT n.val) 8 t = false ∧
      (chanx n.val t).count = rget (R.DMA_Dnn_COUNT n.val) s ∧ (chanx n.val t).src = rget (R.DMA_Dnn_SRC n.val) s ∧
      (chanx n.val t).dst = rget (R.DMA_Dnn_DST n.val) s ∧ { t with regs := s.regs, chans := s.chans } = s) ∧
    (qState (16 + n.val / 2) s = 0 → chanWorks n.val s = false → rget (R.DMA_Dnn_COUNT n.val) s = 0 →
      ∃ t, exec (.dmaStart n) s = .next t ∧ rbits (R.DMA_Dnn_STAT n.val) 2 0 t = 3 ∧ rbits (R.DMA_Dnn_STAT n.val) 7 4 t = 5) ∧
    (qState (16 + n.val / 2) s ≠ 0 ∨ chanWorks n.val s = true → ∃ t, exec (.dmaStart n) s = .next t ∧ Counted R.DMA_MISUSE s t ∧
      OnlyRegs [R.DMA_MISUSE] s t)) ∧
  (∀ (n : Chan) (s : State),
    (rbits (R.DMA_Dnn_STAT n.val) 2 0 s = 1 → chanBusy n.val s = true → ∃ t, exec (.dmaAbort n) s = .next t ∧
      rbits (R.DMA_Dnn_STAT n.val) 2 0 t = 5 ∧ OnlyRegs [R.DMA_Dnn_STAT n.val] s t) ∧
    (rbits (R.DMA_Dnn_STAT n.val) 2 0 s = 1 → chanBusy n.val s = false → (chanx n.val s).halting = none →
      let r := chanEnd n.val 4 0 (emptyFunnel n.val (rsetBits (R.DMA_Dnn_STAT n.val) 2 0 5 s))
      ((chanx n.val s).funnel = [] → rbits (R.DMA_Dnn_STAT n.val) 2 0 r = 4 ∧
        rget (R.DMA_Dnn_RESIDUE n.val) r = (chanx n.val s).count - (chanx n.val s).issued ∧ r.mem = s.mem) ∧
      (∀ c, (chanx n.val s).cmd = some c →
        exec (.dmaAbort n) s = .next (failCmd c bDMA 0x0162 n.val r)) ∧
      ((chanx n.val s).cmd = none → exec (.dmaAbort n) s = .next r)) ∧
    (rbits (R.DMA_Dnn_STAT n.val) 2 0 s ≠ 1 → ∃ t, exec (.dmaAbort n) s = .next t ∧ Counted R.DMA_MISUSE s t ∧ OnlyRegs [R.DMA_MISUSE] s t)) ∧
  (∀ (n : Chan) (k : Nat) (err : TransferErr) (s : State),
    ((halfx (n.val / 16) s).transfers.find? (fun y => y.id == k && y.owner == 512 + n.val) = none →
      exec (.dmaTransferError n k err) s = .next s) ∧
    (∀ y, (halfx (n.val / 16) s).transfers.find? (fun y => y.id == k && y.owner == 512 + n.val) = some y →
      let again := repeatTransfer (n.val / 16) y ((chanx n.val s).dst + y.off) (chanx n.val s).cmd s
      let gone (e : TransferErr) := chanHalt n.val (errOf e).1 (errOf e).2 y.addr
        (releaseTag (n.val / 16) k { s with reads := s.reads.filter (fun r => y.req != some r.tag) })
      (err ≠ .linkContained → y.left ≠ 0 → (∀ r, again = some r → exec (.dmaTransferError n k err) s =
        .next (rcountSat (R.DMA_Dnn_RETRIES n.val) r)) ∧
        (again = none → exec (.dmaTransferError n k err) s = .next (gone .linkContained))) ∧
      (err ≠ .linkContained → y.left ≠ 0 → y.req = none → ∃ t, exec (.dmaTransferError n k err) s = .next t ∧
        Counted (R.DMA_Dnn_RETRIES n.val) s t ∧ (halfx (n.val / 16) t).transfers = (halfx (n.val / 16) s).transfers.map (fun z =>
          if z.id = k then { z with left := z.left - 1, req := none } else z) ∧ { t with regs := s.regs, halves := s.halves } = s) ∧
      (err = .linkContained ∨ y.left = 0 → exec (.dmaTransferError n k err) s = .next (gone err)))) ∧
  (∀ (n : Chan) (s : State), (rbits (R.DMA_Dnn_STAT n.val) 2 0 s ≠ 1 ∨ (chanx n.val s).halting ≠ none ∨
    (chanx n.val s).moved ≠ (chanx n.val s).count ∨ (chanx n.val s).count = 0 ∨ writesArrived (chanx n.val s) s = false) →
    exec (.dmaComplete n) s = .next s) ∧
  (∀ (n : Chan) (s : State), rbits (R.DMA_Dnn_STAT n.val) 2 0 s = 1 → (chanx n.val s).halting = none →
    (chanx n.val s).moved = (chanx n.val s).count → (chanx n.val s).count ≠ 0 → writesArrived (chanx n.val s) s = true →
    (∃ t, exec (.dmaComplete n) s = .next t ∧ rbits (R.DMA_Dnn_STAT n.val) 2 0 t = 2 ∧ rbit (R.DMA_Dnn_CTL n.val) 0 t = false ∧
      t.mem = s.mem) ∧
    (∀ c, (chanx n.val s).cmd = some c → exec (.dmaComplete n) s = .next (markDone c (chanEnd n.val 2 0 s))))

/-- R205: a direct start that ends in DONE, HALTED or ABORTED sets its bit of DMA_EVT, and with CTL.IRQ raises vector 136; a command's
channel that ends leaves DMA_EVT alone. -/
def Obligations.DirectStartsReportTheirEnd : Prop :=
  (∀ (n : Chan) (s : State), rbits (R.DMA_Dnn_STAT n.val) 2 0 s = 1 → (chanx n.val s).halting = none →
    (chanx n.val s).moved = (chanx n.val s).count → (chanx n.val s).count ≠ 0 → writesArrived (chanx n.val s) s = true →
    (rbit (R.DMA_Dnn_STAT n.val) 8 s = false → (chanx n.val s).cmd = none → ∃ t, exec (.dmaComplete n) s = .next t ∧
      rbits (R.DMA_Dnn_STAT n.val) 2 0 t = 2 ∧ rbit R.DMA_EVT n.val t = true ∧
      ((chanx n.val s).irq = true → ∃ r, t = raiseVector 136 r ∧ rbits (R.DMA_Dnn_STAT n.val) 2 0 r = 2)) ∧
    (∀ c, rbit (R.DMA_Dnn_STAT n.val) 8 s = true → (chanx n.val s).cmd = some c →
      ∃ t, exec (.dmaComplete n) s = .next t ∧ rget R.DMA_EVT t = rget R.DMA_EVT s)) ∧
  (∀ (n : Chan) (s : State), rbits (R.DMA_Dnn_STAT n.val) 2 0 s = 1 → chanBusy n.val s = false → (chanx n.val s).halting = none →
    let r := emptyFunnel n.val (rsetBits (R.DMA_Dnn_STAT n.val) 2 0 5 s)
    (chanx n.val s).cmd = none → rbit (R.DMA_Dnn_STAT n.val) 8 r = false →
    ∃ t, exec (.dmaAbort n) s = .next t ∧ rbits (R.DMA_Dnn_STAT n.val) 2 0 t = 4 ∧ rbit R.DMA_EVT n.val t = true ∧
    ∃ r, t = raiseVector 136 r) ∧
  (∀ (n st err : Nat) (s : State), n < 32 → rbit (R.DMA_Dnn_STAT n) 8 s = false → rbit R.DMA_EVT n (chanEnd n st err s) = true ∧
    ((chanx n s).irq = true → ∃ r, chanEnd n st err s = raiseVector 136 r)) ∧
  (∀ (n st err : Nat) (s : State), n < 32 → rbit (R.DMA_Dnn_STAT n) 8 s = true → rget R.DMA_EVT (chanEnd n st err s) = rget R.DMA_EVT s) ∧
  (∀ (n err cause addr : Nat) (s : State), n < 32 → chanBusy n s = false → (chanx n s).cmd = none →
    let r := emptyFunnel n (setChanx n { chanx n s with halting := some (err, cause, addr) } s)
    rbit (R.DMA_Dnn_STAT n) 8 r = false → rbits (R.DMA_Dnn_STAT n) 2 0 (chanHalt n err cause addr s) = 3 ∧
    rbit R.DMA_EVT n (chanHalt n err cause addr s) = true ∧ ∃ r, chanHalt n err cause addr s = raiseVector 136 r) ∧
  (∀ (n : Chan) (s : State), qState (16 + n.val / 2) s = 0 → chanWorks n.val s = false → rget (R.DMA_Dnn_COUNT n.val) s = 0 →
    ∃ t, exec (.dmaStart n) s = .next t ∧ rbits (R.DMA_Dnn_STAT n.val) 2 0 t = 3 ∧ rbit R.DMA_EVT n.val t = true ∧
    (rbit (R.DMA_Dnn_CTL n.val) 3 s = true → ∃ r, t = raiseVector 136 r))

/-! ### The activation stash and the compressor (chapters 11 and 12) -/

/-- R206, R207, R209 to R215: a PUT is refused with its cause while the stash is off, from a backward queue, when it could never fit, and into
an entry that is not free; with enough free frames its entry is PUTTING and holds them, and else the fill order runs. A PUT that has its
frames reads its source, waits for a bank command that holds it (R152), and fails on poison; else it writes them. A GET of an entry that does not match fails, of one to recompute it completes at once or fails without a sequence, and
of a stored one restores it; a DROP frees its entry. A waiting PUT runs its loop again; background offload runs below LOW; an offload
that is done frees its stacked frames. -/
def Obligations.StashKeepsAndReturnsTensors : Prop :=
  (∀ (c : Nat) (s : State) (x : Started), runningCmd c .stashPut s = some x →
    let e := stashEntryOf x.bytes
    let d := stashDieOf e
    let n := framesOf (putEntry x.bytes).td
    let src := TD.parse (unitAt x.bytes 1)
    let mayPut := x.begun = false ∧ rbit R.STS_CTL 0 s = true ∧ x.q < 8 ∧ n ≤ rget (R.STS_Dd_SFRAMES d) s ∧ (stashx e s).state = .free
    (x.begun = false → rbit R.STS_CTL 0 s = false → exec (.stashPut c) s = .next (failCmd c bSTS 0x0176 0 s)) ∧
    (x.begun = false → rbit R.STS_CTL 0 s = true → 8 ≤ x.q → exec (.stashPut c) s = .next (failCmd c bSTS 0x0170 0 s)) ∧
    (x.begun = false → rbit R.STS_CTL 0 s = true → x.q < 8 → rget (R.STS_Dd_SFRAMES d) s < n →
      exec (.stashPut c) s = .next (failCmd c bSTS 0x0171 0 s)) ∧
    (x.begun = false → rbit R.STS_CTL 0 s = true → x.q < 8 → n ≤ rget (R.STS_Dd_SFRAMES d) s → (stashx e s).state ≠ .free →
      exec (.stashPut c) s = .next (failCmd c bSTS 0x0172 0 s)) ∧
    (mayPut → qState x.q s = qStopping → (qx x.q s).yielded = true → exec (.stashPut c) s = .next (putWaits c d s)) ∧
    (mayPut → (qState x.q s ≠ qStopping ∨ (qx x.q s).yielded = false) → n ≤ (stashd d s).freeS.length → ∃ t, exec (.stashPut c) s = .next t ∧ (stashx e t).state = .putting ∧
      (stashx e t).sframes.length = n ∧ ((stashd d t).freeS ++ (stashx e t).sframes).Perm (stashd d s).freeS ∧
      (∀ i, i ≠ e → stashx i t = stashx i s) ∧ startedAt c t = some { x with begun := true, prog := 1 } ∧ t.mem = s.mem) ∧
    (mayPut → (stashd d s).freeS.length < n → exec (.stashPut c) s = .next (fillLoop x e d n 2 s)) ∧
    (x.begun = true → exec (.stashPut c) s = .next (putFinish x e s)) ∧
    ((∀ a, src.unmapped s = some a → putFinish x e s = putFails x.id e (reachCause s a) (captureReach a s)) ∧
      (src.unmapped s = none → src.ranges.any (fun r => bankHolds r.1 r.2 s) = true → putFinish x e s = s) ∧
      (src.unmapped s = none → src.ranges.any (fun r => bankHolds r.1 r.2 s) = false →
        (src.poisoned s = true → putFinish x e s = putFails x.id e 0x0142 (rsetBit R.STS_EVT 3 s)) ∧
        (src.poisoned s = false → ∃ fl r, putFinish x e s = markDone c (addFlags c fl r) ∧
          stashx e r = { stashx e s with state := .resident, age := (stashd d s).next })))) ∧
  (∀ (c : Nat) (s : State) (x : Started) (i : Instr) (op : Op), (i, op) ∈ [(Instr.stashGet c, Op.stashGet), (.stashDrop c, .stashDrop)] →
    runningCmd c op s = some x →
    let e := stashEntryOf x.bytes
    (stashTurn c e s = false ∨ (op = .stashGet ∧ x.begun = true) → exec i s = .next s) ∧
    (x.begun = false → stashTurn c e s = true → (rbit R.STS_CTL 0 s = false → exec i s = .next (failCmd c bSTS 0x0176 0 s)) ∧
      (rbit R.STS_CTL 0 s = true → (stashx e s).state = .putting → exec i s = .next s))) ∧
  (∀ (c : Nat) (s : State) (x : Started), runningCmd c .stashGet s = some x → x.begun = false →
    stashTurn c (stashEntryOf x.bytes) s = true → rbit R.STS_CTL 0 s = true →
    let e := stashEntryOf x.bytes
    let y := stashx e s
    let t := TD.parse (unitAt x.bytes 1)
    let same := t.fmt = y.fmt ∧ t.axis ≠ y.axis0 ∧ t.rows = y.rows ∧ t.cols = y.cols
    (y.state = .free → exec (.stashGet c) s = .next (failCmd c bSTS 0x0173 0 s)) ∧
    (y.state ≠ .free → y.state ≠ .putting → ¬ same → exec (.stashGet c) s = .next (failCmd c bSTS 0x0175 0 s)) ∧
    (y.state = .recompute → same → recompUnits x.bytes = 0 → exec (.stashGet c) s = .next (failCmd c bSTS 0x0174 0 s)) ∧
    (y.state = .recompute → same → recompUnits x.bytes ≠ 0 → ∃ r, exec (.stashGet c) s = .next r ∧
      startedAt c r = some { x with flags := x.flags ||| 128, state := .done } ∧ r.mem = s.mem ∧
      (stashx e r).state = if getKeep x.bytes then .recompute else .free) ∧
    (y.state = .resident ∨ y.state = .offloading ∨ y.state = .offloaded → same → exec (.stashGet c) s = .next (getStored x e s))) ∧
  (∀ (c : Nat) (s : State) (x : Started), runningCmd c .stashDrop s = some x → stashTurn c (stashEntryOf x.bytes) s = true →
    rbit R.STS_CTL 0 s = true →
    let e := stashEntryOf x.bytes
    ((stashx e s).state = .free → exec (.stashDrop c) s = .next (failCmd c bSTS 0x0173 0 s)) ∧
    ((stashx e s).state ≠ .free → (stashx e s).state ≠ .putting → ∃ t, exec (.stashDrop c) s = .next t ∧ stashx e t = {} ∧
      (stashd (stashDieOf e) t).freeS = (stashd (stashDieOf e) s).freeS ++ (stashx e s).sframes ∧
      (stashd (stashDieOf e) t).freeL = (stashd (stashDieOf e) s).freeL ++ (stashx e s).lframes ∧
      startedAt c t = some { x with state := .done } ∧ t.mem = s.mem)) ∧
  (∀ (d : Die) (s : State),
    exec (.stashFillRetry d) s = .next ((stashd d.val s).stalled.foldl (fun t c => stashPutRun c t) s) ∧
    (rbit R.STS_CTL 0 s = true → rbit R.STS_CTL 2 s = true → (stashd d.val s).freeS.length < rbits R.STS_WATER 15 0 s →
      exec (.stashBgOffload d) s = .next (bgGo d.val (eligibleEntries d.val s) s)) ∧
    (rbit R.STS_CTL 0 s = false ∨ rbit R.STS_CTL 2 s = false ∨ rbits R.STS_WATER 15 0 s ≤ (stashd d.val s).freeS.length → exec (.stashBgOffload d) s = .next s)) ∧
  (∀ (e : EntryN) (s : State), (stashx e.val s).state = .offloading →
    let r := if (stashx e.val s).packed then offloadPacked e.val s else offloadPlain e.val s
    ∃ t, exec (.stashOffloadDone e) s = .next t ∧ stashx e.val t = { stashx e.val r with state := .offloaded, sframes := [] } ∧
    (stashd (stashDieOf e.val) t).freeS = (stashd (stashDieOf e.val) r).freeS ++ (stashx e.val r).sframes ∧
    rget (R.STS_Dd_OFFLOADS (stashDieOf e.val)) t = (rget (R.STS_Dd_OFFLOADS (stashDieOf e.val)) r + 1) % 2 ^ 32 ∧
    t.mem = r.mem ∧ t.poison = r.poison) ∧
  (∀ (e : EntryN) (s : State), (stashx e.val s).state ≠ .offloading → exec (.stashOffloadDone e) s = .next s)

/-- R230: a block whose coded payload would exceed its raw size less 64 bytes goes STORED: its raw bytes, naming no table, and one more in
CMP_Pnn_STORED; every other block goes coded. R227, R229, R235: under a sound table of its generation, what the compressor makes of a block
expands to exactly the bytes of the block. -/
def Obligations.BlocksAreCodedOrStoredAndExpand : Prop :=
  ∀ (p : Nat) (t : CodeTable) (i : Nat) (b : Bytes) (s : State), t.gen < 65536 → t.cls < 6 →
    0 < b.length → b.length ≤ 4096 →
    let pl := encodePayload t.cls t.lens b
    (b.length < pl.length + 64 → ∃ h u, codeBlock p t i b s = (.block h b, u) ∧ hdrStored h = true ∧ hdrGen h = 0 ∧
      hdrClen h = b.length ∧ rget (R.CMP_Pnn_STORED p) u = (rget (R.CMP_Pnn_STORED p) s + 1) % 2 ^ 32 ∧
      ∀ x : CompX, expandBlock x { hdr := h, payload := b } = .ok b) ∧
    (pl.length + 64 ≤ b.length → ∃ h u, codeBlock p t i b s = (.block h pl, u) ∧ hdrStored h = false ∧ hdrGen h = t.gen ∧
      rget (R.CMP_Pnn_STORED p) u = rget (R.CMP_Pnn_STORED p) s ∧
      ∀ x : CompX, tableOfImage (imageOf t.gen t.cls t.lens) = t → imageBad (imageOf t.gen t.cls t.lens) = false →
        b.length % clsElem t.cls = 0 → x.rejected.contains t.gen = false → slotTable x t.gen = some t →
        expandBlock x { hdr := h, payload := pl } = .ok b)

/-- R233 to R236: a TABLE message's image waits at the expander of its port; the image at the front loads into a slot that no queued block
names, and a bad one is rejected with CMP_EVT.REJECT. The block at the front of an expander stalls it while its table is missing, passes
on what it expands to, or fails; a stall that lasts CMP_GENTO cycles ends as a failure, and with CMP_GENTO 0 never. An image of the awaited
generation, loaded or rejected, ends the stall. -/
def Obligations.ExpandersTakeTablesAndBlocks : Prop :=
  (∀ (p : Port) (m : Msg) (s : State), takeMsg p.val 8 m s = none → exec (.table p m) s = .next s) ∧
  (∀ (p : Port) (m : Msg) (s t : State), takeMsg p.val 8 m s = some t → ∃ r, exec (.table p m) s = .next r ∧
    compx p.val r = { compx p.val t with waiting := (compx p.val t).waiting ++ [m.data] } ∧ { r with comps := t.comps } = t) ∧
  (∀ (p : Pair) (s : State) (b : Bytes) (rest : List Bytes), p.val < 24 → (compx p.val s).waiting = b :: rest →
    (imageBad b = true → ∃ t, exec (.tableImageLoad p) s = .next t ∧ rbit R.CMP_EVT 3 t = true ∧ (compx p.val t).waiting = rest ∧
      (compx p.val t).slot0 = (compx p.val s).slot0 ∧ (compx p.val t).slot1 = (compx p.val s).slot1 ∧
      { t with regs := s.regs, comps := s.comps } = s) ∧
    (imageBad b = false → ∀ k, loadSlot (compx p.val s) = some k → ∃ t, exec (.tableImageLoad p) s = .next t ∧
      (compx p.val t).waiting = rest ∧ (if k then (compx p.val t).slot1 else (compx p.val t).slot0) = some (tableOfImage b) ∧
      (if k then (compx p.val t).slot0 = (compx p.val s).slot0 else (compx p.val t).slot1 = (compx p.val s).slot1) ∧
      rget (R.CMP_Pnn_TABLES p.val) t = (rget (R.CMP_Pnn_TABLES p.val) s + 1) % 2 ^ 32 ∧
      { t with regs := s.regs, comps := s.comps } = s) ∧
    (imageBad b = false → loadSlot (compx p.val s) = none → exec (.tableImageLoad p) s = .next s)) ∧
  (∀ (p : Pair) (s : State), p.val < 24 → (compx p.val s).waiting = [] → exec (.tableImageLoad p) s = .next s) ∧
  (∀ (p : Pair) (s : State), p.val = 24 →
    let r := dropDeadImages s
    ((compx 24 r).getc = [] → exec (.tableImageLoad p) s = .next r) ∧
    (∀ c l, (compx 24 r).getc = c :: l →
      (∀ t, loadImage 24 r = (none, t) → exec (.tableImageLoad p) s = .next r) ∧
      (∀ t, loadImage 24 r = (some true, t) →
        exec (.tableImageLoad p) s = .next (queueBlocks c (setCompx 24 { compx 24 t with getc := l } t))) ∧
      (∀ t, loadImage 24 r = (some false, t) →
        exec (.tableImageLoad p) s = .next (failCmd c bCMP 0x0181 24 (setCompx 24 { compx 24 t with getc := l } t))))) ∧
  (∀ (p : Pair) (s : State), (compx p.val s).queued = [] → ∃ r, exec (.expanderBlock p) s = .next r ∧ compx p.val r = compx p.val s ∧
    { r with comps := s.comps } = s) ∧
  (∀ (p : Pair) (s : State) (q : BlockQ) (rest : List BlockQ), (compx p.val s).queued = q :: rest → q.c = none →
    ∃ r, compx p.val r = compx p.val s ∧ { r with comps := s.comps } = s ∧
    (q.asked = true → exec (.expanderBlock p) s = .next r) ∧
    (q.asked = false →
      (∀ g, expandBlock (compx p.val s) q = .stall g → exec (.expanderBlock p) s = .next (genStall p.val g r)) ∧
      (∀ b, expandBlock (compx p.val s) q = .ok b → exec (.expanderBlock p) s = .next (linkPassed p.val b r)) ∧
      (expandBlock (compx p.val s) q = .fail → exec (.expanderBlock p) s = .next (linkFailed p.val q r)) ∧
      (∀ g, expandBlock (compx p.val s) q = .stall g → rbits R.CMP_GENTO 23 0 s ≠ 0 → rbit (R.CMP_Pnn_STAT p.val) 2 s = true →
        exec (.genStallTimeout p) s = .next (linkFailed p.val q (endStall p.val g r))))) ∧
  (∀ (p : Pair) (s : State) (q : BlockQ) (rest : List BlockQ) (c : Nat) (y : Started), (compx p.val s).queued = q :: rest →
    q.c = some c → runningCmd c .stashGet s = some y → q.asked = false →
    ∃ r, compx p.val r = compx p.val s ∧ { r with comps := s.comps } = s ∧
    (∀ g, expandBlock (compx p.val s) q = .stall g → exec (.expanderBlock p) s = .next (genStall p.val g r)) ∧
    (∀ b, expandBlock (compx p.val s) q = .ok b → exec (.expanderBlock p) s = .next (loopPassed y q b r)) ∧
    (expandBlock (compx p.val s) q = .fail → exec (.expanderBlock p) s = .next (loopFailed y q r))) ∧
  (∀ (p gen : Nat) (s : State), rbit (R.CMP_Pnn_STAT p) 2 s = false → p < 25 → gen < 65536 → rbit R.CMP_SNAP 1 s = false →
    rbit R.ERR_SNAP 1 s = false → rbit (R.CMP_Pnn_STAT p) 2 (genStall p gen s) = true ∧
    rbits (R.CMP_Pnn_STAT p) 31 16 (genStall p gen s) = gen ∧ rbit R.CMP_EVT 2 (genStall p gen s) = true ∧
    Counted (R.CMP_Pnn_GENSTALL p) s (genStall p gen s)) ∧
  (∀ (p : Pair) (s : State), (rbits R.CMP_GENTO 23 0 s = 0 ∨ rbit (R.CMP_Pnn_STAT p.val) 2 s = false ∨
    (∀ q rest g, (compx p.val s).queued = q :: rest → expandBlock (compx p.val s) q ≠ .stall g)) →
    exec (.genStallTimeout p) s = .next s) ∧
  (∀ (p gen : Nat) (s : State), p < 25 →
    (rbit (R.CMP_Pnn_STAT p) 2 s = true → rbits (R.CMP_Pnn_STAT p) 31 16 s = gen →
      rbit (R.CMP_Pnn_STAT p) 2 (endStall p gen s) = false ∧ rbits (R.CMP_Pnn_STAT p) 31 16 (endStall p gen s) = 0 ∧
      OnlyRegs [R.CMP_Pnn_STAT p] s (endStall p gen s)) ∧
    ((rbit (R.CMP_Pnn_STAT p) 2 s = false ∨ rbits (R.CMP_Pnn_STAT p) 31 16 s ≠ gen) → endStall p gen s = s))

/-! ### Viril links (chapter 13) -/

/-- R237, R238, R242, R248, Table 13.2: every port's far end has it as its own far end. Training with eight lanes goes on to the identity
flits, and sends the module's own, with four allowed lanes DEGRADED, and otherwise not; an identity that agrees with the wiring brings the port UP, any other makes it
MISWIRED; a port that has not come up in time enters DOWN. An UP port that loses a lane it uses goes to RETRAIN, which ends UP, or DOWN
with another identity; what is not acknowledged is replayed then. LNK_RETRAIN trains the ports that it names, and is misuse when one of them cannot train again. -/
def Obligations.LinksTrainAndComeUp : Prop :=
  (∀ (p : Nat) (s t : State), p < 24 → myDom s < 11 → (myDom t, myDev t) = ((farEnd p s).1, (farEnd p s).2.1) →
    farEnd (farEnd p s).2.2 t = (myDom s, myDev s, p)) ∧
  (∀ (p : Port) (lanes : BitVec 8) (s : State),
    (portState p.val s ≠ psTraining → portState p.val s ≠ psRetrain → exec (.linkTrain p lanes) s = .next s) ∧
    ((portState p.val s = psTraining ∨ portState p.val s = psRetrain) →
      let half := (lanes.toNat % 16 = 15 ∨ lanes.toNat / 16 = 15) ∧ rbit (R.LNK_Lnn_CFG p.val) 4 s = true
      ((lanes = 255 ∨ half) → ∃ r, exec (.linkTrain p lanes) s = .next (emitFlit p.val (identFlit p.val r) r) ∧
        portState p.val r = (if portState p.val s = psTraining then psIdent else psRetrain) ∧ (portx p.val r).lanes = lanes ∧
        { r with regs := s.regs, ports := s.ports } = s ∧
        (lanes = 255 → rbit (R.LNK_Lnn_STAT p.val) 3 r = false) ∧
        (lanes ≠ 255 → rbit (R.LNK_Lnn_STAT p.val) 3 r = true ∧ rbit R.LNK_EVT 3 r = true) ∧
        ∀ o, o ∉ [R.LNK_Lnn_STAT p.val, R.LNK_EVT, R.HIF_BOOT] → rget o r = rget o s) ∧
      (lanes ≠ 255 → ¬ half → ∃ t, exec (.linkTrain p lanes) s = .next t ∧ { t with ports := s.ports } = s))) ∧
  (∀ (p : Nat) (s : State), (portx p s).ownF.length = 4 → let f := identFlit p s
    flitCrcOk f = true ∧ flitType f = 2 ∧ (myDom s < 256 → myDev s < 256 → p < 256 → identFar f = (myDom s, myDev s, p)) ∧
    u f 27 1 = nb (isManager s) + 2 * nb (rbit (R.LNK_Lnn_STAT p) 3 s)) ∧
  (∀ (p : Port) (g : FlitIn) (s : State),
    let f := g.bytes
    let r := fecCount p.val g s
    (portState p.val s ≠ psIdent → exec (.identFlit p g) s = .next s) ∧
    (portState p.val s = psIdent → (flitCrcOk f = false → exec (.identFlit p g) s = .next (crcFailed p.val r)) ∧
      (flitCrcOk f = true → (flitReservedOk f = false ∨ flitType f ≠ 2 ∨ identReservedOk f = false) →
        exec (.identFlit p g) s = .next (protocolError p.val r)) ∧
      (flitCrcOk f = true → flitReservedOk f = true → flitType f = 2 → identReservedOk f = true →
        (identOk p.val f r = true → ∃ y, exec (.identFlit p g) s =
          .next (speak p.val (sendNotices (keeperPortUp p.val (setPortState p.val psUp y)))) ∧
          portState p.val (setPortState p.val psUp y) = psUp ∧ y.mem = r.mem ∧ (portx p.val y).replay = [] ∧
          (portx p.val y).txq = (portx p.val r).txq ∧ (portx p.val y).farAlloc = (List.range 4).map (fun c => u f (28 + 2 * c) 2)) ∧
        (identOk p.val f r = false → ∃ t, exec (.identFlit p g) s = .next t ∧ portState p.val t = psMiswired ∧ rbit R.LNK_EVT 1 t = true ∧
          { t with regs := r.regs } = r)))) ∧
  (∀ (p : Port) (s : State),
    (portState p.val s ∈ [psTraining, psIdent, psRetrain] → exec (.linkTrainTimeout p) s = .next (portDown p.val s)) ∧
    (portState p.val s ∉ [psTraining, psIdent, psRetrain] → exec (.linkTrainTimeout p) s = .next s)) ∧
  (∀ (p : Port) (l : Lane) (s : State),
    (portUp p.val s = true → laneUsed p.val l.val s = true → rbit R.LNK_SNAP 1 s = false → ∃ t, exec (.laneLoss p l) s = .next t ∧
      portState p.val t = psRetrain ∧ Counted (R.LNK_Lnn_RETRAINS p.val) s t ∧ rbit R.LNK_EVT 2 t = true ∧
      (portx p.val t).replay = (portx p.val s).replay ∧ { t with regs := s.regs, ports := s.ports } = s) ∧
    (portUp p.val s = false ∨ laneUsed p.val l.val s = false → exec (.laneLoss p l) s = .next s)) ∧
  (∀ (p : Port) (s : State), (portState p.val s = psRetrain →
      ((portx p.val s).replay = [] → exec (.retrainEnd p true) s = .next (speak p.val (sendNotices (setPortState p.val psUp s)))) ∧
      ((portx p.val s).replay ≠ [] →
        exec (.retrainEnd p true) s = .next (speak p.val (sendNotices (Machine.replay p.val (setPortState p.val psUp s))))) ∧
      exec (.retrainEnd p false) s = .next (portDown p.val s)) ∧
    (portState p.val s ≠ psRetrain → ∀ b, exec (.retrainEnd p b) s = .next s)) ∧
  (∀ (v : BitVec 32) (s : State),
    let may := fun p => portEnabled p s && (portState p s == psDown || portState p s == psMiswired)
    ((setPositions 24 v.toNat).all may = true → exec (.lnkRetrain v) s = .next ((setPositions 24 v.toNat).foldl (fun t p => trainPort p t) s)) ∧
    ((setPositions 24 v.toNat).all may = false → ∃ t, exec (.lnkRetrain v) s = .next t ∧ Counted R.LNK_MISUSE s t ∧ OnlyRegs [R.LNK_MISUSE] s t)) ∧
  (∀ (p : Nat) (s : State), p < 24 → portState p (trainPort p s) = psTraining) ∧
  (∀ (v : BitVec 32) (s : State),
    (isLocked bLNK s = true → ∃ t, exec (.lnkPortEnWrite v) s = .next t ∧ Counted R.ERR_LOCKED_WRITES s t ∧ OnlyRegs [R.ERR_LOCKED_WRITES] s t) ∧
    (isLocked bLNK s = false → exec (.lnkPortEnWrite v) s = .next (showLinks ((List.range 24).foldl
      (portEnable (rget R.LNK_PORT_EN s) (v.toNat % 2 ^ 24)) (rset R.LNK_PORT_EN (v.toNat % 2 ^ 24) s)))) ∧
    (isLocked bLNK s = false → v.toNat % 2 ^ 24 = rget R.LNK_PORT_EN s → s.boot.released = false →
      ∃ t, exec (.lnkPortEnWrite v) s = .next t ∧ OnlyRegs [] s t))

/-- R243 to R247, R249: a flit that fails its CRC is counted and discarded, and a DATA flit also asks for replay; one of a wrong type or with a
reserved bit set is a protocol error; a DATA flit out of sequence asks for replay, and one in sequence joins its class stream. ACK takes the
covered flits out of the replay buffer. An ACK timeout replays and is counted. R254, R255: the operation at the head of the reductions'
queue is admitted whole when every port has the tokens, and not at all otherwise. -/
def Obligations.FlitsAreCheckedAndReplayed : Prop :=
  (∀ (p : Port) (g : FlitIn) (s : State),
    let f := g.bytes
    let r := fecCount p.val g s
    let t := takeAck p.val f r
    (portUp p.val s = false → exec (.dataFlit p g) s = .next s ∧ exec (.idleFlit p g) s = .next s) ∧
    (portUp p.val s = true →
      (flitCrcOk f = false → exec (.dataFlit p g) s = .next (speak p.val (sendNak p.val (crcFailed p.val r))) ∧
        exec (.idleFlit p g) s = .next (crcFailed p.val r)) ∧
      (flitCrcOk f = true → (flitReservedOk f = false ∨ flitType f ≠ 1) →
        exec (.dataFlit p g) s = .next (speak p.val (protocolError p.val r))) ∧
      (flitCrcOk f = true → (flitReservedOk f = false ∨ flitType f ≠ 0) → exec (.idleFlit p g) s = .next (protocolError p.val r)) ∧
      (flitCrcOk f = true → flitReservedOk f = true → flitType f = 0 → exec (.idleFlit p g) s = .next (speak p.val t)) ∧
      (flitCrcOk f = true → flitReservedOk f = true → flitType f = 1 →
        (portUp p.val t = false → exec (.dataFlit p g) s = .next (speak p.val t)) ∧
        (portUp p.val t = true →
          (flitSeq f ≠ (portx p.val t).rxSeq → exec (.dataFlit p g) s = .next (speak p.val (sendNak p.val t))) ∧
          (flitSeq f = (portx p.val t).rxSeq → (flitHeaders f).any (headerProto p.val (flitTC f)) = true →
            exec (.dataFlit p g) s = .next (speak p.val (protocolError p.val t))) ∧
          (flitSeq f = (portx p.val t).rxSeq → (flitHeaders f).any (headerProto p.val (flitTC f)) = false →
            exec (.dataFlit p g) s = .next (speak p.val (acceptData p.val f t))))))) ∧
  (∀ (p : Nat) (s : State), p < 24 → rget (R.LNK_Lnn_CRC p) (crcFailed p s) = (rget (R.LNK_Lnn_CRC p) s + 1) % 2 ^ 32 ∧
    OnlyRegs [R.LNK_Lnn_CRC p] s (crcFailed p s) ∧ (portx p (sendNak p s)).nak = true ∧ { sendNak p s with ports := s.ports } = s) ∧
  (∀ (p : Nat) (g : FlitIn) (s : State), p < 24 → g.fecCor = 0 →
    rget (R.LNK_Lnn_FECUNC p) (fecCount p g s) = (rget (R.LNK_Lnn_FECUNC p) s + g.fecUnc) % 2 ^ 32 ∧
    OnlyRegs [R.LNK_Lnn_FECUNC p, R.LNK_Lnn_FECCOR p] s (fecCount p g s)) ∧
  (∀ (p : Nat) (f : Bytes) (s : State), creditStalled (portx p s) = false →
    let x := portx p s
    let asks := flitNak f = true ∧ ackedReplay (flitAck f) x.replay ≠ [] ∧ x.naked ≠ some (flitAck f)
    ∃ y : PortX, y.replay = ackedReplay (flitAck f) x.replay ∧ y.acked = flitAck f ∧ y.seenF = flitCred f ∧
      y.naked = (if flitNak f then some (flitAck f) else none) ∧
      (asks → takeAck p f s = Machine.replay p (setPortx p y s)) ∧ (¬ asks → takeAck p f s = setPortx p y s)) ∧
  (∀ (ack : Nat) (l m : List (Nat × Bytes)) (b : Bytes), (∀ x ∈ l, x.1 ≠ ack) → ackedReplay ack (l ++ (ack, b) :: m) = m) ∧
  (∀ (p : Port) (s : State),
    (portUp p.val s = true → (portx p.val s).replay ≠ [] → exec (.ackTimeout p) s = .next (replay p.val s)) ∧
    (portUp p.val s = false ∨ (portx p.val s).replay = [] → exec (.ackTimeout p) s = .next s)) ∧
  (∀ (p : Nat) (s : State), p < 24 →
    (max 1 (rbits R.LNK_RETRY 3 0 s) ≤ (portx p s).stuck → Machine.replay p s = toRetrain p s) ∧
    ((portx p s).stuck < max 1 (rbits R.LNK_RETRY 3 0 s) → rbit R.ERR_SNAP 1 s = false →
      let r := Machine.replay p s
      rget (R.LNK_Lnn_REPLAY p) r = (rget (R.LNK_Lnn_REPLAY p) s + 1) % 2 ^ 32 ∧ portState p r = portState p s ∧
      portx p r = { portx p s with stuck := (portx p s).stuck + 1 } ∧
      r.out.flits = ((portx p s).replay.map (fun f => (p, resentFlit (portx p r) f))).reverse ++ s.out.flits)) ∧
  (∀ s : State, s.redWait = [] → exec .reductionAdmit s = .next s) ∧
  (∀ (s : State) (o : RedOp) (rest : List RedOp), s.redWait = o :: rest →
    ((∀ n ∈ o.needs, n.2 ≤ rbFree n.1 s) → ∃ r, exec .reductionAdmit s = .next (o.needs.foldl (drainAdmitted o) r) ∧ r.redWait = rest ∧
      r.admitted = s.admitted ++ [o] ∧ { r with regs := s.regs, redWait := s.redWait, admitted := s.admitted } = s ∧
      (∀ q k, o.needs = [(q, k)] → q < 24 → rbFree q r = rbFree q s - k)) ∧
    (¬ (∀ n ∈ o.needs, n.2 ≤ rbFree n.1 s) → exec .reductionAdmit s = .next s))

/-- R140, R246, R252, R253: a WRITE puts its data, with their poison, where it names and nowhere else; a READ_REQ is answered with its tag
and the bytes at its address, poisoned zeros where it is unmapped; both wait in the receive buffer while a bank command holds their bytes
(R152). A READ_RESP brings the data to the transfer that waits for its tag; a read without its response fails its command, or halts its
channel with ERR 3. A message that is not there to be taken does nothing. -/
def Obligations.PeersReadAndWriteMemory : Prop :=
  (∀ (p : Port) (m : Msg) (s : State),
    (bankHolds m.addr.toNat m.data.length s = true ∨ takeMsg p.val 1 m s = none → exec (.write p m) s = .next s) ∧
    (bankHolds m.addr.toNat (u m.data 0 4) s = true ∨ takeMsg p.val 2 m s = none → exec (.readReq p m) s = .next s) ∧
    (takeMsg p.val 3 m s = none → exec (.readResp p m) s = .next s)) ∧
  (∀ (p : Port) (m : Msg) (s t : State), takeMsg p.val 1 m s = some t → bankHolds m.addr.toNat m.data.length s = false →
    exec (.write p m) s = .next (writeMem m.addr.toNat m.data t m.poison).s ∧
    (m.addr.toNat + m.data.length ≤ stackedEnd → ∃ r, exec (.write p m) s = .next r ∧ r.regs = t.regs ∧
      (∀ a, byteAt a r = if m.addr.toNat ≤ a ∧ a < m.addr.toNat + m.data.length then m.data.getD (a - m.addr.toNat) 0 else byteAt a t) ∧
      (m.poison = true → ∀ a, m.addr.toNat ≤ a → a < m.addr.toNat + m.data.length → lineOf a ∈ r.poison))) ∧
  (∀ (p : Port) (m : Msg) (s t : State), takeMsg p.val 2 m s = some t →
    let a := m.addr.toNat
    let n := u m.data 0 4
    bankHolds a n s = false →
    (firstUnreached t a n = none → let r := touchRead t (a, n)
      exec (.readReq p m) s = .next ((sendMsg (mkMsg r 3 m.srcDom.toNat m.srcDev.toNat a m.tag.toNat
        (readBytes t a n) (poisoned t a n)) r).getD r)) ∧
    (∀ e, firstUnreached t a n = some e → let r := captureReach e t
      exec (.readReq p m) s = .next ((sendMsg (mkMsg r 3 m.srcDom.toNat m.srcDev.toNat a
        m.tag.toNat (List.replicate n 0) true) r).getD r))) ∧
  (∀ (p : Port) (m : Msg) (s t : State), takeMsg p.val 3 m s = some t →
    ((∃ h y, waitingRead m.tag.toNat s = some (h, y) ∧ transferHeld y s = true) → exec (.readResp p m) s = .next s) ∧
    ((∀ h y, waitingRead m.tag.toNat s = some (h, y) → transferHeld y s = false) →
      (t.reads.find? (fun r => r.tag == m.tag.toNat) = none → exec (.readResp p m) s = .next t) ∧
      (∀ r, t.reads.find? (fun r => r.tag == m.tag.toNat) = some r →
        let w : State := { t with reads := t.reads.erase r }
        (waitingRead m.tag.toNat w = none → exec (.readResp p m) s = .next w) ∧
        (∀ h y, waitingRead m.tag.toNat w = some (h, y) →
          (y.owner < 512 → exec (.readResp p m) s =
            .next (landStream h y (padTo y.len m.data) (if m.poison then [(y.off, y.len)] else []) w)) ∧
          (512 ≤ y.owner → exec (.readResp p m) s =
            .next (copyLanded h (y.owner - 512) y ⟨.clean, 0, 0, 0, false⟩ (padTo y.len m.data) (fun _ => m.poison) w)))))) ∧
  (∀ (tag : BitVec 16) (s : State) (r : ReadOut), s.reads.find? (fun r => r.tag == tag.toNat) = some r →
    let w : State := { s with reads := s.reads.erase r }
    (waitingRead r.tag w = none → (r.c = none → exec (.readTimeout tag) s = .next w) ∧
      (∀ c, r.c = some c → exec (.readTimeout tag) s = .next (failCmd c bLNK 0x0192 r.port w))) ∧
    (∀ h y, waitingRead r.tag w = some (h, y) →
      (y.owner < 512 → exec (.readTimeout tag) s = .next (fetchLost h y 0x0192 w)) ∧
      (512 ≤ y.owner → exec (.readTimeout tag) s =
        .next (chanHalt (y.owner - 512) 3 0x0192 y.addr (releaseTag h y.id w))))) ∧
  (∀ (tag : BitVec 16) (s : State), s.reads.find? (fun r => r.tag == tag.toNat) = none → exec (.readTimeout tag) s = .next s)

/-! ### The relay engine (chapter 14) -/

/-- R235, R263 to R268, R273, R275, R276, R279, Table 14.3: what each relay message does once it is taken; one that is not there to be taken
does nothing. A baton lands and is counted in baton order, so that one that comes early waits to be counted; a message of another epoch is
dropped and counted; reports, the scale, a cut and a failure reach their bucket; the manager's timer starts and stops; a grant reaches its
RING_PASS or is kept for it (log 159); a hold not seen before is counted and passed on, one seen before is ignored, and its release lifts
it; a resend answers with the block, read again, STORED, or counts a second failure. -/
def Obligations.RelayMessagesReachTheirOperations : Prop :=
  (∀ (p : Port) (m : Msg) (s : State), ∀ a ∈ [(1, Instr.report p m), (2, .scale p m), (3, .start p m), (4, .cut p m), (5, .closed p m),
      (6, .hold p m), (7, .release p m), (8, .grant p m), (9, .fail p m), (0x20, .resend p m), (0x21, .accept p m)],
    takeCtrl p.val a.1 m s = none → exec a.2 s = .next s) ∧
  (∀ (p : Port) (m : Msg) (s : State),
    let idx := m.addr.toNat % 2 ^ 24
    (ownerOfBaton m s = none ∨ takeMsg p.val 4 m s = none → exec (.baton p m) s = .next s) ∧
    (∀ x o a mk k t, ownerOfBaton m s = some (x, o, a, mk, k) → takeMsg p.val 4 m s = some t →
      let w := writeMem a m.data t m.poison
      (bankHolds a m.data.length s = true → exec (.baton p m) s = .next s) ∧
      (bankHolds a m.data.length s = false →
        (w.cause = none → exec (.baton p m) s =
          .next (relayGo x o (advanceAll (countBaton x.id k idx mk (forwardBaton x o idx k w.s))))) ∧
        (∀ e, w.cause = some e → exec (.baton p m) s = .next (failRelay x.id e p.val w.s))))) ∧
  (∀ (c k b mk : Nat) (s : State) (o : RelayOp), relayOp c s = some o → o.early = [] →
    (b ≠ countedOf k o → relayOp c (countBaton c k b mk s) = some { o with early := [(k, b)] } ∧
      ∀ n, markerCount n (countBaton c k b mk s) = markerCount n s) ∧
    (b = countedOf k o → ∃ o', relayOp c (countBaton c k b mk s) = some o' ∧ countedOf k o' = countedOf k o + 1 ∧ o'.early = [])) ∧
  (∀ (p : Port) (m : Msg) (s t : State), ∀ a ∈ [(1, Instr.report p m), (2, .scale p m), (4, .cut p m), (9, .fail p m)],
    takeCtrl p.val a.1 m s = some t → u m.data 4 2 ≠ epochNow s → exec a.2 s = .next (staleMsg t)) ∧
  (∀ s : State, rbit R.RLY_CTL 1 s = false → rget R.RLY_STALE (staleMsg s) = (rget R.RLY_STALE s + 1) % 2 ^ 32 ∧
    rbit R.RLY_EVT 3 (staleMsg s) = true ∧ OnlyRegs [R.RLY_STALE, R.RLY_EVT] s (staleMsg s)) ∧
  (∀ (p : Port) (m : Msg) (s t : State), takeCtrl p.val 1 m s = some t → u m.data 4 2 = epochNow s →
    let k := needBucket (u m.data 0 4) (u m.data 4 2) (reopen (u m.data 0 4) t)
    let r : Rep :=
      { dev := m.srcDev.toNat, dom := m.srcDom.toNat, exp := signed 16 (u m.data 6 2), count := u m.data 8 2, mask := u m.data 10 2 }
    exec (.report p m) s = .next (tryReport (u m.data 0 4) (setBucket { k.1 with reports := k.1.reports ++ [r] } k.2))) ∧
  (∀ (p : Port) (m : Msg) (s t : State), takeCtrl p.val 2 m s = some t → u m.data 4 2 = epochNow s →
    ((bucketAt (u m.data 0 4) t = none ∨ ∃ k, bucketAt (u m.data 0 4) t = some k ∧ (reduceOf k t = none ∨ k.scale.isSome = true)) →
      exec (.scale p m) s = .next t) ∧
    (∀ k y, bucketAt (u m.data 0 4) t = some k → reduceOf k t = some y → k.scale = none →
      let r := setBucket { k with scale := some (signed 16 (u m.data 6 2), u m.data 8 2) } t
      exec (.scale p m) s =
        .next (dataPhase (u m.data 0 4) ((y.2.g.children (me r)).foldl (fun t c => sendCtrl 2 c.1 c.2 m.data t) r)))) ∧
  (∀ (p : Port) (m : Msg) (s t : State), takeCtrl p.val 4 m s = some t → u m.data 4 2 = epochNow s →
    exec (.cut p m) s = .next (cutBucket (u m.data 0 4) (u m.data 4 2) t)) ∧
  (∀ (p : Port) (m : Msg) (s t : State), takeCtrl p.val 9 m s = some t → u m.data 4 2 = epochNow s →
    ((bucketAt (u m.data 0 4) t = none ∨ ∃ k, bucketAt (u m.data 0 4) t = some k ∧ reduceOf k t = none) →
      exec (.fail p m) s = .next t) ∧
    (∀ k y, bucketAt (u m.data 0 4) t = some k → reduceOf k t = some y →
      (y.2.g.parent (me t) = none → exec (.fail p m) s = .next (failReduce k 0x0190 p.val t)) ∧
      (∀ v, y.2.g.parent (me t) = some v → exec (.fail p m) s = .next (sendCtrl 9 v.1 v.2 m.data t)))) ∧
  (∀ (p : Port) (m : Msg) (s t : State), takeCtrl p.val 3 m s = some t →
    let b := u m.data 0 4
    let late := t.relay.closedB.contains b = true ∧ t.relay.starts.contains (b, m.srcDom.toNat, m.srcDev.toNat) = false
    let runs := t.relay.timers.any (fun x => x.1 == b) = true
    (isManager t = false → exec (.start p m) s = .next t) ∧
    (isManager t = true → ∃ r, exec (.start p m) s = .next r ∧ { r with relay := t.relay } = t ∧
      (b, m.srcDom.toNat, m.srcDev.toNat) ∈ r.relay.starts ∧
      (late ∨ runs → r.relay.timers = t.relay.timers) ∧
      (¬ (late ∨ runs) → r.relay.timers = t.relay.timers ++ [(b, u m.data 8 1, u m.data 6 2)] ∧ b ∉ r.relay.closedB))) ∧
  (∀ (p : Port) (m : Msg) (s t : State), takeCtrl p.val 5 m s = some t →
    (isManager t = false → exec (.closed p m) s = .next t) ∧
    (isManager t = true → ∃ r, exec (.closed p m) s = .next r ∧
      r.relay.timers = t.relay.timers.filter (fun x => x.1 != u m.data 0 4) ∧ u m.data 0 4 ∈ r.relay.closedB ∧
      { r with relay := t.relay } = t)) ∧
  (∀ (p : Port) (m : Msg) (s t : State), takeCtrl p.val 8 m s = some t →
    let leg := u m.data 4 2
    let takes (y : Started × Op) : Bool :=
      y.2 == .ringPass && decide ((Ring.parse y.1.bytes).first ≤ leg) &&
      decide (leg < (Ring.parse y.1.bytes).first + (Ring.parse y.1.bytes).count)
    ((∀ y ∈ opsOfTag (u m.data 0 4) t, takes y = false) →
      exec (.grant p m) s = .next { t with relay := { t.relay with grants := t.relay.grants ++ [(u m.data 0 4, leg)] } }) ∧
    (∀ y, (opsOfTag (u m.data 0 4) t).find? takes = some y →
      (∀ o, relayOp y.1.id t = some o →
        exec (.grant p m) s = .next (ringGo y.1 (setRelayOp { o with granted := o.granted ++ [leg] } t))) ∧
      (relayOp y.1.id t = none → exec (.grant p m) s = .next t))) ∧
  (∀ (p : Port) (m : Msg) (s : State),
    let b := m.addr.toNat % 2 ^ 32
    let j := bits m.addr.toNat 41 32
    let ci := m.tag.toNat % 16
    (takeMsg p.val 5 m s = none → bits m.addr.toNat 47 42 ≠ epochNow s % 64 → exec (.contrib p m) s = .next s) ∧
    (∀ t, takeMsg p.val 5 m s = some t → bits m.addr.toNat 47 42 ≠ epochNow s % 64 → exec (.contrib p m) s = .next (staleMsg t)) ∧
    (bits m.addr.toNat 47 42 = epochNow s % 64 →
      (bitAt m.tag.toNat 15 = false → exec (.contrib p m) s = .next (foldPartial p.val m b j s)) ∧
      (bitAt m.tag.toNat 15 = true → s.relay.past.contains b = true → ∀ t, takeMsg p.val 5 m s = some t →
        exec (.contrib p m) s = .next (duplicate t)) ∧
      (bitAt m.tag.toNat 15 = true → s.relay.past.contains b = true → takeMsg p.val 5 m s = none → exec (.contrib p m) s = .next s) ∧
      (bitAt m.tag.toNat 15 = true → s.relay.past.contains b = false →
        let k := needBucket b (epochNow s) s
        (reduceOf k.1 k.2 = none → exec (.contrib p m) s = .next k.2) ∧
        (∀ y, reduceOf k.1 k.2 = some y →
          (y.2.g.root = me s → exec (.contrib p m) s = .next (takeBacked p.val m b j ci k.1 k.2)) ∧
          (y.2.g.root ≠ me s → exec (.contrib p m) s = .next (stageChunk p.val m b j ci k.1 y.2 k.2)))))) ∧
  (∀ (p : Port) (m : Msg) (s t : State), takeCtrl p.val 6 m s = some t →
    let h := holdOf m
    ((h.1, h.2.1) = me t ∨ t.relay.holds.contains h = true ∨ t.relay.lifted.contains h = true → exec (.hold p m) s = .next t) ∧
    ((h.1, h.2.1) ≠ me t → t.relay.holds.contains h = false → t.relay.lifted.contains h = false →
      ∃ r, exec (.hold p m) s = .next (spreadHold 6 h (showWalks r)) ∧ r.relay.holds = t.relay.holds ++ [h] ∧ Counted R.RLY_HOLDS t r ∧
        rbit R.RLY_EVT 4 r = true ∧ { r with regs := t.regs, relay := t.relay } = t)) ∧
  (∀ (p : Port) (m : Msg) (s t : State), takeCtrl p.val 7 m s = some t → exec (.release p m) s = .next (liftHold (holdOf m) t) ∧
    (t.relay.holds.contains (holdOf m) = false → liftHold (holdOf m) t = t) ∧
    (t.relay.holds.contains (holdOf m) = true → ∃ r, r.relay.holds = t.relay.holds.erase (holdOf m) ∧ holdOf m ∈ r.relay.lifted ∧
      { r with relay := t.relay } = t ∧
      let v := spreadHold 7 (holdOf m) r
      (v.relay.holds = [] → liftHold (holdOf m) t = resumeRelay v) ∧ (v.relay.holds ≠ [] → liftHold (holdOf m) t = v))) ∧
  (∀ (p : Port) (m : Msg) (s t : State), takeCtrl p.val 0x20 m s = some t →
    (findSent m t = none → exec (.resend p m) s = .next (secondFailure p.val t)) ∧
    (∀ x, findSent m t = some x →
      let b := (blocksOf x.src (x.now t)).getD (u m.data 8 2) []
      exec (.resend p m) s = .next ((sendMsg { x.msg with data := leBytes 8 (blockHdr 0 b.length 0 b.length true (u m.data 8 2)) ++ b } t).getD t))) ∧
  (∀ (p : Port) (m : Msg) (s t : State), takeCtrl p.val 0x21 m s = some t →
    (∀ o x rest, t.relay.ops = [o] → o.unacked = x :: rest → sentMatches m x = true → ∃ r, exec (.accept p m) s = .next r ∧
      r.relay.ops = [{ o with unacked := rest }] ∧ { r with relay := t.relay } = t) ∧
    ((∀ o ∈ t.relay.ops, ∀ x ∈ o.unacked, sentMatches m x = false) → ∃ r, exec (.accept p m) s = .next r ∧
      r.relay.buckets = t.relay.buckets.map (fun k => { k with unacked := eraseFirst (sentMatches m) k.unacked }) ∧
      { r with relay := t.relay } = t))

/-- R18, R258 to R264, R278: a data collective whose group holds an absent member fails with 0x01A3, one that a failed message has come for
with 0x0191, and one whose memory cannot be reached with 0x0140 or 0x0190; otherwise its sends are formed, its own block lands and it
advances as far as it can; a RING_PASS sends its legs. One that has begun goes on, and is complete once all is sent, accepted,
acknowledged and counted. R259: every chain of senders toward the root ends there within three steps, and a member sends outbound to its
machine, rack and tray members in that order. A relay command that makes no progress for RLY_WTO cycles, when that is not 0, fails with
0x01A2. -/
def Obligations.CollectivesStartAndAdvance : Prop :=
  (∀ (c : Nat) (s : State) (x : Started), ∀ a ∈ [(Op.broadcast, Instr.broadcast c), (.allGather, .allGather c), (.allToAll, .allToAll c)],
    runningCmd c a.1 s = some x →
    let k := Coll.parse x.bytes s
    let r := k.g.rank (me s)
    (x.begun = true → exec a.2 s = .next (collectiveGo a.1 x s)) ∧
    (x.begun = false → k.g.absent s = true → exec a.2 s = .next (failCmd c bRLY 0x01A3 0 s)) ∧
    (x.begun = false → k.g.absent s = false → ∀ p, lostOf k.g.optag s = some p →
      exec a.2 s = .next (failCmd c bRLY 0x0191 p (forgetLost k.g.optag s))) ∧
    (x.begun = false → k.g.absent s = false → lostOf k.g.optag s = none → ∀ e, collUnmapped a.1 k s = some e →
      exec a.2 s = .next (failCmd c bRLY (reachCause s e) 0 (captureReach e s))) ∧
    (x.begun = false → k.g.absent s = false → lostOf k.g.optag s = none → collUnmapped a.1 k s = none →
      (a.1 = .broadcast → k.g.root = me s → exec a.2 s = .next (collectiveGo a.1 x (countBlock c r k.n k.mark (addRelayOp
        { c := c, toSend := blockSends (k.g.children (me s)) k.src k.n r } (setProg c 0 s))))) ∧
      (a.1 = .broadcast → k.g.root ≠ me s → exec a.2 s = .next (collectiveGo a.1 x (addRelayOp { c := c } (setProg c 0 s)))) ∧
      (a.1 = .allGather → exec a.2 s = .next (collectiveGo a.1 x (ownBlock c r k.src (k.dst + r * k.n) k.n k.mark
        (addRelayOp { c := c } (setProg c 0 s))))) ∧
      (a.1 = .allToAll → exec a.2 s = .next (collectiveGo a.1 x (ownBlock c r (k.src + r * k.n) (k.dst + r * k.n) k.n k.mark (addRelayOp
        { c := c, toSend := (k.g.members.filter (fun y => y != me s)).flatMap (fun y => blockSends [y] (k.src + k.g.rank y * k.n) k.n r) }
        (setProg c 0 s))))))) ∧
  (∀ (op : Op) (x : Started) (s : State) (o : RelayOp), op ∈ [Op.broadcast, .allToAll] → relayOp x.id s = some o → o.toSend = [] →
    let k := Coll.parse x.bytes s
    let whole := o.unacked = [] ∧ quiet 2 o.marks s = true ∧ ∀ r ∈ expectedRanks op k.g, countedOf r o = batonsOf k.n
    (whole → collectiveGo op x s = markDone x.id (dropRelayOp x.id s)) ∧ (¬ whole → collectiveGo op x s = s)) ∧
  (∀ (x : Started) (m : Msg) (s : State) (o : Op),
    let k := Coll.parse x.bytes s
    let idx := m.addr.toNat % 2 ^ 24
    let rank := rankOfTag o k.g m
    (o = .allGather ∨ o = .allToAll) → idx < batonsOf k.n → rank < k.g.members.length →
    landing x o m s = some (k.dst + rank * k.n + idx * batonSize, k.mark, rank)) ∧
  (∀ (c : Nat) (s : State) (x : Started), runningCmd c .ringPass s = some x →
    let r := Ring.parse x.bytes
    (x.begun = true → exec (.ringPass c) s = .next (ringGo x s)) ∧
    (x.begun = false → ∀ p, lostOf r.optag s = some p → exec (.ringPass c) s = .next (failCmd c bRLY 0x0191 p (forgetLost r.optag s))) ∧
    (x.begun = false → lostOf r.optag s = none → ∀ e, ringUnreached r s = some e →
      exec (.ringPass c) s = .next (failCmd c bRLY (reachCause s e) 0 (captureReach e s))) ∧
    (x.begun = false → lostOf r.optag s = none → ringUnreached r s = none →
      exec (.ringPass c) s = .next (ringGo x (ringBeginSends c r s)))) ∧
  (∀ (g : Grp) (m : Nat × Nat), (g.parent m = none ↔ m = g.root) ∧
    (∀ v w y, g.parent m = some v → g.parent v = some w → g.parent w = some y → y = g.root) ∧
    ∃ a b c, g.children m = a ++ b ++ c ∧ (∀ x ∈ a, x ∈ g.machinePeers m) ∧ (∀ x ∈ b, x ∈ g.rackPeers m) ∧
      (∀ x ∈ c, x ∈ g.trayPeers m) ∧ ∀ x ∈ g.children m, g.parent x = some m) ∧
  (∀ (c : Nat) (s : State) (x : Started) (o : Op), startedAt c s = some x → x.state = .running → opOfBytes x.bytes = some o →
    (rget R.RLY_WTO s ≠ 0 → o ∈ [Op.broadcast, .allGather, .allToAll, .ringPass] →
      exec (.relayNoProgress c) s = .next (failCmd c bRLY 0x01A2 0 (dropRelayOp c s))) ∧
    (rget R.RLY_WTO s ≠ 0 → o = .reduce → ∀ k, bucketAt (RD.parse x.bytes s).bucket s = some k → k.c = some c →
      exec (.relayNoProgress c) s = .next (failCmd c bRLY 0x01A2 0 (closeBucket k.num (dropReductions k.num s)))) ∧
    (rget R.RLY_WTO s = 0 ∨ isRelayOp o = false → exec (.relayNoProgress c) s = .next s)) ∧
  (∀ (c : Nat) (s : State), startedAt c s = none → exec (.relayNoProgress c) s = .next s)

/-- R265, R269 to R275, R280: a REDUCE opens its bucket unless its number is open already or a member is absent; once its sources are ready
they are read, and the report goes out; on a non-owner it is complete once all that it sends is sent and acknowledged (R272, log 160). The
bucket first in number order is applied: one more in RLY_APPLIED, its marker adds 1, and its REDUCE is complete. A deadline that expires
cuts the bucket. EPOCH_FENCE waits for the relay commands and then sets RLY_EPOCH. -/
def Obligations.ReducesOpenReportAndApply : Prop :=
  (∀ (c : Nat) (s : State) (x : Started), runningCmd c .reduce s = some x → x.begun = false →
    let r := RD.parse x.bytes s
    let k := needBucket r.bucket (epochOf x.bytes) (reopen r.bucket s)
    let mine := setProg c 0 (setBucket { k.1 with c := some c, epoch := epochOf x.bytes } k.2)
    let free := ∀ b, bucketAt r.bucket s = some b → b.c = none
    (¬ free → exec (.reduce c) s = .next (failCmd c bRLY 0x01A0 0 s)) ∧
    (free → r.g.absent s = true → exec (.reduce c) s = .next (failCmd c bRLY 0x01A3 0 s)) ∧
    (free → r.g.absent s = false →
      (∀ p, k.1.lost = some p → exec (.reduce c) s = .next (failReduce { k.1 with c := some c } 0x0191 p mine)) ∧
      (k.1.lost = none → k.1.cut = true → exec (.reduce c) s = .next (applyCut r.bucket mine)) ∧
      (k.1.lost = none → k.1.cut = false → r.named = [] → exec (.reduce c) s = .next (tryReport r.bucket (readSources r.bucket mine))) ∧
      (k.1.lost = none → k.1.cut = false → r.named ≠ [] → exec (.reduce c) s = .next mine ∧ mine.mem = s.mem ∧
        bucketAt r.bucket mine = some { k.1 with c := some c, epoch := epochOf x.bytes }))) ∧
  (∀ (c : Nat) (s : State) (x : Started), runningCmd c .reduce s = some x → x.begun = true →
    let r := RD.parse x.bytes s
    let t := flushContribs r.bucket s
    (bucketAt r.bucket t = none → exec (.reduce c) s = .next t) ∧
    (∀ k, bucketAt r.bucket t = some k → exec (.reduce c) s = .next (reduceDone x r k t))) ∧
  (∀ (x : Started) (r : RD) (k : Bucket) (s : State) (own : Rep) (up : Nat × Nat), k.own = some own → r.g.parent (me s) = some up →
    let f := foldReports own k.reports
    let sent := k.scale ≠ none ∧ k.outbox = [] ∧ k.unacked = [] ∧ quiet 2 k.marks s = true ∧
      (f.count = 0 ∨ ∀ j < chunksOf r.n, j ∈ k.chunks) ∧
      (r.forwards s = true → ∀ ci ∈ setPositions 16 f.mask, ∀ j < chunksOf r.n, (ci, j) ∈ k.taken)
    (sent → reduceDone x r k s = markDone x.id (closeBucket k.num s)) ∧ (¬ sent → reduceDone x r k s = s)) ∧
  (∀ (c : Nat) (s : State) (x : Started), runningCmd c .reduce s = some x →
    let r := RD.parse x.bytes s
    (x.begun = true → r.ready s = true → exec (.sourcesReady c) s = .next (tryReport r.bucket (readSources r.bucket s))) ∧
    (x.begun = false ∨ r.ready s = false → exec (.sourcesReady c) s = .next s)) ∧
  (∀ (r : RD) (s : State), r.named ≠ [] → (r.ready s = true ↔ (markerCount r.srcM s + 2 ^ 32 - r.srcC % 2 ^ 32) % 2 ^ 32 < 2 ^ 31)) ∧
  (∀ (s : State) (b : Nat) (k : Bucket) (x : Started) (r : RD) (sc : Int) (p : Nat), nextApply s = some b → bucketAt b s = some k →
    reduceOf k s = some (x, r) → k.scale = some (sc, p) →
    (r.patch = 0 → ∃ t, exec .bucketApply s = .next t ∧
      rget R.RLY_APPLIED t = (rget R.RLY_APPLIED s + 1) % 2 ^ 32 ∧ (∃ y, startedAt x.id t = some y ∧ y.state = .done) ∧
      bucketAt b t = none ∧ t.relay.reorder = s.relay.reorder.erase b ∧ t.mem = s.mem ∧
      (∀ n, markerCount n t = if n = r.done then (markerCount n s + 1) % 2 ^ 32 else markerCount n s)) ∧
    (r.patch ≠ 0 → bankHolds r.patch 32 s = true → exec .bucketApply s = .next s) ∧
    (r.patch ≠ 0 → bankHolds r.patch 32 s = false →
      (∀ e, firstUnreached s (r.patch + 19) 9 = some e →
        exec .bucketApply s = .next (failReduce k (reachCause s e) 0 (captureReach e s))) ∧
      (firstUnreached s (r.patch + 19) 9 = none →
        let t := markerInc r.done 1 (poke (r.patch + 24) (leBytes 4 p) (poke (r.patch + 19) (leBytes 1 (unsigned 8 sc)) s))
        exec .bucketApply s = .next (markDone x.id (rcount R.RLY_APPLIED (closeBucket b
          (if p < r.nexp then addFlags x.id 32 t else t))))))) ∧
  (∀ s : State, (nextApply s = none ∨ ∃ b, nextApply s = some b ∧ (bucketAt b s = none ∨
    ∃ k, bucketAt b s = some k ∧ (reduceOf k s = none ∨ k.scale = none))) → exec .bucketApply s = .next s) ∧
  (∀ (b : BitVec 32) (s : State) (v : Nat × Nat × Nat), s.relay.timers.find? (fun t => t.1 == b.toNat) = some v →
    ∃ r, exec (.bucketDeadlineExpiry b) s =
      .next (ctrlTo 4 (v.2.1, v.2.2) (bucketData b.toNat (epochNow s) []) (cutBucket b.toNat (epochNow s)) (snapOn R.RLY_CTL 0 5 bRLY r)) ∧
    Counted R.RLY_CUTS s r ∧ rbit R.RLY_EVT 0 r = true ∧ r.relay.timers = s.relay.timers.filter (fun t => t.1 != b.toNat) ∧
    { r with regs := s.regs, relay := s.relay } = s) ∧
  (∀ (b : BitVec 32) (s : State), s.relay.timers.find? (fun t => t.1 == b.toNat) = none → exec (.bucketDeadlineExpiry b) s = .next s) ∧
  (∀ (c : Nat) (s : State) (x : Started), runningCmd c .epochFence s = some x →
    (epochOf x.bytes = epochNow s → exec (.epochFence c) s = .next (markDone c s)) ∧
    (epochOf x.bytes ≠ epochNow s →
      let t := if x.begun then s else (openBuckets true s).foldl (fun t b => cutBucket b (epochNow t) t) (setProg c 0 s)
      (relayPending c t = true → exec (.epochFence c) s = .next t) ∧
      (relayPending c t = false → exec (.epochFence c) s =
        .next (markDone c (rset R.RLY_EPOCH (epochOf x.bytes) { t with relay := { t.relay with past := [] } })))))

/-! ### The manager's duties (chapter 15) -/

/-- R23, R253, R283 to R286, R298, R300, R354: how a domain forms and stays formed. A worker whose memories are ready answers JOIN, and has
joined when manager, stepping and firmware agree; the manager takes a JOINED device as present, except under a job once FORMED; formation
ends after KPR_FORM_TO. Heartbeats ping every present worker, and a worker that leaves three unanswered, or of which DOWN tells, has failed;
a failed device leaves KPR_PRESENT, and an active job enters RECOVERING. A worker that hears nothing makes the standby its manager, whose
PCIe link goes down and trains anew, or else disables its queues; a FATAL from its manager tells it of RECOVERING (log 143). A message that
is not there to be taken does nothing. -/
def Obligations.DomainsFormAndNoteFailures : Prop :=
  (∀ (p : Port) (m : Msg) (s : State), ∀ a ∈ [(0x10, Instr.join p m), (0x11, .joined p m), (0x12, .refuse p m), (0x13, .ping p m),
      (0x14, .mjoin p m), (0x15, .pong p m), (0x22, .down p m), (0x23, .fatal p m)],
    takeCtrl p.val a.1 m s = none → exec a.2 s = .next s) ∧
  (∀ s : State, isManager s = true → s.keeper.forming = true → rbit R.KPR_STAT 4 s = false → ∃ t, exec .formationEnd s = .next t ∧
    rbit R.KPR_STAT 4 t = true ∧ rbit R.KPR_EVT 0 t = true ∧ rbit R.HIF_BOOT 12 t = true ∧ t.keeper = { s.keeper with forming := false } ∧
    OnlyRegsAndIrq [R.KPR_STAT, R.KPR_EVT, R.HIF_BOOT] { s with keeper := t.keeper } t) ∧
  (∀ s : State, isManager s = false ∨ s.keeper.forming = false ∨ rbit R.KPR_STAT 4 s = true → exec .formationEnd s = .next s) ∧
  (∀ (p : Port) (m : Msg) (s t : State), s.boot.released = true → memoriesReady s = true → isManager s = false → takeCtrl p.val 0x10 m s = some t →
    let ok := u m.data 0 1 = myDom t ∧ u m.data 1 1 = managerDev t ∧ u m.data 2 1 = rbits R.HIF_IDENT 7 0 t ∧ u m.data 4 4 = t.naust.fwVersion
    (ok → exec (.join p m) s = .next (sendCtrl 0x11 m.srcDom.toNat m.srcDev.toNat (joinData t)
      (rset R.KPR_PRESENT (rget R.KPR_EXPECT t) { t with keeper := { t.keeper with joined := true } }))) ∧
    (¬ ok → exec (.join p m) s = .next (sendCtrl 0x12 m.srcDom.toNat m.srcDev.toNat (joinData t) t))) ∧
  (∀ (p : Port) (m : Msg) (s : State), s.boot.released = false ∨ memoriesReady s = false ∨ isManager s = true → exec (.join p m) s = .next s) ∧
  (∀ (p : Port) (m : Msg) (s t : State), takeCtrl p.val 0x11 m s = some t →
    let d := m.srcDev.toNat
    let takes := isManager t = true ∧ expected d t = true ∧ m.srcDom.toNat = myDom t ∧ ¬ (rbit R.KPR_STAT 4 t = true ∧ jobState t ≠ 0)
    (takes → ∃ y r, present d y = true ∧ rbit R.KPR_FAILED d y = false ∧ { y with regs := t.regs, keeper := t.keeper } = t ∧
      r = ((List.range 64).filter (fun e => match secondHop e y with | some (v, _) => v == d | none => false)).foldl
        (fun t e => sendJoin e t) y ∧
      exec (.joined p m) s = .next (if r.keeper.forming && allJoined r then formationDone r else r)) ∧
    (¬ takes → exec (.joined p m) s = .next t)) ∧
  (∀ (p : Port) (m : Msg) (s t : State), takeCtrl p.val 0x12 m s = some t →
    (isManager t = true → ∃ r, exec (.refuse p m) s = .next r ∧ rbit R.KPR_EVT 2 r = true ∧ OnlyRegs [R.KPR_EVT] t r) ∧
    (isManager t = false → exec (.refuse p m) s = .next t)) ∧
  (∀ (p : Port) (m : Msg) (s : State), s.keeper.joined = false → exec (.ping p m) s = .next s) ∧
  (∀ (p : Port) (m : Msg) (s t : State), s.keeper.joined = true → takeCtrl p.val 0x13 m s = some t →
    exec (.ping p m) s = .next (sendCtrl 0x15 m.srcDom.toNat m.srcDev.toNat (joinData t) t)) ∧
  (∀ (p : Port) (m : Msg) (s t : State), takeCtrl p.val 0x15 m s = some t → ∃ r, exec (.pong p m) s = .next r ∧
    AL.get 0 m.srcDev.toNat r.keeper.missed = 0 ∧ (∀ d, d ≠ m.srcDev.toNat → AL.get 0 d r.keeper.missed = AL.get 0 d t.keeper.missed) ∧
    { r with keeper := t.keeper } = t) ∧
  (∀ (p : Port) (m : Msg) (s : State), s.boot.released = false → exec (.mjoin p m) s = .next s) ∧
  (∀ (p : Port) (m : Msg) (s t : State), s.boot.released = true → takeCtrl p.val 0x14 m s = some t →
    (isManager t = false → exec (.mjoin p m) s = .next (sendCtrl 0x14 (myDom t) (managerDev t) m.data t)) ∧
    (isManager t = true → u m.data 0 1 ≤ 10 → rbit R.KPR_MACHINE (u m.data 0 1) t = false → exec (.mjoin p m) s =
      .next (sendCtrl 0x14 (u m.data 0 1) (u m.data 1 1) (joinData t) (showLead (rsetBit R.KPR_MACHINE (u m.data 0 1) t)))) ∧
    (isManager t = true → 10 < u m.data 0 1 ∨ rbit R.KPR_MACHINE (u m.data 0 1) t = true → exec (.mjoin p m) s = .next t)) ∧
  (∀ s : State, isManager s = true → s.boot.released = true →
    let t := ((List.range 64).filter (fun d => present d s && d != myDev s)).foldl beatDevice s
    exec .heartbeat s = .next (if t.keeper.forming then (List.range 64).foldl (fun t d => sendJoin d t) t else t)) ∧
  (∀ (s : State) (d : Nat), (3 ≤ AL.get 0 d s.keeper.missed → beatDevice s d = deviceFailed d s) ∧
    (AL.get 0 d s.keeper.missed < 3 → ∃ r, beatDevice s d = sendCtrl 0x13 (myDom s) d (joinData s) r ∧
      AL.get 0 d r.keeper.missed = AL.get 0 d s.keeper.missed + 1 ∧ { r with keeper := s.keeper } = s)) ∧
  (∀ (s : State) (d : Nat), d < 64 →
    (present d s = false ∨ d = myDev s → failOne d s = s) ∧
    (present d s = true → d ≠ myDev s → rbit R.KPR_CTL 1 s = false →
      ∃ r, present d r = false ∧ rbit R.KPR_FAILED d r = true ∧ rbit R.KPR_EVT 1 r = true ∧
      OnlyRegsAndIrq [R.KPR_PRESENT, R.KPR_FAILED, R.KPR_EVT] s r ∧
      (jobState s = 0 → failOne d s = r) ∧ (jobState s ≠ 0 → failOne d s = recovering (stopAll stJobFatal r)))) ∧
  (∀ s : State, isManager s = false ∨ s.boot.released = false → exec .heartbeat s = .next s) ∧
  (∀ s : State, isManager s = false → s.keeper.joined = true →
    let r : State := { s with keeper := { s.keeper with tookOver := true } }
    (64 ≤ standbyDev s ∨ s.keeper.tookOver = true → exec .managerSilence s = .next (jobQueues.foldl (fun t q => queueDisable q t) s)) ∧
    (standbyDev s < 64 → s.keeper.tookOver = false → myDev s ≠ standbyDev s → exec .managerSilence s = .next (loseJob r)) ∧
    (standbyDev s < 64 → s.keeper.tookOver = false → myDev s = standbyDev s → ∃ t,
      exec .managerSilence s = .next (deviceFailed (managerDev s) t) ∧ isManager t = true ∧ rbit R.KPR_STAT 5 t = true ∧
      t.pcie.training = true ∧ rget R.HIF_LINKSTAT t = 0 ∧ t.pcie.cfg = [] ∧ t.pcie.msix = [] ∧ t.mem = s.mem)) ∧
  (∀ s : State, (jobState s = 0 ∨ jobState s = jobRecovering → loseJob s = s) ∧
    (jobState s ≠ 0 → jobState s ≠ jobRecovering → jobState (loseJob s) = jobRecovering ∧
      loseJob s = rsetBits R.KPR_STAT 2 0 jobRecovering (closeInterval 8 (stopAll stJobFatal s)))) ∧
  (∀ s : State, isManager s = true ∨ s.keeper.joined = false → exec .managerSilence s = .next s) ∧
  (∀ (p : Port) (m : Msg) (s t : State), takeCtrl p.val 0x22 m s = some t →
    (isManager t = false ∨ u m.data 1 1 ≠ myDom t → exec (.down p m) s = .next t) ∧
    (isManager t = true → u m.data 1 1 = myDom t → u m.data 3 1 = 1 → exec (.down p m) s = .next (deviceFailed (u m.data 0 1) t)) ∧
    (isManager t = true → u m.data 1 1 = myDom t → u m.data 3 1 ≠ 1 →
      exec (.down p m) s = .next (routeLost (u m.data 0 1) (u m.data 2 1) t))) ∧
  (∀ (p : Port) (m : Msg) (s t : State), takeCtrl p.val 0x23 m s = some t →
    (isManager t = true → exec (.fatal p m) s = .next (recovering (stopAll stJobFatal (raiseVector 130 t)))) ∧
    (isManager t = false → (m.srcDom.toNat ≠ myDom t ∨ m.srcDev.toNat ≠ managerDev t) → exec (.fatal p m) s = .next t) ∧
    (isManager t = false → m.srcDom.toNat = myDom t → m.srcDev.toNat = managerDev t → exec (.fatal p m) s = .next (loseJob t)))

/-- R275, R287 to R297, R299: job control, on KQ0 or, handed on, on a worker that has joined or a manager that another leads, which
then refuses its own KQ0's (log 180). A job starts under a layout that
passes its checks: the layout and its result table are in force and QFE_JOB holds the tag; otherwise it fails with the check's cause. It
ends once its queues are DISABLED. It is suspended once its queues stand at yield points, and resumes from a sound image only. RESHARD,
REMAP and CHECKPOINT take their steps in turn, and wait for what they have sent. The shares of R291 hold every item exactly once, in order. -/
def Obligations.JobsStartSuspendAndMove : Prop :=
  (∀ s : State, ∀ a ∈ [(Instr.jobStart, Op.jobStart, jobStartRun), (.jobRelease, .jobRelease, jobReleaseRun), (.jobEnd, .jobEnd, jobEndRun),
      (.jobSuspend, .jobSuspend, jobSuspendRun), (.jobResume, .jobResume, jobResumeRun), (.reshard, .reshard, reshardRun),
      (.remap, .remap, remapRun), (.checkpoint, .checkpoint, checkpointRun), (.meterCollect, .meterCollect, meterCollectRun)],
    (∀ c, runningCmd c a.2.1 s = none → exec (a.1 (.started c)) s = .next s) ∧
    (∀ c x, runningCmd c a.2.1 s = some x → exec (a.1 (.started c)) s = .next (a.2.2 x s)) ∧
    (∀ h, (takesHanded s = false ∨ opOfBytes h ≠ some a.2.1) → exec (a.1 (.handed h)) s = .next s) ∧
    (∀ h, takesHanded s = true → opOfBytes h = some a.2.1 → let y := handedCmd h s
      exec (a.1 (.handed h)) s = .next (noteLead (dropHanded y.1.id (a.2.2 y.1 y.2)))) ∧
    (isManager s = false → takesHanded s = s.keeper.joined) ∧
    (isManager s = true → takesHanded s = (decide (1 < popCount 11 (rbits R.KPR_MACHINE 10 0 s)) && !rbit R.KPR_STAT 6 s))) ∧
  (∀ s : State, (isManager s = false → noteLead s = s) ∧
    (isManager s = true → (noteLead s).keeper.leadJob = rget R.QFE_JOB s ∧ { noteLead s with keeper := s.keeper } = s)) ∧
  (∀ s : State, isManager s = true → 1 < popCount 11 (rbits R.KPR_MACHINE 10 0 s) → rbit R.KPR_STAT 6 s = false →
    s.keeper.leadJob ≠ 0 → s.keeper.leadJob = rget R.QFE_JOB s → ∀ (c : Nat) (f : Flight) (b : Bytes),
    ∀ o ∈ [Op.jobStart, .jobSuspend, .jobResume, .jobRelease, .jobEnd, .reshard, .remap, .checkpoint, .meterCollect],
      f.jobTag = rget R.QFE_JOB s → stateCause c f o b s = some 0x0006) ∧
  (∀ (x : Started) (s : State),
    (∀ k t, layFails x.bytes s = (some k, t) → jobStartRun x s = failCmd x.id bKPR k 0 t) ∧
    (∀ t, layFails x.bytes s = (none, t) → t = s ∧ jobStartRun x s = markDone x.id (enableRings (changeJob 1 (u x.bytes 16 4) 1
      (putLayout x.bytes (Lay.parse (layNamed x.bytes s)).freshRuns s))))) ∧
  (∀ (cause tag job : Nat) (s : State), job < 8 → rget R.QFE_JOB (changeJob cause tag job s) = tag ∧ jobState (changeJob cause tag job s) = job) ∧
  (∀ (b : Bytes) (runs : List (Nat × Nat × Nat)) (s : State), (putLayout b runs s).keeper.layout = layNamed b s ∧
    (putLayout b runs s).keeper.runs = runs ∧ (isManager s = false → { putLayout b runs s with keeper := s.keeper } = s) ∧
    (isManager s = true → layAddr b + 64 * 65 ≤ stackedEnd → ∀ a, byteAt a (putLayout b runs s) =
      if layAddr b + 64 ≤ a ∧ a < layAddr b + 64 * 65 then ((Lay.parse (readBytes s (layAddr b) 64)).table runs).getD (a - (layAddr b + 64)) 0
      else byteAt a s)) ∧
  (∀ n k : Nat, 0 < k → (List.range k).flatMap (fun c => (List.range (divideItems n k c).2).map (· + (divideItems n k c).1)) = List.range n) ∧
  (∀ (x : Started) (s : State), jobReleaseRun x s = markDone x.id (rejoin (changeJob 4 0 0 (disableRings s)))) ∧
  (∀ (x : Started) (s : State), let t := disableRings s
    ((∀ q < 44, qState q t = 0) → jobEndRun x s = markDone x.id (rejoin (changeJob 5 0 0 t))) ∧
    ((∃ q < 44, qState q t ≠ 0) → jobEndRun x s = failCmd x.id bKPR 0x01B7 0 t) ∧ (isManager s = true → t = s)) ∧
  (∀ (x : Started) (s : State),
    let rs := rangeList x.bytes s
    let len := rs.foldl (fun n r => n + r.2) 0
    let t := jobQueues.foldl stopAtYield (setJob 2 s)
    (x.begun = false → ∀ e, firstUnreached s (layAddr x.bytes) (32 * nRanges x.bytes) = some e →
      jobSuspendRun x s = failCmd x.id bKPR (reachCause s e) 0 (captureReach e s)) ∧
    (x.begun = false → firstUnreached s (layAddr x.bytes) (32 * nRanges x.bytes) = none → imageRefused (imageAddr x.bytes) (imageTotal len s) s = true →
      jobSuspendRun x s = failCmd x.id bKPR 0x01B4 0 s) ∧
    (x.begun = false → firstUnreached s (layAddr x.bytes) (32 * nRanges x.bytes) = none → imageRefused (imageAddr x.bytes) (imageTotal len s) s = false →
      jobSuspendRun x s = setProg x.id 1 (if isManager t then cutAllOpen t else t)) ∧
    (x.begun = true → allAtYield s = true → relayPending x.id s = false → jobSuspendRun x s =
      markDone x.id (setJob 3 (closeInterval 2 (writeImage (imageAddr x.bytes) rs (jobQueues.foldl suspendQueue s))))) ∧
    (x.begun = true → (allAtYield s = false ∨ relayPending x.id s = true) → jobSuspendRun x s = s)) ∧
  (∀ s : State, let f := fun x : Started => x.state == .running && x.begun && opOfBytes x.bytes == some .jobSuspend
    (rbits R.KPR_SUSP_TO 15 0 s = 0 ∨ s.started.find? f = none → exec .suspendTimeout s = .next s) ∧
    (∀ x, rbits R.KPR_SUSP_TO 15 0 s ≠ 0 → s.started.find? f = some x →
      exec .suspendTimeout s = .next (dropHandedFail x (failCmd x.id bKPR 0x01B3 0 (setJob 1 (jobQueues.foldl releaseYield s)))))) ∧
  (∀ (x : Started) (s : State),
    (soundImage (imageAddr x.bytes) s = none → jobResumeRun x s =
      failCmd x.id bKPR 0x0145 0 (jobQueues.foldl (fun t q => if qState q t = 0 then t else disableQueue q t) s)) ∧
    (∀ g rs, soundImage (imageAddr x.bytes) s = some (g, rs) → jobResumeRun x s =
      markDone x.id (changeJob 3 g.jobTag 1 (restoreImage (imageAddr x.bytes) g rs s)))) ∧
  (∀ (a : Nat) (s : State) (g : SavedImage) (rs : List (Nat × Nat × Nat)), soundImage a s = some (g, rs) →
    inSpill a 65536 = true ∧ poisoned s a 16384 = false ∧ readNat s a 4 = 1 ∧ g.jobTag = readNat s (a + 4) 4 ∧
    (rget R.QFE_JOB s = 0 ∨ rget R.QFE_JOB s = g.jobTag) ∧ rs = imageRanges a s ∧ rangesIntact s (a + 65536) rs = true ∧
    crc64 (patch (readBytes s a 256) 24 (leBytes 8 0)) = u (readBytes s a 256) 24 8) ∧
  (∀ (e : Nat) (x : Started) (ds : State → List Nat) (send finish : State → State) (s : State),
    (x.prog = 2 → (quiet 0 s.keeper.marks s = true → fencedRun e x ds send finish s = markDone x.id (finish s)) ∧
      (quiet 0 s.keeper.marks s = false → fencedRun e x ds send finish s = s)) ∧
    (x.prog ≠ 2 → (e ≠ epochNow s → relayPending x.id s = true → fencedRun e x ds send finish s = s) ∧
      (e = epochNow s ∨ relayPending x.id s = false →
        let t := if e = epochNow s then s else rset R.RLY_EPOCH e s
        let r := awaitSent x.id (ds t) 0 peerSize (setProg x.id 2 (send t))
        (∀ p l, lostPorts (ds t) t = p :: l → fencedRun e x ds send finish s = failCmd x.id bKPR 0x0190 p t) ∧
        (lostPorts (ds t) t = [] → quiet 0 r.keeper.marks r = true → fencedRun e x ds send finish s = markDone x.id (finish r)) ∧
        (lostPorts (ds t) t = [] → quiet 0 r.keeper.marks r = false → fencedRun e x ds send finish s = r)))) ∧
  (∀ (x : Started) (s : State),
    let e := u x.bytes 16 2
    let runs := (Lay.parse (layNamed x.bytes s)).freshRuns
    (x.begun = true → reshardRun x s = fencedRun e x (fun t => unitTargets (unitsOfDev (myDev t) t.keeper.runs) runs t)
      (fun t => moveUnits t.keeper.runs runs t) (putLayout x.bytes runs) s) ∧
    (x.begun = false → (∀ k t, layFails x.bytes s = (some k, t) → reshardRun x s = failCmd x.id bKPR k 0 t) ∧
      (∀ t, layFails x.bytes s = (none, t) →
        reshardRun x s = reshardRun { x with begun := true, prog := 1 } (fenceCut e (setProg x.id 1 t))))) ∧
  (∀ (x : Started) (s : State),
    let e := u x.bytes 16 2
    let g := s.keeper.committed.getD 0
    let gen := AL.get {} g s.keeper.gens
    let runs := remapRuns (Lay.parse (layNamed x.bytes s)) gen.runs
    (x.begun = true → remapRun x s = fencedRun e x (fun t => unitTargets ((unitsToRestore g gen t).map (·.1)) runs t) (restoreUnits g gen runs)
      (fun t => setJob 1 (closeInterval 6 (putLayout x.bytes runs t))) s) ∧
    (x.begun = false → (∀ k t, layFails x.bytes s = (some k, t) → remapRun x s = failCmd x.id bKPR k 0 t) ∧
      (∀ t, layFails x.bytes s = (none, t) → cannotRestore t = true → remapRun x s = failCmd x.id bKPR 0x01B5 0 t) ∧
      (∀ t, layFails x.bytes s = (none, t) → cannotRestore t = false →
        remapRun x s = remapRun { x with begun := true, prog := 1 } (fenceCut e (setProg x.id 1 t))))) ∧
  (∀ (x : Started) (s : State),
    let t := jobQueues.foldl stopAtYield s
    let step := u x.bytes 16 4
    (x.begun = false → ∀ k, checkpointFails s = some k → checkpointRun x s = failCmd x.id bKPR k 0 s) ∧
    (x.begun = false → checkpointFails s = none → checkpointRun x s = setProg x.id 1 (if isManager t then cutAllOpen t else t)) ∧
    (x.begun = true → x.prog = 1 → (allAtYield s = false ∨ relayPending x.id s = true) → checkpointRun x s = s) ∧
    (x.begun = true → x.prog = 1 → allAtYield s = true → relayPending x.id s = false → checkpointRun x s =
      mirrorRun x.id (olderGen s) step (setProg x.id 2 (jobQueues.foldl releaseYield (copyGeneration (olderGen s) s)))) ∧
    (x.begun = true → x.prog ≠ 1 → quiet 0 s.keeper.marks s = false → checkpointRun x s = s) ∧
    (x.begun = true → x.prog ≠ 1 → quiet 0 s.keeper.marks s = true → startedAt x.id s = some x → x.state = .running →
      ∃ t, checkpointRun x s = t ∧ t.keeper.committed = some (olderGen s) ∧ rget R.KPR_CKPT_STEP t = step % 2 ^ 31 + olderGen s * 2 ^ 31 ∧
      startedAt x.id t = some { x with state := .done } ∧ rbit R.KPR_EVT 4 t = true ∧ t.mem = s.mem))

/-! ### The codec engine (chapter 16) -/

/-- R306 to R309, R314, R315: CDC_OPEN opens a context that is not open, with the memory it needs; CDC_CLOSE closes it after every earlier
command of it. CDC_DECODE notes the pictures that its access unit gives, from a random access point on; CDC_ENCODE notes one access unit at
the QP that R314 chooses; CDC_FLUSH notes those still held. An output waits for FREE_MARKER once OUT_SLOTS are in use; written, it counts in
FRAME_MARKER (unless a reset has muted its command, R22) and in CDC_Vnn_OUT, and the command is complete with its last. Poison in its
input, a stream that the standard does not allow, and sizes beyond the context's fail it. -/
def Obligations.CodecContextsDecodeAndEncode : Prop :=
  (∀ (c : Nat) (s : State), ∀ a ∈ [(Instr.cdcOpen c, Op.cdcOpen), (.cdcClose c, .cdcClose), (.cdcDecode c, .cdcDecode), (.cdcEncode c, .cdcEncode),
      (.cdcFlush c, .cdcFlush)], runningCmd c a.2 s = none → exec a.1 s = .next s) ∧
  (∀ (c : Nat) (s : State) (y : Started), ∀ a ∈ [(Instr.cdcDecode c, Op.cdcDecode, some false), (.cdcEncode c, .cdcEncode, some true),
      (.cdcFlush c, .cdcFlush, none)], runningCmd c a.2.1 s = some y →
    (y.begun = true ∨ codecTurn (ctxOf y.bytes) c s = false → exec a.1 s = .next s) ∧
    (y.begun = false → codecTurn (ctxOf y.bytes) c s = true → ∀ k, ctxRefuses y a.2.2 s = some k →
      exec a.1 s = .next (failCmd c bCDC k (ctxOf y.bytes) s))) ∧
  (∀ (c : Nat) (s : State) (y : Started), runningCmd c .cdcOpen s = some y → codecTurn (ctxOf y.bytes) c s = false →
    exec (.cdcOpen c) s = .next s) ∧
  (∀ (c : Nat) (s : State) (y : Started), runningCmd c .cdcOpen s = some y → codecTurn (ctxOf y.bytes) c s = true →
    let v := ctxOf y.bytes
    let k := CU.parse y.bytes
    (ctxOpen v s = true → exec (.cdcOpen c) s = .next (failCmd c bCDC 0x01C0 v s)) ∧
    (ctxOpen v s = false → k.workMib < k.need → exec (.cdcOpen c) s = .next (failCmd c bCDC 0x01C5 v (rset (R.CDC_Vnn_NEED v) k.need s))) ∧
    (ctxOpen v s = false → k.need ≤ k.workMib → ∃ t, exec (.cdcOpen c) s = .next t ∧
      codecx v t = { isOpen := true, mode := k.mode, q := y.q, units := y.bytes } ∧ rget (R.CDC_Vnn_NEED v) t = k.need ∧
      (∀ w, w ≠ v → codecx w t = codecx w s) ∧ startedAt c t = some { y with state := .done } ∧ t.mem = s.mem)) ∧
  (∀ (c : Nat) (s : State) (y : Started), runningCmd c .cdcClose s = some y →
    (codecBefore (ctxOf y.bytes) c s ≠ [] → exec (.cdcClose c) s = .next s) ∧
    (codecBefore (ctxOf y.bytes) c s = [] → (∀ k, ctxRefuses y none s = some k → exec (.cdcClose c) s = .next (failCmd c bCDC k (ctxOf y.bytes) s))) ∧
    (codecBefore (ctxOf y.bytes) c s = [] → ctxRefuses y none s = none → ∃ t, exec (.cdcClose c) s = .next t ∧ codecx (ctxOf y.bytes) t = {} ∧
      rget (R.CDC_Vnn_STAT (ctxOf y.bytes)) t = 0 ∧ startedAt c t = some { y with state := .done } ∧
      { t with regs := s.regs, codecs := s.codecs, started := s.started } = s)) ∧
  (∀ (y : Started) (dir : Option Bool) (s : State),
    ((codecx (ctxOf y.bytes) s).isOpen = false → ctxRefuses y dir s = some 0x0004) ∧
    ((codecx (ctxOf y.bytes) s).isOpen = true → (codecx (ctxOf y.bytes) s).q ≠ y.q → ctxRefuses y dir s = some 0x01C4) ∧
    ((codecx (ctxOf y.bytes) s).isOpen = true → (codecx (ctxOf y.bytes) s).q = y.q → (dir = none → ctxRefuses y dir s = none) ∧
      (∀ e, dir = some e → ctxRefuses y dir s = if ((codecx (ctxOf y.bytes) s).mode == 2) = e then none else some 0x01C3))) ∧
  (∀ (c : Nat) (s : State) (y : Started), runningCmd c .cdcDecode s = some y → y.begun = false → codecTurn (ctxOf y.bytes) c s = true →
    ctxRefuses y (some false) s = none →
    (∀ e, firstUnreached s (codecAddr y.bytes) (u y.bytes 24 4) = some e →
      exec (.cdcDecode c) s = .next (failCmd c bCDC (reachCause s e) (ctxOf y.bytes) (captureReach e s))) ∧
    (firstUnreached s (codecAddr y.bytes) (u y.bytes 24 4) = none →
    let v := ctxOf y.bytes
    let x := codecx v s
    let au := readBytes s (codecAddr y.bytes) (u y.bytes 24 4)
    let rap := dec x.mode au 1 0 0 ≠ 0
    let hist := if rap then [au] else x.hist ++ [au]
    let bad := poisoned s (codecAddr y.bytes) (u y.bytes 24 4) = true ∨ workPoisoned x s = true
    let n := (dec x.mode hist.flatten 2 0 0).toNat % 64
    (bad → exec (.cdcDecode c) s = .next (codecError v c 0x01C6 s)) ∧
    (¬ bad → x.hist = [] → ¬ rap → exec (.cdcDecode c) s = .next (codecError v c 0x01C2 s)) ∧
    (¬ bad → x.hist ≠ [] ∨ rap → dec x.mode hist.flatten 0 0 0 ≠ 0 → ∃ t, (codecx v t).hist = [] ∧ t.mem = s.mem ∧
      exec (.cdcDecode c) s = .next (codecError v c 0x01C1 t)) ∧
    (¬ bad → x.hist ≠ [] ∨ rap → dec x.mode hist.flatten 0 0 0 = 0 → (dec x.mode hist.flatten 3 0 0 ≠ 0 ∨
      ∃ i < n, (CU.parse x.units).w < (picSize (CU.parse x.units) hist.flatten i).1 ∨ (CU.parse x.units).h < (picSize (CU.parse x.units) hist.flatten i).2) →
      ∃ t, t.mem = s.mem ∧ exec (.cdcDecode c) s = .next (failCmd c bCDC 0x01C5 v t)) ∧
    (¬ bad → x.hist ≠ [] ∨ rap → dec x.mode hist.flatten 0 0 0 = 0 → dec x.mode hist.flatten 3 0 0 = 0 →
      (∀ i < n, (picSize (CU.parse x.units) hist.flatten i).1 ≤ (CU.parse x.units).w ∧ (picSize (CU.parse x.units) hist.flatten i).2 ≤ (CU.parse x.units).h) →
      ∃ t, exec (.cdcDecode c) s = .next t ∧ (codecx v t).hist = hist ∧
      (codecx v t).outs = x.outs ++ (List.range n).map (fun i => { c := c, stream := hist.flatten, k := i }) ∧
      startedAt c t = some (if n = 0 then { y with state := .done } else { y with begun := true, prog := 0 }) ∧ t.mem = s.mem))) ∧
  (∀ (c : Nat) (s : State) (y : Started), runningCmd c .cdcEncode s = some y → y.begun = false → codecTurn (ctxOf y.bytes) c s = true →
    ctxRefuses y (some true) s = none →
    let v := ctxOf y.bytes
    let x := codecx v s
    let k := CU.parse x.units
    let intra := x.coded % k.gop == 0 || bitAt (u y.bytes 22 1) 0
    let qp := chooseQp k x intra
    let hist := (if intra then [] else x.hist) ++ [leBytes 1 qp ++ readBytes s (codecAddr y.bytes) (sourceSize k)]
    (∀ e, firstUnreached s (codecAddr y.bytes) (sourceSize k) = some e →
      exec (.cdcEncode c) s = .next (failCmd c bCDC (reachCause s e) v (captureReach e s))) ∧
    (firstUnreached s (codecAddr y.bytes) (sourceSize k) = none →
      (poisoned s (codecAddr y.bytes) (sourceSize k) = true ∨ workPoisoned x s = true → exec (.cdcEncode c) s = .next (codecError v c 0x01C6 s)) ∧
      (poisoned s (codecAddr y.bytes) (sourceSize k) = false → workPoisoned x s = false →
        (k.bsMib * 2 ^ 20 / k.slots < auLen k v qp intra hist.flatten →
          exec (.cdcEncode c) s = .next (failCmd c bCDC 0x01C7 v (spoilWork x s))) ∧
        (auLen k v qp intra hist.flatten ≤ k.bsMib * 2 ^ 20 / k.slots → ∃ t, exec (.cdcEncode c) s = .next t ∧
          (codecx v t).coded = x.coded + 1 ∧ (codecx v t).hist = hist ∧ (codecx v t).outs.length = x.outs.length + 1 ∧
          startedAt c t = some { y with begun := true, prog := 0 } ∧ t.mem = s.mem)))) ∧
  (∀ (k : CU) (x : CodecX) (intra : Bool), k.cap = 0 →
    (chooseQp k x intra : Int) = min 51 (max 0 ((k.cq : Int) + if intra then k.iOff else 0))) ∧
  (∀ (c : Nat) (s : State) (y : Started), runningCmd c .cdcFlush s = some y → y.begun = false → codecTurn (ctxOf y.bytes) c s = true →
    ctxRefuses y none s = none →
    ((codecx (ctxOf y.bytes) s).mode = 2 → exec (.cdcFlush c) s = .next (markDone c s)) ∧
    ((codecx (ctxOf y.bytes) s).mode ≠ 2 → ∃ t, exec (.cdcFlush c) s = .next t ∧ (codecx (ctxOf y.bytes) t).hist = [] ∧
      rbit (R.CDC_Vnn_STAT (ctxOf y.bytes)) 6 t = true ∧ { t with regs := s.regs, codecs := s.codecs, started := s.started } = s)) ∧
  (∀ (v : Ctx) (s : State) (o : CodecOut) (rest : List CodecOut), liveOuts s (codecx v.val s).outs = o :: rest →
    let k := CU.parse (codecx v.val s).units
    let n := (codecx v.val s).next
    let waits := k.slots ≤ n ∧ satisfied (markerCount k.freeM s) (k.freeB + n - k.slots + 1) = false
    let t := rclrBit (R.CDC_Vnn_STAT v.val) 7 s
    let w := if (codecx v.val s).mode = 2 then writeEncoded v.val k n o t else writeDecoded k n o t
    let r := addFlags o.c (w.flags % 4) w.s
    let held := ∃ y, startedAt o.c s = some y ∧ outsHeld y s = true
    (held → exec (.codecOutput v) s = .next s) ∧
    (¬ held → waits → ∃ q, exec (.codecOutput v) s = .next q ∧ rbit (R.CDC_Vnn_STAT v.val) 7 q = true ∧ OnlyRegs [R.CDC_Vnn_STAT v.val] s q) ∧
    (¬ held → ¬ waits → ∀ e, w.cause = some e → exec (.codecOutput v) s = .next (failCmd o.c bCDC e v.val
      (setCodecx v.val { codecx v.val s with outs := rest.filter (fun r => r.c != o.c) } r))) ∧
    (¬ held → ¬ waits → w.cause = none → ∃ q, exec (.codecOutput v) s = .next q ∧ (codecx v.val q).next = n + 1 ∧ (codecx v.val q).outs = rest ∧
      rget (R.CDC_Vnn_OUT v.val) q = (rget (R.CDC_Vnn_OUT v.val) r + 1) % 2 ^ 32 ∧
      (∀ x, startedAt o.c r = some x → ∀ m, markerCount m q =
        if m = k.frameM ∧ x.muted = false then (markerCount m r + 1) % 2 ^ 32 else markerCount m r) ∧
      (rest.any (fun z => z.c == o.c) = false → ∀ x, startedAt o.c r = some x → x.state = .running →
        startedAt o.c q = some { x with state := .done }))) ∧
  (∀ (v : Ctx) (s : State), liveOuts s (codecx v.val s).outs = [] → exec (.codecOutput v) s = .next s)

/-! ### Power, clocks and tokens (chapter 17) -/

/-- R317 to R328, Tables 17.1 and 17.3: an input sample shows in PWR_INPUT and joins the meter; an input below 40 V for 1 ms forces Neap, one
out of range for 50 us is an emergency. NEAP_REQ moves the module between Spring and Neap; rest puts it into Slack with its domains off.
A reading of the coolant at T_IN_MAX forces Neap; one of a die at T_HOLD begins a hold, which is sent to every group; one at T_CRIT, or a
hold that outlasts PWR_HOLD_TO, is an emergency. A wake that is done has its domain on, a stack's only with its interface's tokens; entry
to Holdfast ends with the domains of Table 17.1 off. In which domain a sensor of a list stands is the model's choice (log 59). -/
def Obligations.PowerFollowsItsReadings : Prop :=
  (∀ (i : InputSample) (s : State), ∃ t, exec (.inputSample i) s = .next
      (if t.power.under38 = 5 ∨ t.power.over52 = 5 then emergency hfInput 0 t else t) ∧
    t.power.under40 = (if i.mV.toNat < 40000 then s.power.under40 + 1 else 0) ∧ t.power.under38 = (if i.mV.toNat < 38000 then s.power.under38 + 1 else 0) ∧
    t.power.over52 = (if 52000 < i.mV.toNat then s.power.over52 + 1 else 0) ∧
    t.power.overCeil = (if rget R.PWR_CEIL_W s < i.watt.toNat then s.power.overCeil + 1 else 0) ∧
    rget R.PWR_INPUT t = i.mV.toNat + (i.amps.toNat <<< 16) + (i.watt.toNat <<< 32) ∧
    (100 ≤ t.power.under40 → rbit R.PWR_STAT 4 t = true ∧ (pwrState s ≤ 1 → pwrState t = 1)) ∧
    (1000 ≤ t.power.overCeil → rbit R.PWR_STAT 6 t = true ∧ (pwrState s ≤ 1 → pwrState t = 1)) ∧
    t.naust.energy = s.naust.energy + i.mV.toNat * i.amps.toNat ∧ t.mem = s.mem) ∧
  (∀ (b : Bool) (s : State), ∃ t, exec (.neapReq b) s = .next t ∧ rbit R.PWR_CTL 0 t = b ∧ (b = true → pwrState s = 0 → pwrState t = 1) ∧
    (b = false → pwrState s = 1 → rbits R.PWR_STAT 6 4 s = 0 → pwrState t = 0) ∧ (2 ≤ pwrState s → pwrState t = pwrState s) ∧
    (∀ n < 72, clkTarget n t = clkTarget n s) ∧ t.mem = s.mem) ∧
  (∀ s : State,
    ((pwrState s = 0 ∨ pwrState s = 1) → rbit R.PWR_CTL 1 s = true → atRest s = true → ∃ t, exec .slackEntry s = .next t ∧ pwrState t = 2 ∧
      (∀ d ∈ slackDomains, domainOn d t = false ∧ d ∉ t.power.waking) ∧ rbit R.SPL_STAT 2 t = true ∧ rbit R.PWR_EVT 0 t = true ∧ t.mem = s.mem) ∧
    (2 ≤ pwrState s ∨ rbit R.PWR_CTL 1 s = false ∨ atRest s = false → exec .slackEntry s = .next s)) ∧
  (∀ (r : SensorReading) (s : State), ∃ v, v = takeReadings r s ∧
    exec (.sensorRead r) s = .next (thermalEmergency r (shownMax s, rbits R.PWR_TEMP 31 24 s) (holdByReadings (dieReadings r) v)) ∧
    rbits R.PWR_TEMP 7 0 v = maxOf r.cd0 % 256 ∧ rbits R.PWR_TEMP 15 8 v = maxOf r.cd1 % 256 ∧ rbits R.PWR_TEMP 23 16 v = maxOf r.hd % 256 ∧
    rbits R.PWR_TEMP 31 24 v = r.inlet % 256 ∧
    (tInMax s ≤ r.inlet → rbit R.PWR_STAT 5 v = true ∧ (pwrState s ≤ 1 → pwrState v = 1) ∧ (rbit R.PWR_STAT 5 s = false → rbit R.PWR_EVT 4 v = true)) ∧
    rbit R.PWR_STAT 7 v = rbit R.PWR_STAT 7 s ∧ v.mem = s.mem ∧ v.started = s.started ∧ v.relay = s.relay) ∧
  (∀ (n r : Nat) (s : State), n < 64 →
    (tThr s ≤ r → AL.get 44 n (throttleCore s (n, r)).power.throttle = stepDown (min (AL.get 44 n s.power.throttle) (clkCurrent n s))) ∧
    (r < tThr s → tThr s < r + tHyst s → AL.get 44 n (throttleCore s (n, r)).power.throttle = AL.get 44 n s.power.throttle)) ∧
  (∀ (ds : List Nat) (v : State), inHoldfast v = false →
    (rbit R.PWR_STAT 7 v = false → (∃ x ∈ ds, tHold v ≤ x) → holdByReadings ds v = beginHold v) ∧
    (rbit R.PWR_STAT 7 v = false → (∀ x ∈ ds, x < tHold v) → holdByReadings ds v = v) ∧
    (rbit R.PWR_STAT 7 v = true → (∀ x ∈ ds, x + tHyst v ≤ tHold v) → holdByReadings ds v = endHold v) ∧
    (rbit R.PWR_STAT 7 v = true → (∃ x ∈ ds, tHold v < x + tHyst v) → holdByReadings ds v = v)) ∧
  (∀ v : State, rbit R.PWR_CTL 3 v = false → ∃ u, beginHold v = spreadHold 6 (myDom v, myDev v, v.relay.holdNum) u ∧ rbit R.PWR_STAT 7 u = true ∧
    Counted R.PWR_HOLDS v u ∧ rbit R.PWR_EVT 1 u = true ∧ u.relay.holds = v.relay.holds ++ [(myDom v, myDev v, v.relay.holdNum)] ∧
    enginesHeld u = true ∧ u.mem = v.mem) ∧
  (∀ (r : SensorReading) (b : Nat × Nat) (v : State), inHoldfast v = false →
    (∀ i, (dieReadings r).findIdx? (fun x => decide (tCrit v ≤ x)) = some i → thermalEmergency r b v = emergency hfDie i v ∨
      thermalEmergency r b v = emergency hfCoolant (dieReadings r).length (emergency hfDie i v)) ∧
    ((∀ x ∈ dieReadings r, x < tCrit v) → tInMax v + 10 ≤ r.inlet → thermalEmergency r b v = emergency hfCoolant (dieReadings r).length v) ∧
    ((∀ x ∈ dieReadings r, x < tCrit v) → r.inlet < tInMax v + 10 → thermalEmergency r b v = v)) ∧
  (∀ s : State, (rbit R.PWR_STAT 7 s = true → inHoldfast s = false → exec .holdTimeout s = .next (emergency hfHold 0 s)) ∧
    (rbit R.PWR_STAT 7 s = false ∨ inHoldfast s = true → exec .holdTimeout s = .next s)) ∧
  (∀ (b : Bool) (s : State),
    (inHoldfast s = true → s.power.shutDown = false → ∃ t, exec (.holdfastShutdown b) s = .next t ∧ t.power.shutDown = true ∧ t.started = [] ∧
      ∀ d ∈ holdfastDomains, domainOn d t = false) ∧
    (inHoldfast s = false ∨ s.power.shutDown = true → exec (.holdfastShutdown b) s = .next s)) ∧
  (∀ (d : Domain) (s : State),
    (d.val ∈ s.power.waking → (d.val < 72 ∨ 80 ≤ d.val ∨ d.val - 72 ∈ s.power.vert) → ∃ t, exec (.domainWakeDone d) s = .next t ∧
      domainOn d.val t = true ∧ t.power = { s.power with waking := s.power.waking.filter (fun x => x != d.val) } ∧
      { t with regs := s.regs, power := s.power } = s ∧ (∀ e < 152, e ≠ d.val → domainOn e t = domainOn e s)) ∧
    (d.val ∉ s.power.waking ∨ (72 ≤ d.val ∧ d.val < 80 ∧ d.val - 72 ∉ s.power.vert) → exec (.domainWakeDone d) s = .next s))

/-- R320, R322 to R324, Tables 17.4, 17.5 and 17.8: a TARGET is stored as the next lower valid frequency, at most its ceiling, and an island that
runs too fast for it begins to change; a change that is done shows in CURRENT. Token requests wait in the order in which they came; the
oldest is granted when FREE covers it, and no other; a consumer that has stopped gives back what it holds. Governed fields never stand
above a ceiling that has been put in force. How long a request waits is a free value (log 30). -/
def Obligations.ClocksAndTokensKeepTheirBooks : Prop :=
  (∀ (n : Island) (v : BitVec 8) (s : State), n.val < 72 →
    let f := snapDown n.val v.toNat
    ∃ t, exec (.clockTargetWrite n v) s = .next t ∧ clkTarget n.val t = min f (ceilTarget n.val s) ∧
      (f ≠ v.toNat → Counted R.PWR_MISUSE s t) ∧ (ceilTarget n.val s < f → Counted R.PWR_CLAMPS s t ∧ rbit R.PWR_EVT 2 t = true) ∧
      (wanted n.val t < clkCurrent n.val t → s.power.changing.any (fun x => x.1 == n.val) = false → (n.val, wanted n.val t) ∈ t.power.changing) ∧
      { t with regs := s.regs, power := s.power } = s ∧
      (∀ o, o ∉ [R.PWR_Inn_CLK n.val, R.PWR_MISUSE, R.PWR_CLAMPS, R.PWR_EVT] → rget o t = rget o s)) ∧
  (∀ (n : Island) (v : BitVec 8) (s : State), 72 ≤ n.val → exec (.clockTargetWrite n v) s = .next s) ∧
  (∀ (n : Island) (s : State),
    (∀ f, findKey n.val s.power.changing = some f → f < 256 → ∃ t, exec (.frequencyChangeDone n) s = .next t ∧ clkCurrent n.val t = f ∧
      clkTarget n.val t = clkTarget n.val s ∧ (clkTokens n.val s ≠ 0 → clkTokens n.val t = islandCost n.val f) ∧
      (∀ k < 124, k ≠ n.val → rget (R.PWR_Inn_CLK k) t = rget (R.PWR_Inn_CLK k) s) ∧ t.mem = s.mem) ∧
    (findKey n.val s.power.changing = none → exec (.frequencyChangeDone n) s = .next s)) ∧
  (∀ (x : Consumer) (s : State),
    (mayAsk x s = true → exec (.tokenRequest x) s =
      .next { s with power := { s.power with requests := s.power.requests ++ [(x, needs x s)] } }) ∧
    (mayAsk x s = false → exec (.tokenRequest x) s = .next s)) ∧
  (∀ s : State, s.power.requests = [] → exec .tokenGrant s = .next s) ∧
  (∀ (s : State) (x : Consumer) (k : Nat) (rest : List (Consumer × Nat)), s.power.requests = (x, k) :: rest →
    (tokFree s < (k : Int) → exec .tokenGrant s = .next s) ∧
    ((k : Int) ≤ tokFree s → (∀ z, x = .vert z → ∃ t, exec .tokenGrant s = .next t ∧ t.power.vert = s.power.vert ++ [z.val] ∧
      t.power.requests = rest ∧ tokHeld t = (tokHeld s + k) % 2 ^ 16 ∧ tokCeil t = tokCeil s ∧ tokReserve t = tokReserve s) ∧
      (∀ n, islandOf x = some n → ∃ t, exec .tokenGrant s = .next (grantIsland n k t) ∧ t.power = { s.power with requests := rest } ∧
        OnlyRegs [R.PWR_WAITCYC] s { t with power := s.power, freeCtr := s.freeCtr }))) ∧
  (∀ (n k : Nat) (s : State), n < 72 →
    (clkTokens n s = 0 → clkTokens n (grantIsland n k s) =
      islandCost n (match findKey n s.power.changing with | none => clkCurrent n s | some f => max (clkCurrent n s) f)) ∧
    (clkTokens n s ≠ 0 → clkCurrent n s < wanted n s → clkTokens n (grantIsland n k s) = (clkTokens n s + k) % 2 ^ 16 ∧
      s.power.changing.length < (grantIsland n k s).power.changing.length)) ∧
  (∀ (x : Consumer) (s : State),
    (hasStopped x s = true → tokensOf x s ≠ 0 → ∃ t, exec (.tokenRelease x) s = .next t ∧ tokensOf x t = 0 ∧ tokCeil t = tokCeil s ∧
      tokReserve t = tokReserve s ∧ t.power.requests = s.power.requests.filter (fun r => !(r.1 == x)) ∧ t.mem = s.mem) ∧
    (hasStopped x s = false ∨ tokensOf x s = 0 → exec (.tokenRelease x) s = .next s)) ∧
  (∀ (s : State) (ceil reserve held : Nat), ceil < 2 ^ 16 → reserve < 2 ^ 16 → held < 2 ^ 16 →
    let t := putTokens ceil reserve held s
    (rbits R.PWR_TOK 15 0 t + tokHeld t + tokReserve t) % 2 ^ 16 = tokCeil t ∧ tokCeil t = ceil ∧ tokReserve t = reserve ∧ tokHeld t = held) ∧
  (∀ s : State, let t := lowerGoverned s
    (∀ n < 72, clkTarget n t ≤ ceilTarget n t) ∧ tThr t ≤ rbits R.PWR_CEIL_THERM 7 0 t ∧ tHold t ≤ rbits R.PWR_CEIL_THERM 15 8 t ∧
    tInMax t ≤ rbits R.PWR_CEIL_THERM 31 24 t ∧ rbits R.KVP_PF 7 0 t ≤ rbits R.PWR_CEIL_PF 7 0 t ∧
    rbits R.STS_WATER 31 16 t ≤ rbits R.PWR_CEIL_STS 15 0 t ∧ rbits R.RLY_DEADLINE 31 0 t ≤ rget R.PWR_CEIL_DL t)

/-! ### Metering, counters and ceilings (chapters 15 and 18) -/

/-- R294, R301, R302, R340, R341: each of the 64 cores counts in exactly one bin at a tick: HOLDFAST in Holdfast, else BUSY, or the least idle
cause that the state shows or the tick brings. CLOSE_NOW freezes the bins in a record, which starts where the last one ended; causes of one
tick join its record, and while the buffer is full the cause is kept. Records are signed in order, offered to the manager, written to its
ring with the poison of their message, and leave the buffer when they are acknowledged by SEQ and BOOT_ID, oldest first; any other
acknowledgement is counted. METER_COLLECT completes when none is left. Which causes the state shows is the model's reading (log 167). -/
def Obligations.MeterBooksAndRecords : Prop :=
  (∀ (cores : List CoreTick) (s : State), s.boot.naust = true → s.naust.states.length = 4 →
    let bin (i : Nat) := tickBin s i (cores.getD i (.idle []))
    (∀ i, bin i = none ∨ ∃ k < 16, bin i = some k) ∧ (∀ i, inHoldfast s = true → bin i = some 0) ∧
    (∀ i, inHoldfast s = false → cores.getD i (.idle []) = .busy → hasWork i s = true → bin i = none) ∧
    (∀ i l, inHoldfast s = false → cores.getD i (.idle []) = .idle l → ∀ c ∈ l, ∃ k ≤ c.val, bin i = some k) ∧
    ∃ t, exec (.meterTick cores) s = .next t ∧ t.naust.tick = s.naust.tick + 1 ∧
      rget R.KPR_BUSY t % 2 ^ 64 = (rget R.KPR_BUSY s + ((List.range 64).filter (fun i => bin i == none)).length) % 2 ^ 64 ∧
      (∀ k < 16, rget (R.KPR_IDLE k) t % 2 ^ 64 =
        (rget (R.KPR_IDLE k) s + ((List.range 64).filter (fun i => bin i == some k)).length) % 2 ^ 64) ∧
      (∀ k < 4, t.naust.states.getD k 0 = s.naust.states.getD k 0 + if k = pwrState s then 1 else 0) ∧
      { t with regs := s.regs, naust := s.naust } = s) ∧
  (∀ (cores : List CoreTick) (s : State), s.boot.naust = false → exec (.meterTick cores) s = .next s ∧ exec .closeNow s = .next s ∧
    exec .ceilReload s = .next s) ∧
  (∀ s : State, s.boot.naust = true → closedThisTick s = false → s.naust.held.length < 64 → ∃ t, exec .closeNow s = .next t ∧
    t.naust.held = s.naust.held ++
      [{ bootId := bootId s, seq := s.naust.seq, bytes := meterRecord (s.naust.causes ||| 2 ^ 10) (s.naust.causes != 0) s }] ∧
    t.naust.seq = s.naust.seq + 1 ∧ t.naust.start = s.naust.tick ∧ t.naust.tick = s.naust.tick ∧ t.naust.states = [0, 0, 0, 0] ∧
    rget R.KPR_BUSY t = 0 ∧ (∀ k < 16, rget (R.KPR_IDLE k) t = 0) ∧ (s.naust.held.length = 63 → rbit R.NST_EVT 2 t = true) ∧
    { t with regs := s.regs, naust := s.naust } = s) ∧
  (∀ s : State, s.boot.naust = true → closedThisTick s = false → 64 ≤ s.naust.held.length →
    exec .closeNow s = .next { s with naust := { s.naust with causes := s.naust.causes ||| 2 ^ 10 } }) ∧
  (∀ s : State, s.boot.naust = true → closedThisTick s = true → ∃ t, exec .closeNow s = .next t ∧ { t with naust := s.naust } = s ∧
    t.naust.held.length = s.naust.held.length ∧ t.naust.seq = s.naust.seq) ∧
  (∀ s : State, s.naust.held.any (fun r => !r.signed) = false → exec .recordSigned s = .next s) ∧
  (∀ (s : State) (r : MeterRec), s.naust.held.find? (fun r => !r.signed) = some r → ∃ t, t.naust.prevHash = Config.hash 256 (signedBytes r.bytes s) ∧
    t.naust.held = signFirst (fun x => { x with bytes := signedBytes r.bytes s, signed := true }) s.naust.held ∧ t.regs = s.regs ∧ t.mem = s.mem ∧
    (isManager s = true → exec .recordSigned s = .next (collectOwn 128 t)) ∧ (isManager s = false → exec .recordSigned s = .next (offerRecord t))) ∧
  (∀ (s : State) (r : MeterRec) (rest : List MeterRec) (n : Nat), offered s = r :: rest →
    (r.signed = true → mrecFull s = false → offered (ackOldest (collect r.bytes false s)) = rest ∧
      collectOwn (n + 1) s = collectOwn n (ackOldest (collect r.bytes false s))) ∧
    (r.signed = false ∨ mrecFull s = true → collectOwn n s = s) ∧
    (r.signed = true → offerRecord s = sendCtrl 0x25 (myDom s) (managerDev s) (padTo 1024 r.bytes) s) ∧ (r.signed = false → offerRecord s = s)) ∧
  (∀ (b : Bytes) (bad : Bool) (s : State), inHost (rget R.KPR_MREC_BASE s) (1024 * mrecSlots s) = true → ∃ t, t = collect b bad s ∧
    rget R.KPR_MREC_HEAD t = (rget R.KPR_MREC_HEAD s + 1) % mrecSlots s ∧ t.naust = s.naust ∧
    t.mem = (writeMem (rget R.KPR_MREC_BASE s + 1024 * (rget R.KPR_MREC_HEAD s % mrecSlots s)) (padTo 1024 b) s bad).s.mem) ∧
  (∀ (v : BitVec 32) (s : State), offered s = [] → ∃ t, exec (.nstMack v) s = .next t ∧ Counted R.NST_MISUSE s t ∧ OnlyRegs [R.NST_MISUSE] s t) ∧
  (∀ (v : BitVec 32) (s : State) (r : MeterRec) (rest : List MeterRec), offered s = r :: rest →
    (r.signed = true → r.seq = v.toNat → ∃ t, exec (.nstMack v) s = .next t ∧ offered t = rest ∧ { t with regs := s.regs, naust := s.naust } = s) ∧
    (r.signed = false ∨ r.seq ≠ v.toNat → ∃ t, exec (.nstMack v) s = .next t ∧ Counted R.NST_MISUSE s t ∧ OnlyRegs [R.NST_MISUSE] s t)) ∧
  (∀ (p : Port) (m : Msg) (s : State), (takeCtrl p.val 0x26 m s = none → exec (.meterAck p m) s = .next s) ∧
    (∀ t, takeCtrl p.val 0x26 m s = some t → ∃ q, exec (.meterAck p m) s = .next (offerRecord q) ∧ (∀ r rest, offered t = r :: rest →
      (r.signed = true → r.seq = u m.data 0 4 → r.bootId = u m.data 16 16 → offered q = rest) ∧
      (r.signed = false ∨ r.seq ≠ u m.data 0 4 ∨ r.bootId ≠ u m.data 16 16 → Counted R.NST_MISUSE t q ∧ offered q = offered t)))) ∧
  (∀ (p : Port) (m : Msg) (s : State),
    (isManager s = false ∨ mrecFull s = true ∨ takeCtrl p.val 0x25 m s = none → exec (.meter p m) s = .next s) ∧
    (∀ t, isManager s = true → mrecFull s = false → takeCtrl p.val 0x25 m s = some t → exec (.meter p m) s =
      .next (sendCtrl 0x26 m.srcDom.toNat m.srcDev.toNat (padTo 32 (leBytes 4 (u m.data 32 4) ++ leBytes 12 0 ++ slice m.data 16 16))
        (collect m.data m.poison t)))) ∧
  (∀ (x : Started) (s : State), isManager s = false →
    (x.begun = true → offered s = [] → meterCollectRun x s = markDone x.id s) ∧
    (x.begun = true → offered s ≠ [] → meterCollectRun x s = offerRecord s) ∧
    (x.begun = false → startedAt x.id s = some x → closedThisTick s = false → s.naust.held.length < 64 → ∃ t, meterCollectRun x s = offerRecord t ∧
      t.naust.held.length = s.naust.held.length + 1 ∧ t.naust.seq = s.naust.seq + 1 ∧
      startedAt x.id t = some { x with begun := true, prog := 0 } ∧ t.mem = s.mem)) ∧
  (∀ (x : Started) (s : State), isManager s = true → x.begun = true → let t := collectOwn 128 s
    (offered t = [] → meterCollectRun x s = markDone x.id t) ∧ (offered t ≠ [] → meterCollectRun x s = t))

/-- R333, R338, R339, Table 17.5: COMMIT_SVN burns the counter up to the running image's SVN and never lowers it. CEIL_RELOAD, or CEIL_LOAD
over the bus, checks the ceiling region: an accepted record puts its ceilings in force and sets the token ceiling, an ADVANCE record the
counter, an ENROLL record a further key; one that is refused is counted and changes no ceiling. A first key comes over the bus only, and a
fifth is refused. CEIL_LOAD waits its turn like any command of the bus. An erased region holds no record (the model's choice, log 57). -/
def Obligations.CeilingsComeFromAcceptedRecords : Prop :=
  (∀ s : State,
    (s.boot.verified = true → s.naust.keeperCtr < s.naust.runSvn → ∃ t, exec .commitSvn s = .next t ∧ t.naust.keeperCtr = s.naust.runSvn ∧
      rbits R.NST_CTR 7 0 t = s.naust.runSvn % 256 ∧ OnlyRegs [R.NST_CTR] s { t with naust := s.naust } ∧ t.naust.ceilCtr = s.naust.ceilCtr) ∧
    (s.boot.verified = false ∨ s.naust.runSvn ≤ s.naust.keeperCtr → exec .commitSvn s = .next s)) ∧
  (∀ s : State, (busServed s = false ∨ s.mgmt.held = [] ∧ s.boot.naust = false → exec .ceilLoad s = .next s) ∧
    (busServed s = true → s.mgmt.held ≠ [] → exec .ceilLoad s = .next (setResult [1] s))) ∧
  (∀ (bus : Bool) (s : State), s.boot.naust = true → (bus = true → busServed s = true ∧ s.mgmt.held = []) →
    let b := flashBytes 4 0 1024 s
    let run := checkCeilings bus s
    exec (if bus then .ceilLoad else .ceilReload) s = .next (if bus then setResult [mOK] run else run) ∧
    (b.all (fun x => x == 0xFF) = true → run = s) ∧
    (b.all (fun x => x == 0xFF) = false → recordAccepted bus b s = false →
      Counted R.NST_CEIL_REJ s run ∧ rbit R.NST_EVT 1 run = true ∧ OnlyRegs [R.NST_CEIL_REJ, R.NST_EVT] s run) ∧
    (b.all (fun x => x == 0xFF) = false → recordAccepted bus b s = true →
      rget R.PWR_CEIL_W run = u b 64 4 ∧ rget R.PWR_CEIL_CLK run = u b 68 4 ∧ rget R.PWR_CEIL_THERM run = u b 72 4 ∧
      rget R.PWR_CEIL_PF run = u b 76 4 ∧ rget R.PWR_CEIL_STS run = u b 80 4 ∧ rget R.PWR_CEIL_DL run = u b 84 4 ∧
      tokCeil run = 8 * u b 64 4 % 2 ^ 16 ∧ rbit R.NST_STAT 8 run = true ∧ run.naust.ceilHash = Config.hash 256 b ∧
      run.naust.ceilCtr = (if recAdvance b then u b 16 4 else s.naust.ceilCtr) ∧
      run.naust.opKeys = (if recEnroll b then s.naust.opKeys ++ [slice b 32 32] else s.naust.opKeys) ∧ run.mem = s.mem)) ∧
  (∀ (bus : Bool) (b : Bytes) (s : State), recordAccepted bus b s = true → s.naust.ceilCtr ≤ u b 16 4 ∧
    (s.naust.opKeys = [] → bus = true ∧ recEnroll b = true) ∧ (recEnroll b = true → s.naust.opKeys.length < 4))

/-! ### Attestation (R334 to R337) -/

/-- R336, R337, Table 18.2: GET_VERSION starts a connection; each later request is answered only at its stage and in the version in use, and
otherwise with ERROR. Digests and certificate are slot 0's, and another slot is refused; the measurements are those of Table 18.3, and
CHALLENGE_AUTH and signed measurements carry a signature over the transcript. A request code outside Table 18.2 gets UnsupportedRequest; a DOE
abort discards the response; discovery offers discovery and SPDM. The layouts are DSP0274's (log 56, log 61). -/
def Obligations.AttestationAnswersAtItsStage : Prop :=
  (∀ (req : Bytes) (s : State), s.boot.released = true → spdmCode req = 0x84 →
    let t0 : State := { s with naust := { s.naust with spdmVer := 0, spdmStage := 1, transcript := [] } }
    let resp : Bytes := [0x10, 0x04, 0, 0, 0, 2] ++ leBytes 2 0x1200 ++ leBytes 2 0x1300
    (u req 0 1 = 0x10 → ∃ t, exec (.getVersion req) s = .next t ∧ t.pcie.doe = some resp ∧ t.naust.spdmStage = 1 ∧ t.naust.spdmVer = 0 ∧
      t.naust.transcript = req ++ resp ∧ { t with pcie := s.pcie, naust := s.naust } = s) ∧
    (u req 0 1 ≠ 0x10 → exec (.getVersion req) s = .next (spdmError 0x41 0 t0))) ∧
  (∀ (req : Bytes) (s : State), s.boot.released = true → spdmCode req = 0xE1 →
    (s.naust.spdmStage < 1 → exec (.getCapabilities req) s = .next (spdmError 4 0 s)) ∧
    (1 ≤ s.naust.spdmStage → u req 0 1 ≠ 0x12 → u req 0 1 ≠ 0x13 → exec (.getCapabilities req) s = .next (spdmError 0x41 0 s)) ∧
    (1 ≤ s.naust.spdmStage → u req 0 1 = 0x12 ∨ u req 0 1 = 0x13 →
    ∃ t resp, exec (.getCapabilities req) s = .next t ∧ t.pcie.doe = some resp ∧ resp.length = 20 ∧
      resp.take 12 = leBytes 1 (u req 0 1) ++ [0x61, 0, 0, 0, 14, 0, 0] ++ leBytes 4 0x16 ∧
      t.naust.spdmStage = 2 ∧ t.naust.spdmVer = u req 0 1 ∧ t.naust.transcript = s.naust.transcript ++ req ++ resp)) ∧
  (∀ (req : Bytes) (s : State), s.boot.released = true → spdmCode req = 0xE3 → 2 ≤ s.naust.spdmStage → u req 0 1 = s.naust.spdmVer →
    let asym := nb (bitAt (u req 8 4) 3)
    let hash := nb (bitAt (u req 12 4) 0)
    (asym + hash = 0 → exec (.negotiateAlgorithms req) s = .next (spdmError 1 0 s)) ∧
    (asym + hash ≠ 0 → ∃ t, exec (.negotiateAlgorithms req) s = .next t ∧ t.naust.spdmStage = 3 ∧
      t.pcie.doe = some (leBytes 1 s.naust.spdmVer ++ [0x63, 0, 0] ++ leBytes 2 36 ++ [1, 0] ++ leBytes 4 2 ++ leBytes 4 (8 * asym)
        ++ leBytes 4 hash ++ zeros 16))) ∧
  (∀ (req : Bytes) (s : State), s.boot.released = true → 3 ≤ s.naust.spdmStage → u req 0 1 = s.naust.spdmVer →
    let v := leBytes 1 s.naust.spdmVer
    (spdmCode req = 0x81 → exec (.getDigests req) s = .next (respond req
      (v ++ [0x01, BitVec.ofNat 8 (nb (s.naust.spdmVer == 0x13)), 1] ++ hash32 (Config.hash 256 certChain)) s)) ∧
    (spdmCode req = 0x82 → (u req 2 1 % 16 = 0 → u req 4 2 < certChain.length →
      let n := min (min (u req 6 2) 1024) (certChain.length - u req 4 2)
      exec (.getCertificate req) s = .next (respond req
        (v ++ [0x02, 0, 0] ++ leBytes 2 n ++ leBytes 2 (certChain.length - u req 4 2 - n) ++ slice certChain (u req 4 2) n) s)) ∧
      (u req 2 1 % 16 ≠ 0 ∨ certChain.length ≤ u req 4 2 → exec (.getCertificate req) s = .next (spdmError 1 0 s))) ∧
    (spdmCode req = 0x83 → (u req 2 1 % 16 ≠ 0 ∨ (u req 3 1 ≠ 0 ∧ u req 3 1 ≠ 0xFF) → exec (.challenge req) s = .next (spdmError 1 0 s)) ∧
      (u req 2 1 % 16 = 0 → u req 3 1 = 0 ∨ u req 3 1 = 0xFF →
      (idLost s = true → exec (.challenge req) s = .next (spdmError 5 0 s)) ∧
      (idLost s = false → ∃ t body, exec (.challenge req) s = .next t ∧
        t.pcie.doe = some (body ++ spdmSign "responder-challenge_auth signing" 4 req body s) ∧
        body = v ++ [0x03, 0, 1] ++ hash32 (Config.hash 256 certChain) ++ nonce s.freeCtr
          ++ (if u req 3 1 = 0xFF then hash32 (Config.hash 256 (allMeasurements s)) else []) ++ leBytes 2 0 ++ echoContext req 36 s))) ∧
    (spdmCode req = 0xE0 → let sig := bitAt (u req 2 1) 0
      ((6 < u req 3 1 ∧ u req 3 1 ≠ 0xFF) ∨ (sig = true ∧ u req 36 1 % 16 ≠ 0) → exec (.getMeasurements req) s = .next (spdmError 1 0 s)) ∧
      (sig = true → u req 36 1 % 16 = 0 → idLost s = true → u req 3 1 ≤ 6 ∨ u req 3 1 = 0xFF → exec (.getMeasurements req) s = .next (spdmError 5 0 s)) ∧
      ((u req 3 1 ≤ 6 ∨ u req 3 1 = 0xFF) → (sig = true → u req 36 1 % 16 = 0 ∧ idLost s = false) → ∃ t body, exec (.getMeasurements req) s = .next t ∧
        t.pcie.doe = some (if sig then body ++ spdmSign "responder-measurements signing" 6 req body s else body) ∧
        (u req 3 1 = 0 → body = v ++ [0x60, 6, 0, 0, 0, 0, 0] ++ nonce s.freeCtr ++ leBytes 2 0 ++ echoContext req (if sig then 37 else 4) s) ∧
        (∀ r, 1 ≤ u req 3 1 → u req 3 1 ≤ 6 → measurement (u req 3 1) s = some r → body = v ++ [0x60, 0, 0, 1] ++ leBytes 3 r.length ++ r
          ++ nonce s.freeCtr ++ leBytes 2 0 ++ echoContext req (if sig then 37 else 4) s) ∧
        (u req 3 1 = 0xFF → body = v ++ [0x60, 0, 0, 6] ++ leBytes 3 (allMeasurements s).length ++ allMeasurements s
          ++ nonce s.freeCtr ++ leBytes 2 0 ++ echoContext req (if sig then 37 else 4) s)))) ∧
  (∀ (c : Bytes → Instr) (code stage : Nat), (c, code, stage) ∈ ([(.negotiateAlgorithms, 0xE3, 2), (.getDigests, 0x81, 3),
      (.getCertificate, 0x82, 3), (.challenge, 0x83, 3), (.getMeasurements, 0xE0, 3)] : List ((Bytes → Instr) × Nat × Nat)) →
    ∀ (req : Bytes) (s : State), (s.boot.released = true → spdmCode req = code → s.naust.spdmStage < stage → exec (c req) s = .next (spdmError 4 0 s)) ∧
      (s.boot.released = true → spdmCode req = code → stage ≤ s.naust.spdmStage → u req 0 1 ≠ s.naust.spdmVer →
        exec (c req) s = .next (spdmError 0x41 0 s)) ∧
      (s.boot.released = false ∨ spdmCode req ≠ code → exec (c req) s = .next s)) ∧
  (∀ (req : Bytes) (s : State), (s.boot.released = false ∨ spdmCode req ≠ 0x84 → exec (.getVersion req) s = .next s) ∧
    (s.boot.released = false ∨ spdmCode req ≠ 0xE1 → exec (.getCapabilities req) s = .next s)) ∧
  (∀ (s : State) (i : Nat) (r : Bytes), measurement i s = some r → 1 ≤ i ∧ i ≤ 6 ∧ u r 0 1 = i) ∧
  (∀ (req : Bytes) (s : State), (s.boot.released = true → spdmCode req ∉ spdmKnown → exec (.unsupportedRequest req) s = .next
      { s with pcie := { s.pcie with doe := some [BitVec.ofNat 8 (spdmByte s), 0x7F, 7, BitVec.ofNat 8 (spdmCode req)] } }) ∧
    (s.boot.released = false ∨ spdmCode req ∈ spdmKnown → exec (.unsupportedRequest req) s = .next s)) ∧
  (∀ s : State, exec .doeAbort s = .next { s with pcie := { s.pcie with doe := none } }) ∧
  (∀ (i : BitVec 8) (s : State),
    let entry : Bytes := if i = 0 then [1, 0, 0, 1] else if i = 1 then [1, 0, 1, 0] else [0xFF, 0xFF, 0, 0]
    (s.boot.released = true → exec (.doeDiscovery i) s = .next { s with pcie := { s.pcie with doe := some entry } }) ∧
    (s.boot.released = false → exec (.doeDiscovery i) s = .next s))

/-! ### Bring-up and resets (chapter 20) -/

/-- R356, R357, R360 to R368, R332, R341: qualification, input loss and MOD_RST_N leave registers at their reset values, module memory zero and
the fuses as they were; records of the buffer are signed and saved before MOD_RST_N and lost with the input. Supplies come in order, step 4
behind the thermal gate; one that is late halts bring-up with code 1 and its number, switches every supply off above step 1, or above step 2
once the Keeper is released (log 163), leaves bus and Naust served, and only a reset tries again. Naust starts, verifies the preferred slot
and then the other; with neither accepted no Keeper core starts. A memory that trains is written to zero, one that fails halts bring-up;
release sets the ports of R366, locks them and raises SYS_READY; READY enters Spring. Which domains a supply powers is log 13's. -/
def Obligations.BringUpFollowsItsStages : Prop :=
  (∀ s : State, s.boot.qualified = false → ∃ t, exec .inputQualified s = .next t ∧ t.boot = { qualified := true } ∧
    (∀ o, rget o t = if o = R.NST_SERIAL then rget o s else resetOf o) ∧ t.mem = s.mem.filter (fun c => isHost c.1) ∧
    t.started = [] ∧ t.markers = [] ∧ t.queues = [] ∧ t.naust = naustKept s ∧ t.mgmt.flash = s.mgmt.flash) ∧
  (∀ s : State, s.boot.qualified = true → exec .inputQualified s = .next s) ∧
  (∀ s : State, (s.boot.qualified = true → ∃ t, exec .inputLoss s = .next t ∧ t.boot = {} ∧
    (∀ o, rget o t = if o = R.NST_SERIAL then rget o s else resetOf o) ∧ t.mem = s.mem.filter (fun c => isHost c.1) ∧
    t.started = [] ∧ t.naust = naustKept s ∧ t.mgmt = { flash := s.mgmt.flash }) ∧
    (s.boot.qualified = false → exec .inputLoss s = .next s ∧ exec .modRstN s = .next s)) ∧
  (∀ s : State, s.boot.qualified = true → ∃ t, exec .modRstN s = .next t ∧
    (∀ o, rget o t = if o = R.NST_SERIAL then rget o s else resetOf o) ∧ t.mem = s.mem.filter (fun c => isHost c.1) ∧ t.started = [] ∧
    t.naust.saved.map (·.seq) = (s.naust.saved ++ s.naust.held).map (·.seq) ∧ t.naust.held = [] ∧
    ((∀ r ∈ s.naust.saved, r.signed = true) → s.naust.held.length ≤ 64 → ∀ r ∈ t.naust.saved, r.signed = true) ∧
    t.naust.keeperCtr = s.naust.keeperCtr ∧ t.naust.opKeys = s.naust.opKeys ∧ t.mgmt.flash = s.mgmt.flash ∧ bootEnded t = false ∧
    t.boot = { qualified := true, supplies := min 1 s.boot.supplies }) ∧
  (∀ (k : Nat) (s : State), s.boot.qualified = true → bootEnded s = false → k = s.boot.supplies + 1 → k ≤ 5 →
    (k = 4 ∧ s.boot.gate = false → exec (.supplyGood k) s = .next s) ∧
    (k ≠ 4 ∨ s.boot.gate = true → ∃ t, exec (.supplyGood k) s = .next t ∧ t.boot = { s.boot with supplies := k } ∧
      (∀ d ∈ stepDomains k, domainOn d t = true) ∧ bootStage t = stageNow t ∧ { t with regs := s.regs, boot := s.boot } = s)) ∧
  (∀ (k : Nat) (s : State), s.boot.qualified = false ∨ bootEnded s = true ∨ k ≠ s.boot.supplies + 1 ∨ 5 < k → exec (.supplyGood k) s = .next s) ∧
  (∀ s : State, s.boot.qualified = true → bootEnded s = false → s.boot.supplies < 5 → s.boot.supplies ≠ 3 ∨ s.boot.gate = true →
    let keep := if s.boot.released then 2 else 1
    ∃ t, exec .supplyTimeout s = .next t ∧ rbits R.HIF_BOOT 3 0 t = 6 ∧ rbits R.HIF_BOOT 23 16 t = 1 ∧
    rbits R.HIF_BOOT 31 24 t = s.boot.supplies + 1 ∧ t.boot.supplies = min keep s.boot.supplies ∧ t.pcie.sysReady = false ∧
    (∀ k, keep < k → k ≤ 5 → ∀ d ∈ stepDomains k, domainOn d t = false) ∧ busServed t = busServed s ∧ t.naust = s.naust ∧
    (∀ k, exec (.supplyGood k) t = .next t) ∧ exec .supplyTimeout t = .next t ∧
    ∃ r, exec .modRstN t = .next r ∧ bootEnded r = false ∧ r.boot.qualified = true) ∧
  (∀ s : State, s.boot.qualified = false ∨ bootEnded s = true ∨ 5 ≤ s.boot.supplies ∨ (s.boot.supplies = 3 ∧ s.boot.gate = false) →
    exec .supplyTimeout s = .next s) ∧
  (∀ s : State, s.boot.qualified = true → bootEnded s = false → 3 ≤ s.boot.supplies →
    (rbits R.PWR_TEMP 31 24 s < tInMax s ∧ rbits R.PWR_TEMP 23 16 s < tThr s → ∃ t, exec .thermalGateOpen s = .next t ∧
      t.boot = { s.boot with gate := true } ∧ bootStage t = stageNow t ∧ OnlyRegs [R.HIF_BOOT] s { t with boot := s.boot }) ∧
    (tInMax s ≤ rbits R.PWR_TEMP 31 24 s ∨ tThr s ≤ rbits R.PWR_TEMP 23 16 s → exec .thermalGateOpen s = .next s) ∧
    (s.boot.gate = false → stageNow s = 2)) ∧
  (∀ s : State, s.boot.qualified = false ∨ bootEnded s = true ∨ s.boot.supplies < 3 → exec .thermalGateOpen s = .next s) ∧
  (∀ s : State, s.boot.qualified = true → 1 ≤ s.boot.supplies → s.boot.naust = false → bootEnded s = false →
    let b := flashBytes 3 0 64 s
    ∃ t, exec .naustStart s = .next t ∧ t.boot = { s.boot with naust := true } ∧
    (configOk b = true → rget R.KPR_EXPECT t = u b 8 8 ∧ rbits R.KPR_CFG 3 0 t = u b 0 1 % 16 ∧ t.naust.cfgHash = Config.hash 256 b) ∧
    (configOk b = false → rget R.KPR_EXPECT t = 1 ∧ rbit R.KPR_STAT 7 t = true) ∧
    rbits R.NST_CTR 7 0 t = s.naust.keeperCtr % 256 ∧ t.mem = s.mem) ∧
  (∀ s : State, s.boot.qualified = false ∨ s.boot.supplies = 0 ∨ s.boot.naust = true ∨ bootEnded s = true → exec .naustStart s = .next s) ∧
  (∀ s : State, verifying s = true →
    let a := if flashByte 2 0 s = 1 then 1 else 0
    (∀ x, x = a ∧ imageAccepted a s = true ∨ x = 1 - a ∧ imageAccepted a s = false ∧ imageAccepted (1 - a) s = true →
      ∃ t, exec .keeperVerify s = .next t ∧ rbits R.NST_STAT 1 0 t = x + 1 ∧ t.boot.verified = true ∧ t.naust.runSvn = u (flashBytes x 0 1024 s) 8 4 ∧
      (x ≠ a → rbit R.NST_EVT 0 t = true) ∧ t.mgmt.held = [] ∧ t.mem = s.mem) ∧
    (imageAccepted a s = false → imageAccepted (1 - a) s = false → ∃ t, exec .keeperVerify s = .next t ∧ rbits R.NST_STAT 1 0 t = 3 ∧
      rbits R.HIF_BOOT 3 0 t = 6 ∧ rbits R.HIF_BOOT 23 16 t = 4 ∧ t.boot = s.boot ∧ t.pcie = s.pcie ∧ busServed t = busServed s ∧
      exec .keeperRelease t = .next t ∧ { t with regs := s.regs, mgmt := s.mgmt } = s)) ∧
  (∀ s : State, verifying s = false → exec .keeperVerify s = .next s) ∧
  (∀ (k : StackN) (s : State), bootEnded s = false → 5 ≤ s.boot.supplies → s.boot.trained.testBit k.val = false → k.val ∈ s.power.vert →
    (∃ t, exec (.memoryTrainingDone (.stack k) true) s = .next t ∧ t.boot.trained = s.boot.trained ||| 2 ^ k.val ∧
      (∀ a, k.val * 2 ^ 36 ≤ a → a < (k.val + 1) * 2 ^ 36 → byteAt a t = 0) ∧ (∀ a, a < k.val * 2 ^ 36 ∨ (k.val + 1) * 2 ^ 36 ≤ a → byteAt a t = byteAt a s) ∧
      (allEight t.boot.trained = true → rbit R.HIF_BOOT 8 t = true)) ∧
    (∃ t, exec (.memoryTrainingDone (.stack k) false) s = .next t ∧ rbits R.HIF_BOOT 3 0 t = 6 ∧ rbits R.HIF_BOOT 23 16 t = 2 ∧
      rbits R.HIF_BOOT 31 24 t = k.val ∧ t.pcie.sysReady = false ∧ t.mem = s.mem)) ∧
  (∀ (g : Fin 8) (s : State), bootEnded s = false → 3 ≤ s.boot.supplies → s.boot.groups.testBit g.val = false →
    (∃ t, exec (.memoryTrainingDone (.spill g) true) s = .next t ∧ t.boot.groups = s.boot.groups ||| 2 ^ g.val ∧
      (allEight t.boot.groups = true → rbit R.HIF_BOOT 9 t = true ∧ ∀ a, spillBase ≤ a → a < spillEnd → byteAt a t = 0) ∧
      (allEight t.boot.groups = false → t.mem = s.mem)) ∧
    (∃ t, exec (.memoryTrainingDone (.spill g) false) s = .next t ∧ rbits R.HIF_BOOT 3 0 t = 6 ∧ rbits R.HIF_BOOT 23 16 t = 3 ∧
      rbits R.HIF_BOOT 31 24 t = g.val ∧ t.pcie.sysReady = false ∧ t.mem = s.mem)) ∧
  (∀ (ok : Bool) (s : State), (∀ k : StackN, bootEnded s = true ∨ s.boot.supplies < 5 ∨ s.boot.trained.testBit k.val = true ∨ k.val ∉ s.power.vert →
      exec (.memoryTrainingDone (.stack k) ok) s = .next s) ∧
    (∀ g : Fin 8, bootEnded s = true ∨ s.boot.supplies < 3 ∨ s.boot.groups.testBit g.val = true → exec (.memoryTrainingDone (.spill g) ok) s = .next s)) ∧
  (∀ s : State, (s.boot.verified = true → s.boot.released = false → bootEnded s = false → ∃ t, exec .keeperRelease s = .next t ∧
    t.boot.released = true ∧ t.pcie.sysReady = true ∧ t.pcie.training = !s.pcie.perst ∧ rget R.LNK_PORT_EN t = portsWanted s ∧
    rbit R.LNK_LOCK 0 t = true) ∧
    (s.boot.verified = false ∨ s.boot.released = true ∨ bootEnded s = true → exec .keeperRelease s = .next s)) ∧
  (∀ s : State,
    (isManager s = true → s.boot.released = true → memoriesReady s = true → rbit R.KPR_STAT 4 s = true → bootEnded s = false →
      ∃ t, exec .ready s = .next t ∧ bootStage t = 5 ∧ pwrState t = 0 ∧ t.mem = s.mem ∧ t.started = s.started ∧
      (∀ o, o ∉ [R.HIF_BOOT, R.PWR_STAT, R.PWR_EVT] → rget o t = rget o s)) ∧
    (isManager s = false ∨ s.boot.released = false ∨ memoriesReady s = false ∨ rbit R.KPR_STAT 4 s = false ∨ bootEnded s = true →
      exec .ready s = .next s))

/-! ### The management bus and the test access port (chapter 22) -/

/-- R380 to R382, Tables 22.3 and 22.4: while the bus is served and no write is held, READ gives the status OK and the words, in order, or refuses
a bad count or address; a FLASH_WRITE stores its bytes and nothing else, and is held while images are verified; FLASH_READ and STATUS give
OK and their data; RESET with its key is a module reset after which the result is OK, and with another byte BAD_CMD. While a write is
held the others read BUSY. A bus without its supply does nothing. Each TAP instruction is loaded; IDCODE reads 0x20F5_1947, and EXTEST is
loaded only with MOD_RST_N low. -/
def Obligations.BusAndTestPortAnswer : Prop :=
  (∀ (a : BitVec 48) (n : Nat) (s : State), busServed s = true → s.mgmt.held = [] →
    (a.toNat % 4 ≠ 0 ∨ n = 0 ∨ 64 < n → exec (.read a n) s = .next { s with mgmt := { s.mgmt with result := [3] } }) ∧
    (a.toNat % 4 = 0 → 1 ≤ n → n ≤ 64 → a.toNat < regBase ∨ regEnd < a.toNat + 4 * n →
      exec (.read a n) s = .next { s with mgmt := { s.mgmt with result := [2] } }) ∧
    (a.toNat % 4 = 0 → 1 ≤ n → n ≤ 64 → regBase ≤ a.toNat → a.toNat + 4 * n ≤ regEnd → ∃ t, exec (.read a n) s = .next t ∧
      t.mgmt.result = 0 :: (readWords n (a.toNat - regBase) s).1 ∧ (readWords n (a.toNat - regBase) s).1.length = 4 * n ∧
      u t.mgmt.result 1 4 = (readWord (a.toNat - regBase) s).1 % 2 ^ 32 ∧ { t with latches := s.latches, mgmt := s.mgmt } = s)) ∧
  (∀ (r off : Nat) (b : Bytes) (s : State), busServed s = true →
    (4 < r ∨ b = [] ∨ 256 < b.length → exec (.flashWrite r off b) s = .next { s with mgmt := { s.mgmt with result := [if s.mgmt.held = [] then 3 else 1] } }) ∧
    (r ≤ 4 → b ≠ [] → b.length ≤ 256 → flashSize r < off + b.length →
      exec (.flashWrite r off b) s = .next { s with mgmt := { s.mgmt with result := [if s.mgmt.held = [] then 2 else 1] } }) ∧
    (r ≤ 4 → b ≠ [] → b.length ≤ 256 → off + b.length ≤ flashSize r → verifying s = true →
      exec (.flashWrite r off b) s = .next { s with mgmt := { s.mgmt with held := s.mgmt.held ++ [(r, off, b)], result := [1] } }) ∧
    (r ≤ 4 → b ≠ [] → b.length ≤ 256 → off + b.length ≤ flashSize r → verifying s = false →
      ∃ t, exec (.flashWrite r off b) s = .next t ∧ t.mgmt.result = [0] ∧ flashBytes r off b.length t = b ∧
      (∀ i, i < off ∨ off + b.length ≤ i → flashByte r i t = if r < 2 ∧ off = 0 then 0xFF else flashByte r i s) ∧
      (∀ x i, x ≠ r → flashByte x i t = flashByte x i s) ∧ { t with mgmt := s.mgmt } = s)) ∧
  (∀ (r off n : Nat) (s : State), busServed s = true → s.mgmt.held = [] →
    (4 < r ∨ n = 0 ∨ 256 < n → exec (.flashRead r off n) s = .next { s with mgmt := { s.mgmt with result := [3] } }) ∧
    (r ≤ 4 → 1 ≤ n → n ≤ 256 → flashSize r < off + n → exec (.flashRead r off n) s = .next { s with mgmt := { s.mgmt with result := [2] } }) ∧
    (r ≤ 4 → 1 ≤ n → n ≤ 256 → off + n ≤ flashSize r →
      exec (.flashRead r off n) s = .next { s with mgmt := { s.mgmt with result := 0 :: flashBytes r off n s } })) ∧
  (∀ s : State, busServed s = true → s.mgmt.held = [] → ∃ t, exec .status s = .next t ∧ { t with mgmt := s.mgmt } = s ∧
    t.mgmt = { s.mgmt with result := 0 :: (leBytes 4 (rget R.HIF_BOOT s) ++ leBytes 4 (rget R.NST_STAT s)) }) ∧
  (∀ (a : BitVec 48) (n r off : Nat) (s : State), busServed s = true → s.mgmt.held ≠ [] →
    let busy : Host.Outcome State Fault Refusal := .next { s with mgmt := { s.mgmt with result := [1] } }
    exec (.read a n) s = busy ∧ exec (.flashRead r off n) s = busy ∧ exec .status s = busy) ∧
  (∀ (key : BitVec 8) (s : State), busServed s = true →
    (key ≠ 0xA5 → exec (.reset key) s = .next { s with mgmt := { s.mgmt with result := [3] } }) ∧
    (key = 0xA5 → ∃ t, exec (.reset key) s = .next t ∧ t.mgmt.result = [0] ∧ t.mgmt.held = [] ∧
      (∀ o, rget o t = if o = R.NST_SERIAL then rget o s else resetOf o) ∧ t.mem = s.mem.filter (fun c => isHost c.1) ∧ t.started = [] ∧
      t.naust.saved.map (·.seq) = (s.naust.saved ++ s.naust.held).map (·.seq) ∧ t.naust.keeperCtr = s.naust.keeperCtr ∧ busServed t = true)) ∧
  (∀ (b : Bool) (cells : Bytes) (s : State), busServed s = true →
    exec .bypass s = .next { s with mgmt := { s.mgmt with tap := .bypass } } ∧
    exec .idcode s = .next { s with mgmt := { s.mgmt with tap := .idcode }, out := { s.out with rdata := [0x47, 0x19, 0xF5, 0x20] } } ∧
    exec (.samplePreload cells) s = .next { s with mgmt := { s.mgmt with tap := .samplePreload, cells := cells } } ∧
    exec (.extest b) s = .next { s with mgmt := { s.mgmt with tap := if b then .extest else .bypass } }) ∧
  (∀ (a : BitVec 48) (n r off : Nat) (key : BitVec 8) (b : Bool) (cells : Bytes) (s : State), busServed s = false →
    ∀ i ∈ [Instr.read a n, .flashWrite r off cells, .flashRead r off n, .status, .ceilLoad, .reset key, .bypass, .idcode, .samplePreload cells,
      .extest b], exec i s = .next s)

/-! ### The register space (chapters 0 and 21) -/

/-- R4 to R7, R40, R370, R371, R373, R375, R377, Table 0.2: a bit of a register takes a write by its access type: W1S sets, W1C clears, RW and an
unlocked RWL take the value, every other keeps; a flag that hardware sets in the cycle of a clear stays set and is counted in SETWIN. An
offset that no map assigns reads as 0, and a write to it, or one that is narrow or misaligned, changes nothing. A lock is set by LOCK_SET and
protects the RWL fields of its block; a write to a locked field alone is counted. The low half of a 64-bit register latches its high half,
and the high half then reads as latched; a 64-bit read takes both halves at once and latches nothing; any other read returns 0. -/
def Obligations.RegistersReadAndWriteByType : Prop :=
  (∀ (d : RegDef) (off m v i : Nat) (locked : Bool) (s : State),
    (rget off (storeReg d off m v locked s)).testBit i =
      (if m.testBit i && v.testBit i && d.w1s.testBit i then true
       else if m.testBit i && v.testBit i && d.w1c.testBit i then false
       else if m.testBit i && (d.rw.testBit i || (d.rwl.testBit i && !locked)) then v.testBit i
       else (rget off s).testBit i) ∧
    (∀ o, o ≠ off → rget o (storeReg d off m v locked s) = rget o s) ∧ { storeReg d off m v locked s with regs := s.regs } = s) ∧
  (∀ (w : RegWrite) (d : RegDef) (s : State), reaches w.who s = true → pwrState s < 2 →
    (w.width = 32 ∧ w.offset % 4 = 0 ∨ w.width = 64 ∧ w.offset % 8 = 0 ∧ isWide w.offset = true) →
    regAt w.offset = some d → (w.offset % 8 = 4 → isWide (w.offset - 4) = false) → blockOf w.offset ∈ [bHIF, bVCH, bATT, bSPL, bCDC, bERR] → w.offset ≠ R.HIF_WIN_BASE →
    touchesLocked w.offset (2 ^ w.width - 1) s = false →
    let m := 2 ^ w.width - 1
    let win := setWins d w.offset m (w.value.toNat % 2 ^ w.width) (w.hwSet.toNat % 2 ^ w.width) s
    let t := storeReg d w.offset m (clearBits (w.value.toNat % 2 ^ w.width) win) false s
    ∃ r, exec (.registerWrite w) s = .next r ∧ (∀ o, setwinOf (blockOf w.offset) ≠ some o → rget o r = rget o t) ∧
      (∀ o, setwinOf (blockOf w.offset) = some o → rbits o 15 0 r = min 0xFFFF (rbits o 15 0 t + popCount 64 win)) ∧ { r with regs := s.regs } = s) ∧
  (∀ (w : RegWrite) (d : RegDef) (s : State), reaches w.who s = true → pwrState s < 2 → w.width = 32 → w.offset % 4 = 0 →
    regAt w.offset = some d → (w.offset % 8 = 4 → isWide (w.offset - 4) = false) → d.rw = 0 → touchesLocked w.offset 0xFFFFFFFF s = true →
    ∃ t, exec (.registerWrite w) s = .next t ∧ Counted R.ERR_LOCKED_WRITES s t ∧ OnlyRegs [R.ERR_LOCKED_WRITES] s t) ∧
  (∀ (w : RegWrite) (s : State), reaches w.who s = true → pwrState s < 2 → regAt w.offset = none → regAt (w.offset / 8 * 8) = none →
    regAt (w.offset + 4) = none → exec (.registerWrite w) s = .next s) ∧
  (∀ (w : RegWrite) (s : State), reaches w.who s = false ∨ (¬ (w.width = 32 ∧ w.offset % 4 = 0) ∧ ¬ (w.width = 64 ∧ w.offset % 8 = 0)) →
    exec (.registerWrite w) s = .next s) ∧
  (∀ (w : RegWrite) (s : State), reaches w.who s = true → (w.width = 32 ∧ w.offset % 4 = 0) ∨ (w.width = 64 ∧ w.offset % 8 = 0) →
    inHoldfast s = true → blockOf w.offset < 22 → liveBlock (blockOf w.offset) = false → exec (.registerWrite w) s = .next (misuse bERR s)) ∧
  (∀ (off : Nat) (s : State), off % 4 = 0 → regAt off = none → regAt (off / 8 * 8) = none → off < imagesBase ∨ imagesBase + 0x200000 ≤ off →
    off < mrecBase ∨ mrecBase + 1024 ≤ off → (∀ h, findKey (blockOf off) s.latches = some h → off ≠ h.1 + 4) →
    (readWord off s).1 = 0) ∧
  (∀ (b : Block) (off : Nat) (s : State), pwrState s < 2 → lockOf b.val = some off → ∃ t, exec (.lockSet b) s = .next t ∧
    isLocked b.val t = true ∧ OnlyRegs [off] s t) ∧
  (∀ (b : Block) (s : State), lockOf b.val = none → exec (.lockSet b) s = .next s) ∧
  (∀ (r : RegRead) (s : State), (reaches r.who s = false → exec (.lowHalfRead r) s = .next s) ∧
    (reaches r.who s = true → ∃ t, exec (.lowHalfRead r) s = .next t ∧ { t with latches := s.latches, out := s.out } = s ∧
      (r.width = 32 → r.offset % 4 = 0 → t.out.rdata = leBytes 4 (readWord r.offset s).1) ∧
      (r.width = 32 → r.offset % 4 = 0 → isWide r.offset = true → inHoldfast s = false →
        t.out.rdata = leBytes 4 (liveWord r.offset s) ∧ (isWide (r.offset + 4) = false → (readWord (r.offset + 4) t).1 = liveWord (r.offset + 4) s)) ∧
      (r.width = 64 → r.offset % 8 = 0 → t.out.rdata = leBytes 4 (shownWord r.offset s) ++ leBytes 4 (shownWord (r.offset + 4) s) ∧ t.latches = s.latches) ∧
      (¬ (r.width = 32 ∧ r.offset % 4 = 0) → ¬ (r.width = 64 ∧ r.offset % 8 = 0) → t.out.rdata = List.replicate (r.width / 8) 0 ∧ t.latches = s.latches)))
end

