-- ==== Sys2Proof/Laws/Lists.lean ====
section
/-! SUPPORT. Laws of the sparse lists and of bit fields: a read after a write, and the canonical form that every operation
keeps. -/

namespace Sys2Proof.Machine

variable {V : Type}

theorem AL.get_erase_self (d : V) (k : Nat) (l : List (Nat × V)) : AL.get d k (AL.erase k l) = d := by
  induction l with
  | nil => rfl
  | cons p t ih =>
    obtain ⟨j, v⟩ := p
    by_cases h : j = k
    · simpa [AL.erase, h] using ih
    · simpa [AL.erase, AL.get, h] using ih

theorem AL.get_erase_ne (d : V) {k j : Nat} (h : k ≠ j) (l : List (Nat × V)) : AL.get d k (AL.erase j l) = AL.get d k l := by
  induction l with
  | nil => rfl
  | cons p t ih =>
    obtain ⟨i, v⟩ := p
    by_cases hi : i = j
    · have hk : ¬ j = k := fun e => h e.symm
      simpa [AL.erase, AL.get, hi, hk] using ih
    · by_cases hk : i = k
      · simp [AL.erase, AL.get, hk, h]
      · simpa [AL.erase, AL.get, hi, hk] using ih

theorem AL.get_insert_self (d : V) (k : Nat) (v : V) (l : List (Nat × V)) : AL.get d k (AL.insert k v l) = v := by
  induction l with
  | nil => simp [AL.insert, AL.get]
  | cons p t ih =>
    obtain ⟨j, w⟩ := p
    by_cases h1 : k < j
    · simp [AL.insert, AL.get, h1]
    · by_cases h2 : k = j
      · simp [AL.insert, AL.get, h2]
      · have h3 : ¬ j = k := fun e => h2 e.symm
        simpa [AL.insert, AL.get, h1, h2, h3] using ih

theorem AL.get_insert_ne (d : V) {k j : Nat} (h : k ≠ j) (v : V) (l : List (Nat × V)) :
    AL.get d k (AL.insert j v l) = AL.get d k l := by
  have h' : ¬ j = k := fun e => h e.symm
  induction l with
  | nil => simp [AL.insert, AL.get, h']
  | cons p t ih =>
    obtain ⟨i, w⟩ := p
    by_cases h1 : j < i
    · simp [AL.insert, AL.get, h1, h']
    · by_cases h2 : j = i
      · subst h2; simp [AL.insert, AL.get, h']
      · rw [AL.insert, if_neg h1, if_neg h2]
        by_cases hk : i = k
        · simp [AL.get, hk]
        · simpa [AL.get, hk] using ih

/-- A member reads as it was last set. -/
theorem AL.get_set_self [DecidableEq V] (d : V) (k : Nat) (v : V) (l : List (Nat × V)) : AL.get d k (AL.set d k v l) = v := by
  unfold AL.set
  split
  · rename_i h; rw [h, AL.get_erase_self]
  · exact AL.get_insert_self d k v l

/-- Setting one member leaves every other as it was. -/
theorem AL.get_set_ne [DecidableEq V] (d e : V) {k j : Nat} (h : k ≠ j) (v : V) (l : List (Nat × V)) :
    AL.get d k (AL.set e j v l) = AL.get d k l := by
  unfold AL.set
  split
  · exact AL.get_erase_ne d h l
  · exact AL.get_insert_ne d h v l

/-! ### The canonical form -/

theorem AL.wfFrom_weaken [DecidableEq V] {d : Nat → V} {a b : Nat} (h : a ≤ b) {l : List (Nat × V)}
    (w : AL.wfFrom d (some b) l = true) : AL.wfFrom d (some a) l = true := by
  cases l with
  | nil => rfl
  | cons p t =>
    obtain ⟨k, v⟩ := p
    simp only [AL.wfFrom, Bool.and_eq_true, decide_eq_true_eq] at w ⊢
    exact ⟨⟨by omega, w.1.2⟩, w.2⟩

theorem AL.wfFrom_none [DecidableEq V] {d : Nat → V} {b : Nat} {l : List (Nat × V)}
    (w : AL.wfFrom d (some b) l = true) : AL.wfFrom d none l = true := by
  cases l with
  | nil => rfl
  | cons p t =>
    obtain ⟨k, v⟩ := p
    simp only [AL.wfFrom, Bool.and_eq_true, decide_eq_true_eq] at w ⊢
    exact ⟨⟨trivial, w.1.2⟩, w.2⟩

theorem AL.wfFrom_filter [DecidableEq V] {d : Nat → V} (p : Nat × V → Bool) {l : List (Nat × V)} :
    ∀ {lo : Option Nat}, AL.wfFrom d lo l = true → AL.wfFrom d lo (l.filter p) = true := by
  induction l with
  | nil => intro lo _; rfl
  | cons x t ih =>
    obtain ⟨k, v⟩ := x
    intro lo w
    have w' := w
    simp only [AL.wfFrom, Bool.and_eq_true, decide_eq_true_eq] at w
    by_cases h : p (k, v)
    · rw [List.filter_cons_of_pos h]
      simp only [AL.wfFrom, Bool.and_eq_true, decide_eq_true_eq]
      exact ⟨w.1, ih w.2⟩
    · rw [List.filter_cons_of_neg h]
      have r := ih w.2
      cases lo with
      | none => exact AL.wfFrom_none r
      | some a => exact AL.wfFrom_weaken (by have := w.1.1; simp at this; omega) r

theorem AL.erase_eq_filter (k : Nat) (l : List (Nat × V)) : AL.erase k l = l.filter (fun x => !(x.1 == k)) := by
  induction l with
  | nil => rfl
  | cons x t ih =>
    obtain ⟨j, v⟩ := x
    by_cases h : j = k <;> simp [AL.erase, h, ih]

theorem AL.wfFrom_insert [DecidableEq V] {d : Nat → V} {k : Nat} {v : V} (hv : v ≠ d k) {l : List (Nat × V)} :
    ∀ {lo : Option Nat}, (∀ a, lo = some a → a < k) → AL.wfFrom d lo l = true → AL.wfFrom d lo (AL.insert k v l) = true := by
  induction l with
  | nil =>
    intro lo hlo _
    cases lo with
    | none => simp [AL.insert, AL.wfFrom, hv]
    | some a => simp [AL.insert, AL.wfFrom, hv, hlo a rfl]
  | cons x t ih =>
    obtain ⟨j, w⟩ := x
    intro lo hlo h
    simp only [AL.wfFrom, Bool.and_eq_true, decide_eq_true_eq] at h
    by_cases h1 : k < j
    · simp only [AL.insert, h1, if_true, AL.wfFrom, Bool.and_eq_true, decide_eq_true_eq]
      refine ⟨⟨?_, hv⟩, ⟨trivial, h.1.2⟩, h.2⟩
      cases lo with
      | none => rfl
      | some a => simp [hlo a rfl]
    · by_cases h2 : k = j
      · subst h2
        simp only [AL.insert, lt_irrefl, if_false, if_true, AL.wfFrom, Bool.and_eq_true, decide_eq_true_eq]
        exact ⟨⟨h.1.1, hv⟩, h.2⟩
      · simp only [AL.insert, h1, h2, if_false, AL.wfFrom, Bool.and_eq_true, decide_eq_true_eq]
        refine ⟨h.1, ih ?_ h.2⟩
        intro a e
        cases e
        omega

/-- Setting a member keeps the canonical form. -/
theorem AL.wf_set [DecidableEq V] {d : Nat → V} (k : Nat) (v : V) {l : List (Nat × V)} (w : AL.wf d l = true) :
    AL.wf d (AL.set (d k) k v l) = true := by
  unfold AL.set
  split
  · rw [AL.erase_eq_filter]; exact AL.wfFrom_filter _ w
  · rename_i h; exact AL.wfFrom_insert h (by intro a e; cases e) w

/-- Leaving members out keeps the canonical form. -/
theorem AL.wf_filter [DecidableEq V] {d : Nat → V} (p : Nat × V → Bool) {l : List (Nat × V)} (w : AL.wf d l = true) :
    AL.wf d (l.filter p) = true := AL.wfFrom_filter p w

/-! ### Bit fields -/

/-- Each bit of a word after a field has been replaced. -/
theorem testBit_setBits (v hi lo x i : Nat) (h : lo ≤ hi) :
    (setBits v hi lo x).testBit i = if lo ≤ i ∧ i ≤ hi then x.testBit (i - lo) else v.testBit i := by
  unfold setBits bits
  set w := hi + 1 - lo with hw
  have hv : v = (v >>> lo >>> w) * 2 ^ (lo + w) + ((v >>> lo) % 2 ^ w) * 2 ^ lo + v % 2 ^ lo := by
    have a := Nat.div_add_mod v (2 ^ lo)
    have b := Nat.div_add_mod (v / 2 ^ lo) (2 ^ w)
    rw [Nat.shiftRight_eq_div_pow, Nat.shiftRight_eq_div_pow]
    calc v = 2 ^ lo * (v / 2 ^ lo) + v % 2 ^ lo := a.symm
      _ = 2 ^ lo * (2 ^ w * (v / 2 ^ lo / 2 ^ w) + v / 2 ^ lo % 2 ^ w) + v % 2 ^ lo := by rw [b]
      _ = _ := by ring
  have e : v - ((v >>> lo) % 2 ^ w) <<< lo + (x % 2 ^ w) <<< lo
      = 2 ^ (lo + w) * (v >>> lo >>> w) + (2 ^ lo * (x % 2 ^ w) + v % 2 ^ lo) := by
    rw [Nat.shiftLeft_eq, Nat.shiftLeft_eq]
    generalize hA : v >>> lo >>> w = A at *
    generalize hB : (v >>> lo) % 2 ^ w = B at *
    generalize hC : v % 2 ^ lo = C at *
    have : v - B * 2 ^ lo = A * 2 ^ (lo + w) + C := by omega
    rw [this]; ring
  rw [e]
  have hx : x % 2 ^ w < 2 ^ w := Nat.mod_lt _ (by positivity)
  have hc : v % 2 ^ lo < 2 ^ lo := Nat.mod_lt _ (by positivity)
  have hin : 2 ^ lo * (x % 2 ^ w) + v % 2 ^ lo < 2 ^ (lo + w) := by
    calc 2 ^ lo * (x % 2 ^ w) + v % 2 ^ lo < 2 ^ lo * (x % 2 ^ w) + 2 ^ lo := by omega
      _ = 2 ^ lo * (x % 2 ^ w + 1) := by ring
      _ ≤ 2 ^ lo * 2 ^ w := Nat.mul_le_mul_left _ hx
      _ = 2 ^ (lo + w) := (pow_add 2 lo w).symm
  rw [Nat.testBit_two_pow_mul_add _ hin]
  by_cases h1 : i < lo + w
  · rw [if_pos h1, Nat.testBit_two_pow_mul_add _ hc]
    by_cases h2 : i < lo
    · rw [if_pos h2, if_neg (by omega), Nat.testBit_mod_two_pow]; simp [h2]
    · rw [if_neg h2, if_pos (by omega), Nat.testBit_mod_two_pow]
      have : i - lo < w := by omega
      simp [this]
  · rw [if_neg h1, if_neg (by omega)]
    simp only [Nat.testBit_shiftRight]
    congr 1
    omega

theorem testBit_bits (v hi lo i : Nat) : (bits v hi lo).testBit i = (decide (i < hi + 1 - lo) && v.testBit (lo + i)) := by
  simp [bits, Nat.testBit_mod_two_pow, Nat.testBit_shiftRight]

/-- A field reads as it was last written. -/
theorem bits_setBits_self (v hi lo x : Nat) (h : lo ≤ hi) : bits (setBits v hi lo x) hi lo = x % 2 ^ (hi + 1 - lo) := by
  apply Nat.eq_of_testBit_eq
  intro i
  rw [testBit_bits, testBit_setBits _ _ _ _ _ h, Nat.testBit_mod_two_pow]
  by_cases hi' : i < hi + 1 - lo
  · rw [if_pos (by omega)]; simp [hi']
  · simp [hi']

/-- Writing a field leaves the fields beside it. -/
theorem bits_setBits_disjoint (v hi lo x a b : Nat) (h : lo ≤ hi) (d : a < lo ∨ hi < b) :
    bits (setBits v hi lo x) a b = bits v a b := by
  apply Nat.eq_of_testBit_eq
  intro i
  rw [testBit_bits, testBit_bits, testBit_setBits _ _ _ _ _ h]
  by_cases hi' : i < a + 1 - b
  · rw [if_neg (by omega)]
  · simp [hi']

end Sys2Proof.Machine
end

