-- ==== Sys2Proof/Laws/KeptBase.lean ====
section
/-! SUPPORT. What no operation of the module changes (`Kept`): the plain operations keep it, and so do the shapes in which
larger operations are built from them (branches, folds, record updates). -/

namespace Sys2Proof.Machine

open Sys2Proof

/-- What no operation of the module changes, from a state `r` on: memory and registers stay in their one canonical form, the
queue of waiting commands is not touched, a fused key hash stays, and neither fused counter falls (R333, R338). -/
structure Kept (r s : State) : Prop where
  canonical : Canonical s
  pending   : s.pending = r.pending
  opKeys    : r.naust.opKeys <+: s.naust.opKeys
  qorwyn    : s.naust.qorwyn = r.naust.qorwyn
  keeperCtr : r.naust.keeperCtr ≤ s.naust.keeperCtr
  ceilCtr   : r.naust.ceilCtr ≤ s.naust.ceilCtr

theorem Kept.refl {s : State} (h : Canonical s) : Kept s s := ⟨h, rfl, List.prefix_rfl, rfl, le_rfl, le_rfl⟩

variable {r₀ : State}

/-- What an operation that may fail gives is canonical. -/
def KeptO (r₀ : State) (o : Option State) : Prop := ∀ t, o = some t → Kept r₀ t

theorem kept_ite {c : Prop} [Decidable c] {a b : State} (ha : Kept r₀ a) (hb : Kept r₀ b) :
    Kept r₀ (if c then a else b) := by split <;> assumption

theorem kept_cond {c : Prop} [Decidable c] {a b : State} (ha : c → Kept r₀ a) (hb : ¬ c → Kept r₀ b) :
    Kept r₀ (if c then a else b) := by
  split
  · exact ha ‹_›
  · exact hb ‹_›

theorem keptO_ite {c : Prop} [Decidable c] {a b : Option State} (ha : KeptO r₀ a) (hb : KeptO r₀ b) :
    KeptO r₀ (if c then a else b) := by split <;> assumption

theorem keptO_some {a : State} (h : Kept r₀ a) : KeptO r₀ (some a) := by
  intro t e; cases e; exact h

theorem keptO_none : KeptO r₀ none := by
  intro t e; cases e

theorem kept_getD {o : Option State} {d : State} (ho : KeptO r₀ o) (hd : Kept r₀ d) : Kept r₀ (o.getD d) := by
  cases o with
  | none => exact hd
  | some t => exact ho t rfl

theorem kept_foldl {α : Type} {f : State → α → State} (hf : ∀ t x, Kept r₀ t → Kept r₀ (f t x)) {l : List α} :
    ∀ {s : State}, Kept r₀ s → Kept r₀ (l.foldl f s) := by
  induction l with
  | nil => intro s h; exact h
  | cons x t ih => intro s h; exact ih (hf s x h)

theorem keptP2_foldl {α β : Type} {f : β × State → α → β × State} (hf : ∀ t x, Kept r₀ t.2 → Kept r₀ (f t x).2) {l : List α} :
    ∀ {r : β × State}, Kept r₀ r.2 → Kept r₀ (l.foldl f r).2 := by
  induction l with
  | nil => intro r h; exact h
  | cons x t ih => intro r h; exact ih (hf r x h)

theorem keptP1_foldl {α β : Type} {f : State × β → α → State × β} (hf : ∀ t x, Kept r₀ t.1 → Kept r₀ (f t x).1) {l : List α} :
    ∀ {r : State × β}, Kept r₀ r.1 → Kept r₀ (l.foldl f r).1 := by
  induction l with
  | nil => intro r h; exact h
  | cons x t ih => intro r h; exact ih (hf r x h)

/-- A record that differs from `s` in fields that `Kept` does not look at. -/
theorem kept_lit {s : State}
    {a1 : List (Nat × Nat × Nat)} {a3 : List Nat} {a4 : List UndefRange} {a5 : List (Nat × Nat)} {a6 : List (Nat × QueueX)}
    {a7 : List Started} {a8 : Nat} {a9 : List (Nat × Nat)} {a10 : List (Nat × Nat × Nat)} {a11 : List (Nat × CoreX)} {a12 :
    Option (Nat × Bool)} {a13 : KvpX} {a14 : List (Nat × AccRegion)} {a15 : List Nat} {a16 : BankX} {a17 : List (Nat ×
    StreamX)} {a18 : List (Nat × HalfX)} {a19 : List (Nat × ChanX)} {a20 : List (Nat × StashEntry)} {a21 : List (Nat ×
    StashDie)} {a22 : List (Nat × CompX)} {a23 : List (Nat × PortX)} {a24 : List ReadOut} {a25 : List Msg} {a26 : List RedOp}
    {a27 : List RedOp} {a28 : RelayX} {a29 : KeeperX} {a30 : List SavedImage} {a31 : List (Nat × CodecX)} {a32 : PowerX} {a34
    : SnapX} {a35 : BootX} {a36 : PcieX} {a37 : MgmtX} {a38 : OutX} {a39 : Nat}
    (h : Kept r₀ s) :
    Kept r₀ (State.mk s.regs a1 s.mem a3 a4 a5 a6 a7 a8 a9 a10 a11 a12 a13 a14 a15 a16 a17 a18 a19 a20 a21 a22 a23 a24
      a25 a26 a27 a28 a29 a30 a31 a32 s.naust a34 a35 a36 a37 a38 a39 s.pending) :=
  ⟨h.canonical, h.pending, h.opKeys, h.qorwyn, h.keeperCtr, h.ceilCtr⟩

/-- As before, with a change in Naust that leaves the fuses. -/
theorem kept_lit_naust {s : State}
    {a1 : List (Nat × Nat × Nat)} {a3 : List Nat} {a4 : List UndefRange} {a5 : List (Nat × Nat)} {a6 : List (Nat × QueueX)}
    {a7 : List Started} {a8 : Nat} {a9 : List (Nat × Nat)} {a10 : List (Nat × Nat × Nat)} {a11 : List (Nat × CoreX)} {a12 :
    Option (Nat × Bool)} {a13 : KvpX} {a14 : List (Nat × AccRegion)} {a15 : List Nat} {a16 : BankX} {a17 : List (Nat ×
    StreamX)} {a18 : List (Nat × HalfX)} {a19 : List (Nat × ChanX)} {a20 : List (Nat × StashEntry)} {a21 : List (Nat ×
    StashDie)} {a22 : List (Nat × CompX)} {a23 : List (Nat × PortX)} {a24 : List ReadOut} {a25 : List Msg} {a26 : List RedOp}
    {a27 : List RedOp} {a28 : RelayX} {a29 : KeeperX} {a30 : List SavedImage} {a31 : List (Nat × CodecX)} {a32 : PowerX} {a33
    : NaustX} {a34 : SnapX} {a35 : BootX} {a36 : PcieX} {a37 : MgmtX} {a38 : OutX} {a39 : Nat}
    (e1 : a33.opKeys = s.naust.opKeys) (e2 : a33.qorwyn = s.naust.qorwyn)
    (e3 : a33.keeperCtr = s.naust.keeperCtr) (e4 : a33.ceilCtr = s.naust.ceilCtr)
    (h : Kept r₀ s) :
    Kept r₀ (State.mk s.regs a1 s.mem a3 a4 a5 a6 a7 a8 a9 a10 a11 a12 a13 a14 a15 a16 a17 a18 a19 a20 a21 a22 a23 a24
      a25 a26 a27 a28 a29 a30 a31 a32 a33 a34 a35 a36 a37 a38 a39 s.pending) :=
  ⟨h.canonical, h.pending, e1 ▸ h.opKeys, e2.trans h.qorwyn, e3 ▸ h.keeperCtr, e4 ▸ h.ceilCtr⟩

theorem rset_kept {off v : Nat} {s : State} (h : Kept r₀ s) : Kept r₀ (rset off v s) :=
  { h with canonical := ⟨h.canonical.1, AL.wf_set off v h.canonical.2⟩ }

theorem putBytes_wf (b : Bytes) : ∀ (a : Nat) (m : List Host.Cell), Memory.wf m = true → Memory.wf (putBytes a b m) = true := by
  induction b with
  | nil => intro a m h; exact h
  | cons x t ih => intro a m h; exact ih (a + 1) _ (AL.wf_set (d := fun _ => (0 : Byte)) a x h)

theorem storeBytes_kept {a : Nat} {b : Bytes} {bad : Bool} {s : State} (h : Kept r₀ s) : Kept r₀ (storeBytes a b bad s) :=
  { h with canonical := ⟨putBytes_wf b a s.mem h.canonical.1, h.canonical.2⟩ }

theorem zeroRange_kept {lo hi : Nat} {s : State} (h : Kept r₀ s) : Kept r₀ (zeroRange lo hi s) :=
  { h with canonical := ⟨AL.wf_filter _ h.canonical.1, h.canonical.2⟩ }

end Sys2Proof.Machine
end

