-- ==== Sys2Proof/Laws/KeptOps.lean ====
section
/-! SUPPORT. Every operation of Machine/Ops.lean keeps what `Kept` names. -/

namespace Sys2Proof.Machine

open Sys2Proof

variable {r₀ : State}

theorem rsetBits_kept {off hi lo x : Nat} {s : State} (h_s : Kept r₀ s) : Kept r₀ (rsetBits off hi lo x s) := by
  unfold rsetBits
  try dsimp only
  repeat' first
    | with_reducible assumption | with_reducible apply rset_kept

theorem rsetBit_kept {off i : Nat} {s : State} (h_s : Kept r₀ s) : Kept r₀ (rsetBit off i s) := by
  unfold rsetBit
  try dsimp only
  repeat' first
    | with_reducible assumption | with_reducible apply rset_kept

theorem rclrBit_kept {off i : Nat} {s : State} (h_s : Kept r₀ s) : Kept r₀ (rclrBit off i s) := by
  unfold rclrBit
  try dsimp only
  repeat' first
    | with_reducible assumption | with_reducible apply rsetBits_kept

theorem rcountBy_kept {off n : Nat} {s : State} (h_s : Kept r₀ s) : Kept r₀ (rcountBy off n s) := by
  unfold rcountBy
  try dsimp only
  repeat' first
    | with_reducible assumption | with_reducible apply rset_kept

theorem rcount_kept {off : Nat} {s : State} (h_s : Kept r₀ s) : Kept r₀ (rcount off s) := by
  unfold rcount
  try dsimp only
  repeat' first
    | with_reducible assumption | with_reducible apply rcountBy_kept

theorem rcountSat_kept {off : Nat} {s : State} (h_s : Kept r₀ s) : Kept r₀ (rcountSat off s) := by
  unfold rcountSat
  try dsimp only
  repeat' first
    | with_reducible assumption | with_reducible apply rsetBits_kept

theorem misuse_kept {b : Nat} {s : State} (h_s : Kept r₀ s) : Kept r₀ (misuse b s) := by
  unfold misuse
  try dsimp only
  repeat' first
    | with_reducible assumption | with_reducible apply rcountSat_kept | split

theorem setQx_kept {q : Nat} {x : QueueX} {s : State} (h_s : Kept r₀ s) : Kept r₀ (setQx q x s) := by
  unfold setQx
  try dsimp only
  repeat' first
    | with_reducible assumption | split | fail_if_no_progress with_reducible apply kept_lit

theorem setCorex_kept {n : Nat} {x : CoreX} {s : State} (h_s : Kept r₀ s) : Kept r₀ (setCorex n x s) := by
  unfold setCorex
  try dsimp only
  repeat' first
    | with_reducible assumption | split | fail_if_no_progress with_reducible apply kept_lit

theorem setPortx_kept {p : Nat} {x : PortX} {s : State} (h_s : Kept r₀ s) : Kept r₀ (setPortx p x s) := by
  unfold setPortx
  try dsimp only
  repeat' first
    | with_reducible assumption | split | fail_if_no_progress with_reducible apply kept_lit

theorem setSlotx_kept {q : Nat} {x : SlotX} {s : State} (h_s : Kept r₀ s) : Kept r₀ (setSlotx q x s) := by
  unfold setSlotx
  try dsimp only
  repeat' first
    | with_reducible assumption | split | fail_if_no_progress with_reducible apply kept_lit

theorem setStreamx_kept {i : Nat} {x : StreamX} {s : State} (h_s : Kept r₀ s) : Kept r₀ (setStreamx i x s) := by
  unfold setStreamx
  try dsimp only
  repeat' first
    | with_reducible assumption | split | fail_if_no_progress with_reducible apply kept_lit

theorem setHalfx_kept {h : Nat} {x : HalfX} {s : State} (h_s : Kept r₀ s) : Kept r₀ (setHalfx h x s) := by
  unfold setHalfx
  try dsimp only
  repeat' first
    | with_reducible assumption | split | fail_if_no_progress with_reducible apply kept_lit

theorem setChanx_kept {n : Nat} {x : ChanX} {s : State} (h_s : Kept r₀ s) : Kept r₀ (setChanx n x s) := by
  unfold setChanx
  try dsimp only
  repeat' first
    | with_reducible assumption | split | fail_if_no_progress with_reducible apply kept_lit

theorem setStashx_kept {e : Nat} {x : StashEntry} {s : State} (h_s : Kept r₀ s) : Kept r₀ (setStashx e x s) := by
  unfold setStashx
  try dsimp only
  repeat' first
    | with_reducible assumption | split | fail_if_no_progress with_reducible apply kept_lit

theorem setStashd_kept {d : Nat} {x : StashDie} {s : State} (h_s : Kept r₀ s) : Kept r₀ (setStashd d x s) := by
  unfold setStashd
  try dsimp only
  repeat' first
    | with_reducible assumption | split | fail_if_no_progress with_reducible apply kept_lit

theorem setCompx_kept {p : Nat} {x : CompX} {s : State} (h_s : Kept r₀ s) : Kept r₀ (setCompx p x s) := by
  unfold setCompx
  try dsimp only
  repeat' first
    | with_reducible assumption | split | fail_if_no_progress with_reducible apply kept_lit

theorem setCodecx_kept {v : Nat} {x : CodecX} {s : State} (h_s : Kept r₀ s) : Kept r₀ (setCodecx v x s) := by
  unfold setCodecx
  try dsimp only
  repeat' first
    | with_reducible assumption | split | fail_if_no_progress with_reducible apply kept_lit

theorem bumpFree_kept {s : State} (h_s : Kept r₀ s) : Kept r₀ (bumpFree s) := by
  unfold bumpFree
  try dsimp only
  repeat' first
    | with_reducible assumption | split | fail_if_no_progress with_reducible apply kept_lit

theorem updStarted_kept {c : Nat} {f : Started → Started} {s : State} (h_s : Kept r₀ s) : Kept r₀ (updStarted c f s) := by
  unfold updStarted
  try dsimp only
  repeat' first
    | with_reducible assumption | with_reducible apply kept_ite | split | fail_if_no_progress with_reducible apply kept_lit

theorem markDone_kept {c : Nat} {s : State} (h_s : Kept r₀ s) : Kept r₀ (markDone c s) := by
  unfold markDone
  try dsimp only
  repeat' first
    | with_reducible assumption | with_reducible apply updStarted_kept

theorem addFlags_kept {c fl : Nat} {s : State} (h_s : Kept r₀ s) : Kept r₀ (addFlags c fl s) := by
  unfold addFlags
  try dsimp only
  repeat' first
    | with_reducible assumption | with_reducible apply updStarted_kept

theorem setProg_kept {c n : Nat} {s : State} (h_s : Kept r₀ s) : Kept r₀ (setProg c n s) := by
  unfold setProg
  try dsimp only
  repeat' first
    | with_reducible assumption | with_reducible apply updStarted_kept

theorem captureUnmapped_kept {a : Nat} {s : State} (h_s : Kept r₀ s) : Kept r₀ (captureUnmapped a s) := by
  unfold captureUnmapped
  try dsimp only
  repeat' first
    | with_reducible assumption | with_reducible apply rsetBit_kept | with_reducible apply rset_kept
    | with_reducible apply kept_ite

theorem captureReach_kept {a : Nat} {s : State} (h_s : Kept r₀ s) : Kept r₀ (captureReach a s) := by
  unfold captureReach
  try dsimp only
  repeat' first
    | with_reducible assumption | with_reducible apply captureUnmapped_kept | with_reducible apply kept_ite

theorem touchRange_kept {a n : Nat} {s : State} (h_s : Kept r₀ s) : Kept r₀ (touchRange a n s) := by
  unfold touchRange
  try dsimp only
  repeat' first
    | with_reducible assumption | with_reducible apply kept_foldl | with_reducible apply keptP2_foldl
    | with_reducible apply keptP1_foldl | split | fail_if_no_progress with_reducible apply kept_lit

theorem forgetRange_kept {lo hi : Nat} {s : State} (h_s : Kept r₀ s) : Kept r₀ (forgetRange lo hi s) := by
  unfold forgetRange
  try dsimp only
  repeat' first
    | with_reducible assumption | with_reducible apply kept_ite | split | fail_if_no_progress with_reducible apply kept_lit

theorem touchRead_kept {s : State} {x : Nat × Nat} (h_s : Kept r₀ s) : Kept r₀ (touchRead s x) := by
  unfold touchRead
  try dsimp only
  repeat' first
    | with_reducible assumption | with_reducible apply touchRange_kept | split

theorem touchReads_kept {l : List (Nat × Nat)} {s : State} (h_s : Kept r₀ s) : Kept r₀ (touchReads l s) := by
  unfold touchReads
  try dsimp only
  repeat' first
    | with_reducible assumption | with_reducible apply touchRead_kept | with_reducible apply kept_foldl

theorem forgetAt_kept {s : State} {x : Nat × Nat} (h_s : Kept r₀ s) : Kept r₀ (forgetAt s x) := by
  unfold forgetAt
  try dsimp only
  repeat' first
    | with_reducible assumption | with_reducible apply forgetRange_kept | split

theorem raiseVector_kept {v : Nat} {s : State} (h_s : Kept r₀ s) : Kept r₀ (raiseVector v s) := by
  unfold raiseVector
  try dsimp only
  repeat' first
    | with_reducible assumption | with_reducible apply kept_ite | split | fail_if_no_progress with_reducible apply kept_lit

theorem deliverPending_kept {s : State} (h_s : Kept r₀ s) : Kept r₀ (deliverPending s) := by
  unfold deliverPending
  try dsimp only
  repeat' first
    | with_reducible assumption | with_reducible apply kept_ite | split | fail_if_no_progress with_reducible apply kept_lit

theorem clearConfig_kept {s : State} (h_s : Kept r₀ s) : Kept r₀ (clearConfig s) := by
  unfold clearConfig
  try dsimp only
  repeat' first
    | with_reducible assumption | split | fail_if_no_progress with_reducible apply kept_lit

theorem fireArm_kept {i : Nat} {s : State} (h_s : Kept r₀ s) : Kept r₀ (fireArm i s) := by
  unfold fireArm
  try dsimp only
  repeat' first
    | with_reducible assumption | with_reducible apply raiseVector_kept | with_reducible apply rclrBit_kept
    | with_reducible apply kept_ite

theorem markerPut_kept {m v : Nat} {s : State} (h_s : Kept r₀ s) : Kept r₀ (markerPut m v s) := by
  unfold markerPut
  try dsimp only
  repeat' first
    | with_reducible assumption | with_reducible apply fireArm_kept | with_reducible apply kept_foldl
    | with_reducible apply keptP2_foldl | with_reducible apply keptP1_foldl
    | (with_reducible intro _; with_reducible intros; try dsimp only) | split
    | fail_if_no_progress with_reducible apply kept_lit

theorem fireArms_kept {s : State} (h_s : Kept r₀ s) : Kept r₀ (fireArms s) := by
  unfold fireArms
  try dsimp only
  repeat' first
    | with_reducible assumption | with_reducible apply fireArm_kept | with_reducible apply kept_foldl
    | with_reducible apply keptP2_foldl | with_reducible apply keptP1_foldl
    | (with_reducible intro _; with_reducible intros; try dsimp only)

theorem markerInc_kept {m v : Nat} {s : State} (h_s : Kept r₀ s) : Kept r₀ (markerInc m v s) := by
  unfold markerInc
  try dsimp only
  repeat' first
    | with_reducible assumption | with_reducible apply markerPut_kept

theorem emitFlit_kept {p : Nat} {f : Bytes} {s : State} (h_s : Kept r₀ s) : Kept r₀ (emitFlit p f s) := by
  unfold emitFlit
  try dsimp only
  repeat' first
    | with_reducible assumption | split | fail_if_no_progress with_reducible apply kept_lit

theorem pumpOne_kept {p : Nat} {s : State} (h_s : Kept r₀ s) : KeptO r₀ (pumpOne p s) := by
  unfold pumpOne
  try dsimp only
  repeat' first
    | with_reducible assumption | with_reducible apply rcount_kept | with_reducible apply emitFlit_kept
    | with_reducible apply setPortx_kept | with_reducible apply kept_ite | with_reducible apply keptO_ite
    | with_reducible apply keptO_some | with_reducible exact keptO_none | with_reducible apply kept_getD | split

theorem pump_kept {p : Nat} (n : Nat) : ∀ {s : State}, Kept r₀ s → Kept r₀ (pump p n s) := by
  induction n with
  | zero => intro s h; exact h
  | succ n ih =>
    intro s h
    unfold pump
    split
    · exact h
    · exact ih (pumpOne_kept h _ ‹_›)

theorem speak_kept {p : Nat} {s : State} (h_s : Kept r₀ s) : Kept r₀ (speak p s) := by
  unfold speak
  try dsimp only
  repeat' first
    | with_reducible assumption | with_reducible apply pump_kept | with_reducible apply emitFlit_kept
    | with_reducible apply kept_ite

theorem sendOn_kept {p : Nat} {m : Msg} {s : State} (h_s : Kept r₀ s) : Kept r₀ (sendOn p m s) := by
  unfold sendOn
  try dsimp only
  repeat' first
    | with_reducible assumption | with_reducible apply setPortx_kept | with_reducible apply pump_kept
    | with_reducible apply keptO_ite | with_reducible apply keptO_some | with_reducible exact keptO_none
    | with_reducible apply kept_getD | split | fail_if_no_progress with_reducible apply kept_lit

theorem sendMsg_kept {m : Msg} {s : State} (h_s : Kept r₀ s) : KeptO r₀ (sendMsg m s) := by
  unfold sendMsg
  try dsimp only
  repeat' first
    | with_reducible assumption | with_reducible apply sendOn_kept | with_reducible apply kept_ite
    | with_reducible apply keptO_ite | with_reducible apply keptO_some | with_reducible exact keptO_none
    | with_reducible apply kept_getD | split

theorem sendCtrl_kept {type dm d : Nat} {data : Bytes} {s : State} (h_s : Kept r₀ s) : Kept r₀ (sendCtrl type dm d data s) := by
  unfold sendCtrl
  try dsimp only
  repeat' first
    | with_reducible assumption | with_reducible apply sendMsg_kept | with_reducible apply keptO_ite
    | with_reducible apply keptO_some | with_reducible exact keptO_none | with_reducible apply kept_getD

theorem sendNotice_kept {s : State} {m : Msg} (h_s : Kept r₀ s) : Kept r₀ (sendNotice s m) := by
  unfold sendNotice
  try dsimp only
  repeat' first
    | with_reducible assumption | with_reducible apply sendMsg_kept | refine sendMsg_kept ?_ _ ‹_› | split
    | fail_if_no_progress with_reducible apply kept_lit

theorem sendNotices_kept {s : State} (h_s : Kept r₀ s) : Kept r₀ (sendNotices s) := by
  unfold sendNotices
  try dsimp only
  repeat' first
    | with_reducible assumption | with_reducible apply sendNotice_kept | with_reducible apply kept_foldl
    | with_reducible apply keptP2_foldl | with_reducible apply keptP1_foldl | split
    | fail_if_no_progress with_reducible apply kept_lit

theorem writeIn_kept {a : Nat} {b : Bytes} {bad : Bool} {s : State} (h_s : Kept r₀ s) : Kept r₀ (writeIn a b bad s).s := by
  unfold writeIn
  try dsimp only
  repeat' first
    | with_reducible assumption | with_reducible apply storeBytes_kept | with_reducible apply captureUnmapped_kept
    | with_reducible apply sendMsg_kept | with_reducible apply kept_ite | with_reducible apply keptW_ite
    | refine sendMsg_kept ?_ _ ‹_› | split | fail_if_no_progress with_reducible apply kept_lit

theorem writeMem_kept {a : Nat} {b : Bytes} {s : State} {bad : Bool} (h_s : Kept r₀ s) : Kept r₀ (writeMem a b s bad).s := by
  unfold writeMem
  try dsimp only
  repeat' first
    | with_reducible assumption | with_reducible apply captureReach_kept | with_reducible apply writeIn_kept
    | with_reducible apply kept_ite | with_reducible apply keptW_ite | split

theorem poke_kept {a : Nat} {b : Bytes} {s : State} (h_s : Kept r₀ s) : Kept r₀ (poke a b s) := by
  unfold poke
  try dsimp only
  repeat' first
    | with_reducible assumption | with_reducible apply writeMem_kept

end Sys2Proof.Machine
end

