-- ==== Sys2Proof/Laws/KeptMeter.lean ====
section
/-! SUPPORT. Every operation of Machine/Meter.lean keeps what `Kept` names. -/

namespace Sys2Proof.Machine

open Sys2Proof

variable {r₀ : State}

theorem keptW_ite {c : Prop} [Decidable c] {a b : Wrote} (ha : Kept r₀ a.s) (hb : Kept r₀ b.s) :
    Kept r₀ (if c then a else b).s := by split <;> assumption

theorem keptW_foldl {α : Type} {f : Wrote → α → Wrote} (hf : ∀ t x, Kept r₀ t.s → Kept r₀ (f t x).s) {l : List α} :
    ∀ {r : Wrote}, Kept r₀ r.s → Kept r₀ (l.foldl f r).s := by
  induction l with
  | nil => intro r h; exact h
  | cons x t ih => intro r h; exact ih (hf r x h)

theorem showMbuf_kept {s : State} (h_s : Kept r₀ s) : Kept r₀ (showMbuf s) := by
  unfold showMbuf
  try dsimp only
  repeat' first
    | with_reducible assumption | with_reducible apply rset_kept

theorem openInterval_kept {s : State} (h_s : Kept r₀ s) : Kept r₀ (openInterval s) := by
  unfold openInterval
  try dsimp only
  repeat' first
    | with_reducible assumption | with_reducible apply rset_kept | with_reducible apply kept_foldl
    | with_reducible apply keptP2_foldl | with_reducible apply keptP1_foldl | with_reducible apply keptW_foldl
    | (with_reducible intro _; with_reducible intros; try dsimp only) | split
    | fail_if_no_progress with_reducible apply kept_lit
    | fail_if_no_progress with_reducible refine kept_lit_naust rfl rfl rfl rfl ?_

theorem closeInterval_kept {cause : Nat} {s : State} (h_s : Kept r₀ s) : Kept r₀ (closeInterval cause s) := by
  unfold closeInterval
  try dsimp only
  repeat' first
    | with_reducible assumption | with_reducible apply openInterval_kept | with_reducible apply showMbuf_kept
    | with_reducible apply rsetBit_kept | with_reducible apply kept_ite | split
    | fail_if_no_progress with_reducible apply kept_lit
    | fail_if_no_progress with_reducible refine kept_lit_naust rfl rfl rfl rfl ?_

end Sys2Proof.Machine
end

