-- ==== Sys2Proof/Laws/KeptErrors.lean ====
section
/-! SUPPORT. Every operation of Machine/Errors.lean keeps what `Kept` names. -/

namespace Sys2Proof.Machine

open Sys2Proof

variable {r₀ : State}

theorem forwardTrigger_kept {num hops : Nat} {except : Option Nat} {s : State} (h_s : Kept r₀ s) : Kept r₀ (forwardTrigger num hops except s) := by
  unfold forwardTrigger
  try dsimp only
  repeat' first
    | with_reducible assumption | with_reducible apply sendOn_kept | with_reducible apply kept_ite
    | with_reducible apply kept_foldl | with_reducible apply keptP2_foldl | with_reducible apply keptP1_foldl
    | with_reducible apply keptW_foldl | (with_reducible intro _; with_reducible intros; try dsimp only)

theorem announceTrigger_kept {t : Trig} {s : State} (h_s : Kept r₀ s) : Kept r₀ (announceTrigger t s) := by
  unfold announceTrigger
  try dsimp only
  repeat' first
    | with_reducible assumption | with_reducible apply forwardTrigger_kept | with_reducible apply kept_ite | split
    | fail_if_no_progress with_reducible apply kept_lit

theorem dropTrigger_kept {t : Trig} {s : State} (h_s : Kept r₀ s) : Kept r₀ (dropTrigger t s) := by
  unfold dropTrigger
  try dsimp only
  repeat' first
    | with_reducible assumption | with_reducible apply announceTrigger_kept | with_reducible apply rset_kept
    | with_reducible apply rcountSat_kept

theorem queueTrigger_kept {t : Trig} {s : State} (h_s : Kept r₀ s) : Kept r₀ (queueTrigger t s) := by
  unfold queueTrigger
  try dsimp only
  repeat' first
    | with_reducible assumption | with_reducible apply dropTrigger_kept | with_reducible apply kept_ite | split
    | fail_if_no_progress with_reducible apply kept_lit

theorem moduleTrigger_kept {kind block : Nat} {hf : Bool} {s : State} (h_s : Kept r₀ s) : Kept r₀ (moduleTrigger kind block hf s) := by
  unfold moduleTrigger
  try dsimp only
  repeat' first
    | with_reducible assumption | with_reducible apply queueTrigger_kept | with_reducible apply rset_kept

theorem snapOn_kept {off i kind block : Nat} {s : State} (h_s : Kept r₀ s) : Kept r₀ (snapOn off i kind block s) := by
  unfold snapOn
  try dsimp only
  repeat' first
    | with_reducible assumption | with_reducible apply moduleTrigger_kept | with_reducible apply kept_ite

theorem logError_kept {cls v : Nat} {s : State} (h_s : Kept r₀ s) : Kept r₀ (logError cls v s) := by
  unfold logError
  try dsimp only
  repeat' first
    | with_reducible assumption | with_reducible apply rset_kept | with_reducible apply kept_ite

theorem errorVector_kept {cls : Nat} {first : Bool} {s : State} (h_s : Kept r₀ s) : Kept r₀ (errorVector cls first s) := by
  unfold errorVector
  try dsimp only
  repeat' first
    | with_reducible assumption | with_reducible apply raiseVector_kept | with_reducible apply kept_ite | split

theorem reportError_kept {cls block cause queue inst : Nat} {s : State} (h_s : Kept r₀ s) : Kept r₀ (reportError cls block cause queue inst s) := by
  unfold reportError
  try dsimp only
  repeat' first
    | with_reducible assumption | with_reducible apply rcount_kept | with_reducible apply rcountSat_kept
    | with_reducible apply rsetBit_kept | with_reducible apply moduleTrigger_kept | with_reducible apply logError_kept
    | with_reducible apply errorVector_kept | with_reducible apply kept_ite

theorem countLocked_kept {s : State} (h_s : Kept r₀ s) : Kept r₀ (countLocked s) := by
  unfold countLocked
  try dsimp only
  repeat' first
    | with_reducible assumption | with_reducible apply rcountSat_kept

theorem setQState_kept {q v : Nat} {s : State} (h_s : Kept r₀ s) : Kept r₀ (setQState q v s) := by
  unfold setQState
  try dsimp only
  repeat' first
    | with_reducible assumption | with_reducible apply rsetBits_kept

theorem writeRecord_kept {q : Nat} {f : Flight} {status unit detail : Nat} {s : State} (h_s : Kept r₀ s) : Kept r₀ (writeRecord q f status unit detail s) := by
  unfold writeRecord
  try dsimp only
  repeat' first
    | with_reducible assumption | with_reducible apply sendCtrl_kept | with_reducible apply poke_kept
    | with_reducible apply raiseVector_kept | with_reducible apply kept_ite

theorem chanEnd_kept {n st err : Nat} {s : State} (h_s : Kept r₀ s) : Kept r₀ (chanEnd n st err s) := by
  unfold chanEnd
  try dsimp only
  repeat' first
    | with_reducible assumption | with_reducible apply setChanx_kept | with_reducible apply rset_kept
    | with_reducible apply rclrBit_kept | with_reducible apply rsetBits_kept | with_reducible apply rsetBit_kept
    | with_reducible apply raiseVector_kept | with_reducible apply kept_ite

theorem chanAbort_kept {n : Nat} {s : State} (h_s : Kept r₀ s) : Kept r₀ (chanAbort n s) := by
  unfold chanAbort
  try dsimp only
  repeat' first
    | with_reducible assumption | with_reducible apply rsetBits_kept | with_reducible apply chanEnd_kept
    | with_reducible apply kept_ite

theorem stopChannel_kept {cs : List Nat} {s : State} {n : Nat} (h_s : Kept r₀ s) : Kept r₀ (stopChannel cs s n) := by
  unfold stopChannel
  try dsimp only
  repeat' first
    | with_reducible assumption | with_reducible apply chanAbort_kept | with_reducible apply setChanx_kept
    | with_reducible apply kept_ite | split

theorem dropPieces_kept {cs : List Nat} {s : State} (h_s : Kept r₀ s) : Kept r₀ (dropPieces cs s) := by
  unfold dropPieces
  try dsimp only
  repeat' first
    | with_reducible assumption | with_reducible apply setStreamx_kept | with_reducible apply kept_foldl
    | with_reducible apply keptP2_foldl | with_reducible apply keptP1_foldl | with_reducible apply keptW_foldl
    | (with_reducible intro _; with_reducible intros; try dsimp only)

theorem showRbq_kept {s : State} (h_s : Kept r₀ s) : Kept r₀ (showRbq s) := by
  unfold showRbq
  try dsimp only
  repeat' first
    | with_reducible assumption | with_reducible apply rset_kept

theorem releaseOp_kept {o : RedOp} {s : State} (h_s : Kept r₀ s) : Kept r₀ (releaseOp o s) := by
  unfold releaseOp
  try dsimp only
  repeat' first
    | with_reducible assumption | with_reducible apply rset_kept | with_reducible apply showRbq_kept
    | with_reducible apply kept_foldl | with_reducible apply keptP2_foldl | with_reducible apply keptP1_foldl
    | with_reducible apply keptW_foldl | (with_reducible intro _; with_reducible intros; try dsimp only) | split
    | fail_if_no_progress with_reducible apply kept_lit

theorem dropBuckets_kept {cs : List Nat} {s : State} (h_s : Kept r₀ s) : Kept r₀ (dropBuckets cs s) := by
  unfold dropBuckets
  try dsimp only
  repeat' first
    | with_reducible assumption | with_reducible apply releaseOp_kept | with_reducible apply rsetBits_kept
    | with_reducible apply showRbq_kept | with_reducible apply kept_ite | with_reducible apply kept_foldl
    | with_reducible apply keptP2_foldl | with_reducible apply keptP1_foldl | with_reducible apply keptW_foldl
    | (with_reducible intro _; with_reducible intros; try dsimp only) | split
    | fail_if_no_progress with_reducible apply kept_lit

theorem showCore_kept {s : State} {n : Nat} (h_s : Kept r₀ s) : Kept r₀ (showCore s n) := by
  unfold showCore
  try dsimp only
  repeat' first
    | with_reducible assumption | with_reducible apply rsetBits_kept | with_reducible apply rset_kept
    | with_reducible apply kept_ite

theorem freeBanks_kept {inner : List Started} {s : State} (h_s : Kept r₀ s) : Kept r₀ (freeBanks inner s) := by
  unfold freeBanks
  try dsimp only
  repeat' first
    | with_reducible assumption | with_reducible apply rsetBits_kept | with_reducible apply rclrBit_kept
    | with_reducible apply kept_ite | split | fail_if_no_progress with_reducible apply kept_lit

theorem stopCommands_kept {p : Started → Bool} {s : State} (h_s : Kept r₀ s) : Kept r₀ (stopCommands p s) := by
  unfold stopCommands
  try dsimp only
  repeat' first
    | with_reducible assumption | with_reducible apply showCore_kept | with_reducible apply forgetRange_kept
    | with_reducible apply dropBuckets_kept | with_reducible apply dropPieces_kept | with_reducible apply stopChannel_kept
    | with_reducible apply freeBanks_kept | with_reducible apply kept_ite | with_reducible apply kept_foldl
    | with_reducible apply keptP2_foldl | with_reducible apply keptP1_foldl | with_reducible apply keptW_foldl
    | (with_reducible intro _; with_reducible intros; try dsimp only) | split
    | fail_if_no_progress with_reducible apply kept_lit

theorem disableQueue_kept {q : Nat} {s : State} (h_s : Kept r₀ s) : Kept r₀ (disableQueue q s) := by
  unfold disableQueue
  try dsimp only
  repeat' first
    | with_reducible assumption | with_reducible apply setQx_kept | with_reducible apply rsetBits_kept
    | with_reducible apply rset_kept | with_reducible apply rclrBit_kept

theorem stopQueue_kept {status : Nat} {s : State} {q : Nat} (h_s : Kept r₀ s) : Kept r₀ (stopQueue status s q) := by
  unfold stopQueue
  try dsimp only
  repeat' first
    | with_reducible assumption | with_reducible apply disableQueue_kept | with_reducible apply writeRecord_kept
    | with_reducible apply kept_ite | split

theorem stopAll_kept {status : Nat} {s : State} (h_s : Kept r₀ s) : Kept r₀ (stopAll status s) := by
  unfold stopAll
  try dsimp only
  repeat' first
    | with_reducible assumption | with_reducible apply stopCommands_kept | with_reducible apply stopQueue_kept
    | with_reducible apply kept_foldl

theorem setPwrState_kept {v : Nat} {s : State} (h_s : Kept r₀ s) : Kept r₀ (setPwrState v s) := by
  unfold setPwrState
  try dsimp only
  repeat' first
    | with_reducible assumption | with_reducible apply raiseVector_kept | with_reducible apply rsetBit_kept
    | with_reducible apply rsetBits_kept | with_reducible apply kept_ite

theorem setDomain_kept {d : Nat} {on : Bool} {s : State} (h_s : Kept r₀ s) : Kept r₀ (setDomain d on s) := by
  unfold setDomain
  try dsimp only
  repeat' first
    | with_reducible assumption | with_reducible apply rsetBits_kept

theorem leaveSlack_kept {s : State} (h_s : Kept r₀ s) : Kept r₀ (leaveSlack s) := by
  unfold leaveSlack
  try dsimp only
  repeat' first
    | with_reducible assumption | with_reducible apply setPwrState_kept | with_reducible apply kept_ite | split
    | fail_if_no_progress with_reducible apply kept_lit

theorem enterHoldfast_kept {cause num : Nat} {s : State} (h_s : Kept r₀ s) : Kept r₀ (enterHoldfast cause num s) := by
  unfold enterHoldfast
  try dsimp only
  repeat' first
    | with_reducible assumption | with_reducible apply rsetBits_kept | with_reducible apply raiseVector_kept
    | with_reducible apply stopAll_kept | with_reducible apply setPwrState_kept | with_reducible apply rclrBit_kept
    | with_reducible apply kept_ite

theorem chipFatal_kept {block src queue inst : Nat} {s : State} (h_s : Kept r₀ s) : Kept r₀ (chipFatal block src queue inst s) := by
  unfold chipFatal
  try dsimp only
  repeat' first
    | with_reducible assumption | with_reducible apply enterHoldfast_kept | with_reducible apply reportError_kept

theorem emergency_kept {cause num : Nat} {s : State} (h_s : Kept r₀ s) : Kept r₀ (emergency cause num s) := by
  unfold emergency
  try dsimp only
  repeat' first
    | with_reducible assumption | with_reducible apply enterHoldfast_kept | with_reducible apply moduleTrigger_kept
    | with_reducible apply kept_ite

theorem recovering_kept {s : State} (h_s : Kept r₀ s) : Kept r₀ (recovering s) := by
  unfold recovering
  try dsimp only
  repeat' first
    | with_reducible assumption | with_reducible apply rsetBits_kept | with_reducible apply closeInterval_kept
    | with_reducible apply kept_ite

theorem jobFatal_kept {block cause inst : Nat} {s : State} (h_s : Kept r₀ s) : Kept r₀ (jobFatal block cause inst s) := by
  unfold jobFatal
  try dsimp only
  repeat' first
    | with_reducible assumption | with_reducible apply reportError_kept | with_reducible apply stopAll_kept
    | with_reducible apply recovering_kept | with_reducible apply sendCtrl_kept | with_reducible apply kept_ite

theorem setFlight_kept {q : Nat} {f : Flight} {s : State} (h_s : Kept r₀ s) : Kept r₀ (setFlight q f s) := by
  unfold setFlight
  try dsimp only
  repeat' first
    | with_reducible assumption | with_reducible apply setQx_kept

theorem dropFlight_kept {q idx : Nat} {s : State} (h_s : Kept r₀ s) : Kept r₀ (dropFlight q idx s) := by
  unfold dropFlight
  try dsimp only
  repeat' first
    | with_reducible assumption | with_reducible apply setQx_kept

theorem setHead_kept {q k : Nat} {s : State} (h_s : Kept r₀ s) : Kept r₀ (setHead q k s) := by
  unfold setHead
  try dsimp only
  repeat' first
    | with_reducible assumption | with_reducible apply setQx_kept | with_reducible apply rset_kept
    | with_reducible apply kept_ite

theorem advanceHead_kept {q : Nat} {s : State} (h_s : Kept r₀ s) : Kept r₀ (advanceHead q s) := by
  unfold advanceHead
  try dsimp only
  repeat' first
    | with_reducible assumption | with_reducible apply setHead_kept | with_reducible apply setQx_kept | split

theorem entryStarts_kept {q : Nat} {f : Flight} {s : State} (h_s : Kept r₀ s) : Kept r₀ (entryStarts q f s) := by
  unfold entryStarts
  try dsimp only
  repeat' first
    | with_reducible assumption | with_reducible apply rset_kept | with_reducible apply advanceHead_kept
    | with_reducible apply kept_ite

theorem finishEntry_kept {q : Nat} {f : Flight} {status unit detail : Nat} {s : State} (h_s : Kept r₀ s) : Kept r₀ (finishEntry q f status unit detail s) := by
  unfold finishEntry
  try dsimp only
  repeat' first
    | with_reducible assumption | with_reducible apply entryStarts_kept | with_reducible apply dropFlight_kept
    | with_reducible apply writeRecord_kept

theorem settleEntry_kept {q idx : Nat} {s : State} (h_s : Kept r₀ s) : Kept r₀ (settleEntry q idx s) := by
  unfold settleEntry
  try dsimp only
  repeat' first
    | with_reducible assumption | with_reducible apply finishEntry_kept | with_reducible apply kept_ite | split

theorem flushNow_kept {q : Nat} {s : State} (h_s : Kept r₀ s) : Kept r₀ (flushNow q s) := by
  unfold flushNow
  try dsimp only
  repeat' first
    | with_reducible assumption | with_reducible apply finishEntry_kept | with_reducible apply writeRecord_kept
    | with_reducible apply setQx_kept | with_reducible apply setHead_kept | with_reducible apply rset_kept
    | with_reducible apply kept_ite | with_reducible apply kept_foldl | with_reducible apply keptP2_foldl
    | with_reducible apply keptP1_foldl | with_reducible apply keptW_foldl | with_reducible apply keptO_ite
    | with_reducible apply keptO_some | with_reducible exact keptO_none | with_reducible apply kept_getD
    | (with_reducible intro _; with_reducible intros; try dsimp only)

theorem closeQueue_kept {q : Nat} {s : State} (h_s : Kept r₀ s) : Kept r₀ (closeQueue q s) := by
  unfold closeQueue
  try dsimp only
  repeat' first
    | with_reducible assumption | with_reducible apply writeRecord_kept | with_reducible apply disableQueue_kept
    | with_reducible apply misuse_kept | with_reducible apply kept_ite | with_reducible apply kept_foldl
    | with_reducible apply keptP2_foldl | with_reducible apply keptP1_foldl | with_reducible apply keptW_foldl
    | (with_reducible intro _; with_reducible intros; try dsimp only) | split
    | fail_if_no_progress with_reducible apply kept_lit

theorem settleQueue_kept {q : Nat} {s : State} (h_s : Kept r₀ s) : Kept r₀ (settleQueue q s) := by
  unfold settleQueue
  try dsimp only
  repeat' first
    | with_reducible assumption | with_reducible apply closeQueue_kept | with_reducible apply flushNow_kept
    | with_reducible apply kept_ite

theorem showHalt_kept {q : Nat} {h : HaltRec} {s : State} (h_s : Kept r₀ s) : Kept r₀ (showHalt q h s) := by
  unfold showHalt
  try dsimp only
  repeat' first
    | with_reducible assumption | with_reducible apply setQState_kept | with_reducible apply setQx_kept
    | with_reducible apply rset_kept | with_reducible apply rcountSat_kept | with_reducible apply rsetBit_kept
    | with_reducible apply raiseVector_kept | with_reducible apply sendNotice_kept | with_reducible apply kept_ite

theorem haltQueue_kept {q : Nat} {h : HaltRec} {s : State} (h_s : Kept r₀ s) : Kept r₀ (haltQueue q h s) := by
  unfold haltQueue
  try dsimp only
  repeat' first
    | with_reducible assumption | with_reducible apply settleQueue_kept | with_reducible apply setQx_kept
    | with_reducible apply showHalt_kept | with_reducible apply kept_ite

theorem failCmd_kept {c block cause inst : Nat} {s : State} (h_s : Kept r₀ s) : Kept r₀ (failCmd c block cause inst s) := by
  unfold failCmd
  try dsimp only
  repeat' first
    | with_reducible assumption | with_reducible apply updStarted_kept | with_reducible apply reportError_kept
    | with_reducible apply haltQueue_kept | with_reducible apply kept_ite | split

theorem haltMalformed_kept {c : Nat} {s : State} (h_s : Kept r₀ s) : Kept r₀ (haltMalformed c s) := by
  unfold haltMalformed
  try dsimp only
  repeat' first
    | with_reducible assumption | with_reducible apply updStarted_kept | with_reducible apply haltQueue_kept
    | with_reducible apply kept_ite | split

end Sys2Proof.Machine
end

