-- ==== Sys2Proof/Laws/KeptOperands.lean ====
section
/-! SUPPORT. Every operation of Machine/Operands.lean keeps what `Kept` names. -/

namespace Sys2Proof.Machine

open Sys2Proof

variable {r₀ : State}

theorem writeAll_kept : ∀ (n0 : List (Nat × Bytes)) {n1 : State}, Kept r₀ n1 → Kept r₀ (writeAll n0 n1).s := by
  intro n0
  induction n0 with
  | nil => intro n1 h; exact h
  | cons x l ih =>
    obtain ⟨x0, x1⟩ := x
    intro n1 h
    unfold writeAll
    try dsimp only
    repeat' first
      | with_reducible assumption | with_reducible apply writeMem_kept | with_reducible apply ih | split

theorem writeMerged_kept : ∀ (n0 : List ElemPut) {n1 : State}, Kept r₀ n1 → Kept r₀ (writeMerged n0 n1).s := by
  intro n0
  induction n0 with
  | nil => intro n1 h; exact h
  | cons x l ih =>
    intro n1 h
    unfold writeMerged
    try dsimp only
    repeat' first
      | with_reducible assumption | with_reducible apply writeMem_kept | with_reducible apply ih | split

theorem writeElems_kept {ps : List ElemPut} {s : State} (h_s : Kept r₀ s) : Kept r₀ (writeElems ps s).s := by
  unfold writeElems
  try dsimp only
  repeat' first
    | with_reducible assumption | with_reducible apply writeAll_kept | with_reducible apply writeMerged_kept
    | with_reducible apply kept_ite | with_reducible apply keptW_ite

theorem Stored.write_kept {x : Stored} {s : State} (h_s : Kept r₀ s) : Kept r₀ (Stored.write x s).s := by
  unfold Stored.write
  try dsimp only
  repeat' first
    | with_reducible assumption | with_reducible apply writeElems_kept | with_reducible apply writeAll_kept | split

end Sys2Proof.Machine
end

