-- ==== Sys2Proof/Laws/KeptMatrix.lean ====
section
/-! SUPPORT. Every operation of Machine/Matrix.lean keeps what `Kept` names. -/

namespace Sys2Proof.Machine

open Sys2Proof

variable {r₀ : State}

theorem dealTo_kept {x : Started} {s : State} {j : Nat} (h_s : Kept r₀ s) : Kept r₀ (dealTo x s j) := by
  unfold dealTo
  try dsimp only
  repeat' first
    | with_reducible assumption | with_reducible apply setCorex_kept | with_reducible apply kept_ite

theorem dealCommand_kept {x : Started} {s : State} (h_s : Kept r₀ s) : Kept r₀ (dealCommand x s) := by
  unfold dealCommand
  try dsimp only
  repeat' first
    | with_reducible assumption | with_reducible apply setProg_kept | with_reducible apply dealTo_kept
    | with_reducible apply kept_foldl

theorem withdraw_kept {c : Nat} {running tiles : Bool} {s : State} (h_s : Kept r₀ s) : Kept r₀ (withdraw c running tiles s) := by
  unfold withdraw
  try dsimp only
  repeat' first
    | with_reducible assumption | with_reducible apply dropPieces_kept | with_reducible apply showCore_kept
    | with_reducible apply kept_ite | with_reducible apply kept_foldl | with_reducible apply keptP2_foldl
    | with_reducible apply keptP1_foldl | with_reducible apply keptW_foldl | split
    | fail_if_no_progress with_reducible apply kept_lit

theorem startMatrix_kept {c : Nat} {op : Op} {s : State} (h_s : Kept r₀ s) : Kept r₀ (startMatrix c op s) := by
  unfold startMatrix
  try dsimp only
  repeat' first
    | with_reducible assumption | with_reducible apply dealCommand_kept | with_reducible apply kept_ite | split

end Sys2Proof.Machine
end

