-- ==== Sys2Proof/Laws/KeptWalks.lean ====
section
/-! SUPPORT. Every operation of Machine/Walks.lean keeps what `Kept` names. -/

namespace Sys2Proof.Machine

open Sys2Proof

variable {r₀ : State}

theorem setPte_kept {q p v : Nat} {s : State} (h_s : Kept r₀ s) : Kept r₀ (setPte q p v s) := by
  unfold setPte
  try dsimp only
  repeat' first
    | with_reducible assumption | with_reducible apply poke_kept

theorem booksFatal_kept {s : State} (h_s : Kept r₀ s) : Kept r₀ (booksFatal s) := by
  unfold booksFatal
  try dsimp only
  repeat' first
    | with_reducible assumption | with_reducible apply jobFatal_kept

end Sys2Proof.Machine
end

