-- ==== Sys2Proof/Laws/KeptPieces.lean ====
section
/-! SUPPORT. Every operation of Machine/Pieces.lean keeps what `Kept` names. -/

namespace Sys2Proof.Machine

open Sys2Proof

variable {r₀ : State}

theorem commitPieces_kept {n : Nat} {h : Share} {b : Bytes} {s : State} (h_s : Kept r₀ s) : Kept r₀ (commitPieces n h b s) := by
  unfold commitPieces
  try dsimp only
  repeat' first
    | with_reducible assumption | with_reducible apply setStreamx_kept | with_reducible apply kept_ite
    | with_reducible apply kept_foldl | with_reducible apply keptP2_foldl | with_reducible apply keptP1_foldl
    | with_reducible apply keptW_foldl | (with_reducible intro _; with_reducible intros; try dsimp only)

theorem overlay_kept {a : Nat} {d : Bytes} {s : State} (h_s : Kept r₀ s) : Kept r₀ (overlay a d s) := by
  unfold overlay
  try dsimp only
  repeat' first
    | with_reducible assumption | with_reducible apply storeBytes_kept | split

theorem spreadData_kept : ∀ (n0 : List (Nat × Nat)) {n1 : Bytes} {n2 : State}, Kept r₀ n2 → Kept r₀ (spreadData n0 n1 n2) := by
  intro n0
  induction n0 with
  | nil => intro n1 n2 h; exact h
  | cons x l ih =>
    obtain ⟨x0, x1⟩ := x
    intro n1 n2 h
    unfold spreadData
    try dsimp only
    repeat' first
      | with_reducible assumption | with_reducible apply overlay_kept | with_reducible apply ih

theorem markBad_kept {rs : List (Nat × Nat)} {s : State} {p : Nat × Nat} (h_s : Kept r₀ s) : Kept r₀ (markBad rs s p) := by
  unfold markBad
  try dsimp only
  repeat' first
    | with_reducible assumption | split | fail_if_no_progress with_reducible apply kept_lit

theorem showPiece_kept {h : Share} {b : Bytes} {t : State} {p : Piece} (h_t : Kept r₀ t) : Kept r₀ (showPiece h b t p) := by
  unfold showPiece
  try dsimp only
  repeat' first
    | with_reducible assumption | with_reducible apply markBad_kept | with_reducible apply spreadData_kept
    | with_reducible apply kept_foldl

theorem viewPieces_kept {n : Nat} {h : Share} {b : Bytes} {s : State} (h_s : Kept r₀ s) : Kept r₀ (viewPieces n h b s) := by
  unfold viewPieces
  try dsimp only
  repeat' first
    | with_reducible assumption | with_reducible apply showPiece_kept | with_reducible apply kept_foldl

theorem viewUnit_kept {n : Nat} {h : Share} {b : Bytes} {k : Nat} {s : State} (h_s : Kept r₀ s) : Kept r₀ (viewUnit n h b k s) := by
  unfold viewUnit
  try dsimp only
  repeat' first
    | with_reducible assumption | with_reducible apply showPiece_kept | with_reducible apply kept_foldl

theorem showStream_kept {i : Nat} {s : State} (h_s : Kept r₀ s) : Kept r₀ (showStream i s) := by
  unfold showStream
  try dsimp only
  repeat' first
    | with_reducible assumption | with_reducible apply rsetBits_kept | with_reducible apply rset_kept

theorem showStreams_kept {n : Nat} {s : State} (h_s : Kept r₀ s) : Kept r₀ (showStreams n s) := by
  unfold showStreams
  try dsimp only
  repeat' first
    | with_reducible assumption | with_reducible apply showStream_kept | with_reducible apply kept_foldl
    | with_reducible apply keptP2_foldl | with_reducible apply keptP1_foldl | with_reducible apply keptW_foldl
    | (with_reducible intro _; with_reducible intros; try dsimp only)

theorem readStep_kept {n : Nat} {h : Share} {w : List (List ARead)} {s : State} (h_s : Kept r₀ s) : Kept r₀ (readStep n h w s) := by
  unfold readStep
  try dsimp only
  repeat' first
    | with_reducible assumption | with_reducible apply setStreamx_kept | with_reducible apply setCorex_kept
    | with_reducible apply kept_ite | with_reducible apply kept_foldl | with_reducible apply keptP2_foldl
    | with_reducible apply keptP1_foldl | with_reducible apply keptW_foldl | with_reducible apply keptO_ite
    | with_reducible apply keptO_some | with_reducible exact keptO_none | with_reducible apply kept_getD
    | (with_reducible intro _; with_reducible intros; try dsimp only)

theorem advanceGo_kept {n : Nat} : ∀ (n0 : Nat) {n1 : State}, Kept r₀ n1 → Kept r₀ (advanceGo n n0 n1) := by
  intro n0
  induction n0 with
  | zero => intro n1 h; exact h
  | succ n ih =>
    intro n1 h
    unfold advanceGo
    try dsimp only
    repeat' first
      | with_reducible assumption | with_reducible apply readStep_kept | with_reducible apply ih | with_reducible apply kept_ite
      | split

theorem showAttn_kept {q st leg pass : Nat} {s : State} {n : Nat} (h_s : Kept r₀ s) : Kept r₀ (showAttn q st leg pass s n) := by
  unfold showAttn
  try dsimp only
  repeat' first
    | with_reducible assumption | with_reducible apply rset_kept | with_reducible apply kept_ite

theorem showWalk_kept {n : Nat} {s : State} (h_s : Kept r₀ s) : Kept r₀ (showWalk n s) := by
  unfold showWalk
  try dsimp only
  repeat' first
    | with_reducible assumption | with_reducible apply rcountSat_kept | with_reducible apply showAttn_kept
    | with_reducible apply rsetBits_kept | with_reducible apply kept_ite | with_reducible apply keptO_ite
    | with_reducible apply keptO_some | with_reducible exact keptO_none | with_reducible apply kept_getD | split

theorem showWalks_kept {s : State} (h_s : Kept r₀ s) : Kept r₀ (showWalks s) := by
  unfold showWalks
  try dsimp only
  repeat' first
    | with_reducible assumption | with_reducible apply showWalk_kept | with_reducible apply kept_foldl
    | with_reducible apply keptP2_foldl | with_reducible apply keptP1_foldl | with_reducible apply keptW_foldl
    | (with_reducible intro _; with_reducible intros; try dsimp only)

theorem advance_kept {n : Nat} {s : State} (h_s : Kept r₀ s) : Kept r₀ (advance n s) := by
  unfold advance
  try dsimp only
  repeat' first
    | with_reducible assumption | with_reducible apply showWalk_kept | with_reducible apply showStreams_kept
    | with_reducible apply advanceGo_kept | split

theorem advanceAll_kept {s : State} (h_s : Kept r₀ s) : Kept r₀ (advanceAll s) := by
  unfold advanceAll
  try dsimp only
  repeat' first
    | with_reducible assumption | with_reducible apply advance_kept | with_reducible apply kept_foldl
    | with_reducible apply keptP2_foldl | with_reducible apply keptP1_foldl | with_reducible apply keptW_foldl
    | (with_reducible intro _; with_reducible intros; try dsimp only)

theorem forgetPieces_kept {n : Nat} {h : Share} {b : Bytes} {s : State} (h_s : Kept r₀ s) : Kept r₀ (forgetPieces n h b s) := by
  unfold forgetPieces
  try dsimp only
  repeat' first
    | with_reducible assumption | with_reducible apply setStreamx_kept | with_reducible apply kept_ite
    | with_reducible apply kept_foldl | with_reducible apply keptP2_foldl | with_reducible apply keptP1_foldl
    | with_reducible apply keptW_foldl | (with_reducible intro _; with_reducible intros; try dsimp only)

end Sys2Proof.Machine
end

