-- ==== Sys2Proof/Laws/KeptTile.lean ====
section
/-! SUPPORT. Every operation of Machine/Tile.lean keeps what `Kept` names. -/

namespace Sys2Proof.Machine

open Sys2Proof

variable {r₀ : State}

theorem showDepth_kept {n : Nat} {s : State} (h_s : Kept r₀ s) : Kept r₀ (showDepth n s) := by
  unfold showDepth
  try dsimp only
  repeat' first
    | with_reducible assumption | with_reducible apply rsetBits_kept

theorem showSlots_kept {n : Nat} {s : State} (h_s : Kept r₀ s) : Kept r₀ (showSlots n s) := by
  unfold showSlots
  try dsimp only
  repeat' first
    | with_reducible assumption | with_reducible apply rset_kept

theorem captureInvalid_kept {n row col kb : Nat} {arrayB : Bool} {q : Nat} {s : State} (h_s : Kept r₀ s) : Kept r₀ (captureInvalid n row col kb arrayB q s) := by
  unfold captureInvalid
  try dsimp only
  repeat' first
    | with_reducible assumption | with_reducible apply rcountSat_kept | with_reducible apply snapOn_kept
    | with_reducible apply rset_kept | with_reducible apply kept_ite

theorem recommit_kept {n : Nat} {bwd : Bool} {s : State} (h_s : Kept r₀ s) : Kept r₀ (recommit n bwd s) := by
  unfold recommit
  try dsimp only
  repeat' first
    | with_reducible assumption | with_reducible apply setCorex_kept

theorem applyLoad_kept {n : Nat} {s : State} {l : Nat × Nat × Bytes} (h_s : Kept r₀ s) : Kept r₀ (applyLoad n s l) := by
  unfold applyLoad
  try dsimp only
  repeat' first
    | with_reducible assumption | with_reducible apply setCorex_kept | with_reducible apply showStream_kept
    | with_reducible apply setStreamx_kept | with_reducible apply recommit_kept | with_reducible apply kept_foldl
    | with_reducible apply keptP2_foldl | with_reducible apply keptP1_foldl | with_reducible apply keptW_foldl
    | (with_reducible intro _; with_reducible intros; try dsimp only) | split

theorem applyLoads_kept {n : Nat} {s : State} (h_s : Kept r₀ s) : Kept r₀ (applyLoads n s) := by
  unfold applyLoads
  try dsimp only
  repeat' first
    | with_reducible assumption | with_reducible apply showSlots_kept | with_reducible apply applyLoad_kept
    | with_reducible apply setCorex_kept | with_reducible apply kept_foldl

theorem settleLoad_kept {s : State} {n : Nat} (h_s : Kept r₀ s) : Kept r₀ (settleLoad s n) := by
  unfold settleLoad
  try dsimp only
  repeat' first
    | with_reducible assumption | with_reducible apply applyLoads_kept | with_reducible apply kept_ite

theorem tileRetry_kept {n : Nat} {arrayB : Bool} {c q : Nat} {s : State} (h_s : Kept r₀ s) : Kept r₀ (tileRetry n arrayB c q s) := by
  unfold tileRetry
  try dsimp only
  repeat' first
    | with_reducible assumption | with_reducible apply rsetBits_kept | with_reducible apply setCorex_kept
    | with_reducible apply snapOn_kept | with_reducible apply reportError_kept | with_reducible apply addFlags_kept
    | with_reducible apply rcountSat_kept | with_reducible apply kept_ite | split
    | fail_if_no_progress with_reducible apply kept_lit

theorem tilePass_kept {n : Nat} {arrayB : Bool} {h : Share} {b : Bytes} {row col : Nat} {v : TileVal} {s : State} (h_s : Kept r₀ s) : Kept r₀ (tilePass n arrayB h b row col v s) := by
  unfold tilePass
  try dsimp only
  repeat' first
    | with_reducible assumption | with_reducible apply forgetPieces_kept | with_reducible apply setCorex_kept
    | with_reducible apply rsetBits_kept | with_reducible apply rset_kept | with_reducible apply applyLoads_kept
    | with_reducible apply addFlags_kept | with_reducible apply showDepth_kept | with_reducible apply advance_kept
    | with_reducible apply showStreams_kept | with_reducible apply captureInvalid_kept | with_reducible apply kept_ite | split

theorem tileLost_kept {n : Nat} {h : Share} {cause : Nat} {s : State} (h_s : Kept r₀ s) : Kept r₀ (tileLost n h cause s) := by
  unfold tileLost
  try dsimp only
  repeat' first
    | with_reducible assumption | with_reducible apply failCmd_kept | with_reducible apply withdraw_kept

theorem tileCorrected_kept {n q : Nat} {s : State} (h_s : Kept r₀ s) : Kept r₀ (tileCorrected n q s) := by
  unfold tileCorrected
  try dsimp only
  repeat' first
    | with_reducible assumption | with_reducible apply reportError_kept | with_reducible apply rcountSat_kept

theorem leaveCore_kept {c : Nat} {s : State} {n : Nat} (h_s : Kept r₀ s) : Kept r₀ (leaveCore c s n) := by
  unfold leaveCore
  try dsimp only
  repeat' first
    | with_reducible assumption | with_reducible apply setCorex_kept | with_reducible apply settleLoad_kept
    | with_reducible apply showAttn_kept | with_reducible apply kept_ite

theorem leaveCores_kept {c : Nat} {b : Bytes} {s : State} (h_s : Kept r₀ s) : Kept r₀ (leaveCores c b s) := by
  unfold leaveCores
  try dsimp only
  repeat' first
    | with_reducible assumption | with_reducible apply showStreams_kept | with_reducible apply dropPieces_kept
    | with_reducible apply leaveCore_kept | with_reducible apply kept_foldl | with_reducible apply keptP2_foldl
    | with_reducible apply keptP1_foldl | with_reducible apply keptW_foldl
    | (with_reducible intro _; with_reducible intros; try dsimp only)

theorem attnLost_kept {n : Nat} {x : Started} {s : State} (h_s : Kept r₀ s) : Kept r₀ (attnLost n x s) := by
  unfold attnLost
  try dsimp only
  repeat' first
    | with_reducible assumption | with_reducible apply failCmd_kept | with_reducible apply forgetAt_kept
    | with_reducible apply leaveCores_kept | with_reducible apply kept_ite | with_reducible apply kept_foldl

theorem attnVerdict_kept {n : Nat} {arrayB : Bool} {v : TileCheck} {c : Nat} {s : State} (h_s : Kept r₀ s) : Kept r₀ (attnVerdict n arrayB v c s) := by
  unfold attnVerdict
  try dsimp only
  repeat' first
    | with_reducible assumption | with_reducible apply tileCorrected_kept | with_reducible apply attnLost_kept
    | with_reducible apply chipFatal_kept | with_reducible apply tileRetry_kept | with_reducible apply rsetBits_kept
    | with_reducible apply setCorex_kept | with_reducible apply kept_ite | with_reducible apply kept_foldl
    | with_reducible apply keptP2_foldl | with_reducible apply keptP1_foldl | with_reducible apply keptW_foldl
    | (with_reducible intro _; with_reducible intros; try dsimp only) | split

theorem tileFinish_kept {n : Nat} {arrayB : Bool} {v : TileCheck} {s : State} (h_s : Kept r₀ s) : Kept r₀ (tileFinish n arrayB v s) := by
  unfold tileFinish
  try dsimp only
  repeat' first
    | with_reducible assumption | with_reducible apply attnVerdict_kept | with_reducible apply tileCorrected_kept
    | with_reducible apply tileLost_kept | with_reducible apply viewPieces_kept | with_reducible apply chipFatal_kept
    | with_reducible apply tileRetry_kept | with_reducible apply tilePass_kept | with_reducible apply kept_ite
    | with_reducible apply kept_foldl | with_reducible apply keptP2_foldl | with_reducible apply keptP1_foldl
    | with_reducible apply keptW_foldl | (with_reducible intro _; with_reducible intros; try dsimp only) | split

theorem inject_kept {n : Nat} {arrayB : Bool} {s : State} (h_s : Kept r₀ s) : Kept r₀ (inject n arrayB s) := by
  unfold inject
  try dsimp only
  repeat' first
    | with_reducible assumption | with_reducible apply misuse_kept | with_reducible apply kept_ite | split
    | fail_if_no_progress with_reducible apply kept_lit

end Sys2Proof.Machine
end

