-- ==== Sys2Proof/Laws/KeptChain.lean ====
section
/-! SUPPORT. Every operation of Machine/Chain.lean keeps what `Kept` names. -/

namespace Sys2Proof.Machine

open Sys2Proof

variable {r₀ : State}

theorem keptC_ite {c : Prop} [Decidable c] {a b : CRun} (ha : Kept r₀ a.s) (hb : Kept r₀ b.s) :
    Kept r₀ (if c then a else b).s := by split <;> assumption

theorem keptC_foldl {α : Type} {f : CRun → α → CRun} (hf : ∀ t x, Kept r₀ t.s → Kept r₀ (f t x).s) {l : List α} :
    ∀ {r : CRun}, Kept r₀ r.s → Kept r₀ (l.foldl f r).s := by
  induction l with
  | nil => intro r h; exact h
  | cons x t ih => intro r h; exact ih (hf r x h)

theorem mapVals_kept {st : Stage} {i : Nat} {f : CE → Nat × Nat} {x : CRun} (h_x : Kept r₀ x.s) : Kept r₀ (mapVals st i f x).s := by
  unfold mapVals
  try dsimp only
  repeat' first
    | with_reducible assumption

theorem reduceGroup_kept {env : CEnv} {st : Stage} {i : Nat} {es : List CE} {x : CRun} {key : Nat × Nat} (h_x : Kept r₀ x.s) : Kept r₀ (reduceGroup env st i es x key).s := by
  unfold reduceGroup
  try dsimp only
  repeat' first
    | with_reducible assumption | with_reducible apply writeMem_kept | with_reducible apply rcountSat_kept
    | with_reducible apply kept_ite

theorem outputStage_kept {env : CEnv} {st : Stage} {i : Nat} {afterInt : Bool} {x : CRun} (h_x : Kept r₀ x.s) : Kept r₀ (outputStage env st i afterInt x).s := by
  unfold outputStage
  try dsimp only
  repeat' first
    | with_reducible assumption | with_reducible apply writeAll_kept | with_reducible apply writeMem_kept
    | with_reducible apply Stored.write_kept | with_reducible apply kept_ite | with_reducible apply keptC_ite | split

theorem runStage_kept {env : CEnv} {afterInt : Bool} {x : CRun} {p : Stage × Nat} (h_x : Kept r₀ x.s) : Kept r₀ (runStage env afterInt x p).s := by
  unfold runStage
  try dsimp only
  repeat' first
    | with_reducible assumption | with_reducible apply mapVals_kept | with_reducible apply reduceGroup_kept
    | with_reducible apply outputStage_kept | with_reducible apply kept_ite | with_reducible apply keptC_ite
    | with_reducible apply kept_foldl | with_reducible apply keptP2_foldl | with_reducible apply keptP1_foldl
    | with_reducible apply keptW_foldl | with_reducible apply keptC_foldl | split

theorem runChain_kept {s : State} {env : CEnv} {t : QTile} (h_s : Kept r₀ s) : Kept r₀ (runChain s env t).s := by
  unfold runChain
  try dsimp only
  repeat' first
    | with_reducible assumption | with_reducible apply captureReach_kept | with_reducible apply touchReads_kept
    | with_reducible apply runStage_kept | with_reducible apply kept_ite | with_reducible apply keptC_ite
    | with_reducible apply kept_foldl | with_reducible apply keptP2_foldl | with_reducible apply keptP1_foldl
    | with_reducible apply keptW_foldl | with_reducible apply keptC_foldl | split

theorem captureChain_kept {n : Nat} {t : QTile} {q : Nat} {o : Option Occ} {s : State} (h_s : Kept r₀ s) : Kept r₀ (captureChain n t q o s) := by
  unfold captureChain
  try dsimp only
  repeat' first
    | with_reducible assumption | with_reducible apply rset_kept | with_reducible apply snapOn_kept
    | with_reducible apply kept_ite | split

theorem tileOut_kept {c : Nat} {s : State} (h_s : Kept r₀ s) : Kept r₀ (tileOut c s) := by
  unfold tileOut
  try dsimp only
  repeat' first
    | with_reducible assumption | with_reducible apply markDone_kept | with_reducible apply setProg_kept
    | with_reducible apply kept_ite | split

theorem endFull_kept {n : Nat} {full : Bool} {s : State} (h_s : Kept r₀ s) : Kept r₀ (endFull n full s) := by
  unfold endFull
  try dsimp only
  repeat' first
    | with_reducible assumption | with_reducible apply advance_kept | with_reducible apply bumpFree_kept
    | with_reducible apply rcountBy_kept | with_reducible apply kept_ite

theorem chainTile_kept {n : Nat} {s : State} (h_s : Kept r₀ s) : Kept r₀ (chainTile n s) := by
  unfold chainTile
  try dsimp only
  repeat' first
    | with_reducible assumption | with_reducible apply endFull_kept | with_reducible apply showDepth_kept
    | with_reducible apply setCorex_kept | with_reducible apply runChain_kept | with_reducible apply captureChain_kept
    | with_reducible apply addFlags_kept | with_reducible apply tileOut_kept | with_reducible apply failCmd_kept
    | with_reducible apply withdraw_kept | with_reducible apply kept_ite | split

theorem loadCore_kept {kind slot : Nat} {d : Bytes} {s : State} {n : Nat} (h_s : Kept r₀ s) : Kept r₀ (loadCore kind slot d s n) := by
  unfold loadCore
  try dsimp only
  repeat' first
    | with_reducible assumption | with_reducible apply setCorex_kept | with_reducible apply settleLoad_kept

theorem loadStart_kept {isChain : Bool} {c : Nat} {b : Bytes} {s : State} (h_s : Kept r₀ s) : Kept r₀ (loadStart isChain c b s) := by
  unfold loadStart
  try dsimp only
  repeat' first
    | with_reducible assumption | with_reducible apply updStarted_kept | with_reducible apply loadCore_kept
    | with_reducible apply touchRead_kept | with_reducible apply kept_ite | with_reducible apply kept_foldl
    | with_reducible apply keptP2_foldl | with_reducible apply keptP1_foldl | with_reducible apply keptW_foldl
    | with_reducible apply keptC_foldl | (with_reducible intro _; with_reducible intros; try dsimp only)

theorem loadRun_kept {isChain : Bool} {c : Nat} {s : State} (h_s : Kept r₀ s) : Kept r₀ (loadRun isChain c s) := by
  unfold loadRun
  try dsimp only
  repeat' first
    | with_reducible assumption | with_reducible apply settleLoad_kept | with_reducible apply loadStart_kept
    | with_reducible apply markDone_kept | with_reducible apply failCmd_kept | with_reducible apply captureReach_kept
    | with_reducible apply haltMalformed_kept | with_reducible apply kept_ite | with_reducible apply kept_foldl
    | with_reducible apply keptP2_foldl | with_reducible apply keptP1_foldl | with_reducible apply keptW_foldl
    | with_reducible apply keptC_foldl | split

theorem vectorRun_kept {c : Nat} {s : State} (h_s : Kept r₀ s) : Kept r₀ (vectorRun c s) := by
  unfold vectorRun
  try dsimp only
  repeat' first
    | with_reducible assumption | with_reducible apply dealCommand_kept | with_reducible apply kept_ite | split

theorem refuseShare_kept {n : Nat} {h : Share} {block cause : Nat} {s : State} (h_s : Kept r₀ s) : Kept r₀ (refuseShare n h block cause s) := by
  unfold refuseShare
  try dsimp only
  repeat' first
    | with_reducible assumption | with_reducible apply failCmd_kept | with_reducible apply withdraw_kept

theorem commitShare_kept {n : Nat} {h : Share} {s : State} (h_s : Kept r₀ s) : Kept r₀ (commitShare n h s) := by
  unfold commitShare
  try dsimp only
  repeat' first
    | with_reducible assumption | with_reducible apply setCorex_kept | with_reducible apply refuseShare_kept
    | with_reducible apply commitPieces_kept | with_reducible apply kept_ite | split

theorem commitClass_kept {n : Nat} {bwd : Bool} : ∀ (n0 : Nat) {n1 : State}, Kept r₀ n1 → Kept r₀ (commitClass n bwd n0 n1) := by
  intro n0
  induction n0 with
  | zero => intro n1 h; exact h
  | succ n ih =>
    intro n1 h
    unfold commitClass
    try dsimp only
    repeat' first
      | with_reducible assumption | with_reducible apply commitShare_kept | with_reducible apply ih | split

theorem commitShares_kept {n : Nat} {s : State} (h_s : Kept r₀ s) : Kept r₀ (commitShares n s) := by
  unfold commitShares
  try dsimp only
  repeat' first
    | with_reducible assumption | with_reducible apply commitClass_kept | with_reducible apply kept_ite

theorem restartReads_kept {n : Nat} {h : Share} {s : State} (h_s : Kept r₀ s) : Kept r₀ (restartReads n h s) := by
  unfold restartReads
  try dsimp only
  repeat' first
    | with_reducible assumption | with_reducible apply setStreamx_kept | with_reducible apply kept_ite
    | with_reducible apply kept_foldl | with_reducible apply keptP2_foldl | with_reducible apply keptP1_foldl
    | with_reducible apply keptW_foldl | with_reducible apply keptC_foldl
    | (with_reducible intro _; with_reducible intros; try dsimp only)

theorem startShare_kept {n : Nat} {h : Share} {x : Started} {s : State} (h_s : Kept r₀ s) : Kept r₀ (startShare n h x s) := by
  unfold startShare
  try dsimp only
  repeat' first
    | with_reducible assumption | with_reducible apply restartReads_kept | with_reducible apply advance_kept
    | with_reducible apply updStarted_kept | with_reducible apply rset_kept | with_reducible apply setCorex_kept
    | with_reducible apply refuseShare_kept | split

theorem startAttn_kept {n : Nat} {h : Share} {s : State} (h_s : Kept r₀ s) : Kept r₀ (startAttn n h s) := by
  unfold startAttn
  try dsimp only
  repeat' first
    | with_reducible assumption | with_reducible apply advance_kept | with_reducible apply restartReads_kept
    | with_reducible apply setCorex_kept

theorem coreShareStart_kept {n : Nat} {s : State} (h_s : Kept r₀ s) : Kept r₀ (coreShareStart n s) := by
  unfold coreShareStart
  try dsimp only
  repeat' first
    | with_reducible assumption | with_reducible apply commitShares_kept | with_reducible apply setCorex_kept
    | with_reducible apply startAttn_kept | with_reducible apply startShare_kept | with_reducible apply kept_ite | split

end Sys2Proof.Machine
end

