-- ==== Sys2Proof/Laws/KeptStream.lean ====
section
/-! SUPPORT. Every operation of Machine/Stream.lean keeps what `Kept` names. -/

namespace Sys2Proof.Machine

open Sys2Proof

variable {r₀ : State}

theorem ringStart_kept {c : Nat} {b : Bytes} {s : State} (h_s : Kept r₀ s) : Kept r₀ (ringStart c b s) := by
  unfold ringStart
  try dsimp only
  repeat' first
    | with_reducible assumption | with_reducible apply updStarted_kept | with_reducible apply loadCore_kept
    | with_reducible apply kept_ite | with_reducible apply kept_foldl

theorem ringSetRun_kept {c : Nat} {s : State} (h_s : Kept r₀ s) : Kept r₀ (ringSetRun c s) := by
  unfold ringSetRun
  try dsimp only
  repeat' first
    | with_reducible assumption | with_reducible apply settleLoad_kept | with_reducible apply ringStart_kept
    | with_reducible apply markDone_kept | with_reducible apply failCmd_kept | with_reducible apply kept_ite
    | with_reducible apply kept_foldl | with_reducible apply keptP2_foldl | with_reducible apply keptP1_foldl
    | with_reducible apply keptW_foldl | with_reducible apply keptC_foldl | split

theorem showTags_kept {h : Nat} {s : State} (h_s : Kept r₀ s) : Kept r₀ (showTags h s) := by
  unfold showTags
  try dsimp only
  repeat' first
    | with_reducible assumption | with_reducible apply rset_kept

theorem issueTransfer_kept {h : Nat} {t : Transfer} {s : State} (h_s : Kept r₀ s) : Kept r₀ (issueTransfer h t s) := by
  unfold issueTransfer
  try dsimp only
  repeat' first
    | with_reducible assumption | with_reducible apply showTags_kept | with_reducible apply setHalfx_kept

theorem askBytes_kept {a n dst : Nat} {c : Option Nat} {s : State} (h : Kept r₀ s) (x : Option Nat × State)
    (e : askBytes a n dst c s = some x) : Kept r₀ x.2 := by
  unfold askBytes at e
  split at e
  · dsimp only at e
    split at e
    · cases e
      exact kept_lit (sendMsg_kept h _ ‹_›)
    · cases e
  · cases e
    exact h

theorem askBytes_kept_eq {a n dst : Nat} {c : Option Nat} {s : State} {y0 : Option Nat} {y1 : State}
    (he : askBytes a n dst c s = some (y0, y1)) (h : Kept r₀ s) : Kept r₀ y1 := askBytes_kept h _ he

theorem markAccess_kept {p : Piece} {a : Nat} {s : State} (h_s : Kept r₀ s) : Kept r₀ (markAccess p a s) := by
  unfold markAccess
  try dsimp only
  repeat' first
    | with_reducible assumption | with_reducible apply setPte_kept | split

theorem fetchFails_kept {c i cause : Nat} {s : State} (h_s : Kept r₀ s) : Kept r₀ (fetchFails c i cause s) := by
  unfold fetchFails
  try dsimp only
  repeat' first
    | with_reducible assumption | with_reducible apply failCmd_kept | with_reducible apply withdraw_kept
    | with_reducible apply rsetBit_kept

theorem showGrant_kept {i : Nat} {s : State} (h_s : Kept r₀ s) : Kept r₀ (showGrant i s) := by
  unfold showGrant
  try dsimp only
  repeat' first
    | with_reducible assumption | with_reducible apply rset_kept | with_reducible apply showStreams_kept

theorem grantPiece_kept {h i : Nat} {p : Piece} {k : Nat × Nat} {s : State} (h_s : Kept r₀ s) : Kept r₀ (grantPiece h i p k s) := by
  unfold grantPiece
  try dsimp only
  repeat' first
    | with_reducible assumption | with_reducible apply booksFatal_kept | with_reducible apply fetchFails_kept
    | with_reducible apply captureReach_kept | with_reducible apply markAccess_kept | with_reducible apply setStreamx_kept
    | with_reducible apply showGrant_kept | with_reducible apply issueTransfer_kept | with_reducible apply kept_ite
    | refine askBytes_kept_eq ‹_› ?_ | split

theorem grantStream_kept {h i : Nat} {s : State} (h_s : Kept r₀ s) : Kept r₀ (grantStream h i s) := by
  unfold grantStream
  try dsimp only
  repeat' first
    | with_reducible assumption | with_reducible apply grantPiece_kept | split

theorem writeLines_kept {put : Nat → Bytes → Bool → State → Wrote} (h_put : ∀ a0 a1 a2 a3, Kept r₀ a3 → Kept r₀ (put a0 a1 a2 a3).s) : ∀ (n0 : Nat) {n1 : Nat} {n2 : Bytes} {n3 : (Nat → Bool)} {n4 : Nat} {n5 : State}, Kept r₀ n5 → Kept r₀ (writeLines put n0 n1 n2 n3 n4 n5).s := by
  intro n0
  induction n0 with
  | zero => intro n1 n2 n3 n4 n5 h; exact h
  | succ n ih =>
    intro n1 n2 n3 n4 n5 h
    unfold writeLines
    try dsimp only
    repeat' first
      | with_reducible assumption | with_reducible apply ih | with_reducible apply h_put | with_reducible apply kept_ite
      | with_reducible apply keptW_ite | split

theorem writeParts_kept {put : Nat → Bytes → Bool → State → Wrote} {n lo hi : Nat} {s : State} (h_put : ∀ a0 a1 a2 a3, Kept r₀ a3 → Kept r₀ (put a0 a1 a2 a3).s) (h_s : Kept r₀ s) : Kept r₀ (writeParts put n lo hi s).s := by
  unfold writeParts
  try dsimp only
  repeat' first
    | with_reducible assumption | with_reducible apply writeLines_kept | with_reducible apply rsetBit_kept
    | with_reducible apply forgetAt_kept | with_reducible apply addFlags_kept | with_reducible apply setChanx_kept
    | with_reducible apply h_put | with_reducible apply kept_ite | with_reducible apply keptW_ite | split

theorem emptyFunnel_kept {n : Nat} {s : State} (h_s : Kept r₀ s) : Kept r₀ (emptyFunnel n s) := by
  unfold emptyFunnel
  try dsimp only
  repeat' first
    | with_reducible assumption | with_reducible apply writeParts_kept | with_reducible apply writeMem_kept
    | with_reducible apply kept_ite | with_reducible apply kept_foldl | with_reducible apply keptP2_foldl
    | with_reducible apply keptP1_foldl | with_reducible apply keptW_foldl | with_reducible apply keptC_foldl
    | (with_reducible intro _; with_reducible intros; try dsimp only)

theorem chanSettle_kept {n : Nat} {s : State} (h_s : Kept r₀ s) : Kept r₀ (chanSettle n s) := by
  unfold chanSettle
  try dsimp only
  repeat' first
    | with_reducible assumption | with_reducible apply emptyFunnel_kept | with_reducible apply chanEnd_kept
    | with_reducible apply rset_kept | with_reducible apply failCmd_kept | with_reducible apply kept_ite | split

theorem chanHalt_kept {n err cause addr : Nat} {s : State} (h_s : Kept r₀ s) : Kept r₀ (chanHalt n err cause addr s) := by
  unfold chanHalt
  try dsimp only
  repeat' first
    | with_reducible assumption | with_reducible apply chanSettle_kept | with_reducible apply setChanx_kept

theorem grantChannel_kept {h n : Nat} {s : State} (h_s : Kept r₀ s) : Kept r₀ (grantChannel h n s) := by
  unfold grantChannel
  try dsimp only
  repeat' first
    | with_reducible assumption | with_reducible apply chanHalt_kept | with_reducible apply captureUnmapped_kept
    | with_reducible apply captureReach_kept | with_reducible apply setChanx_kept | with_reducible apply issueTransfer_kept
    | with_reducible apply kept_ite | refine askBytes_kept_eq ‹_› ?_ | split

theorem streamTransferGrant_kept {h : Nat} {s : State} (h_s : Kept r₀ s) : Kept r₀ (streamTransferGrant h s) := by
  unfold streamTransferGrant
  try dsimp only
  repeat' first
    | with_reducible assumption | with_reducible apply bumpFree_kept | with_reducible apply grantStream_kept
    | with_reducible apply grantChannel_kept | with_reducible apply kept_ite | split

theorem spillPiece_kept {h i : Nat} {s : State} {p : Piece} (h_s : Kept r₀ s) : Kept r₀ (spillPiece h i s p) := by
  unfold spillPiece
  try dsimp only
  repeat' first
    | with_reducible assumption | with_reducible apply writeMem_kept | with_reducible apply poke_kept
    | with_reducible apply rcount_kept | with_reducible apply setStreamx_kept | with_reducible apply kept_ite
    | with_reducible apply kept_foldl | with_reducible apply keptP2_foldl | with_reducible apply keptP1_foldl
    | with_reducible apply keptW_foldl | with_reducible apply keptC_foldl | with_reducible apply keptO_ite
    | with_reducible apply keptO_some | with_reducible exact keptO_none | with_reducible apply kept_getD
    | (with_reducible intro _; with_reducible intros; try dsimp only)

theorem breakCycle_kept {h : Nat} {s : State} {ni : Nat × Nat} (h_s : Kept r₀ s) : Kept r₀ (breakCycle h s ni) := by
  unfold breakCycle
  try dsimp only
  repeat' first
    | with_reducible assumption | with_reducible apply showStreams_kept | with_reducible apply spillPiece_kept
    | with_reducible apply snapOn_kept | with_reducible apply raiseVector_kept | with_reducible apply rsetBit_kept
    | with_reducible apply rcountSat_kept | with_reducible apply kept_foldl | with_reducible apply keptP2_foldl
    | with_reducible apply keptP1_foldl | with_reducible apply keptW_foldl | with_reducible apply keptC_foldl | split

theorem deadlockTest_kept {h : Nat} {s : State} (h_s : Kept r₀ s) : Kept r₀ (deadlockTest h s) := by
  unfold deadlockTest
  try dsimp only
  repeat' first
    | with_reducible assumption | with_reducible apply breakCycle_kept | with_reducible apply setHalfx_kept
    | with_reducible apply kept_foldl

theorem chanStart_kept {n : Nat} {cmd : Option Nat} {s : State} (h_s : Kept r₀ s) : Kept r₀ (chanStart n cmd s) := by
  unfold chanStart
  try dsimp only
  repeat' first
    | with_reducible assumption | with_reducible apply rsetBits_kept | with_reducible apply rsetBit_kept
    | with_reducible apply setChanx_kept

theorem chanLoad_kept {n : Nat} {un : Bytes} {s : State} (h_s : Kept r₀ s) : Kept r₀ (chanLoad n un s) := by
  unfold chanLoad
  try dsimp only
  repeat' first
    | with_reducible assumption | with_reducible apply rset_kept

theorem dmaRun_kept {c : Nat} {s : State} (h_s : Kept r₀ s) : Kept r₀ (dmaRun c s) := by
  unfold dmaRun
  try dsimp only
  repeat' first
    | with_reducible assumption | with_reducible apply updStarted_kept | with_reducible apply chanStart_kept
    | with_reducible apply chanLoad_kept | with_reducible apply kept_ite | split

theorem dmaStart_kept {n : Nat} {s : State} (h_s : Kept r₀ s) : Kept r₀ (dmaStart n s) := by
  unfold dmaStart
  try dsimp only
  repeat' first
    | with_reducible assumption | with_reducible apply misuse_kept | with_reducible apply rsetBits_kept
    | with_reducible apply rsetBit_kept | with_reducible apply raiseVector_kept | with_reducible apply chanStart_kept
    | with_reducible apply kept_ite

theorem dmaAbort_kept {n : Nat} {s : State} (h_s : Kept r₀ s) : Kept r₀ (dmaAbort n s) := by
  unfold dmaAbort
  try dsimp only
  repeat' first
    | with_reducible assumption | with_reducible apply chanSettle_kept | with_reducible apply rsetBits_kept
    | with_reducible apply misuse_kept | with_reducible apply kept_ite

theorem releaseTag_kept {h t : Nat} {s : State} (h_s : Kept r₀ s) : Kept r₀ (releaseTag h t s) := by
  unfold releaseTag
  try dsimp only
  repeat' first
    | with_reducible assumption | with_reducible apply showTags_kept | with_reducible apply setHalfx_kept

theorem repeatTransfer_kept {h : Nat} {y : Transfer} {dst : Nat} {c : Option Nat} {s : State} (h_s : Kept r₀ s) :
    KeptO r₀ (repeatTransfer h y dst c s) := by
  intro t e
  unfold repeatTransfer at e
  dsimp only at e
  rw [Option.map_eq_some_iff] at e
  obtain ⟨⟨a, w⟩, ha, rfl⟩ := e
  refine setHalfx_kept ?_
  split at ha
  · cases ha
    exact kept_lit h_s
  · exact askBytes_kept (kept_lit h_s) _ ha

theorem dmaTransferError_kept {n t : Nat} {err : TransferErr} {s : State} (h_s : Kept r₀ s) : Kept r₀ (dmaTransferError n t err s) := by
  unfold dmaTransferError
  try dsimp only
  repeat' first
    | with_reducible assumption | with_reducible apply chanHalt_kept | with_reducible apply releaseTag_kept
    | with_reducible apply rcountSat_kept | with_reducible apply repeatTransfer_kept | with_reducible apply kept_ite
    | refine repeatTransfer_kept ?_ _ ‹_› | split | fail_if_no_progress with_reducible apply kept_lit

theorem dmaComplete_kept {n : Nat} {s : State} (h_s : Kept r₀ s) : Kept r₀ (dmaComplete n s) := by
  unfold dmaComplete
  try dsimp only
  repeat' first
    | with_reducible assumption | with_reducible apply chanEnd_kept | with_reducible apply markDone_kept
    | with_reducible apply kept_ite | split

end Sys2Proof.Machine
end

