-- ==== Sys2Proof/Laws/KeptMemory.lean ====
section
/-! SUPPORT. Every operation of Machine/Memory.lean keeps what `Kept` names. -/

namespace Sys2Proof.Machine

open Sys2Proof

variable {r₀ : State}

theorem poisonLine_kept {line : Nat} {s : State} (h_s : Kept r₀ s) : Kept r₀ (poisonLine line s) := by
  unfold poisonLine
  try dsimp only
  repeat' first
    | with_reducible assumption | with_reducible apply kept_ite | split | fail_if_no_progress with_reducible apply kept_lit

theorem scrubStack_kept {line : Nat} {sev : Severity} {s : State} (h_s : Kept r₀ s) : Kept r₀ (scrubStack line sev s) := by
  unfold scrubStack
  try dsimp only
  repeat' first
    | with_reducible assumption | with_reducible apply reportError_kept | with_reducible apply rcount_kept
    | with_reducible apply poisonLine_kept | with_reducible apply rsetBit_kept | with_reducible apply rcountSat_kept | split

theorem scrubSpill_kept {line : Nat} {sev : Severity} {s : State} (h_s : Kept r₀ s) : Kept r₀ (scrubSpill line sev s) := by
  unfold scrubSpill
  try dsimp only
  repeat' first
    | with_reducible assumption | with_reducible apply reportError_kept | with_reducible apply rcount_kept
    | with_reducible apply poisonLine_kept | with_reducible apply rsetBit_kept | with_reducible apply rcountSat_kept | split

theorem noteRead_kept {line : Nat} {sev : Severity} {s : State} (h_s : Kept r₀ s) : Kept r₀ (noteRead line sev s) := by
  unfold noteRead
  try dsimp only
  repeat' first
    | with_reducible assumption | with_reducible apply booksFatal_kept | with_reducible apply scrubStack_kept
    | with_reducible apply scrubSpill_kept | with_reducible apply kept_ite

theorem parityRepeat_kept {k : Nat} {s : State} (h_s : Kept r₀ s) : Kept r₀ (parityRepeat k s) := by
  unfold parityRepeat
  try dsimp only
  repeat' first
    | with_reducible assumption | with_reducible apply reportError_kept | with_reducible apply rcount_kept

theorem parityRepeats_kept {a n : Nat} {s : State} (h_s : Kept r₀ s) : Kept r₀ (parityRepeats a n s) := by
  unfold parityRepeats
  try dsimp only
  repeat' first
    | with_reducible assumption | with_reducible apply parityRepeat_kept | with_reducible apply kept_ite
    | with_reducible apply kept_foldl | with_reducible apply keptP2_foldl | with_reducible apply keptP1_foldl
    | with_reducible apply keptW_foldl | with_reducible apply keptC_foldl
    | (with_reducible intro _; with_reducible intros; try dsimp only)

theorem retryFailed_kept {k : Nat} {s : State} (h_s : Kept r₀ s) : Kept r₀ (retryFailed k s) := by
  unfold retryFailed
  try dsimp only
  repeat' first
    | with_reducible assumption | with_reducible apply rsetBit_kept | with_reducible apply rcountSat_kept

theorem dramRead_kept {a : Nat} {l : Landing} {s : State} (h_s : Kept r₀ s) : Kept r₀ (dramRead a l s).1 := by
  unfold dramRead
  try dsimp only
  repeat' first
    | with_reducible assumption | with_reducible apply parityRepeats_kept | with_reducible apply retryFailed_kept
    | with_reducible apply noteRead_kept | with_reducible apply kept_ite | split

theorem dramRead_kept_eq {a : Nat} {l : Landing} {s : State} {y0 : State} {y1 : Bool} (he : dramRead a l s = (y0, y1)) (h_s : Kept r₀ s) : Kept r₀ y0 := by
  have w : Kept r₀ (dramRead a l s).1 := dramRead_kept h_s
  rw [he] at w
  exact w

theorem dramWrite_kept {a : Nat} {l : Landing} {s : State} (h_s : Kept r₀ s) : Kept r₀ (dramWrite a l s).1 := by
  unfold dramWrite
  try dsimp only
  repeat' first
    | with_reducible assumption | with_reducible apply parityRepeats_kept | with_reducible apply chipFatal_kept
    | with_reducible apply retryFailed_kept | with_reducible apply kept_ite | split

theorem dramWrite_kept_eq {a : Nat} {l : Landing} {s : State} {y0 : State} {y1 : Bool} (he : dramWrite a l s = (y0, y1)) (h_s : Kept r₀ s) : Kept r₀ y0 := by
  have w : Kept r₀ (dramWrite a l s).1 := dramWrite_kept h_s
  rw [he] at w
  exact w

theorem patrolLine_kept {line : Nat} {l : Landing} {s : State} (h_s : Kept r₀ s) : Kept r₀ (patrolLine line l s) := by
  unfold patrolLine
  try dsimp only
  repeat' first
    | with_reducible assumption | with_reducible apply dramRead_kept | with_reducible apply dramWrite_kept
    | with_reducible apply kept_ite

theorem patrolScrub_kept {line : Nat} {l : Landing} {s : State} (h_s : Kept r₀ s) : Kept r₀ (patrolScrub line l s) := by
  unfold patrolScrub
  try dsimp only
  repeat' first
    | with_reducible assumption | with_reducible apply patrolLine_kept | with_reducible apply kept_ite

theorem stackTempReport_kept {k temp : Nat} {s : State} (h_s : Kept r₀ s) : Kept r₀ (stackTempReport k temp s) := by
  unfold stackTempReport
  try dsimp only
  repeat' first
    | with_reducible assumption | with_reducible apply rsetBits_kept | with_reducible apply bumpFree_kept
    | with_reducible apply rcountBy_kept | with_reducible apply raiseVector_kept | with_reducible apply rsetBit_kept
    | with_reducible apply emergency_kept | with_reducible apply kept_ite

theorem spillTempReport_kept {p : Nat} {hot : Bool} {s : State} (h_s : Kept r₀ s) : Kept r₀ (spillTempReport p hot s) := by
  unfold spillTempReport
  try dsimp only
  repeat' first
    | with_reducible assumption | with_reducible apply rclrBit_kept | with_reducible apply rsetBit_kept
    | with_reducible apply kept_ite | split | fail_if_no_progress with_reducible apply kept_lit

theorem atomicGo_kept {c list : Nat} : ∀ (n0 : Nat) {n1 : Nat} {n2 : State}, Kept r₀ n2 → Kept r₀ (atomicGo c list n0 n1 n2) := by
  intro n0
  induction n0 with
  | zero =>
    intro n1 n2 h
    unfold atomicGo
    try dsimp only
    repeat' first
      | with_reducible assumption | with_reducible apply markDone_kept
  | succ n ih =>
    intro n1 n2 h
    unfold atomicGo
    try dsimp only
    repeat' first
      | with_reducible assumption | with_reducible apply markDone_kept | with_reducible apply failCmd_kept
      | with_reducible apply captureUnmapped_kept | with_reducible apply poke_kept | with_reducible apply writeMem_kept
      | with_reducible apply addFlags_kept | with_reducible apply ih | with_reducible apply kept_ite | split

theorem atomicRun_kept {c : Nat} {s : State} (h_s : Kept r₀ s) : Kept r₀ (atomicRun c s) := by
  unfold atomicRun
  try dsimp only
  repeat' first
    | with_reducible assumption | with_reducible apply failCmd_kept | with_reducible apply captureReach_kept
    | with_reducible apply atomicGo_kept | with_reducible apply touchRead_kept | with_reducible apply kept_ite | split

theorem showAcc_kept {s : State} (h_s : Kept r₀ s) : Kept r₀ (showAcc s) := by
  unfold showAcc
  try dsimp only
  repeat' first
    | with_reducible assumption | with_reducible apply rset_kept

theorem accOpenRun_kept {c : Nat} {s : State} (h_s : Kept r₀ s) : Kept r₀ (accOpenRun c s) := by
  unfold accOpenRun
  try dsimp only
  repeat' first
    | with_reducible assumption | with_reducible apply failCmd_kept | with_reducible apply markDone_kept
    | with_reducible apply showAcc_kept | with_reducible apply kept_ite | split
    | fail_if_no_progress with_reducible apply kept_lit

theorem accCloseHook_kept {c : Nat} {b : Bytes} {s : State} (h_s : Kept r₀ s) : Kept r₀ (accCloseHook c b s) := by
  unfold accCloseHook
  try dsimp only
  repeat' first
    | with_reducible assumption | with_reducible apply setProg_kept | with_reducible apply kept_ite | split
    | fail_if_no_progress with_reducible apply kept_lit

theorem accCloseRun_kept {c : Nat} {s : State} (h_s : Kept r₀ s) : Kept r₀ (accCloseRun c s) := by
  unfold accCloseRun
  try dsimp only
  repeat' first
    | with_reducible assumption | with_reducible apply failCmd_kept | with_reducible apply writeMem_kept
    | with_reducible apply addFlags_kept | with_reducible apply markDone_kept | with_reducible apply showAcc_kept
    | with_reducible apply kept_ite | with_reducible apply kept_foldl | with_reducible apply keptP2_foldl
    | with_reducible apply keptP1_foldl | with_reducible apply keptW_foldl | with_reducible apply keptC_foldl | split
    | fail_if_no_progress with_reducible apply kept_lit

end Sys2Proof.Machine
end

