-- ==== Sys2Proof/Laws/KeptAttn.lean ====
section
/-! SUPPORT. Every operation of Machine/Attn.lean keeps what `Kept` names. -/

namespace Sys2Proof.Machine

open Sys2Proof

variable {r₀ : State}

theorem keptA_ite {c : Prop} [Decidable c] {a b : ARun} (ha : Kept r₀ a.s) (hb : Kept r₀ b.s) :
    Kept r₀ (if c then a else b).s := by split <;> assumption

theorem keptA_foldl {α : Type} {f : ARun → α → ARun} (hf : ∀ t x, Kept r₀ t.s → Kept r₀ (f t x).s) {l : List α} :
    ∀ {r : ARun}, Kept r₀ r.s → Kept r₀ (l.foldl f r).s := by
  induction l with
  | nil => intro r h; exact h
  | cons x t ih => intro r h; exact ih (hf r x h)

theorem keptA2_foldl {α β : Type} {f : β × ARun → α → β × ARun} (hf : ∀ t x, Kept r₀ t.2.s → Kept r₀ (f t x).2.s)
    {l : List α} : ∀ {r : β × ARun}, Kept r₀ r.2.s → Kept r₀ (l.foldl f r).2.s := by
  induction l with
  | nil => intro r h; exact h
  | cons x t ih => intro r h; exact ih (hf r x h)

theorem ARun.reads_kept {r : ARun} {core bad : Nat} {ranges : List (Nat × Nat)} (h_r : Kept r₀ r.s) : Kept r₀ (ARun.reads r core bad ranges).s := by
  unfold ARun.reads
  try dsimp only
  repeat' first
    | with_reducible assumption | with_reducible apply captureReach_kept | with_reducible apply kept_ite
    | with_reducible apply keptA_ite | split

theorem ARun.flag_kept {r : ARun} {f : Nat} (h_r : Kept r₀ r.s) : Kept r₀ (ARun.flag r f).s := by
  unfold ARun.flag
  try dsimp only
  repeat' first
    | with_reducible assumption

theorem ARun.wrote_kept {r : ARun} {core : Nat} {w : Wrote} (h_r : Kept r₀ r.s) (h_w : Kept r₀ w.s) : Kept r₀ (ARun.wrote r core w).s := by
  unfold ARun.wrote
  try dsimp only
  repeat' first
    | with_reducible assumption

theorem ARun.write_kept {r : ARun} {core a : Nat} {b : Bytes} (h_r : Kept r₀ r.s) : Kept r₀ (ARun.write r core a b).s := by
  unfold ARun.write
  try dsimp only
  repeat' first
    | with_reducible assumption | with_reducible apply writeMem_kept | with_reducible apply ARun.wrote_kept
    | with_reducible apply kept_ite | with_reducible apply keptA_ite

theorem edgeRow_kept {n q leg pass t h kind : Nat} {s : State} (h_s : Kept r₀ s) : Kept r₀ (edgeRow n q leg pass t h kind s) := by
  unfold edgeRow
  try dsimp only
  repeat' first
    | with_reducible assumption | with_reducible apply rcountSat_kept | with_reducible apply snapOn_kept
    | with_reducible apply rset_kept | with_reducible apply kept_ite

theorem finaliseRows_kept {n q leg hd hq : Nat} {tOut : TD} {ru : RUnit} {lse : Nat} {rows : List (Nat × Nat × Row)} {r : ARun} (h_r : Kept r₀ r.s) : Kept r₀ (finaliseRows n q leg hd hq tOut ru lse rows r).s := by
  unfold finaliseRows
  try dsimp only
  repeat' first
    | with_reducible assumption | with_reducible apply edgeRow_kept | with_reducible apply ARun.wrote_kept
    | with_reducible apply Stored.write_kept | with_reducible apply ARun.write_kept | with_reducible apply kept_ite
    | with_reducible apply keptA_ite | with_reducible apply kept_foldl | with_reducible apply keptP2_foldl
    | with_reducible apply keptP1_foldl | with_reducible apply keptW_foldl | with_reducible apply keptC_foldl
    | with_reducible apply keptA_foldl | with_reducible apply keptA2_foldl
    | (with_reducible intro _; with_reducible intros; try dsimp only)

theorem captureScores_kept {n qb kb q : Nat} {accs : List Acc} {s : State} (h_s : Kept r₀ s) : Kept r₀ (captureScores n qb kb q accs s) := by
  unfold captureScores
  try dsimp only
  repeat' first
    | with_reducible assumption | with_reducible apply captureInvalid_kept | with_reducible apply kept_foldl
    | with_reducible apply keptP2_foldl | with_reducible apply keptP1_foldl | with_reducible apply keptW_foldl
    | with_reducible apply keptC_foldl | with_reducible apply keptA_foldl | with_reducible apply keptA2_foldl | split

theorem fwdBlock_kept {e : AEnv} {qb g kb : Nat} {p : KvPlace} {vis : List (List Nat)} {rr : List Row × ARun} (h_rr : Kept r₀ rr.2.s) : Kept r₀ (fwdBlock e qb g kb p vis rr).2.s := by
  unfold fwdBlock
  try dsimp only
  repeat' first
    | with_reducible assumption | with_reducible apply captureScores_kept | with_reducible apply ARun.reads_kept
    | with_reducible apply ARun.flag_kept | with_reducible apply kept_ite | with_reducible apply kept_foldl
    | with_reducible apply keptP2_foldl | with_reducible apply keptP1_foldl | with_reducible apply keptW_foldl
    | with_reducible apply keptC_foldl | with_reducible apply keptA_foldl | with_reducible apply keptA2_foldl
    | with_reducible apply keptO_ite | with_reducible apply keptO_some | with_reducible exact keptO_none
    | with_reducible apply kept_getD | (with_reducible intro _; with_reducible intros; try dsimp only) | split

theorem fwdBlock_kept_eq {e : AEnv} {qb g kb : Nat} {p : KvPlace} {vis : List (List Nat)} {rr : List Row × ARun} {y0 : List Row} {y1 : ARun} (he : fwdBlock e qb g kb p vis rr = (y0, y1)) (h_rr : Kept r₀ rr.2.s) : Kept r₀ y1.s := by
  have w : Kept r₀ (fwdBlock e qb g kb p vis rr).2.s := fwdBlock_kept h_rr
  rw [he] at w
  exact w

theorem fwdBuffer_kept {e : AEnv} {qb g l : Nat} {fromGkv : Bool} {base nkb : Nat} {rr : List Row × ARun} (h_rr : Kept r₀ rr.2.s) : Kept r₀ (fwdBuffer e qb g l fromGkv base nkb rr).2.s := by
  unfold fwdBuffer
  try dsimp only
  repeat' first
    | with_reducible assumption | with_reducible apply rcount_kept | with_reducible apply fwdBlock_kept
    | with_reducible apply kept_ite | with_reducible apply kept_foldl | with_reducible apply keptP2_foldl
    | with_reducible apply keptP1_foldl | with_reducible apply keptW_foldl | with_reducible apply keptC_foldl
    | with_reducible apply keptA_foldl | with_reducible apply keptA2_foldl | refine fwdBlock_kept_eq ‹_› ?_
    | (with_reducible intro _; with_reducible intros; try dsimp only) | split

theorem fwdBuffer_kept_eq {e : AEnv} {qb g l : Nat} {fromGkv : Bool} {base nkb : Nat} {rr : List Row × ARun} {y0 : List Row} {y1 : ARun} (he : fwdBuffer e qb g l fromGkv base nkb rr = (y0, y1)) (h_rr : Kept r₀ rr.2.s) : Kept r₀ y1.s := by
  have w : Kept r₀ (fwdBuffer e qb g l fromGkv base nkb rr).2.s := fwdBuffer_kept h_rr
  rw [he] at w
  exact w

theorem fwdUnit_kept {e : AEnv} {x : AUnit} {r : ARun} (h_r : Kept r₀ r.s) : Kept r₀ (fwdUnit e x r).s := by
  unfold fwdUnit
  try dsimp only
  repeat' first
    | with_reducible assumption | with_reducible apply finaliseRows_kept | with_reducible apply ARun.reads_kept
    | with_reducible apply Stored.write_kept | with_reducible apply ARun.write_kept | with_reducible apply fwdBuffer_kept
    | with_reducible apply kept_ite | with_reducible apply keptA_ite | with_reducible apply kept_foldl
    | with_reducible apply keptP2_foldl | with_reducible apply keptP1_foldl | with_reducible apply keptW_foldl
    | with_reducible apply keptC_foldl | with_reducible apply keptA_foldl | with_reducible apply keptA2_foldl
    | refine fwdBuffer_kept_eq ‹_› ?_ | (with_reducible intro _; with_reducible intros; try dsimp only) | split

theorem attnFail_kept {x : Started} {l cause n : Nat} {s : State} (h_s : Kept r₀ s) : Kept r₀ (attnFail x l cause n s) := by
  unfold attnFail
  try dsimp only
  repeat' first
    | with_reducible assumption | with_reducible apply failCmd_kept | with_reducible apply leaveCores_kept
    | with_reducible apply forgetAt_kept | with_reducible apply kept_foldl

theorem dealUnits_kept {x : Started} {s : State} {j : Nat} (h_s : Kept r₀ s) : Kept r₀ (dealUnits x s j) := by
  unfold dealUnits
  try dsimp only
  repeat' first
    | with_reducible assumption | with_reducible apply setCorex_kept | with_reducible apply kept_ite

theorem dealAttn_kept {x : Started} {s : State} (h_s : Kept r₀ s) : Kept r₀ (dealAttn x s) := by
  unfold dealAttn
  try dsimp only
  repeat' first
    | with_reducible assumption | with_reducible apply dealUnits_kept | with_reducible apply updStarted_kept
    | with_reducible apply kept_foldl

theorem markerIncs_kept {m k : Nat} {s : State} (h_s : Kept r₀ s) : Kept r₀ (markerIncs m k s) := by
  unfold markerIncs
  try dsimp only
  repeat' first
    | with_reducible assumption | with_reducible apply markerInc_kept | with_reducible apply kept_foldl
    | with_reducible apply keptP2_foldl | with_reducible apply keptP1_foldl | with_reducible apply keptW_foldl
    | with_reducible apply keptC_foldl | with_reducible apply keptA_foldl | with_reducible apply keptA2_foldl
    | (with_reducible intro _; with_reducible intros; try dsimp only)

theorem legAdds_kept {x : Started} {had : Nat} {s : State} (h_s : Kept r₀ s) : Kept r₀ (legAdds x had s) := by
  unfold legAdds
  try dsimp only
  repeat' first
    | with_reducible assumption | with_reducible apply setProg_kept | with_reducible apply markerIncs_kept
    | with_reducible apply kept_ite

theorem finishUnit_kept {run : UnitRun} {x : Started} {n : Nat} {h : Share} {k : Nat} {s : State} (h_run : ∀ x n u r, Kept r₀ r.s → Kept r₀ (run x n u r).s) (h_s : Kept r₀ s) : Kept r₀ (finishUnit run x n h k s) := by
  unfold finishUnit
  try dsimp only
  repeat' first
    | with_reducible assumption | with_reducible apply viewUnit_kept | with_reducible apply addFlags_kept
    | with_reducible apply attnFail_kept | with_reducible apply forgetPieces_kept | with_reducible apply setCorex_kept
    | with_reducible apply legAdds_kept | with_reducible apply leaveCore_kept | with_reducible apply showStreams_kept
    | with_reducible apply advance_kept | with_reducible apply h_run | with_reducible apply kept_ite
    | with_reducible apply keptO_ite | with_reducible apply keptO_some | with_reducible exact keptO_none
    | with_reducible apply kept_getD | split

theorem finishUnits_kept {run : UnitRun} {x : Started} {n : Nat} (h_run : ∀ x n u r, Kept r₀ r.s → Kept r₀ (run x n u r).s) : ∀ (n0 : Nat) {n1 : State}, Kept r₀ n1 → Kept r₀ (finishUnits run x n n0 n1) := by
  intro n0
  induction n0 with
  | zero => intro n1 h; exact h
  | succ n ih =>
    intro n1 h
    unfold finishUnits
    try dsimp only
    repeat' first
      | with_reducible assumption | with_reducible apply finishUnit_kept | with_reducible apply ih | with_reducible apply h_run
      | split

theorem attnSettle_kept {x : Started} {s : State} (h_s : Kept r₀ s) : Kept r₀ (attnSettle x s) := by
  unfold attnSettle
  try dsimp only
  repeat' first
    | with_reducible assumption | with_reducible apply markDone_kept | with_reducible apply kept_ite | split

theorem attnRun_kept {op : Op} {begin' : Started → State → State} {run : UnitRun} {c : Nat} {s : State} (h_begin' : ∀ a0 a1, Kept r₀ a1 → Kept r₀ (begin' a0 a1)) (h_run : ∀ x n u r, Kept r₀ r.s → Kept r₀ (run x n u r).s) (h_s : Kept r₀ s) : Kept r₀ (attnRun op begin' run c s) := by
  unfold attnRun
  try dsimp only
  repeat' first
    | with_reducible assumption | with_reducible apply attnSettle_kept | with_reducible apply finishUnits_kept
    | with_reducible apply advance_kept | with_reducible apply h_begin' | with_reducible apply h_run
    | with_reducible apply kept_ite | with_reducible apply kept_foldl | with_reducible apply keptP2_foldl
    | with_reducible apply keptP1_foldl | with_reducible apply keptW_foldl | with_reducible apply keptC_foldl
    | with_reducible apply keptA_foldl | with_reducible apply keptA2_foldl
    | (with_reducible intro _; with_reducible intros; try dsimp only) | split

theorem attnStart_kept {c : Nat} {b : Bytes} {s : State} (h_s : Kept r₀ s) : Kept r₀ (attnStart c b s) := by
  unfold attnStart
  try dsimp only
  repeat' first
    | with_reducible assumption | with_reducible apply updStarted_kept | with_reducible apply touchRead_kept
    | with_reducible apply kept_ite

theorem ringBegin_kept {x : Started} {s : State} (h_s : Kept r₀ s) : Kept r₀ (ringBegin x s) := by
  unfold ringBegin
  try dsimp only
  repeat' first
    | with_reducible assumption | with_reducible apply dealAttn_kept | with_reducible apply failCmd_kept
    | with_reducible apply captureReach_kept | with_reducible apply kept_ite | split

theorem attBatonTimeout_kept {n : Nat} {s : State} (h_s : Kept r₀ s) : Kept r₀ (attBatonTimeout n s) := by
  unfold attBatonTimeout
  try dsimp only
  repeat' first
    | with_reducible assumption | with_reducible apply attnFail_kept | with_reducible apply kept_ite | split

theorem mergeUnit_kept {x : Started} {n : Nat} {un : AUnit} {r : ARun} (h_r : Kept r₀ r.s) : Kept r₀ (mergeUnit x n un r).s := by
  unfold mergeUnit
  try dsimp only
  repeat' first
    | with_reducible assumption | with_reducible apply finaliseRows_kept | with_reducible apply ARun.reads_kept
    | with_reducible apply ARun.flag_kept | with_reducible apply kept_ite | with_reducible apply keptA_ite

theorem deltaUnit_kept {e : AEnv} {x : AUnit} {r : ARun} (h_r : Kept r₀ r.s) : Kept r₀ (deltaUnit e x r).s := by
  unfold deltaUnit
  try dsimp only
  repeat' first
    | with_reducible assumption | with_reducible apply ARun.reads_kept | with_reducible apply ARun.flag_kept
    | with_reducible apply Stored.write_kept | with_reducible apply ARun.write_kept | with_reducible apply kept_ite
    | with_reducible apply keptA_ite | with_reducible apply kept_foldl | with_reducible apply keptP2_foldl
    | with_reducible apply keptP1_foldl | with_reducible apply keptW_foldl | with_reducible apply keptC_foldl
    | with_reducible apply keptA_foldl | with_reducible apply keptA2_foldl
    | (with_reducible intro _; with_reducible intros; try dsimp only)

theorem captureBwd_kept {n qb kb q : Nat} {rows : List BwdRow} {s : State} (h_s : Kept r₀ s) : Kept r₀ (captureBwd n qb kb q rows s) := by
  unfold captureBwd
  try dsimp only
  repeat' first
    | with_reducible assumption | with_reducible apply captureScores_kept

theorem queryBlock_kept {e : AEnv} {qb g kb : Nat} {p : KvPlace} {vis : List (List Nat)} {rr : List (List Nat) × ARun} (h_rr : Kept r₀ rr.2.s) : Kept r₀ (queryBlock e qb g kb p vis rr).2.s := by
  unfold queryBlock
  try dsimp only
  repeat' first
    | with_reducible assumption | with_reducible apply captureBwd_kept | with_reducible apply ARun.reads_kept
    | with_reducible apply ARun.flag_kept | with_reducible apply kept_ite | with_reducible apply kept_foldl
    | with_reducible apply keptP2_foldl | with_reducible apply keptP1_foldl | with_reducible apply keptW_foldl
    | with_reducible apply keptC_foldl | with_reducible apply keptA_foldl | with_reducible apply keptA2_foldl
    | with_reducible apply keptO_ite | with_reducible apply keptO_some | with_reducible exact keptO_none
    | with_reducible apply kept_getD | (with_reducible intro _; with_reducible intros; try dsimp only) | split

theorem queryBlock_kept_eq {e : AEnv} {qb g kb : Nat} {p : KvPlace} {vis : List (List Nat)} {rr : List (List Nat) × ARun} {y0 : List (List Nat)} {y1 : ARun} (he : queryBlock e qb g kb p vis rr = (y0, y1)) (h_rr : Kept r₀ rr.2.s) : Kept r₀ y1.s := by
  have w : Kept r₀ (queryBlock e qb g kb p vis rr).2.s := queryBlock_kept h_rr
  rw [he] at w
  exact w

theorem bwdEdges_kept {e : AEnv} {m : State} {l pass : Nat} {rows : List (Nat × Nat)} {r : ARun} (h_r : Kept r₀ r.s) : Kept r₀ (bwdEdges e m l pass rows r).s := by
  unfold bwdEdges
  try dsimp only
  repeat' first
    | with_reducible assumption | with_reducible apply edgeRow_kept | with_reducible apply ARun.flag_kept
    | with_reducible apply kept_ite | with_reducible apply keptA_ite | with_reducible apply kept_foldl
    | with_reducible apply keptP2_foldl | with_reducible apply keptP1_foldl | with_reducible apply keptW_foldl
    | with_reducible apply keptC_foldl | with_reducible apply keptA_foldl | with_reducible apply keptA2_foldl
    | (with_reducible intro _; with_reducible intros; try dsimp only)

theorem queryUnit_kept {e : AEnv} {x : AUnit} {r : ARun} (h_r : Kept r₀ r.s) : Kept r₀ (queryUnit e x r).s := by
  unfold queryUnit
  try dsimp only
  repeat' first
    | with_reducible assumption | with_reducible apply rcount_kept | with_reducible apply bwdEdges_kept
    | with_reducible apply ARun.reads_kept | with_reducible apply ARun.flag_kept | with_reducible apply ARun.wrote_kept
    | with_reducible apply Stored.write_kept | with_reducible apply ARun.write_kept | with_reducible apply queryBlock_kept
    | with_reducible apply kept_ite | with_reducible apply keptA_ite | with_reducible apply kept_foldl
    | with_reducible apply keptP2_foldl | with_reducible apply keptP1_foldl | with_reducible apply keptW_foldl
    | with_reducible apply keptC_foldl | with_reducible apply keptA_foldl | with_reducible apply keptA2_foldl
    | refine queryBlock_kept_eq ‹_› ?_ | (with_reducible intro _; with_reducible intros; try dsimp only) | split

theorem keyBlockHead_kept {e : AEnv} {kb qb h : Nat} {p : KvPlace} {vis : List (List Nat)} {cr : Carry × ARun} (h_cr : Kept r₀ cr.2.s) : Kept r₀ (keyBlockHead e kb qb h p vis cr).2.s := by
  unfold keyBlockHead
  try dsimp only
  repeat' first
    | with_reducible assumption | with_reducible apply captureBwd_kept | with_reducible apply ARun.reads_kept
    | with_reducible apply ARun.flag_kept | with_reducible apply kept_ite | with_reducible apply kept_foldl
    | with_reducible apply keptP2_foldl | with_reducible apply keptP1_foldl | with_reducible apply keptW_foldl
    | with_reducible apply keptC_foldl | with_reducible apply keptA_foldl | with_reducible apply keptA2_foldl
    | with_reducible apply keptO_ite | with_reducible apply keptO_some | with_reducible exact keptO_none
    | with_reducible apply kept_getD | split

theorem keyBlockHead_kept_eq {e : AEnv} {kb qb h : Nat} {p : KvPlace} {vis : List (List Nat)} {cr : Carry × ARun} {y0 : Carry} {y1 : ARun} (he : keyBlockHead e kb qb h p vis cr = (y0, y1)) (h_cr : Kept r₀ cr.2.s) : Kept r₀ y1.s := by
  have w : Kept r₀ (keyBlockHead e kb qb h p vis cr).2.s := keyBlockHead_kept h_cr
  rw [he] at w
  exact w

theorem keyEdges_kept {e : AEnv} {x : AUnit} {r : ARun} (h_r : Kept r₀ r.s) : Kept r₀ (keyEdges e x r).s := by
  unfold keyEdges
  try dsimp only
  repeat' first
    | with_reducible assumption | with_reducible apply bwdEdges_kept | with_reducible apply ARun.reads_kept
    | with_reducible apply kept_ite | with_reducible apply keptA_ite

theorem keyUnit_kept {e : AEnv} {x : AUnit} {r : ARun} (h_r : Kept r₀ r.s) : Kept r₀ (keyUnit e x r).s := by
  unfold keyUnit
  try dsimp only
  repeat' first
    | with_reducible assumption | with_reducible apply rcountBy_kept | with_reducible apply keyEdges_kept
    | with_reducible apply writeElems_kept | with_reducible apply ARun.reads_kept | with_reducible apply ARun.wrote_kept
    | with_reducible apply keyBlockHead_kept | with_reducible apply kept_ite | with_reducible apply keptA_ite
    | with_reducible apply kept_foldl | with_reducible apply keptP2_foldl | with_reducible apply keptP1_foldl
    | with_reducible apply keptW_foldl | with_reducible apply keptC_foldl | with_reducible apply keptA_foldl
    | with_reducible apply keptA2_foldl | refine keyBlockHead_kept_eq ‹_› ?_
    | (with_reducible intro _; with_reducible intros; try dsimp only)

theorem bwdUnit_kept {x : Started} {n : Nat} {un : AUnit} {r : ARun} (h_r : Kept r₀ r.s) : Kept r₀ (bwdUnit x n un r).s := by
  unfold bwdUnit
  try dsimp only
  repeat' first
    | with_reducible assumption | with_reducible apply deltaUnit_kept | with_reducible apply keyUnit_kept
    | with_reducible apply queryUnit_kept | split

end Sys2Proof.Machine
end

