-- ==== Sys2Proof/Laws/KeptPages.lean ====
section
/-! SUPPORT. Every operation of Machine/Pages.lean keeps what `Kept` names. -/

namespace Sys2Proof.Machine

open Sys2Proof

variable {r₀ : State}

theorem setFrame_kept {f : Frame} {n : Nat} {alloc : Bool} {s : State} (h_s : Kept r₀ s) : Kept r₀ (setFrame f n alloc s) := by
  unfold setFrame
  try dsimp only
  repeat' first
    | with_reducible assumption | with_reducible apply poke_kept

theorem showPool_kept {s : State} (h_s : Kept r₀ s) : Kept r₀ (showPool s) := by
  unfold showPool
  try dsimp only
  repeat' first
    | with_reducible assumption | with_reducible apply rset_kept | with_reducible apply rsetBits_kept
    | with_reducible apply rsetBit_kept | with_reducible apply kept_ite

theorem showDepthOfPool_kept {s : State} (h_s : Kept r₀ s) : Kept r₀ (showDepthOfPool s) := by
  unfold showDepthOfPool
  try dsimp only
  repeat' first
    | with_reducible assumption | with_reducible apply showPool_kept | with_reducible apply kept_ite

theorem showSlot_kept {q : Nat} {s : State} (h_s : Kept r₀ s) : Kept r₀ (showSlot q s) := by
  unfold showSlot
  try dsimp only
  repeat' first
    | with_reducible assumption | with_reducible apply rset_kept

theorem showOpen_kept {s : State} (h_s : Kept r₀ s) : Kept r₀ (showOpen s) := by
  unfold showOpen
  try dsimp only
  repeat' first
    | with_reducible assumption | with_reducible apply rset_kept

theorem takeS_kept {near : Option Nat} {s : State} (h : Kept r₀ s) (x : Nat × State) (e : takeS near s = some x) :
    Kept r₀ x.2 := by
  unfold takeS at e
  simp only [Option.map_eq_some_iff] at e
  obtain ⟨f, -, rfl⟩ := e
  exact showPool_kept (bumpFree_kept (kept_lit h))

theorem takeS_kept_eq {near : Option Nat} {s : State} {y0 : Nat} {y1 : State} (he : takeS near s = some (y0, y1)) (h : Kept r₀ s) : Kept r₀ y1 :=
  takeS_kept h _ he

theorem takeL_kept {s : State} (h : Kept r₀ s) (x : Nat × State) (e : takeL s = some x) : Kept r₀ x.2 := by
  unfold takeL at e
  simp only [Option.map_eq_some_iff] at e
  obtain ⟨f, -, rfl⟩ := e
  exact showPool_kept (bumpFree_kept (kept_lit h))

theorem takeL_kept_eq {s : State} {y0 : Nat} {y1 : State} (he : takeL s = some (y0, y1)) (h : Kept r₀ s) : Kept r₀ y1 :=
  takeL_kept h _ he

theorem freeFrame_kept {s : State} {f : Frame} (h_s : Kept r₀ s) : Kept r₀ (freeFrame s f) := by
  unfold freeFrame
  try dsimp only
  repeat' first
    | with_reducible assumption | with_reducible apply showPool_kept | with_reducible apply kept_ite | split
    | fail_if_no_progress with_reducible apply kept_lit

theorem giveBack_kept {f : Frame} {s : State} (h_s : Kept r₀ s) : Kept r₀ (giveBack f s) := by
  unfold giveBack
  try dsimp only
  repeat' first
    | with_reducible assumption | with_reducible apply setFrame_kept | with_reducible apply freeFrame_kept
    | with_reducible apply kept_ite | split | fail_if_no_progress with_reducible apply kept_lit

theorem settleFrames_kept {s : State} (h_s : Kept r₀ s) : Kept r₀ (settleFrames s) := by
  unfold settleFrames
  try dsimp only
  repeat' first
    | with_reducible assumption | with_reducible apply freeFrame_kept | with_reducible apply kept_foldl
    | with_reducible apply keptP2_foldl | with_reducible apply keptP1_foldl | with_reducible apply keptW_foldl
    | with_reducible apply keptC_foldl | with_reducible apply keptA_foldl | with_reducible apply keptA2_foldl | split
    | fail_if_no_progress with_reducible apply kept_lit

theorem dropRef_kept {f : Frame} {s : State} (h_s : Kept r₀ s) : Kept r₀ (dropRef f s) := by
  unfold dropRef
  try dsimp only
  repeat' first
    | with_reducible assumption | with_reducible apply giveBack_kept | with_reducible apply setFrame_kept
    | with_reducible apply kept_ite

theorem copyFrame_kept {src dst : Nat} {s : State} (h_s : Kept r₀ s) : Kept r₀ (copyFrame src dst s) := by
  unfold copyFrame
  try dsimp only
  repeat' first
    | with_reducible assumption | with_reducible apply poke_kept | split | fail_if_no_progress with_reducible apply kept_lit

theorem copyStacked_kept {src dst : Nat} {s : State} (h_s : Kept r₀ s) : Kept r₀ (copyStacked src dst s) := by
  unfold copyStacked
  try dsimp only
  repeat' first
    | with_reducible assumption | with_reducible apply copyFrame_kept | with_reducible apply rcount_kept
    | with_reducible apply kept_ite

theorem beginAge_kept {q p : Nat} {s : State} (h_s : Kept r₀ s) : Kept r₀ (beginAge q p s) := by
  unfold beginAge
  try dsimp only
  repeat' first
    | with_reducible assumption | with_reducible apply rsetBit_kept | with_reducible apply setFrame_kept
    | with_reducible apply setPte_kept | with_reducible apply showPool_kept | refine takeL_kept_eq ‹_› ?_ | split
    | fail_if_no_progress with_reducible apply kept_lit

theorem finishAge_kept {q p : Nat} {s : State} (h_s : Kept r₀ s) : Kept r₀ (finishAge q p s) := by
  unfold finishAge
  try dsimp only
  repeat' first
    | with_reducible assumption | with_reducible apply copyFrame_kept | with_reducible apply setFrame_kept
    | with_reducible apply setPte_kept | with_reducible apply dropRef_kept | with_reducible apply showSlot_kept
    | with_reducible apply rcount_kept | with_reducible apply showPool_kept | split
    | fail_if_no_progress with_reducible apply kept_lit

theorem abandonAge_kept {q p : Nat} {s : State} (h_s : Kept r₀ s) : Kept r₀ (abandonAge q p s) := by
  unfold abandonAge
  try dsimp only
  repeat' first
    | with_reducible assumption | with_reducible apply setPte_kept | with_reducible apply rcount_kept
    | with_reducible apply giveBack_kept | split | fail_if_no_progress with_reducible apply kept_lit

theorem handStep_kept {now : Bool} {s : State} {x : Nat × Nat} (h_s : Kept r₀ s) : Kept r₀ (handStep now s x) := by
  unfold handStep
  try dsimp only
  repeat' first
    | with_reducible assumption | with_reducible apply setPte_kept | with_reducible apply finishAge_kept
    | with_reducible apply beginAge_kept | with_reducible apply kept_ite | split
    | fail_if_no_progress with_reducible apply kept_lit

theorem handGo_kept {now : Bool} {met : State → Bool} {a : State × Bool} {x : Nat × Nat} (h_a : Kept r₀ a.1) : Kept r₀ (handGo now met a x).1 := by
  unfold handGo
  try dsimp only
  repeat' first
    | with_reducible assumption | with_reducible apply rsetBit_kept | with_reducible apply handStep_kept
    | with_reducible apply kept_ite | split

theorem handGo_kept_eq {now : Bool} {met : State → Bool} {a : State × Bool} {x : Nat × Nat} {y0 : State} {y1 : Bool} (he : handGo now met a x = (y0, y1)) (h_a : Kept r₀ a.1) : Kept r₀ y0 := by
  have w : Kept r₀ (handGo now met a x).1 := handGo_kept h_a
  rw [he] at w
  exact w

theorem sweep_kept {now : Bool} {met : State → Bool} {s : State} (h_s : Kept r₀ s) : Kept r₀ (sweep now met s) := by
  unfold sweep
  try dsimp only
  repeat' first
    | with_reducible assumption | with_reducible apply booksFatal_kept | with_reducible apply handGo_kept
    | with_reducible apply kept_ite | with_reducible apply kept_foldl | with_reducible apply keptP2_foldl
    | with_reducible apply keptP1_foldl

theorem ageingSweep_kept {s : State} (h_s : Kept r₀ s) : Kept r₀ (ageingSweep s) := by
  unfold ageingSweep
  try dsimp only
  repeat' first
    | with_reducible assumption | with_reducible apply showPool_kept | with_reducible apply sweep_kept
    | with_reducible apply kept_ite

theorem beginFetch_kept {q p core : Nat} {demand pin : Bool} {s : State} (h_s : Kept r₀ s) : Kept r₀ (beginFetch q p core demand pin s) := by
  unfold beginFetch
  try dsimp only
  repeat' first
    | with_reducible assumption | with_reducible apply booksFatal_kept | with_reducible apply setFrame_kept
    | with_reducible apply rcount_kept | with_reducible apply kept_ite | refine takeS_kept_eq ‹_› ?_ | split
    | fail_if_no_progress with_reducible apply kept_lit

theorem landFetch_kept {q p f : Nat} {pin : Bool} {s : State} (h_s : Kept r₀ s) : Kept r₀ (landFetch q p f pin s) := by
  unfold landFetch
  try dsimp only
  repeat' first
    | with_reducible assumption | with_reducible apply setFrame_kept | with_reducible apply copyFrame_kept
    | with_reducible apply showSlot_kept | with_reducible apply dropRef_kept | with_reducible apply setPte_kept

theorem pageFetchDone_kept {q p : Nat} {s : State} (h_s : Kept r₀ s) : Kept r₀ (pageFetchDone q p s) := by
  unfold pageFetchDone
  try dsimp only
  repeat' first
    | with_reducible assumption | with_reducible apply landFetch_kept | with_reducible apply rcount_kept
    | with_reducible apply kept_ite | split | fail_if_no_progress with_reducible apply kept_lit

theorem fetchNow_kept {q p : Nat} {s : State} (h_s : Kept r₀ s) : Kept r₀ (fetchNow q p s) := by
  unfold fetchNow
  try dsimp only
  repeat' first
    | with_reducible assumption | with_reducible apply pageFetchDone_kept | with_reducible apply landFetch_kept
    | with_reducible apply kept_ite | refine takeS_kept_eq ‹_› ?_ | split

theorem unmapPage_kept {q : Nat} {s : State} {p : Nat} (h_s : Kept r₀ s) : Kept r₀ (unmapPage q s p) := by
  unfold unmapPage
  try dsimp only
  repeat' first
    | with_reducible assumption | with_reducible apply abandonAge_kept | with_reducible apply giveBack_kept
    | with_reducible apply dropRef_kept | with_reducible apply setPte_kept | with_reducible apply kept_ite | split
    | fail_if_no_progress with_reducible apply kept_lit

theorem mapPage_kept {q p : Nat} {s : State} (h_s : Kept r₀ s) : Kept r₀ (mapPage q p s) := by
  unfold mapPage
  try dsimp only
  repeat' first
    | with_reducible assumption | with_reducible apply setPte_kept | with_reducible apply setFrame_kept
    | refine takeS_kept_eq ‹_› ?_ | split

theorem copyOnWrite_kept {q p : Nat} {s : State} (h_s : Kept r₀ s) : Kept r₀ (copyOnWrite q p s) := by
  unfold copyOnWrite
  try dsimp only
  repeat' first
    | with_reducible assumption | with_reducible apply copyStacked_kept | with_reducible apply setFrame_kept
    | with_reducible apply rcount_kept | with_reducible apply dropRef_kept | with_reducible apply setPte_kept
    | refine takeS_kept_eq ‹_› ?_ | split

theorem reserve_kept {need : State → Nat} {s : State} (h_s : Kept r₀ s) : Kept r₀ (reserve need s).2 := by
  unfold reserve
  try dsimp only
  repeat' first
    | with_reducible assumption | with_reducible apply finishAge_kept | with_reducible apply sweep_kept
    | with_reducible apply snapOn_kept | with_reducible apply rsetBit_kept | with_reducible apply kept_ite
    | with_reducible apply kept_foldl | with_reducible apply keptP2_foldl | with_reducible apply keptP1_foldl
    | with_reducible apply keptW_foldl | with_reducible apply keptC_foldl | with_reducible apply keptA_foldl
    | with_reducible apply keptA2_foldl | (with_reducible intro _; with_reducible intros; try dsimp only) | split

theorem reserve_kept_eq {need : State → Nat} {s : State} {y0 : Bool} {y1 : State} (he : reserve need s = (y0, y1)) (h_s : Kept r₀ s) : Kept r₀ y1 := by
  have w : Kept r₀ (reserve need s).2 := reserve_kept h_s
  rw [he] at w
  exact w

theorem readyToWrite_kept {q : Nat} {s : State} {p : Nat} (h_s : Kept r₀ s) : Kept r₀ (readyToWrite q s p) := by
  unfold readyToWrite
  try dsimp only
  repeat' first
    | with_reducible assumption | with_reducible apply fetchNow_kept | with_reducible apply abandonAge_kept
    | with_reducible apply mapPage_kept | with_reducible apply copyOnWrite_kept | with_reducible apply setPte_kept
    | with_reducible apply kept_ite

theorem pageStart_kept {c : Nat} {s : State} (h_s : Kept r₀ s) : Kept r₀ (pageStart c s) := by
  unfold pageStart
  try dsimp only
  repeat' first
    | with_reducible assumption | with_reducible apply updStarted_kept

theorem pageCmd_kept {c : Nat} {op : Op} {f : Started → State → State} {s : State} (h_f : ∀ a0 a1, Kept r₀ a1 → Kept r₀ (f a0 a1)) (h_s : Kept r₀ s) : Kept r₀ (pageCmd c op f s) := by
  unfold pageCmd
  try dsimp only
  repeat' first
    | with_reducible assumption | with_reducible apply failCmd_kept | with_reducible apply booksFatal_kept
    | with_reducible apply h_f | with_reducible apply kept_ite | split

theorem slotOpenGo_kept {x : Started} {s : State} (h_s : Kept r₀ s) : Kept r₀ (slotOpenGo x s) := by
  unfold slotOpenGo
  try dsimp only
  repeat' first
    | with_reducible assumption | with_reducible apply failCmd_kept | with_reducible apply captureReach_kept
    | with_reducible apply touchRead_kept | with_reducible apply setSlotx_kept | with_reducible apply zeroRange_kept
    | with_reducible apply setPte_kept | with_reducible apply markDone_kept | with_reducible apply showSlot_kept
    | with_reducible apply showOpen_kept | with_reducible apply rset_kept | with_reducible apply kept_ite
    | with_reducible apply kept_foldl | with_reducible apply keptP2_foldl | with_reducible apply keptP1_foldl
    | with_reducible apply keptW_foldl | with_reducible apply keptC_foldl | with_reducible apply keptA_foldl
    | with_reducible apply keptA2_foldl | (with_reducible intro _; with_reducible intros; try dsimp only) | split

theorem slotCloseGo_kept {x : Started} {s : State} (h_s : Kept r₀ s) : Kept r₀ (slotCloseGo x s) := by
  unfold slotCloseGo
  try dsimp only
  repeat' first
    | with_reducible assumption | with_reducible apply unmapPage_kept | with_reducible apply rset_kept
    | with_reducible apply setSlotx_kept | with_reducible apply markDone_kept | with_reducible apply showOpen_kept
    | with_reducible apply kept_foldl

theorem forkPage_kept {dst src : Nat} {s : State} {p : Nat} (h_s : Kept r₀ s) : Kept r₀ (forkPage dst src s p) := by
  unfold forkPage
  try dsimp only
  repeat' first
    | with_reducible assumption | with_reducible apply abandonAge_kept | with_reducible apply setFrame_kept
    | with_reducible apply setPte_kept | with_reducible apply copyStacked_kept | with_reducible apply rsetBit_kept
    | with_reducible apply rcountSat_kept | with_reducible apply kept_ite | refine takeS_kept_eq ‹_› ?_ | split

theorem slotForkGo_kept {x : Started} {s : State} (h_s : Kept r₀ s) : Kept r₀ (slotForkGo x s) := by
  unfold slotForkGo
  try dsimp only
  repeat' first
    | with_reducible assumption | with_reducible apply failCmd_kept | with_reducible apply fetchNow_kept
    | with_reducible apply forkPage_kept | with_reducible apply markDone_kept | with_reducible apply showSlot_kept
    | with_reducible apply rset_kept | with_reducible apply reserve_kept | with_reducible apply kept_ite
    | with_reducible apply kept_foldl | with_reducible apply keptP2_foldl | with_reducible apply keptP1_foldl
    | with_reducible apply keptW_foldl | with_reducible apply keptC_foldl | with_reducible apply keptA_foldl
    | with_reducible apply keptA2_foldl | refine reserve_kept_eq ‹_› ?_
    | (with_reducible intro _; with_reducible intros; try dsimp only)

theorem putRegion_kept {q : Nat} {s : State} {p : ElemPut} (h_s : Kept r₀ s) : Kept r₀ (putRegion q s p) := by
  unfold putRegion
  try dsimp only
  repeat' first
    | with_reducible assumption | with_reducible apply poke_kept | with_reducible apply kept_foldl
    | with_reducible apply keptP2_foldl | with_reducible apply keptP1_foldl | with_reducible apply keptW_foldl
    | with_reducible apply keptC_foldl | with_reducible apply keptA_foldl | with_reducible apply keptA2_foldl
    | (with_reducible intro _; with_reducible intros; try dsimp only)

theorem kvWriteGo_kept {x : Started} {s : State} (h_s : Kept r₀ s) : Kept r₀ (kvWriteGo x s) := by
  unfold kvWriteGo
  try dsimp only
  repeat' first
    | with_reducible assumption | with_reducible apply failCmd_kept | with_reducible apply captureReach_kept
    | with_reducible apply touchReads_kept | with_reducible apply readyToWrite_kept | with_reducible apply putRegion_kept
    | with_reducible apply forgetAt_kept | with_reducible apply markDone_kept | with_reducible apply showSlot_kept
    | with_reducible apply rset_kept | with_reducible apply reserve_kept | with_reducible apply kept_ite
    | with_reducible apply kept_foldl | with_reducible apply keptP2_foldl | with_reducible apply keptP1_foldl
    | with_reducible apply keptW_foldl | with_reducible apply keptC_foldl | with_reducible apply keptA_foldl
    | with_reducible apply keptA2_foldl | refine reserve_kept_eq ‹_› ?_
    | (with_reducible intro _; with_reducible intros; try dsimp only) | split

theorem slotTruncGo_kept {x : Started} {s : State} (h_s : Kept r₀ s) : Kept r₀ (slotTruncGo x s) := by
  unfold slotTruncGo
  try dsimp only
  repeat' first
    | with_reducible assumption | with_reducible apply unmapPage_kept | with_reducible apply markDone_kept
    | with_reducible apply showSlot_kept | with_reducible apply rset_kept | with_reducible apply kept_foldl

theorem hintPage_kept {q op : Nat} {s : State} {p : Nat} (h_s : Kept r₀ s) : Kept r₀ (hintPage q op s p) := by
  unfold hintPage
  try dsimp only
  repeat' first
    | with_reducible assumption | with_reducible apply setPte_kept | with_reducible apply beginAge_kept
    | with_reducible apply beginFetch_kept | with_reducible apply kept_ite | split

theorem pageHintGo_kept {x : Started} {s : State} (h_s : Kept r₀ s) : Kept r₀ (pageHintGo x s) := by
  unfold pageHintGo
  try dsimp only
  repeat' first
    | with_reducible assumption | with_reducible apply markDone_kept | with_reducible apply hintPage_kept
    | with_reducible apply kept_ite | with_reducible apply kept_foldl

theorem kvpEnable_kept {s : State} (h_s : Kept r₀ s) : Kept r₀ (kvpEnable s) := by
  unfold kvpEnable
  try dsimp only
  repeat' first
    | with_reducible assumption | with_reducible apply countLocked_kept | with_reducible apply misuse_kept
    | with_reducible apply zeroRange_kept | with_reducible apply rsetBit_kept | with_reducible apply showPool_kept
    | with_reducible apply kept_ite | split | fail_if_no_progress with_reducible apply kept_lit

theorem pagedTile_kept {x : Started} {n : Nat} {un : AUnit} {t : Nat × List Nat} {y : Piece} {rr : EntryRows × ARun} (h_rr : Kept r₀ rr.2.s) : Kept r₀ (pagedTile x n un t y rr).2.s := by
  unfold pagedTile
  try dsimp only
  repeat' first
    | with_reducible assumption | with_reducible apply captureScores_kept | with_reducible apply ARun.flag_kept
    | with_reducible apply kept_ite | with_reducible apply kept_foldl | with_reducible apply keptP2_foldl
    | with_reducible apply keptP1_foldl | with_reducible apply keptW_foldl | with_reducible apply keptC_foldl
    | with_reducible apply keptA_foldl | with_reducible apply keptA2_foldl | with_reducible apply keptO_ite
    | with_reducible apply keptO_some | with_reducible exact keptO_none | with_reducible apply kept_getD | split

theorem pagedTile_kept_eq {x : Started} {n : Nat} {un : AUnit} {t : Nat × List Nat} {y : Piece} {rr : EntryRows × ARun} {y0 : EntryRows} {y1 : ARun} (he : pagedTile x n un t y rr = (y0, y1)) (h_rr : Kept r₀ rr.2.s) : Kept r₀ y1.s := by
  have w : Kept r₀ (pagedTile x n un t y rr).2.s := pagedTile_kept h_rr
  rw [he] at w
  exact w

theorem pagedUnitRun_kept {x : Started} {n : Nat} {un : AUnit} {r : ARun} (h_r : Kept r₀ r.s) : Kept r₀ (pagedUnitRun x n un r).s := by
  unfold pagedUnitRun
  try dsimp only
  repeat' first
    | with_reducible assumption | with_reducible apply rcountBy_kept | with_reducible apply finaliseRows_kept
    | with_reducible apply ARun.reads_kept | with_reducible apply pagedTile_kept | with_reducible apply kept_ite
    | with_reducible apply keptA_ite | with_reducible apply kept_foldl | with_reducible apply keptP2_foldl
    | with_reducible apply keptP1_foldl | with_reducible apply keptW_foldl | with_reducible apply keptC_foldl
    | with_reducible apply keptA_foldl | with_reducible apply keptA2_foldl | with_reducible apply keptO_ite
    | with_reducible apply keptO_some | with_reducible exact keptO_none | with_reducible apply kept_getD
    | refine pagedTile_kept_eq ‹_› ?_ | (with_reducible intro _; with_reducible intros; try dsimp only) | split

theorem pagedStart_kept {c : Nat} {b : Bytes} {s : State} (h_s : Kept r₀ s) : Kept r₀ (pagedStart c b s) := by
  unfold pagedStart
  try dsimp only
  repeat' first
    | with_reducible assumption | with_reducible apply updStarted_kept

theorem pagedBegin_kept {x : Started} {s : State} (h_s : Kept r₀ s) : Kept r₀ (pagedBegin x s) := by
  unfold pagedBegin
  try dsimp only
  repeat' first
    | with_reducible assumption | with_reducible apply failCmd_kept | with_reducible apply dealAttn_kept
    | with_reducible apply kept_ite

theorem pagePrefetch_kept {n q p : Nat} {s : State} (h_s : Kept r₀ s) : Kept r₀ (pagePrefetch n q p s) := by
  unfold pagePrefetch
  try dsimp only
  repeat' first
    | with_reducible assumption | with_reducible apply beginFetch_kept | with_reducible apply kept_ite

theorem demandFetch_kept {n q p : Nat} {s : State} (h_s : Kept r₀ s) : Kept r₀ (demandFetch n q p s) := by
  unfold demandFetch
  try dsimp only
  repeat' first
    | with_reducible assumption | with_reducible apply beginFetch_kept | with_reducible apply kept_ite

end Sys2Proof.Machine
end

