-- ==== Sys2Proof/Laws/KeptBank.lean ====
section
/-! SUPPORT. Every operation of Machine/Bank.lean keeps what `Kept` names. -/

namespace Sys2Proof.Machine

open Sys2Proof

variable {r₀ : State}

theorem capturePoison_kept {bank slot : Nat} {x : Started} {s : State} (h_s : Kept r₀ s) : Kept r₀ (capturePoison bank slot x s) := by
  unfold capturePoison
  try dsimp only
  repeat' first
    | with_reducible assumption | with_reducible apply rsetBit_kept | with_reducible apply snapOn_kept
    | with_reducible apply rset_kept | with_reducible apply kept_ite

theorem repeatSlot_kept {p : ParityErr} {q : Nat} {s : State} (h_s : Kept r₀ s) : Kept r₀ (repeatSlot p q s) := by
  unfold repeatSlot
  try dsimp only
  repeat' first
    | with_reducible assumption | with_reducible apply reportError_kept | with_reducible apply rsetBit_kept
    | with_reducible apply rcountSat_kept

theorem slotParity_kept {ps : List ParityErr} {zs : List Nat} {k q : Nat} {s : State} (h_s : Kept r₀ s) : Kept r₀ (slotParity ps zs k q s).1 := by
  unfold slotParity
  try dsimp only
  repeat' first
    | with_reducible assumption | with_reducible apply repeatSlot_kept | with_reducible apply chipFatal_kept | split

theorem slotParity_kept_eq {ps : List ParityErr} {zs : List Nat} {k q : Nat} {s : State} {y0 : State} {y1 : Bool} (he : slotParity ps zs k q s = (y0, y1)) (h_s : Kept r₀ s) : Kept r₀ y0 := by
  have w : Kept r₀ (slotParity ps zs k q s).1 := slotParity_kept h_s
  rw [he] at w
  exact w

theorem bankIdle_kept {zs : List Nat} {s : State} (h_s : Kept r₀ s) : Kept r₀ (bankIdle zs s) := by
  unfold bankIdle
  try dsimp only
  repeat' first
    | with_reducible assumption | with_reducible apply bumpFree_kept | with_reducible apply rcountBy_kept
    | with_reducible apply rsetBits_kept | with_reducible apply rclrBit_kept | with_reducible apply kept_foldl
    | with_reducible apply keptP2_foldl | with_reducible apply keptP1_foldl | with_reducible apply keptW_foldl
    | with_reducible apply keptC_foldl | with_reducible apply keptA_foldl | with_reducible apply keptA2_foldl
    | (with_reducible intro _; with_reducible intros; try dsimp only) | split
    | fail_if_no_progress with_reducible apply kept_lit

theorem bankDone_kept {c : Nat} {zs : List Nat} {s : State} (h_s : Kept r₀ s) : Kept r₀ (bankDone c zs s) := by
  unfold bankDone
  try dsimp only
  repeat' first
    | with_reducible assumption | with_reducible apply markDone_kept | with_reducible apply rcount_kept
    | with_reducible apply bankIdle_kept

theorem bankFailed_kept {c cause inst : Nat} {zs : List Nat} {s : State} (h_s : Kept r₀ s) : Kept r₀ (bankFailed c cause inst zs s) := by
  unfold bankFailed
  try dsimp only
  repeat' first
    | with_reducible assumption | with_reducible apply failCmd_kept | with_reducible apply bankIdle_kept

theorem bankShow_kept {op mask : Nat} {ranges : List (Nat × Nat)} {s : State} (h_s : Kept r₀ s) : Kept r₀ (bankShow op mask ranges s) := by
  unfold bankShow
  try dsimp only
  repeat' first
    | with_reducible assumption | with_reducible apply rsetBits_kept | with_reducible apply rsetBit_kept
    | with_reducible apply touchReads_kept | split | fail_if_no_progress with_reducible apply kept_lit

theorem BankJob.doRow_kept {b : BankJob} {s : State} {j : Nat} (h_s : Kept r₀ s) : Kept r₀ (BankJob.doRow b s j) := by
  unfold BankJob.doRow
  try dsimp only
  repeat' first
    | with_reducible assumption | with_reducible apply addFlags_kept | with_reducible apply poke_kept
    | with_reducible apply kept_foldl | with_reducible apply keptP2_foldl | with_reducible apply keptP1_foldl
    | with_reducible apply keptW_foldl | with_reducible apply keptC_foldl | with_reducible apply keptA_foldl
    | with_reducible apply keptA2_foldl | (with_reducible intro _; with_reducible intros; try dsimp only)

theorem BankJob.go_kept {ps : List ParityErr} {b : BankJob} : ∀ (n0 : Nat) {n1 : Nat} {n2 : State}, Kept r₀ n2 → Kept r₀ (BankJob.go ps b n0 n1 n2) := by
  intro n0
  induction n0 with
  | zero =>
    intro n1 n2 h
    unfold BankJob.go
    try dsimp only
    repeat' first
      | with_reducible assumption | with_reducible apply bankDone_kept
  | succ n ih =>
    intro n1 n2 h
    unfold BankJob.go
    try dsimp only
    repeat' first
      | with_reducible assumption | with_reducible apply bankDone_kept | with_reducible apply bankFailed_kept
      | with_reducible apply capturePoison_kept | with_reducible apply ARun.reads_kept | with_reducible apply BankJob.doRow_kept
      | with_reducible apply slotParity_kept | with_reducible apply ih | with_reducible apply kept_ite
      | with_reducible apply kept_foldl | with_reducible apply keptP2_foldl | with_reducible apply keptP1_foldl
      | with_reducible apply keptW_foldl | with_reducible apply keptC_foldl | with_reducible apply keptA_foldl
      | with_reducible apply keptA2_foldl | refine slotParity_kept_eq ‹_› ?_ | split

theorem forgetAll_kept {l : List (Nat × Nat)} {s : State} (h_s : Kept r₀ s) : Kept r₀ (forgetAll l s) := by
  unfold forgetAll
  try dsimp only
  repeat' first
    | with_reducible assumption | with_reducible apply forgetRange_kept | with_reducible apply kept_foldl
    | with_reducible apply keptP2_foldl | with_reducible apply keptP1_foldl | with_reducible apply keptW_foldl
    | with_reducible apply keptC_foldl | with_reducible apply keptA_foldl | with_reducible apply keptA2_foldl
    | (with_reducible intro _; with_reducible intros; try dsimp only) | split

theorem paritySlots_kept {ps : List ParityErr} {zs : List Nat} {q : Nat} : ∀ (n0 : Nat) {n1 : Nat} {n2 : State}, Kept r₀ n2 → Kept r₀ (paritySlots ps zs q n0 n1 n2).1 := by
  intro n0
  induction n0 with
  | zero => intro n1 n2 h; exact h
  | succ n ih =>
    intro n1 n2 h
    unfold paritySlots
    try dsimp only
    repeat' first
      | with_reducible assumption | with_reducible apply slotParity_kept | with_reducible apply ih
      | with_reducible apply kept_ite | refine slotParity_kept_eq ‹_› ?_ | split

theorem paritySlots_kept_eq {ps : List ParityErr} {zs : List Nat} {q n0 n1 : Nat} {n2 : State} {y0 : State} {y1 : Bool} (he : paritySlots ps zs q n0 n1 n2 = (y0, y1)) (h_n2 : Kept r₀ n2) : Kept r₀ y0 := by
  have w : Kept r₀ (paritySlots ps zs q n0 n1 n2).1 := paritySlots_kept n0 h_n2
  rw [he] at w
  exact w

theorem mvWrite_kept {c : Nat} {m : MV} {s : State} (h_s : Kept r₀ s) : Kept r₀ (mvWrite c m s) := by
  unfold mvWrite
  try dsimp only
  repeat' first
    | with_reducible assumption | with_reducible apply addFlags_kept | with_reducible apply bankFailed_kept
    | with_reducible apply bankDone_kept | with_reducible apply Stored.write_kept | with_reducible apply ARun.write_kept
    | with_reducible apply kept_ite | with_reducible apply kept_foldl | with_reducible apply keptP2_foldl
    | with_reducible apply keptP1_foldl | with_reducible apply keptW_foldl | with_reducible apply keptC_foldl
    | with_reducible apply keptA_foldl | with_reducible apply keptA2_foldl | split

theorem bankMvRun_kept {c : Nat} {ps : List ParityErr} {s : State} (h_s : Kept r₀ s) : Kept r₀ (bankMvRun c ps s) := by
  unfold bankMvRun
  try dsimp only
  repeat' first
    | with_reducible assumption | with_reducible apply failCmd_kept | with_reducible apply bankFailed_kept
    | with_reducible apply captureReach_kept | with_reducible apply forgetAll_kept | with_reducible apply touchReads_kept
    | with_reducible apply capturePoison_kept | with_reducible apply mvWrite_kept | with_reducible apply paritySlots_kept
    | with_reducible apply kept_ite | refine paritySlots_kept_eq ‹_› ?_ | split

theorem bankOptRun_kept {c : Nat} {ps : List ParityErr} {s : State} (h_s : Kept r₀ s) : Kept r₀ (bankOptRun c ps s) := by
  unfold bankOptRun
  try dsimp only
  repeat' first
    | with_reducible assumption | with_reducible apply failCmd_kept | with_reducible apply BankJob.go_kept
    | with_reducible apply ARun.reads_kept | with_reducible apply kept_ite | split

theorem bankEwRun_kept {c : Nat} {ps : List ParityErr} {s : State} (h_s : Kept r₀ s) : Kept r₀ (bankEwRun c ps s) := by
  unfold bankEwRun
  try dsimp only
  repeat' first
    | with_reducible assumption | with_reducible apply failCmd_kept | with_reducible apply BankJob.go_kept
    | with_reducible apply ARun.reads_kept | with_reducible apply kept_ite | split

theorem copyGo_kept {x : Started} {zs : List Nat} {ps : List ParityErr} : ∀ (n0 : Nat) {n1 : Nat} {n2 : State}, Kept r₀ n2 → Kept r₀ (copyGo x zs ps n0 n1 n2) := by
  intro n0
  induction n0 with
  | zero =>
    intro n1 n2 h
    unfold copyGo
    try dsimp only
    repeat' first
      | with_reducible assumption | with_reducible apply bankDone_kept
  | succ n ih =>
    intro n1 n2 h
    unfold copyGo
    try dsimp only
    repeat' first
      | with_reducible assumption | with_reducible apply bankDone_kept | with_reducible apply poke_kept
      | with_reducible apply rcount_kept | with_reducible apply bankFailed_kept | with_reducible apply capturePoison_kept
      | with_reducible apply slotParity_kept | with_reducible apply ih | with_reducible apply kept_ite
      | with_reducible apply kept_foldl | with_reducible apply keptP2_foldl | with_reducible apply keptP1_foldl
      | with_reducible apply keptW_foldl | with_reducible apply keptC_foldl | with_reducible apply keptA_foldl
      | with_reducible apply keptA2_foldl | refine slotParity_kept_eq ‹_› ?_
      | (with_reducible intro _; with_reducible intros; try dsimp only) | split

theorem bankCopyRun_kept {c : Nat} {ps : List ParityErr} {s : State} (h_s : Kept r₀ s) : Kept r₀ (bankCopyRun c ps s) := by
  unfold bankCopyRun
  try dsimp only
  repeat' first
    | with_reducible assumption | with_reducible apply bankFailed_kept | with_reducible apply captureReach_kept
    | with_reducible apply failCmd_kept | with_reducible apply copyGo_kept | with_reducible apply kept_ite | split

theorem bankStart_kept {o : Op} {b : Bytes} {s : State} (h_s : Kept r₀ s) : Kept r₀ (bankStart o b s) := by
  unfold bankStart
  try dsimp only
  repeat' first
    | with_reducible assumption | with_reducible apply bankShow_kept | with_reducible apply kept_ite

theorem bankGate_kept {s : State} (h_s : Kept r₀ s) : Kept r₀ (bankGate s) := by
  unfold bankGate
  try dsimp only
  repeat' first
    | with_reducible assumption | with_reducible apply rsetBit_kept | split | fail_if_no_progress with_reducible apply kept_lit

theorem bankHold_kept {s : State} (h_s : Kept r₀ s) : Kept r₀ (bankHold s) := by
  unfold bankHold
  try dsimp only
  repeat' first
    | with_reducible assumption | with_reducible apply rsetBit_kept | with_reducible apply bankGate_kept
    | with_reducible apply kept_ite | split | fail_if_no_progress with_reducible apply kept_lit

theorem bankHoldDone_kept {s : State} (h_s : Kept r₀ s) : Kept r₀ (bankHoldDone s) := by
  unfold bankHoldDone
  try dsimp only
  repeat' first
    | with_reducible assumption | with_reducible apply bankGate_kept | with_reducible apply kept_ite

theorem bankWake_kept {s : State} (h_s : Kept r₀ s) : Kept r₀ (bankWake s) := by
  unfold bankWake
  try dsimp only
  repeat' first
    | with_reducible assumption | with_reducible apply misuse_kept | with_reducible apply rclrBit_kept
    | with_reducible apply kept_ite | split | fail_if_no_progress with_reducible apply kept_lit

theorem bankWakeDone_kept {s : State} (h_s : Kept r₀ s) : Kept r₀ (bankWakeDone s) := by
  unfold bankWakeDone
  try dsimp only
  repeat' first
    | with_reducible assumption | with_reducible apply rsetBit_kept | with_reducible apply rclrBit_kept
    | with_reducible apply kept_ite | split | fail_if_no_progress with_reducible apply kept_lit

theorem bankBist_kept {allPass : Bool} {s : State} (h_s : Kept r₀ s) : Kept r₀ (bankBist allPass s) := by
  unfold bankBist
  try dsimp only
  repeat' first
    | with_reducible assumption | with_reducible apply rsetBit_kept | with_reducible apply chipFatal_kept
    | with_reducible apply kept_ite

end Sys2Proof.Machine
end

