-- ==== Sys2Proof/Laws/KeptComp.lean ====
section
/-! SUPPORT. Every operation of Machine/Comp.lean keeps what `Kept` names. -/

namespace Sys2Proof.Machine

open Sys2Proof

variable {r₀ : State}

theorem countComp_kept {p raw coded : Nat} {s : State} (h_s : Kept r₀ s) : Kept r₀ (countComp p raw coded s) := by
  unfold countComp
  try dsimp only
  repeat' first
    | with_reducible assumption | with_reducible apply rcountBy_kept | with_reducible apply setCompx_kept

theorem newTable_kept {p cls : Nat} {sample : Bytes} {s : State} (h_s : Kept r₀ s) : Kept r₀ (newTable p cls sample s).2 := by
  unfold newTable
  try dsimp only
  repeat' first
    | with_reducible assumption | with_reducible apply setCompx_kept

theorem newTable_kept_eq {p cls : Nat} {sample : Bytes} {s : State} {y0 : CodeTable} {y1 : State} (he : newTable p cls sample s = (y0, y1)) (h_s : Kept r₀ s) : Kept r₀ y1 := by
  have w : Kept r₀ (newTable p cls sample s).2 := newTable_kept h_s
  rw [he] at w
  exact w

theorem codeBlock_kept {p : Nat} {t : CodeTable} {i : Nat} {b : Bytes} {s : State} (h_s : Kept r₀ s) : Kept r₀ (codeBlock p t i b s).2 := by
  unfold codeBlock
  try dsimp only
  repeat' first
    | with_reducible assumption | with_reducible apply rcount_kept | with_reducible apply countComp_kept
    | with_reducible apply kept_ite | split

theorem codeBlock_kept_eq {p : Nat} {t : CodeTable} {i : Nat} {b : Bytes} {s : State} {y0 : CompOut} {y1 : State} (he : codeBlock p t i b s = (y0, y1)) (h_s : Kept r₀ s) : Kept r₀ y1 := by
  have w : Kept r₀ (codeBlock p t i b s).2 := codeBlock_kept h_s
  rw [he] at w
  exact w

theorem codeBlocks_kept {p : Nat} {t : CodeTable} : ∀ (n1 : List Bytes) {n0 : Nat} {n2 : State}, Kept r₀ n2 → Kept r₀ (codeBlocks p t n0 n1 n2).2 := by
  intro n1
  induction n1 with
  | nil => intro n0 n2 h; exact h
  | cons x l ih =>
    intro n0 n2 h
    unfold codeBlocks
    try dsimp only
    repeat' first
      | with_reducible assumption | with_reducible apply countComp_kept | with_reducible apply codeBlock_kept
      | with_reducible apply newTable_kept | with_reducible apply ih | with_reducible apply kept_ite
      | refine codeBlock_kept_eq ‹_› ?_ | refine newTable_kept_eq ‹_› ?_ | split

theorem codeBlocks_kept_eq {p : Nat} {t : CodeTable} {n0 : Nat} {n1 : List Bytes} {n2 : State} {y0 : List CompOut} {y1 : State} (he : codeBlocks p t n0 n1 n2 = (y0, y1)) (h_n2 : Kept r₀ n2) : Kept r₀ y1 := by
  have w : Kept r₀ (codeBlocks p t n0 n1 n2).2 := codeBlocks_kept n1 h_n2
  rw [he] at w
  exact w

theorem compressRun_kept {p cls a : Nat} {data : Bytes} {s : State} (h_s : Kept r₀ s) : Kept r₀ (compressRun p cls a data s).2 := by
  unfold compressRun
  try dsimp only
  repeat' first
    | with_reducible assumption | with_reducible apply countComp_kept | with_reducible apply newTable_kept
    | with_reducible apply codeBlocks_kept

theorem compressRun_kept_eq {p cls a : Nat} {data : Bytes} {s : State} {y0 : List CompOut} {y1 : State} (he : compressRun p cls a data s = (y0, y1)) (h_s : Kept r₀ s) : Kept r₀ y1 := by
  have w : Kept r₀ (compressRun p cls a data s).2 := compressRun_kept h_s
  rw [he] at w
  exact w

theorem showTables_kept {p : Nat} {s : State} (h_s : Kept r₀ s) : Kept r₀ (showTables p s) := by
  unfold showTables
  try dsimp only
  repeat' first
    | with_reducible assumption | with_reducible apply rsetBits_kept | with_reducible apply rset_kept

theorem endStall_kept {p gen : Nat} {s : State} (h_s : Kept r₀ s) : Kept r₀ (endStall p gen s) := by
  unfold endStall
  try dsimp only
  repeat' first
    | with_reducible assumption | with_reducible apply rsetBits_kept | with_reducible apply rclrBit_kept
    | with_reducible apply kept_ite

theorem loadImage_kept {p : Nat} {s : State} (h_s : Kept r₀ s) : Kept r₀ (loadImage p s).2 := by
  unfold loadImage
  try dsimp only
  repeat' first
    | with_reducible assumption | with_reducible apply endStall_kept | with_reducible apply rsetBit_kept
    | with_reducible apply setCompx_kept | with_reducible apply showTables_kept | with_reducible apply rcount_kept
    | with_reducible apply kept_ite | split

theorem loadImage_kept_eq {p : Nat} {s : State} {y0 : Option Bool} {y1 : State} (he : loadImage p s = (y0, y1)) (h_s : Kept r₀ s) : Kept r₀ y1 := by
  have w : Kept r₀ (loadImage p s).2 := loadImage_kept h_s
  rw [he] at w
  exact w

theorem genStall_kept {p gen : Nat} {s : State} (h_s : Kept r₀ s) : Kept r₀ (genStall p gen s) := by
  unfold genStall
  try dsimp only
  repeat' first
    | with_reducible assumption | with_reducible apply rsetBits_kept | with_reducible apply rsetBit_kept
    | with_reducible apply snapOn_kept | with_reducible apply reportError_kept | with_reducible apply rcountSat_kept
    | with_reducible apply kept_ite

theorem mismatch_kept {p : Nat} {s : State} (h_s : Kept r₀ s) : Kept r₀ (mismatch p s) := by
  unfold mismatch
  try dsimp only
  repeat' first
    | with_reducible assumption | with_reducible apply reportError_kept | with_reducible apply rcountSat_kept
    | with_reducible apply rsetBit_kept

theorem secondFailure_kept {p : Nat} {s : State} (h_s : Kept r₀ s) : Kept r₀ (secondFailure p s) := by
  unfold secondFailure
  try dsimp only
  repeat' first
    | with_reducible assumption | with_reducible apply snapOn_kept | with_reducible apply rcountSat_kept
    | with_reducible apply rsetBit_kept

end Sys2Proof.Machine
end

