-- ==== Sys2Proof/Laws/KeptStash.lean ====
section
/-! SUPPORT. Every operation of Machine/Stash.lean keeps what `Kept` names. -/

namespace Sys2Proof.Machine

open Sys2Proof

variable {r₀ : State}

theorem writeFrames_kept {lagoon : Bool} {d : Nat} {fs : List Nat} : ∀ (n0 : Nat) {n1 : Nat} {n2 : Bytes} {n3 : State}, Kept r₀ n3 → Kept r₀ (writeFrames lagoon d fs n0 n1 n2 n3) := by
  intro n0
  induction n0 with
  | zero => intro n1 n2 n3 h; exact h
  | succ n ih =>
    intro n1 n2 n3 h
    unfold writeFrames
    try dsimp only
    repeat' first
      | with_reducible assumption | with_reducible apply poke_kept | with_reducible apply ih | with_reducible apply kept_ite

theorem putFrames_kept {lagoon : Bool} {d : Nat} {fs : List Nat} {off : Nat} {b : Bytes} {s : State} (h_s : Kept r₀ s) : Kept r₀ (putFrames lagoon d fs off b s) := by
  unfold putFrames
  try dsimp only
  repeat' first
    | with_reducible assumption | with_reducible apply writeFrames_kept

theorem restoreBytes_kept {t : TD} {off : Nat} {d : Bytes} {s : State} (h_s : Kept r₀ s) : Kept r₀ (restoreBytes t off d s).s := by
  unfold restoreBytes
  try dsimp only
  repeat' first
    | with_reducible assumption | with_reducible apply writeAll_kept

theorem poisonImage_kept {t : TD} {off n : Nat} {s : State} (h_s : Kept r₀ s) : Kept r₀ (poisonImage t off n s) := by
  unfold poisonImage
  try dsimp only
  repeat' first
    | with_reducible assumption | with_reducible apply poisonLine_kept | with_reducible apply kept_foldl
    | with_reducible apply keptP2_foldl | with_reducible apply keptP1_foldl | with_reducible apply keptW_foldl
    | with_reducible apply keptC_foldl | with_reducible apply keptA_foldl | with_reducible apply keptA2_foldl
    | (with_reducible intro _; with_reducible intros; try dsimp only) | split

theorem showStash_kept {d : Nat} {s : State} (h_s : Kept r₀ s) : Kept r₀ (showStash d s) := by
  unfold showStash
  try dsimp only
  repeat' first
    | with_reducible assumption | with_reducible apply rset_kept

theorem takeFrames_kept {lagoon : Bool} {d n : Nat} {s : State} (h_s : Kept r₀ s) : Kept r₀ (takeFrames lagoon d n s).2 := by
  unfold takeFrames
  try dsimp only
  repeat' first
    | with_reducible assumption | with_reducible apply setStashd_kept | with_reducible apply showStash_kept
    | with_reducible apply kept_ite | split | fail_if_no_progress with_reducible apply kept_lit

theorem takeFrames_kept_eq {lagoon : Bool} {d n : Nat} {s : State} {y0 : List Nat} {y1 : State} (he : takeFrames lagoon d n s = (y0, y1)) (h_s : Kept r₀ s) : Kept r₀ y1 := by
  have w : Kept r₀ (takeFrames lagoon d n s).2 := takeFrames_kept h_s
  rw [he] at w
  exact w

theorem freeFrames_kept {e : Nat} {stacked lagoon : Bool} {s : State} (h_s : Kept r₀ s) : Kept r₀ (freeFrames e stacked lagoon s) := by
  unfold freeFrames
  try dsimp only
  repeat' first
    | with_reducible assumption | with_reducible apply showStash_kept | with_reducible apply setStashd_kept
    | with_reducible apply setStashx_kept

theorem freeEntry_kept {e : Nat} {s : State} (h_s : Kept r₀ s) : Kept r₀ (freeEntry e s) := by
  unfold freeEntry
  try dsimp only
  repeat' first
    | with_reducible assumption | with_reducible apply showStash_kept | with_reducible apply setStashx_kept
    | with_reducible apply freeFrames_kept

theorem startOffload_kept {e : Nat} {s : State} (h_s : Kept r₀ s) : Kept r₀ (startOffload e s) := by
  unfold startOffload
  try dsimp only
  repeat' first
    | with_reducible assumption | with_reducible apply setStashx_kept | with_reducible apply takeFrames_kept

theorem switchRecompute_kept {e : Nat} {s : State} (h_s : Kept r₀ s) : Kept r₀ (switchRecompute e s) := by
  unfold switchRecompute
  try dsimp only
  repeat' first
    | with_reducible assumption | with_reducible apply freeFrames_kept | with_reducible apply setStashx_kept
    | with_reducible apply snapOn_kept | with_reducible apply rsetBit_kept | with_reducible apply rcount_kept

theorem fillOffload_kept {c d : Nat} : ∀ (n0 : List Nat) {n1 : Int} {n2 : State}, Kept r₀ n2 → Kept r₀ (fillOffload c d n0 n1 n2).2 := by
  intro n0
  induction n0 with
  | nil => intro n1 n2 h; exact h
  | cons x l ih =>
    intro n1 n2 h
    unfold fillOffload
    try dsimp only
    repeat' first
      | with_reducible assumption | with_reducible apply addFlags_kept | with_reducible apply startOffload_kept
      | with_reducible apply ih | with_reducible apply kept_ite | split

theorem fillOffload_kept_eq {c d : Nat} {n0 : List Nat} {n1 : Int} {n2 : State} {y0 : Int} {y1 : State} (he : fillOffload c d n0 n1 n2 = (y0, y1)) (h_n2 : Kept r₀ n2) : Kept r₀ y1 := by
  have w : Kept r₀ (fillOffload c d n0 n1 n2).2 := fillOffload_kept n0 h_n2
  rw [he] at w
  exact w

theorem fillRecompute_kept {c : Nat} : ∀ (n0 : List Nat) {n1 : Int} {n2 : State}, Kept r₀ n2 → Kept r₀ (fillRecompute c n0 n1 n2).2 := by
  intro n0
  induction n0 with
  | nil => intro n1 n2 h; exact h
  | cons x l ih =>
    intro n1 n2 h
    unfold fillRecompute
    try dsimp only
    repeat' first
      | with_reducible assumption | with_reducible apply addFlags_kept | with_reducible apply switchRecompute_kept
      | with_reducible apply ih | with_reducible apply kept_ite | split

theorem fillRecompute_kept_eq {c : Nat} {n0 : List Nat} {n1 : Int} {n2 : State} {y0 : Int} {y1 : State} (he : fillRecompute c n0 n1 n2 = (y0, y1)) (h_n2 : Kept r₀ n2) : Kept r₀ y1 := by
  have w : Kept r₀ (fillRecompute c n0 n1 n2).2 := fillRecompute_kept n0 h_n2
  rw [he] at w
  exact w

theorem putGoes_kept {c q d : Nat} {s : State} (h_s : Kept r₀ s) : Kept r₀ (putGoes c q d s) := by
  unfold putGoes
  try dsimp only
  repeat' first
    | with_reducible assumption | with_reducible apply setStashd_kept | with_reducible apply bumpFree_kept
    | with_reducible apply rcountBy_kept | with_reducible apply rsetBits_kept | with_reducible apply setQState_kept
    | with_reducible apply kept_ite

theorem putWaits_kept {c d : Nat} {s : State} (h_s : Kept r₀ s) : Kept r₀ (putWaits c d s) := by
  unfold putWaits
  try dsimp only
  repeat' first
    | with_reducible assumption | with_reducible apply setStashd_kept | with_reducible apply kept_ite

theorem putStalls_kept {c q d : Nat} {s : State} (h_s : Kept r₀ s) : Kept r₀ (putStalls c q d s) := by
  unfold putStalls
  try dsimp only
  repeat' first
    | with_reducible assumption | with_reducible apply putWaits_kept | with_reducible apply snapOn_kept
    | with_reducible apply rsetBit_kept | with_reducible apply rsetBits_kept | with_reducible apply setQState_kept
    | with_reducible apply kept_ite

theorem fillLoop_kept {x : Started} {e d need : Nat} : ∀ (n0 : Nat) {n1 : State}, Kept r₀ n1 → Kept r₀ (fillLoop x e d need n0 n1) := by
  intro n0
  induction n0 with
  | zero =>
    intro n1 h
    unfold fillLoop
    try dsimp only
    repeat' first
      | with_reducible assumption | with_reducible apply putWaits_kept
  | succ n ih =>
    intro n1 h
    unfold fillLoop
    try dsimp only
    repeat' first
      | with_reducible assumption | with_reducible apply putWaits_kept | with_reducible apply setStashx_kept
      | with_reducible apply showStash_kept | with_reducible apply setProg_kept | with_reducible apply putGoes_kept
      | with_reducible apply snapOn_kept | with_reducible apply rsetBit_kept | with_reducible apply rcount_kept
      | with_reducible apply markDone_kept | with_reducible apply addFlags_kept | with_reducible apply putStalls_kept
      | with_reducible apply takeFrames_kept | with_reducible apply fillOffload_kept | with_reducible apply fillRecompute_kept
      | with_reducible apply ih | with_reducible apply kept_ite

theorem putFails_kept {c e cause : Nat} {s : State} (h_s : Kept r₀ s) : Kept r₀ (putFails c e cause s) := by
  unfold putFails
  try dsimp only
  repeat' first
    | with_reducible assumption | with_reducible apply failCmd_kept | with_reducible apply freeEntry_kept

theorem putFinish_kept {x : Started} {e : Nat} {s : State} (h_s : Kept r₀ s) : Kept r₀ (putFinish x e s) := by
  unfold putFinish
  try dsimp only
  repeat' first
    | with_reducible assumption | with_reducible apply putFails_kept | with_reducible apply captureReach_kept
    | with_reducible apply rsetBit_kept | with_reducible apply touchReads_kept | with_reducible apply putFrames_kept
    | with_reducible apply setStashd_kept | with_reducible apply setStashx_kept | with_reducible apply markDone_kept
    | with_reducible apply addFlags_kept | with_reducible apply kept_ite | split

theorem stashPutRun_kept {c : Nat} {s : State} (h_s : Kept r₀ s) : Kept r₀ (stashPutRun c s) := by
  unfold stashPutRun
  try dsimp only
  repeat' first
    | with_reducible assumption | with_reducible apply failCmd_kept | with_reducible apply putFinish_kept
    | with_reducible apply fillLoop_kept | with_reducible apply kept_ite | split

theorem stashFillRetry_kept {d : Nat} {s : State} (h_s : Kept r₀ s) : Kept r₀ (stashFillRetry d s) := by
  unfold stashFillRetry
  try dsimp only
  repeat' first
    | with_reducible assumption | with_reducible apply stashPutRun_kept | with_reducible apply kept_foldl
    | with_reducible apply keptP2_foldl | with_reducible apply keptP1_foldl | with_reducible apply keptW_foldl
    | with_reducible apply keptC_foldl | with_reducible apply keptA_foldl | with_reducible apply keptA2_foldl
    | (with_reducible intro _; with_reducible intros; try dsimp only)

theorem passOver_kept {x : Started} {s : State} (h_s : Kept r₀ s) : Kept r₀ (passOver x s) := by
  unfold passOver
  try dsimp only
  repeat' first
    | with_reducible assumption | with_reducible apply setQx_kept

theorem getDone_kept {c e : Nat} {keep : Bool} {s : State} (h_s : Kept r₀ s) : Kept r₀ (getDone c e keep s) := by
  unfold getDone
  try dsimp only
  repeat' first
    | with_reducible assumption | with_reducible apply markDone_kept | with_reducible apply freeEntry_kept
    | with_reducible apply kept_ite

theorem getRestored_kept {x : Started} {e : Nat} {s : State} (h_s : Kept r₀ s) : Kept r₀ (getRestored x e s) := by
  unfold getRestored
  try dsimp only
  repeat' first
    | with_reducible assumption | with_reducible apply getDone_kept | with_reducible apply passOver_kept

theorem getPlain_kept {x : Started} {e : Nat} {lagoon : Bool} {s : State} (h_s : Kept r₀ s) : Kept r₀ (getPlain x e lagoon s) := by
  unfold getPlain
  try dsimp only
  repeat' first
    | with_reducible assumption | with_reducible apply restoreBytes_kept | with_reducible apply failCmd_kept
    | with_reducible apply rsetBit_kept | with_reducible apply poisonImage_kept | with_reducible apply getRestored_kept
    | with_reducible apply addFlags_kept | with_reducible apply kept_ite | with_reducible apply kept_foldl
    | with_reducible apply keptP2_foldl | with_reducible apply keptP1_foldl | with_reducible apply keptW_foldl
    | with_reducible apply keptC_foldl | with_reducible apply keptA_foldl | with_reducible apply keptA2_foldl
    | (with_reducible intro _; with_reducible intros; try dsimp only) | split

theorem getStored_kept {x : Started} {e : Nat} {s : State} (h_s : Kept r₀ s) : Kept r₀ (getStored x e s) := by
  unfold getStored
  try dsimp only
  repeat' first
    | with_reducible assumption | with_reducible apply failCmd_kept | with_reducible apply captureReach_kept
    | with_reducible apply getPlain_kept | with_reducible apply setProg_kept | with_reducible apply setCompx_kept
    | with_reducible apply kept_ite | split

theorem stashGetRun_kept {c : Nat} {s : State} (h_s : Kept r₀ s) : Kept r₀ (stashGetRun c s) := by
  unfold stashGetRun
  try dsimp only
  repeat' first
    | with_reducible assumption | with_reducible apply failCmd_kept | with_reducible apply getDone_kept
    | with_reducible apply addFlags_kept | with_reducible apply getStored_kept | with_reducible apply kept_ite | split

theorem stashDropRun_kept {c : Nat} {s : State} (h_s : Kept r₀ s) : Kept r₀ (stashDropRun c s) := by
  unfold stashDropRun
  try dsimp only
  repeat' first
    | with_reducible assumption | with_reducible apply failCmd_kept | with_reducible apply markDone_kept
    | with_reducible apply freeEntry_kept | with_reducible apply kept_ite | split

theorem bgGo_kept {d : Nat} : ∀ (n0 : List Nat) {n1 : State}, Kept r₀ n1 → Kept r₀ (bgGo d n0 n1) := by
  intro n0
  induction n0 with
  | nil => intro n1 h; exact h
  | cons x l ih =>
    intro n1 h
    unfold bgGo
    try dsimp only
    repeat' first
      | with_reducible assumption | with_reducible apply startOffload_kept | with_reducible apply rsetBit_kept
      | with_reducible apply ih | with_reducible apply kept_ite

theorem stashBgOffload_kept {d : Nat} {s : State} (h_s : Kept r₀ s) : Kept r₀ (stashBgOffload d s) := by
  unfold stashBgOffload
  try dsimp only
  repeat' first
    | with_reducible assumption | with_reducible apply bgGo_kept | with_reducible apply kept_ite

theorem offloadPlain_kept {e : Nat} {s : State} (h_s : Kept r₀ s) : Kept r₀ (offloadPlain e s) := by
  unfold offloadPlain
  try dsimp only
  repeat' first
    | with_reducible assumption | with_reducible apply putFrames_kept | with_reducible apply rsetBit_kept
    | with_reducible apply poisonLine_kept | with_reducible apply kept_ite | with_reducible apply kept_foldl
    | with_reducible apply keptP2_foldl | with_reducible apply keptP1_foldl | with_reducible apply keptW_foldl
    | with_reducible apply keptC_foldl | with_reducible apply keptA_foldl | with_reducible apply keptA2_foldl
    | (with_reducible intro _; with_reducible intros; try dsimp only) | split

theorem packBlock_kept {e : Nat} {bad : Nat → Bool} {a : Nat × State} {o : CompOut} (h_a : Kept r₀ a.2) : Kept r₀ (packBlock e bad a o).2 := by
  unfold packBlock
  try dsimp only
  repeat' first
    | with_reducible assumption | with_reducible apply putFrames_kept | with_reducible apply rsetBit_kept
    | with_reducible apply poisonLine_kept | with_reducible apply kept_ite | with_reducible apply kept_foldl
    | with_reducible apply keptP2_foldl | with_reducible apply keptP1_foldl | with_reducible apply keptW_foldl
    | with_reducible apply keptC_foldl | with_reducible apply keptA_foldl | with_reducible apply keptA2_foldl
    | (with_reducible intro _; with_reducible intros; try dsimp only) | split

theorem packBlock_kept_eq {e : Nat} {bad : Nat → Bool} {a : Nat × State} {o : CompOut} {y0 : Nat} {y1 : State} (he : packBlock e bad a o = (y0, y1)) (h_a : Kept r₀ a.2) : Kept r₀ y1 := by
  have w : Kept r₀ (packBlock e bad a o).2 := packBlock_kept h_a
  rw [he] at w
  exact w

theorem offloadPacked_kept {e : Nat} {s : State} (h_s : Kept r₀ s) : Kept r₀ (offloadPacked e s) := by
  unfold offloadPacked
  try dsimp only
  repeat' first
    | with_reducible assumption | with_reducible apply compressRun_kept | with_reducible apply packBlock_kept
    | with_reducible apply kept_foldl | with_reducible apply keptP2_foldl

theorem stashOffloadDone_kept {e : Nat} {s : State} (h_s : Kept r₀ s) : Kept r₀ (stashOffloadDone e s) := by
  unfold stashOffloadDone
  try dsimp only
  repeat' first
    | with_reducible assumption | with_reducible apply offloadPacked_kept | with_reducible apply offloadPlain_kept
    | with_reducible apply freeFrames_kept | with_reducible apply rcount_kept | with_reducible apply setStashx_kept
    | with_reducible apply kept_ite

theorem queueBlocks_kept {c : Nat} {s : State} (h_s : Kept r₀ s) : Kept r₀ (queueBlocks c s) := by
  unfold queueBlocks
  try dsimp only
  repeat' first
    | with_reducible assumption | with_reducible apply setCompx_kept | split

theorem dropDeadImages_kept {s : State} (h_s : Kept r₀ s) : Kept r₀ (dropDeadImages s) := by
  unfold dropDeadImages
  try dsimp only
  repeat' first
    | with_reducible assumption | with_reducible apply setCompx_kept

theorem tableImageLoad_kept {p : Nat} {s : State} (h_s : Kept r₀ s) : Kept r₀ (tableImageLoad p s) := by
  unfold tableImageLoad
  try dsimp only
  repeat' first
    | with_reducible assumption | with_reducible apply dropDeadImages_kept | with_reducible apply setCompx_kept
    | with_reducible apply queueBlocks_kept | with_reducible apply failCmd_kept | with_reducible apply loadImage_kept
    | with_reducible apply kept_ite | refine loadImage_kept_eq ‹_› ?_ | split

theorem stsEnable_kept {s : State} (h_s : Kept r₀ s) : Kept r₀ (stsEnable s) := by
  unfold stsEnable
  try dsimp only
  repeat' first
    | with_reducible assumption | with_reducible apply countLocked_kept | with_reducible apply misuse_kept
    | with_reducible apply showStash_kept | with_reducible apply setStashd_kept | with_reducible apply rsetBit_kept
    | with_reducible apply kept_ite | with_reducible apply kept_foldl | with_reducible apply keptP2_foldl
    | with_reducible apply keptP1_foldl | with_reducible apply keptW_foldl | with_reducible apply keptC_foldl
    | with_reducible apply keptA_foldl | with_reducible apply keptA2_foldl
    | (with_reducible intro _; with_reducible intros; try dsimp only)

theorem noteAwaits_kept {q : Nat} {o : Op} {b : Bytes} {s : State} (h_s : Kept r₀ s) : Kept r₀ (noteAwaits q o b s) := by
  unfold noteAwaits
  try dsimp only
  repeat' first
    | with_reducible assumption | with_reducible apply setQx_kept

end Sys2Proof.Machine
end

