-- ==== Sys2Proof/Laws/KeptLink.lean ====
section
/-! SUPPORT. Every operation of Machine/Link.lean keeps what `Kept` names. -/

namespace Sys2Proof.Machine

open Sys2Proof

variable {r₀ : State}

theorem showLinks_kept {s : State} (h_s : Kept r₀ s) : Kept r₀ (showLinks s) := by
  unfold showLinks
  try dsimp only
  repeat' first
    | with_reducible assumption | with_reducible apply rsetBits_kept | with_reducible apply kept_ite

theorem setPortState_kept {p v : Nat} {s : State} (h_s : Kept r₀ s) : Kept r₀ (setPortState p v s) := by
  unfold setPortState
  try dsimp only
  repeat' first
    | with_reducible assumption | with_reducible apply showLinks_kept | with_reducible apply rsetBits_kept

theorem trainPort_kept {p : Nat} {s : State} (h_s : Kept r₀ s) : Kept r₀ (trainPort p s) := by
  unfold trainPort
  try dsimp only
  repeat' first
    | with_reducible assumption | with_reducible apply setPortState_kept | with_reducible apply setPortx_kept

theorem portWake_kept {p : Nat} {s : State} (h_s : Kept r₀ s) : Kept r₀ (portWake p s) := by
  unfold portWake
  try dsimp only
  repeat' first
    | with_reducible assumption | with_reducible apply trainPort_kept | with_reducible apply kept_ite

theorem toRetrain_kept {p : Nat} {s : State} (h_s : Kept r₀ s) : Kept r₀ (toRetrain p s) := by
  unfold toRetrain
  try dsimp only
  repeat' first
    | with_reducible assumption | with_reducible apply setPortx_kept | with_reducible apply setPortState_kept
    | with_reducible apply snapOn_kept | with_reducible apply rsetBit_kept | with_reducible apply rcountSat_kept

theorem protocolError_kept {p : Nat} {s : State} (h_s : Kept r₀ s) : Kept r₀ (protocolError p s) := by
  unfold protocolError
  try dsimp only
  repeat' first
    | with_reducible assumption | with_reducible apply toRetrain_kept | with_reducible apply rsetBit_kept
    | with_reducible apply rcountSat_kept

theorem replay_kept {p : Nat} {s : State} (h_s : Kept r₀ s) : Kept r₀ (replay p s) := by
  unfold replay
  try dsimp only
  repeat' first
    | with_reducible assumption | with_reducible apply toRetrain_kept | with_reducible apply reportError_kept
    | with_reducible apply rcount_kept | with_reducible apply setPortx_kept | with_reducible apply emitFlit_kept
    | with_reducible apply kept_ite | with_reducible apply kept_foldl | with_reducible apply keptP2_foldl
    | with_reducible apply keptP1_foldl | with_reducible apply keptW_foldl | with_reducible apply keptC_foldl
    | with_reducible apply keptA_foldl | with_reducible apply keptA2_foldl
    | (with_reducible intro _; with_reducible intros; try dsimp only)

theorem crcFailed_kept {p : Nat} {s : State} (h_s : Kept r₀ s) : Kept r₀ (crcFailed p s) := by
  unfold crcFailed
  try dsimp only
  repeat' first
    | with_reducible assumption | with_reducible apply rcount_kept

theorem countStall_kept {p : Nat} {s : State} (h_s : Kept r₀ s) : Kept r₀ (countStall p s) := by
  unfold countStall
  try dsimp only
  repeat' first
    | with_reducible assumption | with_reducible apply bumpFree_kept | with_reducible apply rcountBy_kept
    | with_reducible apply kept_ite

theorem takeAck_kept {p : Nat} {f : Bytes} {s : State} (h_s : Kept r₀ s) : Kept r₀ (takeAck p f s) := by
  unfold takeAck
  try dsimp only
  repeat' first
    | with_reducible assumption | with_reducible apply countStall_kept | with_reducible apply replay_kept
    | with_reducible apply setPortx_kept | with_reducible apply kept_ite

theorem freeHeld_kept {p n : Nat} {s : State} (h_s : Kept r₀ s) : Kept r₀ (freeHeld p n s) := by
  unfold freeHeld
  try dsimp only
  repeat' first
    | with_reducible assumption | with_reducible apply setPortx_kept

theorem queueCompressed_kept {p n : Nat} {m : Msg} {s : State} (h_s : Kept r₀ s) : Kept r₀ (queueCompressed p n m s) := by
  unfold queueCompressed
  try dsimp only
  repeat' first
    | with_reducible assumption | with_reducible apply freeHeld_kept | with_reducible apply setCompx_kept
    | with_reducible apply kept_ite | split

theorem arrive_kept {p : Nat} {s : State} {nm : Nat × Msg} (h_s : Kept r₀ s) : Kept r₀ (arrive p s nm) := by
  unfold arrive
  try dsimp only
  repeat' first
    | with_reducible assumption | with_reducible apply leaveSlack_kept | with_reducible apply freeHeld_kept
    | with_reducible apply sendOn_kept | with_reducible apply queueCompressed_kept | with_reducible apply setPortx_kept
    | with_reducible apply kept_ite | split

theorem acceptData_kept {p : Nat} {f : Bytes} {s : State} (h_s : Kept r₀ s) : Kept r₀ (acceptData p f s) := by
  unfold acceptData
  try dsimp only
  repeat' first
    | with_reducible assumption | with_reducible apply arrive_kept | with_reducible apply setPortx_kept
    | with_reducible apply kept_ite | with_reducible apply kept_foldl

theorem sendNak_kept {p : Nat} {s : State} (h_s : Kept r₀ s) : Kept r₀ (sendNak p s) := by
  unfold sendNak
  try dsimp only
  repeat' first
    | with_reducible assumption | with_reducible apply setPortx_kept

theorem fecCount_kept {p : Nat} {f : FlitIn} {s : State} (h_s : Kept r₀ s) : Kept r₀ (fecCount p f s) := by
  unfold fecCount
  try dsimp only
  repeat' first
    | with_reducible assumption | with_reducible apply reportError_kept | with_reducible apply rcountBy_kept
    | with_reducible apply kept_foldl | with_reducible apply keptP2_foldl | with_reducible apply keptP1_foldl
    | with_reducible apply keptW_foldl | with_reducible apply keptC_foldl | with_reducible apply keptA_foldl
    | with_reducible apply keptA2_foldl | (with_reducible intro _; with_reducible intros; try dsimp only)

theorem dataFlitBytes_kept {p : Nat} {f : Bytes} {s : State} (h_s : Kept r₀ s) : Kept r₀ (dataFlitBytes p f s) := by
  unfold dataFlitBytes
  try dsimp only
  repeat' first
    | with_reducible assumption | with_reducible apply sendNak_kept | with_reducible apply crcFailed_kept
    | with_reducible apply protocolError_kept | with_reducible apply takeAck_kept | with_reducible apply acceptData_kept
    | with_reducible apply kept_ite

theorem dataFlitIn_kept {p : Nat} {f : FlitIn} {s : State} (h_s : Kept r₀ s) : Kept r₀ (dataFlitIn p f s) := by
  unfold dataFlitIn
  try dsimp only
  repeat' first
    | with_reducible assumption | with_reducible apply speak_kept | with_reducible apply dataFlitBytes_kept
    | with_reducible apply fecCount_kept | with_reducible apply kept_ite

theorem idleFlitIn_kept {p : Nat} {f : FlitIn} {s : State} (h_s : Kept r₀ s) : Kept r₀ (idleFlitIn p f s) := by
  unfold idleFlitIn
  try dsimp only
  repeat' first
    | with_reducible assumption | with_reducible apply fecCount_kept | with_reducible apply crcFailed_kept
    | with_reducible apply protocolError_kept | with_reducible apply speak_kept | with_reducible apply takeAck_kept
    | with_reducible apply kept_ite

theorem ackTimeout_kept {p : Nat} {s : State} (h_s : Kept r₀ s) : Kept r₀ (ackTimeout p s) := by
  unfold ackTimeout
  try dsimp only
  repeat' first
    | with_reducible assumption | with_reducible apply replay_kept | with_reducible apply kept_ite

theorem linkTrain_kept {p : Nat} {lanes : BitVec 8} {s : State} (h_s : Kept r₀ s) : Kept r₀ (linkTrain p lanes s) := by
  unfold linkTrain
  try dsimp only
  repeat' first
    | with_reducible assumption | with_reducible apply setPortx_kept | with_reducible apply setPortState_kept
    | with_reducible apply emitFlit_kept | with_reducible apply rclrBit_kept | with_reducible apply rsetBit_kept
    | with_reducible apply kept_ite

theorem recordFar_kept {p : Nat} {f : Bytes} {s : State} (h_s : Kept r₀ s) : Kept r₀ (recordFar p f s) := by
  unfold recordFar
  try dsimp only
  repeat' first
    | with_reducible assumption | with_reducible apply rsetBits_kept

theorem sendJoin_kept {d : Nat} {s : State} (h_s : Kept r₀ s) : Kept r₀ (sendJoin d s) := by
  unfold sendJoin
  try dsimp only
  repeat' first
    | with_reducible assumption | with_reducible apply sendCtrl_kept | with_reducible apply kept_ite

theorem keeperPortUp_kept {p : Nat} {s : State} (h_s : Kept r₀ s) : Kept r₀ (keeperPortUp p s) := by
  unfold keeperPortUp
  try dsimp only
  repeat' first
    | with_reducible assumption | with_reducible apply sendJoin_kept | with_reducible apply sendCtrl_kept
    | with_reducible apply kept_ite | with_reducible apply kept_foldl | with_reducible apply keptP2_foldl
    | with_reducible apply keptP1_foldl | with_reducible apply keptW_foldl | with_reducible apply keptC_foldl
    | with_reducible apply keptA_foldl | with_reducible apply keptA2_foldl
    | (with_reducible intro _; with_reducible intros; try dsimp only)

theorem identFlitIn_kept {p : Nat} {g : FlitIn} {s : State} (h_s : Kept r₀ s) : Kept r₀ (identFlitIn p g s) := by
  unfold identFlitIn
  try dsimp only
  repeat' first
    | with_reducible assumption | with_reducible apply fecCount_kept | with_reducible apply crcFailed_kept
    | with_reducible apply protocolError_kept | with_reducible apply speak_kept | with_reducible apply sendNotices_kept
    | with_reducible apply keeperPortUp_kept | with_reducible apply setPortState_kept | with_reducible apply recordFar_kept
    | with_reducible apply setPortx_kept | with_reducible apply rsetBit_kept | with_reducible apply kept_ite

theorem laneLoss_kept {p lane : Nat} {s : State} (h_s : Kept r₀ s) : Kept r₀ (laneLoss p lane s) := by
  unfold laneLoss
  try dsimp only
  repeat' first
    | with_reducible assumption | with_reducible apply toRetrain_kept | with_reducible apply kept_ite

theorem lnkRetrain_kept {v : Nat} {s : State} (h_s : Kept r₀ s) : Kept r₀ (lnkRetrain v s) := by
  unfold lnkRetrain
  try dsimp only
  repeat' first
    | with_reducible assumption | with_reducible apply trainPort_kept | with_reducible apply misuse_kept
    | with_reducible apply kept_ite | with_reducible apply kept_foldl | with_reducible apply keptP2_foldl
    | with_reducible apply keptP1_foldl | with_reducible apply keptW_foldl | with_reducible apply keptC_foldl
    | with_reducible apply keptA_foldl | with_reducible apply keptA2_foldl
    | (with_reducible intro _; with_reducible intros; try dsimp only)

theorem takeMsg_kept {p kind : Nat} {m : Msg} {s : State} (h_s : Kept r₀ s) : KeptO r₀ (takeMsg p kind m s) := by
  intro t e
  unfold takeMsg at e
  dsimp only at e
  split at e
  · rw [Option.map_eq_some_iff] at e
    obtain ⟨n, -, rfl⟩ := e
    exact speak_kept (freeHeld_kept (setPortx_kept (kept_ite (leaveSlack_kept h_s) h_s)))
  · cases e

theorem takeCtrl_kept {p type : Nat} {m : Msg} {s : State} (h_s : Kept r₀ s) : KeptO r₀ (takeCtrl p type m s) := by
  unfold takeCtrl
  try dsimp only
  repeat' first
    | with_reducible assumption | with_reducible apply takeMsg_kept | with_reducible apply kept_ite
    | with_reducible apply keptO_ite | with_reducible apply keptO_some | with_reducible exact keptO_none

theorem peerWrite_kept {p : Nat} {m : Msg} {s : State} (h_s : Kept r₀ s) : Kept r₀ (peerWrite p m s) := by
  unfold peerWrite
  try dsimp only
  repeat' first
    | with_reducible assumption | with_reducible apply writeMem_kept | with_reducible apply takeMsg_kept
    | with_reducible apply kept_ite | refine takeMsg_kept ?_ _ ‹_› | split

theorem peerRead_kept {p : Nat} {m : Msg} {s : State} (h_s : Kept r₀ s) : Kept r₀ (peerRead p m s) := by
  unfold peerRead
  try dsimp only
  repeat' first
    | with_reducible assumption | with_reducible apply captureReach_kept | with_reducible apply touchRead_kept
    | with_reducible apply takeMsg_kept | with_reducible apply sendMsg_kept | with_reducible apply kept_ite
    | with_reducible apply keptO_ite | with_reducible apply keptO_some | with_reducible exact keptO_none
    | with_reducible apply kept_getD | refine takeMsg_kept ?_ _ ‹_› | refine sendMsg_kept ?_ _ ‹_› | split

theorem fetchLost_kept {h : Nat} {y : Transfer} {cause : Nat} {s : State} (h_s : Kept r₀ s) : Kept r₀ (fetchLost h y cause s) := by
  unfold fetchLost
  try dsimp only
  repeat' first
    | with_reducible assumption | with_reducible apply settleFrames_kept | with_reducible apply releaseTag_kept
    | with_reducible apply fetchFails_kept | with_reducible apply showStreams_kept | with_reducible apply ARun.reads_kept
    | with_reducible apply kept_ite | split | fail_if_no_progress with_reducible apply kept_lit

theorem readLost_kept {cause : Nat} {r : ReadOut} {s : State} (h_s : Kept r₀ s) : Kept r₀ (readLost cause r s) := by
  unfold readLost
  try dsimp only
  repeat' first
    | with_reducible assumption | with_reducible apply failCmd_kept | with_reducible apply fetchLost_kept
    | with_reducible apply chanHalt_kept | with_reducible apply releaseTag_kept | with_reducible apply ARun.reads_kept
    | with_reducible apply kept_ite | split | fail_if_no_progress with_reducible apply kept_lit

theorem readTimeout_kept {tag : Nat} {s : State} (h_s : Kept r₀ s) : Kept r₀ (readTimeout tag s) := by
  unfold readTimeout
  try dsimp only
  repeat' first
    | with_reducible assumption | with_reducible apply readLost_kept | with_reducible apply ARun.reads_kept | split

theorem tableIn_kept {p : Nat} {m : Msg} {s : State} (h_s : Kept r₀ s) : Kept r₀ (tableIn p m s) := by
  unfold tableIn
  try dsimp only
  repeat' first
    | with_reducible assumption | with_reducible apply setCompx_kept | with_reducible apply takeMsg_kept
    | refine takeMsg_kept ?_ _ ‹_› | split

theorem drainAdmitted_kept {o : RedOp} {s : State} {n : Nat × Nat} (h_s : Kept r₀ s) : Kept r₀ (drainAdmitted o s n) := by
  unfold drainAdmitted
  try dsimp only
  repeat' first
    | with_reducible assumption | with_reducible apply speak_kept | with_reducible apply freeHeld_kept
    | with_reducible apply kept_foldl | with_reducible apply keptP2_foldl | with_reducible apply keptP1_foldl
    | with_reducible apply keptW_foldl | with_reducible apply keptC_foldl | with_reducible apply keptA_foldl
    | with_reducible apply keptA2_foldl | (with_reducible intro _; with_reducible intros; try dsimp only)

theorem reductionAdmit_kept {s : State} (h_s : Kept r₀ s) : Kept r₀ (reductionAdmit s) := by
  unfold reductionAdmit
  try dsimp only
  repeat' first
    | with_reducible assumption | with_reducible apply rset_kept | with_reducible apply drainAdmitted_kept
    | with_reducible apply showRbq_kept | with_reducible apply kept_ite | with_reducible apply kept_foldl
    | with_reducible apply keptP2_foldl | with_reducible apply keptP1_foldl | with_reducible apply keptW_foldl
    | with_reducible apply keptC_foldl | with_reducible apply keptA_foldl | with_reducible apply keptA2_foldl
    | (with_reducible intro _; with_reducible intros; try dsimp only) | split
    | fail_if_no_progress with_reducible apply kept_lit

end Sys2Proof.Machine
end

