-- ==== Sys2Proof/Laws/KeptRelay.lean ====
section
/-! SUPPORT. Every operation of Machine/Relay.lean keeps what `Kept` names. -/

namespace Sys2Proof.Machine

open Sys2Proof

variable {r₀ : State}

theorem setRelayOp_kept {o : RelayOp} {s : State} (h_s : Kept r₀ s) : Kept r₀ (setRelayOp o s) := by
  unfold setRelayOp
  try dsimp only
  repeat' first
    | with_reducible assumption | with_reducible apply kept_ite | split | fail_if_no_progress with_reducible apply kept_lit

theorem addRelayOp_kept {o : RelayOp} {s : State} (h_s : Kept r₀ s) : Kept r₀ (addRelayOp o s) := by
  unfold addRelayOp
  try dsimp only
  repeat' first
    | with_reducible assumption | split | fail_if_no_progress with_reducible apply kept_lit

theorem dropRelayOp_kept {c : Nat} {s : State} (h_s : Kept r₀ s) : Kept r₀ (dropRelayOp c s) := by
  unfold dropRelayOp
  try dsimp only
  repeat' first
    | with_reducible assumption | split | fail_if_no_progress with_reducible apply kept_lit

theorem failRelay_kept {c cause inst : Nat} {s : State} (h_s : Kept r₀ s) : Kept r₀ (failRelay c cause inst s) := by
  unfold failRelay
  try dsimp only
  repeat' first
    | with_reducible assumption | with_reducible apply failCmd_kept | with_reducible apply dropRelayOp_kept

theorem packMsg_kept {p cls a : Nat} {m : Msg} {s : State} (h_s : Kept r₀ s) : Kept r₀ (packMsg p cls a m s).2.2 := by
  unfold packMsg
  try dsimp only
  repeat' first
    | with_reducible assumption | with_reducible apply compressRun_kept

theorem packMsg_kept_eq {p cls a : Nat} {m : Msg} {s : State} {y0 : List Msg} {y1 : Msg} {y2 : State} (he : packMsg p cls a m s = (y0, y1, y2)) (h_s : Kept r₀ s) : Kept r₀ y2 := by
  have w : Kept r₀ (packMsg p cls a m s).2.2 := packMsg_kept h_s
  rw [he] at w
  exact w

theorem sendRelay_kept {cmp : Bool} {cls a : Nat} {m : Msg} {s : State} (h : Kept r₀ s) (x : SentR)
    (e : sendRelay cmp cls a m s = some x) : Kept r₀ x.s := by
  unfold sendRelay at e
  split at e
  · cases e; exact h
  · split at e
    · cases e
    · dsimp only at e
      split at e
      · cases e
        exact kept_foldl (fun t x ht => sendOn_kept ht) (packMsg_kept (rcount_kept h))
      · cases e
        exact sendOn_kept (rcount_kept h)

theorem sendRelay_kept_eq {cmp : Bool} {cls a : Nat} {m : Msg} {s : State} {y : SentR}
    (he : sendRelay cmp cls a m s = some y) (h : Kept r₀ s) : Kept r₀ y.s := sendRelay_kept h _ he

theorem sendBatons_kept {c optag : Nat} {cmp : Bool} {cls : Nat} {may : State → ToSend → Bool} : ∀ (n0 : Nat) {n1 : State}, Kept r₀ n1 → Kept r₀ (sendBatons c optag cmp cls may n0 n1) := by
  intro n0
  induction n0 with
  | zero => intro n1 h; exact h
  | succ n ih =>
    intro n1 h
    unfold sendBatons
    try dsimp only
    repeat' first
      | with_reducible assumption | with_reducible apply failRelay_kept | with_reducible apply setRelayOp_kept
      | with_reducible apply ih | with_reducible apply kept_ite | with_reducible apply keptO_ite
      | with_reducible apply keptO_some | with_reducible exact keptO_none | with_reducible apply kept_getD
      | refine sendRelay_kept_eq ‹_› ?_ | split

theorem markerTimes_kept {m : Nat} : ∀ (n0 : Nat) {n1 : State}, Kept r₀ n1 → Kept r₀ (markerTimes m n0 n1) := by
  intro n0
  induction n0 with
  | zero => intro n1 h; exact h
  | succ n ih =>
    intro n1 h
    unfold markerTimes
    try dsimp only
    repeat' first
      | with_reducible assumption | with_reducible apply markerInc_kept | with_reducible apply ih

theorem countBaton_kept {c k b marker : Nat} {s : State} (h_s : Kept r₀ s) : Kept r₀ (countBaton c k b marker s) := by
  unfold countBaton
  try dsimp only
  repeat' first
    | with_reducible assumption | with_reducible apply rcountBy_kept | with_reducible apply markerTimes_kept
    | with_reducible apply setRelayOp_kept | split

theorem countBlock_kept {c k n marker : Nat} {s : State} (h_s : Kept r₀ s) : Kept r₀ (countBlock c k n marker s) := by
  unfold countBlock
  try dsimp only
  repeat' first
    | with_reducible assumption | with_reducible apply countBaton_kept | with_reducible apply kept_foldl
    | with_reducible apply keptP2_foldl | with_reducible apply keptP1_foldl | with_reducible apply keptW_foldl
    | with_reducible apply keptC_foldl | with_reducible apply keptA_foldl | with_reducible apply keptA2_foldl
    | (with_reducible intro _; with_reducible intros; try dsimp only)

theorem gatherStages_kept {c : Nat} {k : Coll} : ∀ (n0 : Nat) {n1 : State}, Kept r₀ n1 → Kept r₀ (gatherStages c k n0 n1) := by
  intro n0
  induction n0 with
  | zero => intro n1 h; exact h
  | succ n ih =>
    intro n1 h
    unfold gatherStages
    try dsimp only
    repeat' first
      | with_reducible assumption | with_reducible apply setRelayOp_kept | with_reducible apply ih
      | with_reducible apply kept_ite | split

theorem collectiveGo_kept {op : Op} {x : Started} {s : State} (h_s : Kept r₀ s) : Kept r₀ (collectiveGo op x s) := by
  unfold collectiveGo
  try dsimp only
  repeat' first
    | with_reducible assumption | with_reducible apply gatherStages_kept | with_reducible apply sendBatons_kept
    | with_reducible apply markDone_kept | with_reducible apply dropRelayOp_kept | with_reducible apply kept_ite | split

theorem ownBlock_kept {c r a d n mk : Nat} {s : State} (h_s : Kept r₀ s) : Kept r₀ (ownBlock c r a d n mk s) := by
  unfold ownBlock
  try dsimp only
  repeat' first
    | with_reducible assumption | with_reducible apply writeMem_kept | with_reducible apply touchRead_kept
    | with_reducible apply countBlock_kept

theorem forgetLost_kept {optag : Nat} {s : State} (h_s : Kept r₀ s) : Kept r₀ (forgetLost optag s) := by
  unfold forgetLost
  try dsimp only
  repeat' first
    | with_reducible assumption | split | fail_if_no_progress with_reducible apply kept_lit

theorem collectiveStart_kept {op : Op} {x : Started} {s : State} (h_s : Kept r₀ s) : Kept r₀ (collectiveStart op x s) := by
  unfold collectiveStart
  try dsimp only
  repeat' first
    | with_reducible assumption | with_reducible apply failCmd_kept | with_reducible apply forgetLost_kept
    | with_reducible apply captureReach_kept | with_reducible apply setProg_kept | with_reducible apply countBlock_kept
    | with_reducible apply addRelayOp_kept | with_reducible apply ownBlock_kept | with_reducible apply collectiveGo_kept
    | with_reducible apply kept_ite | split

theorem collectiveRun_kept {op : Op} {c : Nat} {s : State} (h_s : Kept r₀ s) : Kept r₀ (collectiveRun op c s) := by
  unfold collectiveRun
  try dsimp only
  repeat' first
    | with_reducible assumption | with_reducible apply collectiveGo_kept | with_reducible apply collectiveStart_kept
    | with_reducible apply kept_ite | split

theorem broadcastRun_kept {c : Nat} {s : State} (h_s : Kept r₀ s) : Kept r₀ (broadcastRun c s) := by
  unfold broadcastRun
  try dsimp only
  repeat' first
    | with_reducible assumption | with_reducible apply collectiveRun_kept

theorem allGatherRun_kept {c : Nat} {s : State} (h_s : Kept r₀ s) : Kept r₀ (allGatherRun c s) := by
  unfold allGatherRun
  try dsimp only
  repeat' first
    | with_reducible assumption | with_reducible apply collectiveRun_kept

theorem allToAllRun_kept {c : Nat} {s : State} (h_s : Kept r₀ s) : Kept r₀ (allToAllRun c s) := by
  unfold allToAllRun
  try dsimp only
  repeat' first
    | with_reducible assumption | with_reducible apply collectiveRun_kept

theorem ringGrants_kept {c : Nat} {r : Ring} {s : State} (h_s : Kept r₀ s) : Kept r₀ (ringGrants c r s) := by
  unfold ringGrants
  try dsimp only
  repeat' first
    | with_reducible assumption | with_reducible apply sendCtrl_kept | with_reducible apply setRelayOp_kept
    | with_reducible apply kept_ite | with_reducible apply kept_foldl | with_reducible apply keptP2_foldl
    | with_reducible apply keptP1_foldl | with_reducible apply keptW_foldl | with_reducible apply keptC_foldl
    | with_reducible apply keptA_foldl | with_reducible apply keptA2_foldl
    | (with_reducible intro _; with_reducible intros; try dsimp only) | split

theorem ringGo_kept {x : Started} {s : State} (h_s : Kept r₀ s) : Kept r₀ (ringGo x s) := by
  unfold ringGo
  try dsimp only
  repeat' first
    | with_reducible assumption | with_reducible apply ringGrants_kept | with_reducible apply sendBatons_kept
    | with_reducible apply markDone_kept | with_reducible apply dropRelayOp_kept | with_reducible apply kept_ite | split

theorem ringBeginSends_kept {c : Nat} {r : Ring} {s : State} (h_s : Kept r₀ s) : Kept r₀ (ringBeginSends c r s) := by
  unfold ringBeginSends
  try dsimp only
  repeat' first
    | with_reducible assumption | with_reducible apply addRelayOp_kept | with_reducible apply setProg_kept | split
    | fail_if_no_progress with_reducible apply kept_lit

theorem ringPassStart_kept {c : Nat} {x : Started} {r : Ring} {lacks : Option Nat} {s : State} (h_s : Kept r₀ s) : Kept r₀ (ringPassStart c x r lacks s) := by
  unfold ringPassStart
  try dsimp only
  repeat' first
    | with_reducible assumption | with_reducible apply failCmd_kept | with_reducible apply captureReach_kept
    | with_reducible apply ringGo_kept | with_reducible apply ringBeginSends_kept | split

theorem ringPassRun_kept {c : Nat} {s : State} (h_s : Kept r₀ s) : Kept r₀ (ringPassRun c s) := by
  unfold ringPassRun
  try dsimp only
  repeat' first
    | with_reducible assumption | with_reducible apply ringGo_kept | with_reducible apply failCmd_kept
    | with_reducible apply forgetLost_kept | with_reducible apply ringPassStart_kept | with_reducible apply kept_ite | split

theorem forwardBaton_kept {x : Started} {o : Op} {idx tag : Nat} {s : State} (h_s : Kept r₀ s) : Kept r₀ (forwardBaton x o idx tag s) := by
  unfold forwardBaton
  try dsimp only
  repeat' first
    | with_reducible assumption | with_reducible apply setRelayOp_kept | with_reducible apply kept_ite | split

theorem relayGo_kept {x : Started} {o : Op} {s : State} (h_s : Kept r₀ s) : Kept r₀ (relayGo x o s) := by
  unfold relayGo
  try dsimp only
  repeat' first
    | with_reducible assumption | with_reducible apply ringGo_kept | with_reducible apply collectiveGo_kept
    | with_reducible apply kept_ite

theorem batonIn_kept {p : Nat} {m : Msg} {s : State} (h_s : Kept r₀ s) : Kept r₀ (batonIn p m s) := by
  unfold batonIn
  try dsimp only
  repeat' first
    | with_reducible assumption | with_reducible apply writeMem_kept | with_reducible apply failRelay_kept
    | with_reducible apply relayGo_kept | with_reducible apply advanceAll_kept | with_reducible apply countBaton_kept
    | with_reducible apply forwardBaton_kept | with_reducible apply takeMsg_kept | with_reducible apply kept_ite
    | refine takeMsg_kept ?_ _ ‹_› | split

theorem grantIn_kept {p : Nat} {m : Msg} {s : State} (h_s : Kept r₀ s) : Kept r₀ (grantIn p m s) := by
  unfold grantIn
  try dsimp only
  repeat' first
    | with_reducible assumption | with_reducible apply ringGo_kept | with_reducible apply setRelayOp_kept
    | with_reducible apply takeCtrl_kept | refine takeCtrl_kept ?_ _ ‹_› | split
    | fail_if_no_progress with_reducible apply kept_lit

theorem showRelay_kept {s : State} (h_s : Kept r₀ s) : Kept r₀ (showRelay s) := by
  unfold showRelay
  try dsimp only
  repeat' first
    | with_reducible assumption | with_reducible apply rsetBits_kept

theorem setBucket_kept {k : Bucket} {s : State} (h_s : Kept r₀ s) : Kept r₀ (setBucket k s) := by
  unfold setBucket
  try dsimp only
  repeat' first
    | with_reducible assumption | with_reducible apply kept_ite | split | fail_if_no_progress with_reducible apply kept_lit

theorem needBucket_kept {b epoch : Nat} {s : State} (h_s : Kept r₀ s) : Kept r₀ (needBucket b epoch s).2 := by
  unfold needBucket
  try dsimp only
  repeat' first
    | with_reducible assumption | with_reducible apply showRelay_kept | split
    | fail_if_no_progress with_reducible apply kept_lit

theorem needBucket_kept_eq {b epoch : Nat} {s : State} {y0 : Bucket} {y1 : State} (he : needBucket b epoch s = (y0, y1)) (h_s : Kept r₀ s) : Kept r₀ y1 := by
  have w : Kept r₀ (needBucket b epoch s).2 := needBucket_kept h_s
  rw [he] at w
  exact w

theorem closeBucket_kept {b : Nat} {s : State} (h_s : Kept r₀ s) : Kept r₀ (closeBucket b s) := by
  unfold closeBucket
  try dsimp only
  repeat' first
    | with_reducible assumption | with_reducible apply showRelay_kept | split
    | fail_if_no_progress with_reducible apply kept_lit

theorem reopen_kept {b : Nat} {s : State} (h_s : Kept r₀ s) : Kept r₀ (reopen b s) := by
  unfold reopen
  try dsimp only
  repeat' first
    | with_reducible assumption | split | fail_if_no_progress with_reducible apply kept_lit

theorem dropReductions_kept {b : Nat} {s : State} (h_s : Kept r₀ s) : Kept r₀ (dropReductions b s) := by
  unfold dropReductions
  try dsimp only
  repeat' first
    | with_reducible assumption | with_reducible apply releaseOp_kept | with_reducible apply showRbq_kept
    | with_reducible apply kept_foldl | with_reducible apply keptP2_foldl | with_reducible apply keptP1_foldl
    | with_reducible apply keptW_foldl | with_reducible apply keptC_foldl | with_reducible apply keptA_foldl
    | with_reducible apply keptA2_foldl | (with_reducible intro _; with_reducible intros; try dsimp only) | split
    | fail_if_no_progress with_reducible apply kept_lit

theorem failReduce_kept {k : Bucket} {cause inst : Nat} {s : State} (h_s : Kept r₀ s) : Kept r₀ (failReduce k cause inst s) := by
  unfold failReduce
  try dsimp only
  repeat' first
    | with_reducible assumption | with_reducible apply failCmd_kept | with_reducible apply closeBucket_kept
    | with_reducible apply dropReductions_kept | split

theorem markStaged_kept {b : Nat} {m : Msg} {r : SentR} {s : State} (h_s : Kept r₀ s) : Kept r₀ (markStaged b m r s) := by
  unfold markStaged
  try dsimp only
  repeat' first
    | with_reducible assumption | with_reducible apply kept_ite | split | fail_if_no_progress with_reducible apply kept_lit

theorem sendContribs_kept : ∀ (n0 : Nat) {n1 : Nat} {n2 : State}, Kept r₀ n2 → Kept r₀ (sendContribs n0 n1 n2) := by
  intro n0
  induction n0 with
  | zero => intro n1 n2 h; exact h
  | succ n ih =>
    intro n1 n2 h
    unfold sendContribs
    try dsimp only
    repeat' first
      | with_reducible assumption | with_reducible apply failReduce_kept | with_reducible apply markStaged_kept
      | with_reducible apply setBucket_kept | with_reducible apply ih | with_reducible apply kept_ite
      | with_reducible apply keptO_ite | with_reducible apply keptO_some | with_reducible exact keptO_none
      | with_reducible apply kept_getD | refine sendRelay_kept_eq ‹_› ?_ | split

theorem flushContribs_kept {b : Nat} {s : State} (h_s : Kept r₀ s) : Kept r₀ (flushContribs b s) := by
  unfold flushContribs
  try dsimp only
  repeat' first
    | with_reducible assumption | with_reducible apply sendContribs_kept | split

theorem ownerWrite_kept {x : RD} {sc : Int} {p : Nat} {k : Bucket} {s : State} (h_s : Kept r₀ s) : Kept r₀ (ownerWrite x sc p k s).s := by
  unfold ownerWrite
  try dsimp only
  repeat' first
    | with_reducible assumption | with_reducible apply writeAll_kept | with_reducible apply writeMem_kept
    | with_reducible apply kept_ite | with_reducible apply keptW_ite

theorem ownerCheck_kept {b : Nat} {s : State} (h_s : Kept r₀ s) : Kept r₀ (ownerCheck b s) := by
  unfold ownerCheck
  try dsimp only
  repeat' first
    | with_reducible assumption | with_reducible apply failReduce_kept | with_reducible apply ownerWrite_kept
    | with_reducible apply showRelay_kept | with_reducible apply addFlags_kept | with_reducible apply setBucket_kept
    | with_reducible apply kept_ite | split | fail_if_no_progress with_reducible apply kept_lit

theorem chunkWhole_kept {b j : Nat} {vs : List Int} {bad : Bool} {s : State} (h_s : Kept r₀ s) : Kept r₀ (chunkWhole b j vs bad s) := by
  unfold chunkWhole
  try dsimp only
  repeat' first
    | with_reducible assumption | with_reducible apply ownerCheck_kept | with_reducible apply rcount_kept
    | with_reducible apply setBucket_kept | with_reducible apply flushContribs_kept | with_reducible apply kept_ite | split

theorem chunkBegin_kept {b : Nat} {s : State} {j : Nat} (h_s : Kept r₀ s) : Kept r₀ (chunkBegin b s j) := by
  unfold chunkBegin
  try dsimp only
  repeat' first
    | with_reducible assumption | with_reducible apply chunkWhole_kept | with_reducible apply failReduce_kept
    | with_reducible apply showRbq_kept | with_reducible apply kept_ite | split
    | fail_if_no_progress with_reducible apply kept_lit

theorem sendBacked_kept {b : Nat} {s : State} {i : Nat} (h_s : Kept r₀ s) : Kept r₀ (sendBacked b s i) := by
  unfold sendBacked
  try dsimp only
  repeat' first
    | with_reducible assumption | with_reducible apply rcountBy_kept | with_reducible apply setBucket_kept
    | with_reducible apply kept_ite | with_reducible apply kept_foldl | with_reducible apply keptP2_foldl
    | with_reducible apply keptP1_foldl | with_reducible apply keptW_foldl | with_reducible apply keptC_foldl
    | with_reducible apply keptA_foldl | with_reducible apply keptA2_foldl | with_reducible apply keptO_ite
    | with_reducible apply keptO_some | with_reducible exact keptO_none | with_reducible apply kept_getD | split

theorem dataPhase_kept {b : Nat} {s : State} (h_s : Kept r₀ s) : Kept r₀ (dataPhase b s) := by
  unfold dataPhase
  try dsimp only
  repeat' first
    | with_reducible assumption | with_reducible apply addFlags_kept | with_reducible apply sendBacked_kept
    | with_reducible apply ownerCheck_kept | with_reducible apply flushContribs_kept | with_reducible apply chunkBegin_kept
    | with_reducible apply kept_ite | with_reducible apply kept_foldl | with_reducible apply keptP2_foldl
    | with_reducible apply keptP1_foldl | with_reducible apply keptW_foldl | with_reducible apply keptC_foldl
    | with_reducible apply keptA_foldl | with_reducible apply keptA2_foldl | split

theorem timerStart_kept {b od ov : Nat} {m : Nat × Nat} {s : State} (h_s : Kept r₀ s) : Kept r₀ (timerStart b od ov m s) := by
  unfold timerStart
  try dsimp only
  repeat' first
    | with_reducible assumption | with_reducible apply kept_ite | split | fail_if_no_progress with_reducible apply kept_lit

theorem timerStop_kept {b : Nat} {s : State} (h_s : Kept r₀ s) : Kept r₀ (timerStop b s) := by
  unfold timerStop
  try dsimp only
  repeat' first
    | with_reducible assumption | with_reducible apply kept_ite | split | fail_if_no_progress with_reducible apply kept_lit

theorem ctrlTo_kept {type : Nat} {m : Nat × Nat} {data : Bytes} {own : State → State} {s : State} (h_own : ∀ a0, Kept r₀ a0 → Kept r₀ (own a0)) (h_s : Kept r₀ s) : Kept r₀ (ctrlTo type m data own s) := by
  unfold ctrlTo
  try dsimp only
  repeat' first
    | with_reducible assumption | with_reducible apply sendCtrl_kept | with_reducible apply h_own
    | with_reducible apply kept_ite

theorem ownerScale_kept {k : Bucket} {x : RD} {own : Rep} {s : State} (h_s : Kept r₀ s) : Kept r₀ (ownerScale k x own s) := by
  unfold ownerScale
  try dsimp only
  repeat' first
    | with_reducible assumption | with_reducible apply setBucket_kept | with_reducible apply sendCtrl_kept
    | with_reducible apply ctrlTo_kept | with_reducible apply timerStop_kept | with_reducible apply dataPhase_kept
    | with_reducible apply kept_foldl | with_reducible apply keptP2_foldl | with_reducible apply keptP1_foldl
    | with_reducible apply keptW_foldl | with_reducible apply keptC_foldl | with_reducible apply keptA_foldl
    | with_reducible apply keptA2_foldl | (with_reducible intro _; with_reducible intros; try dsimp only)

theorem tryReport_kept {b : Nat} {s : State} (h_s : Kept r₀ s) : Kept r₀ (tryReport b s) := by
  unfold tryReport
  try dsimp only
  repeat' first
    | with_reducible assumption | with_reducible apply ownerScale_kept | with_reducible apply sendCtrl_kept
    | with_reducible apply setBucket_kept | with_reducible apply kept_ite | split

theorem sourcesAbsent_kept {b : Nat} {s : State} (h_s : Kept r₀ s) : Kept r₀ (sourcesAbsent b s) := by
  unfold sourcesAbsent
  try dsimp only
  repeat' first
    | with_reducible assumption | with_reducible apply rsetBit_kept | with_reducible apply rcountBy_kept
    | with_reducible apply setBucket_kept | with_reducible apply kept_ite | split

theorem readSources_kept {b : Nat} {s : State} (h_s : Kept r₀ s) : Kept r₀ (readSources b s) := by
  unfold readSources
  try dsimp only
  repeat' first
    | with_reducible assumption | with_reducible apply failReduce_kept | with_reducible apply captureReach_kept
    | with_reducible apply setBucket_kept | with_reducible apply addFlags_kept | with_reducible apply ctrlTo_kept
    | with_reducible apply timerStart_kept | with_reducible apply kept_ite | with_reducible apply kept_foldl
    | with_reducible apply keptP2_foldl | with_reducible apply keptP1_foldl | with_reducible apply keptW_foldl
    | with_reducible apply keptC_foldl | with_reducible apply keptA_foldl | with_reducible apply keptA2_foldl
    | with_reducible apply keptO_ite | with_reducible apply keptO_some | with_reducible exact keptO_none
    | with_reducible apply kept_getD | split

theorem applyCut_kept {b : Nat} {s : State} (h_s : Kept r₀ s) : Kept r₀ (applyCut b s) := by
  unfold applyCut
  try dsimp only
  repeat' first
    | with_reducible assumption | with_reducible apply sendCtrl_kept | with_reducible apply tryReport_kept
    | with_reducible apply readSources_kept | with_reducible apply sourcesAbsent_kept | with_reducible apply kept_ite
    | with_reducible apply kept_foldl | with_reducible apply keptP2_foldl | with_reducible apply keptP1_foldl
    | with_reducible apply keptW_foldl | with_reducible apply keptC_foldl | with_reducible apply keptA_foldl
    | with_reducible apply keptA2_foldl | (with_reducible intro _; with_reducible intros; try dsimp only) | split

theorem cutBucket_kept {b epoch : Nat} {s : State} (h_s : Kept r₀ s) : Kept r₀ (cutBucket b epoch s) := by
  unfold cutBucket
  try dsimp only
  repeat' first
    | with_reducible assumption | with_reducible apply applyCut_kept | with_reducible apply setBucket_kept
    | with_reducible apply needBucket_kept | with_reducible apply kept_ite

theorem reduceDone_kept {x : Started} {r : RD} {k : Bucket} {s : State} (h_s : Kept r₀ s) : Kept r₀ (reduceDone x r k s) := by
  unfold reduceDone
  try dsimp only
  repeat' first
    | with_reducible assumption | with_reducible apply markDone_kept | with_reducible apply closeBucket_kept
    | with_reducible apply kept_ite | split

theorem reduceRun_kept {c : Nat} {s : State} (h_s : Kept r₀ s) : Kept r₀ (reduceRun c s) := by
  unfold reduceRun
  try dsimp only
  repeat' first
    | with_reducible assumption | with_reducible apply flushContribs_kept | with_reducible apply reduceDone_kept
    | with_reducible apply failCmd_kept | with_reducible apply reopen_kept | with_reducible apply setProg_kept
    | with_reducible apply setBucket_kept | with_reducible apply failReduce_kept | with_reducible apply applyCut_kept
    | with_reducible apply tryReport_kept | with_reducible apply readSources_kept | with_reducible apply needBucket_kept
    | with_reducible apply kept_ite | with_reducible apply keptO_ite | with_reducible apply keptO_some
    | with_reducible exact keptO_none | with_reducible apply kept_getD | refine needBucket_kept_eq ‹_› ?_ | split

theorem sourcesReady_kept {c : Nat} {s : State} (h_s : Kept r₀ s) : Kept r₀ (sourcesReady c s) := by
  unfold sourcesReady
  try dsimp only
  repeat' first
    | with_reducible assumption | with_reducible apply tryReport_kept | with_reducible apply readSources_kept
    | with_reducible apply kept_ite | split

theorem staleMsg_kept {s : State} (h_s : Kept r₀ s) : Kept r₀ (staleMsg s) := by
  unfold staleMsg
  try dsimp only
  repeat' first
    | with_reducible assumption | with_reducible apply snapOn_kept | with_reducible apply rsetBit_kept
    | with_reducible apply rcount_kept

theorem duplicate_kept {s : State} (h_s : Kept r₀ s) : Kept r₀ (duplicate s) := by
  unfold duplicate
  try dsimp only
  repeat' first
    | with_reducible assumption | with_reducible apply rsetBit_kept | with_reducible apply rcount_kept

theorem stageSlot_kept {up : Nat × Nat} {s : State} (h : Kept r₀ s) (x : Nat × State) (e : stageSlot up s = some x) :
    Kept r₀ x.2 := by
  unfold stageSlot at e
  simp only [Option.map_eq_some_iff] at e
  obtain ⟨i, -, rfl⟩ := e
  exact kept_lit h

theorem stageSlot_kept_eq {up : Nat × Nat} {s : State} {y0 : Nat} {y1 : State} (he : stageSlot up s = some (y0, y1))
    (h : Kept r₀ s) : Kept r₀ y1 := stageSlot_kept h _ he

theorem stageOn_kept {p : Nat} {m : Msg} {b j ci : Nat} {k : Bucket} {x : RD} {i a : Nat} {w : Wrote} (h_w : Kept r₀ w.s) : Kept r₀ (stageOn p m b j ci k x i a w) := by
  unfold stageOn
  try dsimp only
  repeat' first
    | with_reducible assumption | with_reducible apply failReduce_kept | with_reducible apply flushContribs_kept
    | with_reducible apply rcount_kept | with_reducible apply setBucket_kept | split
    | fail_if_no_progress with_reducible apply kept_lit

theorem stageChunk_kept {p : Nat} {m : Msg} {b j ci : Nat} {k : Bucket} {x : RD} {s : State} (h_s : Kept r₀ s) : Kept r₀ (stageChunk p m b j ci k x s) := by
  unfold stageChunk
  try dsimp only
  repeat' first
    | with_reducible assumption | with_reducible apply duplicate_kept | with_reducible apply rsetBit_kept
    | with_reducible apply rcount_kept | with_reducible apply stageOn_kept | with_reducible apply writeMem_kept
    | with_reducible apply takeMsg_kept | with_reducible apply kept_ite | refine takeMsg_kept ?_ _ ‹_›
    | refine stageSlot_kept_eq ‹_› ?_ | split

theorem takeBacked_kept {p : Nat} {m : Msg} {b j ci : Nat} {k : Bucket} {s : State} (h_s : Kept r₀ s) : Kept r₀ (takeBacked p m b j ci k s) := by
  unfold takeBacked
  try dsimp only
  repeat' first
    | with_reducible assumption | with_reducible apply duplicate_kept | with_reducible apply ownerCheck_kept
    | with_reducible apply rcount_kept | with_reducible apply setBucket_kept | with_reducible apply takeMsg_kept
    | with_reducible apply kept_ite | refine takeMsg_kept ?_ _ ‹_› | split

theorem reductionWhole_kept {o : RedOp} {s : State} (h_s : Kept r₀ s) : Kept r₀ (reductionWhole o s) := by
  unfold reductionWhole
  try dsimp only
  repeat' first
    | with_reducible assumption | with_reducible apply releaseOp_kept | with_reducible apply chunkWhole_kept
    | with_reducible apply kept_ite | split

theorem foldPartial_kept {p : Nat} {m : Msg} {b j : Nat} {s : State} (h_s : Kept r₀ s) : Kept r₀ (foldPartial p m b j s) := by
  unfold foldPartial
  try dsimp only
  repeat' first
    | with_reducible assumption | with_reducible apply reductionWhole_kept | with_reducible apply rcount_kept
    | with_reducible apply takeMsg_kept | with_reducible apply kept_ite | refine takeMsg_kept ?_ _ ‹_› | split
    | fail_if_no_progress with_reducible apply kept_lit

theorem contribIn_kept {p : Nat} {m : Msg} {s : State} (h_s : Kept r₀ s) : Kept r₀ (contribIn p m s) := by
  unfold contribIn
  try dsimp only
  repeat' first
    | with_reducible assumption | with_reducible apply staleMsg_kept | with_reducible apply foldPartial_kept
    | with_reducible apply duplicate_kept | with_reducible apply takeBacked_kept | with_reducible apply stageChunk_kept
    | with_reducible apply takeMsg_kept | with_reducible apply needBucket_kept | with_reducible apply kept_ite
    | refine takeMsg_kept ?_ _ ‹_› | refine needBucket_kept_eq ‹_› ?_ | split

theorem bucketCtrl_kept {p type : Nat} {m : Msg} {f : Nat → Nat → State → State} {s : State} (h_f : ∀ a0 a1 a2, Kept r₀ a2 → Kept r₀ (f a0 a1 a2)) (h_s : Kept r₀ s) : Kept r₀ (bucketCtrl p type m f s) := by
  unfold bucketCtrl
  try dsimp only
  repeat' first
    | with_reducible assumption | with_reducible apply staleMsg_kept | with_reducible apply takeCtrl_kept
    | with_reducible apply h_f | with_reducible apply kept_ite | refine takeCtrl_kept ?_ _ ‹_› | split

theorem reportIn_kept {p : Nat} {m : Msg} {s : State} (h_s : Kept r₀ s) : Kept r₀ (reportIn p m s) := by
  unfold reportIn
  try dsimp only
  repeat' first
    | with_reducible assumption | with_reducible apply bucketCtrl_kept | with_reducible apply reopen_kept
    | with_reducible apply tryReport_kept | with_reducible apply setBucket_kept | with_reducible apply needBucket_kept
    | refine needBucket_kept_eq ‹_› ?_ | (with_reducible intro _; with_reducible intros; try dsimp only)

theorem scaleIn_kept {p : Nat} {m : Msg} {s : State} (h_s : Kept r₀ s) : Kept r₀ (scaleIn p m s) := by
  unfold scaleIn
  try dsimp only
  repeat' first
    | with_reducible assumption | with_reducible apply bucketCtrl_kept | with_reducible apply setBucket_kept
    | with_reducible apply sendCtrl_kept | with_reducible apply dataPhase_kept | with_reducible apply kept_ite
    | with_reducible apply kept_foldl | with_reducible apply keptP2_foldl | with_reducible apply keptP1_foldl
    | with_reducible apply keptW_foldl | with_reducible apply keptC_foldl | with_reducible apply keptA_foldl
    | with_reducible apply keptA2_foldl | (with_reducible intro _; with_reducible intros; try dsimp only) | split

theorem startIn_kept {p : Nat} {m : Msg} {s : State} (h_s : Kept r₀ s) : Kept r₀ (startIn p m s) := by
  unfold startIn
  try dsimp only
  repeat' first
    | with_reducible assumption | with_reducible apply timerStart_kept | with_reducible apply takeCtrl_kept
    | with_reducible apply kept_ite | refine takeCtrl_kept ?_ _ ‹_› | split

theorem cutIn_kept {p : Nat} {m : Msg} {s : State} (h_s : Kept r₀ s) : Kept r₀ (cutIn p m s) := by
  unfold cutIn
  try dsimp only
  repeat' first
    | with_reducible assumption | with_reducible apply bucketCtrl_kept | with_reducible apply cutBucket_kept

theorem closedIn_kept {p : Nat} {m : Msg} {s : State} (h_s : Kept r₀ s) : Kept r₀ (closedIn p m s) := by
  unfold closedIn
  try dsimp only
  repeat' first
    | with_reducible assumption | with_reducible apply timerStop_kept | with_reducible apply takeCtrl_kept
    | with_reducible apply kept_ite | refine takeCtrl_kept ?_ _ ‹_› | split

theorem failIn_kept {p : Nat} {m : Msg} {s : State} (h_s : Kept r₀ s) : Kept r₀ (failIn p m s) := by
  unfold failIn
  try dsimp only
  repeat' first
    | with_reducible assumption | with_reducible apply bucketCtrl_kept | with_reducible apply failReduce_kept
    | with_reducible apply sendCtrl_kept | (with_reducible intro _; with_reducible intros; try dsimp only) | split

theorem deadlineExpiry_kept {b : Nat} {s : State} (h_s : Kept r₀ s) : Kept r₀ (deadlineExpiry b s) := by
  unfold deadlineExpiry
  try dsimp only
  repeat' first
    | with_reducible assumption | with_reducible apply snapOn_kept | with_reducible apply rsetBit_kept
    | with_reducible apply rcountSat_kept | with_reducible apply ctrlTo_kept | with_reducible apply cutBucket_kept | split
    | fail_if_no_progress with_reducible apply kept_lit

theorem bucketApply_kept {s : State} (h_s : Kept r₀ s) : Kept r₀ (bucketApply s) := by
  unfold bucketApply
  try dsimp only
  repeat' first
    | with_reducible assumption | with_reducible apply failReduce_kept | with_reducible apply captureReach_kept
    | with_reducible apply poke_kept | with_reducible apply markerInc_kept | with_reducible apply addFlags_kept
    | with_reducible apply markDone_kept | with_reducible apply rcount_kept | with_reducible apply closeBucket_kept
    | with_reducible apply kept_ite | split

theorem relayNoProgress_kept {c : Nat} {s : State} (h_s : Kept r₀ s) : Kept r₀ (relayNoProgress c s) := by
  unfold relayNoProgress
  try dsimp only
  repeat' first
    | with_reducible assumption | with_reducible apply failCmd_kept | with_reducible apply failReduce_kept
    | with_reducible apply failRelay_kept | with_reducible apply kept_ite | split

theorem epochFenceRun_kept {c : Nat} {s : State} (h_s : Kept r₀ s) : Kept r₀ (epochFenceRun c s) := by
  unfold epochFenceRun
  try dsimp only
  repeat' first
    | with_reducible assumption | with_reducible apply markDone_kept | with_reducible apply cutBucket_kept
    | with_reducible apply setProg_kept | with_reducible apply rset_kept | with_reducible apply kept_ite
    | with_reducible apply kept_foldl | with_reducible apply keptP2_foldl | with_reducible apply keptP1_foldl
    | with_reducible apply keptW_foldl | with_reducible apply keptC_foldl | with_reducible apply keptA_foldl
    | with_reducible apply keptA2_foldl | (with_reducible intro _; with_reducible intros; try dsimp only) | split
    | fail_if_no_progress with_reducible apply kept_lit

theorem cutAllOpen_kept {s : State} (h_s : Kept r₀ s) : Kept r₀ (cutAllOpen s) := by
  unfold cutAllOpen
  try dsimp only
  repeat' first
    | with_reducible assumption | with_reducible apply ctrlTo_kept | with_reducible apply cutBucket_kept
    | with_reducible apply kept_foldl | with_reducible apply keptP2_foldl | with_reducible apply keptP1_foldl
    | with_reducible apply keptW_foldl | with_reducible apply keptC_foldl | with_reducible apply keptA_foldl
    | with_reducible apply keptA2_foldl | (with_reducible intro _; with_reducible intros; try dsimp only)

theorem spreadHold_kept {type : Nat} {h : Nat × Nat × Nat} {s : State} (h_s : Kept r₀ s) : Kept r₀ (spreadHold type h s) := by
  unfold spreadHold
  try dsimp only
  repeat' first
    | with_reducible assumption | with_reducible apply sendCtrl_kept | with_reducible apply kept_foldl
    | with_reducible apply keptP2_foldl | with_reducible apply keptP1_foldl | with_reducible apply keptW_foldl
    | with_reducible apply keptC_foldl | with_reducible apply keptA_foldl | with_reducible apply keptA2_foldl
    | (with_reducible intro _; with_reducible intros; try dsimp only)

theorem relayHold_kept {s : State} (h_s : Kept r₀ s) : Kept r₀ (relayHold s) := by
  unfold relayHold
  try dsimp only
  repeat' first
    | with_reducible assumption | with_reducible apply spreadHold_kept | with_reducible apply showWalks_kept | split
    | fail_if_no_progress with_reducible apply kept_lit

theorem resumeRelay_kept {s : State} (h_s : Kept r₀ s) : Kept r₀ (resumeRelay s) := by
  unfold resumeRelay
  try dsimp only
  repeat' first
    | with_reducible assumption | with_reducible apply ringGo_kept | with_reducible apply flushContribs_kept
    | with_reducible apply collectiveGo_kept | with_reducible apply advanceAll_kept | with_reducible apply kept_ite
    | with_reducible apply kept_foldl | with_reducible apply keptP2_foldl | with_reducible apply keptP1_foldl
    | with_reducible apply keptW_foldl | with_reducible apply keptC_foldl | with_reducible apply keptA_foldl
    | with_reducible apply keptA2_foldl | with_reducible apply keptO_ite | with_reducible apply keptO_some
    | with_reducible exact keptO_none | with_reducible apply kept_getD
    | (with_reducible intro _; with_reducible intros; try dsimp only) | split

theorem liftHold_kept {h : Nat × Nat × Nat} {s : State} (h_s : Kept r₀ s) : Kept r₀ (liftHold h s) := by
  unfold liftHold
  try dsimp only
  repeat' first
    | with_reducible assumption | with_reducible apply spreadHold_kept | with_reducible apply resumeRelay_kept
    | with_reducible apply kept_ite | split | fail_if_no_progress with_reducible apply kept_lit

theorem relayRelease_kept {s : State} (h_s : Kept r₀ s) : Kept r₀ (relayRelease s) := by
  unfold relayRelease
  try dsimp only
  repeat' first
    | with_reducible assumption | with_reducible apply liftHold_kept | with_reducible apply kept_foldl
    | with_reducible apply keptP2_foldl | with_reducible apply keptP1_foldl | with_reducible apply keptW_foldl
    | with_reducible apply keptC_foldl | with_reducible apply keptA_foldl | with_reducible apply keptA2_foldl
    | (with_reducible intro _; with_reducible intros; try dsimp only)

theorem holdIn_kept {p : Nat} {m : Msg} {s : State} (h_s : Kept r₀ s) : Kept r₀ (holdIn p m s) := by
  unfold holdIn
  try dsimp only
  repeat' first
    | with_reducible assumption | with_reducible apply spreadHold_kept | with_reducible apply showWalks_kept
    | with_reducible apply rsetBit_kept | with_reducible apply rcountSat_kept | with_reducible apply takeCtrl_kept
    | with_reducible apply kept_ite | refine takeCtrl_kept ?_ _ ‹_› | split | fail_if_no_progress with_reducible apply kept_lit

theorem releaseIn_kept {p : Nat} {m : Msg} {s : State} (h_s : Kept r₀ s) : Kept r₀ (releaseIn p m s) := by
  unfold releaseIn
  try dsimp only
  repeat' first
    | with_reducible assumption | with_reducible apply liftHold_kept | with_reducible apply takeCtrl_kept
    | refine takeCtrl_kept ?_ _ ‹_› | split

theorem resendIn_kept {p : Nat} {m : Msg} {s : State} (h_s : Kept r₀ s) : Kept r₀ (resendIn p m s) := by
  unfold resendIn
  try dsimp only
  repeat' first
    | with_reducible assumption | with_reducible apply secondFailure_kept | with_reducible apply takeCtrl_kept
    | with_reducible apply sendMsg_kept | with_reducible apply keptO_ite | with_reducible apply keptO_some
    | with_reducible exact keptO_none | with_reducible apply kept_getD | refine takeCtrl_kept ?_ _ ‹_›
    | refine sendMsg_kept ?_ _ ‹_› | split

theorem acceptIn_kept {p : Nat} {m : Msg} {s : State} (h_s : Kept r₀ s) : Kept r₀ (acceptIn p m s) := by
  unfold acceptIn
  try dsimp only
  repeat' first
    | with_reducible assumption | with_reducible apply takeCtrl_kept | with_reducible apply kept_ite
    | refine takeCtrl_kept ?_ _ ‹_› | split | fail_if_no_progress with_reducible apply kept_lit

theorem linkFail_kept {p n : Nat} {m : Msg} {got : Bytes} {left : Nat} {s : State} (h_s : Kept r₀ s) : Kept r₀ (linkFail p n m got left s) := by
  unfold linkFail
  try dsimp only
  repeat' first
    | with_reducible assumption | with_reducible apply freeHeld_kept | with_reducible apply setCompx_kept
    | with_reducible apply failRelay_kept | with_reducible apply writeMem_kept | with_reducible apply failReduce_kept
    | with_reducible apply setBucket_kept | with_reducible apply needBucket_kept | with_reducible apply kept_ite
    | refine needBucket_kept_eq ‹_› ?_ | split | fail_if_no_progress with_reducible apply kept_lit

theorem linkPassed_kept {p : Nat} {b : Bytes} {s : State} (h_s : Kept r₀ s) : Kept r₀ (linkPassed p b s) := by
  unfold linkPassed
  try dsimp only
  repeat' first
    | with_reducible assumption | with_reducible apply setCompx_kept | with_reducible apply setPortx_kept
    | with_reducible apply sendCtrl_kept | with_reducible apply kept_ite | split

theorem linkFailed_kept {p : Nat} {q : BlockQ} {s : State} (h_s : Kept r₀ s) : Kept r₀ (linkFailed p q s) := by
  unfold linkFailed
  try dsimp only
  repeat' first
    | with_reducible assumption | with_reducible apply setCompx_kept | with_reducible apply linkFail_kept
    | with_reducible apply secondFailure_kept | with_reducible apply mismatch_kept | with_reducible apply sendCtrl_kept
    | with_reducible apply kept_ite | split

theorem loopPassed_kept {x : Started} {q : BlockQ} {b : Bytes} {s : State} (h_s : Kept r₀ s) : Kept r₀ (loopPassed x q b s) := by
  unfold loopPassed
  try dsimp only
  repeat' first
    | with_reducible assumption | with_reducible apply setCompx_kept | with_reducible apply restoreBytes_kept
    | with_reducible apply rsetBit_kept | with_reducible apply poisonImage_kept | with_reducible apply failCmd_kept
    | with_reducible apply getRestored_kept | with_reducible apply kept_ite | split

theorem loopFailed_kept {x : Started} {q : BlockQ} {s : State} (h_s : Kept r₀ s) : Kept r₀ (loopFailed x q s) := by
  unfold loopFailed
  try dsimp only
  repeat' first
    | with_reducible assumption | with_reducible apply setCompx_kept | with_reducible apply secondFailure_kept
    | with_reducible apply failCmd_kept | with_reducible apply mismatch_kept | with_reducible apply kept_ite

theorem expandFront_kept {p : Nat} {forced : Bool} {s0 : State} (h_s0 : Kept r₀ s0) : Kept r₀ (expandFront p forced s0) := by
  unfold expandFront
  try dsimp only
  repeat' first
    | with_reducible assumption | with_reducible apply setCompx_kept | with_reducible apply linkFailed_kept
    | with_reducible apply loopFailed_kept | with_reducible apply endStall_kept | with_reducible apply genStall_kept
    | with_reducible apply linkPassed_kept | with_reducible apply loopPassed_kept | with_reducible apply kept_ite | split

theorem genStallTimeout_kept {p : Nat} {s : State} (h_s : Kept r₀ s) : Kept r₀ (genStallTimeout p s) := by
  unfold genStallTimeout
  try dsimp only
  repeat' first
    | with_reducible assumption | with_reducible apply expandFront_kept | with_reducible apply kept_ite

end Sys2Proof.Machine
end

