-- ==== Sys2Proof/Laws/KeptPorts.lean ====
section
/-! SUPPORT. Every operation of Machine/Ports.lean keeps what `Kept` names. -/

namespace Sys2Proof.Machine

open Sys2Proof

variable {r₀ : State}

theorem failOne_kept {d : Nat} {s : State} (h_s : Kept r₀ s) : Kept r₀ (failOne d s) := by
  unfold failOne
  try dsimp only
  repeat' first
    | with_reducible assumption | with_reducible apply rclrBit_kept | with_reducible apply rsetBit_kept
    | with_reducible apply raiseVector_kept | with_reducible apply snapOn_kept | with_reducible apply recovering_kept
    | with_reducible apply stopAll_kept | with_reducible apply kept_ite

theorem deviceFailed_kept {d : Nat} {s : State} (h_s : Kept r₀ s) : Kept r₀ (deviceFailed d s) := by
  unfold deviceFailed
  try dsimp only
  repeat' first
    | with_reducible assumption | with_reducible apply failOne_kept | with_reducible apply kept_foldl
    | with_reducible apply keptP2_foldl | with_reducible apply keptP1_foldl | with_reducible apply keptW_foldl
    | with_reducible apply keptC_foldl | with_reducible apply keptA_foldl | with_reducible apply keptA2_foldl
    | (with_reducible intro _; with_reducible intros; try dsimp only)

theorem routeLost_kept {v q : Nat} {s : State} (h_s : Kept r₀ s) : Kept r₀ (routeLost v q s) := by
  unfold routeLost
  try dsimp only
  repeat' first
    | with_reducible assumption | with_reducible apply deviceFailed_kept | with_reducible apply kept_foldl
    | with_reducible apply keptP2_foldl | with_reducible apply keptP1_foldl | with_reducible apply keptW_foldl
    | with_reducible apply keptC_foldl | with_reducible apply keptA_foldl | with_reducible apply keptA2_foldl
    | (with_reducible intro _; with_reducible intros; try dsimp only)

theorem failTag_kept {optag : Nat} {which : RelayOp → Bool} {p : Nat} {s : State} (h_s : Kept r₀ s) : Kept r₀ (failTag optag which p s) := by
  unfold failTag
  try dsimp only
  repeat' first
    | with_reducible assumption | with_reducible apply failRelay_kept | split

theorem loseCtrl_kept {p : Nat} {m : Msg} {s : State} (h_s : Kept r₀ s) : Kept r₀ (loseCtrl p m s) := by
  unfold loseCtrl
  try dsimp only
  repeat' first
    | with_reducible assumption | with_reducible apply failTag_kept | with_reducible apply failReduce_kept
    | with_reducible apply kept_ite | split | fail_if_no_progress with_reducible apply kept_lit

theorem loseMessage_kept {p : Nat} {s : State} {m : Msg} (h_s : Kept r₀ s) : Kept r₀ (loseMessage p s m) := by
  unfold loseMessage
  try dsimp only
  repeat' first
    | with_reducible assumption | with_reducible apply failCmd_kept | with_reducible apply withdraw_kept
    | with_reducible apply chanHalt_kept | with_reducible apply failTag_kept | with_reducible apply failReduce_kept
    | with_reducible apply haltQueue_kept | with_reducible apply setQx_kept | with_reducible apply loseCtrl_kept
    | with_reducible apply kept_ite | split | fail_if_no_progress with_reducible apply kept_lit

theorem loseRead_kept {p : Nat} {s : State} {r : ReadOut} (h_s : Kept r₀ s) : Kept r₀ (loseRead p s r) := by
  unfold loseRead
  try dsimp only
  repeat' first
    | with_reducible assumption | with_reducible apply readLost_kept | with_reducible apply kept_ite

theorem loseMember_kept {p : Nat} {s : State} {b : Nat} (h_s : Kept r₀ s) : Kept r₀ (loseMember p s b) := by
  unfold loseMember
  try dsimp only
  repeat' first
    | with_reducible assumption | with_reducible apply failReduce_kept | with_reducible apply sendCtrl_kept
    | with_reducible apply tryReport_kept | with_reducible apply setBucket_kept | with_reducible apply kept_ite | split

theorem reportDown_kept {p : Nat} {s : State} (h_s : Kept r₀ s) : Kept r₀ (reportDown p s) := by
  unfold reportDown
  try dsimp only
  repeat' first
    | with_reducible assumption | with_reducible apply routeLost_kept | with_reducible apply sendOn_kept
    | with_reducible apply sendMsg_kept | with_reducible apply kept_ite | refine sendMsg_kept ?_ _ ‹_› | split

theorem portDown_kept {p : Nat} {s : State} (h_s : Kept r₀ s) : Kept r₀ (portDown p s) := by
  unfold portDown
  try dsimp only
  repeat' first
    | with_reducible assumption | with_reducible apply rsetBit_kept | with_reducible apply setPortState_kept
    | with_reducible apply setPortx_kept | with_reducible apply snapOn_kept | with_reducible apply loseMessage_kept
    | with_reducible apply loseRead_kept | with_reducible apply loseMember_kept | with_reducible apply reportDown_kept
    | with_reducible apply ARun.reads_kept | with_reducible apply kept_foldl

theorem linkTrainTimeout_kept {p : Nat} {s : State} (h_s : Kept r₀ s) : Kept r₀ (linkTrainTimeout p s) := by
  unfold linkTrainTimeout
  try dsimp only
  repeat' first
    | with_reducible assumption | with_reducible apply portDown_kept | with_reducible apply kept_ite

theorem retrainEnd_kept {p : Nat} {same : Bool} {s : State} (h_s : Kept r₀ s) : Kept r₀ (retrainEnd p same s) := by
  unfold retrainEnd
  try dsimp only
  repeat' first
    | with_reducible assumption | with_reducible apply setPortState_kept | with_reducible apply replay_kept
    | with_reducible apply speak_kept | with_reducible apply sendNotices_kept | with_reducible apply portDown_kept
    | with_reducible apply kept_ite

theorem portEnable_kept {old new : Nat} {s : State} {p : Nat} (h_s : Kept r₀ s) : Kept r₀ (portEnable old new s p) := by
  unfold portEnable
  try dsimp only
  repeat' first
    | with_reducible assumption | with_reducible apply trainPort_kept | with_reducible apply portWake_kept
    | with_reducible apply portDown_kept | with_reducible apply kept_ite

theorem lnkPortEnWrite_kept {v : Nat} {s : State} (h_s : Kept r₀ s) : Kept r₀ (lnkPortEnWrite v s) := by
  unfold lnkPortEnWrite
  try dsimp only
  repeat' first
    | with_reducible assumption | with_reducible apply countLocked_kept | with_reducible apply showLinks_kept
    | with_reducible apply portEnable_kept | with_reducible apply rset_kept | with_reducible apply kept_ite
    | with_reducible apply kept_foldl

end Sys2Proof.Machine
end

