-- ==== Sys2Proof/Laws/KeptCodec.lean ====
section
/-! SUPPORT. Every operation of Machine/Codec.lean keeps what `Kept` names. -/

namespace Sys2Proof.Machine

open Sys2Proof

variable {r₀ : State}

theorem codecError_kept {v c cause : Nat} {s : State} (h_s : Kept r₀ s) : Kept r₀ (codecError v c cause s) := by
  unfold codecError
  try dsimp only
  repeat' first
    | with_reducible assumption | with_reducible apply failCmd_kept | with_reducible apply snapOn_kept
    | with_reducible apply rsetBit_kept | with_reducible apply rcountSat_kept

theorem countBits_kept {v n : Nat} {s : State} (h_s : Kept r₀ s) : Kept r₀ (countBits v n s) := by
  unfold countBits
  try dsimp only
  repeat' first
    | with_reducible assumption | with_reducible apply rcountBy_kept | with_reducible apply setCodecx_kept

theorem setResync_kept {v : Nat} {on : Bool} {s : State} (h_s : Kept r₀ s) : Kept r₀ (setResync v on s) := by
  unfold setResync
  try dsimp only
  repeat' first
    | with_reducible assumption | with_reducible apply rsetBits_kept

theorem spoilWork_kept {x : CodecX} {s : State} (h_s : Kept r₀ s) : Kept r₀ (spoilWork x s) := by
  unfold spoilWork
  try dsimp only
  repeat' first
    | with_reducible assumption | with_reducible apply forgetRange_kept

theorem cdcOpenRun_kept {c : Nat} {s : State} (h_s : Kept r₀ s) : Kept r₀ (cdcOpenRun c s) := by
  unfold cdcOpenRun
  try dsimp only
  repeat' first
    | with_reducible assumption | with_reducible apply failCmd_kept | with_reducible apply rset_kept
    | with_reducible apply markDone_kept | with_reducible apply setCodecx_kept | with_reducible apply kept_ite | split

theorem cdcCloseRun_kept {c : Nat} {s : State} (h_s : Kept r₀ s) : Kept r₀ (cdcCloseRun c s) := by
  unfold cdcCloseRun
  try dsimp only
  repeat' first
    | with_reducible assumption | with_reducible apply failCmd_kept | with_reducible apply markDone_kept
    | with_reducible apply rset_kept | with_reducible apply setCodecx_kept | with_reducible apply kept_ite | split

theorem cdcFlushRun_kept {c : Nat} {s : State} (h_s : Kept r₀ s) : Kept r₀ (cdcFlushRun c s) := by
  unfold cdcFlushRun
  try dsimp only
  repeat' first
    | with_reducible assumption | with_reducible apply failCmd_kept | with_reducible apply markDone_kept
    | with_reducible apply setResync_kept | with_reducible apply setCodecx_kept | with_reducible apply setProg_kept
    | with_reducible apply kept_ite | split

theorem cdcDecodeRun_kept {c : Nat} {s : State} (h_s : Kept r₀ s) : Kept r₀ (cdcDecodeRun c s) := by
  unfold cdcDecodeRun
  try dsimp only
  repeat' first
    | with_reducible assumption | with_reducible apply failCmd_kept | with_reducible apply captureReach_kept
    | with_reducible apply codecError_kept | with_reducible apply spoilWork_kept | with_reducible apply countBits_kept
    | with_reducible apply setResync_kept | with_reducible apply setCodecx_kept | with_reducible apply markDone_kept
    | with_reducible apply setProg_kept | with_reducible apply kept_ite | split

theorem cdcEncodeRun_kept {c : Nat} {s : State} (h_s : Kept r₀ s) : Kept r₀ (cdcEncodeRun c s) := by
  unfold cdcEncodeRun
  try dsimp only
  repeat' first
    | with_reducible assumption | with_reducible apply failCmd_kept | with_reducible apply captureReach_kept
    | with_reducible apply codecError_kept | with_reducible apply spoilWork_kept | with_reducible apply rsetBit_kept
    | with_reducible apply rcountSat_kept | with_reducible apply setProg_kept | with_reducible apply countBits_kept
    | with_reducible apply setCodecx_kept | with_reducible apply kept_ite | with_reducible apply kept_foldl
    | with_reducible apply keptP2_foldl | with_reducible apply keptP1_foldl | with_reducible apply keptW_foldl
    | with_reducible apply keptC_foldl | with_reducible apply keptA_foldl | with_reducible apply keptA2_foldl | split

theorem writePatch_kept {k : CU} {st : Bytes} {p w h bx bY r : Nat} {s : State} (h_s : Kept r₀ s) : Kept r₀ (writePatch k st p w h bx bY r s).s := by
  unfold writePatch
  try dsimp only
  repeat' first
    | with_reducible assumption | with_reducible apply Stored.write_kept

theorem writeSteps_kept {l : List (State → Wrote)} (hl : ∀ f ∈ l, ∀ t, Kept r₀ t → Kept r₀ (f t).s) :
    ∀ {s : State}, Kept r₀ s → Kept r₀ (writeSteps l s).s := by
  induction l with
  | nil => intro s h; exact h
  | cons f l ih =>
    intro s h
    have hf := hl f (by simp) s h
    unfold writeSteps
    dsimp only
    split
    · exact hf
    · exact ih (fun g hg => hl g (by simp [hg])) hf

theorem writeDecoded_kept {k : CU} {n : Nat} {o : CodecOut} {s : State} (h_s : Kept r₀ s) :
    Kept r₀ (writeDecoded k n o s).s := by
  unfold writeDecoded
  dsimp only
  refine writeSteps_kept ?_ h_s
  intro f hf t ht
  simp only [List.mem_append, List.mem_singleton, List.mem_ite_nil_left, List.mem_ite_nil_right, List.mem_map] at hf
  rcases hf with (((⟨-, r, -, rfl⟩ | rfl) | ⟨-, rfl⟩) | ⟨-, rfl⟩) | ⟨-, rfl⟩
  · exact writePatch_kept ht
  · exact writeMem_kept ht
  · exact writeMem_kept ht
  · exact writeMem_kept ht
  · exact writeMem_kept ht

theorem writeEncoded_kept {v : Nat} {k : CU} {n : Nat} {o : CodecOut} {s : State} (h_s : Kept r₀ s) :
    Kept r₀ (writeEncoded v k n o s).s := by
  unfold writeEncoded
  extract_lets nx slot len au header recs
  refine writeSteps_kept ?_ h_s
  rintro f hf t ht
  rcases List.mem_cons.1 hf with rfl | hf
  · exact writeMem_kept ht
  · rcases List.mem_singleton.1 hf with rfl
    exact writeMem_kept ht

theorem codecOutput_kept {v : Nat} {s : State} (h_s : Kept r₀ s) : Kept r₀ (codecOutput v s) := by
  unfold codecOutput
  try dsimp only
  repeat' first
    | with_reducible assumption | with_reducible apply rsetBit_kept | with_reducible apply rclrBit_kept
    | with_reducible apply writeEncoded_kept | with_reducible apply writeDecoded_kept | with_reducible apply addFlags_kept
    | with_reducible apply failCmd_kept | with_reducible apply setCodecx_kept | with_reducible apply rcount_kept
    | with_reducible apply markerInc_kept | with_reducible apply markDone_kept | with_reducible apply kept_ite | split

end Sys2Proof.Machine
end

