-- ==== Sys2Proof/Laws/KeptRings.lean ====
section
/-! SUPPORT. Every operation of Machine/Rings.lean keeps what `Kept` names. -/

namespace Sys2Proof.Machine

open Sys2Proof

variable {r₀ : State}

theorem queueDisable_kept {q : Nat} {s : State} (h_s : Kept r₀ s) : Kept r₀ (queueDisable q s) := by
  unfold queueDisable
  try dsimp only
  repeat' first
    | with_reducible assumption | with_reducible apply writeRecord_kept | with_reducible apply settleQueue_kept
    | with_reducible apply setQState_kept | with_reducible apply rset_kept | with_reducible apply rclrBit_kept
    | with_reducible apply setQx_kept | with_reducible apply kept_ite

theorem queueEnable_kept {q : Nat} {s : State} (h_s : Kept r₀ s) : Kept r₀ (queueEnable q s) := by
  unfold queueEnable
  try dsimp only
  repeat' first
    | with_reducible assumption | with_reducible apply misuse_kept | with_reducible apply setQState_kept
    | with_reducible apply rsetBits_kept | with_reducible apply rset_kept | with_reducible apply setQx_kept
    | with_reducible apply kept_ite

theorem abortChan_kept {n : Nat} {s : State} (h_s : Kept r₀ s) : Kept r₀ (abortChan n s) := by
  unfold abortChan
  try dsimp only
  repeat' first
    | with_reducible assumption | with_reducible apply chanSettle_kept | with_reducible apply rsetBits_kept

theorem abortChannels_kept {q : Nat} {s : State} (h_s : Kept r₀ s) : Kept r₀ (abortChannels q s) := by
  unfold abortChannels
  try dsimp only
  repeat' first
    | with_reducible assumption | with_reducible apply abortChan_kept | with_reducible apply kept_ite
    | with_reducible apply kept_foldl | with_reducible apply keptP2_foldl | with_reducible apply keptP1_foldl
    | with_reducible apply keptW_foldl | with_reducible apply keptC_foldl | with_reducible apply keptA_foldl
    | with_reducible apply keptA2_foldl | (with_reducible intro _; with_reducible intros; try dsimp only) | split

theorem flushQueue_kept {q : Nat} {s : State} (h_s : Kept r₀ s) : Kept r₀ (flushQueue q s) := by
  unfold flushQueue
  try dsimp only
  repeat' first
    | with_reducible assumption | with_reducible apply misuse_kept | with_reducible apply abortChannels_kept
    | with_reducible apply flushNow_kept | with_reducible apply settleQueue_kept | with_reducible apply setQx_kept
    | with_reducible apply kept_ite

end Sys2Proof.Machine
end

