-- ==== Sys2Proof/Laws/KeptSnap.lean ====
section
/-! SUPPORT. Every operation of Machine/Snap.lean keeps what `Kept` names. -/

namespace Sys2Proof.Machine

open Sys2Proof

variable {r₀ : State}

theorem latchBank_kept {b : Nat} {t : Trig} {s : State} (h_s : Kept r₀ s) : Kept r₀ (latchBank b t s) := by
  unfold latchBank
  try dsimp only
  repeat' first
    | with_reducible assumption | with_reducible apply rset_kept | with_reducible apply rsetBit_kept
    | with_reducible apply showWalks_kept | with_reducible apply raiseVector_kept | with_reducible apply kept_ite | split
    | fail_if_no_progress with_reducible apply kept_lit

theorem settleSnaps_kept {s : State} (h_s : Kept r₀ s) : Kept r₀ (settleSnaps s) := by
  unfold settleSnaps
  try dsimp only
  repeat' first
    | with_reducible assumption | with_reducible apply markDone_kept | with_reducible apply kept_ite
    | with_reducible apply kept_foldl | with_reducible apply keptP2_foldl | with_reducible apply keptP1_foldl
    | with_reducible apply keptW_foldl | with_reducible apply keptC_foldl | with_reducible apply keptA_foldl
    | with_reducible apply keptA2_foldl | (with_reducible intro _; with_reducible intros; try dsimp only)

theorem triggerIssue_kept {s : State} (h_s : Kept r₀ s) : Kept r₀ (triggerIssue s) := by
  unfold triggerIssue
  try dsimp only
  repeat' first
    | with_reducible assumption | with_reducible apply settleSnaps_kept | with_reducible apply dropTrigger_kept
    | with_reducible apply announceTrigger_kept | with_reducible apply latchBank_kept | split
    | fail_if_no_progress with_reducible apply kept_lit

theorem snapRun_kept {c : Nat} {s : State} (h_s : Kept r₀ s) : Kept r₀ (snapRun c s) := by
  unfold snapRun
  try dsimp only
  repeat' first
    | with_reducible assumption | with_reducible apply settleSnaps_kept | with_reducible apply queueTrigger_kept
    | with_reducible apply setProg_kept | with_reducible apply kept_ite | split

theorem snpTrigWrite_kept {v : Nat} {s : State} (h_s : Kept r₀ s) : Kept r₀ (snpTrigWrite v s) := by
  unfold snpTrigWrite
  try dsimp only
  repeat' first
    | with_reducible assumption | with_reducible apply queueTrigger_kept | with_reducible apply misuse_kept
    | with_reducible apply kept_ite

theorem snapInEdge_kept {ns : Nat} {s : State} (h_s : Kept r₀ s) : Kept r₀ (snapInEdge ns s) := by
  unfold snapInEdge
  try dsimp only
  repeat' first
    | with_reducible assumption | with_reducible apply queueTrigger_kept | with_reducible apply kept_ite | split
    | fail_if_no_progress with_reducible apply kept_lit

theorem triggerIn_kept {p : Nat} {m : Msg} {s : State} (h_s : Kept r₀ s) : Kept r₀ (triggerIn p m s) := by
  unfold triggerIn
  try dsimp only
  repeat' first
    | with_reducible assumption | with_reducible apply rcount_kept | with_reducible apply queueTrigger_kept
    | with_reducible apply takeCtrl_kept | with_reducible apply kept_ite | refine takeCtrl_kept ?_ _ ‹_› | split

theorem releaseBank_kept {b : Nat} {s : State} (h_s : Kept r₀ s) : Kept r₀ (releaseBank b s) := by
  unfold releaseBank
  try dsimp only
  repeat' first
    | with_reducible assumption | with_reducible apply rset_kept | with_reducible apply rclrBit_kept
    | with_reducible apply resumeRelay_kept | with_reducible apply kept_ite | split
    | fail_if_no_progress with_reducible apply kept_lit

theorem bankRelease_kept {v : Nat} {s : State} (h_s : Kept r₀ s) : Kept r₀ (bankRelease v s) := by
  unfold bankRelease
  try dsimp only
  repeat' first
    | with_reducible assumption | with_reducible apply releaseBank_kept | with_reducible apply kept_foldl
    | with_reducible apply keptP2_foldl | with_reducible apply keptP1_foldl | with_reducible apply keptW_foldl
    | with_reducible apply keptC_foldl | with_reducible apply keptA_foldl | with_reducible apply keptA2_foldl
    | (with_reducible intro _; with_reducible intros; try dsimp only)

theorem pulseEnd_kept {s : State} (h_s : Kept r₀ s) : Kept r₀ (pulseEnd s) := by
  unfold pulseEnd
  try dsimp only
  repeat' first
    | with_reducible assumption | split | fail_if_no_progress with_reducible apply kept_lit

end Sys2Proof.Machine
end

