-- ==== Sys2Proof/Laws/KeptLayout.lean ====
section
/-! SUPPORT. Every operation of Machine/Layout.lean keeps what `Kept` names. -/

namespace Sys2Proof.Machine

open Sys2Proof

variable {r₀ : State}

theorem sendPart_kept {d un i a : Nat} {s : State} (h_s : Kept r₀ s) : Kept r₀ (sendPart d un i a s) := by
  unfold sendPart
  try dsimp only
  repeat' first
    | with_reducible assumption | with_reducible apply sendMsg_kept | with_reducible apply keptO_ite
    | with_reducible apply keptO_some | with_reducible exact keptO_none | with_reducible apply kept_getD

theorem sendUnit_kept {d : Nat} {s : State} {un : Nat} (h_s : Kept r₀ s) : Kept r₀ (sendUnit d s un) := by
  unfold sendUnit
  try dsimp only
  repeat' first
    | with_reducible assumption | with_reducible apply sendPart_kept | with_reducible apply kept_foldl
    | with_reducible apply keptP2_foldl | with_reducible apply keptP1_foldl | with_reducible apply keptW_foldl
    | with_reducible apply keptC_foldl | with_reducible apply keptA_foldl | with_reducible apply keptA2_foldl
    | (with_reducible intro _; with_reducible intros; try dsimp only)

theorem moveUnits_kept {old new : List (Nat × Nat × Nat)} {s : State} (h_s : Kept r₀ s) : Kept r₀ (moveUnits old new s) := by
  unfold moveUnits
  try dsimp only
  repeat' first
    | with_reducible assumption | with_reducible apply sendUnit_kept | with_reducible apply kept_ite
    | with_reducible apply kept_foldl | with_reducible apply keptP2_foldl | with_reducible apply keptP1_foldl
    | with_reducible apply keptW_foldl | with_reducible apply keptC_foldl | with_reducible apply keptA_foldl
    | with_reducible apply keptA2_foldl | (with_reducible intro _; with_reducible intros; try dsimp only) | split

end Sys2Proof.Machine
end

