-- ==== Sys2Proof/Laws/KeptKeeper.lean ====
section
/-! SUPPORT. Every operation of Machine/Keeper.lean keeps what `Kept` names. -/

namespace Sys2Proof.Machine

open Sys2Proof

variable {r₀ : State}

theorem ackOldest_kept {s : State} (h_s : Kept r₀ s) : Kept r₀ (ackOldest s) := by
  unfold ackOldest
  try dsimp only
  repeat' first
    | with_reducible assumption | with_reducible apply showMbuf_kept | split | fail_if_no_progress with_reducible apply kept_lit
    | fail_if_no_progress with_reducible refine kept_lit_naust rfl rfl rfl rfl ?_

theorem acknowledge_kept {seq boot : Nat} {s : State} (h_s : Kept r₀ s) : Kept r₀ (acknowledge seq boot s) := by
  unfold acknowledge
  try dsimp only
  repeat' first
    | with_reducible assumption | with_reducible apply misuse_kept | with_reducible apply ackOldest_kept
    | with_reducible apply kept_ite | split

theorem collect_kept {b : Bytes} {bad : Bool} {s : State} (h_s : Kept r₀ s) : Kept r₀ (collect b bad s) := by
  unfold collect
  try dsimp only
  repeat' first
    | with_reducible assumption | with_reducible apply writeMem_kept | with_reducible apply rset_kept
    | with_reducible apply raiseVector_kept | with_reducible apply rsetBit_kept | with_reducible apply kept_ite

theorem collectOwn_kept : ∀ (n0 : Nat) {n1 : State}, Kept r₀ n1 → Kept r₀ (collectOwn n0 n1) := by
  intro n0
  induction n0 with
  | zero => intro n1 h; exact h
  | succ n ih =>
    intro n1 h
    unfold collectOwn
    try dsimp only
    repeat' first
      | with_reducible assumption | with_reducible apply ackOldest_kept | with_reducible apply collect_kept
      | with_reducible apply ih | with_reducible apply kept_ite | split

theorem offerRecord_kept {s : State} (h_s : Kept r₀ s) : Kept r₀ (offerRecord s) := by
  unfold offerRecord
  try dsimp only
  repeat' first
    | with_reducible assumption | with_reducible apply sendCtrl_kept | with_reducible apply kept_ite | split

theorem meterIn_kept {p : Nat} {m : Msg} {s : State} (h_s : Kept r₀ s) : Kept r₀ (meterIn p m s) := by
  unfold meterIn
  try dsimp only
  repeat' first
    | with_reducible assumption | with_reducible apply sendCtrl_kept | with_reducible apply collect_kept
    | with_reducible apply takeCtrl_kept | with_reducible apply kept_ite | refine takeCtrl_kept ?_ _ ‹_› | split

theorem meterAckIn_kept {p : Nat} {m : Msg} {s : State} (h_s : Kept r₀ s) : Kept r₀ (meterAckIn p m s) := by
  unfold meterAckIn
  try dsimp only
  repeat' first
    | with_reducible assumption | with_reducible apply offerRecord_kept | with_reducible apply acknowledge_kept
    | with_reducible apply takeCtrl_kept | refine takeCtrl_kept ?_ _ ‹_› | split

theorem formationDone_kept {s : State} (h_s : Kept r₀ s) : Kept r₀ (formationDone s) := by
  unfold formationDone
  try dsimp only
  repeat' first
    | with_reducible assumption | with_reducible apply raiseVector_kept | with_reducible apply rsetBit_kept
    | with_reducible apply kept_ite | split | fail_if_no_progress with_reducible apply kept_lit

theorem formationEnd_kept {s : State} (h_s : Kept r₀ s) : Kept r₀ (formationEnd s) := by
  unfold formationEnd
  try dsimp only
  repeat' first
    | with_reducible assumption | with_reducible apply formationDone_kept | with_reducible apply kept_ite

theorem joinIn_kept {p : Nat} {m : Msg} {s : State} (h_s : Kept r₀ s) : Kept r₀ (joinIn p m s) := by
  unfold joinIn
  try dsimp only
  repeat' first
    | with_reducible assumption | with_reducible apply sendCtrl_kept | with_reducible apply rset_kept
    | with_reducible apply takeCtrl_kept | with_reducible apply kept_ite | refine takeCtrl_kept ?_ _ ‹_› | split
    | fail_if_no_progress with_reducible apply kept_lit

theorem joinedIn_kept {p : Nat} {m : Msg} {s : State} (h_s : Kept r₀ s) : Kept r₀ (joinedIn p m s) := by
  unfold joinedIn
  try dsimp only
  repeat' first
    | with_reducible assumption | with_reducible apply rsetBit_kept | with_reducible apply rclrBit_kept
    | with_reducible apply sendJoin_kept | with_reducible apply formationDone_kept | with_reducible apply takeCtrl_kept
    | with_reducible apply kept_ite | with_reducible apply kept_foldl | with_reducible apply keptP2_foldl
    | with_reducible apply keptP1_foldl | with_reducible apply keptW_foldl | with_reducible apply keptC_foldl
    | with_reducible apply keptA_foldl | with_reducible apply keptA2_foldl | refine takeCtrl_kept ?_ _ ‹_›
    | (with_reducible intro _; with_reducible intros; try dsimp only) | split
    | fail_if_no_progress with_reducible apply kept_lit

theorem refuseIn_kept {p : Nat} {m : Msg} {s : State} (h_s : Kept r₀ s) : Kept r₀ (refuseIn p m s) := by
  unfold refuseIn
  try dsimp only
  repeat' first
    | with_reducible assumption | with_reducible apply rsetBit_kept | with_reducible apply takeCtrl_kept
    | with_reducible apply kept_ite | refine takeCtrl_kept ?_ _ ‹_› | split

theorem showLead_kept {s : State} (h_s : Kept r₀ s) : Kept r₀ (showLead s) := by
  unfold showLead
  try dsimp only
  repeat' first
    | with_reducible assumption | with_reducible apply rsetBits_kept

theorem mjoinIn_kept {p : Nat} {m : Msg} {s : State} (h_s : Kept r₀ s) : Kept r₀ (mjoinIn p m s) := by
  unfold mjoinIn
  try dsimp only
  repeat' first
    | with_reducible assumption | with_reducible apply sendCtrl_kept | with_reducible apply showLead_kept
    | with_reducible apply rsetBit_kept | with_reducible apply takeCtrl_kept | with_reducible apply kept_ite
    | refine takeCtrl_kept ?_ _ ‹_› | split

theorem beatDevice_kept {s : State} {d : Nat} (h_s : Kept r₀ s) : Kept r₀ (beatDevice s d) := by
  unfold beatDevice
  try dsimp only
  repeat' first
    | with_reducible assumption | with_reducible apply deviceFailed_kept | with_reducible apply sendCtrl_kept
    | with_reducible apply kept_ite | split | fail_if_no_progress with_reducible apply kept_lit

theorem heartbeat_kept {s : State} (h_s : Kept r₀ s) : Kept r₀ (heartbeat s) := by
  unfold heartbeat
  try dsimp only
  repeat' first
    | with_reducible assumption | with_reducible apply beatDevice_kept | with_reducible apply sendJoin_kept
    | with_reducible apply kept_ite | with_reducible apply kept_foldl | with_reducible apply keptP2_foldl
    | with_reducible apply keptP1_foldl | with_reducible apply keptW_foldl | with_reducible apply keptC_foldl
    | with_reducible apply keptA_foldl | with_reducible apply keptA2_foldl
    | (with_reducible intro _; with_reducible intros; try dsimp only)

theorem pingIn_kept {p : Nat} {m : Msg} {s : State} (h_s : Kept r₀ s) : Kept r₀ (pingIn p m s) := by
  unfold pingIn
  try dsimp only
  repeat' first
    | with_reducible assumption | with_reducible apply sendCtrl_kept | with_reducible apply takeCtrl_kept
    | with_reducible apply kept_ite | refine takeCtrl_kept ?_ _ ‹_› | split

theorem pongIn_kept {p : Nat} {m : Msg} {s : State} (h_s : Kept r₀ s) : Kept r₀ (pongIn p m s) := by
  unfold pongIn
  try dsimp only
  repeat' first
    | with_reducible assumption | with_reducible apply takeCtrl_kept | refine takeCtrl_kept ?_ _ ‹_› | split
    | fail_if_no_progress with_reducible apply kept_lit

theorem loseJob_kept {s : State} (h_s : Kept r₀ s) : Kept r₀ (loseJob s) := by
  unfold loseJob
  try dsimp only
  repeat' first
    | with_reducible assumption | with_reducible apply rsetBits_kept | with_reducible apply closeInterval_kept
    | with_reducible apply stopAll_kept | with_reducible apply kept_ite

theorem takeOver_kept {old : Nat} {s : State} (h_s : Kept r₀ s) : Kept r₀ (takeOver old s) := by
  unfold takeOver
  try dsimp only
  repeat' first
    | with_reducible assumption | with_reducible apply clearConfig_kept | with_reducible apply rset_kept
    | with_reducible apply deviceFailed_kept | with_reducible apply rsetBit_kept | split
    | fail_if_no_progress with_reducible apply kept_lit

theorem managerSilence_kept {s : State} (h_s : Kept r₀ s) : Kept r₀ (managerSilence s) := by
  unfold managerSilence
  try dsimp only
  repeat' first
    | with_reducible assumption | with_reducible apply queueDisable_kept | with_reducible apply takeOver_kept
    | with_reducible apply loseJob_kept | with_reducible apply kept_ite | with_reducible apply kept_foldl
    | with_reducible apply keptP2_foldl | with_reducible apply keptP1_foldl | with_reducible apply keptW_foldl
    | with_reducible apply keptC_foldl | with_reducible apply keptA_foldl | with_reducible apply keptA2_foldl
    | (with_reducible intro _; with_reducible intros; try dsimp only) | split
    | fail_if_no_progress with_reducible apply kept_lit

theorem downIn_kept {p : Nat} {m : Msg} {s : State} (h_s : Kept r₀ s) : Kept r₀ (downIn p m s) := by
  unfold downIn
  try dsimp only
  repeat' first
    | with_reducible assumption | with_reducible apply deviceFailed_kept | with_reducible apply routeLost_kept
    | with_reducible apply takeCtrl_kept | with_reducible apply kept_ite | refine takeCtrl_kept ?_ _ ‹_› | split

theorem fatalIn_kept {p : Nat} {m : Msg} {s : State} (h_s : Kept r₀ s) : Kept r₀ (fatalIn p m s) := by
  unfold fatalIn
  try dsimp only
  repeat' first
    | with_reducible assumption | with_reducible apply recovering_kept | with_reducible apply stopAll_kept
    | with_reducible apply raiseVector_kept | with_reducible apply loseJob_kept | with_reducible apply takeCtrl_kept
    | with_reducible apply kept_ite | refine takeCtrl_kept ?_ _ ‹_› | split

theorem handedCmd_kept {h : Bytes} {s : State} (h_s : Kept r₀ s) : Kept r₀ (handedCmd h s).2 := by
  unfold handedCmd
  try dsimp only
  repeat' first
    | with_reducible assumption | split | fail_if_no_progress with_reducible apply kept_lit

theorem handedCmd_kept_eq {h : Bytes} {s : State} {y0 : Started} {y1 : State} (he : handedCmd h s = (y0, y1)) (h_s : Kept r₀ s) : Kept r₀ y1 := by
  have w : Kept r₀ (handedCmd h s).2 := handedCmd_kept h_s
  rw [he] at w
  exact w

theorem dropHanded_kept {c : Nat} {s : State} (h_s : Kept r₀ s) : Kept r₀ (dropHanded c s) := by
  unfold dropHanded
  try dsimp only
  repeat' first
    | with_reducible assumption | split | fail_if_no_progress with_reducible apply kept_lit

theorem noteLead_kept {s : State} (h_s : Kept r₀ s) : Kept r₀ (noteLead s) := by
  unfold noteLead
  try dsimp only
  repeat' first
    | with_reducible assumption | with_reducible apply kept_ite | split | fail_if_no_progress with_reducible apply kept_lit

theorem jobRun_kept {o : Op} {j : JobCmd} {run : Started → State → State} {s : State} (h_run : ∀ a0 a1, Kept r₀ a1 → Kept r₀ (run a0 a1)) (h_s : Kept r₀ s) : Kept r₀ (jobRun o j run s) := by
  unfold jobRun
  try dsimp only
  repeat' first
    | with_reducible assumption | with_reducible apply noteLead_kept | with_reducible apply dropHanded_kept
    | with_reducible apply handedCmd_kept | with_reducible apply h_run | with_reducible apply kept_ite
    | refine handedCmd_kept_eq ‹_› ?_ | split

theorem setJob_kept {v : Nat} {s : State} (h_s : Kept r₀ s) : Kept r₀ (setJob v s) := by
  unfold setJob
  try dsimp only
  repeat' first
    | with_reducible assumption | with_reducible apply rsetBits_kept

theorem rejoin_kept {s : State} (h_s : Kept r₀ s) : Kept r₀ (rejoin s) := by
  unfold rejoin
  try dsimp only
  repeat' first
    | with_reducible assumption | with_reducible apply trainPort_kept | with_reducible apply sendJoin_kept
    | with_reducible apply kept_ite | with_reducible apply kept_foldl | with_reducible apply keptP2_foldl
    | with_reducible apply keptP1_foldl | with_reducible apply keptW_foldl | with_reducible apply keptC_foldl
    | with_reducible apply keptA_foldl | with_reducible apply keptA2_foldl
    | (with_reducible intro _; with_reducible intros; try dsimp only) | split

theorem changeJob_kept {cause tag job : Nat} {s : State} (h_s : Kept r₀ s) : Kept r₀ (changeJob cause tag job s) := by
  unfold changeJob
  try dsimp only
  repeat' first
    | with_reducible assumption | with_reducible apply setJob_kept | with_reducible apply rset_kept
    | with_reducible apply closeInterval_kept

theorem layFails_kept {b : Bytes} {s : State} (h_s : Kept r₀ s) : Kept r₀ (layFails b s).2 := by
  unfold layFails
  try dsimp only
  repeat' first
    | with_reducible assumption | with_reducible apply captureReach_kept | with_reducible apply kept_ite | split

theorem layFails_kept_eq {b : Bytes} {s : State} {y0 : Option Nat} {y1 : State} (he : layFails b s = (y0, y1)) (h_s : Kept r₀ s) : Kept r₀ y1 := by
  have w : Kept r₀ (layFails b s).2 := layFails_kept h_s
  rw [he] at w
  exact w

theorem putLayout_kept {b : Bytes} {runs : List (Nat × Nat × Nat)} {s : State} (h_s : Kept r₀ s) : Kept r₀ (putLayout b runs s) := by
  unfold putLayout
  try dsimp only
  repeat' first
    | with_reducible assumption | with_reducible apply poke_kept | with_reducible apply kept_ite | split
    | fail_if_no_progress with_reducible apply kept_lit

theorem enableRings_kept {s : State} (h_s : Kept r₀ s) : Kept r₀ (enableRings s) := by
  unfold enableRings
  try dsimp only
  repeat' first
    | with_reducible assumption | with_reducible apply queueEnable_kept | with_reducible apply rset_kept
    | with_reducible apply kept_ite | with_reducible apply kept_foldl | with_reducible apply keptP2_foldl
    | with_reducible apply keptP1_foldl | with_reducible apply keptW_foldl | with_reducible apply keptC_foldl
    | with_reducible apply keptA_foldl | with_reducible apply keptA2_foldl
    | (with_reducible intro _; with_reducible intros; try dsimp only)

theorem disableRings_kept {s : State} (h_s : Kept r₀ s) : Kept r₀ (disableRings s) := by
  unfold disableRings
  try dsimp only
  repeat' first
    | with_reducible assumption | with_reducible apply queueDisable_kept | with_reducible apply kept_ite
    | with_reducible apply kept_foldl | with_reducible apply keptP2_foldl | with_reducible apply keptP1_foldl
    | with_reducible apply keptW_foldl | with_reducible apply keptC_foldl | with_reducible apply keptA_foldl
    | with_reducible apply keptA2_foldl | (with_reducible intro _; with_reducible intros; try dsimp only)

theorem jobStartRun_kept {x : Started} {s : State} (h_s : Kept r₀ s) : Kept r₀ (jobStartRun x s) := by
  unfold jobStartRun
  try dsimp only
  repeat' first
    | with_reducible assumption | with_reducible apply failCmd_kept | with_reducible apply markDone_kept
    | with_reducible apply enableRings_kept | with_reducible apply changeJob_kept | with_reducible apply putLayout_kept
    | with_reducible apply layFails_kept | refine layFails_kept_eq ‹_› ?_ | split

theorem jobReleaseRun_kept {x : Started} {s : State} (h_s : Kept r₀ s) : Kept r₀ (jobReleaseRun x s) := by
  unfold jobReleaseRun
  try dsimp only
  repeat' first
    | with_reducible assumption | with_reducible apply markDone_kept | with_reducible apply rejoin_kept
    | with_reducible apply changeJob_kept | with_reducible apply disableRings_kept

theorem jobEndRun_kept {x : Started} {s : State} (h_s : Kept r₀ s) : Kept r₀ (jobEndRun x s) := by
  unfold jobEndRun
  try dsimp only
  repeat' first
    | with_reducible assumption | with_reducible apply disableRings_kept | with_reducible apply markDone_kept
    | with_reducible apply rejoin_kept | with_reducible apply changeJob_kept | with_reducible apply failCmd_kept
    | with_reducible apply kept_ite

theorem stopAtYield_kept {s : State} {q : Nat} (h_s : Kept r₀ s) : Kept r₀ (stopAtYield s q) := by
  unfold stopAtYield
  try dsimp only
  repeat' first
    | with_reducible assumption | with_reducible apply rsetBits_kept | with_reducible apply setQState_kept
    | with_reducible apply setQx_kept | with_reducible apply kept_ite

theorem releaseYield_kept {s : State} {q : Nat} (h_s : Kept r₀ s) : Kept r₀ (releaseYield s q) := by
  unfold releaseYield
  try dsimp only
  repeat' first
    | with_reducible assumption | with_reducible apply rsetBits_kept | with_reducible apply setQState_kept
    | with_reducible apply setQx_kept | with_reducible apply kept_ite

theorem copyPieces_kept : ∀ (n0 : Nat) {n1 : Nat} {n2 : Nat} {n3 : State}, Kept r₀ n3 → Kept r₀ (copyPieces n0 n1 n2 n3) := by
  intro n0
  induction n0 with
  | zero => intro n1 n2 n3 h; exact h
  | succ n ih =>
    intro n1 n2 n3 h
    unfold copyPieces
    try dsimp only
    repeat' first
      | with_reducible assumption | with_reducible apply writeMem_kept | with_reducible apply ih

theorem saveRanges_kept : ∀ (n1 : List (Nat × Nat)) {n0 : Nat} {n2 : State}, Kept r₀ n2 → Kept r₀ (saveRanges n0 n1 n2) := by
  intro n1
  induction n1 with
  | nil => intro n0 n2 h; exact h
  | cons x l ih =>
    obtain ⟨x0, x1⟩ := x
    intro n0 n2 h
    unfold saveRanges
    try dsimp only
    repeat' first
      | with_reducible assumption | with_reducible apply copyPieces_kept | with_reducible apply ih

theorem suspendQueue_kept {s : State} {q : Nat} (h_s : Kept r₀ s) : Kept r₀ (suspendQueue s q) := by
  unfold suspendQueue
  try dsimp only
  repeat' first
    | with_reducible assumption | with_reducible apply setQState_kept | with_reducible apply setQx_kept
    | with_reducible apply rsetBits_kept | with_reducible apply flushNow_kept | with_reducible apply kept_ite

theorem writeImage_kept {a : Nat} {ranges : List (Nat × Nat)} {s : State} (h_s : Kept r₀ s) : Kept r₀ (writeImage a ranges s) := by
  unfold writeImage
  try dsimp only
  repeat' first
    | with_reducible assumption | with_reducible apply storeBytes_kept | with_reducible apply forgetRange_kept
    | with_reducible apply saveRanges_kept | with_reducible apply kept_foldl | with_reducible apply keptP2_foldl
    | with_reducible apply keptP1_foldl | with_reducible apply keptW_foldl | with_reducible apply keptC_foldl
    | with_reducible apply keptA_foldl | with_reducible apply keptA2_foldl | split
    | fail_if_no_progress with_reducible apply kept_lit

theorem jobSuspendRun_kept {x : Started} {s : State} (h_s : Kept r₀ s) : Kept r₀ (jobSuspendRun x s) := by
  unfold jobSuspendRun
  try dsimp only
  repeat' first
    | with_reducible assumption | with_reducible apply failCmd_kept | with_reducible apply captureReach_kept
    | with_reducible apply stopAtYield_kept | with_reducible apply setJob_kept | with_reducible apply setProg_kept
    | with_reducible apply cutAllOpen_kept | with_reducible apply suspendQueue_kept | with_reducible apply markDone_kept
    | with_reducible apply closeInterval_kept | with_reducible apply writeImage_kept | with_reducible apply kept_ite
    | with_reducible apply kept_foldl | with_reducible apply keptP2_foldl | with_reducible apply keptP1_foldl
    | with_reducible apply keptW_foldl | with_reducible apply keptC_foldl | with_reducible apply keptA_foldl
    | with_reducible apply keptA2_foldl | split

theorem dropHandedFail_kept {x : Started} {s : State} (h_s : Kept r₀ s) : Kept r₀ (dropHandedFail x s) := by
  unfold dropHandedFail
  try dsimp only
  repeat' first
    | with_reducible assumption | with_reducible apply dropHanded_kept | with_reducible apply kept_ite

theorem suspendTimeout_kept {s : State} (h_s : Kept r₀ s) : Kept r₀ (suspendTimeout s) := by
  unfold suspendTimeout
  try dsimp only
  repeat' first
    | with_reducible assumption | with_reducible apply dropHandedFail_kept | with_reducible apply failCmd_kept
    | with_reducible apply setJob_kept | with_reducible apply releaseYield_kept | with_reducible apply kept_ite
    | with_reducible apply kept_foldl | with_reducible apply keptP2_foldl | with_reducible apply keptP1_foldl
    | with_reducible apply keptW_foldl | with_reducible apply keptC_foldl | with_reducible apply keptA_foldl
    | with_reducible apply keptA2_foldl | split

theorem loadRanges_kept : ∀ (n1 : List (Nat × Nat × Nat)) {n0 : Nat} {n2 : State}, Kept r₀ n2 → Kept r₀ (loadRanges n0 n1 n2) := by
  intro n1
  induction n1 with
  | nil => intro n0 n2 h; exact h
  | cons x l ih =>
    obtain ⟨x0, x1, x2⟩ := x
    intro n0 n2 h
    unfold loadRanges
    try dsimp only
    repeat' first
      | with_reducible assumption | with_reducible apply copyPieces_kept | with_reducible apply ih

theorem wakeQueue_kept {s : State} {q : Nat} (h_s : Kept r₀ s) : Kept r₀ (wakeQueue s q) := by
  unfold wakeQueue
  try dsimp only
  repeat' first
    | with_reducible assumption | with_reducible apply setQState_kept | with_reducible apply kept_ite

theorem foldl_set_wf (l : List (Nat × Nat)) : ∀ {r : List (Nat × Nat)}, Regs.wf r = true →
    Regs.wf (l.foldl (fun l x => AL.set (resetOf x.1) x.1 x.2 l) r) = true := by
  induction l with
  | nil => intro r h; exact h
  | cons x t ih => intro r h; exact ih (AL.wf_set x.1 x.2 h)

theorem restoreImage_kept {a : Nat} {g : SavedImage} {rs : List (Nat × Nat × Nat)} {s : State} (h_s : Kept r₀ s) :
    Kept r₀ (restoreImage a g rs s) := by
  unfold restoreImage
  extract_lets live back regs t1 t2 t3
  have h1 : Kept r₀ t1 := loadRanges_kept rs (forgetRange_kept h_s)
  have hr : Regs.wf regs = true := foldl_set_wf _ (AL.wf_filter _ h_s.canonical.2)
  clear_value t1 regs
  have h2 : Kept r₀ t2 := ⟨⟨h1.canonical.1, hr⟩, h1.pending, h1.opKeys, h1.qorwyn, h1.keeperCtr, h1.ceilCtr⟩
  have h3 : Kept r₀ t3 := kept_ite h2 (kept_lit h2)
  exact fireArms_kept (kept_foldl (fun t x ht => wakeQueue_kept ht) h3)

theorem jobResumeRun_kept {x : Started} {s : State} (h_s : Kept r₀ s) : Kept r₀ (jobResumeRun x s) := by
  unfold jobResumeRun
  try dsimp only
  repeat' first
    | with_reducible assumption | with_reducible apply failCmd_kept | with_reducible apply disableQueue_kept
    | with_reducible apply markDone_kept | with_reducible apply changeJob_kept | with_reducible apply restoreImage_kept
    | with_reducible apply kept_ite | with_reducible apply kept_foldl | with_reducible apply keptP2_foldl
    | with_reducible apply keptP1_foldl | with_reducible apply keptW_foldl | with_reducible apply keptC_foldl
    | with_reducible apply keptA_foldl | with_reducible apply keptA2_foldl
    | (with_reducible intro _; with_reducible intros; try dsimp only) | split

theorem fenceTo_kept {c e : Nat} {s : State} (h_s : Kept r₀ s) : KeptO r₀ (fenceTo c e s) := by
  unfold fenceTo
  try dsimp only
  repeat' first
    | with_reducible assumption | with_reducible apply rset_kept | with_reducible apply kept_ite
    | with_reducible apply keptO_ite | with_reducible apply keptO_some | with_reducible exact keptO_none

theorem fenceCut_kept {e : Nat} {s : State} (h_s : Kept r₀ s) : Kept r₀ (fenceCut e s) := by
  unfold fenceCut
  try dsimp only
  repeat' first
    | with_reducible assumption | with_reducible apply cutBucket_kept | with_reducible apply kept_ite
    | with_reducible apply kept_foldl | with_reducible apply keptP2_foldl | with_reducible apply keptP1_foldl
    | with_reducible apply keptW_foldl | with_reducible apply keptC_foldl | with_reducible apply keptA_foldl
    | with_reducible apply keptA2_foldl | (with_reducible intro _; with_reducible intros; try dsimp only)

theorem awaitSent_kept {c : Nat} {ds : List Nat} {a n : Nat} {s : State} (h_s : Kept r₀ s) : Kept r₀ (awaitSent c ds a n s) := by
  unfold awaitSent
  try dsimp only
  repeat' first
    | with_reducible assumption | with_reducible apply updStarted_kept | with_reducible apply keptO_ite
    | with_reducible apply keptO_some | with_reducible exact keptO_none | with_reducible apply kept_getD | split
    | fail_if_no_progress with_reducible apply kept_lit

theorem fencedRun_kept {e : Nat} {x : Started} {ds : State → List Nat} {send finish : State → State} {s : State} (h_send : ∀ a0, Kept r₀ a0 → Kept r₀ (send a0)) (h_finish : ∀ a0, Kept r₀ a0 → Kept r₀ (finish a0)) (h_s : Kept r₀ s) : Kept r₀ (fencedRun e x ds send finish s) := by
  unfold fencedRun
  try dsimp only
  repeat' first
    | with_reducible assumption | with_reducible apply markDone_kept | with_reducible apply failCmd_kept
    | with_reducible apply awaitSent_kept | with_reducible apply setProg_kept | with_reducible apply fenceTo_kept
    | with_reducible apply h_send | with_reducible apply h_finish | with_reducible apply kept_ite | refine fenceTo_kept ?_ _ ‹_›
    | split

theorem reshardRun_kept {x : Started} {s : State} (h_s : Kept r₀ s) : Kept r₀ (reshardRun x s) := by
  unfold reshardRun
  try dsimp only
  repeat' first
    | with_reducible assumption | with_reducible apply fencedRun_kept | with_reducible apply moveUnits_kept
    | with_reducible apply putLayout_kept | with_reducible apply failCmd_kept | with_reducible apply fenceCut_kept
    | with_reducible apply setProg_kept | with_reducible apply layFails_kept | with_reducible apply kept_ite
    | refine layFails_kept_eq ‹_› ?_ | (with_reducible intro _; with_reducible intros; try dsimp only) | split

theorem restoreUnit_kept {new : List (Nat × Nat × Nat)} {s : State} {k : Nat × Nat} (h_s : Kept r₀ s) : Kept r₀ (restoreUnit new s k) := by
  unfold restoreUnit
  try dsimp only
  repeat' first
    | with_reducible assumption | with_reducible apply copyPieces_kept | with_reducible apply sendPart_kept
    | with_reducible apply kept_ite | with_reducible apply kept_foldl | with_reducible apply keptP2_foldl
    | with_reducible apply keptP1_foldl | with_reducible apply keptW_foldl | with_reducible apply keptC_foldl
    | with_reducible apply keptA_foldl | with_reducible apply keptA2_foldl
    | (with_reducible intro _; with_reducible intros; try dsimp only) | split

theorem restoreUnits_kept {g : Nat} {gen : CkptGen} {new : List (Nat × Nat × Nat)} {s : State} (h_s : Kept r₀ s) : Kept r₀ (restoreUnits g gen new s) := by
  unfold restoreUnits
  try dsimp only
  repeat' first
    | with_reducible assumption | with_reducible apply restoreUnit_kept | with_reducible apply kept_foldl

theorem remapRun_kept {x : Started} {s : State} (h_s : Kept r₀ s) : Kept r₀ (remapRun x s) := by
  unfold remapRun
  try dsimp only
  repeat' first
    | with_reducible assumption | with_reducible apply fencedRun_kept | with_reducible apply restoreUnits_kept
    | with_reducible apply setJob_kept | with_reducible apply closeInterval_kept | with_reducible apply putLayout_kept
    | with_reducible apply failCmd_kept | with_reducible apply fenceCut_kept | with_reducible apply setProg_kept
    | with_reducible apply layFails_kept | with_reducible apply kept_ite | with_reducible apply keptO_ite
    | with_reducible apply keptO_some | with_reducible exact keptO_none | with_reducible apply kept_getD
    | refine layFails_kept_eq ‹_› ?_ | (with_reducible intro _; with_reducible intros; try dsimp only) | split

theorem copyGeneration_kept {g : Nat} {s : State} (h_s : Kept r₀ s) : Kept r₀ (copyGeneration g s) := by
  unfold copyGeneration
  try dsimp only
  repeat' first
    | with_reducible assumption | with_reducible apply copyPieces_kept | with_reducible apply forgetRange_kept
    | with_reducible apply kept_ite | with_reducible apply kept_foldl | with_reducible apply keptP2_foldl
    | with_reducible apply keptP1_foldl | with_reducible apply keptW_foldl | with_reducible apply keptC_foldl
    | with_reducible apply keptA_foldl | with_reducible apply keptA2_foldl
    | (with_reducible intro _; with_reducible intros; try dsimp only)

theorem sendMirror_kept {g d : Nat} {s : State} (h_s : Kept r₀ s) : Kept r₀ (sendMirror g d s) := by
  unfold sendMirror
  try dsimp only
  repeat' first
    | with_reducible assumption | with_reducible apply sendMsg_kept | with_reducible apply kept_foldl
    | with_reducible apply keptP2_foldl | with_reducible apply keptP1_foldl | with_reducible apply keptW_foldl
    | with_reducible apply keptC_foldl | with_reducible apply keptA_foldl | with_reducible apply keptA2_foldl
    | with_reducible apply keptO_ite | with_reducible apply keptO_some | with_reducible exact keptO_none
    | with_reducible apply kept_getD | refine sendMsg_kept ?_ _ ‹_›
    | (with_reducible intro _; with_reducible intros; try dsimp only)

theorem commitGeneration_kept {c g step : Nat} {s : State} (h_s : Kept r₀ s) : Kept r₀ (commitGeneration c g step s) := by
  unfold commitGeneration
  try dsimp only
  repeat' first
    | with_reducible assumption | with_reducible apply markDone_kept | with_reducible apply rsetBit_kept
    | with_reducible apply rset_kept | split | fail_if_no_progress with_reducible apply kept_lit

theorem mirrorRun_kept {c g step : Nat} {s : State} (h_s : Kept r₀ s) : Kept r₀ (mirrorRun c g step s) := by
  unfold mirrorRun
  try dsimp only
  repeat' first
    | with_reducible assumption | with_reducible apply commitGeneration_kept | with_reducible apply failCmd_kept
    | with_reducible apply awaitSent_kept | with_reducible apply sendMirror_kept | with_reducible apply kept_ite | split
    | fail_if_no_progress with_reducible apply kept_lit

theorem checkpointRun_kept {x : Started} {s : State} (h_s : Kept r₀ s) : Kept r₀ (checkpointRun x s) := by
  unfold checkpointRun
  try dsimp only
  repeat' first
    | with_reducible assumption | with_reducible apply failCmd_kept | with_reducible apply stopAtYield_kept
    | with_reducible apply setProg_kept | with_reducible apply cutAllOpen_kept | with_reducible apply mirrorRun_kept
    | with_reducible apply releaseYield_kept | with_reducible apply copyGeneration_kept
    | with_reducible apply commitGeneration_kept | with_reducible apply kept_ite | with_reducible apply kept_foldl
    | with_reducible apply keptP2_foldl | with_reducible apply keptP1_foldl | with_reducible apply keptW_foldl
    | with_reducible apply keptC_foldl | with_reducible apply keptA_foldl | with_reducible apply keptA2_foldl | split

theorem meterCollectRun_kept {x : Started} {s : State} (h_s : Kept r₀ s) : Kept r₀ (meterCollectRun x s) := by
  unfold meterCollectRun
  try dsimp only
  repeat' first
    | with_reducible assumption | with_reducible apply closeInterval_kept | with_reducible apply setProg_kept
    | with_reducible apply collectOwn_kept | with_reducible apply offerRecord_kept | with_reducible apply markDone_kept
    | with_reducible apply kept_ite

theorem snapFetchRun_kept {c : Nat} {s : State} (h_s : Kept r₀ s) : Kept r₀ (snapFetchRun c s) := by
  unfold snapFetchRun
  try dsimp only
  repeat' first
    | with_reducible assumption | with_reducible apply failCmd_kept | with_reducible apply poke_kept
    | with_reducible apply markDone_kept | with_reducible apply releaseBank_kept | with_reducible apply bumpFree_kept
    | with_reducible apply forgetRange_kept | with_reducible apply kept_ite | split

end Sys2Proof.Machine
end

