-- ==== Sys2Proof/Laws/KeptClock.lean ====
section
/-! SUPPORT. Every operation of Machine/Clock.lean keeps what `Kept` names. -/

namespace Sys2Proof.Machine

open Sys2Proof

variable {r₀ : State}

theorem putTokens_kept {ceil reserve held : Nat} {s : State} (h_s : Kept r₀ s) : Kept r₀ (putTokens ceil reserve held s) := by
  unfold putTokens
  try dsimp only
  repeat' first
    | with_reducible assumption | with_reducible apply rset_kept

theorem putHeld_kept {h : Nat} {s : State} (h_s : Kept r₀ s) : Kept r₀ (putHeld h s) := by
  unfold putHeld
  try dsimp only
  repeat' first
    | with_reducible assumption | with_reducible apply putTokens_kept

theorem setTokens_kept {n k : Nat} {s : State} (h_s : Kept r₀ s) : Kept r₀ (setTokens n k s) := by
  unfold setTokens
  try dsimp only
  repeat' first
    | with_reducible assumption | with_reducible apply putHeld_kept | with_reducible apply rsetBits_kept

theorem askTokens_kept {x : Consumer} {k : Nat} {s : State} (h_s : Kept r₀ s) : Kept r₀ (askTokens x k s) := by
  unfold askTokens
  try dsimp only
  repeat' first
    | with_reducible assumption | split | fail_if_no_progress with_reducible apply kept_lit

theorem retarget_kept {n : Nat} {s : State} (h_s : Kept r₀ s) : Kept r₀ (retarget n s) := by
  unfold retarget
  try dsimp only
  repeat' first
    | with_reducible assumption | with_reducible apply askTokens_kept | with_reducible apply kept_ite | split
    | fail_if_no_progress with_reducible apply kept_lit

theorem retargetAll_kept {s : State} (h_s : Kept r₀ s) : Kept r₀ (retargetAll s) := by
  unfold retargetAll
  try dsimp only
  repeat' first
    | with_reducible assumption | with_reducible apply retarget_kept | with_reducible apply kept_foldl
    | with_reducible apply keptP2_foldl | with_reducible apply keptP1_foldl | with_reducible apply keptW_foldl
    | with_reducible apply keptC_foldl | with_reducible apply keptA_foldl | with_reducible apply keptA2_foldl
    | (with_reducible intro _; with_reducible intros; try dsimp only)

theorem showBoost_kept {s : State} (h_s : Kept r₀ s) : Kept r₀ (showBoost s) := by
  unfold showBoost
  try dsimp only
  repeat' first
    | with_reducible assumption | with_reducible apply rsetBits_kept

theorem frequencyDone_kept {n : Nat} {s : State} (h_s : Kept r₀ s) : Kept r₀ (frequencyDone n s) := by
  unfold frequencyDone
  try dsimp only
  repeat' first
    | with_reducible assumption | with_reducible apply rsetBits_kept | with_reducible apply setTokens_kept
    | with_reducible apply retarget_kept | with_reducible apply showBoost_kept | with_reducible apply kept_ite | split
    | fail_if_no_progress with_reducible apply kept_lit

theorem tokenRequest_kept {x : Consumer} {s : State} (h_s : Kept r₀ s) : Kept r₀ (tokenRequest x s) := by
  unfold tokenRequest
  try dsimp only
  repeat' first
    | with_reducible assumption | with_reducible apply askTokens_kept | with_reducible apply kept_ite

theorem grantIsland_kept {n k : Nat} {s : State} (h_s : Kept r₀ s) : Kept r₀ (grantIsland n k s) := by
  unfold grantIsland
  try dsimp only
  repeat' first
    | with_reducible assumption | with_reducible apply setTokens_kept | with_reducible apply retarget_kept
    | with_reducible apply portWake_kept | with_reducible apply kept_ite | with_reducible apply keptO_ite
    | with_reducible apply keptO_some | with_reducible exact keptO_none | with_reducible apply kept_getD | split
    | fail_if_no_progress with_reducible apply kept_lit

theorem tokenGrant_kept {s : State} (h_s : Kept r₀ s) : Kept r₀ (tokenGrant s) := by
  unfold tokenGrant
  try dsimp only
  repeat' first
    | with_reducible assumption | with_reducible apply bumpFree_kept | with_reducible apply rcountBy_kept
    | with_reducible apply grantIsland_kept | with_reducible apply putHeld_kept | with_reducible apply kept_ite | split
    | fail_if_no_progress with_reducible apply kept_lit

theorem tokenRelease_kept {x : Consumer} {s : State} (h_s : Kept r₀ s) : Kept r₀ (tokenRelease x s) := by
  unfold tokenRelease
  try dsimp only
  repeat' first
    | with_reducible assumption | with_reducible apply putHeld_kept | with_reducible apply setTokens_kept
    | with_reducible apply kept_ite | split | fail_if_no_progress with_reducible apply kept_lit

theorem clamped_kept {s : State} (h_s : Kept r₀ s) : Kept r₀ (clamped s) := by
  unfold clamped
  try dsimp only
  repeat' first
    | with_reducible assumption | with_reducible apply rsetBit_kept | with_reducible apply rcountSat_kept

theorem clockTarget_kept {n v : Nat} {s : State} (h_s : Kept r₀ s) : Kept r₀ (clockTarget n v s) := by
  unfold clockTarget
  try dsimp only
  repeat' first
    | with_reducible assumption | with_reducible apply misuse_kept | with_reducible apply clamped_kept
    | with_reducible apply retarget_kept | with_reducible apply rsetBits_kept | with_reducible apply kept_ite

theorem lower_kept {off hi lo c : Nat} {s : State} (h_s : Kept r₀ s) : Kept r₀ (lower off hi lo c s) := by
  unfold lower
  try dsimp only
  repeat' first
    | with_reducible assumption | with_reducible apply rsetBits_kept | with_reducible apply kept_ite

theorem lowerGoverned_kept {s : State} (h_s : Kept r₀ s) : Kept r₀ (lowerGoverned s) := by
  unfold lowerGoverned
  try dsimp only
  repeat' first
    | with_reducible assumption | with_reducible apply lower_kept | with_reducible apply showDepthOfPool_kept
    | with_reducible apply retargetAll_kept | with_reducible apply kept_foldl | with_reducible apply keptP2_foldl
    | with_reducible apply keptP1_foldl | with_reducible apply keptW_foldl | with_reducible apply keptC_foldl
    | with_reducible apply keptA_foldl | with_reducible apply keptA2_foldl
    | (with_reducible intro _; with_reducible intros; try dsimp only)

theorem putCeilings_kept {w clk therm pf sts dl : Nat} {s : State} (h_s : Kept r₀ s) : Kept r₀ (putCeilings w clk therm pf sts dl s) := by
  unfold putCeilings
  try dsimp only
  repeat' first
    | with_reducible assumption | with_reducible apply rset_kept | with_reducible apply lowerGoverned_kept
    | with_reducible apply putTokens_kept | split | fail_if_no_progress with_reducible apply kept_lit
    | fail_if_no_progress with_reducible refine kept_lit_naust rfl rfl rfl rfl ?_

end Sys2Proof.Machine
end

