-- ==== Sys2Proof/Laws/KeptNaust.lean ====
section
/-! SUPPORT. Every operation of Machine/Naust.lean keeps what `Kept` names. -/

namespace Sys2Proof.Machine

open Sys2Proof

variable {r₀ : State}

theorem showFwHash_kept {b : Bytes} {s : State} (h_s : Kept r₀ s) : Kept r₀ (showFwHash b s) := by
  unfold showFwHash
  try dsimp only
  repeat' first
    | with_reducible assumption | with_reducible apply rset_kept | with_reducible apply kept_foldl
    | with_reducible apply keptP2_foldl | with_reducible apply keptP1_foldl | with_reducible apply keptW_foldl
    | with_reducible apply keptC_foldl | with_reducible apply keptA_foldl | with_reducible apply keptA2_foldl
    | (with_reducible intro _; with_reducible intros; try dsimp only)

theorem takeImage_kept {r : Nat} {s : State} (h_s : Kept r₀ s) : Kept r₀ (takeImage r s) := by
  unfold takeImage
  try dsimp only
  repeat' first
    | with_reducible assumption | with_reducible apply showFwHash_kept | with_reducible apply rsetBits_kept | split
    | fail_if_no_progress with_reducible apply kept_lit
    | fail_if_no_progress with_reducible refine kept_lit_naust rfl rfl rfl rfl ?_

theorem commitSvn_kept {s : State} (h : Kept r₀ s) : Kept r₀ (commitSvn s) := by
  unfold commitSvn
  split
  · rename_i c
    simp only [Bool.and_eq_true, decide_eq_true_eq] at c
    exact rsetBits_kept ⟨h.canonical, h.pending, h.opKeys, h.qorwyn, le_trans h.keeperCtr c.2.le, h.ceilCtr⟩
  · exact h

theorem enrol_kept {b : Bytes} {s : State} (h : Kept r₀ s) : Kept r₀ (enrol b s) := by
  unfold enrol
  exact rsetBit_kept (rsetBits_kept (rsetBit_kept
    ⟨h.canonical, h.pending, h.opKeys.trans (List.prefix_append _ _), h.qorwyn, h.keeperCtr, h.ceilCtr⟩))

/-- A record with CEIL_ADVANCE raises the fused counter to its SVN, which its check has found no lower. -/
theorem takeRecord_kept {b : Bytes} {s : State} (h : Kept r₀ s) (c : s.naust.ceilCtr ≤ u b 16 4) : Kept r₀ (takeRecord b s) := by
  have le := le_trans h.ceilCtr c
  have k1 := putCeilings_kept (w := u b 64 4) (clk := u b 68 4) (therm := u b 72 4) (pf := u b 76 4) (sts := u b 80 4)
    (dl := u b 84 4) h
  unfold takeRecord
  generalize putCeilings (u b 64 4) (u b 68 4) (u b 72 4) (u b 76 4) (u b 80 4) (u b 84 4) s = t1 at k1 ⊢
  generalize u b 16 4 = n at le ⊢
  extract_lets u1 x2 t2 x3 t3
  have k2 : Kept r₀ t2 := rsetBit_kept (kept_lit_naust rfl rfl rfl rfl k1)
  have k3 : Kept r₀ t3 := by
    refine kept_ite (rsetBits_kept ?_) k2
    exact ⟨k2.canonical, k2.pending, k2.opKeys, k2.qorwyn, k2.keeperCtr, le⟩
  exact kept_ite (enrol_kept k3) k3

theorem checkCeilings_kept {bus : Bool} {s : State} (h : Kept r₀ s) : Kept r₀ (checkCeilings bus s) := by
  unfold checkCeilings
  refine kept_ite h (kept_cond (fun c => takeRecord_kept h ?_) fun _ => rsetBit_kept (rcountSat_kept h))
  unfold recordAccepted at c
  simp only [Bool.and_eq_true, decide_eq_true_eq] at c
  exact c.1.2

theorem nstMack_kept {v : Nat} {s : State} (h_s : Kept r₀ s) : Kept r₀ (nstMack v s) := by
  unfold nstMack
  try dsimp only
  repeat' first
    | with_reducible assumption | with_reducible apply misuse_kept | with_reducible apply acknowledge_kept | split

theorem signNext_kept {s : State} (h_s : Kept r₀ s) : Kept r₀ (signNext s) := by
  unfold signNext
  try dsimp only
  repeat' first
    | with_reducible assumption | with_reducible apply bumpFree_kept | split | fail_if_no_progress with_reducible apply kept_lit
    | fail_if_no_progress with_reducible refine kept_lit_naust rfl rfl rfl rfl ?_

theorem recordSigned_kept {s : State} (h_s : Kept r₀ s) : Kept r₀ (recordSigned s) := by
  unfold recordSigned
  try dsimp only
  repeat' first
    | with_reducible assumption | with_reducible apply signNext_kept | with_reducible apply collectOwn_kept
    | with_reducible apply offerRecord_kept | with_reducible apply kept_ite

theorem respond_kept {req resp : Bytes} {s : State} (h_s : Kept r₀ s) : Kept r₀ (respond req resp s) := by
  unfold respond
  try dsimp only
  repeat' first
    | with_reducible assumption | split | fail_if_no_progress with_reducible apply kept_lit
    | fail_if_no_progress with_reducible refine kept_lit_naust rfl rfl rfl rfl ?_

theorem spdmError_kept {code ext : Nat} {s : State} (h_s : Kept r₀ s) : Kept r₀ (spdmError code ext s) := by
  unfold spdmError
  try dsimp only
  repeat' first
    | with_reducible assumption | split | fail_if_no_progress with_reducible apply kept_lit

theorem asked_kept {code : Nat} {req : Bytes} {s : State} {f : State → State} (h_s : Kept r₀ s) (h_f : ∀ a0, Kept r₀ a0 → Kept r₀ (f a0)) : Kept r₀ (asked code req s f) := by
  unfold asked
  try dsimp only
  repeat' first
    | with_reducible assumption | with_reducible apply h_f | with_reducible apply kept_ite

theorem inStage_kept {stage : Nat} {req : Bytes} {s : State} {f : State → State} (h_s : Kept r₀ s) (h_f : ∀ a0, Kept r₀ a0 → Kept r₀ (f a0)) : Kept r₀ (inStage stage req s f) := by
  unfold inStage
  try dsimp only
  repeat' first
    | with_reducible assumption | with_reducible apply spdmError_kept | with_reducible apply h_f | with_reducible apply kept_ite

theorem getVersion_kept {req : Bytes} {s : State} (h_s : Kept r₀ s) : Kept r₀ (getVersion req s) := by
  unfold getVersion
  try dsimp only
  repeat' first
    | with_reducible assumption | with_reducible apply asked_kept | with_reducible apply spdmError_kept
    | with_reducible apply respond_kept | with_reducible apply kept_ite
    | (with_reducible intro _; with_reducible intros; try dsimp only) | split
    | fail_if_no_progress with_reducible apply kept_lit
    | fail_if_no_progress with_reducible refine kept_lit_naust rfl rfl rfl rfl ?_

theorem getCapabilities_kept {req : Bytes} {s : State} (h_s : Kept r₀ s) : Kept r₀ (getCapabilities req s) := by
  unfold getCapabilities
  try dsimp only
  repeat' first
    | with_reducible assumption | with_reducible apply asked_kept | with_reducible apply spdmError_kept
    | with_reducible apply bumpFree_kept | with_reducible apply respond_kept | with_reducible apply kept_ite
    | (with_reducible intro _; with_reducible intros; try dsimp only) | split
    | fail_if_no_progress with_reducible apply kept_lit
    | fail_if_no_progress with_reducible refine kept_lit_naust rfl rfl rfl rfl ?_

theorem negotiate_kept {req : Bytes} {s : State} (h_s : Kept r₀ s) : Kept r₀ (negotiate req s) := by
  unfold negotiate
  try dsimp only
  repeat' first
    | with_reducible assumption | with_reducible apply asked_kept | with_reducible apply inStage_kept
    | with_reducible apply spdmError_kept | with_reducible apply respond_kept | with_reducible apply kept_ite
    | (with_reducible intro _; with_reducible intros; try dsimp only) | split
    | fail_if_no_progress with_reducible apply kept_lit
    | fail_if_no_progress with_reducible refine kept_lit_naust rfl rfl rfl rfl ?_

theorem getDigests_kept {req : Bytes} {s : State} (h_s : Kept r₀ s) : Kept r₀ (getDigests req s) := by
  unfold getDigests
  try dsimp only
  repeat' first
    | with_reducible assumption | with_reducible apply asked_kept | with_reducible apply inStage_kept
    | with_reducible apply respond_kept | (with_reducible intro _; with_reducible intros; try dsimp only)

theorem getCertificate_kept {req : Bytes} {s : State} (h_s : Kept r₀ s) : Kept r₀ (getCertificate req s) := by
  unfold getCertificate
  try dsimp only
  repeat' first
    | with_reducible assumption | with_reducible apply asked_kept | with_reducible apply inStage_kept
    | with_reducible apply spdmError_kept | with_reducible apply respond_kept | with_reducible apply kept_ite
    | (with_reducible intro _; with_reducible intros; try dsimp only)

theorem challenge_kept {req : Bytes} {s : State} (h_s : Kept r₀ s) : Kept r₀ (challenge req s) := by
  unfold challenge
  try dsimp only
  repeat' first
    | with_reducible assumption | with_reducible apply asked_kept | with_reducible apply inStage_kept
    | with_reducible apply spdmError_kept | with_reducible apply bumpFree_kept | with_reducible apply respond_kept
    | with_reducible apply kept_ite | (with_reducible intro _; with_reducible intros; try dsimp only)

theorem getMeasurements_kept {req : Bytes} {s : State} (h_s : Kept r₀ s) : Kept r₀ (getMeasurements req s) := by
  unfold getMeasurements
  try dsimp only
  repeat' first
    | with_reducible assumption | with_reducible apply asked_kept | with_reducible apply inStage_kept
    | with_reducible apply spdmError_kept | with_reducible apply bumpFree_kept | with_reducible apply respond_kept
    | with_reducible apply kept_ite | with_reducible apply keptO_ite | with_reducible apply keptO_some
    | with_reducible exact keptO_none | with_reducible apply kept_getD
    | (with_reducible intro _; with_reducible intros; try dsimp only)

theorem unsupportedRequest_kept {req : Bytes} {s : State} (h_s : Kept r₀ s) : Kept r₀ (unsupportedRequest req s) := by
  unfold unsupportedRequest
  try dsimp only
  repeat' first
    | with_reducible assumption | with_reducible apply spdmError_kept | with_reducible apply kept_ite

theorem doeAbort_kept {s : State} (h_s : Kept r₀ s) : Kept r₀ (doeAbort s) := by
  unfold doeAbort
  try dsimp only
  repeat' first
    | with_reducible assumption | split | fail_if_no_progress with_reducible apply kept_lit

end Sys2Proof.Machine
end

