-- ==== Sys2Proof/Laws/KeptPower.lean ====
section
/-! SUPPORT. Every operation of Machine/Power.lean keeps what `Kept` names. -/

namespace Sys2Proof.Machine

open Sys2Proof

variable {r₀ : State}

theorem settlePower_kept {s : State} (h_s : Kept r₀ s) : Kept r₀ (settlePower s) := by
  unfold settlePower
  try dsimp only
  repeat' first
    | with_reducible assumption | with_reducible apply setPwrState_kept | with_reducible apply retargetAll_kept
    | with_reducible apply kept_ite

theorem neapReq_kept {on : Bool} {s : State} (h_s : Kept r₀ s) : Kept r₀ (neapReq on s) := by
  unfold neapReq
  try dsimp only
  repeat' first
    | with_reducible assumption | with_reducible apply settlePower_kept | with_reducible apply rsetBits_kept

theorem selfRefresh_kept {on : Bool} {s : State} (h_s : Kept r₀ s) : Kept r₀ (selfRefresh on s) := by
  unfold selfRefresh
  try dsimp only
  repeat' first
    | with_reducible assumption | with_reducible apply rsetBits_kept | with_reducible apply kept_foldl
    | with_reducible apply keptP2_foldl | with_reducible apply keptP1_foldl | with_reducible apply keptW_foldl
    | with_reducible apply keptC_foldl | with_reducible apply keptA_foldl | with_reducible apply keptA2_foldl
    | (with_reducible intro _; with_reducible intros; try dsimp only)

theorem slackEntry_kept {s : State} (h_s : Kept r₀ s) : Kept r₀ (slackEntry s) := by
  unfold slackEntry
  try dsimp only
  repeat' first
    | with_reducible assumption | with_reducible apply selfRefresh_kept | with_reducible apply setPwrState_kept
    | with_reducible apply setDomain_kept | with_reducible apply kept_ite | with_reducible apply kept_foldl
    | with_reducible apply keptP2_foldl | with_reducible apply keptP1_foldl | with_reducible apply keptW_foldl
    | with_reducible apply keptC_foldl | with_reducible apply keptA_foldl | with_reducible apply keptA2_foldl
    | (with_reducible intro _; with_reducible intros; try dsimp only) | split
    | fail_if_no_progress with_reducible apply kept_lit

theorem domainWakeDone_kept {d : Nat} {s : State} (h_s : Kept r₀ s) : Kept r₀ (domainWakeDone d s) := by
  unfold domainWakeDone
  try dsimp only
  repeat' first
    | with_reducible assumption | with_reducible apply setDomain_kept | with_reducible apply rclrBit_kept
    | with_reducible apply kept_ite | split | fail_if_no_progress with_reducible apply kept_lit

theorem powerEvent_kept {i : Nat} {s : State} (h_s : Kept r₀ s) : Kept r₀ (powerEvent i s) := by
  unfold powerEvent
  try dsimp only
  repeat' first
    | with_reducible assumption | with_reducible apply raiseVector_kept | with_reducible apply rsetBit_kept

theorem forced_kept {i e limit : Nat} {met : Bool} {clear : Nat} {s : State} (h_s : Kept r₀ s) : Kept r₀ (forced i e limit met clear s).1 := by
  unfold forced
  try dsimp only
  repeat' first
    | with_reducible assumption | with_reducible apply powerEvent_kept | with_reducible apply rsetBit_kept
    | with_reducible apply rclrBit_kept | with_reducible apply kept_ite | split

theorem forced_kept_eq {i e limit : Nat} {met : Bool} {clear : Nat} {s : State} {y0 : State} {y1 : Nat} (he : forced i e limit met clear s = (y0, y1)) (h_s : Kept r₀ s) : Kept r₀ y0 := by
  have w : Kept r₀ (forced i e limit met clear s).1 := forced_kept h_s
  rw [he] at w
  exact w

theorem meterSample_kept {mV amps watt : Nat} {s : State} (h_s : Kept r₀ s) : Kept r₀ (meterSample mV amps watt s) := by
  unfold meterSample
  try dsimp only
  repeat' first
    | with_reducible assumption | with_reducible apply kept_ite | with_reducible apply kept_foldl
    | with_reducible apply keptP2_foldl | with_reducible apply keptP1_foldl | with_reducible apply keptW_foldl
    | with_reducible apply keptC_foldl | with_reducible apply keptA_foldl | with_reducible apply keptA2_foldl | split
    | fail_if_no_progress with_reducible apply kept_lit
    | fail_if_no_progress with_reducible refine kept_lit_naust rfl rfl rfl rfl ?_

theorem inputSample_kept {i : InputSample} {s : State} (h_s : Kept r₀ s) : Kept r₀ (inputSample i s) := by
  unfold inputSample
  try dsimp only
  repeat' first
    | with_reducible assumption | with_reducible apply meterSample_kept | with_reducible apply rset_kept
    | with_reducible apply settlePower_kept | with_reducible apply emergency_kept | with_reducible apply forced_kept
    | with_reducible apply kept_ite | refine forced_kept_eq ‹_› ?_ | split | fail_if_no_progress with_reducible apply kept_lit

theorem throttleCore_kept {s : State} {x : Nat × Nat} (h_s : Kept r₀ s) : Kept r₀ (throttleCore s x) := by
  unfold throttleCore
  try dsimp only
  repeat' first
    | with_reducible assumption | with_reducible apply powerEvent_kept | with_reducible apply retarget_kept
    | with_reducible apply kept_ite | split | fail_if_no_progress with_reducible apply kept_lit

theorem beginHold_kept {s : State} (h_s : Kept r₀ s) : Kept r₀ (beginHold s) := by
  unfold beginHold
  try dsimp only
  repeat' first
    | with_reducible assumption | with_reducible apply snapOn_kept | with_reducible apply rcountSat_kept
    | with_reducible apply powerEvent_kept | with_reducible apply rsetBit_kept | with_reducible apply relayHold_kept

theorem endHold_kept {s : State} (h_s : Kept r₀ s) : Kept r₀ (endHold s) := by
  unfold endHold
  try dsimp only
  repeat' first
    | with_reducible assumption | with_reducible apply relayRelease_kept | with_reducible apply rclrBit_kept
    | with_reducible apply resumeRelay_kept | with_reducible apply kept_ite

theorem thermalEmergency_kept {r : SensorReading} {before : Nat × Nat} {s : State} (h_s : Kept r₀ s) : Kept r₀ (thermalEmergency r before s) := by
  unfold thermalEmergency
  try dsimp only
  repeat' first
    | with_reducible assumption | with_reducible apply emergency_kept | with_reducible apply kept_ite | split

theorem takeReadings_kept {r : SensorReading} {s : State} (h_s : Kept r₀ s) : Kept r₀ (takeReadings r s) := by
  unfold takeReadings
  try dsimp only
  repeat' first
    | with_reducible assumption | with_reducible apply rset_kept | with_reducible apply settlePower_kept
    | with_reducible apply throttleCore_kept | with_reducible apply forced_kept | with_reducible apply kept_foldl
    | with_reducible apply keptP2_foldl | with_reducible apply keptP1_foldl | with_reducible apply keptW_foldl
    | with_reducible apply keptC_foldl | with_reducible apply keptA_foldl | with_reducible apply keptA2_foldl
    | refine forced_kept_eq ‹_› ?_ | split | fail_if_no_progress with_reducible apply kept_lit

theorem holdByReadings_kept {ds : List Nat} {s : State} (h_s : Kept r₀ s) : Kept r₀ (holdByReadings ds s) := by
  unfold holdByReadings
  try dsimp only
  repeat' first
    | with_reducible assumption | with_reducible apply beginHold_kept | with_reducible apply endHold_kept
    | with_reducible apply kept_ite

theorem sensorRead_kept {r : SensorReading} {s : State} (h_s : Kept r₀ s) : Kept r₀ (sensorRead r s) := by
  unfold sensorRead
  try dsimp only
  repeat' first
    | with_reducible assumption | with_reducible apply thermalEmergency_kept | with_reducible apply holdByReadings_kept
    | with_reducible apply takeReadings_kept

theorem holdTimeout_kept {s : State} (h_s : Kept r₀ s) : Kept r₀ (holdTimeout s) := by
  unfold holdTimeout
  try dsimp only
  repeat' first
    | with_reducible assumption | with_reducible apply emergency_kept | with_reducible apply kept_ite

theorem noticePort_kept {s : State} {p : Nat} (h_s : Kept r₀ s) : Kept r₀ (noticePort s p) := by
  unfold noticePort
  try dsimp only
  repeat' first
    | with_reducible assumption | with_reducible apply sendOn_kept | with_reducible apply setPortState_kept
    | with_reducible apply setPortx_kept | with_reducible apply kept_ite

theorem sendLast_kept {s : State} (h_s : Kept r₀ s) : Kept r₀ (sendLast s) := by
  unfold sendLast
  try dsimp only
  repeat' first
    | with_reducible assumption | with_reducible apply signNext_kept | with_reducible apply collectOwn_kept
    | with_reducible apply sendCtrl_kept | with_reducible apply kept_ite | with_reducible apply kept_foldl
    | with_reducible apply keptP2_foldl | with_reducible apply keptP1_foldl | with_reducible apply keptW_foldl
    | with_reducible apply keptC_foldl | with_reducible apply keptA_foldl | with_reducible apply keptA2_foldl
    | (with_reducible intro _; with_reducible intros; try dsimp only) | split

theorem holdfastShutdown_kept {sent : Bool} {s : State} (h_s : Kept r₀ s) : Kept r₀ (holdfastShutdown sent s) := by
  unfold holdfastShutdown
  try dsimp only
  repeat' first
    | with_reducible assumption | with_reducible apply forgetRange_kept | with_reducible apply selfRefresh_kept
    | with_reducible apply closeInterval_kept | with_reducible apply sendLast_kept | with_reducible apply noticePort_kept
    | with_reducible apply setDomain_kept | with_reducible apply kept_ite | with_reducible apply kept_foldl
    | with_reducible apply keptP2_foldl | with_reducible apply keptP1_foldl | with_reducible apply keptW_foldl
    | with_reducible apply keptC_foldl | with_reducible apply keptA_foldl | with_reducible apply keptA2_foldl
    | (with_reducible intro _; with_reducible intros; try dsimp only) | split
    | fail_if_no_progress with_reducible apply kept_lit

theorem countBin_kept {s : State} {b : Option Nat} (h_s : Kept r₀ s) : Kept r₀ (countBin s b) := by
  unfold countBin
  try dsimp only
  repeat' first
    | with_reducible assumption | with_reducible apply rset_kept | split

theorem meterTick_kept {cores : List CoreTick} {s : State} (h_s : Kept r₀ s) : Kept r₀ (meterTick cores s) := by
  unfold meterTick
  try dsimp only
  repeat' first
    | with_reducible assumption | with_reducible apply countBin_kept | with_reducible apply kept_ite
    | with_reducible apply kept_foldl | with_reducible apply keptP2_foldl | with_reducible apply keptP1_foldl
    | with_reducible apply keptW_foldl | with_reducible apply keptC_foldl | with_reducible apply keptA_foldl
    | with_reducible apply keptA2_foldl | with_reducible apply keptO_ite | with_reducible apply keptO_some
    | with_reducible exact keptO_none | with_reducible apply kept_getD | split
    | fail_if_no_progress with_reducible apply kept_lit
    | fail_if_no_progress with_reducible refine kept_lit_naust rfl rfl rfl rfl ?_

end Sys2Proof.Machine
end

