-- ==== Sys2Proof/Laws/KeptQueue.lean ====
section
/-! SUPPORT. Every operation of Machine/Queue.lean keeps what `Kept` names. -/

namespace Sys2Proof.Machine

open Sys2Proof

variable {r₀ : State}

theorem rejectDoorbell_kept {q : Nat} {s : State} (h_s : Kept r₀ s) : Kept r₀ (rejectDoorbell q s) := by
  unfold rejectDoorbell
  try dsimp only
  repeat' first
    | with_reducible assumption | with_reducible apply misuse_kept | with_reducible apply rsetBit_kept

theorem doorbell_kept {q v : Nat} {s : State} (h_s : Kept r₀ s) : Kept r₀ (doorbell q v s) := by
  unfold doorbell
  try dsimp only
  repeat' first
    | with_reducible assumption | with_reducible apply rejectDoorbell_kept | with_reducible apply leaveSlack_kept
    | with_reducible apply rset_kept | with_reducible apply kept_ite

theorem markerWindow_kept {m v : Nat} {s : State} (h_s : Kept r₀ s) : Kept r₀ (markerWindow m v s) := by
  unfold markerWindow
  try dsimp only
  repeat' first
    | with_reducible assumption | with_reducible apply markerInc_kept | with_reducible apply leaveSlack_kept
    | with_reducible apply kept_ite

theorem markerAsk_kept {who : Requester} {m v : Nat} {s : State} (h_s : Kept r₀ s) : Kept r₀ (markerAsk who m v s) := by
  unfold markerAsk
  try dsimp only
  repeat' first
    | with_reducible assumption | with_reducible apply markerWindow_kept | with_reducible apply markerInc_kept
    | with_reducible apply kept_ite | split

theorem markerAddRun_kept {c : Nat} {s : State} (h_s : Kept r₀ s) : Kept r₀ (markerAddRun c s) := by
  unfold markerAddRun
  try dsimp only
  repeat' first
    | with_reducible assumption | with_reducible apply markDone_kept | with_reducible apply markerInc_kept | split

theorem markerSetRun_kept {c : Nat} {s : State} (h_s : Kept r₀ s) : Kept r₀ (markerSetRun c s) := by
  unfold markerSetRun
  try dsimp only
  repeat' first
    | with_reducible assumption | with_reducible apply markDone_kept | with_reducible apply markerPut_kept | split

theorem nopRun_kept {c : Nat} {s : State} (h_s : Kept r₀ s) : Kept r₀ (nopRun c s) := by
  unfold nopRun
  try dsimp only
  repeat' first
    | with_reducible assumption | with_reducible apply markDone_kept | split

theorem haltEntry_kept {q idx status detail : Nat} {s : State} (h_s : Kept r₀ s) : Kept r₀ (haltEntry q idx status detail s) := by
  unfold haltEntry
  try dsimp only
  repeat' first
    | with_reducible assumption | with_reducible apply haltQueue_kept

theorem forwardEntry_kept {q : Nat} {f : Flight} {s : State} (h_s : Kept r₀ s) : Kept r₀ (forwardEntry q f s) := by
  unfold forwardEntry
  try dsimp only
  repeat' first
    | with_reducible assumption | with_reducible apply entryStarts_kept | with_reducible apply setQx_kept
    | with_reducible apply sendMsg_kept | refine sendMsg_kept ?_ _ ‹_› | split
    | fail_if_no_progress with_reducible apply kept_lit

theorem checkEntry_kept {q : Nat} {raw : Bytes} {f : Flight} {s : State} (h_s : Kept r₀ s) : Kept r₀ (checkEntry q raw f s) := by
  unfold checkEntry
  try dsimp only
  repeat' first
    | with_reducible assumption | with_reducible apply haltEntry_kept | with_reducible apply captureUnmapped_kept
    | with_reducible apply reportError_kept | with_reducible apply forwardEntry_kept | with_reducible apply finishEntry_kept
    | with_reducible apply setQx_kept | with_reducible apply kept_ite

theorem takeInbox_kept {q : Nat} {s : State} (h_s : Kept r₀ s) : Kept r₀ (takeInbox q s) := by
  unfold takeInbox
  try dsimp only
  repeat' first
    | with_reducible assumption | with_reducible apply setQx_kept | with_reducible apply finishEntry_kept
    | with_reducible apply kept_ite | split

theorem headCheck_kept {q : Nat} {s : State} (h_s : Kept r₀ s) : Kept r₀ (headCheck q s) := by
  unfold headCheck
  try dsimp only
  repeat' first
    | with_reducible assumption | with_reducible apply checkEntry_kept | with_reducible apply takeInbox_kept
    | with_reducible apply kept_ite | split

theorem noteFence_kept {q c : Nat} {b : Bytes} {s : State} (h_s : Kept r₀ s) : Kept r₀ (noteFence q c b s) := by
  unfold noteFence
  try dsimp only
  repeat' first
    | with_reducible assumption | with_reducible apply setQx_kept | with_reducible apply kept_ite

theorem startHook_kept {c : Nat} {o : Op} {b : Bytes} {s : State} (h_s : Kept r₀ s) : Kept r₀ (startHook c o b s) := by
  unfold startHook
  try dsimp only
  repeat' first
    | with_reducible assumption | with_reducible apply bankStart_kept | with_reducible apply pageStart_kept
    | with_reducible apply accCloseHook_kept | with_reducible apply loadStart_kept | with_reducible apply ringStart_kept
    | with_reducible apply attnStart_kept | with_reducible apply pagedStart_kept | with_reducible apply clamped_kept
    | with_reducible apply kept_ite | split

theorem haltAt_kept {q : Nat} {f : Flight} {pos : Nat} {c : Option Nat} {status detail : Nat} {s : State} (h_s : Kept r₀ s) : Kept r₀ (haltAt q f pos c status detail s) := by
  unfold haltAt
  try dsimp only
  repeat' first
    | with_reducible assumption | with_reducible apply haltQueue_kept

theorem tryStart_kept {q c : Nat} {f : Flight} {pos : Nat} {held : Option Nat} {go : Bytes → State → State} {s : State} (h_go : ∀ a0 a1, Kept r₀ a1 → Kept r₀ (go a0 a1)) (h_s : Kept r₀ s) : Kept r₀ (tryStart q c f pos held go s) := by
  unfold tryStart
  try dsimp only
  repeat' first
    | with_reducible assumption | with_reducible apply haltAt_kept | with_reducible apply reportError_kept
    | with_reducible apply noteAwaits_kept | with_reducible apply startHook_kept | with_reducible apply h_go
    | with_reducible apply kept_ite | with_reducible apply keptO_ite | with_reducible apply keptO_some
    | with_reducible exact keptO_none | with_reducible apply kept_getD | split

theorem startNew_kept {q : Nat} {f : Flight} {b : Bytes} {s : State} (h_s : Kept r₀ s) : Kept r₀ (startNew q f b s) := by
  unfold startNew
  try dsimp only
  repeat' first
    | with_reducible assumption | with_reducible apply entryStarts_kept | with_reducible apply setQx_kept
    | with_reducible apply setFlight_kept | with_reducible apply keptO_ite | with_reducible apply keptO_some
    | with_reducible exact keptO_none | with_reducible apply kept_getD | split
    | fail_if_no_progress with_reducible apply kept_lit

theorem startAgain_kept {q c : Nat} {s : State} (h_s : Kept r₀ s) : Kept r₀ (startAgain q c s) := by
  unfold startAgain
  try dsimp only
  repeat' first
    | with_reducible assumption | with_reducible apply updStarted_kept | with_reducible apply setQx_kept | split
    | fail_if_no_progress with_reducible apply kept_lit

theorem commandStart_kept {q : Nat} {s : State} (h_s : Kept r₀ s) : Kept r₀ (commandStart q s) := by
  unfold commandStart
  try dsimp only
  repeat' first
    | with_reducible assumption | with_reducible apply haltAt_kept | with_reducible apply reportError_kept
    | with_reducible apply noteFence_kept | with_reducible apply tryStart_kept | with_reducible apply startAgain_kept
    | with_reducible apply startNew_kept | with_reducible apply kept_ite
    | (with_reducible intro _; with_reducible intros; try dsimp only) | split

theorem waitTimeout_kept {q : Nat} {s : State} (h_s : Kept r₀ s) : Kept r₀ (waitTimeout q s) := by
  unfold waitTimeout
  try dsimp only
  repeat' first
    | with_reducible assumption | with_reducible apply haltAt_kept | with_reducible apply rsetBit_kept
    | with_reducible apply kept_ite | split

theorem countDone_kept {x : Started} {s : State} (h_s : Kept r₀ s) : Kept r₀ (countDone x s) := by
  unfold countDone
  try dsimp only
  repeat' first
    | with_reducible assumption | with_reducible apply setFlight_kept | split

theorem noteYield_kept {x : Started} {s : State} (h_s : Kept r₀ s) : Kept r₀ (noteYield x s) := by
  unfold noteYield
  try dsimp only
  repeat' first
    | with_reducible assumption | with_reducible apply setQx_kept | with_reducible apply kept_ite

theorem signalAdd_kept {x : Started} {s : State} (h_s : Kept r₀ s) : Kept r₀ (signalAdd x s) := by
  unfold signalAdd
  try dsimp only
  repeat' first
    | with_reducible assumption | with_reducible apply markerInc_kept | with_reducible apply kept_ite

theorem commandComplete_kept {c : Nat} {s : State} (h_s : Kept r₀ s) : Kept r₀ (commandComplete c s) := by
  unfold commandComplete
  try dsimp only
  repeat' first
    | with_reducible assumption | with_reducible apply settleQueue_kept | with_reducible apply settleEntry_kept
    | with_reducible apply signalAdd_kept | with_reducible apply noteYield_kept | with_reducible apply countDone_kept
    | with_reducible apply kept_ite | split | fail_if_no_progress with_reducible apply kept_lit

theorem afterHalt_kept {q : Nat} {s : State} (h_s : Kept r₀ s) : Kept r₀ (afterHalt q s) := by
  unfold afterHalt
  try dsimp only
  repeat' first
    | with_reducible assumption | with_reducible apply showHalt_kept | with_reducible apply setQx_kept
    | with_reducible apply setQState_kept | with_reducible apply settleQueue_kept | with_reducible apply kept_ite | split

theorem retryHalt_kept {q : Nat} {h : HaltRec} {s : State} (h_s : Kept r₀ s) : Kept r₀ (retryHalt q h s) := by
  unfold retryHalt
  try dsimp only
  repeat' first
    | with_reducible assumption | with_reducible apply setQx_kept | split

theorem skipEntry_kept {q : Nat} {h : HaltRec} {s : State} (h_s : Kept r₀ s) : Kept r₀ (skipEntry q h s) := by
  unfold skipEntry
  try dsimp only
  repeat' first
    | with_reducible assumption | with_reducible apply finishEntry_kept

theorem endEntry_kept {q : Nat} {f : Flight} {status unit detail : Nat} {s : State} (h_s : Kept r₀ s) : Kept r₀ (endEntry q f status unit detail s) := by
  unfold endEntry
  try dsimp only
  repeat' first
    | with_reducible assumption | with_reducible apply finishEntry_kept | with_reducible apply setQx_kept
    | with_reducible apply kept_ite | split | fail_if_no_progress with_reducible apply kept_lit

theorem skipCommand_kept {q : Nat} {h : HaltRec} {s : State} (h_s : Kept r₀ s) : Kept r₀ (skipCommand q h s) := by
  unfold skipCommand
  try dsimp only
  repeat' first
    | with_reducible assumption | with_reducible apply setFlight_kept | with_reducible apply settleEntry_kept
    | with_reducible apply endEntry_kept | with_reducible apply entryStarts_kept | with_reducible apply setQx_kept | split
    | fail_if_no_progress with_reducible apply kept_lit

theorem abortEntry_kept {q : Nat} {h : HaltRec} {s : State} (h_s : Kept r₀ s) : Kept r₀ (abortEntry q h s) := by
  unfold abortEntry
  try dsimp only
  repeat' first
    | with_reducible assumption | with_reducible apply endEntry_kept

theorem resumeQueue_kept {q choice : Nat} {s : State} (h_s : Kept r₀ s) : Kept r₀ (resumeQueue q choice s) := by
  unfold resumeQueue
  try dsimp only
  repeat' first
    | with_reducible assumption | with_reducible apply misuse_kept | with_reducible apply retryHalt_kept
    | with_reducible apply skipEntry_kept | with_reducible apply skipCommand_kept | with_reducible apply abortEntry_kept
    | with_reducible apply afterHalt_kept | with_reducible apply kept_ite | split

theorem showRhalt_kept {s : State} (h_s : Kept r₀ s) : Kept r₀ (showRhalt s) := by
  unfold showRhalt
  try dsimp only
  repeat' first
    | with_reducible assumption | with_reducible apply rset_kept | split

theorem haltIn_kept {p : Nat} {m : Msg} {s : State} (h_s : Kept r₀ s) : Kept r₀ (haltIn p m s) := by
  unfold haltIn
  try dsimp only
  repeat' first
    | with_reducible assumption | with_reducible apply raiseVector_kept | with_reducible apply rcountSat_kept
    | with_reducible apply showRhalt_kept | with_reducible apply takeCtrl_kept | with_reducible apply kept_ite
    | refine takeCtrl_kept ?_ _ ‹_› | split | fail_if_no_progress with_reducible apply kept_lit

theorem rhaltPop_kept {s : State} (h_s : Kept r₀ s) : Kept r₀ (rhaltPop s) := by
  unfold rhaltPop
  try dsimp only
  repeat' first
    | with_reducible assumption | with_reducible apply showRhalt_kept | with_reducible apply kept_ite | split
    | fail_if_no_progress with_reducible apply kept_lit

theorem rctl_kept {choice d q : Nat} {s : State} (h_s : Kept r₀ s) : Kept r₀ (rctl choice d q s) := by
  unfold rctl
  try dsimp only
  repeat' first
    | with_reducible assumption | with_reducible apply misuse_kept | with_reducible apply sendCtrl_kept
    | with_reducible apply kept_ite

theorem resumeIn_kept {p : Nat} {m : Msg} {s : State} (h_s : Kept r₀ s) : Kept r₀ (resumeIn p m s) := by
  unfold resumeIn
  try dsimp only
  repeat' first
    | with_reducible assumption | with_reducible apply resumeQueue_kept | with_reducible apply misuse_kept
    | with_reducible apply takeCtrl_kept | with_reducible apply kept_ite | refine takeCtrl_kept ?_ _ ‹_› | split

theorem entryIn_kept {p : Nat} {m : Msg} {s : State} (h_s : Kept r₀ s) : Kept r₀ (entryIn p m s) := by
  unfold entryIn
  try dsimp only
  repeat' first
    | with_reducible assumption | with_reducible apply poke_kept | with_reducible apply rset_kept
    | with_reducible apply setQx_kept | with_reducible apply takeMsg_kept | with_reducible apply kept_ite
    | refine takeMsg_kept ?_ _ ‹_› | split

theorem completionIn_kept {p : Nat} {m : Msg} {s : State} (h_s : Kept r₀ s) : Kept r₀ (completionIn p m s) := by
  unfold completionIn
  try dsimp only
  repeat' first
    | with_reducible assumption | with_reducible apply poke_kept | with_reducible apply raiseVector_kept
    | with_reducible apply settleQueue_kept | with_reducible apply dropFlight_kept | with_reducible apply takeCtrl_kept
    | with_reducible apply kept_ite | refine takeCtrl_kept ?_ _ ‹_› | split | fail_if_no_progress with_reducible apply kept_lit

end Sys2Proof.Machine
end

