-- ==== Sys2Proof/Laws/KeptReads.lean ====
section
/-! SUPPORT. Every operation of Machine/Reads.lean keeps what `Kept` names. -/

namespace Sys2Proof.Machine

open Sys2Proof

variable {r₀ : State}

theorem readWord_kept {off : Nat} {s : State} (h_s : Kept r₀ s) : Kept r₀ (readWord off s).2 := by
  unfold readWord
  try dsimp only
  repeat' first
    | with_reducible assumption | with_reducible apply kept_ite | split | fail_if_no_progress with_reducible apply kept_lit

theorem readWord_kept_eq {off : Nat} {s : State} {y0 : Nat} {y1 : State} (he : readWord off s = (y0, y1)) (h_s : Kept r₀ s) : Kept r₀ y1 := by
  have w : Kept r₀ (readWord off s).2 := readWord_kept h_s
  rw [he] at w
  exact w

theorem readWords_kept : ∀ (n0 : Nat) {n1 : Nat} {n2 : State}, Kept r₀ n2 → Kept r₀ (readWords n0 n1 n2).2 := by
  intro n0
  induction n0 with
  | zero => intro n1 n2 h; exact h
  | succ n ih =>
    intro n1 n2 h
    unfold readWords
    try dsimp only
    repeat' first
      | with_reducible assumption | with_reducible apply readWord_kept | with_reducible apply ih

theorem readWords_kept_eq {n0 n1 : Nat} {n2 : State} {y0 : Bytes} {y1 : State} (he : readWords n0 n1 n2 = (y0, y1)) (h_n2 : Kept r₀ n2) : Kept r₀ y1 := by
  have w : Kept r₀ (readWords n0 n1 n2).2 := readWords_kept n0 h_n2
  rw [he] at w
  exact w

theorem readReg_kept {off width : Nat} {s : State} (h_s : Kept r₀ s) : Kept r₀ (readReg off width s).2 := by
  unfold readReg
  try dsimp only
  repeat' first
    | with_reducible assumption | with_reducible apply readWord_kept | with_reducible apply kept_ite
    | refine readWord_kept_eq ‹_› ?_ | split

theorem readReg_kept_eq {off width : Nat} {s : State} {y0 : Bytes} {y1 : State} (he : readReg off width s = (y0, y1)) (h_s : Kept r₀ s) : Kept r₀ y1 := by
  have w : Kept r₀ (readReg off width s).2 := readReg_kept h_s
  rw [he] at w
  exact w

theorem lowHalfRead_kept {r : RegRead} {s : State} (h_s : Kept r₀ s) : Kept r₀ (lowHalfRead r s) := by
  unfold lowHalfRead
  try dsimp only
  repeat' first
    | with_reducible assumption | with_reducible apply readReg_kept | with_reducible apply kept_ite
    | refine readReg_kept_eq ‹_› ?_ | split | fail_if_no_progress with_reducible apply kept_lit

end Sys2Proof.Machine
end

