-- ==== Sys2Proof/Laws/KeptBringUp.lean ====
section
/-! SUPPORT. Every operation of Machine/BringUp.lean keeps what `Kept` names. -/

namespace Sys2Proof.Machine

open Sys2Proof

variable {r₀ : State}

theorem showStage_kept {s : State} (h_s : Kept r₀ s) : Kept r₀ (showStage s) := by
  unfold showStage
  try dsimp only
  repeat' first
    | with_reducible assumption | with_reducible apply rsetBits_kept | with_reducible apply kept_ite

theorem supplyOff_kept {s : State} (h_s : Kept r₀ s) : Kept r₀ (supplyOff s) := by
  unfold supplyOff
  try dsimp only
  repeat' first
    | with_reducible assumption | with_reducible apply setDomain_kept | with_reducible apply kept_ite
    | with_reducible apply kept_foldl | with_reducible apply keptP2_foldl | with_reducible apply keptP1_foldl
    | with_reducible apply keptW_foldl | with_reducible apply keptC_foldl | with_reducible apply keptA_foldl
    | with_reducible apply keptA2_foldl | (with_reducible intro _; with_reducible intros; try dsimp only) | split
    | fail_if_no_progress with_reducible apply kept_lit

theorem bootFails_kept {code item : Nat} {s : State} (h_s : Kept r₀ s) : Kept r₀ (bootFails code item s) := by
  unfold bootFails
  try dsimp only
  repeat' first
    | with_reducible assumption | with_reducible apply supplyOff_kept | with_reducible apply rsetBits_kept

theorem supplyGood_kept {k : Nat} {s : State} (h_s : Kept r₀ s) : Kept r₀ (supplyGood k s) := by
  unfold supplyGood
  try dsimp only
  repeat' first
    | with_reducible assumption | with_reducible apply showStage_kept | with_reducible apply setDomain_kept
    | with_reducible apply kept_ite | with_reducible apply kept_foldl | with_reducible apply keptP2_foldl
    | with_reducible apply keptP1_foldl | with_reducible apply keptW_foldl | with_reducible apply keptC_foldl
    | with_reducible apply keptA_foldl | with_reducible apply keptA2_foldl
    | (with_reducible intro _; with_reducible intros; try dsimp only) | split
    | fail_if_no_progress with_reducible apply kept_lit

theorem supplyTimeout_kept {s : State} (h_s : Kept r₀ s) : Kept r₀ (supplyTimeout s) := by
  unfold supplyTimeout
  try dsimp only
  repeat' first
    | with_reducible assumption | with_reducible apply bootFails_kept | with_reducible apply kept_ite

theorem thermalGateOpen_kept {s : State} (h_s : Kept r₀ s) : Kept r₀ (thermalGateOpen s) := by
  unfold thermalGateOpen
  try dsimp only
  repeat' first
    | with_reducible assumption | with_reducible apply showStage_kept | with_reducible apply kept_ite | split
    | fail_if_no_progress with_reducible apply kept_lit

theorem moduleReset_kept {s : State} (h_s : Kept r₀ s) : Kept r₀ (moduleReset s) := by
  refine ⟨⟨AL.wf_filter _ h_s.canonical.1, ?_⟩, h_s.pending, h_s.opKeys, h_s.qorwyn, h_s.keeperCtr, h_s.ceilCtr⟩
  have h := AL.wf_set (d := resetOf) R.NST_SERIAL (rget R.NST_SERIAL s) (l := []) rfl
  have e : resetOf R.NST_SERIAL = 0 := by decide
  rw [e] at h
  exact h

theorem saveRecords_kept {s : State} (h_s : Kept r₀ s) : Kept r₀ (saveRecords s) := by
  unfold saveRecords
  try dsimp only
  repeat' first
    | with_reducible assumption | with_reducible apply signNext_kept | with_reducible apply kept_foldl
    | with_reducible apply keptP2_foldl | with_reducible apply keptP1_foldl | with_reducible apply keptW_foldl
    | with_reducible apply keptC_foldl | with_reducible apply keptA_foldl | with_reducible apply keptA2_foldl
    | (with_reducible intro _; with_reducible intros; try dsimp only) | split
    | fail_if_no_progress with_reducible apply kept_lit
    | fail_if_no_progress with_reducible refine kept_lit_naust rfl rfl rfl rfl ?_

theorem inputQualified_kept {s : State} (h_s : Kept r₀ s) : Kept r₀ (inputQualified s) := by
  unfold inputQualified
  try dsimp only
  repeat' first
    | with_reducible assumption | with_reducible apply moduleReset_kept | with_reducible apply kept_ite | split
    | fail_if_no_progress with_reducible apply kept_lit

theorem inputLoss_kept {s : State} (h_s : Kept r₀ s) : Kept r₀ (inputLoss s) := by
  unfold inputLoss
  try dsimp only
  repeat' first
    | with_reducible assumption | with_reducible apply moduleReset_kept | with_reducible apply kept_ite | split
    | fail_if_no_progress with_reducible apply kept_lit

theorem modRstN_kept {s : State} (h_s : Kept r₀ s) : Kept r₀ (modRstN s) := by
  unfold modRstN
  try dsimp only
  repeat' first
    | with_reducible assumption | with_reducible apply moduleReset_kept | with_reducible apply saveRecords_kept
    | with_reducible apply kept_ite

theorem takeConfig_kept {b : Bytes} {s : State} (h_s : Kept r₀ s) : Kept r₀ (takeConfig b s) := by
  unfold takeConfig
  try dsimp only
  repeat' first
    | with_reducible assumption | with_reducible apply rset_kept | with_reducible apply rsetBits_kept | split
    | fail_if_no_progress with_reducible apply kept_lit
    | fail_if_no_progress with_reducible refine kept_lit_naust rfl rfl rfl rfl ?_

theorem drawBootId_kept {s : State} (h_s : Kept r₀ s) : Kept r₀ (drawBootId s) := by
  unfold drawBootId
  try dsimp only
  repeat' first
    | with_reducible assumption | with_reducible apply bumpFree_kept | with_reducible apply rset_kept
    | with_reducible apply kept_foldl | with_reducible apply keptP2_foldl | with_reducible apply keptP1_foldl
    | with_reducible apply keptW_foldl | with_reducible apply keptC_foldl | with_reducible apply keptA_foldl
    | with_reducible apply keptA2_foldl | (with_reducible intro _; with_reducible intros; try dsimp only)

theorem showFuses_kept {s : State} (h_s : Kept r₀ s) : Kept r₀ (showFuses s) := by
  unfold showFuses
  try dsimp only
  repeat' first
    | with_reducible assumption | with_reducible apply rset_kept | with_reducible apply rsetBits_kept

theorem naustStart_kept {s : State} (h_s : Kept r₀ s) : Kept r₀ (naustStart s) := by
  unfold naustStart
  try dsimp only
  repeat' first
    | with_reducible assumption | with_reducible apply showFuses_kept | with_reducible apply drawBootId_kept
    | with_reducible apply takeConfig_kept | with_reducible apply rsetBit_kept | with_reducible apply checkCeilings_kept
    | with_reducible apply kept_ite | split | fail_if_no_progress with_reducible apply kept_lit

theorem writeFlash_kept {r off : Nat} {b : Bytes} {s : State} (h_s : Kept r₀ s) : Kept r₀ (writeFlash r off b s) := by
  unfold writeFlash
  try dsimp only
  repeat' first
    | with_reducible assumption | with_reducible apply kept_ite | with_reducible apply keptO_ite
    | with_reducible apply keptO_some | with_reducible exact keptO_none | with_reducible apply kept_getD | split
    | fail_if_no_progress with_reducible apply kept_lit

theorem releaseWrites_kept {s : State} (h_s : Kept r₀ s) : Kept r₀ (releaseWrites s) := by
  unfold releaseWrites
  try dsimp only
  repeat' first
    | with_reducible assumption | with_reducible apply writeFlash_kept | with_reducible apply kept_ite
    | with_reducible apply kept_foldl | with_reducible apply keptP2_foldl | with_reducible apply keptP1_foldl
    | with_reducible apply keptW_foldl | with_reducible apply keptC_foldl | with_reducible apply keptA_foldl
    | with_reducible apply keptA2_foldl | (with_reducible intro _; with_reducible intros; try dsimp only) | split
    | fail_if_no_progress with_reducible apply kept_lit

theorem noImage_kept {s : State} (h_s : Kept r₀ s) : Kept r₀ (noImage s) := by
  unfold noImage
  try dsimp only
  repeat' first
    | with_reducible assumption | with_reducible apply rsetBits_kept

theorem keeperVerify_kept {s : State} (h_s : Kept r₀ s) : Kept r₀ (keeperVerify s) := by
  unfold keeperVerify
  try dsimp only
  repeat' first
    | with_reducible assumption | with_reducible apply releaseWrites_kept | with_reducible apply showStage_kept
    | with_reducible apply takeImage_kept | with_reducible apply rsetBit_kept | with_reducible apply noImage_kept
    | with_reducible apply kept_ite

theorem stackTrained_kept {k : Nat} {s : State} (h_s : Kept r₀ s) : Kept r₀ (stackTrained k s) := by
  unfold stackTrained
  try dsimp only
  repeat' first
    | with_reducible assumption | with_reducible apply zeroRange_kept | with_reducible apply showStage_kept
    | with_reducible apply rsetBit_kept | with_reducible apply kept_ite | split
    | fail_if_no_progress with_reducible apply kept_lit

theorem spillTrained_kept {g : Nat} {s : State} (h_s : Kept r₀ s) : Kept r₀ (spillTrained g s) := by
  unfold spillTrained
  try dsimp only
  repeat' first
    | with_reducible assumption | with_reducible apply showStage_kept | with_reducible apply rsetBit_kept
    | with_reducible apply zeroRange_kept | with_reducible apply kept_ite | split
    | fail_if_no_progress with_reducible apply kept_lit

theorem trainingDone_kept {x : TrainUnit} {ok : Bool} {s : State} (h_s : Kept r₀ s) : Kept r₀ (trainingDone x ok s) := by
  unfold trainingDone
  try dsimp only
  repeat' first
    | with_reducible assumption | with_reducible apply stackTrained_kept | with_reducible apply bootFails_kept
    | with_reducible apply spillTrained_kept | with_reducible apply kept_ite | split

theorem keeperRelease_kept {s : State} (h_s : Kept r₀ s) : Kept r₀ (keeperRelease s) := by
  unfold keeperRelease
  try dsimp only
  repeat' first
    | with_reducible assumption | with_reducible apply showLead_kept | with_reducible apply rsetBit_kept
    | with_reducible apply rset_kept | with_reducible apply showLinks_kept | with_reducible apply portEnable_kept
    | with_reducible apply showStage_kept | with_reducible apply formationDone_kept | with_reducible apply kept_ite
    | with_reducible apply kept_foldl | with_reducible apply keptP2_foldl | with_reducible apply keptP1_foldl
    | with_reducible apply keptW_foldl | with_reducible apply keptC_foldl | with_reducible apply keptA_foldl
    | with_reducible apply keptA2_foldl | split | fail_if_no_progress with_reducible apply kept_lit

theorem becomeReady_kept {s : State} (h_s : Kept r₀ s) : Kept r₀ (becomeReady s) := by
  unfold becomeReady
  try dsimp only
  repeat' first
    | with_reducible assumption | with_reducible apply raiseVector_kept | with_reducible apply setPwrState_kept
    | with_reducible apply rsetBits_kept | with_reducible apply kept_ite

theorem setResult_kept {b : Bytes} {s : State} (h_s : Kept r₀ s) : Kept r₀ (setResult b s) := by
  unfold setResult
  try dsimp only
  repeat' first
    | with_reducible assumption | split | fail_if_no_progress with_reducible apply kept_lit

theorem busCommand_kept {f : State → State} {s : State} (h_f : ∀ a0, Kept r₀ a0 → Kept r₀ (f a0)) (h_s : Kept r₀ s) : Kept r₀ (busCommand f s) := by
  unfold busCommand
  try dsimp only
  repeat' first
    | with_reducible assumption | with_reducible apply setResult_kept | with_reducible apply h_f | with_reducible apply kept_ite

theorem busRead_kept {a n : Nat} {s : State} (h_s : Kept r₀ s) : Kept r₀ (busRead a n s) := by
  unfold busRead
  try dsimp only
  repeat' first
    | with_reducible assumption | with_reducible apply busCommand_kept | with_reducible apply setResult_kept
    | with_reducible apply readWords_kept | with_reducible apply kept_ite | refine readWords_kept_eq ‹_› ?_
    | (with_reducible intro _; with_reducible intros; try dsimp only)

theorem flashWrite_kept {r off : Nat} {b : Bytes} {s : State} (h_s : Kept r₀ s) : Kept r₀ (flashWrite r off b s) := by
  unfold flashWrite
  try dsimp only
  repeat' first
    | with_reducible assumption | with_reducible apply setResult_kept | with_reducible apply writeFlash_kept
    | with_reducible apply kept_ite | split | fail_if_no_progress with_reducible apply kept_lit

theorem flashRead_kept {r off n : Nat} {s : State} (h_s : Kept r₀ s) : Kept r₀ (flashRead r off n s) := by
  unfold flashRead
  try dsimp only
  repeat' first
    | with_reducible assumption | with_reducible apply busCommand_kept | with_reducible apply setResult_kept
    | with_reducible apply kept_ite | (with_reducible intro _; with_reducible intros; try dsimp only)

theorem busReset_kept {key : Nat} {s : State} (h_s : Kept r₀ s) : Kept r₀ (busReset key s) := by
  unfold busReset
  try dsimp only
  repeat' first
    | with_reducible assumption | with_reducible apply setResult_kept | with_reducible apply moduleReset_kept
    | with_reducible apply saveRecords_kept | with_reducible apply releaseWrites_kept | with_reducible apply kept_ite

theorem busStatus_kept {s : State} (h_s : Kept r₀ s) : Kept r₀ (busStatus s) := by
  unfold busStatus
  try dsimp only
  repeat' first
    | with_reducible assumption | with_reducible apply busCommand_kept | with_reducible apply setResult_kept
    | (with_reducible intro _; with_reducible intros; try dsimp only)

theorem loadTap_kept {i : TapInstr} {s : State} (h_s : Kept r₀ s) : Kept r₀ (loadTap i s) := by
  unfold loadTap
  try dsimp only
  repeat' first
    | with_reducible assumption | split | fail_if_no_progress with_reducible apply kept_lit

theorem tapIdcode_kept {s : State} (h_s : Kept r₀ s) : Kept r₀ (tapIdcode s) := by
  unfold tapIdcode
  try dsimp only
  repeat' first
    | with_reducible assumption | with_reducible apply loadTap_kept | split | fail_if_no_progress with_reducible apply kept_lit

theorem tapPreload_kept {cells : Bytes} {s : State} (h_s : Kept r₀ s) : Kept r₀ (tapPreload cells s) := by
  unfold tapPreload
  try dsimp only
  repeat' first
    | with_reducible assumption | with_reducible apply loadTap_kept | split | fail_if_no_progress with_reducible apply kept_lit

end Sys2Proof.Machine
end

