-- ==== Sys2Proof/Laws/KeptHostPort.lean ====
section
/-! SUPPORT. Every operation of Machine/HostPort.lean keeps what `Kept` names. -/

namespace Sys2Proof.Machine

open Sys2Proof

variable {r₀ : State}

theorem dropQueue_kept {s : State} {q : Nat} (h_s : Kept r₀ s) : Kept r₀ (dropQueue s q) := by
  unfold dropQueue
  try dsimp only
  repeat' first
    | with_reducible assumption | with_reducible apply disableQueue_kept | with_reducible apply kept_ite

theorem abortRunning_kept {s : State} {n : Nat} (h_s : Kept r₀ s) : Kept r₀ (abortRunning s n) := by
  unfold abortRunning
  try dsimp only
  repeat' first
    | with_reducible assumption | with_reducible apply abortChan_kept | with_reducible apply kept_ite

theorem functionReset_kept {s : State} (h_s : Kept r₀ s) : Kept r₀ (functionReset s) := by
  unfold functionReset
  try dsimp only
  repeat' first
    | with_reducible assumption | with_reducible apply abortRunning_kept | with_reducible apply stopCommands_kept
    | with_reducible apply dropQueue_kept | with_reducible apply showRhalt_kept | with_reducible apply kept_foldl
    | with_reducible apply keptP2_foldl | with_reducible apply keptP1_foldl | with_reducible apply keptW_foldl
    | with_reducible apply keptC_foldl | with_reducible apply keptA_foldl | with_reducible apply keptA2_foldl | split
    | fail_if_no_progress with_reducible apply kept_lit

theorem flr_kept {s : State} (h_s : Kept r₀ s) : Kept r₀ (flr s) := by
  unfold flr
  try dsimp only
  repeat' first
    | with_reducible assumption | with_reducible apply functionReset_kept | with_reducible apply clearConfig_kept
    | with_reducible apply kept_ite

theorem flrHere_kept {s : State} (h_s : Kept r₀ s) : Kept r₀ (flrHere s) := by
  unfold flrHere
  try dsimp only
  repeat' first
    | with_reducible assumption | with_reducible apply flr_kept | with_reducible apply functionReset_kept
    | with_reducible apply bumpFree_kept | with_reducible apply kept_ite

theorem linkLost_kept {training : Bool} {s : State} (h_s : Kept r₀ s) : Kept r₀ (linkLost training s) := by
  unfold linkLost
  try dsimp only
  repeat' first
    | with_reducible assumption | with_reducible apply flr_kept | with_reducible apply rset_kept | split
    | fail_if_no_progress with_reducible apply kept_lit

theorem pcieLinkChange_kept {l : LinkTrained} {s : State} (h_s : Kept r₀ s) : Kept r₀ (pcieLinkChange l s) := by
  unfold pcieLinkChange
  try dsimp only
  repeat' first
    | with_reducible assumption | with_reducible apply rset_kept | with_reducible apply raiseVector_kept
    | with_reducible apply rsetBit_kept | with_reducible apply linkLost_kept | with_reducible apply kept_ite | split
    | fail_if_no_progress with_reducible apply kept_lit

theorem perstAssert_kept {s : State} (h_s : Kept r₀ s) : Kept r₀ (perstAssert s) := by
  unfold perstAssert
  try dsimp only
  repeat' first
    | with_reducible assumption | with_reducible apply linkLost_kept | with_reducible apply kept_ite | split
    | fail_if_no_progress with_reducible apply kept_lit

theorem perstDeassert_kept {s : State} (h_s : Kept r₀ s) : Kept r₀ (perstDeassert s) := by
  unfold perstDeassert
  try dsimp only
  repeat' first
    | with_reducible assumption | with_reducible apply kept_ite | split | fail_if_no_progress with_reducible apply kept_lit

theorem hotReset_kept {s : State} (h_s : Kept r₀ s) : Kept r₀ (hotReset s) := by
  unfold hotReset
  try dsimp only
  repeat' first
    | with_reducible assumption | with_reducible apply linkLost_kept | with_reducible apply kept_ite

theorem showWindow_kept {s : State} (h_s : Kept r₀ s) : Kept r₀ (showWindow s) := by
  unfold showWindow
  try dsimp only
  repeat' first
    | with_reducible assumption | with_reducible apply rsetBits_kept

theorem winBaseWrite_kept {v : Nat} {s : State} (h_s : Kept r₀ s) : Kept r₀ (winBaseWrite v s) := by
  unfold winBaseWrite
  try dsimp only
  repeat' first
    | with_reducible assumption | with_reducible apply showWindow_kept | with_reducible apply rset_kept

theorem barSize_kept {k : Nat} {s : State} (h_s : Kept r₀ s) : Kept r₀ (barSize k s) := by
  unfold barSize
  try dsimp only
  repeat' first
    | with_reducible assumption | with_reducible apply showWindow_kept | with_reducible apply rsetBits_kept
    | with_reducible apply kept_ite

theorem unsupported_kept {a : WindowAcc} {s : State} (h_s : Kept r₀ s) : Kept r₀ (unsupported a s) := by
  unfold unsupported
  try dsimp only
  repeat' first
    | with_reducible assumption | split | fail_if_no_progress with_reducible apply kept_lit

theorem closedAccess_kept {a : WindowAcc} {s : State} (h_s : Kept r₀ s) : Kept r₀ (closedAccess a s) := by
  unfold closedAccess
  try dsimp only
  repeat' first
    | with_reducible assumption | with_reducible apply unsupported_kept | with_reducible apply rsetBit_kept | split
    | fail_if_no_progress with_reducible apply kept_lit

theorem windowReads_kept {x n : Nat} {l : List Landing} {s : State} (h_s : Kept r₀ s) : Kept r₀ (windowReads x n l s).1 := by
  unfold windowReads
  try dsimp only
  repeat' first
    | with_reducible assumption | with_reducible apply dramRead_kept | with_reducible apply kept_foldl
    | with_reducible apply keptP2_foldl | with_reducible apply keptP1_foldl | with_reducible apply keptW_foldl
    | with_reducible apply keptC_foldl | with_reducible apply keptA_foldl | with_reducible apply keptA2_foldl
    | refine dramRead_kept_eq ‹_› ?_ | (with_reducible intro _; with_reducible intros; try dsimp only)

theorem windowReads_kept_eq {x n : Nat} {l : List Landing} {s : State} {y0 : State} {y1 : Bool} (he : windowReads x n l s = (y0, y1)) (h_s : Kept r₀ s) : Kept r₀ y0 := by
  have w : Kept r₀ (windowReads x n l s).1 := windowReads_kept h_s
  rw [he] at w
  exact w

theorem windowRead_kept {x n : Nat} {l : List Landing} {s : State} (h_s : Kept r₀ s) : Kept r₀ (windowRead x n l s) := by
  unfold windowRead
  try dsimp only
  repeat' first
    | with_reducible assumption | with_reducible apply touchRange_kept | with_reducible apply windowReads_kept
    | with_reducible apply kept_ite | refine windowReads_kept_eq ‹_› ?_ | split
    | fail_if_no_progress with_reducible apply kept_lit

theorem windowWrite_kept {x : Nat} {b : Bytes} {l : List Landing} {s : State} (h_s : Kept r₀ s) : Kept r₀ (windowWrite x b l s) := by
  unfold windowWrite
  try dsimp only
  repeat' first
    | with_reducible assumption | with_reducible apply poke_kept | with_reducible apply dramWrite_kept
    | with_reducible apply kept_ite | with_reducible apply kept_foldl | with_reducible apply keptP2_foldl
    | with_reducible apply keptP1_foldl | with_reducible apply keptW_foldl | with_reducible apply keptC_foldl
    | with_reducible apply keptA_foldl | with_reducible apply keptA2_foldl | refine dramWrite_kept_eq ‹_› ?_
    | (with_reducible intro _; with_reducible intros; try dsimp only) | split
    | fail_if_no_progress with_reducible apply kept_lit

theorem barWindow_kept {a : WindowAcc} {s : State} (h_s : Kept r₀ s) : Kept r₀ (barWindow a s) := by
  unfold barWindow
  try dsimp only
  repeat' first
    | with_reducible assumption | with_reducible apply closedAccess_kept | with_reducible apply leaveSlack_kept
    | with_reducible apply windowRead_kept | with_reducible apply windowWrite_kept | with_reducible apply kept_ite | split

theorem completes_kept {b : Bytes} {s : State} (h_s : Kept r₀ s) : Kept r₀ (completes b s) := by
  unfold completes
  try dsimp only
  repeat' first
    | with_reducible assumption | split | fail_if_no_progress with_reducible apply kept_lit

theorem msixWrite_kept {i v : Nat} {s : State} (h_s : Kept r₀ s) : Kept r₀ (msixWrite i v s) := by
  unfold msixWrite
  try dsimp only
  repeat' first
    | with_reducible assumption | with_reducible apply deliverPending_kept | with_reducible apply kept_ite | split
    | fail_if_no_progress with_reducible apply kept_lit

theorem bar2Write_kept {off n v : Nat} {s : State} (h_s : Kept r₀ s) : Kept r₀ (bar2Write off n v s) := by
  unfold bar2Write
  try dsimp only
  repeat' first
    | with_reducible assumption | with_reducible apply msixWrite_kept | with_reducible apply doorbell_kept
    | with_reducible apply markerWindow_kept | with_reducible apply kept_ite

theorem barTwo_kept {a : WindowAcc} {s : State} (h_s : Kept r₀ s) : Kept r₀ (barTwo a s) := by
  unfold barTwo
  try dsimp only
  repeat' first
    | with_reducible assumption | with_reducible apply completes_kept | with_reducible apply bar2Write_kept | split

theorem pmState_kept {d3hot : Bool} {s : State} (h_s : Kept r₀ s) : Kept r₀ (pmState d3hot s) := by
  unfold pmState
  try dsimp only
  repeat' first
    | with_reducible assumption | split | fail_if_no_progress with_reducible apply kept_lit

theorem cfgStore_kept {off v : Nat} {s : State} (h_s : Kept r₀ s) : Kept r₀ (cfgStore off v s) := by
  unfold cfgStore
  try dsimp only
  repeat' first
    | with_reducible assumption | with_reducible apply kept_ite | split | fail_if_no_progress with_reducible apply kept_lit

theorem configPut_kept {off v : Nat} {s : State} (h_s : Kept r₀ s) : Kept r₀ (configPut off v s) := by
  unfold configPut
  try dsimp only
  repeat' first
    | with_reducible assumption | with_reducible apply cfgStore_kept | with_reducible apply pmState_kept
    | with_reducible apply deliverPending_kept | with_reducible apply flr_kept | with_reducible apply barSize_kept
    | with_reducible apply kept_ite | split | fail_if_no_progress with_reducible apply kept_lit

theorem configAccess_kept {a : WindowAcc} {s : State} (h_s : Kept r₀ s) : Kept r₀ (configAccess a s) := by
  unfold configAccess
  try dsimp only
  repeat' first
    | with_reducible assumption | with_reducible apply completes_kept | with_reducible apply configPut_kept
    | with_reducible apply kept_ite | split

theorem windowAccess_kept {a : WindowAcc} {s : State} (h_s : Kept r₀ s) : Kept r₀ (windowAccess a s) := by
  unfold windowAccess
  try dsimp only
  repeat' first
    | with_reducible assumption | with_reducible apply configAccess_kept | with_reducible apply unsupported_kept
    | with_reducible apply barTwo_kept | with_reducible apply barWindow_kept | with_reducible apply kept_ite | split

theorem doeDiscovery_kept {index : Nat} {s : State} (h_s : Kept r₀ s) : Kept r₀ (doeDiscovery index s) := by
  unfold doeDiscovery
  try dsimp only
  repeat' first
    | with_reducible assumption | with_reducible apply kept_ite | split | fail_if_no_progress with_reducible apply kept_lit

end Sys2Proof.Machine
end

