-- ==== Sys2Proof/Laws/KeptRegs.lean ====
section
/-! SUPPORT. Every operation of Machine/Regs.lean keeps what `Kept` names. -/

namespace Sys2Proof.Machine

open Sys2Proof

variable {r₀ : State}

theorem storeReg_kept {d : RegDef} {off m v : Nat} {locked : Bool} {s : State} (h_s : Kept r₀ s) : Kept r₀ (storeReg d off m v locked s) := by
  unfold storeReg
  try dsimp only
  repeat' first
    | with_reducible assumption | with_reducible apply rset_kept

theorem storedAs_kept {b off hi lo x : Nat} {s : State} (h_s : Kept r₀ s) : Kept r₀ (storedAs b off hi lo x s) := by
  unfold storedAs
  try dsimp only
  repeat' first
    | with_reducible assumption | with_reducible apply misuse_kept | with_reducible apply rsetBits_kept

theorem clampField_kept {off hi lo c : Nat} {s : State} (h_s : Kept r₀ s) : Kept r₀ (clampField off hi lo c s) := by
  unfold clampField
  try dsimp only
  repeat' first
    | with_reducible assumption | with_reducible apply clamped_kept | with_reducible apply rsetBits_kept
    | with_reducible apply kept_ite

theorem fixQueueCtl_kept {q v : Nat} {s t : State} (h_s : Kept r₀ s) (h_t : Kept r₀ t) : Kept r₀ (fixQueueCtl q v s t) := by
  unfold fixQueueCtl
  try dsimp only
  repeat' first
    | with_reducible assumption | with_reducible apply rsetBits_kept | with_reducible apply resumeQueue_kept
    | with_reducible apply flushQueue_kept | with_reducible apply queueEnable_kept | with_reducible apply queueDisable_kept
    | with_reducible apply kept_ite

theorem fixRctl_kept {v : Nat} {t : State} (h_t : Kept r₀ t) : Kept r₀ (fixRctl v t) := by
  unfold fixRctl
  try dsimp only
  repeat' first
    | with_reducible assumption | with_reducible apply rctl_kept | with_reducible apply rhaltPop_kept
    | with_reducible apply kept_ite

theorem fixQFE_kept {off v : Nat} {s t : State} (h_s : Kept r₀ s) (h_t : Kept r₀ t) : Kept r₀ (fixQFE off v s t) := by
  unfold fixQFE
  try dsimp only
  repeat' first
    | with_reducible assumption | with_reducible apply misuse_kept | with_reducible apply fixQueueCtl_kept
    | with_reducible apply fixRctl_kept | with_reducible apply fireArm_kept | with_reducible apply kept_ite | split

theorem fixCORE_kept {off v : Nat} {t : State} (h_t : Kept r₀ t) : Kept r₀ (fixCORE off v t) := by
  unfold fixCORE
  try dsimp only
  repeat' first
    | with_reducible assumption | with_reducible apply storedAs_kept | with_reducible apply inject_kept
    | with_reducible apply kept_ite

theorem fixKvpCtl_kept {v : Nat} {s t : State} (h_s : Kept r₀ s) (h_t : Kept r₀ t) : Kept r₀ (fixKvpCtl v s t) := by
  unfold fixKvpCtl
  try dsimp only
  repeat' first
    | with_reducible assumption | with_reducible apply rsetBits_kept | with_reducible apply kvpEnable_kept
    | with_reducible apply misuse_kept | with_reducible apply rclrBit_kept | with_reducible apply kept_ite

theorem fixKVP_kept {off v : Nat} {s t : State} (h_s : Kept r₀ s) (h_t : Kept r₀ t) : Kept r₀ (fixKVP off v s t) := by
  unfold fixKVP
  try dsimp only
  repeat' first
    | with_reducible assumption | with_reducible apply fixKvpCtl_kept | with_reducible apply showDepthOfPool_kept
    | with_reducible apply storedAs_kept | with_reducible apply clampField_kept | with_reducible apply kept_ite

theorem forgetGroup_kept {d g : Nat} {s : State} (h_s : Kept r₀ s) : Kept r₀ (forgetGroup d g s) := by
  unfold forgetGroup
  try dsimp only
  repeat' first
    | with_reducible assumption | with_reducible apply forgetRange_kept | with_reducible apply kept_foldl
    | with_reducible apply keptP2_foldl | with_reducible apply keptP1_foldl | with_reducible apply keptW_foldl
    | with_reducible apply keptC_foldl | with_reducible apply keptA_foldl | with_reducible apply keptA2_foldl
    | (with_reducible intro _; with_reducible intros; try dsimp only)

theorem fixIlv_kept {d off : Nat} {s t : State} (h_s : Kept r₀ s) (h_t : Kept r₀ t) : Kept r₀ (fixIlv d off s t) := by
  unfold fixIlv
  try dsimp only
  repeat' first
    | with_reducible assumption | with_reducible apply forgetGroup_kept | with_reducible apply kept_foldl
    | with_reducible apply keptP2_foldl | with_reducible apply keptP1_foldl | with_reducible apply keptW_foldl
    | with_reducible apply keptC_foldl | with_reducible apply keptA_foldl | with_reducible apply keptA2_foldl
    | (with_reducible intro _; with_reducible intros; try dsimp only)

theorem fixMemTherm_kept {s t : State} (h_s : Kept r₀ s) (h_t : Kept r₀ t) : Kept r₀ (fixMemTherm s t) := by
  unfold fixMemTherm
  try dsimp only
  repeat' first
    | with_reducible assumption | with_reducible apply rsetBits_kept | with_reducible apply misuse_kept
    | with_reducible apply kept_ite

theorem fixMEM_kept {off : Nat} {s t : State} (h_s : Kept r₀ s) (h_t : Kept r₀ t) : Kept r₀ (fixMEM off s t) := by
  unfold fixMEM
  try dsimp only
  repeat' first
    | with_reducible assumption | with_reducible apply fixIlv_kept | with_reducible apply storedAs_kept
    | with_reducible apply fixMemTherm_kept | with_reducible apply kept_ite

theorem fixSHC_kept {off : Nat} {t : State} (h_t : Kept r₀ t) : Kept r₀ (fixSHC off t) := by
  unfold fixSHC
  try dsimp only
  repeat' first
    | with_reducible assumption | with_reducible apply storedAs_kept | with_reducible apply kept_ite

theorem fixBNK_kept {off v : Nat} {s t : State} (h_s : Kept r₀ s) (h_t : Kept r₀ t) : Kept r₀ (fixBNK off v s t) := by
  unfold fixBNK
  try dsimp only
  repeat' first
    | with_reducible assumption | with_reducible apply rsetBits_kept | with_reducible apply bankHold_kept
    | with_reducible apply bankWake_kept | with_reducible apply kept_ite

theorem fixStrCtl_kept {t : State} (h_t : Kept r₀ t) : Kept r₀ (fixStrCtl t) := by
  unfold fixStrCtl
  try dsimp only
  repeat' first
    | with_reducible assumption | with_reducible apply storedAs_kept | with_reducible apply kept_ite

theorem fixTagcap_kept {t : State} (h_t : Kept r₀ t) : Kept r₀ (fixTagcap t) := by
  unfold fixTagcap
  try dsimp only
  repeat' first
    | with_reducible assumption | with_reducible apply misuse_kept | with_reducible apply rsetBits_kept
    | with_reducible apply kept_ite

theorem fixSTR_kept {off : Nat} {t : State} (h_t : Kept r₀ t) : Kept r₀ (fixSTR off t) := by
  unfold fixSTR
  try dsimp only
  repeat' first
    | with_reducible assumption | with_reducible apply fixStrCtl_kept | with_reducible apply fixTagcap_kept
    | with_reducible apply kept_ite

theorem fixDmaCtl_kept {n v : Nat} {s t : State} (h_s : Kept r₀ s) (h_t : Kept r₀ t) : Kept r₀ (fixDmaCtl n v s t) := by
  unfold fixDmaCtl
  try dsimp only
  repeat' first
    | with_reducible assumption | with_reducible apply rsetBits_kept | with_reducible apply dmaStart_kept
    | with_reducible apply dmaAbort_kept | with_reducible apply kept_ite

theorem fixDMA_kept {off v : Nat} {s t : State} (h_s : Kept r₀ s) (h_t : Kept r₀ t) : Kept r₀ (fixDMA off v s t) := by
  unfold fixDMA
  try dsimp only
  repeat' first
    | with_reducible assumption | with_reducible apply fixDmaCtl_kept | with_reducible apply kept_ite

theorem fixStsCtl_kept {v : Nat} {s t : State} (h_s : Kept r₀ s) (h_t : Kept r₀ t) : Kept r₀ (fixStsCtl v s t) := by
  unfold fixStsCtl
  try dsimp only
  repeat' first
    | with_reducible assumption | with_reducible apply rsetBits_kept | with_reducible apply stsEnable_kept
    | with_reducible apply misuse_kept | with_reducible apply rclrBit_kept | with_reducible apply kept_ite

theorem fixWater_kept {t : State} (h_t : Kept r₀ t) : Kept r₀ (fixWater t) := by
  unfold fixWater
  try dsimp only
  repeat' first
    | with_reducible assumption | with_reducible apply clampField_kept | with_reducible apply storedAs_kept
    | with_reducible apply kept_ite

theorem fixSTS_kept {off v : Nat} {s t : State} (h_s : Kept r₀ s) (h_t : Kept r₀ t) : Kept r₀ (fixSTS off v s t) := by
  unfold fixSTS
  try dsimp only
  repeat' first
    | with_reducible assumption | with_reducible apply fixStsCtl_kept | with_reducible apply fixWater_kept
    | with_reducible apply kept_ite

theorem fixCMP_kept {off : Nat} {t : State} (h_t : Kept r₀ t) : Kept r₀ (fixCMP off t) := by
  unfold fixCMP
  try dsimp only
  repeat' first
    | with_reducible assumption | with_reducible apply storedAs_kept | with_reducible apply kept_ite

theorem within_kept {b off lo hi : Nat} {t : State} (h_t : Kept r₀ t) : Kept r₀ (within b off lo hi t) := by
  unfold within
  try dsimp only
  repeat' first
    | with_reducible assumption | with_reducible apply misuse_kept | with_reducible apply rset_kept
    | with_reducible apply kept_ite

theorem fixLNK_kept {off v : Nat} {s t : State} (h_s : Kept r₀ s) (h_t : Kept r₀ t) : Kept r₀ (fixLNK off v s t) := by
  unfold fixLNK
  try dsimp only
  repeat' first
    | with_reducible assumption | with_reducible apply lnkPortEnWrite_kept | with_reducible apply lnkRetrain_kept
    | with_reducible apply misuse_kept | with_reducible apply storedAs_kept | with_reducible apply within_kept
    | with_reducible apply rset_kept | with_reducible apply kept_ite

theorem fixRLY_kept {off : Nat} {t : State} (h_t : Kept r₀ t) : Kept r₀ (fixRLY off t) := by
  unfold fixRLY
  try dsimp only
  repeat' first
    | with_reducible assumption | with_reducible apply clampField_kept | with_reducible apply storedAs_kept
    | with_reducible apply kept_ite

theorem fixKPR_kept {off : Nat} {t : State} (h_t : Kept r₀ t) : Kept r₀ (fixKPR off t) := by
  unfold fixKPR
  try dsimp only
  repeat' first
    | with_reducible assumption | with_reducible apply within_kept | with_reducible apply misuse_kept
    | with_reducible apply rset_kept | with_reducible apply collectOwn_kept | with_reducible apply kept_ite

theorem fixNstCtl_kept {v : Nat} {t : State} (h_t : Kept r₀ t) : Kept r₀ (fixNstCtl v t) := by
  unfold fixNstCtl
  try dsimp only
  repeat' first
    | with_reducible assumption | with_reducible apply closeInterval_kept | with_reducible apply checkCeilings_kept
    | with_reducible apply commitSvn_kept | with_reducible apply kept_ite

theorem fixNST_kept {off v : Nat} {t : State} (h_t : Kept r₀ t) : Kept r₀ (fixNST off v t) := by
  unfold fixNST
  try dsimp only
  repeat' first
    | with_reducible assumption | with_reducible apply fixNstCtl_kept | with_reducible apply nstMack_kept
    | with_reducible apply kept_ite

theorem fixPwrCtl_kept {t : State} (h_t : Kept r₀ t) : Kept r₀ (fixPwrCtl t) := by
  unfold fixPwrCtl
  try dsimp only
  repeat' first
    | with_reducible assumption | with_reducible apply settlePower_kept | with_reducible apply storedAs_kept
    | with_reducible apply kept_ite

theorem fixTherm_kept {s t : State} (h_s : Kept r₀ s) (h_t : Kept r₀ t) : Kept r₀ (fixTherm s t) := by
  unfold fixTherm
  try dsimp only
  repeat' first
    | with_reducible assumption | with_reducible apply misuse_kept | with_reducible apply clampField_kept
    | with_reducible apply kept_ite

theorem fixPWR_kept {off v : Nat} {s t : State} (h_s : Kept r₀ s) (h_t : Kept r₀ t) : Kept r₀ (fixPWR off v s t) := by
  unfold fixPWR
  try dsimp only
  repeat' first
    | with_reducible assumption | with_reducible apply fixPwrCtl_kept | with_reducible apply fixTherm_kept
    | with_reducible apply rset_kept | with_reducible apply clockTarget_kept | with_reducible apply kept_ite

theorem fixSNP_kept {off v : Nat} {s t : State} (h_s : Kept r₀ s) (h_t : Kept r₀ t) : Kept r₀ (fixSNP off v s t) := by
  unfold fixSNP
  try dsimp only
  repeat' first
    | with_reducible assumption | with_reducible apply bankRelease_kept | with_reducible apply snpTrigWrite_kept
    | with_reducible apply kept_ite

theorem fixWrite_kept {off v : Nat} {s t : State} (h_s : Kept r₀ s) (h_t : Kept r₀ t) : Kept r₀ (fixWrite off v s t) := by
  unfold fixWrite
  try dsimp only
  repeat' first
    | with_reducible assumption | with_reducible apply showWindow_kept | with_reducible apply fixQFE_kept
    | with_reducible apply fixCORE_kept | with_reducible apply fixKVP_kept | with_reducible apply fixSHC_kept
    | with_reducible apply fixMEM_kept | with_reducible apply fixBNK_kept | with_reducible apply fixSTR_kept
    | with_reducible apply fixDMA_kept | with_reducible apply fixSTS_kept | with_reducible apply fixCMP_kept
    | with_reducible apply fixLNK_kept | with_reducible apply fixRLY_kept | with_reducible apply fixKPR_kept
    | with_reducible apply fixNST_kept | with_reducible apply fixPWR_kept | with_reducible apply fixSNP_kept
    | with_reducible apply kept_ite | split

theorem countSetWins_kept {b n : Nat} {s : State} (h_s : Kept r₀ s) : Kept r₀ (countSetWins b n s) := by
  unfold countSetWins
  try dsimp only
  repeat' first
    | with_reducible assumption | with_reducible apply rsetBits_kept | split

theorem writePart_kept {off m v hw : Nat} {s : State} (h_s : Kept r₀ s) : Kept r₀ (writePart off m v hw s) := by
  unfold writePart
  try dsimp only
  repeat' first
    | with_reducible assumption | with_reducible apply misuse_kept | with_reducible apply countSetWins_kept
    | with_reducible apply fixWrite_kept | with_reducible apply storeReg_kept | with_reducible apply kept_ite | split

theorem runParts_kept : ∀ (n0 : List (Nat × Nat × Nat × Nat)) {n1 : State}, Kept r₀ n1 → Kept r₀ (runParts n0 n1).1 := by
  intro n0
  induction n0 with
  | nil => intro n1 h; exact h
  | cons x l ih =>
    obtain ⟨x0, x1, x2, x3⟩ := x
    intro n1 h
    unfold runParts
    try dsimp only
    repeat' first
      | with_reducible assumption | with_reducible apply writePart_kept | with_reducible apply ih

theorem runParts_kept_eq {n0 : List (Nat × Nat × Nat × Nat)} {n1 : State} {y0 : State} {y1 : Bool} (he : runParts n0 n1 = (y0, y1)) (h_n1 : Kept r₀ n1) : Kept r₀ y0 := by
  have w : Kept r₀ (runParts n0 n1).1 := runParts_kept n0 h_n1
  rw [he] at w
  exact w

theorem wakeBlock_kept {off : Nat} {s : State} (h_s : Kept r₀ s) : Kept r₀ (wakeBlock off s) := by
  unfold wakeBlock
  try dsimp only
  repeat' first
    | with_reducible assumption | with_reducible apply setDomain_kept | with_reducible apply kept_ite
    | with_reducible apply kept_foldl | with_reducible apply keptP2_foldl | with_reducible apply keptP1_foldl
    | with_reducible apply keptW_foldl | with_reducible apply keptC_foldl | with_reducible apply keptA_foldl
    | with_reducible apply keptA2_foldl | (with_reducible intro _; with_reducible intros; try dsimp only)

theorem regWrite_kept {off width v hw : Nat} {s : State} (h_s : Kept r₀ s) : Kept r₀ (regWrite off width v hw s) := by
  unfold regWrite
  try dsimp only
  repeat' first
    | with_reducible assumption | with_reducible apply misuse_kept | with_reducible apply wakeBlock_kept
    | with_reducible apply countLocked_kept | with_reducible apply runParts_kept | with_reducible apply kept_ite

theorem lockSet_kept {b : Nat} {s : State} (h_s : Kept r₀ s) : Kept r₀ (lockSet b s) := by
  unfold lockSet
  try dsimp only
  repeat' first
    | with_reducible assumption | with_reducible apply regWrite_kept | split

end Sys2Proof.Machine
end

