-- ==== Sys2Proof/Laws/KeptLanding.lean ====
section
/-! SUPPORT. Every operation of Machine/Landing.lean keeps what `Kept` names. -/

namespace Sys2Proof.Machine

open Sys2Proof

variable {r₀ : State}

theorem readDone_kept {a : Nat} {l : Landing} {s : State} (h_s : Kept r₀ s) : Kept r₀ (readDone a l s).1 := by
  unfold readDone
  try dsimp only
  repeat' first
    | with_reducible assumption | with_reducible apply dramRead_kept | refine dramRead_kept_eq ‹_› ?_ | split

theorem readDone_kept_eq {a : Nat} {l : Landing} {s : State} {y0 : State} {y1 : Bool} (he : readDone a l s = (y0, y1)) (h_s : Kept r₀ s) : Kept r₀ y0 := by
  have w : Kept r₀ (readDone a l s).1 := readDone_kept h_s
  rw [he] at w
  exact w

theorem landStream_kept {h : Nat} {y : Transfer} {b : Bytes} {bad : List (Nat × Nat)} {s : State} (h_s : Kept r₀ s) : Kept r₀ (landStream h y b bad s) := by
  unfold landStream
  try dsimp only
  repeat' first
    | with_reducible assumption | with_reducible apply releaseTag_kept | with_reducible apply bumpFree_kept
    | with_reducible apply setStreamx_kept | with_reducible apply advance_kept | with_reducible apply settleFrames_kept
    | with_reducible apply showStreams_kept

theorem fetchError_kept {h : Nat} {y : Transfer} {s : State} (h_s : Kept r₀ s) : Kept r₀ (fetchError h y s) := by
  unfold fetchError
  try dsimp only
  repeat' first
    | with_reducible assumption | with_reducible apply fetchLost_kept | with_reducible apply repeatTransfer_kept
    | with_reducible apply kept_ite | refine repeatTransfer_kept ?_ _ ‹_› | split

theorem chanRead_kept {a n : Nat} {s : State} (h_s : Kept r₀ s) : Kept r₀ (chanRead a n s).2 := by
  unfold chanRead
  try dsimp only
  repeat' first
    | with_reducible assumption | with_reducible apply readWords_kept | with_reducible apply kept_ite
    | refine readWords_kept_eq ‹_› ?_ | split

theorem chanRead_kept_eq {a n : Nat} {s : State} {y0 : Bytes} {y1 : State} (he : chanRead a n s = (y0, y1)) (h_s : Kept r₀ s) : Kept r₀ y1 := by
  have w : Kept r₀ (chanRead a n s).2 := chanRead_kept h_s
  rw [he] at w
  exact w

theorem writeWords_kept : ∀ (n1 : List Nat) {n0 : Nat} {n2 : State}, Kept r₀ n2 → Kept r₀ (writeWords n0 n1 n2) := by
  intro n1
  induction n1 with
  | nil => intro n0 n2 h; exact h
  | cons x l ih =>
    intro n0 n2 h
    unfold writeWords
    try dsimp only
    repeat' first
      | with_reducible assumption | with_reducible apply regWrite_kept | with_reducible apply ih

theorem chanWrite_kept {a : Nat} {b : Bytes} {bad : Bool} {s : State} (h_s : Kept r₀ s) : Kept r₀ (chanWrite a b bad s).s := by
  unfold chanWrite
  try dsimp only
  repeat' first
    | with_reducible assumption | with_reducible apply writeWords_kept | with_reducible apply writeMem_kept
    | with_reducible apply kept_ite | with_reducible apply keptW_ite

theorem drainPiece_kept {n : Nat} {s : State} {p : Nat × Nat} (h_s : Kept r₀ s) : Kept r₀ (drainPiece n s p) := by
  unfold drainPiece
  try dsimp only
  repeat' first
    | with_reducible assumption | with_reducible apply writeParts_kept | with_reducible apply chanWrite_kept
    | with_reducible apply setChanx_kept | with_reducible apply kept_ite | with_reducible apply kept_foldl
    | with_reducible apply keptP2_foldl | with_reducible apply keptP1_foldl | with_reducible apply keptW_foldl
    | with_reducible apply keptC_foldl | with_reducible apply keptA_foldl | with_reducible apply keptA2_foldl | split

theorem landCopy_kept {h n : Nat} {y : Transfer} {b : Bytes} {bad : Nat → Bool} {s : State} (h_s : Kept r₀ s) : Kept r₀ (landCopy h n y b bad s) := by
  unfold landCopy
  try dsimp only
  repeat' first
    | with_reducible assumption | with_reducible apply setChanx_kept | with_reducible apply releaseTag_kept
    | with_reducible apply chanSettle_kept | with_reducible apply drainPiece_kept | with_reducible apply kept_foldl

theorem copyLanded_kept {h n : Nat} {y : Transfer} {l : Landing} {b : Bytes} {bad : Nat → Bool} {s : State} (h_s : Kept r₀ s) : Kept r₀ (copyLanded h n y l b bad s) := by
  unfold copyLanded
  try dsimp only
  repeat' first
    | with_reducible assumption | with_reducible apply landCopy_kept | with_reducible apply dramWrite_kept
    | with_reducible apply kept_ite | refine dramWrite_kept_eq ‹_› ?_ | split

theorem dataLanded_kept {h : Nat} {y : Transfer} {l : Landing} {s : State} (h_s : Kept r₀ s) : Kept r₀ (dataLanded h y l s) := by
  unfold dataLanded
  try dsimp only
  repeat' first
    | with_reducible assumption | with_reducible apply touchRead_kept | with_reducible apply landStream_kept
    | with_reducible apply copyLanded_kept | with_reducible apply readDone_kept | with_reducible apply chanRead_kept
    | with_reducible apply kept_ite

theorem transferLanded_kept {h t : Nat} {l : Landing} {s : State} (h_s : Kept r₀ s) : Kept r₀ (transferLanded h t l s) := by
  unfold transferLanded
  try dsimp only
  repeat' first
    | with_reducible assumption | with_reducible apply fetchError_kept | with_reducible apply dataLanded_kept
    | with_reducible apply kept_ite | split

theorem readRespIn_kept {p : Nat} {m : Msg} {s : State} (h_s : Kept r₀ s) : Kept r₀ (readRespIn p m s) := by
  unfold readRespIn
  try dsimp only
  repeat' first
    | with_reducible assumption | with_reducible apply landStream_kept | with_reducible apply copyLanded_kept
    | with_reducible apply ARun.reads_kept | with_reducible apply takeMsg_kept | with_reducible apply kept_ite
    | refine takeMsg_kept ?_ _ ‹_› | split | fail_if_no_progress with_reducible apply kept_lit

end Sys2Proof.Machine
end

