-- ==== Sys2Proof/Laws/State.lean ====
section
/-! SUPPORT. The fields of the state after each plain update of it, one lemma per field, so that no proof unfolds an
update. -/

namespace Sys2Proof.Machine

variable (s : State)

@[simp] theorem rset_regs (off v : Nat) : (rset off v s).regs = AL.set (resetOf off) off v s.regs := rfl
@[simp] theorem rset_latches (off v : Nat) : (rset off v s).latches = s.latches := rfl
@[simp] theorem rset_mem (off v : Nat) : (rset off v s).mem = s.mem := rfl
@[simp] theorem rset_poison (off v : Nat) : (rset off v s).poison = s.poison := rfl
@[simp] theorem rset_undef (off v : Nat) : (rset off v s).undef = s.undef := rfl
@[simp] theorem rset_markers (off v : Nat) : (rset off v s).markers = s.markers := rfl
@[simp] theorem rset_queues (off v : Nat) : (rset off v s).queues = s.queues := rfl
@[simp] theorem rset_started (off v : Nat) : (rset off v s).started = s.started := rfl
@[simp] theorem rset_nextCmd (off v : Nat) : (rset off v s).nextCmd = s.nextCmd := rfl
@[simp] theorem rset_rhalts (off v : Nat) : (rset off v s).rhalts = s.rhalts := rfl
@[simp] theorem rset_fwds (off v : Nat) : (rset off v s).fwds = s.fwds := rfl
@[simp] theorem rset_cores (off v : Nat) : (rset off v s).cores = s.cores := rfl
@[simp] theorem rset_injects (off v : Nat) : (rset off v s).injects = s.injects := rfl
@[simp] theorem rset_kvp (off v : Nat) : (rset off v s).kvp = s.kvp := rfl
@[simp] theorem rset_acc (off v : Nat) : (rset off v s).acc = s.acc := rfl
@[simp] theorem rset_touched (off v : Nat) : (rset off v s).touched = s.touched := rfl
@[simp] theorem rset_bank (off v : Nat) : (rset off v s).bank = s.bank := rfl
@[simp] theorem rset_streams (off v : Nat) : (rset off v s).streams = s.streams := rfl
@[simp] theorem rset_halves (off v : Nat) : (rset off v s).halves = s.halves := rfl
@[simp] theorem rset_chans (off v : Nat) : (rset off v s).chans = s.chans := rfl
@[simp] theorem rset_stash (off v : Nat) : (rset off v s).stash = s.stash := rfl
@[simp] theorem rset_stashD (off v : Nat) : (rset off v s).stashD = s.stashD := rfl
@[simp] theorem rset_comps (off v : Nat) : (rset off v s).comps = s.comps := rfl
@[simp] theorem rset_ports (off v : Nat) : (rset off v s).ports = s.ports := rfl
@[simp] theorem rset_reads (off v : Nat) : (rset off v s).reads = s.reads := rfl
@[simp] theorem rset_notices (off v : Nat) : (rset off v s).notices = s.notices := rfl
@[simp] theorem rset_redWait (off v : Nat) : (rset off v s).redWait = s.redWait := rfl
@[simp] theorem rset_admitted (off v : Nat) : (rset off v s).admitted = s.admitted := rfl
@[simp] theorem rset_relay (off v : Nat) : (rset off v s).relay = s.relay := rfl
@[simp] theorem rset_keeper (off v : Nat) : (rset off v s).keeper = s.keeper := rfl
@[simp] theorem rset_images (off v : Nat) : (rset off v s).images = s.images := rfl
@[simp] theorem rset_codecs (off v : Nat) : (rset off v s).codecs = s.codecs := rfl
@[simp] theorem rset_power (off v : Nat) : (rset off v s).power = s.power := rfl
@[simp] theorem rset_naust (off v : Nat) : (rset off v s).naust = s.naust := rfl
@[simp] theorem rset_snap (off v : Nat) : (rset off v s).snap = s.snap := rfl
@[simp] theorem rset_boot (off v : Nat) : (rset off v s).boot = s.boot := rfl
@[simp] theorem rset_pcie (off v : Nat) : (rset off v s).pcie = s.pcie := rfl
@[simp] theorem rset_mgmt (off v : Nat) : (rset off v s).mgmt = s.mgmt := rfl
@[simp] theorem rset_out (off v : Nat) : (rset off v s).out = s.out := rfl
@[simp] theorem rset_freeCtr (off v : Nat) : (rset off v s).freeCtr = s.freeCtr := rfl
@[simp] theorem rset_pending (off v : Nat) : (rset off v s).pending = s.pending := rfl

@[simp] theorem rsetBits_regs (off hi lo x : Nat) : (rsetBits off hi lo x s).regs = AL.set (resetOf off) off (setBits (rget off s) hi lo x) s.regs := rfl
@[simp] theorem rsetBits_latches (off hi lo x : Nat) : (rsetBits off hi lo x s).latches = s.latches := rfl
@[simp] theorem rsetBits_mem (off hi lo x : Nat) : (rsetBits off hi lo x s).mem = s.mem := rfl
@[simp] theorem rsetBits_poison (off hi lo x : Nat) : (rsetBits off hi lo x s).poison = s.poison := rfl
@[simp] theorem rsetBits_undef (off hi lo x : Nat) : (rsetBits off hi lo x s).undef = s.undef := rfl
@[simp] theorem rsetBits_markers (off hi lo x : Nat) : (rsetBits off hi lo x s).markers = s.markers := rfl
@[simp] theorem rsetBits_queues (off hi lo x : Nat) : (rsetBits off hi lo x s).queues = s.queues := rfl
@[simp] theorem rsetBits_started (off hi lo x : Nat) : (rsetBits off hi lo x s).started = s.started := rfl
@[simp] theorem rsetBits_nextCmd (off hi lo x : Nat) : (rsetBits off hi lo x s).nextCmd = s.nextCmd := rfl
@[simp] theorem rsetBits_rhalts (off hi lo x : Nat) : (rsetBits off hi lo x s).rhalts = s.rhalts := rfl
@[simp] theorem rsetBits_fwds (off hi lo x : Nat) : (rsetBits off hi lo x s).fwds = s.fwds := rfl
@[simp] theorem rsetBits_cores (off hi lo x : Nat) : (rsetBits off hi lo x s).cores = s.cores := rfl
@[simp] theorem rsetBits_injects (off hi lo x : Nat) : (rsetBits off hi lo x s).injects = s.injects := rfl
@[simp] theorem rsetBits_kvp (off hi lo x : Nat) : (rsetBits off hi lo x s).kvp = s.kvp := rfl
@[simp] theorem rsetBits_acc (off hi lo x : Nat) : (rsetBits off hi lo x s).acc = s.acc := rfl
@[simp] theorem rsetBits_touched (off hi lo x : Nat) : (rsetBits off hi lo x s).touched = s.touched := rfl
@[simp] theorem rsetBits_bank (off hi lo x : Nat) : (rsetBits off hi lo x s).bank = s.bank := rfl
@[simp] theorem rsetBits_streams (off hi lo x : Nat) : (rsetBits off hi lo x s).streams = s.streams := rfl
@[simp] theorem rsetBits_halves (off hi lo x : Nat) : (rsetBits off hi lo x s).halves = s.halves := rfl
@[simp] theorem rsetBits_chans (off hi lo x : Nat) : (rsetBits off hi lo x s).chans = s.chans := rfl
@[simp] theorem rsetBits_stash (off hi lo x : Nat) : (rsetBits off hi lo x s).stash = s.stash := rfl
@[simp] theorem rsetBits_stashD (off hi lo x : Nat) : (rsetBits off hi lo x s).stashD = s.stashD := rfl
@[simp] theorem rsetBits_comps (off hi lo x : Nat) : (rsetBits off hi lo x s).comps = s.comps := rfl
@[simp] theorem rsetBits_ports (off hi lo x : Nat) : (rsetBits off hi lo x s).ports = s.ports := rfl
@[simp] theorem rsetBits_reads (off hi lo x : Nat) : (rsetBits off hi lo x s).reads = s.reads := rfl
@[simp] theorem rsetBits_notices (off hi lo x : Nat) : (rsetBits off hi lo x s).notices = s.notices := rfl
@[simp] theorem rsetBits_redWait (off hi lo x : Nat) : (rsetBits off hi lo x s).redWait = s.redWait := rfl
@[simp] theorem rsetBits_admitted (off hi lo x : Nat) : (rsetBits off hi lo x s).admitted = s.admitted := rfl
@[simp] theorem rsetBits_relay (off hi lo x : Nat) : (rsetBits off hi lo x s).relay = s.relay := rfl
@[simp] theorem rsetBits_keeper (off hi lo x : Nat) : (rsetBits off hi lo x s).keeper = s.keeper := rfl
@[simp] theorem rsetBits_images (off hi lo x : Nat) : (rsetBits off hi lo x s).images = s.images := rfl
@[simp] theorem rsetBits_codecs (off hi lo x : Nat) : (rsetBits off hi lo x s).codecs = s.codecs := rfl
@[simp] theorem rsetBits_power (off hi lo x : Nat) : (rsetBits off hi lo x s).power = s.power := rfl
@[simp] theorem rsetBits_naust (off hi lo x : Nat) : (rsetBits off hi lo x s).naust = s.naust := rfl
@[simp] theorem rsetBits_snap (off hi lo x : Nat) : (rsetBits off hi lo x s).snap = s.snap := rfl
@[simp] theorem rsetBits_boot (off hi lo x : Nat) : (rsetBits off hi lo x s).boot = s.boot := rfl
@[simp] theorem rsetBits_pcie (off hi lo x : Nat) : (rsetBits off hi lo x s).pcie = s.pcie := rfl
@[simp] theorem rsetBits_mgmt (off hi lo x : Nat) : (rsetBits off hi lo x s).mgmt = s.mgmt := rfl
@[simp] theorem rsetBits_out (off hi lo x : Nat) : (rsetBits off hi lo x s).out = s.out := rfl
@[simp] theorem rsetBits_freeCtr (off hi lo x : Nat) : (rsetBits off hi lo x s).freeCtr = s.freeCtr := rfl
@[simp] theorem rsetBits_pending (off hi lo x : Nat) : (rsetBits off hi lo x s).pending = s.pending := rfl

@[simp] theorem rsetBit_regs (off i : Nat) : (rsetBit off i s).regs = AL.set (resetOf off) off (rget off s ||| (1 <<< i)) s.regs := rfl
@[simp] theorem rsetBit_latches (off i : Nat) : (rsetBit off i s).latches = s.latches := rfl
@[simp] theorem rsetBit_mem (off i : Nat) : (rsetBit off i s).mem = s.mem := rfl
@[simp] theorem rsetBit_poison (off i : Nat) : (rsetBit off i s).poison = s.poison := rfl
@[simp] theorem rsetBit_undef (off i : Nat) : (rsetBit off i s).undef = s.undef := rfl
@[simp] theorem rsetBit_markers (off i : Nat) : (rsetBit off i s).markers = s.markers := rfl
@[simp] theorem rsetBit_queues (off i : Nat) : (rsetBit off i s).queues = s.queues := rfl
@[simp] theorem rsetBit_started (off i : Nat) : (rsetBit off i s).started = s.started := rfl
@[simp] theorem rsetBit_nextCmd (off i : Nat) : (rsetBit off i s).nextCmd = s.nextCmd := rfl
@[simp] theorem rsetBit_rhalts (off i : Nat) : (rsetBit off i s).rhalts = s.rhalts := rfl
@[simp] theorem rsetBit_fwds (off i : Nat) : (rsetBit off i s).fwds = s.fwds := rfl
@[simp] theorem rsetBit_cores (off i : Nat) : (rsetBit off i s).cores = s.cores := rfl
@[simp] theorem rsetBit_injects (off i : Nat) : (rsetBit off i s).injects = s.injects := rfl
@[simp] theorem rsetBit_kvp (off i : Nat) : (rsetBit off i s).kvp = s.kvp := rfl
@[simp] theorem rsetBit_acc (off i : Nat) : (rsetBit off i s).acc = s.acc := rfl
@[simp] theorem rsetBit_touched (off i : Nat) : (rsetBit off i s).touched = s.touched := rfl
@[simp] theorem rsetBit_bank (off i : Nat) : (rsetBit off i s).bank = s.bank := rfl
@[simp] theorem rsetBit_streams (off i : Nat) : (rsetBit off i s).streams = s.streams := rfl
@[simp] theorem rsetBit_halves (off i : Nat) : (rsetBit off i s).halves = s.halves := rfl
@[simp] theorem rsetBit_chans (off i : Nat) : (rsetBit off i s).chans = s.chans := rfl
@[simp] theorem rsetBit_stash (off i : Nat) : (rsetBit off i s).stash = s.stash := rfl
@[simp] theorem rsetBit_stashD (off i : Nat) : (rsetBit off i s).stashD = s.stashD := rfl
@[simp] theorem rsetBit_comps (off i : Nat) : (rsetBit off i s).comps = s.comps := rfl
@[simp] theorem rsetBit_ports (off i : Nat) : (rsetBit off i s).ports = s.ports := rfl
@[simp] theorem rsetBit_reads (off i : Nat) : (rsetBit off i s).reads = s.reads := rfl
@[simp] theorem rsetBit_notices (off i : Nat) : (rsetBit off i s).notices = s.notices := rfl
@[simp] theorem rsetBit_redWait (off i : Nat) : (rsetBit off i s).redWait = s.redWait := rfl
@[simp] theorem rsetBit_admitted (off i : Nat) : (rsetBit off i s).admitted = s.admitted := rfl
@[simp] theorem rsetBit_relay (off i : Nat) : (rsetBit off i s).relay = s.relay := rfl
@[simp] theorem rsetBit_keeper (off i : Nat) : (rsetBit off i s).keeper = s.keeper := rfl
@[simp] theorem rsetBit_images (off i : Nat) : (rsetBit off i s).images = s.images := rfl
@[simp] theorem rsetBit_codecs (off i : Nat) : (rsetBit off i s).codecs = s.codecs := rfl
@[simp] theorem rsetBit_power (off i : Nat) : (rsetBit off i s).power = s.power := rfl
@[simp] theorem rsetBit_naust (off i : Nat) : (rsetBit off i s).naust = s.naust := rfl
@[simp] theorem rsetBit_snap (off i : Nat) : (rsetBit off i s).snap = s.snap := rfl
@[simp] theorem rsetBit_boot (off i : Nat) : (rsetBit off i s).boot = s.boot := rfl
@[simp] theorem rsetBit_pcie (off i : Nat) : (rsetBit off i s).pcie = s.pcie := rfl
@[simp] theorem rsetBit_mgmt (off i : Nat) : (rsetBit off i s).mgmt = s.mgmt := rfl
@[simp] theorem rsetBit_out (off i : Nat) : (rsetBit off i s).out = s.out := rfl
@[simp] theorem rsetBit_freeCtr (off i : Nat) : (rsetBit off i s).freeCtr = s.freeCtr := rfl
@[simp] theorem rsetBit_pending (off i : Nat) : (rsetBit off i s).pending = s.pending := rfl

@[simp] theorem rclrBit_regs (off i : Nat) : (rclrBit off i s).regs = AL.set (resetOf off) off (setBits (rget off s) i i 0) s.regs := rfl
@[simp] theorem rclrBit_latches (off i : Nat) : (rclrBit off i s).latches = s.latches := rfl
@[simp] theorem rclrBit_mem (off i : Nat) : (rclrBit off i s).mem = s.mem := rfl
@[simp] theorem rclrBit_poison (off i : Nat) : (rclrBit off i s).poison = s.poison := rfl
@[simp] theorem rclrBit_undef (off i : Nat) : (rclrBit off i s).undef = s.undef := rfl
@[simp] theorem rclrBit_markers (off i : Nat) : (rclrBit off i s).markers = s.markers := rfl
@[simp] theorem rclrBit_queues (off i : Nat) : (rclrBit off i s).queues = s.queues := rfl
@[simp] theorem rclrBit_started (off i : Nat) : (rclrBit off i s).started = s.started := rfl
@[simp] theorem rclrBit_nextCmd (off i : Nat) : (rclrBit off i s).nextCmd = s.nextCmd := rfl
@[simp] theorem rclrBit_rhalts (off i : Nat) : (rclrBit off i s).rhalts = s.rhalts := rfl
@[simp] theorem rclrBit_fwds (off i : Nat) : (rclrBit off i s).fwds = s.fwds := rfl
@[simp] theorem rclrBit_cores (off i : Nat) : (rclrBit off i s).cores = s.cores := rfl
@[simp] theorem rclrBit_injects (off i : Nat) : (rclrBit off i s).injects = s.injects := rfl
@[simp] theorem rclrBit_kvp (off i : Nat) : (rclrBit off i s).kvp = s.kvp := rfl
@[simp] theorem rclrBit_acc (off i : Nat) : (rclrBit off i s).acc = s.acc := rfl
@[simp] theorem rclrBit_touched (off i : Nat) : (rclrBit off i s).touched = s.touched := rfl
@[simp] theorem rclrBit_bank (off i : Nat) : (rclrBit off i s).bank = s.bank := rfl
@[simp] theorem rclrBit_streams (off i : Nat) : (rclrBit off i s).streams = s.streams := rfl
@[simp] theorem rclrBit_halves (off i : Nat) : (rclrBit off i s).halves = s.halves := rfl
@[simp] theorem rclrBit_chans (off i : Nat) : (rclrBit off i s).chans = s.chans := rfl
@[simp] theorem rclrBit_stash (off i : Nat) : (rclrBit off i s).stash = s.stash := rfl
@[simp] theorem rclrBit_stashD (off i : Nat) : (rclrBit off i s).stashD = s.stashD := rfl
@[simp] theorem rclrBit_comps (off i : Nat) : (rclrBit off i s).comps = s.comps := rfl
@[simp] theorem rclrBit_ports (off i : Nat) : (rclrBit off i s).ports = s.ports := rfl
@[simp] theorem rclrBit_reads (off i : Nat) : (rclrBit off i s).reads = s.reads := rfl
@[simp] theorem rclrBit_notices (off i : Nat) : (rclrBit off i s).notices = s.notices := rfl
@[simp] theorem rclrBit_redWait (off i : Nat) : (rclrBit off i s).redWait = s.redWait := rfl
@[simp] theorem rclrBit_admitted (off i : Nat) : (rclrBit off i s).admitted = s.admitted := rfl
@[simp] theorem rclrBit_relay (off i : Nat) : (rclrBit off i s).relay = s.relay := rfl
@[simp] theorem rclrBit_keeper (off i : Nat) : (rclrBit off i s).keeper = s.keeper := rfl
@[simp] theorem rclrBit_images (off i : Nat) : (rclrBit off i s).images = s.images := rfl
@[simp] theorem rclrBit_codecs (off i : Nat) : (rclrBit off i s).codecs = s.codecs := rfl
@[simp] theorem rclrBit_power (off i : Nat) : (rclrBit off i s).power = s.power := rfl
@[simp] theorem rclrBit_naust (off i : Nat) : (rclrBit off i s).naust = s.naust := rfl
@[simp] theorem rclrBit_snap (off i : Nat) : (rclrBit off i s).snap = s.snap := rfl
@[simp] theorem rclrBit_boot (off i : Nat) : (rclrBit off i s).boot = s.boot := rfl
@[simp] theorem rclrBit_pcie (off i : Nat) : (rclrBit off i s).pcie = s.pcie := rfl
@[simp] theorem rclrBit_mgmt (off i : Nat) : (rclrBit off i s).mgmt = s.mgmt := rfl
@[simp] theorem rclrBit_out (off i : Nat) : (rclrBit off i s).out = s.out := rfl
@[simp] theorem rclrBit_freeCtr (off i : Nat) : (rclrBit off i s).freeCtr = s.freeCtr := rfl
@[simp] theorem rclrBit_pending (off i : Nat) : (rclrBit off i s).pending = s.pending := rfl

@[simp] theorem rcountBy_regs (off n : Nat) : (rcountBy off n s).regs = AL.set (resetOf off) off ((rget off s + n) % 2 ^ 32) s.regs := rfl
@[simp] theorem rcountBy_latches (off n : Nat) : (rcountBy off n s).latches = s.latches := rfl
@[simp] theorem rcountBy_mem (off n : Nat) : (rcountBy off n s).mem = s.mem := rfl
@[simp] theorem rcountBy_poison (off n : Nat) : (rcountBy off n s).poison = s.poison := rfl
@[simp] theorem rcountBy_undef (off n : Nat) : (rcountBy off n s).undef = s.undef := rfl
@[simp] theorem rcountBy_markers (off n : Nat) : (rcountBy off n s).markers = s.markers := rfl
@[simp] theorem rcountBy_queues (off n : Nat) : (rcountBy off n s).queues = s.queues := rfl
@[simp] theorem rcountBy_started (off n : Nat) : (rcountBy off n s).started = s.started := rfl
@[simp] theorem rcountBy_nextCmd (off n : Nat) : (rcountBy off n s).nextCmd = s.nextCmd := rfl
@[simp] theorem rcountBy_rhalts (off n : Nat) : (rcountBy off n s).rhalts = s.rhalts := rfl
@[simp] theorem rcountBy_fwds (off n : Nat) : (rcountBy off n s).fwds = s.fwds := rfl
@[simp] theorem rcountBy_cores (off n : Nat) : (rcountBy off n s).cores = s.cores := rfl
@[simp] theorem rcountBy_injects (off n : Nat) : (rcountBy off n s).injects = s.injects := rfl
@[simp] theorem rcountBy_kvp (off n : Nat) : (rcountBy off n s).kvp = s.kvp := rfl
@[simp] theorem rcountBy_acc (off n : Nat) : (rcountBy off n s).acc = s.acc := rfl
@[simp] theorem rcountBy_touched (off n : Nat) : (rcountBy off n s).touched = s.touched := rfl
@[simp] theorem rcountBy_bank (off n : Nat) : (rcountBy off n s).bank = s.bank := rfl
@[simp] theorem rcountBy_streams (off n : Nat) : (rcountBy off n s).streams = s.streams := rfl
@[simp] theorem rcountBy_halves (off n : Nat) : (rcountBy off n s).halves = s.halves := rfl
@[simp] theorem rcountBy_chans (off n : Nat) : (rcountBy off n s).chans = s.chans := rfl
@[simp] theorem rcountBy_stash (off n : Nat) : (rcountBy off n s).stash = s.stash := rfl
@[simp] theorem rcountBy_stashD (off n : Nat) : (rcountBy off n s).stashD = s.stashD := rfl
@[simp] theorem rcountBy_comps (off n : Nat) : (rcountBy off n s).comps = s.comps := rfl
@[simp] theorem rcountBy_ports (off n : Nat) : (rcountBy off n s).ports = s.ports := rfl
@[simp] theorem rcountBy_reads (off n : Nat) : (rcountBy off n s).reads = s.reads := rfl
@[simp] theorem rcountBy_notices (off n : Nat) : (rcountBy off n s).notices = s.notices := rfl
@[simp] theorem rcountBy_redWait (off n : Nat) : (rcountBy off n s).redWait = s.redWait := rfl
@[simp] theorem rcountBy_admitted (off n : Nat) : (rcountBy off n s).admitted = s.admitted := rfl
@[simp] theorem rcountBy_relay (off n : Nat) : (rcountBy off n s).relay = s.relay := rfl
@[simp] theorem rcountBy_keeper (off n : Nat) : (rcountBy off n s).keeper = s.keeper := rfl
@[simp] theorem rcountBy_images (off n : Nat) : (rcountBy off n s).images = s.images := rfl
@[simp] theorem rcountBy_codecs (off n : Nat) : (rcountBy off n s).codecs = s.codecs := rfl
@[simp] theorem rcountBy_power (off n : Nat) : (rcountBy off n s).power = s.power := rfl
@[simp] theorem rcountBy_naust (off n : Nat) : (rcountBy off n s).naust = s.naust := rfl
@[simp] theorem rcountBy_snap (off n : Nat) : (rcountBy off n s).snap = s.snap := rfl
@[simp] theorem rcountBy_boot (off n : Nat) : (rcountBy off n s).boot = s.boot := rfl
@[simp] theorem rcountBy_pcie (off n : Nat) : (rcountBy off n s).pcie = s.pcie := rfl
@[simp] theorem rcountBy_mgmt (off n : Nat) : (rcountBy off n s).mgmt = s.mgmt := rfl
@[simp] theorem rcountBy_out (off n : Nat) : (rcountBy off n s).out = s.out := rfl
@[simp] theorem rcountBy_freeCtr (off n : Nat) : (rcountBy off n s).freeCtr = s.freeCtr := rfl
@[simp] theorem rcountBy_pending (off n : Nat) : (rcountBy off n s).pending = s.pending := rfl

@[simp] theorem rcount_regs (off : Nat) : (rcount off s).regs = AL.set (resetOf off) off ((rget off s + 1) % 2 ^ 32) s.regs := rfl
@[simp] theorem rcount_latches (off : Nat) : (rcount off s).latches = s.latches := rfl
@[simp] theorem rcount_mem (off : Nat) : (rcount off s).mem = s.mem := rfl
@[simp] theorem rcount_poison (off : Nat) : (rcount off s).poison = s.poison := rfl
@[simp] theorem rcount_undef (off : Nat) : (rcount off s).undef = s.undef := rfl
@[simp] theorem rcount_markers (off : Nat) : (rcount off s).markers = s.markers := rfl
@[simp] theorem rcount_queues (off : Nat) : (rcount off s).queues = s.queues := rfl
@[simp] theorem rcount_started (off : Nat) : (rcount off s).started = s.started := rfl
@[simp] theorem rcount_nextCmd (off : Nat) : (rcount off s).nextCmd = s.nextCmd := rfl
@[simp] theorem rcount_rhalts (off : Nat) : (rcount off s).rhalts = s.rhalts := rfl
@[simp] theorem rcount_fwds (off : Nat) : (rcount off s).fwds = s.fwds := rfl
@[simp] theorem rcount_cores (off : Nat) : (rcount off s).cores = s.cores := rfl
@[simp] theorem rcount_injects (off : Nat) : (rcount off s).injects = s.injects := rfl
@[simp] theorem rcount_kvp (off : Nat) : (rcount off s).kvp = s.kvp := rfl
@[simp] theorem rcount_acc (off : Nat) : (rcount off s).acc = s.acc := rfl
@[simp] theorem rcount_touched (off : Nat) : (rcount off s).touched = s.touched := rfl
@[simp] theorem rcount_bank (off : Nat) : (rcount off s).bank = s.bank := rfl
@[simp] theorem rcount_streams (off : Nat) : (rcount off s).streams = s.streams := rfl
@[simp] theorem rcount_halves (off : Nat) : (rcount off s).halves = s.halves := rfl
@[simp] theorem rcount_chans (off : Nat) : (rcount off s).chans = s.chans := rfl
@[simp] theorem rcount_stash (off : Nat) : (rcount off s).stash = s.stash := rfl
@[simp] theorem rcount_stashD (off : Nat) : (rcount off s).stashD = s.stashD := rfl
@[simp] theorem rcount_comps (off : Nat) : (rcount off s).comps = s.comps := rfl
@[simp] theorem rcount_ports (off : Nat) : (rcount off s).ports = s.ports := rfl
@[simp] theorem rcount_reads (off : Nat) : (rcount off s).reads = s.reads := rfl
@[simp] theorem rcount_notices (off : Nat) : (rcount off s).notices = s.notices := rfl
@[simp] theorem rcount_redWait (off : Nat) : (rcount off s).redWait = s.redWait := rfl
@[simp] theorem rcount_admitted (off : Nat) : (rcount off s).admitted = s.admitted := rfl
@[simp] theorem rcount_relay (off : Nat) : (rcount off s).relay = s.relay := rfl
@[simp] theorem rcount_keeper (off : Nat) : (rcount off s).keeper = s.keeper := rfl
@[simp] theorem rcount_images (off : Nat) : (rcount off s).images = s.images := rfl
@[simp] theorem rcount_codecs (off : Nat) : (rcount off s).codecs = s.codecs := rfl
@[simp] theorem rcount_power (off : Nat) : (rcount off s).power = s.power := rfl
@[simp] theorem rcount_naust (off : Nat) : (rcount off s).naust = s.naust := rfl
@[simp] theorem rcount_snap (off : Nat) : (rcount off s).snap = s.snap := rfl
@[simp] theorem rcount_boot (off : Nat) : (rcount off s).boot = s.boot := rfl
@[simp] theorem rcount_pcie (off : Nat) : (rcount off s).pcie = s.pcie := rfl
@[simp] theorem rcount_mgmt (off : Nat) : (rcount off s).mgmt = s.mgmt := rfl
@[simp] theorem rcount_out (off : Nat) : (rcount off s).out = s.out := rfl
@[simp] theorem rcount_freeCtr (off : Nat) : (rcount off s).freeCtr = s.freeCtr := rfl
@[simp] theorem rcount_pending (off : Nat) : (rcount off s).pending = s.pending := rfl

@[simp] theorem rcountSat_regs (off : Nat) : (rcountSat off s).regs = AL.set (resetOf off) off (setBits (rget off s) 15 0 (min 0xFFFF (rbits off 15 0 s + 1))) s.regs := rfl
@[simp] theorem rcountSat_latches (off : Nat) : (rcountSat off s).latches = s.latches := rfl
@[simp] theorem rcountSat_mem (off : Nat) : (rcountSat off s).mem = s.mem := rfl
@[simp] theorem rcountSat_poison (off : Nat) : (rcountSat off s).poison = s.poison := rfl
@[simp] theorem rcountSat_undef (off : Nat) : (rcountSat off s).undef = s.undef := rfl
@[simp] theorem rcountSat_markers (off : Nat) : (rcountSat off s).markers = s.markers := rfl
@[simp] theorem rcountSat_queues (off : Nat) : (rcountSat off s).queues = s.queues := rfl
@[simp] theorem rcountSat_started (off : Nat) : (rcountSat off s).started = s.started := rfl
@[simp] theorem rcountSat_nextCmd (off : Nat) : (rcountSat off s).nextCmd = s.nextCmd := rfl
@[simp] theorem rcountSat_rhalts (off : Nat) : (rcountSat off s).rhalts = s.rhalts := rfl
@[simp] theorem rcountSat_fwds (off : Nat) : (rcountSat off s).fwds = s.fwds := rfl
@[simp] theorem rcountSat_cores (off : Nat) : (rcountSat off s).cores = s.cores := rfl
@[simp] theorem rcountSat_injects (off : Nat) : (rcountSat off s).injects = s.injects := rfl
@[simp] theorem rcountSat_kvp (off : Nat) : (rcountSat off s).kvp = s.kvp := rfl
@[simp] theorem rcountSat_acc (off : Nat) : (rcountSat off s).acc = s.acc := rfl
@[simp] theorem rcountSat_touched (off : Nat) : (rcountSat off s).touched = s.touched := rfl
@[simp] theorem rcountSat_bank (off : Nat) : (rcountSat off s).bank = s.bank := rfl
@[simp] theorem rcountSat_streams (off : Nat) : (rcountSat off s).streams = s.streams := rfl
@[simp] theorem rcountSat_halves (off : Nat) : (rcountSat off s).halves = s.halves := rfl
@[simp] theorem rcountSat_chans (off : Nat) : (rcountSat off s).chans = s.chans := rfl
@[simp] theorem rcountSat_stash (off : Nat) : (rcountSat off s).stash = s.stash := rfl
@[simp] theorem rcountSat_stashD (off : Nat) : (rcountSat off s).stashD = s.stashD := rfl
@[simp] theorem rcountSat_comps (off : Nat) : (rcountSat off s).comps = s.comps := rfl
@[simp] theorem rcountSat_ports (off : Nat) : (rcountSat off s).ports = s.ports := rfl
@[simp] theorem rcountSat_reads (off : Nat) : (rcountSat off s).reads = s.reads := rfl
@[simp] theorem rcountSat_notices (off : Nat) : (rcountSat off s).notices = s.notices := rfl
@[simp] theorem rcountSat_redWait (off : Nat) : (rcountSat off s).redWait = s.redWait := rfl
@[simp] theorem rcountSat_admitted (off : Nat) : (rcountSat off s).admitted = s.admitted := rfl
@[simp] theorem rcountSat_relay (off : Nat) : (rcountSat off s).relay = s.relay := rfl
@[simp] theorem rcountSat_keeper (off : Nat) : (rcountSat off s).keeper = s.keeper := rfl
@[simp] theorem rcountSat_images (off : Nat) : (rcountSat off s).images = s.images := rfl
@[simp] theorem rcountSat_codecs (off : Nat) : (rcountSat off s).codecs = s.codecs := rfl
@[simp] theorem rcountSat_power (off : Nat) : (rcountSat off s).power = s.power := rfl
@[simp] theorem rcountSat_naust (off : Nat) : (rcountSat off s).naust = s.naust := rfl
@[simp] theorem rcountSat_snap (off : Nat) : (rcountSat off s).snap = s.snap := rfl
@[simp] theorem rcountSat_boot (off : Nat) : (rcountSat off s).boot = s.boot := rfl
@[simp] theorem rcountSat_pcie (off : Nat) : (rcountSat off s).pcie = s.pcie := rfl
@[simp] theorem rcountSat_mgmt (off : Nat) : (rcountSat off s).mgmt = s.mgmt := rfl
@[simp] theorem rcountSat_out (off : Nat) : (rcountSat off s).out = s.out := rfl
@[simp] theorem rcountSat_freeCtr (off : Nat) : (rcountSat off s).freeCtr = s.freeCtr := rfl
@[simp] theorem rcountSat_pending (off : Nat) : (rcountSat off s).pending = s.pending := rfl

@[simp] theorem setQState_latches (q v : Nat) : (setQState q v s).latches = s.latches := rfl
@[simp] theorem setQState_mem (q v : Nat) : (setQState q v s).mem = s.mem := rfl
@[simp] theorem setQState_poison (q v : Nat) : (setQState q v s).poison = s.poison := rfl
@[simp] theorem setQState_undef (q v : Nat) : (setQState q v s).undef = s.undef := rfl
@[simp] theorem setQState_markers (q v : Nat) : (setQState q v s).markers = s.markers := rfl
@[simp] theorem setQState_queues (q v : Nat) : (setQState q v s).queues = s.queues := rfl
@[simp] theorem setQState_started (q v : Nat) : (setQState q v s).started = s.started := rfl
@[simp] theorem setQState_nextCmd (q v : Nat) : (setQState q v s).nextCmd = s.nextCmd := rfl
@[simp] theorem setQState_rhalts (q v : Nat) : (setQState q v s).rhalts = s.rhalts := rfl
@[simp] theorem setQState_fwds (q v : Nat) : (setQState q v s).fwds = s.fwds := rfl
@[simp] theorem setQState_cores (q v : Nat) : (setQState q v s).cores = s.cores := rfl
@[simp] theorem setQState_injects (q v : Nat) : (setQState q v s).injects = s.injects := rfl
@[simp] theorem setQState_kvp (q v : Nat) : (setQState q v s).kvp = s.kvp := rfl
@[simp] theorem setQState_acc (q v : Nat) : (setQState q v s).acc = s.acc := rfl
@[simp] theorem setQState_touched (q v : Nat) : (setQState q v s).touched = s.touched := rfl
@[simp] theorem setQState_bank (q v : Nat) : (setQState q v s).bank = s.bank := rfl
@[simp] theorem setQState_streams (q v : Nat) : (setQState q v s).streams = s.streams := rfl
@[simp] theorem setQState_halves (q v : Nat) : (setQState q v s).halves = s.halves := rfl
@[simp] theorem setQState_chans (q v : Nat) : (setQState q v s).chans = s.chans := rfl
@[simp] theorem setQState_stash (q v : Nat) : (setQState q v s).stash = s.stash := rfl
@[simp] theorem setQState_stashD (q v : Nat) : (setQState q v s).stashD = s.stashD := rfl
@[simp] theorem setQState_comps (q v : Nat) : (setQState q v s).comps = s.comps := rfl
@[simp] theorem setQState_ports (q v : Nat) : (setQState q v s).ports = s.ports := rfl
@[simp] theorem setQState_reads (q v : Nat) : (setQState q v s).reads = s.reads := rfl
@[simp] theorem setQState_notices (q v : Nat) : (setQState q v s).notices = s.notices := rfl
@[simp] theorem setQState_redWait (q v : Nat) : (setQState q v s).redWait = s.redWait := rfl
@[simp] theorem setQState_admitted (q v : Nat) : (setQState q v s).admitted = s.admitted := rfl
@[simp] theorem setQState_relay (q v : Nat) : (setQState q v s).relay = s.relay := rfl
@[simp] theorem setQState_keeper (q v : Nat) : (setQState q v s).keeper = s.keeper := rfl
@[simp] theorem setQState_images (q v : Nat) : (setQState q v s).images = s.images := rfl
@[simp] theorem setQState_codecs (q v : Nat) : (setQState q v s).codecs = s.codecs := rfl
@[simp] theorem setQState_power (q v : Nat) : (setQState q v s).power = s.power := rfl
@[simp] theorem setQState_naust (q v : Nat) : (setQState q v s).naust = s.naust := rfl
@[simp] theorem setQState_snap (q v : Nat) : (setQState q v s).snap = s.snap := rfl
@[simp] theorem setQState_boot (q v : Nat) : (setQState q v s).boot = s.boot := rfl
@[simp] theorem setQState_pcie (q v : Nat) : (setQState q v s).pcie = s.pcie := rfl
@[simp] theorem setQState_mgmt (q v : Nat) : (setQState q v s).mgmt = s.mgmt := rfl
@[simp] theorem setQState_out (q v : Nat) : (setQState q v s).out = s.out := rfl
@[simp] theorem setQState_freeCtr (q v : Nat) : (setQState q v s).freeCtr = s.freeCtr := rfl
@[simp] theorem setQState_pending (q v : Nat) : (setQState q v s).pending = s.pending := rfl

@[simp] theorem setQx_regs (k : Nat) (x : QueueX) : (setQx k x s).regs = s.regs := rfl
@[simp] theorem setQx_latches (k : Nat) (x : QueueX) : (setQx k x s).latches = s.latches := rfl
@[simp] theorem setQx_mem (k : Nat) (x : QueueX) : (setQx k x s).mem = s.mem := rfl
@[simp] theorem setQx_poison (k : Nat) (x : QueueX) : (setQx k x s).poison = s.poison := rfl
@[simp] theorem setQx_undef (k : Nat) (x : QueueX) : (setQx k x s).undef = s.undef := rfl
@[simp] theorem setQx_markers (k : Nat) (x : QueueX) : (setQx k x s).markers = s.markers := rfl
@[simp] theorem setQx_queues (k : Nat) (x : QueueX) : (setQx k x s).queues = AL.set {} k x s.queues := rfl
@[simp] theorem setQx_started (k : Nat) (x : QueueX) : (setQx k x s).started = s.started := rfl
@[simp] theorem setQx_nextCmd (k : Nat) (x : QueueX) : (setQx k x s).nextCmd = s.nextCmd := rfl
@[simp] theorem setQx_rhalts (k : Nat) (x : QueueX) : (setQx k x s).rhalts = s.rhalts := rfl
@[simp] theorem setQx_fwds (k : Nat) (x : QueueX) : (setQx k x s).fwds = s.fwds := rfl
@[simp] theorem setQx_cores (k : Nat) (x : QueueX) : (setQx k x s).cores = s.cores := rfl
@[simp] theorem setQx_injects (k : Nat) (x : QueueX) : (setQx k x s).injects = s.injects := rfl
@[simp] theorem setQx_kvp (k : Nat) (x : QueueX) : (setQx k x s).kvp = s.kvp := rfl
@[simp] theorem setQx_acc (k : Nat) (x : QueueX) : (setQx k x s).acc = s.acc := rfl
@[simp] theorem setQx_touched (k : Nat) (x : QueueX) : (setQx k x s).touched = s.touched := rfl
@[simp] theorem setQx_bank (k : Nat) (x : QueueX) : (setQx k x s).bank = s.bank := rfl
@[simp] theorem setQx_streams (k : Nat) (x : QueueX) : (setQx k x s).streams = s.streams := rfl
@[simp] theorem setQx_halves (k : Nat) (x : QueueX) : (setQx k x s).halves = s.halves := rfl
@[simp] theorem setQx_chans (k : Nat) (x : QueueX) : (setQx k x s).chans = s.chans := rfl
@[simp] theorem setQx_stash (k : Nat) (x : QueueX) : (setQx k x s).stash = s.stash := rfl
@[simp] theorem setQx_stashD (k : Nat) (x : QueueX) : (setQx k x s).stashD = s.stashD := rfl
@[simp] theorem setQx_comps (k : Nat) (x : QueueX) : (setQx k x s).comps = s.comps := rfl
@[simp] theorem setQx_ports (k : Nat) (x : QueueX) : (setQx k x s).ports = s.ports := rfl
@[simp] theorem setQx_reads (k : Nat) (x : QueueX) : (setQx k x s).reads = s.reads := rfl
@[simp] theorem setQx_notices (k : Nat) (x : QueueX) : (setQx k x s).notices = s.notices := rfl
@[simp] theorem setQx_redWait (k : Nat) (x : QueueX) : (setQx k x s).redWait = s.redWait := rfl
@[simp] theorem setQx_admitted (k : Nat) (x : QueueX) : (setQx k x s).admitted = s.admitted := rfl
@[simp] theorem setQx_relay (k : Nat) (x : QueueX) : (setQx k x s).relay = s.relay := rfl
@[simp] theorem setQx_keeper (k : Nat) (x : QueueX) : (setQx k x s).keeper = s.keeper := rfl
@[simp] theorem setQx_images (k : Nat) (x : QueueX) : (setQx k x s).images = s.images := rfl
@[simp] theorem setQx_codecs (k : Nat) (x : QueueX) : (setQx k x s).codecs = s.codecs := rfl
@[simp] theorem setQx_power (k : Nat) (x : QueueX) : (setQx k x s).power = s.power := rfl
@[simp] theorem setQx_naust (k : Nat) (x : QueueX) : (setQx k x s).naust = s.naust := rfl
@[simp] theorem setQx_snap (k : Nat) (x : QueueX) : (setQx k x s).snap = s.snap := rfl
@[simp] theorem setQx_boot (k : Nat) (x : QueueX) : (setQx k x s).boot = s.boot := rfl
@[simp] theorem setQx_pcie (k : Nat) (x : QueueX) : (setQx k x s).pcie = s.pcie := rfl
@[simp] theorem setQx_mgmt (k : Nat) (x : QueueX) : (setQx k x s).mgmt = s.mgmt := rfl
@[simp] theorem setQx_out (k : Nat) (x : QueueX) : (setQx k x s).out = s.out := rfl
@[simp] theorem setQx_freeCtr (k : Nat) (x : QueueX) : (setQx k x s).freeCtr = s.freeCtr := rfl
@[simp] theorem setQx_pending (k : Nat) (x : QueueX) : (setQx k x s).pending = s.pending := rfl

@[simp] theorem setCorex_regs (k : Nat) (x : CoreX) : (setCorex k x s).regs = s.regs := rfl
@[simp] theorem setCorex_latches (k : Nat) (x : CoreX) : (setCorex k x s).latches = s.latches := rfl
@[simp] theorem setCorex_mem (k : Nat) (x : CoreX) : (setCorex k x s).mem = s.mem := rfl
@[simp] theorem setCorex_poison (k : Nat) (x : CoreX) : (setCorex k x s).poison = s.poison := rfl
@[simp] theorem setCorex_undef (k : Nat) (x : CoreX) : (setCorex k x s).undef = s.undef := rfl
@[simp] theorem setCorex_markers (k : Nat) (x : CoreX) : (setCorex k x s).markers = s.markers := rfl
@[simp] theorem setCorex_queues (k : Nat) (x : CoreX) : (setCorex k x s).queues = s.queues := rfl
@[simp] theorem setCorex_started (k : Nat) (x : CoreX) : (setCorex k x s).started = s.started := rfl
@[simp] theorem setCorex_nextCmd (k : Nat) (x : CoreX) : (setCorex k x s).nextCmd = s.nextCmd := rfl
@[simp] theorem setCorex_rhalts (k : Nat) (x : CoreX) : (setCorex k x s).rhalts = s.rhalts := rfl
@[simp] theorem setCorex_fwds (k : Nat) (x : CoreX) : (setCorex k x s).fwds = s.fwds := rfl
@[simp] theorem setCorex_cores (k : Nat) (x : CoreX) : (setCorex k x s).cores = AL.set {} k x s.cores := rfl
@[simp] theorem setCorex_injects (k : Nat) (x : CoreX) : (setCorex k x s).injects = s.injects := rfl
@[simp] theorem setCorex_kvp (k : Nat) (x : CoreX) : (setCorex k x s).kvp = s.kvp := rfl
@[simp] theorem setCorex_acc (k : Nat) (x : CoreX) : (setCorex k x s).acc = s.acc := rfl
@[simp] theorem setCorex_touched (k : Nat) (x : CoreX) : (setCorex k x s).touched = s.touched := rfl
@[simp] theorem setCorex_bank (k : Nat) (x : CoreX) : (setCorex k x s).bank = s.bank := rfl
@[simp] theorem setCorex_streams (k : Nat) (x : CoreX) : (setCorex k x s).streams = s.streams := rfl
@[simp] theorem setCorex_halves (k : Nat) (x : CoreX) : (setCorex k x s).halves = s.halves := rfl
@[simp] theorem setCorex_chans (k : Nat) (x : CoreX) : (setCorex k x s).chans = s.chans := rfl
@[simp] theorem setCorex_stash (k : Nat) (x : CoreX) : (setCorex k x s).stash = s.stash := rfl
@[simp] theorem setCorex_stashD (k : Nat) (x : CoreX) : (setCorex k x s).stashD = s.stashD := rfl
@[simp] theorem setCorex_comps (k : Nat) (x : CoreX) : (setCorex k x s).comps = s.comps := rfl
@[simp] theorem setCorex_ports (k : Nat) (x : CoreX) : (setCorex k x s).ports = s.ports := rfl
@[simp] theorem setCorex_reads (k : Nat) (x : CoreX) : (setCorex k x s).reads = s.reads := rfl
@[simp] theorem setCorex_notices (k : Nat) (x : CoreX) : (setCorex k x s).notices = s.notices := rfl
@[simp] theorem setCorex_redWait (k : Nat) (x : CoreX) : (setCorex k x s).redWait = s.redWait := rfl
@[simp] theorem setCorex_admitted (k : Nat) (x : CoreX) : (setCorex k x s).admitted = s.admitted := rfl
@[simp] theorem setCorex_relay (k : Nat) (x : CoreX) : (setCorex k x s).relay = s.relay := rfl
@[simp] theorem setCorex_keeper (k : Nat) (x : CoreX) : (setCorex k x s).keeper = s.keeper := rfl
@[simp] theorem setCorex_images (k : Nat) (x : CoreX) : (setCorex k x s).images = s.images := rfl
@[simp] theorem setCorex_codecs (k : Nat) (x : CoreX) : (setCorex k x s).codecs = s.codecs := rfl
@[simp] theorem setCorex_power (k : Nat) (x : CoreX) : (setCorex k x s).power = s.power := rfl
@[simp] theorem setCorex_naust (k : Nat) (x : CoreX) : (setCorex k x s).naust = s.naust := rfl
@[simp] theorem setCorex_snap (k : Nat) (x : CoreX) : (setCorex k x s).snap = s.snap := rfl
@[simp] theorem setCorex_boot (k : Nat) (x : CoreX) : (setCorex k x s).boot = s.boot := rfl
@[simp] theorem setCorex_pcie (k : Nat) (x : CoreX) : (setCorex k x s).pcie = s.pcie := rfl
@[simp] theorem setCorex_mgmt (k : Nat) (x : CoreX) : (setCorex k x s).mgmt = s.mgmt := rfl
@[simp] theorem setCorex_out (k : Nat) (x : CoreX) : (setCorex k x s).out = s.out := rfl
@[simp] theorem setCorex_freeCtr (k : Nat) (x : CoreX) : (setCorex k x s).freeCtr = s.freeCtr := rfl
@[simp] theorem setCorex_pending (k : Nat) (x : CoreX) : (setCorex k x s).pending = s.pending := rfl

@[simp] theorem setPortx_regs (k : Nat) (x : PortX) : (setPortx k x s).regs = s.regs := rfl
@[simp] theorem setPortx_latches (k : Nat) (x : PortX) : (setPortx k x s).latches = s.latches := rfl
@[simp] theorem setPortx_mem (k : Nat) (x : PortX) : (setPortx k x s).mem = s.mem := rfl
@[simp] theorem setPortx_poison (k : Nat) (x : PortX) : (setPortx k x s).poison = s.poison := rfl
@[simp] theorem setPortx_undef (k : Nat) (x : PortX) : (setPortx k x s).undef = s.undef := rfl
@[simp] theorem setPortx_markers (k : Nat) (x : PortX) : (setPortx k x s).markers = s.markers := rfl
@[simp] theorem setPortx_queues (k : Nat) (x : PortX) : (setPortx k x s).queues = s.queues := rfl
@[simp] theorem setPortx_started (k : Nat) (x : PortX) : (setPortx k x s).started = s.started := rfl
@[simp] theorem setPortx_nextCmd (k : Nat) (x : PortX) : (setPortx k x s).nextCmd = s.nextCmd := rfl
@[simp] theorem setPortx_rhalts (k : Nat) (x : PortX) : (setPortx k x s).rhalts = s.rhalts := rfl
@[simp] theorem setPortx_fwds (k : Nat) (x : PortX) : (setPortx k x s).fwds = s.fwds := rfl
@[simp] theorem setPortx_cores (k : Nat) (x : PortX) : (setPortx k x s).cores = s.cores := rfl
@[simp] theorem setPortx_injects (k : Nat) (x : PortX) : (setPortx k x s).injects = s.injects := rfl
@[simp] theorem setPortx_kvp (k : Nat) (x : PortX) : (setPortx k x s).kvp = s.kvp := rfl
@[simp] theorem setPortx_acc (k : Nat) (x : PortX) : (setPortx k x s).acc = s.acc := rfl
@[simp] theorem setPortx_touched (k : Nat) (x : PortX) : (setPortx k x s).touched = s.touched := rfl
@[simp] theorem setPortx_bank (k : Nat) (x : PortX) : (setPortx k x s).bank = s.bank := rfl
@[simp] theorem setPortx_streams (k : Nat) (x : PortX) : (setPortx k x s).streams = s.streams := rfl
@[simp] theorem setPortx_halves (k : Nat) (x : PortX) : (setPortx k x s).halves = s.halves := rfl
@[simp] theorem setPortx_chans (k : Nat) (x : PortX) : (setPortx k x s).chans = s.chans := rfl
@[simp] theorem setPortx_stash (k : Nat) (x : PortX) : (setPortx k x s).stash = s.stash := rfl
@[simp] theorem setPortx_stashD (k : Nat) (x : PortX) : (setPortx k x s).stashD = s.stashD := rfl
@[simp] theorem setPortx_comps (k : Nat) (x : PortX) : (setPortx k x s).comps = s.comps := rfl
@[simp] theorem setPortx_ports (k : Nat) (x : PortX) : (setPortx k x s).ports = AL.set {} k x s.ports := rfl
@[simp] theorem setPortx_reads (k : Nat) (x : PortX) : (setPortx k x s).reads = s.reads := rfl
@[simp] theorem setPortx_notices (k : Nat) (x : PortX) : (setPortx k x s).notices = s.notices := rfl
@[simp] theorem setPortx_redWait (k : Nat) (x : PortX) : (setPortx k x s).redWait = s.redWait := rfl
@[simp] theorem setPortx_admitted (k : Nat) (x : PortX) : (setPortx k x s).admitted = s.admitted := rfl
@[simp] theorem setPortx_relay (k : Nat) (x : PortX) : (setPortx k x s).relay = s.relay := rfl
@[simp] theorem setPortx_keeper (k : Nat) (x : PortX) : (setPortx k x s).keeper = s.keeper := rfl
@[simp] theorem setPortx_images (k : Nat) (x : PortX) : (setPortx k x s).images = s.images := rfl
@[simp] theorem setPortx_codecs (k : Nat) (x : PortX) : (setPortx k x s).codecs = s.codecs := rfl
@[simp] theorem setPortx_power (k : Nat) (x : PortX) : (setPortx k x s).power = s.power := rfl
@[simp] theorem setPortx_naust (k : Nat) (x : PortX) : (setPortx k x s).naust = s.naust := rfl
@[simp] theorem setPortx_snap (k : Nat) (x : PortX) : (setPortx k x s).snap = s.snap := rfl
@[simp] theorem setPortx_boot (k : Nat) (x : PortX) : (setPortx k x s).boot = s.boot := rfl
@[simp] theorem setPortx_pcie (k : Nat) (x : PortX) : (setPortx k x s).pcie = s.pcie := rfl
@[simp] theorem setPortx_mgmt (k : Nat) (x : PortX) : (setPortx k x s).mgmt = s.mgmt := rfl
@[simp] theorem setPortx_out (k : Nat) (x : PortX) : (setPortx k x s).out = s.out := rfl
@[simp] theorem setPortx_freeCtr (k : Nat) (x : PortX) : (setPortx k x s).freeCtr = s.freeCtr := rfl
@[simp] theorem setPortx_pending (k : Nat) (x : PortX) : (setPortx k x s).pending = s.pending := rfl

@[simp] theorem setSlotx_regs (k : Nat) (x : SlotX) : (setSlotx k x s).regs = s.regs := rfl
@[simp] theorem setSlotx_latches (k : Nat) (x : SlotX) : (setSlotx k x s).latches = s.latches := rfl
@[simp] theorem setSlotx_mem (k : Nat) (x : SlotX) : (setSlotx k x s).mem = s.mem := rfl
@[simp] theorem setSlotx_poison (k : Nat) (x : SlotX) : (setSlotx k x s).poison = s.poison := rfl
@[simp] theorem setSlotx_undef (k : Nat) (x : SlotX) : (setSlotx k x s).undef = s.undef := rfl
@[simp] theorem setSlotx_markers (k : Nat) (x : SlotX) : (setSlotx k x s).markers = s.markers := rfl
@[simp] theorem setSlotx_queues (k : Nat) (x : SlotX) : (setSlotx k x s).queues = s.queues := rfl
@[simp] theorem setSlotx_started (k : Nat) (x : SlotX) : (setSlotx k x s).started = s.started := rfl
@[simp] theorem setSlotx_nextCmd (k : Nat) (x : SlotX) : (setSlotx k x s).nextCmd = s.nextCmd := rfl
@[simp] theorem setSlotx_rhalts (k : Nat) (x : SlotX) : (setSlotx k x s).rhalts = s.rhalts := rfl
@[simp] theorem setSlotx_fwds (k : Nat) (x : SlotX) : (setSlotx k x s).fwds = s.fwds := rfl
@[simp] theorem setSlotx_cores (k : Nat) (x : SlotX) : (setSlotx k x s).cores = s.cores := rfl
@[simp] theorem setSlotx_injects (k : Nat) (x : SlotX) : (setSlotx k x s).injects = s.injects := rfl
@[simp] theorem setSlotx_kvp (k : Nat) (x : SlotX) : (setSlotx k x s).kvp = { s.kvp with slots := AL.set {} k x s.kvp.slots } := rfl
@[simp] theorem setSlotx_acc (k : Nat) (x : SlotX) : (setSlotx k x s).acc = s.acc := rfl
@[simp] theorem setSlotx_touched (k : Nat) (x : SlotX) : (setSlotx k x s).touched = s.touched := rfl
@[simp] theorem setSlotx_bank (k : Nat) (x : SlotX) : (setSlotx k x s).bank = s.bank := rfl
@[simp] theorem setSlotx_streams (k : Nat) (x : SlotX) : (setSlotx k x s).streams = s.streams := rfl
@[simp] theorem setSlotx_halves (k : Nat) (x : SlotX) : (setSlotx k x s).halves = s.halves := rfl
@[simp] theorem setSlotx_chans (k : Nat) (x : SlotX) : (setSlotx k x s).chans = s.chans := rfl
@[simp] theorem setSlotx_stash (k : Nat) (x : SlotX) : (setSlotx k x s).stash = s.stash := rfl
@[simp] theorem setSlotx_stashD (k : Nat) (x : SlotX) : (setSlotx k x s).stashD = s.stashD := rfl
@[simp] theorem setSlotx_comps (k : Nat) (x : SlotX) : (setSlotx k x s).comps = s.comps := rfl
@[simp] theorem setSlotx_ports (k : Nat) (x : SlotX) : (setSlotx k x s).ports = s.ports := rfl
@[simp] theorem setSlotx_reads (k : Nat) (x : SlotX) : (setSlotx k x s).reads = s.reads := rfl
@[simp] theorem setSlotx_notices (k : Nat) (x : SlotX) : (setSlotx k x s).notices = s.notices := rfl
@[simp] theorem setSlotx_redWait (k : Nat) (x : SlotX) : (setSlotx k x s).redWait = s.redWait := rfl
@[simp] theorem setSlotx_admitted (k : Nat) (x : SlotX) : (setSlotx k x s).admitted = s.admitted := rfl
@[simp] theorem setSlotx_relay (k : Nat) (x : SlotX) : (setSlotx k x s).relay = s.relay := rfl
@[simp] theorem setSlotx_keeper (k : Nat) (x : SlotX) : (setSlotx k x s).keeper = s.keeper := rfl
@[simp] theorem setSlotx_images (k : Nat) (x : SlotX) : (setSlotx k x s).images = s.images := rfl
@[simp] theorem setSlotx_codecs (k : Nat) (x : SlotX) : (setSlotx k x s).codecs = s.codecs := rfl
@[simp] theorem setSlotx_power (k : Nat) (x : SlotX) : (setSlotx k x s).power = s.power := rfl
@[simp] theorem setSlotx_naust (k : Nat) (x : SlotX) : (setSlotx k x s).naust = s.naust := rfl
@[simp] theorem setSlotx_snap (k : Nat) (x : SlotX) : (setSlotx k x s).snap = s.snap := rfl
@[simp] theorem setSlotx_boot (k : Nat) (x : SlotX) : (setSlotx k x s).boot = s.boot := rfl
@[simp] theorem setSlotx_pcie (k : Nat) (x : SlotX) : (setSlotx k x s).pcie = s.pcie := rfl
@[simp] theorem setSlotx_mgmt (k : Nat) (x : SlotX) : (setSlotx k x s).mgmt = s.mgmt := rfl
@[simp] theorem setSlotx_out (k : Nat) (x : SlotX) : (setSlotx k x s).out = s.out := rfl
@[simp] theorem setSlotx_freeCtr (k : Nat) (x : SlotX) : (setSlotx k x s).freeCtr = s.freeCtr := rfl
@[simp] theorem setSlotx_pending (k : Nat) (x : SlotX) : (setSlotx k x s).pending = s.pending := rfl

@[simp] theorem setStreamx_regs (k : Nat) (x : StreamX) : (setStreamx k x s).regs = s.regs := rfl
@[simp] theorem setStreamx_latches (k : Nat) (x : StreamX) : (setStreamx k x s).latches = s.latches := rfl
@[simp] theorem setStreamx_mem (k : Nat) (x : StreamX) : (setStreamx k x s).mem = s.mem := rfl
@[simp] theorem setStreamx_poison (k : Nat) (x : StreamX) : (setStreamx k x s).poison = s.poison := rfl
@[simp] theorem setStreamx_undef (k : Nat) (x : StreamX) : (setStreamx k x s).undef = s.undef := rfl
@[simp] theorem setStreamx_markers (k : Nat) (x : StreamX) : (setStreamx k x s).markers = s.markers := rfl
@[simp] theorem setStreamx_queues (k : Nat) (x : StreamX) : (setStreamx k x s).queues = s.queues := rfl
@[simp] theorem setStreamx_started (k : Nat) (x : StreamX) : (setStreamx k x s).started = s.started := rfl
@[simp] theorem setStreamx_nextCmd (k : Nat) (x : StreamX) : (setStreamx k x s).nextCmd = s.nextCmd := rfl
@[simp] theorem setStreamx_rhalts (k : Nat) (x : StreamX) : (setStreamx k x s).rhalts = s.rhalts := rfl
@[simp] theorem setStreamx_fwds (k : Nat) (x : StreamX) : (setStreamx k x s).fwds = s.fwds := rfl
@[simp] theorem setStreamx_cores (k : Nat) (x : StreamX) : (setStreamx k x s).cores = s.cores := rfl
@[simp] theorem setStreamx_injects (k : Nat) (x : StreamX) : (setStreamx k x s).injects = s.injects := rfl
@[simp] theorem setStreamx_kvp (k : Nat) (x : StreamX) : (setStreamx k x s).kvp = s.kvp := rfl
@[simp] theorem setStreamx_acc (k : Nat) (x : StreamX) : (setStreamx k x s).acc = s.acc := rfl
@[simp] theorem setStreamx_touched (k : Nat) (x : StreamX) : (setStreamx k x s).touched = s.touched := rfl
@[simp] theorem setStreamx_bank (k : Nat) (x : StreamX) : (setStreamx k x s).bank = s.bank := rfl
@[simp] theorem setStreamx_streams (k : Nat) (x : StreamX) : (setStreamx k x s).streams = AL.set (freshStream k) k x s.streams := rfl
@[simp] theorem setStreamx_halves (k : Nat) (x : StreamX) : (setStreamx k x s).halves = s.halves := rfl
@[simp] theorem setStreamx_chans (k : Nat) (x : StreamX) : (setStreamx k x s).chans = s.chans := rfl
@[simp] theorem setStreamx_stash (k : Nat) (x : StreamX) : (setStreamx k x s).stash = s.stash := rfl
@[simp] theorem setStreamx_stashD (k : Nat) (x : StreamX) : (setStreamx k x s).stashD = s.stashD := rfl
@[simp] theorem setStreamx_comps (k : Nat) (x : StreamX) : (setStreamx k x s).comps = s.comps := rfl
@[simp] theorem setStreamx_ports (k : Nat) (x : StreamX) : (setStreamx k x s).ports = s.ports := rfl
@[simp] theorem setStreamx_reads (k : Nat) (x : StreamX) : (setStreamx k x s).reads = s.reads := rfl
@[simp] theorem setStreamx_notices (k : Nat) (x : StreamX) : (setStreamx k x s).notices = s.notices := rfl
@[simp] theorem setStreamx_redWait (k : Nat) (x : StreamX) : (setStreamx k x s).redWait = s.redWait := rfl
@[simp] theorem setStreamx_admitted (k : Nat) (x : StreamX) : (setStreamx k x s).admitted = s.admitted := rfl
@[simp] theorem setStreamx_relay (k : Nat) (x : StreamX) : (setStreamx k x s).relay = s.relay := rfl
@[simp] theorem setStreamx_keeper (k : Nat) (x : StreamX) : (setStreamx k x s).keeper = s.keeper := rfl
@[simp] theorem setStreamx_images (k : Nat) (x : StreamX) : (setStreamx k x s).images = s.images := rfl
@[simp] theorem setStreamx_codecs (k : Nat) (x : StreamX) : (setStreamx k x s).codecs = s.codecs := rfl
@[simp] theorem setStreamx_power (k : Nat) (x : StreamX) : (setStreamx k x s).power = s.power := rfl
@[simp] theorem setStreamx_naust (k : Nat) (x : StreamX) : (setStreamx k x s).naust = s.naust := rfl
@[simp] theorem setStreamx_snap (k : Nat) (x : StreamX) : (setStreamx k x s).snap = s.snap := rfl
@[simp] theorem setStreamx_boot (k : Nat) (x : StreamX) : (setStreamx k x s).boot = s.boot := rfl
@[simp] theorem setStreamx_pcie (k : Nat) (x : StreamX) : (setStreamx k x s).pcie = s.pcie := rfl
@[simp] theorem setStreamx_mgmt (k : Nat) (x : StreamX) : (setStreamx k x s).mgmt = s.mgmt := rfl
@[simp] theorem setStreamx_out (k : Nat) (x : StreamX) : (setStreamx k x s).out = s.out := rfl
@[simp] theorem setStreamx_freeCtr (k : Nat) (x : StreamX) : (setStreamx k x s).freeCtr = s.freeCtr := rfl
@[simp] theorem setStreamx_pending (k : Nat) (x : StreamX) : (setStreamx k x s).pending = s.pending := rfl

@[simp] theorem setHalfx_regs (k : Nat) (x : HalfX) : (setHalfx k x s).regs = s.regs := rfl
@[simp] theorem setHalfx_latches (k : Nat) (x : HalfX) : (setHalfx k x s).latches = s.latches := rfl
@[simp] theorem setHalfx_mem (k : Nat) (x : HalfX) : (setHalfx k x s).mem = s.mem := rfl
@[simp] theorem setHalfx_poison (k : Nat) (x : HalfX) : (setHalfx k x s).poison = s.poison := rfl
@[simp] theorem setHalfx_undef (k : Nat) (x : HalfX) : (setHalfx k x s).undef = s.undef := rfl
@[simp] theorem setHalfx_markers (k : Nat) (x : HalfX) : (setHalfx k x s).markers = s.markers := rfl
@[simp] theorem setHalfx_queues (k : Nat) (x : HalfX) : (setHalfx k x s).queues = s.queues := rfl
@[simp] theorem setHalfx_started (k : Nat) (x : HalfX) : (setHalfx k x s).started = s.started := rfl
@[simp] theorem setHalfx_nextCmd (k : Nat) (x : HalfX) : (setHalfx k x s).nextCmd = s.nextCmd := rfl
@[simp] theorem setHalfx_rhalts (k : Nat) (x : HalfX) : (setHalfx k x s).rhalts = s.rhalts := rfl
@[simp] theorem setHalfx_fwds (k : Nat) (x : HalfX) : (setHalfx k x s).fwds = s.fwds := rfl
@[simp] theorem setHalfx_cores (k : Nat) (x : HalfX) : (setHalfx k x s).cores = s.cores := rfl
@[simp] theorem setHalfx_injects (k : Nat) (x : HalfX) : (setHalfx k x s).injects = s.injects := rfl
@[simp] theorem setHalfx_kvp (k : Nat) (x : HalfX) : (setHalfx k x s).kvp = s.kvp := rfl
@[simp] theorem setHalfx_acc (k : Nat) (x : HalfX) : (setHalfx k x s).acc = s.acc := rfl
@[simp] theorem setHalfx_touched (k : Nat) (x : HalfX) : (setHalfx k x s).touched = s.touched := rfl
@[simp] theorem setHalfx_bank (k : Nat) (x : HalfX) : (setHalfx k x s).bank = s.bank := rfl
@[simp] theorem setHalfx_streams (k : Nat) (x : HalfX) : (setHalfx k x s).streams = s.streams := rfl
@[simp] theorem setHalfx_halves (k : Nat) (x : HalfX) : (setHalfx k x s).halves = AL.set {} k x s.halves := rfl
@[simp] theorem setHalfx_chans (k : Nat) (x : HalfX) : (setHalfx k x s).chans = s.chans := rfl
@[simp] theorem setHalfx_stash (k : Nat) (x : HalfX) : (setHalfx k x s).stash = s.stash := rfl
@[simp] theorem setHalfx_stashD (k : Nat) (x : HalfX) : (setHalfx k x s).stashD = s.stashD := rfl
@[simp] theorem setHalfx_comps (k : Nat) (x : HalfX) : (setHalfx k x s).comps = s.comps := rfl
@[simp] theorem setHalfx_ports (k : Nat) (x : HalfX) : (setHalfx k x s).ports = s.ports := rfl
@[simp] theorem setHalfx_reads (k : Nat) (x : HalfX) : (setHalfx k x s).reads = s.reads := rfl
@[simp] theorem setHalfx_notices (k : Nat) (x : HalfX) : (setHalfx k x s).notices = s.notices := rfl
@[simp] theorem setHalfx_redWait (k : Nat) (x : HalfX) : (setHalfx k x s).redWait = s.redWait := rfl
@[simp] theorem setHalfx_admitted (k : Nat) (x : HalfX) : (setHalfx k x s).admitted = s.admitted := rfl
@[simp] theorem setHalfx_relay (k : Nat) (x : HalfX) : (setHalfx k x s).relay = s.relay := rfl
@[simp] theorem setHalfx_keeper (k : Nat) (x : HalfX) : (setHalfx k x s).keeper = s.keeper := rfl
@[simp] theorem setHalfx_images (k : Nat) (x : HalfX) : (setHalfx k x s).images = s.images := rfl
@[simp] theorem setHalfx_codecs (k : Nat) (x : HalfX) : (setHalfx k x s).codecs = s.codecs := rfl
@[simp] theorem setHalfx_power (k : Nat) (x : HalfX) : (setHalfx k x s).power = s.power := rfl
@[simp] theorem setHalfx_naust (k : Nat) (x : HalfX) : (setHalfx k x s).naust = s.naust := rfl
@[simp] theorem setHalfx_snap (k : Nat) (x : HalfX) : (setHalfx k x s).snap = s.snap := rfl
@[simp] theorem setHalfx_boot (k : Nat) (x : HalfX) : (setHalfx k x s).boot = s.boot := rfl
@[simp] theorem setHalfx_pcie (k : Nat) (x : HalfX) : (setHalfx k x s).pcie = s.pcie := rfl
@[simp] theorem setHalfx_mgmt (k : Nat) (x : HalfX) : (setHalfx k x s).mgmt = s.mgmt := rfl
@[simp] theorem setHalfx_out (k : Nat) (x : HalfX) : (setHalfx k x s).out = s.out := rfl
@[simp] theorem setHalfx_freeCtr (k : Nat) (x : HalfX) : (setHalfx k x s).freeCtr = s.freeCtr := rfl
@[simp] theorem setHalfx_pending (k : Nat) (x : HalfX) : (setHalfx k x s).pending = s.pending := rfl

@[simp] theorem setChanx_regs (k : Nat) (x : ChanX) : (setChanx k x s).regs = s.regs := rfl
@[simp] theorem setChanx_latches (k : Nat) (x : ChanX) : (setChanx k x s).latches = s.latches := rfl
@[simp] theorem setChanx_mem (k : Nat) (x : ChanX) : (setChanx k x s).mem = s.mem := rfl
@[simp] theorem setChanx_poison (k : Nat) (x : ChanX) : (setChanx k x s).poison = s.poison := rfl
@[simp] theorem setChanx_undef (k : Nat) (x : ChanX) : (setChanx k x s).undef = s.undef := rfl
@[simp] theorem setChanx_markers (k : Nat) (x : ChanX) : (setChanx k x s).markers = s.markers := rfl
@[simp] theorem setChanx_queues (k : Nat) (x : ChanX) : (setChanx k x s).queues = s.queues := rfl
@[simp] theorem setChanx_started (k : Nat) (x : ChanX) : (setChanx k x s).started = s.started := rfl
@[simp] theorem setChanx_nextCmd (k : Nat) (x : ChanX) : (setChanx k x s).nextCmd = s.nextCmd := rfl
@[simp] theorem setChanx_rhalts (k : Nat) (x : ChanX) : (setChanx k x s).rhalts = s.rhalts := rfl
@[simp] theorem setChanx_fwds (k : Nat) (x : ChanX) : (setChanx k x s).fwds = s.fwds := rfl
@[simp] theorem setChanx_cores (k : Nat) (x : ChanX) : (setChanx k x s).cores = s.cores := rfl
@[simp] theorem setChanx_injects (k : Nat) (x : ChanX) : (setChanx k x s).injects = s.injects := rfl
@[simp] theorem setChanx_kvp (k : Nat) (x : ChanX) : (setChanx k x s).kvp = s.kvp := rfl
@[simp] theorem setChanx_acc (k : Nat) (x : ChanX) : (setChanx k x s).acc = s.acc := rfl
@[simp] theorem setChanx_touched (k : Nat) (x : ChanX) : (setChanx k x s).touched = s.touched := rfl
@[simp] theorem setChanx_bank (k : Nat) (x : ChanX) : (setChanx k x s).bank = s.bank := rfl
@[simp] theorem setChanx_streams (k : Nat) (x : ChanX) : (setChanx k x s).streams = s.streams := rfl
@[simp] theorem setChanx_halves (k : Nat) (x : ChanX) : (setChanx k x s).halves = s.halves := rfl
@[simp] theorem setChanx_chans (k : Nat) (x : ChanX) : (setChanx k x s).chans = AL.set {} k x s.chans := rfl
@[simp] theorem setChanx_stash (k : Nat) (x : ChanX) : (setChanx k x s).stash = s.stash := rfl
@[simp] theorem setChanx_stashD (k : Nat) (x : ChanX) : (setChanx k x s).stashD = s.stashD := rfl
@[simp] theorem setChanx_comps (k : Nat) (x : ChanX) : (setChanx k x s).comps = s.comps := rfl
@[simp] theorem setChanx_ports (k : Nat) (x : ChanX) : (setChanx k x s).ports = s.ports := rfl
@[simp] theorem setChanx_reads (k : Nat) (x : ChanX) : (setChanx k x s).reads = s.reads := rfl
@[simp] theorem setChanx_notices (k : Nat) (x : ChanX) : (setChanx k x s).notices = s.notices := rfl
@[simp] theorem setChanx_redWait (k : Nat) (x : ChanX) : (setChanx k x s).redWait = s.redWait := rfl
@[simp] theorem setChanx_admitted (k : Nat) (x : ChanX) : (setChanx k x s).admitted = s.admitted := rfl
@[simp] theorem setChanx_relay (k : Nat) (x : ChanX) : (setChanx k x s).relay = s.relay := rfl
@[simp] theorem setChanx_keeper (k : Nat) (x : ChanX) : (setChanx k x s).keeper = s.keeper := rfl
@[simp] theorem setChanx_images (k : Nat) (x : ChanX) : (setChanx k x s).images = s.images := rfl
@[simp] theorem setChanx_codecs (k : Nat) (x : ChanX) : (setChanx k x s).codecs = s.codecs := rfl
@[simp] theorem setChanx_power (k : Nat) (x : ChanX) : (setChanx k x s).power = s.power := rfl
@[simp] theorem setChanx_naust (k : Nat) (x : ChanX) : (setChanx k x s).naust = s.naust := rfl
@[simp] theorem setChanx_snap (k : Nat) (x : ChanX) : (setChanx k x s).snap = s.snap := rfl
@[simp] theorem setChanx_boot (k : Nat) (x : ChanX) : (setChanx k x s).boot = s.boot := rfl
@[simp] theorem setChanx_pcie (k : Nat) (x : ChanX) : (setChanx k x s).pcie = s.pcie := rfl
@[simp] theorem setChanx_mgmt (k : Nat) (x : ChanX) : (setChanx k x s).mgmt = s.mgmt := rfl
@[simp] theorem setChanx_out (k : Nat) (x : ChanX) : (setChanx k x s).out = s.out := rfl
@[simp] theorem setChanx_freeCtr (k : Nat) (x : ChanX) : (setChanx k x s).freeCtr = s.freeCtr := rfl
@[simp] theorem setChanx_pending (k : Nat) (x : ChanX) : (setChanx k x s).pending = s.pending := rfl

@[simp] theorem setStashx_regs (k : Nat) (x : StashEntry) : (setStashx k x s).regs = s.regs := rfl
@[simp] theorem setStashx_latches (k : Nat) (x : StashEntry) : (setStashx k x s).latches = s.latches := rfl
@[simp] theorem setStashx_mem (k : Nat) (x : StashEntry) : (setStashx k x s).mem = s.mem := rfl
@[simp] theorem setStashx_poison (k : Nat) (x : StashEntry) : (setStashx k x s).poison = s.poison := rfl
@[simp] theorem setStashx_undef (k : Nat) (x : StashEntry) : (setStashx k x s).undef = s.undef := rfl
@[simp] theorem setStashx_markers (k : Nat) (x : StashEntry) : (setStashx k x s).markers = s.markers := rfl
@[simp] theorem setStashx_queues (k : Nat) (x : StashEntry) : (setStashx k x s).queues = s.queues := rfl
@[simp] theorem setStashx_started (k : Nat) (x : StashEntry) : (setStashx k x s).started = s.started := rfl
@[simp] theorem setStashx_nextCmd (k : Nat) (x : StashEntry) : (setStashx k x s).nextCmd = s.nextCmd := rfl
@[simp] theorem setStashx_rhalts (k : Nat) (x : StashEntry) : (setStashx k x s).rhalts = s.rhalts := rfl
@[simp] theorem setStashx_fwds (k : Nat) (x : StashEntry) : (setStashx k x s).fwds = s.fwds := rfl
@[simp] theorem setStashx_cores (k : Nat) (x : StashEntry) : (setStashx k x s).cores = s.cores := rfl
@[simp] theorem setStashx_injects (k : Nat) (x : StashEntry) : (setStashx k x s).injects = s.injects := rfl
@[simp] theorem setStashx_kvp (k : Nat) (x : StashEntry) : (setStashx k x s).kvp = s.kvp := rfl
@[simp] theorem setStashx_acc (k : Nat) (x : StashEntry) : (setStashx k x s).acc = s.acc := rfl
@[simp] theorem setStashx_touched (k : Nat) (x : StashEntry) : (setStashx k x s).touched = s.touched := rfl
@[simp] theorem setStashx_bank (k : Nat) (x : StashEntry) : (setStashx k x s).bank = s.bank := rfl
@[simp] theorem setStashx_streams (k : Nat) (x : StashEntry) : (setStashx k x s).streams = s.streams := rfl
@[simp] theorem setStashx_halves (k : Nat) (x : StashEntry) : (setStashx k x s).halves = s.halves := rfl
@[simp] theorem setStashx_chans (k : Nat) (x : StashEntry) : (setStashx k x s).chans = s.chans := rfl
@[simp] theorem setStashx_stash (k : Nat) (x : StashEntry) : (setStashx k x s).stash = AL.set {} k x s.stash := rfl
@[simp] theorem setStashx_stashD (k : Nat) (x : StashEntry) : (setStashx k x s).stashD = s.stashD := rfl
@[simp] theorem setStashx_comps (k : Nat) (x : StashEntry) : (setStashx k x s).comps = s.comps := rfl
@[simp] theorem setStashx_ports (k : Nat) (x : StashEntry) : (setStashx k x s).ports = s.ports := rfl
@[simp] theorem setStashx_reads (k : Nat) (x : StashEntry) : (setStashx k x s).reads = s.reads := rfl
@[simp] theorem setStashx_notices (k : Nat) (x : StashEntry) : (setStashx k x s).notices = s.notices := rfl
@[simp] theorem setStashx_redWait (k : Nat) (x : StashEntry) : (setStashx k x s).redWait = s.redWait := rfl
@[simp] theorem setStashx_admitted (k : Nat) (x : StashEntry) : (setStashx k x s).admitted = s.admitted := rfl
@[simp] theorem setStashx_relay (k : Nat) (x : StashEntry) : (setStashx k x s).relay = s.relay := rfl
@[simp] theorem setStashx_keeper (k : Nat) (x : StashEntry) : (setStashx k x s).keeper = s.keeper := rfl
@[simp] theorem setStashx_images (k : Nat) (x : StashEntry) : (setStashx k x s).images = s.images := rfl
@[simp] theorem setStashx_codecs (k : Nat) (x : StashEntry) : (setStashx k x s).codecs = s.codecs := rfl
@[simp] theorem setStashx_power (k : Nat) (x : StashEntry) : (setStashx k x s).power = s.power := rfl
@[simp] theorem setStashx_naust (k : Nat) (x : StashEntry) : (setStashx k x s).naust = s.naust := rfl
@[simp] theorem setStashx_snap (k : Nat) (x : StashEntry) : (setStashx k x s).snap = s.snap := rfl
@[simp] theorem setStashx_boot (k : Nat) (x : StashEntry) : (setStashx k x s).boot = s.boot := rfl
@[simp] theorem setStashx_pcie (k : Nat) (x : StashEntry) : (setStashx k x s).pcie = s.pcie := rfl
@[simp] theorem setStashx_mgmt (k : Nat) (x : StashEntry) : (setStashx k x s).mgmt = s.mgmt := rfl
@[simp] theorem setStashx_out (k : Nat) (x : StashEntry) : (setStashx k x s).out = s.out := rfl
@[simp] theorem setStashx_freeCtr (k : Nat) (x : StashEntry) : (setStashx k x s).freeCtr = s.freeCtr := rfl
@[simp] theorem setStashx_pending (k : Nat) (x : StashEntry) : (setStashx k x s).pending = s.pending := rfl

@[simp] theorem setStashd_regs (k : Nat) (x : StashDie) : (setStashd k x s).regs = s.regs := rfl
@[simp] theorem setStashd_latches (k : Nat) (x : StashDie) : (setStashd k x s).latches = s.latches := rfl
@[simp] theorem setStashd_mem (k : Nat) (x : StashDie) : (setStashd k x s).mem = s.mem := rfl
@[simp] theorem setStashd_poison (k : Nat) (x : StashDie) : (setStashd k x s).poison = s.poison := rfl
@[simp] theorem setStashd_undef (k : Nat) (x : StashDie) : (setStashd k x s).undef = s.undef := rfl
@[simp] theorem setStashd_markers (k : Nat) (x : StashDie) : (setStashd k x s).markers = s.markers := rfl
@[simp] theorem setStashd_queues (k : Nat) (x : StashDie) : (setStashd k x s).queues = s.queues := rfl
@[simp] theorem setStashd_started (k : Nat) (x : StashDie) : (setStashd k x s).started = s.started := rfl
@[simp] theorem setStashd_nextCmd (k : Nat) (x : StashDie) : (setStashd k x s).nextCmd = s.nextCmd := rfl
@[simp] theorem setStashd_rhalts (k : Nat) (x : StashDie) : (setStashd k x s).rhalts = s.rhalts := rfl
@[simp] theorem setStashd_fwds (k : Nat) (x : StashDie) : (setStashd k x s).fwds = s.fwds := rfl
@[simp] theorem setStashd_cores (k : Nat) (x : StashDie) : (setStashd k x s).cores = s.cores := rfl
@[simp] theorem setStashd_injects (k : Nat) (x : StashDie) : (setStashd k x s).injects = s.injects := rfl
@[simp] theorem setStashd_kvp (k : Nat) (x : StashDie) : (setStashd k x s).kvp = s.kvp := rfl
@[simp] theorem setStashd_acc (k : Nat) (x : StashDie) : (setStashd k x s).acc = s.acc := rfl
@[simp] theorem setStashd_touched (k : Nat) (x : StashDie) : (setStashd k x s).touched = s.touched := rfl
@[simp] theorem setStashd_bank (k : Nat) (x : StashDie) : (setStashd k x s).bank = s.bank := rfl
@[simp] theorem setStashd_streams (k : Nat) (x : StashDie) : (setStashd k x s).streams = s.streams := rfl
@[simp] theorem setStashd_halves (k : Nat) (x : StashDie) : (setStashd k x s).halves = s.halves := rfl
@[simp] theorem setStashd_chans (k : Nat) (x : StashDie) : (setStashd k x s).chans = s.chans := rfl
@[simp] theorem setStashd_stash (k : Nat) (x : StashDie) : (setStashd k x s).stash = s.stash := rfl
@[simp] theorem setStashd_stashD (k : Nat) (x : StashDie) : (setStashd k x s).stashD = AL.set {} k x s.stashD := rfl
@[simp] theorem setStashd_comps (k : Nat) (x : StashDie) : (setStashd k x s).comps = s.comps := rfl
@[simp] theorem setStashd_ports (k : Nat) (x : StashDie) : (setStashd k x s).ports = s.ports := rfl
@[simp] theorem setStashd_reads (k : Nat) (x : StashDie) : (setStashd k x s).reads = s.reads := rfl
@[simp] theorem setStashd_notices (k : Nat) (x : StashDie) : (setStashd k x s).notices = s.notices := rfl
@[simp] theorem setStashd_redWait (k : Nat) (x : StashDie) : (setStashd k x s).redWait = s.redWait := rfl
@[simp] theorem setStashd_admitted (k : Nat) (x : StashDie) : (setStashd k x s).admitted = s.admitted := rfl
@[simp] theorem setStashd_relay (k : Nat) (x : StashDie) : (setStashd k x s).relay = s.relay := rfl
@[simp] theorem setStashd_keeper (k : Nat) (x : StashDie) : (setStashd k x s).keeper = s.keeper := rfl
@[simp] theorem setStashd_images (k : Nat) (x : StashDie) : (setStashd k x s).images = s.images := rfl
@[simp] theorem setStashd_codecs (k : Nat) (x : StashDie) : (setStashd k x s).codecs = s.codecs := rfl
@[simp] theorem setStashd_power (k : Nat) (x : StashDie) : (setStashd k x s).power = s.power := rfl
@[simp] theorem setStashd_naust (k : Nat) (x : StashDie) : (setStashd k x s).naust = s.naust := rfl
@[simp] theorem setStashd_snap (k : Nat) (x : StashDie) : (setStashd k x s).snap = s.snap := rfl
@[simp] theorem setStashd_boot (k : Nat) (x : StashDie) : (setStashd k x s).boot = s.boot := rfl
@[simp] theorem setStashd_pcie (k : Nat) (x : StashDie) : (setStashd k x s).pcie = s.pcie := rfl
@[simp] theorem setStashd_mgmt (k : Nat) (x : StashDie) : (setStashd k x s).mgmt = s.mgmt := rfl
@[simp] theorem setStashd_out (k : Nat) (x : StashDie) : (setStashd k x s).out = s.out := rfl
@[simp] theorem setStashd_freeCtr (k : Nat) (x : StashDie) : (setStashd k x s).freeCtr = s.freeCtr := rfl
@[simp] theorem setStashd_pending (k : Nat) (x : StashDie) : (setStashd k x s).pending = s.pending := rfl

@[simp] theorem setCompx_regs (k : Nat) (x : CompX) : (setCompx k x s).regs = s.regs := rfl
@[simp] theorem setCompx_latches (k : Nat) (x : CompX) : (setCompx k x s).latches = s.latches := rfl
@[simp] theorem setCompx_mem (k : Nat) (x : CompX) : (setCompx k x s).mem = s.mem := rfl
@[simp] theorem setCompx_poison (k : Nat) (x : CompX) : (setCompx k x s).poison = s.poison := rfl
@[simp] theorem setCompx_undef (k : Nat) (x : CompX) : (setCompx k x s).undef = s.undef := rfl
@[simp] theorem setCompx_markers (k : Nat) (x : CompX) : (setCompx k x s).markers = s.markers := rfl
@[simp] theorem setCompx_queues (k : Nat) (x : CompX) : (setCompx k x s).queues = s.queues := rfl
@[simp] theorem setCompx_started (k : Nat) (x : CompX) : (setCompx k x s).started = s.started := rfl
@[simp] theorem setCompx_nextCmd (k : Nat) (x : CompX) : (setCompx k x s).nextCmd = s.nextCmd := rfl
@[simp] theorem setCompx_rhalts (k : Nat) (x : CompX) : (setCompx k x s).rhalts = s.rhalts := rfl
@[simp] theorem setCompx_fwds (k : Nat) (x : CompX) : (setCompx k x s).fwds = s.fwds := rfl
@[simp] theorem setCompx_cores (k : Nat) (x : CompX) : (setCompx k x s).cores = s.cores := rfl
@[simp] theorem setCompx_injects (k : Nat) (x : CompX) : (setCompx k x s).injects = s.injects := rfl
@[simp] theorem setCompx_kvp (k : Nat) (x : CompX) : (setCompx k x s).kvp = s.kvp := rfl
@[simp] theorem setCompx_acc (k : Nat) (x : CompX) : (setCompx k x s).acc = s.acc := rfl
@[simp] theorem setCompx_touched (k : Nat) (x : CompX) : (setCompx k x s).touched = s.touched := rfl
@[simp] theorem setCompx_bank (k : Nat) (x : CompX) : (setCompx k x s).bank = s.bank := rfl
@[simp] theorem setCompx_streams (k : Nat) (x : CompX) : (setCompx k x s).streams = s.streams := rfl
@[simp] theorem setCompx_halves (k : Nat) (x : CompX) : (setCompx k x s).halves = s.halves := rfl
@[simp] theorem setCompx_chans (k : Nat) (x : CompX) : (setCompx k x s).chans = s.chans := rfl
@[simp] theorem setCompx_stash (k : Nat) (x : CompX) : (setCompx k x s).stash = s.stash := rfl
@[simp] theorem setCompx_stashD (k : Nat) (x : CompX) : (setCompx k x s).stashD = s.stashD := rfl
@[simp] theorem setCompx_comps (k : Nat) (x : CompX) : (setCompx k x s).comps = AL.set {} k x s.comps := rfl
@[simp] theorem setCompx_ports (k : Nat) (x : CompX) : (setCompx k x s).ports = s.ports := rfl
@[simp] theorem setCompx_reads (k : Nat) (x : CompX) : (setCompx k x s).reads = s.reads := rfl
@[simp] theorem setCompx_notices (k : Nat) (x : CompX) : (setCompx k x s).notices = s.notices := rfl
@[simp] theorem setCompx_redWait (k : Nat) (x : CompX) : (setCompx k x s).redWait = s.redWait := rfl
@[simp] theorem setCompx_admitted (k : Nat) (x : CompX) : (setCompx k x s).admitted = s.admitted := rfl
@[simp] theorem setCompx_relay (k : Nat) (x : CompX) : (setCompx k x s).relay = s.relay := rfl
@[simp] theorem setCompx_keeper (k : Nat) (x : CompX) : (setCompx k x s).keeper = s.keeper := rfl
@[simp] theorem setCompx_images (k : Nat) (x : CompX) : (setCompx k x s).images = s.images := rfl
@[simp] theorem setCompx_codecs (k : Nat) (x : CompX) : (setCompx k x s).codecs = s.codecs := rfl
@[simp] theorem setCompx_power (k : Nat) (x : CompX) : (setCompx k x s).power = s.power := rfl
@[simp] theorem setCompx_naust (k : Nat) (x : CompX) : (setCompx k x s).naust = s.naust := rfl
@[simp] theorem setCompx_snap (k : Nat) (x : CompX) : (setCompx k x s).snap = s.snap := rfl
@[simp] theorem setCompx_boot (k : Nat) (x : CompX) : (setCompx k x s).boot = s.boot := rfl
@[simp] theorem setCompx_pcie (k : Nat) (x : CompX) : (setCompx k x s).pcie = s.pcie := rfl
@[simp] theorem setCompx_mgmt (k : Nat) (x : CompX) : (setCompx k x s).mgmt = s.mgmt := rfl
@[simp] theorem setCompx_out (k : Nat) (x : CompX) : (setCompx k x s).out = s.out := rfl
@[simp] theorem setCompx_freeCtr (k : Nat) (x : CompX) : (setCompx k x s).freeCtr = s.freeCtr := rfl
@[simp] theorem setCompx_pending (k : Nat) (x : CompX) : (setCompx k x s).pending = s.pending := rfl

@[simp] theorem setCodecx_regs (k : Nat) (x : CodecX) : (setCodecx k x s).regs = s.regs := rfl
@[simp] theorem setCodecx_latches (k : Nat) (x : CodecX) : (setCodecx k x s).latches = s.latches := rfl
@[simp] theorem setCodecx_mem (k : Nat) (x : CodecX) : (setCodecx k x s).mem = s.mem := rfl
@[simp] theorem setCodecx_poison (k : Nat) (x : CodecX) : (setCodecx k x s).poison = s.poison := rfl
@[simp] theorem setCodecx_undef (k : Nat) (x : CodecX) : (setCodecx k x s).undef = s.undef := rfl
@[simp] theorem setCodecx_markers (k : Nat) (x : CodecX) : (setCodecx k x s).markers = s.markers := rfl
@[simp] theorem setCodecx_queues (k : Nat) (x : CodecX) : (setCodecx k x s).queues = s.queues := rfl
@[simp] theorem setCodecx_started (k : Nat) (x : CodecX) : (setCodecx k x s).started = s.started := rfl
@[simp] theorem setCodecx_nextCmd (k : Nat) (x : CodecX) : (setCodecx k x s).nextCmd = s.nextCmd := rfl
@[simp] theorem setCodecx_rhalts (k : Nat) (x : CodecX) : (setCodecx k x s).rhalts = s.rhalts := rfl
@[simp] theorem setCodecx_fwds (k : Nat) (x : CodecX) : (setCodecx k x s).fwds = s.fwds := rfl
@[simp] theorem setCodecx_cores (k : Nat) (x : CodecX) : (setCodecx k x s).cores = s.cores := rfl
@[simp] theorem setCodecx_injects (k : Nat) (x : CodecX) : (setCodecx k x s).injects = s.injects := rfl
@[simp] theorem setCodecx_kvp (k : Nat) (x : CodecX) : (setCodecx k x s).kvp = s.kvp := rfl
@[simp] theorem setCodecx_acc (k : Nat) (x : CodecX) : (setCodecx k x s).acc = s.acc := rfl
@[simp] theorem setCodecx_touched (k : Nat) (x : CodecX) : (setCodecx k x s).touched = s.touched := rfl
@[simp] theorem setCodecx_bank (k : Nat) (x : CodecX) : (setCodecx k x s).bank = s.bank := rfl
@[simp] theorem setCodecx_streams (k : Nat) (x : CodecX) : (setCodecx k x s).streams = s.streams := rfl
@[simp] theorem setCodecx_halves (k : Nat) (x : CodecX) : (setCodecx k x s).halves = s.halves := rfl
@[simp] theorem setCodecx_chans (k : Nat) (x : CodecX) : (setCodecx k x s).chans = s.chans := rfl
@[simp] theorem setCodecx_stash (k : Nat) (x : CodecX) : (setCodecx k x s).stash = s.stash := rfl
@[simp] theorem setCodecx_stashD (k : Nat) (x : CodecX) : (setCodecx k x s).stashD = s.stashD := rfl
@[simp] theorem setCodecx_comps (k : Nat) (x : CodecX) : (setCodecx k x s).comps = s.comps := rfl
@[simp] theorem setCodecx_ports (k : Nat) (x : CodecX) : (setCodecx k x s).ports = s.ports := rfl
@[simp] theorem setCodecx_reads (k : Nat) (x : CodecX) : (setCodecx k x s).reads = s.reads := rfl
@[simp] theorem setCodecx_notices (k : Nat) (x : CodecX) : (setCodecx k x s).notices = s.notices := rfl
@[simp] theorem setCodecx_redWait (k : Nat) (x : CodecX) : (setCodecx k x s).redWait = s.redWait := rfl
@[simp] theorem setCodecx_admitted (k : Nat) (x : CodecX) : (setCodecx k x s).admitted = s.admitted := rfl
@[simp] theorem setCodecx_relay (k : Nat) (x : CodecX) : (setCodecx k x s).relay = s.relay := rfl
@[simp] theorem setCodecx_keeper (k : Nat) (x : CodecX) : (setCodecx k x s).keeper = s.keeper := rfl
@[simp] theorem setCodecx_images (k : Nat) (x : CodecX) : (setCodecx k x s).images = s.images := rfl
@[simp] theorem setCodecx_codecs (k : Nat) (x : CodecX) : (setCodecx k x s).codecs = AL.set {} k x s.codecs := rfl
@[simp] theorem setCodecx_power (k : Nat) (x : CodecX) : (setCodecx k x s).power = s.power := rfl
@[simp] theorem setCodecx_naust (k : Nat) (x : CodecX) : (setCodecx k x s).naust = s.naust := rfl
@[simp] theorem setCodecx_snap (k : Nat) (x : CodecX) : (setCodecx k x s).snap = s.snap := rfl
@[simp] theorem setCodecx_boot (k : Nat) (x : CodecX) : (setCodecx k x s).boot = s.boot := rfl
@[simp] theorem setCodecx_pcie (k : Nat) (x : CodecX) : (setCodecx k x s).pcie = s.pcie := rfl
@[simp] theorem setCodecx_mgmt (k : Nat) (x : CodecX) : (setCodecx k x s).mgmt = s.mgmt := rfl
@[simp] theorem setCodecx_out (k : Nat) (x : CodecX) : (setCodecx k x s).out = s.out := rfl
@[simp] theorem setCodecx_freeCtr (k : Nat) (x : CodecX) : (setCodecx k x s).freeCtr = s.freeCtr := rfl
@[simp] theorem setCodecx_pending (k : Nat) (x : CodecX) : (setCodecx k x s).pending = s.pending := rfl

@[simp] theorem bumpFree_regs : (bumpFree s).regs = s.regs := rfl
@[simp] theorem bumpFree_latches : (bumpFree s).latches = s.latches := rfl
@[simp] theorem bumpFree_mem : (bumpFree s).mem = s.mem := rfl
@[simp] theorem bumpFree_poison : (bumpFree s).poison = s.poison := rfl
@[simp] theorem bumpFree_undef : (bumpFree s).undef = s.undef := rfl
@[simp] theorem bumpFree_markers : (bumpFree s).markers = s.markers := rfl
@[simp] theorem bumpFree_queues : (bumpFree s).queues = s.queues := rfl
@[simp] theorem bumpFree_started : (bumpFree s).started = s.started := rfl
@[simp] theorem bumpFree_nextCmd : (bumpFree s).nextCmd = s.nextCmd := rfl
@[simp] theorem bumpFree_rhalts : (bumpFree s).rhalts = s.rhalts := rfl
@[simp] theorem bumpFree_fwds : (bumpFree s).fwds = s.fwds := rfl
@[simp] theorem bumpFree_cores : (bumpFree s).cores = s.cores := rfl
@[simp] theorem bumpFree_injects : (bumpFree s).injects = s.injects := rfl
@[simp] theorem bumpFree_kvp : (bumpFree s).kvp = s.kvp := rfl
@[simp] theorem bumpFree_acc : (bumpFree s).acc = s.acc := rfl
@[simp] theorem bumpFree_touched : (bumpFree s).touched = s.touched := rfl
@[simp] theorem bumpFree_bank : (bumpFree s).bank = s.bank := rfl
@[simp] theorem bumpFree_streams : (bumpFree s).streams = s.streams := rfl
@[simp] theorem bumpFree_halves : (bumpFree s).halves = s.halves := rfl
@[simp] theorem bumpFree_chans : (bumpFree s).chans = s.chans := rfl
@[simp] theorem bumpFree_stash : (bumpFree s).stash = s.stash := rfl
@[simp] theorem bumpFree_stashD : (bumpFree s).stashD = s.stashD := rfl
@[simp] theorem bumpFree_comps : (bumpFree s).comps = s.comps := rfl
@[simp] theorem bumpFree_ports : (bumpFree s).ports = s.ports := rfl
@[simp] theorem bumpFree_reads : (bumpFree s).reads = s.reads := rfl
@[simp] theorem bumpFree_notices : (bumpFree s).notices = s.notices := rfl
@[simp] theorem bumpFree_redWait : (bumpFree s).redWait = s.redWait := rfl
@[simp] theorem bumpFree_admitted : (bumpFree s).admitted = s.admitted := rfl
@[simp] theorem bumpFree_relay : (bumpFree s).relay = s.relay := rfl
@[simp] theorem bumpFree_keeper : (bumpFree s).keeper = s.keeper := rfl
@[simp] theorem bumpFree_images : (bumpFree s).images = s.images := rfl
@[simp] theorem bumpFree_codecs : (bumpFree s).codecs = s.codecs := rfl
@[simp] theorem bumpFree_power : (bumpFree s).power = s.power := rfl
@[simp] theorem bumpFree_naust : (bumpFree s).naust = s.naust := rfl
@[simp] theorem bumpFree_snap : (bumpFree s).snap = s.snap := rfl
@[simp] theorem bumpFree_boot : (bumpFree s).boot = s.boot := rfl
@[simp] theorem bumpFree_pcie : (bumpFree s).pcie = s.pcie := rfl
@[simp] theorem bumpFree_mgmt : (bumpFree s).mgmt = s.mgmt := rfl
@[simp] theorem bumpFree_out : (bumpFree s).out = s.out := rfl
@[simp] theorem bumpFree_freeCtr : (bumpFree s).freeCtr = s.freeCtr + 1 := rfl
@[simp] theorem bumpFree_pending : (bumpFree s).pending = s.pending := rfl

@[simp] theorem updStarted_regs (c : Nat) (f : Started → Started) : (updStarted c f s).regs = s.regs := rfl
@[simp] theorem updStarted_latches (c : Nat) (f : Started → Started) : (updStarted c f s).latches = s.latches := rfl
@[simp] theorem updStarted_mem (c : Nat) (f : Started → Started) : (updStarted c f s).mem = s.mem := rfl
@[simp] theorem updStarted_poison (c : Nat) (f : Started → Started) : (updStarted c f s).poison = s.poison := rfl
@[simp] theorem updStarted_undef (c : Nat) (f : Started → Started) : (updStarted c f s).undef = s.undef := rfl
@[simp] theorem updStarted_markers (c : Nat) (f : Started → Started) : (updStarted c f s).markers = s.markers := rfl
@[simp] theorem updStarted_queues (c : Nat) (f : Started → Started) : (updStarted c f s).queues = s.queues := rfl
@[simp] theorem updStarted_started (c : Nat) (f : Started → Started) : (updStarted c f s).started = s.started.map (fun x => if x.id = c then f x else x) := rfl
@[simp] theorem updStarted_nextCmd (c : Nat) (f : Started → Started) : (updStarted c f s).nextCmd = s.nextCmd := rfl
@[simp] theorem updStarted_rhalts (c : Nat) (f : Started → Started) : (updStarted c f s).rhalts = s.rhalts := rfl
@[simp] theorem updStarted_fwds (c : Nat) (f : Started → Started) : (updStarted c f s).fwds = s.fwds := rfl
@[simp] theorem updStarted_cores (c : Nat) (f : Started → Started) : (updStarted c f s).cores = s.cores := rfl
@[simp] theorem updStarted_injects (c : Nat) (f : Started → Started) : (updStarted c f s).injects = s.injects := rfl
@[simp] theorem updStarted_kvp (c : Nat) (f : Started → Started) : (updStarted c f s).kvp = s.kvp := rfl
@[simp] theorem updStarted_acc (c : Nat) (f : Started → Started) : (updStarted c f s).acc = s.acc := rfl
@[simp] theorem updStarted_touched (c : Nat) (f : Started → Started) : (updStarted c f s).touched = s.touched := rfl
@[simp] theorem updStarted_bank (c : Nat) (f : Started → Started) : (updStarted c f s).bank = s.bank := rfl
@[simp] theorem updStarted_streams (c : Nat) (f : Started → Started) : (updStarted c f s).streams = s.streams := rfl
@[simp] theorem updStarted_halves (c : Nat) (f : Started → Started) : (updStarted c f s).halves = s.halves := rfl
@[simp] theorem updStarted_chans (c : Nat) (f : Started → Started) : (updStarted c f s).chans = s.chans := rfl
@[simp] theorem updStarted_stash (c : Nat) (f : Started → Started) : (updStarted c f s).stash = s.stash := rfl
@[simp] theorem updStarted_stashD (c : Nat) (f : Started → Started) : (updStarted c f s).stashD = s.stashD := rfl
@[simp] theorem updStarted_comps (c : Nat) (f : Started → Started) : (updStarted c f s).comps = s.comps := rfl
@[simp] theorem updStarted_ports (c : Nat) (f : Started → Started) : (updStarted c f s).ports = s.ports := rfl
@[simp] theorem updStarted_reads (c : Nat) (f : Started → Started) : (updStarted c f s).reads = s.reads := rfl
@[simp] theorem updStarted_notices (c : Nat) (f : Started → Started) : (updStarted c f s).notices = s.notices := rfl
@[simp] theorem updStarted_redWait (c : Nat) (f : Started → Started) : (updStarted c f s).redWait = s.redWait := rfl
@[simp] theorem updStarted_admitted (c : Nat) (f : Started → Started) : (updStarted c f s).admitted = s.admitted := rfl
@[simp] theorem updStarted_relay (c : Nat) (f : Started → Started) : (updStarted c f s).relay = s.relay := rfl
@[simp] theorem updStarted_keeper (c : Nat) (f : Started → Started) : (updStarted c f s).keeper = s.keeper := rfl
@[simp] theorem updStarted_images (c : Nat) (f : Started → Started) : (updStarted c f s).images = s.images := rfl
@[simp] theorem updStarted_codecs (c : Nat) (f : Started → Started) : (updStarted c f s).codecs = s.codecs := rfl
@[simp] theorem updStarted_power (c : Nat) (f : Started → Started) : (updStarted c f s).power = s.power := rfl
@[simp] theorem updStarted_naust (c : Nat) (f : Started → Started) : (updStarted c f s).naust = s.naust := rfl
@[simp] theorem updStarted_snap (c : Nat) (f : Started → Started) : (updStarted c f s).snap = s.snap := rfl
@[simp] theorem updStarted_boot (c : Nat) (f : Started → Started) : (updStarted c f s).boot = s.boot := rfl
@[simp] theorem updStarted_pcie (c : Nat) (f : Started → Started) : (updStarted c f s).pcie = s.pcie := rfl
@[simp] theorem updStarted_mgmt (c : Nat) (f : Started → Started) : (updStarted c f s).mgmt = s.mgmt := rfl
@[simp] theorem updStarted_out (c : Nat) (f : Started → Started) : (updStarted c f s).out = s.out := rfl
@[simp] theorem updStarted_freeCtr (c : Nat) (f : Started → Started) : (updStarted c f s).freeCtr = s.freeCtr := rfl
@[simp] theorem updStarted_pending (c : Nat) (f : Started → Started) : (updStarted c f s).pending = s.pending := rfl

@[simp] theorem markDone_regs (c : Nat) : (markDone c s).regs = s.regs := rfl
@[simp] theorem markDone_latches (c : Nat) : (markDone c s).latches = s.latches := rfl
@[simp] theorem markDone_mem (c : Nat) : (markDone c s).mem = s.mem := rfl
@[simp] theorem markDone_poison (c : Nat) : (markDone c s).poison = s.poison := rfl
@[simp] theorem markDone_undef (c : Nat) : (markDone c s).undef = s.undef := rfl
@[simp] theorem markDone_markers (c : Nat) : (markDone c s).markers = s.markers := rfl
@[simp] theorem markDone_queues (c : Nat) : (markDone c s).queues = s.queues := rfl
@[simp] theorem markDone_started (c : Nat) : (markDone c s).started = s.started.map (fun x => if x.id = c then { x with state := .done } else x) := rfl
@[simp] theorem markDone_nextCmd (c : Nat) : (markDone c s).nextCmd = s.nextCmd := rfl
@[simp] theorem markDone_rhalts (c : Nat) : (markDone c s).rhalts = s.rhalts := rfl
@[simp] theorem markDone_fwds (c : Nat) : (markDone c s).fwds = s.fwds := rfl
@[simp] theorem markDone_cores (c : Nat) : (markDone c s).cores = s.cores := rfl
@[simp] theorem markDone_injects (c : Nat) : (markDone c s).injects = s.injects := rfl
@[simp] theorem markDone_kvp (c : Nat) : (markDone c s).kvp = s.kvp := rfl
@[simp] theorem markDone_acc (c : Nat) : (markDone c s).acc = s.acc := rfl
@[simp] theorem markDone_touched (c : Nat) : (markDone c s).touched = s.touched := rfl
@[simp] theorem markDone_bank (c : Nat) : (markDone c s).bank = s.bank := rfl
@[simp] theorem markDone_streams (c : Nat) : (markDone c s).streams = s.streams := rfl
@[simp] theorem markDone_halves (c : Nat) : (markDone c s).halves = s.halves := rfl
@[simp] theorem markDone_chans (c : Nat) : (markDone c s).chans = s.chans := rfl
@[simp] theorem markDone_stash (c : Nat) : (markDone c s).stash = s.stash := rfl
@[simp] theorem markDone_stashD (c : Nat) : (markDone c s).stashD = s.stashD := rfl
@[simp] theorem markDone_comps (c : Nat) : (markDone c s).comps = s.comps := rfl
@[simp] theorem markDone_ports (c : Nat) : (markDone c s).ports = s.ports := rfl
@[simp] theorem markDone_reads (c : Nat) : (markDone c s).reads = s.reads := rfl
@[simp] theorem markDone_notices (c : Nat) : (markDone c s).notices = s.notices := rfl
@[simp] theorem markDone_redWait (c : Nat) : (markDone c s).redWait = s.redWait := rfl
@[simp] theorem markDone_admitted (c : Nat) : (markDone c s).admitted = s.admitted := rfl
@[simp] theorem markDone_relay (c : Nat) : (markDone c s).relay = s.relay := rfl
@[simp] theorem markDone_keeper (c : Nat) : (markDone c s).keeper = s.keeper := rfl
@[simp] theorem markDone_images (c : Nat) : (markDone c s).images = s.images := rfl
@[simp] theorem markDone_codecs (c : Nat) : (markDone c s).codecs = s.codecs := rfl
@[simp] theorem markDone_power (c : Nat) : (markDone c s).power = s.power := rfl
@[simp] theorem markDone_naust (c : Nat) : (markDone c s).naust = s.naust := rfl
@[simp] theorem markDone_snap (c : Nat) : (markDone c s).snap = s.snap := rfl
@[simp] theorem markDone_boot (c : Nat) : (markDone c s).boot = s.boot := rfl
@[simp] theorem markDone_pcie (c : Nat) : (markDone c s).pcie = s.pcie := rfl
@[simp] theorem markDone_mgmt (c : Nat) : (markDone c s).mgmt = s.mgmt := rfl
@[simp] theorem markDone_out (c : Nat) : (markDone c s).out = s.out := rfl
@[simp] theorem markDone_freeCtr (c : Nat) : (markDone c s).freeCtr = s.freeCtr := rfl
@[simp] theorem markDone_pending (c : Nat) : (markDone c s).pending = s.pending := rfl

@[simp] theorem addFlags_regs (c fl : Nat) : (addFlags c fl s).regs = s.regs := rfl
@[simp] theorem addFlags_latches (c fl : Nat) : (addFlags c fl s).latches = s.latches := rfl
@[simp] theorem addFlags_mem (c fl : Nat) : (addFlags c fl s).mem = s.mem := rfl
@[simp] theorem addFlags_poison (c fl : Nat) : (addFlags c fl s).poison = s.poison := rfl
@[simp] theorem addFlags_undef (c fl : Nat) : (addFlags c fl s).undef = s.undef := rfl
@[simp] theorem addFlags_markers (c fl : Nat) : (addFlags c fl s).markers = s.markers := rfl
@[simp] theorem addFlags_queues (c fl : Nat) : (addFlags c fl s).queues = s.queues := rfl
@[simp] theorem addFlags_started (c fl : Nat) : (addFlags c fl s).started = s.started.map (fun x => if x.id = c then { x with flags := x.flags ||| fl } else x) := rfl
@[simp] theorem addFlags_nextCmd (c fl : Nat) : (addFlags c fl s).nextCmd = s.nextCmd := rfl
@[simp] theorem addFlags_rhalts (c fl : Nat) : (addFlags c fl s).rhalts = s.rhalts := rfl
@[simp] theorem addFlags_fwds (c fl : Nat) : (addFlags c fl s).fwds = s.fwds := rfl
@[simp] theorem addFlags_cores (c fl : Nat) : (addFlags c fl s).cores = s.cores := rfl
@[simp] theorem addFlags_injects (c fl : Nat) : (addFlags c fl s).injects = s.injects := rfl
@[simp] theorem addFlags_kvp (c fl : Nat) : (addFlags c fl s).kvp = s.kvp := rfl
@[simp] theorem addFlags_acc (c fl : Nat) : (addFlags c fl s).acc = s.acc := rfl
@[simp] theorem addFlags_touched (c fl : Nat) : (addFlags c fl s).touched = s.touched := rfl
@[simp] theorem addFlags_bank (c fl : Nat) : (addFlags c fl s).bank = s.bank := rfl
@[simp] theorem addFlags_streams (c fl : Nat) : (addFlags c fl s).streams = s.streams := rfl
@[simp] theorem addFlags_halves (c fl : Nat) : (addFlags c fl s).halves = s.halves := rfl
@[simp] theorem addFlags_chans (c fl : Nat) : (addFlags c fl s).chans = s.chans := rfl
@[simp] theorem addFlags_stash (c fl : Nat) : (addFlags c fl s).stash = s.stash := rfl
@[simp] theorem addFlags_stashD (c fl : Nat) : (addFlags c fl s).stashD = s.stashD := rfl
@[simp] theorem addFlags_comps (c fl : Nat) : (addFlags c fl s).comps = s.comps := rfl
@[simp] theorem addFlags_ports (c fl : Nat) : (addFlags c fl s).ports = s.ports := rfl
@[simp] theorem addFlags_reads (c fl : Nat) : (addFlags c fl s).reads = s.reads := rfl
@[simp] theorem addFlags_notices (c fl : Nat) : (addFlags c fl s).notices = s.notices := rfl
@[simp] theorem addFlags_redWait (c fl : Nat) : (addFlags c fl s).redWait = s.redWait := rfl
@[simp] theorem addFlags_admitted (c fl : Nat) : (addFlags c fl s).admitted = s.admitted := rfl
@[simp] theorem addFlags_relay (c fl : Nat) : (addFlags c fl s).relay = s.relay := rfl
@[simp] theorem addFlags_keeper (c fl : Nat) : (addFlags c fl s).keeper = s.keeper := rfl
@[simp] theorem addFlags_images (c fl : Nat) : (addFlags c fl s).images = s.images := rfl
@[simp] theorem addFlags_codecs (c fl : Nat) : (addFlags c fl s).codecs = s.codecs := rfl
@[simp] theorem addFlags_power (c fl : Nat) : (addFlags c fl s).power = s.power := rfl
@[simp] theorem addFlags_naust (c fl : Nat) : (addFlags c fl s).naust = s.naust := rfl
@[simp] theorem addFlags_snap (c fl : Nat) : (addFlags c fl s).snap = s.snap := rfl
@[simp] theorem addFlags_boot (c fl : Nat) : (addFlags c fl s).boot = s.boot := rfl
@[simp] theorem addFlags_pcie (c fl : Nat) : (addFlags c fl s).pcie = s.pcie := rfl
@[simp] theorem addFlags_mgmt (c fl : Nat) : (addFlags c fl s).mgmt = s.mgmt := rfl
@[simp] theorem addFlags_out (c fl : Nat) : (addFlags c fl s).out = s.out := rfl
@[simp] theorem addFlags_freeCtr (c fl : Nat) : (addFlags c fl s).freeCtr = s.freeCtr := rfl
@[simp] theorem addFlags_pending (c fl : Nat) : (addFlags c fl s).pending = s.pending := rfl

@[simp] theorem setProg_regs (c n : Nat) : (setProg c n s).regs = s.regs := rfl
@[simp] theorem setProg_latches (c n : Nat) : (setProg c n s).latches = s.latches := rfl
@[simp] theorem setProg_mem (c n : Nat) : (setProg c n s).mem = s.mem := rfl
@[simp] theorem setProg_poison (c n : Nat) : (setProg c n s).poison = s.poison := rfl
@[simp] theorem setProg_undef (c n : Nat) : (setProg c n s).undef = s.undef := rfl
@[simp] theorem setProg_markers (c n : Nat) : (setProg c n s).markers = s.markers := rfl
@[simp] theorem setProg_queues (c n : Nat) : (setProg c n s).queues = s.queues := rfl
@[simp] theorem setProg_started (c n : Nat) : (setProg c n s).started = s.started.map (fun x => if x.id = c then { x with prog := n, begun := true } else x) := rfl
@[simp] theorem setProg_nextCmd (c n : Nat) : (setProg c n s).nextCmd = s.nextCmd := rfl
@[simp] theorem setProg_rhalts (c n : Nat) : (setProg c n s).rhalts = s.rhalts := rfl
@[simp] theorem setProg_fwds (c n : Nat) : (setProg c n s).fwds = s.fwds := rfl
@[simp] theorem setProg_cores (c n : Nat) : (setProg c n s).cores = s.cores := rfl
@[simp] theorem setProg_injects (c n : Nat) : (setProg c n s).injects = s.injects := rfl
@[simp] theorem setProg_kvp (c n : Nat) : (setProg c n s).kvp = s.kvp := rfl
@[simp] theorem setProg_acc (c n : Nat) : (setProg c n s).acc = s.acc := rfl
@[simp] theorem setProg_touched (c n : Nat) : (setProg c n s).touched = s.touched := rfl
@[simp] theorem setProg_bank (c n : Nat) : (setProg c n s).bank = s.bank := rfl
@[simp] theorem setProg_streams (c n : Nat) : (setProg c n s).streams = s.streams := rfl
@[simp] theorem setProg_halves (c n : Nat) : (setProg c n s).halves = s.halves := rfl
@[simp] theorem setProg_chans (c n : Nat) : (setProg c n s).chans = s.chans := rfl
@[simp] theorem setProg_stash (c n : Nat) : (setProg c n s).stash = s.stash := rfl
@[simp] theorem setProg_stashD (c n : Nat) : (setProg c n s).stashD = s.stashD := rfl
@[simp] theorem setProg_comps (c n : Nat) : (setProg c n s).comps = s.comps := rfl
@[simp] theorem setProg_ports (c n : Nat) : (setProg c n s).ports = s.ports := rfl
@[simp] theorem setProg_reads (c n : Nat) : (setProg c n s).reads = s.reads := rfl
@[simp] theorem setProg_notices (c n : Nat) : (setProg c n s).notices = s.notices := rfl
@[simp] theorem setProg_redWait (c n : Nat) : (setProg c n s).redWait = s.redWait := rfl
@[simp] theorem setProg_admitted (c n : Nat) : (setProg c n s).admitted = s.admitted := rfl
@[simp] theorem setProg_relay (c n : Nat) : (setProg c n s).relay = s.relay := rfl
@[simp] theorem setProg_keeper (c n : Nat) : (setProg c n s).keeper = s.keeper := rfl
@[simp] theorem setProg_images (c n : Nat) : (setProg c n s).images = s.images := rfl
@[simp] theorem setProg_codecs (c n : Nat) : (setProg c n s).codecs = s.codecs := rfl
@[simp] theorem setProg_power (c n : Nat) : (setProg c n s).power = s.power := rfl
@[simp] theorem setProg_naust (c n : Nat) : (setProg c n s).naust = s.naust := rfl
@[simp] theorem setProg_snap (c n : Nat) : (setProg c n s).snap = s.snap := rfl
@[simp] theorem setProg_boot (c n : Nat) : (setProg c n s).boot = s.boot := rfl
@[simp] theorem setProg_pcie (c n : Nat) : (setProg c n s).pcie = s.pcie := rfl
@[simp] theorem setProg_mgmt (c n : Nat) : (setProg c n s).mgmt = s.mgmt := rfl
@[simp] theorem setProg_out (c n : Nat) : (setProg c n s).out = s.out := rfl
@[simp] theorem setProg_freeCtr (c n : Nat) : (setProg c n s).freeCtr = s.freeCtr := rfl
@[simp] theorem setProg_pending (c n : Nat) : (setProg c n s).pending = s.pending := rfl

@[simp] theorem storeBytes_regs (a : Nat) (b : Bytes) (bad : Bool) : (storeBytes a b bad s).regs = s.regs := rfl
@[simp] theorem storeBytes_latches (a : Nat) (b : Bytes) (bad : Bool) : (storeBytes a b bad s).latches = s.latches := rfl
@[simp] theorem storeBytes_mem (a : Nat) (b : Bytes) (bad : Bool) : (storeBytes a b bad s).mem = putBytes a b s.mem := rfl
@[simp] theorem storeBytes_poison (a : Nat) (b : Bytes) (bad : Bool) : (storeBytes a b bad s).poison = poisonAfter a b.length bad s.poison := rfl
@[simp] theorem storeBytes_undef (a : Nat) (b : Bytes) (bad : Bool) : (storeBytes a b bad s).undef = cutUndef a (a + b.length) s.undef := rfl
@[simp] theorem storeBytes_markers (a : Nat) (b : Bytes) (bad : Bool) : (storeBytes a b bad s).markers = s.markers := rfl
@[simp] theorem storeBytes_queues (a : Nat) (b : Bytes) (bad : Bool) : (storeBytes a b bad s).queues = s.queues := rfl
@[simp] theorem storeBytes_started (a : Nat) (b : Bytes) (bad : Bool) : (storeBytes a b bad s).started = s.started := rfl
@[simp] theorem storeBytes_nextCmd (a : Nat) (b : Bytes) (bad : Bool) : (storeBytes a b bad s).nextCmd = s.nextCmd := rfl
@[simp] theorem storeBytes_rhalts (a : Nat) (b : Bytes) (bad : Bool) : (storeBytes a b bad s).rhalts = s.rhalts := rfl
@[simp] theorem storeBytes_fwds (a : Nat) (b : Bytes) (bad : Bool) : (storeBytes a b bad s).fwds = s.fwds := rfl
@[simp] theorem storeBytes_cores (a : Nat) (b : Bytes) (bad : Bool) : (storeBytes a b bad s).cores = s.cores := rfl
@[simp] theorem storeBytes_injects (a : Nat) (b : Bytes) (bad : Bool) : (storeBytes a b bad s).injects = s.injects := rfl
@[simp] theorem storeBytes_kvp (a : Nat) (b : Bytes) (bad : Bool) : (storeBytes a b bad s).kvp = s.kvp := rfl
@[simp] theorem storeBytes_acc (a : Nat) (b : Bytes) (bad : Bool) : (storeBytes a b bad s).acc = s.acc := rfl
@[simp] theorem storeBytes_touched (a : Nat) (b : Bytes) (bad : Bool) : (storeBytes a b bad s).touched = (groupsOf a b.length).foldl addNew s.touched := rfl
@[simp] theorem storeBytes_bank (a : Nat) (b : Bytes) (bad : Bool) : (storeBytes a b bad s).bank = s.bank := rfl
@[simp] theorem storeBytes_streams (a : Nat) (b : Bytes) (bad : Bool) : (storeBytes a b bad s).streams = s.streams := rfl
@[simp] theorem storeBytes_halves (a : Nat) (b : Bytes) (bad : Bool) : (storeBytes a b bad s).halves = s.halves := rfl
@[simp] theorem storeBytes_chans (a : Nat) (b : Bytes) (bad : Bool) : (storeBytes a b bad s).chans = s.chans := rfl
@[simp] theorem storeBytes_stash (a : Nat) (b : Bytes) (bad : Bool) : (storeBytes a b bad s).stash = s.stash := rfl
@[simp] theorem storeBytes_stashD (a : Nat) (b : Bytes) (bad : Bool) : (storeBytes a b bad s).stashD = s.stashD := rfl
@[simp] theorem storeBytes_comps (a : Nat) (b : Bytes) (bad : Bool) : (storeBytes a b bad s).comps = s.comps := rfl
@[simp] theorem storeBytes_ports (a : Nat) (b : Bytes) (bad : Bool) : (storeBytes a b bad s).ports = s.ports := rfl
@[simp] theorem storeBytes_reads (a : Nat) (b : Bytes) (bad : Bool) : (storeBytes a b bad s).reads = s.reads := rfl
@[simp] theorem storeBytes_notices (a : Nat) (b : Bytes) (bad : Bool) : (storeBytes a b bad s).notices = s.notices := rfl
@[simp] theorem storeBytes_redWait (a : Nat) (b : Bytes) (bad : Bool) : (storeBytes a b bad s).redWait = s.redWait := rfl
@[simp] theorem storeBytes_admitted (a : Nat) (b : Bytes) (bad : Bool) : (storeBytes a b bad s).admitted = s.admitted := rfl
@[simp] theorem storeBytes_relay (a : Nat) (b : Bytes) (bad : Bool) : (storeBytes a b bad s).relay = s.relay := rfl
@[simp] theorem storeBytes_keeper (a : Nat) (b : Bytes) (bad : Bool) : (storeBytes a b bad s).keeper = s.keeper := rfl
@[simp] theorem storeBytes_images (a : Nat) (b : Bytes) (bad : Bool) : (storeBytes a b bad s).images = s.images := rfl
@[simp] theorem storeBytes_codecs (a : Nat) (b : Bytes) (bad : Bool) : (storeBytes a b bad s).codecs = s.codecs := rfl
@[simp] theorem storeBytes_power (a : Nat) (b : Bytes) (bad : Bool) : (storeBytes a b bad s).power = s.power := rfl
@[simp] theorem storeBytes_naust (a : Nat) (b : Bytes) (bad : Bool) : (storeBytes a b bad s).naust = s.naust := rfl
@[simp] theorem storeBytes_snap (a : Nat) (b : Bytes) (bad : Bool) : (storeBytes a b bad s).snap = s.snap := rfl
@[simp] theorem storeBytes_boot (a : Nat) (b : Bytes) (bad : Bool) : (storeBytes a b bad s).boot = s.boot := rfl
@[simp] theorem storeBytes_pcie (a : Nat) (b : Bytes) (bad : Bool) : (storeBytes a b bad s).pcie = s.pcie := rfl
@[simp] theorem storeBytes_mgmt (a : Nat) (b : Bytes) (bad : Bool) : (storeBytes a b bad s).mgmt = s.mgmt := rfl
@[simp] theorem storeBytes_out (a : Nat) (b : Bytes) (bad : Bool) : (storeBytes a b bad s).out = s.out := rfl
@[simp] theorem storeBytes_freeCtr (a : Nat) (b : Bytes) (bad : Bool) : (storeBytes a b bad s).freeCtr = s.freeCtr := rfl
@[simp] theorem storeBytes_pending (a : Nat) (b : Bytes) (bad : Bool) : (storeBytes a b bad s).pending = s.pending := rfl

@[simp] theorem forgetRange_regs (lo hi : Nat) : (forgetRange lo hi s).regs = s.regs := rfl
@[simp] theorem forgetRange_latches (lo hi : Nat) : (forgetRange lo hi s).latches = s.latches := rfl
@[simp] theorem forgetRange_mem (lo hi : Nat) : (forgetRange lo hi s).mem = s.mem := rfl
@[simp] theorem forgetRange_poison (lo hi : Nat) : (forgetRange lo hi s).poison = s.poison := rfl
@[simp] theorem forgetRange_undef (lo hi : Nat) : (forgetRange lo hi s).undef = cutUndef lo hi s.undef ++ (if lo < hi then [{ lo := lo, hi := hi, tag := s.freeCtr }] else []) := rfl
@[simp] theorem forgetRange_markers (lo hi : Nat) : (forgetRange lo hi s).markers = s.markers := rfl
@[simp] theorem forgetRange_queues (lo hi : Nat) : (forgetRange lo hi s).queues = s.queues := rfl
@[simp] theorem forgetRange_started (lo hi : Nat) : (forgetRange lo hi s).started = s.started := rfl
@[simp] theorem forgetRange_nextCmd (lo hi : Nat) : (forgetRange lo hi s).nextCmd = s.nextCmd := rfl
@[simp] theorem forgetRange_rhalts (lo hi : Nat) : (forgetRange lo hi s).rhalts = s.rhalts := rfl
@[simp] theorem forgetRange_fwds (lo hi : Nat) : (forgetRange lo hi s).fwds = s.fwds := rfl
@[simp] theorem forgetRange_cores (lo hi : Nat) : (forgetRange lo hi s).cores = s.cores := rfl
@[simp] theorem forgetRange_injects (lo hi : Nat) : (forgetRange lo hi s).injects = s.injects := rfl
@[simp] theorem forgetRange_kvp (lo hi : Nat) : (forgetRange lo hi s).kvp = s.kvp := rfl
@[simp] theorem forgetRange_acc (lo hi : Nat) : (forgetRange lo hi s).acc = s.acc := rfl
@[simp] theorem forgetRange_touched (lo hi : Nat) : (forgetRange lo hi s).touched = s.touched := rfl
@[simp] theorem forgetRange_bank (lo hi : Nat) : (forgetRange lo hi s).bank = s.bank := rfl
@[simp] theorem forgetRange_streams (lo hi : Nat) : (forgetRange lo hi s).streams = s.streams := rfl
@[simp] theorem forgetRange_halves (lo hi : Nat) : (forgetRange lo hi s).halves = s.halves := rfl
@[simp] theorem forgetRange_chans (lo hi : Nat) : (forgetRange lo hi s).chans = s.chans := rfl
@[simp] theorem forgetRange_stash (lo hi : Nat) : (forgetRange lo hi s).stash = s.stash := rfl
@[simp] theorem forgetRange_stashD (lo hi : Nat) : (forgetRange lo hi s).stashD = s.stashD := rfl
@[simp] theorem forgetRange_comps (lo hi : Nat) : (forgetRange lo hi s).comps = s.comps := rfl
@[simp] theorem forgetRange_ports (lo hi : Nat) : (forgetRange lo hi s).ports = s.ports := rfl
@[simp] theorem forgetRange_reads (lo hi : Nat) : (forgetRange lo hi s).reads = s.reads := rfl
@[simp] theorem forgetRange_notices (lo hi : Nat) : (forgetRange lo hi s).notices = s.notices := rfl
@[simp] theorem forgetRange_redWait (lo hi : Nat) : (forgetRange lo hi s).redWait = s.redWait := rfl
@[simp] theorem forgetRange_admitted (lo hi : Nat) : (forgetRange lo hi s).admitted = s.admitted := rfl
@[simp] theorem forgetRange_relay (lo hi : Nat) : (forgetRange lo hi s).relay = s.relay := rfl
@[simp] theorem forgetRange_keeper (lo hi : Nat) : (forgetRange lo hi s).keeper = s.keeper := rfl
@[simp] theorem forgetRange_images (lo hi : Nat) : (forgetRange lo hi s).images = s.images := rfl
@[simp] theorem forgetRange_codecs (lo hi : Nat) : (forgetRange lo hi s).codecs = s.codecs := rfl
@[simp] theorem forgetRange_power (lo hi : Nat) : (forgetRange lo hi s).power = s.power := rfl
@[simp] theorem forgetRange_naust (lo hi : Nat) : (forgetRange lo hi s).naust = s.naust := rfl
@[simp] theorem forgetRange_snap (lo hi : Nat) : (forgetRange lo hi s).snap = s.snap := rfl
@[simp] theorem forgetRange_boot (lo hi : Nat) : (forgetRange lo hi s).boot = s.boot := rfl
@[simp] theorem forgetRange_pcie (lo hi : Nat) : (forgetRange lo hi s).pcie = s.pcie := rfl
@[simp] theorem forgetRange_mgmt (lo hi : Nat) : (forgetRange lo hi s).mgmt = s.mgmt := rfl
@[simp] theorem forgetRange_out (lo hi : Nat) : (forgetRange lo hi s).out = s.out := rfl
@[simp] theorem forgetRange_freeCtr (lo hi : Nat) : (forgetRange lo hi s).freeCtr = s.freeCtr + 1 := rfl
@[simp] theorem forgetRange_pending (lo hi : Nat) : (forgetRange lo hi s).pending = s.pending := rfl

@[simp] theorem touchRange_regs (a n : Nat) : (touchRange a n s).regs = s.regs := rfl
@[simp] theorem touchRange_latches (a n : Nat) : (touchRange a n s).latches = s.latches := rfl
@[simp] theorem touchRange_mem (a n : Nat) : (touchRange a n s).mem = s.mem := rfl
@[simp] theorem touchRange_poison (a n : Nat) : (touchRange a n s).poison = s.poison := rfl
@[simp] theorem touchRange_undef (a n : Nat) : (touchRange a n s).undef = s.undef := rfl
@[simp] theorem touchRange_markers (a n : Nat) : (touchRange a n s).markers = s.markers := rfl
@[simp] theorem touchRange_queues (a n : Nat) : (touchRange a n s).queues = s.queues := rfl
@[simp] theorem touchRange_started (a n : Nat) : (touchRange a n s).started = s.started := rfl
@[simp] theorem touchRange_nextCmd (a n : Nat) : (touchRange a n s).nextCmd = s.nextCmd := rfl
@[simp] theorem touchRange_rhalts (a n : Nat) : (touchRange a n s).rhalts = s.rhalts := rfl
@[simp] theorem touchRange_fwds (a n : Nat) : (touchRange a n s).fwds = s.fwds := rfl
@[simp] theorem touchRange_cores (a n : Nat) : (touchRange a n s).cores = s.cores := rfl
@[simp] theorem touchRange_injects (a n : Nat) : (touchRange a n s).injects = s.injects := rfl
@[simp] theorem touchRange_kvp (a n : Nat) : (touchRange a n s).kvp = s.kvp := rfl
@[simp] theorem touchRange_acc (a n : Nat) : (touchRange a n s).acc = s.acc := rfl
@[simp] theorem touchRange_touched (a n : Nat) : (touchRange a n s).touched = (groupsOf a n).foldl addNew s.touched := rfl
@[simp] theorem touchRange_bank (a n : Nat) : (touchRange a n s).bank = s.bank := rfl
@[simp] theorem touchRange_streams (a n : Nat) : (touchRange a n s).streams = s.streams := rfl
@[simp] theorem touchRange_halves (a n : Nat) : (touchRange a n s).halves = s.halves := rfl
@[simp] theorem touchRange_chans (a n : Nat) : (touchRange a n s).chans = s.chans := rfl
@[simp] theorem touchRange_stash (a n : Nat) : (touchRange a n s).stash = s.stash := rfl
@[simp] theorem touchRange_stashD (a n : Nat) : (touchRange a n s).stashD = s.stashD := rfl
@[simp] theorem touchRange_comps (a n : Nat) : (touchRange a n s).comps = s.comps := rfl
@[simp] theorem touchRange_ports (a n : Nat) : (touchRange a n s).ports = s.ports := rfl
@[simp] theorem touchRange_reads (a n : Nat) : (touchRange a n s).reads = s.reads := rfl
@[simp] theorem touchRange_notices (a n : Nat) : (touchRange a n s).notices = s.notices := rfl
@[simp] theorem touchRange_redWait (a n : Nat) : (touchRange a n s).redWait = s.redWait := rfl
@[simp] theorem touchRange_admitted (a n : Nat) : (touchRange a n s).admitted = s.admitted := rfl
@[simp] theorem touchRange_relay (a n : Nat) : (touchRange a n s).relay = s.relay := rfl
@[simp] theorem touchRange_keeper (a n : Nat) : (touchRange a n s).keeper = s.keeper := rfl
@[simp] theorem touchRange_images (a n : Nat) : (touchRange a n s).images = s.images := rfl
@[simp] theorem touchRange_codecs (a n : Nat) : (touchRange a n s).codecs = s.codecs := rfl
@[simp] theorem touchRange_power (a n : Nat) : (touchRange a n s).power = s.power := rfl
@[simp] theorem touchRange_naust (a n : Nat) : (touchRange a n s).naust = s.naust := rfl
@[simp] theorem touchRange_snap (a n : Nat) : (touchRange a n s).snap = s.snap := rfl
@[simp] theorem touchRange_boot (a n : Nat) : (touchRange a n s).boot = s.boot := rfl
@[simp] theorem touchRange_pcie (a n : Nat) : (touchRange a n s).pcie = s.pcie := rfl
@[simp] theorem touchRange_mgmt (a n : Nat) : (touchRange a n s).mgmt = s.mgmt := rfl
@[simp] theorem touchRange_out (a n : Nat) : (touchRange a n s).out = s.out := rfl
@[simp] theorem touchRange_freeCtr (a n : Nat) : (touchRange a n s).freeCtr = s.freeCtr := rfl
@[simp] theorem touchRange_pending (a n : Nat) : (touchRange a n s).pending = s.pending := rfl

@[simp] theorem zeroRange_regs (lo hi : Nat) : (zeroRange lo hi s).regs = s.regs := rfl
@[simp] theorem zeroRange_latches (lo hi : Nat) : (zeroRange lo hi s).latches = s.latches := rfl
@[simp] theorem zeroRange_mem (lo hi : Nat) : (zeroRange lo hi s).mem = s.mem.filter (fun c => !(decide (lo ≤ c.1) && decide (c.1 < hi))) := rfl
@[simp] theorem zeroRange_poison (lo hi : Nat) : (zeroRange lo hi s).poison = s.poison.filter (fun x => !(decide (lo ≤ 128 * x) && decide (128 * x + 128 ≤ hi))) := rfl
@[simp] theorem zeroRange_undef (lo hi : Nat) : (zeroRange lo hi s).undef = cutUndef lo hi s.undef := rfl
@[simp] theorem zeroRange_markers (lo hi : Nat) : (zeroRange lo hi s).markers = s.markers := rfl
@[simp] theorem zeroRange_queues (lo hi : Nat) : (zeroRange lo hi s).queues = s.queues := rfl
@[simp] theorem zeroRange_started (lo hi : Nat) : (zeroRange lo hi s).started = s.started := rfl
@[simp] theorem zeroRange_nextCmd (lo hi : Nat) : (zeroRange lo hi s).nextCmd = s.nextCmd := rfl
@[simp] theorem zeroRange_rhalts (lo hi : Nat) : (zeroRange lo hi s).rhalts = s.rhalts := rfl
@[simp] theorem zeroRange_fwds (lo hi : Nat) : (zeroRange lo hi s).fwds = s.fwds := rfl
@[simp] theorem zeroRange_cores (lo hi : Nat) : (zeroRange lo hi s).cores = s.cores := rfl
@[simp] theorem zeroRange_injects (lo hi : Nat) : (zeroRange lo hi s).injects = s.injects := rfl
@[simp] theorem zeroRange_kvp (lo hi : Nat) : (zeroRange lo hi s).kvp = s.kvp := rfl
@[simp] theorem zeroRange_acc (lo hi : Nat) : (zeroRange lo hi s).acc = s.acc := rfl
@[simp] theorem zeroRange_touched (lo hi : Nat) : (zeroRange lo hi s).touched = s.touched := rfl
@[simp] theorem zeroRange_bank (lo hi : Nat) : (zeroRange lo hi s).bank = s.bank := rfl
@[simp] theorem zeroRange_streams (lo hi : Nat) : (zeroRange lo hi s).streams = s.streams := rfl
@[simp] theorem zeroRange_halves (lo hi : Nat) : (zeroRange lo hi s).halves = s.halves := rfl
@[simp] theorem zeroRange_chans (lo hi : Nat) : (zeroRange lo hi s).chans = s.chans := rfl
@[simp] theorem zeroRange_stash (lo hi : Nat) : (zeroRange lo hi s).stash = s.stash := rfl
@[simp] theorem zeroRange_stashD (lo hi : Nat) : (zeroRange lo hi s).stashD = s.stashD := rfl
@[simp] theorem zeroRange_comps (lo hi : Nat) : (zeroRange lo hi s).comps = s.comps := rfl
@[simp] theorem zeroRange_ports (lo hi : Nat) : (zeroRange lo hi s).ports = s.ports := rfl
@[simp] theorem zeroRange_reads (lo hi : Nat) : (zeroRange lo hi s).reads = s.reads := rfl
@[simp] theorem zeroRange_notices (lo hi : Nat) : (zeroRange lo hi s).notices = s.notices := rfl
@[simp] theorem zeroRange_redWait (lo hi : Nat) : (zeroRange lo hi s).redWait = s.redWait := rfl
@[simp] theorem zeroRange_admitted (lo hi : Nat) : (zeroRange lo hi s).admitted = s.admitted := rfl
@[simp] theorem zeroRange_relay (lo hi : Nat) : (zeroRange lo hi s).relay = s.relay := rfl
@[simp] theorem zeroRange_keeper (lo hi : Nat) : (zeroRange lo hi s).keeper = s.keeper := rfl
@[simp] theorem zeroRange_images (lo hi : Nat) : (zeroRange lo hi s).images = s.images := rfl
@[simp] theorem zeroRange_codecs (lo hi : Nat) : (zeroRange lo hi s).codecs = s.codecs := rfl
@[simp] theorem zeroRange_power (lo hi : Nat) : (zeroRange lo hi s).power = s.power := rfl
@[simp] theorem zeroRange_naust (lo hi : Nat) : (zeroRange lo hi s).naust = s.naust := rfl
@[simp] theorem zeroRange_snap (lo hi : Nat) : (zeroRange lo hi s).snap = s.snap := rfl
@[simp] theorem zeroRange_boot (lo hi : Nat) : (zeroRange lo hi s).boot = s.boot := rfl
@[simp] theorem zeroRange_pcie (lo hi : Nat) : (zeroRange lo hi s).pcie = s.pcie := rfl
@[simp] theorem zeroRange_mgmt (lo hi : Nat) : (zeroRange lo hi s).mgmt = s.mgmt := rfl
@[simp] theorem zeroRange_out (lo hi : Nat) : (zeroRange lo hi s).out = s.out := rfl
@[simp] theorem zeroRange_freeCtr (lo hi : Nat) : (zeroRange lo hi s).freeCtr = s.freeCtr := rfl
@[simp] theorem zeroRange_pending (lo hi : Nat) : (zeroRange lo hi s).pending = s.pending := rfl

end Sys2Proof.Machine
end

