-- ==== Sys2Proof/Laws/Ops.lean ====
section
/-! SUPPORT. What the shared operations do, once each: registers read after a write, members of lists, memory and its bytes,
interrupts and markers. -/

namespace Sys2Proof.Machine

open Sys2Proof

variable (s : State)

/-! ### Registers -/

@[simp] theorem rget_rset_self (o v : Nat) : rget o (rset o v s) = v := AL.get_set_self _ _ _ _

theorem rget_rset_ne {o p : Nat} (h : o ≠ p) (v : Nat) : rget o (rset p v s) = rget o s := AL.get_set_ne _ _ h _ _

theorem rget_rset (o p v : Nat) : rget o (rset p v s) = if o = p then v else rget o s := by
  split
  · subst o; exact rget_rset_self s p v
  · exact rget_rset_ne s ‹_› v

@[simp] theorem rget_rsetBits_self (o hi lo x : Nat) : rget o (rsetBits o hi lo x s) = setBits (rget o s) hi lo x :=
  rget_rset_self ..

theorem rget_rsetBits_ne {o p : Nat} (h : o ≠ p) (hi lo x : Nat) : rget o (rsetBits p hi lo x s) = rget o s :=
  rget_rset_ne s h _

theorem rget_rsetBits (o p hi lo x : Nat) :
    rget o (rsetBits p hi lo x s) = if o = p then setBits (rget o s) hi lo x else rget o s := by
  unfold rsetBits; rw [rget_rset]; split <;> simp_all

@[simp] theorem rget_rsetBit_self (o i : Nat) : rget o (rsetBit o i s) = rget o s ||| (1 <<< i) := rget_rset_self ..

theorem rget_rsetBit_ne {o p : Nat} (h : o ≠ p) (i : Nat) : rget o (rsetBit p i s) = rget o s := rget_rset_ne s h _

theorem rget_rsetBit (o p i : Nat) : rget o (rsetBit p i s) = if o = p then rget o s ||| (1 <<< i) else rget o s := by
  unfold rsetBit; rw [rget_rset]; split <;> simp_all

theorem rget_rclrBit_ne {o p : Nat} (h : o ≠ p) (i : Nat) : rget o (rclrBit p i s) = rget o s := rget_rset_ne s h _

theorem rget_rcountSat_ne {o p : Nat} (h : o ≠ p) : rget o (rcountSat p s) = rget o s := rget_rset_ne s h _

theorem rget_rcount_ne {o p : Nat} (h : o ≠ p) : rget o (rcount p s) = rget o s := rget_rset_ne s h _

/-- An event flag that the hardware has set is set, and no other bit of its register changes. -/
theorem rbit_rsetBit (o i j : Nat) : rbit o j (rsetBit o i s) = (decide (j = i) || rbit o j s) := by
  unfold rbit
  rw [rget_rsetBit_self, Nat.testBit_or, Nat.testBit_shiftLeft, Bool.or_comm]
  congr 1
  by_cases h : j = i
  · subst h; simp
  · simp only [h, decide_false, Bool.and_eq_false_iff, decide_eq_false_iff_not]
    by_cases g : i ≤ j
    · right
      exact Nat.testBit_one_eq_true_iff_self_eq_zero.not.mpr (by omega) |> Bool.eq_false_iff.mpr
    · exact .inl (by omega)

/-- A field that the hardware has set reads as it was set. -/
theorem rbits_rsetBits_self (o hi lo x : Nat) (h : lo ≤ hi) : rbits o hi lo (rsetBits o hi lo x s) = x % 2 ^ (hi + 1 - lo) := by
  unfold rbits; rw [rget_rsetBits_self, bits_setBits_self _ _ _ _ h]

/-- A field outside the bits that the hardware has set does not change. -/
theorem rbits_rsetBits_disjoint (o hi lo x a b : Nat) (h : lo ≤ hi) (d : a < lo ∨ hi < b) :
    rbits o a b (rsetBits o hi lo x s) = rbits o a b s := by
  unfold rbits; rw [rget_rsetBits_self, bits_setBits_disjoint _ _ _ _ _ _ h d]

theorem rbit_rsetBits (o hi lo x i : Nat) (h : lo ≤ hi) :
    rbit o i (rsetBits o hi lo x s) = if lo ≤ i ∧ i ≤ hi then x.testBit (i - lo) else rbit o i s := by
  unfold rbit; rw [rget_rsetBits_self, testBit_setBits _ _ _ _ _ h]

theorem rbit_rclrBit (o i j : Nat) : rbit o j (rclrBit o i s) = (rbit o j s && !decide (j = i)) := by
  unfold rclrBit
  rw [rbit_rsetBits _ _ _ _ _ _ le_rfl]
  split
  · have : j = i := by omega
    simp [this]
  · have : ¬ j = i := by omega
    simp [this]

/-! ### Members of the state's lists -/

@[simp] theorem qx_setQx_self (q : Nat) (x : QueueX) : qx q (setQx q x s) = x := AL.get_set_self _ _ _ _
theorem qx_setQx_ne {q p : Nat} (h : q ≠ p) (x : QueueX) : qx q (setQx p x s) = qx q s := AL.get_set_ne _ _ h _ _
@[simp] theorem corex_setCorex_self (n : Nat) (x : CoreX) : corex n (setCorex n x s) = x := AL.get_set_self _ _ _ _
theorem corex_setCorex_ne {n m : Nat} (h : n ≠ m) (x : CoreX) : corex n (setCorex m x s) = corex n s := AL.get_set_ne _ _ h _ _
@[simp] theorem portx_setPortx_self (p : Nat) (x : PortX) : portx p (setPortx p x s) = x := AL.get_set_self _ _ _ _
theorem portx_setPortx_ne {p q : Nat} (h : p ≠ q) (x : PortX) : portx p (setPortx q x s) = portx p s := AL.get_set_ne _ _ h _ _
@[simp] theorem slotx_setSlotx_self (q : Nat) (x : SlotX) : slotx q (setSlotx q x s) = x := AL.get_set_self _ _ _ _
theorem slotx_setSlotx_ne {q p : Nat} (h : q ≠ p) (x : SlotX) : slotx q (setSlotx p x s) = slotx q s := AL.get_set_ne _ _ h _ _
@[simp] theorem streamx_setStreamx_self (i : Nat) (x : StreamX) : streamx i (setStreamx i x s) = x := AL.get_set_self _ _ _ _
theorem streamx_setStreamx_ne {i j : Nat} (h : i ≠ j) (x : StreamX) : streamx i (setStreamx j x s) = streamx i s :=
  AL.get_set_ne _ _ h _ _
@[simp] theorem halfx_setHalfx_self (h : Nat) (x : HalfX) : halfx h (setHalfx h x s) = x := AL.get_set_self _ _ _ _
@[simp] theorem chanx_setChanx_self (n : Nat) (x : ChanX) : chanx n (setChanx n x s) = x := AL.get_set_self _ _ _ _
theorem chanx_setChanx_ne {n m : Nat} (h : n ≠ m) (x : ChanX) : chanx n (setChanx m x s) = chanx n s := AL.get_set_ne _ _ h _ _
@[simp] theorem stashx_setStashx_self (e : Nat) (x : StashEntry) : stashx e (setStashx e x s) = x := AL.get_set_self _ _ _ _
theorem stashx_setStashx_ne {e f : Nat} (h : e ≠ f) (x : StashEntry) : stashx e (setStashx f x s) = stashx e s :=
  AL.get_set_ne _ _ h _ _
@[simp] theorem stashd_setStashd_self (d : Nat) (x : StashDie) : stashd d (setStashd d x s) = x := AL.get_set_self _ _ _ _
@[simp] theorem compx_setCompx_self (p : Nat) (x : CompX) : compx p (setCompx p x s) = x := AL.get_set_self _ _ _ _
theorem compx_setCompx_ne {p q : Nat} (h : p ≠ q) (x : CompX) : compx p (setCompx q x s) = compx p s := AL.get_set_ne _ _ h _ _
@[simp] theorem codecx_setCodecx_self (v : Nat) (x : CodecX) : codecx v (setCodecx v x s) = x := AL.get_set_self _ _ _ _

/-! ### Memory -/

/-- A byte that has been written reads as written; every other byte of the list stays. -/
theorem get_putBytes (b : Bytes) : ∀ (a x : Nat) (m : List Host.Cell),
    AL.get 0 x (putBytes a b m) = if a ≤ x ∧ x < a + b.length then b.getD (x - a) 0 else AL.get 0 x m := by
  induction b with
  | nil => intro a x m; simp only [putBytes, List.length_nil]; rw [if_neg (by omega)]
  | cons y t ih =>
    intro a x m
    rw [putBytes, ih]
    by_cases h : x = a
    · subst h
      rw [if_neg (by omega), if_pos (by simp), AL.get_set_self]; simp
    · by_cases g : a ≤ x ∧ x < a + (t.length + 1)
      · rw [if_pos (by omega), List.length_cons, if_pos g]
        obtain ⟨k, rfl⟩ : ∃ k, x = a + 1 + k := ⟨x - (a + 1), by omega⟩
        rw [show a + 1 + k - (a + 1) = k by omega, show a + 1 + k - a = k + 1 by omega, List.getD_cons_succ]
      · rw [if_neg (by omega), List.length_cons, if_neg g, AL.get_set_ne _ _ h]

/-- No range of undefined contents that is left after a cut holds an address of the cut. -/
theorem cutUndef_inside {lo hi a : Nat} (h : lo ≤ a ∧ a < hi) (l : List UndefRange) :
    (cutUndef lo hi l).find? (fun r => decide (r.lo ≤ a) && decide (a < r.hi)) = none := by
  rw [List.find?_eq_none]
  intro r hr
  simp only [cutUndef, List.mem_flatMap, cutRange] at hr
  obtain ⟨x, -, hx⟩ := hr
  simp only [Bool.and_eq_true, decide_eq_true_eq, not_and, not_lt]
  split at hx
  · simp only [List.mem_singleton] at hx; subst hx; omega
  · simp only [List.mem_append] at hx
    rcases hx with hx | hx <;> split at hx <;> simp at hx <;> subst hx <;> simp <;> omega

/-- Outside a cut the same undefined contents show as before: of one range. -/
theorem cutRange_outside {lo hi a : Nat} (le : lo ≤ hi) (h : a < lo ∨ hi ≤ a) (x : UndefRange) :
    ((cutRange lo hi x).find? (fun r => decide (r.lo ≤ a) && decide (a < r.hi))).map (·.tag) =
      if x.lo ≤ a ∧ a < x.hi then some x.tag else none := by
  have one (r : UndefRange) : ([r].find? (fun r => decide (r.lo ≤ a) && decide (a < r.hi))).map (·.tag) =
      if r.lo ≤ a ∧ a < r.hi then some r.tag else none := by
    by_cases c : r.lo ≤ a ∧ a < r.hi
    · simp [c.1, c.2]
    · rw [if_neg c]
      have : (decide (r.lo ≤ a) && decide (a < r.hi)) = false := by
        rw [Bool.and_eq_false_iff, decide_eq_false_iff_not, decide_eq_false_iff_not]; omega
      simp [this]
  unfold cutRange
  split
  · exact one x
  · rw [List.find?_append]
    rcases h with h | h
    · have z : (if hi < x.hi then [{ x with lo := hi }] else []).find? (fun r => decide (r.lo ≤ a) && decide (a < r.hi)) = none := by
        split
        · rw [List.find?_eq_none]; intro r hr; simp only [List.mem_singleton] at hr; subst hr
          simp only [Bool.and_eq_true, decide_eq_true_eq, not_and, not_lt]; omega
        · rfl
      rw [z, Option.or_none]
      split
      · rw [one]; congr 1; simp only [eq_iff_iff]; omega
      · rw [if_neg (by omega)]; rfl
    · have z : (if x.lo < lo then [{ x with hi := lo }] else []).find? (fun r => decide (r.lo ≤ a) && decide (a < r.hi)) = none := by
        split
        · rw [List.find?_eq_none]; intro r hr; simp only [List.mem_singleton] at hr; subst hr
          simp only [Bool.and_eq_true, decide_eq_true_eq, not_and, not_lt]; omega
        · rfl
      rw [z, Option.none_or]
      split
      · rw [one]; congr 1; simp only [eq_iff_iff]; omega
      · rw [if_neg (by omega)]; rfl

/-- Outside a cut the same undefined contents show as before. -/
theorem cutUndef_outside {lo hi a : Nat} (le : lo ≤ hi) (h : a < lo ∨ hi ≤ a) (l : List UndefRange) :
    ((cutUndef lo hi l).find? (fun r => decide (r.lo ≤ a) && decide (a < r.hi))).map (·.tag) =
      (l.find? (fun r => decide (r.lo ≤ a) && decide (a < r.hi))).map (·.tag) := by
  induction l with
  | nil => rfl
  | cons x t ih =>
    have e := cutRange_outside le h x
    simp only [cutUndef, List.flatMap_cons, List.find?_append] at ih ⊢
    rw [List.find?_cons]
    by_cases c : x.lo ≤ a ∧ a < x.hi
    · rw [if_pos c] at e
      have : (decide (x.lo ≤ a) && decide (a < x.hi)) = true := by simp [c.1, c.2]
      rw [this]
      revert e
      generalize List.find? _ (cutRange lo hi x) = o
      cases o <;> simp
    · rw [if_neg c, Option.map_eq_none_iff] at e
      have : (decide (x.lo ≤ a) && decide (a < x.hi)) = false := by
        rw [Bool.and_eq_false_iff, decide_eq_false_iff_not, decide_eq_false_iff_not]; omega
      rw [this, e, Option.none_or, ih]

/-- A stored byte reads back; no other byte changes. -/
theorem byteAt_storeBytes (a : Nat) (b : Bytes) (bad : Bool) (x : Nat) :
    byteAt x (storeBytes a b bad s) = if a ≤ x ∧ x < a + b.length then b.getD (x - a) 0 else byteAt x s := by
  unfold byteAt undefAt
  simp only [storeBytes]
  by_cases h : a ≤ x ∧ x < a + b.length
  · rw [cutUndef_inside h, if_pos h]
    simp only [get_putBytes, if_pos h]
  · have e := cutUndef_outside (lo := a) (hi := a + b.length) (a := x) (by omega) (by omega) s.undef
    rw [if_neg h]
    revert e
    generalize (cutUndef a (a + b.length) s.undef).find? _ = o
    generalize s.undef.find? _ = p
    cases o <;> cases p <;> intro e
    · exact (get_putBytes b a x s.mem).trans (if_neg h)
    · cases e
    · cases e
    · simp only [Option.map_some, Option.some.injEq] at e; exact congrArg (fun t => Config.freeByte t x) e

@[simp] theorem byteAt_rset (x o v : Nat) : byteAt x (rset o v s) = byteAt x s := rfl

/-! ### Interrupts and markers -/

/-- Raising a vector changes nothing but what the host sees of interrupts. -/
theorem raiseVector_frame (v : Nat) : ∃ o p, raiseVector v s = { s with out := o, pcie := p } := by
  unfold raiseVector
  split
  · split <;> exact ⟨_, _, rfl⟩
  · exact ⟨s.out, s.pcie, rfl⟩

theorem raiseVector_regs (v : Nat) : (raiseVector v s).regs = s.regs := by
  obtain ⟨o, p, e⟩ := raiseVector_frame s v; rw [e]

@[simp] theorem rget_raiseVector (o v : Nat) : rget o (raiseVector v s) = rget o s := by
  unfold rget; rw [raiseVector_regs]

@[simp] theorem byteAt_raiseVector (v a : Nat) : byteAt a (raiseVector v s) = byteAt a s := by
  obtain ⟨o, p, e⟩ := raiseVector_frame s v; rw [e]; rfl

/-- An arm that fires changes its own register and interrupts, and nothing else. -/
theorem fireArm_frame (i : Nat) : (∃ r o p, fireArm i s = { s with regs := r, out := o, pcie := p }) ∧
    ∀ o, o ≠ R.QFE_MARM i → rget o (fireArm i s) = rget o s := by
  unfold fireArm
  split
  · refine ⟨?_, fun o ho => ?_⟩
    · obtain ⟨o, p, e⟩ := raiseVector_frame (rclrBit (R.QFE_MARM i) 63 s) (256 + i)
      unfold rclrBit rsetBits rset at e ⊢
      exact ⟨_, o, p, e⟩
    · rw [rget_raiseVector, rget_rclrBit_ne _ ho]
  · exact ⟨⟨s.regs, s.out, s.pcie, rfl⟩, fun _ _ => rfl⟩

/-- Arms numbered by a list fire: every other register, and all state but interrupts, is as before. -/
theorem fireArms_frame : ∀ (l : List Nat) (t : State),
    (∃ r o p, l.foldl (fun t i => fireArm i t) t = { t with regs := r, out := o, pcie := p }) ∧
    ∀ o, (∀ i ∈ l, o ≠ R.QFE_MARM i) → rget o (l.foldl (fun t i => fireArm i t) t) = rget o t := by
  intro l
  induction l with
  | nil => intro t; exact ⟨⟨t.regs, t.out, t.pcie, rfl⟩, fun _ _ => rfl⟩
  | cons i l ih =>
    intro t
    rw [List.foldl_cons]
    obtain ⟨⟨r, o, p, e⟩, h2⟩ := ih (fireArm i t)
    obtain ⟨⟨r', o', p', e'⟩, f⟩ := fireArm_frame t i
    refine ⟨⟨r, o, p, ?_⟩, fun o ho => ?_⟩
    · rw [e, e']
    · rw [h2 o fun j h => ho j (List.mem_cons_of_mem _ h), f o (ho i (List.mem_cons_self ..))]

/-- Only the arms of Table 2.13 are looked at. -/
theorem armsOf_lt (m : Nat) : ∀ i ∈ armsOf m s, i < numArms := by
  intro i h
  simp only [armsOf, List.mem_filterMap] at h
  obtain ⟨x, -, hx⟩ := h
  split at hx
  · rename_i c
    simp only [Option.some.injEq] at hx
    have := c.1; have := c.2.1
    simp only [R.QFE_MARM, numArms] at *
    omega
  · cases hx

/-- A marker's count is put: nothing changes but its count, the arms on it, and interrupts. -/
theorem markerPut_frame (m v : Nat) :
    (∃ r o p, markerPut m v s = { s with markers := AL.set 0 m (v % 2 ^ 32) s.markers, regs := r, out := o, pcie := p }) ∧
    ∀ o, (∀ i < numArms, o ≠ R.QFE_MARM i) → rget o (markerPut m v s) = rget o s := by
  obtain ⟨⟨r, o, p, e⟩, h⟩ := fireArms_frame (armsOf m { s with markers := AL.set 0 m (v % 2 ^ 32) s.markers })
    { s with markers := AL.set 0 m (v % 2 ^ 32) s.markers }
  exact ⟨⟨r, o, p, e⟩, fun o ho => h o fun i hi => ho i (armsOf_lt _ _ i hi)⟩

theorem byteAt_markerPut (m v a : Nat) : byteAt a (markerPut m v s) = byteAt a s := by
  obtain ⟨⟨r, o, p, e⟩, -⟩ := markerPut_frame s m v; rw [e]; rfl

theorem started_markerPut (m v : Nat) : (markerPut m v s).started = s.started := by
  obtain ⟨⟨r, o, p, e⟩, -⟩ := markerPut_frame s m v; rw [e]

/-- The count of a marker is what was put; every other count stays (R33). -/
theorem markerCount_markerPut (m v n : Nat) :
    markerCount n (markerPut m v s) = if n = m then v % 2 ^ 32 else markerCount n s := by
  obtain ⟨⟨r, o, p, e⟩, -⟩ := markerPut_frame s m v
  rw [e]
  unfold markerCount
  split
  · subst n; exact AL.get_set_self ..
  · exact AL.get_set_ne _ _ ‹_› _ _

/-! ### Counts of misuse -/

/-- A count of 16 bits goes up by one and stops at 0xFFFF. -/
theorem counted_rcountSat (o : Nat) : Counted o s (rcountSat o s) := by
  unfold Counted rcountSat
  rw [rbits_rsetBits_self _ _ _ _ _ (by decide)]
  omega

/-- A misuse changes the block's count and nothing else. -/
theorem misuse_counts {b o : Nat} (h : misuseOf b = some o) : Counted o s (misuse b s) ∧ OnlyRegs [o] s (misuse b s) := by
  unfold misuse
  rw [h]
  refine ⟨counted_rcountSat s o, rfl, fun p hp => rget_rcountSat_ne s ?_⟩
  simpa using hp

/-! ### Started commands -/

/-- A running command of a kind has started. -/
theorem startedAt_of_runningCmd {c : Nat} {o : Op} {s : State} {x : Started} (h : runningCmd c o s = some x) :
    startedAt c s = some x := by
  unfold runningCmd at h
  split at h
  · cases h
  · rename_i y e
    split at h
    · cases h; exact e
    · cases h

/-- A change of a started command shows in it. -/
theorem startedAt_updStarted {c : Nat} {f : Started → Started} (hf : ∀ x, (f x).id = x.id) {s : State} {x : Started}
    (h : startedAt c s = some x) : startedAt c (updStarted c f s) = some (f x) := by
  unfold startedAt at h ⊢
  unfold updStarted
  simp only
  generalize s.started = l at h ⊢
  induction l with
  | nil => cases h
  | cons y t ih =>
    rw [List.find?_cons] at h
    rw [List.map_cons, List.find?_cons]
    by_cases e : y.id = c
    · simp only [e, beq_self_eq_true, Option.some.injEq] at h
      subst h
      simp [e, hf]
    · have n : (y.id == c) = false := by simpa using e
      rw [n] at h
      simp only [e, if_false, n]
      exact ih h

/-- A running command whose effect is complete is marked so. -/
theorem startedAt_markDone {c : Nat} {s : State} {x : Started} (h : startedAt c s = some x) :
    startedAt c (markDone c s) = some { x with state := .done } :=
  startedAt_updStarted (f := fun x => { x with state := .done }) (fun _ => rfl) h

end Sys2Proof.Machine
end

