-- ==== Sys2Proof/Laws/Stop.lean ====
section
/-! SUPPORT. What the stopping of started commands (Table 2.15) leaves as it was. -/

namespace Sys2Proof.Machine

open Sys2Proof

/-- What stopping commands leaves as it was: memory's list, markers, the queues' own state, and the registers of the queue front
end. -/
structure StopKeeps (s t : State) : Prop where
  mem : t.mem = s.mem
  markers : t.markers = s.markers
  queues : t.queues = s.queues
  regs : ∀ o, 0x100000 ≤ o → o < 0x200000 → rget o t = rget o s

theorem StopKeeps.refl (s : State) : StopKeeps s s := ⟨rfl, rfl, rfl, fun _ _ _ => rfl⟩

variable {s t : State}

theorem StopKeeps.rset (h : StopKeeps s t) (o v : Nat) (ho : o < 0x100000 ∨ 0x200000 ≤ o) : StopKeeps s (rset o v t) :=
  ⟨h.mem, h.markers, h.queues, fun p a b => by rw [rget_rset_ne _ (by omega), h.regs p a b]⟩

theorem StopKeeps.rsetBits (h : StopKeeps s t) (o hi lo v : Nat) (ho : o < 0x100000 ∨ 0x200000 ≤ o) : StopKeeps s (rsetBits o
    hi lo v t) := StopKeeps.rset h _ _ ho

theorem StopKeeps.raiseVector (h : StopKeeps s t) (v : Nat) : StopKeeps s (raiseVector v t) := by
  obtain ⟨o, p, e⟩ := raiseVector_frame t v; rw [e]; exact ⟨h.mem, h.markers, h.queues, h.regs⟩

theorem StopKeeps.foldl {α : Type} {f : State → α → State} {l : List α} (hf : ∀ t x, x ∈ l → StopKeeps s t → StopKeeps s (f t
    x)) : ∀ {t : State}, StopKeeps s t → StopKeeps s (l.foldl f t) := by
  induction l with
  | nil => intro t h; exact h
  | cons x l ih => intro t h; exact ih (fun t y hy => hf t y (List.mem_cons_of_mem _ hy)) (hf t x (List.mem_cons_self ..) h)

theorem StopKeeps.ite {c : Prop} [Decidable c] {a b : State} (ha : StopKeeps s a) (hb : StopKeeps s b) : StopKeeps s (if c
    then a else b) := by
  split <;> assumption

theorem dropPieces_stopKeeps (cs : List Nat) (h : StopKeeps s t) : StopKeeps s (dropPieces cs t) := by
  unfold dropPieces
  refine StopKeeps.foldl (fun u x _ hu => ?_) h
  exact ⟨hu.mem, hu.markers, hu.queues, hu.regs⟩

theorem forgetRange_stopKeeps (lo hi : Nat) (h : StopKeeps s t) : StopKeeps s (forgetRange lo hi t) := ⟨h.mem, h.markers,
    h.queues, h.regs⟩

theorem chanEnd_stopKeeps (n st err : Nat) (hn : n < 32) (h : StopKeeps s t) : StopKeeps s (chanEnd n st err t) := by
  unfold chanEnd
  have h0 : StopKeeps s (setChanx n {} t) := ⟨h.mem, h.markers, h.queues, h.regs⟩
  have r1 : R.DMA_Dnn_RESIDUE n < 0x100000 ∨ 0x200000 ≤ R.DMA_Dnn_RESIDUE n := by
      right; simp only [R.DMA_Dnn_RESIDUE]; omega
  have r2 : R.DMA_Dnn_CTL n < 0x100000 ∨ 0x200000 ≤ R.DMA_Dnn_CTL n := by
      right; simp only [R.DMA_Dnn_CTL]; omega
  have r3 : R.DMA_Dnn_STAT n < 0x100000 ∨ 0x200000 ≤ R.DMA_Dnn_STAT n := by
      right; simp only [R.DMA_Dnn_STAT]; omega
  have r4 : R.DMA_EVT < 0x100000 ∨ 0x200000 ≤ R.DMA_EVT := by
      right; simp only [R.DMA_EVT]; omega
  have k1 : StopKeeps s (if st = 2 then setChanx n {} t else rset (R.DMA_Dnn_RESIDUE n) ((chanx n t).count - (chanx n
      t).issued) (setChanx n {} t)) :=
    StopKeeps.ite h0 (StopKeeps.rset h0 _ _ r1)
  have k2 := StopKeeps.rsetBits (StopKeeps.rsetBits (StopKeeps.rsetBits k1 (R.DMA_Dnn_STAT n) 2 0 st r3) (R.DMA_Dnn_STAT n) 7
      4 err r3) (R.DMA_Dnn_CTL n) 0 0 0 r2
  exact StopKeeps.ite (StopKeeps.raiseVector (StopKeeps.ite (StopKeeps.rset k2 _ _ r4) k2) _) (StopKeeps.ite (StopKeeps.rset
      k2 _ _ r4) k2)

theorem stopChannel_stopKeeps (cs : List Nat) (n : Nat) (hn : n < 32) (h : StopKeeps s t) : StopKeeps s (stopChannel cs t n)
    := by
  have r3 : R.DMA_Dnn_STAT n < 0x100000 ∨ 0x200000 ≤ R.DMA_Dnn_STAT n := by
      right; simp only [R.DMA_Dnn_STAT]; omega
  unfold stopChannel
  dsimp only
  split
  · exact h
  · have h0 : StopKeeps s (setChanx n { chanx n t with cmd := none } t) := ⟨h.mem, h.markers, h.queues, h.regs⟩
    refine StopKeeps.ite ?_ h
    unfold chanAbort
    exact StopKeeps.ite (StopKeeps.rset h0 _ _ r3) (chanEnd_stopKeeps _ _ _ hn h0)

theorem showRbq_stopKeeps (h : StopKeeps s t) : StopKeeps s (showRbq t) := StopKeeps.rset h _ _ (.inr (by simp only [R.LNK_RBQ]; omega))

theorem releaseOp_stopKeeps (o : RedOp) (h : StopKeeps s t) : StopKeeps s (releaseOp o t) := by
  unfold releaseOp
  refine showRbq_stopKeeps ?_
  have := StopKeeps.foldl (s := s) (l := o.needs) (f := fun t n => rset (R.LNK_Lnn_RBFREE n.1) (min 32 (rbFree n.1 t + n.2))
      t) (fun u x _ hu => StopKeeps.rset hu _ _ (.inr (by simp only [R.LNK_Lnn_RBFREE]; omega))) h
  exact ⟨this.mem, this.markers, this.queues, this.regs⟩

theorem dropBuckets_stopKeeps (cs : List Nat) (h : StopKeeps s t) : StopKeeps s (dropBuckets cs t) := by
  unfold dropBuckets
  dsimp only
  generalize List.map _ _ = gone
  have k := StopKeeps.foldl (s := s) (l := t.admitted.filter (fun o => gone.contains o.bucket)) (f := fun t o => releaseOp o
      t) (fun u x _ hu => releaseOp_stopKeeps x hu) h
  generalize List.foldl (fun t o => releaseOp o t) t (t.admitted.filter (fun o => gone.contains o.bucket)) = w at k ⊢
  have k2 : ∀ (a : List RedOp) (b : RelayX), StopKeeps s { w with redWait := a, relay := b } := fun _ _ => ⟨k.mem, k.markers,
      k.queues, k.regs⟩
  refine StopKeeps.ite (k2 _ _) ?_
  exact StopKeeps.rset (StopKeeps.rset (showRbq_stopKeeps (k2 _ _)) _ _ (.inr (by simp only [R.RLY_OPEN]; omega))) _ _ (.inr (by simp only [R.RLY_OPEN]; omega))

theorem showCore_stopKeeps (n : Nat) (h : StopKeeps s t) : StopKeeps s (showCore t n) := by
  unfold showCore
  have k := StopKeeps.rsetBits h (R.VCH_Cnn_STAT n) 12 8 (corex n t).ftq.length
    (.inr (by simp only [R.VCH_Cnn_STAT]; omega))
  exact StopKeeps.ite (StopKeeps.rset (StopKeeps.rset k _ _ (.inr (by simp only [R.CORE_Cnn_STAT]; omega))) _ _
    (.inr (by simp only [R.ATT_Cnn_STAT]; omega))) k

theorem freeBanks_stopKeeps (xs : List Started) (h : StopKeeps s t) : StopKeeps s (freeBanks xs t) := by
  unfold freeBanks
  have r : R.BNK_STAT < 0x100000 ∨ 0x200000 ≤ R.BNK_STAT := .inr (by simp only [R.BNK_STAT]; omega)
  exact StopKeeps.ite (StopKeeps.rsetBits (StopKeeps.rsetBits (t := { t with bank := { t.bank with ranges := [] } })
    ⟨h.mem, h.markers, h.queues, h.regs⟩ _ 1 1 0 r) _ _ _ _ r) h

theorem stopCommands_stopKeeps (p : Started → Bool) (h : StopKeeps s t) : StopKeeps s (stopCommands p t) := by
  unfold stopCommands
  dsimp only
  refine StopKeeps.foldl (fun u x hx hu => stopChannel_stopKeeps _ _ (List.mem_range.mp hx) hu) (freeBanks_stopKeeps _ ?_)
  refine StopKeeps.foldl (fun u x _ hu => forgetRange_stopKeeps _ _ hu) ?_
  refine dropBuckets_stopKeeps _ (dropPieces_stopKeeps _ ?_)
  exact StopKeeps.foldl (fun u n _ hu => showCore_stopKeeps n hu) ⟨h.mem, h.markers, h.queues, h.regs⟩

end Sys2Proof.Machine
end

