-- ==== Sys2Proof/Tests/Slice0.lean ====
section
/-! SUPPORT. The model's own tests: ill-formed commands that the check refuses; results that the spec states in figures; and for
every statement that has hypotheses, states and operands that meet them. -/

open Sys2Proof Sys2Proof.Machine

set_option Elab.async false

namespace Sys2Proof.Tests

/-! ### Small states -/

/-- `s` with some registers at given values. -/
def tRegs (l : List (Nat × Nat)) (s : State) : State := l.foldl (fun s x => rset x.1 x.2 s) s

/-- A manager at READY with every power domain on. -/
def tLive : State :=
  tRegs ((List.range 5).map (fun k => (R.PWR_DOM k, 2 ^ 32 - 1)) ++ [(R.HIF_BOOT, 5), (R.HIF_LINKSTAT, 2 ^ 14)]) State.reset

/-- A module that is no manager: device 1, whose manager is device 0. -/
def tWorker : State := tRegs [(R.KPR_CFG, 1 <<< 8)] tLive

/-- `n` zero bytes with the given bytes at the given places. -/
def tBytes (n : Nat) (l : List (Nat × Bytes)) : Bytes := l.foldl (fun b x => patch b x.1 x.2) (List.replicate n 0)

/-- A command of `units` units with the given fields. -/
def tCmd (eng op units : Nat) (l : List (Nat × Bytes)) : Bytes :=
  tBytes (32 * units) ((0, leBytes 1 op) :: (1, leBytes 1 eng) :: (2, leBytes 1 units) :: l)

/-- Command 0 of queue q, with these units. -/
def tRun (q : Nat) (b : Bytes) : Started := { q := q, bytes := b }

/-- `s` with that command started. -/
def tWith (x : Started) (s : State) : State := { s with started := [x], nextCmd := 1 }

/-- A message of a kind from device 1 of this domain. -/
def tMsg (kind addr : Nat) (data : Bytes) (tag : Nat := 0) : Msg :=
  { kind := BitVec.ofNat 4 kind, cmp := false, poison := false, dstDev := 0, dstDom := 0, srcDev := 1, srcDom := 0, addr := BitVec.ofNat 48 addr,
    tag := BitVec.ofNat 16 tag, data := data }

/-- `s` with the message at the front of what port 0 has received. -/
def tGot (m : Msg) (s : State) : State := setPortx 0 { portx 0 s with inbox := [(0, m)] } s

/-- `s` after port 0's message has left its receive buffer. -/
def tTaken (kind : Nat) (m : Msg) (s : State) : State := (takeMsg 0 kind m s).getD s

/-- Bytes put into memory at `a`. -/
def tMem (a : Nat) (b : Bytes) (s : State) : State := poke a b s

/-! ### Witnesses: host queues -/

/-- Queue 0 in state `st`, with these things beside its registers. -/
def tQueue (st : Nat) (x : QueueX) (s : State) : State := setQx 0 x (tRegs [(R.QFE_Qn_STAT 0, st)] s)

/-- An inline entry of queue 0 whose command is `b`. -/
def tInline (b : Bytes) : Flight := { kind := 2, units := 1, body := some b }

theorem test_wit_doorbell :
    let s := tQueue 1 {} tLive
    hostDecodes s = true ∧ inHoldfast s = false ∧
    (rbits (R.QFE_Qn_STAT 0) 2 0 s ≠ 0 ∧ 15 < 2 ^ rbits (R.QFE_Qn_SIZE 0) 4 0 s ∧
      (rget (R.QFE_Qn_TAIL 0) s + 16 - rget (R.QFE_Qn_HEAD 0) s) % 16 ≤ (15 + 16 - rget (R.QFE_Qn_HEAD 0) s) % 16) ∧
    ¬ (16 < 2 ^ rbits (R.QFE_Qn_SIZE 0) 4 0 s) := by decide +kernel

theorem test_wit_markers :
    runningCmd 0 .markerAdd (tWith (tRun 0 (tCmd 15 1 1 [])) tLive) = some (tRun 0 (tCmd 15 1 1 [])) ∧
    runningCmd 0 .markerSet (tWith (tRun 0 (tCmd 15 2 1 [])) tLive) = some (tRun 0 (tCmd 15 2 1 [])) ∧
    hostDecodes tLive = true ∧ inHoldfast tLive = false ∧ pwrState tLive ≠ 2 := by decide +kernel

theorem test_wit_arms :
    let s := tRegs [(R.QFE_MARM (numArms - 1), 4095)] tLive
    numArms - 1 < numArms ∧ rbits (R.QFE_MARM (numArms - 1)) 11 0 s = 4095 := by decide +kernel

theorem test_wit_enable :
    (qState 43 tLive = 0 ∧ isReady tLive = true ∧ ringsValid 43 tLive = true) ∧
    (let s := tRegs [(R.QFE_Qn_SIZE 0, 3)] tLive
     qState 0 s = 0 ∧ ringsValid 0 s = false) ∧
    (let s := tQueue 1 {} tLive
     qState 0 s ≠ 0 ∧ qState 0 s ≠ qHalted ∧ (qx 0 s).flights = [] ∧ (∀ x ∈ s.started, x.q ≠ 0) ∧ (qx 0 s).flush = false) ∧
    (let s := tWith (tRun 0 (tCmd 15 3 1 [])) (tQueue 1 {} tLive)
     qState 0 s ≠ 0 ∧ qState 0 s ≠ qHalted ∧ working 0 s = true) := by decide +kernel

theorem test_wit_resume :
    (let s := tQueue 2 {} tLive
     inHoldfast s = false ∧ qState 0 s = 2 ∧ (qx 0 s).held = [] ∧ stopping s = false ∧ (qx 0 s).closing = false ∧
       (qx 0 s).flush = false) ∧
    (inHoldfast tLive = false ∧ qState 0 tLive ≠ 2) := by decide +kernel

theorem test_wit_flush :
    (qState 0 (tQueue 2 {} tLive) = 2) ∧ (qState 0 (tQueue 4 {} tLive) = 4) ∧
    (let s := tQueue 3 { flights := [{ pos := 1, units := 2 }] } tLive
     qState 0 s ≠ 0 ∧ qState 0 s ≠ 2 ∧ qState 0 s ≠ 4 ∧ (qx 0 s).closing = false ∧ (qx 0 s).flights.any (·.begun) = true) ∧
    (let s := tQueue 1 {} tLive
     qState 0 s = 1 ∧ (qx 0 s).closing = false ∧ (qx 0 s).flights.any (·.begun) = false) ∧ qState 0 tLive = 0 := by decide +kernel

/-- Queue 0 running with one entry `raw` in its ring. -/
def tRing (raw : Bytes) : State := tMem 0 raw (tRegs [(R.QFE_Qn_TAIL 0, 1)] (tQueue 1 {} tLive))

theorem test_wit_head :
    (let s := tRing (tBytes 64 [])
     mayStart 0 s = true ∧ (qx 0 s).flush = false ∧ currentFlight 0 s = none ∧ isManager s = true ∧ qHead 0 s ≠ qTail 0 s ∧
       (∀ d < 64, forwardedTo d 0 s < 255)) ∧
    entryBad (tBytes 64 [(2, [3])]) = true ∧
    (let s := tRing (tBytes 64 [(28, [63])])
     let f := ringEntry 0 (qHead 0 s) s
     entryBad (tBytes 64 [(28, [63])]) = false ∧ f.target ≠ myDev s ∧ present f.target s = false) ∧
    (let s := tRing (tBytes 64 [(2, [1]), (4, [1]), (12, [0x80])])
     let f := ringEntry 0 (qHead 0 s) s
     entryBad (readBytes s (entryAddr 0 (qHead 0 s) s) 64) = false ∧ f.target = myDev s ∧ f.kind = 1 ∧
       listMapped f.listAddr (32 * f.units) s = false) ∧
    (let s := tRegs [(R.KPR_PRESENT, 3)] (tRing (tBytes 64 [(28, [1])]))
     let f := ringEntry 0 (qHead 0 s) s
     entryBad (readBytes s (entryAddr 0 (qHead 0 s) s) 64) = false ∧ f.target ≠ myDev s ∧ present f.target s = true ∧ f.kind ≠ 1) ∧
    (let f := ringEntry 0 0 (tRing (tBytes 64 []))
     f.kind = 0 ∧ f.target = myDev tLive) ∧
    (let f := ringEntry 0 0 (tRing (tBytes 64 [(2, [2])]))
     entryBad (tBytes 64 [(2, [2])]) = false ∧ f.kind = 2 ∧ f.target = myDev tLive) := by decide +kernel

/-- Queue 0 with the inline command `b` at its head. -/
def tHead (b : Bytes) : State := tQueue 1 { flights := [tInline b] } tLive

theorem test_wit_start :
    (let b := tCmd 15 3 1 []
     let s := tHead b
     mayStart 0 s = true ∧ headCommand 0 s = some (0, tInline b, 0, false) ∧ unitPoisoned (tInline b) 0 1 s = false ∧
       flagsMet 0 0 b (noteFence 0 0 b s) = true ∧ commandBad 0 (tInline b) 0 b (noteFence 0 0 b s) = false ∧
       opOfBytes b = some .nop ∧ stateCause 0 (tInline b) .nop b (noteFence 0 0 b s) = none ∧
       engineWaits 0 0 .nop b (noteFence 0 0 b s) = false ∧ engineOf b = 0xF) ∧
    (let f := { tInline (tCmd 15 3 1 []) with bad := true }
     unitPoisoned f 0 1 (tQueue 1 { flights := [f] } tLive) = true) ∧
    (let b := tCmd 15 3 1 [(3, [2]), (8, [1])]
     flagsMet 0 0 b (noteFence 0 0 b (tHead b)) = false ∧ unitPoisoned (tInline b) 0 1 (tHead b) = false) ∧
    (let b := tCmd 15 9 1 []
     commandBad 0 (tInline b) 0 b (noteFence 0 0 b (tHead b)) = true) ∧
    (let b := tCmd 1 0x4A 1 []
     let s := tRegs [(R.PWR_DOM 2, 2 ^ 23 - 1)] (tHead b)
     mayStart 0 s = true ∧ commandBad 0 (tInline b) 0 b (noteFence 0 0 b s) = false ∧ opOfBytes b = some .stashDrop ∧
       stateCause 0 (tInline b) .stashDrop b (noteFence 0 0 b s) = none ∧
       engineWaits 0 0 .stashDrop b (noteFence 0 0 b s) = true) ∧
    (let b := tCmd 15 3 1 []
     stateCause 0 { tInline b with jobTag := 1 } .nop b (tHead b) = some 0x0001) := by decide +kernel

theorem test_wit_wait_timeout :
    let b := tCmd 15 3 1 [(3, [2]), (8, [1])]
    let s := tRegs [(R.QFE_Qn_WTO 0, 1)] (tHead b)
    mayStart 0 s = true ∧ rget (R.QFE_Qn_WTO 0) s ≠ 0 ∧ headCommand 0 s = some (0, tInline b, 0, false) ∧
      waitMet (listUnit (tInline b) 0 s) s = false ∧ isManager s = true ∧ (qx 0 s).closing = false := by decide +kernel

theorem test_wit_complete :
    let b := tCmd 15 3 1 [(3, [4])]
    runningCmd 0 .nop (tWith (tRun 0 b) tLive) = some (tRun 0 b) ∧
    (startedAt 0 (tWith (tRun 0 b) tLive) = some (tRun 0 b) ∧ (tRun 0 b).state ≠ .done) ∧
    (let x := { tRun 0 b with state := .done }
     let f : Flight := { units := 2, pos := 1, kind := 1 }
     let s := tWith x (tQueue 1 { flights := [f] } tLive)
     startedAt 0 s = some x ∧ x.state = .done ∧ x.muted = false ∧ hasFlag flagSignal x.bytes = true ∧
       hasFlag flagYield x.bytes = false ∧ flightAt x.q x.idx s = some f ∧ f.pos < f.units ∧ (qx x.q s).closing = false ∧
       (qx x.q s).flush = false) := by decide +kernel

theorem test_wit_remote_halts :
    (let m := tMsg 7 0x27 (List.replicate 16 0)
     let s := tGot m tLive
     isManager s = true ∧ s.rhalts.length < 64 ∧ (takeCtrl 0 0x27 m s).isSome = true) ∧
    hostDecodes tLive = true ∧
    (let s := tRegs [(R.KPR_PRESENT, 3)] tLive
     isManager s = true ∧ (1 : Nat) ≠ myDev s ∧ present 1 s = true) ∧
    ((0 : Nat) = myDev tLive) ∧
    (let m := tMsg 7 0x28 (List.replicate 16 0)
     (takeCtrl 0 0x28 m (tGot m tLive)).isSome = true ∧ u m.data 0 1 < numQueues) := by decide +kernel

theorem test_wit_forwarding :
    (let m := tMsg 6 0 (List.replicate 64 0)
     let w := tQueue 1 {} tWorker
     let s := tGot m { w with keeper := { w.keeper with joined := true } }
     isManager s = false ∧ s.keeper.joined = true ∧ bits m.addr.toNat 21 16 < numQueues ∧ qState 0 s ≠ 0 ∧
       (qx 0 s).inbox.length + (qx 0 s).flights.length + 1 < ringSize 0 s ∧ (takeMsg 0 6 m s).isSome = true) ∧
    (let m := tMsg 7 0x24 (List.replicate 48 0)
     let f : Flight := { sent := true, target := 1 }
     let s := tGot m (tQueue 1 { flights := [f] } tLive)
     isManager s = true ∧ (takeCtrl 0 0x24 m s).isSome = true ∧
       (qx 0 (tTaken 7 m s)).flights.find? (fun g => g.idx == 0 && g.sent && g.target == m.srcDev.toNat) = some f) := by decide +kernel

theorem test_wit_host_modes :
    let hf := tRegs [(R.PWR_STAT, 3)] tLive
    inHoldfast hf = true ∧ inHoldfast tLive = false ∧ tLive.boot.released = false ∧
    ({ tLive with boot := { released := true } } : State).boot.released = true ∧
    (qState 0 hf = 0 ∧ isReady (tRegs [(R.HIF_BOOT, 4)] tLive) = false) ∧
    (let s := tQueue 4 { before := 2 } tLive
     qState 0 s ≠ 0 ∧ standsHalted 0 s = true ∧ standsHalted 0 (tQueue 1 {} tLive) = false) ∧
    (let s := tQueue 2 {} hf
     qState 0 s = 2 ∧ inHoldfast s = true) ∧
    (∀ n < 32, (chanx n tLive).cmd = none) ∧
    (let s := tQueue 5 {} tLive
     qState 0 s ≠ 0 ∧ qState 0 s ≠ 2 ∧ qState 0 s ≠ 4 ∧ (qx 0 (abortChannels 0 s)).closing = false ∧ qState 0 (abortChannels 0 s) = 5) ∧
    (let f : Flight := { kind := 1, units := 1 }
     let s := setQx 0 { inbox := [f] } (tQueue 1 {} tWorker)
     mayStart 0 s = true ∧ flushHolds 0 s = false ∧ currentFlight 0 s = none ∧ isManager s = false ∧ (qx 0 s).inbox = f :: [] ∧ f.units ≠ 0) ∧
    (let s := tHead (tCmd 15 3 1 [])
     let f := { tInline (tCmd 15 3 2 []) with units := 2, body := none, kind := 1, listAddr := 4064 }
     let r : State := { s with poison := [32] }
     unitPoisoned f 0 1 r = false ∧ unitPoisoned f 0 2 r = true) := by decide +kernel

theorem test_wit_notices :
    (let s := tRegs [(R.KPR_PRESENT, 1)] tLive
     isManager tWorker = false ∧ (0 : Nat) = myDev s ∧ present 1 s = false) ∧
    (let m := tMsg 7 0x27 (List.replicate 16 0)
     (sendMsg { m with dstDev := 5 } tLive).isNone = true) := by decide +kernel

/-! ### Witnesses: the PCIe port -/

theorem test_wit_pcie :
    isManager tLive = true ∧ ({ perst := false } : PcieX).perst = false ∧ rbit R.HIF_LINKSTAT 14 (tRegs [(R.HIF_LINKSTAT, 2 ^ 14)] tLive) = true ∧
    (let s := tRegs [(R.HIF_LINKSTAT, 2 ^ 14)] { tLive with pcie := { sysReady := true, perst := false } }
     s.pcie.sysReady = true ∧ s.pcie.perst = false ∧ ({ up := false, speed := 0, width := 0, flit := false } : LinkTrained).up = false ∧
       rbit R.HIF_LINKSTAT 14 s = true) ∧
    (let s : State := { tLive with pcie := { perst := true } }
     s.pcie.perst = true) ∧
    (let l : LinkTrained := { up := true, speed := 1, width := 4, flit := false }
     l.up = true ∧ (l.width = 4 ∨ l.width = 8 ∨ l.width = 16) ∧ l.speed ≠ 0) := by decide +kernel

theorem test_wit_window :
    (30 ≤ 39 ∧ 39 ≤ 39) ∧
    (let s := tRegs [(R.HIF_WIN_BASE, 0x8000000000), (R.HIF_WIN_STAT, 480)] tLive
     s.pcie.d3hot = false ∧ winOpen s = false) ∧
    (let s := tRegs [(R.HIF_WIN_STAT, 481)] tLive
     s.pcie.d3hot = false ∧ winOpen s = true ∧ pwrState s ≠ 2 ∧ 0x40000000 - 1 + 1 ≤ winSize s ∧
       winBase s + winSize s ≤ stackedEnd) ∧
    (let s := tRegs [(R.HIF_WIN_BASE, 0x10000000000), (R.HIF_WIN_STAT, 481)] tLive
     winOpen s = true ∧ spillBase ≤ winBase s ∧ winBase s + winSize s ≤ spillEnd) := by decide +kernel

/-- A host access of a space. -/
def tAcc (sp : HostSpace) (off len : Nat) (b : Option Bytes) : WindowAcc := { space := sp, offset := off, len := len, data := b, dram := [] }

theorem test_wit_access :
    let w := tRegs [(R.HIF_WIN_STAT, 481)] tLive
    rbit R.HIF_LINKSTAT 14 tLive = true ∧ rbit R.HIF_LINKSTAT 14 State.reset = false ∧ tLive.pcie.d3hot = false ∧
    (winOpen (tRegs [(R.HIF_WIN_STAT, 480)] tLive) = false ∧ winOpen w = true ∧ 0x40000000 ≤ winSize w ∧ winSize w < 0x40000000 - 3 + 4) ∧
    bankHolds (winBase w) 4 (leaveSlack w) = false ∧
    bankHolds (winBase w) 4 (leaveSlack { w with bank := { w.bank with ranges := [(3, 1)] } }) = true ∧
    (winBase w + winSize w ≤ stackedEnd) ∧
    (tAcc .bar2 (0x1000 * 44) 4 none).offset = 0x1000 * 44 ∧ (tAcc .bar2 (0x80000 + 8 * 4095) 4 none).offset = 0x80000 + 8 * 4095 ∧
    (tAcc .bar2 (0xF0000 + 4 * 8191) 4 (some [1, 0, 0, 0])).offset = 0xF0000 + 4 * 8191 ∧
    ((tAcc .config 4092 4 none).offset % 4 = 0 ∧ (tAcc .config 4092 4 none).offset < 4096) := by decide +kernel

theorem test_wit_resets :
    (let w : State := { tWorker with keeper := { tWorker.keeper with joined := true } }
     isManager tWorker = false ∧ tWorker.keeper.joined = false ∧ w.keeper.joined = true ∧ rbit R.HIF_LINKSTAT 14 (tRegs [(R.HIF_LINKSTAT, 0)] w) = false ∧
       rbit R.HIF_LINKSTAT 14 (tRegs [(R.HIF_LINKSTAT, 2 ^ 14)] w) = true ∧ isManager { w with pcie := { perst := false } } = false) ∧
    (∀ n < 32, (chanx n tLive).funnel = []) ∧
    (let l : LinkTrained := { up := true, speed := 6, width := 16, flit := false }
     l.up = true ∧ linkOk l = false) ∧
    (let l : LinkTrained := { up := true, speed := 5, width := 16, flit := false }
     l.speed.val ≤ 5 ∧ linkOk l = true) := by decide +kernel

/-! ### Witnesses: snapshots -/

/-- A trigger. -/
def tTrig (n : Nat) : Trig := { num := n, src := 2, fwd := true }

theorem test_wit_triggers :
    tLive.snap.queue.length < 16 ∧
    (let s := tRegs [(R.SNP_CTL, 4)] tLive
     rbit R.SNP_CTL 2 s = true ∧ 20 ≤ 20 ∧ s.snap.holdoff ≤ s.naust.tick ∧ s.snap.queue.length < 16) ∧
    rbit R.SNP_CTL 2 tLive = false ∧
    (let b := tCmd 15 4 1 []
     let s := tWith (tRun 0 b) tLive
     runningCmd 0 .snap s = some (tRun 0 b) ∧ (tRun 0 b).begun = false ∧ (∀ y ∈ s.started, y.id = 0 → y = tRun 0 b)) ∧
    (let m := tMsg 7 0x18 (leBytes 16 9)
     let s := tGot m { tLive with snap := { last := [9] } }
     (takeCtrl 0 0x18 m s).isSome = true ∧ u m.data 0 4 ∈ (tTaken 7 m s).snap.last) ∧
    (let m := tMsg 7 0x18 (leBytes 16 9)
     let t := tTaken 7 m (tGot m tLive)
     (takeCtrl 0 0x18 m (tGot m tLive)).isSome = true ∧ u m.data 0 4 ∉ t.snap.last ∧ t.snap.queue.length < 16) ∧
    (let b := tCmd 15 4 1 []
     let s := tWith (tRun 0 b) { tLive with snap := { queue := (List.range 16).map tTrig } }
     runningCmd 0 .snap s = some (tRun 0 b) ∧ 16 ≤ s.snap.queue.length ∧ s.snap.queue.any (fun g => g.cmd == some 0) = false) := by decide +kernel

theorem test_wit_banks :
    (let s : State := { tLive with snap := { queue := [tTrig 1] } }
     s.snap.queue = tTrig 1 :: [] ∧ bankFor (tTrig 1).hf { s with snap := { s.snap with queue := [] } } = some 0) ∧
    bankFor false (tRegs [(R.SNP_FULL, 15)] tLive) = none ∧ tLive.snap.frozen = [] ∧
    (let b := tCmd 5 10 1 []
     let s := tWith (tRun 44 b) (tRegs [(R.SNP_FULL, 1)] tLive)
     runningCmd 0 .snapFetch s = some (tRun 44 b) ∧ u b 16 1 = myDev s ∧ bankFull (u b 17 1 % 4) s = true ∧ bankFull 0 tLive = false) ∧
    (let b := tCmd 5 10 1 [(16, [1])]
     let s := tWith (tRun 44 b) tLive
     u b 16 1 ≠ myDev s ∧ present (u b 16 1) s = false ∧ present (u b 16 1) (tRegs [(R.KPR_PRESENT, 3)] s) = true) := by decide +kernel

/-! ### Witnesses: compute cores -/

/-- VECTOR over one element, on core 0. -/
def tVec : Bytes := tCmd 1 0x22 3 [(17, [1]), (40, leBytes 4 1), (44, leBytes 4 1)]

/-- MATMUL, MATMUL2 and GRAD_PAIR over one tile, on core 0. -/
def tMat (op units : Nat) : Bytes := tCmd 1 op units [(17, [1]), (40, leBytes 4 1), (44, leBytes 4 1), (72, leBytes 4 1), (76, leBytes 4 1)]

theorem test_wit_matrix :
    runningCmd 0 .matmul (tWith (tRun 0 (tMat 0x10 5)) tLive) = some (tRun 0 (tMat 0x10 5)) ∧
    runningCmd 0 .matmul2 (tWith (tRun 0 (tMat 0x11 7)) tLive) = some (tRun 0 (tMat 0x11 7)) ∧
    runningCmd 0 .gradPair (tWith (tRun 8 (tMat 0x12 6)) tLive) = some (tRun 8 (tMat 0x12 6)) ∧
    runningCmd 0 .vector (tWith (tRun 0 tVec) tLive) = some (tRun 0 tVec) ∧ (tRun 0 tVec).begun = false ∧
    coreCount (tMat 0x10 5) ≠ 0 ∧ opOfBytes (tMat 0x10 5) = some .matmul ∧ opOfBytes (tMat 0x11 7) = some .matmul2 ∧
    opOfBytes (tMat 0x12 6) = some .gradPair := by decide +kernel

/-- A share of one tile of command 0 on array A. -/
def tShare : Share := { c := 0, q := 0, tilesA := [(0, 0)], chainA := List.replicate 640 0 }

/-- Core 0 as `k`, with tokens, and with VECTOR as command 0. -/
def tCore (k : CoreX) : State := setCorex 0 k (tRegs [(R.PWR_Inn_CLK 0, 1 <<< 16)] (tWith (tRun 0 tVec) tLive))

/-- Does a chain slot capture? -/
def tCaptured (b : Bytes) (arr : Bool) : Bool :=
  let s := commitShares 0 (tCore { ready := [tShare], chains := [(0, List.replicate 640 0)] })
  match captureSlot s (takeShare tShare (corex 0 s)) (if arr then u b 19 1 / 16 else u b 19 1 % 16) (outShape b arr) with
  | .ok _ => true
  | .error _ => false

theorem test_wit_share_start :
    (let s := tCore { ready := [tShare] }
     let r := commitShares 0 s
     coreFree 0 s = true ∧ chooseShare (rbits R.CORE_ARB 4 0 r) (corex 0 r) = some tShare ∧ startedAt tShare.c r = some (tRun 0 tVec) ∧
       isAttn tVec = false ∧ shareLacks 0 tShare tVec s = false) ∧
    tCaptured tVec false = true ∧ tCaptured tVec true = true ∧ tCaptured (tCmd 1 0x22 3 [(17, [1]), (19, [1])]) false = false ∧
    isAttn (tCmd 1 0x30 9 [(17, [1])]) = true ∧ coreFree 0 tLive = false ∧ coreFree 0 (tCore { run := some tShare }) = false ∧
    (let s := setStreamx 0 { slots := 0 } (tCore { ready := [tShare] })
     shareLacks 0 tShare tVec s = true) := by decide +kernel

/-- The piece of VECTOR's one tile, landed. -/
def tPiece : Piece := { td := 1, landed := rangesLen (keyRanges tVec (1, 0, 0)), ranges := keyRanges tVec (1, 0, 0), data := [0] }

/-- Core 0 with that tile read, of the command `b`. -/
def tAtTile (b : Bytes) (k : CoreX) : State :=
  setStreamx 0 { pieces := [tPiece] } (setCorex 0 { k with run := some { tShare with pos := 1 } } (tRegs [(R.PWR_Inn_CLK 0, 1 <<< 16)] (tWith (tRun 0 b) tLive)))

theorem test_wit_tile :
    (let s := tAtTile tVec {}
     attnShare 0 s = none ∧ awaitsVerdict 0 false s = some ({ tShare with pos := 1 }, 0, 0, tVec) ∧ awaitsVerdict 0 true s = none ∧
       lostCause 0 { tShare with pos := 1 } tVec false 0 0 {} s = none ∧ s.injects = none ∧
       (shareTileValue (viewPieces 0 { tShare with pos := 1 } tVec s) tVec false 0 0 []).ok = true) ∧
    (let b := tMat 0x10 5
     let s := tAtTile b { onceA := true }
     (awaitsVerdict 0 false s).isSome = true ∧ (corex 0 s).onceA = true ∧ opOfBytes b ≠ some .vector ∧
       ({ s with injects := some (0, false) } : State).injects = some (0, false)) ∧
    (shareTileValue tLive (tMat 0x10 5) false 0 0 [{ place := .product, i := 0, j := 0, k := 0, wrong := 3 }]).ok = false ∧
    lostCause 0 tShare tVec false 0 0 { lost := some true } tLive = some 0x0102 ∧
    (attnShare 0 (tAtTile (tCmd 1 0x30 9 [(17, [1])]) {})).isSome = true := by decide +kernel

/-- Does a chain's run on one tile of core 0 fail? -/
def tChainCause (chain : Bytes) : Option Nat :=
  let t : QTile := { c := 0, chain := chain, rows := 1, cols := 1, elems := [0] }
  let env : CEnv := { chain := chain, tables := [], core := 0, tr := 0, tc := 0, rows := 1, cols := 1, outRows := 1, outCols := 1 }
  (runChain (showDepth 0 (setCorex 0 { corex 0 (tCore { ftq := [t] }) with ftq := [] } (tCore { ftq := [t] }))) env t).cause

theorem test_wit_chain :
    (let t : QTile := { c := 0, chain := List.replicate 640 0, rows := 1, cols := 1, elems := [0] }
     let s := tCore { ftq := [t] }
     (corex 0 s).ftq = t :: [] ∧ enginesHeld s = false ∧ startedAt t.c s = some (tRun 0 tVec) ∧ outsHeld (tRun 0 tVec) s = false ∧
       outShape tVec false = (1, 1) ∧ enginesHeld (tRegs [(R.PWR_STAT, 3)] s) = true) ∧
    tChainCause (List.replicate 640 0) = none ∧
    tChainCause (tBytes 640 [(2, [1]), (453, [0x80]), (456, [1]), (460, [1])]) = some 0x0140 := by decide +kernel

theorem test_wit_loads :
    (let b := tCmd 1 0x20 2 [(17, [1]), (37, [0x80])]
     let s := tWith (tRun 0 b) tLive
     runningCmd 0 .chainLoad s = some (tRun 0 b) ∧ (tRun 0 b).begun = false ∧
       (firstUnreached s (loadAddr b) 640).isSome = true) ∧
    (let b := tCmd 1 0x21 2 [(17, [1])]
     let s : State := { tWith (tRun 0 b) tLive with poison := [24] }
     runningCmd 0 .tableLoad s = some (tRun 0 b) ∧ firstUnreached s (loadAddr b) 3136 = none ∧ poisoned s (loadAddr b) 3136 = true) ∧
    (let b := tCmd 1 0x20 2 [(17, [64])]
     let s := tWith (tRun 0 b) tLive
     runningCmd 0 .chainLoad s = some (tRun 0 b) ∧ firstUnreached s (loadAddr b) 640 = none ∧ poisoned s (loadAddr b) 640 = false) ∧
    (let b := tCmd 1 0x23 2 [(17, [1])]
     let s := tWith (tRun 0 b) tLive
     runningCmd 0 .ringSet s = some (tRun 0 b) ∧ (∀ j < coreCount b, ringClash b 0 (firstCore b + j) s = false)) ∧
    (let b := tCmd 1 0x23 2 [(17, [1]), (34, [4])]
     let s := setStreamx 4 { base := 0, size := 1, slots := 0 } (tWith (tRun 0 b) tLive)
     ringClash b 0 0 s = true) ∧
    (let b := tCmd 1 0x20 2 [(17, [1]), (34, [255])]
     loadBad true b (tMem 0 [255, 255, 255, 255] (tWith (tRun 0 b) tLive)) = true ∧ 
       loadBad true (tCmd 1 0x20 2 [(17, [1])]) (tMem 0 (tBytes 640 [(0, [1, 1]), (64, [12]), (456, [1]), (460, [1])]) tLive) = false) ∧
    ({ tRun 0 (tCmd 1 0x20 2 [(17, [1])]) with begun := true } : Started).begun = true ∧
    ((corex 0 tLive).loads = [] ∧ (corex 0 tLive).run = none) := by decide +kernel

/-! ### Witnesses: attention -/

/-- Core 0 with tokens and command 0 as `x`. -/
def tAttn (x : Started) : State := tRegs [(R.PWR_Inn_CLK 0, 1 <<< 16)] (tWith x tLive)

/-- A slot descriptor of one head and one layer, 64 tokens, with its page table at 1 MiB. -/
def tSlotDesc : Bytes := tBytes 32 [(2, [1, 1]), (8, leBytes 4 64), (16, leBytes 6 0x100000)]

/-- Slot 0 open with that descriptor, and the page manager enabled. -/
def tSlot (s : State) : State := setSlotx 0 { isOpen := true, desc := tSlotDesc } (tRegs [(R.KVP_CTL, 1), (R.KVP_STAT, 1), (R.KVP_Qnn_LEN 0, 64)] s)

/-- ATTN_PAGED over slot 0 with one query row. -/
def tPaged : Bytes := tCmd 1 0x33 8 [(17, [1]), (33, [1, 1, 1])]

/-- The command with the lengths of its slots read at its start. -/
def tPagedRun : Started := { tRun 0 tPaged with image := leBytes 4 64 }

/-- ATTN_FWD of leg 1 alone, over one block of one head. -/
def tRingSet : Bytes := tCmd 1 0x30 9 [(17, [1]), (34, [1, 1]), (36, leBytes 4 64), (48, [2, 0, 1, 1])]

/-- `s` with command 0's share in progress on core 0, at the beginning of its walk. -/
def tWalking (s : State) : State :=
  match s.started with
  | x :: _ => setCorex 0 { run := some { c := 0, units := attnUnits x 0 s, tilesA := [(0, 0)] } } s
  | [] => s

theorem test_wit_attention :
    (let b := tCmd 1 0x30 9 [(17, [1])]
     let s := tAttn (tRun 0 b)
     runningCmd 0 .attnFwd s = some (tRun 0 b) ∧ (tRun 0 b).begun = false ∧ (tRun 0 b).image.length = glistLen b) ∧
    (let b := tCmd 1 0x31 12 [(17, [1]), (32, [16]), (50, [1]), (62, [1]), (81, [0x80])]
     let s := tAttn (tRun 8 b)
     runningCmd 0 .attnBwd s = some (tRun 8 b) ∧ (tRun 8 b).image.length ≠ glistLen b ∧ (firstUnreached s (adOf b).glist (glistLen b)).isSome = true) ∧
    (let b := tCmd 1 0x30 9 [(17, [1]), (32, [16]), (62, [1])]
     (tRun 0 b).image.length ≠ glistLen b ∧ firstUnreached (tAttn (tRun 0 b)) (adOf b).glist (glistLen b) = none) ∧
    (let b := tCmd 1 0x32 5 [(17, [1])]
     runningCmd 0 .attnMerge (tAttn (tRun 0 b)) = some (tRun 0 b)) ∧
    (let s := tSlot (tAttn tPagedRun)
     runningCmd 0 .attnPaged s = some tPagedRun ∧ (pdOf tPaged).nslots = 1 ∧ ¬ (lenOf tPagedRun 0 < (pdOf tPaged).nq) ∧
       ¬ ((sdOf ((pdOf tPaged).slot 0) s).layers ≤ (pdOf tPaged).layer) ∧ lenOf (tRun 0 tPaged) 0 < (pdOf tPaged).nq) ∧
    (let x : Started := { tRun 0 tRingSet with begun := true }
     let s := tAttn x
     startedAt x.id s = some x ∧ x.state = .running ∧ (∀ n ∈ coresOf tRingSet, (heldShare 0 (corex n s)).isNone = true) ∧
       (heldShare 0 (corex 0 (setCorex 0 { ready := [{ c := 0 }] } s))).isSome = true) ∧
    (let s := tRegs [(R.ATT_WTO, 1)] (tWalking (tAttn (tRun 0 tRingSet)))
     waitsBaton 0 s = some 0 ∧ startedAt 0 s = some (tRun 0 tRingSet) ∧ rget R.ATT_WTO s ≠ 0) ∧ waitsBaton 0 tLive = none := by decide +kernel

/-! ### Witnesses: sequence slots, pages and memory -/

/-- The page command `b` as command 0, the page manager enabled when it started. -/
def tPageRun (b : Bytes) : Started := { tRun 0 b with image := [1] }

/-- That command on a module whose page manager is enabled and whose slot 0 is open. -/
def tPage (b : Bytes) : State := tSlot (tWith (tPageRun b) tLive)

/-- Do the books of the pages that the command reads stand? -/
def tBooks (o : Op) (b : Bytes) (s : State) : Bool := !(pagesRead o b s).any (fun y => booksLost y.1 y.2 s)

theorem test_wit_slots :
    (let b := tCmd 1 0x40 2 [(32, [63]), (34, [1, 1]), (40, leBytes 4 64), (38, [1])]
     let s := tPage b
     let d := SD.parse (unitAt b 1)
     (s.started.any (fun y => decide (y.turn < 0) && y.state == .running && (opOfBytes y.bytes).any isPageOp)) = false ∧
       u (tPageRun b).image 0 1 ≠ 0 ∧ runningCmd 0 .slotOpen s = some (tPageRun b) ∧ d.slot = 63 ∧ (slotx d.slot s).isOpen = false ∧
       firstUnreached s d.glist (4 * d.nGlobal) = none ∧ poisoned s d.glist (4 * d.nGlobal) = false ∧ d.nGlobal = 1 ∧
       poisoned { s with poison := [d.glist / 128] } d.glist (4 * d.nGlobal) = true) ∧
    (let b := tCmd 1 0x40 2 []
     runningCmd 0 .slotOpen (tPage b) = some (tPageRun b) ∧ (slotx (SD.parse (unitAt b 1)).slot (tPage b)).isOpen = true) ∧
    (let b := tCmd 1 0x41 1 [(16, [63])]
     runningCmd 0 .slotClose (tPage b) = some (tPageRun b) ∧ u b 16 1 < 64 ∧ tBooks .slotClose b (tPage b) = true) ∧
    (let b := tCmd 1 0x44 1 [(16, [63]), (20, [5])]
     runningCmd 0 .slotTrunc (tPage b) = some (tPageRun b) ∧ u b 16 1 < 64 ∧ tBooks .slotTrunc b (tPage b) = true) ∧
    (∀ op ∈ [0x40, 0x41, 0x42, 0x43, 0x44, 0x45], (runningCmd 0 ((opOf 1 op).getD .nop) (tWith (tRun 0 (tCmd 1 op 1 [])) tLive)).isSome = true) ∧
    u (tRun 0 []).image 0 1 = 0 ∧
    (let b := tCmd 1 0x41 1 []
     tBooks .slotClose b { tPage b with poison := [0x100000 / 128] } = false) ∧
    (let y := tPageRun (tCmd 1 0x41 1 [])
     (y.turn < 1 ∧ y.state = .running ∧ (opOfBytes y.bytes).any isPageOp = true)) := by decide +kernel

theorem test_wit_fork :
    (let b := tCmd 1 0x42 1 [(16, [1, 0]), (20, [64])]
     runningCmd 0 .slotFork (tPage b) = some (tPageRun b) ∧ (sdOf 1 (tPage b)).kvHeads ≠ (sdOf 0 (tPage b)).kvHeads ∧
       tBooks .slotFork b (tPage b) = true) ∧
    (let b := tCmd 1 0x42 1 [(16, [1, 0]), (20, [64])]
     let s := tMem 0x100000 [3] (setSlotx 1 { isOpen := true, desc := tSlotDesc } (tPage b))
     slotLen 1 s = 0 ∧ (sdOf 1 s).kvHeads = (sdOf 0 s).kvHeads ∧ (sdOf 1 s).maxLen = (sdOf 0 s).maxLen ∧
       (sdOf 0 s).tokenPagesAll 0 64 ≠ [] ∧ pteValid (pte 0 0 s) = true ∧ pteWhere (pte 0 0 s) = 1 ∧
       (reserve (fun _ => 1) s).1 = false ∧ (reserve (fun _ => 0) s).1 = true) ∧
    (let b := tCmd 1 0x43 3 [(20, [65])]
     runningCmd 0 .kvWrite (tPage b) = some (tPageRun b) ∧ tBooks .kvWrite b (tPage b) = true ∧ ¬ (u b 20 4 ≤ slotLen 0 (tPage b))) ∧
    (let b := tCmd 1 0x43 3 [(20, [63]), (24, [1])]
     let s := tPage b
     let k := TD.parse (unitAt b 1)
     u b 20 4 ≤ slotLen 0 s ∧ u b 20 4 + u b 24 4 ≤ (sdOf 0 s).maxLen ∧ (k.unmapped s <|> k.unmapped s) = none ∧ k.poisoned s = false ∧
       (k.ranges ++ k.ranges).any (fun y => bankHolds y.1 y.2 s) = false ∧ framesToWrite 0 0 s = 1 ∧
       (reserve (fun w => framesToWrite 0 0 w) s).1 = false ∧
       (reserve (fun w => framesToWrite 0 0 w) { s with kvp := { s.kvp with freeS := [0] } }).1 = true) ∧
    (let b := tCmd 1 0x43 3 [(24, [1]), (37, [0x80]), (40, leBytes 4 1), (44, leBytes 4 1)]
     ((TD.parse (unitAt b 1)).unmapped (tPage b)).isSome = true) ∧
    (let k : TD := { rows := 1, cols := 1 }
     k.poisoned { tLive with poison := [0] } = true ∧
       (k.ranges.any (fun y => bankHolds y.1 y.2 { tLive with bank := { tLive.bank with ranges := [(0, 4)] } })) = true) ∧
    (let b := tCmd 1 0x45 1 [(17, [0xFF])]
     runningCmd 0 .pageHint (tPage b) = some (tPageRun b) ∧ tBooks .pageHint b (tPage b) = true) := by decide +kernel

/-- ATTN_PAGED at slot 0, whose page 0 lies in the Lagoon. -/
def tWalk : State := tRegs [(R.KVP_PF, 1)] (tMem 0x100000 [3] (tWalking (tSlot (tAttn tPagedRun))))

theorem test_wit_pages :
    (let s := tRegs [(R.KVP_CTL, 3), (R.KVP_STAT, 1), (R.KVP_WATER, 1)] tLive
     rbit R.KVP_CTL 1 s = true ∧ rbit R.KVP_STAT 0 s = true ∧ s.kvp.freeS.length < rbits R.KVP_WATER 23 0 s) ∧
    rbit R.KVP_CTL 1 (tRegs [(R.KVP_CTL, 1)] tLive) = false ∧
    (let m : PageMove := { slot := 63, page := 5 }
     ageingOf 63 5 { tLive with kvp := { ageing := [m] } } = some m) ∧ ageingOf 0 0 tLive = none ∧
    (let s : State := { tWalk with kvp := { tWalk.kvp with freeS := [9] } }
     (walkPages 0 s).find? (inLagoon s) = some (0, 0) ∧ inFlight 0 s < workingDepth s ∧ (0, 0) ∈ stepPages 0 s ∧ inLagoon s (0, 0) = true ∧
       booksLost 0 0 s = false ∧ pteValid (pte 0 0 s) = true) ∧
    workingDepth (tRegs [(R.KVP_PF, 0)] tWalk) = 0 ∧ (0, 1) ∉ stepPages 0 tWalk ∧
    (let m : PageMove := { slot := 63, page := 5, demand := true }
     fetchingOf 63 5 { tLive with kvp := { fetching := [m] } } = some m ∧ m.demand = true) ∧
    (isLocked bKVP tLive = false ∧ rbit R.KVP_CTL 0 tLive = false ∧ poolsBad (tRegs [(R.KVP_SPOOL_BASE, 1)] tLive) = true ∧
      poolsBad (tRegs [(R.KVP_SPOOL_BASE, 65536), (R.KVP_SPOOL_FRAMES, 1)] tLive) = false) ∧
    (isLocked bSTS tLive = false ∧ rbit R.STS_CTL 0 tLive = false ∧ diePoolsBad 0 tLive = false ∧ diePoolsBad 1 tLive = false ∧
      diePoolsBad 1 (tRegs [(R.STS_Dd_SFRAMES 1, 1)] tLive) = true) ∧
    rbit R.KVP_CTL 0 (tRegs [(R.KVP_CTL, 1)] tLive) = true ∧ rbit R.STS_CTL 0 (tRegs [(R.STS_CTL, 1)] tLive) = true ∧
    isLocked bKVP (tRegs [(R.KVP_LOCK, 1)] tLive) = true ∧ isLocked bSTS (tRegs [(R.STS_LOCK, 1)] tLive) = true := by decide +kernel

theorem test_wit_take (s : State) (h : s.kvp.freeS = [9]) : (takeS none s).isSome = true := by
  simp [takeS, freePick, h, Nat.mod_one]

theorem test_wit_patrol :
    (128 * (2 ^ 32 - 1) + 128 ≤ stackedEnd ∧ rbits R.MEM_SCRUB 15 0 (tRegs [(R.MEM_SCRUB, 1)] tLive) ≠ 0) ∧
    (spillBase ≤ 128 * 2 ^ 33 ∧ 128 * 2 ^ 33 + 128 ≤ spillEnd ∧ rbits R.SPL_SCRUB 15 0 (tRegs [(R.SPL_SCRUB, 1)] tLive) ≠ 0) ∧
    (255 < 256 ∧ rbits R.MEM_THERM 23 16 (tRegs [(R.MEM_THERM, 255 <<< 16)] tLive) ≤ 255) ∧
    (parityLimit (tRegs [(R.MEM_RETRY, 1)] tLive) < 2 ∧ bookLine 0 tLive = false ∧
      bookLine (0x100000 / 128) (tSlot tLive) = true ∧ rbits R.MEM_SCRUB 15 0 (tRegs [(R.MEM_SCRUB, 0)] tLive) = 0 ∧
      rbits R.SPL_SCRUB 15 0 (tRegs [(R.SPL_SCRUB, 0)] tLive) = 0) := by decide +kernel

/-- ATOMIC over one entry at 4,096 that adds at 8,184. -/
def tAtomic : State :=
  tMem 4096 (leBytes 6 8184) (tWith (tRun 16 (tCmd 2 0x60 1 [(16, leBytes 6 4096), (24, [1])])) tLive)

theorem test_wit_atomic :
    (let b := tCmd 2 0x60 1 [(16, leBytes 6 4096), (24, [1])]
     let s := tAtomic
     let a := atomicList b
     runningCmd 0 .atomic s = some (tRun 16 b) ∧ firstUnreached s a 32 = none ∧ bankHolds a 32 s = false ∧
       bankHolds a 32 { s with bank := { s.bank with ranges := [(4127, 1)] } } = true ∧ poisoned s a 32 = false ∧ atomicCount b = 1 ∧
       a + 32 ≤ stackedEnd ∧ readNat s a 6 + 8 ≤ stackedEnd ∧ readNat s a 6 % 8 = 0 ∧ atomicWidth (readNat s (a + 6) 1) = 8 ∧
       poisoned s (readNat s a 6) 8 = false ∧ a + 32 ≤ readNat s a 6) ∧
    (firstUnreached tLive 0x008000000000 32).isSome = true ∧ poisoned { tLive with poison := [32] } 4096 32 = true := by decide +kernel

theorem test_wit_acc :
    (let b := tCmd 2 0x61 2 [(32, [255, 1, 0, 0]), (36, [1])]
     let s := tRegs [(R.SHC_ACC_LIMIT, 1)] (tWith (tRun 16 b) tLive)
     let un := unitAt b 1
     runningCmd 0 .accOpen s = some (tRun 16 b) ∧ accRegion (u un 0 1) s = none ∧
       accPinned (accDie (u un 0 1)) s + 8 * u un 4 4 ≤ rbits R.SHC_ACC_LIMIT 6 0 s * 2 ^ 20 ∧
       rbits R.SHC_ACC_LIMIT 6 0 (tRegs [(R.SHC_ACC_LIMIT, 0)] s) * 2 ^ 20 < accPinned (accDie (u un 0 1)) s + 8 * u un 4 4 ∧
       accRegion 255 { s with acc := [(255, {})] } ≠ none) ∧
    (let b := tCmd 2 0x62 2 [(16, [1])]
     let x : Started := { tRun 16 b with begun := true }
     let g : AccRegion := { elements := 1 }
     let s : State := { tWith x tLive with acc := [(1, g)] }
     let out := accOut g (accCloseRaw b) (bits (u (unitAt b 1) 6 1) 4 0)
     runningCmd 0 .accClose s = some x ∧ x.begun = true ∧ accRegion (accCloseRegion b) s = some g ∧
       (writeMem 0 (out.flatMap (fun v => leBytes 4 v.1)) s).cause = none ∧
       (writeMem 0x008000000000 (out.flatMap (fun v => leBytes 4 v.1)) s).cause = some 0x0140 ∧ g.bad = [] ∧ ({ g with bad := [0] } : AccRegion).bad ≠ []) ∧
    accRegion 1 tLive = none := by decide +kernel

/-! ### Witnesses: bank units -/

/-- Stack 0 not interleaved. -/
def tBank (b : Bytes) : State := tRegs [(R.MEM_D0_ILV, 0)] (tWith (tRun 0 b) tLive)

theorem test_wit_bank_commands :
    (let b := tCmd 1 0x51 5 [(16, [1]), (20, [1]), (24, [1])]
     let s := tBank b
     let o := OptB.parse b
     runningCmd 0 .bankOpt s = some (tRun 0 b) ∧ enginesHeld s = false ∧ arraysFault o.arrays o.zs s = none ∧
       arraysFault [{ off := 2 ^ 26, slot := 512, rows := 1 }] o.zs s = some 0x0150) ∧
    (let b := tCmd 1 0x52 4 [(16, [1]), (20, [1])]
     let s := tBank b
     let e := EW.parse b
     runningCmd 0 .bankEw s = some (tRun 0 b) ∧ arraysFault (e.uses.map e.arr) e.zs s = none) ∧
    (let b : BankJob := { x := {}, zs := [0], rows := 1, reads := fun _ => [(0, 0, 128)], work := fun _ _ => ([], 0) }
     b.rowsOf 0 = [0] ∧ parityOf [] b.zs 0 = [] ∧ (∀ j ∈ b.rowsOf 0, rowPoison tLive (b.reads j) = none) ∧
       (∃ j ∈ b.rowsOf 0, rowPoison { tLive with poison := [0] } (b.reads j) ≠ none) ∧
       parityOf [⟨0, 0⟩, ⟨0, 0⟩] b.zs 0 = ⟨0, 0⟩ :: ⟨0, 0⟩ :: []) ∧
    (let b := tCmd 1 0x50 4 [(16, [1]), (17, [1]), (20, [1]), (24, [64]), (33, [16]), (40, [1]), (44, [64])]
     let s := tBank b
     let m := MV.parse b
     runningCmd 0 .bankMv s = some (tRun 0 b) ∧ m.w.fault m.zs s = none ∧ (m.x.unmapped s <|> m.y.unmapped s) = none ∧
       m.x.poisoned s = false ∧
       m.x.poisoned { s with poison := [32] } = true ∧ m.x.poisoned { s with poison := [0] } = false ∧ m.poisons s = [] ∧
       (firstMv (m.poisons { s with poison := [0] })).isSome = true ∧
       ({ off := 2 ^ 26, slot := 512, rows := 1 } : BArr).fault m.zs s = some 0x0150) ∧
    (let b := tCmd 1 0x53 1 [(24, [1])]
     let s := tMem 8 [0, 0, 1] (tBank b)
     runningCmd 0 .bankCopy s = some (tRun 0 b) ∧ firstUnreached s (copyList b) 16 = none ∧ poisoned s (copyList b) 16 = false ∧
       (∀ i < 1, pageFault s (copyPair s b i).1 = none ∧ pageFault s (copyPair s b i).2 = none) ∧ badPieces s (copyPair s b 0).1 = []) ∧
    (firstUnreached tLive 0x008000000000 16).isSome = true := by decide +kernel

theorem test_wit_bank_units :
    rbit R.BNK_CTL 0 (tRegs [(R.BNK_CTL, 0)] tLive) = false ∧ tLive.bank.waking = false ∧
    ({ tLive with bank := { waking := true } } : State).bank.waking = true ∧
    (let s : State := { tLive with bank := { holdPending := true } }
     s.bank.holdPending = true ∧ bankRunning s = false ∧ bankRunning (tWith (tRun 0 (tCmd 1 0x53 1 [])) s) = true) ∧
    rbit R.BNK_STAT 2 tLive = false ∧
    (let s := tRegs [(R.BNK_STAT, 5), (R.HIF_BOOT, 0x100)] tLive
     rbit R.BNK_STAT 2 s = true ∧ rbit R.BNK_CTL 0 s = true ∧ rbit R.HIF_BOOT 8 s = true ∧ diesCool s = true) := by decide +kernel

/-! ### Witnesses: streams and DMA channels -/

/-- Half 0 with these transfers. -/
def tHalf (l : List Transfer) (s : State) : State := setHalfx 0 { transfers := l, nextId := 9 } s

/-- Channel 0 running with this work. -/
def tChan (x : ChanX) (s : State) : State := setChanx 0 x (tRegs [(R.DMA_Dnn_STAT 0, 1)] s)

/-- A piece of one transfer that ends at a 4 KiB boundary. -/
def tFetch : Piece := { ranges := [(4095, 1)] }

/-- Core 0 stands at a tile of VECTOR whose piece has no slot, while a landed piece of stream 1 has borrowed the only one. -/
def tStuck : State :=
  setStreamx 1 { pieces := [{ td := 1, row := 1, ranges := [(0, 1)], granted := 1, landed := 1, data := [0], slot := some (0, 0) }] }
    (setStreamx 0 { size := 4, slots := 1, pieces := [{ td := 1, ranges := keyRanges tVec (1, 0, 0) }] } (tCore { run := some tShare }))

theorem test_wit_no_tag : 2048 ≤ (List.replicate 2048 ({} : Transfer)).length :=
  Nat.le_of_eq List.length_replicate.symm

theorem test_wit_transfers :
    inHoldfast (tRegs [(R.PWR_STAT, 3)] tLive) = true ∧
    ((halfx 0 tLive).transfers.length < 2048 ∧ inHoldfast tLive = false ∧
      bestAsker ((busyStreams 0 tLive).filterMap (fun i => streamAsks 0 i tLive) ++
        (List.range 16).filterMap (fun n => channelAsks 0 n tLive)) = none) ∧
    (let s := tRegs [(R.STR_TAGCAP, 1)] (setStreamx 0 { pieces := [tFetch] } tLive)
     nextPiece (streamx 0 s) = some tFetch ∧ slotFor 0 tFetch s = some (0, 0) ∧ tFetch.via = none ∧ firstUnreached s 4095 1 = none ∧
       reach s 4095 = .mem 4095 ∧ transferAt tFetch.ranges 0 = (4095, 1) ∧ (firstUnreached s (2 ^ 47) 1).isSome = true ∧
       (bestAsker ((busyStreams 0 s).filterMap (fun i => streamAsks 0 i s) ++
         (List.range 16).filterMap (fun n => channelAsks 0 n s))).isSome = true) ∧
    (nextPiece (streamx 0 tLive) = none ∧ (nextPiece (streamx 0 tStuck)).isSome = true ∧
      ((nextPiece (streamx 0 tStuck)).bind (fun p => slotFor 0 p tStuck)) = none) ∧
    (let s := tHalf [{ id := 5 }, { id := 6, owner := 512 }] tLive
     (halfx 0 s).transfers.length = 2 ∧ ((halfx 0 s).transfers.filter (fun t => decide (512 ≤ t.owner))).length = 1) := by decide +kernel

theorem test_wit_landed :
    (let y : Transfer := { id := 5, owner := 511, len := 128 }
     let s := tHalf [y] tLive
     (halfx 0 s).transfers.find? (fun y => y.id == 5) = some y ∧ (halfx 0 s).transfers.find? (fun y => y.id == 4) = none ∧
       inHoldfast s = false ∧ transferHeld y s = false ∧ transferHeld y { s with bank := { ranges := [(0, 4)] } } = true ∧
       y.req = none ∧ y.owner < 512 ∧ y.left = 0) ∧
    (let y : Transfer := { id := 5, owner := 512, req := some 3, left := 1 }
     let s := tHalf [y] tLive
     (halfx 0 s).transfers.find? (fun y => y.id == 5) = some y ∧ inHoldfast s = false ∧ transferHeld y s = false ∧ y.req ≠ none ∧
       512 ≤ y.owner ∧ y.addr < regBase ∧ y.left ≠ 0) ∧
    (let l : Landing := { sev := .clean, line := 0, readRepeats := 0, writeRepeats := 0, error := false }
     l.sev = .clean ∧ l.readRepeats = 0 ∧ l.error = false) := by decide +kernel

theorem test_wit_cycles :
    (let s := tStuck
     let now (s : State) := ((List.range 32).map (fun n => 32 * 0 + n)).filterMap (fun n => (cycleAt 0 n s).map (fun i => (n, i)))
     now s = [(0, 0)] ∧ (halfx 0 s).cycles = [] ∧ (now (setHalfx 0 { cycles := [(0, 0)] } s)).filter
       (fun c => (halfx 0 (setHalfx 0 { cycles := [(0, 0)] } s)).cycles.contains c) = [(0, 0)]) := by decide +kernel

theorem test_wit_channels :
    (let b := tCmd 2 0x70 2 [(48, [1])]
     let s := tWith (tRun 16 b) tLive
     runningCmd 0 .dma s = some (tRun 16 b) ∧ (tRun 16 b).begun = false ∧ chanWorks 0 s = false ∧
       chanWorks 0 (tChan { count := 1 } s) = true ∧ chanWorks 1 (tChan { count := 1 } s) = false ∧
       chanWorks 1 (tRegs [(R.DMA_Dnn_STAT 1, 1)] s) = true) ∧
    runningCmd 0 .dma tLive = none ∧
    (let s := tRegs [(R.DMA_Dnn_COUNT 31, 1)] tLive
     qState (16 + 31 / 2) s = 0 ∧ chanWorks 31 s = false ∧ rget (R.DMA_Dnn_COUNT 31) s ≠ 0) ∧
    (qState 16 tLive = 0 ∧ chanWorks 0 tLive = false ∧ rget (R.DMA_Dnn_COUNT 0) tLive = 0) ∧
    (let s := tHalf [{ id := 5, owner := 512 }] (tChan { count := 1, issued := 1 } tLive)
     rbits (R.DMA_Dnn_STAT 0) 2 0 s = 1 ∧ chanBusy 0 s = true) ∧
    (let s := tChan { count := 1 } tLive
     rbits (R.DMA_Dnn_STAT 0) 2 0 s = 1 ∧ chanBusy 0 s = false ∧ (chanx 0 s).halting = none ∧ (chanx 0 s).cmd = none ∧
       (chanx 0 s).funnel = [] ∧ (chanx 0 s).moved ≠ (chanx 0 s).count) ∧
    rbits (R.DMA_Dnn_STAT 0) 2 0 tLive ≠ 1 ∧
    (let s := tChan { count := 1, issued := 1, moved := 1 } tLive
     rbits (R.DMA_Dnn_STAT 0) 2 0 s = 1 ∧ (chanx 0 s).halting = none ∧ (chanx 0 s).moved = (chanx 0 s).count ∧ (chanx 0 s).count ≠ 0 ∧
       writesArrived (chanx 0 s) s = true) ∧
    (chanx 0 (tChan { count := 1, moved := 1, cmd := some 0 } tLive)).cmd = some 0 := by decide +kernel

theorem test_wit_repeats :
    (let y : Transfer := { id := 5, owner := 512, left := 1 }
     let s := tHalf [y] (tChan { count := 1, issued := 1 } tLive)
     (halfx (0 / 16) s).transfers.find? (fun y => y.id == 5 && y.owner == 512 + 0) = some y ∧
       (halfx (0 / 16) s).transfers.find? (fun y => y.id == 4 && y.owner == 512 + 0) = none ∧
       TransferErr.errorResponse ≠ .linkContained ∧ y.left ≠ 0 ∧ y.req = none ∧ ({ id := 5 } : Transfer).left = 0 ∧
       (repeatTransfer 0 y 0 none s).isSome = true ∧
       repeatTransfer 0 { y with addr := peerBase + peerSize, len := 128, req := some 3 } 0 none (tRegs [(R.KPR_PRESENT, 3)] s) = none) := by decide +kernel

theorem test_wit_direct :
    (let s := tChan { count := 1, issued := 1, moved := 1, irq := true } tLive
     rbit (R.DMA_Dnn_STAT 0) 8 s = false ∧ (chanx 0 s).cmd = none ∧ (chanx 0 s).irq = true ∧ chanBusy 0 s = false ∧
       rbit (R.DMA_Dnn_STAT 0) 8 (emptyFunnel 0 (rsetBits (R.DMA_Dnn_STAT 0) 2 0 5 s)) = false ∧
       rbit (R.DMA_Dnn_STAT 0) 8 (emptyFunnel 0 (setChanx 0 { chanx 0 s with halting := some (4, 0x0161, 0) } s)) = false) ∧
    (let s := tRegs [(R.DMA_Dnn_STAT 0, 257)] (tChan { count := 1, moved := 1, cmd := some 0 } tLive)
     rbits (R.DMA_Dnn_STAT 0) 2 0 s = 1 ∧ rbit (R.DMA_Dnn_STAT 0) 8 s = true ∧ (chanx 0 s).cmd = some 0) ∧
    (chanBusy 31 tLive = false ∧ (chanx 31 tLive).cmd = none ∧ rbit (R.DMA_Dnn_STAT 31) 8 tLive = false) ∧
    rbit (R.DMA_Dnn_CTL 0) 3 (tRegs [(R.DMA_Dnn_CTL 0, 8)] tLive) = true := by decide +kernel

/-! ### Witnesses: the stash and the compressor -/

/-- STASH_PUT of one FP32 element into entry 4,095, with the stash enabled and one frame on its die. -/
def tPut : Bytes := tCmd 1 0x48 3 [(16, [255, 15]), (40, leBytes 4 1), (44, leBytes 4 1)]

/-- The stash on, one frame on die 1, and entry 4,095 as `e`. -/
def tStash (e : StashEntry) (x : Started) : State :=
  setStashx 4095 e (setStashd 1 { freeS := [0] } (tRegs [(R.STS_CTL, 5), (R.STS_Dd_SFRAMES 1, 1), (R.STS_WATER, 2)] (tWith x tLive)))

theorem test_wit_stash_put :
    (let x := tRun 7 tPut
     let s := tStash {} x
     let e := stashEntryOf tPut
     let n := framesOf (putEntry tPut).td
     runningCmd 0 .stashPut s = some x ∧ rbit R.STS_CTL 0 s = true ∧ x.q < 8 ∧ n ≤ rget (R.STS_Dd_SFRAMES (stashDieOf e)) s ∧
       (stashx e s).state = .free ∧ n ≤ (stashd (stashDieOf e) s).freeS.length ∧
       (stashd (stashDieOf e) (setStashd 1 {} s)).freeS.length < n ∧ rget (R.STS_Dd_SFRAMES (stashDieOf e)) (tRegs [(R.STS_Dd_SFRAMES 1, 0)] s) < n ∧
       (stashx e (tStash { state := .resident } x)).state ≠ .free ∧
       (tRun 7 tPut).begun = false ∧ (qState x.q s ≠ qStopping ∨ (qx x.q s).yielded = false) ∧
       (let s := setQx 7 { qx 7 s with yielded := true } (setQState 7 qStopping s)
        qState x.q s = qStopping ∧ (qx x.q s).yielded = true)) ∧
    (let x := { tRun 7 tPut with begun := true }
     let s := tStash {} x
     let src := TD.parse (unitAt tPut 1)
     runningCmd 0 .stashPut s = some x ∧ src.unmapped s = none ∧ src.ranges.any (fun r => bankHolds r.1 r.2 s) = false ∧
       src.poisoned s = false ∧ src.poisoned { s with poison := [0] } = true ∧
       src.ranges.any (fun r => bankHolds r.1 r.2 { s with bank := { ranges := [(0, 128)] } }) = true ∧
       (TD.parse (tBytes 32 [(5, [128]), (8, [1]), (12, [1])])).unmapped s ≠ none) ∧
    rbit R.STS_CTL 0 (tRegs [(R.STS_CTL, 0)] tLive) = false ∧ 8 ≤ (tRun 8 tPut).q := by decide +kernel

theorem test_wit_stash_get :
    (let b := tCmd 1 0x49 2 [(16, [255, 15])]
     let s := tStash {} (tRun 0 b)
     let t := TD.parse (unitAt b 1)
     let y : StashEntry := { state := .resident, axis0 := true, fmt := t.fmt }
     runningCmd 0 .stashGet s = some (tRun 0 b) ∧ stashTurn 0 (stashEntryOf b) s = true ∧ rbit R.STS_CTL 0 s = true ∧
       (stashx (stashEntryOf b) s).state = .free ∧ recompUnits b = 0 ∧
       (t.fmt = y.fmt ∧ t.axis ≠ y.axis0 ∧ t.rows = y.rows ∧ t.cols = y.cols) ∧
       (stashx 4095 (tStash { y with state := .recompute } (tRun 0 b))).state = .recompute ∧
       (stashx 4095 (tStash { y with state := .putting } (tRun 0 b))).state = .putting ∧
       (stashx 4095 (tStash y (tRun 0 b))).state = .resident ∧
       (stashx 4095 (tStash { y with state := .offloading } (tRun 0 b))).state = .offloading ∧
       (stashx 4095 (tStash { y with state := .offloaded } (tRun 0 b))).state = .offloaded ∧
       ¬ (t.axis ≠ ({} : StashEntry).axis0)) ∧
    (let b := tCmd 1 0x49 2 [(16, [255, 15])]
     let x := { tRun 0 b with begun := true }
     let s := { tStash {} x with started := [{ x with id := 1, turn := 1 }, tRun 0 b], nextCmd := 2 }
     runningCmd 1 .stashGet s = some { x with id := 1, turn := 1 } ∧ stashTurn 1 4095 s = false) ∧
    recompUnits (tCmd 1 0x49 2 [(20, [1])]) ≠ 0 ∧
    (let b := tCmd 1 0x4A 1 [(16, [255, 15])]
     let s := tStash { state := .resident } (tRun 0 b)
     runningCmd 0 .stashDrop s = some (tRun 0 b) ∧ stashTurn 0 (stashEntryOf b) s = true ∧ (stashx (stashEntryOf b) s).state ≠ .free ∧
       (stashx (stashEntryOf b) s).state ≠ .putting) ∧
    (let s := tStash {} (tRun 0 tPut)
     rbit R.STS_CTL 2 s = true ∧ (stashd 1 s).freeS.length < rbits R.STS_WATER 15 0 s ∧ rbit R.STS_CTL 2 (tRegs [(R.STS_CTL, 1)] s) = false ∧
       rbits R.STS_WATER 15 0 (tRegs [(R.STS_WATER, 1)] s) ≤ (stashd 1 s).freeS.length) ∧
    (let s := tStash { state := .offloading } (tRun 0 tPut)
     (stashx 4095 s).state = .offloading ∧ (stashx 4095 s).packed = false ∧ (stashx 0 s).state ≠ .offloading) := by decide +kernel

/-- A complete table of class 4 in which the symbol of a zero byte takes one bit. -/
def tTable : CodeTable := { gen := 7, cls := 4, lens := [1, 2, 3, 4] ++ List.replicate 4 8 ++ List.replicate 24 9 }

set_option maxRecDepth 100000 in
theorem test_wit_blocks :
    let b : Bytes := List.replicate 128 0
    (tTable.gen < 65536 ∧ tTable.cls < 6 ∧ 0 < b.length ∧ b.length ≤ 4096 ∧ (encodePayload tTable.cls tTable.lens b).length + 64 ≤ b.length) ∧
    (tableOfImage (imageOf tTable.gen tTable.cls tTable.lens) = tTable ∧ imageBad (imageOf tTable.gen tTable.cls tTable.lens) = false ∧
      b.length % clsElem tTable.cls = 0 ∧ slotTable { slot0 := some tTable } tTable.gen = some tTable) ∧
    (127 : Nat) < (encodePayload tTable.cls tTable.lens (List.replicate 127 0)).length + 64 := by decide +kernel

set_option maxRecDepth 100000 in
theorem test_wit_expanders :
    (let m := tMsg 8 0 (List.replicate 512 0)
     (takeMsg 0 8 m (tGot m tLive)).isSome = true ∧ takeMsg 0 8 m tLive = none) ∧
    ((compx 23 tLive).waiting = [] ∧ (compx 23 tLive).queued = [] ∧ (compx 24 (dropDeadImages tLive)).getc = []) ∧
    (let good := imageOf tTable.gen tTable.cls tTable.lens
     let b := tCmd 1 0x49 2 [(16, [255, 15])]
     let s (w : List Bytes) (x : CompX) := dropDeadImages (setCompx 24 { x with waiting := w, getc := [0] } (tWith (tRun 0 b) tLive))
     (compx 24 (s [good] {})).getc = 0 :: [] ∧ (loadImage 24 (s [good] {})).1 = some true ∧
       (loadImage 24 (s [List.replicate 512 0] {})).1 = some false ∧
       (loadImage 24 (s [good] { slot0 := some tTable, slot1 := some { tTable with gen := 8 }, queued := [
         { hdr := blockHdr 7 1 4 1 false 0, c := some 0 }, { hdr := blockHdr 8 1 4 1 false 0, c := some 0 }] })).1 = none) ∧
    (let good := imageOf tTable.gen tTable.cls tTable.lens
     let s := setCompx 23 { waiting := [good] } tLive
     (compx 23 s).waiting = good :: [] ∧ imageBad good = false ∧ loadSlot (compx 23 s) = some false ∧ imageBad (List.replicate 512 0) = true ∧
       loadSlot { slot0 := some tTable, slot1 := some { tTable with gen := 8 },
                  queued := [{ hdr := blockHdr 7 1 4 1 false 0 }, { hdr := blockHdr 8 1 4 1 false 0 }] } = none) ∧
    (let q : BlockQ := { hdr := blockHdr 7 1 4 1 false 0, payload := [0] }
     let r : BlockQ := { hdr := blockHdr 0 1 0 1 true 0, payload := [0] }
     let f : BlockQ := { hdr := 0 }
     (compx 0 (setCompx 0 { queued := [q] } tLive)).queued = q :: [] ∧ q.asked = false ∧ q.c = none ∧ expandBlock {} q = .stall 7 ∧
       expandBlock {} r = .ok [0] ∧ expandBlock {} f = .fail ∧ { q with asked := true }.asked = true) ∧
    (let q : BlockQ := { hdr := blockHdr 7 1 4 1 false 0, payload := [0], c := some 0 }
     let b := tCmd 1 0x49 2 [(16, [255, 15])]
     let s := setCompx 24 { queued := [q] } (tWith (tRun 0 b) tLive)
     (compx 24 s).queued = q :: [] ∧ q.c = some 0 ∧ runningCmd 0 .stashGet s = some (tRun 0 b) ∧ q.asked = false ∧
       expandBlock (compx 24 s) q = .stall 7 ∧ expandBlock (compx 24 s) { q with hdr := blockHdr 0 1 0 1 true 0 } = .ok [0] ∧
       expandBlock (compx 24 s) { q with hdr := 0 } = .fail) ∧
    (rbit (R.CMP_Pnn_STAT 24) 2 tLive = false ∧ rbit R.CMP_SNAP 1 tLive = false ∧ rbit R.ERR_SNAP 1 tLive = false) ∧
    (rbits R.CMP_GENTO 23 0 (tRegs [(R.CMP_GENTO, 0)] tLive) = 0 ∧
      (let s := tRegs [(R.CMP_GENTO, 1), (R.CMP_Pnn_STAT 0, 4)] tLive
       rbits R.CMP_GENTO 23 0 s ≠ 0 ∧ rbit (R.CMP_Pnn_STAT 0) 2 s = true ∧ rbits (R.CMP_Pnn_STAT 0) 31 16 s = 0)) := by decide +kernel

/-! ### Witnesses: Viril links -/

/-- A flit with its CRC. -/
def tFlit (l : List (Nat × Bytes)) : Bytes := tBytes 248 l ++ leBytes 8 (crc64 (tBytes 248 l))

/-- Port 0 in a state. -/
def tPort (st : Nat) (s : State) : State := tRegs [(R.LNK_Lnn_STAT 0, st)] s

/-- What the far end of port 0 of device 0 sends. -/
def tIdent (s : State) : Bytes :=
  let f := farEnd 0 s
  tFlit [(0, [2]), (24, leBytes 1 f.1), (25, leBytes 1 f.2.1), (26, leBytes 1 f.2.2), (28, leBytes 8 (rget R.LNK_CREDIT s)),
    (36, leBytes 1 (rbits R.HIF_IDENT 7 0 s))]

set_option maxRecDepth 100000 in
theorem test_wit_links :
    (let t := tRegs [(R.KPR_CFG, 1 <<< 8)] tLive
     (23 < 24 ∧ myDom tLive < 11 ∧ (myDom t, myDev t) = ((farEnd 0 tLive).1, (farEnd 0 tLive).2.1))) ∧
    (let s := tPort 1 tLive
     s.boot.released = false ∧ portState 0 s = psTraining ∧ (0x0F : BitVec 8) ≠ 255 ∧ (0x0F : BitVec 8).toNat % 16 = 15 ∧
       rbit (R.LNK_Lnn_CFG 0) 4 (tRegs [(R.LNK_Lnn_CFG 0, 16)] s) = true ∧ rbit (R.LNK_Lnn_CFG 0) 4 (tRegs [(R.LNK_Lnn_CFG 0, 0)] s) = false) ∧
    (let s := tPort 2 tLive
     portState 0 s = psIdent ∧ flitCrcOk (tFlit [(0, [2])]) = true ∧ flitReservedOk (tFlit [(0, [2])]) = true ∧ flitType (tFlit [(0, [2])]) = 2 ∧
       identReservedOk (tFlit [(0, [2])]) = true ∧ identOk 0 (tFlit [(0, [2])]) s = false ∧ identOk 0 (tIdent s) s = true ∧
       flitCrcOk (tIdent s) = true ∧ flitReservedOk (tIdent s) = true ∧ identReservedOk (tIdent s) = true ∧ flitCrcOk [] = false) ∧
    (portState 0 (tPort 4 tLive) ∈ [psTraining, psIdent, psRetrain] ∧ portState 0 (tPort 3 tLive) ∉ [psTraining, psIdent, psRetrain]) ∧
    (let s := tPort 3 tLive
     portUp 0 s = true ∧ laneUsed 0 7 s = true ∧ rbit R.LNK_SNAP 1 s = false ∧ portUp 0 tLive = false) ∧
    (portState 0 (tPort 4 tLive) = psRetrain ∧ (portx 0 (tPort 4 tLive)).replay = [] ∧
      (portx 0 (setPortx 0 { replay := [(0, [])] } (tPort 4 tLive))).replay ≠ []) ∧
    ((portx 0 (setPortx 0 { ownF := [1, 2, 3, 4] } tLive)).ownF.length = 4 ∧ portState 0 (tPort 6 tLive) ≠ psTraining ∧
      portState 0 (tPort 6 tLive) ≠ psRetrain ∧ portState 0 (tPort 4 tLive) ≠ psIdent ∧ laneUsed 0 7 (setPortx 0 { lanes := 15 } (tPort 11 tLive)) = false) ∧
    ((1 : BitVec 32).toNat % 2 ^ 24 = rget R.LNK_PORT_EN (tRegs [(R.LNK_PORT_EN, 1)] tLive)) ∧
    (let may (s : State) := fun p => portEnabled p s && (portState p s == psDown || portState p s == psMiswired)
     (setPositions 24 1).all (may (tRegs [(R.LNK_PORT_EN, 1)] (tPort 6 tLive))) = true ∧ (setPositions 24 1).all (may (tPort 3 tLive)) = false) ∧
    (isLocked bLNK (tRegs [(R.LNK_LOCK, 1)] tLive) = true ∧ isLocked bLNK tLive = false) := by decide +kernel

set_option maxRecDepth 100000 in
theorem test_wit_flits :
    (let s := tPort 3 tLive
     let d := tFlit [(0, [1])]
     portUp 0 s = true ∧ flitCrcOk [] = false ∧ flitCrcOk d = true ∧ flitReservedOk d = true ∧ flitType d = 1 ∧ portUp 0 (takeAck 0 d s) = true ∧
       flitSeq d = (portx 0 (takeAck 0 d s)).rxSeq ∧ (flitHeaders d).any (headerProto 0 (flitTC d)) = false ∧ creditStalled (portx 0 s) = false ∧ flitNak d = false) ∧
    (let d := tFlit [(0, [0x11]), (4, [5])]
     let s := setPortx 0 { replay := [(0, [])], naked := none, stuck := 15 } (tPort 3 tLive)
     flitNak d = true ∧ ackedReplay (flitAck d) (portx 0 s).replay ≠ [] ∧ (portx 0 s).naked ≠ some (flitAck d) ∧
       portUp 0 (takeAck 0 d s) = false ∧ flitType d = 1 ∧ flitReservedOk d = true ∧ flitCrcOk d = true) ∧
    (let d := tFlit [(0, [1]), (2, [1])]
     flitSeq d ≠ (portx 0 (tPort 3 tLive)).rxSeq) ∧
    (let d := tFlit [(0, [1]), (24, [9])]
     (flitHeaders d).any (headerProto 0 (flitTC d)) = true) ∧
    (let d := tFlit []
     flitCrcOk d = true ∧ flitReservedOk d = true ∧ flitType d = 0) ∧
    (flitReservedOk (tFlit [(1, [1])]) = false ∧ flitCrcOk (tFlit [(1, [1])]) = true) ∧
    (let s := setPortx 0 { replay := [(0, [])] } (tPort 3 tLive)
     (portx 0 s).replay ≠ [] ∧ (portx 0 s).stuck < max 1 (rbits R.LNK_RETRY 3 0 (tRegs [(R.LNK_RETRY, 3)] s)) ∧
       max 1 (rbits R.LNK_RETRY 3 0 (tRegs [(R.LNK_RETRY, 3)] s)) ≤ (portx 0 (setPortx 0 { stuck := 3 } s)).stuck ∧ rbit R.ERR_SNAP 1 s = false) ∧
    (let o : RedOp := { needs := [(0, 1)] }
     tLive.redWait = [] ∧
     let s : State := { tRegs [(R.LNK_Lnn_RBFREE 0, 1)] tLive with redWait := [o] }
     s.redWait = o :: [] ∧ (∀ n ∈ o.needs, n.2 ≤ rbFree n.1 s) ∧ ¬ (∀ n ∈ o.needs, n.2 ≤ rbFree n.1 (tRegs [(R.LNK_Lnn_RBFREE 0, 0)] s))) := by decide +kernel

/-- `s` while a bank command holds the lines at 0. -/
def tHeld (s : State) : State := { s with bank := { ranges := [(0, 128)] } }

/-- `s` with one transfer of half 0 that waits for the READ_RESP of tag 9. -/
def tAsked (owner : Nat) (s : State) : State := setHalfx 0 { transfers := [{ id := 5, owner := owner, len := 32, req := some 9 }], nextId := 6 } s

set_option maxRecDepth 100000 in
theorem test_wit_peers :
    (let m := tMsg 1 (0x008000000000 - 1) [5]
     (takeMsg 0 1 m (tGot m tLive)).isSome = true ∧ m.addr.toNat + m.data.length ≤ stackedEnd ∧
       bankHolds m.addr.toNat m.data.length tLive = false ∧ takeMsg 0 1 m tLive = none ∧ bankHolds 0 1 (tHeld tLive) = true) ∧
    (let m := tMsg 2 0 (leBytes 4 32)
     (takeMsg 0 2 m (tGot m tLive)).isSome = true ∧ firstUnreached (tTaken 2 m (tGot m tLive)) 0 32 = none ∧
       bankHolds m.addr.toNat (u m.data 0 4) tLive = false ∧ bankHolds m.addr.toNat (u m.data 0 4) (tHeld tLive) = true) ∧
    (firstUnreached tLive 0x008000000000 32).isSome = true ∧
    (let m := tMsg 3 0 [5] 9
     let r : ReadOut := { tag := 9, c := some 0 }
     let s := tGot m { tLive with reads := [r] }
     let t := tTaken 3 m s
     (takeMsg 0 3 m s).isSome = true ∧ t.reads.find? (fun r => r.tag == m.tag.toNat) = some r ∧ waitingRead 9 { t with reads := [] } = none ∧
       ((waitingRead 9 (tAsked 512 t)).map (fun x => (x.2.owner, transferHeld x.2 (tAsked 512 t)))) = some (512, false) ∧
       ((waitingRead 9 (tAsked 0 t)).map (fun x => (x.2.owner, transferHeld x.2 (tHeld (tAsked 0 t))))) = some (0, true) ∧
       (tTaken 3 m (tGot m tLive)).reads.find? (fun r => r.tag == m.tag.toNat) = none) ∧
    (let r : ReadOut := { tag := 9, c := some 0 }
     ({ tLive with reads := [r] } : State).reads.find? (fun r => r.tag == (9 : BitVec 16).toNat) = some r ∧ r.c = some 0) ∧
    tLive.reads.find? (fun r => r.tag == (9 : BitVec 16).toNat) = none := by decide +kernel

/-! ### Witnesses: the relay engine -/

/-- A group of devices 0 and 1 of this domain, with root 0 and OPTAG 7. -/
def tGroup : List (Nat × Bytes) := [(34, [1, 3]), (40, [7])]

/-- A begun BROADCAST of 256 bytes in that group from device 1's side, its operation known to the relay. -/
def tBcast : Bytes := tCmd 3 0x81 3 ([(80, leBytes 4 256), (72, leBytes 6 4096)] ++ tGroup)

/-- A command of a relay queue, begun. -/
def tBegun (b : Bytes) : Started := { tRun 32 b with begun := true }

/-- That command with its relay operation. -/
def tRelay (b : Bytes) (s : State) : State :=
  let t := tWith (tBegun b) (tRegs [(R.KPR_PRESENT, 3)] s)
  { t with relay := { ops := [{ c := 0 }] } }

/-- A CTRL message of a type with 16 bytes of data. -/
def tCtrl (type : Nat) (l : List (Nat × Bytes)) : Msg := tMsg 7 type (tBytes 16 l)

/-- REDUCE of 32 elements as bucket 3 by both devices, root 0, its marker 0; not patched. -/
def tReduce : Bytes := tCmd 3 0x84 5 ([(64, [3]), (68, [32])] ++ tGroup)

/-- The same of device 0 alone. -/
def tReduceOne : Bytes := tCmd 3 0x84 5 [(34, [1, 1]), (64, [3]), (68, [32])]

/-- A module with bucket `k` and REDUCE `b` as command 0. -/
def tBucket (k : Bucket) (b : Bytes) : State :=
  let t := tWith (tBegun b) (tRegs [(R.KPR_PRESENT, 3)] tLive)
  { t with relay := { buckets := [k], reorder := [3] } }

theorem test_wit_relay :
    (let s := tRelay tBcast tWorker
     let m : Msg := tMsg 4 (7 * 2 ^ 24) (List.replicate 256 0)
     ownerOfBaton m (tGot m s) = some (tBegun tBcast, .broadcast, 4096, 0, 0) ∧
       (takeMsg 0 4 m (tGot m s)).isSome = true ∧ (writeMem 4096 m.data (tTaken 4 m (tGot m s)) m.poison).cause = none ∧
       bankHolds 4096 m.data.length (tGot m s) = false ∧
       bankHolds 4096 m.data.length { tGot m s with bank := { ranges := [(4096, 1)] } } = true ∧
       (writeMem 0x008000000000 m.data (tTaken 4 m (tGot m s)) m.poison).cause = some 0x0140 ∧ ownerOfBaton { m with addr := 0 } (tGot m s) = none) ∧
    (let s := tRelay tBcast tWorker
     relayOp 0 s = some { c := 0 } ∧ ({ c := 0 } : RelayOp).early = [] ∧ (1 : Nat) ≠ countedOf 0 { c := 0 } ∧ (0 : Nat) = countedOf 0 { c := 0 }) ∧
    (∀ ty ∈ [1, 2, 4, 9], (takeCtrl 0 ty (tCtrl ty [(4, [1])]) (tGot (tCtrl ty [(4, [1])]) tLive)).isSome = true) ∧
    (∀ ty ∈ [1, 2, 3, 4, 5, 6, 7, 8, 9, 0x20, 0x21], takeCtrl 0 ty (tCtrl ty []) tLive = none) ∧
    (u (tCtrl 1 [(4, [1])]).data 4 2 ≠ epochNow tLive ∧ rbit R.RLY_CTL 1 tLive = false) ∧
    (let m := tCtrl 1 [(0, [3])]
     u m.data 4 2 = epochNow (tGot m tLive)) := by decide +kernel

theorem test_wit_relay_buckets :
    (let m := tCtrl 2 [(0, [3])]
     let k : Bucket := { num := 3, c := some 0 }
     let s := tGot m (tBucket k tReduce)
     let t := tTaken 7 m s
     (takeCtrl 0 2 m s).isSome = true ∧ u m.data 4 2 = epochNow s ∧ bucketAt 3 t = some k ∧ (reduceOf k t).isSome = true ∧ k.scale = none ∧
       bucketAt 4 t = none ∧ reduceOf { k with c := none } t = none ∧ ({ k with scale := some (0, 1) } : Bucket).scale.isSome = true ∧
       (RD.parse tReduce t).g.parent (me t) = none ∧
       ((RD.parse tReduce t).g.parent (me (tRegs [(R.KPR_CFG, 1 <<< 8)] t))).isSome = true) ∧
    (let m := tCtrl 3 [(0, [3])]
     let t := tTaken 7 m (tGot m tLive)
     (takeCtrl 0 3 m (tGot m tLive)).isSome = true ∧ isManager t = true ∧ t.relay.closedB.contains (u m.data 0 4) = false ∧
       t.relay.timers.any (fun x => x.1 == u m.data 0 4) = false ∧ isManager (tTaken 7 m (tGot m tWorker)) = false ∧
       (let t' : State := { t with relay := { timers := [(3, 0, 1)], closedB := [3] } }
        t'.relay.timers.any (fun x => x.1 == u m.data 0 4) = true ∧ t'.relay.closedB.contains (u m.data 0 4) = true ∧
          t'.relay.starts.contains (u m.data 0 4, m.srcDom.toNat, m.srcDev.toNat) = false)) ∧
    (let m := tCtrl 5 []
     (takeCtrl 0 5 m (tGot m tLive)).isSome = true ∧ isManager (tTaken 7 m (tGot m tLive)) = true ∧
       isManager (tTaken 7 m (tGot m tWorker)) = false) := by decide +kernel

theorem test_wit_relay_messages :
    (let b := tCmd 3 0x85 3 [(84, [9]), (56, leBytes 4 1), (61, [1, 1])]
     let m := tCtrl 8 [(0, [9]), (4, [1])]
     let s := tGot m (tRelay b tLive)
     let t := tTaken 7 m s
     let takes (y : Started × Op) : Bool := y.2 == .ringPass && decide ((Ring.parse y.1.bytes).first ≤ 1) &&
       decide (1 < (Ring.parse y.1.bytes).first + (Ring.parse y.1.bytes).count)
     (takeCtrl 0 8 m s).isSome = true ∧ (opsOfTag (u m.data 0 4) t).find? takes = some (tBegun b, .ringPass) ∧
       relayOp (tBegun b).id t = some { c := 0 } ∧ relayOp (tBegun b).id { t with relay := {} } = none ∧ opsOfTag 8 t = []) ∧
    (let m := tMsg 5 (1 <<< 42) (List.replicate 128 0)
     bits m.addr.toNat 47 42 ≠ epochNow tLive % 64 ∧ (takeMsg 0 5 m (tGot m tLive)).isSome = true ∧ rbit R.RLY_CTL 1 tLive = false) ∧
    (bits (tMsg 5 0 []).addr.toNat 47 42 = epochNow tLive % 64 ∧ bitAt (tMsg 5 0 []).tag.toNat 15 = false ∧ takeMsg 0 5 (tMsg 5 0 []) tLive = none) ∧
    (let m := tMsg 5 3 (List.replicate 128 0) 0x8000
     let s := tGot m (tBucket { num := 3, c := some 0 } tReduce)
     let k := needBucket 3 (epochNow s) s
     bitAt m.tag.toNat 15 = true ∧ s.relay.past.contains 3 = false ∧ (takeMsg 0 5 m s).isSome = true ∧
       ({ s with relay := { past := [3] } } : State).relay.past.contains 3 = true ∧ reduceOf { k.1 with c := none } k.2 = none ∧
       (reduceOf k.1 k.2).isSome = true ∧ (RD.parse tReduce k.2).g.root = me s ∧
       (RD.parse tReduce k.2).g.root ≠ me (tRegs [(R.KPR_CFG, 1 <<< 8)] s)) ∧
    (let m := tCtrl 6 [(0, [1]), (4, [9])]
     let t := tTaken 7 m (tGot m tLive)
     (takeCtrl 0 6 m (tGot m tLive)).isSome = true ∧ ((holdOf m).1, (holdOf m).2.1) ≠ me t ∧ t.relay.holds.contains (holdOf m) = false ∧
       t.relay.lifted.contains (holdOf m) = false ∧ t.started = []) ∧
    (let m := tCtrl 7 [(0, [1]), (4, [9])]
     let s : State := tGot m { tLive with relay := { holds := [(0, 1, 9)] } }
     (takeCtrl 0 7 m s).isSome = true ∧ (tTaken 7 m s).relay.holds.contains (holdOf m) = true ∧ (tTaken 7 m s).started = [] ∧
       (holdOf m) ∉ tLive.relay.holds) ∧
    (let x : SentC := { msg := { tMsg 4 0 [] with dstDev := 1 } }
     let s : State := { tLive with relay := { ops := [{ c := 0, unacked := [x] }] } }
     let m := tCtrl 0x20 [(6, [4])]
     let a := tCtrl 0x21 [(6, [4])]
     (takeCtrl 0 0x20 m (tGot m s)).isSome = true ∧ findSent m (tTaken 7 m (tGot m s)) = some x ∧ findSent m tLive = none ∧
       (takeCtrl 0 0x21 a (tGot a s)).isSome = true ∧ (tTaken 7 a (tGot a s)).relay.ops = [{ c := 0, unacked := [x] }] ∧ sentMatches a x = true) := by decide +kernel

theorem test_wit_collectives :
    (∀ op ∈ [(0x81, Op.broadcast), (0x82, .allGather), (0x83, .allToAll)],
      let b := tCmd 3 op.1 3 tGroup
      runningCmd 0 op.2 (tWith (tRun 32 b) tLive) = some (tRun 32 b) ∧ runningCmd 0 op.2 (tWith (tBegun b) tLive) = some (tBegun b) ∧
      (Coll.parse b tLive).g.absent tLive = true ∧ (Coll.parse b tLive).g.absent (tRegs [(R.KPR_PRESENT, 3)] tLive) = false ∧
      collUnmapped op.2 (Coll.parse b tLive) tLive = none ∧ lostOf (Coll.parse b tLive).g.optag tLive = none ∧
      lostOf (Coll.parse b tLive).g.optag { tLive with relay := { lostTags := [(7, 23)] } } = some 23 ∧
      (Coll.parse b tLive).g.root = me tLive ∧ (Coll.parse b tWorker).g.root ≠ me tWorker ∧
      (collUnmapped op.2 { Coll.parse b tLive with src := 0x008000000000, dst := 0x008000000000, n := 256 } tLive).isSome = true) ∧
    (let b := tCmd 3 0x85 3 [(56, leBytes 4 1)]
     let s := tWith (tRun 32 b) tLive
     let r := Ring.parse b
     runningCmd 0 .ringPass s = some (tRun 32 b) ∧ (tRun 32 b).begun = false ∧ (tBegun b).begun = true ∧ ringUnreached r s = none ∧
       (ringUnreached { r with kvOwn := 0x008000000000 } s).isSome = true ∧ lostOf r.optag s = none ∧
       lostOf r.optag { s with relay := { lostTags := [(r.optag, 5)] } } = some 5) ∧
    (let s := tRelay tBcast tWorker
     let k := Coll.parse tBcast s
     relayOp 0 s = some { c := 0 } ∧ ({ c := 0 } : RelayOp).toSend = [] ∧ (∀ r ∈ expectedRanks .broadcast k.g, countedOf r {} ≠ batonsOf k.n) ∧
       (∀ r ∈ expectedRanks .broadcast k.g, countedOf r { counted := [(0, 1)] } = batonsOf k.n) ∧ quiet 2 [] s = true) ∧
    (let b := tCmd 3 0x82 3 ([(80, leBytes 4 256)] ++ tGroup)
     let k := Coll.parse b tLive
     let m := tMsg 4 (7 * 2 ^ 24) [] 1
     m.addr.toNat % 2 ^ 24 < batonsOf k.n ∧ rankOfTag .allGather k.g m < k.g.members.length) ∧
    (let g : Grp := { doms := [0, 1], trays := 3, slots := 3, rdom := 0, rdev := 0 }
     g.parent (1, 9) = some (1, 8) ∧ g.parent (1, 8) = some (1, 0) ∧ g.parent (1, 0) = some (0, 0) ∧ g.parent (0, 0) = none) ∧
    (let s := tRegs [(R.RLY_WTO, 1)] (tRelay tBcast tLive)
     startedAt 0 s = some (tBegun tBcast) ∧ (tBegun tBcast).state = .running ∧ opOfBytes tBcast = some .broadcast ∧ rget R.RLY_WTO s ≠ 0 ∧
       Op.broadcast ∈ [Op.broadcast, .allGather, .allToAll, .ringPass]) ∧
    (let k : Bucket := { num := 3, c := some 0 }
     let s := tRegs [(R.RLY_WTO, 0)] (tBucket k tReduce)
     opOfBytes tReduce = some .reduce ∧ bucketAt (RD.parse tReduce s).bucket s = some k ∧ k.c = some 0 ∧ rget R.RLY_WTO s = 0 ∧
       rget R.RLY_WTO (tRegs [(R.RLY_WTO, 1)] s) ≠ 0 ∧ isRelayOp .nop = false ∧ startedAt 5 s = none) := by decide +kernel

theorem test_wit_reduces :
    (let x := tRun 32 tReduce
     let s := tWith x tLive
     let r := RD.parse tReduce s
     runningCmd 0 .reduce s = some x ∧ x.begun = false ∧ (bucketAt r.bucket s).isNone = true ∧ r.g.absent s = true ∧
       r.g.absent (tRegs [(R.KPR_PRESENT, 3)] s) = false ∧ (needBucket r.bucket (epochOf tReduce) s).1.cut = false ∧ r.named = [] ∧
       (needBucket r.bucket (epochOf tReduce) (reopen r.bucket s)).1.lost = none ∧
       (needBucket 3 0 (tBucket { num := 3, lost := some 9 } tReduce)).1.lost = some 9) ∧
    (let x := tBegun tReduce
     let s := tBucket { num := 3, c := some 0 } tReduce
     runningCmd 0 .reduce s = some x ∧ x.begun = true ∧ (RD.parse tReduce s).ready s = true ∧
       bucketAt 3 (flushContribs 3 s) = some { num := 3, c := some 0 } ∧ bucketAt 3 (flushContribs 3 (tWith x tLive)) = none) ∧
    (let w := tRegs [(R.KPR_CFG, 1 <<< 8)] (tBucket { num := 3, c := some 0 } tReduce)
     let r := RD.parse tReduce w
     let k : Bucket := { num := 3, c := some 0, own := some { dev := 1 }, scale := some (0, 1) }
     k.own = some { dev := 1 } ∧ r.g.parent (me w) = some (0, 0) ∧ (foldReports { dev := 1 } k.reports).count = 0 ∧ k.outbox = [] ∧ k.unacked = [] ∧
       quiet 2 k.marks w = true ∧ r.forwards w = false) ∧
    (bucketAt 3 (tBucket { num := 3, c := some 0 } tReduce) = some { num := 3, c := some 0 }) ∧
    (needBucket 3 0 (tBucket { num := 3, cut := true } tReduce)).1.cut = true ∧
    (let b := tCmd 3 0x84 5 [(34, [1, 1]), (64, [3]), (68, [32]), (102, [1])]
     let r := RD.parse b tLive
     r.named ≠ [] ∧ r.ready tLive = true ∧ r.ready { tLive with markers := [(0, 2 ^ 31)] } = false) ∧
    (let k : Bucket := { num := 3, c := some 0, scale := some (0, 1), ready := true }
     let s := tBucket k tReduceOne
     nextApply s = some 3 ∧ bucketAt 3 s = some k ∧ (reduceOf k s).isSome = true ∧ (RD.parse tReduceOne s).patch = 0 ∧
       reduceOf { k with c := none } s = none) ∧
    (let b := tCmd 3 0x84 5 [(34, [1, 1]), (64, [3]), (68, [32]), (152, leBytes 6 4096)]
     let k : Bucket := { num := 3, c := some 0, scale := some (0, 1), ready := true }
     let s := tBucket k b
     nextApply s = some 3 ∧ (RD.parse b s).patch = 4096 ∧ bankHolds 4096 32 s = false ∧ bankHolds 4096 32 { s with bank := { ranges := [(4096, 1)] } } = true ∧
       firstUnreached s (4096 + 19) 9 = none ∧ (firstUnreached s (0x008000000000 + 19) 9).isSome = true) ∧
    nextApply tLive = none ∧
    (let s : State := { tLive with relay := { timers := [(3, 0, 1)] } }
     s.relay.timers.find? (fun t => t.1 == (3 : BitVec 32).toNat) = some (3, 0, 1) ∧ rbit R.RLY_CTL 0 s = false) ∧
    tLive.relay.timers.find? (fun t => t.1 == (3 : BitVec 32).toNat) = none ∧
    (let b := tCmd 3 0x86 1 [(16, [1])]
     runningCmd 0 .epochFence (tWith (tBegun b) tLive) = some (tBegun b) ∧ epochOf b ≠ epochNow tLive ∧
       relayPending 0 (tWith (tBegun b) tLive) = false ∧
       relayPending 0 { tLive with started := [tBegun b, { tBegun tBcast with id := 1 }] } = true ∧ epochOf (tCmd 3 0x86 1 []) = epochNow tLive) := by decide +kernel

/-! ### Witnesses: the manager's duties -/

theorem test_wit_domains :
    (let s : State := { tRegs [(R.KPR_STAT, 0)] tLive with keeper := { forming := true } }
     isManager s = true ∧ s.keeper.forming = true ∧ rbit R.KPR_STAT 4 s = false) ∧
    (tLive.keeper.forming = false ∧ (∀ ty ∈ [0x10, 0x11, 0x12, 0x13, 0x14, 0x15, 0x22, 0x23], takeCtrl 0 ty (tCtrl ty []) tLive = none) ∧
      rbit R.KPR_STAT 4 (tRegs [(R.KPR_STAT, 16)] tLive) = true) ∧
    (let m := { tCtrl 0x10 [(2, [u (leBytes 8 (rget R.HIF_IDENT tLive)) 0 1 |> BitVec.ofNat 8])] with srcDev := 0 }
     let s : State := tGot m { tRegs [(R.HIF_BOOT, 0x705)] tWorker with boot := { released := true } }
     let t := tTaken 7 m s
     s.boot.released = true ∧ memoriesReady s = true ∧ isManager s = false ∧ (takeCtrl 0 0x10 m s).isSome = true ∧ u m.data 0 1 = myDom t ∧
       u m.data 1 1 = managerDev t ∧ u m.data 2 1 = rbits R.HIF_IDENT 7 0 t ∧ u m.data 4 4 = t.naust.fwVersion) ∧
    (u (tCtrl 0x10 [(0, [1])]).data 0 1 ≠ myDom tWorker ∧ tLive.boot.released = false ∧ memoriesReady tLive = false ∧ tLive.keeper.joined = false) ∧
    (let m := tCtrl 0x11 []
     let s := tGot m (tRegs [(R.KPR_EXPECT, 3)] tLive)
     let t := tTaken 7 m s
     (takeCtrl 0 0x11 m s).isSome = true ∧ isManager t = true ∧ expected m.srcDev.toNat t = true ∧ m.srcDom.toNat = myDom t ∧
       ¬ (rbit R.KPR_STAT 4 t = true ∧ jobState t ≠ 0) ∧ isManager tWorker = false) ∧
    ({ tLive with keeper := { joined := true } } : State).keeper.joined = true ∧
    (∀ ty ∈ [0x12, 0x13, 0x14, 0x15, 0x22, 0x23], (takeCtrl 0 ty (tCtrl ty []) (tGot (tCtrl ty []) tLive)).isSome = true) := by decide +kernel

theorem test_wit_heartbeats :
    (let m := tCtrl 0x14 []
     let t := tTaken 7 m (tGot m tLive)
     isManager t = true ∧ u m.data 0 1 ≤ 10 ∧ rbit R.KPR_MACHINE (u m.data 0 1) (tRegs [(R.KPR_MACHINE, 0)] t) = false ∧
       rbit R.KPR_MACHINE (u m.data 0 1) (tRegs [(R.KPR_MACHINE, 1)] t) = true) ∧
    (let s : State := { tLive with boot := { released := true } }
     isManager s = true ∧ s.boot.released = true) ∧
    (3 ≤ AL.get 0 63 [((63 : Nat), 3)] ∧ AL.get 0 63 [((63 : Nat), 2)] < 3) ∧
    (present 63 tLive = false ∧ jobState (tRegs [(R.KPR_STAT, 1)] tLive) ≠ 0 ∧ jobState (tRegs [(R.KPR_STAT, 1)] tLive) ≠ jobRecovering ∧
      jobState (tRegs [(R.KPR_STAT, 5)] tLive) = jobRecovering ∧ ({ tLive with keeper := { tookOver := true } } : State).keeper.tookOver = true) ∧
    (let s := tRegs [(R.KPR_PRESENT, 2 ^ 63 + 1)] tLive
     63 < 64 ∧ present 63 s = true ∧ 63 ≠ myDev s ∧ jobState s = 0 ∧ rbit R.KPR_CTL 1 (tRegs [(R.KPR_CTL, 0)] s) = false) ∧
    (let w : State := { tRegs [(R.KPR_CFG, 0x02000100)] tLive with keeper := { joined := true } }
     isManager w = false ∧ w.keeper.joined = true ∧ standbyDev w < 64 ∧ w.keeper.tookOver = false ∧ myDev w ≠ standbyDev w) ∧
    (let w : State := { tRegs [(R.KPR_CFG, 0x01000100)] tLive with keeper := { joined := true } }
     isManager w = false ∧ standbyDev w < 64 ∧ myDev w = standbyDev w) ∧
    (let w : State := { tRegs [(R.KPR_CFG, 0xFF000100)] tLive with keeper := { joined := true } }
     isManager w = false ∧ 64 ≤ standbyDev w) ∧
    (let m := { tCtrl 0x23 [] with srcDev := 0 }
     m.srcDom.toNat = myDom tWorker ∧ m.srcDev.toNat = managerDev tWorker ∧ ({ m with srcDev := 5 } : Msg).srcDev.toNat ≠ managerDev tWorker) ∧
    (u (tCtrl 0x22 []).data 1 1 = myDom tLive ∧ u (tCtrl 0x22 [(3, [1])]).data 3 1 = 1 ∧ u (tCtrl 0x22 []).data 3 1 ≠ 1) := by decide +kernel

/-- A command of the manager's own queue. -/
def tJob (op : Nat) (l : List (Nat × Bytes)) : Bytes := tCmd 5 op 1 l

/-- It, begun. -/
def tJobRun (b : Bytes) (prog : Nat) (s : State) : State := tWith { tRun 44 b with begun := true, prog := prog } s

/-- A layout of one device, and the same over two devices of which one is absent. -/
def tLay (use : Nat) : Bytes :=
  tBytes 64 [(0, [use, 1, 1, 1, 1] |>.map (BitVec.ofNat 8)), (6, [1]), (8, [1]), (10, [1]), (14, [64]), (18, [1]), (22, [BitVec.ofNat 8 (2 * use - 1)]), (30, [1])]

/-- A JOB_SUSPEND that saves no range to the spill tier. -/
def tSuspend : Bytes := tJob 2 [(16, leBytes 6 spillBase)]

/-- An image without ranges, whose last sections are empty, at the start of the spill tier, and what it has kept. -/
def tImage : State :=
  let h := tBytes 256 [(0, [1]), (4, [7]), (16, leBytes 8 65536)]
  { tMem spillBase (patch h 24 (leBytes 8 (crc64 h))) tLive with images := [{ tag := 0, jobTag := 7 }] }

/-- A manager in a machine of two domains that another leads, whose active job that lead has handed to it. -/
theorem test_wit_handed_manager :
    (let s : State := { tRegs [(R.KPR_MACHINE, 3), (R.KPR_STAT, 1), (R.QFE_JOB, 9)] tLive with keeper := { leadJob := 9 } }
     isManager s = true ∧ 1 < popCount 11 (rbits R.KPR_MACHINE 10 0 s) ∧ rbit R.KPR_STAT 6 s = false ∧ takesHanded s = true ∧
       s.keeper.leadJob ≠ 0 ∧ s.keeper.leadJob = rget R.QFE_JOB s ∧ ({ jobTag := 9 } : Flight).jobTag = rget R.QFE_JOB s) ∧
    takesHanded { tWorker with keeper := { joined := true } } = true ∧ takesHanded tLive = false := by decide +kernel

theorem test_wit_jobs :
    (∀ op ∈ [(1, Op.jobStart), (4, .jobRelease), (5, .jobEnd), (2, .jobSuspend), (3, .jobResume), (6, .reshard), (7, .remap), (8, .checkpoint), (9, .meterCollect)],
      runningCmd 5 op.2 tLive = none ∧ opOfBytes [] ≠ some op.2) ∧
    (∀ op ∈ [(1, Op.jobStart), (4, .jobRelease), (5, .jobEnd), (2, .jobSuspend), (3, .jobResume), (6, .reshard), (7, .remap), (8, .checkpoint), (9, .meterCollect)],
      runningCmd 0 op.2 (tWith (tRun 44 (tJob op.1 [])) tLive) = some (tRun 44 (tJob op.1 [])) ∧ opOfBytes (tJob op.1 []) = some op.2) ∧
    (let w : State := { tWorker with keeper := { joined := true } }
     isManager w = false ∧ w.keeper.joined = true ∧ isManager tLive = true ∧ tWorker.keeper.joined = false) := by decide +kernel

theorem test_wit_job_start :
    (let b := tJob 1 [(16, [5])]
     let s := tMem 0 (tLay 1) (tWith (tRun 44 b) tLive)
     (layFails b s).1 = none ∧ (layFails b (tMem 0 (tLay 2) s)).1 = some 0x01B6 ∧ isManager s = true ∧ layAddr b + 64 * 65 ≤ stackedEnd) ∧
    ((∀ q < 44, qState q (disableRings tLive) = 0) ∧ qState 0 (disableRings (tQueue 1 {} tLive)) ≠ 0) := by decide +kernel

theorem test_wit_job_suspend :
    (firstUnreached tLive (layAddr tSuspend) (32 * nRanges tSuspend) = none ∧ imageRefused (imageAddr tSuspend) (imageTotal 0 tLive) tLive = false ∧
       imageRefused 0 (imageTotal 0 tLive) tLive = true ∧ allAtYield tLive = true ∧ allAtYield (tQueue 1 {} tLive) = false ∧
       relayPending 0 tLive = false ∧ relayPending 0 { tLive with started := [{ tBegun tBcast with id := 1 }] } = true ∧
       (firstUnreached tLive 0x008000000000 32).isSome = true) ∧
    (let x : Started := { tRun 44 tSuspend with begun := true }
     let s := tRegs [(R.KPR_SUSP_TO, 1)] (tWith x tLive)
     rbits R.KPR_SUSP_TO 15 0 s ≠ 0 ∧ s.started.find? (fun x => x.state == .running && x.begun && opOfBytes x.bytes == some .jobSuspend) = some x ∧
       rbits R.KPR_SUSP_TO 15 0 (tRegs [(R.KPR_SUSP_TO, 0)] s) = 0 ∧
       tLive.started.find? (fun x => x.state == .running && x.begun && opOfBytes x.bytes == some .jobSuspend) = none) := by decide +kernel

set_option maxRecDepth 100000 in
theorem test_wit_job_resume :
    soundImage spillBase tLive = none ∧ (soundImage spillBase tImage).map (fun x => (x.1.jobTag, x.2)) = some (7, []) ∧
    imageAddr (tJob 3 [(16, leBytes 6 spillBase)]) = spillBase := by decide +kernel

theorem test_wit_job_moves :
    (u (tJob 6 [(16, [1])]) 16 2 ≠ epochNow tLive ∧ cannotRestore tLive = true ∧
      cannotRestore { tLive with keeper := { committed := some 0 } } = false) ∧
    (quiet 0 [] tLive = true ∧ quiet 0 [(23, 1)] tLive = false ∧ ({ tRun 44 [] with prog := 2 } : Started).prog = 2 ∧ lostPorts [] tLive = [] ∧
      lostPorts [1] tLive ≠ []) ∧
    (checkpointFails (tRegs [(R.KPR_CKPT_SIZE, 0)] tLive) = some 0x01B5 ∧
      checkpointFails (tRegs [(R.KPR_CKPT_SIZE, 1), (R.KPR_CKPT_BASE, spillBase)] tLive) = none) ∧
    (let x : Started := { tRun 44 (tJob 8 []) with begun := true, prog := 2 }
     let s := tWith x tLive
     x.begun = true ∧ x.prog ≠ 1 ∧ quiet 0 s.keeper.marks s = true ∧ startedAt x.id s = some x ∧ x.state = .running ∧
       quiet 0 s.keeper.marks { s with keeper := { marks := [] } } = true) := by decide +kernel

/-! ### Witnesses: the codec engine -/

/-- A codec command of context 15. -/
def tCdc (op units : Nat) (l : List (Nat × Bytes)) : Started := tRun 40 (tCmd 4 op units ((16, [15]) :: l))

/-- CDC_OPEN of an encode context of 16 by 16 samples, 64 MiB of memory, CQ 30, GOP 1, 16 MiB of output. -/
def tOpen : Started :=
  tCdc 1 6 [(17, [2]), (40, [64]), (44, [16]), (46, [16]), (54, [1]), (96, [30, 51]), (104, [1]), (108, [8]), (118, [16])]

/-- Context 15 open for `y`'s queue with the units of `tOpen` and MODE `mode`. -/
def tCodec (mode : Nat) (x : CodecX) (y : Started) : State :=
  setCodecx 15 { x with isOpen := true, mode := mode, q := 40, units := tOpen.bytes } (tWith y tLive)

theorem test_wit_codec :
    (let s := tWith tOpen tLive
     let k := CU.parse tOpen.bytes
     runningCmd 0 .cdcOpen s = some tOpen ∧ codecTurn 15 0 s = true ∧ ctxOpen 15 s = false ∧ k.need ≤ k.workMib ∧
       (CU.parse (tCdc 1 6 []).bytes).workMib < (CU.parse (tCdc 1 6 []).bytes).need ∧ ctxOpen 15 (tCodec 2 {} tOpen) = true) ∧
    (let y := tCdc 2 1 []
     let s := tCodec 2 {} y
     runningCmd 0 .cdcClose s = some y ∧ codecBefore 15 0 s = [] ∧ ctxRefuses y none s = none ∧ ctxRefuses y none (tWith y tLive) = some 0x0004 ∧
       codecBefore 15 1 { s with started := [y, { y with id := 1 }] } ≠ []) ∧
    (let y := tCdc 3 1 []
     ((codecx 15 tLive).isOpen = false ∧ (codecx 15 (tCodec 0 {} y)).isOpen = true ∧ (codecx 15 (tCodec 0 {} y)).q ≠ 41)) ∧
    (let y := tCdc 3 1 [(24, [4])]
     let s := tCodec 0 {} y
     runningCmd 0 .cdcDecode s = some y ∧ y.begun = false ∧ codecTurn 15 0 s = true ∧ ctxRefuses y (some false) s = none ∧
       firstUnreached s (codecAddr y.bytes) (u y.bytes 24 4) = none ∧ poisoned s (codecAddr y.bytes) 4 = false ∧ workPoisoned (codecx 15 s) s = false ∧
       poisoned { s with poison := [0] } (codecAddr y.bytes) 4 = true ∧ (codecx 15 s).hist = [] ∧ (codecx 15 (tCodec 0 { hist := [[1]] } y)).hist ≠ []) ∧
    (let y := tCdc 4 1 []
     let s := tCodec 2 {} y
     runningCmd 0 .cdcEncode s = some y ∧ codecTurn 15 0 s = true ∧ ctxRefuses y (some true) s = none ∧
       firstUnreached s (codecAddr y.bytes) (sourceSize (CU.parse tOpen.bytes)) = none ∧
       poisoned s (codecAddr y.bytes) (sourceSize (CU.parse tOpen.bytes)) = false ∧ (CU.parse tOpen.bytes).cap = 0) ∧
    (let y := tCdc 5 1 []
     runningCmd 0 .cdcFlush (tCodec 2 {} y) = some y ∧ ctxRefuses y none (tCodec 2 {} y) = none ∧ (codecx 15 (tCodec 0 {} y)).mode ≠ 2) ∧
    (let o : CodecOut := { c := 0 }
     let s := tCodec 2 { outs := [o], next := 1 } { tCdc 4 1 [] with begun := true }
     let k := CU.parse tOpen.bytes
     liveOuts s (codecx 15 s).outs = o :: [] ∧ (k.slots ≤ 1 ∧ satisfied (markerCount k.freeM s) (k.freeB + 1 - k.slots + 1) = false) ∧ ¬ (k.slots ≤ 0)) ∧
    liveOuts tLive (codecx 15 tLive).outs = [] := by decide +kernel

theorem test_wit_codec_waits :
    (∀ op ∈ [Op.cdcOpen, .cdcClose, .cdcDecode, .cdcEncode, .cdcFlush], runningCmd 0 op tLive = none) ∧
    (∀ op ∈ [1, 3, 4, 5], let y := { tCdc op 1 [] with id := 1, turn := 1 }
      let s : State := { tCodec 0 {} y with started := [tCdc 3 1 [], y], nextCmd := 2 }
      (∃ o ∈ [Op.cdcOpen, .cdcDecode, .cdcEncode, .cdcFlush], runningCmd 1 o s = some y) ∧ codecTurn 15 1 s = false) ∧
    (∀ op ∈ [3, 4, 5], let y := tCdc op 1 []
      (ctxRefuses y none (tWith y tLive)).isSome = true ∧ codecTurn 15 0 (tWith y tLive) = true ∧ { y with begun := true }.begun = true) ∧
    (ctxRefuses (tCdc 3 1 []) (some false) (tCodec 2 {} (tCdc 3 1 [])) = some 0x01C3) ∧
    (let y := tCdc 4 1 []
     let s := tCodec 2 {} y
     workPoisoned (codecx 15 s) s = false ∧
       workPoisoned (codecx 15 s) { s with poison := [lineOf (CU.parse tOpen.bytes).work] } = true ∧
       poisoned { s with poison := [0] } (codecAddr y.bytes) (sourceSize (CU.parse tOpen.bytes)) = true ∧
       (firstUnreached s 0x008000000000 (sourceSize (CU.parse tOpen.bytes))).isSome = true ∧ (firstUnreached s 0x008000000000 4).isSome = true) ∧
    (let y := { tCdc 4 1 [] with begun := true }
     let s := tCodec 2 { outs := [{ c := 0 }, { c := 0 }] } y
     startedAt 0 s = some y ∧ outsHeld y s = false ∧ y.muted = false ∧ y.state = .running ∧
       ([{ c := 0 }] : List CodecOut).any (fun z => z.c == 0) = true ∧ ([] : List CodecOut).any (fun z => z.c == 0) = false ∧
       outsHeld { y with outs := [(0, 1)] } { s with bank := { ranges := [(0, 1)] } } = true) := by decide +kernel

/-- What is left of CODEC_OUTPUT's and CDC_ENCODE's conditions rests on the length that the opaque coder gives an access unit. -/
theorem test_wit_codec_output (h : ∀ m raw st i, Config.encoded m raw st i = 0) :
    let k := CU.parse tOpen.bytes
    auLen k 15 30 true [] ≤ k.bsMib * 2 ^ 20 / k.slots := by simp [auLen, enc, h]

theorem test_wit_codec_written (h : ∀ m raw st i, Config.encoded m raw st i = 0) :
    (writeEncoded 15 (CU.parse tOpen.bytes) 0 {} tLive).cause = none ∧
    (writeEncoded 15 { CU.parse tOpen.bytes with stats := 0x008000000000 } 0 {} tLive).cause = some 0x0140 := by
  simp only [writeEncoded, auLen, enc, encodedBlock, h]
  decide +kernel

/-- A stream of which the standard's process says nothing but `f` of selector 3. -/
theorem test_wit_codec_decode (f : Int) (h : ∀ m st i, Config.decoded m st i = if i = 3 then f else 0) :
    dec 0 [] 1 0 0 = 0 ∧ dec 0 [] 0 0 0 = 0 ∧ dec 0 [] 3 0 0 = f ∧ (dec 0 [] 2 0 0).toNat % 64 = 0 := by simp [dec, h]

theorem test_wit_codec_denied (h : ∀ m st i, Config.decoded m st i = 1) : dec 0 [] 1 0 0 ≠ 0 ∧ dec 0 [] 0 0 0 ≠ 0 := by simp [dec, h]

/-! ### Witnesses: power, clocks and tokens -/

/-- A reading of every sensor at `t` degrees. -/
def tReading (inlet t : Nat) : SensorReading :=
  { cd0 := List.replicate 24 t, cd1 := List.replicate 24 t, hd := List.replicate 12 t, nearest := List.replicate 64 t, inlet := inlet, outlet := t }

theorem test_wit_power :
    (let s := tRegs [(R.PWR_CTL, 2)] tLive
     (pwrState s = 0 ∨ pwrState s = 1) ∧ rbit R.PWR_CTL 1 s = true ∧ atRest s = true) ∧
    (rbit R.PWR_CTL 1 (tRegs [(R.PWR_CTL, 0)] tLive) = false ∧ 2 ≤ pwrState (tRegs [(R.PWR_STAT, 2)] tLive)) ∧
    (let r := tReading (tInMax tLive) 20
     pwrState tLive ≤ 1 ∧ rbit R.PWR_STAT 7 tLive = false ∧ tInMax tLive ≤ r.inlet ∧ r.inlet < tInMax tLive + 10 ∧ rbit R.PWR_STAT 5 tLive = false ∧
       (∀ x ∈ dieReadings r, x < tHold tLive ∧ x < tCrit tLive)) ∧
    (let r := tReading 20 (tHold tLive)
     let s := tRegs [(R.PWR_CTL, 0)] tLive
     r.inlet < tInMax s ∧ rbit R.PWR_CTL 3 s = false ∧ (∃ x ∈ dieReadings r, tHold s ≤ x) ∧ (∀ x ∈ dieReadings r, x < tCrit s) ∧ s.started = []) ∧
    (rbit R.PWR_STAT 7 (tRegs [(R.PWR_STAT, 0x80)] tLive) = true ∧ inHoldfast tLive = false ∧ inHoldfast (tRegs [(R.PWR_STAT, 3)] tLive) = true ∧
      tLive.power.shutDown = false ∧ ({ tLive with power := { shutDown := true } } : State).power.shutDown = true) ∧
    (let s : State := { tLive with power := { waking := [72], vert := [0] } }
     72 ∈ s.power.waking ∧ 72 - 72 ∈ s.power.vert ∧ 151 ∉ s.power.waking) := by decide +kernel

theorem test_wit_clocks :
    (snapDown 0 255 ≠ 255 ∧ snapDown 71 8 = 8 ∧ ceilTarget 0 (tRegs [(R.PWR_CEIL_CLK, 0)] tLive) < snapDown 0 255) ∧
    (let s : State := { tLive with power := { changing := [(0, 255)] } }
     findKey 0 s.power.changing = some 255 ∧ findKey 1 s.power.changing = none) ∧
    (mayAsk (.vert 7) tLive = true ∧ mayAsk (.port 23) tLive = false) ∧
    (let s : State := { tRegs [(R.MEM_Sn_STAT 7, 4096)] tLive with power := { vert := [7] } }
     hasStopped (.vert 7) s = true ∧ tokensOf (.vert 7) s ≠ 0 ∧ tokensOf (.vert 0) s = 0) ∧
    tLive.power.requests = [] ∧
    (let s : State := { tLive with power := { requests := [(.vert 0, 0)] } }
     s.power.requests = (.vert 0, 0) :: [] ∧ ((0 : Nat) : Int) ≤ tokFree s ∧ tokFree s < ((100000 : Nat) : Int)) := by decide +kernel

/-- What holds after a command that answers a next state. -/
def tAfter (i : Instr) (s : State) (p : State → Bool) : Bool := match exec i s with | .next t => p t | _ => false

theorem test_wit_power_edges :
    tAfter (.inputSample ⟨39999, 0, 1⟩) (tRegs [(R.PWR_CEIL_W, 0)] { tLive with power := { under40 := 99, overCeil := 999 } })
      (fun t => t.power.under40 == 100 && t.power.overCeil == 1000) = true ∧
    (pwrState (tRegs [(R.PWR_STAT, 0)] tLive) = 0 ∧ pwrState (tRegs [(R.PWR_STAT, 1)] tLive) = 1 ∧
      rbits R.PWR_STAT 6 4 (tRegs [(R.PWR_STAT, 1)] tLive) = 0) ∧
    (inHoldfast tLive = false ∧ rbit R.PWR_STAT 7 tLive = false ∧ (∀ x ∈ [tHold tLive - 1], x < tHold tLive) ∧
      (let v := tRegs [(R.PWR_STAT, 0x80)] tLive
       inHoldfast v = false ∧ rbit R.PWR_STAT 7 v = true ∧ (∀ x ∈ [tHold v - tHyst v], x + tHyst v ≤ tHold v) ∧ tHold v < tHold v - tHyst v + 1 + tHyst v)) ∧
    (rbit R.PWR_CTL 3 (tRegs [(R.PWR_CTL, 0)] tLive) = false ∧ tThr tLive < tThr tLive + tHyst tLive - 1 + 1) ∧
    (let r := tReading (tInMax tLive + 10) 20
     (∀ x ∈ dieReadings r, x < tCrit tLive) ∧ tInMax tLive + 10 ≤ r.inlet ∧
       (dieReadings (tReading 20 (tCrit tLive))).findIdx? (fun x => decide (tCrit tLive ≤ x)) = some 0) ∧
    (let s : State := { tLive with power := { waking := [71, 80, 79] } }
     71 ∈ s.power.waking ∧ 79 ∈ s.power.waking ∧ 79 - 72 ∉ s.power.vert) := by decide +kernel

theorem test_wit_clock_edges :
    (let s := tRegs [(R.PWR_Inn_CLK 0, 0x8080)] tLive
     tAfter (.clockTargetWrite ⟨0, by decide⟩ 4) s (fun t => decide (wanted 0 t < clkCurrent 0 t)) = true) ∧
    (tLive.power.changing.any (fun x => x.1 == 0) = false ∧ clkTokens 0 (tRegs [(R.PWR_Inn_CLK 0, 1 <<< 16)] tLive) ≠ 0 ∧
      clkTokens 0 (tRegs [(R.PWR_Inn_CLK 0, 0)] tLive) = 0 ∧ islandOf (.vert 0) = none) ∧
    (let s := tRegs [(R.PWR_Inn_CLK 0, 1 <<< 16 ||| 255)] tLive
     clkTokens 0 s ≠ 0 ∧ clkCurrent 0 s < wanted 0 s) := by decide +kernel

/-! ### Witnesses: metering and ceilings -/

/-- Naust runs. -/
def tNaust : State := { tLive with boot := { naust := true } }

theorem test_wit_meter :
    (tNaust.boot.naust = true ∧ tNaust.naust.states.length = 4 ∧ closedThisTick { tNaust with naust := { tick := 1 } } = false ∧
      tNaust.naust.held.length < 64 ∧ closedThisTick { tNaust with naust := { tick := 0, start := 0, seq := 1, held := [{}] } } = true) ∧
    64 ≤ (List.replicate 64 ({} : MeterRec)).length ∧ tNaust.naust.held.any (fun r => !r.signed) = false ∧
    (let s : State := { tWorker with naust := { held := [{}] } }
     s.naust.held.find? (fun r => !r.signed) = some {} ∧ isManager s = false) ∧
    (let r : MeterRec := { seq := 7, signed := true }
     let s : State := { tNaust with naust := { held := [r] } }
     offered s = r :: [] ∧ r.signed = true ∧ r.seq = (7 : BitVec 32).toNat ∧ r.seq ≠ (8 : BitVec 32).toNat) ∧
    (let m := tMsg 7 0x26 (tBytes 48 [(0, [7])])
     let r : MeterRec := { seq := 7, signed := true }
     let s : State := tGot m { tNaust with naust := { held := [r] } }
     (takeCtrl 0 0x26 m s).isSome = true ∧ offered (tTaken 7 m s) = r :: [] ∧ r.seq = u m.data 0 4 ∧ r.bootId = u m.data 16 16) ∧
    (inHoldfast (tRegs [(R.PWR_STAT, 3)] tNaust) = true ∧ hasWork 63 (setCorex 63 { run := some {} } tNaust) = true ∧ State.reset.boot.naust = false ∧
       inHost (rget R.KPR_MREC_BASE (tRegs [(R.KPR_MREC_BASE, hostBase)] tNaust)) (1024 * mrecSlots tNaust) = true) ∧
    (let r : MeterRec := { seq := 7 }
     let s : State := { tNaust with naust := { held := [r] } }
     r.signed = false ∧ offered s = r :: [] ∧ mrecFull (tRegs [(R.KPR_MREC_SLOTS, 0)] s) = true ∧ takeCtrl 0 0x26 (tMsg 7 0x26 []) s = none ∧
       takeCtrl 0 0x25 (tMsg 7 0x25 []) s = none ∧ r.seq ≠ u (tBytes 48 [(0, [8])]) 0 4 ∧ r.bootId ≠ u (tBytes 48 [(16, [8])]) 16 16) ∧
    (let m := tMsg 7 0x25 (List.replicate 1024 0)
     let s := tGot m (tRegs [(R.KPR_MREC_SLOTS, 1)] tLive)
     isManager s = true ∧ mrecFull s = false ∧ (takeCtrl 0 0x25 m s).isSome = true) ∧
    (let b := tJob 9 []
     let s := tWith (tRun 44 b) { tWorker with naust := { tick := 1 } }
     runningCmd 0 .meterCollect s = some (tRun 44 b) ∧ isManager s = false ∧ offered s = [] ∧ closedThisTick s = false ∧
       offered { s with naust := { held := [{ signed := true }] } } ≠ [] ∧ startedAt 0 s = some (tRun 44 b) ∧ s.naust.held.length < 64 ∧
       isManager tNaust = true ∧ offered (collectOwn 128 tNaust) = [] ∧ offered (collectOwn 128 { tNaust with naust := { held := [{}] } }) ≠ []) := by decide +kernel

/-! ### Witnesses: ceilings -/

/-- `s` with bytes at the front of a flash region. -/
def tFlash (r : Nat) (b : Bytes) (s : State) : State :=
  { s with mgmt := { s.mgmt with flash := [(r, (List.range b.length).zip b)] } }

theorem al_get_zip (b : Bytes) : ∀ k i : Nat, AL.get (0xFF : Byte) (k + i) ((List.range' k b.length).zip b) = b.getD i 0xFF := by
  induction b with
  | nil => intro k i; rfl
  | cons x t ih =>
    intro k i
    cases i with
    | zero => simp [List.range'_succ, AL.get]
    | succ i =>
      have := ih (k + 1) i
      simp only [List.length_cons, List.range'_succ, List.zip_cons_cons, AL.get]
      rw [if_neg (by omega), show k + (i + 1) = k + 1 + i by omega, this]
      simp

/-- A flash region reads as the bytes that were put there. -/
theorem flashBytes_tFlash (r : Nat) (b : Bytes) (s : State) : flashBytes r 0 b.length (tFlash r b s) = b := by
  apply List.ext_getElem
  · simp [flashBytes]
  · intro i h1 h2
    have h := al_get_zip b 0 i
    rw [Nat.zero_add] at h
    simp only [flashBytes, flashByte, tFlash, findKey, List.range_eq_range', List.getElem_map, List.getElem_range', List.find?_cons, beq_self_eq_true,
      Option.map_some, Option.getD_some, Nat.zero_add, Nat.one_mul]
    exact h.trans (by simp [h2])

/-- An ENROLL and ADVANCE record of ceilings of 1,000 W whose keys hash to 32 bytes of 7. -/
def tRecord : Bytes :=
  tBytes 1024 [(0, leBytes 4 0x43455146), (4, [1, 0, 3]), (16, [5]), (32, List.replicate 32 7), (64, leBytes 2 1000), (72, [80, 90, 100, 40])]

/-- A manager of a module whose bus is served and on which Naust runs. -/
def tBoot : State := { tLive with boot := { qualified := true, supplies := 5, gate := true, naust := true } }

theorem test_wit_ceilings :
    (let s : State := { tBoot with naust := { runSvn := 3, keeperCtr := 1 }, boot := { tBoot.boot with verified := true } }
     s.boot.verified = true ∧ s.naust.keeperCtr < s.naust.runSvn ∧ tBoot.boot.verified = false) ∧
    (tBoot.boot.naust = true ∧ busServed tBoot = true ∧ tBoot.mgmt.held = []) ∧
    (flashBytes 4 0 1024 tBoot).all (fun x => x == 0xFF) = true ∧
    (let s := tFlash 4 [0] tBoot
     let b := flashBytes 4 0 1024 s
     b.all (fun x => x == 0xFF) = false ∧ recordAccepted true b s = false) := by decide +kernel

/-- What a signature verifies and what a hash is are opaque; if every signature verifies and every hash is 32 bytes of 7, a first record is
accepted over the bus, and a further one by the active key. -/
theorem test_wit_record (hv : ∀ a b c, Config.verifies a b c = true) (hh : ∀ n b, Config.hash n b = List.replicate 32 7) :
    flashBytes 4 0 1024 (tFlash 4 tRecord tBoot) = tRecord ∧ recordAccepted true tRecord (tFlash 4 tRecord tBoot) = true ∧
    recordAccepted false tRecord { tFlash 4 tRecord tBoot with naust := { opKeys := [List.replicate 32 7] } } = true := by
  refine ⟨?_, ?_⟩
  · have h : tRecord.length = 1024 := by decide +kernel
    rw [← h]
    exact flashBytes_tFlash 4 tRecord tBoot
  · simp only [recordAccepted, recKeyOk, hv, hh]
    decide +kernel

/-! ### Witnesses: Keeper images and a codec whose coder is given -/

/-- The header of a Keeper image of version 1 with SVN 2 and 1 MiB of code, whose hash is 32 bytes of 7. -/
def tHeader : Bytes := tBytes 1024 [(0, leBytes 4 0x4B575146), (4, [1]), (8, [2]), (18, [16]), (20, List.replicate 32 7)]

/-- A module whose Keeper images are to be verified. -/
def tVerify (r : Nat) : State :=
  tRegs [(R.HIF_BOOT, 0), (R.NST_STAT, 0)] (tFlash r tHeader { tBoot with naust := { qorwyn := List.replicate 32 7 } })

theorem flashBytes_tVerify (r : Nat) : flashBytes r 0 1024 (tVerify r) = tHeader := by
  have h : tHeader.length = 1024 := by decide +kernel
  rw [← h]
  exact flashBytes_tFlash r tHeader { tBoot with naust := { qorwyn := List.replicate 32 7 } }

/-- An image whose hashes and signature are right is accepted from either slot; an erased slot holds none. -/
theorem test_wit_image (hv : ∀ a b c, Config.verifies a b c = true) (hh : ∀ n b, Config.hash n b = List.replicate 32 7) :
    imageAccepted 0 (tVerify 0) = true ∧ imageAccepted 1 (tVerify 1) = true := by
  simp only [imageAccepted, hv, hh, flashBytes_tVerify]
  decide +kernel

theorem test_wit_no_image : verifying (tVerify 0) = true ∧ verifying (tVerify 1) = true ∧ verifying (tRegs [(R.HIF_BOOT, 0)] tBoot) = true ∧
    imageAccepted 0 (tRegs [(R.HIF_BOOT, 0)] tBoot) = false ∧ imageAccepted 1 (tRegs [(R.HIF_BOOT, 0)] tBoot) = false ∧
    imageAccepted 0 (tVerify 1) = false ∧ flashByte 2 0 (tVerify 1) ≠ 1 := by decide +kernel

/-- Two decoders' cases that rest on the opaque decoder: a stream's first unit without a random access point, and a later one. -/
theorem test_wit_codec_decoded (h : ∀ m b i, Config.decoded m b i = 0) (m : Nat) (b : Bytes) :
    ¬ (dec m b 1 0 0 ≠ 0) ∧ dec m b 0 0 0 = 0 ∧ dec m b 3 0 0 = 0 ∧ (dec m b 2 0 0).toNat % 64 = 0 := by simp [dec, h]

/-! ### Witnesses: attestation -/

/-- A request of a code and a version. -/
def tReq (ver code : Nat) (rest : Bytes) : Bytes := [BitVec.ofNat 8 ver, BitVec.ofNat 8 code] ++ rest

/-- A module whose Keeper runs, at a stage of an SPDM connection of version 1.3. -/
def tSpdm (stage : Nat) : State :=
  { tBoot with boot := { tBoot.boot with verified := true, released := true }, naust := { spdmStage := stage, spdmVer := 0x13, idCopies := [true, true] } }

theorem test_wit_attestation :
    (tSpdm 0).boot.released = true ∧ tBoot.boot.released = false ∧
    (spdmCode (tReq 0x10 0x84 [0, 0]) = 0x84 ∧ u (tReq 0x10 0x84 [0, 0]) 0 1 = 0x10) ∧
    (spdmCode (tReq 0x12 0xE1 [0, 0]) = 0xE1 ∧ u (tReq 0x12 0xE1 [0, 0]) 0 1 = 0x12 ∧ u (tReq 0x13 0xE1 [0, 0]) 0 1 = 0x13 ∧ 1 ≤ (tSpdm 1).naust.spdmStage) ∧
    (let r := tReq 0x13 0xE3 (tBytes 30 [(6, [8]), (10, [1])])
     spdmCode r = 0xE3 ∧ 2 ≤ (tSpdm 2).naust.spdmStage ∧ u r 0 1 = (tSpdm 2).naust.spdmVer ∧ nb (bitAt (u r 8 4) 3) + nb (bitAt (u r 12 4) 0) = 2 ∧
       nb (bitAt (u (tReq 0x13 0xE3 (zeros 30)) 8 4) 3) + nb (bitAt (u (tReq 0x13 0xE3 (zeros 30)) 12 4) 0) = 0) ∧
    ((tSpdm 0).naust.spdmStage < 1 ∧ u (tReq 0x11 0xE1 []) 0 1 ≠ 0x12 ∧ u (tReq 0x11 0xE1 []) 0 1 ≠ 0x13 ∧ u (tReq 0x11 0x84 []) 0 1 ≠ 0x10) ∧
    (3 ≤ (tSpdm 3).naust.spdmStage ∧ spdmCode (tReq 0x13 0x81 [0, 0]) = 0x81 ∧
      (let r := tReq 0x13 0x82 [0, 0, 0, 0, 0, 4]
       spdmCode r = 0x82 ∧ u r 2 1 % 16 = 0 ∧ u r 4 2 = 0 ∧ u (tReq 0x13 0x82 [1]) 2 1 % 16 ≠ 0)) ∧
    (let r := tReq 0x13 0x83 [0, 0xFF]
     spdmCode r = 0x83 ∧ u r 2 1 % 16 = 0 ∧ u r 3 1 = 0xFF ∧ u (tReq 0x13 0x83 [0, 0]) 3 1 = 0 ∧ u (tReq 0x13 0x83 [0, 1]) 3 1 ≠ 0 ∧ u (tReq 0x13 0x83 [0, 1]) 3 1 ≠ 0xFF ∧ u (tReq 0x13 0x83 [1, 0]) 2 1 % 16 ≠ 0 ∧ idLost (tSpdm 3) = false ∧
       idLost (tRegs [(R.NST_STAT, 0x10)] (tSpdm 3)) = true) ∧
    (let r := tReq 0x13 0xE0 [1, 0xFF]
     spdmCode r = 0xE0 ∧ bitAt (u r 2 1) 0 = true ∧ u r 3 1 = 0xFF ∧ bitAt (u (tReq 0x13 0xE0 [0, 6]) 2 1) 0 = false ∧ u (tReq 0x13 0xE0 [0, 6]) 3 1 = 6 ∧
       (measurement 6 (tSpdm 3)).isSome = true ∧ 6 < u (tReq 0x13 0xE0 [0, 7]) 3 1 ∧ u (tReq 0x13 0xE0 [0, 7]) 3 1 ≠ 0xFF ∧
       u r 36 1 % 16 = 0 ∧ u (tReq 0x13 0xE0 ([1, 1] ++ List.replicate 33 1)) 36 1 % 16 ≠ 0 ∧ u (tReq 0x13 0xE0 [0, 0]) 3 1 = 0 ∧
       1 ≤ u (tReq 0x13 0xE0 [0, 1]) 3 1) ∧
    ((tSpdm 1).naust.spdmStage < 2 ∧ u (tReq 0x12 0x81 [0, 0]) 0 1 ≠ (tSpdm 3).naust.spdmVer ∧ spdmCode (tReq 0x13 0x81 []) ≠ 0x82) ∧
    (spdmCode (tReq 0x13 0xFF [0, 0]) ∉ spdmKnown) := by decide +kernel

/-- A certificate request within the chain; the chain's length is opaque. -/
theorem test_wit_certificate (h : Config.certificate 0 = [0]) : u (tReq 0x13 0x82 [0, 0, 0, 0, 0, 4]) 4 2 < certChain.length := by
  have : certChain = [0] := by simp [certChain, h]
  rw [this]; decide

/-! ### Witnesses: bring-up, the bus, registers -/

/-- A module in bring-up with k supplies good. -/
def tUp (k : Nat) (gate : Bool) : State := { State.reset with boot := { qualified := true, supplies := k, gate := gate } }

theorem test_wit_bring_up :
    (State.reset.boot.qualified = false ∧ (tUp 0 false).boot.qualified = true ∧ bootEnded (tUp 2 false) = false ∧ bootEnded tLive = true) ∧
    ((tUp 3 false).boot.supplies + 1 = 4 ∧ (tUp 3 false).boot.gate = false ∧ (tUp 3 true).boot.gate = true ∧ (tUp 2 false).boot.supplies + 1 ≠ 4 ∧
      (tUp 2 false).boot.supplies < 5) ∧
    (let s := tRegs [(R.PWR_TEMP, 0x14140000)] (tUp 3 false)
     rbits R.PWR_TEMP 31 24 s < tInMax s ∧ rbits R.PWR_TEMP 23 16 s < tThr s ∧
       tThr (tRegs [(R.PWR_TEMP, 0x14FF0000)] (tUp 3 false)) ≤ rbits R.PWR_TEMP 23 16 (tRegs [(R.PWR_TEMP, 0x14FF0000)] (tUp 3 false))) ∧
    (1 ≤ (tUp 1 false).boot.supplies ∧ (tUp 1 false).boot.naust = false ∧ configOk (flashBytes 3 0 64 (tUp 1 false)) = false ∧
      configOk (flashBytes 3 0 64 (tFlash 3 aloneRecord (tUp 1 false))) = true) ∧
    (let s : State := { tUp 5 true with power := { vert := [7] } }
     bootEnded s = false ∧ s.boot.supplies = 5 ∧ s.boot.trained.testBit 7 = false ∧ (7 : StackN).val ∈ s.power.vert ∧ allEight (0x7F ||| 2 ^ 7) = true ∧
       3 ≤ s.boot.supplies ∧ s.boot.groups.testBit 0 = false ∧ allEight (0 ||| 2 ^ 7) = false) ∧
    (let s : State := { tUp 5 true with boot := { (tUp 5 true).boot with verified := true } }
     s.boot.verified = true ∧ s.boot.released = false ∧ bootEnded s = false) ∧
    (let s := tRegs [(R.HIF_BOOT, 0x704), (R.KPR_STAT, 0x10)] { tUp 5 true with boot := { (tUp 5 true).boot with verified := true, released := true } }
     isManager s = true ∧ s.boot.released = true ∧ memoriesReady s = true ∧ rbit R.KPR_STAT 4 s = true ∧ bootEnded s = false ∧
       memoriesReady tLive = false) := by decide +kernel

theorem test_wit_bus :
    (busServed tBoot = true ∧ tBoot.mgmt.held = [] ∧ ({ tBoot with mgmt := { held := [(2, 0, [0])] } } : State).mgmt.held ≠ []) ∧
    (let a : BitVec 48 := 0xF00003FFFFFC
     a.toNat % 4 = 0 ∧ regBase ≤ a.toNat ∧ a.toNat + 4 * 1 ≤ regEnd ∧ regEnd < a.toNat + 4 * 2 ∧ (0xF00003FFFFFE : BitVec 48).toNat % 4 ≠ 0) ∧
    (flashSize 2 = 1 ∧ flashSize 2 < 1 + ([0] : Bytes).length ∧ 0 + ([0] : Bytes).length ≤ flashSize 2 ∧ verifying tBoot = false ∧
      verifying (tRegs [(R.HIF_BOOT, 0)] tBoot) = true ∧ 0 + 256 ≤ flashSize 4 ∧ flashSize 4 < 1024 + 1) := by decide +kernel

/-- Is `off` the place of a register for which `p` holds? -/
def tAt (off : Nat) (p : RegDef → Bool) : Bool := match regAt off with | some d => p d | none => false

theorem test_wit_registers :
    (reaches .host tLive = true ∧ pwrState tLive < 2 ∧ tAt R.SPL_SCRUB (fun _ => true) = true ∧ R.SPL_SCRUB % 4 = 0 ∧ isWide (R.SPL_SCRUB - 4) = false ∧
      blockOf R.SPL_SCRUB = bSPL ∧ bSPL ∈ [bHIF, bVCH, bATT, bSPL, bCDC, bERR] ∧ R.SPL_SCRUB ≠ R.HIF_WIN_BASE ∧
      touchesLocked R.SPL_SCRUB (2 ^ 32 - 1) tLive = false) ∧
    (tAt R.CORE_ARB (fun d => d.rw == 0) = true ∧ R.CORE_ARB % 8 = 0 ∧ touchesLocked R.CORE_ARB 0xFFFFFFFF (tRegs [(R.CORE_LOCK, 1)] tLive) = true) ∧
    (regAt 0x3FFF000 = none ∧ regAt (0x3FFF000 / 8 * 8) = none ∧ regAt (0x3FFF000 + 4) = none ∧ imagesBase + 0x200000 ≤ 0x3FFF000 ∧
      mrecBase + 1024 ≤ 0x3FFF000 ∧ tLive.latches = []) ∧
    (lockOf 0 = none ∧ lockOf 2 = some R.CORE_LOCK) ∧
    (isWide R.KVP_SPOOL_BASE = true ∧ R.KVP_SPOOL_BASE % 8 = 0 ∧ isWide (R.KVP_SPOOL_BASE + 4) = false ∧ isWide R.CORE_ARB = false ∧ inHoldfast tLive = false ∧
      reaches .host tWorker = false ∧ inHoldfast (tRegs [(R.PWR_STAT, 3)] tLive) = true ∧ liveBlock bCORE = false) ∧
    (setwinOf (blockOf R.SPL_SCRUB) ≠ some R.SPL_SCRUB ∧ (setwinOf (blockOf R.SPL_SCRUB)).isSome = true ∧ setwinOf 22 = none) := by decide +kernel

/-! ### Commands that cannot arrive -/

/-- A message with data of n bytes. -/
def tLong (kind n : Nat) : Msg := tMsg kind 0 (List.replicate n 0)

/-- A transfer that went well. -/
def tClean : Landing := { sev := .clean, line := 0, readRepeats := 0, writeRepeats := 0, error := false }

theorem test_wf_window : (Instr.windowAccess { offset := 0, len := 0, data := none }).wf = false ∧
    (Instr.windowAccess { offset := 0, len := 4097, data := none }).wf = false ∧
    (Instr.windowAccess { offset := 0, len := 2, data := some [0] }).wf = false ∧
    (Instr.windowAccess { offset := 0, len := 3, data := none, space := .config }).wf = false ∧
    (Instr.windowAccess { offset := 0, len := 1, data := some [0] }).wf = true := by decide

theorem test_wf_pcie : (Instr.pcieLinkChange { speed := 0, width := 16, flit := false, up := true }).wf = false ∧
    (Instr.pcieLinkChange { speed := 6, width := 2, flit := true, up := true }).wf = false ∧
    (Instr.pcieLinkChange { speed := 6, width := 16, flit := false, up := true }).wf = false ∧
    (Instr.pcieLinkChange { speed := 6, width := 16, flit := true, up := true }).wf = true := by decide

theorem test_wf_message : (Instr.write 0 (tLong 0 4)).wf = false ∧ (Instr.ping 0 (tLong 9 4)).wf = false ∧ (Instr.ping 0 (tLong 7 4)).wf = true := by decide

theorem test_wf_sensors : (Instr.sensorRead (tReading 256 20)).wf = false ∧
    (Instr.sensorRead { tReading 20 20 with hd := [20] }).wf = false ∧ (Instr.sensorRead { tReading 20 20 with nearest := [] }).wf = false ∧
    (Instr.sensorRead { tReading 20 20 with cd0 := [] }).wf = false ∧ (Instr.sensorRead { tReading 20 20 with cd1 := [] }).wf = false ∧
    (Instr.sensorRead (tReading 20 20)).wf = true := by decide

theorem test_wf_register : (Instr.registerWrite { who := .host, offset := 0, width := 24, value := 0 }).wf = false ∧
    (Instr.registerWrite { who := .host, offset := 2 ^ 26, width := 32, value := 0 }).wf = false ∧
    (Instr.registerWrite { who := .host, offset := 0, width := 32, value := 2 ^ 32 }).wf = false ∧
    (Instr.registerWrite { who := .host, offset := 0, width := 64, value := 2 ^ 32 }).wf = true ∧
    (Instr.registerWrite { who := .host, offset := 1, width := 8, value := 255 }).wf = true ∧
    (Instr.lowHalfRead { who := .host, offset := 0, width := 0 }).wf = false ∧
    (Instr.lowHalfRead { who := .host, offset := 2 ^ 26, width := 32 }).wf = false ∧
    (Instr.lowHalfRead { who := .host, offset := 2, width := 16 }).wf = true := by decide

theorem test_wf_memory : (Instr.patrolScrub (2 ^ 34) tClean).wf = false ∧ (Instr.patrolScrub 0 tClean).wf = true ∧
    (Instr.stackTempReport 0 256).wf = false ∧
    (Instr.transferLanded 0 0 { sev := .clean, line := 32, readRepeats := 0, writeRepeats := 0, error := false }).wf = false := by decide

theorem test_wf_flit : (Instr.identFlit 0 { bytes := [0] }).wf = false ∧ (Instr.dataFlit 0 { bytes := [0] }).wf = false ∧
    (Instr.idleFlit 0 { bytes := List.replicate 257 0 }).wf = false ∧ (Instr.idleFlit 0 { bytes := List.replicate 256 0 }).wf = true := by decide +kernel

theorem test_wf_others : (Instr.meterTick []).wf = false ∧ (Instr.challenge [0]).wf = false ∧ (Instr.getVersion [0, 0, 0, 0]).wf = true ∧
    (Instr.resizableBarWrite 29).wf = false ∧ (Instr.resizableBarWrite 39).wf = true ∧ (Instr.jobStart (.handed [0])).wf = false ∧
    (Instr.supplyGood 0).wf = false ∧ (Instr.supplyGood 6).wf = false ∧ (Instr.supplyGood 5).wf = true := by decide

/-! ### Figures of the spec -/

/-- Table 3.2: the largest finite code of each format and the smallest subnormal of four. -/
theorem test_number_formats :
    decodeLin fmtFP16 0x7BFF = .fin false 2047 5 ∧ decodeLin fmtE5M2 0x7B = .fin false 7 13 ∧ decodeLin fmtE4M3 0x7E = .fin false 14 5 ∧
    decodeLin fmtE3M2 0x1F = .fin false 7 2 ∧ decodeLin fmtE2M3 0x1F = .fin false 15 (-1) ∧ decodeLin fmtE2M1 0x7 = .fin false 3 1 ∧
    decodeLin fmtE5M2 1 = .fin false 1 (-16) ∧ decodeLin fmtE4M3 1 = .fin false 1 (-9) ∧ decodeLin fmtE3M2 1 = .fin false 1 (-4) ∧
    decodeLin fmtE4M3 0x7F = .nan ∧ decodeLin fmtFP16 0xFC00 = .inf true := by decide +kernel

/-- 1 + 1 = 2, 1.5 × 1.5 = 2.25 and 1 / 3 rounded to nearest even, in FP32. -/
theorem test_fp32 : (f32Add 0x3F800000 0x3F800000).1 = 0x40000000 ∧ (f32Mul 0x3FC00000 0x3FC00000).1 = 0x40100000 ∧
    (f32Div 0x3F800000 0x40400000).1 = 0x3EAAAAAB ∧ (f32Add 0x7F7FFFFF 0x7F7FFFFF).1 = 0x7F800000 := by decide +kernel

/-- Table 3.3, R50: MXINT8 0x80 is -2.0; L8 code 0x40 is zero and 0xC0 is NaN. -/
theorem test_log_and_integer : decodeElem 8 false 127 0x80 = .fin true 128 (-6) ∧ (decodeElem 11 false 127 0x40).isZero = true ∧
    decodeElem 11 false 127 0xC0 = .nan ∧ decodeElem 9 false 127 0xFF = .fin true 1 0 ∧ decodeElem 9 true 127 0xFF = .fin false 255 0 := by decide +kernel

/-- A marker's value wraps at 2^32 (R38). -/
theorem test_marker_wraps : tAfter (.markerWindowWrite ⟨.host, 7⟩ 5) tLive (fun t => markerCount 7 t == 5) = true ∧
    tAfter (.doorbellWrite 0 3) (tQueue 1 {} tLive) (fun t => rget (R.QFE_Qn_TAIL 0) t == 3) = true := by decide +kernel

/-- R380: the identification code, first byte first. -/
theorem test_idcode : tAfter .idcode tBoot (fun t => t.out.rdata == [0x47, 0x19, 0xF5, 0x20]) = true ∧ busServed tBoot = true := by decide +kernel

/-- Table 17.5: the ceilings after reset. -/
theorem test_ceilings : rget R.PWR_CEIL_W State.reset = 2800 ∧ rbits R.PWR_CEIL_THERM 7 0 State.reset = 95 ∧
    rbits R.PWR_CEIL_THERM 15 8 State.reset = 105 ∧ rbits R.PWR_CEIL_THERM 23 16 State.reset = 115 ∧
    rbits R.PWR_CEIL_THERM 31 24 State.reset = 45 ∧ rget R.PWR_CEIL_DL State.reset = 40000000 := by decide +kernel

/-- R357: a late first supply halts bring-up with code 1 and item 1. -/
theorem test_supply_timeout : tAfter .supplyTimeout (tUp 0 false)
    (fun t => bootStage t == 6 && rbits R.HIF_BOOT 23 16 t == 1 && rbits R.HIF_BOOT 31 24 t == 1) = true := by decide +kernel

/-- A step takes the front command off the queue; with none waiting the block idles (log 1). -/
theorem test_step :
    (match step { tLive with pending := [.lockSet 2, .ready] } with | .next t => t.pending == [.ready] && isLocked 2 t | _ => false) = true := by decide +kernel

/-- Memory and registers of the state after reset are canonical and its queue is empty; the statements over every step are met by it. -/
theorem test_wit_canonical : Canonical State.reset ∧ step State.reset = .next State.reset ∧ State.reset.pending = [] :=
  ⟨by unfold Canonical; decide +kernel, rfl, rfl⟩

end Sys2Proof.Tests
end

section
/-! Direct starts of the DMA channels report their end (R203, R204, R205). A channel comes to rest in two steps: its own registers are
written (`chanRest`), then the end is reported in DMA_EVT and by vector 136. The lemmas say what each step leaves in STAT and DMA_EVT. -/

namespace Sys2Proof.Machine

open Sys2Proof

/-! ### A channel's registers at rest -/

/-- The first step of `chanEnd`: RESIDUE, STATE, ERR and CTL of a channel that comes to rest, before anything is reported. -/
def chanRest (n st err : Nat) (s : State) : State :=
  rclrBit (R.DMA_Dnn_CTL n) 0 (rsetBits (R.DMA_Dnn_STAT n) 7 4 err (rsetBits (R.DMA_Dnn_STAT n) 2 0 st
    (if st = 2 then setChanx n {} s
     else rset (R.DMA_Dnn_RESIDUE n) ((chanx n s).count - (chanx n s).issued) (setChanx n {} s))))

/-- The second step of `chanEnd`: what a channel at rest reports. -/
theorem chanEnd_eq_report (n st err : Nat) (s : State) : chanEnd n st err s =
    let t := chanRest n st err s
    let direct := !rbit (R.DMA_Dnn_STAT n) 8 t
    let u := if direct then rsetBit R.DMA_EVT n t else t
    if st != 2 || (direct && (chanx n s).irq) then raiseVector 136 u else u := rfl

theorem stat_ne_ctl (n : Nat) : R.DMA_Dnn_STAT n ≠ R.DMA_Dnn_CTL n := by simp only [R.DMA_Dnn_STAT, R.DMA_Dnn_CTL]; omega
theorem stat_ne_residue (n : Nat) : R.DMA_Dnn_STAT n ≠ R.DMA_Dnn_RESIDUE n := by
  simp only [R.DMA_Dnn_STAT, R.DMA_Dnn_RESIDUE]; omega
theorem stat_ne_failaddr (n : Nat) : R.DMA_Dnn_STAT n ≠ R.DMA_Dnn_FAILADDR n := by
  simp only [R.DMA_Dnn_STAT, R.DMA_Dnn_FAILADDR]; omega
theorem stat_ne_evt (n : Nat) : R.DMA_Dnn_STAT n ≠ R.DMA_EVT := by simp only [R.DMA_Dnn_STAT, R.DMA_EVT]; omega
theorem ctl_ne_evt (n : Nat) : R.DMA_Dnn_CTL n ≠ R.DMA_EVT := by simp only [R.DMA_Dnn_CTL, R.DMA_EVT]; omega
theorem residue_ne_evt (n : Nat) : R.DMA_Dnn_RESIDUE n ≠ R.DMA_EVT := by simp only [R.DMA_Dnn_RESIDUE, R.DMA_EVT]; omega

/-- A register other than RESIDUE is as it was before a channel's STATE, ERR and CTL are written. -/
theorem rget_residueWritten {o n : Nat} (h : o ≠ R.DMA_Dnn_RESIDUE n) (st v : Nat) (s : State) :
    rget o (if st = 2 then setChanx n {} s else rset (R.DMA_Dnn_RESIDUE n) v (setChanx n {} s)) = rget o s := by
  split
  · rfl
  · exact rget_rset_ne _ h v

/-- Of STAT a channel that comes to rest writes STATE and ERR. -/
theorem rget_stat_chanRest (n st err : Nat) (s : State) :
    rget (R.DMA_Dnn_STAT n) (chanRest n st err s) = setBits (setBits (rget (R.DMA_Dnn_STAT n) s) 2 0 st) 7 4 err := by
  unfold chanRest
  rw [rget_rclrBit_ne _ (stat_ne_ctl n), rget_rsetBits_self, rget_rsetBits_self, rget_residueWritten (stat_ne_residue n)]

theorem rget_evt_chanRest (n st err : Nat) (s : State) : rget R.DMA_EVT (chanRest n st err s) = rget R.DMA_EVT s := by
  unfold chanRest
  rw [rget_rclrBit_ne _ (ctl_ne_evt n).symm, rget_rsetBits_ne _ (stat_ne_evt n).symm, rget_rsetBits_ne _ (stat_ne_evt n).symm,
    rget_residueWritten (residue_ne_evt n).symm]

theorem rbits_stat_chanRest (n st err : Nat) (s : State) : rbits (R.DMA_Dnn_STAT n) 2 0 (chanRest n st err s) = st % 8 := by
  unfold rbits
  rw [rget_stat_chanRest, bits_setBits_disjoint _ _ _ _ _ _ (by decide) (by decide), bits_setBits_self _ _ _ _ (by decide)]
  rfl

/-- Whether a channel serves a command or a direct start does not change as it comes to rest. -/
theorem rbit_statCommand_chanRest (n st err : Nat) (s : State) :
    rbit (R.DMA_Dnn_STAT n) 8 (chanRest n st err s) = rbit (R.DMA_Dnn_STAT n) 8 s := by
  unfold rbit
  rw [rget_stat_chanRest, testBit_setBits _ _ _ _ _ (by decide), testBit_setBits _ _ _ _ _ (by decide)]
  rfl

/-! ### What the end of a channel reports -/

theorem rbit_rsetBit_self (o i : Nat) (s : State) : rbit o i (rsetBit o i s) = true := by
  rw [rbit_rsetBit, decide_eq_true rfl, Bool.true_or]

theorem rbits_raiseVector (o hi lo v : Nat) (s : State) : rbits o hi lo (raiseVector v s) = rbits o hi lo s := by
  unfold rbits; rw [rget_raiseVector]

theorem rbit_raiseVector (o i v : Nat) (s : State) : rbit o i (raiseVector v s) = rbit o i s := by
  unfold rbit; rw [rget_raiseVector]

theorem rbits_stat_rsetBit_evt (n i : Nat) (s : State) :
    rbits (R.DMA_Dnn_STAT n) 2 0 (rsetBit R.DMA_EVT i s) = rbits (R.DMA_Dnn_STAT n) 2 0 s := by
  unfold rbits; rw [rget_rsetBit_ne _ (stat_ne_evt n)]

section
variable {n : Nat} {s : State}

/-- The end of a direct start sets its bit of DMA_EVT; vector 136 comes with every end but DONE, and with DONE where IRQ asks (R205). -/
theorem chanEnd_of_direct (hd : rbit (R.DMA_Dnn_STAT n) 8 s = false) (st err : Nat) : chanEnd n st err s =
    let u := rsetBit R.DMA_EVT n (chanRest n st err s)
    if st != 2 || (chanx n s).irq then raiseVector 136 u else u := by
  rw [chanEnd_eq_report]
  dsimp only
  rw [rbit_statCommand_chanRest, hd]
  rfl

/-- The end of a command's channel is not reported in DMA_EVT. -/
theorem chanEnd_of_command (hc : rbit (R.DMA_Dnn_STAT n) 8 s = true) (st err : Nat) : chanEnd n st err s =
    if st != 2 then raiseVector 136 (chanRest n st err s) else chanRest n st err s := by
  rw [chanEnd_eq_report]
  dsimp only
  rw [rbit_statCommand_chanRest, hc]
  simp

theorem rbit_evt_chanEnd (hd : rbit (R.DMA_Dnn_STAT n) 8 s = false) (st err : Nat) :
    rbit R.DMA_EVT n (chanEnd n st err s) = true := by
  rw [chanEnd_of_direct hd]
  dsimp only
  split
  · rw [rbit_raiseVector, rbit_rsetBit_self]
  · exact rbit_rsetBit_self ..

theorem rget_evt_chanEnd (hc : rbit (R.DMA_Dnn_STAT n) 8 s = true) (st err : Nat) :
    rget R.DMA_EVT (chanEnd n st err s) = rget R.DMA_EVT s := by
  rw [chanEnd_of_command hc]
  split
  · rw [rget_raiseVector, rget_evt_chanRest]
  · exact rget_evt_chanRest ..

theorem rbits_stat_chanEnd (hd : rbit (R.DMA_Dnn_STAT n) 8 s = false) (st err : Nat) :
    rbits (R.DMA_Dnn_STAT n) 2 0 (chanEnd n st err s) = st % 8 := by
  have hrest := (rbits_stat_rsetBit_evt n n (chanRest n st err s)).trans (rbits_stat_chanRest n st err s)
  rw [chanEnd_of_direct hd]
  dsimp only
  split
  · rw [rbits_raiseVector, hrest]
  · exact hrest

/-- A direct start that ends in HALTED or ABORTED, or whose CTL holds IRQ, raises vector 136 as its last act: STATE stands by then. -/
theorem chanEnd_raises (hd : rbit (R.DMA_Dnn_STAT n) 8 s = false) {st : Nat} (err : Nat) (h : st ≠ 2 ∨ (chanx n s).irq = true) :
    ∃ r, chanEnd n st err s = raiseVector 136 r ∧ rbits (R.DMA_Dnn_STAT n) 2 0 r = st % 8 := by
  refine ⟨rsetBit R.DMA_EVT n (chanRest n st err s), ?_, (rbits_stat_rsetBit_evt ..).trans (rbits_stat_chanRest ..)⟩
  rw [chanEnd_of_direct hd]
  exact if_pos (by simpa using h)

/-! ### The commands that end a channel -/

theorem chanSettle_of_aborting (hbusy : chanBusy n s = false) (hhalt : (chanx n s).halting = none)
    (hstat : rbits (R.DMA_Dnn_STAT n) 2 0 s = 5) (hcmd : (chanx n s).cmd = none) :
    chanSettle n s = chanEnd n 4 0 (emptyFunnel n s) := by
  simp [chanSettle, hbusy, hhalt, hstat, hcmd]

theorem chanSettle_of_halting {err cause addr : Nat} (hbusy : chanBusy n s = false)
    (hhalt : (chanx n s).halting = some (err, cause, addr)) (hcmd : (chanx n s).cmd = none) :
    chanSettle n s = chanEnd n 3 err (rset (R.DMA_Dnn_FAILADDR n) addr (emptyFunnel n s)) := by
  simp [chanSettle, hbusy, hhalt, hcmd]

/-- An abort of a running direct start with nothing in flight ends it at once (R203). -/
theorem dmaAbort_of_idle (hrun : rbits (R.DMA_Dnn_STAT n) 2 0 s = 1) (hbusy : chanBusy n s = false)
    (hhalt : (chanx n s).halting = none) (hcmd : (chanx n s).cmd = none) :
    dmaAbort n s = chanEnd n 4 0 (emptyFunnel n (rsetBits (R.DMA_Dnn_STAT n) 2 0 5 s)) := by
  unfold dmaAbort
  rw [if_pos hrun]
  exact chanSettle_of_aborting hbusy hhalt (rbits_rsetBits_self _ _ _ _ _ (by decide)) hcmd

/-- A halt of a direct start with nothing in flight ends it at once (R204). -/
theorem chanHalt_of_idle (err cause addr : Nat) (hbusy : chanBusy n s = false) (hcmd : (chanx n s).cmd = none) :
    chanHalt n err cause addr s = chanEnd n 3 err (rset (R.DMA_Dnn_FAILADDR n) addr
      (emptyFunnel n (setChanx n { chanx n s with halting := some (err, cause, addr) } s))) := by
  unfold chanHalt
  exact chanSettle_of_halting (cause := cause) hbusy (by rw [chanx_setChanx_self]) (by rw [chanx_setChanx_self]; exact hcmd)

/-- STAT and DMA_EVT after a direct start with COUNT 0, which `dmaStart` ends HALTED with ERR 5 without `chanEnd` (R200, R205). -/
def haltEmptyStart (n : Nat) (s : State) : State :=
  rsetBit R.DMA_EVT n (rsetBits (R.DMA_Dnn_STAT n) 8 0 (3 + (5 <<< 4)) s)

theorem rget_ctl_haltEmptyStart (n : Nat) (s : State) :
    rget (R.DMA_Dnn_CTL n) (haltEmptyStart n s) = rget (R.DMA_Dnn_CTL n) s := by
  unfold haltEmptyStart
  rw [rget_rsetBit_ne _ (ctl_ne_evt n), rget_rsetBits_ne _ (stat_ne_ctl n).symm]

theorem rbits_stat_haltEmptyStart (n : Nat) (s : State) : rbits (R.DMA_Dnn_STAT n) 2 0 (haltEmptyStart n s) = 3 := by
  have hlow (v : Nat) : bits v 2 0 = bits v 8 0 % 8 := by simp only [bits]; omega
  unfold haltEmptyStart
  rw [rbits_stat_rsetBit_evt]
  unfold rbits
  rw [hlow, rget_rsetBits_self, bits_setBits_self _ _ _ _ (by decide)]
  rfl

theorem rbit_evt_haltEmptyStart (n : Nat) (s : State) : rbit R.DMA_EVT n (haltEmptyStart n s) = true := rbit_rsetBit_self ..

theorem dmaStart_of_emptyCount (hq : qState (16 + n / 2) s = 0) (hidle : chanWorks n s = false)
    (hcount : rget (R.DMA_Dnn_COUNT n) s = 0) : dmaStart n s =
    if rbit (R.DMA_Dnn_CTL n) 3 s then raiseVector 136 (haltEmptyStart n s) else haltEmptyStart n s := by
  have hctl : rbit (R.DMA_Dnn_CTL n) 3 (haltEmptyStart n s) = rbit (R.DMA_Dnn_CTL n) 3 s := by
    unfold rbit; rw [rget_ctl_haltEmptyStart]
  unfold dmaStart
  rw [if_neg (by simp [hq, hidle]), if_pos hcount, ← hctl]
  rfl

/-! ### The ends of a direct start -/

/-- A direct start that ends in ABORTED or HALTED shows it, sets its bit of DMA_EVT, and raises vector 136. -/
theorem chanEnd_reports_stopped (hd : rbit (R.DMA_Dnn_STAT n) 8 s = false) {st : Nat} (hst : st ≠ 2) (hst8 : st < 8) (err : Nat) :
    rbits (R.DMA_Dnn_STAT n) 2 0 (chanEnd n st err s) = st ∧ rbit R.DMA_EVT n (chanEnd n st err s) = true ∧
    ∃ r, chanEnd n st err s = raiseVector 136 r := by
  obtain ⟨r, hr, -⟩ := chanEnd_raises hd err (.inl hst)
  exact ⟨(rbits_stat_chanEnd hd st err).trans (Nat.mod_eq_of_lt hst8), rbit_evt_chanEnd hd st err, r, hr⟩

/-- A halt keeps the direct start's mark through the write of FAILADDR. -/
theorem rbit_stat_rset_failaddr (i a : Nat) :
    rbit (R.DMA_Dnn_STAT n) i (rset (R.DMA_Dnn_FAILADDR n) a s) = rbit (R.DMA_Dnn_STAT n) i s := by
  unfold rbit; rw [rget_rset_ne _ (stat_ne_failaddr n)]

/-- DMA_START with COUNT 0 ends HALTED and reports it; IRQ is read from CTL, as no channel's image has been taken. -/
theorem dmaStart_reports_emptyCount (hq : qState (16 + n / 2) s = 0) (hidle : chanWorks n s = false)
    (hcount : rget (R.DMA_Dnn_COUNT n) s = 0) :
    rbits (R.DMA_Dnn_STAT n) 2 0 (dmaStart n s) = 3 ∧ rbit R.DMA_EVT n (dmaStart n s) = true ∧
    (rbit (R.DMA_Dnn_CTL n) 3 s = true → ∃ r, dmaStart n s = raiseVector 136 r) := by
  rw [dmaStart_of_emptyCount hq hidle hcount]
  split
  · exact ⟨by rw [rbits_raiseVector, rbits_stat_haltEmptyStart], by rw [rbit_raiseVector, rbit_evt_haltEmptyStart], fun _ => ⟨_, rfl⟩⟩
  · exact ⟨rbits_stat_haltEmptyStart n s, rbit_evt_haltEmptyStart n s, fun h => absurd h ‹_›⟩

end

/-! ### A channel whose every byte has moved -/

section
variable {n : Nat} {s : State} (hrun : rbits (R.DMA_Dnn_STAT n) 2 0 s = 1) (hhalt : (chanx n s).halting = none)
  (hmoved : (chanx n s).moved = (chanx n s).count) (hcount : (chanx n s).count ≠ 0) (harr : writesArrived (chanx n s) s = true)
include hrun hhalt hmoved hcount harr

theorem dmaComplete_of_direct (hcmd : (chanx n s).cmd = none) : dmaComplete n s = chanEnd n 2 0 s := by
  simp [dmaComplete, hrun, hhalt, hmoved, hcount, harr, hcmd]

theorem dmaComplete_of_command {c : Nat} (hcmd : (chanx n s).cmd = some c) : dmaComplete n s = markDone c (chanEnd n 2 0 s) := by
  simp [dmaComplete, hrun, hhalt, hmoved, hcount, harr, hcmd]

/-- DMA_COMPLETE of a direct start ends it DONE and reports it (R202, R205). -/
theorem dmaComplete_reports_direct (hd : rbit (R.DMA_Dnn_STAT n) 8 s = false) (hcmd : (chanx n s).cmd = none) :
    rbits (R.DMA_Dnn_STAT n) 2 0 (dmaComplete n s) = 2 ∧ rbit R.DMA_EVT n (dmaComplete n s) = true ∧
    ((chanx n s).irq = true → ∃ r, dmaComplete n s = raiseVector 136 r ∧ rbits (R.DMA_Dnn_STAT n) 2 0 r = 2) := by
  rw [dmaComplete_of_direct hrun hhalt hmoved hcount harr hcmd]
  exact ⟨rbits_stat_chanEnd hd 2 0, rbit_evt_chanEnd hd 2 0, fun hirq => chanEnd_raises hd 0 (.inr hirq)⟩

theorem rget_evt_dmaComplete_command {c : Nat} (hc : rbit (R.DMA_Dnn_STAT n) 8 s = true) (hcmd : (chanx n s).cmd = some c) :
    rget R.DMA_EVT (dmaComplete n s) = rget R.DMA_EVT s := by
  rw [dmaComplete_of_command hrun hhalt hmoved hcount harr hcmd]
  exact rget_evt_chanEnd hc 2 0

end

/-- Settles O40: every end but that of an empty COUNT is a `chanEnd`, which reports by bit 8 of STAT (direct or command), the STATE
reached and IRQ; the empty COUNT is reported by DMA_START itself. -/
theorem directStartsReportTheirEnd : Obligations.DirectStartsReportTheirEnd := by
  unfold Obligations.DirectStartsReportTheirEnd
  refine ⟨fun n s hrun hhalt hmoved hcount harr => ⟨fun hd hcmd => ?done, fun c hc hcmd => ?doneCommand⟩,
    fun n s hrun hbusy hhalt hcmd hd => ?aborted, fun n st err s _ hd => ?direct, fun n st err s _ hc => ?command,
    fun n err cause addr s _ hbusy hcmd hd => ?halted, fun n s hq hidle hcount => ?emptyCount⟩
  case done => exact ⟨_, rfl, dmaComplete_reports_direct hrun hhalt hmoved hcount harr hd hcmd⟩
  case doneCommand => exact ⟨_, rfl, rget_evt_dmaComplete_command hrun hhalt hmoved hcount harr hc hcmd⟩
  case aborted =>
    exact ⟨_, congrArg Host.Outcome.next (dmaAbort_of_idle hrun hbusy hhalt hcmd),
      chanEnd_reports_stopped hd (by decide) (by decide) 0⟩
  case direct =>
    refine ⟨rbit_evt_chanEnd hd st err, fun hirq => ?_⟩
    obtain ⟨r, hr, -⟩ := chanEnd_raises hd err (.inr hirq)
    exact ⟨r, hr⟩
  case command => exact rget_evt_chanEnd hc st err
  case halted =>
    rw [chanHalt_of_idle err cause addr hbusy hcmd]
    exact chanEnd_reports_stopped ((rbit_stat_rset_failaddr 8 addr).trans hd) (by decide) (by decide) err
  case emptyCount => exact ⟨_, rfl, dmaStart_reports_emptyCount hq hidle hcount⟩

end Sys2Proof.Machine
end

section
/-! Blocks go coded or STORED and expand to their own bytes (R227, R229, R230, R235). The canonical codes of a table are intervals of
15-bit words laid end to end, so no code begins with another (`PrefixFree`); the decoder therefore reads each element back. -/

namespace Sys2Proof.Machine

open Sys2Proof

/-! ### Bytes and bits -/

theorem leBytes_ofLe (b : Bytes) : leBytes b.length (ofLe b) = b := by
  induction b with
  | nil => rfl
  | cons x t ih =>
    have hmod : (x.toNat + 256 * ofLe t) % 2 ^ 8 = x.toNat := by have := x.isLt; omega
    have hdiv : (x.toNat + 256 * ofLe t) / 256 = ofLe t := by have := x.isLt; omega
    have hx : BitVec.ofNat 8 (x.toNat + 256 * ofLe t) = x := BitVec.eq_of_toNat_eq (by rw [BitVec.toNat_ofNat, hmod])
    simp only [List.length_cons, ofLe, leBytes, hx, hdiv, ih]

theorem ofLe_lt (b : Bytes) : ofLe b < 256 ^ b.length := by
  induction b with
  | nil => exact Nat.one_pos
  | cons x t ih =>
    have := x.isLt
    simp only [ofLe, List.length_cons, pow_succ]
    omega

theorem u_one_lt (b : Bytes) (off : Nat) : u b off 1 < 256 := by
  have hlen : (slice b off 1).length ≤ 1 := by simp [slice]
  calc u b off 1 < 256 ^ (slice b off 1).length := ofLe_lt _
    _ ≤ 256 ^ 1 := Nat.pow_le_pow_right (by decide) hlen

theorem nb_lt_two (b : Bool) : nb b < 2 := by cases b <;> decide

/-- The number that bits spell, least significant first. -/
def bitsValue (l : List Bool) : Nat := l.zipIdx.foldl (fun a x => a + (nb x.1 <<< x.2)) 0

theorem foldl_zipIdx_bits (l : List Bool) : ∀ k a : Nat,
    (l.zipIdx k).foldl (fun a x => a + (nb x.1 <<< x.2)) a = a + 2 ^ k * bitsValue l := by
  unfold bitsValue
  induction l with
  | nil => intro k a; rfl
  | cons b t ih =>
    intro k a
    rw [List.zipIdx_cons, List.zipIdx_cons, List.foldl_cons, List.foldl_cons, ih, ih (0 + 1), Nat.shiftLeft_eq, Nat.shiftLeft_eq]
    ring

theorem bitsValue_cons (b : Bool) (l : List Bool) : bitsValue (b :: l) = nb b + 2 * bitsValue l := by
  unfold bitsValue
  rw [List.zipIdx_cons, List.foldl_cons, foldl_zipIdx_bits, Nat.shiftLeft_eq, bitsValue]
  ring

theorem testBit_bitsValue (l : List Bool) : ∀ i, (bitsValue l).testBit i = l.getD i false := by
  induction l with
  | nil => intro i; exact Nat.zero_testBit i
  | cons b t ih =>
    intro i
    rw [bitsValue_cons]
    cases i with
    | zero => cases b <;> simp [nb, Nat.testBit_zero]
    | succ i =>
      have hdiv : (nb b + 2 * bitsValue t) / 2 = bitsValue t := by have := nb_lt_two b; omega
      rw [Nat.testBit_succ, hdiv, ih, List.getD_cons_succ]

/-- The low bits of a number, least significant first, spell what is left of it. -/
theorem bitsValue_testBits (n v : Nat) : bitsValue ((List.range n).map (fun i => v.testBit i)) = v % 2 ^ n := by
  apply Nat.eq_of_testBit_eq
  intro i
  rw [testBit_bitsValue, Nat.testBit_mod_two_pow]
  by_cases h : i < n <;> simp [h]

theorem length_packBits (n : Nat) : ∀ l : List Bool, (packBits n l).length = n := by
  induction n with
  | zero => intro l; rfl
  | succ n ih => intro l; rw [packBits, List.length_cons, ih]

/-- Bit i of a packed payload is bit i of what was packed, and 0 beyond its end (R229). -/
theorem bitsOfBytes_packBits_eq_map (n : Nat) : ∀ l : List Bool,
    bitsOfBytes (packBits n l) = (List.range (8 * n)).map (fun i => l.getD i false) := by
  induction n with
  | zero => intro l; rfl
  | succ n ih =>
    intro l
    have hbyte : (List.range 8).map (fun i => (BitVec.ofNat 8 (bitsValue (l.take 8))).toNat.testBit i) =
        (List.range 8).map (fun i => l.getD i false) := by
      refine List.map_congr_left fun i hi => ?_
      have hi' : i < 8 := List.mem_range.mp hi
      rw [BitVec.toNat_ofNat, Nat.testBit_mod_two_pow, testBit_bitsValue]
      simp [hi', List.getD]
    have hrest : (List.range (8 * n)).map (fun i => (l.drop 8).getD i false) =
        ((List.range (8 * n)).map (8 + ·)).map (fun i => l.getD i false) := by
      simp [List.getD, List.getElem?_drop]
    calc bitsOfBytes (packBits (n + 1) l)
        = (List.range 8).map (fun i => (BitVec.ofNat 8 (bitsValue (l.take 8))).toNat.testBit i) ++
            bitsOfBytes (packBits n (l.drop 8)) := rfl
      _ = _ := by rw [hbyte, ih, hrest, ← List.map_append, ← List.range_add, Nat.mul_add, Nat.add_comm]

/-- Bits packed into as few bytes as hold them are followed by fewer than 8 bits of 0. -/
theorem bitsOfBytes_packBits (l : List Bool) :
    ∃ pad ≤ 7, bitsOfBytes (packBits ((l.length + 7) / 8) l) = l ++ List.replicate pad false := by
  refine ⟨8 * ((l.length + 7) / 8) - l.length, by omega, ?_⟩
  rw [bitsOfBytes_packBits_eq_map]
  apply List.ext_getElem
  · simp only [List.length_map, List.length_range, List.length_append, List.length_replicate]; omega
  · intro i _ _
    by_cases hi : i < l.length <;> simp [List.getElem_append, List.getD, hi]

/-! ### Elements (R225) -/

theorem length_elemsOf (n k : Nat) : ∀ b : Bytes, (elemsOf n k b).length = k := by
  induction k with
  | zero => intro b; rfl
  | succ k ih => intro b; rw [elemsOf, List.length_cons, ih]

/-- A byte string cut into elements spells those elements. -/
theorem flatMap_leBytes_elemsOf (n k : Nat) : ∀ b : Bytes, b.length = n * k → (elemsOf n k b).flatMap (leBytes n) = b := by
  induction k with
  | zero => intro b h; exact (List.eq_nil_of_length_eq_zero h).symm
  | succ k ih =>
    intro b h
    have hlen : (b.take n).length = n := by rw [List.length_take, h, Nat.mul_succ]; omega
    have hhead : leBytes n (ofLe (b.take n)) = b.take n := by
      have := leBytes_ofLe (b.take n)
      rwa [hlen] at this
    have htail := ih (b.drop n) (by rw [List.length_drop, h, Nat.mul_succ]; omega)
    rw [elemsOf, List.flatMap_cons, hhead, htail, List.take_append_drop]

theorem elemsOf_lt (n k : Nat) : ∀ b : Bytes, ∀ e ∈ elemsOf n k b, e < 256 ^ n := by
  induction k with
  | zero => intro b e he; cases he
  | succ k ih =>
    intro b e he
    rcases List.mem_cons.mp he with rfl | he
    · exact (ofLe_lt _).trans_le (Nat.pow_le_pow_right (by decide) (List.length_take_le n b))
    · exact ih _ e he

/-- The symbol of an element lies in the alphabet of its class (Table 12.2). -/
theorem symbol_lt_clsAlpha {cls e : Nat} (hcls : cls < 6) (he : e < 256 ^ clsElem cls) : e >>> clsRes cls < clsAlpha cls := by
  rw [Nat.shiftRight_eq_div_pow, Nat.div_lt_iff_lt_mul (by positivity)]
  refine he.trans_le ?_
  interval_cases cls <;> decide

/-! ### Canonical codes (R227) -/

/-- The symbols of length `n` among (length, symbol) pairs; a length of 0 is none. -/
def symsOfLength (l : List (Nat × Nat)) (n : Nat) : List (Nat × Nat) :=
  l.filterMap (fun x => if x.1 = n ∧ n ≠ 0 then some (x.2, n) else none)

/-- The symbols of a table with their lengths, by rising length and symbol: what `canonCodes` numbers. -/
def canonSyms (lens : List Nat) : List (Nat × Nat) := (List.range 16).flatMap (symsOfLength lens.zipIdx)

/-- One step of `canonCodes`: the next symbol takes the last code plus 1, shifted left by the growth of the length. -/
def canonStep (a : List (Nat × Nat × Nat) × Nat × Nat) (x : Nat × Nat) : List (Nat × Nat × Nat) × Nat × Nat :=
  let code := if a.1.isEmpty then 0 else (a.2.2 + 1) <<< (x.2 - a.2.1)
  (a.1 ++ [(x.1, x.2, code)], x.2, code)

theorem canonCodes_eq_foldl (lens : List Nat) : canonCodes lens = ((canonSyms lens).foldl canonStep ([], 0, 0)).1 := rfl

/-- The codes that the symbols of `l` take after a code `c` of length `m`. -/
def codesAfter : Nat → Nat → List (Nat × Nat) → List (Nat × Nat × Nat)
  | _, _, [] => []
  | m, c, x :: l => let d := (c + 1) <<< (x.2 - m); (x.1, x.2, d) :: codesAfter x.2 d l

theorem foldl_canonStep (l : List (Nat × Nat)) : ∀ {acc : List (Nat × Nat × Nat)} (m c : Nat), acc ≠ [] →
    (l.foldl canonStep (acc, m, c)).1 = acc ++ codesAfter m c l := by
  induction l with
  | nil => intro acc m c _; exact (List.append_nil acc).symm
  | cons x t ih =>
    intro acc m c h
    have hstep : canonStep (acc, m, c) x = (acc ++ [(x.1, x.2, (c + 1) <<< (x.2 - m))], x.2, (c + 1) <<< (x.2 - m)) := by
      simp [canonStep, h]
    rw [List.foldl_cons, hstep, ih _ _ (by simp), codesAfter, List.append_assoc, List.singleton_append]

theorem canonCodes_of_canonSyms {lens : List Nat} {x : Nat × Nat} {l : List (Nat × Nat)} (h : canonSyms lens = x :: l) :
    canonCodes lens = (x.1, x.2, 0) :: codesAfter x.2 0 l := by
  have hstep : canonStep ([], 0, 0) x = ([(x.1, x.2, 0)], x.2, 0) := rfl
  rw [canonCodes_eq_foldl, h, List.foldl_cons, hstep, foldl_canonStep _ _ _ (by simp)]
  rfl

/-! Codes as intervals: a code of n bits stands for the 15-bit words that begin with it. Canonical codes are the intervals of lengths
2^(15 - n) laid end to end from 0, so no two overlap and no code begins with another; the Kraft sum bounds them all. -/

/-- How many 15-bit words begin with a code of n bits. -/
def codeWidth (n : Nat) : Nat := 2 ^ (15 - n)

/-- The first 15-bit word that begins with a code, and the first beyond it after which none does. -/
def codeLo (x : Nat × Nat × Nat) : Nat := x.2.2 * codeWidth x.2.1
def codeHi (x : Nat × Nat × Nat) : Nat := (x.2.2 + 1) * codeWidth x.2.1

theorem codeWidth_pos (n : Nat) : 0 < codeWidth n := Nat.two_pow_pos _

theorem codeWidth_eq_mul {m n : Nat} (hmn : m ≤ n) (hn : n ≤ 15) : codeWidth m = 2 ^ (n - m) * codeWidth n := by
  rw [codeWidth, codeWidth, ← pow_add]
  congr 1
  omega

theorem codeHi_eq (x : Nat × Nat × Nat) : codeHi x = codeLo x + codeWidth x.2.1 := Nat.succ_mul ..

/-- A code begins where the one before it ends. -/
theorem codeLo_next {m n : Nat} (hmn : m ≤ n) (hn : n ≤ 15) (c : Nat) :
    ((c + 1) <<< (n - m)) * codeWidth n = (c + 1) * codeWidth m := by
  rw [Nat.shiftLeft_eq, codeWidth_eq_mul hmn hn, Nat.mul_assoc]

/-- The codes after one that ends at `(c + 1) * codeWidth m` lie beyond it, one after the other, within the sum of their widths. -/
theorem codesAfter_intervals (l : List (Nat × Nat)) : ∀ m c : Nat, (∀ x ∈ l, m ≤ x.2 ∧ x.2 ≤ 15) → l.Pairwise (fun x y => x.2 ≤ y.2) →
    (codesAfter m c l).Pairwise (fun x y => codeHi x ≤ codeLo y) ∧
    ∀ y ∈ codesAfter m c l, (c + 1) * codeWidth m ≤ codeLo y ∧
      codeHi y ≤ (c + 1) * codeWidth m + (l.map (fun x => codeWidth x.2)).sum := by
  induction l with
  | nil => intro m c _ _; exact ⟨List.Pairwise.nil, fun y hy => nomatch hy⟩
  | cons x t ih =>
    intro m c hlen hsort
    obtain ⟨hx, ht⟩ := List.pairwise_cons.mp hsort
    obtain ⟨hmx, hx15⟩ := hlen x List.mem_cons_self
    obtain ⟨hpair, hbound⟩ := ih x.2 ((c + 1) <<< (x.2 - m)) (fun y hy => ⟨hx y hy, (hlen y (List.mem_cons_of_mem _ hy)).2⟩) ht
    have hnext := codeLo_next hmx hx15 c
    have hend : ((c + 1) <<< (x.2 - m) + 1) * codeWidth x.2 = (c + 1) * codeWidth m + codeWidth x.2 := by rw [Nat.succ_mul, hnext]
    rw [hend] at hbound
    simp only [codesAfter, List.map_cons, List.sum_cons]
    refine ⟨List.pairwise_cons.mpr ⟨fun y hy => ?_, hpair⟩, List.forall_mem_cons.mpr ⟨⟨hnext.ge, ?_⟩, fun y hy => ?_⟩⟩
    · exact hend.le.trans (hbound y hy).1
    · exact hend.le.trans (by omega)
    · obtain ⟨hlo, hhi⟩ := hbound y hy
      exact ⟨by omega, by omega⟩

theorem canonCodes_intervals {lens : List Nat} (hlen : ∀ x ∈ canonSyms lens, x.2 ≤ 15)
    (hsort : (canonSyms lens).Pairwise (fun x y => x.2 ≤ y.2)) :
    (canonCodes lens).Pairwise (fun x y => codeHi x ≤ codeLo y) ∧
    ∀ y ∈ canonCodes lens, codeHi y ≤ ((canonSyms lens).map (fun x => codeWidth x.2)).sum := by
  cases h : canonSyms lens with
  | nil => rw [canonCodes_eq_foldl, h]; exact ⟨List.Pairwise.nil, fun y hy => nomatch hy⟩
  | cons x t =>
    rw [h] at hlen hsort
    obtain ⟨hx, ht⟩ := List.pairwise_cons.mp hsort
    obtain ⟨hpair, hbound⟩ := codesAfter_intervals t x.2 0 (fun y hy => ⟨hx y hy, hlen y (List.mem_cons_of_mem _ hy)⟩) ht
    rw [Nat.zero_add, Nat.one_mul] at hbound
    have hfirst : codeHi (x.1, x.2, 0) = codeWidth x.2 := Nat.one_mul _
    rw [canonCodes_of_canonSyms h, List.map_cons, List.sum_cons]
    refine ⟨List.pairwise_cons.mpr ⟨fun y hy => ?_, hpair⟩, List.forall_mem_cons.mpr ⟨?_, fun y hy => (hbound y hy).2⟩⟩
    · exact hfirst.le.trans (hbound y hy).1
    · exact hfirst.le.trans (Nat.le_add_right _ _)

/-! ### The symbols of a table -/

theorem mem_symsOfLength {l : List (Nat × Nat)} {n : Nat} {x : Nat × Nat} :
    x ∈ symsOfLength l n ↔ x.2 = n ∧ n ≠ 0 ∧ (n, x.1) ∈ l := by
  rw [symsOfLength, List.mem_filterMap]
  constructor
  · rintro ⟨y, hy, hx⟩
    obtain ⟨⟨rfl, h0⟩, hx⟩ := Option.ite_none_right_eq_some.mp hx
    cases hx
    exact ⟨rfl, h0, hy⟩
  · rintro ⟨rfl, h0, hx⟩
    exact ⟨_, hx, if_pos ⟨rfl, h0⟩⟩

theorem mem_canonSyms {lens : List Nat} {x : Nat × Nat} :
    x ∈ canonSyms lens ↔ lens[x.1]? = some x.2 ∧ x.2 ≠ 0 ∧ x.2 < 16 := by
  simp only [canonSyms, List.mem_flatMap, List.mem_range, mem_symsOfLength, List.mem_zipIdx_iff_getElem?]
  constructor
  · rintro ⟨n, hn, rfl, h0, hx⟩
    exact ⟨hx, h0, hn⟩
  · rintro ⟨hx, h0, hn⟩
    exact ⟨x.2, hn, rfl, h0, hx⟩

theorem canonSyms_sorted (lens : List Nat) : (canonSyms lens).Pairwise (fun x y => x.2 ≤ y.2) := by
  refine List.pairwise_flatMap.mpr ⟨fun n _ => ?_, ?_⟩
  · exact List.pairwise_of_forall_mem_list fun x hx y hy =>
      ((mem_symsOfLength.mp hx).1.trans (mem_symsOfLength.mp hy).1.symm).le
  · refine List.pairwise_lt_range.imp fun {a b} hab x hx y hy => ?_
    rw [(mem_symsOfLength.mp hx).1, (mem_symsOfLength.mp hy).1]
    exact hab.le

theorem sum_codeWidth_symsOfLength_cons (y : Nat × Nat) (l : List (Nat × Nat)) (n : Nat) :
    ((symsOfLength (y :: l) n).map (fun x => codeWidth x.2)).sum =
      (if y.1 = n ∧ n ≠ 0 then codeWidth n else 0) + ((symsOfLength l n).map (fun x => codeWidth x.2)).sum := by
  by_cases h : y.1 = n ∧ n ≠ 0 <;> simp [symsOfLength, h]

/-- The lengths 1 to 15 share out all symbols whose length is one of them. -/
theorem sum_codeWidth_symsOfLength {l : List (Nat × Nat)} (h : ∀ x ∈ l, x.1 ≠ 0 ∧ x.1 < 16) :
    ((List.range 16).map (fun n => ((symsOfLength l n).map (fun x => codeWidth x.2)).sum)).sum =
      (l.map (fun x => codeWidth x.1)).sum := by
  induction l with
  | nil => simp [symsOfLength]
  | cons y t ih =>
    obtain ⟨hy, ht⟩ := List.forall_mem_cons.mp h
    have hone : ((List.range 16).map (fun n => if y.1 = n ∧ n ≠ 0 then codeWidth n else 0)).sum = codeWidth y.1 := by
      have hcond : ∀ n, (if y.1 = n ∧ n ≠ 0 then codeWidth n else 0) = if y.1 = n then codeWidth n else 0 := fun n =>
        if_congr ⟨And.left, fun e => ⟨e, e ▸ hy.1⟩⟩ rfl rfl
      calc _ = ∑ n ∈ Finset.range 16, if y.1 = n then codeWidth n else 0 := by simp only [hcond]; rfl
        _ = _ := by rw [Finset.sum_ite_eq, if_pos (Finset.mem_range.mpr hy.2)]
    simp only [sum_codeWidth_symsOfLength_cons, List.sum_map_add, hone, ih ht, List.map_cons, List.sum_cons]

theorem sum_codeWidth_canonSyms {lens : List Nat} (h : ∀ n ∈ lens, n ≠ 0 ∧ n < 16) :
    ((canonSyms lens).map (fun x => codeWidth x.2)).sum = (lens.map codeWidth).sum := by
  have hzip : (lens.zipIdx).map (fun x => codeWidth x.1) = lens.map codeWidth := by
    rw [← Function.comp_def codeWidth Prod.fst, ← List.map_map, List.zipIdx_map_fst]
  rw [← hzip, ← sum_codeWidth_symsOfLength fun x hx => h _ (List.fst_mem_of_mem_zipIdx hx), canonSyms, List.map_flatMap, List.flatMap,
    List.sum_flatten, List.map_map]
  rfl

theorem map_fst_codesAfter (l : List (Nat × Nat)) : ∀ m c, (codesAfter m c l).map (fun x => (x.1, x.2.1)) = l := by
  induction l with
  | nil => intro m c; rfl
  | cons x t ih => intro m c; rw [codesAfter, List.map_cons, ih]

/-- The codes of a table are those of its symbols, at their lengths. -/
theorem map_canonCodes (lens : List Nat) : (canonCodes lens).map (fun x => (x.1, x.2.1)) = canonSyms lens := by
  cases h : canonSyms lens with
  | nil => rw [canonCodes_eq_foldl, h]; rfl
  | cons x t => rw [canonCodes_of_canonSyms h, List.map_cons, map_fst_codesAfter]

theorem mem_canonSyms_of_mem_canonCodes {lens : List Nat} {x : Nat × Nat × Nat} (h : x ∈ canonCodes lens) :
    (x.1, x.2.1) ∈ canonSyms lens := map_canonCodes lens ▸ List.mem_map_of_mem h

/-! ### Codes of which none begins with another -/

/-- A code list that a bit string determines: each code fits its length, and no code begins with another. -/
structure PrefixFree (codes : List (Nat × Nat × Nat)) : Prop where
  pos : ∀ x ∈ codes, x.2.1 ≠ 0
  fits : ∀ x ∈ codes, x.2.2 < 2 ^ x.2.1
  unique : ∀ x ∈ codes, ∀ y ∈ codes, x.2.1 ≤ y.2.1 → x.2.2 = y.2.2 >>> (y.2.1 - x.2.1) → x = y

/-- The intervals of two codes do not overlap. -/
def CodesApart (x y : Nat × Nat × Nat) : Prop := codeHi x ≤ codeLo y ∨ codeHi y ≤ codeLo x

/-- A code that begins with another lies in the other's interval. -/
theorem codeLo_of_beginsWith {x y : Nat × Nat × Nat} (h15 : y.2.1 ≤ 15) (hlen : x.2.1 ≤ y.2.1)
    (h : x.2.2 = y.2.2 >>> (y.2.1 - x.2.1)) : codeLo x ≤ codeLo y ∧ codeLo y < codeHi x := by
  rw [Nat.shiftRight_eq_div_pow] at h
  have hlow : x.2.2 * 2 ^ (y.2.1 - x.2.1) ≤ y.2.2 := h ▸ Nat.div_mul_le_self _ _
  have hhigh : y.2.2 < (x.2.2 + 1) * 2 ^ (y.2.1 - x.2.1) := by
    rw [h, Nat.succ_mul]
    exact Nat.lt_div_mul_add (Nat.two_pow_pos _)
  unfold codeLo codeHi
  rw [codeWidth_eq_mul hlen h15, ← Nat.mul_assoc, ← Nat.mul_assoc]
  exact ⟨Nat.mul_le_mul_right _ hlow, Nat.mul_lt_mul_of_pos_right hhigh (codeWidth_pos _)⟩

/-- What the expander's check leaves of a table (R228): a length from 1 to 15 for each symbol of the alphabet, and a Kraft sum of 1. -/
structure SoundTable (t : CodeTable) : Prop where
  alphabet : t.lens.length = clsAlpha t.cls
  lengths : ∀ n ∈ t.lens, n ≠ 0 ∧ n < 16
  kraft : (t.lens.map codeWidth).sum = 2 ^ 15

theorem SoundTable.prefixFree {t : CodeTable} (h : SoundTable t) : PrefixFree (canonCodes t.lens) := by
  have hlen : ∀ x ∈ canonCodes t.lens, x.2.1 ≠ 0 ∧ x.2.1 < 16 := fun x hx => (mem_canonSyms.mp (mem_canonSyms_of_mem_canonCodes hx)).2
  obtain ⟨hpair, hsum⟩ := canonCodes_intervals (fun x hx => Nat.le_of_lt_succ (mem_canonSyms.mp hx).2.2) (canonSyms_sorted t.lens)
  rw [sum_codeWidth_canonSyms h.lengths, h.kraft] at hsum
  refine ⟨fun x hx => (hlen x hx).1, fun x hx => ?_, fun x hx y hy hxy hcode => ?_⟩
  · have hword : (2 : Nat) ^ 15 = 2 ^ x.2.1 * codeWidth x.2.1 := by
      rw [codeWidth, ← pow_add]; congr 1; have := (hlen x hx).2; omega
    have := hsum x hx
    rw [codeHi, hword] at this
    exact Nat.le_of_mul_le_mul_right this (codeWidth_pos _)
  · by_contra hne
    have hdisjoint : codeHi x ≤ codeLo y ∨ codeHi y ≤ codeLo x :=
      haveI : Std.Symm CodesApart := ⟨fun _ _ => Or.symm⟩
      List.Pairwise.forall (R := CodesApart) (hpair.imp Or.inl) hx hy hne
    obtain ⟨hlow, hhigh⟩ := codeLo_of_beginsWith (Nat.le_of_lt_succ (hlen y hy).2) hxy hcode
    have := codeHi_eq y
    have := codeWidth_pos y.2.1
    omega

/-- Every symbol of the alphabet has a code. -/
theorem SoundTable.exists_code {t : CodeTable} (h : SoundTable t) {sym : Nat} (hs : sym < clsAlpha t.cls) :
    ∃ x ∈ canonCodes t.lens, x.1 = sym := by
  have hlt : sym < t.lens.length := h.alphabet ▸ hs
  have hmem : (sym, t.lens[sym]) ∈ canonSyms t.lens :=
    mem_canonSyms.mpr ⟨List.getElem?_eq_getElem hlt, h.lengths _ (List.getElem_mem hlt)⟩
  rw [← map_canonCodes] at hmem
  obtain ⟨x, hx, he⟩ := List.mem_map.mp hmem
  exact ⟨x, hx, congrArg Prod.fst he⟩

/-! ### Images (R228) -/

theorem imageLen_lt (b : Bytes) (i : Nat) : imageLen b i < 16 := by
  have := u_one_lt b (32 + i / 2)
  unfold imageLen
  dsimp only
  split <;> omega

theorem clsAlpha_le (c : Nat) : clsAlpha c ≤ 512 := by unfold clsAlpha; split <;> decide

/-- The table of an image that the expander does not reject is sound. -/
theorem soundTable_tableOfImage {b : Bytes} (h : imageBad b = false) : SoundTable (tableOfImage b) := by
  unfold imageBad at h
  simp only [Bool.or_eq_false_iff, List.any_eq_false, List.mem_range, bne_eq_false_iff_eq] at h
  obtain ⟨⟨⟨-, hlen⟩, hkraft⟩, -⟩ := h
  refine ⟨by simp [tableOfImage], fun n hn => ?_, ?_⟩
  · obtain ⟨i, hi, rfl⟩ := List.mem_map.mp hn
    have hi' := List.mem_range.mp hi
    have hpos := hlen i (hi'.trans_le (clsAlpha_le _))
    rw [if_pos hi', beq_iff_eq] at hpos
    exact ⟨hpos, imageLen_lt b i⟩
  · rw [← hkraft, tableOfImage, List.map_map, List.sum_eq_foldl, List.foldl_map]
    rfl

/-! ### Decoding what was coded (R229, R235) -/

/-- The last `j` bits of a code, most significant first. -/
def codeBits (j code : Nat) : List Bool := (List.range j).map (fun i => code.testBit (j - 1 - i))

theorem codeBits_succ (j code : Nat) : codeBits (j + 1) code = code.testBit j :: codeBits j code := by
  rw [codeBits, List.range_succ_eq_map, List.map_cons, List.map_map, codeBits]
  congr 1
  refine List.map_congr_left fun i _ => congrArg code.testBit ?_
  simp only [Nat.succ_eq_add_one]
  omega

theorem shiftRight_eq_two_mul_add (v j : Nat) : 2 * (v >>> (j + 1)) + nb (v.testBit j) = v >>> j := by
  have hbit : nb (v.testBit j) = v >>> j % 2 := by
    rw [Nat.testBit_eq_decide_div_mod_eq, Nat.shiftRight_eq_div_pow]
    by_cases h : v / 2 ^ j % 2 = 1
    · simp [nb, h]
    · simp [nb, h]; omega
  rw [hbit, Nat.shiftRight_succ]
  omega

section
variable {codes : List (Nat × Nat × Nat)} (hpf : PrefixFree codes) {y : Nat × Nat × Nat} (hy : y ∈ codes)
include hpf hy

/-- No code is what a longer one begins with. -/
theorem PrefixFree.find?_shorter {j : Nat} (hj : j ≠ 0) (hlt : j < y.2.1) :
    codes.find? (fun x => x.2.1 == y.2.1 - j && x.2.2 == y.2.2 >>> j) = none := by
  refine List.find?_eq_none.mpr fun x hx hfound => ?_
  simp only [Bool.and_eq_true, beq_iff_eq] at hfound
  obtain ⟨hlen, hcode⟩ := hfound
  have hxy : x = y := hpf.unique x hx y hy (by omega) (by rw [hcode]; congr 1; omega)
  rw [hxy] at hlen
  omega

/-- A length and a code name one entry. -/
theorem PrefixFree.find?_code : codes.find? (fun x => x.2.1 == y.2.1 && x.2.2 == y.2.2) = some y := by
  cases h : codes.find? (fun x => x.2.1 == y.2.1 && x.2.2 == y.2.2) with
  | none => simpa using List.find?_eq_none.mp h y hy
  | some x =>
    have hfound := List.find?_some h
    simp only [Bool.and_eq_true, beq_iff_eq] at hfound
    obtain ⟨hlen, hcode⟩ := hfound
    rw [hpf.unique x (List.mem_of_find?_eq_some h) y hy hlen.le (by rw [hlen, Nat.sub_self, hcode]; rfl)]

/-- With the last `j + 1` bits of a code to come, the decoder finds that code and no other. -/
theorem decodeSym_codeBits_suffix (rest : List Bool) (j : Nat) (hj : j < y.2.1) :
    decodeSym codes (y.2.2 >>> (j + 1)) (y.2.1 - (j + 1)) (codeBits (j + 1) y.2.2 ++ rest) = some (y.1, rest) := by
  have hlen : y.2.1 - (j + 1) + 1 = y.2.1 - j := by omega
  rw [codeBits_succ, List.cons_append, decodeSym, shiftRight_eq_two_mul_add, hlen]
  cases j with
  | zero =>
    simp only [Nat.sub_zero, Nat.shiftRight_zero, hpf.find?_code hy]
    rfl
  | succ j =>
    simp only [hpf.find?_shorter hy j.succ_ne_zero hj]
    exact decodeSym_codeBits_suffix rest j (Nat.lt_of_succ_lt hj)

theorem decodeSym_codeBits (rest : List Bool) : decodeSym codes 0 0 (codeBits y.2.1 y.2.2 ++ rest) = some (y.1, rest) := by
  obtain ⟨j, hj⟩ := Nat.exists_eq_succ_of_ne_zero (hpf.pos y hy)
  have hstart : y.2.2 >>> (j + 1) = 0 := Nat.shiftRight_eq_zero _ _ ((hpf.fits y hy).trans_eq (congrArg _ hj))
  have h := decodeSym_codeBits_suffix hpf hy rest j (by omega)
  rwa [hstart, ← Nat.succ_eq_add_one, ← hj, Nat.sub_self] at h

end

section
variable {cls : Nat} {codes : List (Nat × Nat × Nat)}

/-- An element goes as the code of its symbol, then its residue. -/
theorem elemBits_eq {e : Nat} (h : ∃ x ∈ codes, x.1 = e >>> clsRes cls) : ∃ y ∈ codes, y.1 = e >>> clsRes cls ∧
    elemBits cls codes e = codeBits y.2.1 y.2.2 ++ (List.range (clsRes cls)).map (fun i => e.testBit i) := by
  obtain ⟨x, hx, hsym⟩ := h
  have hsome : (codes.find? (fun x => x.1 == e >>> clsRes cls)).isSome := List.find?_isSome.mpr ⟨x, hx, beq_iff_eq.mpr hsym⟩
  obtain ⟨y, hy⟩ := Option.isSome_iff_exists.mp hsome
  have hfound := List.find?_some hy
  refine ⟨y, List.mem_of_find?_eq_some hy, beq_iff_eq.mp hfound, ?_⟩
  simp only [elemBits, hy]
  rfl

theorem symbol_add_residue (e r : Nat) : ((e >>> r) <<< r) + e % 2 ^ r = e := by
  rw [Nat.shiftRight_eq_div_pow, Nat.shiftLeft_eq, Nat.div_add_mod']

variable (hpf : PrefixFree codes)
include hpf

theorem elemBits_ne_nil {e : Nat} (h : ∃ x ∈ codes, x.1 = e >>> clsRes cls) : elemBits cls codes e ≠ [] := by
  obtain ⟨y, hy, -, he⟩ := elemBits_eq h
  obtain ⟨j, hj⟩ := Nat.exists_eq_succ_of_ne_zero (hpf.pos y hy)
  rw [he, hj, codeBits_succ]
  exact List.cons_ne_nil _ _

/-- The expander reads elements back from their codes and leaves what follows them. -/
theorem decodeElems_flatMap_elemBits (rest : List Bool) : ∀ es : List Nat, (∀ e ∈ es, ∃ x ∈ codes, x.1 = e >>> clsRes cls) →
    decodeElems cls codes es.length (es.flatMap (elemBits cls codes) ++ rest) = some (es.flatMap (leBytes (clsElem cls)), rest) := by
  intro es
  induction es with
  | nil => intro _; rfl
  | cons e t ih =>
    intro h
    obtain ⟨he, ht⟩ := List.forall_mem_cons.mp h
    obtain ⟨y, hy, hsym, hbits⟩ := elemBits_eq he
    have hres : bitsValue ((List.range (clsRes cls)).map (fun i => e.testBit i)) = e % 2 ^ clsRes cls := bitsValue_testBits _ _
    unfold bitsValue at hres
    rw [List.flatMap_cons, List.flatMap_cons, List.length_cons, hbits, List.append_assoc, List.append_assoc, decodeElems,
      decodeSym_codeBits hpf hy]
    simp [hres, ih ht, hsym, symbol_add_residue]

end

/-! ### The payload of a block -/

section
variable {t : CodeTable} {b : Bytes}

/-- Every element of a block has a code under a sound table of a class. -/
theorem SoundTable.codes_blockElems (h : SoundTable t) (hcls : t.cls < 6) (b : Bytes) :
    ∀ e ∈ blockElems t.cls b, ∃ x ∈ canonCodes t.lens, x.1 = e >>> clsRes t.cls := fun e he =>
  h.exists_code (symbol_lt_clsAlpha hcls (elemsOf_lt _ _ _ e he))

theorem clsElem_pos (c : Nat) : 0 < clsElem c := by unfold clsElem; split_ifs <;> decide

theorem encodePayload_length_pos (h : SoundTable t) (hcls : t.cls < 6) (hb : 0 < b.length) (hmul : b.length % clsElem t.cls = 0) :
    0 < (encodePayload t.cls t.lens b).length := by
  have hcount : 0 < (blockElems t.cls b).length := by
    rw [blockElems, length_elemsOf]
    exact Nat.div_pos (Nat.le_of_dvd hb (Nat.dvd_of_mod_eq_zero hmul)) (clsElem_pos _)
  obtain ⟨e, he⟩ := List.exists_mem_of_length_pos hcount
  have hbits : (blockElems t.cls b).flatMap (elemBits t.cls (canonCodes t.lens)) ≠ [] := fun hnil =>
    elemBits_ne_nil h.prefixFree (h.codes_blockElems hcls b e he) (List.flatMap_eq_nil_iff.mp hnil e he)
  have := List.length_pos_iff.mpr hbits
  simp only [encodePayload, length_packBits]
  omega

/-- A coded payload decodes to the bytes of its block; what is left is fewer than 8 bits of 0. -/
theorem decodeElems_encodePayload (h : SoundTable t) (hcls : t.cls < 6) (hmul : b.length % clsElem t.cls = 0) :
    ∃ pad ≤ 7, decodeElems t.cls (canonCodes t.lens) (b.length / clsElem t.cls) (bitsOfBytes (encodePayload t.cls t.lens b)) =
      some (b, List.replicate pad false) := by
  obtain ⟨pad, hpad, hbits⟩ := bitsOfBytes_packBits ((blockElems t.cls b).flatMap (elemBits t.cls (canonCodes t.lens)))
  have hbytes : (blockElems t.cls b).flatMap (leBytes (clsElem t.cls)) = b :=
    flatMap_leBytes_elemsOf _ _ b (Nat.mul_div_cancel' (Nat.dvd_of_mod_eq_zero hmul)).symm
  have hdec := decodeElems_flatMap_elemBits h.prefixFree (List.replicate pad false) (blockElems t.cls b) (h.codes_blockElems hcls b)
  rw [← hbits, hbytes, blockElems, length_elemsOf] at hdec
  exact ⟨pad, hpad, hdec⟩

end

/-! ### Block headers (Table 12.4) -/

theorem blockHdr_eq (gen clen cls raw : Nat) (stored : Bool) (i : Nat) : blockHdr gen clen cls raw stored i =
    gen + clen * 2 ^ 16 + cls * 2 ^ 29 + raw * 2 ^ 32 + nb stored * 2 ^ 45 + i % 65536 * 2 ^ 48 := by
  unfold blockHdr
  rw [Nat.shiftLeft_eq, Nat.shiftLeft_eq, Nat.shiftLeft_eq, Nat.shiftLeft_eq, Nat.shiftLeft_eq]

theorem hdrStored_eq (h : Nat) : hdrStored h = decide (h / 2 ^ 45 % 2 = 1) := Nat.testBit_eq_decide_div_mod_eq

theorem decide_eq_one_of_eq_nb {n : Nat} {b : Bool} (h : n = nb b) : decide (n = 1) = b := by subst h; cases b <;> rfl

/-- The fields of a header read as they were written. -/
theorem hdr_blockHdr {gen clen cls raw : Nat} (stored : Bool) (i : Nat) (hgen : gen < 65536) (hclen : clen ≤ 4096) (hcls : cls < 6)
    (hraw : raw ≤ 4096) :
    hdrGen (blockHdr gen clen cls raw stored i) = gen ∧ hdrClen (blockHdr gen clen cls raw stored i) = clen ∧
    hdrRaw (blockHdr gen clen cls raw stored i) = raw ∧ hdrStored (blockHdr gen clen cls raw stored i) = stored := by
  have hnb := nb_lt_two stored
  rw [hdrGen, hdrClen, hdrRaw, hdrStored_eq, bits, bits, bits, Nat.shiftRight_eq_div_pow, Nat.shiftRight_eq_div_pow,
    Nat.shiftRight_eq_div_pow, blockHdr_eq]
  exact ⟨by omega, by omega, by omega, decide_eq_one_of_eq_nb (by omega)⟩

/-! ### What an expander makes of a block -/

/-- Sizes from 1 to 4,096 pass the first check of an expander. -/
theorem sizes_in_range {raw clen : Nat} (hraw : 0 < raw) (hraw' : raw ≤ 4096) (hclen : 0 < clen) (hclen' : clen ≤ 4096) :
    (raw == 0 || decide (4096 < raw) || clen == 0 || decide (4096 < clen)) = false := by
  simp only [Bool.or_eq_false_iff, beq_eq_false_iff_ne, decide_eq_false_iff_not]
  omega

/-- A STORED block whose sizes agree passes as it stands, whatever tables the expander holds (R235). -/
theorem expandBlock_stored {x : CompX} {q : BlockQ} (hstored : hdrStored q.hdr = true) (hpos : 0 < q.payload.length)
    (hmax : q.payload.length ≤ 4096) (hraw : hdrRaw q.hdr = q.payload.length) (hclen : hdrClen q.hdr = q.payload.length) :
    expandBlock x q = .ok q.payload := by
  simp [expandBlock, hraw, hclen, sizes_in_range hpos hmax hpos hmax, hstored]

/-- A coded block passes when its payload decodes under the table it names and leaves fewer than 8 bits of 0 (R235). -/
theorem expandBlock_coded {x : CompX} {q : BlockQ} {t : CodeTable} {b : Bytes} {pad : Nat} (hstored : hdrStored q.hdr = false)
    (hpos : 0 < b.length) (hmax : b.length ≤ 4096) (hppos : 0 < q.payload.length) (hpmax : q.payload.length ≤ 4096)
    (hraw : hdrRaw q.hdr = b.length) (hclen : hdrClen q.hdr = q.payload.length)
    (hrej : x.rejected.contains (hdrGen q.hdr) = false) (hslot : slotTable x (hdrGen q.hdr) = some t)
    (hmul : b.length % clsElem t.cls = 0) (hpad : pad ≤ 7)
    (hdec : decodeElems t.cls (canonCodes t.lens) (b.length / clsElem t.cls) (bitsOfBytes q.payload) =
      some (b, List.replicate pad false)) :
    expandBlock x q = .ok b := by
  unfold expandBlock
  dsimp only
  rw [hraw, hclen, sizes_in_range hpos hmax hppos hpmax, hstored, hrej, hslot, List.take_length]
  simp [hmul, hdec, hpad]

/-! ### What a compressor makes of a block -/

/-- The counts of raw and coded KiB leave the count of STORED blocks. -/
theorem rget_stored_countComp (p raw coded : Nat) (s : State) :
    rget (R.CMP_Pnn_STORED p) (countComp p raw coded s) = rget (R.CMP_Pnn_STORED p) s := by
  have hcoded : R.CMP_Pnn_STORED p ≠ R.CMP_Pnn_CODED p := by simp only [R.CMP_Pnn_STORED, R.CMP_Pnn_CODED]; omega
  have hraw : R.CMP_Pnn_STORED p ≠ R.CMP_Pnn_RAW p := by simp only [R.CMP_Pnn_STORED, R.CMP_Pnn_RAW]; omega
  exact (rget_rset_ne _ hcoded _).trans (rget_rset_ne _ hraw _)

section
variable {t : CodeTable} {b : Bytes} {p i : Nat} {s : State}

theorem codeBlock_stored (h : b.length < (encodePayload t.cls t.lens b).length + 64) : codeBlock p t i b s =
    (.block (blockHdr 0 b.length t.cls b.length true i) b, rcount (R.CMP_Pnn_STORED p) (countComp p b.length (b.length + 8) s)) :=
  if_pos h

theorem codeBlock_coded (h : (encodePayload t.cls t.lens b).length + 64 ≤ b.length) : codeBlock p t i b s =
    (.block (blockHdr t.gen (encodePayload t.cls t.lens b).length t.cls b.length false i) (encodePayload t.cls t.lens b),
      countComp p b.length ((encodePayload t.cls t.lens b).length + 8) s) :=
  if_neg (Nat.not_lt.mpr h)

end

/-- Settles O42: under a Kraft sum of 1 no canonical code begins with another, so the expander reads back each element that the
compressor coded; a STORED block passes by its sizes. -/
theorem blocksAreCodedOrStoredAndExpand : Obligations.BlocksAreCodedOrStoredAndExpand := by
  unfold Obligations.BlocksAreCodedOrStoredAndExpand
  intro p t i b s hgen hcls hpos hmax
  dsimp only
  refine ⟨fun hlong => ?stored, fun hshort => ?coded⟩
  case stored =>
    obtain ⟨hg, hclen, hraw, hst⟩ := hdr_blockHdr true i (by decide : 0 < 65536) hmax hcls hmax
    refine ⟨_, _, codeBlock_stored hlong, hst, hg, hclen, ?_, fun x => expandBlock_stored hst hpos hmax hraw hclen⟩
    rw [rcount, rcountBy, rget_rset_self, rget_stored_countComp]
  case coded =>
    have hpmax : (encodePayload t.cls t.lens b).length ≤ 4096 := by omega
    obtain ⟨hg, hclen, hraw, hst⟩ := hdr_blockHdr false i hgen hpmax hcls hmax
    refine ⟨_, _, codeBlock_coded hshort, hst, hg, rget_stored_countComp .., fun x htable hgood hmul hrej hslot => ?_⟩
    have hsound : SoundTable t := htable ▸ soundTable_tableOfImage hgood
    obtain ⟨pad, hpad, hdec⟩ := decodeElems_encodePayload hsound hcls hmul
    exact expandBlock_coded hst hpos hmax (encodePayload_length_pos hsound hcls hpos hmul) hpmax hraw hclen (hg.symm ▸ hrej)
      (hg.symm ▸ hslot) hmul hpad hdec

end Sys2Proof.Machine
end

section
/-! The register space (chapters 0 and 21). A write access that reaches one register is one `writePart`; there the plain store follows
the access types of Table 0.2, and what the block's map adds to it is nothing in the blocks without special stores and at a lock
register. A wide register lies at a multiple of 8, so both halves share their block's latch. -/

namespace Sys2Proof.Machine

open Sys2Proof

/-! ### Bits of a plain store (Table 0.2) -/

theorem clearBits_div_two (v m : Nat) : clearBits v m / 2 = clearBits (v / 2) (m / 2) := by
  have hbit := Nat.and_mod_two_eq_one (a := v) (b := m)
  have hle : v &&& m ≤ v := Nat.and_le_left
  unfold clearBits
  rw [← Nat.and_div_two]
  omega

theorem testBit_clearBits (v m i : Nat) : (clearBits v m).testBit i = (v.testBit i && !m.testBit i) := by
  induction i generalizing v m with
  | zero =>
    have hbit := Nat.and_mod_two_eq_one (a := v) (b := m)
    have hle : v &&& m ≤ v := Nat.and_le_left
    rw [Nat.testBit_zero, Nat.testBit_zero, Nat.testBit_zero, clearBits, ← decide_not, ← Bool.decide_and, decide_eq_decide]
    omega
  | succ i ih => rw [Nat.testBit_add_one, clearBits_div_two, ih, ← Nat.testBit_add_one, ← Nat.testBit_add_one]

theorem testBit_mergeBits (v m x i : Nat) : (mergeBits v m x).testBit i = if m.testBit i then x.testBit i else v.testBit i := by
  change (clearBits v m ||| (x &&& m)).testBit i = _
  rw [Nat.testBit_or, Nat.testBit_and, testBit_clearBits]
  cases m.testBit i <;> simp

theorem testBit_storeReg (d : RegDef) (off m v i : Nat) (locked : Bool) (s : State) :
    (rget off (storeReg d off m v locked s)).testBit i =
      (if m.testBit i && v.testBit i && d.w1s.testBit i then true
       else if m.testBit i && v.testBit i && d.w1c.testBit i then false
       else if m.testBit i && (d.rw.testBit i || (d.rwl.testBit i && !locked)) then v.testBit i
       else (rget off s).testBit i) := by
  have hrwl : (if locked then 0 else d.rwl).testBit i = (d.rwl.testBit i && !locked) := by cases locked <;> simp
  unfold storeReg
  dsimp only
  rw [rget_rset_self, Nat.testBit_or, testBit_clearBits, testBit_mergeBits]
  simp only [Nat.testBit_and, Nat.testBit_or, hrwl]
  cases m.testBit i with
  | false => simp
  | true =>
    cases v.testBit i with
    | false => simp
    | true => cases d.w1s.testBit i <;> simp [Bool.and_comm]

theorem rget_storeReg_ne {o off : Nat} (h : o ≠ off) (d : RegDef) (m v : Nat) (locked : Bool) (s : State) :
    rget o (storeReg d off m v locked s) = rget o s := rget_rset_ne s h _

/-- A field that is set to what it holds leaves the register. -/
theorem setBits_bits_self (v hi lo : Nat) (h : lo ≤ hi) : setBits v hi lo (bits v hi lo) = v := by
  apply Nat.eq_of_testBit_eq
  intro i
  rw [testBit_setBits _ _ _ _ _ h]
  split
  · rw [testBit_bits, Nat.add_sub_cancel' (by omega), decide_eq_true (by omega), Bool.true_and]
  · rfl

/-! ### The set-wins count (R40) -/

section
variable {b o : Nat} (n : Nat) (t : State)

theorem rget_countSetWins_ne (h : setwinOf b ≠ some o) : rget o (countSetWins b n t) = rget o t := by
  unfold countSetWins
  split
  · rfl
  · next off hoff => exact rget_rsetBits_ne t (fun e => h (by rw [hoff, e])) ..

theorem rbits_countSetWins (h : setwinOf b = some o) :
    rbits o 15 0 (countSetWins b n t) = min 0xFFFF (rbits o 15 0 t + n) := by
  simp only [countSetWins, h]
  rw [rbits_rsetBits_self _ _ _ _ _ (by decide)]
  omega

theorem rget_countSetWins_zero (b o : Nat) : rget o (countSetWins b 0 t) = rget o t := by
  unfold countSetWins
  split
  · rfl
  · next off _ =>
    have hlt : rbits off 15 0 t < 2 ^ 16 := Nat.mod_lt _ (by decide)
    have hmin : min 0xFFFF (rbits off 15 0 t + 0) = rbits off 15 0 t := by omega
    rw [hmin, rget_rsetBits]
    split
    · next e => rw [e]; exact setBits_bits_self _ _ _ (by decide)
    · rfl

theorem countSetWins_frame (b : Nat) (r : List (Nat × Nat)) : { countSetWins b n t with regs := r } = { t with regs := r } := by
  unfold countSetWins
  split <;> rfl

end

/-! ### One part of a write access -/

section
variable {off m v hw : Nat} {s : State} {d : RegDef}

theorem isWide_of_unassigned (h : regAt off = none) : isWide off = false := by simp only [isWide, h]

theorem touchesLocked_of_unassigned (h : regAt off = none) : touchesLocked off m s = false := by simp only [touchesLocked, h]

theorem writePart_of_unassigned (h : regAt off = none) : writePart off m v hw s = s := by simp only [writePart, h]

/-- A write to locked fields alone changes nothing (R375). -/
theorem writePart_of_locked (hd : regAt off = some d) (hrw : d.rw = 0) (hl : touchesLocked off m s = true) :
    writePart off m v hw s = s := by
  simp [writePart, hd, hl, hrw]

/-- An unlocked write that is not refused, where the block's map adds nothing to the store: the store by type and the count of set
wins. -/
theorem writePart_of_plain (hd : regAt off = some d) (hl : touchesLocked off m s = false)
    (href : ((d.rwl &&& m) != 0 && refused off s) = false) (hfix : ∀ x t t', fixWrite off x t t' = t') :
    writePart off m v hw s =
      let win := setWins d off m v hw s
      countSetWins (blockOf off) (popCount 64 win) (storeReg d off m (clearBits v win) false s) := by
  simp only [writePart, hd, hl, href, hfix, Bool.false_and, Bool.false_eq_true, if_false]

end

/-- Blocks whose maps have no special store, but for HIF_WIN_BASE. -/
theorem fixWrite_of_plainBlock {off : Nat} (hb : blockOf off ∈ [bHIF, bVCH, bATT, bSPL, bCDC, bERR]) (hwin : off ≠ R.HIF_WIN_BASE)
    (x : Nat) (s t : State) : fixWrite off x s t = t := by
  simp only [List.mem_cons, List.not_mem_nil, or_false] at hb
  unfold fixWrite
  rcases hb with h | h | h | h | h | h <;> rw [h]
  case inl => exact if_neg hwin
  all_goals rfl

/-- Table 21.6 refuses no write to those blocks. -/
theorem refused_of_plainBlock {off : Nat} (hb : blockOf off ∈ [bHIF, bVCH, bATT, bSPL, bCDC, bERR]) (s : State) :
    refused off s = false := by
  have away : ∀ o, blockOf o ∉ [bHIF, bVCH, bATT, bSPL, bCDC, bERR] → off ≠ o := fun o ho e => ho (e ▸ hb)
  have hsts : blockOf off ≠ bSTS := fun e => absurd (e ▸ hb) (by decide)
  unfold refused
  simp only [away R.KVP_SPOOL_BASE (by decide), away R.KVP_SPOOL_FRAMES (by decide), away R.KVP_LPOOL_BASE (by decide),
    away R.KVP_LPOOL_FRAMES (by decide), away R.KVP_FT_BASE (by decide), hsts, away R.STR_D0_SPILL_BASE (by decide),
    away R.STR_D1_SPILL_BASE (by decide), away R.STR_SPILL_SIZE (by decide), away R.RLY_STAGE_BASE (by decide),
    away R.KPR_CKPT_BASE (by decide), away R.KPR_CKPT_SIZE (by decide), away R.LNK_CREDIT (by decide), or_self, and_false, if_false]

/-! ### A whole access (R6, R373, R377) -/

section
variable {off width v hw : Nat} {s : State} {d : RegDef}

theorem regWrite_of_misfit (h32 : ¬ (width = 32 ∧ off % 4 = 0)) (h64 : ¬ (width = 64 ∧ off % 8 = 0)) : regWrite off width v hw s = s := by
  unfold regWrite
  rw [if_pos]
  simp only [Bool.not_eq_true', Bool.or_eq_false_iff, Bool.and_eq_false_iff, beq_eq_false_iff_ne]
  omega

theorem access_fits (hfit : (width = 32 ∧ off % 4 = 0) ∨ (width = 64 ∧ off % 8 = 0)) :
    ((width == 32 && off % 4 == 0) || (width == 64 && off % 8 == 0)) = true := by simpa using hfit

theorem regWrite_of_dark (hfit : (width = 32 ∧ off % 4 = 0) ∨ (width = 64 ∧ off % 8 = 0)) (hold : inHoldfast s = true)
    (hb : blockOf off < 22) (hdark : liveBlock (blockOf off) = false) : regWrite off width v hw s = misuse bERR s := by
  unfold regWrite
  rw [if_neg (by rw [access_fits hfit]; decide), if_pos (by simp [hold, hb, hdark])]

theorem inHoldfast_of_awake (hp : pwrState s < 2) : inHoldfast s = false := by
  simp only [inHoldfast, beq_eq_false_iff_ne]; omega

theorem wakeBlock_of_awake (hp : pwrState s < 2) : wakeBlock off s = s := if_neg (by omega)

theorem regWrite_of_awake (hfit : (width = 32 ∧ off % 4 = 0) ∨ (width = 64 ∧ off % 8 = 0)) (hp : pwrState s < 2) :
    regWrite off width v hw s =
      let r := runParts (accessParts off width v hw) s
      if r.2 then countLocked r.1 else r.1 := by
  unfold regWrite
  rw [if_neg (by rw [access_fits hfit]; decide), if_neg (by simp [inHoldfast_of_awake hp]), wakeBlock_of_awake hp]

theorem halfPart_of_own (h : off % 8 = 4 → isWide (off - 4) = false) : halfPart off v hw = (off, 0xFFFFFFFF, v, hw) :=
  if_neg (by simpa using h)

/-- An access that is no high half of a wide register, and no pair of registers, writes the one register at its offset. -/
theorem accessParts_of_one (h : width = 32 ∧ (off % 8 = 4 → isWide (off - 4) = false) ∨ width = 64 ∧ isWide off = true)
    (hv : v < 2 ^ 64) (hh : hw < 2 ^ 64) : accessParts off width v hw = [(off, 2 ^ width - 1, v % 2 ^ width, hw % 2 ^ width)] := by
  rcases h with ⟨rfl, hhigh⟩ | ⟨rfl, hwide⟩
  · simp [accessParts, halfPart_of_own hhigh]
  · rw [Nat.mod_eq_of_lt hv, Nat.mod_eq_of_lt hh]
    simp [accessParts, hwide]

/-- An access to one register is one part, and counts when it touches a locked field (R375). -/
theorem regWrite_of_one (hp : pwrState s < 2) (halign : width = 32 ∧ off % 4 = 0 ∨ width = 64 ∧ off % 8 = 0 ∧ isWide off = true)
    (hhigh : off % 8 = 4 → isWide (off - 4) = false) (hv : v < 2 ^ 64) (hh : hw < 2 ^ 64) :
    regWrite off width v hw s =
      let t := writePart off (2 ^ width - 1) (v % 2 ^ width) (hw % 2 ^ width) s
      if touchesLocked off (2 ^ width - 1) s then countLocked t else t := by
  rw [regWrite_of_awake (halign.imp_right fun h => ⟨h.1, h.2.1⟩) hp,
    accessParts_of_one (halign.imp (fun h => ⟨h.1, hhigh⟩) fun h => ⟨h.1, h.2.2⟩) hv hh]
  simp only [runParts, Bool.or_false]

/-- An unlocked write to one register, not refused, where the block's map adds nothing: the store by type and the count of set wins. -/
theorem regWrite_of_plain (hp : pwrState s < 2) (halign : width = 32 ∧ off % 4 = 0 ∨ width = 64 ∧ off % 8 = 0 ∧ isWide off = true)
    (hhigh : off % 8 = 4 → isWide (off - 4) = false) (hv : v < 2 ^ 64) (hh : hw < 2 ^ 64) (hd : regAt off = some d)
    (hfree : touchesLocked off (2 ^ width - 1) s = false) (href : ((d.rwl &&& (2 ^ width - 1)) != 0 && refused off s) = false)
    (hfix : ∀ x t t', fixWrite off x t t' = t') :
    regWrite off width v hw s =
      let win := setWins d off (2 ^ width - 1) (v % 2 ^ width) (hw % 2 ^ width) s
      countSetWins (blockOf off) (popCount 64 win) (storeReg d off (2 ^ width - 1) (clearBits (v % 2 ^ width) win) false s) := by
  rw [regWrite_of_one hp halign hhigh hv hh, hfree, writePart_of_plain hd hfree href hfix]
  rfl

/-- A write to locked fields alone is counted and changes nothing else (R375). -/
theorem regWrite_of_locked (hp : pwrState s < 2) (halign : off % 4 = 0) (hhigh : off % 8 = 4 → isWide (off - 4) = false)
    (hv : v < 2 ^ 64) (hh : hw < 2 ^ 64) (hd : regAt off = some d) (hrw : d.rw = 0) (hl : touchesLocked off (2 ^ 32 - 1) s = true) :
    regWrite off 32 v hw s = countLocked s := by
  rw [regWrite_of_one hp (.inl ⟨rfl, halign⟩) hhigh hv hh, hl, writePart_of_locked hd hrw hl]
  rfl

/-- An access that is no high half of a wide register writes at its own offset and at the next word. -/
theorem offset_of_mem_accessParts (hhigh : off % 8 = 4 → isWide (off - 4) = false) {p : Nat × Nat × Nat × Nat}
    (h : p ∈ accessParts off width v hw) : p.1 = off ∨ p.1 = off + 4 := by
  simp only [accessParts, halfPart_of_own hhigh] at h
  split_ifs at h <;> simp only [List.mem_cons, List.not_mem_nil, or_false] at h
  · exact .inl (congrArg Prod.fst h)
  · exact .inl (congrArg Prod.fst h)
  · exact h.symm.imp (congrArg Prod.fst) (congrArg Prod.fst)
  · exact h.imp (congrArg Prod.fst) (congrArg Prod.fst)

theorem runParts_of_unassigned {ps : List (Nat × Nat × Nat × Nat)} (h : ∀ p ∈ ps, regAt p.1 = none) : runParts ps s = (s, false) := by
  induction ps with
  | nil => rfl
  | cons p t ih =>
    obtain ⟨hp, ht⟩ := List.forall_mem_cons.mp h
    simp only [runParts, writePart_of_unassigned hp, touchesLocked_of_unassigned hp, ih ht, Bool.or_false]

/-- Nothing is assigned within reach of the access: it changes nothing (R370). -/
theorem regWrite_of_unassigned (hp : pwrState s < 2) (h0 : regAt off = none) (hlow : regAt (off / 8 * 8) = none)
    (hnext : regAt (off + 4) = none) : regWrite off width v hw s = s := by
  have hhigh : off % 8 = 4 → isWide (off - 4) = false := fun h => by
    rw [show off - 4 = off / 8 * 8 by omega]
    exact isWide_of_unassigned hlow
  by_cases hfit : (width = 32 ∧ off % 4 = 0) ∨ (width = 64 ∧ off % 8 = 0)
  · have hnone : ∀ p ∈ accessParts off width v hw, regAt p.1 = none := fun p hmem => by
      rcases offset_of_mem_accessParts hhigh hmem with e | e <;> rw [e]
      · exact h0
      · exact hnext
    rw [regWrite_of_awake hfit hp, runParts_of_unassigned hnone]
    rfl
  · exact regWrite_of_misfit (fun h => hfit (.inl h)) (fun h => hfit (.inr h))

end

/-! ### Locks (R375) -/

/-- Every lock register has one W1S bit, lies in the block that it locks, and is no high half. -/
theorem lockOf_spec {b off : Nat} (h : lockOf b = some off) :
    blockOf off = b ∧ regAt off = some { base := off, stride := 0, count := 1, width := 32, w1s := 1 } ∧ off % 4 = 0 ∧
      (off % 8 = 4 → isWide (off - 4) = false) := by
  unfold lockOf at h
  split at h <;> cases h <;> decide

/-- No block's map adds anything to a write of its lock register. -/
theorem fixWrite_lock {b off : Nat} (h : lockOf b = some off) (x : Nat) (s t : State) : fixWrite off x s t = t := by
  unfold lockOf at h
  split at h <;> cases h <;> rfl

theorem lockSet_eq_store {b off : Nat} {s : State} (hp : pwrState s < 2) (h : lockOf b = some off) :
    lockSet b s = countSetWins b 0 (storeReg { base := off, stride := 0, count := 1, width := 32, w1s := 1 } off 0xFFFFFFFF 1 false s) := by
  obtain ⟨hb, hd, halign, hhigh⟩ := lockOf_spec h
  have hfree : touchesLocked off (2 ^ 32 - 1) s = false := by simp [touchesLocked, hd]
  simp only [lockSet, h]
  rw [regWrite_of_plain hp (.inl ⟨rfl, halign⟩) hhigh (by decide) (by decide) hd hfree (by simp) (fixWrite_lock h), hb]
  simp [setWins, clearBits, popCount, setPositions]

theorem isLocked_lockSet {b off : Nat} {s : State} (hp : pwrState s < 2) (h : lockOf b = some off) : isLocked b (lockSet b s) = true := by
  simp only [isLocked, h]
  rw [lockSet_eq_store hp h, rbit, rget_countSetWins_zero, testBit_storeReg]
  simp

theorem onlyRegs_lockSet {b off : Nat} {s : State} (hp : pwrState s < 2) (h : lockOf b = some off) : OnlyRegs [off] s (lockSet b s) := by
  rw [lockSet_eq_store hp h]
  refine ⟨?frame, fun o ho => ?other⟩
  case frame => exact countSetWins_frame ..
  case other => rw [rget_countSetWins_zero, rget_storeReg_ne (by simpa using ho)]

/-! ### Reads (R6, R7, R370, R377) -/

/-- The member inserted at a key is the one found there. -/
theorem findKey_insert_self {V : Type} (k : Nat) (v : V) (l : List (Nat × V)) : findKey k (AL.insert k v l) = some v := by
  induction l with
  | nil => simp [AL.insert, findKey]
  | cons p t ih =>
    obtain ⟨j, w⟩ := p
    rcases lt_trichotomy k j with h | rfl | h
    · simp [AL.insert, findKey, h]
    · simp [AL.insert, findKey]
    · have hne : j ≠ k := by omega
      simpa [AL.insert, findKey, hne, Nat.not_lt.mpr h.le, hne.symm] using ih

theorem wide_rows_aligned {b : Nat} : ∀ d ∈ blockRegs b, d.width = 64 → d.base % 8 = 0 ∧ d.stride % 8 = 0 := by
  unfold blockRegs
  split <;> decide

/-- A wide register lies at a multiple of 8. -/
theorem mod_eight_of_isWide {off : Nat} (h : isWide off = true) : off % 8 = 0 := by
  unfold isWide at h
  split at h
  · next d hd =>
    obtain ⟨hbase, hstride⟩ := wide_rows_aligned d (List.mem_of_find?_eq_some hd) (by simpa using h)
    have hhas := List.find?_some hd
    simp only [RegDef.has, Bool.and_eq_true, decide_eq_true_eq] at hhas
    obtain ⟨hle, hrow⟩ := hhas
    split at hrow
    · rw [beq_iff_eq.mp hrow, hbase]
    · simp only [Bool.and_eq_true, decide_eq_true_eq] at hrow
      have hdvd : 8 ∣ off - d.base := (Nat.dvd_of_mod_eq_zero hstride).trans (Nat.dvd_of_mod_eq_zero hrow.1)
      omega
  · cases h

theorem blockOf_add_four {off : Nat} (h : off % 8 = 0) : blockOf (off + 4) = blockOf off := by
  unfold blockOf
  split_ifs <;> omega

section
variable {off : Nat} {s : State}

/-- A read moves no state but the latches. -/
theorem readWord_latches (off : Nat) (s : State) : ∃ l, (readWord off s).2 = { s with latches := l } := by
  unfold readWord
  split_ifs
  · exact ⟨s.latches, rfl⟩
  · exact ⟨s.latches, rfl⟩
  · exact ⟨_, rfl⟩
  · split <;> exact ⟨s.latches, rfl⟩

theorem liveWord_of_unassigned (h0 : regAt off = none) (hlow : regAt (off / 8 * 8) = none)
    (himg : off < imagesBase ∨ imagesBase + 0x200000 ≤ off) (hrec : off < mrecBase ∨ mrecBase + 1024 ≤ off) : liveWord off s = 0 := by
  have hstat : off ≠ R.KVP_STAT := fun e => absurd (e ▸ h0) (by decide)
  unfold liveWord
  rw [if_neg (by omega), if_neg (by omega), if_neg hstat]
  simp only [h0, hlow]

/-- A half that is not latched reads as it stands, or as 0 in Holdfast. -/
theorem readWord_of_unlatched (halign : off % 4 = 0) (hn : isWide off = false)
    (hl : ∀ h, findKey (blockOf off) s.latches = some h → off ≠ h.1 + 4) : (readWord off s).1 = shownWord off s := by
  unfold readWord shownWord
  rw [if_neg (by omega)]
  by_cases hdark : (inHoldfast s && !liveBlock (blockOf off)) = true
  · rw [if_pos hdark, if_pos hdark]
  · rw [if_neg hdark, if_neg hdark, if_neg (by simp [hn])]
    cases hfound : findKey (blockOf off) s.latches with
    | none => rfl
    | some h => exact if_neg (hl h hfound)

theorem readWord_of_unassigned (halign : off % 4 = 0) (h0 : regAt off = none) (hlow : regAt (off / 8 * 8) = none)
    (himg : off < imagesBase ∨ imagesBase + 0x200000 ≤ off) (hrec : off < mrecBase ∨ mrecBase + 1024 ≤ off)
    (hl : ∀ h, findKey (blockOf off) s.latches = some h → off ≠ h.1 + 4) : (readWord off s).1 = 0 := by
  rw [readWord_of_unlatched halign (isWide_of_unassigned h0) hl, shownWord, liveWord_of_unassigned h0 hlow himg hrec, ite_self]

theorem readWord_of_wide (hwide : isWide off = true) (hold : inHoldfast s = false) :
    readWord off s = (liveWord off s, { s with latches := AL.insert (blockOf off) (off, liveWord (off + 4) s) s.latches }) := by
  have halign := mod_eight_of_isWide hwide
  simp [readWord, hold, hwide, show off % 4 = 0 by omega]

/-- The high half reads as its low half has latched it (R7). -/
theorem readWord_of_latched {high : Nat} (halign : off % 4 = 0) (hold : inHoldfast s = false) (hn : isWide (off + 4) = false)
    (hl : findKey (blockOf (off + 4)) s.latches = some (off, high)) : (readWord (off + 4) s).1 = high := by
  simp [readWord, hold, hn, hl, show (off + 4) % 4 = 0 by omega]

end

/-- LOW_HALF_READ by the requester's read. -/
theorem lowHalfRead_of_reaches {r : RegRead} {s : State} (h : reaches r.who s = true) :
    lowHalfRead r s =
      { (readReg r.offset r.width s).2 with out := { (readReg r.offset r.width s).2.out with rdata := (readReg r.offset r.width s).1 } } :=
  if_pos h

section
variable {off width : Nat} {s : State}

theorem readReg_32 (halign : off % 4 = 0) : readReg off 32 s = (leBytes 4 (readWord off s).1, (readWord off s).2) := if_pos ⟨rfl, halign⟩

theorem readReg_64 (halign : off % 8 = 0) : readReg off 64 s = (leBytes 4 (shownWord off s) ++ leBytes 4 (shownWord (off + 4) s), s) := by
  simp [readReg, halign]

theorem readReg_of_misfit (h32 : ¬ (width = 32 ∧ off % 4 = 0)) (h64 : ¬ (width = 64 ∧ off % 8 = 0)) :
    readReg off width s = (List.replicate (width / 8) 0, s) := by
  unfold readReg
  rw [if_neg h32, if_neg h64]

theorem readReg_latches (off width : Nat) (s : State) : ∃ l, (readReg off width s).2 = { s with latches := l } := by
  unfold readReg
  split_ifs
  · exact readWord_latches off s
  · exact ⟨s.latches, rfl⟩
  · exact ⟨s.latches, rfl⟩

end

/-! ### The statement's clauses -/

theorem exec_registerWrite_of_reaches {w : RegWrite} {s : State} (h : reaches w.who s = true) :
    exec (.registerWrite w) s = .next (regWrite w.offset w.width w.value.toNat w.hwSet.toNat s) := congrArg _ (if_pos h)

theorem exec_registerWrite_of_unreached {w : RegWrite} {s : State} (h : reaches w.who s = false) :
    exec (.registerWrite w) s = .next s := congrArg _ (if_neg (by simp [h]))

theorem onlyRegs_rcountSat (o : Nat) (s : State) : OnlyRegs [o] s (rcountSat o s) :=
  ⟨rfl, fun _ hp => rget_rcountSat_ne s (by simpa using hp)⟩

/-- A read of the low half shows it and latches the high half. -/
theorem lowHalfRead_wide {r : RegRead} {s : State} (hr : reaches r.who s = true) (hwidth : r.width = 32) (halign : r.offset % 4 = 0)
    (hwide : isWide r.offset = true) (hold : inHoldfast s = false) :
    (lowHalfRead r s).out.rdata = leBytes 4 (liveWord r.offset s) ∧
      (isWide (r.offset + 4) = false → (readWord (r.offset + 4) (lowHalfRead r s)).1 = liveWord (r.offset + 4) s) := by
  rw [lowHalfRead_of_reaches hr, hwidth, readReg_32 halign, readWord_of_wide hwide hold]
  refine ⟨rfl, fun hn => readWord_of_latched halign hold hn ?_⟩
  rw [blockOf_add_four (mod_eight_of_isWide hwide)]
  exact findKey_insert_self ..

/-- Settles O60: a write access to one register is one plain store by access type, and a wide register's halves share one latch. -/
theorem registersReadAndWriteByType : Obligations.RegistersReadAndWriteByType := by
  unfold Obligations.RegistersReadAndWriteByType
  refine ⟨?store, ?plain, ?locked, ?unassigned, ?misfit, ?dark, ?readsZero, ?lockSet, ?noLock, ?read⟩
  case store =>
    exact fun d off m v i locked s => ⟨testBit_storeReg d off m v i locked s, fun _ ho => rget_storeReg_ne ho .., rfl⟩
  case plain =>
    intro w d s hr hp halign hd hhigh hb hwin hfree
    dsimp only
    refine ⟨_, exec_registerWrite_of_reaches hr, ?_⟩
    rw [regWrite_of_plain hp halign hhigh w.value.isLt w.hwSet.isLt hd hfree (by simp [refused_of_plainBlock hb])
      (fixWrite_of_plainBlock hb hwin)]
    exact ⟨fun _ ho => rget_countSetWins_ne _ _ ho, fun _ ho => rbits_countSetWins _ _ ho, countSetWins_frame ..⟩
  case locked =>
    intro w d s hr hp hwidth halign hd hhigh hrw hl
    refine ⟨countLocked s, ?_, counted_rcountSat s _, onlyRegs_rcountSat _ s⟩
    rw [exec_registerWrite_of_reaches hr, hwidth, regWrite_of_locked hp halign hhigh w.value.isLt w.hwSet.isLt hd hrw hl]
  case unassigned =>
    intro w s hr hp h0 hlow hnext
    rw [exec_registerWrite_of_reaches hr, regWrite_of_unassigned hp h0 hlow hnext]
  case misfit =>
    intro w s h
    cases hr : reaches w.who s with
    | false => exact exec_registerWrite_of_unreached hr
    | true =>
      obtain ⟨h32, h64⟩ := h.resolve_left (by simp [hr])
      rw [exec_registerWrite_of_reaches hr, regWrite_of_misfit h32 h64]
  case dark =>
    intro w s hr hfit hold hb hdark
    rw [exec_registerWrite_of_reaches hr, regWrite_of_dark hfit hold hb hdark]
  case readsZero => exact fun off s halign h0 hlow himg hrec hl => readWord_of_unassigned halign h0 hlow himg hrec hl
  case lockSet => exact fun b off s hp h => ⟨lockSet b.val s, rfl, isLocked_lockSet hp h, onlyRegs_lockSet hp h⟩
  case noLock =>
    intro b s h
    change Host.Outcome.next (lockSet b.val s) = _
    simp only [lockSet, h]
  case read =>
    intro r s
    refine ⟨fun hr => congrArg _ (if_neg (by simp [hr])), fun hr => ⟨lowHalfRead r s, rfl, ?frame, ?word, ?wide, ?both, ?other⟩⟩
    case frame =>
      obtain ⟨l, hl⟩ := readReg_latches r.offset r.width s
      rw [lowHalfRead_of_reaches hr, hl]
    case word => intro hwidth halign; rw [lowHalfRead_of_reaches hr, hwidth, readReg_32 halign]
    case wide => exact lowHalfRead_wide hr
    case both => intro hwidth halign; rw [lowHalfRead_of_reaches hr, hwidth, readReg_64 halign]; exact ⟨rfl, rfl⟩
    case other => intro h32 h64; rw [lowHalfRead_of_reaches hr, readReg_of_misfit h32 h64]; exact ⟨rfl, rfl⟩

end Sys2Proof.Machine
end

section
/-! Every command of the table keeps what `Kept` names (Laws/Kept*.lean): memory and registers stay canonical, the queue of waiting
commands is untouched, and no fuse is undone. One case split over the table, then one step. -/

namespace Sys2Proof.Machine

open Sys2Proof

/-- An outcome is a next state that keeps what `Kept` names. -/
def KeptOut (r : State) (o : Host.Outcome State Fault Refusal) : Prop := ∀ t, o = .next t → Kept r t

theorem keptOut_next {r t : State} (h : Kept r t) : KeptOut r (.next t) := by
  rintro _ ⟨⟩
  exact h

/-- Whatever the command, `exec` keeps what `Kept` names. -/
theorem exec_kept (i : Instr) {r s : State} (h : Kept r s) : KeptOut r (exec i s) := by
  cases i with
  | doorbellWrite _ _ => exact keptOut_next (doorbell_kept h)
  | markerWindowWrite _ _ => exact keptOut_next (markerAsk_kept h)
  | windowAccess _ => exact keptOut_next (windowAccess_kept h)
  | functionLevelReset => exact keptOut_next (flrHere_kept h)
  | pcieLinkChange _ => exact keptOut_next (pcieLinkChange_kept h)
  | perstDeassert => exact keptOut_next (perstDeassert_kept h)
  | hifWinBaseWrite _ => exact keptOut_next (winBaseWrite_kept h)
  | queueEnable _ => exact keptOut_next (queueEnable_kept h)
  | queueDisable _ => exact keptOut_next (queueDisable_kept h)
  | resumeRetry _ => exact keptOut_next (resumeQueue_kept h)
  | resumeSkip _ => exact keptOut_next (resumeQueue_kept h)
  | resumeAbort _ => exact keptOut_next (resumeQueue_kept h)
  | flush _ => exact keptOut_next (flushQueue_kept h)
  | rctlRetry _ _ => exact keptOut_next (rctl_kept h)
  | rctlSkip _ _ => exact keptOut_next (rctl_kept h)
  | rctlAbort _ _ => exact keptOut_next (rctl_kept h)
  | rhaltPop => exact keptOut_next (rhaltPop_kept h)
  | entryHeadCheck _ => exact keptOut_next (headCheck_kept h)
  | commandStart _ => exact keptOut_next (commandStart_kept h)
  | waitTimeout _ => exact keptOut_next (waitTimeout_kept h)
  | commandComplete _ => exact keptOut_next (commandComplete_kept h)
  | markerAdd _ => exact keptOut_next (markerAddRun_kept h)
  | markerSet _ => exact keptOut_next (markerSetRun_kept h)
  | nop _ => exact keptOut_next (nopRun_kept h)
  | snap _ => exact keptOut_next (snapRun_kept h)
  | matmul _ => exact keptOut_next (startMatrix_kept h)
  | matmul2 _ => exact keptOut_next (startMatrix_kept h)
  | gradPair _ => exact keptOut_next (startMatrix_kept h)
  | coreShareStart _ => exact keptOut_next (coreShareStart_kept h)
  | tileFinish _ _ _ => exact keptOut_next (tileFinish_kept h)
  | inject _ _ => exact keptOut_next (inject_kept (rsetBits_kept h))
  | chainTile _ => exact keptOut_next (chainTile_kept h)
  | chainLoad _ => exact keptOut_next (loadRun_kept h)
  | tableLoad _ => exact keptOut_next (loadRun_kept h)
  | vector _ => exact keptOut_next (vectorRun_kept h)
  | attnFwd _ => exact keptOut_next (attnRun_kept (fun _ _ hb => ringBegin_kept hb) (fun _ _ _ _ hr => fwdUnit_kept hr) h)
  | attnBwd _ => exact keptOut_next (attnRun_kept (fun _ _ hb => ringBegin_kept hb) (fun _ _ _ _ hr => bwdUnit_kept hr) h)
  | attnMerge _ => exact keptOut_next (attnRun_kept (fun _ _ hb => dealAttn_kept hb) (fun _ _ _ _ hr => mergeUnit_kept hr) h)
  | attnPaged _ => exact keptOut_next (attnRun_kept (fun _ _ hb => pagedBegin_kept hb) (fun _ _ _ _ hr => pagedUnitRun_kept hr) h)
  | attBatonTimeout _ => exact keptOut_next (attBatonTimeout_kept h)
  | slotOpen _ => exact keptOut_next (pageCmd_kept (fun _ _ hb => slotOpenGo_kept hb) h)
  | slotClose _ => exact keptOut_next (pageCmd_kept (fun _ _ hb => slotCloseGo_kept hb) h)
  | slotFork _ => exact keptOut_next (pageCmd_kept (fun _ _ hb => slotForkGo_kept hb) h)
  | kvWrite _ => exact keptOut_next (pageCmd_kept (fun _ _ hb => kvWriteGo_kept hb) h)
  | slotTrunc _ => exact keptOut_next (pageCmd_kept (fun _ _ hb => slotTruncGo_kept hb) h)
  | pageHint _ => exact keptOut_next (pageCmd_kept (fun _ _ hb => pageHintGo_kept hb) h)
  | ageingSweep => exact keptOut_next (ageingSweep_kept h)
  | pageAgeDone _ _ => exact keptOut_next (finishAge_kept h)
  | pagePrefetch _ _ _ => exact keptOut_next (pagePrefetch_kept h)
  | demandFetch _ _ _ => exact keptOut_next (demandFetch_kept h)
  | kvpEnable => exact keptOut_next (kvpEnable_kept h)
  | patrolScrub _ _ => exact keptOut_next (patrolScrub_kept h)
  | stackTempReport _ _ => exact keptOut_next (stackTempReport_kept h)
  | spillTempReport _ _ => exact keptOut_next (spillTempReport_kept h)
  | atomic _ => exact keptOut_next (atomicRun_kept h)
  | accOpen _ => exact keptOut_next (accOpenRun_kept h)
  | accClose _ => exact keptOut_next (accCloseRun_kept h)
  | bankMv _ _ => exact keptOut_next (bankMvRun_kept h)
  | bankOpt _ _ => exact keptOut_next (bankOptRun_kept h)
  | bankEw _ _ => exact keptOut_next (bankEwRun_kept h)
  | bankCopy _ _ => exact keptOut_next (bankCopyRun_kept h)
  | bankHold => exact keptOut_next (bankHold_kept h)
  | bankHoldDone => exact keptOut_next (bankHoldDone_kept h)
  | bankWake => exact keptOut_next (bankWake_kept h)
  | bankWakeDone => exact keptOut_next (bankWakeDone_kept h)
  | bankBist _ => exact keptOut_next (bankBist_kept h)
  | ringSet _ => exact keptOut_next (ringSetRun_kept h)
  | streamTransferGrant _ => exact keptOut_next (streamTransferGrant_kept h)
  | transferLanded _ _ _ => exact keptOut_next (transferLanded_kept h)
  | deadlockTest _ => exact keptOut_next (deadlockTest_kept h)
  | dma _ => exact keptOut_next (dmaRun_kept h)
  | dmaStart _ => exact keptOut_next (dmaStart_kept h)
  | dmaAbort _ => exact keptOut_next (dmaAbort_kept h)
  | dmaTransferError _ _ _ => exact keptOut_next (dmaTransferError_kept h)
  | dmaComplete _ => exact keptOut_next (dmaComplete_kept h)
  | stashPut _ => exact keptOut_next (stashPutRun_kept h)
  | stashGet _ => exact keptOut_next (stashGetRun_kept h)
  | stashDrop _ => exact keptOut_next (stashDropRun_kept h)
  | stashFillRetry _ => exact keptOut_next (stashFillRetry_kept h)
  | stashBgOffload _ => exact keptOut_next (stashBgOffload_kept h)
  | stashOffloadDone _ => exact keptOut_next (stashOffloadDone_kept h)
  | stsEnable => exact keptOut_next (stsEnable_kept h)
  | expanderBlock _ => exact keptOut_next (expandFront_kept h)
  | genStallTimeout _ => exact keptOut_next (genStallTimeout_kept h)
  | tableImageLoad _ => exact keptOut_next (tableImageLoad_kept h)
  | linkTrain _ _ => exact keptOut_next (linkTrain_kept h)
  | linkTrainTimeout _ => exact keptOut_next (linkTrainTimeout_kept h)
  | identFlit _ _ => exact keptOut_next (identFlitIn_kept h)
  | dataFlit _ _ => exact keptOut_next (dataFlitIn_kept h)
  | idleFlit _ _ => exact keptOut_next (idleFlitIn_kept h)
  | ackTimeout _ => exact keptOut_next (ackTimeout_kept h)
  | laneLoss _ _ => exact keptOut_next (laneLoss_kept h)
  | retrainEnd _ _ => exact keptOut_next (retrainEnd_kept h)
  | lnkRetrain _ => exact keptOut_next (lnkRetrain_kept h)
  | lnkPortEnWrite _ => exact keptOut_next (lnkPortEnWrite_kept h)
  | readTimeout _ => exact keptOut_next (readTimeout_kept h)
  | reductionAdmit => exact keptOut_next (reductionAdmit_kept h)
  | write _ _ => exact keptOut_next (peerWrite_kept h)
  | readReq _ _ => exact keptOut_next (peerRead_kept h)
  | readResp _ _ => exact keptOut_next (readRespIn_kept h)
  | baton _ _ => exact keptOut_next (batonIn_kept h)
  | contrib _ _ => exact keptOut_next (contribIn_kept h)
  | entry _ _ => exact keptOut_next (entryIn_kept h)
  | table _ _ => exact keptOut_next (tableIn_kept h)
  | join _ _ => exact keptOut_next (joinIn_kept h)
  | joined _ _ => exact keptOut_next (joinedIn_kept h)
  | refuse _ _ => exact keptOut_next (refuseIn_kept h)
  | ping _ _ => exact keptOut_next (pingIn_kept h)
  | pong _ _ => exact keptOut_next (pongIn_kept h)
  | mjoin _ _ => exact keptOut_next (mjoinIn_kept h)
  | trigger _ _ => exact keptOut_next (triggerIn_kept h)
  | resend _ _ => exact keptOut_next (resendIn_kept h)
  | accept _ _ => exact keptOut_next (acceptIn_kept h)
  | down _ _ => exact keptOut_next (downIn_kept h)
  | fatal _ _ => exact keptOut_next (fatalIn_kept h)
  | completion _ _ => exact keptOut_next (completionIn_kept h)
  | meter _ _ => exact keptOut_next (meterIn_kept h)
  | meterAck _ _ => exact keptOut_next (meterAckIn_kept h)
  | halt _ _ => exact keptOut_next (haltIn_kept h)
  | resume _ _ => exact keptOut_next (resumeIn_kept h)
  | report _ _ => exact keptOut_next (reportIn_kept h)
  | scale _ _ => exact keptOut_next (scaleIn_kept h)
  | start _ _ => exact keptOut_next (startIn_kept h)
  | cut _ _ => exact keptOut_next (cutIn_kept h)
  | closed _ _ => exact keptOut_next (closedIn_kept h)
  | hold _ _ => exact keptOut_next (holdIn_kept h)
  | release _ _ => exact keptOut_next (releaseIn_kept h)
  | grant _ _ => exact keptOut_next (grantIn_kept h)
  | fail _ _ => exact keptOut_next (failIn_kept h)
  | broadcast _ => exact keptOut_next (broadcastRun_kept h)
  | allGather _ => exact keptOut_next (allGatherRun_kept h)
  | allToAll _ => exact keptOut_next (allToAllRun_kept h)
  | reduce _ => exact keptOut_next (reduceRun_kept h)
  | sourcesReady _ => exact keptOut_next (sourcesReady_kept h)
  | bucketApply => exact keptOut_next (bucketApply_kept h)
  | bucketDeadlineExpiry _ => exact keptOut_next (deadlineExpiry_kept h)
  | relayNoProgress _ => exact keptOut_next (relayNoProgress_kept h)
  | ringPass _ => exact keptOut_next (ringPassRun_kept h)
  | epochFence _ => exact keptOut_next (epochFenceRun_kept h)
  | jobStart _ => exact keptOut_next (jobRun_kept (fun _ _ hb => jobStartRun_kept hb) h)
  | jobSuspend _ => exact keptOut_next (jobRun_kept (fun _ _ hb => jobSuspendRun_kept hb) h)
  | jobResume _ => exact keptOut_next (jobRun_kept (fun _ _ hb => jobResumeRun_kept hb) h)
  | jobRelease _ => exact keptOut_next (jobRun_kept (fun _ _ hb => jobReleaseRun_kept hb) h)
  | jobEnd _ => exact keptOut_next (jobRun_kept (fun _ _ hb => jobEndRun_kept hb) h)
  | reshard _ => exact keptOut_next (jobRun_kept (fun _ _ hb => reshardRun_kept hb) h)
  | remap _ => exact keptOut_next (jobRun_kept (fun _ _ hb => remapRun_kept hb) h)
  | checkpoint _ => exact keptOut_next (jobRun_kept (fun _ _ hb => checkpointRun_kept hb) h)
  | meterCollect _ => exact keptOut_next (jobRun_kept (fun _ _ hb => meterCollectRun_kept hb) h)
  | snapFetch _ => exact keptOut_next (snapFetchRun_kept h)
  | suspendTimeout => exact keptOut_next (suspendTimeout_kept h)
  | formationEnd => exact keptOut_next (formationEnd_kept h)
  | heartbeat => exact keptOut_next (heartbeat_kept h)
  | managerSilence => exact keptOut_next (managerSilence_kept h)
  | cdcOpen _ => exact keptOut_next (cdcOpenRun_kept h)
  | cdcClose _ => exact keptOut_next (cdcCloseRun_kept h)
  | cdcDecode _ => exact keptOut_next (cdcDecodeRun_kept h)
  | cdcEncode _ => exact keptOut_next (cdcEncodeRun_kept h)
  | cdcFlush _ => exact keptOut_next (cdcFlushRun_kept h)
  | codecOutput _ => exact keptOut_next (codecOutput_kept h)
  | inputSample _ => exact keptOut_next (inputSample_kept h)
  | neapReq _ => exact keptOut_next (neapReq_kept h)
  | slackEntry => exact keptOut_next (slackEntry_kept h)
  | tokenRequest _ => exact keptOut_next (tokenRequest_kept h)
  | tokenGrant => exact keptOut_next (tokenGrant_kept h)
  | tokenRelease _ => exact keptOut_next (tokenRelease_kept h)
  | clockTargetWrite _ _ => exact keptOut_next (clockTarget_kept h)
  | sensorRead _ => exact keptOut_next (sensorRead_kept h)
  | holdTimeout => exact keptOut_next (holdTimeout_kept h)
  | holdfastShutdown _ => exact keptOut_next (holdfastShutdown_kept h)
  | triggerIssue => exact keptOut_next (triggerIssue_kept h)
  | snpTrigWrite _ => exact keptOut_next (snpTrigWrite_kept h)
  | snapInEdge _ => exact keptOut_next (snapInEdge_kept h)
  | snapshotBankRelease _ => exact keptOut_next (bankRelease_kept h)
  | meterTick _ => exact keptOut_next (meterTick_kept h)
  | closeNow => exact keptOut_next (kept_ite (closeInterval_kept h) h)
  | ceilReload => exact keptOut_next (kept_ite (checkCeilings_kept h) h)
  | commitSvn => exact keptOut_next (commitSvn_kept h)
  | nstMack _ => exact keptOut_next (nstMack_kept h)
  | recordSigned => exact keptOut_next (recordSigned_kept h)
  | getVersion _ => exact keptOut_next (getVersion_kept h)
  | getCapabilities _ => exact keptOut_next (getCapabilities_kept h)
  | negotiateAlgorithms _ => exact keptOut_next (negotiate_kept h)
  | getDigests _ => exact keptOut_next (getDigests_kept h)
  | getCertificate _ => exact keptOut_next (getCertificate_kept h)
  | challenge _ => exact keptOut_next (challenge_kept h)
  | getMeasurements _ => exact keptOut_next (getMeasurements_kept h)
  | unsupportedRequest _ => exact keptOut_next (unsupportedRequest_kept h)
  | doeAbort => exact keptOut_next (doeAbort_kept h)
  | inputQualified => exact keptOut_next (inputQualified_kept h)
  | inputLoss => exact keptOut_next (inputLoss_kept h)
  | supplyTimeout => exact keptOut_next (supplyTimeout_kept h)
  | modRstN => exact keptOut_next (modRstN_kept h)
  | naustStart => exact keptOut_next (naustStart_kept h)
  | keeperVerify => exact keptOut_next (keeperVerify_kept h)
  | thermalGateOpen => exact keptOut_next (thermalGateOpen_kept h)
  | memoryTrainingDone _ _ => exact keptOut_next (trainingDone_kept h)
  | keeperRelease => exact keptOut_next (keeperRelease_kept h)
  | ready => exact keptOut_next (becomeReady_kept h)
  | read _ _ => exact keptOut_next (busRead_kept h)
  | flashWrite _ _ _ => exact keptOut_next (flashWrite_kept h)
  | flashRead _ _ _ => exact keptOut_next (flashRead_kept h)
  | ceilLoad => exact keptOut_next (busCommand_kept (fun _ hb => kept_ite (setResult_kept (checkCeilings_kept hb)) hb) h)
  | reset _ => exact keptOut_next (busReset_kept h)
  | status => exact keptOut_next (busStatus_kept h)
  | bypass => exact keptOut_next (kept_ite (loadTap_kept h) h)
  | idcode => exact keptOut_next (kept_ite (tapIdcode_kept h) h)
  | samplePreload _ => exact keptOut_next (kept_ite (tapPreload_kept h) h)
  | extest _ => exact keptOut_next (kept_ite (loadTap_kept h) h)
  | lockSet _ => exact keptOut_next (lockSet_kept h)
  | registerWrite _ => exact keptOut_next (kept_ite (regWrite_kept h) h)
  | perstAssert => exact keptOut_next (perstAssert_kept h)
  | hotReset => exact keptOut_next (hotReset_kept h)
  | doeDiscovery _ => exact keptOut_next (doeDiscovery_kept h)
  | pmStateWrite _ => exact keptOut_next (pmState_kept h)
  | resizableBarWrite _ => exact keptOut_next (barSize_kept h)
  | lowHalfRead _ => exact keptOut_next (lowHalfRead_kept h)
  | pageFetchDone _ _ => exact keptOut_next (pageFetchDone_kept h)
  | domainWakeDone _ => exact keptOut_next (domainWakeDone_kept h)
  | frequencyChangeDone _ => exact keptOut_next (frequencyDone_kept h)
  | supplyGood _ => exact keptOut_next (supplyGood_kept h)
  | snapOutPulseEnd => exact keptOut_next (pulseEnd_kept h)

/-- One step keeps what `Kept` names, from the state that holds the rest of the queue on. -/
theorem step_kept {s t : State} (hs : Canonical s) (ht : step s = .next t) : Kept { s with pending := s.pending.tail } t := by
  have hrest : Kept { s with pending := s.pending.tail } { s with pending := s.pending.tail } := Kept.refl hs
  unfold step at ht
  split at ht
  case h_1 hq => cases ht; rw [hq] at hrest ⊢; exact ⟨hs, hq, hrest.opKeys, rfl, le_rfl, le_rfl⟩
  case h_2 c rest hq => rw [hq] at hrest ⊢; exact exec_kept c hrest t ht

/-- Settles O1. -/
theorem stepRunsTheFrontCommand : Obligations.StepRunsTheFrontCommand := by
  unfold Obligations.StepRunsTheFrontCommand
  refine ⟨fun _ _ _ => rfl, fun s hq => ?_⟩
  unfold step
  rw [hq]

/-- Settles O2, from what every command keeps. -/
theorem stepKeepsCanonical : Obligations.StepKeepsCanonical :=
  fun _ _ hs ht => (step_kept hs ht).canonical

/-- Settles O3: the state after reset lists no byte and no register. -/
theorem resetIsCanonical : Obligations.ResetIsCanonical := ⟨⟨rfl, rfl⟩, rfl⟩

/-- Settles O4, from what every command keeps. -/
theorem stepTakesOneCommand : Obligations.StepTakesOneCommand :=
  fun _ _ hs ht => (step_kept hs ht).pending

/-- Settles O5, from what every command keeps. -/
theorem fusesAreNeverUndone : Obligations.FusesAreNeverUndone := by
  intro s t hs ht
  obtain ⟨-, -, hop, hqor, hkeeper, hceil⟩ := step_kept hs ht
  exact ⟨hkeeper, hceil, hop, hqor⟩

end Sys2Proof.Machine
end

section
/-! The shares of a matrix command (R75, R78). Dealing a list round a group hands out every member once (`flatMap_dealt_perm`), so what
the cores get together is, up to order, what each command forms from its undealt list. -/

namespace Sys2Proof.Machine

open Sys2Proof

/-! ### Dealing -/

/-- The classes 0 to n - 1 of a list, one after the other, hold the members of those classes. -/
theorem flatMap_filter_eq_perm {α : Type} (f : α → Nat) (l : List α) (n : Nat) :
    ((List.range n).flatMap fun j => l.filter fun x => f x == j).Perm (l.filter fun x => decide (f x < n)) := by
  induction n with
  | zero => simp
  | succ n ih =>
    rw [List.range_succ, List.flatMap_append, List.flatMap_singleton]
    have hsplit := List.filter_append_perm (fun x => decide (f x < n)) (l.filter fun x => decide (f x < n + 1))
    have hlow : (l.filter fun x => decide (f x < n + 1)).filter (fun x => decide (f x < n)) = l.filter fun x => decide (f x < n) := by
      rw [List.filter_filter]
      exact List.filter_congr fun x _ => by rw [Bool.eq_iff_iff]; simp; omega
    have htop : (l.filter fun x => decide (f x < n + 1)).filter (fun x => !decide (f x < n)) = l.filter fun x => f x == n := by
      rw [List.filter_filter]
      exact List.filter_congr fun x _ => by rw [Bool.eq_iff_iff]; simp; omega
    rw [hlow, htop] at hsplit
    exact (ih.append_right _).trans hsplit

/-- Dealing hands out every unit exactly once. -/
theorem flatMap_dealt_perm {α : Type} {n : Nat} (hn : n ≠ 0) (units : List α) :
    ((List.range n).flatMap fun j => dealt n j units).Perm units := by
  have hall : (units.zipIdx.filter fun x => decide (x.2 % n < n)) = units.zipIdx :=
    List.filter_eq_self.mpr fun x _ => decide_eq_true (Nat.mod_lt _ (Nat.pos_of_ne_zero hn))
  have h := (flatMap_filter_eq_perm (fun x : α × Nat => x.2 % n) units.zipIdx n).map Prod.fst
  rw [hall, List.map_flatMap, List.zipIdx_map_fst] at h
  exact h

/-- What the cores form from their dealt units is what is formed from all the units. -/
theorem flatMap_flatMap_dealt_perm {α β : Type} {n : Nat} (hn : n ≠ 0) (units : List α) (g : α → List β) :
    ((List.range n).flatMap fun j => (dealt n j units).flatMap g).Perm (units.flatMap g) := by
  rw [← List.flatMap_assoc]
  exact (flatMap_dealt_perm hn units).flatMap_right g

/-! ### Tiles -/

/-- A grid listed by its columns holds what it holds listed by its rows. -/
theorem flatMap_map_swap_perm (l m : List Nat) :
    (l.flatMap fun k => m.map fun t => (t, k)).Perm (m.flatMap fun t => l.map fun k => (t, k)) := by
  rw [← Multiset.coe_eq_coe]
  simpa only [Multiset.coe_bind, Multiset.map_coe] using
    Multiset.bind_map_comm (l : Multiset Nat) (m : Multiset Nat) (f := fun k t => (t, k))

/-- The even columns of a row, then the odd ones, are all its columns: MATMUL's strips are pairs of columns (R75). -/
theorem even_append_odd_perm (nt : Nat) :
    ((List.range ((nt + 1) / 2)).map (fun k => 2 * k) ++
      ((List.range ((nt + 1) / 2)).filter (fun k => decide (2 * k + 1 < nt))).map (fun k => 2 * k + 1)).Perm (List.range nt) := by
  refine (List.perm_ext_iff_of_nodup (List.Nodup.append ?_ ?_ ?_) List.nodup_range).mpr fun c => ?_
  · exact List.nodup_range.map fun a b h => by simpa using h
  · exact (List.nodup_range.filter _).map fun a b h => by simpa using h
  · intro c heven hodd
    simp only [List.mem_map] at heven hodd
    omega
  · simp only [List.mem_append, List.mem_map, List.mem_filter, List.mem_range, decide_eq_true_eq]
    constructor
    · omega
    · intro hc
      rcases Nat.even_or_odd' c with ⟨k, rfl | rfl⟩
      · exact .inl ⟨k, by omega, rfl⟩
      · exact .inr ⟨k, by omega, rfl⟩

/-- MATMUL's strips, each a pair of columns of a tile row: (row, number of the pair). -/
def matmulStrips (rows cols : Nat) : List (Nat × Nat) :=
  (List.range (tilesAlong rows)).flatMap fun m => (List.range ((tilesAlong cols + 1) / 2)).map fun k => (m, k)

/-- The two arrays' columns of MATMUL's strips are the tiles of the output. -/
theorem matmulStrips_perm_allTiles (rows cols : Nat) :
    ((matmulStrips rows cols).map (fun x : Nat × Nat => (x.1, 2 * x.2)) ++
      ((matmulStrips rows cols).filter (fun x : Nat × Nat => decide (2 * x.2 + 1 < tilesAlong cols))).map (fun x : Nat × Nat => (x.1, 2 * x.2 + 1))).Perm
      (allTiles rows cols) := by
  unfold matmulStrips
  rw [List.map_flatMap, List.filter_flatMap, List.map_flatMap]
  refine (List.flatMap_append_perm ..).trans (List.Perm.flatMap_left _ fun m _ => ?_)
  have h := (even_append_odd_perm (tilesAlong cols)).map fun c => (m, c)
  simpa [List.filter_map, Function.comp_def] using h

/-! ### The shares of each command -/

section
variable {b : Bytes}

theorem shareTiles_of_matmul2 (h : opOfBytes b = some .matmul2) (j : Nat) : shareTiles b j =
    (dealt (coreCount b) j (allTiles (matrixProd b false).rows (matrixProd b false).cols),
     dealt (coreCount b) j (allTiles (matrixProd b true).rows (matrixProd b true).cols)) := by
  simp only [shareTiles, h]

theorem shareTiles_of_gradPair (h : opOfBytes b = some .gradPair) (j : Nat) : shareTiles b j =
    ((dealt (coreCount b) j (List.range (tilesAlong (matrixProd b false).cols))).flatMap
        (fun k => (List.range (tilesAlong (matrixProd b false).rows)).map (fun t => (t, k))),
     (dealt (coreCount b) j (List.range (tilesAlong (matrixProd b false).cols))).flatMap
        (fun k => (List.range (tilesAlong (matrixProd b true).cols)).map (fun i => (k, i)))) := by
  simp only [shareTiles, h]

theorem shareTiles_of_matmul (h : opOfBytes b = some .matmul) (j : Nat) :
    let p := matrixProd b false
    let mine := dealt (coreCount b) j (matmulStrips p.rows p.cols)
    shareTiles b j = (mine.map (fun x => (x.1, 2 * x.2)),
      (mine.filter (fun x => decide (2 * x.2 + 1 < tilesAlong p.cols))).map (fun x => (x.1, 2 * x.2 + 1))) := by
  simp only [shareTiles, h, matmulStrips]

end

/-- Settles O25: each list that a command deals comes back whole, and the grid that it forms is the output's. -/
theorem sharesHoldEveryTileOnce : Obligations.SharesHoldEveryTileOnce := by
  intro b hn pa pb onA onB
  refine ⟨fun h => ?matmul, fun h => ⟨?matmul2A, ?matmul2B⟩, fun h => ⟨?gradA, ?gradB⟩⟩
  case matmul =>
    have hdeal := flatMap_dealt_perm hn (matmulStrips pa.rows pa.cols)
    have hA := hdeal.map fun x => (x.1, 2 * x.2)
    have hB := (hdeal.filter fun x => decide (2 * x.2 + 1 < tilesAlong pa.cols)).map fun x => (x.1, 2 * x.2 + 1)
    rw [List.map_flatMap] at hA
    rw [List.filter_flatMap, List.map_flatMap] at hB
    simpa only [onA, onB, shareTiles_of_matmul h] using (hA.append hB).trans (matmulStrips_perm_allTiles ..)
  case matmul2A => simpa only [onA, shareTiles_of_matmul2 h] using flatMap_dealt_perm hn _
  case matmul2B => simpa only [onB, shareTiles_of_matmul2 h] using flatMap_dealt_perm hn _
  case gradA =>
    simpa only [onA, shareTiles_of_gradPair h, allTiles] using (flatMap_flatMap_dealt_perm hn _ _).trans (flatMap_map_swap_perm ..)
  case gradB => simpa only [onB, shareTiles_of_gradPair h] using flatMap_flatMap_dealt_perm hn _ _

end Sys2Proof.Machine
end

section
/-! Markers and their arms, marker windows and doorbells (R22, R26, R33, R39). -/

namespace Sys2Proof.Machine

open Sys2Proof

/-! ### Arms on a marker (R39) -/

/-- A member that does not read as the default is listed. -/
theorem AL.mem_of_get_ne {V : Type} {d : V} {k : Nat} : ∀ {l : List (Nat × V)}, AL.get d k l ≠ d → (k, AL.get d k l) ∈ l
  | [], h => absurd rfl h
  | (j, v) :: t, h => by
    by_cases hj : j = k
    · simp [AL.get, hj]
    · simp only [AL.get, if_neg hj] at h ⊢
      exact List.mem_cons_of_mem _ (AL.mem_of_get_ne h)

/-- No register of the queue front end comes out of reset with bit 63 set. -/
theorem testBit_63_resetOf {o : Nat} (h : blockOf o = 1) : (resetOf o).testBit 63 = false := by
  have hall : ∀ d ∈ regsQFE, d.reset.testBit 63 = false := by decide
  unfold resetOf regAt
  rw [h]
  cases hf : (blockRegs 1).find? (·.has o) with
  | none => rfl
  | some d => exact hall d (List.mem_of_find?_eq_some hf)

/-- An arm that is armed on marker m is among the arms that are looked at when the marker's count is put. -/
theorem mem_armsOf {m i : Nat} {s : State} (hi : i < numArms) (hm : rbits (R.QFE_MARM i) 11 0 s = m)
    (harmed : bitAt (rget (R.QFE_MARM i) s) 63 = true) : i ∈ armsOf m s := by
  have hlisted : (R.QFE_MARM i, rget (R.QFE_MARM i) s) ∈ s.regs := by
    refine AL.mem_of_get_ne fun heq => ?_
    have hreset := testBit_63_resetOf (o := R.QFE_MARM i) (by simp only [blockOf, R.QFE_MARM, numArms] at *; split <;> omega)
    unfold bitAt rget at harmed
    rw [heq, hreset] at harmed
    cases harmed
  refine List.mem_filterMap.mpr ⟨_, hlisted, ?_⟩
  have hrange : R.QFE_MARM 0 ≤ R.QFE_MARM i ∧ R.QFE_MARM i < R.QFE_MARM numArms := by simp only [R.QFE_MARM, numArms] at *; omega
  rw [if_pos ⟨hrange.1, hrange.2, harmed, hm⟩]
  congr 1
  simp only [R.QFE_MARM]
  omega

/-- An arm looks at marker counts alone. -/
theorem armReady_congr {v : Nat} {s t : State} (h : t.markers = s.markers) : armReady v t = armReady v s := by
  simp only [armReady, markerCount, h]

/-- An arm that is not armed does not fire. -/
theorem armReady_of_not_armed {v : Nat} {s : State} (h : bitAt v 63 = false) : armReady v s = false := by
  simp [armReady, h]

theorem fireArm_markers (j : Nat) (s : State) : (fireArm j s).markers = s.markers := by
  obtain ⟨⟨r, o, p, e⟩, -⟩ := fireArm_frame s j
  rw [e]

/-- Is arm i armed and satisfied? -/
def armFires (i : Nat) (s : State) : Bool := armReady (rget (R.QFE_MARM i) s) s

/-- An arm that has been looked at is not armed and satisfied any more. -/
theorem armFires_fireArm_self (i : Nat) (s : State) : armFires i (fireArm i s) = false := by
  unfold armFires fireArm
  split
  · refine armReady_of_not_armed ?_
    rw [rget_raiseVector]
    exact (rbit_rclrBit s (R.QFE_MARM i) 63 63).trans (by simp)
  · rename_i h
    exact Bool.eq_false_iff.mpr h

/-- Looking at one arm leaves an arm that does not fire as one that does not fire. -/
theorem armFires_fireArm {i : Nat} (j : Nat) {s : State} (h : armFires i s = false) : armFires i (fireArm j s) = false := by
  by_cases hij : i = j
  · subst hij; exact armFires_fireArm_self i s
  · obtain ⟨-, hframe⟩ := fireArm_frame s j
    have hreg : rget (R.QFE_MARM i) (fireArm j s) = rget (R.QFE_MARM i) s := hframe _ (by simp only [R.QFE_MARM]; omega)
    unfold armFires at h ⊢
    rw [hreg, armReady_congr (fireArm_markers j s), h]

/-- Once arms have been looked at, one among them, or one that did not fire before, does not fire. -/
theorem armFires_foldl {i : Nat} : ∀ (l : List Nat) (s : State), i ∈ l ∨ armFires i s = false →
    armFires i (l.foldl (fun t j => fireArm j t) s) = false
  | [], _, h => h.resolve_left (by simp)
  | j :: l, s, h => by
    rw [List.foldl_cons]
    refine armFires_foldl l _ ?_
    rcases h with h | h
    · rcases List.mem_cons.mp h with rfl | h
      · exact .inr (armFires_fireArm_self i s)
      · exact .inl h
    · exact .inr (armFires_fireArm j h)

/-- Settles O8: an armed arm on the marker is looked at, and an arm that is not armed does not fire. -/
theorem satisfiedArmsFire : Obligations.SatisfiedArmsFire := by
  intro m v i s hi hm
  refine armFires_foldl _ _ ?_
  cases harmed : bitAt (rget (R.QFE_MARM i) s) 63 with
  | true => exact .inl (mem_armsOf hi hm harmed)
  | false => exact .inr (armReady_of_not_armed harmed)

/-! ### Adding and setting (R33) -/

/-- A change of the power state shows in PWR_STAT and PWR_EVT and may raise a vector. -/
theorem setPwrState_frame (v : Nat) (s : State) :
    (∃ r o p, setPwrState v s = { s with regs := r, out := o, pcie := p }) ∧
    ∀ o, o ≠ R.PWR_STAT → o ≠ R.PWR_EVT → rget o (setPwrState v s) = rget o s := by
  unfold setPwrState
  split
  · exact ⟨⟨s.regs, s.out, s.pcie, rfl⟩, fun _ _ _ => rfl⟩
  · refine ⟨?_, fun o hstat hevt => ?_⟩
    · obtain ⟨o, p, e⟩ := raiseVector_frame (rsetBit R.PWR_EVT 0 (rsetBits R.PWR_STAT 1 0 v s)) 132
      exact ⟨_, o, p, e⟩
    · rw [rget_raiseVector, rget_rsetBit_ne _ hevt, rget_rsetBits_ne _ hstat]

/-- Leaving Slack changes the power state's registers, what the power unit holds, and interrupts. -/
theorem leaveSlack_frame (s : State) :
    { leaveSlack s with regs := s.regs, power := s.power, out := s.out, pcie := s.pcie } = s ∧
    ∀ o, o ≠ R.PWR_STAT → o ≠ R.PWR_EVT → rget o (leaveSlack s) = rget o s := by
  unfold leaveSlack
  split
  · obtain ⟨⟨r, o, p, e⟩, hregs⟩ := setPwrState_frame (if neapDue s then 1 else 0) s
    exact ⟨by rw [e], hregs⟩
  · exact ⟨rfl, fun _ _ _ => rfl⟩

@[simp] theorem leaveSlack_mem (s : State) : (leaveSlack s).mem = s.mem :=
  (congrArg State.mem (leaveSlack_frame s).1 :)
@[simp] theorem leaveSlack_undef (s : State) : (leaveSlack s).undef = s.undef :=
  (congrArg State.undef (leaveSlack_frame s).1 :)
@[simp] theorem leaveSlack_markers (s : State) : (leaveSlack s).markers = s.markers :=
  (congrArg State.markers (leaveSlack_frame s).1 :)

theorem markerCount_leaveSlack (n : Nat) (s : State) : markerCount n (leaveSlack s) = markerCount n s := by
  simp only [markerCount, leaveSlack_markers]

theorem byteAt_leaveSlack (a : Nat) (s : State) : byteAt a (leaveSlack s) = byteAt a s := by
  simp only [byteAt, undefAt, leaveSlack_mem, leaveSlack_undef]

theorem markerCount_markerInc (m v n : Nat) (s : State) :
    markerCount n (markerInc m v s) = if n = m then (markerCount n s + v) % 2 ^ 32 else markerCount n s := by
  unfold markerInc
  rw [markerCount_markerPut]
  split
  · subst n; rfl
  · rfl

theorem markerAddRun_of_running {c : Nat} {s : State} {x : Started} (h : runningCmd c .markerAdd s = some x) :
    markerAddRun c s = markDone c (markerInc (markerOf x.bytes) (u x.bytes 20 4) s) := by
  simp only [markerAddRun, h]

theorem markerSetRun_of_running {c : Nat} {s : State} {x : Started} (h : runningCmd c .markerSet s = some x) :
    markerSetRun c s = markDone c (markerPut (markerOf x.bytes) (u x.bytes 20 4) s) := by
  simp only [markerSetRun, h]

/-- A started command whose marker has been put, and which is then complete: its own completion, memory and registers. -/
theorem markDone_markerPut {c m v : Nat} {s : State} {x : Started} (hx : startedAt c s = some x) :
    startedAt c (markDone c (markerPut m v s)) = some { x with state := .done } ∧
    (∀ a, byteAt a (markDone c (markerPut m v s)) = byteAt a s) ∧
    (∀ o, (∀ i < numArms, o ≠ R.QFE_MARM i) → rget o (markDone c (markerPut m v s)) = rget o s) := by
  refine ⟨startedAt_markDone ?_, byteAt_markerPut s m v, (markerPut_frame s m v).2⟩
  unfold startedAt
  rw [started_markerPut]
  exact hx

/-- Settles O7: every add and set is one `markerPut`, whose frame is known; a host's write leaves Slack before it. -/
theorem markersAddAndSet : Obligations.MarkersAddAndSet := by
  unfold Obligations.MarkersAddAndSet
  refine ⟨fun c s x hx => ?add, fun c s x hx => ?set, fun m v s hhost hhold => ?host, fun m v s hkeeper hhold => ?keeper,
    fun r m v s hhold => ?holdfast⟩
  case add =>
    exact ⟨_, congrArg Host.Outcome.next (markerAddRun_of_running hx), fun n => markerCount_markerInc ..,
      markDone_markerPut (startedAt_of_runningCmd hx)⟩
  case set =>
    exact ⟨_, congrArg Host.Outcome.next (markerSetRun_of_running hx), fun n => markerCount_markerPut ..,
      markDone_markerPut (startedAt_of_runningCmd hx)⟩
  case host =>
    refine ⟨markerInc m.val v.toNat (leaveSlack s), congrArg Host.Outcome.next ?_, fun n => ?_, fun a => ?_, fun o harms hstat hevt => ?_⟩
    · simp [markerAsk, markerWindow, hhost, hhold]
    · rw [markerCount_markerInc, markerCount_leaveSlack]
    · rw [markerInc, byteAt_markerPut, byteAt_leaveSlack]
    · rw [markerInc, (markerPut_frame _ _ _).2 o harms, (leaveSlack_frame s).2 o hstat hevt]
  case keeper =>
    refine ⟨markerInc m.val v.toNat s, congrArg Host.Outcome.next ?_, fun n => markerCount_markerInc .., fun a => byteAt_markerPut ..,
      (markerPut_frame _ _ _).2⟩
    simp [markerAsk, hkeeper, hhold]
  case holdfast => cases r <;> exact congrArg Host.Outcome.next (by simp [markerAsk, markerWindow, hhold])

/-! ### Doorbells (R26) -/

/-- What a doorbell needs to move the tail, as the state of its queue gives it. -/
theorem doorbell_of_good {q v : Nat} {s : State} (hhost : hostDecodes s = true) (hhold : inHoldfast s = false) (hq : qState q s ≠ 0)
    (hv : tailOk q v s = true) : doorbell q v s = leaveSlack (rset (R.QFE_Qn_TAIL q) v s) := by
  simp [doorbell, hhost, hhold, hq, hv]

theorem doorbell_of_bad {q v : Nat} {s : State} (hhost : hostDecodes s = true) (hhold : inHoldfast s = false)
    (hbad : qState q s = 0 ∨ tailOk q v s = false) : doorbell q v s = rejectDoorbell q s := by
  rcases hbad with h | h <;> simp [doorbell, hhost, hhold, h]

theorem tailOk_iff {q v : Nat} {s : State} : tailOk q v s = true ↔
    v < ringSize q s ∧ (qTail q s + ringSize q s - qHead q s) % ringSize q s ≤ (v + ringSize q s - qHead q s) % ringSize q s := by
  simp [tailOk]

/-- A rejected doorbell sets DB_ERR, counts as misuse, and changes nothing else. -/
theorem rejectDoorbell_effect (q : Qn) (s : State) : rbit (R.QFE_Qn_STAT q.val) 9 (rejectDoorbell q.val s) = true ∧
    Counted R.QFE_MISUSE s (rejectDoorbell q.val s) ∧ OnlyRegs [R.QFE_Qn_STAT q.val, R.QFE_MISUSE] s (rejectDoorbell q.val s) := by
  have hne : R.QFE_Qn_STAT q.val ≠ R.QFE_MISUSE := by have := q.isLt; simp only [R.QFE_Qn_STAT, R.QFE_MISUSE]; omega
  obtain ⟨hcount, -, hother⟩ := misuse_counts (rsetBit (R.QFE_Qn_STAT q.val) 9 s) (b := bQFE) rfl
  refine ⟨?_, ?_, rfl, fun o ho => ?_⟩
  · unfold rejectDoorbell rbit
    rw [hother _ (by simpa using hne)]
    exact (rbit_rsetBit s (R.QFE_Qn_STAT q.val) 9 9).trans (by simp)
  · unfold Counted rbits at hcount ⊢
    rwa [rget_rsetBit_ne _ hne.symm] at hcount
  · simp only [List.mem_cons, List.not_mem_nil, or_false, not_or] at ho
    unfold rejectDoorbell
    rw [hother _ (by simpa using ho.2), rget_rsetBit_ne _ ho.1]

/-- Settles O6: R26's condition is the one that the doorbell tests. -/
theorem doorbellMovesTheTailOrIsRejected : Obligations.DoorbellMovesTheTailOrIsRejected := by
  unfold Obligations.DoorbellMovesTheTailOrIsRejected
  refine ⟨fun q v s hhost hhold => ⟨fun ⟨hq, hlt, hle⟩ => ?moved, fun hbad => ?rejected⟩, fun q v s hhold => ?holdfast⟩
  case moved => exact congrArg Host.Outcome.next (doorbell_of_good hhost hhold hq (tailOk_iff.mpr ⟨hlt, hle⟩))
  case rejected =>
    have hreject : doorbell q.val v.toNat s = rejectDoorbell q.val s := by
      refine doorbell_of_bad hhost hhold ?_
      by_cases hq : qState q.val s = 0
      · exact .inl hq
      · exact .inr (Bool.eq_false_iff.mpr fun hv => hbad ⟨hq, tailOk_iff.mp hv⟩)
    exact ⟨_, congrArg Host.Outcome.next hreject, rejectDoorbell_effect q s⟩
  case holdfast => exact congrArg Host.Outcome.next (by simp [doorbell, hhold])

end Sys2Proof.Machine
end

section
/-! What sending and writing leave as it was. A write of an engine reaches memory, an accumulator region or a port, and of the
registers the capture of an unmapped address and the flit counts of the ports alone. -/

namespace Sys2Proof.Machine

open Sys2Proof

/-- What a message that is sent, a write of memory and a vector leave as it was. -/
structure WriteKeeps (s t : State) : Prop where
  rest : { t with regs := s.regs, mem := s.mem, poison := s.poison, undef := s.undef, touched := s.touched, acc := s.acc,
                  ports := s.ports, out := s.out, pcie := s.pcie } = s
  regs : ∀ o, o ≠ R.MEM_EVT → o ≠ R.MEM_UNMAPPED → (∀ p, o ≠ R.LNK_Lnn_TXFLITS p) → rget o t = rget o s

namespace WriteKeeps

variable {s t w : State}

protected theorem refl (s : State) : WriteKeeps s s := ⟨rfl, fun _ _ _ _ => rfl⟩

theorem trans (h : WriteKeeps s t) (g : WriteKeeps t w) : WriteKeeps s w := by
  refine ⟨?_, fun o a b c => (g.regs o a b c).trans (h.regs o a b c)⟩
  have hw := congrArg (fun x : State =>
    { x with regs := s.regs, mem := s.mem, poison := s.poison, undef := s.undef, touched := s.touched, acc := s.acc,
             ports := s.ports, out := s.out, pcie := s.pcie }) g.rest
  exact hw.trans h.rest

theorem queues (h : WriteKeeps s t) : t.queues = s.queues := (congrArg State.queues h.rest :)
theorem started (h : WriteKeeps s t) : t.started = s.started := (congrArg State.started h.rest :)
theorem keeper (h : WriteKeeps s t) : t.keeper = s.keeper := (congrArg State.keeper h.rest :)
theorem markers (h : WriteKeeps s t) : t.markers = s.markers := (congrArg State.markers h.rest :)
theorem fwds (h : WriteKeeps s t) : t.fwds = s.fwds := (congrArg State.fwds h.rest :)

/-- The registers of the blocks before the memory's are as they were. -/
theorem low (h : WriteKeeps s t) {o : Nat} (ho : o < 0x700000) : rget o t = rget o s :=
  h.regs o (by simp only [R.MEM_EVT]; omega) (by simp only [R.MEM_UNMAPPED]; omega)
    (fun p => by simp only [R.LNK_Lnn_TXFLITS]; omega)

theorem qx (h : WriteKeeps s t) (q : Nat) : Machine.qx q t = Machine.qx q s := by simp only [Machine.qx, h.queues]

theorem foldl {α : Type} {f : State → α → State} (hf : ∀ t x, WriteKeeps t (f t x)) :
    ∀ (l : List α) (s : State), WriteKeeps s (l.foldl f s)
  | [], s => .refl s
  | x :: l, s => (hf s x).trans (foldl hf l (f s x))

end WriteKeeps

theorem raiseVector_writeKeeps (v : Nat) (s : State) : WriteKeeps s (raiseVector v s) := by
  obtain ⟨o, p, e⟩ := raiseVector_frame s v
  exact ⟨by rw [e], fun o _ _ _ => rget_raiseVector s o v⟩

/-! ### Messages -/

theorem pumpOne_writeKeeps {p : Nat} {s t : State} (h : pumpOne p s = some t) : WriteKeeps s t := by
  unfold pumpOne at h
  dsimp only at h
  split at h
  · cases h
  split at h
  · cases h
  split at h
  · cases h
    refine ⟨by simp [rcount, rcountBy, emitFlit], fun o _ _ ho => ?_⟩
    rw [rget_rcount_ne _ (ho p)]
    rfl
  · cases h

theorem pump_writeKeeps (p : Nat) : ∀ (n : Nat) (s : State), WriteKeeps s (pump p n s)
  | 0, s => .refl s
  | n + 1, s => by
    unfold pump
    split
    · exact .refl s
    · exact (pumpOne_writeKeeps ‹_›).trans (pump_writeKeeps p n _)

theorem sendOn_writeKeeps (p : Nat) (m : Msg) (s : State) : WriteKeeps s (sendOn p m s) := by
  refine WriteKeeps.trans (t := setPortx p _ { s with out := _ }) ⟨rfl, fun _ _ _ _ => rfl⟩ (pump_writeKeeps p _ _)

theorem sendMsg_writeKeeps {m : Msg} {s t : State} (h : sendMsg m s = some t) : WriteKeeps s t := by
  unfold sendMsg at h
  split at h
  · cases h; exact .refl s
  split at h
  · cases h; exact sendOn_writeKeeps ..
  · cases h

theorem sendCtrl_writeKeeps (type dm d : Nat) (data : Bytes) (s : State) : WriteKeeps s (sendCtrl type dm d data s) := by
  unfold sendCtrl
  cases h : sendMsg (ctrlMsg s type dm d data) s with
  | none => exact .refl s
  | some t => exact sendMsg_writeKeeps h

/-! ### Writes -/

theorem captureUnmapped_writeKeeps (a : Nat) (s : State) : WriteKeeps s (captureUnmapped a s) := by
  unfold captureUnmapped
  split
  · exact .refl s
  · exact ⟨rfl, fun o hevt hun _ => by rw [rget_rsetBit_ne _ hevt, rget_rset_ne _ hun]⟩

theorem captureReach_writeKeeps (a : Nat) (s : State) : WriteKeeps s (captureReach a s) := by
  unfold captureReach
  split
  · exact captureUnmapped_writeKeeps a s
  · exact .refl s

theorem storeBytes_writeKeeps (a : Nat) (b : Bytes) (bad : Bool) (s : State) : WriteKeeps s (storeBytes a b bad s) :=
  ⟨rfl, fun _ _ _ _ => rfl⟩

theorem writeIn_writeKeeps (a : Nat) (b : Bytes) (bad : Bool) (s : State) : WriteKeeps s (writeIn a b bad s).s := by
  unfold writeIn
  split
  case h_1 => exact storeBytes_writeKeeps ..
  case h_2 =>
    split
    · exact .refl s
    · split
      · exact .refl s
      · exact ⟨rfl, fun _ _ _ _ => rfl⟩
  case h_3 =>
    split
    · exact .refl s
    · exact sendMsg_writeKeeps ‹_›
  case h_4 => exact captureUnmapped_writeKeeps a s

theorem writeMem_writeKeeps (a : Nat) (b : Bytes) (bad : Bool) (s : State) : WriteKeeps s (writeMem a b s bad).s := by
  unfold writeMem
  split
  · exact captureReach_writeKeeps ..
  split
  · exact .refl s
  split
  · exact writeIn_writeKeeps ..
  dsimp only
  split
  · exact writeIn_writeKeeps ..
  · exact (writeIn_writeKeeps ..).trans (writeIn_writeKeeps ..)

theorem poke_writeKeeps (a : Nat) (b : Bytes) (s : State) : WriteKeeps s (poke a b s) := writeMem_writeKeeps a b false s

/-- A completion record is a write and a vector, or a message to the manager. -/
theorem writeRecord_writeKeeps (q : Nat) (f : Flight) (status unit detail : Nat) (s : State) :
    WriteKeeps s (writeRecord q f status unit detail s) := by
  unfold writeRecord
  dsimp only
  split
  · exact sendCtrl_writeKeeps ..
  split
  · exact (poke_writeKeeps ..).trans (raiseVector_writeKeeps ..)
  · exact poke_writeKeeps ..

end Sys2Proof.Machine
end

section
/-! Queues that are enabled, disabled, resumed and flushed (R36, R37, R41, R387, R389). -/

namespace Sys2Proof.Machine

open Sys2Proof

/-! ### Shared operations of a queue -/

theorem rget_congr {s t : State} (h : t.regs = s.regs) (o : Nat) : rget o t = rget o s := by
  simp only [rget, h]

theorem qx_congr {s t : State} (h : t.queues = s.queues) (q : Nat) : qx q t = qx q s := by
  simp only [qx, h]

@[simp] theorem qx_setQState (q p v : Nat) (s : State) : qx q (setQState p v s) = qx q s := rfl

@[simp] theorem qState_setQx (q p : Nat) (x : QueueX) (s : State) : qState q (setQx p x s) = qState q s := rfl

/-- A queue's own state is in the list of queues alone. -/
theorem setQx_frame (q : Nat) (x : QueueX) (s : State) : { setQx q x s with queues := s.queues } = s := rfl

theorem qState_setQState {v : Nat} (s : State) (q : Nat) (hv : v < 8) : qState q (setQState q v s) = v := by
  unfold qState setQState
  rw [rbits_rsetBits_self _ _ _ _ _ (by decide)]
  omega

/-- What `working` looks at. -/
theorem working_congr {q : Nat} {s t : State} (hst : t.started = s.started)
    (hsent : (qx q t).flights.any (·.sent) = (qx q s).flights.any (·.sent)) : working q t = working q s := by
  simp only [working, hst, hsent]

/-- A queue that is not closing and on which no FLUSH waits has nothing to settle. -/
theorem settleQueue_of_idle {q : Nat} {s : State} (hclosing : (qx q s).closing = false) (hflush : (qx q s).flush = false) :
    settleQueue q s = s := by
  simp [settleQueue, hclosing, hflush]

/-- A closing queue with something at work waits for it (R389). -/
theorem settleQueue_of_working {q : Nat} {s : State} (hclosing : (qx q s).closing = true) (hwork : working q s = true) :
    settleQueue q s = s := by
  simp [settleQueue, hclosing, hwork]

/-- A closing queue with nothing at work ends (R389). -/
theorem settleQueue_of_closed {q : Nat} {s : State} (hclosing : (qx q s).closing = true) (hq : qState q s ≠ 0)
    (hwork : working q s = false) : settleQueue q s = closeQueue q s := by
  simp [settleQueue, hclosing, hwork, hq]

/-- A queue that has gone to DISABLED shows no halt, and its ENABLE reads 0. -/
theorem disableQueue_shows (q : Nat) (s : State) : rbit (R.QFE_Qn_CTL q) 0 (disableQueue q s) = false ∧
    rget (R.QFE_Qn_HALT q) (disableQueue q s) = 0 ∧ qState q (disableQueue q s) = 0 ∧ qx q (disableQueue q s) = {} ∧
    ∀ o, o ∉ [R.QFE_Qn_STAT q, R.QFE_Qn_CTL q, R.QFE_Qn_HALT q] → rget o (disableQueue q s) = rget o s := by
  have hctl : R.QFE_Qn_CTL q ≠ R.QFE_Qn_STAT q := by simp only [R.QFE_Qn_CTL, R.QFE_Qn_STAT]; omega
  have hctl' : R.QFE_Qn_CTL q ≠ R.QFE_Qn_HALT q := by simp only [R.QFE_Qn_CTL, R.QFE_Qn_HALT]; omega
  have hhalt : R.QFE_Qn_HALT q ≠ R.QFE_Qn_STAT q := by simp only [R.QFE_Qn_HALT, R.QFE_Qn_STAT]; omega
  have hall (o : Nat) : rget o (disableQueue q s) =
      rget o (rsetBits (R.QFE_Qn_STAT q) 7 0 0 (rset (R.QFE_Qn_HALT q) 0 (rclrBit (R.QFE_Qn_CTL q) 0 s))) := rget_congr (setQx_regs ..) o
  have hregs (o : Nat) (ho : o ≠ R.QFE_Qn_STAT q) : rget o (disableQueue q s) =
      rget o (rset (R.QFE_Qn_HALT q) 0 (rclrBit (R.QFE_Qn_CTL q) 0 s)) := (hall o).trans (rget_rsetBits_ne _ ho ..)
  refine ⟨?_, ?_, ?_, qx_setQx_self .., fun o ho => ?_⟩
  · unfold rbit
    rw [hregs _ hctl, rget_rset_ne _ hctl']
    exact (rbit_rclrBit s _ 0 0).trans (by simp)
  · rw [hregs _ hhalt, rget_rset_self]
  · have hstat := rbits_rsetBits_self (rset (R.QFE_Qn_HALT q) 0 (rclrBit (R.QFE_Qn_CTL q) 0 s)) (R.QFE_Qn_STAT q) 7 0 0 (by decide)
    unfold qState rbits at *
    rw [hall]
    simp only [bits, Nat.shiftRight_zero] at hstat ⊢
    omega
  · simp only [List.mem_cons, List.not_mem_nil, or_false, not_or] at ho
    rw [hregs _ ho.1, rget_rset_ne _ ho.2.2, rget_rclrBit_ne _ ho.2.1]

theorem disableQueue_frame (q : Nat) (s : State) (r : List (Nat × Nat)) (x : List (Nat × QueueX)) :
    { disableQueue q s with regs := r, queues := x } = { s with regs := r, queues := x } := by
  simp [disableQueue]

/-! ### ENABLE (R387, R367, R389) -/

/-- The state in which a write of 0 to ENABLE leaves the queue before what is due is settled: STOPPING for good, with no halt,
and with the entries that have started or stand halted. -/
def disabling (q : Nat) (s : State) : State :=
  let whole := standsHalted q s && rbit (R.QFE_Qn_HALT q) 20 s
  let i := rbits (R.QFE_Qn_HALT q) 47 32 s
  let t := if whole && (flightAt q i s).isNone then writeRecord q (ringEntry q i s) stAborted 0 0 s else s
  let fs := (qx q t).flights.filter (fun f => f.begun || entryHalted q f.idx s || s.started.any (ofEntry q f.idx))
  setQState q qStopping (rset (R.QFE_Qn_HALT q) 0 (rclrBit (R.QFE_Qn_CTL q) 0
    (setQx q { qx q t with closing := true, held := [], flights := fs } t)))

theorem queueDisable_of_enabled {q : Nat} {s : State} (hq : qState q s ≠ 0) : queueDisable q s = settleQueue q (disabling q s) := by
  simp only [queueDisable, if_neg hq]
  rfl

/-- Entries that a queue which is being disabled keeps until the end. -/
def keptFlights (q : Nat) (s : State) : List Flight :=
  (qx q s).flights.filter (fun f => f.begun || entryHalted q f.idx s || s.started.any (ofEntry q f.idx))

theorem disabling_keeps (q : Nat) (s : State) : ∃ t, WriteKeeps s t ∧ (standsHalted q s = false → t = s) ∧
    disabling q s = setQState q qStopping (rset (R.QFE_Qn_HALT q) 0 (rclrBit (R.QFE_Qn_CTL q) 0
      (setQx q { qx q s with closing := true, held := [], flights := keptFlights q s } t))) := by
  unfold disabling
  dsimp only
  split
  · rename_i h
    have hw := writeRecord_writeKeeps q (ringEntry q (rbits (R.QFE_Qn_HALT q) 47 32 s) s) stAborted 0 0 s
    refine ⟨_, hw, fun hno => by simp [hno] at h, by rw [hw.qx]; rfl⟩
  · exact ⟨s, .refl s, fun _ => rfl, rfl⟩

/-- Of a queue that does not stand halted a write of 0 to ENABLE leaves all but the queue and its registers as it was. -/
theorem disabling_of_not_halted {q : Nat} {s : State} (h : standsHalted q s = false) :
    qx q (disabling q s) = { qx q s with closing := true, held := [], flights := keptFlights q s } ∧
    { disabling q s with regs := s.regs, queues := s.queues } = s ∧
    ∀ o, o ∉ [R.QFE_Qn_STAT q, R.QFE_Qn_CTL q, R.QFE_Qn_HALT q] → rget o (disabling q s) = rget o s := by
  obtain ⟨t, -, ht, e⟩ := disabling_keeps q s
  rw [e, ht h]
  refine ⟨?_, by simp [setQState], fun o ho => ?_⟩
  · exact (qx_congr (s := setQx q { qx q s with closing := true, held := [], flights := keptFlights q s } s)
      (by simp [setQState]) q).trans (qx_setQx_self ..)
  · simp only [List.mem_cons, List.not_mem_nil, or_false, not_or] at ho
    unfold setQState
    rw [rget_rsetBits_ne _ ho.1, rget_rset_ne _ ho.2.2, rget_rclrBit_ne _ ho.2.1]
    exact rget_congr (setQx_regs ..) o

theorem disabling_shows (q : Nat) (s : State) : rbit (R.QFE_Qn_CTL q) 0 (disabling q s) = false ∧
    rget (R.QFE_Qn_HALT q) (disabling q s) = 0 ∧ qState q (disabling q s) = 5 ∧ (qx q (disabling q s)).closing = true ∧
    working q (disabling q s) = working q s := by
  obtain ⟨t, ht, -, e⟩ := disabling_keeps q s
  rw [e]
  have hctl : R.QFE_Qn_CTL q ≠ R.QFE_Qn_STAT q := by simp only [R.QFE_Qn_CTL, R.QFE_Qn_STAT]; omega
  have hctl' : R.QFE_Qn_CTL q ≠ R.QFE_Qn_HALT q := by simp only [R.QFE_Qn_CTL, R.QFE_Qn_HALT]; omega
  have hhalt : R.QFE_Qn_HALT q ≠ R.QFE_Qn_STAT q := by simp only [R.QFE_Qn_HALT, R.QFE_Qn_STAT]; omega
  have hqx (x : QueueX) : qx q (setQState q qStopping (rset (R.QFE_Qn_HALT q) 0 (rclrBit (R.QFE_Qn_CTL q) 0 (setQx q x t)))) = x := by
    rw [qx_congr (s := setQx q x t) (by simp [setQState]), qx_setQx_self]
  refine ⟨?_, ?_, qState_setQState _ q (by decide), by rw [hqx], working_congr ht.started ?_⟩
  · unfold rbit setQState
    rw [rget_rsetBits_ne _ hctl, rget_rset_ne _ hctl']
    exact (rbit_rclrBit _ _ 0 0).trans (by simp)
  · unfold setQState
    rw [rget_rsetBits_ne _ hhalt, rget_rset_self]
  · rw [hqx]
    simp only [keptFlights, List.any_filter]
    refine congrArg (fun g => List.any _ g) (funext fun f => ?_)
    cases hsent : f.sent <;> simp [Flight.begun, hsent]

/-- A queue that has just been enabled (R387). -/
def enabledQueue (q : Nat) (s : State) : State :=
  setQState q qRunning (rsetBits (R.QFE_Qn_STAT q) 7 4 0 (rsetBits (R.QFE_Qn_CTL q) 0 0 1
    (rset (R.QFE_Qn_HEAD q) 0 (rset (R.QFE_Qn_TAIL q) 0 (setQx q {} s)))))

theorem enabledQueue_shows (q : Nat) (s : State) : qState q (enabledQueue q s) = 1 ∧ rbit (R.QFE_Qn_CTL q) 0 (enabledQueue q s) = true ∧
    rget (R.QFE_Qn_HEAD q) (enabledQueue q s) = 0 ∧ rget (R.QFE_Qn_TAIL q) (enabledQueue q s) = 0 ∧
    (∀ o, o ∉ [R.QFE_Qn_STAT q, R.QFE_Qn_CTL q, R.QFE_Qn_HEAD q, R.QFE_Qn_TAIL q] → rget o (enabledQueue q s) = rget o s) ∧
    qx q (enabledQueue q s) = {} ∧ ∀ p, p ≠ q → qx p (enabledQueue q s) = qx p s := by
  have hqueues : (enabledQueue q s).queues = (setQx q {} s).queues := by simp [enabledQueue, setQState]
  have hregs {o : Nat} (ho : o ≠ R.QFE_Qn_STAT q) : rget o (enabledQueue q s) = rget o (rsetBits (R.QFE_Qn_CTL q) 0 0 1
      (rset (R.QFE_Qn_HEAD q) 0 (rset (R.QFE_Qn_TAIL q) 0 (setQx q {} s)))) := by
    unfold enabledQueue setQState
    rw [rget_rsetBits_ne _ ho, rget_rsetBits_ne _ ho]
  have hctl : R.QFE_Qn_CTL q ≠ R.QFE_Qn_STAT q := by simp only [R.QFE_Qn_CTL, R.QFE_Qn_STAT]; omega
  have hhead : R.QFE_Qn_HEAD q ≠ R.QFE_Qn_STAT q ∧ R.QFE_Qn_HEAD q ≠ R.QFE_Qn_CTL q := by
    simp only [R.QFE_Qn_HEAD, R.QFE_Qn_CTL, R.QFE_Qn_STAT]; omega
  have htail : R.QFE_Qn_TAIL q ≠ R.QFE_Qn_STAT q ∧ R.QFE_Qn_TAIL q ≠ R.QFE_Qn_CTL q ∧ R.QFE_Qn_TAIL q ≠ R.QFE_Qn_HEAD q := by
    simp only [R.QFE_Qn_TAIL, R.QFE_Qn_HEAD, R.QFE_Qn_CTL, R.QFE_Qn_STAT]; omega
  refine ⟨qState_setQState _ q (by decide), ?_, ?_, ?_, fun o ho => ?_, ?_, fun p hp => ?_⟩
  · unfold rbit
    rw [hregs hctl]
    exact (rbit_rsetBits _ _ 0 0 1 0 le_rfl).trans (by simp)
  · rw [hregs hhead.1, rget_rsetBits_ne _ hhead.2, rget_rset_self]
  · rw [hregs htail.1, rget_rsetBits_ne _ htail.2.1, rget_rset_ne _ htail.2.2, rget_rset_self]
  · simp only [List.mem_cons, List.not_mem_nil, or_false, not_or] at ho
    obtain ⟨hstat, hctl, hhead, htail⟩ := ho
    rw [hregs hstat, rget_rsetBits_ne _ hctl, rget_rset_ne _ hhead, rget_rset_ne _ htail]
    exact rget_congr (setQx_regs ..) o
  · exact (qx_congr hqueues q).trans (qx_setQx_self ..)
  · exact (qx_congr hqueues p).trans (qx_setQx_ne _ hp _)

theorem misuse_qfe (s : State) : Counted R.QFE_MISUSE s (misuse bQFE s) ∧ OnlyRegs [R.QFE_MISUSE] s (misuse bQFE s) :=
  misuse_counts s rfl

/-- Settles O9. A write of 1 is one chain of register writes; a write of 0 leaves the queue closing, which then ends unless something
of it is at work. -/
theorem queueEnableAndDisable : Obligations.QueueEnableAndDisable := by
  unfold Obligations.QueueEnableAndDisable
  intro q s
  refine ⟨fun hq hready hhold hrings => ?enabled, fun hq hbad => ?refused, fun hq => ?again, fun hq => ?off, fun hq => ?stops,
    fun hq hhalted hflights hstarted hflush => ?empty, fun hq hhalted hwork => ?atWork⟩
  case enabled =>
    have hon : queueEnable q.val s = enabledQueue q.val s := by simp [queueEnable, enabledQueue, hq, hready, hhold, hrings]
    obtain ⟨hstate, hctl, hhead, htail, hother, hx, hp⟩ := enabledQueue_shows q.val s
    exact ⟨_, congrArg Host.Outcome.next hon, hstate, hctl, hhead, htail, hx, hp, by simp [enabledQueue, setQState], hother⟩
  case refused =>
    have hm : queueEnable q.val s = misuse bQFE s := by
      rcases hbad with h | h | h <;> simp [queueEnable, hq, h]
    exact ⟨_, congrArg Host.Outcome.next hm, misuse_qfe s⟩
  case again => exact congrArg Host.Outcome.next (if_pos hq)
  case off => exact congrArg Host.Outcome.next (if_pos hq)
  case stops =>
    refine ⟨_, congrArg Host.Outcome.next (queueDisable_of_enabled hq), ?_⟩
    obtain ⟨hctl, hhalt, hstate, hclosing, hwork⟩ := disabling_shows q.val s
    cases hw : working q.val s with
    | true =>
      rw [settleQueue_of_working hclosing (hwork.trans hw)]
      exact ⟨hctl, hhalt, hstate⟩
    | false =>
      rw [settleQueue_of_closed hclosing (by omega) (hwork.trans hw)]
      obtain ⟨hctl, hhalt, hstate, -⟩ := disableQueue_shows q.val _
      exact ⟨hctl, hhalt, hstate⟩
  case empty =>
    refine ⟨_, congrArg Host.Outcome.next (queueDisable_of_enabled hq), ?_⟩
    have hidle : working q.val s = false := by
      simp only [working, hflights, List.any_nil, Bool.or_false, List.any_eq_false]
      intro x hx
      simp [hstarted x hx]
    obtain ⟨-, -, hstate, hclosing, hw⟩ := disabling_shows q.val s
    rw [settleQueue_of_closed hclosing (by omega) (hw.trans hidle)]
    obtain ⟨hx, hframe, hother⟩ := disabling_of_not_halted hhalted
    obtain ⟨-, -, -, hqx, hregs⟩ := disableQueue_shows q.val (disabling q.val s)
    have hnone : keptFlights q.val s = [] := by simp [keptFlights, hflights]
    have hstart : (disabling q.val s).started = s.started := (congrArg State.started hframe :)
    have hgone : (disabling q.val s).started.filter (fun x => x.q != q.val) = (disabling q.val s).started := by
      rw [hstart]; exact List.filter_eq_self.mpr fun x hx => by simpa using hstarted x hx
    have hclose : closeQueue q.val (disabling q.val s) = disableQueue q.val (disabling q.val s) := by
      simp [closeQueue, hx, hflush, hgone, hnone]
    rw [hclose]
    refine ⟨hqx, ?_, fun o ho => ?_⟩
    · rw [disableQueue_frame, hframe]
    · rw [hregs o ho, hother o ho]
  case atWork =>
    refine ⟨_, congrArg Host.Outcome.next (queueDisable_of_enabled hq), ?_⟩
    obtain ⟨-, -, -, hclosing, hw⟩ := disabling_shows q.val s
    rw [settleQueue_of_working hclosing (hw.trans hwork)]
    refine ⟨hclosing, ?_⟩
    obtain ⟨-, hframe, hother⟩ := disabling_of_not_halted hhalted
    exact ⟨hframe, hother⟩

/-! ### RESUME (R37) -/

theorem resumeQueue_of_halted {q : Nat} {s : State} (hq : qState q s = 2) (hhold : inHoldfast s = false) :
    resumeQueue q 1 s = afterHalt q (retryHalt q (shownHalt q s) s) ∧
    resumeQueue q 2 s = afterHalt q (if (shownHalt q s).whole then skipEntry q (shownHalt q s) s else skipCommand q (shownHalt q s) s) ∧
    resumeQueue q 3 s = afterHalt q (abortEntry q (shownHalt q s) s) := by
  simp [resumeQueue, hq, qHalted, hhold]

theorem resumeQueue_of_bad {q : Nat} (choice : Nat) {s : State} (h : qState q s ≠ 2 ∨ inHoldfast s = true) :
    resumeQueue q choice s = misuse bQFE s := by
  rcases h with h | h <;> simp [resumeQueue, qHalted, h]

/-- With no halt held and no suspension in progress the queue goes on when its shown halt is settled. -/
theorem afterHalt_goesOn {q : Nat} {s : State} (hheld : (qx q s).held = []) (hstop : stopping s = false)
    (hclosing : (qx q s).closing = false) (hflush : (qx q s).flush = false) :
    afterHalt q s = setQState q qRunning (setQx q { qx q s with shown := none } s) := by
  simp only [afterHalt, hheld, firstHeld, hstop, Bool.false_and, Bool.false_eq_true, if_false]
  exact settleQueue_of_idle (by simp [hclosing]) (by simp [hflush])

/-- A retry changes only what queue q is to start again, and that holds the halt's command if it had started. -/
theorem retryHalt_effect (q : Nat) (h : HaltRec) (s : State) : { retryHalt q h s with queues := s.queues } = s ∧
    qx q (retryHalt q h s) = { qx q s with redo := (qx q (retryHalt q h s)).redo } ∧
    ∀ c, h.c = some c → c ∈ (qx q (retryHalt q h s)).redo := by
  unfold retryHalt
  split
  · rename_i hnone
    exact ⟨rfl, rfl, fun c hc => by rw [hnone] at hc; cases hc⟩
  · rename_i d hd
    refine ⟨rfl, by simp, fun c hc => ?_⟩
    obtain rfl : d = c := Option.some.inj (hd.symm.trans hc)
    simp

/-- Settles O10. -/
theorem resumeActsOnAHaltedQueueOnly : Obligations.ResumeActsOnAHaltedQueueOnly := by
  unfold Obligations.ResumeActsOnAHaltedQueueOnly
  refine fun q s => ⟨fun hq hhold => ?halted, fun hbad c hc => ?bad⟩
  case bad =>
    have hmis (choice : Nat) : ∃ t, Host.Outcome.next (resumeQueue q.val choice s) = (.next t : Host.Outcome State Fault Refusal) ∧
        Counted R.QFE_MISUSE s t ∧ OnlyRegs [R.QFE_MISUSE] s t :=
      ⟨_, congrArg Host.Outcome.next (resumeQueue_of_bad choice hbad), misuse_qfe s⟩
    simp only [List.mem_cons, List.not_mem_nil, or_false] at hc
    rcases hc with rfl | rfl | rfl
    · exact hmis 1
    · exact hmis 2
    · exact hmis 3
  case halted =>
    obtain ⟨hretry, hskip, habort⟩ := resumeQueue_of_halted hq hhold
    refine ⟨congrArg Host.Outcome.next hretry, congrArg Host.Outcome.next hskip, congrArg Host.Outcome.next habort,
      fun hheld hstop hclosing hflush => ⟨_, congrArg Host.Outcome.next hretry, ?_⟩⟩
    obtain ⟨hframe, hqx, hredo⟩ := retryHalt_effect q.val (shownHalt q.val s) s
    generalize retryHalt q.val (shownHalt q.val s) s = r at hframe hqx hredo ⊢
    have hregs : r.regs = s.regs := (congrArg State.regs hframe :)
    have hstart : r.started = s.started := (congrArg State.started hframe :)
    have hgo := afterHalt_goesOn (q := q.val) (s := r) (by rw [hqx]; exact hheld)
      (by simpa only [stopping, jobState, rbits, rget, hregs, hstart] using hstop) (by rw [hqx]; exact hclosing) (by rw [hqx]; exact hflush)
    rw [hgo]
    refine ⟨qState_setQState _ _ (by decide), by simpa using hredo, ?_, fun o ho => ?_⟩
    · rw [← hframe]; simp [setQState]
    · unfold setQState
      rw [rget_rsetBits_ne _ ho]
      exact rget_congr hregs o

/-! ### FLUSH (R41) -/

@[simp] theorem qx_rset (q o v : Nat) (s : State) : qx q (rset o v s) = qx q s := rfl

/-- Moving head on leaves the queue's entries, and whether a FLUSH waits. -/
theorem setHead_qx (q k : Nat) (s : State) : (qx q (setHead q k s)).flights = (qx q s).flights ∧
    (qx q (setHead q k s)).flush = (qx q s).flush := by
  unfold setHead
  dsimp only
  split <;> simp

theorem advanceHead_flights (q : Nat) (s : State) : (qx q (advanceHead q s)).flights = (qx q s).flights := by
  unfold advanceHead
  split
  · rw [(setHead_qx ..).1, qx_setQx_self]
  · exact (setHead_qx ..).1

theorem entryStarts_flights (q : Nat) (f : Flight) (s : State) : (qx q (entryStarts q f s)).flights = (qx q s).flights := by
  unfold entryStarts
  split
  · rfl
  split
  · rfl
  split
  · exact advanceHead_flights q s
  · rfl

/-- A finished entry leaves its queue. -/
theorem finishEntry_flights (q : Nat) (f : Flight) (status unit detail : Nat) (s : State) :
    (qx q (finishEntry q f status unit detail s)).flights = (qx q s).flights.filter (fun g => g.idx != f.idx) := by
  unfold finishEntry dropFlight
  rw [entryStarts_flights, qx_setQx_self, (writeRecord_writeKeeps ..).qx]

/-- Finishing the entries of a list leaves those of other ring indices. -/
theorem mem_flights_foldl_finishEntry {q status : Nat} {g : Flight} : ∀ {l : List Flight} {s : State},
    g ∈ (qx q (l.foldl (fun t f => finishEntry q f status 0 0 t) s)).flights → g ∈ (qx q s).flights ∧ ∀ f ∈ l, g.idx ≠ f.idx
  | [], _, h => ⟨h, by simp⟩
  | f :: l, s, h => by
    rw [List.foldl_cons] at h
    obtain ⟨hmem, hne⟩ := mem_flights_foldl_finishEntry h
    rw [finishEntry_flights, List.mem_filter] at hmem
    refine ⟨hmem.1, fun x hx => ?_⟩
    rcases List.mem_cons.mp hx with rfl | hx
    · simpa using hmem.2
    · exact hne x hx

/-- A FLUSH leaves no entry but what has started or stands halted, and does not wait any more. -/
theorem flushNow_effect (q : Nat) (s : State) : (qx q (flushNow q s)).flush = false ∧
    ∀ f ∈ (qx q (flushNow q s)).flights, f.begun = true ∨ entryHalted q f.idx s = true := by
  unfold flushNow
  dsimp only
  obtain ⟨loose, hloose⟩ : ∃ l, (qx q s).flights.filter (fun f => !f.begun && !entryHalted q f.idx s) = l := ⟨_, rfl⟩
  obtain ⟨s1, hs1⟩ : ∃ t, loose.foldl (fun t f => finishEntry q f stAborted 0 0 t) s = t := ⟨_, rfl⟩
  rw [hloose, hs1]
  have hleft : ∀ f ∈ (qx q s1).flights, f.begun = true ∨ entryHalted q f.idx s = true := by
    intro f hf
    rw [← hs1] at hf
    obtain ⟨hmem, hne⟩ := mem_flights_foldl_finishEntry hf
    by_contra hno
    push Not at hno
    refine hne f ?_ rfl
    rw [← hloose]
    exact List.mem_filter.mpr ⟨hmem, by simp [hno.1, hno.2]⟩
  split
  · have hkeep := WriteKeeps.foldl (fun t i => writeRecord_writeKeeps q (ringEntry q i t) stAborted 0 0 t)
      (ringFrom q (if headStays q s1 = true then (qx q s1).jump.getD ((qHead q s1 + 1) % ringSize q s1) else qHead q s1) s1) s1
    rw [← hkeep.qx q] at hleft
    generalize List.foldl _ s1 _ = s2 at hleft ⊢
    split <;> split
    · simpa using hleft
    · simpa using hleft
    · simpa using hleft
    · obtain ⟨hf, hfl⟩ := setHead_qx q (qTail q (setQx q { qx q s2 with flush := false } s2)) (setQx q { qx q s2 with flush := false } s2)
      rw [hf, hfl]
      simpa using hleft
  · have hkeep := WriteKeeps.foldl (fun t f => writeRecord_writeKeeps q f stAborted 0 0 t) (qx q s1).inbox s1
    rw [← hkeep.qx q] at hleft
    simpa using hleft

/-- A FLUSH waits where the queue is STOPPING or an entry has started. -/
theorem settleQueue_of_flush_waits {q : Nat} {s : State} (hclosing : (qx q s).closing = false)
    (hwait : qState q s = 5 ∨ (qx q s).flights.any (·.begun) = true) : settleQueue q (setQx q { qx q s with flush := true } s) =
      setQx q { qx q s with flush := true } s := by
  unfold settleQueue
  rcases hwait with h | h
  · simp [hclosing, h, qRunning, qStalled]
  · simp only [qx_setQx_self, hclosing, h]
    simp

/-- A FLUSH is due at once where no entry of a running queue has started. -/
theorem settleQueue_of_flush_due {q : Nat} {s : State} (hrun : qState q s = 1 ∨ qState q s = 3) (hclosing : (qx q s).closing = false)
    (hnone : (qx q s).flights.any (·.begun) = false) : settleQueue q (setQx q { qx q s with flush := true } s) =
      flushNow q (setQx q { qx q s with flush := true } s) := by
  unfold settleQueue
  rcases hrun with h | h <;> simp [hclosing, hnone, h, qRunning, qStalled]

theorem flushQueue_of_other {q : Nat} {s : State} (h0 : qState q s ≠ 0) (h2 : qState q s ≠ 2) (h4 : qState q s ≠ 4) :
    flushQueue q s = settleQueue q (setQx q { qx q (abortChannels q s) with flush := true } (abortChannels q s)) := by
  simp [flushQueue, h0, h2, h4, qHalted, qSuspended]

/-- A fold of steps that each leave the state leaves it. -/
theorem foldl_eq_self {α β : Type} {f : β → α → β} {s : β} : ∀ {l : List α}, (∀ x ∈ l, f s x = s) → l.foldl f s = s
  | [], _ => rfl
  | x :: l, h => by
    rw [List.foldl_cons, h x (List.mem_cons_self ..)]
    exact foldl_eq_self fun y hy => h y (List.mem_cons_of_mem _ hy)

/-- Where no channel serves a command no channel is aborted. -/
theorem abortChannels_of_idle {q : Nat} {s : State} (h : ∀ n < 32, (chanx n s).cmd = none) : abortChannels q s = s :=
  foldl_eq_self fun n hn => by rw [h n (List.mem_range.mp hn)]

/-- Settles O11. -/
theorem flushByQueueState : Obligations.FlushByQueueState := by
  unfold Obligations.FlushByQueueState
  intro q s r
  refine ⟨fun hidle => ?noChannels, fun hq => ?halted, fun h0 h2 h4 hclosing hwait => ?waits, fun h0 h2 h4 hrun hclosing hnone => ?now,
    fun hq => ?disabled⟩
  case noChannels => exact abortChannels_of_idle hidle
  case halted =>
    have hnow : flushQueue q.val s = flushNow q.val r := by
      rcases hq with h | h <;> simp [flushQueue, h, qHalted, qSuspended, r]
    exact ⟨_, congrArg Host.Outcome.next hnow, rfl, flushNow_effect ..⟩
  case waits =>
    exact ⟨_, congrArg Host.Outcome.next ((flushQueue_of_other h0 h2 h4).trans (settleQueue_of_flush_waits hclosing hwait)),
      qx_setQx_self .., setQx_frame ..⟩
  case now => exact congrArg Host.Outcome.next ((flushQueue_of_other h0 h2 h4).trans (settleQueue_of_flush_due hrun hclosing hnone))
  case disabled => exact ⟨_, congrArg Host.Outcome.next (if_pos hq), misuse_qfe s⟩

end Sys2Proof.Machine
end

section
/-! The head of a ring, the start and the end of its commands, and entries that are forwarded (R28 to R36, R387, R388). -/

namespace Sys2Proof.Machine

open Sys2Proof

/-! ### The head check (R388) -/

section
variable {q : Nat} {s : State}

/-- A manager's queue that may start checks the entry at its head. -/
theorem headCheck_of_entry (hmay : mayStart q s = true) (hflush : flushHolds q s = false) (hcur : currentFlight q s = none)
    (hman : isManager s = true) (hne : qHead q s ≠ qTail q s) (hfwd : ∀ d < 64, forwardedTo d q s < 255) :
    headCheck q s = checkEntry q (readBytes s (entryAddr q (qHead q s) s) 64) (ringEntry q (qHead q s) s) s := by
  have hfew : (List.range 64).any (fun d => decide (255 ≤ forwardedTo d q s)) = false := by
    rw [List.any_eq_false]
    intro d hd
    have := hfwd d (List.mem_range.mp hd)
    simpa using this
  simp [headCheck, hmay, hflush, hcur, hman, hne, hfew]

variable {raw : Bytes} {f : Flight}

theorem checkEntry_of_malformed (h : entryBad raw = true) : checkEntry q raw f s = haltEntry q f.idx 2 0 s := if_pos h

theorem checkEntry_of_absent (h : entryBad raw = false) (ht : f.target ≠ myDev s) (hp : present f.target s = false) :
    checkEntry q raw f s = haltEntry q f.idx 1 0x0007 s := by
  simp [checkEntry, h, ht, hp, stOutOfState]

theorem checkEntry_of_lost (h : entryBad raw = false) (ht : f.target = myDev s ∨ present f.target s = true)
    (hl : f.kind = 1 ∧ listMapped f.listAddr (32 * f.units) s = false) :
    checkEntry q raw f s = haltEntry q f.idx 3 0x0140
      (captureUnmapped (listFault f.listAddr (32 * f.units) s) (reportError 2 bQFE 0x0140 q 0 s)) := by
  rcases ht with ht | ht <;> simp [checkEntry, h, ht, hl.1, hl.2, stContained]

/-- A sound entry goes to its device, finishes when it is empty, and begins otherwise. -/
theorem checkEntry_of_sound (h : entryBad raw = false) (ht : f.target = myDev s ∨ present f.target s = true)
    (hl : ¬ (f.kind = 1 ∧ listMapped f.listAddr (32 * f.units) s = false)) : checkEntry q raw f s =
      if f.target ≠ myDev s then forwardEntry q f s
      else if f.kind = 0 then finishEntry q f 0 0 0 s
      else setQx q { qx q s with flights := (qx q s).flights ++ [f] } s := by
  have hlost : (f.kind == 1 && !listMapped f.listAddr (32 * f.units) s) = false := by
    rw [Bool.eq_false_iff]
    simpa using hl
  have habsent : ¬ (f.target ≠ myDev s ∧ (!present f.target s) = true) := by
    rcases ht with ht | ht <;> simp [ht]
  simp only [checkEntry, h, hlost, if_neg habsent, Bool.false_eq_true, if_false, stOK]

end

/-- Settles O12, by the branches of `checkEntry`. -/
theorem headEntryIsCheckedInOrder : Obligations.HeadEntryIsCheckedInOrder := by
  unfold Obligations.HeadEntryIsCheckedInOrder
  refine ⟨fun q s hmay hflush hcur hman hne hfwd => ?manager, fun q s f rest hmay hflush hcur hman hinbox hunits => ?worker⟩
  case manager =>
    intro raw f lost
    have hcheck {t : State} (h : checkEntry q.val raw f s = t) : exec (.entryHeadCheck q) s = .next t :=
      congrArg Host.Outcome.next ((headCheck_of_entry hmay hflush hcur hman hne hfwd).trans h)
    refine ⟨fun hbad => hcheck (checkEntry_of_malformed hbad), fun hok ht hp => hcheck (checkEntry_of_absent hok ht hp),
      fun hok ht hl => hcheck (checkEntry_of_lost hok ht hl), fun hok ht hp hl => hcheck ?_, fun hok ht hl hk => hcheck ?_,
      fun hok ht hl hk => ⟨setQx q.val { qx q.val s with flights := (qx q.val s).flights ++ [f] } s, hcheck ?_, ?_, setQx_frame .., fun p hp => qx_setQx_ne _ hp _⟩⟩
    · rw [checkEntry_of_sound hok (.inr hp) hl, if_pos ht]
    · rw [checkEntry_of_sound hok (.inl ht) hl, if_neg (not_not.mpr ht), if_pos hk]
    · rw [checkEntry_of_sound hok (.inl ht) hl, if_neg (not_not.mpr ht), if_neg hk]
    · rw [qx_setQx_self]
  case worker =>
    have htake : headCheck q.val s = takeInbox q.val s := by simp [headCheck, hmay, hflush, hcur, hman]
    refine ⟨_, congrArg Host.Outcome.next htake, ?_⟩
    simp only [takeInbox, hinbox, if_neg hunits, qx_setQx_self]
    exact ⟨trivial, trivial, rfl, fun p hp => by rw [qx_setQx_ne _ hp, qx_setQx_ne _ hp]⟩

/-! ### The start of a command (R30 to R32) -/

section
variable {q c pos : Nat} {s : State} {f : Flight} {again : Bool}

theorem commandStart_of_poisoned (hmay : mayStart q s = true) (hhead : headCommand q s = some (c, f, pos, again))
    (hp : unitPoisoned f pos 1 s = true) : commandStart q s =
      haltAt q f pos (if again then some c else none) 3 0x0142 (reportError 2 bQFE 0x0142 q 0 s) := by
  simp [commandStart, hmay, hhead, hp, stContained]

theorem commandStart_of_waiting (hmay : mayStart q s = true) (hhead : headCommand q s = some (c, f, pos, again))
    (hp : unitPoisoned f pos 1 s = false) (hflags : flagsMet q c (listUnit f pos s) (noteFence q c (listUnit f pos s) s) = false) :
    commandStart q s = noteFence q c (listUnit f pos s) s := by
  simp [commandStart, hmay, hhead, hp, hflags]

/-- A command whose flags are met is tried; what starting it does depends on whether it starts again. -/
theorem commandStart_of_met (hmay : mayStart q s = true) (hhead : headCommand q s = some (c, f, pos, again))
    (hp : unitPoisoned f pos 1 s = false) (hflags : flagsMet q c (listUnit f pos s) (noteFence q c (listUnit f pos s) s) = true) :
    commandStart q s = tryStart q c f pos (if again then some c else none)
      (fun b t => if again then startAgain q c t else startNew q f b t) (noteFence q c (listUnit f pos s) s) := by
  cases again <;> simp [commandStart, hmay, hhead, hp, hflags]

variable {held : Option Nat} {go : Bytes → State → State} {b : Bytes}

theorem tryStart_of_poisoned (hp : unitPoisoned f pos (max 1 (u (listUnit f pos s) 2 1)) s = true) :
    tryStart q c f pos held go s = haltAt q f pos held 3 0x0142 (reportError 2 bQFE 0x0142 q 0 s) := by
  simp [tryStart, hp, stContained]

section
variable (hp : unitPoisoned f pos (max 1 (u (listUnit f pos s) 2 1)) s = false)
  (hb : (List.range (u (listUnit f pos s) 2 1)).flatMap (fun i => listUnit f (pos + i) s) = b)
include hp hb

theorem tryStart_of_malformed (hbad : commandBad q f pos b s = true) : tryStart q c f pos held go s = haltAt q f pos held 2 0 s := by
  simp [tryStart, hp, hb, hbad, stMalformed]

variable {o : Op} (hok : commandBad q f pos b s = false) (ho : opOfBytes b = some o)
include hok ho

theorem tryStart_of_cause {k : Nat} (hk : stateCause c f o b s = some k) :
    tryStart q c f pos held go s = haltAt q f pos held 1 k s := by
  simp [tryStart, hp, hb, hok, ho, hk, stOutOfState]

theorem tryStart_of_allowed (hk : stateCause c f o b s = none) : tryStart q c f pos held go s =
    if engineWaits q c o b s then noteAwaits q o b s else startHook (held.getD c) o b (go b s) := by
  simp [tryStart, hp, hb, hok, ho, hk]

end

end

/-- Noting a fence changes the queue's own state alone, so the list reads as before. -/
theorem noteFence_frame (q c : Nat) (b : Bytes) (s : State) : { noteFence q c b s with queues := s.queues } = s := by
  unfold noteFence
  split <;> rfl

theorem listUnit_noteFence (f : Flight) (i q c : Nat) (b : Bytes) (s : State) : listUnit f i (noteFence q c b s) = listUnit f i s := by
  unfold noteFence
  split <;> rfl

/-- An entry that starts moves its queue's head, and changes nothing else. -/
theorem setHead_frame (q k : Nat) (s : State) (r l) : { setHead q k s with regs := r, queues := l } = { s with regs := r, queues := l } := by
  unfold setHead
  dsimp only
  split <;> simp

theorem entryStarts_frame (q : Nat) (f : Flight) (s : State) : { entryStarts q f s with regs := s.regs, queues := s.queues } = s := by
  unfold entryStarts advanceHead
  split
  · rfl
  split
  · simp
  split
  · split
    · exact (setHead_frame ..).trans (by simp)
    · exact setHead_frame ..
  · rfl

/-- A command of the queue front end itself has no engine in which its start would do anything. -/
theorem startHook_of_front {c : Nat} {o : Op} {b : Bytes} (s : State) (heng : engineOf b = 0xF) (ho : opOfBytes b = some o) :
    startHook c o b s = s := by
  have hop : opOf 0xF (opcodeOf b) = some o := heng ▸ ho
  simp only [opOf] at hop
  split at hop <;> cases hop <;> rfl

theorem startNew_effect (q : Nat) (f : Flight) (b : Bytes) (s : State) : (startNew q f b s).started = s.started ++
      [{ id := s.nextCmd, turn := s.nextCmd, q := q, idx := f.idx, unit := f.pos, bytes := b, outs := startOuts ((opOfBytes b).getD .nop) b s }] ∧
    (startNew q f b s).nextCmd = s.nextCmd + 1 ∧
    { startNew q f b s with regs := s.regs, queues := s.queues, started := s.started, nextCmd := s.nextCmd } = s := by
  have hframe := entryStarts_frame q f (setQx q { qx q s with fence := none, awaits := none } s)
  unfold startNew
  generalize entryStarts q f (setQx q { qx q s with fence := none, awaits := none } s) = t at hframe ⊢
  have hstart : t.started = s.started := (congrArg State.started hframe :)
  have hnext : t.nextCmd = s.nextCmd := (congrArg State.nextCmd hframe :)
  refine ⟨by simp [setFlight, hstart], by simp [setFlight, hnext], ?_⟩
  have hback := congrArg (fun x : State => { x with regs := s.regs, queues := s.queues, started := s.started, nextCmd := s.nextCmd }) hframe
  exact hback

/-- Settles O13, by the branches of `commandStart` and of `tryStart`. -/
theorem commandStartsOrHalts : Obligations.CommandStartsOrHalts := by
  unfold Obligations.CommandStartsOrHalts
  intro q s c pos f again hmay hhead h r b held
  have hunit : listUnit f pos r = h := listUnit_noteFence ..
  have hmet (hp : unitPoisoned f pos 1 s = false) (hflags : flagsMet q.val c h r = true) {t : State}
      (ht : tryStart q.val c f pos held (fun b t => if again then startAgain q.val c t else startNew q.val f b t) r = t) :
      exec (.commandStart q) s = .next t :=
    congrArg Host.Outcome.next ((commandStart_of_met hmay hhead hp hflags).trans ht)
  refine ⟨fun hp => congrArg Host.Outcome.next (commandStart_of_poisoned hmay hhead hp),
    fun hp hflags => congrArg Host.Outcome.next (commandStart_of_waiting hmay hhead hp hflags),
    fun hp hflags hpall => hmet hp hflags (tryStart_of_poisoned (hunit ▸ hpall)), fun hp hpall hflags => ⟨fun hbad => ?malformed, fun hok o ho => ?checked⟩⟩
  case malformed => exact hmet hp hflags (tryStart_of_malformed (hunit ▸ hpall) (by rw [hunit]) hbad)
  case checked =>
    have hpost : unitPoisoned f pos (max 1 (u (listUnit f pos r) 2 1)) r = false := hunit ▸ hpall
    have hbytes : (List.range (u (listUnit f pos r) 2 1)).flatMap (fun i => listUnit f (pos + i) r) = b := by rw [hunit]
    have hcmd : held.getD c = c := by cases again <;> rfl
    have hallowed (hk : stateCause c f o b r = none) {t : State}
        (ht : (if engineWaits q.val c o b r then noteAwaits q.val o b r
          else startHook c o b (if again then startAgain q.val c r else startNew q.val f b r)) = t) :
        exec (.commandStart q) s = .next t :=
      hmet hp hflags ((tryStart_of_allowed hpost hbytes hok ho hk).trans (by rw [hcmd]; exact ht))
    refine ⟨fun k hk => hmet hp hflags (tryStart_of_cause hpost hbytes hok ho hk), fun hk hw => hallowed hk (if_pos hw),
      fun hk hw => hallowed hk (if_neg (by simp [hw])), fun hk hw hagain heng => ⟨startNew q.val f b r, hallowed hk ?_, ?_⟩⟩
    · rw [if_neg (by simp [hw]), hagain]
      exact startHook_of_front _ heng ho
    · have hr : { r with queues := s.queues } = s := noteFence_frame ..
      obtain ⟨hstarted, hnext, hframe⟩ := startNew_effect q.val f b r
      have hs : r.started = s.started := (congrArg State.started hr :)
      have hn : r.nextCmd = s.nextCmd := (congrArg State.nextCmd hr :)
      rw [ho, hs, hn] at hstarted
      rw [hn] at hnext
      refine ⟨hstarted, hnext, ?_⟩
      have hback := congrArg (fun x : State => { x with regs := s.regs, queues := s.queues, started := s.started, nextCmd := s.nextCmd }) hframe
      have hrest := congrArg (fun x : State => { x with regs := s.regs, started := s.started, nextCmd := s.nextCmd }) hr
      exact hback.trans hrest

/-! ### A halt becomes the one that its queue shows (R36) -/

theorem isManager_congr {s t : State} (hk : t.keeper = s.keeper) (hr : rget R.KPR_CFG t = rget R.KPR_CFG s) : isManager t = isManager s := by
  simp only [isManager, myDev, managerDev, standbyDev, rbits, hk, hr]

/-- Setting a bit outside a field leaves the field as it was. -/
theorem rbits_rsetBit_outside {o i hi lo : Nat} {s : State} (d : i < lo ∨ hi < i) : rbits o hi lo (rsetBit o i s) = rbits o hi lo s := by
  unfold rbits
  rw [rget_rsetBit_self]
  refine Nat.eq_of_testBit_eq fun j => ?_
  rw [testBit_bits, testBit_bits, Nat.testBit_or, Nat.one_shiftLeft, Nat.testBit_two_pow]
  grind

@[simp] theorem rget_setQx (o q : Nat) (x : QueueX) (s : State) : rget o (setQx q x s) = rget o s := rget_congr (setQx_regs ..) o

/-- The registers and the queue as a halt leaves them. -/
def haltShown (q : Nat) (h : HaltRec) (s : State) : State :=
  rcountSat (R.QFE_Qn_HALTS q) (rsetBit (R.QFE_Qn_STAT q) 8
    (setQState q qHalted (setQx q { qx q s with shown := h.c } (rset (R.QFE_Qn_HALT q) (haltImage h) s))))

section
variable (q : Nat) (h : HaltRec) (s : State)

theorem haltShown_frame : { haltShown q h s with regs := s.regs, queues := s.queues } = s := by
  simp [haltShown, rcountSat, rsetBit, setQState, rsetBits]

theorem halt_ne_stat : R.QFE_Qn_HALT q ≠ R.QFE_Qn_STAT q := by simp only [R.QFE_Qn_HALT, R.QFE_Qn_STAT]; omega
theorem halts_ne_stat : R.QFE_Qn_HALTS q ≠ R.QFE_Qn_STAT q := by simp only [R.QFE_Qn_HALTS, R.QFE_Qn_STAT]; omega
theorem halts_ne_halt : R.QFE_Qn_HALTS q ≠ R.QFE_Qn_HALT q := by simp only [R.QFE_Qn_HALTS, R.QFE_Qn_HALT]; omega

theorem rget_haltShown_ne {o : Nat} (ho : o ≠ R.QFE_Qn_STAT q) (ho' : o ≠ R.QFE_Qn_HALT q) (ho'' : o ≠ R.QFE_Qn_HALTS q) :
    rget o (haltShown q h s) = rget o s := by
  unfold haltShown setQState
  rw [rget_rcountSat_ne _ ho'', rget_rsetBit_ne _ ho, rget_rsetBits_ne _ ho]
  rw [rget_setQx, rget_rset_ne _ ho']

theorem rget_halt_haltShown : rget (R.QFE_Qn_HALT q) (haltShown q h s) = haltImage h := by
  unfold haltShown setQState
  rw [rget_rcountSat_ne _ (halts_ne_halt q).symm, rget_rsetBit_ne _ (halt_ne_stat q), rget_rsetBits_ne _ (halt_ne_stat q), rget_setQx, rget_rset_self]

theorem counted_congr {o : Nat} {s t r : State} (h : rget o t = rget o s) (hc : Counted o t r) : Counted o s r := by
  unfold Counted rbits at *
  rwa [h] at hc

theorem counted_haltShown : Counted (R.QFE_Qn_HALTS q) s (haltShown q h s) := by
  refine counted_congr ?_ (counted_rcountSat _ (R.QFE_Qn_HALTS q))
  unfold setQState
  rw [rget_rsetBit_ne _ (halts_ne_stat q), rget_rsetBits_ne _ (halts_ne_stat q), rget_setQx, rget_rset_ne _ (halts_ne_halt q)]

theorem rget_stat_haltShown : rget (R.QFE_Qn_STAT q) (haltShown q h s) =
    rget (R.QFE_Qn_STAT q) (rsetBit (R.QFE_Qn_STAT q) 8 (setQState q qHalted s)) := by
  unfold haltShown setQState
  rw [rget_rcountSat_ne _ (halts_ne_stat q).symm, rget_rsetBit_self, rget_rsetBits_self, rget_setQx,
    rget_rset_ne _ (halt_ne_stat q).symm, rget_rsetBit_self, rget_rsetBits_self]

theorem qState_haltShown : qState q (haltShown q h s) = 2 := by
  have hset := rbits_rsetBits_self s (R.QFE_Qn_STAT q) 2 0 qHalted (by decide)
  rw [← rbits_rsetBit_outside (i := 8) (by decide)] at hset
  unfold qState rbits at *
  rwa [rget_stat_haltShown]

theorem rbit_stat_haltShown : rbit (R.QFE_Qn_STAT q) 10 (haltShown q h s) = rbit (R.QFE_Qn_STAT q) 10 s := by
  have hbit : rbit (R.QFE_Qn_STAT q) 10 (rsetBit (R.QFE_Qn_STAT q) 8 (setQState q qHalted s)) = rbit (R.QFE_Qn_STAT q) 10 s := by
    rw [rbit_rsetBit, setQState, rbit_rsetBits _ _ _ _ _ _ (by decide)]
    rfl
  unfold rbit at *
  rwa [rget_stat_haltShown]

theorem isManager_haltShown : isManager (haltShown q h s) = isManager s := by
  refine isManager_congr (by simp [haltShown, rcountSat, rsetBit, setQState, rsetBits]) (rget_haltShown_ne q h s ?_ ?_ ?_)
  · simp only [R.KPR_CFG, R.QFE_Qn_STAT]; omega
  · simp only [R.KPR_CFG, R.QFE_Qn_HALT]; omega
  · simp only [R.KPR_CFG, R.QFE_Qn_HALTS]; omega

/-- A completed halt image shows its status. -/
theorem bits_haltImage_status (hs : h.status < 256) : bits (haltImage h) 31 24 = h.status := by
  unfold bits haltImage nb
  simp only [Nat.shiftRight_eq_div_pow, Nat.shiftLeft_eq]
  split <;> omega

end

theorem isManager_raiseVector (v : Nat) (s : State) : isManager (raiseVector v s) = isManager s :=
  isManager_congr (raiseVector_writeKeeps v s).keeper (rget_raiseVector ..)

/-- A manager shows its queue's halt, and signals it when the queue's CTL says so. -/
theorem showHalt_of_manager (q : Nat) (h : HaltRec) {s : State} (hman : isManager s = true) : showHalt q h s =
    if rbit (R.QFE_Qn_CTL q) 8 (haltShown q h s) then raiseVector (64 + q) (haltShown q h s) else haltShown q h s := by
  refine if_pos (Eq.trans ?_ ((isManager_haltShown q h s).trans hman))
  change isManager (if rbit (R.QFE_Qn_CTL q) 8 (haltShown q h s) then raiseVector (64 + q) (haltShown q h s) else haltShown q h s) = _
  split
  · exact isManager_raiseVector ..
  · rfl

theorem showHalt_effect (q : Nat) (h : HaltRec) {s : State} (hman : isManager s = true) :
    (∀ o, rget o (showHalt q h s) = rget o (haltShown q h s)) ∧
    { showHalt q h s with regs := s.regs, queues := s.queues, out := s.out, pcie := s.pcie } = s := by
  have hframe := haltShown_frame q h s
  rw [showHalt_of_manager q h hman]
  generalize haltShown q h s = t at hframe ⊢
  split
  · obtain ⟨o, p, e⟩ := raiseVector_frame t (64 + q)
    refine ⟨fun o => rget_raiseVector .., ?_⟩
    rw [e]
    exact congrArg (fun x : State => { x with out := s.out, pcie := s.pcie }) hframe
  · exact ⟨fun _ => rfl, congrArg (fun x : State => { x with out := s.out, pcie := s.pcie }) hframe⟩

/-- A queue that may start is not halted. -/
theorem qState_of_mayStart {q : Nat} {s : State} (h : mayStart q s = true) : qState q s ≠ 2 := by
  simp only [mayStart, qRunning, qStopping, Bool.and_eq_true, Bool.or_eq_true, beq_iff_eq] at h
  omega

theorem haltAt_of_open {q : Nat} (f : Flight) (pos : Nat) (c : Option Nat) (status detail : Nat) {s : State}
    (hclosing : (qx q s).closing = false) (hq : qState q s ≠ 2) :
    haltAt q f pos c status detail s = showHalt q { status := status, idx := f.idx, unit := pos, detail := detail, c := c } s := by
  simp [haltAt, haltQueue, hclosing, qHalted, hq]

theorem waitTimeout_of_unmet {q c pos : Nat} {s : State} {f : Flight} {again : Bool} (hmay : mayStart q s = true)
    (hlimit : rget (R.QFE_Qn_WTO q) s ≠ 0) (hhead : headCommand q s = some (c, f, pos, again)) (hwait : waitMet (listUnit f pos s) s = false) :
    waitTimeout q s = haltAt q f pos (if again then some c else none) 4 0 (rsetBit (R.QFE_Qn_STAT q) 10 s) := by
  simp [waitTimeout, hmay, hlimit, hhead, hwait, stWaitTimeout]

/-- A halt before a command of a manager's queue that shows none. -/
theorem haltAt_effect {q : Nat} (f : Flight) (pos : Nat) (c : Option Nat) {status : Nat} (hs : status < 256) (detail : Nat) {s : State}
    (hman : isManager s = true) (hclosing : (qx q s).closing = false) (hq : qState q s ≠ 2) :
    let t := haltAt q f pos c status detail s
    qState q t = 2 ∧ rbit (R.QFE_Qn_STAT q) 10 t = rbit (R.QFE_Qn_STAT q) 10 s ∧ rbits (R.QFE_Qn_HALT q) 31 24 t = status ∧
    Counted (R.QFE_Qn_HALTS q) s t ∧ { t with regs := s.regs, queues := s.queues, out := s.out, pcie := s.pcie } = s ∧
    ∀ o, o ∉ [R.QFE_Qn_STAT q, R.QFE_Qn_HALT q, R.QFE_Qn_HALTS q] → rget o t = rget o s := by
  intro t
  have ht : t = showHalt q _ s := haltAt_of_open f pos c status detail hclosing hq
  clear_value t
  subst ht
  obtain ⟨hshown, hrest⟩ := showHalt_effect q { status := status, idx := f.idx, unit := pos, detail := detail, c := c } hman
  refine ⟨?_, ?_, ?_, ?_, hrest, fun o ho => ?_⟩
  · rw [qState, rbits, hshown]
    exact qState_haltShown ..
  · rw [rbit, hshown]
    exact rbit_stat_haltShown ..
  · rw [rbits, hshown, rget_halt_haltShown, bits_haltImage_status _ hs]
  · have hcount := counted_haltShown q { status := status, idx := f.idx, unit := pos, detail := detail, c := c } s
    unfold Counted rbits at *
    rwa [hshown]
  · simp only [List.mem_cons, List.not_mem_nil, or_false, not_or] at ho
    obtain ⟨hstat, hhalt, hhalts⟩ := ho
    rw [hshown, rget_haltShown_ne _ _ _ hstat hhalt hhalts]

/-- Settles O14: the halt is one of a queue that shows none, so it is shown at once. -/
theorem waitTimeoutHaltsTheQueue : Obligations.WaitTimeoutHaltsTheQueue := by
  unfold Obligations.WaitTimeoutHaltsTheQueue
  intro q s c pos f again hmay hlimit hhead hwait
  have hhalt : exec (.waitTimeout q) s = .next _ := congrArg Host.Outcome.next (waitTimeout_of_unmet hmay hlimit hhead hwait)
  refine ⟨hhalt, fun hman hclosing => ⟨_, hhalt, ?_⟩⟩
  have hflag : rbit (R.QFE_Qn_STAT q.val) 10 (rsetBit (R.QFE_Qn_STAT q.val) 10 s) = true := by rw [rbit_rsetBit]; rfl
  have hregs (o : Nat) (ho : o ≠ R.QFE_Qn_STAT q.val) : rget o (rsetBit (R.QFE_Qn_STAT q.val) 10 s) = rget o s := rget_rsetBit_ne s ho 10
  have hman' : isManager (rsetBit (R.QFE_Qn_STAT q.val) 10 s) = true :=
    (isManager_congr (s := s) (t := rsetBit (R.QFE_Qn_STAT q.val) 10 s) rfl (hregs _ (by simp only [R.KPR_CFG, R.QFE_Qn_STAT]; omega))).trans hman
  have hopen : qState q.val (rsetBit (R.QFE_Qn_STAT q.val) 10 s) ≠ 2 := by
    rw [qState, rbits_rsetBit_outside (by decide)]
    exact qState_of_mayStart hmay
  obtain ⟨hq, hbit, hstatus, hcount, hframe, hkeep⟩ := haltAt_effect f pos (if again then some c else none) (show 4 < 256 by decide) 0 hman' hclosing hopen
  refine ⟨hq, hbit.trans hflag, hstatus, counted_congr (hregs _ (halts_ne_stat q.val)) hcount,
    congrArg (fun x : State => { x with regs := s.regs }) hframe, fun o ho => ?_⟩
  rw [hkeep o ho, hregs o (fun h => ho (by simp [h]))]

end Sys2Proof.Machine
end

section
/-! The commands of the queue front end: completion, and commands that do not run (R34, R152). -/

namespace Sys2Proof.Machine

open Sys2Proof

/-! ### Completion -/

theorem flightAt_setFlight {q i : Nat} {s : State} {f g : Flight} (h : flightAt q i s = some f) (hg : g.idx = i) :
    flightAt q i (setFlight q g s) = some g := by
  unfold flightAt setFlight at *
  rw [qx_setQx_self, List.find?_map]
  have hsame : ((fun f : Flight => f.idx == i) ∘ fun h => if h.idx = g.idx then g else h) = fun f => f.idx == i := by
    funext f
    by_cases hf : f.idx = i <;> simp [hf, hg]
  have hf : f.idx = i := by simpa using List.find?_some h
  rw [hsame, h, Option.map_some, if_pos (hf.trans hg.symm)]

theorem settleEntry_of_unstarted {q i : Nat} {s : State} {f : Flight} (h : flightAt q i s = some f) (hpos : f.pos < f.units) :
    settleEntry q i s = s := by
  simp [settleEntry, h, entryWhole, hpos]

theorem startedAt_filter_self (c : Nat) (s : State) : startedAt c { s with started := s.started.filter (fun y => y.id != c) } = none := by
  simp [startedAt, List.find?_eq_none]

/-- Settles O15. -/
theorem commandsComplete : Obligations.CommandsComplete := by
  unfold Obligations.CommandsComplete
  refine ⟨fun c s x hx => ?nop, fun c ps s => ?idle, fun c s x hx hstate => ?unfinished, fun c s x f hx hdone hmuted => ?finished⟩
  case nop => exact ⟨markDone c s, congrArg Host.Outcome.next (by simp only [nopRun, hx]), startedAt_markDone (startedAt_of_runningCmd hx), rfl⟩
  case idle =>
    have next {i : Instr} {r : State} (h : exec i s = .next r) (hr : r = s) : exec i s = .next s := hr ▸ h
    simp only [List.forall_mem_cons, List.not_mem_nil, false_imp_iff, implies_true, and_true]
    and_intros
    all_goals
      intro h
      refine next rfl ?_
      simp only [markerAddRun, markerSetRun, nopRun, snapRun, loadRun, vectorRun, atomicRun, accOpenRun, accCloseRun, ringSetRun, dmaRun,
        stashPutRun, stashGetRun, stashDropRun, reduceRun, ringPassRun, epochFenceRun, snapFetchRun, cdcOpenRun, cdcCloseRun, cdcDecodeRun,
        cdcEncodeRun, cdcFlushRun, startMatrix, attnRun, pageCmd, collectiveRun, broadcastRun, allGatherRun, allToAllRun, bankMvRun, bankOptRun, bankEwRun, bankCopyRun, if_true, Bool.false_eq_true, if_false, h]
  case unfinished => exact congrArg Host.Outcome.next (by simp [commandComplete, hx, hstate])
  case finished =>
    have hcomplete : exec (.commandComplete c) s = .next (settleQueue x.q (settleEntry x.q x.idx (signalAdd x (noteYield x (countDone x
        { s with started := s.started.filter (fun y => y.id != c) }))))) :=
      congrArg Host.Outcome.next (by simp [commandComplete, hx, hdone, hmuted])
    refine ⟨hcomplete, fun hsignal hyield hflight hpos hclosing hflush => ⟨_, hcomplete, ?_⟩⟩
    generalize hr : ({ s with started := s.started.filter (fun y => y.id != c) } : State) = r
    have hflightr : flightAt x.q x.idx r = some f := by rw [← hr]; exact hflight
    generalize hg : ({ f with done := f.done + 1, flags := f.flags ||| x.flags } : Flight) = g
    have hcount : countDone x r = setFlight x.q g r := by simp only [countDone, hflightr, hg]
    have hidx : g.idx = x.idx := by
      rw [← hg]
      simpa using List.find?_some hflight
    have hset : flightAt x.q x.idx (setFlight x.q g r) = some g := flightAt_setFlight hflightr hidx
    have hgpos : g.pos < g.units := by rw [← hg]; exact hpos
    obtain ⟨⟨rg, o, p, e⟩, -⟩ := markerPut_frame (setFlight x.q g r) (signalMarker x.bytes) (markerCount (signalMarker x.bytes) (setFlight x.q g r) + 1)
    have hadd : signalAdd x (noteYield x (countDone x r)) = markerInc (signalMarker x.bytes) 1 (setFlight x.q g r) := by
      simp [hcount, noteYield, hyield, signalAdd, hsignal]
    have hqueues : (markerInc (signalMarker x.bytes) 1 (setFlight x.q g r)).queues = (setFlight x.q g r).queues := by rw [markerInc, e]
    have hqx : qx x.q (setFlight x.q g r) = { qx x.q s with flights := (qx x.q r).flights.map (fun h => if h.idx = g.idx then g else h) } := by
      rw [setFlight, qx_setQx_self, ← hr]
      rfl
    rw [hadd, settleEntry_of_unstarted (f := g) (by rw [flightAt, qx_congr hqueues]; exact hset) hgpos,
      settleQueue_of_idle (by rw [qx_congr hqueues, hqx, hclosing]) (by rw [qx_congr hqueues, hqx, hflush])]
    refine ⟨fun n => ?_, ?_, fun a => ?_⟩
    · rw [markerCount_markerInc, ← hr]
      rfl
    · rw [startedAt, markerInc, started_markerPut, ← hr]
      exact startedAt_filter_self c s
    · rw [markerInc, byteAt_markerPut, ← hr]
      rfl

/-! ### Forwarded entries (R28, R29) -/

/-- Settles O17. -/
theorem entriesAreForwardedAndAnswered : Obligations.EntriesAreForwardedAndAnswered := by
  unfold Obligations.EntriesAreForwardedAndAnswered
  refine ⟨fun p m s t hman hjoined hq hstate hroom htake => ?entry, fun p m s t f hman htake => ?completion⟩
  case entry =>
    have hin : (isManager s || !s.keeper.joined || decide (numQueues ≤ bits m.addr.toNat 21 16) || qState (bits m.addr.toNat 21 16) s == 0 ||
        decide (ringSize (bits m.addr.toNat 21 16) s ≤
          (qx (bits m.addr.toNat 21 16) s).inbox.length + (qx (bits m.addr.toNat 21 16) s).flights.length + 1)) = false := by
      simp only [Bool.or_eq_false_iff, decide_eq_false_iff_not, not_le, hman, hjoined, beq_eq_false_iff_ne]
      exact ⟨⟨⟨⟨trivial, rfl⟩, hq⟩, hstate⟩, hroom⟩
    intro q e w
    have hentry : entryIn p.val m s = rset (R.QFE_Qn_TAIL q) ((qTail q t + 1) % ringSize q w) (setQx q { qx q w with inbox := (qx q w).inbox ++
        [{ e with remote := true, bad := m.poison && e.kind == 1, body := if e.kind = 1 then some (m.data.drop 64) else e.body }] } w) := by
      simp only [entryIn, hin, Bool.false_eq_true, if_false, htake]
      rfl
    exact ⟨_, congrArg Host.Outcome.next hentry, rget_rset_self .., by rw [qx_rset, qx_setQx_self], fun a => rfl⟩
  case completion =>
    intro q i hfind w v
    refine congrArg Host.Outcome.next ?_
    simp only [completionIn, hman, Bool.not_true, Bool.false_eq_true, if_false, htake]
    rw [hfind]

end Sys2Proof.Machine
end

section
/-! The host port: Function Level Reset, the window and its accesses (R22, R24, R25, R38, R359). -/

namespace Sys2Proof.Machine

open Sys2Proof

/-! ### Function Level Reset (R22) -/

/-- A worker that has joined, with one running channel, and with a core numbered 245696: the status register of that core stands
where KPR_CFG does, so that the stop of every command clears KPR_CFG, and the module then counts as a manager. -/
def workerWithStrayCore : State :=
  { rset (R.DMA_Dnn_STAT 0) 1 (rset R.KPR_CFG 0x100 {}) with cores := [(245696, {})], keeper := { ({} : State).keeper with joined := true } }

set_option maxRecDepth 100000 in
theorem functionReset_workerWithStrayCore : (functionReset workerWithStrayCore).pcie.pba = [136] := by decide

/-- Refutes O18: the model bounds no core's number, and on this worker the reset makes vector 136 pending, so the PCIe port does
not stay as it was. -/
theorem not_functionResetDisablesEveryQueue : ¬ Obligations.FunctionResetDisablesEveryQueue := by
  unfold Obligations.FunctionResetDisablesEveryQueue
  rintro ⟨-, -, hworker, -⟩
  have hman : isManager workerWithStrayCore = false := by decide
  have hlink : rbit R.HIF_LINKSTAT 14 workerWithStrayCore = false := by decide
  obtain ⟨t, ht, -, -, hpcie, -⟩ := hworker workerWithStrayCore hman rfl hlink
  have hreset : exec .functionLevelReset workerWithStrayCore = .next (functionReset workerWithStrayCore) :=
    congrArg Host.Outcome.next (by simp only [flrHere, hman, hlink]; rfl)
  have hpba := functionReset_workerWithStrayCore
  rw [Host.Outcome.next.inj (hreset.symm.trans ht), hpcie] at hpba
  exact absurd hpba (List.cons_ne_nil 136 []).symm

/-! ### The window (R24) -/

theorem nb_testBit_zero (b : Bool) : (nb b).testBit 0 = b := by cases b <;> rfl

theorem winBase_stat (v : Nat) (s : State) (hi lo : Nat) : winBase (rsetBits R.HIF_WIN_STAT hi lo v s) = winBase s :=
  rget_rsetBits_ne s (by decide) hi lo v

theorem winBase_showWindow (s : State) : winBase (showWindow s) = winBase s := winBase_stat ..

theorem winSize_showWindow (s : State) : winSize (showWindow s) = winSize s :=
  congrArg (2 ^ ·) (rbits_rsetBits_disjoint s R.HIF_WIN_STAT 0 0 _ 9 4 le_rfl (by decide))

/-- What OPEN shows, by R24. -/
theorem winOpen_showWindow (s : State) : winOpen (showWindow s) = true ↔ (winBase s % winSize s = 0 ∧
    (winBase s + winSize s ≤ stackedEnd ∨ (spillBase ≤ winBase s ∧ winBase s + winSize s ≤ spillEnd)) ∧ pwrState s ≠ 3) := by
  have hopen : winOpen (showWindow s) = (winPlaced s && !inHoldfast s) := by
    unfold winOpen showWindow
    rw [rbit_rsetBits _ _ _ _ _ _ le_rfl, if_pos ⟨le_rfl, le_rfl⟩]
    exact nb_testBit_zero _
  rw [hopen]
  simp only [winPlaced, inStacked, inSpill, inHoldfast, Bool.and_eq_true, Bool.or_eq_true, beq_iff_eq, decide_eq_true_eq, Bool.not_eq_true',
    beq_eq_false_iff_ne]
  tauto

/-- Settles O20. -/
theorem windowOpensWhereR24Allows : Obligations.WindowOpensWhereR24Allows := by
  unfold Obligations.WindowOpensWhereR24Allows
  refine ⟨fun v s => ?base, fun k s hlo hhi => ?size, fun k s hk => ?other⟩
  case base =>
    have hsize : winSize (rset R.HIF_WIN_BASE (v.toNat &&& 0xFFFFC0000000) s) = winSize s :=
      congrArg (fun r => 2 ^ bits r 9 4) (rget_rset_ne s (by decide) _)
    have hstate : pwrState (rset R.HIF_WIN_BASE (v.toNat &&& 0xFFFFC0000000) s) = pwrState s :=
      congrArg (bits · 1 0) (rget_rset_ne s (by decide) _)
    have hbase : winBase (rset R.HIF_WIN_BASE (v.toNat &&& 0xFFFFC0000000) s) = v.toNat &&& 0xFFFFC0000000 := rget_rset_self ..
    have hopen := winOpen_showWindow (rset R.HIF_WIN_BASE (v.toNat &&& 0xFFFFC0000000) s)
    refine ⟨winBaseWrite v.toNat s, rfl, (winBase_stat ..).trans hbase, (winSize_showWindow _).trans hsize, ?_, rfl, fun o ho => ?_⟩
    · unfold winBaseWrite
      rwa [winSize_showWindow, winBase_showWindow, ← hstate]
    · simp only [List.mem_cons, List.not_mem_nil, or_false, not_or] at ho
      exact (rget_rsetBits_ne _ ho.2 ..).trans (rget_rset_ne s ho.1 _)
  case size =>
    have hsize : winSize (rsetBits R.HIF_WIN_STAT 9 4 k s) = 2 ^ k := by
      unfold winSize
      rw [rbits_rsetBits_self _ _ _ _ _ (by decide), Nat.mod_eq_of_lt (by omega)]
    have hstate : pwrState (rsetBits R.HIF_WIN_STAT 9 4 k s) = pwrState s := congrArg (bits · 1 0) (rget_rsetBits_ne s (by decide) ..)
    have hopen := winOpen_showWindow (rsetBits R.HIF_WIN_STAT 9 4 k s)
    have hset : barSize k s = showWindow (rsetBits R.HIF_WIN_STAT 9 4 k s) := if_pos ⟨hlo, hhi⟩
    refine ⟨showWindow (rsetBits R.HIF_WIN_STAT 9 4 k s), congrArg Host.Outcome.next hset,
      (winSize_showWindow _).trans hsize, ?_, by simp [showWindow, rsetBits], fun o ho => ?_⟩
    · rwa [winBase_showWindow, ← hsize, ← hstate]
    · rw [List.mem_singleton] at ho
      exact (rget_rsetBits_ne _ ho ..).trans (rget_rsetBits_ne s ho ..)
  case other => exact congrArg Host.Outcome.next (if_neg (by omega))

/-! ### What a read of memory looks at -/

/-- Two states that an engine's reads of memory cannot tell apart. -/
structure ReadsAlike (s t : State) : Prop where
  keeper : t.keeper = s.keeper
  cfg : rget R.KPR_CFG t = rget R.KPR_CFG s
  present : rget R.KPR_PRESENT t = rget R.KPR_PRESENT s
  mem : t.mem = s.mem
  undef : t.undef = s.undef
  poison : t.poison = s.poison
  acc : t.acc = s.acc
  freeCtr : t.freeCtr = s.freeCtr

namespace ReadsAlike

variable {s t : State} (h : ReadsAlike s t)
include h

theorem reach (a : Nat) : Machine.reach t a = Machine.reach s a := by
  have hdev : myDev t = myDev s := congrArg (bits · 13 8) h.cfg
  have hman : isManager t = isManager s := isManager_congr h.keeper h.cfg
  have hpresent (d : Nat) : Machine.present d t = Machine.present d s := congrArg (Nat.testBit · d) h.present
  simp only [Machine.reach, hdev, hman, hpresent]

theorem byteAt (a : Nat) : Machine.byteAt a t = Machine.byteAt a s := by simp only [Machine.byteAt, undefAt, h.mem, h.undef]

theorem readByte (a : Nat) : Machine.readByte t a = Machine.readByte s a := by
  simp only [Machine.readByte, h.reach, h.byteAt, accRegion, h.acc, h.freeCtr]

theorem readBytes (a n : Nat) : Machine.readBytes t a n = Machine.readBytes s a n := by simp only [Machine.readBytes, h.readByte]

theorem poisoned (a n : Nat) : Machine.poisoned t a n = Machine.poisoned s a n := by
  simp only [Machine.poisoned, h.reach, h.poison, accRegion, h.acc]

end ReadsAlike

theorem leaveSlack_readsAlike (s : State) : ReadsAlike s (leaveSlack s) where
  keeper := (congrArg State.keeper (leaveSlack_frame s).1 :)
  cfg := (leaveSlack_frame s).2 _ (by decide) (by decide)
  present := (leaveSlack_frame s).2 _ (by decide) (by decide)
  mem := leaveSlack_mem s
  undef := leaveSlack_undef s
  poison := (congrArg State.poison (leaveSlack_frame s).1 :)
  acc := (congrArg State.acc (leaveSlack_frame s).1 :)
  freeCtr := (congrArg State.freeCtr (leaveSlack_frame s).1 :)

theorem raiseVector_aer (v : Nat) (s : State) : (raiseVector v s).pcie.aer = s.pcie.aer := by
  unfold raiseVector
  split
  · split <;> rfl
  · rfl

theorem leaveSlack_aer (s : State) : (leaveSlack s).pcie.aer = s.pcie.aer := by
  have hset (v : Nat) : (setPwrState v s).pcie.aer = s.pcie.aer := by
    unfold setPwrState
    split
    · rfl
    · exact raiseVector_aer ..
  unfold leaveSlack
  split
  · exact hset _
  · rfl

/-! ### Stores in one part of memory -/

/-- The range lies wholly in stacked memory or wholly in the spill tier. -/
def InMemory (a n : Nat) : Prop := a + n ≤ stackedEnd ∨ (spillBase ≤ a ∧ a + n ≤ spillEnd)

theorem reach_of_inMemory {a n : Nat} (h : InMemory a n) (hn : 0 < n) (s : State) : reach s a = .mem a ∧ a + n ≤ nextEdge a := by
  unfold InMemory stackedEnd spillBase spillEnd at h
  unfold reach nextEdge stackedEnd spillBase spillEnd
  rcases h with h | ⟨h, g⟩
  · have hlow : a < 0x008000000000 := by omega
    rw [if_pos hlow, if_pos hlow]
    exact ⟨rfl, h⟩
  · have hlow : ¬ a < 0x008000000000 := by omega
    have hspill : ¬ a < 0x010000000000 := by omega
    have hend : a < 0x020000000000 := by omega
    rw [if_neg hlow, if_neg hspill, if_pos hend, if_neg hlow, if_neg hspill, if_pos hend]
    exact ⟨rfl, g⟩

theorem firstUnreached_of_inMemory {a n : Nat} (h : InMemory a n) (s : State) : firstUnreached s a n = none := by
  rcases Nat.eq_zero_or_pos n with rfl | hn
  · simp [firstUnreached, firstUnreachedGo]
  · obtain ⟨hreach, hedge⟩ := reach_of_inMemory h hn s
    have hgo : firstUnreachedGo s 255 (nextEdge a) (a + n) = none := by
      unfold firstUnreachedGo
      exact if_pos hedge
    unfold firstUnreached firstUnreachedGo
    rw [hgo]
    simp [unmappedAt, cutOffAt, hreach]

theorem writeMem_of_inMemory {a : Nat} {b : Bytes} (h : InMemory a b.length) (hb : b ≠ []) (bad : Bool) (s : State) :
    writeMem a b s bad = { s := storeBytes a b bad s } := by
  have hn : 0 < b.length := List.length_pos_iff.mpr hb
  obtain ⟨hreach, hedge⟩ := reach_of_inMemory h hn s
  simp only [writeMem, firstUnreached_of_inMemory h, if_neg hn.ne', if_pos hedge, writeIn, hreach]

theorem poke_of_inMemory {a : Nat} {b : Bytes} (h : InMemory a b.length) (s : State) :
    (∀ y, byteAt y (poke a b s) = if a ≤ y ∧ y < a + b.length then b.getD (y - a) 0 else byteAt y s) ∧
    ∀ o, rget o (poke a b s) = rget o s := by
  unfold poke
  by_cases hb : b = []
  · subst hb
    have hnone : firstUnreached s a 0 = none := firstUnreached_of_inMemory h s
    have hempty : writeMem a [] s = { s := s } := by
      unfold writeMem
      rw [List.length_nil, hnone]
      rfl
    rw [hempty]
    exact ⟨fun y => (if_neg (by simp only [List.length_nil]; omega)).symm, fun o => rfl⟩
  · rw [writeMem_of_inMemory h hb]
    exact ⟨byteAt_storeBytes s a b false, fun o => rfl⟩

/-! ### Accesses (R24, R25, R38) -/

theorem unsupported_read (a : WindowAcc) (s : State) (h : a.data = none) : (unsupported a s).out.rdata = List.replicate a.len 0xFF := by
  simp [unsupported, h]

section
variable {a : WindowAcc} {s : State} (hlink : rbit R.HIF_LINKSTAT 14 s = true)
include hlink

theorem windowAccess_of_window (hspace : a.space = .window) (hd3 : s.pcie.d3hot = false) : windowAccess a s = barWindow a s := by
  simp [windowAccess, hlink, hspace, hd3]

theorem windowAccess_of_bar2 (hspace : a.space = .bar2) (hd3 : s.pcie.d3hot = false) : windowAccess a s = barTwo a s := by
  simp [windowAccess, hlink, hspace, hd3]

theorem windowAccess_of_d3hot (hspace : a.space ≠ .config) (hd3 : s.pcie.d3hot = true) : windowAccess a s = unsupported a s := by
  cases h : a.space with
  | config => exact absurd h hspace
  | bar2 => simp [windowAccess, hlink, h, hd3]
  | window => simp [windowAccess, hlink, h, hd3]

end

/-- An access of a closed window, or beyond it. -/
theorem closedAccess_effect (a : WindowAcc) (s : State) : (closedAccess a s).out.ur = true ∧
    (a.data = none → (closedAccess a s).out.rdata = List.replicate a.len 0xFF) ∧ (closedAccess a s).pcie.aer = 20 :: s.pcie.aer ∧
    rbit R.HIF_EVT 1 (closedAccess a s) = true ∧ (∀ x, byteAt x (closedAccess a s) = byteAt x s) ∧
    ∀ o, o ≠ R.HIF_EVT → rget o (closedAccess a s) = rget o s :=
  ⟨rfl, unsupported_read a _, rfl, (rbit_rsetBit { s with pcie := { s.pcie with aer := aerUR :: s.pcie.aer } } R.HIF_EVT 1 1).trans (by simp),
    fun _ => rfl, fun _ ho => rget_rsetBit_ne { s with pcie := { s.pcie with aer := aerUR :: s.pcie.aer } } ho 1⟩

section
variable {a : WindowAcc} {s : State} {n : Nat} (hopen : winOpen s = true) (hroom : a.offset + n ≤ winSize s)
include hopen hroom

theorem barWindow_read (hdata : a.data = none) (hn : a.len = n) : barWindow a s =
    if bankHolds (winBase s + a.offset) n (leaveSlack s) then leaveSlack s
    else windowRead (winBase s + a.offset) n a.dram (leaveSlack s) := by
  subst hn
  simp [barWindow, hopen, hdata, Nat.not_lt.mpr hroom]

theorem barWindow_write {b : Bytes} (hdata : a.data = some b) (hn : b.length = n) : barWindow a s =
    if bankHolds (winBase s + a.offset) n (leaveSlack s) then leaveSlack s
    else windowWrite (winBase s + a.offset) b a.dram (leaveSlack s) := by
  subst hn
  simp [barWindow, hopen, hdata, Nat.not_lt.mpr hroom]

end

/-- A read whose DRAM accesses all went well. -/
theorem windowRead_effect (x n : Nat) (s : State) : let t := windowRead x n [] (leaveSlack s)
    t.out.ur = false ∧ t.out.rdata = readBytes s x n ∧ t.out.ep = poisoned s x n ∧ (poisoned s x n = true → t.pcie.aer = 12 :: s.pcie.aer) ∧
    (∀ y, byteAt y t = byteAt y s) ∧ ∀ o, o ≠ R.PWR_STAT → o ≠ R.PWR_EVT → rget o t = rget o s := by
  intro t
  have hreads : ReadsAlike s (touchRange x n (leaveSlack s)) := { leaveSlack_readsAlike s with }
  have hpoison : poisoned (touchRange x n (leaveSlack s)) x n = poisoned s x n := hreads.poisoned x n
  refine ⟨rfl, hreads.readBytes x n, ?_, fun hbad => ?_, fun y => hreads.byteAt y, (leaveSlack_frame s).2⟩
  · exact (Bool.false_or _).trans hpoison
  · have haer : t.pcie.aer = if (false || poisoned (touchRange x n (leaveSlack s)) x n) then aerPoison :: (leaveSlack s).pcie.aer else _ := rfl
    rw [haer, hpoison, hbad, leaveSlack_aer]
    rfl

/-- A write whose DRAM accesses all went well. -/
theorem windowWrite_effect {x : Nat} {b : Bytes} (hmem : InMemory x b.length) (s : State) : let t := windowWrite x b [] (leaveSlack s)
    t.out.ur = false ∧ (∀ y, byteAt y t = if x ≤ y ∧ y < x + b.length then b.getD (y - x) 0 else byteAt y s) ∧
    ∀ o, o ≠ R.PWR_STAT → o ≠ R.PWR_EVT → rget o t = rget o s := by
  intro t
  obtain ⟨hbytes, hregs⟩ := poke_of_inMemory hmem (leaveSlack s)
  refine ⟨rfl, fun y => ?_, fun o hstat hevt => (hregs o).trans ((leaveSlack_frame s).2 o hstat hevt)⟩
  rw [← byteAt_leaveSlack y s]
  exact hbytes y

theorem bar2Read_word {off : Nat} (h : off % 4 = 0) (s : State) : bar2Read off 4 s = leBytes 4 (bar2Word off s) := if_pos ⟨rfl, h⟩

/-- A word of the MSI-X table is written, and vectors that are no longer held back are signalled. -/
theorem msixWrite_effect (i v : Nat) (s : State) : msixWord i (msixWrite i v s) = v ∧ (∀ j, j ≠ i → msixWord j (msixWrite i v s) = msixWord j s) ∧
    (isManager s = true → ∀ v' ∈ (msixWrite i v s).pcie.pba, vectorHeld v' (msixWrite i v s) = true) ∧
    { msixWrite i v s with pcie := s.pcie, out := s.out } = s := by
  unfold msixWrite
  generalize hr : ({ s with pcie := { s.pcie with msix := AL.set (if i % 4 = 3 then 1 else 0) i v s.pcie.msix } } : State) = r
  have hword : msixWord i r = v := by rw [← hr]; exact AL.get_set_self ..
  have hother (j : Nat) (hj : j ≠ i) : msixWord j r = msixWord j s := by
    rw [← hr]
    exact AL.get_set_ne _ _ hj _ _
  have hframe : { r with pcie := s.pcie, out := s.out } = s := by rw [← hr]
  have hmanager : isManager r = isManager s := by rw [← hr]; rfl
  unfold deliverPending
  split
  · refine ⟨hword, hother, fun _ v' hv => ?_, hframe⟩
    exact (List.mem_filter.mp hv).2
  · rename_i hman
    exact ⟨hword, hother, fun h => absurd (hmanager.trans h) hman, hframe⟩

/-- Settles O21. -/
theorem windowReadsAndWritesMemory : Obligations.WindowReadsAndWritesMemory := by
  unfold Obligations.WindowReadsAndWritesMemory
  refine ⟨fun a s hlink => ?down, fun a s hlink hspace hd3 => ?d3hot, fun a s hlink hspace hd3 => ?closed,
    fun a s hlink hspace hd3 hopen hdata hroom => ?read, fun a b s hlink hspace hd3 hopen hdata hroom => ?write,
    fun a s hlink hspace hd3 hdata hlen => ⟨fun q hoff hman => ?head, fun m hoff hman => ?count, fun i hi hoff => ?vector⟩,
    fun a b s hlink hspace hd3 hdata hlen => ⟨fun q hoff => ?doorbell, fun m hoff => ?marker, fun i hi hoff => ?vectorWrite⟩,
    fun a s hlink hspace hdata hlen hoff hlt => ?config⟩
  case down => exact congrArg Host.Outcome.next (by simp [windowAccess, hlink])
  case d3hot =>
    exact ⟨_, congrArg Host.Outcome.next (windowAccess_of_d3hot hlink hspace hd3), rfl, unsupported_read a s, rfl⟩
  case closed =>
    intro n hclosed
    have hbar : barWindow a s = closedAccess a s := if_pos ((Bool.or_eq_true _ _).mpr (hclosed.imp (congrArg (! ·)) decide_eq_true))
    exact ⟨_, congrArg Host.Outcome.next ((windowAccess_of_window hlink hspace hd3).trans hbar), closedAccess_effect a s⟩
  case read =>
    intro x
    have hbar := (windowAccess_of_window hlink hspace hd3).trans (barWindow_read hopen hroom hdata rfl)
    refine ⟨fun hheld => congrArg Host.Outcome.next (hbar.trans (if_pos hheld)), fun hfree => ?_⟩
    have hread := hbar.trans (if_neg (Bool.eq_false_iff.mp hfree))
    refine ⟨congrArg Host.Outcome.next hread, fun hdram => ?_⟩
    rw [hdram] at hread
    exact ⟨_, congrArg Host.Outcome.next hread, windowRead_effect ..⟩
  case write =>
    intro x
    have hbar := (windowAccess_of_window hlink hspace hd3).trans (barWindow_write hopen hroom hdata rfl)
    refine ⟨fun hheld => congrArg Host.Outcome.next (hbar.trans (if_pos hheld)), fun hfree => ?_⟩
    have hwrite := hbar.trans (if_neg (Bool.eq_false_iff.mp hfree))
    refine ⟨congrArg Host.Outcome.next hwrite, fun hdram hplaced => ?_⟩
    rw [hdram] at hwrite
    exact ⟨_, congrArg Host.Outcome.next hwrite, windowWrite_effect (by unfold InMemory; omega) s⟩
  case head =>
    have hq := q.isLt
    have hword : bar2Word a.offset s = rget (R.QFE_Qn_HEAD q.val) s := by
      have hq' : 0x1000 * q.val / 0x1000 = q.val := by omega
      rw [hoff]
      unfold bar2Word
      rw [if_neg (by omega), if_neg (by omega), hman, if_neg (by simp), hq', if_pos ⟨by omega, hq⟩]
      rfl
    refine ⟨_, congrArg Host.Outcome.next (windowAccess_of_bar2 hlink hspace hd3), ?_⟩
    simp only [barTwo, hdata, hlen, bar2Read_word (show a.offset % 4 = 0 by omega), hword]
    exact ⟨rfl, rfl⟩
  case count =>
    have hm := m.isLt
    have hword : bar2Word a.offset s = if inHoldfast s then 0 else markerCount m.val s := by
      have hm' : (0x80000 + 8 * m.val - 0x80000) / 8 = m.val := by omega
      rw [hoff]
      unfold bar2Word
      rw [if_neg (by omega), if_neg (by omega), hman, if_neg (by simp), if_neg (by unfold numQueues; omega), hm', if_pos (by omega)]
    refine ⟨_, congrArg Host.Outcome.next (windowAccess_of_bar2 hlink hspace hd3), ?_⟩
    simp only [barTwo, hdata, hlen, bar2Read_word (show a.offset % 4 = 0 by omega), hword]
    exact ⟨rfl, rfl⟩
  case vector =>
    have hword : bar2Word a.offset s = msixWord i s := by
      have hi' : (0xF0000 + 4 * i - 0xF0000) / 4 = i := by omega
      rw [hoff]
      unfold bar2Word
      rw [if_pos (by omega), hi']
    refine ⟨_, congrArg Host.Outcome.next (windowAccess_of_bar2 hlink hspace hd3), ?_⟩
    simp only [barTwo, hdata, hlen, bar2Read_word (show a.offset % 4 = 0 by omega), hword]
    exact ⟨rfl, rfl⟩
  case doorbell =>
    refine ⟨doorbell q.val (ofLe b % 2 ^ 32) s, by rw [← BitVec.toNat_ofNat]; rfl, congrArg Host.Outcome.next ?_⟩
    have hq := q.isLt
    have hwrite : bar2Write a.offset 4 (ofLe b) s = doorbell q.val (ofLe b % 2 ^ 32) s := by
      have hq' : 0x1000 * q.val / 0x1000 = q.val := by omega
      rw [hoff]
      unfold bar2Write
      rw [if_neg (by simp; omega), if_neg (by omega), hq', if_pos (⟨by omega, hq⟩ : 0x1000 * q.val % 0x1000 = 0 ∧ q.val < numQueues)]
      cases hman : isManager s
      · exact (if_pos (by simp [hostDecodes, hman])).symm
      · rfl
    rw [windowAccess_of_bar2 hlink hspace hd3]
    simp only [barTwo, hdata, hlen, hwrite]
    rfl
  case marker =>
    refine ⟨markerWindow m.val (ofLe b % 2 ^ 32) s, by rw [← BitVec.toNat_ofNat]; rfl, congrArg Host.Outcome.next ?_⟩
    have hm := m.isLt
    have hwrite : bar2Write a.offset 4 (ofLe b) s = markerWindow m.val (ofLe b % 2 ^ 32) s := by
      have hm' : (0x80000 + 8 * m.val - 0x80000) / 8 = m.val := by omega
      rw [hoff]
      unfold bar2Write
      rw [if_neg (by simp; omega), if_neg (by omega), if_neg (show ¬ ((0x80000 + 8 * m.val) % 0x1000 = 0 ∧ _) by unfold numQueues; omega),
        if_pos (show 0x80000 ≤ 0x80000 + 8 * m.val ∧ 0x80000 + 8 * m.val < 0x88000 ∧ (0x80000 + 8 * m.val) % 8 = 0 by omega), hm']
      cases hman : isManager s
      · exact (if_pos (by simp [hostDecodes, hman])).symm
      · rfl
    rw [windowAccess_of_bar2 hlink hspace hd3]
    simp only [barTwo, hdata, hlen, hwrite]
    rfl
  case vectorWrite =>
    have hwrite : bar2Write a.offset 4 (ofLe b) s = msixWrite i (ofLe b % 2 ^ 32) s := by
      have hi' : (0xF0000 + 4 * i - 0xF0000) / 4 = i := by omega
      rw [hoff]
      unfold bar2Write
      rw [if_neg (by simp), if_pos (by omega), hi']
      rfl
    have hbar : windowAccess a s = completes [] (msixWrite i (ofLe b % 2 ^ 32) s) := by
      rw [windowAccess_of_bar2 hlink hspace hd3]
      simp only [barTwo, hdata, hlen, hwrite]
    obtain ⟨hword, hother, hheld, hframe⟩ := msixWrite_effect i (ofLe b % 2 ^ 32) s
    exact ⟨_, congrArg Host.Outcome.next hbar, hword, hother, hheld, hframe⟩
  case config =>
    have hword : a.offset / 4 * 4 = a.offset := by omega
    have haccess : windowAccess a s = completes (leBytes 4 (configWord a.offset s)) s := by
      have hrange : ¬ (4096 ≤ a.offset ∨ 4 < 0 + 4) := by omega
      simp only [windowAccess, hlink, hspace, configAccess, hdata, hword, hoff, hlen, if_neg hrange]
      rfl
    exact ⟨_, congrArg Host.Outcome.next haccess, rfl, rfl⟩

end Sys2Proof.Machine
end

section
/-! Triggers and the banks of snapshots (R342 to R350). -/

namespace Sys2Proof.Machine

open Sys2Proof

/-! ### The queue of triggers (R344) -/

/-- A trigger's number is among the last 16 from now on (R347). -/
def noteTrigger (n : Nat) (s : State) : State := { s with snap := { s.snap with last := (n :: s.snap.last).take 16 } }

theorem queueTrigger_of_room {t : Trig} {s : State} (hhf : t.hf = false) (hroom : s.snap.queue.length < 16) : queueTrigger t s =
    { noteTrigger t.num s with snap := { (noteTrigger t.num s).snap with queue := s.snap.queue ++ [t] } } := by
  simp [queueTrigger, noteTrigger, hhf, hroom]

theorem queueTrigger_of_full {t : Trig} {s : State} (hhf : t.hf = false) (hfull : 16 ≤ s.snap.queue.length) :
    queueTrigger t s = dropTrigger t (noteTrigger t.num s) := by
  simp [queueTrigger, noteTrigger, hhf, hfull]

/-- The forwarding of a trigger is messages. -/
theorem forwardTrigger_writeKeeps (num hops : Nat) (except : Option Nat) (s : State) : WriteKeeps s (forwardTrigger num hops except s) := by
  unfold forwardTrigger
  refine WriteKeeps.foldl (fun t p => ?_) ..
  split
  · exact sendOn_writeKeeps ..
  · exact .refl t

/-- A trigger that is dropped leaves the started commands and the root's queue as they were. -/
theorem dropTrigger_keeps (t : Trig) (s : State) : (dropTrigger t s).started = s.started ∧ (dropTrigger t s).snap.queue = s.snap.queue := by
  have hann (r : State) : (announceTrigger t r).started = r.started ∧ (announceTrigger t r).snap.queue = r.snap.queue := by
    unfold announceTrigger
    dsimp only
    have hout : (if rbit R.SNP_CTL 3 r then { r with snap := { r.snap with out := true } } else r).started = r.started ∧
        (if rbit R.SNP_CTL 3 r then { r with snap := { r.snap with out := true } } else r).snap.queue = r.snap.queue := by
      split <;> exact ⟨rfl, rfl⟩
    generalize (if rbit R.SNP_CTL 3 r then { r with snap := { r.snap with out := true } } else r) = w at hout ⊢
    have hforward (hops : Nat) (except : Option Nat) : (forwardTrigger t.num hops except w).started = w.started ∧
        (forwardTrigger t.num hops except w).snap.queue = w.snap.queue := by
      have hkeep := forwardTrigger_writeKeeps t.num hops except w
      exact ⟨hkeep.started, (congrArg (·.snap.queue) hkeep.rest :)⟩
    split
    · split
      · exact ⟨(hforward ..).1.trans hout.1, (hforward ..).2.trans hout.2⟩
      · exact hout
    split
    · exact ⟨(hforward ..).1.trans hout.1, (hforward ..).2.trans hout.2⟩
    · exact hout
  exact hann _

/-! ### SNAP commands whose trigger has been issued (R342) -/

/-- One step of `settleSnaps`: a SNAP that has begun completes once its trigger has left the queue. -/
def settleSnap (t : State) (x : Started) : State :=
  if x.state == .running && x.begun && opOfBytes x.bytes == some .snap && !t.snap.queue.any (fun g => g.cmd == some x.id) then
    markDone x.id t
  else t

theorem settleSnaps_eq (s : State) : settleSnaps s = s.started.foldl settleSnap s := rfl

theorem settleSnap_frame (s : State) (x : Started) (l : List Started) : { settleSnap s x with started := l } = { s with started := l } := by
  unfold settleSnap
  split <;> rfl

theorem foldl_settleSnap_frame : ∀ (xs : List Started) (s : State) (l : List Started),
    { xs.foldl settleSnap s with started := l } = { s with started := l }
  | [], _, _ => rfl
  | x :: xs, s, l => (foldl_settleSnap_frame xs (settleSnap s x) l).trans (settleSnap_frame s x l)

theorem settleSnaps_frame (s : State) (l : List Started) : { settleSnaps s with started := l } = { s with started := l } :=
  foldl_settleSnap_frame ..

theorem settleSnap_snap (s : State) (x : Started) : (settleSnap s x).snap = s.snap := (congrArg State.snap (settleSnap_frame s x []) :)

theorem startedAt_updStarted_ne {c d : Nat} (h : c ≠ d) {f : Started → Started} (hf : ∀ x, (f x).id = x.id) (s : State) :
    startedAt c (updStarted d f s) = startedAt c s := by
  unfold startedAt updStarted
  simp only [List.find?_map]
  have hid : ((fun x : Started => x.id == c) ∘ fun x => if x.id = d then f x else x) = fun x => x.id == c := by
    funext x
    by_cases hx : x.id = d <;> simp [hx, hf]
  rw [hid]
  cases hfind : s.started.find? (fun x => x.id == c) with
  | none => rfl
  | some x =>
    have hx : x.id = c := by simpa using List.find?_some hfind
    simp [hx, h]

theorem startedAt_markDone_ne {c d : Nat} (h : c ≠ d) (s : State) : startedAt c (markDone d s) = startedAt c s :=
  startedAt_updStarted_ne h (f := fun x => { x with state := .done }) (fun _ => rfl) s

/-- A command whose trigger still waits stays as it was. -/
theorem startedAt_settleSnaps_of_queued {c : Nat} : ∀ {xs : List Started} {s : State}, s.snap.queue.any (fun g => g.cmd == some c) = true →
    startedAt c (xs.foldl settleSnap s) = startedAt c s
  | [], _, _ => rfl
  | x :: xs, s, hq => by
    refine (startedAt_settleSnaps_of_queued (xs := xs) (by rw [settleSnap_snap]; exact hq)).trans ?_
    unfold settleSnap
    split
    · rename_i hdone
      refine startedAt_markDone_ne (fun hc => ?_) s
      subst hc
      simp [hq] at hdone
    · rfl

/-- A SNAP that runs and whose trigger has left the queue is complete. -/
theorem startedAt_settleSnaps_of_issued {c : Nat} {x : Started} (hrun : x.state = .running) (hbegun : x.begun = true)
    (hop : opOfBytes x.bytes = some .snap) (hid : x.id = c) : ∀ {xs : List Started} {s : State},
    s.snap.queue.any (fun g => g.cmd == some c) = false →
    startedAt c s = some { x with state := .done } ∨ (x ∈ xs ∧ startedAt c s = some x) →
    startedAt c (xs.foldl settleSnap s) = some { x with state := .done }
  | [], _, _, h => by
    rcases h with h | h
    · exact h
    · exact absurd h.1 (List.not_mem_nil)
  | y :: xs, s, hq, h => by
    have hdone {z : Started} (hz : startedAt c s = some z) (hz' : { z with state := .done } = ({ x with state := .done } : Started)) :
        startedAt c (markDone c s) = some { x with state := .done } := (startedAt_markDone hz).trans (congrArg some hz')
    refine startedAt_settleSnaps_of_issued hrun hbegun hop hid (xs := xs) (by rw [settleSnap_snap]; exact hq) ?_
    unfold settleSnap
    by_cases hy : y.id = c
    · split
      · rw [hy]
        rcases h with h | h
        · exact .inl (hdone h rfl)
        · exact .inl (hdone h.2 rfl)
      · rename_i hno
        rcases h with h | ⟨hmem, h⟩
        · exact .inl h
        · refine .inr ⟨?_, h⟩
          rcases List.mem_cons.mp hmem with rfl | hmem
          · simp [hrun, hbegun, hop, hy, hq] at hno
          · exact hmem
    · have hother : startedAt c (if y.state == .running && y.begun && opOfBytes y.bytes == some .snap &&
          !s.snap.queue.any (fun g => g.cmd == some y.id) then markDone y.id s else s) = startedAt c s := by
        split
        · exact startedAt_markDone_ne (Ne.symm hy) s
        · rfl
      rw [hother]
      rcases h with h | ⟨hmem, h⟩
      · exact .inl h
      · refine .inr ⟨?_, h⟩
        rcases List.mem_cons.mp hmem with rfl | hmem
        · exact absurd hid hy
        · exact hmem

theorem startedAt_setProg {c n : Nat} {s : State} {x : Started} (h : startedAt c s = some x) :
    startedAt c (setProg c n s) = some { x with prog := n, begun := true } :=
  startedAt_updStarted (f := fun x => { x with prog := n, begun := true }) (fun _ => rfl) h

theorem runningCmd_spec {c : Nat} {o : Op} {s : State} {x : Started} (h : runningCmd c o s = some x) :
    startedAt c s = some x ∧ x.id = c ∧ x.state = .running ∧ opOfBytes x.bytes = some o := by
  have hx := startedAt_of_runningCmd h
  refine ⟨hx, by simpa using List.find?_some hx, ?_⟩
  unfold runningCmd at h
  rw [hx] at h
  dsimp only at h
  split at h
  · rename_i hrun
    exact ⟨hrun.1, hrun.2.1⟩
  · cases h

/-- Settles O22. -/
theorem triggersJoinTheRootsQueue : Obligations.TriggersJoinTheRootsQueue := by
  unfold Obligations.TriggersJoinTheRootsQueue
  refine ⟨fun v s hroom => ?write, fun ns s hpin hlong hheld hroom => ?edge, fun ns s hno => ?noEdge, fun c s x hx hbegun hroom => ?snap,
    fun c s x hx hbegun hfull hqueue => ?snapDropped, fun p m s t htake => ⟨fun hseen => ?seen, fun hnew hroom => ?new⟩,
    fun v s hv hfull => ?writeDropped⟩
  case write =>
    have htrig : exec (.snpTrigWrite v) s = .next _ := congrArg Host.Outcome.next (queueTrigger_of_room (t := { num := v.toNat % 2 ^ 31, src := 2, fwd := true })
      (s := if v.toNat.testBit 31 then misuse bSNP s else s) rfl (by split <;> exact hroom))
    refine ⟨_, htrig, ?_, ?_, fun hv => ?_, fun hv => ?_⟩
    · cases v.toNat.testBit 31 <;> rfl
    · cases v.toNat.testBit 31 <;> rfl
    · rw [Nat.testBit_lt_two_pow hv]
      rfl
    · have hbit : v.toNat.testBit 31 = true := by
        have := v.isLt
        rw [Nat.testBit_eq_decide_div_mod_eq, decide_eq_true_eq]
        omega
      rw [hbit]
      obtain ⟨hcount, -, hother⟩ := misuse_counts s (b := bSNP) rfl
      exact ⟨hcount, fun o ho => hother o (by simpa using ho)⟩
  case edge =>
    have hq := queueTrigger_of_room (t := { num := rbits R.SNP_PIN_NUM 30 0 s, src := 3, fwd := true })
      (s := { s with snap := { s.snap with holdoff := s.naust.tick + 25 * rbits R.SNP_PIN_HOLDOFF 15 0 s } }) rfl hroom
    refine ⟨_, congrArg Host.Outcome.next ((if_pos (by simp [hpin, hlong, hheld])).trans hq), rfl, rfl, rfl⟩
  case noEdge =>
    refine congrArg Host.Outcome.next (if_neg ?_)
    rcases hno with h | h | h
    · simp [h]
    · simp [Nat.not_le.mpr h]
    · simp [Nat.not_le.mpr h]
  case snap =>
    obtain ⟨hat, hid, hrun, hop⟩ := runningCmd_spec hx
    generalize ht : ({ num := u x.bytes 16 4, src := 1, fwd := bitAt (u x.bytes 20 1) 0, cmd := some c } : Trig) = g
    have hcmd : g.cmd = some c := by rw [← ht]
    have hqueue := queueTrigger_of_room (t := g) (s := setProg c 0 s) (by rw [← ht]) hroom
    have hsnap : snapRun c s = settleSnaps (queueTrigger g (setProg c 0 s)) := by simp [snapRun, hx, hbegun, ht]
    rw [hqueue] at hsnap
    generalize hr : ({ noteTrigger g.num (setProg c 0 s) with
      snap := { (noteTrigger g.num (setProg c 0 s)).snap with queue := (setProg c 0 s).snap.queue ++ [g] } } : State) = r at hsnap
    have hrq : r.snap.queue = s.snap.queue ++ [g] := by rw [← hr]; rfl
    have hrs : startedAt c r = some { x with begun := true, prog := 0 } := by rw [← hr]; exact startedAt_setProg hat
    have hrf : { r with started := s.started, snap := s.snap } = s := by rw [← hr]; rfl
    have hframe := settleSnaps_frame r s.started
    refine ⟨_, congrArg Host.Outcome.next hsnap, ?_, ?_, ?_⟩
    · exact (congrArg (·.snap.queue) hframe :).trans hrq
    · exact (startedAt_settleSnaps_of_queued (by simp [hrq, hcmd])).trans hrs
    · exact (congrArg (fun w : State => { w with snap := s.snap }) hframe).trans hrf
  case snapDropped =>
    obtain ⟨hat, hid, hrun, hop⟩ := runningCmd_spec hx
    generalize ht : ({ num := u x.bytes 16 4, src := 1, fwd := bitAt (u x.bytes 20 1) 0, cmd := some c } : Trig) = g
    have hfullq := queueTrigger_of_full (t := g) (s := setProg c 0 s) (by rw [← ht]) hfull
    have hsnap : snapRun c s = settleSnaps (queueTrigger g (setProg c 0 s)) := by simp [snapRun, hx, hbegun, ht]
    rw [hfullq] at hsnap
    obtain ⟨hstarted, hq⟩ := dropTrigger_keeps g (noteTrigger g.num (setProg c 0 s))
    generalize dropTrigger g (noteTrigger g.num (setProg c 0 s)) = r at hsnap hstarted hq
    have hrs : startedAt c r = some { x with begun := true, prog := 0 } := by
      unfold startedAt
      rw [hstarted]
      exact startedAt_setProg hat
    refine ⟨_, congrArg Host.Outcome.next hsnap, (congrArg (·.snap.queue) (settleSnaps_frame r s.started) :).trans hq, ?_⟩
    exact startedAt_settleSnaps_of_issued (x := { x with begun := true, prog := 0 }) hrun rfl hop hid (by rw [hq]; exact hqueue)
      (.inr ⟨List.mem_of_find?_eq_some hrs, hrs⟩)
  case seen =>
    have hin : triggerIn p.val m s = rcount R.SNP_DUP t := by simp [triggerIn, htake, hseen]
    exact ⟨_, congrArg Host.Outcome.next hin, rget_rset_self .., rfl, fun o ho => rget_rcount_ne t (by simpa using ho)⟩
  case new =>
    have hin : triggerIn p.val m s = queueTrigger { num := u m.data 0 4, src := 4, port := p, hops := u m.data 4 1 } t := by
      simp [triggerIn, htake, hnew]
    exact ⟨_, congrArg Host.Outcome.next (hin.trans (queueTrigger_of_room rfl hroom)), rfl, rfl⟩
  case writeDropped =>
    have hfullq := queueTrigger_of_full (t := { num := v.toNat, src := 2, fwd := true }) rfl hfull
    refine congrArg Host.Outcome.next (Eq.trans ?_ hfullq)
    rw [snpTrigWrite, Nat.testBit_lt_two_pow hv, Nat.mod_eq_of_lt hv]
    rfl

/-! ### The banks (R345) -/

/-- A module on which a trigger freezes the engines (R349), with an attention share on a core numbered 294849: the status register of that
core stands where SNP_B0_NUM does. -/
def moduleWithStrayAttentionCore : State :=
  { rset R.SNP_CTL 1 {} with
    cores := [(294849, { run := some {} })]
    started := [{ id := 0, turn := 0, q := 0, idx := 0, unit := 0, bytes := [0x30, 1], outs := [] }] }

set_option maxRecDepth 100000 in
theorem bankNumber_moduleWithStrayAttentionCore : rget (R.SNP_Bb_NUM 0) (latchBank 0 {} moduleWithStrayAttentionCore) = 3 := by decide

/-- Refutes O23: the model bounds no core's number, and on this module the status that a freezing trigger shows for the core lands on the
number that the bank has just taken. -/
theorem not_triggersFillBanksThatAreReleased : ¬ Obligations.TriggersFillBanksThatAreReleased := by
  unfold Obligations.TriggersFillBanksThatAreReleased
  rintro ⟨⟨-, hlatch⟩, -⟩
  obtain ⟨-, hnum, -⟩ := hlatch 0 {} moduleWithStrayAttentionCore (by decide)
  rw [bankNumber_moduleWithStrayAttentionCore] at hnum
  exact absurd hnum (by decide)

end Sys2Proof.Machine
end

section
/-! The matrix pairs and the vector chain: shares, tiles and their verdicts (R64, R75 to R82, R89, R92). -/

namespace Sys2Proof.Machine

open Sys2Proof

/-! ### Dealing (R75) -/

@[simp] theorem corex_updStarted (n c : Nat) (f : Started → Started) (s : State) : corex n (updStarted c f s) = corex n s := rfl

/-! The cores of a group are dealt to in turn; each step of a dealing touches one core. -/

section
variable {deal : State → Nat → State} {first : Nat}

theorem dealing_frame (hframe : ∀ s j l, { deal s j with cores := l } = { s with cores := l }) (k : Nat) (s : State) (l : List (Nat × CoreX)) :
    { (List.range k).foldl deal s with cores := l } = { s with cores := l } := by
  induction k with
  | zero => rfl
  | succ k ih => rw [List.range_succ, List.foldl_append, List.foldl_cons, List.foldl_nil, hframe, ih]

variable (hne : ∀ s j n, n ≠ first + j → corex n (deal s j) = corex n s)
include hne

theorem corex_dealing_outside {n : Nat} (s : State) (k : Nat) (h : n < first ∨ first + k ≤ n) :
    corex n ((List.range k).foldl deal s) = corex n s := by
  induction k with
  | zero => rfl
  | succ k ih =>
    rw [List.range_succ, List.foldl_append, List.foldl_cons, List.foldl_nil, hne _ _ _ (by omega), ih (by omega)]

/-- A core of the group is as its own step of the dealing leaves it. -/
theorem corex_dealing_inside (s : State) {j k : Nat} (h : j < k) :
    corex (first + j) ((List.range k).foldl deal s) = corex (first + j) (deal ((List.range j).foldl deal s) j) := by
  induction k with
  | zero => exact absurd h (Nat.not_lt_zero j)
  | succ k ih =>
    rw [List.range_succ, List.foldl_append, List.foldl_cons, List.foldl_nil]
    rcases Nat.lt_or_ge j k with hlt | hge
    · rw [hne _ _ _ (by omega), ih hlt]
    · rw [show j = k by omega]

end

/-- The share of the j-th core of a command's group, if any unit falls to it. -/
def shareFor (x : Started) (j : Nat) : List Share :=
  if shareTiles x.bytes j = ([], []) then []
  else [{ c := x.id, q := x.q, bwd := decide (8 ≤ x.q), tilesA := (shareTiles x.bytes j).1, tilesB := (shareTiles x.bytes j).2 }]

section
variable (x : Started)

theorem ready_dealTo_self (s : State) (j : Nat) : (corex (firstCore x.bytes + j) (dealTo x s j)).ready =
    (corex (firstCore x.bytes + j) s).ready ++ shareFor x j := by
  unfold dealTo shareFor
  rcases hshare : shareTiles x.bytes j with ⟨ta, tb⟩
  dsimp only
  by_cases h : ta = [] ∧ tb = []
  · obtain ⟨rfl, rfl⟩ := h
    simp
  · have hdeal : (ta.isEmpty && tb.isEmpty) = false := by simpa using h
    have hsome : ¬ (ta, tb) = (([], []) : List (Nat × Nat) × List (Nat × Nat)) := fun e => h ⟨congrArg Prod.fst e, congrArg Prod.snd e⟩
    rw [hdeal, if_neg hsome]
    simp

theorem corex_dealTo_ne (s : State) (j n : Nat) (h : n ≠ firstCore x.bytes + j) : corex n (dealTo x s j) = corex n s := by
  unfold dealTo
  dsimp only
  split
  · rfl
  · exact corex_setCorex_ne _ h _

theorem dealTo_frame (s : State) (j : Nat) (l : List (Nat × CoreX)) : { dealTo x s j with cores := l } = { s with cores := l } := by
  unfold dealTo
  dsimp only
  split <;> rfl

end

/-- A command that begins is dealt to the cores of its group. -/
theorem dealCommand_effect {c : Nat} {s : State} {x : Started} (hx : startedAt c s = some x) :
    startedAt c (dealCommand x s) = some { x with begun := true, prog := tileCount x.bytes } ∧
    (∀ j < coreCount x.bytes, (corex (firstCore x.bytes + j) (dealCommand x s)).ready = (corex (firstCore x.bytes + j) s).ready ++ shareFor x j) ∧
    (∀ n, (n < firstCore x.bytes ∨ firstCore x.bytes + coreCount x.bytes ≤ n) → corex n (dealCommand x s) = corex n s) ∧
    { dealCommand x s with cores := s.cores, started := s.started } = s := by
  have hid : x.id = c := by simpa using List.find?_some hx
  have hframe := dealing_frame (dealTo_frame x) (coreCount x.bytes) s s.cores
  have hstarted : ((List.range (coreCount x.bytes)).foldl (dealTo x) s).started = s.started := (congrArg State.started hframe :)
  unfold dealCommand
  refine ⟨?_, fun j hj => ?_, fun n hn => corex_dealing_outside (corex_dealTo_ne x) s _ hn, ?_⟩
  · subst hid
    exact startedAt_setProg (by rw [startedAt, hstarted]; exact hx)
  · exact (congrArg CoreX.ready (corex_dealing_inside (corex_dealTo_ne x) s hj)).trans
      ((ready_dealTo_self ..).trans (by rw [corex_dealing_outside (corex_dealTo_ne x) s j (.inr le_rfl)]))
  · exact congrArg (fun w : State => { w with started := s.started }) hframe

/-- Settles O24. -/
theorem matrixCommandsDealShares : Obligations.MatrixCommandsDealShares := by
  unfold Obligations.MatrixCommandsDealShares
  intro c s x i op hmem hx
  have hexec : exec i s = .next (if x.begun then s else dealCommand x s) := by
    simp only [List.mem_cons, Prod.mk.injEq, List.not_mem_nil, or_false] at hmem
    obtain ⟨rfl, rfl⟩ | ⟨rfl, rfl⟩ | ⟨rfl, rfl⟩ | ⟨rfl, rfl⟩ := hmem <;>
      exact congrArg Host.Outcome.next (by simp only [startMatrix, vectorRun, hx])
  refine ⟨fun hbegun => by rw [hexec, if_pos hbegun], fun hbegun => ⟨dealCommand x s, by rw [hexec, hbegun]; rfl, ?_⟩⟩
  obtain ⟨hat, hid, -⟩ := runningCmd_spec hx
  subst hid
  exact dealCommand_effect hat

/-! ### Reading on -/

theorem corex_congr {s t : State} (h : t.cores = s.cores) (n : Nat) : corex n t = corex n s := by simp only [corex, h]

/-- A core that has at most read on: its share in progress stands at another place. -/
def ReadOn (k k' : CoreX) : Prop :=
  k' = { k with run := k'.run } ∧ k'.run.map (fun g => { g with pos := 0 }) = k.run.map (fun g => { g with pos := 0 })

theorem ReadOn.refl (k : CoreX) : ReadOn k k := ⟨rfl, rfl⟩

theorem ReadOn.trans {k k' k'' : CoreX} (h : ReadOn k k') (g : ReadOn k' k'') : ReadOn k k'' := by
  refine ⟨?_, g.2.trans h.2⟩
  have hk := congrArg (fun x : CoreX => { x with run := k''.run }) h.1
  exact g.1.trans hk

theorem ReadOn.ftq {k k' : CoreX} (h : ReadOn k k') : k'.ftq = k.ftq := (congrArg CoreX.ftq h.1 :)

theorem ReadOn.run_map {k k' : CoreX} (h : ReadOn k k') {β : Type} (f : Share → β) (hf : ∀ g, f { g with pos := 0 } = f g) :
    k'.run.map f = k.run.map f := by
  have hmap (r : Option Share) : r.map f = (r.map (fun g => { g with pos := 0 })).map f := by cases r <;> simp [hf]
  rw [hmap k'.run, h.2, ← hmap]

theorem foldl_cores {α : Type} {f : State → α → State} (hf : ∀ s x, (f s x).cores = s.cores) :
    ∀ (l : List α) (s : State), (l.foldl f s).cores = s.cores
  | [], _ => rfl
  | x :: l, s => (foldl_cores hf l (f s x)).trans (hf s x)

theorem showStream_cores (i : Nat) (s : State) : (showStream i s).cores = s.cores := by simp [showStream, rsetBits]

theorem showStreams_cores (n : Nat) (s : State) : (showStreams n s).cores = s.cores :=
  foldl_cores (fun t j => showStream_cores (8 * n + j) t) _ _

theorem ite_cores {c : Prop} [Decidable c] {a b s : State} (ha : a.cores = s.cores) (hb : b.cores = s.cores) :
    (if c then a else b).cores = s.cores := by
  split <;> assumption

theorem showAttn_cores (q st leg pass : Nat) (s : State) (n : Nat) : (showAttn q st leg pass s n).cores = s.cores :=
  ite_cores (by simp only [rset_cores]) (by simp only [rset_cores])

theorem showWalk_cores (n : Nat) (s : State) : (showWalk n s).cores = s.cores := by
  unfold showWalk
  split
  · rfl
  · have hcount {c : Prop} [Decidable c] : (if c then rcountSat (R.ATT_Cnn_HOLDS n) s else s).cores = s.cores := ite_cores (rcountSat_cores ..) rfl
    refine ite_cores ?_ ((showAttn_cores ..).trans hcount)
    rw [rsetBits, rset_cores]
    exact (showAttn_cores ..).trans hcount

theorem readStep_readOn {n : Nat} {h : Share} (w : List (List ARead)) {s : State} (hrun : (corex n s).run = some h) :
    ReadOn (corex n s) (corex n (readStep n h w s)) := by
  unfold readStep
  dsimp only
  rw [corex_setCorex_self]
  have hcores : ∀ (t : State) (p : Nat), (if ((stepOf ((w[h.pos]?).getD [])).filter (fun r => r.1 == p) |>.map (·.2)).isEmpty then t
      else setStreamx (streamOf n h.bwd p) (afterStep h.c ((stepOf ((w[h.pos]?).getD [])).filter (fun r => r.1 == p) |>.map (·.2))
        (((w.drop (h.pos + 1)).flatMap stepOf).filter (fun r => r.1 == p) |>.map (·.2)) (streamx (streamOf n h.bwd p) t)) t).cores = t.cores := by
    intro t p
    split <;> rfl
  rw [corex_congr (foldl_cores hcores _ s)]
  exact ⟨rfl, by rw [hrun]; rfl⟩

theorem advanceGo_readOn (n : Nat) : ∀ (f : Nat) (s : State), ReadOn (corex n s) (corex n (advanceGo n f s))
  | 0, s => ReadOn.refl _
  | f + 1, s => by
    unfold advanceGo
    cases hrun : (corex n s).run with
    | none => exact ReadOn.refl _
    | some h =>
      dsimp only
      split
      · exact ReadOn.refl _
      · split
        · exact (readStep_readOn _ hrun).trans (advanceGo_readOn n f _)
        · exact ReadOn.refl _

theorem advance_readOn (n : Nat) (s : State) : ReadOn (corex n s) (corex n (advance n s)) := by
  unfold advance
  split
  · exact ReadOn.refl _
  split
  · exact ReadOn.refl _
  · rw [corex_congr (showWalk_cores ..), corex_congr (showStreams_cores ..)]
    exact advanceGo_readOn ..

/-! ### Taking a share (R64, R76, R89) -/

theorem mem_of_chooseShare {w : Nat} {k : CoreX} {h : Share} (hc : chooseShare w k = some h) : h ∈ k.queued := by
  have hfind {p : Share → Bool} (e : k.queued.find? p = some h) : h ∈ k.queued := List.mem_of_find?_eq_some e
  have heither {a b : Option Share} (e : (a <|> b) = some h) : a = some h ∨ b = some h := by
    cases a with
    | none => exact .inr e
    | some g => exact .inl e
  unfold chooseShare at hc
  dsimp only at hc
  split at hc <;> exact (heither hc).elim hfind hfind

theorem coreShareStart_of_chosen {n : Nat} {s : State} {h : Share} {x : Started} (hfree : coreFree n s = true)
    (hc : chooseShare (rbits R.CORE_ARB 4 0 (commitShares n s)) (corex n (commitShares n s)) = some h)
    (hx : startedAt h.c (commitShares n s) = some x) : coreShareStart n s =
      if isAttn x.bytes then startAttn n h (setCorex n (takeShare h (corex n (commitShares n s))) (commitShares n s))
      else startShare n h x (setCorex n (takeShare h (corex n (commitShares n s))) (commitShares n s)) := by
  simp only [coreShareStart, if_pos hfree, hc, hx]

theorem restartReads_cores (n : Nat) (h : Share) (s : State) : (restartReads n h s).cores = s.cores := by
  refine foldl_cores (fun t p => ?_) _ _
  dsimp only
  split <;> rfl

theorem commitPieces_cores (n : Nat) (h : Share) (b : Bytes) (s : State) : (commitPieces n h b s).cores = s.cores := by
  refine foldl_cores (fun t p => ?_) _ _
  dsimp only
  split <;> rfl

section
variable {n : Nat} {h : Share} {x : Started} {s : State}

/-- A share whose slots could be captured is in progress with what it captured. -/
theorem run_startShare {a b : Bytes} (hA : captureSlot s (corex n s) (u x.bytes 19 1 % 16) (outShape x.bytes false) = .ok a)
    (hB : captureSlot s (corex n s) (u x.bytes 19 1 / 16) (outShape x.bytes true) = .ok b) :
    (corex n (startShare n h x s)).run.map (fun g => (g.c, g.chainA, g.chainB, g.tables)) = some (h.c, a, b, (corex n s).tables) := by
  unfold startShare
  dsimp only
  rw [hA, hB]
  dsimp only
  rw [(advance_readOn ..).run_map (fun g : Share => (g.c, g.chainA, g.chainB, g.tables)) (fun _ => rfl)]
  rw [corex_updStarted, corex_congr (rset_cores ..), corex_setCorex_self]
  rfl

theorem startShare_of_refused {e : Nat} (hA : captureSlot s (corex n s) (u x.bytes 19 1 % 16) (outShape x.bytes false) = .error e) :
    startShare n h x s = refuseShare n h bVCH e s := by
  unfold startShare
  dsimp only
  rw [hA]

end

/-- The core as a share leaves those that are dealt to it: its queue has been served. -/
def served (n : Nat) (h : Share) (s : State) : State :=
  setCorex n { corex n s with ready := (corex n s).ready.erase h, lastF := if h.bwd then (corex n s).lastF else h.q,
                              lastB := if h.bwd then h.q else (corex n s).lastB } s

/-- Settles O26. -/
theorem coreTakesTheChosenShare : Obligations.CoreTakesTheChosenShare := by
  unfold Obligations.CoreTakesTheChosenShare
  refine ⟨fun n s h x hfree => ?taken, fun n s hbusy => congrArg Host.Outcome.next (if_neg (Bool.eq_false_iff.mp hbusy)),
    fun n h s x hx => ⟨fun hlacks => ?lacks, fun hroom => ?room⟩⟩
  case taken =>
    intro r t hchosen hx
    have hstart := coreShareStart_of_chosen hfree hchosen hx
    refine ⟨mem_of_chooseShare hchosen, by rw [corex_setCorex_self]; rfl, fun ha => congrArg Host.Outcome.next (hstart.trans (if_pos ha)),
      fun ha => congrArg Host.Outcome.next (hstart.trans (if_neg (Bool.eq_false_iff.mp ha))), fun ha a b hA hB => ?_, fun ha e hA => ?_⟩
    · exact ⟨_, congrArg Host.Outcome.next (hstart.trans (if_neg (Bool.eq_false_iff.mp ha))), run_startShare hA hB⟩
    · exact congrArg Host.Outcome.next ((hstart.trans (if_neg (Bool.eq_false_iff.mp ha))).trans (startShare_of_refused hA))
  case lacks => simp only [commitShare, hx, hlacks, if_true]
  case room =>
    have hcommit : commitShare n h s = commitPieces n h x.bytes (setCorex n { corex n (served n h s) with
        queued := (corex n (served n h s)).queued ++ [h] } (served n h s)) := by
      unfold served
      simp only [commitShare, hx, hroom, Bool.false_eq_true, if_false]
    rw [hcommit, corex_congr (commitPieces_cores ..), corex_setCorex_self, served, corex_setCorex_self]
    exact ⟨rfl, rfl⟩

end Sys2Proof.Machine
end

section
/-! What a report of an error leaves as it was (R352, R353), and the verdicts of tiles (R65, R79, R82). -/

namespace Sys2Proof.Machine

open Sys2Proof

/-! ### Reports -/

/-- What an error that is reported, a trigger and a message that is sent leave as it was: all but registers of the links, the
snapshots and the error block, the ports, the triggers, and what the host sees of interrupts. -/
structure ReportKeeps (s t : State) : Prop where
  rest : { t with regs := s.regs, ports := s.ports, snap := s.snap, out := s.out, pcie := s.pcie } = s
  regs : ∀ o < 0xE00000, rget o t = rget o s

namespace ReportKeeps

variable {s t w : State}

protected theorem refl (s : State) : ReportKeeps s s := ⟨rfl, fun _ _ => rfl⟩

theorem trans (h : ReportKeeps s t) (g : ReportKeeps t w) : ReportKeeps s w := by
  refine ⟨?_, fun o ho => (g.regs o ho).trans (h.regs o ho)⟩
  have hg := congrArg (fun x : State => { x with regs := s.regs, ports := s.ports, snap := s.snap, out := s.out, pcie := s.pcie }) g.rest
  exact hg.trans h.rest

theorem cores (h : ReportKeeps s t) : t.cores = s.cores := (congrArg State.cores h.rest :)
theorem started (h : ReportKeeps s t) : t.started = s.started := (congrArg State.started h.rest :)
theorem queues (h : ReportKeeps s t) : t.queues = s.queues := (congrArg State.queues h.rest :)
theorem mem (h : ReportKeeps s t) : t.mem = s.mem := (congrArg State.mem h.rest :)

theorem foldl {α : Type} {f : State → α → State} (hf : ∀ t x, ReportKeeps t (f t x)) : ∀ (l : List α) (s : State), ReportKeeps s (l.foldl f s)
  | [], s => .refl s
  | x :: l, s => (hf s x).trans (foldl hf l (f s x))

theorem ite {c : Prop} [Decidable c] {a b : State} (ha : ReportKeeps s a) (hb : ReportKeeps s b) : ReportKeeps s (if c then a else b) := by
  split <;> assumption

end ReportKeeps

theorem rset_reportKeeps {o : Nat} (ho : 0xE00000 ≤ o) (v : Nat) (s : State) : ReportKeeps s (rset o v s) :=
  ⟨rfl, fun p hp => rget_rset_ne s (by omega) v⟩

theorem raiseVector_reportKeeps (v : Nat) (s : State) : ReportKeeps s (raiseVector v s) := by
  obtain ⟨o, p, e⟩ := raiseVector_frame s v
  exact ⟨by rw [e], fun o _ => rget_raiseVector s o v⟩

theorem pumpOne_reportKeeps {p : Nat} {s t : State} (h : pumpOne p s = some t) : ReportKeeps s t := by
  unfold pumpOne at h
  dsimp only at h
  split at h
  · cases h
  split at h
  · cases h
  split at h
  · cases h
    refine ⟨by simp [rcount, rcountBy, emitFlit], fun o ho => ?_⟩
    rw [rget_rcount_ne _ (by simp only [R.LNK_Lnn_TXFLITS]; omega)]
    rfl
  · cases h

theorem pump_reportKeeps (p : Nat) : ∀ (n : Nat) (s : State), ReportKeeps s (pump p n s)
  | 0, s => .refl s
  | n + 1, s => by
    unfold pump
    split
    · exact .refl s
    · exact (pumpOne_reportKeeps ‹_›).trans (pump_reportKeeps p n _)

theorem sendOn_reportKeeps (p : Nat) (m : Msg) (s : State) : ReportKeeps s (sendOn p m s) :=
  ReportKeeps.trans (t := setPortx p _ { s with out := _ }) ⟨rfl, fun _ _ => rfl⟩ (pump_reportKeeps p _ _)

theorem forwardTrigger_reportKeeps (num hops : Nat) (except : Option Nat) (s : State) : ReportKeeps s (forwardTrigger num hops except s) :=
  ReportKeeps.foldl (fun t p => .ite (sendOn_reportKeeps ..) (.refl t)) _ _

theorem announceTrigger_reportKeeps (g : Trig) (s : State) : ReportKeeps s (announceTrigger g s) := by
  have hout : ReportKeeps s (if rbit R.SNP_CTL 3 s then { s with snap := { s.snap with out := true } } else s) :=
    .ite ⟨rfl, fun _ _ => rfl⟩ (.refl s)
  unfold announceTrigger
  exact hout.trans (.ite (.ite (forwardTrigger_reportKeeps ..) (.refl _)) (.ite (forwardTrigger_reportKeeps ..) (.refl _)))

theorem dropTrigger_reportKeeps (g : Trig) (s : State) : ReportKeeps s (dropTrigger g s) :=
  ((rset_reportKeeps (by decide) _ s).trans (rset_reportKeeps (by decide) _ _)).trans (announceTrigger_reportKeeps ..)

theorem queueTrigger_reportKeeps (g : Trig) (s : State) : ReportKeeps s (queueTrigger g s) := by
  unfold queueTrigger
  exact .ite ⟨rfl, fun _ _ => rfl⟩ (.ite ⟨rfl, fun _ _ => rfl⟩ (ReportKeeps.trans (t := noteTrigger g.num s) ⟨rfl, fun _ _ => rfl⟩ (dropTrigger_reportKeeps ..)))

theorem moduleTrigger_reportKeeps (kind block : Nat) (hf : Bool) (s : State) : ReportKeeps s (moduleTrigger kind block hf s) :=
  (rset_reportKeeps (by decide) _ s).trans (queueTrigger_reportKeeps ..)

theorem snapOn_reportKeeps (o i kind block : Nat) (s : State) : ReportKeeps s (snapOn o i kind block s) :=
  .ite (moduleTrigger_reportKeeps ..) (.refl s)

theorem logError_reportKeeps (cls v : Nat) (s : State) : ReportKeeps s (logError cls v s) := by
  have hlog := (rset_reportKeeps (o := R.ERR_LOG (rget R.ERR_LOG_HEAD s % 16)) (by simp only [R.ERR_LOG]; omega) v s).trans
    (rset_reportKeeps (o := R.ERR_LOG_HEAD) (by decide) ((rget R.ERR_LOG_HEAD s % 16 + 1) % 16 +
      (((bits (rget R.ERR_LOG_HEAD s) 31 16 + 1) % 2 ^ 16) <<< 16)) _)
  exact .ite (hlog.trans (rset_reportKeeps (by decide) ..)) hlog

theorem errorVector_reportKeeps (cls : Nat) (first : Bool) (s : State) : ReportKeeps s (errorVector cls first s) := by
  unfold errorVector
  split
  · exact .ite (raiseVector_reportKeeps ..) (.refl s)
  · exact .ite (raiseVector_reportKeeps ..) (.refl s)
  · exact raiseVector_reportKeeps ..
  · exact raiseVector_reportKeeps ..
  · exact .refl s

theorem reportError_reportKeeps (cls block cause queue inst : Nat) (s : State) : ReportKeeps s (reportError cls block cause queue inst s) := by
  have hcnt : 0xE00000 ≤ R.ERR_CNT cls := by simp only [R.ERR_CNT]; omega
  have hcount : ReportKeeps s (if cls < 2 then rcount (R.ERR_CNT cls) s else rcountSat (R.ERR_CNT cls) s) :=
    .ite (rset_reportKeeps hcnt ..) (rset_reportKeeps hcnt ..)
  refine ReportKeeps.trans ?_ (errorVector_reportKeeps ..)
  refine ReportKeeps.trans ?_ (.ite (logError_reportKeeps ..) (.refl _))
  refine ReportKeeps.trans ?_ (.ite (moduleTrigger_reportKeeps ..) (.refl _))
  exact hcount.trans (rset_reportKeeps (by decide) _ _)

/-! ### Verdicts (R65, R79, R82) -/

theorem tileCorrected_cores (n q : Nat) (s : State) : (tileCorrected n q s).cores = s.cores :=
  (reportError_reportKeeps ..).cores.trans (rcountSat_cores ..)

theorem captureInvalid_cores (n row col kb : Nat) (ab : Bool) (q : Nat) (s : State) : (captureInvalid n row col kb ab q s).cores = s.cores :=
  ite_cores (rcountSat_cores ..) ((snapOn_reportKeeps ..).cores.trans ((rset_cores ..).trans (rcountSat_cores ..)))

theorem forgetPieces_cores (n : Nat) (h : Share) (b : Bytes) (s : State) : (forgetPieces n h b s).cores = s.cores := by
  refine foldl_cores (fun t p => ?_) _ _
  rfl

theorem showDepth_cores (n : Nat) (s : State) : (showDepth n s).cores = s.cores := by simp only [showDepth, rsetBits, rset_cores]

/-- A load that takes effect leaves the finished tiles of its core as they were. -/
theorem ftq_applyLoad (n : Nat) (s : State) (l : Nat × Nat × Bytes) : (corex n (applyLoad n s l)).ftq = (corex n s).ftq := by
  unfold applyLoad
  dsimp only
  split
  · rw [corex_setCorex_self]
  · rw [corex_setCorex_self]
  · have hring (t : State) (i : Nat) (x : StreamX) : (showStream i (setStreamx i x t)).cores = t.cores := showStream_cores i (setStreamx i x t)
    rw [corex_congr (foldl_cores (fun t p => hring t _ _) _ _), recommit, corex_setCorex_self]

theorem ftq_applyLoads (n : Nat) (s : State) : (corex n (applyLoads n s)).ftq = (corex n s).ftq := by
  have hfold : ∀ (l : List (Nat × Nat × Bytes)) (t : State), (corex n (l.foldl (applyLoad n) t)).ftq = (corex n t).ftq := by
    intro l
    induction l with
    | nil => exact fun _ => rfl
    | cons x l ih => exact fun t => (ih _).trans (ftq_applyLoad n t x)
  have hshow (t : State) : (showSlots n t).cores = t.cores := rset_cores ..
  unfold applyLoads
  rw [corex_congr (hshow _), hfold, corex_setCorex_self]

/-- A tile that passes enters the finished-tile queue with its record. -/
theorem ftq_tilePass (n : Nat) (ab : Bool) (h : Share) (b : Bytes) (row col : Nat) (v : TileVal) (s : State) :
    (corex n (tilePass n ab h b row col v s)).ftq = (corex n s).ftq ++ [tileRecord (corex n s) h ab row col v] := by
  have hpop (k : CoreX) : (popTile ab k).ftq = k.ftq := by
    unfold popTile
    split
    · rfl
    · cases ab <;> rfl
  unfold tilePass
  dsimp only
  generalize hk : popTile ab { corex n s with ftq := (corex n s).ftq ++ [tileRecord (corex n s) h ab row col v] } = k
  have hset : (corex n (forgetPieces n (h.without ab) b (setCorex n k s))).ftq = (corex n s).ftq ++ [tileRecord (corex n s) h ab row col v] := by
    rw [corex_congr (forgetPieces_cores ..), corex_setCorex_self, ← hk, hpop]
  generalize forgetPieces n (h.without ab) b (setCorex n k s) = r at hset ⊢
  have hstat : (corex n (if k.run.isSome then rsetBits (R.CORE_Cnn_STAT n) 1 0 1 r else rset (R.CORE_Cnn_STAT n) 0 (applyLoads n r))).ftq =
      (corex n r).ftq := by
    split
    · exact congrArg CoreX.ftq (corex_congr (rset_cores ..) n)
    · rw [corex_congr (rset_cores ..), ftq_applyLoads]
  generalize (if k.run.isSome then rsetBits (R.CORE_Cnn_STAT n) 1 0 1 r else rset (R.CORE_Cnn_STAT n) 0 (applyLoads n r)) = w at hstat ⊢
  have hread : (corex n (advance n (showStreams n (addFlags h.c ((v.flags ||| v.qflags) % 4) (showDepth n w))))).ftq = (corex n w).ftq := by
    rw [(advance_readOn ..).ftq, corex_congr (showStreams_cores ..), addFlags, corex_updStarted, corex_congr (showDepth_cores ..)]
  have hfinish : ∀ t : State, (corex n (match v.inv with
      | none => if v.flags % 2 = 1 then captureInvalid n row col 0 ab h.q t else t
      | some kb => captureInvalid n row col kb ab h.q t)).ftq = (corex n t).ftq := by
    intro t
    split
    · exact congrArg CoreX.ftq (corex_congr (ite_cores (captureInvalid_cores ..) rfl) n)
    · exact congrArg CoreX.ftq (corex_congr (captureInvalid_cores ..) n)
  exact (hfinish _).trans (hread.trans (hstat.trans hset))

/-- Settles O27. -/
theorem tileVerdicts : Obligations.TileVerdicts := by
  unfold Obligations.TileVerdicts
  refine ⟨fun n ab v s h row col b hattn hawaits => ?matrix, fun n ab v s hattn hawaits => ?idle, fun n ab v s h b hattn => ?attn,
    fun n ab s hnone => ?inject, fun n ab s hsome => ?again⟩
  case matrix =>
    intro r y lost once forced
    have hverdict : tileFinish n.val ab v s = match lost with
        | some cause => tileLost n.val h cause r
        | none => if !y.ok && once then chipFatal bCORE 1 h.q n.val r
          else if !y.ok || (r.injects == some (n.val, ab) && opOfBytes b != some .vector) then tileRetry n.val ab h.c h.q r
          else tilePass n.val ab h b row col y r := by
      unfold tileFinish
      rw [hattn, hawaits] <;> rfl
    have hforced : (r.injects == some (n.val, ab) && opOfBytes b != some .vector) = true ↔ forced := by
      simp only [Bool.and_eq_true, beq_iff_eq, bne_iff_ne, forced]
    refine ⟨fun cause hlost => congrArg Host.Outcome.next (by rw [hverdict, hlost]),
      fun hlost hok honce => congrArg Host.Outcome.next (by rw [hverdict, hlost]; exact if_pos (by rw [hok, honce]; rfl)),
      fun hlost hfirst => congrArg Host.Outcome.next ?_, fun hlost hok hno => ⟨_, congrArg Host.Outcome.next ?_, rfl, ?_⟩⟩
    · rw [hverdict, hlost]
      dsimp only
      rcases hfirst with ⟨hok, honce⟩ | ⟨hok, hf⟩
      · rw [hok, honce]
        rfl
      · rw [hok, hforced.mpr hf]
        rfl
    · rw [hverdict, hlost]
      dsimp only
      rw [hok, Bool.eq_false_iff.mpr (mt hforced.mp hno)]
      rfl
    · have hcores : r.cores = s.cores := foldl_cores (fun t _ => tileCorrected_cores n.val h.q t) _ _
      rw [ftq_tilePass, corex_congr hcores]
  case idle => exact congrArg Host.Outcome.next (by rw [tileFinish, hattn, hawaits])
  case attn => exact congrArg Host.Outcome.next (by rw [tileFinish, hattn])
  case inject =>
    have hin : inject n.val ab (rsetBits R.CORE_CTL 14 8 (n.val + 64 * nb ab) s) =
        { rsetBits R.CORE_CTL 14 8 (n.val + 64 * nb ab) s with injects := some (n.val, ab) } := by
      simp [inject, rsetBits, hnone]
    exact ⟨_, congrArg Host.Outcome.next hin, by simp, by simp [rsetBits], fun o ho =>
      (rget_congr (s := rsetBits R.CORE_CTL 14 8 (n.val + 64 * nb ab) s) (by simp) o).trans (rget_rsetBits_ne s ho ..)⟩
  case again =>
    have hin : inject n.val ab (rsetBits R.CORE_CTL 14 8 (n.val + 64 * nb ab) s) = misuse bCORE (rsetBits R.CORE_CTL 14 8 (n.val + 64 * nb ab) s) :=
      by simp [inject, rsetBits, hsome]
    obtain ⟨hcount, -, hother⟩ := misuse_counts (rsetBits R.CORE_CTL 14 8 (n.val + 64 * nb ab) s) (b := bCORE) rfl
    refine ⟨_, congrArg Host.Outcome.next hin, counted_congr (rget_rsetBits_ne s (by decide) ..) hcount, by simp [misuse, misuseOf, bCORE, rsetBits], fun o ho => ?_⟩
    simp only [List.mem_cons, List.not_mem_nil, or_false, not_or] at ho
    rw [hother o (by simpa using ho.2), rget_rsetBits_ne s ho.1]

/-! ### The chain (R79, R85, R93) -/

/-- Settles O28. -/
theorem chainTakesTheOldestTile : Obligations.ChainTakesTheOldestTile := by
  unfold Obligations.ChainTakesTheOldestTile
  refine ⟨fun n s t rest x hftq hheld hx hfree => ?runs, fun n s t rest x hftq hx hwait => ?waits, fun c s x hx => ?counts⟩
  case runs =>
    intro sh env r w
    have hchain : chainTile n.val s = match r.cause with
        | none => endFull n.val (decide (16 ≤ (corex n.val s).ftq.length)) (tileOut t.c w)
        | some cause => failCmd t.c bVCH cause n.val (withdraw t.c true true w) := by
      simp only [chainTile, hftq, hheld, Bool.false_eq_true, if_false, hx, hfree]
      rfl
    exact ⟨fun hok => congrArg Host.Outcome.next (by rw [hchain, hok]), fun cause hfail => congrArg Host.Outcome.next (by rw [hchain, hfail])⟩
  case waits =>
    refine congrArg Host.Outcome.next ?_
    rcases hwait with h | h
    · simp only [chainTile, hftq, h, if_true]
    · simp only [chainTile, hftq, hx, h, if_true, ite_self]
  case counts =>
    unfold tileOut
    rw [hx]
    dsimp only
    split
    · exact ⟨startedAt_markDone (startedAt_setProg hx), rfl⟩
    · exact ⟨startedAt_setProg hx, rfl⟩

end Sys2Proof.Machine
end

section
/-! Loads of chains, tables and rings, and the running of attention commands (R91, R107, R115, R118, R136, R188). -/

namespace Sys2Proof.Machine

open Sys2Proof

/-! ### Loads (R91, R188) -/

/-- A CHAIN_LOAD to core C00 that has started. -/
def strayLoadCommand : Started :=
  { id := 0, bytes := [0x20, 1, 0, 0, 0, 0, 0, 0, 0, 0, 0, 0, 0, 0, 0, 0, 0, 1], outs := [(peerBase, 1)], begun := true }

/-- A module on which a load of rings of class 114624 waits at core C00, so that the status register of a stream it names stands where
KPR_CFG does: once the load has taken effect the module counts as device 0, and a bank command holds what the CHAIN_LOAD may write. -/
def moduleWithStrayLoad : State :=
  { rset R.KPR_CFG 0x100 {} with
    cores := [(0, { loads := [(2, 114624, [])] })]
    bank := { ({} : State).bank with ranges := [(0, 1)] }
    started := [strayLoadCommand] }

theorem runningCmd_moduleWithStrayLoad : runningCmd 0 .chainLoad moduleWithStrayLoad = some strayLoadCommand := by decide +kernel

theorem loadRun_moduleWithStrayLoad : (loadRun true 0 moduleWithStrayLoad).started.map (·.state) = [.failed 0] := by decide +kernel

/-- The state that the statement gives. -/
def statedAfterStrayLoad : State :=
  let t := (coresOf strayLoadCommand.bytes).foldl settleLoad moduleWithStrayLoad
  if loadPending 1 0 strayLoadCommand.bytes t then t else markDone 0 t

theorem states_statedAfterStrayLoad : statedAfterStrayLoad.started.map (·.state) = [.done] := by decide +kernel

/-- Refutes O29: the model bounds no class of a load of rings, and on this module the CHAIN_LOAD halts as malformed where the statement has
it complete or go on waiting. -/
theorem not_loadsReachEveryCore : ¬ Obligations.LoadsReachEveryCore := by
  unfold Obligations.LoadsReachEveryCore
  rintro ⟨hload, -⟩
  obtain ⟨hbegun, -⟩ := hload 0 moduleWithStrayLoad strayLoadCommand true (by rw [if_pos rfl]; exact runningCmd_moduleWithStrayLoad)
  have hrun : exec (.chainLoad 0) moduleWithStrayLoad = .next statedAfterStrayLoad := hbegun (.inl rfl)
  have hstates := loadRun_moduleWithStrayLoad
  rw [Host.Outcome.next.inj hrun, states_statedAfterStrayLoad] at hstates
  exact absurd hstates (by decide)

/-! ### Attention commands (R107, R115, R118, R136) -/

section
variable {o : Op} {c : Nat} {s : State} {x : Started} {f : Started → State → State} {run : UnitRun}

theorem attnRun_of_new (hx : runningCmd c o s = some x) (hbegun : x.begun = false) : attnRun o f run c s = f x s := by
  simp only [attnRun, hx, hbegun, Bool.not_false, if_true]

theorem attnRun_of_begun (hx : runningCmd c o s = some x) (hbegun : x.begun = true) : attnRun o f run c s =
    attnSettle x ((coresOf x.bytes).foldl (fun t n =>
      finishUnits run x n (match (corex n t).run with | none => 0 | some h => h.tilesA.length) (advance n t)) s) := by
  simp only [attnRun, hx, hbegun, Bool.not_true, Bool.false_eq_true, if_false] <;> rfl

end

/-- The share of the j-th core of an attention command's group, as a state gives its units. -/
def attnShareFor (x : Started) (j : Nat) (s : State) : List Share :=
  if attnUnits x j s = [] then []
  else [{ c := x.id, q := x.q, bwd := decide (8 ≤ x.q), units := attnUnits x j s,
          tilesA := (List.range (attnUnits x j s).length).map (fun i => (i, 0)) }]

section
variable (x : Started)

theorem ready_dealUnits_self (s : State) (j : Nat) : (corex (firstCore x.bytes + j) (dealUnits x s j)).ready =
    (corex (firstCore x.bytes + j) s).ready ++ attnShareFor x j s := by
  unfold dealUnits attnShareFor
  dsimp only
  by_cases h : attnUnits x j s = []
  · simp [h]
  · have hdeal : (attnUnits x j s).isEmpty = false := by simpa using h
    rw [hdeal, if_neg h]
    simp

theorem corex_dealUnits_ne (s : State) (j n : Nat) (h : n ≠ firstCore x.bytes + j) : corex n (dealUnits x s j) = corex n s := by
  unfold dealUnits
  dsimp only
  split
  · rfl
  · exact corex_setCorex_ne _ h _

theorem dealUnits_frame (s : State) (j : Nat) (l : List (Nat × CoreX)) : { dealUnits x s j with cores := l } = { s with cores := l } := by
  unfold dealUnits
  dsimp only
  split <;> rfl

end

/-- Settles O30. -/
theorem attentionRunsInOrder : Obligations.AttentionRunsInOrder := by
  unfold Obligations.AttentionRunsInOrder
  refine ⟨fun c s x i op hmem hx hbegun => ?ring, fun c s x hx hbegun => congrArg Host.Outcome.next (attnRun_of_new hx hbegun),
    fun c s x hx hbegun => ?paged, fun s x hx => ?deal, fun c s x i op run hmem hx hbegun => ?goesOn, fun s x y hy hrun => ?settle,
    fun n s c x hwait hx hlimit => ?timeout, fun n s hno => ?noTimeout⟩
  case ring =>
    intro a
    obtain ⟨hat, hid, -⟩ := runningCmd_spec hx
    have hexec : exec i s = .next (ringBegin x s) := by
      simp only [List.mem_cons, Prod.mk.injEq, List.not_mem_nil, or_false] at hmem
      obtain ⟨rfl, rfl⟩ | ⟨rfl, rfl⟩ := hmem <;> exact congrArg Host.Outcome.next (attnRun_of_new hx hbegun)
    subst hid
    refine ⟨fun hlen => hexec.trans (congrArg Host.Outcome.next (if_pos hlen)), fun hlen e he => hexec.trans (congrArg Host.Outcome.next ?_),
      fun hlen he => hexec.trans (congrArg Host.Outcome.next ?_)⟩
    · simp only [ringBegin, if_neg hlen]
      rw [he]
    · simp only [ringBegin, if_neg hlen]
      rw [he]
  case paged =>
    intro p short
    obtain ⟨hat, hid, -⟩ := runningCmd_spec hx
    have hexec : exec (.attnPaged c) s = .next (pagedBegin x s) := congrArg Host.Outcome.next (attnRun_of_new hx hbegun)
    have hshort : (List.range p.nslots).any (fun i => decide (lenOf x i < p.nq) || decide ((sdOf (p.slot i) s).layers ≤ p.layer)) = true ↔ short := by
      simp only [List.any_eq_true, List.mem_range, Bool.or_eq_true, decide_eq_true_eq, short]
    subst hid
    exact ⟨fun h => hexec.trans (congrArg Host.Outcome.next (if_pos (hshort.mpr h))),
      fun h => hexec.trans (congrArg Host.Outcome.next (if_neg (mt hshort.mp h)))⟩
  case deal =>
    intro t
    generalize houts : (match opOfBytes x.bytes with
      | some .attnFwd | some .attnBwd => distinct ((adOf x.bytes).legs.flatMap (attnSpoil x.bytes))
      | _ => attnSpoil x.bytes 0) = outs
    have ht : t = (List.range (coreCount x.bytes)).foldl (dealUnits x)
        (updStarted x.id (fun y => { y with begun := true, prog := 0, outs := outs }) s) := by rw [← houts]; rfl
    clear_value t
    subst ht
    generalize hr : updStarted x.id (fun y => { y with begun := true, prog := 0, outs := outs }) s = r
    have hrs : { r with started := s.started } = s := by rw [← hr]; rfl
    have hcore (n : Nat) : corex n r = corex n s := corex_congr (congrArg State.cores hrs :) n
    have hframe (k : Nat) := dealing_frame (dealUnits_frame x) k r s.cores
    have hall (k : Nat) : { (List.range k).foldl (dealUnits x) r with cores := s.cores, started := s.started } = s :=
      (congrArg (fun w : State => { w with started := s.started }) (hframe k)).trans
        (congrArg (fun w : State => { w with cores := s.cores }) hrs)
    refine ⟨?_, fun j hj => ⟨(List.range j).foldl (dealUnits x) r, hall j, ?_⟩, fun n hn => ?_, hall _⟩
    · have hstarted : ((List.range (coreCount x.bytes)).foldl (dealUnits x) r).started = r.started := (congrArg State.started (hframe _) :)
      have hat := startedAt_updStarted (f := fun y => { y with begun := true, prog := 0, outs := outs }) (fun _ => rfl) hx
      rw [hr] at hat
      rw [startedAt, hstarted]
      exact congrArg (Option.map _) hat
    · refine (congrArg CoreX.ready (corex_dealing_inside (corex_dealUnits_ne x) r hj)).trans ((ready_dealUnits_self ..).trans ?_)
      rw [corex_dealing_outside (corex_dealUnits_ne x) r j (.inr le_rfl), hcore]
      rfl
    · rw [corex_dealing_outside (corex_dealUnits_ne x) r _ hn, hcore]
  case goesOn =>
    simp only [List.mem_cons, Prod.mk.injEq, List.not_mem_nil, or_false] at hmem
    obtain ⟨rfl, rfl, rfl⟩ | ⟨rfl, rfl, rfl⟩ | ⟨rfl, rfl, rfl⟩ | ⟨rfl, rfl, rfl⟩ := hmem <;>
      exact congrArg Host.Outcome.next (attnRun_of_begun hx hbegun)
  case settle =>
    refine ⟨fun hnone => ?_, fun ⟨n, hn, hsome⟩ => ?_⟩
    · have hall : (coresOf x.bytes).all (fun n => (heldShare x.id (corex n s)).isNone) = true :=
        List.all_eq_true.mpr fun n hn => by rw [hnone n hn]; rfl
      simp only [attnSettle, hy, hrun, hall]
      exact startedAt_markDone hy
    · have hall : (coresOf x.bytes).all (fun n => (heldShare x.id (corex n s)).isNone) = false :=
        List.all_eq_false.mpr ⟨n, hn, by rw [Option.isNone_eq_false_iff.mpr hsome]; decide⟩
      simp only [attnSettle, hy, hall, Bool.and_false, Bool.false_eq_true, if_false]
  case timeout => exact congrArg Host.Outcome.next (by simp only [attBatonTimeout, hwait, if_neg hlimit, hx])
  case noTimeout =>
    refine congrArg Host.Outcome.next ?_
    rcases hno with h | h
    · simp only [attBatonTimeout, h]
    · unfold attBatonTimeout
      split
      · rfl
      · exact if_pos h

end Sys2Proof.Machine
end

section
/-! Sequence slots and pages (R123 to R135, R139). -/

namespace Sys2Proof.Machine

open Sys2Proof

/-! ### When a page command runs (R123, R127, R131) -/

/-- Is a page command that started before `x` unfinished? -/
def pageCmdBefore (x : Started) (s : State) : Bool :=
  s.started.any (fun y => decide (y.turn < x.turn) && y.state == .running && (opOfBytes y.bytes).any isPageOp)

theorem pageCmd_eq {c : Nat} {o : Op} {f : Started → State → State} {s : State} {x : Started} (hx : runningCmd c o s = some x) :
    pageCmd c o f s = if pageCmdBefore x s then s else if u x.image 0 1 = 0 then failCmd c bKVP 0x0135 0 s
      else if (pagesRead o x.bytes s).any (fun y => booksLost y.1 y.2 s) then booksFatal s else f x s := by
  have hop (o : Option Op) : (match o with | none => false | some o => isPageOp o) = o.any isPageOp := by cases o <;> rfl
  simp only [pageCmd, hx, pageCmdBefore, ← hop] <;> rfl

theorem pageCmd_of_due {c : Nat} {o : Op} {f : Started → State → State} {s : State} {x : Started} (hx : runningCmd c o s = some x)
    (hbefore : pageCmdBefore x s = false) (hon : u x.image 0 1 ≠ 0) (hbooks : (pagesRead o x.bytes s).any (fun y => booksLost y.1 y.2 s) = false) :
    pageCmd c o f s = f x s := by
  rw [pageCmd_eq hx, hbefore, if_neg Bool.false_ne_true, if_neg hon, hbooks, if_neg Bool.false_ne_true]

/-! ### SLOT_FORK, KV_WRITE and PAGE_HINT (R128 to R130, R133) -/

/-- What KV_WRITE does once its sources are sound and frames have been asked for, with what the asking came to. -/
def kvWriteReserved (x : Started) (s : State) (r : Bool × State) : State :=
  let q := u x.bytes 16 1
  let l := u x.bytes 17 1
  let first := u x.bytes 20 4
  let n := u x.bytes 24 4
  let d := sdOf q s
  let k := TD.parse (unitAt x.bytes 1)
  let v := TD.parse (unitAt x.bytes 2)
  if !r.1 then failCmd x.id bKVP 0x0131 0 r.2
  else markDone x.id (showSlot q (rset (R.KVP_Qnn_LEN q) (max (slotLen q s) (first + n))
    (((List.range n).flatMap (fun i => kvOpen d l (first + i) k v)).foldl (fun t y => forgetAt t (regionAddr q y.1 t, y.2))
      (((List.range n).flatMap (fun i => kvPuts s d l (first + i) i k v)).foldl (putRegion q)
        ((d.tokenPages l first (first + n)).foldl (readyToWrite q) r.2)))))

theorem kvWriteGo_eq (x : Started) (s : State) :
    let q := u x.bytes 16 1
    let first := u x.bytes 20 4
    let n := u x.bytes 24 4
    let d := sdOf q s
    let k := TD.parse (unitAt x.bytes 1)
    let v := TD.parse (unitAt x.bytes 2)
    kvWriteGo x s = if slotLen q s < first ∨ d.maxLen < first + n then failCmd x.id bKVP 0x0132 0 s
      else match k.unmapped s <|> v.unmapped s with
        | some a => failCmd x.id bKVP (reachCause s a) 0 (captureReach a s)
        | none => if (k.ranges ++ v.ranges).any (fun y => bankHolds y.1 y.2 s) then s
          else if k.poisoned s || v.poisoned s then failCmd x.id bKVP 0x0142 0 (touchReads (k.ranges ++ v.ranges) s)
          else kvWriteReserved x s (reserve (fun w => (d.tokenPages (u x.bytes 17 1) first (first + n)).foldl
            (fun a p => a + framesToWrite q p w) 0) (touchReads (k.ranges ++ v.ranges) s)) := by
  unfold kvWriteGo kvWriteReserved
  dsimp only <;> generalize reserve _ _ = r <;> rfl

/-- Settles O32, by the branches of the three commands. -/
theorem slotForkWriteAndHint : Obligations.SlotForkWriteAndHint := by
  unfold Obligations.SlotForkWriteAndHint
  intro c s x hbefore hon
  refine ⟨fun hx hbooks => ?fork, fun hx hbooks => ?write, fun hx hbooks => ?hint⟩
  case fork =>
    intro dst src a b len same ps r
    have hid := (runningCmd_spec hx).2.1
    subst hid
    have hexec : exec (.slotFork x.id) s = .next (slotForkGo x s) := congrArg Host.Outcome.next (pageCmd_of_due hx hbefore hon hbooks)
    have hsame : ¬ (slotLen dst s ≠ 0 ∨ a.hdCode ≠ b.hdCode ∨ a.kvHeads ≠ b.kvHeads ∨ a.layers ≠ b.layers ∨ a.kFmt ≠ b.kFmt ∨
        a.vFmt ≠ b.vFmt ∨ a.maxLen ≠ b.maxLen) ↔ same := by
      simp only [not_or, not_not, ne_eq, same]
    refine ⟨fun h => hexec.trans (congrArg Host.Outcome.next (if_pos (not_not.mp (mt hsame.mp h)))), fun h hr => hexec.trans (congrArg Host.Outcome.next ?_),
      fun h hr => hexec.trans (congrArg Host.Outcome.next ?_)⟩
    · refine (if_neg (hsame.mpr h)).trans ?_
      change (if !r.1 then failCmd x.id bKVP 0x0131 0 r.2 else _) = _
      rw [hr]
      rfl
    · refine (if_neg (hsame.mpr h)).trans ?_
      change (if !r.1 then failCmd x.id bKVP 0x0131 0 r.2 else _) = _
      rw [hr]
      rfl
  case write =>
    intro q l first n d k v ps r puts opens fits there held sound
    have hid := (runningCmd_spec hx).2.1
    subst hid
    have hexec : exec (.kvWrite x.id) s = .next (kvWriteGo x s) := congrArg Host.Outcome.next (pageCmd_of_due hx hbefore hon hbooks)
    have hgo := kvWriteGo_eq x s
    dsimp only at hgo
    have hreserved : kvWriteReserved x s r = if !r.1 then failCmd x.id bKVP 0x0131 0 r.2 else markDone x.id (showSlot q (rset (R.KVP_Qnn_LEN q)
        (max (slotLen q s) (first + n)) (opens.foldl (fun t y => forgetAt t (regionAddr q y.1 t, y.2)) (puts.foldl (putRegion q)
          (ps.foldl (readyToWrite q) r.2))))) := rfl
    have hfits (h : fits) : ¬ (slotLen q s < first ∨ d.maxLen < first + n) := not_or.mpr ⟨Nat.not_lt.mpr h.1, Nat.not_lt.mpr h.2⟩
    have hthere (h : fits) (hmapped : there) : kvWriteGo x s = if held then s
        else if k.poisoned s || v.poisoned s then failCmd x.id bKVP 0x0142 0 (touchReads (k.ranges ++ v.ranges) s) else kvWriteReserved x s r := by
      rw [hgo, if_neg (hfits h)]
      change (match k.unmapped s <|> v.unmapped s with | some _ => _ | none => _) = _
      rw [hmapped]
    have hsound (h : sound) : (k.poisoned s || v.poisoned s) = false := Bool.or_eq_false_iff.mpr h
    have hnext {t : State} (h : kvWriteGo x s = t) : exec (.kvWrite x.id) s = .next t := hexec.trans (congrArg Host.Outcome.next h)
    refine ⟨fun h => hnext ?_, fun h a ha => hnext ?_, fun h hmapped hheld => hnext ?_, fun h hmapped hfree hbad => hnext ?_,
      fun h hmapped hfree hclean hr => hnext ?_, fun h hmapped hfree hclean hr => hnext ?_⟩
    · have hout : slotLen q s < first ∨ d.maxLen < first + n := by
        by_contra hno
        exact h ⟨Nat.not_lt.mp (not_or.mp hno).1, Nat.not_lt.mp (not_or.mp hno).2⟩
      rw [hgo, if_pos hout]
    · rw [hgo, if_neg (hfits h), ha]
    · rw [hthere h hmapped, hheld, if_pos rfl]
    · have hpoison : (k.poisoned s || v.poisoned s) = true := by
        by_contra hno
        exact hbad (Bool.or_eq_false_iff.mp (Bool.eq_false_iff.mpr hno))
      rw [hthere h hmapped, hfree, if_neg Bool.false_ne_true, if_pos hpoison]
    · rw [hthere h hmapped, hfree, if_neg Bool.false_ne_true, hsound hclean, if_neg Bool.false_ne_true, hreserved, hr]
      rfl
    · rw [hthere h hmapped, hfree, if_neg Bool.false_ne_true, hsound hclean, if_neg Bool.false_ne_true, hreserved, hr]
      rfl
  case hint =>
    have hid := (runningCmd_spec hx).2.1
    subst hid
    exact congrArg Host.Outcome.next (pageCmd_of_due (f := pageHintGo) hx hbefore hon hbooks)

/-! ### What the books' own writes leave as they were -/

/-- What taking, marking, copying and freeing of frames leave as it was: the slots, the pages on their way, the started commands, and
every register of the page manager and below but three. -/
structure BooksKeep (s t : State) : Prop where
  slots : t.kvp.slots = s.kvp.slots
  ageing : t.kvp.ageing = s.kvp.ageing
  fetching : t.kvp.fetching = s.kvp.fetching
  started : t.started = s.started
  regs : ∀ o < 0x501000, o ∉ [R.KVP_FREE, R.KVP_EVT, R.KVP_STAT] → rget o t = rget o s

namespace BooksKeep

variable {s t w : State}

protected theorem refl (s : State) : BooksKeep s s := ⟨rfl, rfl, rfl, rfl, fun _ _ _ => rfl⟩

theorem trans (h : BooksKeep s t) (g : BooksKeep t w) : BooksKeep s w :=
  ⟨g.slots.trans h.slots, g.ageing.trans h.ageing, g.fetching.trans h.fetching, g.started.trans h.started,
    fun o ho hn => (g.regs o ho hn).trans (h.regs o ho hn)⟩

theorem ite {c : Prop} [Decidable c] {a b : State} (ha : BooksKeep s a) (hb : BooksKeep s b) : BooksKeep s (if c then a else b) := by
  split <;> assumption

end BooksKeep

theorem poke_booksKeep (a : Nat) (b : Bytes) (s : State) : BooksKeep s (poke a b s) := by
  have h := poke_writeKeeps a b s
  have hkvp : (poke a b s).kvp = s.kvp := (congrArg State.kvp h.rest :)
  exact ⟨by rw [hkvp], by rw [hkvp], by rw [hkvp], h.started, fun o ho _ => h.low (by omega)⟩

theorem rset_booksKeep {o : Nat} (ho : o ∈ [R.KVP_FREE, R.KVP_EVT, R.KVP_STAT] ∨ 0x501000 ≤ o) (v : Nat) (s : State) : BooksKeep s (rset o v s) := by
  refine ⟨rfl, rfl, rfl, rfl, fun p hp hn => rget_rset_ne s (fun e => ?_) v⟩
  subst e
  rcases ho with ho | ho
  · exact hn ho
  · omega

theorem showPool_booksKeep (s : State) : BooksKeep s (showPool s) := by
  have hshow := (rset_booksKeep (o := R.KVP_FREE) (.inl (by simp)) (s.kvp.freeS.length + (s.kvp.freeL.length <<< 32)) s)
  have hstat (t : State) (hi lo v : Nat) : BooksKeep t (rsetBits R.KVP_STAT hi lo v t) := rset_booksKeep (.inl (by simp)) _ t
  have hboth (a b : Nat) := (hshow.trans (hstat _ 1 1 a)).trans (hstat _ 15 8 b)
  exact .ite ((hboth _ _).trans (rset_booksKeep (.inl (by simp)) _ _)) (hboth _ _)

theorem setFrame_booksKeep (f : Frame) (n : Nat) (alloc : Bool) (s : State) : BooksKeep s (setFrame f n alloc s) := poke_booksKeep ..

theorem setPte_booksKeep (q p v : Nat) (s : State) : BooksKeep s (setPte q p v s) := poke_booksKeep ..

theorem freeFrame_booksKeep (s : State) (f : Frame) : BooksKeep s (freeFrame s f) := by
  have hfree : BooksKeep s (if f.1 then { s with kvp := { s.kvp with freeL := s.kvp.freeL ++ [f.2] } }
      else { s with kvp := { s.kvp with freeS := s.kvp.freeS ++ [f.2] } }) :=
    .ite ⟨rfl, rfl, rfl, rfl, fun _ _ _ => rfl⟩ ⟨rfl, rfl, rfl, rfl, fun _ _ _ => rfl⟩
  exact hfree.trans (showPool_booksKeep _)

theorem giveBack_booksKeep (f : Frame) (s : State) : BooksKeep s (giveBack f s) := by
  refine (setFrame_booksKeep f 0 false s).trans ?_
  unfold giveBack
  exact .ite ⟨rfl, rfl, rfl, rfl, fun _ _ _ => rfl⟩ (freeFrame_booksKeep ..)

theorem dropRef_booksKeep (f : Frame) (s : State) : BooksKeep s (dropRef f s) := .ite (giveBack_booksKeep ..) (setFrame_booksKeep ..)

theorem copyFrame_booksKeep (src dst : Nat) (s : State) : BooksKeep s (copyFrame src dst s) := by
  unfold copyFrame
  dsimp only
  have hput := poke_booksKeep dst (readBytes s src pageSize) s
  generalize poke dst (readBytes s src pageSize) s = t at hput ⊢
  exact hput.trans ⟨rfl, rfl, rfl, rfl, fun _ _ _ => rfl⟩

theorem takeS_booksKeep {near : Option Nat} {s t : State} {f : Nat} (h : takeS near s = some (f, t)) : BooksKeep s t := by
  obtain ⟨g, -, hg⟩ := Option.map_eq_some_iff.mp h
  cases hg
  exact BooksKeep.trans (t := bumpFree { s with kvp := { s.kvp with freeS := s.kvp.freeS.erase f } })
    ⟨rfl, rfl, rfl, rfl, fun _ _ _ => rfl⟩ (showPool_booksKeep _)

theorem showSlot_booksKeep (q : Nat) (s : State) : BooksKeep s (showSlot q s) :=
  (rset_booksKeep (.inr (by simp only [R.KVP_Qnn_SPAGES]; omega)) _ s).trans (rset_booksKeep (.inr (by simp only [R.KVP_Qnn_LPAGES]; omega)) _ _)

theorem landFetch_booksKeep (q p f : Nat) (pin : Bool) (s : State) : BooksKeep s (landFetch q p f pin s) :=
  ((((copyFrame_booksKeep ..).trans (setFrame_booksKeep ..)).trans (setPte_booksKeep ..)).trans (dropRef_booksKeep ..)).trans (showSlot_booksKeep ..)

/-! ### Slots (R123, R126, R127) -/

/-- A change that leaves the slots and the started commands as they were. -/
def SlotsKeep (s t : State) : Prop := t.kvp.slots = s.kvp.slots ∧ t.started = s.started

theorem SlotsKeep.trans {s t w : State} (h : SlotsKeep s t) (g : SlotsKeep t w) : SlotsKeep s w := ⟨g.1.trans h.1, g.2.trans h.2⟩

theorem BooksKeep.slotsKeep {s t : State} (h : BooksKeep s t) : SlotsKeep s t := ⟨h.slots, h.started⟩

theorem SlotsKeep.foldl {α : Type} {f : State → α → State} (hf : ∀ t x, SlotsKeep t (f t x)) : ∀ (l : List α) (s : State), SlotsKeep s (l.foldl f s)
  | [], _ => ⟨rfl, rfl⟩
  | x :: l, s => (hf s x).trans (SlotsKeep.foldl hf l (f s x))

theorem SlotsKeep.slotx {s t : State} (h : SlotsKeep s t) (q : Nat) : Machine.slotx q t = Machine.slotx q s := by simp only [Machine.slotx, h.1]

theorem abandonAge_slotsKeep (q p : Nat) (s : State) : SlotsKeep s (abandonAge q p s) := by
  unfold abandonAge
  split
  · exact ⟨rfl, rfl⟩
  · rename_i m _
    have hput (t : State) : SlotsKeep t (rcount R.KVP_ABANDON (giveBack (true, m.frame) (setPte q p (setBits (pte q p s) 2 1 0) t))) := by
      have hpte := (setPte_booksKeep q p (setBits (pte q p s) 2 1 0) t).trans (giveBack_booksKeep (true, m.frame) _)
      generalize giveBack (true, m.frame) _ = w at hpte ⊢
      exact ⟨hpte.slots, hpte.started⟩
    have hdrop : SlotsKeep s { s with kvp := { s.kvp with ageing := s.kvp.ageing.erase m } } := ⟨rfl, rfl⟩
    dsimp only
    generalize ({ s with kvp := { s.kvp with ageing := s.kvp.ageing.erase m } } : State) = t at hdrop ⊢
    exact hdrop.trans (hput t)

theorem unmapPage_slotsKeep (q : Nat) (s : State) (p : Nat) : SlotsKeep s (unmapPage q s p) := by
  have hfetch (t : State) : SlotsKeep t (match fetchingOf q p t with
      | none => t
      | some m => giveBack (false, m.frame) { t with kvp := { t.kvp with fetching := t.kvp.fetching.erase m } }) := by
    split
    · exact ⟨rfl, rfl⟩
    · rename_i m _
      have hdrop : SlotsKeep t { t with kvp := { t.kvp with fetching := t.kvp.fetching.erase m } } := ⟨rfl, rfl⟩
      generalize ({ t with kvp := { t.kvp with fetching := t.kvp.fetching.erase m } } : State) = w at hdrop ⊢
      exact hdrop.trans (giveBack_booksKeep ..).slotsKeep
  have hdrop (t : State) : SlotsKeep t (if pteValid (pte q p t) then dropRef (frameAt (pteFrame (pte q p t)) t) (setPte q p 0 t) else t) := by
    split
    · exact ((setPte_booksKeep ..).trans (dropRef_booksKeep ..)).slotsKeep
    · exact ⟨rfl, rfl⟩
  exact ((abandonAge_slotsKeep q p s).trans (hfetch _)).trans (hdrop _)

/-- KVP_OPEN shows the open slots. -/
theorem rbit_showOpen {q : Nat} {s : State} (hq : (slotx q s).isOpen = false) : rbit R.KVP_OPEN q (showOpen s) = false := by
  have hfold : ∀ (l : List Nat) (a : Nat), a.testBit q = false → q ∉ l → (l.foldl (fun a i => a ||| (1 <<< i)) a).testBit q = false := by
    intro l
    induction l with
    | nil => exact fun a ha _ => ha
    | cons i l ih =>
      intro a ha hl
      simp only [List.mem_cons, not_or] at hl
      refine ih _ ?_ hl.2
      rw [Nat.testBit_or, ha, Nat.one_shiftLeft, Nat.testBit_two_pow]
      simpa using fun e => hl.1 e.symm
  unfold rbit showOpen
  rw [rget_rset_self]
  refine hfold _ 0 (Nat.zero_testBit q) fun hmem => ?_
  have hopen := (List.mem_filter.mp hmem).2
  rw [hq] at hopen
  cases hopen

theorem touchRead_slotsKeep (s : State) (x : Nat × Nat) : SlotsKeep s (touchRead s x) := by
  unfold touchRead
  split <;> exact ⟨rfl, rfl⟩

theorem showOpen_slotsKeep (s : State) : SlotsKeep s (showOpen s) := ⟨rfl, rfl⟩

theorem rset_slotsKeep (o v : Nat) (s : State) : SlotsKeep s (rset o v s) := ⟨rfl, rfl⟩

theorem SlotsKeep.startedAt {s t : State} (h : SlotsKeep s t) (c : Nat) : Machine.startedAt c t = Machine.startedAt c s := by
  simp only [Machine.startedAt, h.2]

/-- What SLOT_OPEN comes to once its descriptor and its list are sound. -/
def slotOpened (x : Started) (s : State) : State :=
  let d := SD.parse (unitAt x.bytes 1)
  let gl := (List.range d.nGlobal).map (fun i => readNat s (d.glist + 4 * i) 4)
  let gp := distinct (gl.flatMap (fun g => (List.range d.layers).flatMap (fun l =>
    rangePages ((List.range d.kvHeads).flatMap (fun h =>
      tokenParts (d.ad.place false (l * d.layerBytes) (g / 64) h).k (g % 64))))))
  markDone x.id (showSlot d.slot (showOpen (rset (R.KVP_Qnn_LEN d.slot) 0 (gp.foldl (fun t p => setPte d.slot p 32 t)
    (setSlotx d.slot { isOpen := true, desc := unitAt x.bytes 1, glist := gl }
      (zeroRange d.pt (d.pt + 8 * d.pages) (touchRead s (d.glist, 4 * d.nGlobal))))))))

theorem slotOpenGo_of_closed {x : Started} {s : State} (hclosed : (slotx (SD.parse (unitAt x.bytes 1)).slot s).isOpen = false) :
    slotOpenGo x s = match firstUnreached s (SD.parse (unitAt x.bytes 1)).glist (4 * (SD.parse (unitAt x.bytes 1)).nGlobal) with
      | some a => failCmd x.id bKVP (reachCause s a) 0 (captureReach a s)
      | none => if poisoned s (SD.parse (unitAt x.bytes 1)).glist (4 * (SD.parse (unitAt x.bytes 1)).nGlobal) then
          failCmd x.id bKVP 0x0142 0 s else slotOpened x s :=
  if_neg (by rw [hclosed]; exact Bool.false_ne_true)

theorem slotOpened_spec {x : Started} {s : State} (hx : startedAt x.id s = some x) :
    slotx (SD.parse (unitAt x.bytes 1)).slot (slotOpened x s) = 
      { isOpen := true, desc := unitAt x.bytes 1,
        glist := (List.range (SD.parse (unitAt x.bytes 1)).nGlobal).map (fun i => readNat s ((SD.parse (unitAt x.bytes 1)).glist + 4 * i) 4) } ∧
    rget (R.KVP_Qnn_LEN (SD.parse (unitAt x.bytes 1)).slot) (slotOpened x s) = 0 ∧
    startedAt x.id (slotOpened x s) = some { x with state := .done } ∧
    ∀ q, q ≠ (SD.parse (unitAt x.bytes 1)).slot → slotx q (slotOpened x s) = slotx q s := by
  unfold slotOpened
  generalize SD.parse (unitAt x.bytes 1) = d
  dsimp only
  have hread := touchRead_slotsKeep s (d.glist, 4 * d.nGlobal)
  generalize List.map _ (List.range d.nGlobal) = gl
  generalize (⟨true, unitAt x.bytes 1, gl⟩ : SlotX) = y
  generalize distinct (α := Nat) _ = gp
  have hzero : SlotsKeep s (zeroRange d.pt (d.pt + 8 * d.pages) (touchRead s (d.glist, 4 * d.nGlobal))) := hread.trans ⟨rfl, rfl⟩
  generalize zeroRange d.pt (d.pt + 8 * d.pages) (touchRead s (d.glist, 4 * d.nGlobal)) = t at hzero ⊢
  have hput := SlotsKeep.foldl (f := fun t p => setPte d.slot p 32 t) (fun t p => (setPte_booksKeep d.slot p 32 t).slotsKeep) gp (setSlotx d.slot y t)
  generalize gp.foldl (fun t p => setPte d.slot p 32 t) (setSlotx d.slot y t) = w at hput ⊢
  have hshow := (hput.trans (rset_slotsKeep (R.KVP_Qnn_LEN d.slot) 0 w)).trans ((showOpen_slotsKeep _).trans (showSlot_booksKeep d.slot _).slotsKeep)
  have hlen : rget (R.KVP_Qnn_LEN d.slot) (showSlot d.slot (showOpen (rset (R.KVP_Qnn_LEN d.slot) 0 w))) = 0 := by
    unfold showSlot showOpen
    rw [rget_rset_ne _ (by simp only [R.KVP_Qnn_LEN, R.KVP_Qnn_LPAGES]; omega), rget_rset_ne _ (by simp only [R.KVP_Qnn_LEN, R.KVP_Qnn_SPAGES]; omega),
      rget_rset_ne _ (by simp only [R.KVP_Qnn_LEN, R.KVP_OPEN]; omega), rget_rset_self]
  generalize showSlot d.slot (showOpen (rset (R.KVP_Qnn_LEN d.slot) 0 w)) = r at hshow hlen ⊢
  refine ⟨(hshow.slotx d.slot).trans (slotx_setSlotx_self ..), hlen, startedAt_markDone ?_, fun q hq => ?_⟩
  · exact (hshow.startedAt x.id).trans ((hzero.startedAt x.id).trans hx)
  · exact (hshow.slotx q).trans ((slotx_setSlotx_ne _ hq y).trans (hzero.slotx q))

theorem slotCloseGo_spec {x : Started} {s : State} (hx : startedAt x.id s = some x) :
    slotx (u x.bytes 16 1) (slotCloseGo x s) = {} ∧ rget (R.KVP_Qnn_LEN (u x.bytes 16 1)) (slotCloseGo x s) = 0 ∧
    rget (R.KVP_Qnn_SPAGES (u x.bytes 16 1)) (slotCloseGo x s) = 0 ∧ rget (R.KVP_Qnn_LPAGES (u x.bytes 16 1)) (slotCloseGo x s) = 0 ∧
    rbit R.KVP_OPEN (u x.bytes 16 1) (slotCloseGo x s) = false ∧ startedAt x.id (slotCloseGo x s) = some { x with state := .done } ∧
    ∀ p, p ≠ u x.bytes 16 1 → slotx p (slotCloseGo x s) = slotx p s := by
  unfold slotCloseGo
  dsimp only
  generalize u x.bytes 16 1 = q
  have hunmap := SlotsKeep.foldl (unmapPage_slotsKeep q) (List.range (sdOf q s).pages) s
  generalize (List.range (sdOf q s).pages).foldl (unmapPage q) s = t at hunmap ⊢
  generalize hw : rset (R.KVP_Qnn_LPAGES q) 0 (rset (R.KVP_Qnn_SPAGES q) 0 (rset (R.KVP_Qnn_LEN q) 0 (setSlotx q {} t))) = w
  have hslots : SlotsKeep (setSlotx q {} t) w := hw ▸ ⟨rfl, rfl⟩
  have hclosed : slotx q w = {} := (hslots.slotx q).trans (slotx_setSlotx_self ..)
  have hregs : rget (R.KVP_Qnn_LEN q) w = 0 ∧ rget (R.KVP_Qnn_SPAGES q) w = 0 ∧ rget (R.KVP_Qnn_LPAGES q) w = 0 := by
    subst hw
    refine ⟨?_, ?_, rget_rset_self ..⟩
    · rw [rget_rset_ne _ (by simp only [R.KVP_Qnn_LEN, R.KVP_Qnn_LPAGES]; omega),
        rget_rset_ne _ (by simp only [R.KVP_Qnn_LEN, R.KVP_Qnn_SPAGES]; omega), rget_rset_self]
    · rw [rget_rset_ne _ (by simp only [R.KVP_Qnn_SPAGES, R.KVP_Qnn_LPAGES]; omega), rget_rset_self]
  obtain ⟨hlen, hspages, hlpages⟩ := hregs
  have hshown {o : Nat} (ho : o ≠ R.KVP_OPEN) : rget o (markDone x.id (showOpen w)) = rget o w := rget_rset_ne w ho _
  refine ⟨hclosed, (hshown ?_).trans hlen, (hshown ?_).trans hspages, (hshown ?_).trans hlpages, rbit_showOpen (by rw [hclosed]), startedAt_markDone ?_,
    fun p hp => ?_⟩
  · simp only [R.KVP_Qnn_LEN, R.KVP_OPEN]; omega
  · simp only [R.KVP_Qnn_SPAGES, R.KVP_OPEN]; omega
  · simp only [R.KVP_Qnn_LPAGES, R.KVP_OPEN]; omega
  · exact (hslots.startedAt x.id).trans ((hunmap.startedAt x.id).trans hx)
  · exact (hslots.slotx p).trans ((slotx_setSlotx_ne _ hp {}).trans (hunmap.slotx p))

theorem slotTruncGo_spec {x : Started} {s : State} (hx : startedAt x.id s = some x) :
    rget (R.KVP_Qnn_LEN (u x.bytes 16 1)) (slotTruncGo x s) = u x.bytes 20 4 ∧ startedAt x.id (slotTruncGo x s) = some { x with state := .done } ∧
    ∀ q, slotx q (slotTruncGo x s) = slotx q s := by
  unfold slotTruncGo
  dsimp only
  generalize u x.bytes 16 1 = q, u x.bytes 20 4 = n
  generalize List.filter _ (List.range (sdOf q s).pages) = l
  have hunmap := SlotsKeep.foldl (unmapPage_slotsKeep q) l s
  generalize l.foldl (unmapPage q) s = t at hunmap ⊢
  have hkeep := hunmap.trans ((rset_slotsKeep (R.KVP_Qnn_LEN q) n t).trans (showSlot_booksKeep q _).slotsKeep)
  have hlen : rget (R.KVP_Qnn_LEN q) (showSlot q (rset (R.KVP_Qnn_LEN q) n t)) = n := by
    unfold showSlot
    rw [rget_rset_ne _ (by simp only [R.KVP_Qnn_LEN, R.KVP_Qnn_LPAGES]; omega), rget_rset_ne _ (by simp only [R.KVP_Qnn_LEN, R.KVP_Qnn_SPAGES]; omega),
      rget_rset_self]
  generalize showSlot q (rset (R.KVP_Qnn_LEN q) n t) = w at hkeep hlen ⊢
  exact ⟨hlen, startedAt_markDone ((hkeep.startedAt x.id).trans hx), hkeep.slotx⟩

/-- Settles O31, by the branches of the three commands. -/
theorem slotsOpenCloseAndTruncate : Obligations.SlotsOpenCloseAndTruncate := by
  unfold Obligations.SlotsOpenCloseAndTruncate
  refine ⟨fun c s x hbefore hon => ⟨fun hx => ?opens, fun hx hopen => ?isOpen, fun hx => ?unread, fun hx hq hbooks => ?closes, fun hx hq hbooks => ?truncates⟩,
    fun c s x o i hmem hx => ?when, fun c s x hx => startedAt_updStarted (f := fun x => { x with image := [BitVec.ofNat 8 (nb (rbit R.KVP_CTL 0 s))] }) (fun _ => rfl) hx⟩
  case opens =>
    intro d hslot hclosed hmapped hclean
    have hid := (runningCmd_spec hx).2.1
    subst hid
    have hgo : slotOpenGo x s = slotOpened x s := by
      rw [slotOpenGo_of_closed hclosed, hmapped, hclean] <;> rfl
    exact ⟨slotOpened x s, congrArg Host.Outcome.next ((pageCmd_of_due (f := slotOpenGo) hx hbefore hon rfl).trans hgo),
      slotOpened_spec (runningCmd_spec hx).1⟩
  case isOpen =>
    have hid := (runningCmd_spec hx).2.1
    subst hid
    exact congrArg Host.Outcome.next ((pageCmd_of_due (f := slotOpenGo) hx hbefore hon rfl).trans (if_pos hopen))
  case unread =>
    intro d hclosed
    have hid := (runningCmd_spec hx).2.1
    subst hid
    have hgo := (pageCmd_of_due (f := slotOpenGo) hx hbefore hon rfl).trans (slotOpenGo_of_closed hclosed)
    refine ⟨fun a ha => congrArg Host.Outcome.next (hgo.trans ?_), fun hmapped hbad => congrArg Host.Outcome.next (hgo.trans ?_)⟩
    · rw [ha]
    · rw [hmapped, hbad] <;> rfl
  case closes =>
    intro q
    have hid := (runningCmd_spec hx).2.1
    subst hid
    exact ⟨_, congrArg Host.Outcome.next (pageCmd_of_due (f := slotCloseGo) hx hbefore hon hbooks), slotCloseGo_spec (runningCmd_spec hx).1⟩
  case truncates =>
    have hid := (runningCmd_spec hx).2.1
    subst hid
    exact ⟨_, congrArg Host.Outcome.next (pageCmd_of_due (f := slotTruncGo) hx hbefore hon hbooks), slotTruncGo_spec (runningCmd_spec hx).1⟩
  case when =>
    intro before
    have hexec {f : Started → State → State} (h : exec i s = .next (pageCmd c o f s)) :
        (before = true → exec i s = .next s) ∧
        (before = false → u x.image 0 1 = 0 → exec i s = .next (failCmd c bKVP 0x0135 0 s)) ∧
        (before = false → u x.image 0 1 ≠ 0 → (pagesRead o x.bytes s).any (fun y => booksLost y.1 y.2 s) = true →
          exec i s = .next (booksFatal s)) := by
      rw [pageCmd_eq hx] at h
      refine ⟨fun hb => h.trans (congrArg Host.Outcome.next (if_pos hb)), fun hb hoff => h.trans (congrArg Host.Outcome.next ?_),
        fun hb hon hlost => h.trans (congrArg Host.Outcome.next ?_)⟩
      · exact (if_neg (Bool.eq_false_iff.mp hb)).trans (if_pos hoff)
      · exact (if_neg (Bool.eq_false_iff.mp hb)).trans ((if_neg hon).trans (if_pos hlost))
    simp only [List.mem_cons, Prod.mk.injEq, List.not_mem_nil, or_false] at hmem
    obtain ⟨rfl, rfl⟩ | ⟨rfl, rfl⟩ | ⟨rfl, rfl⟩ | ⟨rfl, rfl⟩ | ⟨rfl, rfl⟩ | ⟨rfl, rfl⟩ := hmem <;> exact hexec rfl

end Sys2Proof.Machine
end

section
/-! Pages age and are fetched, and the pools are enabled (R133, R135, R139, R207). -/

namespace Sys2Proof.Machine

open Sys2Proof

/-! ### Ageing and fetching -/

/-- An ageing that is done: the books keep all but the ageing itself, and KVP_AGED counts. -/
theorem finishAge_spec {q p : Nat} {s : State} {m : PageMove} (hm : ageingOf q p s = some m) :
    (finishAge q p s).kvp.ageing = s.kvp.ageing.erase m ∧ rget R.KVP_AGED (finishAge q p s) = (rget R.KVP_AGED s + 1) % 2 ^ 32 ∧
    (finishAge q p s).kvp.slots = s.kvp.slots := by
  have hbooks : ∃ w, BooksKeep { s with kvp := { s.kvp with ageing := s.kvp.ageing.erase m } } w ∧
      finishAge q p s = showSlot q (rcount R.KVP_AGED w) := by
    unfold finishAge
    rw [hm]
    dsimp only
    have hcopy := ((copyFrame_booksKeep (pteFrame (pte q p s)) (frameAddr (true, m.frame) s) s).trans (setFrame_booksKeep (true, m.frame) 1 true _)).trans
      (setPte_booksKeep q p (setBits (setBits (pte q p s) 2 1 1) 47 16 (frameAddr (true, m.frame) s >>> 16)) _)
    generalize setPte q p _ _ = t at hcopy ⊢
    generalize hr : ({ t with kvp := { t.kvp with ageing := t.kvp.ageing.erase m } } : State) = r
    have hstart : BooksKeep { s with kvp := { s.kvp with ageing := s.kvp.ageing.erase m } } r := by
      subst hr
      exact ⟨hcopy.slots, congrArg (List.erase · m) hcopy.ageing, hcopy.fetching, hcopy.started, hcopy.regs⟩
    exact ⟨_, (hstart.trans (dropRef_booksKeep ..)).trans (showPool_booksKeep _), rfl⟩
  obtain ⟨w, hw, hfinish⟩ := hbooks
  have hshow := showSlot_booksKeep q (rcount R.KVP_AGED w)
  rw [hfinish]
  generalize showSlot q (rcount R.KVP_AGED w) = r at hshow
  refine ⟨hshow.ageing.trans hw.ageing, ?_, hshow.slots.trans hw.slots⟩
  rw [hshow.regs _ (by decide) (by decide), rcount, rcountBy, rget_rset_self, hw.regs _ (by decide) (by decide)]
  rfl

/-- A fetch that is done. -/
theorem pageFetchDone_spec {q p : Nat} {s : State} {m : PageMove} (hm : fetchingOf q p s = some m) :
    (pageFetchDone q p s).kvp.fetching = s.kvp.fetching.erase m ∧ (pageFetchDone q p s).kvp.slots = s.kvp.slots ∧
    (m.demand = false → rget R.KVP_FETCHED (pageFetchDone q p s) = (rget R.KVP_FETCHED s + 1) % 2 ^ 32) ∧
    (m.demand = true → rget R.KVP_FETCHED (pageFetchDone q p s) = rget R.KVP_FETCHED s) := by
  have hland := landFetch_booksKeep q p m.frame m.pin { s with kvp := { s.kvp with fetching := s.kvp.fetching.erase m } }
  have hdone : pageFetchDone q p s = if m.demand then landFetch q p m.frame m.pin { s with kvp := { s.kvp with fetching := s.kvp.fetching.erase m } }
      else rcount R.KVP_FETCHED (landFetch q p m.frame m.pin { s with kvp := { s.kvp with fetching := s.kvp.fetching.erase m } }) := by
    unfold pageFetchDone
    rw [hm]
  generalize landFetch q p m.frame m.pin { s with kvp := { s.kvp with fetching := s.kvp.fetching.erase m } } = t at hland hdone
  have hfetched : rget R.KVP_FETCHED t = rget R.KVP_FETCHED s := hland.regs _ (by decide) (by decide)
  rw [hdone]
  refine ⟨?_, ?_, fun hno => ?_, fun hyes => ?_⟩
  · split <;> exact hland.fetching
  · split <;> exact hland.slots
  · rw [hno, if_neg Bool.false_ne_true, rcount, rcountBy, rget_rset_self, hfetched]
  · rw [hyes, if_pos rfl, hfetched]

/-- A fetch that begins. -/
theorem beginFetch_spec {q p n : Nat} {demand pin : Bool} {s r : State} {f : Nat} (hlag : inLagoon s (q, p) = true)
    (hbooks : booksLost q p s = false) (hvalid : pteValid (pte q p s) = true) (htake : takeS none s = some (f, r)) :
    (beginFetch q p n demand pin s).kvp.fetching = s.kvp.fetching ++ [{ slot := q, page := p, frame := f, demand := demand, pin := pin, core := n }] ∧
    (demand = true → rget R.KVP_DEMAND (beginFetch q p n demand pin s) = (rget R.KVP_DEMAND s + 1) % 2 ^ 32) := by
  obtain ⟨hwhere, hfetching⟩ := Bool.and_eq_true_iff.mp hlag
  have hthere : (!pteValid (pte q p s) || pteWhere (pte q p s) != 1 || (fetchingOf q p s).isSome) = false := by
    rw [hvalid, bne, hwhere, Option.isNone_iff_eq_none.mp hfetching]
    rfl
  have hkeep := (takeS_booksKeep htake).trans (setFrame_booksKeep (false, f) 0 true r)
  have hbegin : ∃ w, BooksKeep s w ∧ beginFetch q p n demand pin s =
      if demand then rcount R.KVP_DEMAND { w with kvp := { w.kvp with fetching := w.kvp.fetching ++ [⟨q, p, f, demand, pin, n⟩] } }
      else { w with kvp := { w.kvp with fetching := w.kvp.fetching ++ [⟨q, p, f, demand, pin, n⟩] } } := by
    refine ⟨_, hkeep, ?_⟩
    unfold beginFetch
    dsimp only
    rw [hbooks, if_neg Bool.false_ne_true, hthere, if_neg Bool.false_ne_true, htake]
  obtain ⟨w, hw, hbegin⟩ := hbegin
  rw [hbegin]
  refine ⟨?_, fun hdemand => ?_⟩
  · rw [← hw.fetching]
    split <;> rfl
  · rw [hdemand, if_pos rfl, rcount, rcountBy, rget_rset_self, ← hw.regs R.KVP_DEMAND (by decide) (by decide)]
    rfl

/-! ### The pools -/

theorem get_filter {V : Type} (d : V) (f : Nat → Bool) (a : Nat) (ha : f a = true) :
    ∀ l : List (Nat × V), AL.get d a (l.filter (fun c => f c.1)) = AL.get d a l
  | [] => rfl
  | (j, v) :: l => by
    have ih := get_filter d f a ha l
    rw [List.filter_cons]
    split
    · simp only [AL.get, ih]
    · rename_i hj
      have hne : j ≠ a := fun e => hj (e ▸ ha)
      rw [ih, AL.get, if_neg hne]

theorem byteAt_zeroRange {lo hi a : Nat} (le : lo ≤ hi) (h : a < lo ∨ hi ≤ a) (s : State) : byteAt a (zeroRange lo hi s) = byteAt a s := by
  have hmem : AL.get 0 a (zeroRange lo hi s).mem = AL.get 0 a s.mem :=
    get_filter 0 (fun x => !(decide (lo ≤ x) && decide (x < hi))) a (by
      simp only [Bool.not_eq_true', Bool.and_eq_false_iff, decide_eq_false_iff_not]
      omega) s.mem
  have hundef := cutUndef_outside le h s.undef
  unfold byteAt undefAt
  rw [hmem, zeroRange_undef]
  revert hundef
  generalize (cutUndef lo hi s.undef).find? _ = x
  generalize s.undef.find? _ = y
  cases x <;> cases y <;> simp +contextual

theorem showPool_rbits {o i : Nat} (ho : o ∈ [R.KVP_CTL, R.KVP_STAT]) (hi : i = 0) (s : State) : rbit o i (showPool s) = rbit o i s := by
  subst hi
  have hbase (t : State) (a b n : Nat) : rbit o 0 (rsetBits R.KVP_STAT 15 8 a (rsetBits R.KVP_STAT 1 1 b (rset R.KVP_FREE n t))) = rbit o 0 t := by
    simp only [List.mem_cons, List.not_mem_nil, or_false] at ho
    obtain rfl | rfl := ho
    · unfold rbit
      rw [rget_rsetBits_ne _ (by decide), rget_rsetBits_ne _ (by decide), rget_rset_ne _ (by decide)]
    · rw [rbit_rsetBits _ _ _ _ _ _ (by decide), if_neg (by decide), rbit_rsetBits _ _ _ _ _ _ (by decide), if_neg (by decide)]
      exact congrArg (Nat.testBit · 0) (rget_rset_ne _ (by decide) _)
  have hevt (t : State) : rbit o 0 (rsetBit R.KVP_EVT 0 t) = rbit o 0 t := by
    simp only [List.mem_cons, List.not_mem_nil, or_false] at ho
    obtain rfl | rfl := ho <;> exact congrArg (Nat.testBit · 0) (rget_rsetBit_ne _ (by decide) _)
  unfold showPool
  dsimp only
  split
  · rw [hevt, hbase]
  · rw [hbase]

theorem rest_rset {s t : State} (h : { t with regs := s.regs } = s) (o v : Nat) : { rset o v t with regs := s.regs } = s := h

theorem showPool_frame (s : State) : { showPool s with regs := s.regs } = s := by
  have hbase (a b n : Nat) : { rsetBits R.KVP_STAT 15 8 a (rsetBits R.KVP_STAT 1 1 b (rset R.KVP_FREE n s)) with regs := s.regs } = s :=
    rest_rset (rest_rset (rest_rset rfl ..) ..) ..
  unfold showPool
  dsimp only
  split
  · exact rest_rset (hbase ..) ..
  · exact hbase ..

/-- The books of a die of the stash, as STS_ENABLE sets them. -/
def freshDie (d : Nat) (s : State) : StashDie :=
  { freeS := List.range (rget (R.STS_Dd_SFRAMES d) s), freeL := List.range (rget (R.STS_Dd_LFRAMES d) s) }

theorem showStash_spec (d : Nat) (s : State) : { showStash d s with regs := s.regs } = s ∧
    ∀ o, o ∉ [R.STS_Dd_ENTRIES d, R.STS_Dd_LFREE d, R.STS_Dd_FREE d] → rget o (showStash d s) = rget o s := by
  refine ⟨rest_rset (rest_rset (rest_rset rfl ..) ..) .., fun o ho => ?_⟩
  simp only [List.mem_cons, List.not_mem_nil, or_false, not_or] at ho
  obtain ⟨h₁, h₂, h₃⟩ := ho
  unfold showStash
  rw [rget_rset_ne _ h₁, rget_rset_ne _ h₂, rget_rset_ne _ h₃]

/-- Settles O33, part by part: the sweep, the fetches, and the two pool enables. -/
theorem pagesAgeAndPoolsAreEnabled : Obligations.PagesAgeAndPoolsAreEnabled := by
  unfold Obligations.PagesAgeAndPoolsAreEnabled
  refine ⟨⟨fun s => ⟨?sweeps, ?rests⟩, fun q p s m hm => ⟨_, rfl, finishAge_spec hm⟩, fun q p s hnone => congrArg Host.Outcome.next ?ageless,
    fun n q p s => ?fetches, fun q p s m hm => ⟨_, rfl, pageFetchDone_spec hm⟩, fun q p s hnone => congrArg Host.Outcome.next ?fetchless⟩,
    fun s hopen hoff => ⟨fun hbad => ?badPools, fun hgood => ?pools⟩, fun s hopen hoff => ⟨fun hbad => ?badDies, fun hgood₀ hgood₁ => ?dies⟩,
    fun s => ⟨fun hopen hon => congrArg Host.Outcome.next ?kvpOn, fun hopen hon => congrArg Host.Outcome.next ?stsOn⟩, fun s hlock => ?kvpLocked, fun s hlock => ?stsLocked⟩
  case sweeps =>
    intro hage hon hlow
    refine congrArg Host.Outcome.next (if_pos ?_)
    rw [hage, hon, decide_eq_true hlow]
    rfl
  case rests =>
    intro h
    refine congrArg Host.Outcome.next (if_neg ?_)
    simp only [Bool.and_eq_true, decide_eq_true_eq]
    rcases h with h | h | h
    · simp [h]
    · simp [h]
    · omega
  case ageless =>
    change finishAge q.val p s = s
    unfold finishAge
    rw [hnone]
  case fetchless =>
    change pageFetchDone q.val p s = s
    unfold pageFetchDone
    rw [hnone]
  case fetches =>
    intro next needed
    have hneeded : ((stepPages n.val s).contains (q.val, p) && inLagoon s (q.val, p)) = true ↔ needed := by
      simp only [Bool.and_eq_true, List.contains_iff_mem, needed]
    have hpre (h : next) : exec (.pagePrefetch n q p) s = .next (beginFetch q.val p n.val false false s) := congrArg Host.Outcome.next (if_pos h)
    have hdem (h : needed) : exec (.demandFetch n q p) s = .next (beginFetch q.val p n.val true false s) :=
      congrArg Host.Outcome.next (if_pos (hneeded.mpr h))
    refine ⟨hpre, fun h => congrArg Host.Outcome.next (if_neg h), hdem, fun h => congrArg Host.Outcome.next (if_neg (mt hneeded.mp h)), ?_, ?_⟩
    · intro f r h hbooks hvalid htake
      exact ⟨_, hpre h, (beginFetch_spec (List.find?_some (p := inLagoon s) h.1) hbooks hvalid htake).1⟩
    · intro f r h hbooks hvalid htake
      obtain ⟨hfetching, hcount⟩ := beginFetch_spec (n := n.val) (demand := true) (pin := false) h.2 hbooks hvalid htake
      exact ⟨_, hdem h, hcount rfl, hfetching⟩
  case badPools =>
    refine ⟨misuse bKVP s, congrArg Host.Outcome.next ?_, misuse_counts s rfl⟩
    unfold kvpEnable
    rw [hopen, hoff, hbad]
    rfl
  case pools =>
    have hrun : kvpEnable s = showPool { zeroRange (ftBase s) (ftBase s + 4 * (sFrames s + lFrames s)) (rsetBit R.KVP_STAT 0 (rsetBit R.KVP_CTL 0 s)) with
        kvp := { s.kvp with freeS := List.range (sFrames s), freeL := List.range (lFrames s) } } := by
      unfold kvpEnable
      rw [hopen, hoff, hgood]
      rfl
    refine ⟨_, congrArg Host.Outcome.next hrun, ?_, ?_, ?_, ?_, fun a ha => ?_⟩
    · rw [showPool_rbits (by simp) rfl]
      change rbit R.KVP_CTL 0 (rsetBit R.KVP_STAT 0 (rsetBit R.KVP_CTL 0 s)) = true
      rw [rbit, rget_rsetBit_ne _ (by decide), ← rbit, rbit_rsetBit]
      rfl
    · rw [showPool_rbits (by simp) rfl]
      change rbit R.KVP_STAT 0 (rsetBit R.KVP_STAT 0 (rsetBit R.KVP_CTL 0 s)) = true
      rw [rbit_rsetBit]
      rfl
    · exact (congrArg State.kvp (showPool_frame _) :)
    · have hshow := showPool_frame { zeroRange (ftBase s) (ftBase s + 4 * (sFrames s + lFrames s)) (rsetBit R.KVP_STAT 0 (rsetBit R.KVP_CTL 0 s)) with
        kvp := { s.kvp with freeS := List.range (sFrames s), freeL := List.range (lFrames s) } }
      exact congrArg (fun t : State => { t with regs := s.regs, mem := s.mem, undef := s.undef, poison := s.poison, kvp := s.kvp }) hshow
    · have hshow (t : State) : byteAt a (showPool t) = byteAt a t := by
        have h := showPool_frame t
        have hm : (showPool t).mem = t.mem := (congrArg State.mem h :)
        have hu : (showPool t).undef = t.undef := (congrArg State.undef h :)
        simp only [byteAt, undefAt, hm, hu]
      exact (hshow _).trans (byteAt_zeroRange (Nat.le_add_right ..) ha (rsetBit R.KVP_STAT 0 (rsetBit R.KVP_CTL 0 s)))
  case badDies =>
    refine ⟨misuse bSTS s, congrArg Host.Outcome.next ?_, misuse_counts s rfl⟩
    have hbad' : (diePoolsBad 0 s || diePoolsBad 1 s) = true := Bool.or_eq_true_iff.mpr hbad
    unfold stsEnable
    rw [hopen, hoff, hbad']
    rfl
  case dies =>
    have hrun : stsEnable s = [0, 1].foldl (fun t d => showStash d (setStashd d
        { freeS := List.range (rget (R.STS_Dd_SFRAMES d) t), freeL := List.range (rget (R.STS_Dd_LFRAMES d) t) } t)) (rsetBit R.STS_CTL 0 s) := by
      unfold stsEnable
      rw [hopen, hoff, hgood₀, hgood₁]
      rfl
    obtain ⟨hrest₀, hregs₀⟩ := showStash_spec 0 (setStashd 0 (freshDie 0 (rsetBit R.STS_CTL 0 s)) (rsetBit R.STS_CTL 0 s))
    change stsEnable s = showStash 1 (setStashd 1 (freshDie 1 (showStash 0 (setStashd 0 (freshDie 0 (rsetBit R.STS_CTL 0 s)) (rsetBit R.STS_CTL 0 s))))
      (showStash 0 (setStashd 0 (freshDie 0 (rsetBit R.STS_CTL 0 s)) (rsetBit R.STS_CTL 0 s)))) at hrun
    generalize showStash 0 (setStashd 0 (freshDie 0 (rsetBit R.STS_CTL 0 s)) (rsetBit R.STS_CTL 0 s)) = t at hrun hrest₀ hregs₀
    obtain ⟨hrest₁, hregs₁⟩ := showStash_spec 1 (setStashd 1 (freshDie 1 t) t)
    generalize showStash 1 (setStashd 1 (freshDie 1 t) t) = w at hrun hrest₁ hregs₁
    have hfresh₀ : freshDie 0 (rsetBit R.STS_CTL 0 s) = freshDie 0 s := by
      unfold freshDie
      rw [rget_rsetBit_ne _ (by decide), rget_rsetBit_ne _ (by decide)]
    have hfresh₁ : freshDie 1 t = freshDie 1 s := by
      unfold freshDie
      rw [hregs₀ _ (by decide), hregs₀ _ (by decide)]
      have hctl {o : Nat} (ho : o ≠ R.STS_CTL) (x : StashDie) : rget o (setStashd 0 x (rsetBit R.STS_CTL 0 s)) = rget o s := rget_rsetBit_ne s ho 0
      rw [hctl (by decide), hctl (by decide)]
    rw [hfresh₀] at hrest₀
    have hdies₀ : t.stashD = AL.set {} 0 (freshDie 0 s) s.stashD := (congrArg State.stashD hrest₀ :)
    have hdies₁ : w.stashD = AL.set {} 1 (freshDie 1 s) t.stashD := hfresh₁ ▸ (congrArg State.stashD hrest₁ :)
    refine ⟨w, congrArg Host.Outcome.next hrun, ?_, fun d hd => ?_, ?_⟩
    · rw [rbit, hregs₁ _ (by decide)]
      change (rget R.STS_CTL t).testBit 0 = true
      rw [hregs₀ _ (by decide)]
      exact (rbit_rsetBit s R.STS_CTL 0 0).trans rfl
    · change AL.get {} d w.stashD = freshDie d s
      rw [hdies₁]
      obtain rfl | rfl : d = 0 ∨ d = 1 := by omega
      · rw [AL.get_set_ne _ _ (by decide), hdies₀, AL.get_set_self]
      · rw [AL.get_set_self]
    · have hw : { w with regs := s.regs, stashD := s.stashD } = { t with regs := s.regs, stashD := s.stashD } :=
        congrArg (fun r : State => { r with regs := s.regs, stashD := s.stashD }) hrest₁
      exact hw.trans (congrArg (fun r : State => { r with regs := s.regs, stashD := s.stashD }) hrest₀)
  case kvpOn =>
    change kvpEnable s = s
    unfold kvpEnable
    rw [hopen, hon]
    rfl
  case stsOn =>
    change stsEnable s = s
    unfold stsEnable
    rw [hopen, hon]
    rfl
  case kvpLocked =>
    have hrun : kvpEnable s = countLocked s := if_pos hlock
    exact ⟨_, congrArg Host.Outcome.next hrun, counted_rcountSat s _, onlyRegs_rcountSat _ s⟩
  case stsLocked =>
    have hrun : stsEnable s = countLocked s := if_pos hlock
    exact ⟨_, congrArg Host.Outcome.next hrun, counted_rcountSat s _, onlyRegs_rcountSat _ s⟩

end Sys2Proof.Machine
end

section
/-! Patrol reads and temperature reports (R146 to R149, R158, R159). -/

namespace Sys2Proof.Machine

open Sys2Proof

/-! ### Patrol reads -/

theorem inStacked_of_le {line : Nat} (h : 128 * line + 128 ≤ stackedEnd) : inStacked (128 * line) 128 = true := decide_eq_true h

theorem not_inStacked_of_spill {a n : Nat} (h : spillBase ≤ a) : inStacked a n = false :=
  decide_eq_false (by simp only [spillBase, stackedEnd] at *; omega)

theorem parityLost_of_no_repeats (a : Nat) (s : State) : parityLost a 0 s = false := by simp [parityLost]

theorem parityRepeats_zero (a : Nat) (s : State) : parityRepeats a 0 s = s := by
  unfold parityRepeats
  rw [Nat.zero_min]
  exact ite_self s

theorem dramRead_of_no_repeats {a : Nat} {l : Landing} {s : State} (h : l.readRepeats = 0) : dramRead a l s = (noteRead (lineOf a + l.line) l.sev s, false) := by
  unfold dramRead
  rw [h, parityLost_of_no_repeats, parityRepeats_zero]
  rfl

theorem dramWrite_of_no_repeats {a : Nat} {l : Landing} {s : State} (h : l.writeRepeats = 0) : dramWrite a l s = (s, false) := by
  unfold dramWrite
  rw [h, parityLost_of_no_repeats, parityRepeats_zero]
  rfl

/-- The vertical interfaces, and so their parity, are the stacks' own. -/
theorem dramRead_of_spill {a : Nat} {l : Landing} {s : State} (h : spillBase ≤ a) : dramRead a l s = (noteRead (lineOf a + l.line) l.sev s, false) := by
  simp only [dramRead, parityLost, parityRepeats, not_inStacked_of_spill h, Bool.false_and, Bool.false_eq_true, if_false]

theorem dramWrite_of_spill {a : Nat} {l : Landing} {s : State} (h : spillBase ≤ a) : dramWrite a l s = (s, false) := by
  simp only [dramWrite, parityLost, parityRepeats, not_inStacked_of_spill h, Bool.false_and, Bool.false_eq_true, if_false]

theorem lineOf_line (line : Nat) : lineOf (128 * line) + 0 = line := Nat.mul_div_cancel_left line (by decide)

theorem noteRead_of_stacked {line : Nat} {sev : Severity} {s : State} (h : 128 * line + 128 ≤ stackedEnd) :
    noteRead line sev s = if sev == .uncorrected && bookLine line s then booksFatal (scrubStack line sev s) else scrubStack line sev s :=
  if_pos (inStacked_of_le h)

theorem noteRead_of_spill {line : Nat} {sev : Severity} {s : State} (h : spillBase ≤ 128 * line) (hend : 128 * line + 128 ≤ spillEnd) :
    noteRead line sev s = scrubSpill line sev s := by
  unfold noteRead
  rw [not_inStacked_of_spill h, if_neg Bool.false_ne_true, if_pos]
  simp only [inSpill, h, hend, decide_true, Bool.and_self]

/-- A patrol read that meets no parity error. -/
theorem patrolLine_of_stacked {line : Nat} {l : Landing} {s : State} (h : 128 * line + 128 ≤ stackedEnd) (hread : l.readRepeats = 0)
    (hwrite : l.sev = .corrected → l.writeRepeats = 0) :
    patrolLine line l s = if l.sev == .uncorrected && bookLine line s then booksFatal (scrubStack line l.sev s) else scrubStack line l.sev s := by
  unfold patrolLine
  dsimp only
  rw [dramRead_of_no_repeats (l := { l with line := 0 }) hread]
  dsimp only
  rw [lineOf_line, noteRead_of_stacked h]
  split
  · rename_i hc
    rw [dramWrite_of_no_repeats (hwrite (by simpa using hc))]
  · rfl

theorem patrolLine_of_spill {line : Nat} {l : Landing} {s : State} (h : spillBase ≤ 128 * line) (hend : 128 * line + 128 ≤ spillEnd) :
    patrolLine line l s = scrubSpill line l.sev s := by
  unfold patrolLine
  dsimp only
  rw [dramRead_of_spill (l := { l with line := 0 }) h]
  dsimp only
  rw [lineOf_line, noteRead_of_spill h hend, dramWrite_of_spill h]
  exact ite_self _

theorem mem_poisonLine (line : Nat) (s : State) : line ∈ (poisonLine line s).poison := by
  unfold poisonLine
  dsimp only
  split
  · exact List.contains_iff_mem.mp ‹_›
  · simp

/-- An uncorrected error counts, is flagged, and poisons its line. -/
theorem poisonLine_counted {o e i line : Nat} (hne : o ≠ e) (s : State) : Counted o s (poisonLine line (rsetBit e i (rcountSat o s))) ∧
    rbit e i (poisonLine line (rsetBit e i (rcountSat o s))) = true ∧ line ∈ (poisonLine line (rsetBit e i (rcountSat o s))).poison ∧
    ∀ a, byteAt a (poisonLine line (rsetBit e i (rcountSat o s))) = byteAt a s := by
  refine ⟨?_, ?_, mem_poisonLine .., fun _ => rfl⟩
  · have hcount := counted_rcountSat s o
    unfold Counted at hcount ⊢
    rw [← hcount]
    exact congrArg (bits · 15 0) (rget_rsetBit_ne (rcountSat o s) hne i)
  · exact (rbit_rsetBit (rcountSat o s) e i i).trans (by simp)

theorem parityRepeats_memory (a n : Nat) (s : State) : (parityRepeats a n s).mem = s.mem ∧ (parityRepeats a n s).poison = s.poison := by
  have hone (k : Nat) (t : State) : (parityRepeat k t).mem = t.mem ∧ (parityRepeat k t).poison = t.poison := by
    have h := reportError_reportKeeps 1 bMEM 0 noQueue k (rcount (R.MEM_Sn_RETRY k) t)
    exact ⟨h.mem, (congrArg State.poison h.rest :)⟩
  have hfold (k : Nat) : ∀ (l : List Nat) (t : State), t.mem = s.mem ∧ t.poison = s.poison →
      (l.foldl (fun t _ => parityRepeat k t) t).mem = s.mem ∧ (l.foldl (fun t _ => parityRepeat k t) t).poison = s.poison := by
    intro l
    induction l with
    | nil => exact fun t ht => ht
    | cons x l ih =>
      intro t ht
      exact ih _ ⟨(hone k t).1.trans ht.1, (hone k t).2.trans ht.2⟩
  unfold parityRepeats
  split
  · exact hfold _ _ s ⟨rfl, rfl⟩
  · exact ⟨rfl, rfl⟩

/-- A read whose parity errors outlast the repeats allowed. -/
theorem patrolLine_of_lost {line : Nat} {l : Landing} {s : State} (h : 128 * line + 128 ≤ stackedEnd) (hlost : parityLimit s < l.readRepeats) :
    patrolLine line l s = retryFailed (stackOf (128 * line) s) (parityRepeats (128 * line) l.readRepeats s) := by
  have hin : parityLost (128 * line) l.readRepeats s = true := by
    have hone : inStacked (128 * line) 1 = true := decide_eq_true (by omega)
    rw [parityLost, hone, decide_eq_true hlost]
    rfl
  have hread : dramRead (128 * line) { l with line := 0 } s = (retryFailed (stackOf (128 * line) s) (parityRepeats (128 * line) l.readRepeats s), true) := by
    unfold dramRead
    dsimp only
    rw [hin]
    rfl
  unfold patrolLine
  rw [hread]
  rfl

/-! ### Temperature reports -/

theorem stackStep_lt {old : Nat} (h : old < 8) (temp : Nat) (s : State) : stackStep old temp s < 8 := by
  have hfold : ∀ l : List Nat, (∀ k ∈ l, k < 8) → ∀ a < 8, l.foldl (fun a k => if k ≠ 0 ∧ stackThreshold k s ≤ temp then k else a) a < 8 := by
    intro l
    induction l with
    | nil => exact fun _ a ha => ha
    | cons k l ih =>
      intro hl a ha
      refine ih (fun k hk => hl k (.tail _ hk)) _ ?_
      dsimp only
      split
      · exact hl k (.head _)
      · exact ha
  unfold stackStep
  dsimp only
  split
  · exact hfold (List.range 5) (fun k hk => by have := List.mem_range.mp hk; omega) 0 (by decide)
  · split <;> omega

/-- The state of a stack after a report, before an emergency. -/
def stackReported (k temp : Nat) (s : State) : State :=
  let old := rbits (R.MEM_Sn_STAT k) 10 8 s
  let new := stackStep old temp s
  let t := rsetBits (R.MEM_Sn_STAT k) 10 8 new (rsetBits (R.MEM_Sn_STAT k) 7 0 temp s)
  let t := if old = 0 then t else bumpFree (rcountBy (R.MEM_Sn_THRCYC k) (Config.freeNat t.freeCtr) t)
  if new = old then t else raiseVector 132 (rsetBit R.MEM_EVT 0 t)

theorem stackReported_spec (k temp : Nat) (s : State) (htemp : temp < 256) :
    rbits (R.MEM_Sn_STAT k) 7 0 (stackReported k temp s) = temp ∧
    rbits (R.MEM_Sn_STAT k) 10 8 (stackReported k temp s) = stackStep (rbits (R.MEM_Sn_STAT k) 10 8 s) temp s ∧
    (stackReported k temp s).mem = s.mem ∧
    ∀ o, o ∉ [R.MEM_Sn_STAT k, R.MEM_Sn_THRCYC k, R.MEM_EVT] → rget o (stackReported k temp s) = rget o s := by
  unfold stackReported
  dsimp only
  have hold : rbits (R.MEM_Sn_STAT k) 10 8 s < 8 := by
    unfold rbits bits
    exact Nat.mod_lt _ (by decide)
  have hnew := stackStep_lt hold temp s
  generalize stackStep (rbits (R.MEM_Sn_STAT k) 10 8 s) temp s = new at hnew ⊢
  have hshown : rbits (R.MEM_Sn_STAT k) 7 0 (rsetBits (R.MEM_Sn_STAT k) 10 8 new (rsetBits (R.MEM_Sn_STAT k) 7 0 temp s)) = temp ∧
      rbits (R.MEM_Sn_STAT k) 10 8 (rsetBits (R.MEM_Sn_STAT k) 10 8 new (rsetBits (R.MEM_Sn_STAT k) 7 0 temp s)) = new := by
    refine ⟨?_, ?_⟩
    · rw [rbits_rsetBits_disjoint _ _ _ _ _ _ _ (by decide) (by decide), rbits_rsetBits_self _ _ _ _ _ (by decide)]
      exact Nat.mod_eq_of_lt htemp
    · rw [rbits_rsetBits_self _ _ _ _ _ (by decide)]
      exact Nat.mod_eq_of_lt hnew
  have hother (o : Nat) (ho : o ≠ R.MEM_Sn_STAT k) : rget o (rsetBits (R.MEM_Sn_STAT k) 10 8 new (rsetBits (R.MEM_Sn_STAT k) 7 0 temp s)) = rget o s := by
    rw [rget_rsetBits_ne _ ho, rget_rsetBits_ne _ ho]
  have hmem : (rsetBits (R.MEM_Sn_STAT k) 10 8 new (rsetBits (R.MEM_Sn_STAT k) 7 0 temp s)).mem = s.mem := rfl
  generalize rsetBits (R.MEM_Sn_STAT k) 10 8 new (rsetBits (R.MEM_Sn_STAT k) 7 0 temp s) = t at hshown hother hmem ⊢
  have hcycles : ∃ w : State, (if rbits (R.MEM_Sn_STAT k) 10 8 s = 0 then t else bumpFree (rcountBy (R.MEM_Sn_THRCYC k) (Config.freeNat t.freeCtr) t)) = w ∧
      w.mem = t.mem ∧ ∀ o, o ≠ R.MEM_Sn_THRCYC k → rget o w = rget o t := by
    refine ⟨_, rfl, ?_, fun o ho => ?_⟩
    · split <;> rfl
    · split
      · rfl
      · exact rget_rset_ne t ho _
  obtain ⟨w, hw, hwmem, hwregs⟩ := hcycles
  rw [hw]
  have hnotice : ∃ r : State, (if new = rbits (R.MEM_Sn_STAT k) 10 8 s then w else raiseVector 132 (rsetBit R.MEM_EVT 0 w)) = r ∧
      r.mem = w.mem ∧ ∀ o, o ≠ R.MEM_EVT → rget o r = rget o w := by
    refine ⟨_, rfl, ?_, fun o ho => ?_⟩
    · split
      · rfl
      · exact (raiseVector_reportKeeps 132 (rsetBit R.MEM_EVT 0 w)).mem
    · split
      · rfl
      · rw [rget_raiseVector, rget_rsetBit_ne _ ho]
  obtain ⟨r, hr, hrmem, hrregs⟩ := hnotice
  rw [hr]
  have hstat : rget (R.MEM_Sn_STAT k) r = rget (R.MEM_Sn_STAT k) t :=
    (hrregs _ (by simp only [R.MEM_Sn_STAT, R.MEM_EVT]; omega)).trans (hwregs _ (by simp only [R.MEM_Sn_STAT, R.MEM_Sn_THRCYC]; omega))
  refine ⟨?_, ?_, hrmem.trans (hwmem.trans hmem), fun o ho => ?_⟩
  · rw [rbits, hstat]
    exact hshown.1
  · rw [rbits, hstat]
    exact hshown.2
  · simp only [List.mem_cons, List.not_mem_nil, or_false, not_or] at ho
    obtain ⟨hs, hc, he⟩ := ho
    exact (hrregs o he).trans ((hwregs o hc).trans (hother o hs))

/-- The packages above their limit after a report, and what shows of them. -/
theorem spillTempReport_spec (p : Nat) (hot : Bool) (s : State) :
    (rbit R.SPL_STAT 1 (spillTempReport p hot s) = true ↔ (spillTempReport p hot s).boot.hotPkgs ≠ []) ∧
    (p ∈ (spillTempReport p hot s).boot.hotPkgs ↔ hot = true) ∧
    (∀ g, g ≠ p → (g ∈ (spillTempReport p hot s).boot.hotPkgs ↔ g ∈ s.boot.hotPkgs)) ∧
    { spillTempReport p hot s with regs := s.regs, boot := s.boot } = s ∧
    ∀ o, o ∉ [R.SPL_STAT, R.SPL_EVT] → rget o (spillTempReport p hot s) = rget o s := by
  have hmem : ∀ g, g ∈ s.boot.hotPkgs.filter (fun x => x != p) ++ (if hot then [p] else []) ↔ g ∈ s.boot.hotPkgs ∧ g ≠ p ∨ g = p ∧ hot = true := by
    intro g
    cases hot <;> simp
  have hpkgs : (spillTempReport p hot s).boot.hotPkgs = s.boot.hotPkgs.filter (fun x => x != p) ++ (if hot then [p] else []) := by
    unfold spillTempReport
    dsimp only
    generalize s.boot.hotPkgs.filter (fun x => x != p) ++ (if hot then [p] else []) = l
    split
    · rfl
    · split <;> rfl
  refine ⟨?_, ?_, fun g hg => ?_, ?_, fun o ho => ?_⟩
  · rw [hpkgs]
    unfold spillTempReport
    dsimp only
    generalize s.boot.hotPkgs.filter (fun x => x != p) ++ (if hot then [p] else []) = l
    cases l with
    | nil =>
      rw [if_pos List.isEmpty_nil, rbit_rclrBit]
      simp
    | cons x l =>
      rw [if_neg (by simp)]
      have hset (t : State) : rbit R.SPL_STAT 1 (rsetBit R.SPL_STAT 1 t) = true := (rbit_rsetBit t R.SPL_STAT 1 1).trans rfl
      split
      · have hevt (t : State) : rbit R.SPL_STAT 1 (rsetBit R.SPL_EVT 0 t) = rbit R.SPL_STAT 1 t :=
          congrArg (Nat.testBit · 1) (rget_rsetBit_ne t (by decide) 0)
        rw [hevt, hset]
        simp
      · rw [hset]
        simp
  · rw [hpkgs, hmem]
    simp
  · rw [hpkgs, hmem]
    simp [hg]
  · unfold spillTempReport
    dsimp only
    generalize s.boot.hotPkgs.filter (fun x => x != p) ++ (if hot then [p] else []) = l
    split
    · rfl
    · split <;> rfl
  · simp only [List.mem_cons, List.not_mem_nil, or_false, not_or] at ho
    obtain ⟨hs, he⟩ := ho
    unfold spillTempReport
    dsimp only
    generalize s.boot.hotPkgs.filter (fun x => x != p) ++ (if hot then [p] else []) = l
    split
    · exact rget_rclrBit_ne _ hs 1
    · split
      · rw [rget_rsetBit_ne _ he, rget_rsetBit_ne _ hs]
        rfl
      · rw [rget_rsetBit_ne _ hs]
        rfl

/-- Settles O34, tier by tier, and report by report. -/
theorem patrolAndHeatReports : Obligations.PatrolAndHeatReports := by
  unfold Obligations.PatrolAndHeatReports
  refine ⟨fun line l s hin hon => ?stacked, fun line l s hfrom hto hon => ?spill, fun line l s hoff => congrArg Host.Outcome.next ?off,
    fun k temp s htemp => ⟨stackReported k.val temp s, rfl, stackReported_spec k.val temp s htemp⟩, fun p hot s => ?package⟩
  case stacked =>
    intro k
    have hline : patrolScrub line l s = patrolLine line l s := (if_pos (inStacked_of_le hin)).trans (if_neg hon)
    have hexec {t : State} (h : patrolLine line l s = t) : exec (.patrolScrub line l) s = .next t := congrArg Host.Outcome.next (hline.trans h)
    refine ⟨hexec rfl, fun hread hsev => hexec ?_, fun hread hwrite hsev => hexec ?_, fun hread hsev hbook => ⟨_, hexec ?_, poisonLine_counted ?_ s⟩,
      fun hread hsev hbook => hexec ?_, fun hlost => ⟨_, hexec (patrolLine_of_lost hin hlost), ?_⟩⟩
    · rw [patrolLine_of_stacked hin hread (fun h => by rw [hsev] at h; cases h), hsev]
      rfl
    · rw [patrolLine_of_stacked hin hread (fun _ => hwrite), hsev]
      rfl
    · rw [patrolLine_of_stacked hin hread (fun h => by rw [hsev] at h; cases h), hsev, hbook]
      rfl
    · simp only [R.MEM_Sn_UECC, R.MEM_EVT]
      omega
    · rw [patrolLine_of_stacked hin hread (fun h => by rw [hsev] at h; cases h), hsev, hbook]
      rfl
    · obtain ⟨hmem, hpoison⟩ := parityRepeats_memory (128 * line) l.readRepeats s
      generalize parityRepeats (128 * line) l.readRepeats s = t at hmem hpoison ⊢
      exact ⟨(rbit_rsetBit _ R.MEM_EVT 2 2).trans rfl, hmem, hpoison⟩
  case spill =>
    have hline : patrolScrub line l s = scrubSpill line l.sev s := by
      unfold patrolScrub
      rw [not_inStacked_of_spill hfrom, if_neg Bool.false_ne_true, if_pos (by simp only [inSpill, hfrom, hto, decide_true, Bool.and_self]), if_neg hon,
        patrolLine_of_spill hfrom hto]
    have hexec {v : Severity} (hsev : l.sev = v) : exec (.patrolScrub line l) s = .next (scrubSpill line v s) :=
      congrArg Host.Outcome.next (hline.trans (congrArg (scrubSpill line · s) hsev))
    refine ⟨hexec, hexec, fun hsev => ⟨_, hexec hsev, ?_⟩⟩
    exact poisonLine_counted (by decide) s
  case off =>
    change patrolScrub line l s = s
    unfold patrolScrub
    rcases hoff with ⟨hin, hoff⟩ | ⟨hfrom, hto, hoff⟩
    · rw [if_pos (inStacked_of_le hin), if_pos hoff]
    · rw [not_inStacked_of_spill hfrom, if_neg Bool.false_ne_true, if_pos (by simp only [inSpill, hfrom, hto, decide_true, Bool.and_self]), if_pos hoff]
  case package =>
    exact ⟨spillTempReport p.val hot s, rfl, spillTempReport_spec p.val hot s⟩

end Sys2Proof.Machine
end

section
/-! ATOMIC and accumulator regions (R153 to R157). -/

namespace Sys2Proof.Machine

open Sys2Proof

/-! ### Reads back of what was stored -/

theorem readBytes_of_inMemory {a n : Nat} (h : InMemory a n) (s : State) : readBytes s a n = (List.range n).map (fun i => byteAt (a + i) s) := by
  refine List.map_congr_left fun i hi => ?_
  have hlt := List.mem_range.mp hi
  have hone : InMemory (a + i) 1 := by
    unfold InMemory at h ⊢
    omega
  unfold readByte
  rw [(reach_of_inMemory hone (by decide) s).1]

/-- The bytes of a range that holds exactly `b`. -/
theorem readBytes_eq_of_byteAt {a : Nat} {b : Bytes} (h : InMemory a b.length) {s : State} (hb : ∀ i < b.length, byteAt (a + i) s = b.getD i 0) :
    readBytes s a b.length = b := by
  rw [readBytes_of_inMemory h]
  refine List.ext_getElem (by simp) fun i hi hi' => ?_
  rw [List.getElem_map, List.getElem_range, hb i hi', List.getD_eq_getElem _ _ hi']

theorem touchRead_readsAlike (s : State) (x : Nat × Nat) : ReadsAlike s (touchRead s x) := by
  unfold touchRead
  split
  · exact ⟨rfl, rfl, rfl, rfl, rfl, rfl, rfl, rfl⟩
  · exact ⟨rfl, rfl, rfl, rfl, rfl, rfl, rfl, rfl⟩

theorem touchRead_regs (s : State) (x : Nat × Nat) : (touchRead s x).regs = s.regs := by
  unfold touchRead
  split <;> rfl

/-! ### ATOMIC (R153) -/

theorem length_leBytes : ∀ n v : Nat, (leBytes n v).length = n
  | 0, _ => rfl
  | n + 1, v => congrArg (· + 1) (length_leBytes n (v / 256))

/-- A list of one entry whose target is sound. -/
theorem atomicGo_one {c a : Nat} {s : State} {x : Started} (hx : startedAt c s = some x) (hlist : a + 32 ≤ stackedEnd) :
    let tgt := readNat s a 6
    let op := readNat s (a + 6) 1
    let w := atomicWidth op
    tgt + w ≤ stackedEnd → tgt % w = 0 → poisoned s tgt w = false → (tgt + w ≤ a ∨ a + 32 ≤ tgt) →
    startedAt c (atomicGo c a 1 0 s) = some { x with state := .done } ∧
    readBytes (atomicGo c a 1 0 s) tgt w = leBytes w (atomicOp op (readNat s tgt w) (readNat s (a + 8) 8) (readNat s (a + 16) 8)) ∧
    readBytes (atomicGo c a 1 0 s) (a + 24) 8 = leBytes 8 (readNat s tgt w) ∧ (atomicGo c a 1 0 s).regs = s.regs ∧
    ∀ y, (y < tgt ∨ tgt + w ≤ y) → (y < a + 24 ∨ a + 32 ≤ y) → byteAt y (atomicGo c a 1 0 s) = byteAt y s := by
  intro tgt op w htarget halign hclean hapart
  have hw : 0 < w := by
    simp only [w, atomicWidth]
    split <;> decide
  generalize hnew : leBytes w (atomicOp op (readNat s tgt w) (readNat s (a + 8) 8) (readNat s (a + 16) 8)) = new
  generalize hold : leBytes 8 (readNat s tgt w) = old
  have hlen : new.length = w := hnew ▸ length_leBytes ..
  have hlen₈ : old.length = 8 := hold ▸ length_leBytes ..
  have hmem : InMemory tgt new.length := .inl (by omega)
  have hmem₈ : InMemory (a + 24) old.length := .inl (by omega)
  have hne : new ≠ [] := List.ne_nil_of_length_pos (by omega)
  have hne₈ : old ≠ [] := List.ne_nil_of_length_pos (by omega)
  have hgo : atomicGo c a 1 0 s = markDone c (addFlags c 0 (storeBytes (a + 24) old false (storeBytes tgt new false s))) := by
    have hin : inStacked tgt w = true := decide_eq_true htarget
    have hput : poke tgt new s = storeBytes tgt new false s := by rw [poke, writeMem_of_inMemory hmem hne]
    unfold atomicGo
    simp only [Nat.mul_zero, Nat.add_zero]
    rw [if_neg (by rw [hin]; simp), if_neg (by simpa using halign), if_neg (by rw [hclean]; exact Bool.false_ne_true), hnew, hold, hput,
      writeMem_of_inMemory hmem₈ hne₈]
    rfl
  have hbyte (y : Nat) : byteAt y (storeBytes (a + 24) old false (storeBytes tgt new false s)) =
      if a + 24 ≤ y ∧ y < a + 32 then old.getD (y - (a + 24)) 0 else if tgt ≤ y ∧ y < tgt + w then new.getD (y - tgt) 0 else byteAt y s := by
    rw [byteAt_storeBytes, byteAt_storeBytes, hlen, hlen₈]
  have hreads (b n : Nat) : readBytes (markDone c (addFlags c 0 (storeBytes (a + 24) old false (storeBytes tgt new false s)))) b n =
      readBytes (storeBytes (a + 24) old false (storeBytes tgt new false s)) b n :=
    ReadsAlike.readBytes (s := storeBytes (a + 24) old false (storeBytes tgt new false s)) ⟨rfl, rfl, rfl, rfl, rfl, rfl, rfl, rfl⟩ b n
  rw [hgo]
  refine ⟨?_, (hreads ..).trans ?_, (hreads ..).trans ?_, rfl, fun y hy hy' => ?_⟩
  · have hflags := startedAt_updStarted (c := c) (s := storeBytes (a + 24) old false (storeBytes tgt new false s))
      (f := fun x => { x with flags := x.flags ||| 0 }) (fun _ => rfl) hx
    rw [Nat.or_zero] at hflags
    exact startedAt_markDone hflags
  · rw [← hlen]
    refine readBytes_eq_of_byteAt hmem fun i hi => ?_
    rw [hbyte, if_neg (by omega), if_pos (by omega), Nat.add_sub_cancel_left]
  · rw [← hlen₈]
    refine readBytes_eq_of_byteAt hmem₈ fun i hi => ?_
    rw [hbyte, if_pos (by omega), Nat.add_sub_cancel_left]
  · exact (hbyte y).trans ((if_neg (by omega)).trans (if_neg (by omega)))

/-! ### Accumulator regions (R154 to R157) -/

theorem findKey_insert_ne {V : Type} {k r : Nat} (h : k ≠ r) (v : V) : ∀ l : List (Nat × V), findKey k (AL.insert r v l) = findKey k l
  | [] => by simp [AL.insert, findKey, h.symm]
  | (j, w) :: l => by
    have ih := findKey_insert_ne h v l
    unfold AL.insert
    split
    · simp [findKey, h.symm]
    · split
      · rename_i hj
        subst hj
        simp [findKey, h.symm]
      · by_cases hj : j = k
        · simp [findKey, hj]
        · simpa [findKey, hj] using ih

theorem showAcc_frame (s : State) : { showAcc s with regs := s.regs } = s :=
  rest_rset (rest_rset (rest_rset (rest_rset rfl ..) ..) ..) ..

theorem accClose_of_open {c : Nat} {s : State} {x : Started} {g : AccRegion} (hx : runningCmd c .accClose s = some x) (hbegun : x.begun = true)
    (hg : accRegion (accCloseRegion x.bytes) s = some g) :
    let r := accCloseRegion x.bytes
    let un := unitAt x.bytes 1
    let out := accOut g (accCloseRaw x.bytes) (bits (u un 6 1) 4 0)
    let w := writeMem (u un 0 6) (out.flatMap (fun v => leBytes (if accCloseRaw x.bytes then 8 else fmtBits (bits (u un 6 1) 4 0) / 8) v.1)) s
    let t := addFlags c ((out.foldl (fun a v => a ||| v.2) 0) ||| w.flags) w.s
    accCloseRun c s = if !g.bad.isEmpty then failCmd c bSHC 0x0142 0 { s with acc := AL.insert r { g with closing := false } s.acc }
      else match w.cause with
        | some cause => failCmd c bSHC cause 0 { w.s with acc := AL.insert r { g with closing := false } w.s.acc }
        | none => markDone c (showAcc (if bitAt (u x.bytes 17 1) 0 then { t with acc := AL.insert r { g with closing := false } t.acc }
            else { t with acc := AL.erase r t.acc })) := by
  unfold accCloseRun
  simp only [hx, hg, hbegun, Bool.not_true, Bool.false_eq_true, if_false] <;> rfl

/-- Settles O35: ATOMIC by its checks and its one entry, the regions by the branches of their commands. -/
theorem atomicsAndAccumulatorRegions : Obligations.AtomicsAndAccumulatorRegions := by
  unfold Obligations.AtomicsAndAccumulatorRegions
  refine ⟨fun c s x hx => ?atomic, fun c s x hx => ?opens, fun c s x g hx hbegun hg => ?closes, fun c s x hx hnot => congrArg Host.Outcome.next ?refused⟩
  case atomic =>
    intro a n tgt op w
    have hrun : atomicRun c s = match firstUnreached s a (32 * n) with
        | some e => failCmd c bSHC (reachCause s e) 0 (captureReach e s)
        | none => if bankHolds a (32 * n) s then s else if poisoned s a (32 * n) then failCmd c bSHC 0x0142 0 s
            else atomicGo c a n 0 (touchRead s (a, 32 * n)) := by
      unfold atomicRun
      rw [hx] <;> rfl
    have hexec {t : State} (h : atomicRun c s = t) : exec (.atomic c) s = .next t := congrArg Host.Outcome.next h
    have hgo (hreach : firstUnreached s a (32 * n) = none) (hfree : bankHolds a (32 * n) s = false) (hclean : poisoned s a (32 * n) = false) :
        exec (.atomic c) s = .next (atomicGo c a n 0 (touchRead s (a, 32 * n))) := hexec (by rw [hrun, hreach, hfree, hclean] <;> rfl)
    refine ⟨fun e he => hexec (by rw [hrun, he] <;> rfl), fun hreach hheld => hexec (by rw [hrun, hreach, hheld] <;> rfl),
      fun hreach hfree hbad => hexec (by rw [hrun, hreach, hfree, hbad] <;> rfl), hgo, ?_⟩
    intro hn hfree hlist htarget halign hclean hsound hapart
    rw [hn] at hgo
    refine ⟨_, hgo (firstUnreached_of_inMemory (.inl hlist) s) hfree hclean, ?_⟩
    have hreads := touchRead_readsAlike s (a, 32 * 1)
    have hnat (b k : Nat) : readNat (touchRead s (a, 32 * 1)) b k = readNat s b k := congrArg ofLe (hreads.readBytes b k)
    have hx' : startedAt c (touchRead s (a, 32 * 1)) = some x := ((touchRead_slotsKeep s _).startedAt c).trans (runningCmd_spec hx).1
    have hone := atomicGo_one hx' hlist
    simp only [hnat, hreads.poisoned, touchRead_regs, hreads.byteAt] at hone
    exact hone htarget halign hsound hapart
  case opens =>
    intro un r
    have hrun : accOpenRun c s = if (accRegion r s).isSome then failCmd c bSHC 0x0144 0 s
        else if rbits R.SHC_ACC_LIMIT 6 0 s * 2 ^ 20 < accPinned (accDie r) s + 8 * u un 4 4 then failCmd c bSHC 0x0141 0 s
        else markDone c (showAcc { s with acc := AL.insert r { int := u un 1 1 == 1, e := signed 8 (u un 2 1), elements := u un 4 4 } s.acc }) := by
      unfold accOpenRun
      rw [hx] <;> rfl
    have hexec {t : State} (h : accOpenRun c s = t) : exec (.accOpen c) s = .next t := congrArg Host.Outcome.next h
    refine ⟨fun hclosed hroom => ?_, fun hopen => hexec ?_, fun hclosed hfull => hexec ?_⟩
    · rw [hclosed, Option.isSome_none, if_neg Bool.false_ne_true, if_neg (by omega)] at hrun
      refine ⟨_, hexec hrun, ?_⟩
      generalize hs' : ({ s with acc := AL.insert r { int := u un 1 1 == 1, e := signed 8 (u un 2 1), elements := u un 4 4 } s.acc } : State) = t
      have hframe := showAcc_frame t
      have hacc : (markDone c (showAcc t)).acc = t.acc := (congrArg State.acc hframe :)
      have hstarted : (showAcc t).started = t.started := (congrArg State.started hframe :)
      have hregion (k : Nat) : accRegion k (markDone c (showAcc t)) = findKey k t.acc := congrArg (findKey k) hacc
      refine ⟨?_, fun k hk => ?_, startedAt_markDone ?_, ?_⟩
      · rw [hregion, ← hs']
        exact findKey_insert_self ..
      · rw [hregion, ← hs']
        exact findKey_insert_ne hk ..
      · rw [startedAt, hstarted, ← hs']
        exact (runningCmd_spec hx).1
      · have h := congrArg (fun t : State => { t with regs := s.regs, acc := s.acc, started := s.started }) hframe
        refine Eq.trans h ?_
        rw [← hs']
    · obtain ⟨g, hg⟩ := Option.ne_none_iff_exists'.mp hopen
      rw [hrun, hg]
      rfl
    · rw [hrun, hclosed, Option.isSome_none, if_neg Bool.false_ne_true, if_pos hfull]
  case closes =>
    intro r un out w t
    have hrun := accClose_of_open hx hbegun hg
    have hexec {t : State} (h : accCloseRun c s = t) : exec (.accClose c) s = .next t := congrArg Host.Outcome.next h
    refine ⟨fun hbad => hexec (hrun.trans (if_pos ?_)), fun hgood hw => hexec (hrun.trans ((if_neg ?_).trans ?_)),
      fun k hgood hw => hexec (hrun.trans ((if_neg ?_).trans ?_))⟩
    · simpa using hbad
    · simp [hgood]
    · change (match w.cause with | some _ => _ | none => _) = _
      rw [hw]
    · simp [hgood]
    · change (match w.cause with | some _ => _ | none => _) = _
      rw [hw]
  case refused =>
    change accCloseRun c s = _
    unfold accCloseRun
    rw [hx]
    dsimp only
    rcases hnot with hnone | hnot
    · rw [hnone]
    · rw [hnot]
      cases accRegion (accCloseRegion x.bytes) s <;> rfl

end Sys2Proof.Machine
end

section
/-! Bank commands, and the holding and waking of the bank units (chapter 09). -/

namespace Sys2Proof.Machine

open Sys2Proof

/-! ### Commands by slots (R165, R180, R181) -/

/-- The failing pair that is found is one of the list, and one is found unless the list is empty. -/
theorem firstFail_mem {l : List (Nat × Nat)} {a : Nat × Nat} (h : firstFail l = some a) : a ∈ l := by
  induction l with
  | nil => cases h
  | cons x l ih =>
    unfold firstFail at h
    split at h
    · cases h
      exact .head _
    · split at h
      · cases h
        exact .head _
      · cases h
        exact .tail _ (ih ‹_›)

theorem firstFail_eq_none {l : List (Nat × Nat)} : firstFail l = none ↔ l = [] := by
  cases l with
  | nil => exact ⟨fun _ => rfl, fun _ => rfl⟩
  | cons x l =>
    refine ⟨fun h => ?_, fun h => nomatch h⟩
    unfold firstFail at h
    split at h
    · cases h
    · split at h <;> cases h

theorem slotParity_of_none {ps : List ParityErr} {zs : List Nat} {k : Nat} (h : parityOf ps zs k = []) (q : Nat) (s : State) :
    slotParity ps zs k q s = (s, false) := by
  unfold slotParity
  rw [h]

theorem paritySlots_of_none {ps : List ParityErr} {zs : List Nat} (h : ∀ k, parityOf ps zs k = []) (q : Nat) (s : State) :
    ∀ n k, paritySlots ps zs q n k s = (s, false)
  | 0, _ => rfl
  | n + 1, k => by
    unfold paritySlots
    rw [slotParity_of_none (h k)]
    exact paritySlots_of_none h q s n (k + 1)

section
variable (b : BankJob) (ps : List ParityErr) (n k : Nat) (s : State)

/-- The rows of a slot that read poison, as (step, bank). -/
def BankJob.poisoned (b : BankJob) (k : Nat) (s : State) : List (Nat × Nat) :=
  (b.rowsOf k).filterMap (fun j => (rowPoison s (b.reads j)).map (fun st => (st, bankOfRow b.zs j)))

theorem BankJob.go_of_no_parity (hparity : parityOf ps b.zs k = []) : b.go ps (n + 1) k s =
    match firstFail (b.poisoned k s) with
    | none => b.go ps n (k + 1) (((b.rowsOf k).filter (fun j => (rowPoison s (b.reads j)).isNone)).foldl b.doRow s)
    | some (_, bank) => bankFailed b.x.id 0x0152 (bank / 1024) b.zs (capturePoison bank k b.x
        (((b.rowsOf k).filter (fun j => (rowPoison s (b.reads j)).isNone)).foldl b.doRow s)) := by
  conv => lhs; unfold BankJob.go
  rw [slotParity_of_none hparity]
  dsimp only
  rw [if_neg Bool.false_ne_true] <;> rfl

theorem BankJob.go_of_clean (hparity : parityOf ps b.zs k = []) (hclean : ∀ j ∈ b.rowsOf k, rowPoison s (b.reads j) = none) :
    b.go ps (n + 1) k s = b.go ps n (k + 1) ((b.rowsOf k).foldl b.doRow s) := by
  have hnone : firstFail (b.poisoned k s) = none :=
    firstFail_eq_none.mpr (List.filterMap_eq_nil_iff.mpr fun j hj => by rw [hclean j hj]; rfl)
  have hall : (b.rowsOf k).filter (fun j => (rowPoison s (b.reads j)).isNone) = b.rowsOf k :=
    List.filter_eq_self.mpr fun j hj => by rw [hclean j hj]; rfl
  rw [b.go_of_no_parity ps n k s hparity, hnone, hall]

theorem BankJob.go_of_poison (hparity : parityOf ps b.zs k = []) (hbad : ∃ j ∈ b.rowsOf k, rowPoison s (b.reads j) ≠ none) :
    ∃ j ∈ b.rowsOf k, rowPoison s (b.reads j) ≠ none ∧ b.go ps (n + 1) k s =
      bankFailed b.x.id 0x0152 (bankOfRow b.zs j / 1024) b.zs (capturePoison (bankOfRow b.zs j) k b.x
        (((b.rowsOf k).filter (fun i => (rowPoison s (b.reads i)).isNone)).foldl b.doRow s)) := by
  obtain ⟨⟨step, bank⟩, hfirst⟩ : ∃ a, firstFail (b.poisoned k s) = some a := by
    refine Option.ne_none_iff_exists'.mp fun hnone => ?_
    obtain ⟨j, hj, hne⟩ := hbad
    have := List.filterMap_eq_nil_iff.mp (firstFail_eq_none.mp hnone) j hj
    exact hne (Option.map_eq_none_iff.mp this)
  obtain ⟨j, hj, hmap⟩ := List.mem_filterMap.mp (firstFail_mem hfirst)
  obtain ⟨st, hst, hpair⟩ := Option.map_eq_some_iff.mp hmap
  cases hpair
  refine ⟨j, hj, fun h => ?_, ?_⟩
  · rw [h] at hst
    cases hst
  · rw [b.go_of_no_parity ps n k s hparity, hfirst]

theorem BankJob.go_of_second_error {p r : ParityErr} {rest : List ParityErr} (hparity : parityOf ps b.zs k = p :: r :: rest) :
    b.go ps (n + 1) k s = chipFatal bBNK 3 b.x.q r.stack.val (repeatSlot p b.x.q s) := by
  have hdead : slotParity ps b.zs k b.x.q s = (chipFatal bBNK 3 b.x.q r.stack.val (repeatSlot p b.x.q s), true) := by
    unfold slotParity
    rw [hparity]
  conv => lhs; unfold BankJob.go
  rw [hdead]
  exact if_pos rfl

end

/-! ### The pages of BANK_COPY (R166, R179) -/

/-- Does a page of the list keep the command from starting with cause `e`? -/
theorem contains_pageFault (s : State) (b : Bytes) (n e : Nat) :
    (((List.range n).flatMap (fun i => [(copyPair s b i).1, (copyPair s b i).2])).filterMap (pageFault s)).contains e = true ↔
      ∃ i < n, pageFault s (copyPair s b i).1 = some e ∨ pageFault s (copyPair s b i).2 = some e := by
  simp only [List.contains_iff_mem, List.mem_filterMap, List.mem_flatMap, List.mem_range, List.mem_cons, List.not_mem_nil, or_false]
  constructor
  · rintro ⟨a, ⟨i, hi, rfl | rfl⟩, ha⟩
    · exact ⟨i, hi, .inl ha⟩
    · exact ⟨i, hi, .inr ha⟩
  · rintro ⟨i, hi, h | h⟩
    · exact ⟨_, ⟨i, hi, .inl rfl⟩, h⟩
    · exact ⟨_, ⟨i, hi, .inr rfl⟩, h⟩

/-- Settles O36, command by command. -/
theorem bankCommandsRunBySlots : Obligations.BankCommandsRunBySlots := by
  unfold Obligations.BankCommandsRunBySlots
  refine ⟨fun c ps s x hx hon => ?opt, fun c ps s x hx hon => ?ew, fun i s hi hheld => ?held, fun b ps n k s => ?slots,
    fun c s x hx hon => ?mv, fun c s x hx hon => ?copy⟩
  case opt =>
    intro o
    refine ⟨fun e he => congrArg Host.Outcome.next ?_, fun hnone => congrArg Host.Outcome.next ?_⟩
    all_goals
      unfold bankOptRun
      simp only [hx, hon, Bool.false_eq_true, if_false]
    · change (match arraysFault o.arrays o.zs s with | some _ => _ | none => _) = _
      rw [he]
    · change (match arraysFault o.arrays o.zs s with | some _ => _ | none => _) = _
      rw [hnone]
  case ew =>
    intro e
    refine ⟨fun f hf => congrArg Host.Outcome.next ?_, fun hnone => congrArg Host.Outcome.next ?_⟩
    all_goals
      unfold bankEwRun
      simp only [hx, hon, Bool.false_eq_true, if_false]
    · change (match arraysFault (e.uses.map e.arr) e.zs s with | some _ => _ | none => _) = _
      rw [hf]
    · change (match arraysFault (e.uses.map e.arr) e.zs s with | some _ => _ | none => _) = _
      rw [hnone]
  case held =>
    have hstay {o : Option Started} {f : Started → State} : (match o with | none => s | some x => if enginesHeld s then s else f x) = s := by
      cases o with
      | none => rfl
      | some x => exact if_pos hheld
    obtain ⟨c, ps, rfl | rfl | rfl | rfl⟩ := hi
    · exact congrArg Host.Outcome.next hstay
    · exact congrArg Host.Outcome.next hstay
    · exact congrArg Host.Outcome.next hstay
    · exact congrArg Host.Outcome.next hstay
  case slots =>
    exact ⟨rfl, b.go_of_clean ps n k s, b.go_of_poison ps n k s, fun p r rest => b.go_of_second_error ps n k s⟩
  case mv =>
    intro m
    have hrun (ps : List ParityErr) : bankMvRun c ps s = match m.w.fault m.zs s with
        | some e => failCmd c bBNK e 0 s
        | none => match m.x.unmapped s <|> m.y.unmapped s with
          | some a => bankFailed c (reachCause s a) 0 m.zs (captureReach a s)
          | none => if m.x.poisoned s then bankFailed c 0x0142 0 m.zs (forgetAll m.y.used (touchReads m.x.used s))
            else
              let r := paritySlots ps m.zs x.q (match firstMv (m.poisons s) with | none => m.w.slots m.zs | some f => f.2.2.1 + 1) 0 s
              if r.2 then r.1
              else match firstMv (m.poisons s) with
                | some f => bankFailed c 0x0152 (f.2.2.2 / 1024) m.zs (capturePoison f.2.2.2 f.2.2.1 x (forgetAll m.y.used r.1))
                | none => mvWrite c m (touchReads m.x.used r.1) := by
      unfold bankMvRun
      simp only [hx, hon, Bool.false_eq_true, if_false] <;> rfl
    have hexec {ps : List ParityErr} {t : State} (h : bankMvRun c ps s = t) : exec (.bankMv c ps) s = .next t := congrArg Host.Outcome.next h
    refine ⟨fun e he ps => hexec ?_, fun hsound a ps ha => hexec ?_, fun hsound hmapped => ⟨fun hbad ps => hexec ?_, fun hclean hnone ps hps => hexec ?_,
      fun hclean f hf ps hps => hexec ?_⟩⟩
    · rw [hrun, he]
    · rw [hrun, hsound, ha]
    · rw [hrun, hsound, hmapped, hbad] <;> rfl
    · rw [hrun, hsound, hmapped, hclean, hnone]
      dsimp only
      rw [paritySlots_of_none hps]
      rfl
    · rw [hrun, hsound, hmapped, hclean, hf]
      dsimp only
      rw [paritySlots_of_none hps]
      rfl
  case copy =>
    intro a n zs
    have hrun (ps : List ParityErr) : bankCopyRun c ps s = match firstUnreached s a (16 * n) with
        | some e => bankFailed c (reachCause s e) 0 zs (captureReach e s)
        | none => if poisoned s a (16 * n) then bankFailed c 0x0142 0 zs s
          else if (((List.range n).flatMap (fun i => [(copyPair s x.bytes i).1, (copyPair s x.bytes i).2])).filterMap (pageFault s)).contains 0x0150
            then failCmd c bBNK 0x0150 0 s
          else if (((List.range n).flatMap (fun i => [(copyPair s x.bytes i).1, (copyPair s x.bytes i).2])).filterMap (pageFault s)).contains 0x0151
            then failCmd c bBNK 0x0151 0 s
          else copyGo x zs ps n 0 s := by
      unfold bankCopyRun
      simp only [hx, hon, Bool.false_eq_true, if_false] <;> rfl
    have hexec {ps : List ParityErr} {t : State} (h : bankCopyRun c ps s = t) : exec (.bankCopy c ps) s = .next t := congrArg Host.Outcome.next h
    have hread (hmapped : firstUnreached s a (16 * n) = none) (hclean : poisoned s a (16 * n) = false) (ps : List ParityErr) := by
      have h := hrun ps
      rw [hmapped, hclean] at h
      exact h.trans (if_neg Bool.false_ne_true)
    have hfault (e : Nat) := contains_pageFault s x.bytes n e
    refine ⟨fun e he ps => hexec ?_, fun hmapped hbad ps => hexec ?_, fun hmapped hclean => ⟨fun h150 ps => hexec ?_, fun hno h151 ps => hexec ?_⟩,
      fun hmapped hclean hsound ps => hexec ?_, fun i m hgood => ?_⟩
    · rw [hrun, he]
    · rw [hrun, hmapped, hbad] <;> rfl
    · exact (hread hmapped hclean ps).trans (if_pos ((hfault _).mpr h150))
    · refine (hread hmapped hclean ps).trans ((if_neg (mt (hfault _).mp ?_)).trans (if_pos ((hfault _).mpr h151)))
      rintro ⟨i, hi, h | h⟩
      · exact (hno i hi).1 h
      · exact (hno i hi).2 h
    · refine (hread hmapped hclean ps).trans ((if_neg (mt (hfault _).mp ?_)).trans (if_neg (mt (hfault _).mp ?_)))
      all_goals
        rintro ⟨i, hi, h | h⟩
        · exact nomatch (hsound i hi).1.symm.trans h
        · exact nomatch (hsound i hi).2.symm.trans h
    · conv => lhs; unfold copyGo
      rw [slotParity_of_none rfl]
      dsimp only
      rw [if_neg Bool.false_ne_true]
      change (match badPieces s (copyPair s x.bytes i).1 with | [] => _ | _ :: _ => _) = _
      rw [hgood]

/-! ### Holding and waking (R170, R182) -/

theorem rbit_of_rget {o i : Nat} {s t : State} (h : rget o t = rget o s) : rbit o i t = rbit o i s := congrArg (Nat.testBit · i) h

theorem rbit_rclrBit_self (o i : Nat) (s : State) : rbit o i (rclrBit o i s) = false := by rw [rbit_rclrBit]; simp

/-- The units are gated: held, with the event. -/
theorem bankGate_spec (s : State) : rbit R.BNK_STAT 0 (bankGate s) = true ∧ rbit R.BNK_EVT 2 (bankGate s) = true ∧ (bankGate s).bank = {} ∧
    { bankGate s with regs := s.regs, bank := s.bank } = s ∧ ∀ o, o ∉ [R.BNK_STAT, R.BNK_EVT] → rget o (bankGate s) = rget o s := by
  refine ⟨?_, rbit_rsetBit_self .., rfl, rfl, fun o ho => ?_⟩
  · exact (rbit_of_rget (rget_rsetBit_ne _ (by decide) 2)).trans (rbit_rsetBit_self ..)
  · simp only [List.mem_cons, List.not_mem_nil, or_false, not_or] at ho
    exact (rget_rsetBit_ne _ ho.2 2).trans (rget_rsetBit_ne _ ho.1 0)

theorem bankBist_of_pass {s : State} (h : (!rbit R.BNK_CTL 0 s || !rbit R.HIF_BOOT 8 s || !diesCool s) = false) :
    bankBist true s = rsetBit R.HIF_BOOT 10 (rsetBit R.BNK_STAT 2 s) := by
  unfold bankBist
  rw [h]
  rfl

/-- Settles O37, by the branches of HOLD, of the wake and of the built-in test. -/
theorem bankUnitsAreHeldAndWoken : Obligations.BankUnitsAreHeldAndWoken := by
  unfold Obligations.BankUnitsAreHeldAndWoken
  refine ⟨fun s hon => congrArg Host.Outcome.next (if_pos hon), fun s hoff => ⟨fun hwake => ?pending, fun hwake => ?stops⟩, fun s hpend hrun => ?holds,
    fun s hnot => congrArg Host.Outcome.next (if_neg ?waits), fun s hbist => ?misuse, fun s hbist hoff => congrArg Host.Outcome.next ?awake,
    fun s hbist hon => ?wakes, fun s hwake => ?woken, fun s hwake => congrArg Host.Outcome.next ?noWake,
    fun pass s hnot => congrArg Host.Outcome.next (if_pos ?early), fun s hctl hboot hcool => ?test⟩
  case pending =>
    have hhold : bankHold s = { rsetBit R.BNK_CTL 0 s with bank := { s.bank with holdPending := true } } := by
      unfold bankHold
      rw [hoff, hwake]
      rfl
    exact ⟨_, congrArg Host.Outcome.next hhold, rbit_rsetBit_self R.BNK_CTL 0 s, rfl, rfl, fun o ho => rget_rsetBit_ne s ho 0⟩
  case stops =>
    have hhold : bankHold s = bankGate (rsetBit R.BNK_CTL 0 s) := by
      unfold bankHold
      rw [hoff, hwake]
      rfl
    obtain ⟨hheld, hevt, hbank, -, hregs⟩ := bankGate_spec (rsetBit R.BNK_CTL 0 s)
    exact ⟨_, congrArg Host.Outcome.next hhold, (rbit_of_rget (hregs _ (by decide))).trans (rbit_rsetBit_self R.BNK_CTL 0 s), hheld, hevt, hbank, rfl⟩
  case holds =>
    have hdone : bankHoldDone s = bankGate s := if_pos (by rw [hpend, hrun]; rfl)
    exact ⟨_, congrArg Host.Outcome.next hdone, bankGate_spec s⟩
  case waits =>
    rcases hnot with h | h
    · simp [h]
    · simp [h]
  case misuse =>
    exact ⟨misuse bBNK s, congrArg Host.Outcome.next (if_pos (by rw [hbist]; rfl)), misuse_counts s rfl⟩
  case awake =>
    change bankWake s = s
    unfold bankWake
    rw [hbist, hoff]
    rfl
  case wakes =>
    have hwake : bankWake s = { rclrBit R.BNK_CTL 0 s with
        bank := if s.bank.holdPending then { s.bank with holdPending := false } else { s.bank with waking := true } } := by
      unfold bankWake
      rw [hbist, hon]
      cases s.bank.holdPending <;> rfl
    exact ⟨_, congrArg Host.Outcome.next hwake, rbit_rclrBit_self R.BNK_CTL 0 s, rfl, rfl, fun o ho => rget_rclrBit_ne s ho 0⟩
  case woken =>
    have hdone : bankWakeDone s = rsetBit R.BNK_EVT 2 (rclrBit R.BNK_STAT 0 { s with bank := { s.bank with waking := false } }) := if_pos hwake
    refine ⟨_, congrArg Host.Outcome.next hdone, ?_, rbit_rsetBit_self .., rfl, rfl, fun o ho => ?_⟩
    · exact (rbit_of_rget (rget_rsetBit_ne _ (by decide) 2)).trans (rbit_rclrBit_self ..)
    · simp only [List.mem_cons, List.not_mem_nil, or_false, not_or] at ho
      exact (rget_rsetBit_ne _ ho.2 2).trans (rget_rclrBit_ne _ ho.1 0)
  case noWake => exact if_neg (by rw [hwake]; exact Bool.false_ne_true)
  case early =>
    rcases hnot with h | h | h <;> simp [h]
  case test =>
    have hpass : (!rbit R.BNK_CTL 0 s || !rbit R.HIF_BOOT 8 s || !diesCool s) = false := by rw [hctl, hboot, hcool]; rfl
    refine ⟨⟨_, congrArg Host.Outcome.next (bankBist_of_pass hpass), ?_, rbit_rsetBit_self .., rfl, fun o ho => ?_⟩, congrArg Host.Outcome.next ?_⟩
    · exact (rbit_of_rget (rget_rsetBit_ne _ (by decide) 10)).trans (rbit_rsetBit_self R.BNK_STAT 2 s)
    · simp only [List.mem_cons, List.not_mem_nil, or_false, not_or] at ho
      exact (rget_rsetBit_ne _ ho.2 10).trans (rget_rsetBit_ne s ho.1 2)
    · exact (if_neg (by rw [hpass]; exact Bool.false_ne_true)).trans (if_neg Bool.false_ne_true)

end Sys2Proof.Machine
end

section
/-! Transfers and DMA channels (R192 to R204). -/

namespace Sys2Proof.Machine

open Sys2Proof

/-! ### Registers that follow the streams -/

theorem showStream_frame (i : Nat) (s : State) : { showStream i s with regs := s.regs } = s :=
  rest_rset (rest_rset (rest_rset (rest_rset (rest_rset (rest_rset rfl ..) ..) ..) ..) ..) ..

/-- A change of registers alone. -/
theorem regsOnly_trans {s t w : State} (h : { t with regs := s.regs } = s) (g : { w with regs := t.regs } = t) : { w with regs := s.regs } = s :=
  (congrArg (fun x : State => { x with regs := s.regs }) g).trans h

theorem regsOnly_foldl {α : Type} {f : State → α → State} (hf : ∀ t x, { f t x with regs := t.regs } = t) :
    ∀ (l : List α) (s : State), { l.foldl f s with regs := s.regs } = s
  | [], _ => rfl
  | x :: l, s => regsOnly_trans (hf s x) (regsOnly_foldl hf l (f s x))

theorem showStreams_frame (n : Nat) (s : State) : { showStreams n s with regs := s.regs } = s :=
  regsOnly_foldl (fun t j => showStream_frame (8 * n + j) t) (List.range 8) s

theorem showGrant_frame (i : Nat) (s : State) : { showGrant i s with regs := s.regs } = s := rest_rset (showStreams_frame ..) ..

theorem showTags_frame (h : Nat) (s : State) : { showTags h s with regs := s.regs } = s := rest_rset rfl ..

/-! ### Tags and grants (R192, R193, R196) -/

theorem transferAt_bounds : ∀ (l : List (Nat × Nat)) (off : Nat), (transferAt l off).2 ≤ 4096 ∧ (transferAt l off).1 % 4096 + (transferAt l off).2 ≤ 4096
  | [], _ => ⟨Nat.zero_le _, Nat.zero_le _⟩
  | (a, l) :: t, off => by
    unfold transferAt
    split
    · dsimp only
      omega
    · exact transferAt_bounds t (off - l)

theorem halfx_showTags (k h : Nat) (s : State) : halfx k (showTags h s) = halfx k s := by
  have hshow := showTags_frame h s
  generalize showTags h s = t at hshow ⊢
  have hhalves : t.halves = s.halves := (congrArg State.halves hshow :)
  simp only [halfx, hhalves]

theorem halfx_issueTransfer (h : Nat) (y : Transfer) (s : State) : (halfx h (issueTransfer h y s)).transfers =
    (halfx h s).transfers ++ [{ y with id := (halfx h s).nextId, left := rbits R.DMA_RETRY 3 0 s }] := by
  unfold issueTransfer
  dsimp only
  rw [halfx_showTags, halfx_setHalfx_self]

theorem issueTransfer_frame (h : Nat) (y : Transfer) (s : State) : { issueTransfer h y s with regs := s.regs, halves := s.halves } = s := by
  unfold issueTransfer
  dsimp only
  generalize hr : setHalfx h _ s = r
  have hrest : { r with halves := s.halves } = s := hr ▸ rfl
  have hshow := showTags_frame h r
  generalize showTags h r = t at hshow ⊢
  exact (congrArg (fun x : State => { x with regs := s.regs, halves := s.halves }) hshow).trans
    (congrArg (fun x : State => { x with regs := s.regs }) hrest)

theorem askBytes_of_own {s : State} {a : Nat} (h : ∀ d o, reach s a ≠ .peer d o) (n dst : Nat) (c : Option Nat) :
    askBytes a n dst c s = some (none, s) := by
  unfold askBytes
  split
  · exact absurd ‹_› (h _ _)
  · rfl

/-- A piece whose source is not a slot's region is granted as its source can be reached. -/
theorem grantPiece_of_own {h i : Nat} {p : Piece} {k : Nat × Nat} {s : State} (hvia : p.via = none) :
    let a := (transferAt p.ranges p.granted).1
    let l := (transferAt p.ranges p.granted).2
    (∀ e, firstUnreached s a l = some e → grantPiece h i p k s = fetchFails p.c i (reachCause s e) (captureReach e s)) ∧
    (firstUnreached s a l = none → (∀ d o, reach s a ≠ .peer d o) → ∃ x, grantPiece h i p k s = showGrant i (issueTransfer h
      { owner := i, addr := a, len := l, c := p.c, td := p.td, row := p.row, col := p.col, off := p.granted } (setStreamx i x s))) := by
  intro a l
  have hsource : sourceAddr p a s = a := by simp only [sourceAddr, hvia]
  have hmark : markAccess p a s = s := by simp only [markAccess, hvia]
  refine ⟨fun e he => ?_, fun hmapped hown => ?_⟩
  · unfold grantPiece
    dsimp only
    rw [hvia, Option.any_none, if_neg Bool.false_ne_true, hsource, he]
  · refine ⟨{ setTail i (if p.slot.isNone then k else (512, 0)) (streamx i s) with
      pieces := (streamx i s).pieces.map (fun q => if q == p then { p with granted := p.granted + l, slot := some k } else q) }, ?_⟩
    unfold grantPiece
    dsimp only
    rw [hvia, Option.any_none, if_neg Bool.false_ne_true, hsource, hmapped, hmark, askBytes_of_own hown]

theorem showTags_shows (h : Nat) (s : State) : let n := (halfx h s).transfers.length
    let d := ((halfx h s).transfers.filter (fun t => decide (512 ≤ t.owner))).length
    n ≤ 2048 → rbits (if h = 0 then R.STR_D0_TAGS else R.STR_D1_TAGS) 11 0 (showTags h s) + d + (n - d) = 2048 ∧
      rbits (if h = 0 then R.STR_D0_TAGS else R.STR_D1_TAGS) 27 16 (showTags h s) = d := by
  intro n d hn
  have hd : d ≤ n := List.length_filter_le ..
  have hshown (hi lo : Nat) : rbits (if h = 0 then R.STR_D0_TAGS else R.STR_D1_TAGS) hi lo (showTags h s) = bits (2048 - n + (d <<< 16)) hi lo :=
    congrArg (bits · hi lo) (rget_rset_self ..)
  rw [hshown, hshown]
  simp only [bits, Nat.shiftLeft_eq, Nat.shiftRight_eq_div_pow]
  omega

/-! ### Landings (R146, R192, R198) -/

theorem noteRead_clean (line : Nat) (s : State) : noteRead line .clean s = s := by
  unfold noteRead
  split
  · rfl
  · split <;> rfl

theorem readDone_of_clean {l : Landing} (hsev : l.sev = .clean) (hread : l.readRepeats = 0) (a : Nat) (s : State) : readDone a l s = (s, false) := by
  unfold readDone
  split
  · rw [dramRead_of_no_repeats hread, hsev, noteRead_clean]
  · rfl

theorem releaseTag_frame (h t : Nat) (s : State) : { releaseTag h t s with regs := s.regs, halves := s.halves } = s := by
  unfold releaseTag
  dsimp only
  generalize hr : setHalfx h _ s = r
  have hrest : { r with halves := s.halves } = s := hr ▸ rfl
  have hshow := showTags_frame h r
  generalize showTags h r = t at hshow ⊢
  exact (congrArg (fun x : State => { x with regs := s.regs, halves := s.halves }) hshow).trans
    (congrArg (fun x : State => { x with regs := s.regs }) hrest)

theorem transfers_releaseTag (h t : Nat) (s : State) : (halfx h (releaseTag h t s)).transfers = (halfx h s).transfers.filter (fun y => y.id != t) := by
  unfold releaseTag
  dsimp only
  rw [halfx_showTags, halfx_setHalfx_self]

theorem landStream_spec (h : Nat) (y : Transfer) (b : Bytes) (bad : List (Nat × Nat)) (s : State) :
    ∃ r, landStream h y b bad s = advance (y.owner / 8) (settleFrames r) ∧
    (halfx h r).transfers = (halfx h s).transfers.filter (fun z => z.id != y.id) ∧
    (streamx y.owner r).pieces = (streamx y.owner s).pieces.map (landPiece y b bad) ∧ r.mem = s.mem := by
  refine ⟨_, rfl, ?_⟩
  generalize hx : ({ streamx y.owner s with pieces := (streamx y.owner s).pieces.map (landPiece y b bad) } : StreamX) = x
  have htag := releaseTag_frame h y.id (bumpFree (setStreamx y.owner x s))
  have htransfers := transfers_releaseTag h y.id (bumpFree (setStreamx y.owner x s))
  generalize releaseTag h y.id (bumpFree (setStreamx y.owner x s)) = t at htag htransfers ⊢
  have hshow := showStreams_frame (y.owner / 8) t
  generalize showStreams (y.owner / 8) t = r at hshow ⊢
  have hhalves : r.halves = t.halves := (congrArg State.halves hshow :)
  have hstreams : r.streams = (setStreamx y.owner x s).streams := (congrArg State.streams hshow :).trans (congrArg State.streams htag :)
  have hmem : r.mem = s.mem := (congrArg State.mem hshow :).trans (congrArg State.mem htag :)
  refine ⟨?_, ?_, hmem⟩
  · rw [halfx, hhalves]
    exact htransfers
  · have hstream : streamx y.owner r = streamx y.owner (setStreamx y.owner x s) := by simp only [streamx, hstreams]
    rw [hstream, streamx_setStreamx_self, ← hx]

/-- A transfer that asks no peer is made again. -/
theorem repeatTransfer_of_own {h : Nat} {y : Transfer} {s : State} (hreq : y.req = none) (dst : Nat) (c : Option Nat) :
    repeatTransfer h y dst c s = some (setHalfx h { halfx h s with
      transfers := (halfx h s).transfers.map (fun z => if z.id = y.id then { z with left := z.left - 1, req := none } else z) } s) := by
  have hreads : s.reads.filter (fun r => y.req != some r.tag) = s.reads := by
    rw [hreq]
    exact List.filter_eq_self.mpr fun _ _ => rfl
  unfold repeatTransfer
  rw [hreads, hreq]
  rfl

theorem streamTransferGrant_of_free {h : Nat} {s : State} (hfree : (halfx h s).transfers.length < 2048) (hon : inHoldfast s = false) :
    streamTransferGrant h s = match bestAsker ((busyStreams h s).filterMap (fun i => streamAsks h i s) ++
        (List.range 16).filterMap (fun n => channelAsks h (16 * h + n) s)) with
      | none => s
      | some a => bumpFree (if a.who < 512 then grantStream h a.who s else grantChannel h (a.who - 512) s) := by
  have hgo : (decide (numTags ≤ (halfx h s).transfers.length) || inHoldfast s) = false := by
    rw [hon, Bool.or_false]
    exact decide_eq_false (by simp only [numTags]; omega)
  exact if_neg (by rw [hgo]; exact Bool.false_ne_true)

/-- Settles O38, step by step: grants, landings, error responses, and the test for cycles. -/
theorem transfersTakeAndReturnTags : Obligations.TransfersTakeAndReturnTags := by
  unfold Obligations.TransfersTakeAndReturnTags
  refine ⟨fun h s hnot => congrArg Host.Outcome.next (if_pos ?none), fun h s hfree hon => ?grant, fun h i s => ?stream, fun h i s p k _ hvia => ?piece,
    fun h s _ => showTags_shows h s, fun h t l s => ?landed, fun h y l s hsev hread => ?data, fun h y b bad s _ _ => landStream_spec h y b bad s,
    fun h y s _ => ?error, fun h s => ?deadlock⟩
  case none =>
    exact Bool.or_eq_true_iff.mpr (hnot.imp_left decide_eq_true)
  case grant =>
    intro best
    have hgo := streamTransferGrant_of_free hfree hon
    refine ⟨fun hbest => congrArg Host.Outcome.next (hgo.trans ?_), fun a hbest => congrArg Host.Outcome.next (hgo.trans ?_)⟩
    all_goals
      change (match best with | none => _ | some _ => _) = _
      rw [hbest]
  case stream =>
    have hgrant : grantStream h i s = match nextPiece (streamx i s) with
      | none => s
      | some p => match slotFor i p s with | none => s | some k => grantPiece h i p k s := rfl
    refine ⟨fun hnone => by rw [hgrant, hnone], fun p hp => ⟨fun hslot => by rw [hgrant, hp] <;> dsimp only <;> rw [hslot],
      fun k hk => by rw [hgrant, hp] <;> dsimp only <;> rw [hk]⟩⟩
  case piece =>
    intro a l
    obtain ⟨hle, hpage⟩ := transferAt_bounds p.ranges p.granted
    obtain ⟨hfails, hgrants⟩ := grantPiece_of_own (h := h) (i := i) (k := k) (s := s) hvia
    refine ⟨hle, hpage, hfails, fun hmapped hown => ?_⟩
    obtain ⟨x, hx⟩ := hgrants hmapped hown
    rw [hx]
    generalize hy : ({ owner := i, addr := a, len := l, c := p.c, td := p.td, row := p.row, col := p.col, off := p.granted } : Transfer) = y
    have hrest := issueTransfer_frame h y (setStreamx i x s)
    have hissue := halfx_issueTransfer h y (setStreamx i x s)
    generalize issueTransfer h y (setStreamx i x s) = t at hrest hissue ⊢
    have hshow := showGrant_frame i t
    generalize showGrant i t = r at hshow ⊢
    have hhalves : r.halves = t.halves := (congrArg State.halves hshow :)
    have hmem : r.mem = s.mem := (congrArg State.mem hshow :).trans (congrArg State.mem hrest :)
    refine ⟨?_, hmem⟩
    rw [halfx, hhalves]
    subst hy
    exact hissue
  case landed =>
    have hexec {r : State} (h' : transferLanded h.val t l s = r) : exec (.transferLanded h t l) s = .next r := congrArg Host.Outcome.next h'
    refine ⟨fun hnone => hexec ?_, fun y hy => ?_⟩
    · unfold transferLanded
      rw [hnone]
    · have hgo : transferLanded h.val t l s = if inHoldfast s || transferHeld y s then s
          else if l.error then (if y.owner < 512 then fetchError h.val y s else s)
          else if y.req.isSome then s else dataLanded h.val y l s := by
        unfold transferLanded
        rw [hy]
      refine ⟨fun hheld => hexec (hgo.trans (if_pos (Bool.or_eq_true_iff.mpr hheld))), fun hon hfree => ?_⟩
      rw [hon, hfree, Bool.or_false, if_neg Bool.false_ne_true] at hgo
      refine ⟨fun herr hlow => hexec ?_, fun herr hhigh => hexec ?_, fun hok hreq => hexec ?_, fun hok hreq => hexec ?_⟩
      · rw [hgo, herr, if_pos rfl, if_pos hlow]
      · rw [hgo, herr, if_pos rfl, if_neg (by omega)]
      · rw [hgo, hok, if_neg Bool.false_ne_true, if_pos (Option.isSome_iff_ne_none.mpr hreq)]
      · rw [hgo, hok, if_neg Bool.false_ne_true, hreq]
        rfl
  case data =>
    intro t
    have hdone : readDone y.addr l t = (t, false) := readDone_of_clean hsev hread y.addr t
    refine ⟨fun hlow => ?_, fun hhigh hmem => ?_⟩
    · unfold dataLanded
      dsimp only
      rw [hdone, if_pos hlow]
      rfl
    · have hbytes : chanRead y.addr y.len t = (readBytes t y.addr y.len, t) := if_neg (by omega)
      unfold dataLanded
      dsimp only
      rw [hdone, if_neg (by omega), hbytes]
      simp only [Bool.false_or]
  case error =>
    refine ⟨fun hleft => if_neg (by simpa using hleft), fun hleft hreq => ?_⟩
    have hagain : fetchError h y s = setHalfx h { halfx h s with
        transfers := (halfx h s).transfers.map (fun z => if z.id = y.id then { z with left := z.left - 1, req := none } else z) } s := by
      unfold fetchError
      rw [if_pos hleft, repeatTransfer_of_own hreq]
    rw [hagain]
    exact ⟨congrArg HalfX.transfers (halfx_setHalfx_self ..), rfl⟩
  case deadlock =>
    intro now twice
    refine ⟨fun hnone => ⟨setHalfx h.val { halfx h.val s with cycles := now } s, congrArg Host.Outcome.next ?_, congrArg HalfX.cycles (halfx_setHalfx_self ..),
      (congrArg HalfX.transfers (halfx_setHalfx_self s h.val { halfx h.val s with cycles := now }) :), rfl⟩,
      fun c hc => ⟨setHalfx h.val { halfx h.val s with cycles := now.filter (· != c) } s, congrArg Host.Outcome.next ?_,
        congrArg HalfX.cycles (halfx_setHalfx_self ..), rfl⟩⟩
    · change twice.foldl (breakCycle h.val) (setHalfx h.val { halfx h.val s with cycles := now.filter (fun c => !twice.contains c) } s) = _
      rw [hnone]
      simp
    · change twice.foldl (breakCycle h.val) (setHalfx h.val { halfx h.val s with cycles := now.filter (fun c => !twice.contains c) } s) = _
      have hone : (fun x : Nat × Nat => !([c] : List (Nat × Nat)).contains x) = (· != c) := by
        funext x
        simp only [bne, List.contains_cons, List.contains_nil, Bool.or_false]
      rw [hc, hone]
      rfl

/-! ### Channels (R199 to R204) -/

section
variable {n : Nat} {s : State}

/-- The end of a channel changes no byte of memory, and of the registers that stand at rest it only reports in DMA_EVT. -/
theorem chanEnd_spec (n st err : Nat) (s : State) : (chanEnd n st err s).mem = s.mem ∧
    ∀ o, o ≠ R.DMA_EVT → rget o (chanEnd n st err s) = rget o (chanRest n st err s) := by
  have hrest : (chanRest n st err s).mem = s.mem := by
    unfold chanRest
    split <;> rfl
  rw [chanEnd_eq_report]
  generalize chanRest n st err s = t at hrest
  dsimp only
  generalize (!rbit (R.DMA_Dnn_STAT n) 8 t) = direct
  have hevt : (if direct = true then rsetBit R.DMA_EVT n t else t).mem = t.mem ∧
      ∀ o, o ≠ R.DMA_EVT → rget o (if direct = true then rsetBit R.DMA_EVT n t else t) = rget o t := by
    split
    · exact ⟨rfl, fun o ho => rget_rsetBit_ne t ho n⟩
    · exact ⟨rfl, fun _ _ => rfl⟩
  generalize (if direct = true then rsetBit R.DMA_EVT n t else t) = r at hevt ⊢
  obtain ⟨hmem, hregs⟩ := hevt
  split
  · exact ⟨(raiseVector_reportKeeps 136 r).mem.trans (hmem.trans hrest), fun o ho => (rget_raiseVector ..).trans (hregs o ho)⟩
  · exact ⟨hmem.trans hrest, hregs⟩

theorem rbits_stat_chanEnd_any (n st err : Nat) (s : State) : rbits (R.DMA_Dnn_STAT n) 2 0 (chanEnd n st err s) = st % 8 :=
  (congrArg (bits · 2 0) ((chanEnd_spec n st err s).2 _ (stat_ne_evt n))).trans (rbits_stat_chanRest n st err s)

theorem rbit_ctl_chanEnd (n st err : Nat) (s : State) : rbit (R.DMA_Dnn_CTL n) 0 (chanEnd n st err s) = false :=
  (rbit_of_rget ((chanEnd_spec n st err s).2 _ (ctl_ne_evt n))).trans (rbit_rclrBit_self ..)

theorem rget_residue_chanEnd {st : Nat} (hst : st ≠ 2) (n err : Nat) (s : State) :
    rget (R.DMA_Dnn_RESIDUE n) (chanEnd n st err s) = (chanx n s).count - (chanx n s).issued := by
  rw [(chanEnd_spec n st err s).2 _ (residue_ne_evt n)]
  unfold chanRest
  rw [if_neg hst, rget_rclrBit_ne _ (by simp only [R.DMA_Dnn_RESIDUE, R.DMA_Dnn_CTL]; omega), rget_rsetBits_ne _ (stat_ne_residue n).symm,
    rget_rsetBits_ne _ (stat_ne_residue n).symm, rget_rset_self]

/-- An abort of a running channel with nothing in flight ends it at once (R203). -/
theorem dmaAbort_of_rest (hrun : rbits (R.DMA_Dnn_STAT n) 2 0 s = 1) (hbusy : chanBusy n s = false) (hhalt : (chanx n s).halting = none) :
    dmaAbort n s = match (chanx n s).cmd with
      | none => chanEnd n 4 0 (emptyFunnel n (rsetBits (R.DMA_Dnn_STAT n) 2 0 5 s))
      | some c => failCmd c bDMA 0x0162 n (chanEnd n 4 0 (emptyFunnel n (rsetBits (R.DMA_Dnn_STAT n) 2 0 5 s))) := by
  have hstat : rbits (R.DMA_Dnn_STAT n) 2 0 (rsetBits (R.DMA_Dnn_STAT n) 2 0 5 s) = 5 := rbits_rsetBits_self _ _ _ _ _ (by decide)
  have hchan : chanx n (rsetBits (R.DMA_Dnn_STAT n) 2 0 5 s) = chanx n s := rfl
  have hrest : chanBusy n (rsetBits (R.DMA_Dnn_STAT n) 2 0 5 s) = false := hbusy
  unfold dmaAbort
  rw [if_pos hrun]
  unfold chanSettle
  dsimp only
  rw [hrest, if_neg Bool.false_ne_true, hchan, hhalt]
  exact if_pos hstat

/-- The image that a channel's registers hold. -/
def chanImage (n : Nat) (cmd : Option Nat) (s : State) : ChanX :=
  { src := rget (R.DMA_Dnn_SRC n) s, dst := rget (R.DMA_Dnn_DST n) s, count := rget (R.DMA_Dnn_COUNT n) s,
    barrier := bitAt (rget (R.DMA_Dnn_CTL n) s) 2, irq := bitAt (rget (R.DMA_Dnn_CTL n) s) 3, cmd := cmd }

theorem chanRegs_frame (n : Nat) (x : ChanX) (a b c d : Nat) (s : State) : { rsetBits (R.DMA_Dnn_STAT n) 8 8 a (rsetBits (R.DMA_Dnn_STAT n) 7 4 b
    (rsetBits (R.DMA_Dnn_STAT n) 2 0 c (rsetBit (R.DMA_Dnn_CTL n) d (setChanx n x s)))) with regs := s.regs, chans := s.chans } = s := by
  generalize hw : setChanx n x s = w
  have hset : { w with chans := s.chans } = s := by rw [← hw]; rfl
  have hregs : { rsetBits (R.DMA_Dnn_STAT n) 8 8 a (rsetBits (R.DMA_Dnn_STAT n) 7 4 b
      (rsetBits (R.DMA_Dnn_STAT n) 2 0 c (rsetBit (R.DMA_Dnn_CTL n) d w))) with regs := w.regs } = w :=
    rest_rset (rest_rset (rest_rset (rest_rset rfl ..) ..) ..) ..
  generalize rsetBits (R.DMA_Dnn_STAT n) 8 8 a _ = r at hregs ⊢
  exact (congrArg (fun t : State => { t with regs := s.regs, chans := s.chans }) hregs).trans
    (congrArg (fun t : State => { t with regs := s.regs }) hset)

/-- A channel that runs with the image in its registers. -/
theorem chanStart_spec (n : Nat) (cmd : Option Nat) (s : State) :
    chanx n (chanStart n cmd s) = chanImage n cmd s ∧
    rbits (R.DMA_Dnn_STAT n) 2 0 (chanStart n cmd s) = 1 ∧ rbit (R.DMA_Dnn_STAT n) 8 (chanStart n cmd s) = cmd.isSome ∧
    (∀ j, j ≠ n → chanx j (chanStart n cmd s) = chanx j s) ∧ { chanStart n cmd s with regs := s.regs, chans := s.chans } = s ∧
    ∀ o, o ∉ [R.DMA_Dnn_STAT n, R.DMA_Dnn_CTL n] → rget o (chanStart n cmd s) = rget o s := by
  have hstart : chanStart n cmd s = rsetBits (R.DMA_Dnn_STAT n) 8 8 (nb cmd.isSome) (rsetBits (R.DMA_Dnn_STAT n) 7 4 0
    (rsetBits (R.DMA_Dnn_STAT n) 2 0 1 (rsetBit (R.DMA_Dnn_CTL n) 0 (setChanx n (chanImage n cmd s) s)))) := rfl
  rw [hstart]
  generalize chanImage n cmd s = x
  refine ⟨chanx_setChanx_self s n x, ?_, ?_, fun j hj => chanx_setChanx_ne s hj x, chanRegs_frame .., fun o ho => ?_⟩
  · rw [rbits_rsetBits_disjoint _ _ _ _ _ _ _ (by decide) (by decide), rbits_rsetBits_disjoint _ _ _ _ _ _ _ (by decide) (by decide),
      rbits_rsetBits_self _ _ _ _ _ (by decide)]
    rfl
  · rw [rbit_rsetBits _ _ _ _ _ _ (by decide), if_pos (by decide)]
    exact nb_testBit_zero _
  · simp only [List.mem_cons, List.not_mem_nil, or_false, not_or] at ho
    obtain ⟨hstat, hctl⟩ := ho
    rw [rget_rsetBits_ne _ hstat, rget_rsetBits_ne _ hstat, rget_rsetBits_ne _ hstat, rget_rsetBit_ne _ hctl]
    rfl

/-- The registers of a channel after the image of a DMA command has been loaded. -/
theorem chanLoad_spec (n : Nat) (un : Bytes) (s : State) : rget (R.DMA_Dnn_SRC n) (chanLoad n un s) = u un 0 6 ∧
    rget (R.DMA_Dnn_DST n) (chanLoad n un s) = u un 8 6 ∧ rget (R.DMA_Dnn_COUNT n) (chanLoad n un s) = u un 16 4 ∧
    rget (R.DMA_Dnn_CTL n) (chanLoad n un s) = u un 20 4 ∧ { chanLoad n un s with regs := s.regs } = s := by
  unfold chanLoad
  refine ⟨?_, ?_, ?_, rget_rset_self .., rest_rset (rest_rset (rest_rset (rest_rset rfl ..) ..) ..) ..⟩
  · rw [rget_rset_ne _ (by simp only [R.DMA_Dnn_SRC, R.DMA_Dnn_CTL]; omega), rget_rset_ne _ (by simp only [R.DMA_Dnn_SRC, R.DMA_Dnn_COUNT]; omega),
      rget_rset_ne _ (by simp only [R.DMA_Dnn_SRC, R.DMA_Dnn_DST]; omega), rget_rset_self]
  · rw [rget_rset_ne _ (by simp only [R.DMA_Dnn_DST, R.DMA_Dnn_CTL]; omega), rget_rset_ne _ (by simp only [R.DMA_Dnn_DST, R.DMA_Dnn_COUNT]; omega),
      rget_rset_self]
  · rw [rget_rset_ne _ (by simp only [R.DMA_Dnn_COUNT, R.DMA_Dnn_CTL]; omega), rget_rset_self]

/-- DMA takes channel k. -/
def dmaTaken (c k : Nat) (un : Bytes) (s : State) : State :=
  updStarted c (fun y => { y with begun := true, outs := [(u un 8 6, u un 16 4)] }) (chanStart k (some c) (chanLoad k un s))

/-- DMA that takes channel k runs it with its own image. -/
theorem dmaTaken_spec (c k : Nat) (un : Bytes) (s : State) :
    let t := dmaTaken c k un s
    chanx k t = { src := u un 0 6, dst := u un 8 6, count := u un 16 4, barrier := bitAt (u un 20 4) 2, irq := bitAt (u un 20 4) 3, cmd := some c } ∧
    rbits (R.DMA_Dnn_STAT k) 2 0 t = 1 ∧ rbit (R.DMA_Dnn_STAT k) 8 t = true ∧ rget (R.DMA_Dnn_SRC k) t = u un 0 6 ∧
    (∀ j, j ≠ k → chanx j t = chanx j s) ∧ t.mem = s.mem := by
  unfold dmaTaken
  obtain ⟨hsrc, hdst, hcount, hctl, hload⟩ := chanLoad_spec k un s
  generalize chanLoad k un s = w at hsrc hdst hcount hctl hload ⊢
  obtain ⟨hchan, hstat, hcmd, hother, hframe, hregs⟩ := chanStart_spec k (some c) w
  generalize chanStart k (some c) w = r at hchan hstat hcmd hother hframe hregs ⊢
  rw [chanImage, hsrc, hdst, hcount, hctl] at hchan
  have hchans : w.chans = s.chans := (congrArg State.chans hload :)
  refine ⟨hchan, hstat, hcmd, (hregs _ ?_).trans hsrc, fun j hj => (hother j hj).trans ?_, ?_⟩
  · simp only [R.DMA_Dnn_SRC, R.DMA_Dnn_STAT, R.DMA_Dnn_CTL, List.mem_cons, List.not_mem_nil, or_false, not_or]
    omega
  · simp only [chanx, hchans]
  · exact (congrArg State.mem hframe :).trans (congrArg State.mem hload :)

end

/-- Settles O39, command by command. -/
theorem channelsStartEndAndHalt : Obligations.ChannelsStartEndAndHalt := by
  unfold Obligations.ChannelsStartEndAndHalt
  refine ⟨fun c s x hx hbegun => ?load, fun c s hbegun => congrArg Host.Outcome.next ?loaded, fun n s => ⟨fun hq hidle hcount => ?direct, fun hq hidle hcount => ?empty,
    fun hnot => ?misuse⟩, fun n s => ⟨fun hrun hbusy => ?aborting, fun hrun hbusy hhalt => ?aborts, fun hnot => ?abortMisuse⟩, fun n k err s => ?error,
    fun n s hnot => congrArg Host.Outcome.next (if_neg ?moving), fun n s hrun hhalt hmoved hcount harr => ⟨?ends, fun c hcmd => ?completes⟩⟩
  case load =>
    intro n un
    have hgo : dmaRun c s = if chanWorks n s && chanWorks (n + 1) s then s else
        dmaTaken c (if chanWorks n s then n + 1 else n) un s := by
      unfold dmaRun
      rw [hx]
      dsimp only
      rw [hbegun]
      rfl
    refine ⟨fun h₀ h₁ => congrArg Host.Outcome.next ?_, fun k hk => ⟨dmaTaken c k un s, congrArg Host.Outcome.next ?_, dmaTaken_spec c k un s⟩⟩
    · change dmaRun c s = s
      rw [hgo, h₀, h₁]
      rfl
    · rcases hk with ⟨rfl, h₀⟩ | ⟨rfl, h₀, h₁⟩
      · exact hgo.trans (by rw [h₀]; rfl)
      · exact hgo.trans (by rw [h₀, h₁]; rfl)
  case loaded =>
    change dmaRun c s = s
    unfold dmaRun
    cases hx : runningCmd c .dma s with
    | none => rfl
    | some x => exact if_pos (hbegun x hx)
  case direct =>
    have hstart : dmaStart n.val s = chanStart n.val none s := by
      unfold dmaStart
      rw [if_neg (by simp [hq, hidle]), if_neg hcount]
    obtain ⟨hchan, hstat, hcmd, -, hframe, -⟩ := chanStart_spec n.val none s
    exact ⟨_, congrArg Host.Outcome.next hstart, hstat, hcmd, by rw [hchan]; rfl, by rw [hchan]; rfl, by rw [hchan]; rfl, hframe⟩
  case empty =>
    refine ⟨_, rfl, (dmaStart_reports_emptyCount hq hidle hcount).1, ?_⟩
    rw [dmaStart_of_emptyCount hq hidle hcount]
    have hlow (v : Nat) : bits v 7 4 = bits v 8 0 / 16 % 16 := by simp only [bits]; omega
    have herr : rbits (R.DMA_Dnn_STAT n.val) 7 4 (haltEmptyStart n.val s) = 5 := by
      unfold haltEmptyStart
      rw [rbits, rget_rsetBit_ne _ (stat_ne_evt _), hlow, rget_rsetBits_self, bits_setBits_self _ _ _ _ (by decide)]
      rfl
    split
    · exact (rbits_raiseVector ..).trans herr
    · exact herr
  case misuse =>
    exact ⟨misuse bDMA s, congrArg Host.Outcome.next (if_pos hnot), misuse_counts s rfl⟩
  case aborting =>
    have hstay : dmaAbort n.val s = rsetBits (R.DMA_Dnn_STAT n.val) 2 0 5 s := (if_pos hrun).trans (if_pos hbusy)
    refine ⟨_, congrArg Host.Outcome.next hstay, rbits_rsetBits_self _ _ _ _ _ (by decide), rfl, fun o ho => rget_rsetBits_ne _ ?_ ..⟩
    simpa using ho
  case aborts =>
    intro r
    have hgo := dmaAbort_of_rest hrun hbusy hhalt
    refine ⟨fun hempty => ⟨rbits_stat_chanEnd_any .., ?_⟩, fun c hc => congrArg Host.Outcome.next (hgo.trans ?_), fun hc => congrArg Host.Outcome.next (hgo.trans ?_)⟩
    · have hnothing : emptyFunnel n.val (rsetBits (R.DMA_Dnn_STAT n.val) 2 0 5 s) = rsetBits (R.DMA_Dnn_STAT n.val) 2 0 5 s := by
        have hfunnel : (chanx n.val (rsetBits (R.DMA_Dnn_STAT n.val) 2 0 5 s)).funnel = [] := hempty
        unfold emptyFunnel
        dsimp only
        rw [hfunnel]
        exact ite_self _
      have hr : r = chanEnd n.val 4 0 (rsetBits (R.DMA_Dnn_STAT n.val) 2 0 5 s) := congrArg (chanEnd n.val 4 0) hnothing
      rw [hr]
      exact ⟨rget_residue_chanEnd (by decide) .., (chanEnd_spec ..).1⟩
    · rw [hc]
    · rw [hc]
  case abortMisuse =>
    exact ⟨misuse bDMA s, congrArg Host.Outcome.next (if_neg hnot), misuse_counts s rfl⟩
  case error =>
    refine ⟨fun hnone => congrArg Host.Outcome.next ?_, fun y hy => ?_⟩
    · change dmaTransferError n.val k err s = s
      unfold dmaTransferError
      dsimp only
      rw [hnone]
    · intro again gone
      have hid : y.id = k := by
        have hmatch := List.find?_some hy
        simp only [Bool.and_eq_true, beq_iff_eq] at hmatch
        exact hmatch.1
      have hgo : dmaTransferError n.val k err s = if err ≠ .linkContained ∧ y.left ≠ 0 then
          match again with | none => gone .linkContained | some r => rcountSat (R.DMA_Dnn_RETRIES n.val) r
          else gone err := by
        unfold dmaTransferError
        dsimp only
        rw [hy] <;> rfl
      have hexec {r : State} (h : dmaTransferError n.val k err s = r) : exec (.dmaTransferError n k err) s = .next r := congrArg Host.Outcome.next h
      refine ⟨fun herr hleft => ⟨fun r hr => hexec ?_, fun hnone => hexec ?_⟩, fun herr hleft hreq => ?_, fun hlost => hexec (hgo.trans (if_neg ?_))⟩
      · rw [hgo, if_pos ⟨herr, hleft⟩, hr]
      · rw [hgo, if_pos ⟨herr, hleft⟩, hnone]
      · have hagain := repeatTransfer_of_own (h := n.val / 16) (s := s) hreq ((chanx n.val s).dst + y.off) (chanx n.val s).cmd
        change again = _ at hagain
        rw [hid] at hagain
        generalize hr : setHalfx (n.val / 16) _ s = r at hagain
        have hhalf : (halfx (n.val / 16) r).transfers = (halfx (n.val / 16) s).transfers.map (fun z =>
            if z.id = k then { z with left := z.left - 1, req := none } else z) := by
          rw [← hr, halfx_setHalfx_self]
        have hregs : rget (R.DMA_Dnn_RETRIES n.val) r = rget (R.DMA_Dnn_RETRIES n.val) s := by rw [← hr]; rfl
        have hframe : { r with halves := s.halves } = s := by rw [← hr]; rfl
        refine ⟨_, hexec (by rw [hgo, if_pos ⟨herr, hleft⟩, hagain]), counted_congr hregs (counted_rcountSat r _), hhalf, ?_⟩
        exact congrArg (fun x : State => { x with regs := s.regs }) hframe
      · rintro ⟨herr, hleft⟩
        rcases hlost with h | h
        · exact herr h
        · exact hleft h
  case moving =>
    simp only [Bool.and_eq_true, beq_iff_eq, bne_iff_ne, Option.isNone_iff_eq_none]
    rintro ⟨⟨⟨⟨hrun, hhalt⟩, hmoved⟩, hcount⟩, harr⟩
    rcases hnot with h | h | h | h | h
    · exact h hrun
    · exact h hhalt
    · exact h hmoved
    · exact hcount h
    · exact Bool.false_ne_true (h.symm.trans harr)
  case ends =>
    have hgo : dmaComplete n.val s = match (chanx n.val s).cmd with | none => chanEnd n.val 2 0 s | some c => markDone c (chanEnd n.val 2 0 s) := by
      cases hcmd : (chanx n.val s).cmd with
      | none => exact dmaComplete_of_direct hrun hhalt hmoved hcount harr hcmd
      | some c => exact dmaComplete_of_command hrun hhalt hmoved hcount harr hcmd
    have hstat := rbits_stat_chanEnd_any n.val 2 0 s
    have hctl := rbit_ctl_chanEnd n.val 2 0 s
    have hmem := (chanEnd_spec n.val 2 0 s).1
    refine ⟨_, congrArg Host.Outcome.next hgo, ?_⟩
    generalize chanEnd n.val 2 0 s = r at hstat hctl hmem ⊢
    cases (chanx n.val s).cmd with
    | none => exact ⟨hstat, hctl, hmem⟩
    | some c => exact ⟨hstat, hctl, hmem⟩
  case completes =>
    exact congrArg Host.Outcome.next (dmaComplete_of_command hrun hhalt hmoved hcount harr hcmd)

end Sys2Proof.Machine
end

section
/-! The activation stash (R206 to R215). -/

namespace Sys2Proof.Machine

open Sys2Proof

/-! ### Entries and dies -/

/-- A change that leaves the entries and the books of the stash as they were. -/
def StashKeep (s t : State) : Prop := t.stash = s.stash ∧ t.stashD = s.stashD

theorem StashKeep.trans {s t w : State} (h : StashKeep s t) (g : StashKeep t w) : StashKeep s w := ⟨g.1.trans h.1, g.2.trans h.2⟩

theorem StashKeep.foldl {α : Type} {f : State → α → State} (hf : ∀ t x, StashKeep t (f t x)) : ∀ (l : List α) (s : State), StashKeep s (l.foldl f s)
  | [], _ => ⟨rfl, rfl⟩
  | x :: l, s => (hf s x).trans (StashKeep.foldl hf l (f s x))

theorem StashKeep.stashx {s t : State} (h : StashKeep s t) (e : Nat) : Machine.stashx e t = Machine.stashx e s := by simp only [Machine.stashx, h.1]

theorem StashKeep.stashd {s t : State} (h : StashKeep s t) (d : Nat) : Machine.stashd d t = Machine.stashd d s := by simp only [Machine.stashd, h.2]

theorem poke_stashKeep (a : Nat) (b : Bytes) (s : State) : StashKeep s (poke a b s) := by
  have h := (poke_writeKeeps a b s).rest
  generalize poke a b s = t at h ⊢
  exact ⟨(congrArg State.stash h :), (congrArg State.stashD h :)⟩

theorem writeFrames_stashKeep (lagoon : Bool) (d : Nat) (fs : List Nat) : ∀ (n off : Nat) (b : Bytes) (s : State), StashKeep s (writeFrames lagoon d fs n off b s)
  | 0, _, _, _ => ⟨rfl, rfl⟩
  | n + 1, off, b, s => by
    unfold writeFrames
    split
    · exact ⟨rfl, rfl⟩
    · exact (poke_stashKeep ..).trans (writeFrames_stashKeep lagoon d fs n _ _ _)

theorem touchReads_stashKeep (l : List (Nat × Nat)) (s : State) : StashKeep s (touchReads l s) :=
  StashKeep.foldl (fun t x => by unfold touchRead; split <;> exact ⟨rfl, rfl⟩) l s

theorem showStash_stashKeep (d : Nat) (s : State) : StashKeep s (showStash d s) := by
  have h := (showStash_spec d s).1
  generalize showStash d s = t at h ⊢
  exact ⟨(congrArg State.stash h :), (congrArg State.stashD h :)⟩

theorem stashd_setStashd_ne {d k : Nat} (h : d ≠ k) (x : StashDie) (s : State) : stashd d (setStashd k x s) = stashd d s := AL.get_set_ne _ _ h _ _

theorem stashx_setStashd (e d : Nat) (x : StashDie) (s : State) : stashx e (setStashd d x s) = stashx e s := rfl

theorem stashx_rcount (e o : Nat) (s : State) : stashx e (rcount o s) = stashx e s := rfl

/-! ### Frames -/

/-- The frames taken and those left are the list; as many are taken as asked for, as long as the list holds them. -/
theorem pickN_spec : ∀ (n k : Nat) (l : List Nat), n ≤ l.length → ((pickN n k l).2 ++ (pickN n k l).1).Perm l ∧ (pickN n k l).1.length = n
  | 0, _, l, _ => ⟨by simp [pickN], rfl⟩
  | n + 1, k, l, h => by
    have hlt : Config.freeNat k % l.length < l.length := Nat.mod_lt _ (by omega)
    have hget : l[Config.freeNat k % l.length]? = some (l[Config.freeNat k % l.length]'hlt) := List.getElem?_eq_getElem hlt
    have hmem := List.getElem_mem hlt
    generalize l[Config.freeNat k % l.length]'hlt = f at hget hmem
    have hlen : n ≤ (l.erase f).length := by
      rw [List.length_erase_of_mem hmem]
      omega
    obtain ⟨hperm, hcount⟩ := pickN_spec n (k + 1) (l.erase f) hlen
    have hstep : pickN (n + 1) k l = (f :: (pickN n (k + 1) (l.erase f)).1, (pickN n (k + 1) (l.erase f)).2) := by
      conv => lhs; unfold pickN
      rw [hget]
    rw [hstep]
    exact ⟨(List.perm_middle.trans (hperm.cons f)).trans (List.perm_cons_erase hmem).symm, congrArg (· + 1) hcount⟩

/-- An entry's frames go back to the free lists. -/
theorem freeFrames_spec (e : Nat) (stacked lagoon : Bool) (s : State) : let t := freeFrames e stacked lagoon s
    stashx e t = { stashx e s with sframes := if stacked then [] else (stashx e s).sframes, lframes := if lagoon then [] else (stashx e s).lframes } ∧
    (stashd (stashDieOf e) t).freeS = (stashd (stashDieOf e) s).freeS ++ (if stacked then (stashx e s).sframes else []) ∧
    (stashd (stashDieOf e) t).freeL = (stashd (stashDieOf e) s).freeL ++ (if lagoon then (stashx e s).lframes else []) ∧
    { t with regs := s.regs, stash := s.stash, stashD := s.stashD } = s ∧
    ∀ o, o ∉ [R.STS_Dd_ENTRIES (stashDieOf e), R.STS_Dd_LFREE (stashDieOf e), R.STS_Dd_FREE (stashDieOf e)] → rget o t = rget o s := by
  intro t
  generalize hx : ({ stashx e s with sframes := if stacked then [] else (stashx e s).sframes, lframes := if lagoon then [] else (stashx e s).lframes } : StashEntry) = x
  generalize hy : (let y := stashd (stashDieOf e) s
    let y : StashDie := if stacked then { y with freeS := y.freeS ++ (stashx e s).sframes } else y
    if lagoon then { y with freeL := y.freeL ++ (stashx e s).lframes } else y : StashDie) = y
  have ht : t = showStash (stashDieOf e) (setStashd (stashDieOf e) y (setStashx e x s)) := by rw [← hx, ← hy]; rfl
  have hfree : y.freeS = (stashd (stashDieOf e) s).freeS ++ (if stacked then (stashx e s).sframes else []) ∧
      y.freeL = (stashd (stashDieOf e) s).freeL ++ (if lagoon then (stashx e s).lframes else []) := by
    rw [← hy]
    cases stacked <;> cases lagoon <;> simp
  rw [ht]
  obtain ⟨hframe, hregs⟩ := showStash_spec (stashDieOf e) (setStashd (stashDieOf e) y (setStashx e x s))
  have hkeep := showStash_stashKeep (stashDieOf e) (setStashd (stashDieOf e) y (setStashx e x s))
  generalize showStash (stashDieOf e) (setStashd (stashDieOf e) y (setStashx e x s)) = r at hframe hregs hkeep ⊢
  have hentry : stashx e r = x := (hkeep.stashx e).trans (stashx_setStashx_self ..)
  have hdie : stashd (stashDieOf e) r = y := (hkeep.stashd _).trans (stashd_setStashd_self ..)
  refine ⟨hentry, by rw [hdie]; exact hfree.1, by rw [hdie]; exact hfree.2, ?_, hregs⟩
  exact congrArg (fun w : State => { w with regs := s.regs, stash := s.stash, stashD := s.stashD }) hframe

/-- An entry becomes FREE. -/
theorem freeEntry_spec (e : Nat) (s : State) : stashx e (freeEntry e s) = {} ∧
    (stashd (stashDieOf e) (freeEntry e s)).freeS = (stashd (stashDieOf e) s).freeS ++ (stashx e s).sframes ∧
    (stashd (stashDieOf e) (freeEntry e s)).freeL = (stashd (stashDieOf e) s).freeL ++ (stashx e s).lframes ∧
    { freeEntry e s with regs := s.regs, stash := s.stash, stashD := s.stashD } = s := by
  obtain ⟨-, hS, hL, hframe, -⟩ := freeFrames_spec e true true s
  unfold freeEntry
  generalize freeFrames e true true s = t at hS hL hframe ⊢
  obtain ⟨hshow, -⟩ := showStash_spec (stashDieOf e) (setStashx e {} t)
  have hkeep := showStash_stashKeep (stashDieOf e) (setStashx e {} t)
  generalize showStash (stashDieOf e) (setStashx e {} t) = r at hshow hkeep ⊢
  have hdie : stashd (stashDieOf e) r = stashd (stashDieOf e) t := hkeep.stashd _
  refine ⟨(hkeep.stashx e).trans (stashx_setStashx_self ..), by rw [hdie]; exact hS, by rw [hdie]; exact hL, ?_⟩
  exact (congrArg (fun w : State => { w with regs := s.regs, stash := s.stash, stashD := s.stashD }) hshow).trans hframe

/-! ### STASH_PUT (R208, R209, R214) -/

theorem putGoes_spec (c q d : Nat) (s : State) : (putGoes c q d s).stash = s.stash ∧ (stashd d (putGoes c q d s)).freeS = (stashd d s).freeS ∧
    (putGoes c q d s).started = s.started ∧ (putGoes c q d s).mem = s.mem := by
  have hset (x : StashDie) (hx : x.freeS = (stashd d s).freeS) (t : State) (ht : t.stash = s.stash ∧ t.stashD = (setStashd d x s).stashD ∧ t.started = s.started ∧ t.mem = s.mem) :
      t.stash = s.stash ∧ (stashd d t).freeS = (stashd d s).freeS ∧ t.started = s.started ∧ t.mem = s.mem := by
    obtain ⟨hstash, hdies, hstarted, hmem⟩ := ht
    refine ⟨hstash, ?_, hstarted, hmem⟩
    rw [stashd, hdies, ← hx]
    exact congrArg StashDie.freeS (stashd_setStashd_self s d x)
  refine hset { stashd d s with stalled := (stashd d s).stalled.erase c } rfl _ ?_
  unfold putGoes
  dsimp only
  split <;> exact ⟨rfl, rfl, rfl, rfl⟩

/-- A PUT that finds its frames free takes them, and its entry is PUTTING. -/
theorem fillLoop_takes {x : Started} {e d need n : Nat} {s : State} (hx : startedAt x.id s = some x) (hroom : need ≤ (stashd d s).freeS.length)
    (hgoes : (qState x.q s == qStopping && (qx x.q s).yielded) = false) : let t := fillLoop x e d need (n + 1) s
    (stashx e t).state = .putting ∧ (stashx e t).sframes.length = need ∧ ((stashd d t).freeS ++ (stashx e t).sframes).Perm (stashd d s).freeS ∧
    (∀ i, i ≠ e → stashx i t = stashx i s) ∧ startedAt x.id t = some { x with begun := true, prog := 1 } ∧ t.mem = s.mem := by
  intro t
  obtain ⟨hperm, hcount⟩ := pickN_spec need s.freeCtr (stashd d s).freeS hroom
  generalize hpick : pickN need s.freeCtr (stashd d s).freeS = r at hperm hcount
  obtain ⟨fs, rest⟩ := r
  generalize hs₁ : ({ setStashd d { stashd d s with freeS := rest } s with freeCtr := s.freeCtr + need } : State) = s₁
  have htake : takeFrames false d need s = (fs, showStash d s₁) := by
    unfold takeFrames
    simp only [Bool.false_eq_true, if_false]
    rw [hpick, ← hs₁]
    rfl
  have hbase : s₁.stash = s.stash ∧ (stashd d s₁).freeS = rest ∧ s₁.started = s.started ∧ s₁.mem = s.mem := by
    rw [← hs₁]
    exact ⟨rfl, congrArg StashDie.freeS (stashd_setStashd_self s d { stashd d s with freeS := rest }), rfl, rfl⟩
  have ht : t = showStash d (setProg x.id 1 (putGoes x.id x.q d (setStashx e { putEntry x.bytes with state := .putting, sframes := fs } (showStash d s₁)))) := by
    change fillLoop x e d need (n + 1) s = _
    unfold fillLoop
    rw [hgoes, if_neg Bool.false_ne_true, if_pos hroom, htake]
  obtain ⟨hstash₁, hfree₁, hstarted₁, hmem₁⟩ := hbase
  have hshow₁ := (showStash_spec d s₁).1
  generalize showStash d s₁ = s₂ at hshow₁ ht
  have hstash₂ : s₂.stash = s.stash := (congrArg State.stash hshow₁ :).trans hstash₁
  have hdie₂ : s₂.stashD = s₁.stashD := (congrArg State.stashD hshow₁ :)
  have hstarted₂ : s₂.started = s.started := (congrArg State.started hshow₁ :).trans hstarted₁
  have hmem₂ : s₂.mem = s.mem := (congrArg State.mem hshow₁ :).trans hmem₁
  generalize hy : ({ putEntry x.bytes with state := .putting, sframes := fs } : StashEntry) = y at ht
  have hputting : y.state = .putting ∧ y.sframes = fs := by rw [← hy]; exact ⟨rfl, rfl⟩
  obtain ⟨hstash₃, hfree₃, hstarted₃, hmem₃⟩ := putGoes_spec x.id x.q d (setStashx e y s₂)
  generalize putGoes x.id x.q d (setStashx e y s₂) = s₃ at hstash₃ hfree₃ hstarted₃ hmem₃ ht
  have hx₃ : startedAt x.id s₃ = some x := by
    rw [startedAt, hstarted₃]
    change s₂.started.find? _ = _
    rw [hstarted₂]
    exact hx
  have hprog := startedAt_setProg (n := 1) hx₃
  have hkeep₃ : StashKeep s₃ (setProg x.id 1 s₃) ∧ (setProg x.id 1 s₃).mem = s₃.mem := ⟨⟨rfl, rfl⟩, rfl⟩
  generalize setProg x.id 1 s₃ = s₄ at hprog hkeep₃ ht
  have hshow₄ := (showStash_spec d s₄).1
  have hkeep₄ := hkeep₃.1.trans (showStash_stashKeep d s₄)
  rw [ht]
  generalize showStash d s₄ = w at hshow₄ hkeep₄ ⊢
  have hentry (i : Nat) : stashx i w = stashx i (setStashx e y s₂) := (hkeep₄.stashx i).trans (by simp only [stashx, hstash₃])
  have hself : stashx e w = y := (hentry e).trans (stashx_setStashx_self ..)
  have hfree : (stashd d w).freeS = rest := by
    rw [hkeep₄.stashd d, hfree₃]
    change (AL.get {} d s₂.stashD).freeS = rest
    rw [hdie₂]
    exact hfree₁
  have hstarted₄ : w.started = s₄.started := (congrArg State.started hshow₄ :)
  have hmem₄ : w.mem = s₄.mem := (congrArg State.mem hshow₄ :)
  refine ⟨by rw [hself]; exact hputting.1, by rw [hself, hputting.2]; exact hcount, by rw [hself, hputting.2, hfree]; exact hperm, fun i hi => ?_, ?_, ?_⟩
  · refine (hentry i).trans ((stashx_setStashx_ne _ hi y).trans ?_)
    simp only [stashx, hstash₂]
  · rw [startedAt, hstarted₄]
    exact hprog
  · exact hmem₄.trans (hkeep₃.2.trans (hmem₃.trans hmem₂))

/-- A PUT whose source can be read and is sound. -/
theorem putFinish_spec {x : Started} {e : Nat} {s : State} : let src := TD.parse (unitAt x.bytes 1)
    (∀ a, src.unmapped s = some a → putFinish x e s = putFails x.id e (reachCause s a) (captureReach a s)) ∧
    (src.unmapped s = none → src.ranges.any (fun r => bankHolds r.1 r.2 s) = true → putFinish x e s = s) ∧
    (src.unmapped s = none → src.ranges.any (fun r => bankHolds r.1 r.2 s) = false →
      (src.poisoned s = true → putFinish x e s = putFails x.id e 0x0142 (rsetBit R.STS_EVT 3 s)) ∧
      (src.poisoned s = false → ∃ fl r, putFinish x e s = markDone x.id (addFlags x.id fl r) ∧
        stashx e r = { stashx e s with state := .resident, age := (stashd (stashDieOf e) s).next })) := by
  intro src
  generalize hw : touchReads src.ranges s = w
  have hwrites (v n : Nat) : StashKeep w (putFrames false (stashDieOf e) (stashx e w).sframes 0 (leBytes n v) w) := writeFrames_stashKeep ..
  have hgo : putFinish x e s = match src.unmapped s with
      | some a => putFails x.id e (reachCause s a) (captureReach a s)
      | none => if src.ranges.any (fun r => bankHolds r.1 r.2 s) then s
        else if src.poisoned s then putFails x.id e 0x0142 (rsetBit R.STS_EVT 3 s)
        else
          let n := (stashx e w).td.imageLen
          let r := putImage x.bytes (ofLe (readFrames false (stashDieOf e) (stashx e w).sframes 0 n w)) w
          let t := putFrames false (stashDieOf e) (stashx e w).sframes 0 (leBytes n r.1) w
          markDone x.id (addFlags x.id r.2 (setStashd (stashDieOf e) { stashd (stashDieOf e) t with next := (stashd (stashDieOf e) t).next + 1 }
            (setStashx e { stashx e w with state := .resident, age := (stashd (stashDieOf e) t).next } t))) := by
    unfold putFinish
    rw [← hw] <;> rfl
  refine ⟨fun a ha => by rw [hgo, ha], fun hmapped hheld => by rw [hgo, hmapped, hheld] <;> rfl,
    fun hmapped hfree => ⟨fun hbad => by rw [hgo, hmapped, hfree, hbad] <;> rfl, fun hclean => ?_⟩⟩
  rw [hmapped, hfree, hclean] at hgo
  dsimp only at hgo
  rw [if_neg Bool.false_ne_true, if_neg Bool.false_ne_true] at hgo
  refine ⟨_, _, hgo, ?_⟩
  have hread := touchReads_stashKeep src.ranges s
  rw [hw] at hread
  have hkeep (v n : Nat) := hread.trans (hwrites v n)
  refine (stashx_setStashd ..).trans ((stashx_setStashx_self ..).trans ?_)
  rw [(hkeep _ _).stashd, hread.stashx]

/-- Settles O41, command by command. -/
theorem stashKeepsAndReturnsTensors : Obligations.StashKeepsAndReturnsTensors := by
  unfold Obligations.StashKeepsAndReturnsTensors
  refine ⟨fun c s x hx => ?put, fun c s x i op hmem hx => ?turn, fun c s x hx hbegun hturn hon => ?get, fun c s x hx hturn hon => ?drop,
    fun d s => ⟨rfl, fun hon hbg hlow => congrArg Host.Outcome.next (if_pos ?low), fun hnot => congrArg Host.Outcome.next (if_neg ?high)⟩,
    fun e s hoff => ?offloaded, fun e s hoff => congrArg Host.Outcome.next (if_pos hoff)⟩
  case put =>
    intro e d n src mayPut
    have hid := (runningCmd_spec hx).2.1
    subst hid
    have hstarted := (runningCmd_spec hx).1
    have hgo : stashPutRun x.id s = if x.begun then putFinish x e s
        else if !rbit R.STS_CTL 0 s then failCmd x.id bSTS 0x0176 0 s
        else if 8 ≤ x.q then failCmd x.id bSTS 0x0170 0 s
        else if rget (R.STS_Dd_SFRAMES d) s < n then failCmd x.id bSTS 0x0171 0 s
        else if (stashx e s).state ≠ .free then failCmd x.id bSTS 0x0172 0 s
        else fillLoop x e d n 2 s := by
      unfold stashPutRun
      rw [hx]
    have hexec {t : State} (h : stashPutRun x.id s = t) : exec (.stashPut x.id) s = .next t := congrArg Host.Outcome.next h
    have hmay (h : mayPut) : stashPutRun x.id s = fillLoop x e d n 2 s := by
      obtain ⟨hbegun, hon, hq, hfits, hfree⟩ := h
      rw [hgo, hbegun, if_neg Bool.false_ne_true, hon, if_neg (by decide), if_neg (by omega), if_neg (by omega), if_neg (by rw [hfree]; simp)]
    refine ⟨fun hbegun hoff => hexec ?_, fun hbegun hon hq => hexec ?_, fun hbegun hon hq hn => hexec ?_, fun hbegun hon hq hn hused => hexec ?_,
      fun h hstop hyield => hexec ((hmay h).trans ?_), fun h hgoes hroom => ?_, fun h _ => hexec (hmay h), fun hbegun => hexec ?_, ?_⟩
    · rw [hgo, hbegun, if_neg Bool.false_ne_true, hoff]
      rfl
    · rw [hgo, hbegun, if_neg Bool.false_ne_true, hon, if_neg (by decide), if_pos hq]
    · rw [hgo, hbegun, if_neg Bool.false_ne_true, hon, if_neg (by decide), if_neg (by omega), if_pos hn]
    · rw [hgo, hbegun, if_neg Bool.false_ne_true, hon, if_neg (by decide), if_neg (by omega), if_neg (by omega), if_pos hused]
    · unfold fillLoop
      rw [hstop, hyield]
      rfl
    · have hgoes' : (qState x.q s == qStopping && (qx x.q s).yielded) = false := by
        rw [Bool.and_eq_false_iff, beq_eq_false_iff_ne]
        exact hgoes
      exact ⟨_, hexec (hmay h), fillLoop_takes hstarted hroom hgoes'⟩
    · rw [hgo, hbegun, if_pos rfl]
    · exact putFinish_spec
  case turn =>
    intro e
    simp only [List.mem_cons, Prod.mk.injEq, List.not_mem_nil, or_false] at hmem
    obtain ⟨rfl, rfl⟩ | ⟨rfl, rfl⟩ := hmem
    · have hexec {t : State} (h : stashGetRun c s = t) : exec (.stashGet c) s = .next t := congrArg Host.Outcome.next h
      refine ⟨fun hnot => hexec ?_, fun hbegun hturn => ⟨fun hoff => hexec ?_, fun hon hput => hexec ?_⟩⟩
      all_goals
        unfold stashGetRun
        rw [hx]
        dsimp only
      · refine if_pos ?_
        rcases hnot with h | ⟨-, h⟩
        · rw [h, Bool.not_false, Bool.or_true]
        · rw [h, Bool.true_or]
      · rw [hbegun, hturn, hoff]
        rfl
      · rw [hbegun, hturn, hon, hput]
        rfl
    · have hexec {t : State} (h : stashDropRun c s = t) : exec (.stashDrop c) s = .next t := congrArg Host.Outcome.next h
      refine ⟨fun hnot => hexec ?_, fun hbegun hturn => ⟨fun hoff => hexec ?_, fun hon hput => hexec ?_⟩⟩
      all_goals
        unfold stashDropRun
        rw [hx]
        dsimp only
      · rcases hnot with h | ⟨h, -⟩
        · rw [h]
          rfl
        · cases h
      · rw [hturn, hoff]
        rfl
      · rw [hturn, hon, hput]
        rfl
  case get =>
    intro e y t same
    have hgo : stashGetRun c s = if y.state = .free then failCmd c bSTS 0x0173 0 s
        else if y.state = .putting then s
        else if t.fmt ≠ y.fmt ∨ t.axis = y.axis0 ∨ t.rows ≠ y.rows ∨ t.cols ≠ y.cols then failCmd c bSTS 0x0175 0 s
        else if y.state = .recompute then
          if recompUnits x.bytes = 0 then failCmd c bSTS 0x0174 0 s else getDone c e (getKeep x.bytes) (addFlags c flagRecomputed s)
        else getStored x e s := by
      unfold stashGetRun
      rw [hx]
      dsimp only
      rw [hbegun, hturn, hon]
      rfl
    have hexec {r : State} (h : stashGetRun c s = r) : exec (.stashGet c) s = .next r := congrArg Host.Outcome.next h
    have hsame (h : same) : ¬ (t.fmt ≠ y.fmt ∨ t.axis = y.axis0 ∨ t.rows ≠ y.rows ∨ t.cols ≠ y.cols) := by
      obtain ⟨hfmt, haxis, hrows, hcols⟩ := h
      rintro (h | h | h | h)
      · exact h hfmt
      · exact haxis h
      · exact h hrows
      · exact h hcols
    have hdiff (h : ¬ same) : t.fmt ≠ y.fmt ∨ t.axis = y.axis0 ∨ t.rows ≠ y.rows ∨ t.cols ≠ y.cols := by
      by_contra hno
      simp only [not_or, not_not, ne_eq] at hno
      exact h hno
    refine ⟨fun hfree => hexec ?_, fun hfree hput hno => hexec ?_, fun hrec h hunits => hexec ?_, fun hrec h hunits => ?_, fun hstored h => hexec ?_⟩
    · rw [hgo, if_pos hfree]
    · rw [hgo, if_neg hfree, if_neg hput, if_pos (hdiff hno)]
    · rw [hgo, if_neg (by rw [hrec]; decide), if_neg (by rw [hrec]; decide), if_neg (hsame h), if_pos hrec, if_pos hunits]
    · rw [if_neg (by rw [hrec]; decide), if_neg (by rw [hrec]; decide), if_neg (hsame h), if_pos hrec, if_neg hunits] at hgo
      refine ⟨_, hexec hgo, ?_⟩
      have hflags : startedAt c (addFlags c flagRecomputed s) = some { x with flags := x.flags ||| 128 } :=
        startedAt_updStarted (f := fun x => { x with flags := x.flags ||| flagRecomputed }) (fun _ => rfl) (runningCmd_spec hx).1
      have hentry : stashx e (addFlags c flagRecomputed s) = y := rfl
      have hmem : (addFlags c flagRecomputed s).mem = s.mem := rfl
      generalize addFlags c flagRecomputed s = w at hflags hentry hmem ⊢
      unfold getDone
      cases getKeep x.bytes with
      | true => exact ⟨startedAt_markDone hflags, hmem, (congrArg StashEntry.state hentry).trans hrec⟩
      | false =>
        obtain ⟨hfreed, -, -, hframe⟩ := freeEntry_spec e w
        rw [if_neg Bool.false_ne_true]
        generalize freeEntry e w = r at hfreed hframe ⊢
        have hstarted : r.started = w.started := (congrArg State.started hframe :)
        refine ⟨startedAt_markDone (x := { x with flags := x.flags ||| 128 }) ?_, (congrArg State.mem hframe :).trans hmem, congrArg StashEntry.state hfreed⟩
        rw [startedAt, hstarted]
        exact hflags
    · have hnot : y.state ≠ .free ∧ y.state ≠ .putting ∧ y.state ≠ .recompute := by
        rcases hstored with h | h | h <;> rw [h] <;> decide
      obtain ⟨hfree, hput, hrec⟩ := hnot
      rw [hgo, if_neg hfree, if_neg hput, if_neg (hsame h), if_neg hrec]
  case drop =>
    intro e
    have hgo : stashDropRun c s = if (stashx e s).state = .free then failCmd c bSTS 0x0173 0 s
        else if (stashx e s).state = .putting then s else markDone c (freeEntry e s) := by
      unfold stashDropRun
      rw [hx]
      dsimp only
      rw [hturn, hon]
      rfl
    refine ⟨fun hfree => congrArg Host.Outcome.next (hgo.trans (if_pos hfree)), fun hfree hput =>
      ⟨_, congrArg Host.Outcome.next (hgo.trans ((if_neg hfree).trans (if_neg hput))), ?_⟩⟩
    obtain ⟨hfreed, hS, hL, hframe⟩ := freeEntry_spec e s
    generalize freeEntry e s = r at hfreed hS hL hframe ⊢
    have hstarted : r.started = s.started := (congrArg State.started hframe :)
    refine ⟨hfreed, hS, hL, startedAt_markDone ?_, (congrArg State.mem hframe :)⟩
    rw [startedAt, hstarted]
    exact (runningCmd_spec hx).1
  case low =>
    rw [hon, hbg, decide_eq_true hlow]
    rfl
  case high =>
    simp only [Bool.and_eq_true, decide_eq_true_eq]
    rintro ⟨⟨hon, hbg⟩, hlow⟩
    rcases hnot with h | h | h
    · exact Bool.false_ne_true (h.symm.trans hon)
    · exact Bool.false_ne_true (h.symm.trans hbg)
    · omega
  case offloaded =>
    intro r
    have hgo : stashOffloadDone e.val s = rcount (R.STS_Dd_OFFLOADS (stashDieOf e.val))
        (setStashx e.val { stashx e.val (freeFrames e.val true false r) with state := .offloaded } (freeFrames e.val true false r)) :=
      if_neg (by rw [hoff]; decide)
    obtain ⟨hentry, hS, -, hframe, hregs⟩ := freeFrames_spec e.val true false r
    refine ⟨_, congrArg Host.Outcome.next hgo, ?_⟩
    generalize freeFrames e.val true false r = t at hentry hS hframe hregs ⊢
    refine ⟨?_, ?_, ?_, (congrArg State.mem hframe :), (congrArg State.poison hframe :)⟩
    · refine (stashx_rcount ..).trans ((stashx_setStashx_self ..).trans ?_)
      rw [hentry]
      rfl
    · exact hS
    · rw [rcount, rcountBy, rget_rset_self]
      have hcount : rget (R.STS_Dd_OFFLOADS (stashDieOf e.val)) t = rget (R.STS_Dd_OFFLOADS (stashDieOf e.val)) r := by
        refine hregs _ ?_
        simp only [R.STS_Dd_OFFLOADS, R.STS_Dd_ENTRIES, R.STS_Dd_LFREE, R.STS_Dd_FREE, List.mem_cons, List.not_mem_nil, or_false, not_or]
        omega
      rw [← hcount]
      rfl

end Sys2Proof.Machine
end

section
/-! Expanders: table images, blocks and stalls (R233 to R236). -/

namespace Sys2Proof.Machine

open Sys2Proof

/-! ### Stalls (R234) -/

theorem stat_ne_snap {p o : Nat} (h : o < 0xd01000) : R.CMP_Pnn_STAT p ≠ o := by
  simp only [R.CMP_Pnn_STAT]
  omega

/-- A block of a generation that is not there stalls its expander. -/
theorem genStall_spec {p gen : Nat} {s : State} (hstat : rbit (R.CMP_Pnn_STAT p) 2 s = false) (hp : p < 25) (hgen : gen < 65536) :
    rbit (R.CMP_Pnn_STAT p) 2 (genStall p gen s) = true ∧ rbits (R.CMP_Pnn_STAT p) 31 16 (genStall p gen s) = gen ∧
    rbit R.CMP_EVT 2 (genStall p gen s) = true ∧ Counted (R.CMP_Pnn_GENSTALL p) s (genStall p gen s) := by
  generalize ht : rsetBit R.CMP_EVT 2 (rsetBits (R.CMP_Pnn_STAT p) 31 16 gen (rsetBit (R.CMP_Pnn_STAT p) 2 s)) = t
  have hcount : R.CMP_Pnn_STAT p ≠ R.CMP_Pnn_GENSTALL p := by simp only [R.CMP_Pnn_STAT, R.CMP_Pnn_GENSTALL]; omega
  have hkeep : ReportKeeps (rcountSat (R.CMP_Pnn_GENSTALL p) t) (genStall p gen s) := by
    have hgo : genStall p gen s = snapOn R.CMP_SNAP 1 1 bCMP (reportError 1 bCMP 0 noQueue p (rcountSat (R.CMP_Pnn_GENSTALL p) t)) := by
      rw [← ht]
      exact if_neg (by rw [hstat]; exact Bool.false_ne_true)
    rw [hgo]
    exact (reportError_reportKeeps ..).trans (snapOn_reportKeeps ..)
  have hlow {o : Nat} (ho : o < 0xE00000) : rget o (genStall p gen s) = rget o (rcountSat (R.CMP_Pnn_GENSTALL p) t) := hkeep.regs o ho
  have hshown : rget (R.CMP_Pnn_STAT p) (genStall p gen s) = setBits (rget (R.CMP_Pnn_STAT p) (rsetBit (R.CMP_Pnn_STAT p) 2 s)) 31 16 gen := by
    rw [hlow (by simp only [R.CMP_Pnn_STAT]; omega), rget_rcountSat_ne _ hcount, ← ht, rget_rsetBit_ne _ (stat_ne_snap (by decide)), rget_rsetBits_self]
  refine ⟨?_, ?_, ?_, ?_⟩
  · rw [rbit, hshown, testBit_setBits _ _ _ _ _ (by decide), if_neg (by decide)]
    exact rbit_rsetBit_self (R.CMP_Pnn_STAT p) 2 s
  · rw [rbits, hshown, bits_setBits_self _ _ _ _ (by decide)]
    exact Nat.mod_eq_of_lt hgen
  · rw [rbit, hlow (by decide), rget_rcountSat_ne _ (by simp only [R.CMP_EVT, R.CMP_Pnn_GENSTALL]; omega), ← ht]
    exact rbit_rsetBit_self ..
  · have hbefore : rget (R.CMP_Pnn_GENSTALL p) t = rget (R.CMP_Pnn_GENSTALL p) s := by
      rw [← ht, rget_rsetBit_ne _ (by simp only [R.CMP_EVT, R.CMP_Pnn_GENSTALL]; omega), rget_rsetBits_ne _ hcount.symm, rget_rsetBit_ne _ hcount.symm]
    have hafter : rget (R.CMP_Pnn_GENSTALL p) (genStall p gen s) = rget (R.CMP_Pnn_GENSTALL p) (rcountSat (R.CMP_Pnn_GENSTALL p) t) :=
      hlow (by simp only [R.CMP_Pnn_GENSTALL]; omega)
    have hone := counted_rcountSat t (R.CMP_Pnn_GENSTALL p)
    unfold Counted rbits at hone ⊢
    rw [hafter, hone, hbefore]

theorem endStall_frame (p gen : Nat) (s : State) : OnlyRegs [R.CMP_Pnn_STAT p] s (endStall p gen s) := by
  unfold endStall
  split
  · refine ⟨rest_rset (rest_rset rfl ..) .., fun o ho => ?_⟩
    have hne : o ≠ R.CMP_Pnn_STAT p := by simpa using ho
    rw [rget_rsetBits_ne _ hne, rget_rclrBit_ne _ hne]
  · exact ⟨rfl, fun _ _ => rfl⟩

theorem endStall_awaited {p gen : Nat} {s : State} (hstat : rbit (R.CMP_Pnn_STAT p) 2 s = true) (hgen : rbits (R.CMP_Pnn_STAT p) 31 16 s = gen) :
    rbit (R.CMP_Pnn_STAT p) 2 (endStall p gen s) = false ∧ rbits (R.CMP_Pnn_STAT p) 31 16 (endStall p gen s) = 0 := by
  have hend : endStall p gen s = rsetBits (R.CMP_Pnn_STAT p) 31 16 0 (rclrBit (R.CMP_Pnn_STAT p) 2 s) :=
    if_pos (by rw [hstat, hgen, beq_self_eq_true]; rfl)
  rw [hend]
  refine ⟨?_, ?_⟩
  · rw [rbit_rsetBits _ _ _ _ _ _ (by decide), if_neg (by decide)]
    exact rbit_rclrBit_self ..
  · rw [rbits_rsetBits_self _ _ _ _ _ (by decide)]
    rfl

/-! ### Table images (R233) -/

theorem showTables_spec (p : Nat) (s : State) : { showTables p s with regs := s.regs } = s ∧
    ∀ o, o ≠ R.CMP_Pnn_STAT p → o ≠ R.CMP_Pnn_SLOTS p → rget o (showTables p s) = rget o s := by
  refine ⟨rest_rset (rest_rset rfl ..) .., fun o hstat hslots => ?_⟩
  unfold showTables
  rw [rget_rsetBits_ne _ hstat, rget_rset_ne _ hslots]

/-- An image that is rejected leaves the queue, with the event. -/
theorem loadImage_of_bad {p : Nat} {s : State} {b : Bytes} {rest : List Bytes} (hw : (compx p s).waiting = b :: rest) (hbad : imageBad b = true) :
    let t := (loadImage p s).2
    rbit R.CMP_EVT 3 t = true ∧ (compx p t).waiting = rest ∧ (compx p t).slot0 = (compx p s).slot0 ∧ (compx p t).slot1 = (compx p s).slot1 ∧
    { t with regs := s.regs, comps := s.comps } = s := by
  intro t
  generalize hy : ({ compx p s with waiting := rest, rejected := imageGen b :: (compx p s).rejected } : CompX) = y
  have ht : t = endStall p (imageGen b) (rsetBit R.CMP_EVT 3 (setCompx p y s)) := by
    change (loadImage p s).2 = _
    unfold loadImage
    dsimp only
    rw [hw]
    dsimp only
    rw [if_pos hbad, hy]
  obtain ⟨hframe, hregs⟩ := endStall_frame p (imageGen b) (rsetBit R.CMP_EVT 3 (setCompx p y s))
  rw [ht]
  generalize endStall p (imageGen b) (rsetBit R.CMP_EVT 3 (setCompx p y s)) = r at hframe hregs ⊢
  have hcomps : r.comps = (setCompx p y s).comps := (congrArg State.comps hframe :)
  have hself : compx p r = y := by
    rw [compx, hcomps]
    exact compx_setCompx_self s p y
  refine ⟨?_, by rw [hself, ← hy], by rw [hself, ← hy], by rw [hself, ← hy], ?_⟩
  · exact (rbit_of_rget (hregs _ (by simpa using (stat_ne_snap (by decide)).symm))).trans (rbit_rsetBit_self ..)
  · exact congrArg (fun w : State => { w with regs := s.regs, comps := s.comps }) hframe

/-- An image that loads stands in its slot. -/
theorem loadImage_of_good {p : Nat} {s : State} {b : Bytes} {rest : List Bytes} (hw : (compx p s).waiting = b :: rest) (hgood : imageBad b = false)
    {k : Bool} (hk : loadSlot (compx p s) = some k) :
    let t := (loadImage p s).2
    (compx p t).waiting = rest ∧ (if k then (compx p t).slot1 else (compx p t).slot0) = some (tableOfImage b) ∧
    (if k then (compx p t).slot0 = (compx p s).slot0 else (compx p t).slot1 = (compx p s).slot1) ∧
    rget (R.CMP_Pnn_TABLES p) t = (rget (R.CMP_Pnn_TABLES p) s + 1) % 2 ^ 32 ∧ { t with regs := s.regs, comps := s.comps } = s := by
  intro t
  generalize hx : ({ compx p s with waiting := rest, rejected := (compx p s).rejected.filter (fun g => g != (tableOfImage b).gen) } : CompX) = x
  generalize hy : (if k then { x with slot1 := some (tableOfImage b) } else { x with slot0 := some (tableOfImage b) } : CompX) = y
  have ht : t = endStall p (tableOfImage b).gen (showTables p (rcount (R.CMP_Pnn_TABLES p) (setCompx p y s))) := by
    change (loadImage p s).2 = _
    unfold loadImage
    dsimp only
    rw [hw]
    dsimp only
    rw [hgood, if_neg Bool.false_ne_true, hk]
    rw [← hy, ← hx]
  have hslots : y.waiting = rest ∧ (if k then y.slot1 else y.slot0) = some (tableOfImage b) ∧
      (if k then y.slot0 = (compx p s).slot0 else y.slot1 = (compx p s).slot1) := by
    rw [← hy, ← hx]
    cases k <;> exact ⟨rfl, rfl, rfl⟩
  have hcount : rget (R.CMP_Pnn_TABLES p) (rcount (R.CMP_Pnn_TABLES p) (setCompx p y s)) = (rget (R.CMP_Pnn_TABLES p) s + 1) % 2 ^ 32 :=
    rget_rset_self ..
  have hbase : (rcount (R.CMP_Pnn_TABLES p) (setCompx p y s)).comps = (setCompx p y s).comps ∧
      { rcount (R.CMP_Pnn_TABLES p) (setCompx p y s) with regs := s.regs, comps := s.comps } = s := ⟨rfl, rfl⟩
  rw [ht]
  generalize rcount (R.CMP_Pnn_TABLES p) (setCompx p y s) = w at hcount hbase ⊢
  obtain ⟨hshow, hshown⟩ := showTables_spec p w
  generalize showTables p w = v at hshow hshown ⊢
  obtain ⟨hframe, hregs⟩ := endStall_frame p (tableOfImage b).gen v
  generalize endStall p (tableOfImage b).gen v = r at hframe hregs ⊢
  have hcomps : r.comps = (setCompx p y s).comps := (congrArg State.comps hframe :).trans ((congrArg State.comps hshow :).trans hbase.1)
  have hself : compx p r = y := by
    rw [compx, hcomps]
    exact compx_setCompx_self s p y
  refine ⟨by rw [hself]; exact hslots.1, by rw [hself]; exact hslots.2.1, by rw [hself]; exact hslots.2.2, ?_, ?_⟩
  · rw [hregs _ (by simp only [R.CMP_Pnn_TABLES, R.CMP_Pnn_STAT, List.mem_singleton]; omega),
      hshown _ (by simp only [R.CMP_Pnn_TABLES, R.CMP_Pnn_STAT]; omega) (by simp only [R.CMP_Pnn_TABLES, R.CMP_Pnn_SLOTS]; omega), hcount]
  · have h₁ := congrArg (fun x : State => { x with regs := s.regs, comps := s.comps }) hframe
    have h₂ := congrArg (fun x : State => { x with regs := s.regs, comps := s.comps }) hshow
    exact h₁.trans (h₂.trans hbase.2)

/-! ### Blocks (R234 to R236) -/

/-- The expander with its blocks as they stand. -/
def liveFront (p : Nat) (s : State) : State := setCompx p { compx p s with queued := liveBlocks s (compx p s).queued } s

theorem liveFront_spec {p : Nat} {s : State} (hlive : liveBlocks s (compx p s).queued = (compx p s).queued) :
    compx p (liveFront p s) = compx p s ∧ { liveFront p s with comps := s.comps } = s := by
  refine ⟨?_, rfl⟩
  unfold liveFront
  rw [hlive]
  exact compx_setCompx_self s p _

/-- What becomes of the block at the front, which is live. -/
theorem expandFront_of_live {p : Nat} {s : State} {q : BlockQ} {rest : List BlockQ} (hq : (compx p s).queued = q :: rest)
    (hlive : liveBlocks s (compx p s).queued = (compx p s).queued) (forced : Bool) :
    let r := liveFront p s
    let fail (t : State) : State :=
      match q.c with
      | none => linkFailed p q t
      | some c => match runningCmd c .stashGet t with | none => t | some y => loopFailed y q t
    expandFront p forced s = if q.asked then r else match expandBlock (compx p s) q with
      | .stall g => if forced then fail (endStall p g r) else genStall p g r
      | .fail => fail r
      | .ok b => match q.c with
        | none => linkPassed p b r
        | some c => match runningCmd c .stashGet r with | none => r | some y => loopPassed y q b r := by
  intro r fail
  obtain ⟨hself, -⟩ := liveFront_spec hlive
  have hgo : expandFront p forced s = match (compx p r).queued with
      | [] => r
      | q :: _ => if q.asked then r else match expandBlock (compx p r) q with
        | .stall g => if forced then (match q.c with
            | none => linkFailed p q (endStall p g r)
            | some c => match runningCmd c .stashGet (endStall p g r) with | none => endStall p g r | some y => loopFailed y q (endStall p g r))
          else genStall p g r
        | .fail => (match q.c with
            | none => linkFailed p q r
            | some c => match runningCmd c .stashGet r with | none => r | some y => loopFailed y q r)
        | .ok b => match q.c with
          | none => linkPassed p b r
          | some c => match runningCmd c .stashGet r with | none => r | some y => loopPassed y q b r := by
    unfold expandFront
    rfl
  rw [hgo, hself, hq]

/-- A stall that has lasted is acted on; nothing else is. -/
theorem genStallTimeout_of_stall {p g : Nat} {s : State} {q : BlockQ} {rest : List BlockQ} (hq : (compx p s).queued = q :: rest)
    (hstall : expandBlock (compx p s) q = .stall g) (hto : rbits R.CMP_GENTO 23 0 s ≠ 0) (hstat : rbit (R.CMP_Pnn_STAT p) 2 s = true) :
    genStallTimeout p s = expandFront p true s := by
  unfold genStallTimeout
  rw [hq]
  dsimp only
  rw [hstall]
  refine if_neg ?_
  rintro (h | h | h)
  · exact hto h
  · rw [hstat] at h
    cases h
  · cases h

theorem genStallTimeout_of_none {p : Nat} {s : State} (h : rbits R.CMP_GENTO 23 0 s = 0 ∨ rbit (R.CMP_Pnn_STAT p) 2 s = false ∨
    ∀ q rest g, (compx p s).queued = q :: rest → expandBlock (compx p s) q ≠ .stall g) : genStallTimeout p s = s := by
  unfold genStallTimeout
  refine if_pos ?_
  rcases h with h | h | h
  · exact .inl h
  · exact .inr (.inl (by rw [h]; rfl))
  · refine .inr (.inr ?_)
    cases hq : (compx p s).queued with
    | nil => rfl
    | cons q rest =>
      have hno := h q rest
      dsimp only
      cases hb : expandBlock (compx p s) q with
      | stall g => exact absurd hb (hno g hq)
      | ok b => rfl
      | fail => rfl

/-- Settles O43, by the branches of the image that loads, of the block at the front, and of the stall. -/
theorem expandersTakeTablesAndBlocks : Obligations.ExpandersTakeTablesAndBlocks := by
  unfold Obligations.ExpandersTakeTablesAndBlocks
  refine ⟨fun p m s hnone => congrArg Host.Outcome.next ?untaken, fun p m s t htake => ?taken, fun p s b rest hp hw => ⟨fun hbad => ?bad, fun hgood k hk => ?good, fun hgood hk => ?full⟩,
    fun p s hp hw => ?noImage, fun p s hp => ?loopback, fun p s hq => ?idle, fun p s q rest hq hc => ?link, fun p s q rest c y hq hc hy hasked => ?stash,
    fun p gen s hstat hp hgen _ _ => genStall_spec hstat hp hgen, fun p s h => congrArg Host.Outcome.next (genStallTimeout_of_none h),
    fun p gen s hp => ⟨fun hstat hgen => ?ends, fun hnot => ?stays⟩⟩
  case untaken =>
    unfold tableIn
    rw [hnone]
  case taken =>
    have hgo : tableIn p.val m s = setCompx p.val { compx p.val t with waiting := (compx p.val t).waiting ++ [m.data] } t := by
      unfold tableIn
      rw [htake]
    exact ⟨_, congrArg Host.Outcome.next hgo, compx_setCompx_self t p.val _, rfl⟩
  case bad =>
    have hgo : tableImageLoad p.val s = (loadImage p.val s).2 := if_pos hp
    exact ⟨_, congrArg Host.Outcome.next hgo, loadImage_of_bad hw hbad⟩
  case good =>
    have hgo : tableImageLoad p.val s = (loadImage p.val s).2 := if_pos hp
    exact ⟨_, congrArg Host.Outcome.next hgo, loadImage_of_good hw hgood hk⟩
  case full =>
    have hwait : (loadImage p.val s).2 = s := by
      unfold loadImage
      dsimp only
      rw [hw]
      dsimp only
      rw [hgood, if_neg Bool.false_ne_true, hk]
    exact congrArg Host.Outcome.next ((if_pos hp).trans hwait)
  case noImage =>
    have hwait : (loadImage p.val s).2 = s := by
      unfold loadImage
      dsimp only
      rw [hw]
    exact congrArg Host.Outcome.next ((if_pos hp).trans hwait)
  case loopback =>
    intro r
    have hgo : tableImageLoad p.val s = match (compx 24 r).getc with
        | [] => r
        | c :: rest => match loadImage 24 r with
          | (none, _) => r
          | (some ok, t) => if ok then queueBlocks c (setCompx 24 { compx 24 t with getc := rest } t)
              else failCmd c bCMP 0x0181 24 (setCompx 24 { compx 24 t with getc := rest } t) := by
      unfold tableImageLoad
      rw [if_neg (by omega)] <;> rfl
    have hexec {w : State} (h : tableImageLoad p.val s = w) : exec (.tableImageLoad p) s = .next w := congrArg Host.Outcome.next h
    refine ⟨fun hnone => hexec (by rw [hgo, hnone]), fun c l hl => ?_⟩
    rw [hl] at hgo
    exact ⟨fun t ht => hexec (by rw [hgo, ht]), fun t ht => hexec (by rw [hgo, ht] <;> rfl), fun t ht => hexec (by rw [hgo, ht] <;> rfl)⟩
  case idle =>
    have hlive : liveBlocks s (compx p.val s).queued = (compx p.val s).queued := by
      rw [hq]
      rfl
    obtain ⟨hself, hframe⟩ := liveFront_spec hlive
    have hgo : expandFront p.val false s = liveFront p.val s := by
      change (match (compx p.val (liveFront p.val s)).queued with | [] => liveFront p.val s | _ :: _ => _) = _
      rw [hself, hq]
    exact ⟨_, congrArg Host.Outcome.next hgo, hself, hframe⟩
  case link =>
    have hlive : liveBlocks s (compx p.val s).queued = (compx p.val s).queued := by
      rw [hq]
      unfold liveBlocks
      rw [hc]
    have hgo (forced : Bool) := expandFront_of_live hq hlive forced
    rw [hc] at hgo
    obtain ⟨hself, hframe⟩ := liveFront_spec hlive
    have hexec {w : State} (h : expandFront p.val false s = w) : exec (.expanderBlock p) s = .next w := congrArg Host.Outcome.next h
    refine ⟨_, hself, hframe, fun hasked => hexec ((hgo false).trans (if_pos hasked)), fun hasked => ?_⟩
    have hfresh (forced : Bool) := (hgo forced).trans (if_neg (by rw [hasked]; exact Bool.false_ne_true))
    refine ⟨fun g hg => hexec ((hfresh false).trans ?_), fun b hb => hexec ((hfresh false).trans ?_), fun hfail => hexec ((hfresh false).trans ?_),
      fun g hg hto hstat => congrArg Host.Outcome.next ((genStallTimeout_of_stall hq hg hto hstat).trans ((hfresh true).trans ?_))⟩
    · rw [hg] <;> rfl
    · rw [hb]
    · rw [hfail]
    · rw [hg] <;> rfl
  case stash =>
    have hlive : liveBlocks s (compx p.val s).queued = (compx p.val s).queued := by
      rw [hq]
      unfold liveBlocks
      rw [hc]
      dsimp only
      rw [hy]
      rfl
    obtain ⟨hself, hframe⟩ := liveFront_spec hlive
    have hy' : runningCmd c .stashGet (liveFront p.val s) = some y := hy
    have hgo := (expandFront_of_live hq hlive false).trans (if_neg (by rw [hasked]; exact Bool.false_ne_true))
    rw [hc] at hgo
    dsimp only at hgo
    rw [hy'] at hgo
    have hexec {w : State} (h : expandFront p.val false s = w) : exec (.expanderBlock p) s = .next w := congrArg Host.Outcome.next h
    refine ⟨_, hself, hframe, fun g hg => hexec (hgo.trans ?_), fun b hb => hexec (hgo.trans ?_), fun hfail => hexec (hgo.trans ?_)⟩
    · rw [hg] <;> rfl
    · rw [hb]
    · rw [hfail]
  case ends =>
    obtain ⟨hclear, hzero⟩ := endStall_awaited hstat hgen
    exact ⟨hclear, hzero, endStall_frame p gen s⟩
  case stays =>
    refine if_neg ?_
    rw [Bool.and_eq_true, beq_iff_eq]
    rintro ⟨hstat, hgen⟩
    rcases hnot with h | h
    · exact Bool.false_ne_true (h.symm.trans hstat)
    · exact h hgen

end Sys2Proof.Machine
end
section
/-! Viril links (chapter 13): what each operation on a port's state writes, the identity flit, and the statements about training,
flits, peer accesses. -/

namespace Sys2Proof.Machine
open Sys2Proof

/-! ### The state of a port -/

theorem showLinks_spec (s : State) : { showLinks s with regs := s.regs } = s ∧ ∀ o, o ≠ R.HIF_BOOT → rget o (showLinks s) = rget o s := by
  unfold showLinks
  split
  · exact ⟨rest_rset rfl .., fun o ho => rget_rsetBits_ne _ ho _ _ _⟩
  · exact ⟨rfl, fun _ _ => rfl⟩

theorem setPortState_frame (p v : Nat) (s : State) : { setPortState p v s with regs := s.regs } = s :=
  (congrArg (fun w : State => { w with regs := s.regs }) (showLinks_spec _).1).trans (rest_rset rfl ..)

theorem rget_setPortState_ne {o p : Nat} (hstat : o ≠ R.LNK_Lnn_STAT p) (hboot : o ≠ R.HIF_BOOT) (v : Nat) (s : State) :
    rget o (setPortState p v s) = rget o s :=
  ((showLinks_spec _).2 o hboot).trans (rget_rsetBits_ne _ hstat _ _ _)

theorem rget_stat_setPortState {p : Nat} (hp : p < 24) (v : Nat) (s : State) :
    rget (R.LNK_Lnn_STAT p) (setPortState p v s) = setBits (rget (R.LNK_Lnn_STAT p) s) 2 0 v :=
  ((showLinks_spec _).2 _ (by simp only [R.LNK_Lnn_STAT, R.HIF_BOOT]; omega)).trans (rget_rsetBits_self ..)

theorem portState_setPortState {p : Nat} (hp : p < 24) (v : Nat) (s : State) : portState p (setPortState p v s) = v % 8 := by
  rw [portState, rbits, rget_stat_setPortState hp]
  exact bits_setBits_self _ 2 0 v (by decide)

theorem rbit_stat_setPortState {p i : Nat} (hp : p < 24) (hi : 2 < i) (v : Nat) (s : State) :
    rbit (R.LNK_Lnn_STAT p) i (setPortState p v s) = rbit (R.LNK_Lnn_STAT p) i s := by
  rw [rbit, rget_stat_setPortState hp, testBit_setBits _ _ _ _ _ (by decide), if_neg (by omega), rbit]

theorem portState_congr {p : Nat} {s t : State} (h : rget (R.LNK_Lnn_STAT p) t = rget (R.LNK_Lnn_STAT p) s) : portState p t = portState p s := by
  rw [portState, portState, rbits, rbits, h]

theorem portState_trainPort {p : Nat} (hp : p < 24) (s : State) : portState p (trainPort p s) = psTraining := portState_setPortState hp ..

/-! ### Training (R238) -/

/-- The port goes on from training to the identity flits; one that retrains stays there. -/
def identPhase (p st : Nat) (s : State) : State := if st = psTraining then setPortState p psIdent s else s

theorem identPhase_spec {p : Nat} (hp : p < 24) (st : Nat) (s : State) :
    portState p (identPhase p st s) = (if st = psTraining then psIdent else portState p s) ∧ { identPhase p st s with regs := s.regs } = s ∧
    rbit (R.LNK_Lnn_STAT p) 3 (identPhase p st s) = rbit (R.LNK_Lnn_STAT p) 3 s ∧
    ∀ o, o ≠ R.LNK_Lnn_STAT p → o ≠ R.HIF_BOOT → rget o (identPhase p st s) = rget o s := by
  unfold identPhase
  split
  · exact ⟨portState_setPortState hp .., setPortState_frame .., rbit_stat_setPortState hp (by decide) .., fun o h₁ h₂ => rget_setPortState_ne h₁ h₂ ..⟩
  · exact ⟨rfl, rfl, rfl, fun _ _ _ => rfl⟩

/-- The port with the lanes that have locked. -/
def withLanes (p : Nat) (lanes : BitVec 8) (s : State) : State := setPortx p { portx p s with lanes := lanes } s

/-- The port trained at half width. -/
def degraded (p : Nat) (lanes : BitVec 8) (s : State) : State := rsetBit R.LNK_EVT 3 (rsetBit (R.LNK_Lnn_STAT p) 3 (withLanes p lanes s))

/-- Training has ended with enough lanes: what `base` makes of the port goes on to the identity flits. -/
def identSent (p st : Nat) (base : State) : State := emitFlit p (identFlit p (identPhase p st base)) (identPhase p st base)

theorem linkTrain_cases (p : Nat) (lanes : BitVec 8) (s : State) (hst : portState p s = psTraining ∨ portState p s = psRetrain) :
    let half := (lanes.toNat % 16 = 15 ∨ lanes.toNat / 16 = 15) ∧ rbit (R.LNK_Lnn_CFG p) 4 s = true
    (lanes = 255 → linkTrain p lanes s = identSent p (portState p s) (rclrBit (R.LNK_Lnn_STAT p) 3 (withLanes p lanes s))) ∧
    (lanes ≠ 255 → half → linkTrain p lanes s = identSent p (portState p s) (degraded p lanes s)) ∧
    (lanes ≠ 255 → ¬ half → linkTrain p lanes s = withLanes p lanes s) := by
  intro half
  have hbusy : ¬ (portState p s ≠ psTraining ∧ portState p s ≠ psRetrain) := by tauto
  have hfull : lanes ≠ 255 → (lanes.toNat == 255) = false := fun h => beq_eq_false_iff_ne.mpr fun e => h (BitVec.eq_of_toNat_eq e)
  have hhalf : (rbit (R.LNK_Lnn_CFG p) 4 s && (lanes.toNat % 16 == 15 || lanes.toNat / 16 == 15)) = decide half := by
    rw [Bool.eq_iff_iff]
    simp only [Bool.and_eq_true, Bool.or_eq_true, beq_iff_eq, decide_eq_true_eq, half, and_comm]
  unfold linkTrain
  dsimp only
  rw [if_neg hbusy, hhalf]
  refine ⟨?_, fun hne hh => ?_, fun hne hh => ?_⟩
  · rintro rfl
    rfl
  · rw [hfull hne, if_neg Bool.false_ne_true, decide_eq_true hh]
    rfl
  · rw [hfull hne, if_neg Bool.false_ne_true, decide_eq_false hh]
    rfl

/-- The port with the lanes `lanes`, of which `base` differs in the STAT register and in the events alone. -/
theorem identPhase_trained {p : Nat} (hp : p < 24) {lanes : BitVec 8} {s base : State}
    (hst : portState p s = psTraining ∨ portState p s = psRetrain) (hstate : portState p base = portState p s)
    (hbase : { base with regs := s.regs } = withLanes p lanes s)
    (hregs : ∀ o, o ∉ [R.LNK_Lnn_STAT p, R.LNK_EVT, R.HIF_BOOT] → rget o base = rget o s) :
    let r := identPhase p (portState p s) base
    portState p r = (if portState p s = psTraining then psIdent else psRetrain) ∧ (portx p r).lanes = lanes ∧
    { r with regs := s.regs, ports := s.ports } = s ∧ rbit (R.LNK_Lnn_STAT p) 3 r = rbit (R.LNK_Lnn_STAT p) 3 base ∧
    rbit R.LNK_EVT 3 r = rbit R.LNK_EVT 3 base ∧ ∀ o, o ∉ [R.LNK_Lnn_STAT p, R.LNK_EVT, R.HIF_BOOT] → rget o r = rget o s := by
  obtain ⟨hport, hframe, hbit, hrest⟩ := identPhase_spec hp (portState p s) base
  generalize identPhase p (portState p s) base = r at hport hframe hbit hrest ⊢
  have hports : r.ports = (withLanes p lanes s).ports := (congrArg State.ports hframe :).trans (congrArg State.ports hbase :)
  have hlanes : (portx p r).lanes = lanes := by
    rw [portx, hports]
    exact congrArg PortX.lanes (portx_setPortx_self s p { portx p s with lanes := lanes })
  refine ⟨hport.trans ?_, hlanes, ?_, hbit, rbit_of_rget (hrest _ (by simp only [R.LNK_Lnn_STAT, R.LNK_EVT]; omega) (by decide)), fun o ho => ?_⟩
  · rw [hstate]
    rcases hst with h | h <;> rw [h] <;> rfl
  · have h₁ := congrArg (fun w : State => { w with regs := s.regs, ports := s.ports }) hframe
    exact h₁.trans (congrArg (fun w : State => { w with ports := s.ports }) hbase)
  · have hne := ho
    simp only [List.mem_cons, List.not_mem_nil, or_false, not_or] at hne
    exact (hrest o hne.1 hne.2.2).trans (hregs o ho)

/-! ### The identity flit (Table 13.4) -/

theorem crc64Bit_lt : ∀ (n c : Nat), c < 2 ^ 64 → crc64Bit c n < 2 ^ 64
  | 0, _, h => h
  | n + 1, c, h => by
    refine crc64Bit_lt n _ ?_
    split
    · exact Nat.xor_lt_two_pow (Nat.mod_lt _ (by decide)) (by decide)
    case isFalse hb =>
      have hlt : c < 2 ^ 63 := Nat.lt_pow_two_of_testBit _ fun i hi => by
        by_cases he : i = 63
        · simpa [he] using hb
        · exact Nat.testBit_lt_two_pow (h.trans_le (Nat.pow_le_pow_right (by decide) (by omega)))
      rw [Nat.shiftLeft_eq]
      omega

theorem crc64From_lt : ∀ (b : Bytes) (c : Nat), c < 2 ^ 64 → crc64From c b < 2 ^ 64
  | [], _, h => h
  | x :: b, c, h => by
    refine crc64From_lt b _ (crc64Bit_lt 8 _ (Nat.xor_lt_two_pow h ?_))
    have hx : x.toNat < 256 := x.isLt
    rw [Nat.shiftLeft_eq]
    omega

theorem ofLe_leBytes : ∀ n v : Nat, ofLe (leBytes n v) = v % 256 ^ n
  | 0, v => (Nat.mod_one v).symm
  | n + 1, v => by
    rw [leBytes, ofLe, ofLe_leBytes n, Nat.pow_succ', Nat.mod_mul]
    rfl

theorem length_padTo (n : Nat) (b : Bytes) : (padTo n b).length = n := by
  rw [padTo, List.length_take, List.length_append, List.length_replicate]
  omega

/-- What stands before the check value of a flit. -/
def flitHead (x : PortX) (type tc seq : Nat) (body : Bytes) : Bytes :=
  leBytes 2 (type + (tc <<< 2) + (nb x.nak <<< 4)) ++ leBytes 2 seq ++ leBytes 2 ((x.rxSeq + 4095) % 4096)
    ++ leBytes 2 0 ++ x.ownF.flatMap (leBytes 2) ++ leBytes 8 0 ++ padTo 224 body

theorem flitOf_eq (x : PortX) (type tc seq : Nat) (body : Bytes) :
    flitOf x type tc seq body = flitHead x type tc seq body ++ leBytes 8 (crc64 (flitHead x type tc seq body)) := rfl

theorem length_flitHead {x : PortX} (hown : x.ownF.length = 4) (type tc seq : Nat) (body : Bytes) : (flitHead x type tc seq body).length = 248 := by
  have hcounts : (x.ownF.flatMap (leBytes 2)).length = 8 := by
    rw [List.length_flatMap]
    simp only [length_leBytes, List.map_const', List.sum_replicate, hown]
    rfl
  simp only [flitHead, List.length_append, length_leBytes, hcounts, length_padTo]

/-- A flit of this module carries a good check value. -/
theorem flitCrcOk_flitOf {x : PortX} (hown : x.ownF.length = 4) (type tc seq : Nat) (body : Bytes) :
    flitCrcOk (flitOf x type tc seq body) = true := by
  have hlen := length_flitHead hown type tc seq body
  rw [flitOf_eq]
  generalize flitHead x type tc seq body = b at hlen ⊢
  have hcrc : ofLe (leBytes 8 (crc64 b)) = crc64 b := by
    rw [ofLe_leBytes]
    exact Nat.mod_eq_of_lt (crc64From_lt b 0 (by decide))
  have htail : slice (b ++ leBytes 8 (crc64 b)) 248 8 = leBytes 8 (crc64 b) := by
    rw [slice, ← hlen, List.drop_left]
    exact List.take_of_length_le (length_leBytes ..).le
  simp only [flitCrcOk, Bool.and_eq_true, decide_eq_true_eq, beq_iff_eq]
  refine ⟨by rw [List.length_append, hlen, length_leBytes], ?_⟩
  rw [u, htail, hcrc, ← hlen, List.take_left]

theorem flitType_flitOf (x : PortX) (seq : Nat) (body : Bytes) : flitType (flitOf x 2 0 seq body) = 2 := by
  have hbyte : u (flitOf x 2 0 seq body) 0 1 = (2 + (nb x.nak <<< 4)) % 256 := rfl
  rw [flitType, hbyte]
  cases x.nak <;> rfl

/-- The bytes 24 to 27 of an identity flit are the first of its body. -/
theorem u_flitOf_body {x : PortX} (hown : x.ownF.length = 4) (type tc seq : Nat) (body : Bytes) {i n : Nat} (hin : i + n ≤ 224) :
    u (flitOf x type tc seq body) (24 + i) n = u (padTo 224 body) i n := by
  have hcounts : (x.ownF.flatMap (leBytes 2)).length = 8 := by
    rw [List.length_flatMap]
    simp only [length_leBytes, List.map_const', List.sum_replicate, hown]
    rfl
  have hsplit : ∃ a tl : Bytes, flitOf x type tc seq body = a ++ (padTo 224 body ++ tl) ∧ a.length = 24 :=
    ⟨_, _, by rw [flitOf_eq, flitHead, List.append_assoc], by simp only [List.length_append, length_leBytes, hcounts]⟩
  obtain ⟨a, tl, he, ha⟩ := hsplit
  rw [he, u, u, slice, slice, ← ha, ← List.drop_drop, List.drop_left, List.drop_append_of_le_length (by rw [length_padTo]; omega),
    List.take_append_of_le_length (by rw [List.length_drop, length_padTo]; omega)]

/-- What an identity flit says of its sender. -/
theorem identFlit_spec (p : Nat) (s : State) (hown : (portx p s).ownF.length = 4) :
    let f := identFlit p s
    flitCrcOk f = true ∧ flitType f = 2 ∧ (myDom s < 256 → myDev s < 256 → p < 256 → identFar f = (myDom s, myDev s, p)) ∧
    u f 27 1 = nb (isManager s) + 2 * nb (rbit (R.LNK_Lnn_STAT p) 3 s) := by
  intro f
  have hbody (i : Nat) (hi : i + 1 ≤ 224) : u f (24 + i) 1 = u _ i 1 := u_flitOf_body hown 2 0 0 _ hi
  have hdom : u f 24 1 = myDom s % 256 := hbody 0 (by decide)
  have hdev : u f 25 1 = myDev s % 256 := hbody 1 (by decide)
  have hp : u f 26 1 = p % 256 := hbody 2 (by decide)
  have hrole : u f 27 1 = (nb (isManager s) + 2 * nb (rbit (R.LNK_Lnn_STAT p) 3 s)) % 256 := hbody 3 (by decide)
  refine ⟨flitCrcOk_flitOf hown .., flitType_flitOf .., fun h₁ h₂ h₃ => ?_, ?_⟩
  · rw [identFar, hdom, hdev, hp, Nat.mod_eq_of_lt h₁, Nat.mod_eq_of_lt h₂, Nat.mod_eq_of_lt h₃]
  · rw [hrole]
    cases isManager s <;> cases rbit (R.LNK_Lnn_STAT p) 3 s <;> rfl

/-- Every port's far end has it as its own far end (Table 13.2). -/
theorem farEnd_farEnd {p : Nat} {s t : State} (hp : p < 24) (hdom : myDom s < 11)
    (ht : (myDom t, myDev t) = ((farEnd p s).1, (farEnd p s).2.1)) : farEnd (farEnd p s).2.2 t = (myDom s, myDev s, p) := by
  have hdev : myDev s < 64 := Nat.mod_lt _ (by decide)
  obtain ⟨hd, hv⟩ := Prod.ext_iff.mp ht
  unfold farEnd at hd hv ⊢
  dsimp only at hd hv ⊢
  by_cases h₁ : p < 7
  · simp only [if_pos h₁] at hd hv ⊢
    rw [if_pos (by omega), hd, hv]
    refine Prod.ext rfl (Prod.ext ?_ ?_) <;> dsimp only <;> omega
  · by_cases h₂ : p < 14
    · simp only [if_neg h₁, if_pos h₂] at hd hv ⊢
      rw [if_neg (by omega), if_pos (by omega), hd, hv]
      refine Prod.ext rfl (Prod.ext ?_ ?_) <;> dsimp only <;> omega
    · simp only [if_neg h₁, if_neg h₂] at hd hv ⊢
      rw [if_neg (by omega), if_neg (by omega), hd, hv]
      refine Prod.ext ?_ (Prod.ext rfl ?_) <;> dsimp only <;> omega

/-! ### Retraining (R248) -/

/-- A port that goes to RETRAIN without a trigger keeps its books. -/
theorem toRetrain_spec {p : Nat} {s : State} (hp : p < 24) (hsnap : rbit R.LNK_SNAP 1 s = false) :
    let t := toRetrain p s
    portState p t = psRetrain ∧ Counted (R.LNK_Lnn_RETRAINS p) s t ∧ rbit R.LNK_EVT 2 t = true ∧
    (portx p t).replay = (portx p s).replay ∧ { t with regs := s.regs, ports := s.ports } = s := by
  have hstat : R.LNK_Lnn_STAT p ≠ R.LNK_Lnn_RETRAINS p := by simp only [R.LNK_Lnn_STAT, R.LNK_Lnn_RETRAINS]; omega
  have hevt : R.LNK_EVT ≠ R.LNK_Lnn_RETRAINS p := by simp only [R.LNK_EVT, R.LNK_Lnn_RETRAINS]; omega
  have hevt' : R.LNK_EVT ≠ R.LNK_Lnn_STAT p := by simp only [R.LNK_EVT, R.LNK_Lnn_STAT]; omega
  have hframe := setPortState_frame p psRetrain s
  have hstate := portState_setPortState hp psRetrain s
  have hregs (o : Nat) : o ≠ R.LNK_Lnn_STAT p → o ≠ R.HIF_BOOT → rget o (setPortState p psRetrain s) = rget o s :=
    fun h₁ h₂ => rget_setPortState_ne h₁ h₂ ..
  have hgo (x : PortX) (hx : { portx p s with stuck := 0 } = x) : toRetrain p s = snapOn R.LNK_SNAP 1 5 bLNK
      (rsetBit R.LNK_EVT 2 (rcountSat (R.LNK_Lnn_RETRAINS p) (setPortx p x (setPortState p psRetrain s)))) := hx ▸ rfl
  obtain ⟨x, hx⟩ : ∃ x : PortX, { portx p s with stuck := 0 } = x := ⟨_, rfl⟩
  rw [hgo x hx]
  generalize setPortState p psRetrain s = w at hframe hstate hregs ⊢
  have hreplay : x.replay = (portx p s).replay := by rw [← hx]
  have hcount := counted_rcountSat (setPortx p x w) (R.LNK_Lnn_RETRAINS p)
  have hno : rbit R.LNK_SNAP 1 (rsetBit R.LNK_EVT 2 (rcountSat (R.LNK_Lnn_RETRAINS p) (setPortx p x w))) = false := by
    refine (rbit_of_rget ?_).trans hsnap
    rw [rget_rsetBit_ne _ (by decide), rget_rcountSat_ne _ (by simp only [R.LNK_SNAP, R.LNK_Lnn_RETRAINS]; omega)]
    exact hregs _ (by simp only [R.LNK_SNAP, R.LNK_Lnn_STAT]; omega) (by decide)
  dsimp only
  rw [snapOn, hno, if_neg Bool.false_ne_true]
  refine ⟨?_, ?_, rbit_rsetBit_self .., ?_, ?_⟩
  · refine (portState_congr ?_).trans hstate
    rw [rget_rsetBit_ne _ hevt'.symm, rget_rcountSat_ne _ hstat]
    rfl
  · unfold Counted rbits at hcount ⊢
    rw [rget_rsetBit_ne _ hevt.symm, hcount]
    rw [show rget (R.LNK_Lnn_RETRAINS p) (setPortx p x w) = rget (R.LNK_Lnn_RETRAINS p) w from rfl,
      hregs _ hstat.symm (by simp only [R.HIF_BOOT, R.LNK_Lnn_RETRAINS]; omega)]
  · rw [← hreplay]
    exact congrArg PortX.replay (portx_setPortx_self w p x)
  · exact congrArg (fun r : State => { r with ports := s.ports }) hframe

theorem replay_empty_iff {p : Nat} {s : State} : (portx p s).replay.isEmpty = true ↔ (portx p s).replay = [] := List.isEmpty_iff

theorem retrainEnd_same {p : Nat} {s : State} (hst : portState p s = psRetrain) :
    retrainEnd p true s = speak p (sendNotices (if (portx p s).replay.isEmpty then setPortState p psUp s else replay p (setPortState p psUp s))) := by
  have hports : portx p (setPortState p psUp s) = portx p s := by
    rw [portx, portx, (congrArg State.ports (setPortState_frame p psUp s) :)]
  unfold retrainEnd
  rw [if_neg (not_not.mpr hst), if_pos rfl]
  dsimp only
  rw [hports]

/-! ### Identity (R242) -/

/-- The port as an identity that agrees leaves it: its books are new, its messages and the flits that wait are kept. -/
def agreedPort (f : Bytes) (x : PortX) : PortX :=
  { inbox := x.inbox, nextNo := x.nextNo, lanes := x.lanes, txq := x.txq, handed := x.handed, farAlloc := (List.range 4).map (fun c => u f (28 + 2 * c) 2) }

/-- The state before a port whose identity agrees comes UP. -/
def identified (p : Nat) (f : Bytes) (s : State) : State := recordFar p f (setPortx p (agreedPort f (portx p s)) s)

theorem recordFar_frame (p : Nat) (f : Bytes) (s : State) : { recordFar p f s with regs := s.regs } = s :=
  rest_rset (rest_rset (rest_rset rfl ..) ..) ..

theorem identified_spec (p : Nat) (f : Bytes) (s : State) :
    portx p (identified p f s) = agreedPort f (portx p s) ∧ (identified p f s).mem = s.mem := by
  have hframe := recordFar_frame p f (setPortx p (agreedPort f (portx p s)) s)
  unfold identified
  generalize recordFar p f (setPortx p (agreedPort f (portx p s)) s) = t at hframe ⊢
  have hports : t.ports = (setPortx p (agreedPort f (portx p s)) s).ports := (congrArg State.ports hframe :)
  refine ⟨?_, (congrArg State.mem hframe :)⟩
  rw [portx, hports]
  exact portx_setPortx_self s p _

theorem miswired_frame (p : Nat) (f : Bytes) (s : State) :
    { setPortState p psMiswired (rsetBit R.LNK_EVT 1 (recordFar p f s)) with regs := s.regs } = s := by
  have hfar := recordFar_frame p f s
  generalize recordFar p f s = t at hfar ⊢
  have hport := setPortState_frame p psMiswired (rsetBit R.LNK_EVT 1 t)
  generalize setPortState p psMiswired (rsetBit R.LNK_EVT 1 t) = w at hport ⊢
  exact (congrArg (fun x : State => { x with regs := s.regs }) hport).trans hfar

/-- What a port in IDENT does with a flit that has come. -/
def identAnswer (p : Nat) (f : Bytes) (r : State) : State :=
  if !flitCrcOk f then crcFailed p r
  else if !flitReservedOk f || flitType f != 2 || !identReservedOk f then protocolError p r
  else if identOk p f r then speak p (sendNotices (keeperPortUp p (setPortState p psUp (identified p f r))))
  else setPortState p psMiswired (rsetBit R.LNK_EVT 1 (recordFar p f r))

theorem identFlitIn_ident {p : Nat} {g : FlitIn} {s : State} (hst : portState p s = psIdent) :
    identFlitIn p g s = identAnswer p g.bytes (fecCount p g s) := if_neg (not_not.mpr hst)

theorem identAnswer_cases (p : Nat) (f : Bytes) (r : State) :
    (flitCrcOk f = false → identAnswer p f r = crcFailed p r) ∧
    (flitCrcOk f = true → (flitReservedOk f = false ∨ flitType f ≠ 2 ∨ identReservedOk f = false) → identAnswer p f r = protocolError p r) ∧
    (flitCrcOk f = true → flitReservedOk f = true → flitType f = 2 → identReservedOk f = true →
      (identOk p f r = true → identAnswer p f r = speak p (sendNotices (keeperPortUp p (setPortState p psUp (identified p f r))))) ∧
      (identOk p f r = false → identAnswer p f r = setPortState p psMiswired (rsetBit R.LNK_EVT 1 (recordFar p f r)))) := by
  unfold identAnswer
  refine ⟨fun h => ?_, fun h hbad => ?_, fun h hres htype hbits => ⟨fun hok => ?_, fun hok => ?_⟩⟩
  · rw [h, Bool.not_false, if_pos rfl]
  · rw [h, Bool.not_true, if_neg Bool.false_ne_true, if_pos]
    simpa only [Bool.or_eq_true, Bool.not_eq_true', bne_iff_ne, or_assoc] using hbad
  · rw [h, hres, htype, hbits, hok]
    rfl
  · rw [h, hres, htype, hbits, hok]
    rfl

/-! ### LNK_PORT_EN -/

theorem foldl_portEnable_same (v : Nat) (s : State) : ∀ l : List Nat, l.foldl (portEnable v v) s = s
  | [] => rfl
  | p :: l => by
    have hstay : portEnable v v s p = s := by
      unfold portEnable
      cases v.testBit p <;> rfl
    rw [List.foldl_cons, hstay]
    exact foldl_portEnable_same v s l

theorem showLinks_of_unreleased {s : State} (h : s.boot.released = false) : showLinks s = s := if_neg (by rw [h]; exact Bool.false_ne_true)

/-- Settles O44, along the states of a port: training, the identity flits, UP, RETRAIN and the ways back to training. -/
theorem linksTrainAndComeUp : Obligations.LinksTrainAndComeUp := by
  unfold Obligations.LinksTrainAndComeUp
  refine ⟨fun p s t hp hd ht => farEnd_farEnd hp hd ht, fun p lanes s => ⟨fun h₁ h₂ => congrArg Host.Outcome.next (if_pos ⟨h₁, h₂⟩), fun hst => ?train⟩,
    identFlit_spec, fun p g s => ?ident, fun p s => ⟨fun h => ?late, fun h => ?notLate⟩, fun p l s => ⟨fun hup hused hsnap => ?loss, fun h => ?noLoss⟩,
    fun p s => ⟨fun hst => ?resume, fun hst b => congrArg Host.Outcome.next (if_pos hst)⟩, fun v s => ?retrain, fun p s hp => portState_trainPort hp s,
    fun v s => ⟨fun hl => ?locked, fun hl => congrArg Host.Outcome.next (if_neg (by rw [hl]; exact Bool.false_ne_true)), fun hl hv hr => ?same⟩⟩
  case train =>
    have hevt (o : Nat) (ho : o ∉ [R.LNK_Lnn_STAT p.val, R.LNK_EVT, R.HIF_BOOT]) : o ≠ R.LNK_Lnn_STAT p.val ∧ o ≠ R.LNK_EVT := by
      simp only [List.mem_cons, List.not_mem_nil, or_false, not_or] at ho
      exact ⟨ho.1, ho.2.1⟩
    have hne : R.LNK_Lnn_STAT p.val ≠ R.LNK_EVT := by simp only [R.LNK_Lnn_STAT, R.LNK_EVT]; omega
    intro half
    obtain ⟨hfull, hhalf, hnone⟩ := linkTrain_cases p.val lanes s hst
    have hfullState : portState p.val (rclrBit (R.LNK_Lnn_STAT p.val) 3 (withLanes p.val lanes s)) = portState p.val s :=
      rbits_rsetBits_disjoint _ _ _ _ _ _ _ (by decide) (by decide)
    have hhalfState : portState p.val (degraded p.val lanes s) = portState p.val s :=
      (portState_congr (rget_rsetBit_ne _ hne 3)).trans (rbits_rsetBit_outside (by decide))
    refine ⟨fun h => ?_, fun h₁ h₂ => ⟨_, congrArg Host.Outcome.next (hnone h₁ h₂), rfl⟩⟩
    by_cases h255 : lanes = 255
    · obtain ⟨h₁, h₂, h₃, h₄, h₅, h₆⟩ := identPhase_trained p.isLt (base := rclrBit (R.LNK_Lnn_STAT p.val) 3 (withLanes p.val lanes s)) hst hfullState rfl
        (fun o ho => rget_rclrBit_ne _ (hevt o ho).1 3)
      exact ⟨_, congrArg Host.Outcome.next (hfull h255), h₁, h₂, h₃, fun _ => h₄.trans (rbit_rclrBit_self ..), fun hn => absurd h255 hn, h₆⟩
    · obtain ⟨h₁, h₂, h₃, h₄, h₅, h₆⟩ := identPhase_trained p.isLt (base := degraded p.val lanes s) hst hhalfState rfl
        (fun o ho => (rget_rsetBit_ne _ (hevt o ho).2 3).trans (rget_rsetBit_ne _ (hevt o ho).1 3))
      refine ⟨_, congrArg Host.Outcome.next (hhalf h255 (h.resolve_left h255)), h₁, h₂, h₃, fun hn => absurd hn h255,
        fun _ => ⟨h₄.trans ?_, h₅.trans (rbit_rsetBit_self ..)⟩, h₆⟩
      exact (rbit_of_rget (rget_rsetBit_ne _ hne 3)).trans (rbit_rsetBit_self ..)
  case ident =>
    intro f r
    refine ⟨fun hst => congrArg Host.Outcome.next (if_pos hst), fun hst => ?_⟩
    have hgo : exec (.identFlit p g) s = .next (identAnswer p.val f r) := congrArg Host.Outcome.next (identFlitIn_ident hst)
    clear_value r f
    obtain ⟨hcrc, hproto, hgood⟩ := identAnswer_cases p.val f r
    rw [hgo]
    refine ⟨fun h => congrArg Host.Outcome.next (hcrc h), fun h₁ h₂ => congrArg Host.Outcome.next (hproto h₁ h₂), fun h₁ h₂ h₃ h₄ => ⟨fun hok => ?_, fun hok => ?_⟩⟩
    · obtain ⟨hup, _⟩ := hgood h₁ h₂ h₃ h₄
      obtain ⟨hself, hmem⟩ := identified_spec p.val f r
      generalize identified p.val f r = y at hup hself hmem
      refine ⟨y, congrArg Host.Outcome.next (hup hok), portState_setPortState p.isLt .., hmem, ?_, ?_, ?_⟩
      · rw [hself]; rfl
      · rw [hself]; rfl
      · rw [hself]; rfl
    · obtain ⟨_, hwrong⟩ := hgood h₁ h₂ h₃ h₄
      refine ⟨_, congrArg Host.Outcome.next (hwrong hok), portState_setPortState p.isLt .., ?_, ?_⟩
      · refine (rbit_of_rget (rget_setPortState_ne ?_ (by decide) ..)).trans (rbit_rsetBit_self ..)
        simp only [R.LNK_EVT, R.LNK_Lnn_STAT]
        omega
      · exact miswired_frame ..
  case late =>
    simp only [List.mem_cons, List.not_mem_nil, or_false] at h
    exact congrArg Host.Outcome.next (if_pos h)
  case notLate =>
    simp only [List.mem_cons, List.not_mem_nil, or_false] at h
    exact congrArg Host.Outcome.next (if_neg h)
  case loss =>
    have hgo : laneLoss p.val l.val s = toRetrain p.val s := if_pos (by rw [hup, hused]; rfl)
    exact ⟨_, congrArg Host.Outcome.next hgo, toRetrain_spec p.isLt hsnap⟩
  case noLoss =>
    refine congrArg Host.Outcome.next (if_neg ?_)
    rw [Bool.and_eq_true]
    rcases h with h | h <;> simp only [h, Bool.false_eq_true, false_and, and_false, not_false_eq_true]
  case resume =>
    refine ⟨fun he => ?_, fun he => ?_, congrArg Host.Outcome.next ((if_neg (not_not.mpr hst)).trans (if_neg Bool.false_ne_true))⟩
    · exact congrArg Host.Outcome.next ((retrainEnd_same hst).trans (by rw [if_pos (List.isEmpty_iff.mpr he)]))
    · exact congrArg Host.Outcome.next ((retrainEnd_same hst).trans (by rw [if_neg (mt List.isEmpty_iff.mp he)]))
  case retrain =>
    refine ⟨fun h => congrArg Host.Outcome.next (if_pos h), fun h => ?_⟩
    have hgo : lnkRetrain v.toNat s = rcountSat R.LNK_MISUSE s := if_neg (by rw [h]; exact Bool.false_ne_true)
    exact ⟨_, congrArg Host.Outcome.next hgo, counted_rcountSat .., onlyRegs_rcountSat ..⟩
  case locked =>
    have hgo : lnkPortEnWrite v.toNat s = rcountSat R.ERR_LOCKED_WRITES s := if_pos hl
    exact ⟨_, congrArg Host.Outcome.next hgo, counted_rcountSat .., onlyRegs_rcountSat ..⟩
  case same =>
    have hgo : lnkPortEnWrite v.toNat s = rset R.LNK_PORT_EN (v.toNat % 2 ^ 24) s := by
      refine (if_neg (by rw [hl]; exact Bool.false_ne_true)).trans ?_
      dsimp only
      rw [← hv, foldl_portEnable_same]
      exact showLinks_of_unreleased hr
    refine ⟨_, congrArg Host.Outcome.next hgo, rest_rset rfl .., fun o _ => ?_⟩
    rw [rget_rset]
    split
    case isTrue h => rw [h, hv]
    case isFalse => rfl

end Sys2Proof.Machine
end
section
/-! Flits (R243 to R249) and the admission of reductions (R254, R255): what a flit's checks lead to, what a replay sends, and the
statement about both. -/

namespace Sys2Proof.Machine
open Sys2Proof

/-! ### Checks -/

theorem dataFlitBytes_cases (p : Nat) (f : Bytes) (r : State) :
    let t := takeAck p f r
    (flitCrcOk f = false → dataFlitBytes p f r = sendNak p (crcFailed p r)) ∧
    (flitCrcOk f = true → (flitReservedOk f = false ∨ flitType f ≠ 1) → dataFlitBytes p f r = protocolError p r) ∧
    (flitCrcOk f = true → flitReservedOk f = true → flitType f = 1 →
      (portUp p t = false → dataFlitBytes p f r = t) ∧
      (portUp p t = true →
        (flitSeq f ≠ (portx p t).rxSeq → dataFlitBytes p f r = sendNak p t) ∧
        (flitSeq f = (portx p t).rxSeq → (flitHeaders f).any (headerProto p (flitTC f)) = true → dataFlitBytes p f r = protocolError p t) ∧
        (flitSeq f = (portx p t).rxSeq → (flitHeaders f).any (headerProto p (flitTC f)) = false → dataFlitBytes p f r = acceptData p f t))) := by
  unfold dataFlitBytes
  dsimp only
  refine ⟨fun h => ?_, fun h hbad => ?_, fun h hres htype => ?_⟩
  · rw [h, Bool.not_false, if_pos rfl]
  · rw [h, Bool.not_true, if_neg Bool.false_ne_true, if_pos]
    simpa only [Bool.or_eq_true, Bool.not_eq_true', bne_iff_ne] using hbad
  · have hgood : ¬ (!flitReservedOk f || flitType f != 1) = true := by
      rw [hres, htype]
      exact Bool.false_ne_true
    rw [h, Bool.not_true, if_neg Bool.false_ne_true, if_neg hgood]
    generalize takeAck p f r = t
    refine ⟨fun hdown => ?_, fun hup => ⟨fun hseq => ?_, fun hseq hh => ?_, fun hseq hh => ?_⟩⟩
    · rw [hdown, Bool.not_false, if_pos rfl]
    · rw [hup, Bool.not_true, if_neg Bool.false_ne_true, if_pos hseq]
    · rw [hup, Bool.not_true, if_neg Bool.false_ne_true, if_neg (not_not.mpr hseq), if_pos hh]
    · rw [hup, Bool.not_true, if_neg Bool.false_ne_true, if_neg (not_not.mpr hseq), hh, if_neg Bool.false_ne_true]

/-- What a port that is UP does with an IDLE flit. -/
def idleAnswer (p : Nat) (f : Bytes) (r : State) : State :=
  if !flitCrcOk f then crcFailed p r
  else if !flitReservedOk f || flitType f != 0 then protocolError p r
  else speak p (takeAck p f r)

theorem idleAnswer_cases (p : Nat) (f : Bytes) (r : State) :
    (flitCrcOk f = false → idleAnswer p f r = crcFailed p r) ∧
    (flitCrcOk f = true → (flitReservedOk f = false ∨ flitType f ≠ 0) → idleAnswer p f r = protocolError p r) ∧
    (flitCrcOk f = true → flitReservedOk f = true → flitType f = 0 → idleAnswer p f r = speak p (takeAck p f r)) := by
  unfold idleAnswer
  refine ⟨fun h => ?_, fun h hbad => ?_, fun h hres htype => ?_⟩
  · rw [h, Bool.not_false, if_pos rfl]
  · rw [h, Bool.not_true, if_neg Bool.false_ne_true, if_pos]
    simpa only [Bool.or_eq_true, Bool.not_eq_true', bne_iff_ne] using hbad
  · rw [h, hres, htype]
    rfl

/-- A port that is not UP does nothing with a flit; one that is answers it. -/
theorem flits_of_up {p : Port} {g : FlitIn} {s : State} (hup : portUp p.val s = true) :
    exec (.dataFlit p g) s = .next (speak p.val (dataFlitBytes p.val g.bytes (fecCount p.val g s))) ∧
    exec (.idleFlit p g) s = .next (idleAnswer p.val g.bytes (fecCount p.val g s)) :=
  ⟨congrArg Host.Outcome.next (if_neg (by rw [hup]; exact Bool.false_ne_true)), congrArg Host.Outcome.next (if_neg (by rw [hup]; exact Bool.false_ne_true))⟩

theorem flits_of_not_up {p : Port} {g : FlitIn} {s : State} (hup : portUp p.val s = false) :
    exec (.dataFlit p g) s = .next s ∧ exec (.idleFlit p g) s = .next s :=
  ⟨congrArg Host.Outcome.next (if_pos (by rw [hup]; rfl)), congrArg Host.Outcome.next (if_pos (by rw [hup]; rfl))⟩

/-- The counts of codewords, of which none was corrected. -/
theorem fecCount_uncorrected {p : Nat} {g : FlitIn} {s : State} (hg : g.fecCor = 0) :
    rget (R.LNK_Lnn_FECUNC p) (fecCount p g s) = (rget (R.LNK_Lnn_FECUNC p) s + g.fecUnc) % 2 ^ 32 ∧
    OnlyRegs [R.LNK_Lnn_FECUNC p, R.LNK_Lnn_FECCOR p] s (fecCount p g s) := by
  have hne : R.LNK_Lnn_FECUNC p ≠ R.LNK_Lnn_FECCOR p := by simp only [R.LNK_Lnn_FECUNC, R.LNK_Lnn_FECCOR]; omega
  have hgo : fecCount p g s = rcountBy (R.LNK_Lnn_FECUNC p) g.fecUnc (rcountBy (R.LNK_Lnn_FECCOR p) 0 s) := by
    unfold fecCount
    rw [hg]
    rfl
  rw [hgo]
  refine ⟨?_, rest_rset (rest_rset rfl ..) .., fun o ho => ?_⟩
  · unfold rcountBy
    rw [rget_rset_self, rget_rset_ne _ hne]
  · simp only [List.mem_cons, List.not_mem_nil, or_false, not_or] at ho
    unfold rcountBy
    rw [rget_rset_ne _ ho.1, rget_rset_ne _ ho.2]

/-! ### Acknowledgement and replay -/

theorem ackedReplay_append {ack : Nat} {l m : List (Nat × Bytes)} {b : Bytes} (h : ∀ x ∈ l, x.1 ≠ ack) : ackedReplay ack (l ++ (ack, b) :: m) = m := by
  have hidx : (l ++ (ack, b) :: m).findIdx? (fun f => f.1 == ack) = some l.length := by
    rw [List.findIdx?_append, List.findIdx?_eq_none_iff.mpr (fun x hx => beq_eq_false_iff_ne.mpr (h x hx)), List.findIdx?_cons]
    simp
  unfold ackedReplay
  rw [hidx]
  dsimp only
  rw [List.drop_append, List.drop_of_length_le (Nat.le_succ _), Nat.add_sub_cancel_left]
  rfl

theorem countStall_of_credit {p : Nat} {s : State} (h : creditStalled (portx p s) = false) : countStall p s = s :=
  if_neg (by rw [h]; exact Bool.false_ne_true)

/-- The port as a good flit leaves it. -/
def ackedPort (f : Bytes) (x : PortX) : PortX :=
  let r := ackedReplay (flitAck f) x.replay
  { x with replay := r, acked := flitAck f, seenF := flitCred f, stuck := if decide (r.length < x.replay.length) then 0 else x.stuck,
           naked := if flitNak f then some (flitAck f) else none }

theorem takeAck_of_credit {p : Nat} {f : Bytes} {s : State} (h : creditStalled (portx p s) = false) :
    takeAck p f s = if flitNak f && !(ackedReplay (flitAck f) (portx p s).replay).isEmpty && (portx p s).naked != some (flitAck f)
      then replay p (setPortx p (ackedPort f (portx p s)) s) else setPortx p (ackedPort f (portx p s)) s := by
  unfold takeAck
  rw [countStall_of_credit h]
  rfl

theorem flits_raiseVector (v : Nat) (s : State) : (raiseVector v s).out.flits = s.out.flits := by
  unfold raiseVector
  split
  · split <;> rfl
  · rfl

/-- A retried error that raises no trigger touches its count, its event bit and what the host is told. -/
theorem reportError_retried {s : State} (hsnap : rbit R.ERR_SNAP 1 s = false) (block cause queue inst : Nat) :
    let t := reportError 1 block cause queue inst s
    { t with regs := s.regs, out := s.out, pcie := s.pcie } = s ∧ t.out.flits = s.out.flits ∧
    ∀ o, o ≠ R.ERR_EVT → o ≠ R.ERR_CNT 1 → rget o t = rget o s := by
  intro t
  have hno : rbit R.ERR_SNAP 1 (rsetBit R.ERR_EVT 1 (rcount (R.ERR_CNT 1) s)) = false :=
    (rbit_of_rget ((rget_rsetBit_ne _ (by decide) 1).trans (rget_rcount_ne _ (by decide)))).trans hsnap
  have hgo : t = if (!rbit R.ERR_EVT 1 s) = true then raiseVector 128 (rsetBit R.ERR_EVT 1 (rcount (R.ERR_CNT 1) s))
      else rsetBit R.ERR_EVT 1 (rcount (R.ERR_CNT 1) s) := by
    change reportError 1 block cause queue inst s = _
    unfold reportError
    dsimp only
    rw [if_pos (show 1 < 2 by decide), hno, Bool.false_and, if_neg Bool.false_ne_true, if_neg (show ¬ 2 ≤ 1 by decide)]
    rfl
  rw [hgo]
  have hregs (o : Nat) (h₁ : o ≠ R.ERR_EVT) (h₂ : o ≠ R.ERR_CNT 1) : rget o (rsetBit R.ERR_EVT 1 (rcount (R.ERR_CNT 1) s)) = rget o s :=
    (rget_rsetBit_ne _ h₁ 1).trans (rget_rcount_ne _ h₂)
  split
  · obtain ⟨o, pc, hv⟩ := raiseVector_frame (s := rsetBit R.ERR_EVT 1 (rcount (R.ERR_CNT 1) s)) 128
    exact ⟨by rw [hv]; rfl, flits_raiseVector .., fun a h₁ h₂ => (rget_raiseVector ..).trans (hregs a h₁ h₂)⟩
  · exact ⟨rfl, rfl, hregs⟩

theorem foldl_emitFlit (p : Nat) (x : PortX) : ∀ (l : List (Nat × Bytes)) (t : State),
    l.foldl (fun t f => emitFlit p (resentFlit x f) t) t =
      { t with out := { t.out with flits := (l.map (fun f => (p, resentFlit x f))).reverse ++ t.out.flits } }
  | [], _ => rfl
  | f :: l, t => by
    rw [List.foldl_cons, foldl_emitFlit p x l, List.map_cons, List.reverse_cons, List.append_assoc]
    rfl

/-- A replay sends every flit of the buffer again, is counted, and leaves the port as it was but for its failed replays. -/
theorem replay_spec {p : Nat} {s : State} (hp : p < 24) (hstuck : (portx p s).stuck < max 1 (rbits R.LNK_RETRY 3 0 s)) (hsnap : rbit R.ERR_SNAP 1 s = false) :
    let r := replay p s
    rget (R.LNK_Lnn_REPLAY p) r = (rget (R.LNK_Lnn_REPLAY p) s + 1) % 2 ^ 32 ∧ portState p r = portState p s ∧
    portx p r = { portx p s with stuck := (portx p s).stuck + 1 } ∧
    r.out.flits = ((portx p s).replay.map (fun f => (p, resentFlit (portx p r) f))).reverse ++ s.out.flits := by
  intro r
  obtain ⟨y, hy⟩ : ∃ y : PortX, { portx p s with stuck := (portx p s).stuck + 1 } = y := ⟨_, rfl⟩
  have hne : R.LNK_Lnn_STAT p ≠ R.LNK_Lnn_REPLAY p := by simp only [R.LNK_Lnn_STAT, R.LNK_Lnn_REPLAY]; omega
  have hcounted : rget (R.LNK_Lnn_REPLAY p) (rcount (R.LNK_Lnn_REPLAY p) (setPortx p y s)) = (rget (R.LNK_Lnn_REPLAY p) s + 1) % 2 ^ 32 := rget_rset_self ..
  have hstat : rget (R.LNK_Lnn_STAT p) (rcount (R.LNK_Lnn_REPLAY p) (setPortx p y s)) = rget (R.LNK_Lnn_STAT p) s := rget_rcount_ne _ hne
  have hno : rbit R.ERR_SNAP 1 (rcount (R.LNK_Lnn_REPLAY p) (setPortx p y s)) = false :=
    (rbit_of_rget (rget_rcount_ne _ (by simp only [R.ERR_SNAP, R.LNK_Lnn_REPLAY]; omega))).trans hsnap
  have hgo : r = (portx p s).replay.foldl (fun t f => emitFlit p (resentFlit (portx p s) f) t)
      (reportError 1 bLNK 0 noQueue p (rcount (R.LNK_Lnn_REPLAY p) (setPortx p y s))) := by
    change replay p s = _
    unfold replay
    dsimp only
    rw [if_neg (by omega), ← hy]
  have hports : portx p (rcount (R.LNK_Lnn_REPLAY p) (setPortx p y s)) = y := portx_setPortx_self ..
  have hflits : (rcount (R.LNK_Lnn_REPLAY p) (setPortx p y s)).out.flits = s.out.flits := rfl
  generalize rcount (R.LNK_Lnn_REPLAY p) (setPortx p y s) = w at hcounted hstat hno hgo hports hflits
  obtain ⟨hframe, hout, hregs⟩ := reportError_retried hno bLNK 0 noQueue p
  generalize reportError 1 bLNK 0 noQueue p w = t at hframe hout hregs hgo
  rw [foldl_emitFlit] at hgo
  have hself : portx p t = y := by
    rw [← hports, portx, portx, (congrArg State.ports hframe :)]
  have hr : portx p r = y := by rw [hgo]; exact hself
  have hresent (f : Nat × Bytes) : resentFlit (portx p r) f = resentFlit (portx p s) f := by
    rw [hr, ← hy]
    rfl
  refine ⟨?_, ?_, hr.trans hy.symm, ?_⟩
  · rw [hgo]
    exact (hregs _ (by simp only [R.ERR_EVT, R.LNK_Lnn_REPLAY]; omega) (by simp only [R.ERR_CNT, R.LNK_Lnn_REPLAY]; omega)).trans hcounted
  · rw [hgo]
    exact portState_congr ((hregs _ (by simp only [R.ERR_EVT, R.LNK_Lnn_STAT]; omega) (by simp only [R.ERR_CNT, R.LNK_Lnn_STAT]; omega)).trans hstat)
  · simp only [hresent]
    rw [hgo, ← hflits, ← hout]

/-! ### Reductions (R254, R255) -/

/-- The tokens of an operation that is admitted. -/
def takeTokens (needs : List (Nat × Nat)) (s : State) : State := needs.foldl (fun t n => rset (R.LNK_Lnn_RBFREE n.1) (rbFree n.1 t - n.2) t) s

theorem takeTokens_frame (needs : List (Nat × Nat)) (s : State) : { takeTokens needs s with regs := s.regs } = s :=
  regsOnly_foldl (fun _ _ => rest_rset rfl ..) needs s

theorem rbFree_takeTokens_one (q k : Nat) (s : State) : rbFree q (takeTokens [(q, k)] s) = rbFree q s - k := by
  have hlt : rbFree q s < 64 := Nat.mod_lt _ (by decide)
  have hrb : rget (R.LNK_Lnn_RBFREE q) (takeTokens [(q, k)] s) = rbFree q s - k := rget_rset_self ..
  rw [rbFree, rbits, hrb, bits, Nat.shiftRight_zero]
  exact Nat.mod_eq_of_lt (by omega)

/-- The head of the reductions' queue, whose ports have the tokens, is admitted. -/
def admitHead (o : RedOp) (rest : List RedOp) (s : State) : State :=
  showRbq { takeTokens o.needs s with redWait := rest, admitted := (takeTokens o.needs s).admitted ++ [o] }

theorem reductionAdmit_of_tokens {s : State} {o : RedOp} {rest : List RedOp} (hw : s.redWait = o :: rest) (hneeds : ∀ n ∈ o.needs, n.2 ≤ rbFree n.1 s) :
    reductionAdmit s = o.needs.foldl (drainAdmitted o) (admitHead o rest s) := by
  have hall : o.needs.all (fun n => decide (n.2 ≤ rbFree n.1 s)) = true := List.all_eq_true.mpr fun n hn => decide_eq_true (hneeds n hn)
  unfold reductionAdmit
  rw [hw]
  dsimp only
  rw [if_pos hall]
  rfl

theorem admitHead_spec (o : RedOp) (rest : List RedOp) (s : State) :
    let r := admitHead o rest s
    r.redWait = rest ∧ r.admitted = s.admitted ++ [o] ∧ { r with regs := s.regs, redWait := s.redWait, admitted := s.admitted } = s ∧
    ∀ q k, o.needs = [(q, k)] → q < 24 → rbFree q r = rbFree q s - k := by
  intro r
  have hframe := takeTokens_frame o.needs s
  have hone (q k : Nat) (h : o.needs = [(q, k)]) : rbFree q (takeTokens o.needs s) = rbFree q s - k := by rw [h]; exact rbFree_takeTokens_one ..
  have hr : r = showRbq { takeTokens o.needs s with redWait := rest, admitted := (takeTokens o.needs s).admitted ++ [o] } := rfl
  generalize takeTokens o.needs s = t at hframe hone hr
  rw [hr]
  have hadm : t.admitted = s.admitted := (congrArg State.admitted hframe :)
  refine ⟨rfl, ?_, congrArg (fun w : State => { w with redWait := s.redWait, admitted := s.admitted }) hframe, fun q k h hq => ?_⟩
  · rw [← hadm]
    rfl
  · rw [← hone q k h]
    refine congrArg (bits · 5 0) (rget_rset_ne _ ?_ _)
    simp only [R.LNK_Lnn_RBFREE, R.LNK_RBQ]
    omega

/-- Settles O45, by the checks of a flit in their order, then its ACK and NAK, the replay, and the queue of reductions. -/
theorem flitsAreCheckedAndReplayed : Obligations.FlitsAreCheckedAndReplayed := by
  unfold Obligations.FlitsAreCheckedAndReplayed
  refine ⟨fun p g s => ?checks, fun p s hp => ⟨rget_rset_self .., ?crcOnly, ?nak, rfl⟩, fun p g s hp hg => fecCount_uncorrected hg, fun p f s hc => ?ack,
    fun ack l m b h => ackedReplay_append h, fun p s => ⟨fun hup hr => ?timeout, fun h => ?noTimeout⟩, fun p s hp => ⟨fun h => if_pos h, fun h hs => replay_spec hp h hs⟩,
    fun s h => ?noReduction, fun s o rest hw => ⟨fun hn => ⟨_, congrArg Host.Outcome.next (reductionAdmit_of_tokens hw hn), admitHead_spec o rest s⟩, fun hn => ?noTokens⟩⟩
  case checks =>
    intro f r t
    refine ⟨fun h => flits_of_not_up h, fun hup => ?_⟩
    obtain ⟨hdata, hidle⟩ := flits_of_up (g := g) hup
    obtain ⟨hcrc, hproto, hgood⟩ := dataFlitBytes_cases p.val f r
    obtain ⟨icrc, iproto, igood⟩ := idleAnswer_cases p.val f r
    have hdata : exec (.dataFlit p g) s = .next (speak p.val (dataFlitBytes p.val f r)) := hdata
    have hidle : exec (.idleFlit p g) s = .next (idleAnswer p.val f r) := hidle
    rw [hdata, hidle]
    clear hdata hidle
    clear_value r f
    refine ⟨fun h => ⟨by rw [hcrc h], by rw [icrc h]⟩, fun h hb => by rw [hproto h hb], fun h hb => by rw [iproto h hb], fun h₁ h₂ h₃ => by rw [igood h₁ h₂ h₃], fun h₁ h₂ h₃ => ?_⟩
    obtain ⟨hdown, hupt⟩ := hgood h₁ h₂ h₃
    refine ⟨fun h => by rw [hdown h], fun h => ?_⟩
    obtain ⟨hseq, hhead, haccept⟩ := hupt h
    exact ⟨fun h => by rw [hseq h], fun h g => by rw [hhead h g], fun h g => by rw [haccept h g]⟩
  case crcOnly =>
    refine ⟨rest_rset rfl .., fun o ho => rget_rcount_ne _ (by simpa using ho)⟩
  case nak => exact congrArg PortX.nak (portx_setPortx_self s p { portx p s with nak := true })
  case ack =>
    intro x asks
    refine ⟨ackedPort f x, rfl, rfl, rfl, rfl, fun ha => (takeAck_of_credit hc).trans (if_pos ?_), fun ha => (takeAck_of_credit hc).trans (if_neg ?_)⟩
    · simpa only [Bool.and_eq_true, Bool.not_eq_true', List.isEmpty_eq_false_iff, bne_iff_ne, and_assoc] using ha
    · simpa only [Bool.and_eq_true, Bool.not_eq_true', List.isEmpty_eq_false_iff, bne_iff_ne, and_assoc] using ha
  case timeout =>
    exact congrArg Host.Outcome.next (if_pos (by rw [hup, List.isEmpty_eq_false_iff.mpr hr]; rfl))
  case noTimeout =>
    refine congrArg Host.Outcome.next (if_neg ?_)
    rcases h with h | h <;> simp [h]
  case noReduction =>
    refine congrArg Host.Outcome.next ?_
    unfold reductionAdmit
    rw [h]
  case noTokens =>
    refine congrArg Host.Outcome.next ?_
    have hall : ¬ o.needs.all (fun n => decide (n.2 ≤ rbFree n.1 s)) = true := by simpa only [List.all_eq_true, decide_eq_true_eq] using hn
    unfold reductionAdmit
    rw [hw]
    exact if_neg hall

end Sys2Proof.Machine
end
section
/-! Accesses of peers (R140, R246, R252, R253): where a write's bytes and poison land, and the statement about messages that read
and write memory. -/

namespace Sys2Proof.Machine
open Sys2Proof

theorem lineOf_mem_poisonAfter {a n x : Nat} (l : List Nat) (h : a ≤ x) (hx : x < a + n) : lineOf x ∈ poisonAfter a n true l := by
  have hn : (true && n != 0) = true := by simp only [Bool.true_and, bne_iff_ne]; omega
  have hmem : lineOf x ∈ (List.range (lineOf (a + n - 1) - lineOf a + 1)).map (· + lineOf a) := by
    refine List.mem_map.mpr ⟨lineOf x - lineOf a, List.mem_range.mpr ?_, ?_⟩ <;> unfold lineOf <;> omega
  unfold poisonAfter
  dsimp only
  rw [if_pos hn]
  generalize l.filter (fun x => !(decide (a ≤ 128 * x) && decide (128 * x + 128 ≤ a + n))) = keep
  by_cases hk : lineOf x ∈ keep
  · exact List.mem_append_left _ hk
  · exact List.mem_append_right _ (List.mem_filter.mpr ⟨hmem, by simpa using hk⟩)

/-- A write to stacked memory puts its bytes there and nowhere else, with its poison, and touches no register. -/
theorem writeMem_stacked {a : Nat} {b : Bytes} (h : a + b.length ≤ stackedEnd) (bad : Bool) (t : State) :
    let r := (writeMem a b t bad).s
    r.regs = t.regs ∧ (∀ x, byteAt x r = if a ≤ x ∧ x < a + b.length then b.getD (x - a) 0 else byteAt x t) ∧
    (bad = true → ∀ x, a ≤ x → x < a + b.length → lineOf x ∈ r.poison) := by
  intro r
  by_cases hb : b = []
  · have hnone : firstUnreached t a b.length = none := firstUnreached_of_inMemory (.inl h) t
    have hr : r = t := by
      change (writeMem a b t bad).s = t
      unfold writeMem
      rw [hnone]
      exact congrArg Wrote.s (if_pos (by rw [hb]; rfl))
    have hlen : b.length = 0 := by rw [hb]; rfl
    rw [hr]
    exact ⟨rfl, fun x => (if_neg (by omega)).symm, fun _ x _ _ => by omega⟩
  · have hr : r = storeBytes a b bad t := congrArg Wrote.s (writeMem_of_inMemory (.inl h) hb bad t)
    rw [hr]
    refine ⟨rfl, fun x => byteAt_storeBytes .., ?_⟩
    rintro rfl x h₁ h₂
    exact lineOf_mem_poisonAfter _ h₁ h₂

theorem peerWrite_taken {p : Nat} {m : Msg} {s t : State} (ht : takeMsg p 1 m s = some t) (hb : bankHolds m.addr.toNat m.data.length s = false) :
    peerWrite p m s = (writeMem m.addr.toNat m.data t m.poison).s := by
  unfold peerWrite
  rw [hb, if_neg Bool.false_ne_true, ht]

/-- How a READ_REQ that has been taken is answered. -/
theorem peerRead_taken {p : Nat} {m : Msg} {s t : State} (ht : takeMsg p 2 m s = some t) (hb : bankHolds m.addr.toNat (u m.data 0 4) s = false) :
    let a := m.addr.toNat
    let n := u m.data 0 4
    (firstUnreached t a n = none → let r := touchRead t (a, n)
      peerRead p m s = (sendMsg (mkMsg r 3 m.srcDom.toNat m.srcDev.toNat a m.tag.toNat (readBytes t a n) (poisoned t a n)) r).getD r) ∧
    (∀ e, firstUnreached t a n = some e → let r := captureReach e t
      peerRead p m s = (sendMsg (mkMsg r 3 m.srcDom.toNat m.srcDev.toNat a m.tag.toNat (List.replicate n 0) true) r).getD r) := by
  unfold peerRead
  dsimp only
  rw [hb, if_neg Bool.false_ne_true, ht]
  dsimp only
  generalize u m.data 0 4 = n
  exact ⟨fun h => by rw [h], fun e h => by rw [h]⟩

/-- What becomes of a READ_RESP that has been taken. -/
def respTaken (m : Msg) (t : State) : State :=
  match t.reads.find? (fun r => r.tag == m.tag.toNat) with
  | none => t
  | some r =>
    let t : State := { t with reads := t.reads.erase r }
    match waitingRead m.tag.toNat t with
    | none => t
    | some (h, y) =>
      if y.owner < 512 then landStream h y (padTo y.len m.data) (if m.poison then [(y.off, y.len)] else []) t
      else copyLanded h (y.owner - 512) y ⟨.clean, 0, 0, 0, false⟩ (padTo y.len m.data) (fun _ => m.poison) t

theorem readRespIn_taken {p : Nat} {m : Msg} {s t : State} (ht : takeMsg p 3 m s = some t)
    (hheld : (waitingRead m.tag.toNat s).any (fun x => transferHeld x.2 s) = false) : readRespIn p m s = respTaken m t := by
  unfold readRespIn
  rw [hheld, if_neg Bool.false_ne_true, ht]
  rfl

theorem respTaken_unasked {m : Msg} {t : State} (h : t.reads.find? (fun r => r.tag == m.tag.toNat) = none) : respTaken m t = t := by
  unfold respTaken
  rw [h]

/-- The data go to the stream or the channel whose transfer waits for the tag. -/
theorem respTaken_asked {m : Msg} {t : State} {r : ReadOut} (hr : t.reads.find? (fun r => r.tag == m.tag.toNat) = some r) :
    let w : State := { t with reads := t.reads.erase r }
    (waitingRead m.tag.toNat w = none → respTaken m t = w) ∧
    ∀ h y, waitingRead m.tag.toNat w = some (h, y) →
      (y.owner < 512 → respTaken m t = landStream h y (padTo y.len m.data) (if m.poison then [(y.off, y.len)] else []) w) ∧
      (512 ≤ y.owner → respTaken m t = copyLanded h (y.owner - 512) y ⟨.clean, 0, 0, 0, false⟩ (padTo y.len m.data) (fun _ => m.poison) w) := by
  intro w
  have hgo : respTaken m t = match waitingRead m.tag.toNat w with
      | none => w
      | some (h, y) =>
        if y.owner < 512 then landStream h y (padTo y.len m.data) (if m.poison then [(y.off, y.len)] else []) w
        else copyLanded h (y.owner - 512) y ⟨.clean, 0, 0, 0, false⟩ (padTo y.len m.data) (fun _ => m.poison) w := by
    unfold respTaken
    rw [hr] <;> rfl
  clear_value w
  refine ⟨fun h => ?_, fun h y hw => ⟨fun ho => ?_, fun ho => ?_⟩⟩
  · rw [hgo, h]
  · rw [hgo, hw]
    exact if_pos ho
  · rw [hgo, hw]
    exact if_neg (by omega)

/-- What becomes of the user of a READ_REQ that has no answer. -/
theorem readLost_cases (cause : Nat) (r : ReadOut) (s : State) :
    let w : State := { s with reads := s.reads.erase r }
    (waitingRead r.tag w = none → (r.c = none → readLost cause r s = w) ∧ (∀ c, r.c = some c → readLost cause r s = failCmd c bLNK cause r.port w)) ∧
    (∀ h y, waitingRead r.tag w = some (h, y) →
      (y.owner < 512 → readLost cause r s = fetchLost h y cause w) ∧
      (512 ≤ y.owner → readLost cause r s = chanHalt (y.owner - 512) 3 cause y.addr (releaseTag h y.id w))) := by
  intro w
  have hgo : readLost cause r s = match waitingRead r.tag w with
      | none => (match r.c with | none => w | some c => failCmd c bLNK cause r.port w)
      | some (h, y) =>
        if y.owner < 512 then fetchLost h y cause w else chanHalt (y.owner - 512) 3 cause y.addr (releaseTag h y.id w) := rfl
  clear_value w
  refine ⟨fun hn => ⟨fun hc => ?_, fun c hc => ?_⟩, fun h y hw => ⟨fun ho => ?_, fun ho => ?_⟩⟩
  · rw [hgo, hn, hc]
  · rw [hgo, hn, hc]
  · rw [hgo, hw]
    exact if_pos ho
  · rw [hgo, hw]
    exact if_neg (by omega)

/-- Settles O46, by the three messages of a peer's access and the one that does not come. -/
theorem peersReadAndWriteMemory : Obligations.PeersReadAndWriteMemory := by
  unfold Obligations.PeersReadAndWriteMemory
  refine ⟨fun p m s => ⟨fun h => congrArg Host.Outcome.next ?noWrite, fun h => congrArg Host.Outcome.next ?noRead, fun h => congrArg Host.Outcome.next ?noResp⟩,
    fun p m s t ht hb => ⟨congrArg Host.Outcome.next (peerWrite_taken ht hb),
      fun hmem => ⟨_, congrArg Host.Outcome.next (peerWrite_taken ht hb), writeMem_stacked hmem m.poison t⟩⟩,
    fun p m s t ht => ?read, fun p m s t ht => ⟨?held, fun hfree => ?resp⟩, fun tag s r hr => ?lost, fun tag s h => congrArg Host.Outcome.next ?notAsked⟩
  case noWrite =>
    change peerWrite p.val m s = s
    unfold peerWrite
    rcases h with h | h
    · rw [if_pos h]
    · rw [h, ite_self]
  case noRead =>
    change peerRead p.val m s = s
    unfold peerRead
    rcases h with h | h
    · rw [if_pos h]
    · rw [h, ite_self]
  case noResp =>
    change readRespIn p.val m s = s
    unfold readRespIn
    rw [h, ite_self]
  case read =>
    intro a n hb
    obtain ⟨hin, hout⟩ := peerRead_taken ht hb
    exact ⟨fun h => congrArg Host.Outcome.next (hin h), fun e h => congrArg Host.Outcome.next (hout e h)⟩
  case held =>
    rintro ⟨h, y, hw, hy⟩
    refine congrArg Host.Outcome.next (if_pos ?_)
    rw [hw]
    exact hy
  case resp =>
    have hnone : (waitingRead m.tag.toNat s).any (fun x => transferHeld x.2 s) = false := by
      cases hw : waitingRead m.tag.toNat s with
      | none => rfl
      | some x => exact hfree x.1 x.2 hw
    have hgo : exec (.readResp p m) s = .next (respTaken m t) := congrArg Host.Outcome.next (readRespIn_taken ht hnone)
    rw [hgo]
    refine ⟨fun h => congrArg Host.Outcome.next (respTaken_unasked h), fun r hr => ?_⟩
    obtain ⟨hno, hsome⟩ := respTaken_asked hr
    exact ⟨fun h => congrArg Host.Outcome.next (hno h), fun h y hw =>
      ⟨fun ho => congrArg Host.Outcome.next ((hsome h y hw).1 ho), fun ho => congrArg Host.Outcome.next ((hsome h y hw).2 ho)⟩⟩
  case lost =>
    have hgo : exec (.readTimeout tag) s = .next (readLost 0x0192 r s) := by
      refine congrArg Host.Outcome.next ?_
      unfold readTimeout
      rw [hr]
    rw [hgo]
    obtain ⟨hno, hsome⟩ := readLost_cases 0x0192 r s
    exact ⟨fun h => ⟨fun hc => congrArg Host.Outcome.next ((hno h).1 hc), fun c hc => congrArg Host.Outcome.next ((hno h).2 c hc)⟩, fun h y hw =>
      ⟨fun ho => congrArg Host.Outcome.next ((hsome h y hw).1 ho), fun ho => congrArg Host.Outcome.next ((hsome h y hw).2 ho)⟩⟩
  case notAsked =>
    unfold readTimeout
    rw [h]

end Sys2Proof.Machine
end
section
/-! Messages of the relay (chapter 14, Table 14.3): batons and how they are counted, what each control message does once it is
taken, and the statement about them. -/

namespace Sys2Proof.Machine
open Sys2Proof

/-! ### Operations in progress -/

theorem relayOp_c {c : Nat} {s : State} {o : RelayOp} (h : relayOp c s = some o) : o.c = c := by
  simpa using List.find?_some h

/-- An operation that is written again is found as written. -/
theorem relayOp_setRelayOp {c : Nat} {s : State} {o o' : RelayOp} (h : relayOp c s = some o) (hc : o'.c = c) : relayOp c (setRelayOp o' s) = some o' := by
  unfold relayOp setRelayOp at *
  dsimp only
  generalize s.relay.ops = l at h ⊢
  induction l with
  | nil => simp at h
  | cons x l ih =>
    by_cases hx : x.c = c
    · rw [List.map_cons, if_pos (hx.trans hc.symm)]
      exact List.find?_cons_of_pos (beq_iff_eq.mpr hc)
    · rw [List.find?_cons_of_neg (by simpa using hx)] at h
      rw [List.map_cons, if_neg (fun e => hx (e.trans hc)), List.find?_cons_of_neg (by simpa using hx)]
      exact ih h

theorem relay_markerPut (m v : Nat) (s : State) : (markerPut m v s).relay = s.relay := by
  obtain ⟨⟨r, o, p, e⟩, -⟩ := markerPut_frame s m v
  rw [e]

/-! ### Counting batons (R263) -/

/-- A baton that comes early waits to be counted. -/
theorem settle_early {k b : Nat} {o : RelayOp} (hb : b ≠ countedOf k o) : settle k 1 { o with early := [(k, b)] } = ({ o with early := [(k, b)] }, 0) := by
  have hno : ([(k, b)] : List (Nat × Nat)).contains (k, countedOf k o) = false := by simpa using fun h => hb h.symm
  exact if_neg (fun h => Bool.false_ne_true (hno.symm.trans h))

/-- The baton next in order is counted. -/
theorem settle_next (k : Nat) (o : RelayOp) :
    settle k 1 { o with early := [(k, countedOf k o)] } = ({ o with early := [], counted := AL.set 0 k (countedOf k o + 1) o.counted }, 1) := by
  have hyes : ([(k, countedOf k o)] : List (Nat × Nat)).contains (k, countedOf k o) = true := by simp
  have herase : ([(k, countedOf k o)] : List (Nat × Nat)).erase (k, countedOf k o) = [] := by simp
  have hgo : settle k 1 { o with early := [(k, countedOf k o)] } =
      ((settle k 0 { o with early := ([(k, countedOf k o)] : List (Nat × Nat)).erase (k, countedOf k o), counted := AL.set 0 k (countedOf k o + 1) o.counted }).1,
       (settle k 0 { o with early := ([(k, countedOf k o)] : List (Nat × Nat)).erase (k, countedOf k o), counted := AL.set 0 k (countedOf k o + 1) o.counted }).2 + 1) :=
    if_pos hyes
  rw [hgo, herase]
  rfl

theorem countBaton_of {c k b mk : Nat} {s : State} {o : RelayOp} (ho : relayOp c s = some o) (he : o.early = []) {o' : RelayOp} {n : Nat}
    (hs : settle k 1 { o with early := [(k, b)] } = (o', n)) :
    countBaton c k b mk s = rcountBy R.RLY_BATONS_RX n (markerTimes mk n (setRelayOp o' s)) := by
  unfold countBaton
  rw [ho]
  dsimp only
  rw [he, List.nil_append, List.length_nil, Nat.zero_add, hs]

/-- Settling of one baton: one out of order waits, one in order is counted. -/
theorem countBaton_spec {c k b mk : Nat} {s : State} {o : RelayOp} (ho : relayOp c s = some o) (he : o.early = []) :
    (b ≠ countedOf k o → relayOp c (countBaton c k b mk s) = some { o with early := [(k, b)] } ∧
      ∀ n, markerCount n (countBaton c k b mk s) = markerCount n s) ∧
    (b = countedOf k o → ∃ o', relayOp c (countBaton c k b mk s) = some o' ∧ countedOf k o' = countedOf k o + 1 ∧ o'.early = []) := by
  have hc := relayOp_c ho
  refine ⟨fun hb => ?_, fun hb => ?_⟩
  · rw [countBaton_of ho he (settle_early hb)]
    exact ⟨relayOp_setRelayOp (o' := { o with early := [(k, b)] }) ho hc, fun _ => rfl⟩
  · subst hb
    obtain ⟨o', ho'⟩ : ∃ o' : RelayOp, { o with early := [], counted := AL.set 0 k (countedOf k o + 1) o.counted } = o' := ⟨_, rfl⟩
    have hset := settle_next k o
    rw [ho'] at hset
    have hc' : o'.c = c := by rw [← ho']; exact hc
    have hcounted : countedOf k o' = countedOf k o + 1 := by
      rw [← ho']
      change AL.get 0 k (AL.set 0 k (countedOf k o + 1) o.counted) = _
      exact AL.get_set_self ..
    refine ⟨o', ?_, hcounted, by rw [← ho']⟩
    rw [countBaton_of ho he hset]
    have hrelay : (rcountBy R.RLY_BATONS_RX 1 (markerTimes mk 1 (setRelayOp o' s))).relay = (setRelayOp o' s).relay := relay_markerPut ..
    unfold relayOp
    rw [hrelay]
    exact relayOp_setRelayOp ho hc'

theorem batonIn_of_held {p : Nat} {m : Msg} {s : State} (h : ownerOfBaton m s = none ∨ takeMsg p 4 m s = none) : batonIn p m s = s := by
  unfold batonIn
  rcases h with h | h
  · rw [h]
  · rw [h]
    cases ownerOfBaton m s <;> rfl

/-- A baton that has been taken lands for its operation. -/
theorem batonIn_of_owner {p : Nat} {m : Msg} {s t : State} {x : Started} {o : Op} {a mk k : Nat} (ho : ownerOfBaton m s = some (x, o, a, mk, k))
    (ht : takeMsg p 4 m s = some t) :
    let w := writeMem a m.data t m.poison
    (bankHolds a m.data.length s = true → batonIn p m s = s) ∧
    (bankHolds a m.data.length s = false →
      (w.cause = none → batonIn p m s =
        relayGo x o (advanceAll (countBaton x.id k (m.addr.toNat % 2 ^ 24) mk (forwardBaton x o (m.addr.toNat % 2 ^ 24) k w.s)))) ∧
      (∀ e, w.cause = some e → batonIn p m s = failRelay x.id e p w.s)) := by
  unfold batonIn
  rw [ho, ht]
  dsimp only
  generalize m.addr.toNat % 2 ^ 24 = idx
  generalize writeMem a m.data t m.poison = w
  refine ⟨fun h => if_pos h, fun h => ?_⟩
  rw [h, if_neg Bool.false_ne_true]
  exact ⟨fun hw => by rw [hw], fun e hw => by rw [hw]⟩

/-! ### Messages with a bucket and an epoch (R275) -/

theorem bucketCtrl_none {p type : Nat} {m : Msg} {f : Nat → Nat → State → State} {s : State} (h : takeCtrl p type m s = none) :
    bucketCtrl p type m f s = s := by
  unfold bucketCtrl
  rw [h]

theorem bucketCtrl_stale {p type : Nat} {m : Msg} {f : Nat → Nat → State → State} {s t : State} (h : takeCtrl p type m s = some t)
    (he : u m.data 4 2 ≠ epochNow s) : bucketCtrl p type m f s = staleMsg t := by
  unfold bucketCtrl
  rw [h]
  exact if_pos (bne_iff_ne.mpr he)

theorem bucketCtrl_now {p type : Nat} {m : Msg} {f : Nat → Nat → State → State} {s t : State} (h : takeCtrl p type m s = some t)
    (he : u m.data 4 2 = epochNow s) : bucketCtrl p type m f s = f (u m.data 0 4) (u m.data 4 2) t := by
  unfold bucketCtrl
  rw [h]
  exact if_neg (fun hb => bne_iff_ne.mp hb he)

theorem staleMsg_spec {s : State} (h : rbit R.RLY_CTL 1 s = false) : rget R.RLY_STALE (staleMsg s) = (rget R.RLY_STALE s + 1) % 2 ^ 32 ∧
    rbit R.RLY_EVT 3 (staleMsg s) = true ∧ OnlyRegs [R.RLY_STALE, R.RLY_EVT] s (staleMsg s) := by
  have hno : rbit R.RLY_CTL 1 (rsetBit R.RLY_EVT 3 (rcount R.RLY_STALE s)) = false :=
    (rbit_of_rget ((rget_rsetBit_ne _ (by decide) 3).trans (rget_rcount_ne _ (by decide)))).trans h
  have hgo : staleMsg s = rsetBit R.RLY_EVT 3 (rcount R.RLY_STALE s) := if_neg (fun e => Bool.false_ne_true (hno.symm.trans e))
  rw [hgo]
  refine ⟨(rget_rsetBit_ne _ (by decide) 3).trans (rget_rset_self ..), rbit_rsetBit_self .., rest_rset (rest_rset rfl ..) .., fun o ho => ?_⟩
  simp only [List.mem_cons, List.not_mem_nil, or_false, not_or] at ho
  exact (rget_rsetBit_ne _ ho.2 3).trans (rget_rcount_ne _ ho.1)

/-- SCALE reaches its bucket, whose data phase begins, once. -/
def scaleTaken (m : Msg) (b : Nat) (t : State) : State :=
  match bucketAt b t with
  | none => t
  | some k =>
    match reduceOf k t with
    | none => t
    | some (_, x) =>
      if k.scale.isSome then t
      else
        let t := setBucket { k with scale := some (signed 16 (u m.data 6 2), u m.data 8 2) } t
        let t := (x.g.children (me t)).foldl (fun t c => sendCtrl 2 c.1 c.2 m.data t) t
        dataPhase b t

theorem scaleIn_now {p : Nat} {m : Msg} {s t : State} (ht : takeCtrl p 2 m s = some t) (he : u m.data 4 2 = epochNow s) :
    scaleIn p m s = scaleTaken m (u m.data 0 4) t := bucketCtrl_now ht he

theorem scaleTaken_cases (m : Msg) (b : Nat) (t : State) :
    ((bucketAt b t = none ∨ ∃ k, bucketAt b t = some k ∧ (reduceOf k t = none ∨ k.scale.isSome = true)) → scaleTaken m b t = t) ∧
    (∀ k y, bucketAt b t = some k → reduceOf k t = some y → k.scale = none →
      let r := setBucket { k with scale := some (signed 16 (u m.data 6 2), u m.data 8 2) } t
      scaleTaken m b t = dataPhase b ((y.2.g.children (me r)).foldl (fun t c => sendCtrl 2 c.1 c.2 m.data t) r)) := by
  unfold scaleTaken
  refine ⟨fun h => ?_, fun k y hk hy hs => ?_⟩
  · rcases h with h | ⟨k, hk, h | h⟩
    · rw [h]
    · rw [hk]
      dsimp only
      rw [h]
    · rw [hk]
      dsimp only
      cases reduceOf k t with
      | none => rfl
      | some y => exact if_pos h
  · rw [hk]
    dsimp only
    rw [hy]
    exact if_neg (by rw [hs]; exact Bool.false_ne_true)

/-- FAIL goes toward the owner, whose REDUCE fails. -/
def failTaken (p : Nat) (m : Msg) (b : Nat) (t : State) : State :=
  match bucketAt b t with
  | none => t
  | some k =>
    match reduceOf k t with
    | none => t
    | some (_, x) =>
      match x.g.parent (me t) with
      | none => failReduce k 0x0190 p t
      | some up => sendCtrl 9 up.1 up.2 m.data t

theorem failIn_now {p : Nat} {m : Msg} {s t : State} (ht : takeCtrl p 9 m s = some t) (he : u m.data 4 2 = epochNow s) :
    failIn p m s = failTaken p m (u m.data 0 4) t := bucketCtrl_now ht he

theorem failTaken_cases (p : Nat) (m : Msg) (b : Nat) (t : State) :
    ((bucketAt b t = none ∨ ∃ k, bucketAt b t = some k ∧ reduceOf k t = none) → failTaken p m b t = t) ∧
    (∀ k y, bucketAt b t = some k → reduceOf k t = some y →
      (y.2.g.parent (me t) = none → failTaken p m b t = failReduce k 0x0190 p t) ∧
      (∀ v, y.2.g.parent (me t) = some v → failTaken p m b t = sendCtrl 9 v.1 v.2 m.data t)) := by
  unfold failTaken
  refine ⟨fun h => ?_, fun k y hk hy => ?_⟩
  · rcases h with h | ⟨k, hk, h⟩
    · rw [h]
    · rw [hk]
      dsimp only
      rw [h]
  · rw [hk]
    dsimp only
    rw [hy]
    dsimp only
    exact ⟨fun h => by rw [h], fun v h => by rw [h]⟩

/-! ### The manager's timers (R273) -/

theorem startIn_taken {p : Nat} {m : Msg} {s t : State} (ht : takeCtrl p 3 m s = some t) :
    startIn p m s = if isManager t then timerStart (u m.data 0 4) (u m.data 8 1) (u m.data 6 2) (m.srcDom.toNat, m.srcDev.toNat) t else t := by
  unfold startIn
  rw [ht]

theorem timerStart_spec (b od ov : Nat) (v : Nat × Nat) (t : State) :
    let late := t.relay.closedB.contains b = true ∧ t.relay.starts.contains (b, v.1, v.2) = false
    let runs := t.relay.timers.any (fun x => x.1 == b) = true
    let r := timerStart b od ov v t
    { r with relay := t.relay } = t ∧ (b, v.1, v.2) ∈ r.relay.starts ∧ (late ∨ runs → r.relay.timers = t.relay.timers) ∧
    (¬ (late ∨ runs) → r.relay.timers = t.relay.timers ++ [(b, od, ov)] ∧ b ∉ r.relay.closedB) := by
  intro late runs r
  have hign : startIgnored b v t = true ↔ late ∨ runs := by
    simp only [startIgnored, Bool.or_eq_true, Bool.and_eq_true, Bool.not_eq_true', late, runs]
    exact or_comm
  by_cases h : late ∨ runs
  · have hr : r = { t with relay := { t.relay with starts := (b, v.1, v.2) :: t.relay.starts } } := if_pos (hign.mpr h)
    rw [hr]
    exact ⟨rfl, List.mem_cons_self, fun _ => rfl, fun hn => absurd h hn⟩
  · have hr : r = { t with relay := { t.relay with
        timers := t.relay.timers ++ [(b, od, ov)], closedB := t.relay.closedB.filter (· != b),
        starts := (b, v.1, v.2) :: t.relay.starts.filter (fun x => x.1 != b) } } := if_neg (mt hign.mp h)
    rw [hr]
    exact ⟨rfl, List.mem_cons_self, fun hn => absurd hn h, fun _ => ⟨rfl, by simp⟩⟩

theorem closedIn_taken {p : Nat} {m : Msg} {s t : State} (ht : takeCtrl p 5 m s = some t) :
    closedIn p m s = if isManager t then timerStop (u m.data 0 4) t else t := by
  unfold closedIn
  rw [ht]

/-! ### Grants (R264) -/

/-- Does operation y of a RING_PASS hold leg l? -/
def takesLeg (leg : Nat) (y : Started × Op) : Bool :=
  y.2 == .ringPass && decide ((Ring.parse y.1.bytes).first ≤ leg) && decide (leg < (Ring.parse y.1.bytes).first + (Ring.parse y.1.bytes).count)

/-- A grant reaches its RING_PASS, or is kept for it. -/
def grantTaken (optag leg : Nat) (t : State) : State :=
  match (opsOfTag optag t).find? (takesLeg leg) with
  | none => { t with relay := { t.relay with grants := t.relay.grants ++ [(optag, leg)] } }
  | some (x, _) =>
    (match relayOp x.id t with
     | none => t
     | some o => ringGo x (setRelayOp { o with granted := o.granted ++ [leg] } t))

theorem grantIn_taken {p : Nat} {m : Msg} {s t : State} (ht : takeCtrl p 8 m s = some t) : grantIn p m s = grantTaken (u m.data 0 4) (u m.data 4 2) t := by
  unfold grantIn
  rw [ht] <;> rfl

theorem grantTaken_cases (optag leg : Nat) (t : State) :
    ((∀ y ∈ opsOfTag optag t, takesLeg leg y = false) →
      grantTaken optag leg t = { t with relay := { t.relay with grants := t.relay.grants ++ [(optag, leg)] } }) ∧
    (∀ y, (opsOfTag optag t).find? (takesLeg leg) = some y →
      (∀ o, relayOp y.1.id t = some o → grantTaken optag leg t = ringGo y.1 (setRelayOp { o with granted := o.granted ++ [leg] } t)) ∧
      (relayOp y.1.id t = none → grantTaken optag leg t = t)) := by
  unfold grantTaken
  refine ⟨fun h => ?_, fun y hy => ?_⟩
  · rw [List.find?_eq_none.mpr (fun y hm => by rw [h y hm]; exact Bool.false_ne_true)]
  · rw [hy]
    dsimp only
    exact ⟨fun o h => by rw [h], fun h => by rw [h]⟩

/-! ### CONTRIB (R267, R268) -/

/-- A backed chunk of a bucket that is not past. -/
theorem contribIn_backed {p : Nat} {m : Msg} {s : State} (hepoch : bits m.addr.toNat 47 42 = epochNow s % 64) (hback : bitAt m.tag.toNat 15 = true)
    (hpast : s.relay.past.contains (m.addr.toNat % 2 ^ 32) = false) :
    let b := m.addr.toNat % 2 ^ 32
    let j := bits m.addr.toNat 41 32
    let ci := m.tag.toNat % 16
    let k := needBucket b (epochNow s) s
    (reduceOf k.1 k.2 = none → contribIn p m s = k.2) ∧
    (∀ y, reduceOf k.1 k.2 = some y →
      (y.2.g.root = me s → contribIn p m s = takeBacked p m b j ci k.1 k.2) ∧
      (y.2.g.root ≠ me s → contribIn p m s = stageChunk p m b j ci k.1 y.2 k.2)) := by
  unfold contribIn
  dsimp only
  rw [if_neg (not_not.mpr hepoch), hback, Bool.not_true, if_neg Bool.false_ne_true, hpast, if_neg Bool.false_ne_true]
  generalize needBucket (m.addr.toNat % 2 ^ 32) (epochNow s) s = k
  obtain ⟨k, t⟩ := k
  dsimp only
  refine ⟨fun h => by rw [h], fun y hy => ?_⟩
  rw [hy]
  exact ⟨fun h => if_pos h, fun h => if_neg h⟩

theorem contribIn_stale {p : Nat} {m : Msg} {s : State} (h : bits m.addr.toNat 47 42 ≠ epochNow s % 64) :
    contribIn p m s = match takeMsg p 5 m s with | none => s | some t => staleMsg t := if_pos h

theorem contribIn_partial {p : Nat} {m : Msg} {s : State} (h : bits m.addr.toNat 47 42 = epochNow s % 64) (hb : bitAt m.tag.toNat 15 = false) :
    contribIn p m s = foldPartial p m (m.addr.toNat % 2 ^ 32) (bits m.addr.toNat 41 32) s := by
  unfold contribIn
  dsimp only
  rw [if_neg (not_not.mpr h), hb, Bool.not_false, if_pos rfl]

theorem contribIn_past {p : Nat} {m : Msg} {s : State} (h : bits m.addr.toNat 47 42 = epochNow s % 64) (hb : bitAt m.tag.toNat 15 = true)
    (hpast : s.relay.past.contains (m.addr.toNat % 2 ^ 32) = true) :
    contribIn p m s = match takeMsg p 5 m s with | none => s | some t => duplicate t := by
  unfold contribIn
  dsimp only
  rw [if_neg (not_not.mpr h), hb, Bool.not_true, if_neg Bool.false_ne_true, if_pos hpast] <;> rfl

/-! ### Holds (R276) -/

/-- The hold is counted here before it is passed on. -/
def holdNoted (h : Nat × Nat × Nat) (t : State) : State :=
  rsetBit R.RLY_EVT 4 (rcountSat R.RLY_HOLDS { t with relay := { t.relay with holds := t.relay.holds ++ [h] } })

theorem holdIn_taken {p : Nat} {m : Msg} {s t : State} (ht : takeCtrl p 6 m s = some t) :
    holdIn p m s = if ((holdOf m).1, (holdOf m).2.1) = me t ∨ t.relay.holds.contains (holdOf m) = true ∨ t.relay.lifted.contains (holdOf m) = true then t
      else spreadHold 6 (holdOf m) (showWalks (holdNoted (holdOf m) t)) := by
  unfold holdIn
  rw [ht] <;> rfl

theorem holdNoted_spec (h : Nat × Nat × Nat) (t : State) :
    let r := holdNoted h t
    r.relay.holds = t.relay.holds ++ [h] ∧ Counted R.RLY_HOLDS t r ∧ rbit R.RLY_EVT 4 r = true ∧ { r with regs := t.regs, relay := t.relay } = t := by
  refine ⟨rfl, ?_, rbit_rsetBit_self .., rfl⟩
  have hcount := counted_rcountSat { t with relay := { t.relay with holds := t.relay.holds ++ [h] } } R.RLY_HOLDS
  unfold holdNoted Counted rbits at *
  rw [rget_rsetBit_ne _ (by decide), hcount]
  rfl

/-- The hold leaves those in force. -/
def holdErased (h : Nat × Nat × Nat) (t : State) : State :=
  { t with relay := { t.relay with holds := t.relay.holds.erase h, lifted := (h :: t.relay.lifted).take 256 } }

theorem liftHold_of_held {h : Nat × Nat × Nat} {t : State} (hh : t.relay.holds.contains h = true) :
    let v := spreadHold 7 h (holdErased h t)
    (v.relay.holds = [] → liftHold h t = resumeRelay v) ∧ (v.relay.holds ≠ [] → liftHold h t = v) := by
  intro v
  have hgo : liftHold h t = if v.relay.holds.isEmpty then resumeRelay v else v := if_pos hh
  rw [hgo]
  exact ⟨fun h => if_pos (List.isEmpty_iff.mpr h), fun h => if_neg (mt List.isEmpty_iff.mp h)⟩

/-! ### Resends and acceptances (R235) -/

theorem resendIn_taken {p : Nat} {m : Msg} {s t : State} (ht : takeCtrl p 0x20 m s = some t) :
    (findSent m t = none → resendIn p m s = secondFailure p t) ∧
    (∀ x, findSent m t = some x →
      let b := (blocksOf x.src (x.now t)).getD (u m.data 8 2) []
      resendIn p m s = (sendMsg { x.msg with data := leBytes 8 (blockHdr 0 b.length 0 b.length true (u m.data 8 2)) ++ b } t).getD t) := by
  unfold resendIn
  rw [ht]
  dsimp only
  exact ⟨fun h => by rw [h], fun x h => by rw [h]⟩

theorem acceptIn_of_op {p : Nat} {m : Msg} {s t : State} (ht : takeCtrl p 0x21 m s = some t) {o : RelayOp} {x : SentC} {rest : List SentC}
    (ho : t.relay.ops = [o]) (hx : o.unacked = x :: rest) (hm : sentMatches m x = true) :
    acceptIn p m s = { t with relay := { t.relay with ops := [{ o with unacked := rest }] } } := by
  have hany : o.unacked.any (sentMatches m) = true := by rw [hx, List.any_cons, hm]; rfl
  have hgo : acceptIn.go m [o] = [{ o with unacked := rest }] := by
    unfold acceptIn.go
    rw [if_pos hany, hx, eraseFirst, if_pos hm]
  unfold acceptIn
  rw [ht]
  dsimp only
  rw [ho, List.any_cons, hany, Bool.true_or, if_pos rfl, hgo]

theorem acceptIn_of_bucket {p : Nat} {m : Msg} {s t : State} (ht : takeCtrl p 0x21 m s = some t) (hno : ∀ o ∈ t.relay.ops, ∀ x ∈ o.unacked, sentMatches m x = false) :
    acceptIn p m s = { t with relay := { t.relay with buckets := t.relay.buckets.map (fun k => { k with unacked := eraseFirst (sentMatches m) k.unacked }) } } := by
  have hany : ¬ (t.relay.ops.any (fun o => o.unacked.any (sentMatches m))) = true := by
    simp only [List.any_eq_true, not_exists, not_and]
    intro o ho x hx
    rw [hno o ho x hx]
    exact Bool.false_ne_true
  unfold acceptIn
  rw [ht]
  exact if_neg hany

/-- A control message that is not there to be taken does nothing. -/
theorem relayCtrl_untaken {p : Port} {m : Msg} {s : State} {a : Nat × Instr}
    (ha : a ∈ [(1, Instr.report p m), (2, .scale p m), (3, .start p m), (4, .cut p m), (5, .closed p m),
      (6, .hold p m), (7, .release p m), (8, .grant p m), (9, .fail p m), (0x20, .resend p m), (0x21, .accept p m)])
    (ht : takeCtrl p.val a.1 m s = none) : exec a.2 s = .next s := by
  simp only [List.mem_cons, List.not_mem_nil, or_false] at ha
  rcases ha with rfl | rfl | rfl | rfl | rfl | rfl | rfl | rfl | rfl | rfl | rfl
  · exact congrArg Host.Outcome.next (bucketCtrl_none ht)
  · exact congrArg Host.Outcome.next (bucketCtrl_none ht)
  · refine congrArg Host.Outcome.next (?_ : startIn p.val m s = s)
    unfold startIn
    rw [ht]
  · exact congrArg Host.Outcome.next (bucketCtrl_none ht)
  · refine congrArg Host.Outcome.next (?_ : closedIn p.val m s = s)
    unfold closedIn
    rw [ht]
  · refine congrArg Host.Outcome.next (?_ : holdIn p.val m s = s)
    unfold holdIn
    rw [ht]
  · refine congrArg Host.Outcome.next (?_ : releaseIn p.val m s = s)
    unfold releaseIn
    rw [ht]
  · refine congrArg Host.Outcome.next (?_ : grantIn p.val m s = s)
    unfold grantIn
    rw [ht]
  · exact congrArg Host.Outcome.next (bucketCtrl_none ht)
  · refine congrArg Host.Outcome.next (?_ : resendIn p.val m s = s)
    unfold resendIn
    rw [ht]
  · refine congrArg Host.Outcome.next (?_ : acceptIn p.val m s = s)
    unfold acceptIn
    rw [ht]

/-- Settles O47, message by message of Table 14.3. -/
theorem relayMessagesReachTheirOperations : Obligations.RelayMessagesReachTheirOperations := by
  unfold Obligations.RelayMessagesReachTheirOperations
  refine ⟨fun p m s a ha ht => relayCtrl_untaken ha ht, fun p m s => ?baton, fun c k b mk s o ho he => countBaton_spec ho he, fun p m s t a ha ht he => ?stale,
    fun s h => staleMsg_spec h, fun p m s t ht he => congrArg Host.Outcome.next (bucketCtrl_now ht he), fun p m s t ht he => ?scale,
    fun p m s t ht he => congrArg Host.Outcome.next (bucketCtrl_now ht he), fun p m s t ht he => ?fail, fun p m s t ht => ?start, fun p m s t ht => ?closed,
    fun p m s t ht => ?grant, fun p m s => ?contrib, fun p m s t ht => ?hold, fun p m s t ht => ?release, fun p m s t ht => ?resend, fun p m s t ht => ?accept⟩
  case baton =>
    refine ⟨fun h => congrArg Host.Outcome.next (batonIn_of_held h), fun x o a mk k t ho ht => ?_⟩
    obtain ⟨hheld, hfree⟩ := batonIn_of_owner ho ht
    exact ⟨fun h => congrArg Host.Outcome.next (hheld h), fun h =>
      ⟨fun hw => congrArg Host.Outcome.next ((hfree h).1 hw), fun e hw => congrArg Host.Outcome.next ((hfree h).2 e hw)⟩⟩
  case stale =>
    simp only [List.mem_cons, List.not_mem_nil, or_false] at ha
    rcases ha with rfl | rfl | rfl | rfl <;> exact congrArg Host.Outcome.next (bucketCtrl_stale ht he)
  case scale =>
    have hgo : exec (.scale p m) s = .next (scaleTaken m (u m.data 0 4) t) := congrArg Host.Outcome.next (scaleIn_now ht he)
    obtain ⟨hnone, hsome⟩ := scaleTaken_cases m (u m.data 0 4) t
    rw [hgo]
    exact ⟨fun h => congrArg Host.Outcome.next (hnone h), fun k y hk hy hs => congrArg Host.Outcome.next (hsome k y hk hy hs)⟩
  case fail =>
    have hgo : exec (.fail p m) s = .next (failTaken p.val m (u m.data 0 4) t) := congrArg Host.Outcome.next (failIn_now ht he)
    obtain ⟨hnone, hsome⟩ := failTaken_cases p.val m (u m.data 0 4) t
    rw [hgo]
    exact ⟨fun h => congrArg Host.Outcome.next (hnone h), fun k y hk hy =>
      ⟨fun h => congrArg Host.Outcome.next ((hsome k y hk hy).1 h), fun v h => congrArg Host.Outcome.next ((hsome k y hk hy).2 v h)⟩⟩
  case start =>
    refine ⟨fun h => congrArg Host.Outcome.next ((startIn_taken ht).trans (if_neg (by rw [h]; exact Bool.false_ne_true))), fun h => ?_⟩
    exact ⟨_, congrArg Host.Outcome.next ((startIn_taken ht).trans (if_pos h)),
      timerStart_spec (u m.data 0 4) (u m.data 8 1) (u m.data 6 2) (m.srcDom.toNat, m.srcDev.toNat) t⟩
  case closed =>
    refine ⟨fun h => congrArg Host.Outcome.next ((closedIn_taken ht).trans (if_neg (by rw [h]; exact Bool.false_ne_true))), fun h => ?_⟩
    exact ⟨_, congrArg Host.Outcome.next ((closedIn_taken ht).trans (if_pos h)), rfl, List.mem_cons_self, rfl⟩
  case grant =>
    have hgo : exec (.grant p m) s = .next (grantTaken (u m.data 0 4) (u m.data 4 2) t) := congrArg Host.Outcome.next (grantIn_taken ht)
    obtain ⟨hnone, hsome⟩ := grantTaken_cases (u m.data 0 4) (u m.data 4 2) t
    rw [hgo]
    exact ⟨fun h => congrArg Host.Outcome.next (hnone h), fun y hy =>
      ⟨fun o h => congrArg Host.Outcome.next ((hsome y hy).1 o h), fun h => congrArg Host.Outcome.next ((hsome y hy).2 h)⟩⟩
  case contrib =>
    refine ⟨fun ht h => congrArg Host.Outcome.next ((contribIn_stale h).trans (by rw [ht])), fun t ht h => congrArg Host.Outcome.next ((contribIn_stale h).trans (by rw [ht])),
      fun h => ⟨fun hb => congrArg Host.Outcome.next (contribIn_partial h hb),
        fun hb hp t ht => congrArg Host.Outcome.next ((contribIn_past h hb hp).trans (by rw [ht])),
        fun hb hp ht => congrArg Host.Outcome.next ((contribIn_past h hb hp).trans (by rw [ht])), fun hb hp => ?_⟩⟩
    obtain ⟨hnone, hsome⟩ := contribIn_backed (p := p.val) h hb hp
    exact ⟨fun h => congrArg Host.Outcome.next (hnone h), fun y hy =>
      ⟨fun h => congrArg Host.Outcome.next ((hsome y hy).1 h), fun h => congrArg Host.Outcome.next ((hsome y hy).2 h)⟩⟩
  case hold =>
    refine ⟨fun h => congrArg Host.Outcome.next ((holdIn_taken ht).trans (if_pos h)), fun hme hin hl => ?_⟩
    refine ⟨holdNoted (holdOf m) t, congrArg Host.Outcome.next ((holdIn_taken ht).trans (if_neg ?_)), holdNoted_spec (holdOf m) t⟩
    rw [hin, hl]
    simpa using hme
  case release =>
    have hgo : releaseIn p.val m s = liftHold (holdOf m) t := by
      unfold releaseIn
      rw [ht]
    refine ⟨congrArg Host.Outcome.next hgo, fun h => if_neg (by rw [h]; exact Bool.false_ne_true), fun h => ⟨holdErased (holdOf m) t, rfl, List.mem_cons_self, rfl, ?_⟩⟩
    exact liftHold_of_held h
  case resend =>
    obtain ⟨hnone, hsome⟩ := resendIn_taken ht
    exact ⟨fun h => congrArg Host.Outcome.next (hnone h), fun x h => congrArg Host.Outcome.next (hsome x h)⟩
  case accept =>
    exact ⟨fun o x rest ho hx hm => ⟨_, congrArg Host.Outcome.next (acceptIn_of_op ht ho hx hm), rfl, rfl⟩,
      fun h => ⟨_, congrArg Host.Outcome.next (acceptIn_of_bucket ht h), rfl, rfl⟩⟩

end Sys2Proof.Machine
end
section
/-! Collectives (R258 to R264, R278): how each starts or fails, when it is complete, and the routes toward the root. -/

namespace Sys2Proof.Machine
open Sys2Proof

/-! ### Starting (R262, R264) -/

/-- What a collective whose memory can be reached begins with. -/
def collectiveBegin (op : Op) (c : Nat) (k : Coll) (s : State) : State :=
  let r := k.g.rank (me s)
  let t := setProg c 0 s
  match op with
  | .broadcast =>
    if k.g.root = me s then countBlock c r k.n k.mark (addRelayOp { c := c, toSend := blockSends (k.g.children (me s)) k.src k.n r } t)
    else addRelayOp { c := c } t
  | .allGather => ownBlock c r k.src (k.dst + r * k.n) k.n k.mark (addRelayOp { c := c } t)
  | _ =>
    let sends := (k.g.members.filter (fun y => y != me s)).flatMap (fun y => blockSends [y] (k.src + k.g.rank y * k.n) k.n r)
    ownBlock c r (k.src + r * k.n) (k.dst + r * k.n) k.n k.mark (addRelayOp { c := c, toSend := sends } t)

theorem collectiveStart_cases {op : Op} {x : Started} {s : State} :
    let k := Coll.parse x.bytes s
    (k.g.absent s = true → collectiveStart op x s = failCmd x.id bRLY 0x01A3 0 s) ∧
    (k.g.absent s = false → ∀ p, lostOf k.g.optag s = some p → collectiveStart op x s = failCmd x.id bRLY 0x0191 p (forgetLost k.g.optag s)) ∧
    (k.g.absent s = false → lostOf k.g.optag s = none → ∀ e, collUnmapped op k s = some e →
      collectiveStart op x s = failCmd x.id bRLY (reachCause s e) 0 (captureReach e s)) ∧
    (k.g.absent s = false → lostOf k.g.optag s = none → collUnmapped op k s = none → collectiveStart op x s = collectiveGo op x (collectiveBegin op x.id k s)) := by
  intro k
  unfold collectiveStart
  refine ⟨fun h => if_pos h, fun h p hp => (if_neg ?_).trans ?_, fun h hl e he => (if_neg ?_).trans ?_, fun h hl hu => (if_neg ?_).trans ?_⟩
  · exact fun e => Bool.false_ne_true (h.symm.trans e)
  · dsimp only
    rw [hp]
  · exact fun e => Bool.false_ne_true (h.symm.trans e)
  · dsimp only
    rw [hl]
    dsimp only
    rw [he]
  · exact fun e => Bool.false_ne_true (h.symm.trans e)
  · dsimp only
    rw [hl]
    dsimp only
    rw [hu] <;> rfl

theorem collectiveRun_of {op : Op} {c : Nat} {s : State} {x : Started} (hx : runningCmd c op s = some x) :
    collectiveRun op c s = if x.begun then collectiveGo op x s else collectiveStart op x s := by
  unfold collectiveRun
  rw [hx]

/-- The three data collectives run in the same way. -/
theorem exec_collective {c : Nat} {s : State} {a : Op × Instr} (ha : a ∈ [(Op.broadcast, Instr.broadcast c), (.allGather, .allGather c), (.allToAll, .allToAll c)]) :
    exec a.2 s = .next (collectiveRun a.1 c s) := by
  simp only [List.mem_cons, List.not_mem_nil, or_false] at ha
  rcases ha with rfl | rfl | rfl <;> rfl

/-- Batons of an operation that are still to be sent. -/
def unsent (c : Nat) (s : State) : Nat := match relayOp c s with | none => 0 | some o => o.toSend.length

/-- The end of a collective's advance: it is complete once nothing of it is outstanding. -/
def collectiveEnd (op : Op) (x : Started) (k : Coll) (t : State) : State :=
  match relayOp x.id t with
  | none => t
  | some o =>
    if o.toSend.isEmpty && o.unacked.isEmpty && (op != .allGather || o.stage == 3) && quiet 2 o.marks t &&
       (expectedRanks op k.g).all (fun r => countedOf r o == batonsOf k.n) then markDone x.id (dropRelayOp x.id t)
    else t

theorem collectiveGo_eq {op : Op} (hop : op ≠ .allGather) (x : Started) (s : State) :
    let k := Coll.parse x.bytes s
    collectiveGo op x s = collectiveEnd op x k (sendBatons x.id k.g.optag k.g.cmp k.g.cls (fun _ _ => true) (unsent x.id s) s) := by
  unfold collectiveGo
  dsimp only
  rw [if_neg hop] <;> rfl

/-- A collective without sends of its own to make is complete once nothing of it is outstanding. -/
theorem collectiveGo_sent {op : Op} {x : Started} {s : State} {o : RelayOp} (hop : op ∈ [Op.broadcast, .allToAll]) (ho : relayOp x.id s = some o) (hs : o.toSend = []) :
    let k := Coll.parse x.bytes s
    let whole := o.unacked = [] ∧ quiet 2 o.marks s = true ∧ ∀ r ∈ expectedRanks op k.g, countedOf r o = batonsOf k.n
    (whole → collectiveGo op x s = markDone x.id (dropRelayOp x.id s)) ∧ (¬ whole → collectiveGo op x s = s) := by
  intro k whole
  have hgather : op ≠ .allGather := by
    simp only [List.mem_cons, List.not_mem_nil, or_false] at hop
    rcases hop with rfl | rfl <;> decide
  have hnone : unsent x.id s = 0 := by
    unfold unsent
    rw [ho]
    exact congrArg List.length hs
  have hgo : collectiveGo op x s = if (o.toSend.isEmpty && o.unacked.isEmpty && (op != .allGather || o.stage == 3) && quiet 2 o.marks s &&
      (expectedRanks op k.g).all (fun r => countedOf r o == batonsOf k.n)) = true then markDone x.id (dropRelayOp x.id s) else s := by
    rw [collectiveGo_eq hgather, hnone]
    change collectiveEnd op x k s = _
    unfold collectiveEnd
    rw [ho]
  have hcond : (o.toSend.isEmpty && o.unacked.isEmpty && (op != .allGather || o.stage == 3) && quiet 2 o.marks s &&
      (expectedRanks op k.g).all (fun r => countedOf r o == batonsOf k.n)) = true ↔ whole := by
    rw [hs, bne_iff_ne.mpr hgather]
    simp only [List.isEmpty_nil, Bool.true_and, Bool.true_or, Bool.and_true, Bool.and_eq_true, List.isEmpty_iff, List.all_eq_true, beq_iff_eq, and_assoc, whole]
  rw [hgo]
  exact ⟨fun h => if_pos (hcond.mpr h), fun h => if_neg (mt hcond.mp h)⟩

theorem landing_ranked {x : Started} {m : Msg} {s : State} {o : Op} (ho : o = .allGather ∨ o = .allToAll) :
    let k := Coll.parse x.bytes s
    let idx := m.addr.toNat % 2 ^ 24
    let rank := rankOfTag o k.g m
    idx < batonsOf k.n → rank < k.g.members.length → landing x o m s = some (k.dst + rank * k.n + idx * batonSize, k.mark, rank) := by
  intro k idx rank hi hr
  have hring : o ≠ .ringPass := by rcases ho with rfl | rfl <;> decide
  have hbroad : o ≠ .broadcast := by rcases ho with rfl | rfl <;> decide
  have hranks : expectedRanks o k.g = List.range k.g.members.length := by rcases ho with rfl | rfl <;> rfl
  have hin : (expectedRanks o k.g).contains rank = true := by
    rw [hranks, List.contains_eq_mem, decide_eq_true_eq]
    exact List.mem_range.mpr hr
  have hok : ¬ (batonsOf k.n ≤ idx ∨ (!(expectedRanks o k.g).contains rank) = true) := by
    rw [hin]
    rintro (h | h)
    · omega
    · exact Bool.false_ne_true h
  unfold landing
  dsimp only
  rw [if_neg hring]
  exact (if_neg hok).trans (if_neg hbroad)

theorem ringPassRun_cases {c : Nat} {s : State} {x : Started} (hx : runningCmd c .ringPass s = some x) :
    let r := Ring.parse x.bytes
    (x.begun = true → ringPassRun c s = ringGo x s) ∧
    (x.begun = false → ∀ p, lostOf r.optag s = some p → ringPassRun c s = failCmd c bRLY 0x0191 p (forgetLost r.optag s)) ∧
    (x.begun = false → lostOf r.optag s = none → ∀ e, ringUnreached r s = some e → ringPassRun c s = failCmd c bRLY (reachCause s e) 0 (captureReach e s)) ∧
    (x.begun = false → lostOf r.optag s = none → ringUnreached r s = none → ringPassRun c s = ringGo x (ringBeginSends c r s)) := by
  unfold ringPassRun
  rw [hx]
  dsimp only
  generalize Ring.parse x.bytes = r
  refine ⟨fun h => if_pos h, fun h p hp => ?_, fun h hl e he => ?_, fun h hl he => ?_⟩
  · rw [h, if_neg Bool.false_ne_true, hp]
  · rw [h, if_neg Bool.false_ne_true, hl]
    dsimp only
    rw [he]
    rfl
  · rw [h, if_neg Bool.false_ne_true, hl]
    dsimp only
    rw [he]
    rfl

/-! ### Routes (R259) -/

theorem parent_eq_none_iff (g : Grp) (m : Nat × Nat) : g.parent m = none ↔ m = g.root := by
  unfold Grp.parent Grp.root
  rw [Prod.ext_iff]
  by_cases h₁ : m.2 % 8 = g.rdev % 8
  · rw [if_neg (not_not.mpr h₁)]
    by_cases h₂ : m.2 = g.rdev
    · rw [if_neg (not_not.mpr h₂)]
      by_cases h₃ : m.1 = g.rdom <;> simp [h₂, h₃]
    · simp [h₂]
  · simp only [if_pos h₁, reduceCtorEq, false_iff]
    exact fun h => h₁ (congrArg (· % 8) h.2)

/-- A member outside the root's slot sends within its tray, one in that slot to the root's device, and that to the root. -/
theorem parent_cases {g : Grp} {m v : Nat × Nat} (h : g.parent m = some v) :
    (m.2 % 8 ≠ g.rdev % 8 ∧ v = (m.1, 8 * (m.2 / 8) + g.rdev % 8)) ∨ (m.2 % 8 = g.rdev % 8 ∧ m.2 ≠ g.rdev ∧ v = (m.1, g.rdev)) ∨
    (m.2 = g.rdev ∧ m.1 ≠ g.rdom ∧ v = (g.rdom, g.rdev)) := by
  unfold Grp.parent at h
  split at h
  case isTrue h₁ => exact .inl ⟨h₁, (Option.some.inj h).symm⟩
  case isFalse h₁ =>
    split at h
    case isTrue h₂ => exact .inr (.inl ⟨not_not.mp h₁, h₂, (Option.some.inj h).symm⟩)
    case isFalse h₂ =>
      split at h
      case isTrue h₃ => exact .inr (.inr ⟨not_not.mp h₂, h₃, (Option.some.inj h).symm⟩)
      case isFalse => cases h

theorem parent_thrice {g : Grp} {m v w y : Nat × Nat} (h₁ : g.parent m = some v) (h₂ : g.parent v = some w) (h₃ : g.parent w = some y) : y = g.root := by
  unfold Grp.root
  rcases parent_cases h₃ with ⟨hw, rfl⟩ | ⟨hw, hne, rfl⟩ | ⟨_, _, rfl⟩
  · rcases parent_cases h₂ with ⟨hv, rfl⟩ | ⟨hv, hvne, rfl⟩ | ⟨_, _, rfl⟩
    · dsimp only at hw
      omega
    · exact absurd rfl hw
    · exact absurd rfl hw
  · rcases parent_cases h₂ with ⟨hv, rfl⟩ | ⟨hv, hvne, rfl⟩ | ⟨_, _, rfl⟩
    · rcases parent_cases h₁ with ⟨hm, rfl⟩ | ⟨hm, hmne, rfl⟩ | ⟨_, _, rfl⟩
      · dsimp only at hv
        omega
      · exact absurd rfl hv
      · exact absurd rfl hv
    · exact absurd rfl hne
    · exact absurd rfl hne
  · rfl

theorem children_split (g : Grp) (m : Nat × Nat) : ∃ a b c, g.children m = a ++ b ++ c ∧ (∀ x ∈ a, x ∈ g.machinePeers m) ∧ (∀ x ∈ b, x ∈ g.rackPeers m) ∧
    (∀ x ∈ c, x ∈ g.trayPeers m) ∧ ∀ x ∈ g.children m, g.parent x = some m := by
  refine ⟨_, _, _, by rw [Grp.children, List.filter_append, List.filter_append], fun x hx => (List.mem_filter.mp hx).1, fun x hx => (List.mem_filter.mp hx).1,
    fun x hx => (List.mem_filter.mp hx).1, fun x hx => ?_⟩
  simpa using (List.mem_filter.mp hx).2

/-! ### No progress (R278) -/

theorem relayNoProgress_of {c : Nat} {s : State} {x : Started} {o : Op} (hx : startedAt c s = some x) (ho : opOfBytes x.bytes = some o) (hrun : x.state = .running) :
    relayNoProgress c s = if rget R.RLY_WTO s = 0 ∨ (!isRelayOp o) = true then s
      else if o = .reduce then
        (match bucketAt (RD.parse x.bytes s).bucket s with
         | none => failCmd c bRLY 0x01A2 0 s
         | some k => if k.c = some c then failReduce k 0x01A2 0 s else failCmd c bRLY 0x01A2 0 s)
      else failRelay c 0x01A2 0 s := by
  have hcond : (rget R.RLY_WTO s = 0 ∨ x.state ≠ .running ∨ (!isRelayOp o) = true) ↔ (rget R.RLY_WTO s = 0 ∨ (!isRelayOp o) = true) := by
    simp only [hrun, ne_eq, not_true_eq_false, false_or]
  unfold relayNoProgress
  rw [hx]
  dsimp only
  rw [ho]
  dsimp only
  rw [if_congr hcond rfl rfl] <;> rfl

theorem failReduce_of {k : Bucket} {c : Nat} (hc : k.c = some c) (cause inst : Nat) (s : State) :
    failReduce k cause inst s = failCmd c bRLY cause inst (closeBucket k.num (dropReductions k.num s)) := by
  unfold failReduce
  rw [hc]

/-- Settles O48: the data collectives, RING_PASS, the routes of R259, and the end for want of progress. -/
theorem collectivesStartAndAdvance : Obligations.CollectivesStartAndAdvance := by
  unfold Obligations.CollectivesStartAndAdvance
  refine ⟨fun c s x a ha hx => ?start, fun op x s o hop ho hs => collectiveGo_sent hop ho hs, fun x m s o ho hi hr => landing_ranked ho hi hr, fun c s x hx => ?ring,
    fun g m => ⟨parent_eq_none_iff g m, fun v w y h₁ h₂ h₃ => parent_thrice h₁ h₂ h₃, children_split g m⟩, fun c s x o hx hrun ho => ?silent, fun c s h => ?unknown⟩
  case start =>
    intro k r
    have hid := (runningCmd_spec hx).2.1
    subst hid
    rw [exec_collective ha, collectiveRun_of hx]
    obtain ⟨habsent, hlost, hreach, hgo⟩ := collectiveStart_cases (op := a.1) (x := x) (s := s)
    have hfresh (h : x.begun = false) : ¬ x.begun = true := by rw [h]; exact Bool.false_ne_true
    refine ⟨fun h => congrArg Host.Outcome.next (if_pos h), fun h h₁ => congrArg Host.Outcome.next ((if_neg (hfresh h)).trans (habsent h₁)),
      fun h h₁ p hp => congrArg Host.Outcome.next ((if_neg (hfresh h)).trans (hlost h₁ p hp)),
      fun h h₁ h₂ e he => congrArg Host.Outcome.next ((if_neg (hfresh h)).trans (hreach h₁ h₂ e he)), fun h h₁ h₂ h₃ => ?_⟩
    rw [if_neg (hfresh h), hgo h₁ h₂ h₃]
    refine ⟨fun hop hroot => ?_, fun hop hroot => ?_, fun hop => ?_, fun hop => ?_⟩
    · rw [hop]
      exact congrArg (fun t => Host.Outcome.next (collectiveGo .broadcast x t)) (if_pos hroot)
    · rw [hop]
      exact congrArg (fun t => Host.Outcome.next (collectiveGo .broadcast x t)) (if_neg hroot)
    · rw [hop]
      rfl
    · rw [hop]
      rfl
  case ring =>
    obtain ⟨hbegun, hlost, hreach, hgo⟩ := ringPassRun_cases hx
    exact ⟨fun h => congrArg Host.Outcome.next (hbegun h), fun h p hp => congrArg Host.Outcome.next (hlost h p hp),
      fun h hl e he => congrArg Host.Outcome.next (hreach h hl e he), fun h hl he => congrArg Host.Outcome.next (hgo h hl he)⟩
  case silent =>
    have hgo := relayNoProgress_of hx ho hrun
    refine ⟨fun hw hop => congrArg Host.Outcome.next (hgo.trans ?_), fun hw hop k hk hc => congrArg Host.Outcome.next (hgo.trans ?_), fun h => congrArg Host.Outcome.next (hgo.trans ?_)⟩
    · have hrelay : isRelayOp o = true ∧ o ≠ .reduce := by
        simp only [List.mem_cons, List.not_mem_nil, or_false] at hop
        rcases hop with rfl | rfl | rfl | rfl <;> decide
      rw [if_neg (by simp [hw, hrelay.1]), if_neg hrelay.2]
      rfl
    · subst hop
      rw [if_neg (by rintro (h | h); exacts [hw h, Bool.false_ne_true h]), if_pos rfl, hk]
      exact (if_pos hc).trans (failReduce_of hc ..)
    · exact if_pos (h.imp_right fun h => by rw [h]; rfl)
  case unknown =>
    refine congrArg Host.Outcome.next (?_ : relayNoProgress c s = s)
    unfold relayNoProgress
    rw [h]

end Sys2Proof.Machine
end
section
/-! REDUCE (R265, R269 to R275, R280): how it opens its bucket, reports, completes and is applied, and EPOCH_FENCE. -/

namespace Sys2Proof.Machine
open Sys2Proof

/-! ### Buckets -/

theorem bucketAt_num {b : Nat} {s : State} {k : Bucket} (h : bucketAt b s = some k) : k.num = b := by simpa using List.find?_some h

theorem bucketAt_congr {s t : State} (h : t.relay = s.relay) (b : Nat) : bucketAt b t = bucketAt b s := by
  unfold bucketAt
  rw [h]

theorem showRelay_spec (s : State) : { showRelay s with regs := s.regs } = s ∧ ∀ o, o ≠ R.RLY_OPEN → rget o (showRelay s) = rget o s := by
  refine ⟨rest_rset (rest_rset rfl ..) .., fun o ho => ?_⟩
  unfold showRelay
  rw [rget_rsetBits_ne _ ho, rget_rsetBits_ne _ ho]

/-- The buckets with one more entry. -/
def withBucket (k : Bucket) (s : State) : State := { s with relay := { s.relay with buckets := s.relay.buckets ++ [k] } }

theorem needBucket_of_none {b epoch : Nat} {s : State} (h : bucketAt b s = none) :
    needBucket b epoch s = ({ num := b, epoch := epoch }, showRelay (withBucket { num := b, epoch := epoch } s)) := by
  unfold needBucket
  rw [h] <;> rfl

/-- The entry that a bucket needs is there, and its number is the bucket's. -/
theorem needBucket_spec (b epoch : Nat) (s : State) :
    let r := needBucket b epoch s
    bucketAt b r.2 = some r.1 ∧ r.1.num = b ∧ r.2.mem = s.mem := by
  cases h : bucketAt b s with
  | some k =>
    have hgo : needBucket b epoch s = (k, s) := by
      unfold needBucket
      rw [h]
    rw [hgo]
    exact ⟨h, bucketAt_num h, rfl⟩
  | none =>
    have hshow := (showRelay_spec (withBucket { num := b, epoch := epoch } s)).1
    have hfound : bucketAt b (withBucket { num := b, epoch := epoch } s) = some { num := b, epoch := epoch } := by
      change List.find? (fun k => k.num == b) (s.relay.buckets ++ [({ num := b, epoch := epoch } : Bucket)]) = _
      rw [List.find?_append, show List.find? (fun k => k.num == b) s.relay.buckets = none from h, Option.none_or]
      exact List.find?_cons_of_pos (p := fun k : Bucket => k.num == b) (beq_self_eq_true b)
    have hmem : (withBucket { num := b, epoch := epoch } s).mem = s.mem := rfl
    rw [needBucket_of_none h]
    generalize withBucket { num := b, epoch := epoch } s = w at hshow hfound hmem ⊢
    generalize showRelay w = t at hshow ⊢
    exact ⟨(bucketAt_congr (congrArg State.relay hshow :) b).trans hfound, rfl, (congrArg State.mem hshow :).trans hmem⟩

/-- An entry that is written again is found as written. -/
theorem bucketAt_setBucket {b : Nat} {s : State} {k k' : Bucket} (h : bucketAt b s = some k) (hn : k'.num = b) : bucketAt b (setBucket k' s) = some k' := by
  unfold bucketAt setBucket at *
  dsimp only
  generalize s.relay.buckets = l at h ⊢
  induction l with
  | nil => simp at h
  | cons x l ih =>
    by_cases hx : x.num = b
    · rw [List.map_cons, if_pos (hx.trans hn.symm)]
      exact List.find?_cons_of_pos (beq_iff_eq.mpr hn)
    · rw [List.find?_cons_of_neg (by simpa using hx)] at h
      rw [List.map_cons, if_neg (fun e => hx (e.trans hn)), List.find?_cons_of_neg (by simpa using hx)]
      exact ih h

/-- The relay's books without a bucket. -/
def withoutBucket (b : Nat) (s : State) : State :=
  { s with relay := { s.relay with
    buckets := s.relay.buckets.filter (fun k => k.num != b), reorder := s.relay.reorder.erase b, past := (b :: s.relay.past).take 256 } }

/-- A bucket that is closed has no entry, and all else is as it was. -/
theorem closeBucket_spec (b : Nat) (s : State) :
    let t := closeBucket b s
    bucketAt b t = none ∧ t.relay.reorder = s.relay.reorder.erase b ∧ t.mem = s.mem ∧ t.markers = s.markers ∧ t.started = s.started ∧
    ∀ o, o ≠ R.RLY_OPEN → rget o t = rget o s := by
  intro t
  have ht : t = showRelay (withoutBucket b s) := rfl
  clear_value t
  have hnone : bucketAt b (withoutBucket b s) = none := by
    change List.find? (fun k => k.num == b) (s.relay.buckets.filter (fun k => k.num != b)) = none
    rw [List.find?_eq_none]
    intro k hk
    simpa using (List.mem_filter.mp hk).2
  have hw : (withoutBucket b s).relay.reorder = s.relay.reorder.erase b ∧ (withoutBucket b s).mem = s.mem ∧ (withoutBucket b s).markers = s.markers ∧
      (withoutBucket b s).started = s.started ∧ ∀ o, rget o (withoutBucket b s) = rget o s := ⟨rfl, rfl, rfl, rfl, fun _ => rfl⟩
  generalize withoutBucket b s = w at hnone hw ht
  obtain ⟨hframe, hregs⟩ := showRelay_spec w
  rw [← ht] at hframe hregs
  obtain ⟨hreorder, hmem, hmark, hstart, hall⟩ := hw
  have hrelay : t.relay = w.relay := (congrArg State.relay hframe :)
  exact ⟨(bucketAt_congr hrelay b).trans hnone, by rw [hrelay, hreorder], (congrArg State.mem hframe :).trans hmem, (congrArg State.markers hframe :).trans hmark,
    (congrArg State.started hframe :).trans hstart, fun o ho => (hregs o ho).trans (hall o)⟩

theorem startedAt_of_reduceOf {k : Bucket} {s : State} {x : Started} {r : RD} (h : reduceOf k s = some (x, r)) : startedAt x.id s = some x := by
  unfold reduceOf at h
  split at h
  · cases h
  · obtain ⟨y, hy, he⟩ := Option.map_eq_some_iff.mp h
    obtain rfl : y = x := congrArg Prod.fst he
    have hspec := runningCmd_spec hy
    rw [hspec.2.1]
    exact hspec.1

/-! ### REDUCE -/

/-- Has the number of a bucket a REDUCE already? -/
def bucketTaken (b : Nat) (s : State) : Bool := match bucketAt b s with | some k => k.c.isSome | none => false

theorem bucketTaken_eq_false {b : Nat} {s : State} : bucketTaken b s = false ↔ ∀ k, bucketAt b s = some k → k.c = none := by
  unfold bucketTaken
  cases bucketAt b s with
  | none => simp
  | some k => simp

/-- What a REDUCE whose bucket is its own goes on to. -/
def reduceOpened (c : Nat) (r : RD) (k : Bucket) (t : State) : State :=
  if k.lost.isSome then failReduce { k with c := some c } 0x0191 (k.lost.getD 0) t
  else if k.cut then applyCut r.bucket t
  else if r.named.isEmpty then tryReport r.bucket (readSources r.bucket t)
  else t

theorem reduceRun_fresh {c : Nat} {s : State} {x : Started} (hx : runningCmd c .reduce s = some x) (hb : x.begun = false) :
    let r := RD.parse x.bytes s
    let k := needBucket r.bucket (epochOf x.bytes) (reopen r.bucket s)
    let mine := setProg c 0 (setBucket { k.1 with c := some c, epoch := epochOf x.bytes } k.2)
    reduceRun c s = if bucketTaken r.bucket s then failCmd c bRLY 0x01A0 0 s else if r.g.absent s then failCmd c bRLY 0x01A3 0 s
      else reduceOpened c r k.1 mine := by
  unfold reduceRun
  rw [hx]
  dsimp only
  rw [hb, if_neg Bool.false_ne_true] <;> rfl

theorem reduceOpened_cases (c : Nat) (r : RD) (k : Bucket) (t : State) :
    (∀ p, k.lost = some p → reduceOpened c r k t = failReduce { k with c := some c } 0x0191 p t) ∧
    (k.lost = none → k.cut = true → reduceOpened c r k t = applyCut r.bucket t) ∧
    (k.lost = none → k.cut = false → r.named = [] → reduceOpened c r k t = tryReport r.bucket (readSources r.bucket t)) ∧
    (k.lost = none → k.cut = false → r.named ≠ [] → reduceOpened c r k t = t) := by
  unfold reduceOpened
  refine ⟨fun p h => ?_, fun h hc => ?_, fun h hc hn => ?_, fun h hc hn => ?_⟩
  · rw [h]
    rfl
  · rw [h, Option.isSome_none, if_neg Bool.false_ne_true, if_pos hc]
  · rw [h, Option.isSome_none, if_neg Bool.false_ne_true, hc, if_neg Bool.false_ne_true, if_pos (List.isEmpty_iff.mpr hn)]
  · rw [h, Option.isSome_none, if_neg Bool.false_ne_true, hc, if_neg Bool.false_ne_true, if_neg (mt List.isEmpty_iff.mp hn)]

/-- A REDUCE that opens its bucket holds the entry, and leaves memory as it was. -/
theorem reduceMine_spec (c b epoch : Nat) (s : State) :
    let k := needBucket b epoch (reopen b s)
    let mine := setProg c 0 (setBucket { k.1 with c := some c, epoch := epoch } k.2)
    mine.mem = s.mem ∧ bucketAt b mine = some { k.1 with c := some c, epoch := epoch } := by
  intro k mine
  obtain ⟨hat, hnum, hmem⟩ := needBucket_spec b epoch (reopen b s)
  exact ⟨hmem, bucketAt_setBucket (k' := { k.1 with c := some c, epoch := epoch }) hat hnum⟩

theorem reduceRun_begun {c : Nat} {s : State} {x : Started} (hx : runningCmd c .reduce s = some x) (hb : x.begun = true) :
    let r := RD.parse x.bytes s
    let t := flushContribs r.bucket s
    (bucketAt r.bucket t = none → reduceRun c s = t) ∧ (∀ k, bucketAt r.bucket t = some k → reduceRun c s = reduceDone x r k t) := by
  unfold reduceRun
  rw [hx]
  dsimp only
  rw [hb, if_pos rfl]
  generalize flushContribs (RD.parse x.bytes s).bucket s = t
  exact ⟨fun h => by rw [h], fun k h => by rw [h]⟩

theorem reduceDone_cases {x : Started} {r : RD} {k : Bucket} {s : State} {own : Rep} {up : Nat × Nat} (hown : k.own = some own)
    (hup : r.g.parent (me s) = some up) :
    let f := foldReports own k.reports
    let sent := k.scale ≠ none ∧ k.outbox = [] ∧ k.unacked = [] ∧ quiet 2 k.marks s = true ∧ (f.count = 0 ∨ ∀ j < chunksOf r.n, j ∈ k.chunks) ∧
      (r.forwards s = true → ∀ ci ∈ setPositions 16 f.mask, ∀ j < chunksOf r.n, (ci, j) ∈ k.taken)
    (sent → reduceDone x r k s = markDone x.id (closeBucket k.num s)) ∧ (¬ sent → reduceDone x r k s = s) := by
  intro f sent
  have hcond : (k.scale.isSome && k.outbox.isEmpty && k.unacked.isEmpty && quiet 2 k.marks s &&
      (f.count == 0 || (List.range (chunksOf r.n)).all (fun j => k.chunks.contains j)) &&
      (!r.forwards s || (setPositions 16 f.mask).all (fun ci => (List.range (chunksOf r.n)).all (fun j => k.taken.contains (ci, j))))) = true ↔ sent := by
    simp only [Bool.and_eq_true, Bool.or_eq_true, Bool.not_eq_true', Option.isSome_iff_ne_none, List.isEmpty_iff, beq_iff_eq, List.all_eq_true, List.mem_range,
      List.contains_eq_mem, decide_eq_true_eq, and_assoc, sent, ← Bool.not_eq_true, imp_iff_not_or]
  unfold reduceDone
  rw [hown, hup]
  exact ⟨fun h => if_pos (hcond.mpr h), fun h => if_neg (mt hcond.mp h)⟩

theorem sourcesReady_of {c : Nat} {s : State} {x : Started} (hx : runningCmd c .reduce s = some x) :
    let r := RD.parse x.bytes s
    sourcesReady c s = if x.begun && r.ready s then tryReport r.bucket (readSources r.bucket s) else s := by
  unfold sourcesReady
  rw [hx]

/-! ### Application (R270, R271) -/

/-- The bucket of a REDUCE is applied: its patch is made, its marker adds 1, and the bucket is closed. -/
def applied (b : Nat) (x : Started) (r : RD) (p : Nat) (t : State) : State :=
  let t := markerInc r.done 1 t
  markDone x.id (rcount R.RLY_APPLIED (closeBucket b (if p < r.nexp then addFlags x.id 32 t else t)))

/-- The patch of a bucket (R271). -/
def patched (r : RD) (sc : Int) (p : Nat) (s : State) : State := poke (r.patch + 24) (leBytes 4 p) (poke (r.patch + 19) (leBytes 1 (unsigned 8 sc)) s)

theorem bucketApply_cases {s : State} {b : Nat} {k : Bucket} {x : Started} {r : RD} {sc : Int} {p : Nat} (hb : nextApply s = some b) (hk : bucketAt b s = some k)
    (hr : reduceOf k s = some (x, r)) (hsc : k.scale = some (sc, p)) :
    (r.patch = 0 → bucketApply s = applied b x r p s) ∧
    (r.patch ≠ 0 → bankHolds r.patch 32 s = true → bucketApply s = s) ∧
    (r.patch ≠ 0 → bankHolds r.patch 32 s = false →
      (∀ e, firstUnreached s (r.patch + 19) 9 = some e → bucketApply s = failReduce k (reachCause s e) 0 (captureReach e s)) ∧
      (firstUnreached s (r.patch + 19) 9 = none → bucketApply s = applied b x r p (patched r sc p s))) := by
  unfold bucketApply
  rw [hb]
  dsimp only
  rw [hk]
  dsimp only
  rw [hr, hsc]
  dsimp only
  refine ⟨fun h => ?_, fun h hh => ?_, fun h hh => ⟨fun e he => ?_, fun he => ?_⟩⟩
  · rw [h, bne_self_eq_false, Bool.false_and, if_neg Bool.false_ne_true, if_pos rfl]
    rfl
  · rw [bne_iff_ne.mpr h, hh]
    exact if_pos rfl
  · rw [hh, Bool.and_false, if_neg Bool.false_ne_true, if_neg h, he]
  · rw [hh, Bool.and_false, if_neg Bool.false_ne_true, if_neg h, he, if_neg h]
    rfl

/-- What the application of a bucket without a patch does. -/
theorem applied_spec {b : Nat} {x : Started} {r : RD} {p : Nat} {s : State} (hx : startedAt x.id s = some x) :
    let t := applied b x r p s
    rget R.RLY_APPLIED t = (rget R.RLY_APPLIED s + 1) % 2 ^ 32 ∧ (∃ y, startedAt x.id t = some y ∧ y.state = .done) ∧
    bucketAt b t = none ∧ t.relay.reorder = s.relay.reorder.erase b ∧ t.mem = s.mem ∧
    ∀ n, markerCount n t = if n = r.done then (markerCount n s + 1) % 2 ^ 32 else markerCount n s := by
  intro t
  obtain ⟨⟨rg, o, pc, hput⟩, hregs⟩ := markerPut_frame s r.done (markerCount r.done s + 1)
  have hcount := fun n => markerCount_markerPut s r.done (markerCount r.done s + 1) n
  have happlied : rget R.RLY_APPLIED (markerPut r.done (markerCount r.done s + 1) s) = rget R.RLY_APPLIED s :=
    hregs _ (fun i hi => by simp only [R.RLY_APPLIED, R.QFE_MARM, numArms] at *; omega)
  have ht : t = markDone x.id (rcount R.RLY_APPLIED (closeBucket b (if p < r.nexp then addFlags x.id 32 (markerPut r.done (markerCount r.done s + 1) s)
      else markerPut r.done (markerCount r.done s + 1) s))) := rfl
  have hstarted : (markerPut r.done (markerCount r.done s + 1) s).started = s.started := started_markerPut ..
  have hmem : (markerPut r.done (markerCount r.done s + 1) s).mem = s.mem := by rw [hput]
  have hrelay : (markerPut r.done (markerCount r.done s + 1) s).relay = s.relay := by rw [hput]
  have hx' : startedAt x.id (markerPut r.done (markerCount r.done s + 1) s) = some x := by
    unfold startedAt at hx ⊢
    rw [hstarted]
    exact hx
  clear hput
  generalize markerPut r.done (markerCount r.done s + 1) s = w at *
  have hflag : ∃ y v, v = (if p < r.nexp then addFlags x.id 32 w else w) ∧ startedAt x.id v = some y ∧ v.mem = s.mem ∧ v.relay = s.relay ∧ v.markers = w.markers ∧
      v.regs = w.regs := by
    by_cases hp : p < r.nexp
    · exact ⟨_, _, (if_pos hp).symm, startedAt_updStarted (f := fun y => { y with flags := y.flags ||| 32 }) (fun _ => rfl) hx', hmem, hrelay, rfl, rfl⟩
    · exact ⟨_, _, (if_neg hp).symm, hx', hmem, hrelay, rfl, rfl⟩
  obtain ⟨y, v, hv, hy, hvmem, hvrelay, hvmark, hvregs⟩ := hflag
  rw [ht, ← hv]
  obtain ⟨hnone, hreorder, hcmem, hcmark, hcstart, hcregs⟩ := closeBucket_spec b v
  have hcy : startedAt x.id (closeBucket b v) = some y := by
    unfold startedAt at hy ⊢
    rw [hcstart]
    exact hy
  have happ : rget R.RLY_APPLIED (closeBucket b v) = rget R.RLY_APPLIED s := ((hcregs _ (by decide)).trans (rget_congr hvregs _)).trans happlied
  generalize closeBucket b v = z at hnone hreorder hcmem hcmark hcy happ ⊢
  have hdone : startedAt x.id (markDone x.id (rcount R.RLY_APPLIED z)) = some { y with state := .done } := startedAt_markDone (x := y) hcy
  refine ⟨?_, ⟨_, hdone, rfl⟩, hnone, hreorder.trans (by rw [hvrelay]), hcmem.trans hvmem, fun n => ?_⟩
  · rw [← happ]
    exact rget_rset_self ..
  · have hn : markerCount n (markDone x.id (rcount R.RLY_APPLIED z)) = markerCount n w := congrArg (AL.get 0 n) (hcmark.trans hvmark)
    rw [hn, hcount]
    split
    case isTrue h => rw [h]
    case isFalse => rfl

theorem bucketApply_idle {s : State} (h : nextApply s = none ∨ ∃ b, nextApply s = some b ∧ (bucketAt b s = none ∨
    ∃ k, bucketAt b s = some k ∧ (reduceOf k s = none ∨ k.scale = none))) : bucketApply s = s := by
  unfold bucketApply
  rcases h with h | ⟨b, hb, h | ⟨k, hk, h | h⟩⟩
  · rw [h]
  · rw [hb]
    dsimp only
    rw [h]
  · rw [hb]
    dsimp only
    rw [hk]
    dsimp only
    rw [h]
  · rw [hb]
    dsimp only
    rw [hk]
    dsimp only
    rw [h]
    cases reduceOf k s <;> rfl

/-! ### Deadlines and EPOCH_FENCE (R273, R275) -/

/-- The expiry of a bucket's deadline is counted. -/
def deadlineNoted (b : Nat) (s : State) : State :=
  rsetBit R.RLY_EVT 0 (rcountSat R.RLY_CUTS { s with relay := { s.relay with timers := s.relay.timers.filter (fun t => t.1 != b) } })

theorem deadlineNoted_spec (b : Nat) (s : State) :
    let r := deadlineNoted b s
    Counted R.RLY_CUTS s r ∧ rbit R.RLY_EVT 0 r = true ∧ r.relay.timers = s.relay.timers.filter (fun t => t.1 != b) ∧
    { r with regs := s.regs, relay := s.relay } = s := by
  refine ⟨?_, rbit_rsetBit_self .., rfl, rfl⟩
  have hcount := counted_rcountSat { s with relay := { s.relay with timers := s.relay.timers.filter (fun t => t.1 != b) } } R.RLY_CUTS
  unfold deadlineNoted Counted rbits at *
  rw [rget_rsetBit_ne _ (by decide), hcount]
  rfl

theorem epochFenceRun_cases {c : Nat} {s : State} {x : Started} (hx : runningCmd c .epochFence s = some x) :
    (epochOf x.bytes = epochNow s → epochFenceRun c s = markDone c s) ∧
    (epochOf x.bytes ≠ epochNow s →
      let t := if x.begun then s else (openBuckets true s).foldl (fun t b => cutBucket b (epochNow t) t) (setProg c 0 s)
      (relayPending c t = true → epochFenceRun c s = t) ∧
      (relayPending c t = false → epochFenceRun c s =
        markDone c (rset R.RLY_EPOCH (epochOf x.bytes) { t with relay := { t.relay with past := [] } }))) := by
  unfold epochFenceRun
  rw [hx]
  dsimp only
  refine ⟨fun h => if_pos h, fun h => ?_⟩
  rw [if_neg h]
  generalize (if x.begun then s else (openBuckets true s).foldl (fun t b => cutBucket b (epochNow t) t) (setProg c 0 s)) = t
  exact ⟨fun h => if_pos h, fun h => if_neg (by rw [h]; exact Bool.false_ne_true)⟩

/-- Settles O49, from the opening of a bucket to its application, and the fence. -/
theorem reducesOpenReportAndApply : Obligations.ReducesOpenReportAndApply := by
  unfold Obligations.ReducesOpenReportAndApply
  refine ⟨fun c s x hx hb => ?fresh, fun c s x hx hb => ?begun, fun x r k s own up hown hup => reduceDone_cases hown hup, fun c s x hx => ?sources, fun r s hn => ?ready,
    fun s b k x r sc p hb hk hr hsc => ?apply, fun s h => congrArg Host.Outcome.next (bucketApply_idle h), fun b s v hv => ?deadline, fun b s h => ?noTimer, fun c s x hx => ?fence⟩
  case fresh =>
    intro r k mine free
    have hgo : exec (.reduce c) s = .next (if bucketTaken r.bucket s then failCmd c bRLY 0x01A0 0 s else if r.g.absent s then failCmd c bRLY 0x01A3 0 s
      else reduceOpened c r k.1 mine) := congrArg Host.Outcome.next (reduceRun_fresh hx hb)
    have hfree : free ↔ bucketTaken r.bucket s = false := bucketTaken_eq_false.symm
    rw [hgo]
    refine ⟨fun h => congrArg Host.Outcome.next (if_pos ?_), fun h ha => ?_, fun h ha => ?_⟩
    · exact (Bool.not_eq_false _).mp (mt hfree.mpr h)
    · rw [hfree.mp h, if_neg Bool.false_ne_true, if_pos ha]
    · rw [hfree.mp h, if_neg Bool.false_ne_true, ha, if_neg Bool.false_ne_true]
      obtain ⟨hlost, hcut, hnone, hsome⟩ := reduceOpened_cases c r k.1 mine
      exact ⟨fun p hp => congrArg Host.Outcome.next (hlost p hp), fun h₁ h₂ => congrArg Host.Outcome.next (hcut h₁ h₂),
        fun h₁ h₂ h₃ => congrArg Host.Outcome.next (hnone h₁ h₂ h₃),
        fun h₁ h₂ h₃ => ⟨congrArg Host.Outcome.next (hsome h₁ h₂ h₃), reduceMine_spec c r.bucket (epochOf x.bytes) s⟩⟩
  case begun =>
    obtain ⟨hnone, hsome⟩ := reduceRun_begun hx hb
    exact ⟨fun h => congrArg Host.Outcome.next (hnone h), fun k h => congrArg Host.Outcome.next (hsome k h)⟩
  case sources =>
    refine ⟨fun hb hr => congrArg Host.Outcome.next ((sourcesReady_of hx).trans (if_pos (by rw [hb, hr]; rfl))), fun h => ?_⟩
    refine congrArg Host.Outcome.next ((sourcesReady_of hx).trans (if_neg ?_))
    rcases h with h | h <;> simp [h]
  case ready =>
    have hempty : r.named.isEmpty = false := List.isEmpty_eq_false_iff.mpr hn
    rw [RD.ready, hempty, Bool.false_or, satisfied, decide_eq_true_eq]
  case apply =>
    obtain ⟨hplain, hheld, hpatch⟩ := bucketApply_cases hb hk hr hsc
    exact ⟨fun h => ⟨_, congrArg Host.Outcome.next (hplain h), applied_spec (startedAt_of_reduceOf hr)⟩, fun h hh => congrArg Host.Outcome.next (hheld h hh),
      fun h hh => ⟨fun e he => congrArg Host.Outcome.next ((hpatch h hh).1 e he), fun he => congrArg Host.Outcome.next ((hpatch h hh).2 he)⟩⟩
  case deadline =>
    refine ⟨deadlineNoted b.toNat s, congrArg Host.Outcome.next (?_ : deadlineExpiry b.toNat s = _), deadlineNoted_spec b.toNat s⟩
    unfold deadlineExpiry
    rw [hv] <;> rfl
  case noTimer =>
    refine congrArg Host.Outcome.next (?_ : deadlineExpiry b.toNat s = s)
    unfold deadlineExpiry
    rw [h]
  case fence =>
    obtain ⟨hsame, hother⟩ := epochFenceRun_cases hx
    exact ⟨fun h => congrArg Host.Outcome.next (hsame h), fun h =>
      ⟨fun hp => congrArg Host.Outcome.next ((hother h).1 hp), fun hp => congrArg Host.Outcome.next ((hother h).2 hp)⟩⟩

end Sys2Proof.Machine
end
section
/-! Formation, heartbeats and failures (R283 to R286, R298, R300): what each message between the modules of a domain does, and the
statement about them. -/

namespace Sys2Proof.Machine
open Sys2Proof

/-! ### Formation (R283, R284) -/

/-- The registers that formation shows. -/
def formedRegs (s : State) : State :=
  rsetBit R.KPR_EVT 0 (rsetBit R.HIF_BOOT 12 (rsetBit R.KPR_STAT 4 { s with keeper := { s.keeper with forming := false } }))

theorem formationDone_spec {s : State} (h : rbit R.KPR_STAT 4 s = false) :
    let t := formationDone s
    rbit R.KPR_STAT 4 t = true ∧ rbit R.KPR_EVT 0 t = true ∧ rbit R.HIF_BOOT 12 t = true ∧ t.keeper = { s.keeper with forming := false } ∧
    OnlyRegsAndIrq [R.KPR_STAT, R.KPR_EVT, R.HIF_BOOT] { s with keeper := t.keeper } t := by
  have hgo : formationDone s = raiseVector 135 (formedRegs s) := if_neg (by rw [h]; exact Bool.false_ne_true)
  obtain ⟨o, pc, hv⟩ := raiseVector_frame (formedRegs s) 135
  have hstat : rbit R.KPR_STAT 4 (formedRegs s) = true :=
    (rbit_of_rget ((rget_rsetBit_ne _ (by decide) 0).trans (rget_rsetBit_ne _ (by decide) 12))).trans (rbit_rsetBit_self ..)
  have hboot : rbit R.HIF_BOOT 12 (formedRegs s) = true := (rbit_of_rget (rget_rsetBit_ne _ (by decide) 0)).trans (rbit_rsetBit_self ..)
  intro t
  have ht : t = { formedRegs s with out := o, pcie := pc } := hgo.trans hv
  rw [ht]
  refine ⟨hstat, rbit_rsetBit_self .., hboot, rfl, rfl, fun a ha => ?_⟩
  simp only [List.mem_cons, List.not_mem_nil, or_false, not_or] at ha
  exact ((rget_rsetBit_ne _ ha.2.1 0).trans (rget_rsetBit_ne _ ha.2.2 12)).trans (rget_rsetBit_ne _ ha.1 4)

theorem formationEnd_idle {s : State} (h : isManager s = false ∨ s.keeper.forming = false ∨ rbit R.KPR_STAT 4 s = true) : formationEnd s = s := by
  unfold formationEnd
  rcases h with h | h | h
  · rw [h, Bool.false_and, if_neg Bool.false_ne_true]
  · rw [h, Bool.and_false, if_neg Bool.false_ne_true]
  · split
    · exact if_pos h
    · rfl

/-- A worker whose memories are ready answers JOIN by whether manager, stepping and firmware agree. -/
theorem joinIn_taken {p : Nat} {m : Msg} {s t : State} (hrel : s.boot.released = true) (hmem : memoriesReady s = true) (hm : isManager s = false)
    (ht : takeCtrl p 0x10 m s = some t) :
    let ok := u m.data 0 1 = myDom t ∧ u m.data 1 1 = managerDev t ∧ u m.data 2 1 = rbits R.HIF_IDENT 7 0 t ∧ u m.data 4 4 = t.naust.fwVersion
    (ok → joinIn p m s = sendCtrl 0x11 m.srcDom.toNat m.srcDev.toNat (joinData t)
      (rset R.KPR_PRESENT (rget R.KPR_EXPECT t) { t with keeper := { t.keeper with joined := true } })) ∧
    (¬ ok → joinIn p m s = sendCtrl 0x12 m.srcDom.toNat m.srcDev.toNat (joinData t) t) := by
  intro ok
  have hcond : (u m.data 0 1 == myDom t && u m.data 1 1 == managerDev t && u m.data 2 1 == rbits R.HIF_IDENT 7 0 t &&
      u m.data 4 4 == t.naust.fwVersion) = true ↔ ok := by
    simp only [Bool.and_eq_true, beq_iff_eq, and_assoc, ok]
  unfold joinIn
  rw [hrel, hmem, hm, ht]
  exact ⟨fun h => if_pos (hcond.mpr h), fun h => if_neg (mt hcond.mp h)⟩

theorem joinIn_unready {p : Nat} {m : Msg} {s : State} (h : s.boot.released = false ∨ memoriesReady s = false ∨ isManager s = true) : joinIn p m s = s := by
  refine if_pos ?_
  rcases h with h | h | h <;> simp [h]

/-- The manager with a device that has joined. -/
def withDevice (d : Nat) (t : State) : State :=
  let w := rsetBit R.KPR_PRESENT d (rclrBit R.KPR_FAILED d t)
  { w with keeper := { w.keeper with missed := w.keeper.missed.filter (fun x => x.1 != d) } }

/-- JOIN goes on to the devices behind one that has joined. -/
def joinsBehind (d : Nat) (y : State) : State :=
  ((List.range 64).filter (fun e => match secondHop e y with | some (v, _) => v == d | none => false)).foldl (fun t e => sendJoin e t) y

theorem joinedIn_taken {p : Nat} {m : Msg} {s t : State} (ht : takeCtrl p 0x11 m s = some t) :
    let d := m.srcDev.toNat
    let takes := isManager t = true ∧ expected d t = true ∧ m.srcDom.toNat = myDom t ∧ ¬ (rbit R.KPR_STAT 4 t = true ∧ jobState t ≠ 0)
    (takes → joinedIn p m s = if (joinsBehind d (withDevice d t)).keeper.forming && allJoined (joinsBehind d (withDevice d t))
      then formationDone (joinsBehind d (withDevice d t)) else joinsBehind d (withDevice d t)) ∧ (¬ takes → joinedIn p m s = t) := by
  intro d takes
  have hcond : (!isManager t || !expected d t || m.srcDom.toNat != myDom t || (rbit R.KPR_STAT 4 t && jobState t != 0)) = true ↔ ¬ takes := by
    simp only [Bool.or_eq_true, Bool.and_eq_true, Bool.not_eq_true', bne_iff_ne, takes, ← Bool.not_eq_true]
    tauto
  unfold joinedIn
  rw [ht]
  refine ⟨fun h => (if_neg fun hb => (hcond.mp hb) h).trans ?_, fun h => if_pos (hcond.mpr h)⟩
  rfl

theorem withDevice_spec (d : Nat) (t : State) :
    let y := withDevice d t
    present d y = true ∧ rbit R.KPR_FAILED d y = false ∧ { y with regs := t.regs, keeper := t.keeper } = t :=
  ⟨rbit_rsetBit_self R.KPR_PRESENT d (rclrBit R.KPR_FAILED d t),
    (rbit_of_rget (rget_rsetBit_ne (rclrBit R.KPR_FAILED d t) (show R.KPR_FAILED ≠ R.KPR_PRESENT by decide) d)).trans (rbit_rclrBit_self ..), rfl⟩

/-! ### Heartbeats and failures (R285, R298, R300) -/

theorem beatDevice_cases (s : State) (d : Nat) :
    (3 ≤ AL.get 0 d s.keeper.missed → beatDevice s d = deviceFailed d s) ∧
    (AL.get 0 d s.keeper.missed < 3 → ∃ r, beatDevice s d = sendCtrl 0x13 (myDom s) d (joinData s) r ∧
      AL.get 0 d r.keeper.missed = AL.get 0 d s.keeper.missed + 1 ∧ { r with keeper := s.keeper } = s) :=
  ⟨fun h => if_pos h, fun h => ⟨_, if_neg (by omega),
    (show AL.get 0 d (AL.set 0 d (AL.get 0 d s.keeper.missed + 1) s.keeper.missed) = _ from AL.get_set_self ..), rfl⟩⟩

/-- The registers of a device that has failed. -/
def failedRegs (d : Nat) (s : State) : State := rsetBit R.KPR_EVT 1 (rclrBit R.KPR_PRESENT d (rsetBit R.KPR_FAILED d s))

theorem failedRegs_spec (d : Nat) (s : State) :
    present d (failedRegs d s) = false ∧ rbit R.KPR_FAILED d (failedRegs d s) = true ∧ rbit R.KPR_EVT 1 (failedRegs d s) = true ∧
    { failedRegs d s with regs := s.regs } = s ∧ ∀ o, o ∉ [R.KPR_PRESENT, R.KPR_FAILED, R.KPR_EVT] → rget o (failedRegs d s) = rget o s := by
  refine ⟨?_, ?_, rbit_rsetBit_self .., rfl, fun o ho => ?_⟩
  · exact (rbit_of_rget (rget_rsetBit_ne _ (by decide) 1)).trans (rbit_rclrBit_self R.KPR_PRESENT d _)
  · exact (rbit_of_rget ((rget_rsetBit_ne _ (by decide) 1).trans (rget_rclrBit_ne _ (by decide) d))).trans (rbit_rsetBit_self ..)
  · simp only [List.mem_cons, List.not_mem_nil, or_false, not_or] at ho
    exact ((rget_rsetBit_ne _ ho.2.2 1).trans (rget_rclrBit_ne _ ho.1 d)).trans (rget_rsetBit_ne _ ho.2.1 d)

theorem failOne_of_absent {s : State} {d : Nat} (h : present d s = false ∨ d = myDev s) : failOne d s = s := by
  refine if_pos ?_
  rcases h with h | h <;> simp [h]

/-- A present worker that fails leaves KPR_PRESENT, and an active job enters RECOVERING. -/
theorem failOne_of_present {s : State} {d : Nat} (hp : present d s = true) (hd : d ≠ myDev s) (hsnap : rbit R.KPR_CTL 1 s = false) :
    ∃ r, present d r = false ∧ rbit R.KPR_FAILED d r = true ∧ rbit R.KPR_EVT 1 r = true ∧ OnlyRegsAndIrq [R.KPR_PRESENT, R.KPR_FAILED, R.KPR_EVT] s r ∧
      (jobState s = 0 → failOne d s = r) ∧ (jobState s ≠ 0 → failOne d s = recovering (stopAll stJobFatal r)) := by
  obtain ⟨habsent, hfailed, hevt, hframe, hregs⟩ := failedRegs_spec d s
  have hgo : failOne d s = if jobState (snapOn R.KPR_CTL 1 5 bKPR (raiseVector 135 (failedRegs d s))) = 0
      then snapOn R.KPR_CTL 1 5 bKPR (raiseVector 135 (failedRegs d s))
      else recovering (stopAll stJobFatal (snapOn R.KPR_CTL 1 5 bKPR (raiseVector 135 (failedRegs d s)))) :=
    if_neg (by rw [hp, beq_eq_false_iff_ne.mpr hd]; exact Bool.false_ne_true)
  obtain ⟨o, pc, hv⟩ := raiseVector_frame (failedRegs d s) 135
  have hget := rget_raiseVector (failedRegs d s)
  generalize failedRegs d s = w at *
  have hnosnap : snapOn R.KPR_CTL 1 5 bKPR (raiseVector 135 w) = raiseVector 135 w := by
    refine if_neg ?_
    rw [rbit_raiseVector, rbit_of_rget (hregs _ (by decide)), hsnap]
    exact Bool.false_ne_true
  have hjob : jobState (raiseVector 135 w) = jobState s := congrArg (bits · 2 0) ((hget _ 135).trans (hregs _ (by decide)))
  rw [hnosnap, hjob] at hgo
  refine ⟨raiseVector 135 w, ?_, (rbit_raiseVector ..).trans hfailed, (rbit_raiseVector ..).trans hevt, ⟨?_, fun a ha => (hget a 135).trans (hregs a ha)⟩,
    fun h => hgo.trans (if_pos h), fun h => hgo.trans (if_neg h)⟩
  · exact (rbit_raiseVector R.KPR_PRESENT d 135 w).trans habsent
  · rw [hv]
    exact congrArg (fun x : State => { x with out := s.out, pcie := s.pcie }) hframe

/-- The standby as its manager has fallen silent. -/
def orphaned (s : State) : State :=
  { s with pcie := { s.pcie with training := true }, keeper := { s.keeper with missed := [], tookOver := true } }

/-- The standby as it takes the manager's role, before its predecessor has failed. -/
def takenOver (s : State) : State :=
  rsetBit R.HIF_BOOT 12 (rsetBit R.KPR_STAT 4 (rsetBit R.KPR_STAT 5
    (clearConfig (rset R.HIF_LINKSTAT 0 (orphaned s)))))

theorem takenOver_spec {s : State} (h : myDev s = standbyDev s) :
    let t := takenOver s
    isManager t = true ∧ rbit R.KPR_STAT 5 t = true ∧ t.pcie.training = true ∧ rget R.HIF_LINKSTAT t = 0 ∧ t.pcie.cfg = [] ∧ t.pcie.msix = [] ∧ t.mem = s.mem := by
  have hregs (o : Nat) (h₁ : o ≠ R.HIF_BOOT) (h₂ : o ≠ R.KPR_STAT) (h₃ : o ≠ R.HIF_LINKSTAT) : rget o (takenOver s) = rget o s :=
    (((rget_rsetBit_ne _ h₁ 12).trans (rget_rsetBit_ne _ h₂ 4)).trans (rget_rsetBit_ne _ h₂ 5)).trans (rget_rset_ne _ h₃ 0)
  have hcfg := hregs R.KPR_CFG (by decide) (by decide) (by decide)
  refine ⟨?_, ?_, rfl, ?_, rfl, rfl, rfl⟩
  · have hstandby : managerDev (takenOver s) = standbyDev (takenOver s) := if_pos rfl
    rw [isManager, hstandby, beq_iff_eq, myDev, standbyDev, rbits, rbits, hcfg]
    exact h
  · refine (rbit_of_rget (rget_rsetBit_ne _ (by decide) 12)).trans ?_
    rw [rbit_rsetBit, rbit_rsetBit_self, Bool.or_true]
  · have hdown : rget R.HIF_LINKSTAT (clearConfig (rset R.HIF_LINKSTAT 0 (orphaned s))) = 0 := rget_rset_self (orphaned s) R.HIF_LINKSTAT 0
    exact ((rget_rsetBit_ne _ (by decide) 12).trans ((rget_rsetBit_ne _ (by decide) 4).trans (rget_rsetBit_ne _ (by decide) 5))).trans hdown

theorem managerSilence_cases {s : State} (hm : isManager s = false) (hj : s.keeper.joined = true) :
    let r : State := { s with keeper := { s.keeper with tookOver := true } }
    (64 ≤ standbyDev s ∨ s.keeper.tookOver = true → managerSilence s = jobQueues.foldl (fun t q => queueDisable q t) s) ∧
    (standbyDev s < 64 → s.keeper.tookOver = false → myDev s ≠ standbyDev s → managerSilence s = loseJob r) ∧
    (standbyDev s < 64 → s.keeper.tookOver = false → myDev s = standbyDev s → managerSilence s = deviceFailed (managerDev s) (takenOver s)) := by
  have hgo : managerSilence s = if 64 ≤ standbyDev s ∨ s.keeper.tookOver = true then jobQueues.foldl (fun t q => queueDisable q t) s
      else if myDev s = standbyDev s then deviceFailed (managerDev s) (takenOver s) else loseJob { s with keeper := { s.keeper with tookOver := true } } :=
    if_neg (by rw [hm, hj]; exact Bool.false_ne_true)
  have hstay (h₁ : standbyDev s < 64) (h₂ : s.keeper.tookOver = false) : ¬ (64 ≤ standbyDev s ∨ s.keeper.tookOver = true) := by
    rw [h₂]
    rintro (h | h)
    · omega
    · exact Bool.false_ne_true h
  exact ⟨fun h => hgo.trans (if_pos h), fun h₁ h₂ h₃ => hgo.trans ((if_neg (hstay h₁ h₂)).trans (if_neg h₃)),
    fun h₁ h₂ h₃ => hgo.trans ((if_neg (hstay h₁ h₂)).trans (if_pos h₃))⟩

theorem loseJob_cases (s : State) : (jobState s = 0 ∨ jobState s = jobRecovering → loseJob s = s) ∧
    (jobState s ≠ 0 → jobState s ≠ jobRecovering → jobState (loseJob s) = jobRecovering ∧
      loseJob s = rsetBits R.KPR_STAT 2 0 jobRecovering (closeInterval 8 (stopAll stJobFatal s))) := by
  refine ⟨fun h => if_pos h, fun h₁ h₂ => ?_⟩
  have hgo : loseJob s = rsetBits R.KPR_STAT 2 0 jobRecovering (closeInterval 8 (stopAll stJobFatal s)) := if_neg (by tauto)
  exact ⟨by rw [hgo]; exact rbits_rsetBits_self _ R.KPR_STAT 2 0 jobRecovering (by decide), hgo⟩

/-! ### Messages that are not there -/

theorem domainCtrl_untaken {p : Port} {m : Msg} {s : State} {a : Nat × Instr}
    (ha : a ∈ [(0x10, Instr.join p m), (0x11, .joined p m), (0x12, .refuse p m), (0x13, .ping p m),
      (0x14, .mjoin p m), (0x15, .pong p m), (0x22, .down p m), (0x23, .fatal p m)])
    (ht : takeCtrl p.val a.1 m s = none) : exec a.2 s = .next s := by
  simp only [List.mem_cons, List.not_mem_nil, or_false] at ha
  rcases ha with rfl | rfl | rfl | rfl | rfl | rfl | rfl | rfl
  · refine congrArg Host.Outcome.next (?_ : joinIn p.val m s = s)
    unfold joinIn
    rw [ht, ite_self]
  · refine congrArg Host.Outcome.next (?_ : joinedIn p.val m s = s)
    unfold joinedIn
    rw [ht]
  · refine congrArg Host.Outcome.next (?_ : refuseIn p.val m s = s)
    unfold refuseIn
    rw [ht]
  · refine congrArg Host.Outcome.next (?_ : pingIn p.val m s = s)
    unfold pingIn
    rw [ht, ite_self]
  · refine congrArg Host.Outcome.next (?_ : mjoinIn p.val m s = s)
    unfold mjoinIn
    rw [ht, ite_self]
  · refine congrArg Host.Outcome.next (?_ : pongIn p.val m s = s)
    unfold pongIn
    rw [ht]
  · refine congrArg Host.Outcome.next (?_ : downIn p.val m s = s)
    unfold downIn
    rw [ht]
  · refine congrArg Host.Outcome.next (?_ : fatalIn p.val m s = s)
    unfold fatalIn
    rw [ht]

theorem mjoinIn_taken {p : Nat} {m : Msg} {s t : State} (hrel : s.boot.released = true) (ht : takeCtrl p 0x14 m s = some t) :
    mjoinIn p m s = if !isManager t then sendCtrl 0x14 (myDom t) (managerDev t) m.data t
      else if 10 < u m.data 0 1 ∨ rbit R.KPR_MACHINE (u m.data 0 1) t then t
      else sendCtrl 0x14 (u m.data 0 1) (u m.data 1 1) (joinData t) (showLead (rsetBit R.KPR_MACHINE (u m.data 0 1) t)) := by
  unfold mjoinIn
  rw [hrel, ht]
  rfl

theorem downIn_taken {p : Nat} {m : Msg} {s t : State} (ht : takeCtrl p 0x22 m s = some t) :
    downIn p m s = if !isManager t || u m.data 1 1 != myDom t then t
      else if u m.data 3 1 = 1 then deviceFailed (u m.data 0 1) t else routeLost (u m.data 0 1) (u m.data 2 1) t := by
  unfold downIn
  rw [ht]

theorem fatalIn_taken {p : Nat} {m : Msg} {s t : State} (ht : takeCtrl p 0x23 m s = some t) :
    fatalIn p m s = if isManager t then recovering (stopAll stJobFatal (raiseVector 130 t))
      else if m.srcDom.toNat = myDom t ∧ m.srcDev.toNat = managerDev t then loseJob t else t := by
  unfold fatalIn
  rw [ht]

/-- Settles O50, message by message and timer by timer. -/
theorem domainsFormAndNoteFailures : Obligations.DomainsFormAndNoteFailures := by
  unfold Obligations.DomainsFormAndNoteFailures
  refine ⟨fun p m s a ha ht => domainCtrl_untaken ha ht, fun s hm hf hs => ?formed, fun s h => congrArg Host.Outcome.next (formationEnd_idle h),
    fun p m s t hrel hmem hm ht => ?join, fun p m s h => congrArg Host.Outcome.next (joinIn_unready h), fun p m s t ht => ?joined, fun p m s t ht => ?refuse,
    fun p m s h => congrArg Host.Outcome.next (if_pos (by rw [h]; rfl)), fun p m s t hj ht => ?ping, fun p m s t ht => ?pong,
    fun p m s h => congrArg Host.Outcome.next (if_pos (by rw [h]; rfl)), fun p m s t hrel ht => ?mjoin, fun s hm hrel => ?heartbeat, beatDevice_cases,
    fun s d hd => ⟨failOne_of_absent, fun hp hne hs => failOne_of_present hp hne hs⟩, fun s h => ?noHeartbeat, fun s hm hj => ?silence, loseJob_cases,
    fun s h => ?noSilence, fun p m s t ht => ?down, fun p m s t ht => ?fatal⟩
  case formed =>
    exact ⟨_, congrArg Host.Outcome.next (if_pos (by rw [hm, hf]; rfl)), formationDone_spec hs⟩
  case join =>
    obtain ⟨hok, hbad⟩ := joinIn_taken hrel hmem hm ht
    exact ⟨fun h => congrArg Host.Outcome.next (hok h), fun h => congrArg Host.Outcome.next (hbad h)⟩
  case joined =>
    obtain ⟨htakes, hnot⟩ := joinedIn_taken ht
    obtain ⟨h₁, h₂, h₃⟩ := withDevice_spec m.srcDev.toNat t
    exact ⟨fun h => ⟨withDevice m.srcDev.toNat t, joinsBehind m.srcDev.toNat (withDevice m.srcDev.toNat t), h₁, h₂, h₃, rfl, congrArg Host.Outcome.next (htakes h)⟩,
      fun h => congrArg Host.Outcome.next (hnot h)⟩
  case refuse =>
    have hgo : refuseIn p.val m s = if isManager t then rsetBit R.KPR_EVT 2 t else t := by
      unfold refuseIn
      rw [ht]
    refine ⟨fun h => ⟨_, congrArg Host.Outcome.next (hgo.trans (if_pos h)), rbit_rsetBit_self .., rest_rset rfl .., fun o ho => rget_rsetBit_ne _ (by simpa using ho) 2⟩,
      fun h => congrArg Host.Outcome.next (hgo.trans (if_neg (by rw [h]; exact Bool.false_ne_true)))⟩
  case ping =>
    refine congrArg Host.Outcome.next (?_ : pingIn p.val m s = _)
    unfold pingIn
    rw [hj, ht]
    rfl
  case pong =>
    have hgo : pongIn p.val m s = { t with keeper := { t.keeper with missed := AL.set 0 m.srcDev.toNat 0 t.keeper.missed } } := by
      unfold pongIn
      rw [ht]
    exact ⟨_, congrArg Host.Outcome.next hgo, (show AL.get 0 m.srcDev.toNat (AL.set 0 m.srcDev.toNat 0 t.keeper.missed) = 0 from AL.get_set_self ..),
      fun d hd => (show AL.get 0 d (AL.set 0 m.srcDev.toNat 0 t.keeper.missed) = _ from AL.get_set_ne _ _ hd _ _), rfl⟩
  case mjoin =>
    have hgo := mjoinIn_taken hrel ht
    refine ⟨fun h => congrArg Host.Outcome.next (hgo.trans (if_pos (by rw [h]; rfl))), fun h h₁ h₂ => congrArg Host.Outcome.next (hgo.trans ((if_neg ?_).trans (if_neg ?_))),
      fun h h₁ => congrArg Host.Outcome.next (hgo.trans ((if_neg ?_).trans (if_pos h₁)))⟩
    · rw [h]
      exact Bool.false_ne_true
    · rw [h₂]
      rintro (h | h)
      · omega
      · exact Bool.false_ne_true h
    · rw [h]
      exact Bool.false_ne_true
  case heartbeat => exact congrArg Host.Outcome.next (if_neg (by rw [hm, hrel]; exact Bool.false_ne_true))
  case noHeartbeat =>
    refine congrArg Host.Outcome.next (if_pos ?_)
    rcases h with h | h <;> simp [h]
  case silence =>
    obtain ⟨hnone, hother, hself⟩ := managerSilence_cases hm hj
    exact ⟨fun h => congrArg Host.Outcome.next (hnone h), fun h₁ h₂ h₃ => congrArg Host.Outcome.next (hother h₁ h₂ h₃),
      fun h₁ h₂ h₃ => ⟨takenOver s, congrArg Host.Outcome.next (hself h₁ h₂ h₃), takenOver_spec h₃⟩⟩
  case noSilence =>
    refine congrArg Host.Outcome.next (if_pos ?_)
    rcases h with h | h <;> simp [h]
  case down =>
    have hgo := downIn_taken ht
    have hon (hm : isManager t = true) (hd : u m.data 1 1 = myDom t) : ¬ (!isManager t || u m.data 1 1 != myDom t) = true := by
      rw [hm, hd, bne_self_eq_false]
      exact Bool.false_ne_true
    refine ⟨fun h => congrArg Host.Outcome.next (hgo.trans (if_pos ?_)), fun h₁ h₂ h₃ => congrArg Host.Outcome.next (hgo.trans ((if_neg (hon h₁ h₂)).trans (if_pos h₃))),
      fun h₁ h₂ h₃ => congrArg Host.Outcome.next (hgo.trans ((if_neg (hon h₁ h₂)).trans (if_neg h₃)))⟩
    rcases h with h | h <;> simp [h]
  case fatal =>
    have hgo := fatalIn_taken ht
    have hnot (h : isManager t = false) : ¬ isManager t = true := by rw [h]; exact Bool.false_ne_true
    exact ⟨fun h => congrArg Host.Outcome.next (hgo.trans (if_pos h)),
      fun h h₁ => congrArg Host.Outcome.next (hgo.trans ((if_neg (hnot h)).trans (if_neg (not_and_or.mpr h₁)))),
      fun h h₁ h₂ => congrArg Host.Outcome.next (hgo.trans ((if_neg (hnot h)).trans (if_pos ⟨h₁, h₂⟩)))⟩

end Sys2Proof.Machine
end
section
/-! Job control (R275, R287 to R297, R299): commands on KQ0 or handed on, layouts and their shares, suspension and resumption, and
the steps of RESHARD, REMAP and CHECKPOINT. -/

namespace Sys2Proof.Machine
open Sys2Proof

/-! ### Where a command runs (R286, R287) -/

theorem jobRun_cases (o : Op) (run : Started → State → State) (s : State) :
    (∀ c, runningCmd c o s = none → jobRun o (.started c) run s = s) ∧
    (∀ c x, runningCmd c o s = some x → jobRun o (.started c) run s = run x s) ∧
    (∀ h, (takesHanded s = false ∨ opOfBytes h ≠ some o) → jobRun o (.handed h) run s = s) ∧
    (∀ h, takesHanded s = true → opOfBytes h = some o → let y := handedCmd h s
      jobRun o (.handed h) run s = noteLead (dropHanded y.1.id (run y.1 y.2))) := by
  unfold jobRun
  refine ⟨fun c h => ?_, fun c x h => ?_, fun h hb => if_pos ?_, fun h ht ho => if_neg ?_⟩
  · dsimp only
    rw [h]
  · dsimp only
    rw [h]
  · rcases hb with hb | hb <;> simp [hb]
  · rw [ht, ho, bne_self_eq_false]
    exact Bool.false_ne_true

theorem takesHanded_spec (s : State) : (isManager s = false → takesHanded s = s.keeper.joined) ∧
    (isManager s = true → takesHanded s = (decide (1 < popCount 11 (rbits R.KPR_MACHINE 10 0 s)) && !rbit R.KPR_STAT 6 s)) := by
  unfold takesHanded otherLeads
  refine ⟨fun h => if_neg (by rw [h]; exact Bool.false_ne_true), fun h => (if_pos h).trans ?_⟩
  rw [h, Bool.true_and]

/-- A job-control command runs as its own function says, wherever it comes from. -/
theorem jobRun_exec {i : JobCmd → Instr} {o : Op} {run : Started → State → State} (hi : ∀ j s, exec (i j) s = .next (jobRun o j run s)) (s : State) :
    (∀ c, runningCmd c o s = none → exec (i (.started c)) s = .next s) ∧
    (∀ c x, runningCmd c o s = some x → exec (i (.started c)) s = .next (run x s)) ∧
    (∀ h, (takesHanded s = false ∨ opOfBytes h ≠ some o) → exec (i (.handed h)) s = .next s) ∧
    (∀ h, takesHanded s = true → opOfBytes h = some o → let y := handedCmd h s
      exec (i (.handed h)) s = .next (noteLead (dropHanded y.1.id (run y.1 y.2)))) ∧
    (isManager s = false → takesHanded s = s.keeper.joined) ∧
    (isManager s = true → takesHanded s = (decide (1 < popCount 11 (rbits R.KPR_MACHINE 10 0 s)) && !rbit R.KPR_STAT 6 s)) := by
  obtain ⟨hnone, hrun, hnot, hhanded⟩ := jobRun_cases o run s
  exact ⟨fun c h => (hi _ s).trans (congrArg Host.Outcome.next (hnone c h)), fun c x h => (hi _ s).trans (congrArg Host.Outcome.next (hrun c x h)),
    fun h hb => (hi _ s).trans (congrArg Host.Outcome.next (hnot h hb)), fun h ht ho => (hi _ s).trans (congrArg Host.Outcome.next (hhanded h ht ho)), takesHanded_spec s⟩

/-- A manager that another leads refuses job control on its own KQ0 while the lead's job is active. -/
theorem stateCause_elsewhere {s : State} (hm : isManager s = true) (hpop : 1 < popCount 11 (rbits R.KPR_MACHINE 10 0 s)) (hlead : rbit R.KPR_STAT 6 s = false)
    (hjob : s.keeper.leadJob ≠ 0) (hsame : s.keeper.leadJob = rget R.QFE_JOB s) {c : Nat} {f : Flight} {b : Bytes} {o : Op}
    (ho : o ∈ [Op.jobStart, .jobSuspend, .jobResume, .jobRelease, .jobEnd, .reshard, .remap, .checkpoint, .meterCollect])
    (hf : f.jobTag = rget R.QFE_JOB s) : stateCause c f o b s = some 0x0006 := by
  have helse : jobElsewhere s = true := by
    rw [jobElsewhere, otherLeads, hm, decide_eq_true hpop, hlead, bne_iff_ne.mpr hjob, hsame]
    exact beq_self_eq_true _
  have hkind : slotsNamed o b = [] ∧ isRelayOp o = false ∧ isCodecOp o = false ∧ isBankOp o = false ∧ isJobOp o = true ∧ (o != .snapFetch) = true := by
    simp only [List.mem_cons, List.not_mem_nil, or_false] at ho
    rcases ho with rfl | rfl | rfl | rfl | rfl | rfl | rfl | rfl | rfl <;> exact ⟨rfl, rfl, rfl, rfl, rfl, rfl⟩
  obtain ⟨hslots, hrelay, hcodec, hbank, hop, hfetch⟩ := hkind
  unfold stateCause
  rw [if_neg (not_not.mpr hf), hslots, hrelay, hcodec, hbank, hop, hfetch, helse]
  rw [List.any_nil, Bool.false_and, Bool.false_and, Bool.false_and, Bool.false_and, Bool.false_and, if_neg Bool.false_ne_true, if_neg Bool.false_ne_true, if_neg Bool.false_ne_true,
    if_neg Bool.false_ne_true, Bool.true_and, Bool.true_and, Bool.true_and, Bool.or_true, if_pos rfl]

/-! ### Layouts (R288 to R293) -/

theorem layFails_none {b : Bytes} {s t : State} (h : layFails b s = (none, t)) : t = s := by
  unfold layFails at h
  dsimp only at h
  split at h
  · exact (Prod.ext_iff.mp h).2.symm
  · split at h
    · cases (Prod.ext_iff.mp h).1
    · split at h
      · cases (Prod.ext_iff.mp h).1
      · split at h
        · cases (Prod.ext_iff.mp h).1
        · exact (Prod.ext_iff.mp h).2.symm

theorem changeJob_spec {cause tag job : Nat} {s : State} (hjob : job < 8) :
    rget R.QFE_JOB (changeJob cause tag job s) = tag ∧ jobState (changeJob cause tag job s) = job := by
  unfold changeJob setJob
  generalize closeInterval cause s = t
  refine ⟨(rget_rsetBits_ne _ (by decide) _ _ _).trans (rget_rset_self ..), (rbits_rsetBits_self _ R.KPR_STAT 2 0 job (by decide)).trans (Nat.mod_eq_of_lt hjob)⟩

theorem length_table (x : Lay) (runs : List (Nat × Nat × Nat)) : (x.table runs).length = 4096 := by
  have hentry (d : Nat) : (x.entry runs d).length = 64 := length_padTo 64 _
  rw [Lay.table, List.length_flatMap, show (fun d => (x.entry runs d).length) = fun _ => 64 from funext hentry, List.map_const', List.sum_replicate, List.length_range]
  rfl

theorem putLayout_spec (b : Bytes) (runs : List (Nat × Nat × Nat)) (s : State) : (putLayout b runs s).keeper.layout = layNamed b s ∧
    (putLayout b runs s).keeper.runs = runs ∧ (isManager s = false → { putLayout b runs s with keeper := s.keeper } = s) ∧
    (isManager s = true → layAddr b + 64 * 65 ≤ stackedEnd → ∀ a, byteAt a (putLayout b runs s) =
      if layAddr b + 64 ≤ a ∧ a < layAddr b + 64 * 65 then ((Lay.parse (readBytes s (layAddr b) 64)).table runs).getD (a - (layAddr b + 64)) 0
      else byteAt a s) := by
  refine ⟨rfl, rfl, fun h => ?_, fun h hmem a => ?_⟩
  · unfold putLayout
    rw [h]
    rfl
  · have hraw : layNamed b s = readBytes s (layAddr b) 64 := by rw [layNamed, layPlace, if_pos h]
    have hlen := length_table (Lay.parse (readBytes s (layAddr b) 64)) runs
    have hbyte : byteAt a (putLayout b runs s) =
        byteAt a (if isManager s then poke (layAddr b + 64) ((Lay.parse (layNamed b s)).table runs) s else s) := rfl
    rw [if_pos h, hraw] at hbyte
    generalize (Lay.parse (readBytes s (layAddr b) 64)).table runs = tbl at hlen hbyte ⊢
    have hend : layAddr b + 64 + tbl.length = layAddr b + 64 * 65 := by omega
    rw [hbyte, (poke_of_inMemory (a := layAddr b + 64) (b := tbl) (.inl (by omega)) s).1 a, hend]

/-- First item behind those of the first m coordinates (R291). -/
def sharesEnd (n k m : Nat) : Nat := if m ≤ n % k then m * (n / k + 1) else n % k * (n / k + 1) + (m - n % k) * (n / k)

theorem divideItems_start (n k c : Nat) : (divideItems n k c).1 = sharesEnd n k c ∧ sharesEnd n k (c + 1) = sharesEnd n k c + (divideItems n k c).2 := by
  unfold divideItems sharesEnd
  dsimp only
  by_cases h : c < n % k
  · rw [if_pos h, if_pos (show c ≤ n % k by omega), if_pos (show c + 1 ≤ n % k by omega)]
    exact ⟨rfl, Nat.succ_mul ..⟩
  · rw [if_neg h, if_neg (show ¬ c + 1 ≤ n % k by omega)]
    by_cases hc : c = n % k
    · rw [if_pos (show c ≤ n % k by omega), hc]
      simp
    · rw [if_neg (show ¬ c ≤ n % k by omega), show c + 1 - n % k = c - n % k + 1 by omega, Nat.succ_mul]
      exact ⟨rfl, by omega⟩

/-- The shares of the first m coordinates hold the items before their end, in order. -/
theorem flatMap_divideItems (n k : Nat) : ∀ m : Nat,
    (List.range m).flatMap (fun c => (List.range (divideItems n k c).2).map (· + (divideItems n k c).1)) = List.range (sharesEnd n k m)
  | 0 => by
    have hzero : sharesEnd n k 0 = 0 := (if_pos (Nat.zero_le _)).trans (Nat.zero_mul _)
    rw [hzero]
    rfl
  | m + 1 => by
    obtain ⟨hstart, hend⟩ := divideItems_start n k m
    rw [List.range_succ, List.flatMap_append, flatMap_divideItems n k m, List.flatMap_singleton, hend, List.range_add, hstart]
    simp only [Nat.add_comm]

theorem sharesEnd_self {n k : Nat} (hk : 0 < k) : sharesEnd n k k = n := by
  have hlt : n % k < k := Nat.mod_lt _ hk
  have hdiv := Nat.div_add_mod n k
  obtain ⟨d, hd⟩ := Nat.exists_eq_add_of_lt hlt
  unfold sharesEnd
  rw [if_neg (by omega), Nat.mul_succ, show n % k * (n / k) + n % k + (k - n % k) * (n / k) = (n % k + (k - n % k)) * (n / k) + n % k by ring,
    show n % k + (k - n % k) = k by omega]
  exact hdiv

/-! ### The job's commands -/

theorem jobStartRun_cases (x : Started) (s : State) :
    (∀ k t, layFails x.bytes s = (some k, t) → jobStartRun x s = failCmd x.id bKPR k 0 t) ∧
    (∀ t, layFails x.bytes s = (none, t) → t = s ∧ jobStartRun x s = markDone x.id (enableRings (changeJob 1 (u x.bytes 16 4) 1
      (putLayout x.bytes (Lay.parse (layNamed x.bytes s)).freshRuns s)))) := by
  unfold jobStartRun
  refine ⟨fun k t h => by rw [h], fun t h => ?_⟩
  obtain rfl := layFails_none h
  refine ⟨rfl, ?_⟩
  rw [h]

theorem jobEndRun_cases (x : Started) (s : State) :
    let t := disableRings s
    ((∀ q < 44, qState q t = 0) → jobEndRun x s = markDone x.id (rejoin (changeJob 5 0 0 t))) ∧
    ((∃ q < 44, qState q t ≠ 0) → jobEndRun x s = failCmd x.id bKPR 0x01B7 0 t) ∧ (isManager s = true → t = s) := by
  intro t
  have hall : jobQueues.all (fun q => qState q t == 0) = true ↔ ∀ q < 44, qState q t = 0 := by
    simp only [jobQueues, List.all_eq_true, List.mem_range, beq_iff_eq]
  refine ⟨fun h => if_pos (hall.mpr h), fun h => if_neg fun e => ?_, fun h => if_pos h⟩
  obtain ⟨q, hq, hne⟩ := h
  exact hne (hall.mp e q hq)

theorem jobSuspendRun_cases (x : Started) (s : State) :
    let rs := rangeList x.bytes s
    let len := rs.foldl (fun n r => n + r.2) 0
    let t := jobQueues.foldl stopAtYield (setJob 2 s)
    (x.begun = false → ∀ e, firstUnreached s (layAddr x.bytes) (32 * nRanges x.bytes) = some e →
      jobSuspendRun x s = failCmd x.id bKPR (reachCause s e) 0 (captureReach e s)) ∧
    (x.begun = false → firstUnreached s (layAddr x.bytes) (32 * nRanges x.bytes) = none → imageRefused (imageAddr x.bytes) (imageTotal len s) s = true →
      jobSuspendRun x s = failCmd x.id bKPR 0x01B4 0 s) ∧
    (x.begun = false → firstUnreached s (layAddr x.bytes) (32 * nRanges x.bytes) = none → imageRefused (imageAddr x.bytes) (imageTotal len s) s = false →
      jobSuspendRun x s = setProg x.id 1 (if isManager t then cutAllOpen t else t)) ∧
    (x.begun = true → allAtYield s = true → relayPending x.id s = false → jobSuspendRun x s =
      markDone x.id (setJob 3 (closeInterval 2 (writeImage (imageAddr x.bytes) rs (jobQueues.foldl suspendQueue s))))) ∧
    (x.begun = true → (allAtYield s = false ∨ relayPending x.id s = true) → jobSuspendRun x s = s) := by
  unfold jobSuspendRun
  dsimp only
  generalize (rangeList x.bytes s).foldl (fun n r => n + r.2) 0 = len
  generalize rangeList x.bytes s = rs
  refine ⟨fun h e he => ?_, fun h he hr => ?_, fun h he hr => ?_, fun h hy hp => ?_, fun h hb => ?_⟩
  · rw [h, Bool.not_false, if_pos rfl, he]
  · rw [h, Bool.not_false, if_pos rfl, he]
    exact if_pos hr
  · rw [h, Bool.not_false, if_pos rfl, he]
    exact if_neg (by rw [hr]; exact Bool.false_ne_true)
  · rw [h, Bool.not_true, if_neg Bool.false_ne_true, hy, hp]
    rfl
  · rw [h, Bool.not_true, if_neg Bool.false_ne_true]
    refine if_neg ?_
    rcases hb with hb | hb <;> simp [hb]

theorem suspendTimeout_cases (s : State) :
    let f := fun x : Started => x.state == .running && x.begun && opOfBytes x.bytes == some .jobSuspend
    (rbits R.KPR_SUSP_TO 15 0 s = 0 ∨ s.started.find? f = none → suspendTimeout s = s) ∧
    (∀ x, rbits R.KPR_SUSP_TO 15 0 s ≠ 0 → s.started.find? f = some x →
      suspendTimeout s = dropHandedFail x (failCmd x.id bKPR 0x01B3 0 (setJob 1 (jobQueues.foldl releaseYield s)))) := by
  intro f
  unfold suspendTimeout
  refine ⟨fun h => ?_, fun x h₁ h₂ => ?_⟩
  · rcases h with h | h
    · exact if_pos h
    · split
      · rfl
      · rw [show s.started.find? _ = none from h]
  · rw [if_neg h₁, show s.started.find? _ = some x from h₂]

theorem jobResumeRun_cases (x : Started) (s : State) :
    (soundImage (imageAddr x.bytes) s = none → jobResumeRun x s =
      failCmd x.id bKPR 0x0145 0 (jobQueues.foldl (fun t q => if qState q t = 0 then t else disableQueue q t) s)) ∧
    (∀ g rs, soundImage (imageAddr x.bytes) s = some (g, rs) → jobResumeRun x s =
      markDone x.id (changeJob 3 g.jobTag 1 (restoreImage (imageAddr x.bytes) g rs s))) := by
  unfold jobResumeRun
  exact ⟨fun h => by rw [h], fun g rs h => by rw [h]⟩

/-- A sound image has passed every check of R162. -/
theorem soundImage_spec {a : Nat} {s : State} {g : SavedImage} {rs : List (Nat × Nat × Nat)} (h : soundImage a s = some (g, rs)) :
    inSpill a 65536 = true ∧ poisoned s a 16384 = false ∧ readNat s a 4 = 1 ∧ g.jobTag = readNat s (a + 4) 4 ∧
    (rget R.QFE_JOB s = 0 ∨ rget R.QFE_JOB s = g.jobTag) ∧ rs = imageRanges a s ∧ rangesIntact s (a + 65536) rs = true ∧
    crc64 (patch (readBytes s a 256) 24 (leBytes 8 0)) = u (readBytes s a 256) 24 8 := by
  unfold soundImage at h
  dsimp only at h
  split at h
  case isTrue => cases h
  case isFalse hplace =>
    split at h
    case isTrue => cases h
    case isFalse hversion =>
      split at h
      case isTrue => cases h
      case isFalse hheader =>
        split at h
        case isTrue => cases h
        case isFalse hranges =>
          split at h
          case isTrue => cases h
          case isFalse =>
            obtain ⟨y, hy, he⟩ := Option.map_eq_some_iff.mp h
            obtain ⟨rfl, rfl⟩ := Prod.ext_iff.mp he
            have hfound := List.find?_some hy
            simp only [Bool.and_eq_true, beq_iff_eq] at hfound
            simp only [Bool.or_eq_true, Bool.not_eq_true', not_or, Bool.not_eq_false, Bool.not_eq_true] at hplace
            simp only [Bool.or_eq_true, Bool.not_eq_true', not_or, Bool.not_eq_false, Bool.not_eq_true] at hranges
            refine ⟨hplace.1, hplace.2, not_not.mp (not_or.mp hversion).1, hfound.1, ?_, rfl, hranges.1.2, not_not.mp (not_or.mp hheader).1⟩
            rw [hfound.1]
            exact (not_and_or.mp (not_or.mp hheader).2).imp not_not.mp not_not.mp

/-! ### RESHARD, REMAP and CHECKPOINT (R275, R292, R297, R299) -/

theorem fenceTo_cases (c e : Nat) (s : State) :
    (e ≠ epochNow s → relayPending c s = true → fenceTo c e s = none) ∧
    (e = epochNow s ∨ relayPending c s = false → fenceTo c e s = some (if e = epochNow s then s else rset R.RLY_EPOCH e s)) := by
  unfold fenceTo
  refine ⟨fun h₁ h₂ => (if_neg h₁).trans (if_pos h₂), fun h => ?_⟩
  by_cases he : e = epochNow s
  · rw [if_pos he, if_pos he]
  · rw [if_neg he, if_neg he, h.resolve_left he]
    rfl

theorem fencedRun_cases (e : Nat) (x : Started) (ds : State → List Nat) (send finish : State → State) (s : State) :
    (x.prog = 2 → (quiet 0 s.keeper.marks s = true → fencedRun e x ds send finish s = markDone x.id (finish s)) ∧
      (quiet 0 s.keeper.marks s = false → fencedRun e x ds send finish s = s)) ∧
    (x.prog ≠ 2 → (e ≠ epochNow s → relayPending x.id s = true → fencedRun e x ds send finish s = s) ∧
      (e = epochNow s ∨ relayPending x.id s = false →
        let t := if e = epochNow s then s else rset R.RLY_EPOCH e s
        let r := awaitSent x.id (ds t) 0 peerSize (setProg x.id 2 (send t))
        (∀ p l, lostPorts (ds t) t = p :: l → fencedRun e x ds send finish s = failCmd x.id bKPR 0x0190 p t) ∧
        (lostPorts (ds t) t = [] → quiet 0 r.keeper.marks r = true → fencedRun e x ds send finish s = markDone x.id (finish r)) ∧
        (lostPorts (ds t) t = [] → quiet 0 r.keeper.marks r = false → fencedRun e x ds send finish s = r))) := by
  obtain ⟨hwait, hgo⟩ := fenceTo_cases x.id e s
  unfold fencedRun
  dsimp only
  refine ⟨fun h => ⟨fun hq => ?_, fun hq => ?_⟩, fun h => ⟨fun h₁ h₂ => ?_, fun hf => ?_⟩⟩
  · rw [if_pos h, if_pos hq]
  · rw [if_pos h, hq, if_neg Bool.false_ne_true]
  · rw [if_neg h, hwait h₁ h₂]
  · rw [if_neg h, hgo hf]
    dsimp only
    generalize (if e = epochNow s then s else rset R.RLY_EPOCH e s) = t
    refine ⟨fun p l hl => by rw [hl], fun hl hq => ?_, fun hl hq => ?_⟩
    · rw [hl]
      exact if_pos hq
    · rw [hl]
      exact if_neg (by rw [hq]; exact Bool.false_ne_true)

theorem reshardRun_cases (x : Started) (s : State) :
    let e := u x.bytes 16 2
    let runs := (Lay.parse (layNamed x.bytes s)).freshRuns
    (x.begun = true → reshardRun x s = fencedRun e x (fun t => unitTargets (unitsOfDev (myDev t) t.keeper.runs) runs t)
      (fun t => moveUnits t.keeper.runs runs t) (putLayout x.bytes runs) s) ∧
    (x.begun = false → (∀ k t, layFails x.bytes s = (some k, t) → reshardRun x s = failCmd x.id bKPR k 0 t) ∧
      (∀ t, layFails x.bytes s = (none, t) →
        reshardRun x s = reshardRun { x with begun := true, prog := 1 } (fenceCut e (setProg x.id 1 t)))) := by
  refine ⟨fun h => if_pos h, fun h => ?_⟩
  have hfresh : ¬ x.begun = true := by rw [h]; exact Bool.false_ne_true
  refine ⟨fun k t hl => (if_neg hfresh).trans (by rw [hl]), fun t hl => (if_neg hfresh).trans ?_⟩
  rw [hl]
  rfl

theorem remapRun_cases (x : Started) (s : State) :
    let e := u x.bytes 16 2
    let g := s.keeper.committed.getD 0
    let gen := AL.get {} g s.keeper.gens
    let runs := remapRuns (Lay.parse (layNamed x.bytes s)) gen.runs
    (x.begun = true → remapRun x s = fencedRun e x (fun t => unitTargets ((unitsToRestore g gen t).map (·.1)) runs t) (restoreUnits g gen runs)
      (fun t => setJob 1 (closeInterval 6 (putLayout x.bytes runs t))) s) ∧
    (x.begun = false → (∀ k t, layFails x.bytes s = (some k, t) → remapRun x s = failCmd x.id bKPR k 0 t) ∧
      (∀ t, layFails x.bytes s = (none, t) → cannotRestore t = true → remapRun x s = failCmd x.id bKPR 0x01B5 0 t) ∧
      (∀ t, layFails x.bytes s = (none, t) → cannotRestore t = false →
        remapRun x s = remapRun { x with begun := true, prog := 1 } (fenceCut e (setProg x.id 1 t)))) := by
  refine ⟨fun h => if_pos h, fun h => ?_⟩
  have hfresh : ¬ x.begun = true := by rw [h]; exact Bool.false_ne_true
  refine ⟨fun k t hl => (if_neg hfresh).trans (by rw [hl]), fun t hl hc => (if_neg hfresh).trans ?_, fun t hl hc => (if_neg hfresh).trans ?_⟩
  · rw [hl]
    exact if_pos hc
  · rw [hl]
    exact if_neg (by rw [hc]; exact Bool.false_ne_true)

/-- A generation that is committed is noted with its step, and the command is complete. -/
theorem commitGeneration_spec {c g step : Nat} {s : State} {x : Started} (hx : startedAt c s = some x) :
    let t := commitGeneration c g step s
    t.keeper.committed = some g ∧ rget R.KPR_CKPT_STEP t = step % 2 ^ 31 + g * 2 ^ 31 ∧ startedAt c t = some { x with state := .done } ∧
    rbit R.KPR_EVT 4 t = true ∧ t.mem = s.mem := by
  intro t
  obtain ⟨k, hk⟩ : ∃ k : KeeperX, { s.keeper with gens := AL.set {} g { step := step, runs := s.keeper.runs } s.keeper.gens, committed := some g } = k := ⟨_, rfl⟩
  have hcommitted : k.committed = some g := by rw [← hk]
  obtain ⟨v, hv⟩ : ∃ v : Nat, step % 2 ^ 31 + g * 2 ^ 31 = v := ⟨_, rfl⟩
  have ht : t = markDone c (rsetBit R.KPR_EVT 4 (rset R.KPR_CKPT_STEP v { s with keeper := k })) := by rw [← hk, ← hv]; rfl
  rw [ht, hv]
  have hstep : rget R.KPR_CKPT_STEP (rsetBit R.KPR_EVT 4 (rset R.KPR_CKPT_STEP v { s with keeper := k })) = v :=
    (rget_rsetBit_ne _ (by decide) 4).trans (rget_rset_self ..)
  have hevt : rbit R.KPR_EVT 4 (rsetBit R.KPR_EVT 4 (rset R.KPR_CKPT_STEP v { s with keeper := k })) = true := rbit_rsetBit_self ..
  exact ⟨hcommitted, hstep, startedAt_markDone (s := rsetBit R.KPR_EVT 4 (rset R.KPR_CKPT_STEP v { s with keeper := k })) hx, hevt, rfl⟩

theorem checkpointRun_cases (x : Started) (s : State) :
    let t := jobQueues.foldl stopAtYield s
    let step := u x.bytes 16 4
    (x.begun = false → ∀ k, checkpointFails s = some k → checkpointRun x s = failCmd x.id bKPR k 0 s) ∧
    (x.begun = false → checkpointFails s = none → checkpointRun x s = setProg x.id 1 (if isManager t then cutAllOpen t else t)) ∧
    (x.begun = true → x.prog = 1 → (allAtYield s = false ∨ relayPending x.id s = true) → checkpointRun x s = s) ∧
    (x.begun = true → x.prog = 1 → allAtYield s = true → relayPending x.id s = false → checkpointRun x s =
      mirrorRun x.id (olderGen s) step (setProg x.id 2 (jobQueues.foldl releaseYield (copyGeneration (olderGen s) s)))) ∧
    (x.begun = true → x.prog ≠ 1 → quiet 0 s.keeper.marks s = false → checkpointRun x s = s) ∧
    (x.begun = true → x.prog ≠ 1 → quiet 0 s.keeper.marks s = true → checkpointRun x s = commitGeneration x.id (olderGen s) step s) := by
  unfold checkpointRun
  dsimp only
  refine ⟨fun h k hk => ?_, fun h hk => ?_, fun h hp hb => ?_, fun h hp hy hr => ?_, fun h hp hq => ?_, fun h hp hq => ?_⟩
  · rw [h, Bool.not_false, if_pos rfl, hk]
  · rw [h, Bool.not_false, if_pos rfl, hk]
  · rw [h, Bool.not_true, if_neg Bool.false_ne_true, if_pos hp]
    refine if_neg ?_
    rcases hb with hb | hb <;> simp [hb]
  · rw [h, Bool.not_true, if_neg Bool.false_ne_true, if_pos hp, hy, hr]
    exact if_pos rfl
  · rw [h, Bool.not_true, if_neg Bool.false_ne_true, if_neg hp, hq, if_neg Bool.false_ne_true]
  · rw [h, Bool.not_true, if_neg Bool.false_ne_true, if_neg hp, if_pos hq]

/-- Settles O51, command by command, with the shares of R291 by induction on the coordinates. -/
theorem jobsStartSuspendAndMove : Obligations.JobsStartSuspendAndMove := by
  unfold Obligations.JobsStartSuspendAndMove
  refine ⟨fun s a ha => ?handed, fun s => ⟨fun h => if_neg (by rw [h]; exact Bool.false_ne_true), fun h => ?lead⟩,
    fun s hm hpop hlead hjob hsame c f b o ho hf => stateCause_elsewhere hm hpop hlead hjob hsame ho hf, jobStartRun_cases,
    fun cause tag job s hjob => changeJob_spec hjob, putLayout_spec, fun n k hk => ?shares, fun x s => rfl, jobEndRun_cases, jobSuspendRun_cases, fun s => ?timeout,
    jobResumeRun_cases, fun a s g rs h => soundImage_spec h, fencedRun_cases, reshardRun_cases, remapRun_cases, fun x s => ?checkpoint⟩
  case handed =>
    simp only [List.mem_cons, List.not_mem_nil, or_false] at ha
    rcases ha with rfl | rfl | rfl | rfl | rfl | rfl | rfl | rfl | rfl <;> exact jobRun_exec (fun _ _ => rfl) s
  case lead =>
    have hgo : noteLead s = { s with keeper := { s.keeper with leadJob := rget R.QFE_JOB s } } := if_pos h
    rw [hgo]
    exact ⟨rfl, rfl⟩
  case shares =>
    rw [flatMap_divideItems n k k, sharesEnd_self hk]
  case timeout =>
    intro f
    obtain ⟨hidle, hgo⟩ := suspendTimeout_cases s
    exact ⟨fun h => congrArg Host.Outcome.next (hidle h), fun x h₁ h₂ => congrArg Host.Outcome.next (hgo x h₁ h₂)⟩
  case checkpoint =>
    have hcases := checkpointRun_cases x s
    dsimp only at hcases ⊢
    generalize u x.bytes 16 4 = step at hcases ⊢
    obtain ⟨h₁, h₂, h₃, h₄, h₅, h₆⟩ := hcases
    exact ⟨h₁, h₂, h₃, h₄, h₅, fun hb hp hq hx _ => ⟨_, h₆ hb hp hq, commitGeneration_spec hx⟩⟩

end Sys2Proof.Machine
end
section
/-! The codec engine (R306 to R309, R314, R315): contexts, decode, encode, flush, and the outputs. -/

namespace Sys2Proof.Machine
open Sys2Proof

theorem codecx_setCodecx_ne {v w : Nat} (h : w ≠ v) (x : CodecX) (s : State) : codecx w (setCodecx v x s) = codecx w s := AL.get_set_ne _ _ h _ _

theorem codecx_congr {s t : State} (h : t.codecs = s.codecs) (v : Nat) : codecx v t = codecx v s := congrArg (AL.get ({} : CodecX) v) h

theorem ctxOf_lt (b : Bytes) : ctxOf b < 16 := Nat.mod_lt _ (by decide)

/-! ### Refusals (R306, R307) -/

theorem ctxRefuses_spec (y : Started) (dir : Option Bool) (s : State) :
    ((codecx (ctxOf y.bytes) s).isOpen = false → ctxRefuses y dir s = some 0x0004) ∧
    ((codecx (ctxOf y.bytes) s).isOpen = true → (codecx (ctxOf y.bytes) s).q ≠ y.q → ctxRefuses y dir s = some 0x01C4) ∧
    ((codecx (ctxOf y.bytes) s).isOpen = true → (codecx (ctxOf y.bytes) s).q = y.q → (dir = none → ctxRefuses y dir s = none) ∧
      (∀ e, dir = some e → ctxRefuses y dir s = if ((codecx (ctxOf y.bytes) s).mode == 2) = e then none else some 0x01C3)) := by
  unfold ctxRefuses
  dsimp only
  generalize codecx (ctxOf y.bytes) s = x
  refine ⟨fun h => by rw [h]; rfl, fun h hq => ?_, fun h hq => ⟨fun hd => ?_, fun e hd => ?_⟩⟩
  · rw [h, Bool.not_true, if_neg Bool.false_ne_true, if_pos hq]
  · rw [h, Bool.not_true, if_neg Bool.false_ne_true, if_neg (not_not.mpr hq), hd]
  · rw [h, Bool.not_true, if_neg Bool.false_ne_true, if_neg (not_not.mpr hq), hd]
    dsimp only
    simp only [beq_iff_eq]

/-! ### CDC_OPEN, CDC_CLOSE, CDC_FLUSH -/

/-- The context as CDC_OPEN leaves it. -/
def opened (y : Started) : CodecX := { isOpen := true, mode := (CU.parse y.bytes).mode, q := y.q, units := y.bytes }

theorem opened_spec (v c need w : Nat) (z : CodecX) {s : State} {y : Started} (hy : startedAt c s = some y) :
    let t := markDone c (rset (R.CDC_Vnn_STAT v) w (setCodecx v z (rset (R.CDC_Vnn_NEED v) need s)))
    codecx v t = z ∧ rget (R.CDC_Vnn_NEED v) t = need ∧ (∀ i, i ≠ v → codecx i t = codecx i s) ∧ startedAt c t = some { y with state := .done } ∧ t.mem = s.mem := by
  intro t
  have ht : t.codecs = (setCodecx v z s).codecs := rfl
  have hne : R.CDC_Vnn_NEED v ≠ R.CDC_Vnn_STAT v := by simp only [R.CDC_Vnn_NEED, R.CDC_Vnn_STAT]; omega
  exact ⟨(codecx_congr ht v).trans (codecx_setCodecx_self s v z), (rget_rset_ne _ hne _).trans (rget_rset_self ..),
    fun i hi => (codecx_congr ht i).trans (codecx_setCodecx_ne hi z s), startedAt_markDone (x := y) hy, rfl⟩

theorem cdcOpenRun_cases {c : Nat} {s : State} {y : Started} (hy : runningCmd c .cdcOpen s = some y) :
    let v := ctxOf y.bytes
    let k := CU.parse y.bytes
    (codecTurn v c s = false → cdcOpenRun c s = s) ∧
    (codecTurn v c s = true → ctxOpen v s = true → cdcOpenRun c s = failCmd c bCDC 0x01C0 v s) ∧
    (codecTurn v c s = true → ctxOpen v s = false → k.workMib < k.need → cdcOpenRun c s = failCmd c bCDC 0x01C5 v (rset (R.CDC_Vnn_NEED v) k.need s)) ∧
    (codecTurn v c s = true → ctxOpen v s = false → k.need ≤ k.workMib → codecx v (cdcOpenRun c s) = opened y ∧
      rget (R.CDC_Vnn_NEED v) (cdcOpenRun c s) = k.need ∧ (∀ w, w ≠ v → codecx w (cdcOpenRun c s) = codecx w s) ∧
      startedAt c (cdcOpenRun c s) = some { y with state := .done } ∧ (cdcOpenRun c s).mem = s.mem) := by
  intro v k
  unfold cdcOpenRun
  rw [hy]
  dsimp only
  refine ⟨fun h => if_pos (by rw [h]; rfl), fun h ho => ?_, fun h ho hn => ?_, fun h ho hn => ?_⟩
  · rw [if_neg (by rw [h]; exact Bool.false_ne_true), if_pos ho]
  · rw [if_neg (by rw [h]; exact Bool.false_ne_true), if_neg (by rw [ho]; exact Bool.false_ne_true), if_pos hn]
  · rw [if_neg (by rw [h]; exact Bool.false_ne_true), if_neg (by rw [ho]; exact Bool.false_ne_true), if_neg (Nat.not_lt.mpr hn)]
    exact opened_spec v c k.need _ (opened y) (runningCmd_spec hy).1

theorem cdcCloseRun_cases {c : Nat} {s : State} {y : Started} (hy : runningCmd c .cdcClose s = some y) :
    (codecBefore (ctxOf y.bytes) c s ≠ [] → cdcCloseRun c s = s) ∧
    (codecBefore (ctxOf y.bytes) c s = [] → ∀ k, ctxRefuses y none s = some k → cdcCloseRun c s = failCmd c bCDC k (ctxOf y.bytes) s) ∧
    (codecBefore (ctxOf y.bytes) c s = [] → ctxRefuses y none s = none →
      cdcCloseRun c s = markDone c (rset (R.CDC_Vnn_STAT (ctxOf y.bytes)) 0 (setCodecx (ctxOf y.bytes) {} s))) := by
  unfold cdcCloseRun
  rw [hy]
  dsimp only
  refine ⟨fun h => if_pos ?_, fun h k hk => ?_, fun h hk => ?_⟩
  · rw [List.isEmpty_eq_false_iff.mpr h]
    rfl
  · rw [h, List.isEmpty_nil, Bool.not_true, if_neg Bool.false_ne_true, hk]
  · rw [h, List.isEmpty_nil, Bool.not_true, if_neg Bool.false_ne_true, hk]

theorem cdcClose_spec {c : Nat} {s : State} {y : Started} (hy : runningCmd c .cdcClose s = some y) (hb : codecBefore (ctxOf y.bytes) c s = [])
    (hk : ctxRefuses y none s = none) : codecx (ctxOf y.bytes) (cdcCloseRun c s) = {} ∧ rget (R.CDC_Vnn_STAT (ctxOf y.bytes)) (cdcCloseRun c s) = 0 ∧
      startedAt c (cdcCloseRun c s) = some { y with state := .done } ∧
      { cdcCloseRun c s with regs := s.regs, codecs := s.codecs, started := s.started } = s := by
  rw [(cdcCloseRun_cases hy).2.2 hb hk]
  generalize ctxOf y.bytes = v
  have hcodecs : (markDone c (rset (R.CDC_Vnn_STAT v) 0 (setCodecx v {} s))).codecs = (setCodecx v {} s).codecs := rfl
  exact ⟨(codecx_congr hcodecs v).trans (codecx_setCodecx_self s v _), rget_rset_self _ (R.CDC_Vnn_STAT v) 0, startedAt_markDone (x := y) (runningCmd_spec hy).1, rfl⟩

/-- Pictures that a flush of a decode puts out. -/
def heldPictures (x : CodecX) : Nat := if x.hist.isEmpty then 0 else (dec x.mode x.hist.flatten 4 0 0).toNat % 64

/-- A decode's flush notes the n pictures still held. -/
def flushHeld (v c n : Nat) (s : State) : State :=
  setResync v true (setCodecx v { codecx v s with
    hist := [], outs := (codecx v s).outs ++ (List.range n).map (fun k => ({ c := c, stream := (codecx v s).hist.flatten, k := heldPlace + k } : CodecOut)) } s)

theorem flushHeld_spec (v c n : Nat) (s : State) : (codecx v (flushHeld v c n s)).hist = [] ∧ rbit (R.CDC_Vnn_STAT v) 6 (flushHeld v c n s) = true ∧
    { flushHeld v c n s with regs := s.regs, codecs := s.codecs } = s := by
  unfold flushHeld setResync
  generalize hz : ({ codecx v s with
    hist := [], outs := (codecx v s).outs ++ (List.range n).map (fun k => ({ c := c, stream := (codecx v s).hist.flatten, k := heldPlace + k } : CodecOut)) } : CodecX) = z
  have hhist : z.hist = [] := hz ▸ rfl
  have hx : codecx v (setCodecx v z s) = z := codecx_setCodecx_self s v z
  have hframe : { setCodecx v z s with codecs := s.codecs } = s := rfl
  generalize setCodecx v z s = t at hx hframe ⊢
  have hregs : { rsetBits (R.CDC_Vnn_STAT v) 6 6 (nb true) t with regs := t.regs } = t := rfl
  have hbit : rbit (R.CDC_Vnn_STAT v) 6 (rsetBits (R.CDC_Vnn_STAT v) 6 6 (nb true) t) = true := rbit_rsetBits t (R.CDC_Vnn_STAT v) 6 6 (nb true) 6 le_rfl
  generalize rsetBits (R.CDC_Vnn_STAT v) 6 6 (nb true) t = w at hregs hbit ⊢
  have hcodecs : w.codecs = t.codecs := (congrArg State.codecs hregs :)
  exact ⟨(congrArg CodecX.hist ((codecx_congr hcodecs v).trans hx)).trans hhist, hbit,
    (congrArg (fun q : State => { q with regs := s.regs, codecs := s.codecs }) hregs).trans (congrArg (fun q : State => { q with regs := s.regs }) hframe)⟩

theorem cdcFlushRun_cases {c : Nat} {s : State} {y : Started} (hy : runningCmd c .cdcFlush s = some y) :
    let v := ctxOf y.bytes
    (y.begun = true ∨ codecTurn v c s = false → cdcFlushRun c s = s) ∧
    (y.begun = false → codecTurn v c s = true → ∀ k, ctxRefuses y none s = some k → cdcFlushRun c s = failCmd c bCDC k v s) ∧
    (y.begun = false → codecTurn v c s = true → ctxRefuses y none s = none → (codecx v s).mode = 2 → cdcFlushRun c s = markDone c s) ∧
    (y.begun = false → codecTurn v c s = true → ctxRefuses y none s = none → (codecx v s).mode ≠ 2 →
      cdcFlushRun c s = if heldPictures (codecx v s) = 0 then markDone c (flushHeld v c (heldPictures (codecx v s)) s)
        else setProg c 0 (flushHeld v c (heldPictures (codecx v s)) s)) := by
  intro v
  unfold cdcFlushRun
  rw [hy]
  dsimp only
  refine ⟨fun h => if_pos ?_, fun hb ht k hk => ?_, fun hb ht hk hm => ?_, fun hb ht hk hm => ?_⟩
  · rcases h with h | h
    · rw [h, Bool.true_or]
    · rw [h, Bool.not_false, Bool.or_true]
  all_goals rw [hb, ht, Bool.false_or, Bool.not_true, if_neg Bool.false_ne_true, hk]
  · exact if_pos hm
  · exact if_neg hm

/-! ### CDC_DECODE -/

/-- Access units that the decode of `au` goes by. -/
def decodeHist (x : CodecX) (au : Bytes) : List Bytes := if dec x.mode au 1 0 0 ≠ 0 then [au] else x.hist ++ [au]

/-- Does one of the stream's n pictures exceed the context's size? -/
def tooBig (k : CU) (st : Bytes) (n : Nat) : Bool :=
  (List.range n).any (fun i => decide (k.w < (picSize k st i).1) || decide (k.h < (picSize k st i).2))

theorem tooBig_iff (k : CU) (st : Bytes) (n : Nat) : tooBig k st n = true ↔ ∃ i < n, k.w < (picSize k st i).1 ∨ k.h < (picSize k st i).2 := by
  simp only [tooBig, List.any_eq_true, List.mem_range, Bool.or_eq_true, decide_eq_true_eq]

/-- A decode counts its bytes, and WORK is the engine's. -/
def decodeRead (v n : Nat) (x : CodecX) (s : State) : State := spoilWork x (countBits v n s)

/-- Pictures of the stream that the access unit gives. -/
def decodeCount (x : CodecX) (hist : List Bytes) : Nat := (dec x.mode hist.flatten 2 0 0).toNat % 64

/-- The n pictures that the access unit gives are noted. -/
def decodeNoted (v c : Nat) (hist : List Bytes) (n : Nat) (x : CodecX) (t : State) : State :=
  setResync v false (setCodecx v { codecx v t with
    hist := hist, outs := x.outs ++ (List.range n).map (fun i => ({ c := c, stream := hist.flatten, k := i } : CodecOut)) } t)

/-- A decode after which a new random access point is awaited. -/
def decodeLost (v : Nat) (t : State) : State := setResync v true (setCodecx v { codecx v t with hist := [] } t)

/-- A decode of an access unit that could be read, by the stream `hist`. -/
def decodeUnit (v c : Nat) (x : CodecX) (hist : List Bytes) (t : State) : State :=
  if dec x.mode hist.flatten 0 0 0 != 0 then codecError v c 0x01C1 (decodeLost v t)
  else if tooBig (CU.parse x.units) hist.flatten (decodeCount x hist) || dec x.mode hist.flatten 3 0 0 != 0 then failCmd c bCDC 0x01C5 v t
  else if decodeCount x hist = 0 then markDone c (decodeNoted v c hist (decodeCount x hist) x t) else setProg c 0 (decodeNoted v c hist (decodeCount x hist) x t)

theorem cdcDecodeRun_cases {c : Nat} {s : State} {y : Started} (hy : runningCmd c .cdcDecode s = some y) :
    let v := ctxOf y.bytes
    let x := codecx v s
    let a := codecAddr y.bytes
    let n := u y.bytes 24 4
    (y.begun = true ∨ codecTurn v c s = false → cdcDecodeRun c s = s) ∧
    (y.begun = false → codecTurn v c s = true →
      (∀ k, ctxRefuses y (some false) s = some k → cdcDecodeRun c s = failCmd c bCDC k v s) ∧
      (ctxRefuses y (some false) s = none →
        (∀ e, firstUnreached s a n = some e → cdcDecodeRun c s = failCmd c bCDC (reachCause s e) v (captureReach e s)) ∧
        (firstUnreached s a n = none →
          (poisoned s a n = true ∨ workPoisoned x s = true → cdcDecodeRun c s = codecError v c 0x01C6 s) ∧
          (¬ (poisoned s a n = true ∨ workPoisoned x s = true) → x.hist = [] → dec x.mode (readBytes s a n) 1 0 0 = 0 →
            cdcDecodeRun c s = codecError v c 0x01C2 s) ∧
          (¬ (poisoned s a n = true ∨ workPoisoned x s = true) → (x.hist ≠ [] ∨ dec x.mode (readBytes s a n) 1 0 0 ≠ 0) →
            cdcDecodeRun c s = decodeUnit v c x (decodeHist x (readBytes s a n)) (decodeRead v n x s))))) := by
  intro v x a n
  unfold cdcDecodeRun
  rw [hy]
  dsimp only
  refine ⟨fun h => if_pos ?_, fun hb ht => ?_⟩
  · rcases h with h | h
    · rw [h, Bool.true_or]
    · rw [h, Bool.not_false, Bool.or_true]
  rw [hb, ht, Bool.false_or, Bool.not_true, if_neg Bool.false_ne_true]
  refine ⟨fun k hk => by rw [hk], fun hk => ?_⟩
  rw [hk]
  dsimp only
  refine ⟨fun e he => by rw [he], fun he => ?_⟩
  rw [he]
  dsimp only
  refine ⟨fun h => if_pos (Bool.or_eq_true_iff.mpr h), fun h hh hr => ?_, fun h hh => ?_⟩
  · have hcond : ((codecx (ctxOf y.bytes) s).hist.isEmpty && !dec (codecx (ctxOf y.bytes) s).mode (readBytes s a n) 1 0 0 != 0) = true := by
      rw [hh, hr]
      rfl
    exact (if_neg (Bool.or_eq_true_iff.not.mpr h)).trans (if_pos hcond)
  · have hcond : ¬ ((codecx (ctxOf y.bytes) s).hist.isEmpty && !dec (codecx (ctxOf y.bytes) s).mode (readBytes s a n) 1 0 0 != 0) = true := by
      rw [Bool.and_eq_true, Bool.not_eq_true', List.isEmpty_iff, bne_eq_false_iff_eq, not_and_or]
      exact hh
    have hlist : (if (dec x.mode (readBytes s a n) 1 0 0 != 0) = true then [readBytes s a n] else x.hist ++ [readBytes s a n]) =
        decodeHist x (readBytes s a n) := by
      simp only [decodeHist, bne_iff_ne]
    refine ((if_neg (Bool.or_eq_true_iff.not.mpr h)).trans (if_neg hcond)).trans ?_
    rw [← hlist]
    rfl

/-- Noting outputs of context v changes the context and a bit of its status. -/
theorem setResync_setCodecx_spec (v : Nat) (on : Bool) (z : CodecX) (t : State) :
    codecx v (setResync v on (setCodecx v z t)) = z ∧ (setResync v on (setCodecx v z t)).started = t.started ∧ (setResync v on (setCodecx v z t)).mem = t.mem := by
  have hx : codecx v (setCodecx v z t) = z := codecx_setCodecx_self t v z
  have hstarted : (setCodecx v z t).started = t.started := rfl
  have hmem : (setCodecx v z t).mem = t.mem := rfl
  generalize setCodecx v z t = w at hx hstarted hmem ⊢
  exact ⟨hx, hstarted, hmem⟩

theorem decodeNoted_spec (v c : Nat) (hist : List Bytes) (n : Nat) (x : CodecX) (t : State) : (codecx v (decodeNoted v c hist n x t)).hist = hist ∧
    (codecx v (decodeNoted v c hist n x t)).outs = x.outs ++ (List.range n).map (fun i => { c := c, stream := hist.flatten, k := i }) ∧
    (decodeNoted v c hist n x t).started = t.started ∧ (decodeNoted v c hist n x t).mem = t.mem := by
  obtain ⟨hx, hstarted, hmem⟩ := setResync_setCodecx_spec v false { codecx v t with
    hist := hist, outs := x.outs ++ (List.range n).map (fun i => ({ c := c, stream := hist.flatten, k := i } : CodecOut)) } t
  exact ⟨congrArg CodecX.hist hx, congrArg CodecX.outs hx, hstarted, hmem⟩

theorem startedAt_congr {s t : State} (h : t.started = s.started) (c : Nat) : startedAt c t = startedAt c s := by rw [startedAt, h]; rfl

theorem decodeUnit_cases {v c : Nat} {x : CodecX} {hist : List Bytes} {t : State} {y : Started} (hy : startedAt c t = some y) :
    let n := decodeCount x hist
    let k := CU.parse x.units
    (dec x.mode hist.flatten 0 0 0 ≠ 0 → ∃ z, (codecx v z).hist = [] ∧ z.mem = t.mem ∧ decodeUnit v c x hist t = codecError v c 0x01C1 z) ∧
    (dec x.mode hist.flatten 0 0 0 = 0 → (dec x.mode hist.flatten 3 0 0 ≠ 0 ∨ ∃ i < n, k.w < (picSize k hist.flatten i).1 ∨ k.h < (picSize k hist.flatten i).2) →
      decodeUnit v c x hist t = failCmd c bCDC 0x01C5 v t) ∧
    (dec x.mode hist.flatten 0 0 0 = 0 → dec x.mode hist.flatten 3 0 0 = 0 →
      (∀ i < n, (picSize k hist.flatten i).1 ≤ k.w ∧ (picSize k hist.flatten i).2 ≤ k.h) →
      (codecx v (decodeUnit v c x hist t)).hist = hist ∧
      (codecx v (decodeUnit v c x hist t)).outs = x.outs ++ (List.range n).map (fun i => { c := c, stream := hist.flatten, k := i }) ∧
      startedAt c (decodeUnit v c x hist t) = some (if n = 0 then { y with state := .done } else { y with begun := true, prog := 0 }) ∧
      (decodeUnit v c x hist t).mem = t.mem) := by
  intro n k
  refine ⟨fun h => ?_, fun h hbig => ?_, fun h h3 hsize => ?_⟩
  · obtain ⟨hx, -, hmem⟩ := setResync_setCodecx_spec v true { codecx v t with hist := [] } t
    exact ⟨decodeLost v t, congrArg CodecX.hist hx, hmem, if_pos (bne_iff_ne.mpr h)⟩
  · refine (if_neg (by rw [h]; exact Bool.false_ne_true)).trans (if_pos ?_)
    rw [Bool.or_eq_true, tooBig_iff, bne_iff_ne]
    exact hbig.symm
  · have hfits : ¬ (tooBig k hist.flatten n || dec x.mode hist.flatten 3 0 0 != 0) = true := by
      rw [Bool.or_eq_true, tooBig_iff, bne_iff_ne, h3]
      rintro (⟨i, hi, hw | hh⟩ | hne)
      · exact absurd (hsize i hi).1 (Nat.not_le.mpr hw)
      · exact absurd (hsize i hi).2 (Nat.not_le.mpr hh)
      · exact hne rfl
    have hrun : decodeUnit v c x hist t = if n = 0 then markDone c (decodeNoted v c hist n x t) else setProg c 0 (decodeNoted v c hist n x t) :=
      (if_neg (by rw [h]; exact Bool.false_ne_true)).trans (if_neg hfits)
    obtain ⟨hhist, houts, hstarted, hmem⟩ := decodeNoted_spec v c hist n x t
    have hy' := (startedAt_congr hstarted c).trans hy
    rw [hrun]
    generalize decodeNoted v c hist n x t = w at hhist houts hmem hy' ⊢
    split
    · exact ⟨hhist, houts, startedAt_markDone hy', hmem⟩
    · exact ⟨hhist, houts, startedAt_setProg hy', hmem⟩

/-! ### CDC_ENCODE -/

/-- Source pictures that an encode goes by. -/
def encodeHist (x : CodecX) (qp : Nat) (intra : Bool) (pic : Bytes) : List Bytes := (if intra then [] else x.hist) ++ [leBytes 1 qp ++ pic]

/-- Sizes in bits of the last access units, with the one of `len` bytes. -/
def encodeWindow (x : CodecX) (len : Nat) : List Nat := (8 * len :: x.window).take 254

/-- Is the bit-rate cap missed? -/
def capMissed (k : CU) (x : CodecX) (len : Nat) : Bool := k.cap != 0 && decide (k.cap < ((encodeWindow x len).take k.window).foldl (· + ·) 0)

/-- The context with one access unit more. -/
def encodedCtx (c qp len : Nat) (intra : Bool) (hist : List Bytes) (k : CU) (x : CodecX) : CodecX :=
  { x with hist := hist, outs := x.outs ++ [{ c := c, raw := hist.flatten, qp := qp, intra := intra, miss := capMissed k x len }], coded := x.coded + 1,
           window := encodeWindow x len, lastI := if intra then some (8 * len, qp) else x.lastI, lastP := if intra then x.lastP else some (8 * len, qp) }

/-- A missed cap is counted and flagged. -/
def countMiss (v : Nat) (miss : Bool) (t : State) : State := if miss then rsetBit R.CDC_EVT 1 (rcountSat (R.CDC_Vnn_CAPMISS v) t) else t

theorem countMiss_keeps (v : Nat) (miss : Bool) (t : State) : (countMiss v miss t).started = t.started ∧ (countMiss v miss t).mem = t.mem := by
  cases miss <;> exact ⟨rfl, rfl⟩

/-- An encode whose source could be read, of `hist` at qp. -/
def encodeUnit (v c qp : Nat) (intra : Bool) (hist : List Bytes) (k : CU) (x : CodecX) (t : State) : State :=
  if k.bsMib * 2 ^ 20 / k.slots < auLen k v qp intra hist.flatten then failCmd c bCDC 0x01C7 v t
  else setProg c 0 (countBits v (auLen k v qp intra hist.flatten) (setCodecx v (encodedCtx c qp (auLen k v qp intra hist.flatten) intra hist k x)
    (countMiss v (capMissed k x (auLen k v qp intra hist.flatten)) t)))

theorem cdcEncodeRun_cases {c : Nat} {s : State} {y : Started} (hy : runningCmd c .cdcEncode s = some y) :
    let v := ctxOf y.bytes
    let x := codecx v s
    let k := CU.parse x.units
    let a := codecAddr y.bytes
    let n := sourceSize k
    let intra := x.coded % k.gop == 0 || bitAt (u y.bytes 22 1) 0
    let qp := chooseQp k x intra
    (y.begun = true ∨ codecTurn v c s = false → cdcEncodeRun c s = s) ∧
    (y.begun = false → codecTurn v c s = true →
      (∀ e, ctxRefuses y (some true) s = some e → cdcEncodeRun c s = failCmd c bCDC e v s) ∧
      (ctxRefuses y (some true) s = none →
        (∀ e, firstUnreached s a n = some e → cdcEncodeRun c s = failCmd c bCDC (reachCause s e) v (captureReach e s)) ∧
        (firstUnreached s a n = none →
          (poisoned s a n = true ∨ workPoisoned x s = true → cdcEncodeRun c s = codecError v c 0x01C6 s) ∧
          (poisoned s a n = false → workPoisoned x s = false →
            cdcEncodeRun c s = encodeUnit v c qp intra (encodeHist x qp intra (readBytes s a n)) k x (spoilWork x s))))) := by
  intro v x k a n intra qp
  unfold cdcEncodeRun
  rw [hy]
  dsimp only
  refine ⟨fun h => if_pos ?_, fun hb ht => ?_⟩
  · rcases h with h | h
    · rw [h, Bool.true_or]
    · rw [h, Bool.not_false, Bool.or_true]
  rw [hb, ht, Bool.false_or, Bool.not_true, if_neg Bool.false_ne_true]
  refine ⟨fun e he => by rw [he], fun hk => ?_⟩
  rw [hk]
  dsimp only
  refine ⟨fun e he => by rw [he], fun he => ?_⟩
  rw [he]
  dsimp only
  refine ⟨fun h => if_pos (Bool.or_eq_true_iff.mpr h), fun hp hw => (if_neg ?_).trans rfl⟩
  rw [hp, hw]
  exact Bool.false_ne_true

/-- Counting bytes of bitstream changes one field of the context, and a register. -/
theorem countBits_spec (v n : Nat) (s : State) : codecx v (countBits v n s) = { codecx v s with bytes := ((codecx v s).bytes + n) % 1024 } ∧
    (countBits v n s).started = s.started ∧ (countBits v n s).mem = s.mem := by
  unfold countBits
  dsimp only
  generalize ({ codecx v s with bytes := ((codecx v s).bytes + n) % 1024 } : CodecX) = z
  have hx : codecx v (setCodecx v z s) = z := codecx_setCodecx_self s v z
  have hstarted : (setCodecx v z s).started = s.started := rfl
  have hmem : (setCodecx v z s).mem = s.mem := rfl
  generalize setCodecx v z s = w at hx hstarted hmem ⊢
  exact ⟨hx, hstarted, hmem⟩

theorem encodeUnit_cases {v c qp : Nat} {intra : Bool} {hist : List Bytes} {k : CU} {x : CodecX} {t : State} {y : Started} (hy : startedAt c t = some y) :
    let r := encodeUnit v c qp intra hist k x t
    (k.bsMib * 2 ^ 20 / k.slots < auLen k v qp intra hist.flatten → r = failCmd c bCDC 0x01C7 v t) ∧
    (auLen k v qp intra hist.flatten ≤ k.bsMib * 2 ^ 20 / k.slots → (codecx v r).coded = x.coded + 1 ∧ (codecx v r).hist = hist ∧
      (codecx v r).outs.length = x.outs.length + 1 ∧ startedAt c r = some { y with begun := true, prog := 0 } ∧ r.mem = t.mem) := by
  intro r
  refine ⟨fun h => if_pos h, fun h => ?_⟩
  have hr : r = _ := if_neg (Nat.not_lt.mpr h)
  rw [hr]
  generalize auLen k v qp intra hist.flatten = len
  obtain ⟨hstarted, hmem⟩ := countMiss_keeps v (capMissed k x len) t
  generalize countMiss v (capMissed k x len) t = t1 at hstarted hmem ⊢
  have hz : (encodedCtx c qp len intra hist k x).coded = x.coded + 1 ∧ (encodedCtx c qp len intra hist k x).hist = hist ∧
      (encodedCtx c qp len intra hist k x).outs.length = x.outs.length + 1 := ⟨rfl, rfl, List.length_append⟩
  generalize encodedCtx c qp len intra hist k x = z at hz ⊢
  obtain ⟨hcoded, hhist, houts⟩ := hz
  have hx2 : codecx v (setCodecx v z t1) = z := codecx_setCodecx_self t1 v z
  have hstarted2 : (setCodecx v z t1).started = t.started := hstarted
  have hmem2 : (setCodecx v z t1).mem = t.mem := hmem
  generalize setCodecx v z t1 = t2 at hx2 hstarted2 hmem2 ⊢
  obtain ⟨hx3, hstarted3, hmem3⟩ := countBits_spec v len t2
  rw [hx2] at hx3
  generalize countBits v len t2 = t3 at hx3 hstarted3 hmem3 ⊢
  have hx4 : codecx v (setProg c 0 t3) = _ := hx3
  exact ⟨(congrArg CodecX.coded hx4).trans hcoded, (congrArg CodecX.hist hx4).trans hhist, (congrArg (fun q : CodecX => q.outs.length) hx4).trans houts,
    startedAt_setProg ((startedAt_congr (hstarted3.trans hstarted2) c).trans hy), hmem3.trans hmem2⟩

theorem chooseQp_uncapped {k : CU} (h : k.cap = 0) (x : CodecX) (intra : Bool) :
    (chooseQp k x intra : Int) = min 51 (max 0 ((k.cq : Int) + if intra then k.iOff else 0)) := by
  have hqp : chooseQp k x intra = (min 51 (max 0 ((k.cq : Int) + if intra then k.iOff else 0))).toNat := if_pos h
  rw [hqp, Int.toNat_of_nonneg (le_min (by decide) (le_max_left ..))]

/-! ### CODEC_OUTPUT (R309) -/

/-- Output o, the next of context v, is counted in its marker and in the context's register. -/
def outputCounted (v : Nat) (o : CodecOut) (rest : List CodecOut) (x : CodecX) (r : State) : State :=
  let t := setCodecx v { x with outs := rest, next := x.next + 1 } r
  rcount (R.CDC_Vnn_OUT v) (if (startedAt o.c t).any (·.muted) then t else markerInc (CU.parse x.units).frameM 1 t)

/-- Output o has been written, and its command is complete with its last. -/
def outputWritten (v : Nat) (o : CodecOut) (rest : List CodecOut) (x : CodecX) (r : State) : State :=
  if rest.any (fun z => z.c == o.c) then outputCounted v o rest x r else markDone o.c (outputCounted v o rest x r)

theorem codecOutput_cases {v : Nat} {s : State} {o : CodecOut} {rest : List CodecOut} (ho : liveOuts s (codecx v s).outs = o :: rest) :
    let x := codecx v s
    let k := CU.parse x.units
    let t := rclrBit (R.CDC_Vnn_STAT v) 7 s
    let w := if x.mode = 2 then writeEncoded v k x.next o t else writeDecoded k x.next o t
    let r := addFlags o.c (w.flags % 4) w.s
    let held := (startedAt o.c s).any (fun y => outsHeld y s) = true
    let waits := k.slots ≤ x.next ∧ satisfied (markerCount k.freeM s) (k.freeB + x.next - k.slots + 1) = false
    (held → codecOutput v s = s) ∧ (¬ held → waits → codecOutput v s = rsetBit (R.CDC_Vnn_STAT v) 7 s) ∧
    (¬ held → ¬ waits → ∀ e, w.cause = some e → codecOutput v s = failCmd o.c bCDC e v (setCodecx v { x with outs := rest.filter (fun r => r.c != o.c) } r)) ∧
    (¬ held → ¬ waits → w.cause = none → codecOutput v s = outputWritten v o rest x r) := by
  intro x k t w r held waits
  have hwaits : (decide (k.slots ≤ x.next) && !satisfied (markerCount k.freeM s) (k.freeB + x.next - k.slots + 1)) = true ↔ waits := by
    rw [Bool.and_eq_true, Bool.not_eq_true', decide_eq_true_eq]
  have hrun : codecOutput v s = if (startedAt o.c s).any (fun y => outsHeld y s) then s
      else if decide (k.slots ≤ x.next) && !satisfied (markerCount k.freeM s) (k.freeB + x.next - k.slots + 1) then rsetBit (R.CDC_Vnn_STAT v) 7 s
      else match w.cause with
        | some cause => failCmd o.c bCDC cause v (setCodecx v { x with outs := rest.filter (fun r => r.c != o.c) } r)
        | none => outputWritten v o rest x r := by
    unfold codecOutput
    dsimp only
    rw [ho] <;> rfl
  rw [hrun]
  refine ⟨fun h => if_pos h, fun h hw => (if_neg h).trans (if_pos (hwaits.mpr hw)), fun h hw e he => ?_, fun h hw he => ?_⟩
  · rw [if_neg h, if_neg (hwaits.not.mpr hw), he]
  · rw [if_neg h, if_neg (hwaits.not.mpr hw), he]

theorem outputCounted_spec (v : Nat) (o : CodecOut) (rest : List CodecOut) (x : CodecX) (r : State) :
    let q := outputCounted v o rest x r
    (codecx v q).next = x.next + 1 ∧ (codecx v q).outs = rest ∧ q.started = r.started ∧
    rget (R.CDC_Vnn_OUT v) q = (rget (R.CDC_Vnn_OUT v) r + 1) % 2 ^ 32 ∧
    (∀ y, startedAt o.c r = some y → ∀ m, markerCount m q =
      if m = (CU.parse x.units).frameM ∧ y.muted = false then (markerCount m r + 1) % 2 ^ 32 else markerCount m r) := by
  intro q
  have hx1 : codecx v (setCodecx v { x with outs := rest, next := x.next + 1 } r) = { x with outs := rest, next := x.next + 1 } := codecx_setCodecx_self r v _
  have hstarted1 : (setCodecx v { x with outs := rest, next := x.next + 1 } r).started = r.started := rfl
  have hregs1 (o : Nat) : rget o (setCodecx v { x with outs := rest, next := x.next + 1 } r) = rget o r := rfl
  have hcount1 (m : Nat) : markerCount m (setCodecx v { x with outs := rest, next := x.next + 1 } r) = markerCount m r := rfl
  have hq : q = rcount (R.CDC_Vnn_OUT v) (if (startedAt o.c (setCodecx v { x with outs := rest, next := x.next + 1 } r)).any (·.muted) then
      setCodecx v { x with outs := rest, next := x.next + 1 } r else markerInc (CU.parse x.units).frameM 1 (setCodecx v { x with outs := rest, next := x.next + 1 } r)) := rfl
  rw [hq]
  clear_value q
  generalize (CU.parse x.units).frameM = frame
  generalize setCodecx v { x with outs := rest, next := x.next + 1 } r = t at hx1 hstarted1 hregs1 hcount1 ⊢
  have hadd : ∃ w, (if (startedAt o.c t).any (·.muted) then t else markerInc frame 1 t) = w ∧ w.codecs = t.codecs ∧ w.started = t.started ∧
      rget (R.CDC_Vnn_OUT v) w = rget (R.CDC_Vnn_OUT v) t ∧
      ∀ y, startedAt o.c t = some y → ∀ m, markerCount m w = if m = frame ∧ y.muted = false then (markerCount m t + 1) % 2 ^ 32 else markerCount m t := by
    refine ⟨_, rfl, ?_⟩
    split
    case isTrue h =>
      refine ⟨rfl, rfl, rfl, fun y hy m => (if_neg fun hm => ?_).symm⟩
      rw [hy] at h
      exact Bool.false_ne_true (hm.2.symm.trans h)
    case isFalse h =>
      obtain ⟨⟨g, p, e, hput⟩, hreg⟩ := markerPut_frame t frame (markerCount frame t + 1)
      refine ⟨by rw [markerInc, hput], by rw [markerInc, hput], hreg _ fun i hi => ?_, fun y hy m => ?_⟩
      · have hi' : i < 1792 := hi
        simp only [R.CDC_Vnn_OUT, R.QFE_MARM]
        omega
      · have hmuted : y.muted = false := by
          rw [hy] at h
          exact Bool.eq_false_iff.mpr h
        rw [markerInc, markerCount_markerPut, hmuted]
        by_cases hm : m = frame
        · rw [if_pos hm, if_pos ⟨hm, rfl⟩, hm]
        · rw [if_neg hm, if_neg fun hh => hm hh.1]
  obtain ⟨w, hw, hcodecs, hstarted, hreg, hcount⟩ := hadd
  rw [hw]
  have hx2 : codecx v (rcount (R.CDC_Vnn_OUT v) w) = _ := (codecx_congr hcodecs v).trans hx1
  refine ⟨congrArg CodecX.next hx2, congrArg CodecX.outs hx2, hstarted.trans hstarted1, (rget_rset_self ..).trans ?_, fun y hy m => ?_⟩
  · rw [hreg, hregs1]
  · rw [← hcount1]
    exact hcount y ((startedAt_congr hstarted1 o.c).trans hy) m

theorem outputWritten_spec (v : Nat) (o : CodecOut) (rest : List CodecOut) (x : CodecX) (r : State) :
    let q := outputWritten v o rest x r
    (codecx v q).next = x.next + 1 ∧ (codecx v q).outs = rest ∧ rget (R.CDC_Vnn_OUT v) q = (rget (R.CDC_Vnn_OUT v) r + 1) % 2 ^ 32 ∧
    (∀ y, startedAt o.c r = some y → ∀ m, markerCount m q =
      if m = (CU.parse x.units).frameM ∧ y.muted = false then (markerCount m r + 1) % 2 ^ 32 else markerCount m r) ∧
    (rest.any (fun z => z.c == o.c) = false → ∀ y, startedAt o.c r = some y → startedAt o.c q = some { y with state := .done }) := by
  obtain ⟨hnext, houts, hstarted, hreg, hcount⟩ := outputCounted_spec v o rest x r
  unfold outputWritten
  generalize outputCounted v o rest x r = t at hnext houts hstarted hreg hcount ⊢
  split
  case isTrue h => exact ⟨hnext, houts, hreg, hcount, fun hlast => absurd (h.symm.trans hlast) (by decide)⟩
  case isFalse => exact ⟨hnext, houts, hreg, hcount, fun _ y hy => startedAt_markDone ((startedAt_congr hstarted o.c).trans hy)⟩

/-- Settles O52: each codec command by the checks it goes through, and an output by its slot, its failure or its count. -/
theorem codecContextsDecodeAndEncode : Obligations.CodecContextsDecodeAndEncode := by
  unfold Obligations.CodecContextsDecodeAndEncode
  refine ⟨?absent, ?waits, ?openWaits, ?opens, ?closes, fun y dir s => ctxRefuses_spec y dir s, ?decodes, ?encodes, fun k x intra h => chooseQp_uncapped h x intra,
    ?flushes, ?outputs, fun v s h => congrArg Host.Outcome.next ?_⟩
  case absent =>
    intro c s a ha h
    simp only [List.mem_cons, List.not_mem_nil, or_false] at ha
    rcases ha with rfl | rfl | rfl | rfl | rfl
    · exact congrArg Host.Outcome.next (show cdcOpenRun c s = s by rw [cdcOpenRun, h])
    · exact congrArg Host.Outcome.next (show cdcCloseRun c s = s by rw [cdcCloseRun, h])
    · exact congrArg Host.Outcome.next (show cdcDecodeRun c s = s by rw [cdcDecodeRun, h])
    · exact congrArg Host.Outcome.next (show cdcEncodeRun c s = s by rw [cdcEncodeRun, h])
    · exact congrArg Host.Outcome.next (show cdcFlushRun c s = s by rw [cdcFlushRun, h])
  case waits =>
    intro c s y a ha h
    simp only [List.mem_cons, List.not_mem_nil, or_false] at ha
    rcases ha with rfl | rfl | rfl
    · obtain ⟨hwait, hrun⟩ := cdcDecodeRun_cases h
      exact ⟨fun hw => congrArg Host.Outcome.next (hwait hw), fun hb ht k hk => congrArg Host.Outcome.next ((hrun hb ht).1 k hk)⟩
    · obtain ⟨hwait, hrun⟩ := cdcEncodeRun_cases h
      exact ⟨fun hw => congrArg Host.Outcome.next (hwait hw), fun hb ht k hk => congrArg Host.Outcome.next ((hrun hb ht).1 k hk)⟩
    · obtain ⟨hwait, hrefused, -, -⟩ := cdcFlushRun_cases h
      exact ⟨fun hw => congrArg Host.Outcome.next (hwait hw), fun hb ht k hk => congrArg Host.Outcome.next (hrefused hb ht k hk)⟩
  case openWaits => exact fun c s y hy ht => congrArg Host.Outcome.next ((cdcOpenRun_cases hy).1 ht)
  case opens =>
    intro c s y hy ht v k
    obtain ⟨-, hopen, hsmall, hruns⟩ := cdcOpenRun_cases hy
    exact ⟨fun h => congrArg Host.Outcome.next (hopen ht h), fun h hn => congrArg Host.Outcome.next (hsmall ht h hn), fun h hn => ⟨_, rfl, hruns ht h hn⟩⟩
  case closes =>
    intro c s y hy
    obtain ⟨hwait, hrefused, -⟩ := cdcCloseRun_cases hy
    exact ⟨fun h => congrArg Host.Outcome.next (hwait h), fun h k hk => congrArg Host.Outcome.next (hrefused h k hk), fun h hk => ⟨_, rfl, cdcClose_spec hy h hk⟩⟩
  case decodes =>
    intro c s y hy hb ht hk
    obtain ⟨hreach, hrun⟩ := ((cdcDecodeRun_cases hy).2 hb ht).2 hk
    refine ⟨fun e he => congrArg Host.Outcome.next (hreach e he), fun he => ?_⟩
    obtain ⟨hpoison, hnorap, hunit⟩ := hrun he
    intro v x au rap hist bad n
    have hy' : startedAt c (decodeRead v (u y.bytes 24 4) x s) = some y := (runningCmd_spec hy).1
    obtain ⟨hlost, hbig, hnoted⟩ := decodeUnit_cases (v := v) (x := x) (hist := hist) hy'
    refine ⟨fun h => congrArg Host.Outcome.next (hpoison h), fun h hh hr => congrArg Host.Outcome.next (hnorap h hh (not_not.mp hr)), fun h hh h0 => ?_,
      fun h hh h0 h3 => ⟨decodeRead v (u y.bytes 24 4) x s, rfl, congrArg Host.Outcome.next ((hunit h hh).trans (hbig h0 h3))⟩,
      fun h hh h0 h3 hsize => ⟨_, congrArg Host.Outcome.next (hunit h hh), hnoted h0 h3 hsize⟩⟩
    obtain ⟨z, hz, hmem, hrun⟩ := hlost h0
    exact ⟨z, hz, hmem, congrArg Host.Outcome.next ((hunit h hh).trans hrun)⟩
  case encodes =>
    intro c s y hy hb ht hk v x k intra qp hist
    obtain ⟨hreach, hrun⟩ := ((cdcEncodeRun_cases hy).2 hb ht).2 hk
    refine ⟨fun e he => congrArg Host.Outcome.next (hreach e he), fun he => ?_⟩
    obtain ⟨hpoison, hunit⟩ := hrun he
    have hy' : startedAt c (spoilWork x s) = some y := (runningCmd_spec hy).1
    obtain ⟨hlong, hfits⟩ := encodeUnit_cases (v := v) (qp := qp) (intra := intra) (hist := hist) (k := k) (x := x) hy'
    exact ⟨fun h => congrArg Host.Outcome.next (hpoison h), fun hp hw => ⟨fun h => congrArg Host.Outcome.next ((hunit hp hw).trans (hlong h)),
      fun h => ⟨_, congrArg Host.Outcome.next (hunit hp hw), hfits h⟩⟩⟩
  case flushes =>
    intro c s y hy hb ht hk
    obtain ⟨-, -, hencode, hdecode⟩ := cdcFlushRun_cases hy
    refine ⟨fun hm => congrArg Host.Outcome.next (hencode hb ht hk hm), fun hm => ⟨_, congrArg Host.Outcome.next (hdecode hb ht hk hm), ?_⟩⟩
    obtain ⟨hhist, hbit, hframe⟩ := flushHeld_spec (ctxOf y.bytes) c (heldPictures (codecx (ctxOf y.bytes) s)) s
    generalize flushHeld (ctxOf y.bytes) c (heldPictures (codecx (ctxOf y.bytes) s)) s = t at hhist hbit hframe ⊢
    have hall := (congrArg (fun w : State => { w with started := s.started }) hframe :)
    split
    · exact ⟨hhist, hbit, hall⟩
    · exact ⟨hhist, hbit, hall⟩
  case outputs =>
    intro v s o rest ho k n waits t w r held
    have hheld : (startedAt o.c s).any (fun y => outsHeld y s) = true ↔ held := by
      cases hc : startedAt o.c s <;> simp [held, hc]
    obtain ⟨hhold, hwait, hfail, hdone⟩ := codecOutput_cases ho
    refine ⟨fun h => congrArg Host.Outcome.next (hhold (hheld.mpr h)), fun h hw => ⟨_, congrArg Host.Outcome.next (hwait (hheld.not.mpr h) hw), rbit_rsetBit_self .., rfl, fun i hi => ?_⟩,
      fun h hw e he => congrArg Host.Outcome.next (hfail (hheld.not.mpr h) hw e he), fun h hw he => ⟨_, congrArg Host.Outcome.next (hdone (hheld.not.mpr h) hw he), ?_⟩⟩
    · exact rget_rsetBit_ne _ (List.ne_of_not_mem_cons hi) 7
    · obtain ⟨hnext, houts, hreg, hcount, hlast⟩ := outputWritten_spec v.val o rest (codecx v.val s) r
      exact ⟨hnext, houts, hreg, hcount, fun h x hx _ => hlast h x hx⟩
  · unfold codecOutput
    dsimp only
    rw [h] <;> rfl

end Sys2Proof.Machine
end
section
/-! The power controller's readings (R325, R326). -/

namespace Sys2Proof.Machine
open Sys2Proof

/-- A module with an attention share on a core numbered 278464: the status register of that core stands where PWR_STAT does. -/
def moduleWithStrayHeldCore : State :=
  { cores := [(278464, { run := some {} })], started := [{ id := 0, turn := 0, q := 0, idx := 0, unit := 0, bytes := [0x30, 1], outs := [] }] }

theorem noTrigger_moduleWithStrayHeldCore : rbit R.PWR_CTL 3 moduleWithStrayHeldCore = false := by decide

set_option maxRecDepth 100000 in
theorem holdBit_moduleWithStrayHeldCore : rbit R.PWR_STAT 7 (beginHold moduleWithStrayHeldCore) = false := by decide

/-- Sending a hold leaves PWR_STAT. -/
theorem powerStat_spreadHold (type : Nat) (h : Nat × Nat × Nat) (s : State) : rget R.PWR_STAT (spreadHold type h s) = rget R.PWR_STAT s :=
  (WriteKeeps.foldl (fun t m => sendCtrl_writeKeeps type m.1 m.2 (holdData h) t) (runningMembers s) s).regs _ (by decide) (by decide)
    fun p => by simp only [R.PWR_STAT, R.LNK_Lnn_TXFLITS]; omega

/-- Refutes O53: the model bounds no core's number, and on this module the status that the beginning hold shows for the core clears
PWR_STAT bit 7 again. -/
theorem not_powerFollowsItsReadings : ¬ Obligations.PowerFollowsItsReadings := by
  unfold Obligations.PowerFollowsItsReadings
  rintro ⟨-, -, -, -, -, -, hhold, -⟩
  obtain ⟨u, hbegin, hbit, -⟩ := hhold moduleWithStrayHeldCore noTrigger_moduleWithStrayHeldCore
  have hlost := holdBit_moduleWithStrayHeldCore
  rw [hbegin, rbit, powerStat_spreadHold] at hlost
  exact absurd (hbit.symm.trans hlost) (by decide)

end Sys2Proof.Machine
end
section
/-! Clock targets and power tokens (R320, R322 to R324, Tables 17.4, 17.5 and 17.8). -/

namespace Sys2Proof.Machine
open Sys2Proof

theorem onlyRegs_set (o v : Nat) (s : State) : OnlyRegs [o] s (rset o v s) := ⟨rfl, fun _ ho => rget_rset_ne s (List.ne_of_not_mem_cons ho) v⟩

theorem onlyRegs_setBits (o hi lo x : Nat) (s : State) : OnlyRegs [o] s (rsetBits o hi lo x s) := onlyRegs_set ..

theorem onlyRegs_trans {os ps : List Nat} {s t w : State} (h : OnlyRegs os s t) (g : OnlyRegs ps t w) : OnlyRegs (os ++ ps) s w := by
  obtain ⟨hrest, hregs⟩ := h
  obtain ⟨grest, gregs⟩ := g
  refine ⟨regsOnly_trans hrest grest, fun o ho => ?_⟩
  rw [List.mem_append, not_or] at ho
  exact (gregs o ho.2).trans (hregs o ho.1)

/-! ### The books (R323) -/

/-- The four quantities of PWR_TOK. -/
theorem putTokens_spec (ceil reserve held : Nat) (s : State) :
    let t := putTokens ceil reserve held s
    tokCeil t = ceil % 2 ^ 16 ∧ tokReserve t = reserve % 2 ^ 16 ∧ tokHeld t = held % 2 ^ 16 ∧
      rbits R.PWR_TOK 15 0 t = unsigned 16 ((ceil : Int) - (reserve : Int) - (held : Int)) := by
  intro t
  have hfree : unsigned 16 ((ceil : Int) - (reserve : Int) - (held : Int)) < 2 ^ 16 := by
    unfold unsigned
    omega
  have hget : rget R.PWR_TOK t = unsigned 16 ((ceil : Int) - (reserve : Int) - (held : Int)) + ((held % 2 ^ 16) <<< 16)
      + ((reserve % 2 ^ 16) <<< 32) + ((ceil % 2 ^ 16) <<< 48) := rget_rset_self ..
  clear_value t
  simp only [tokCeil, tokReserve, tokHeld, rbits, bits, hget, Nat.shiftLeft_eq, Nat.shiftRight_eq_div_pow]
  generalize unsigned 16 ((ceil : Int) - (reserve : Int) - (held : Int)) = f at hfree ⊢
  omega

theorem putTokens_books {ceil reserve held : Nat} (hc : ceil < 2 ^ 16) (hr : reserve < 2 ^ 16) (hh : held < 2 ^ 16) (s : State) :
    let t := putTokens ceil reserve held s
    (rbits R.PWR_TOK 15 0 t + tokHeld t + tokReserve t) % 2 ^ 16 = tokCeil t ∧ tokCeil t = ceil ∧ tokReserve t = reserve ∧ tokHeld t = held := by
  obtain ⟨hceil, hreserve, hheld, hfree⟩ := putTokens_spec ceil reserve held s
  intro t
  rw [Nat.mod_eq_of_lt hc] at hceil
  rw [Nat.mod_eq_of_lt hr] at hreserve
  rw [Nat.mod_eq_of_lt hh] at hheld
  refine ⟨?_, hceil, hreserve, hheld⟩
  rw [hceil, hreserve, hheld, hfree]
  unfold unsigned
  omega

theorem tokens_lt (s : State) : tokCeil s < 2 ^ 16 ∧ tokReserve s < 2 ^ 16 := ⟨Nat.mod_lt _ (by decide), Nat.mod_lt _ (by decide)⟩

theorem onlyRegs_putTokens (ceil reserve held : Nat) (s : State) : OnlyRegs [R.PWR_TOK] s (putTokens ceil reserve held s) := by
  unfold putTokens
  exact onlyRegs_set ..

theorem putHeld_spec (h : Nat) (s : State) : OnlyRegs [R.PWR_TOK] s (putHeld h s) ∧ tokHeld (putHeld h s) = h % 2 ^ 16 ∧
    tokCeil (putHeld h s) = tokCeil s ∧ tokReserve (putHeld h s) = tokReserve s := by
  obtain ⟨hceil, hreserve, hheld, -⟩ := putTokens_spec (tokCeil s) (tokReserve s) h s
  exact ⟨onlyRegs_putTokens .., hheld, hceil.trans (Nat.mod_eq_of_lt (tokens_lt s).1), hreserve.trans (Nat.mod_eq_of_lt (tokens_lt s).2)⟩

theorem clk_congr {n : Nat} {s t : State} (h : rget (R.PWR_Inn_CLK n) t = rget (R.PWR_Inn_CLK n) s) :
    clkTokens n t = clkTokens n s ∧ clkCurrent n t = clkCurrent n s ∧ clkTarget n t = clkTarget n s := by
  simp only [clkTokens, clkCurrent, clkTarget, rbits, h, and_self]

/-- Island n's consumer holds k tokens; its frequencies and the rest of the books stand. -/
theorem setTokens_spec (n k : Nat) (s : State) : OnlyRegs [R.PWR_Inn_CLK n, R.PWR_TOK] s (setTokens n k s) ∧ clkTokens n (setTokens n k s) = k % 2 ^ 16 ∧
    clkCurrent n (setTokens n k s) = clkCurrent n s ∧ clkTarget n (setTokens n k s) = clkTarget n s ∧
    tokCeil (setTokens n k s) = tokCeil s ∧ tokReserve (setTokens n k s) = tokReserve s := by
  have hne : R.PWR_Inn_CLK n ≠ R.PWR_TOK := by simp only [R.PWR_Inn_CLK, R.PWR_TOK]; omega
  unfold setTokens
  have hregs : OnlyRegs [R.PWR_Inn_CLK n] s (rsetBits (R.PWR_Inn_CLK n) 31 16 k s) := onlyRegs_setBits ..
  have htokens : clkTokens n (rsetBits (R.PWR_Inn_CLK n) 31 16 k s) = k % 2 ^ 16 := rbits_rsetBits_self s _ 31 16 k (by decide)
  have hcurrent : clkCurrent n (rsetBits (R.PWR_Inn_CLK n) 31 16 k s) = clkCurrent n s := rbits_rsetBits_disjoint s _ 31 16 k 15 8 (by decide) (.inl (by decide))
  have htarget : clkTarget n (rsetBits (R.PWR_Inn_CLK n) 31 16 k s) = clkTarget n s := rbits_rsetBits_disjoint s _ 31 16 k 7 0 (by decide) (.inl (by decide))
  generalize rsetBits (R.PWR_Inn_CLK n) 31 16 k s = t at hregs htokens hcurrent htarget ⊢
  have hbooks : rget R.PWR_TOK t = rget R.PWR_TOK s := hregs.2 _ (by simpa using hne.symm)
  obtain ⟨hput, -, hceil, hreserve⟩ := putHeld_spec (tokHeld s - clkTokens n s + k) t
  generalize putHeld (tokHeld s - clkTokens n s + k) t = w at hput hceil hreserve ⊢
  obtain ⟨htok, hcur, htgt⟩ := clk_congr (hput.2 (R.PWR_Inn_CLK n) (by simpa using hne))
  refine ⟨onlyRegs_trans hregs hput, htok.trans htokens, hcur.trans hcurrent, htgt.trans htarget, hceil.trans ?_, hreserve.trans ?_⟩
  · rw [tokCeil, tokCeil, rbits, rbits, hbooks]
  · rw [tokReserve, tokReserve, rbits, rbits, hbooks]

/-! ### Frequencies (R320, R322) -/

/-- A retarget begins a change or asks for tokens, and changes nothing else. -/
theorem retarget_frame (n : Nat) (s : State) :
    { retarget n s with power := { s.power with changing := (retarget n s).power.changing, requests := (retarget n s).power.requests } } = retarget n s ∧
    { retarget n s with power := s.power } = s := by
  unfold retarget askTokens
  dsimp only
  split
  · exact ⟨rfl, rfl⟩
  · split
    · exact ⟨rfl, rfl⟩
    · split
      · exact ⟨rfl, rfl⟩
      · exact ⟨rfl, rfl⟩

theorem rget_retarget (o n : Nat) (s : State) : rget o (retarget n s) = rget o s := by
  have h := (retarget_frame n s).2
  generalize retarget n s = t at h ⊢
  exact rget_congr (congrArg State.regs h :) o

theorem clk_retarget (m n : Nat) (s : State) : clkTokens m (retarget n s) = clkTokens m s ∧ clkCurrent m (retarget n s) = clkCurrent m s ∧
    clkTarget m (retarget n s) = clkTarget m s := clk_congr (rget_retarget _ n s)

theorem wanted_retarget (m n : Nat) (s : State) : wanted m (retarget n s) = wanted m s := by
  have hthrottle : (retarget n s).power.throttle = s.power.throttle := by
    have h := (retarget_frame n s).1
    generalize retarget n s = t at h ⊢
    exact (congrArg (fun w : State => w.power.throttle) h).symm
  simp only [wanted, neapCaps, neapDue, pwrState, clkTarget, rbit, rbits, rget_retarget, hthrottle]
  rfl

/-- A change downward begins at once. -/
theorem retarget_down {n : Nat} {s : State} (h : wanted n s < clkCurrent n s) (hidle : s.power.changing.any (fun x => x.1 == n) = false) :
    (n, wanted n s) ∈ (retarget n s).power.changing := by
  have hrun : retarget n s = { s with power := { s.power with changing := s.power.changing ++ [(n, wanted n s)] } } := by
    unfold retarget
    dsimp only
    rw [hidle, Bool.or_false, if_neg (by simpa using h.ne), if_pos (by simp [h])]
  rw [hrun]
  exact List.mem_append_right _ (List.mem_singleton.mpr rfl)

theorem snapDown_le (n f : Nat) : snapDown n f ≤ 44 := by
  have hstep : ∀ g ∈ coreSteps, g ≤ 44 := by decide
  unfold snapDown
  split
  · cases h : coreSteps.find? (fun g => decide (g ≤ f)) with
    | none => exact (by decide : 20 ≤ 44)
    | some g => exact hstep g (List.mem_of_find?_eq_some h)
  · split <;> decide

theorem ceilTarget_congr {s t : State} (h : rget R.PWR_CEIL_CLK t = rget R.PWR_CEIL_CLK s) (n : Nat) : ceilTarget n t = ceilTarget n s := by
  unfold ceilTarget ceilCore ceilBank rbit rbits
  rw [h]

theorem clockTarget_spec {n : Nat} (hn : n < 72) (v : Nat) (s : State) :
    let f := snapDown n v
    let t := clockTarget n v s
    clkTarget n t = min f (ceilTarget n s) ∧ (f ≠ v → Counted R.PWR_MISUSE s t) ∧ (ceilTarget n s < f → Counted R.PWR_CLAMPS s t ∧ rbit R.PWR_EVT 2 t = true) ∧
    (wanted n t < clkCurrent n t → s.power.changing.any (fun x => x.1 == n) = false → (n, wanted n t) ∈ t.power.changing) ∧
    { t with regs := s.regs, power := s.power } = s ∧ (∀ o, o ∉ [R.PWR_Inn_CLK n, R.PWR_MISUSE, R.PWR_CLAMPS, R.PWR_EVT] → rget o t = rget o s) := by
  intro f t
  have hf : f ≤ 44 := snapDown_le n v
  have hclk : R.PWR_Inn_CLK n ≠ R.PWR_MISUSE ∧ R.PWR_Inn_CLK n ≠ R.PWR_CLAMPS ∧ R.PWR_Inn_CLK n ≠ R.PWR_EVT ∧ R.PWR_Inn_CLK n ≠ R.PWR_CEIL_CLK := by
    simp only [R.PWR_Inn_CLK, R.PWR_MISUSE, R.PWR_CLAMPS, R.PWR_EVT, R.PWR_CEIL_CLK]
    omega
  obtain ⟨hm, hc, he, -⟩ := hclk
  -- the value is put on the list of valid ones
  obtain ⟨a, ha, hmisuse, haregs⟩ : ∃ a, (if f = v then s else misuse bPWR s) = a ∧ (f ≠ v → Counted R.PWR_MISUSE s a) ∧ OnlyRegs [R.PWR_MISUSE] s a := by
    refine ⟨_, rfl, fun h => ?_, ?_⟩
    · rw [if_neg h]
      exact (misuse_counts s rfl).1
    · split
      · exact ⟨rfl, fun _ _ => rfl⟩
      · exact (misuse_counts s rfl).2
  have hceil : ceilTarget n a = ceilTarget n s := ceilTarget_congr (haregs.2 R.PWR_CEIL_CLK (by decide)) n
  -- it is clamped
  obtain ⟨b, hb, hclamps, hbregs⟩ : ∃ b, (if min f (ceilTarget n a) = f then a else clamped a) = b ∧
      (ceilTarget n a < f → Counted R.PWR_CLAMPS a b ∧ rbit R.PWR_EVT 2 b = true) ∧ OnlyRegs [R.PWR_CLAMPS, R.PWR_EVT] a b := by
    refine ⟨_, rfl, fun h => ?_, ?_⟩
    · rw [if_neg (by omega)]
      refine ⟨?_, rbit_rsetBit_self ..⟩
      unfold clamped Counted
      rw [rbits, rget_rsetBit_ne _ (by decide)]
      exact counted_rcountSat a R.PWR_CLAMPS
    · split
      · exact ⟨rfl, fun _ _ => rfl⟩
      · exact onlyRegs_trans (onlyRegs_rcountSat R.PWR_CLAMPS a) ⟨rfl, fun o ho => rget_rsetBit_ne _ (List.ne_of_not_mem_cons ho) 2⟩
  have ht : t = retarget n (rsetBits (R.PWR_Inn_CLK n) 7 0 (min f (ceilTarget n a)) b) := by
    rw [← hb, ← ha]
    exact if_neg (by omega)
  have htarget : clkTarget n (rsetBits (R.PWR_Inn_CLK n) 7 0 (min f (ceilTarget n a)) b) = min f (ceilTarget n a) :=
    (rbits_rsetBits_self b _ 7 0 _ (by decide)).trans (Nat.mod_eq_of_lt (by omega))
  have hset := onlyRegs_setBits (R.PWR_Inn_CLK n) 7 0 (min f (ceilTarget n a)) b
  generalize rsetBits (R.PWR_Inn_CLK n) 7 0 (min f (ceilTarget n a)) b = w at ht htarget hset
  have hall : OnlyRegs [R.PWR_MISUSE, R.PWR_CLAMPS, R.PWR_EVT, R.PWR_Inn_CLK n] s w := onlyRegs_trans (onlyRegs_trans haregs hbregs) hset
  have hchanging : w.power = s.power := (congrArg State.power hall.1 :)
  rw [ht]
  clear_value t f
  refine ⟨(clk_retarget n n w).2.2.trans (htarget.trans (by rw [hceil])), fun h => ?_, fun h => ?_, fun hdown hidle => ?_, ?_, fun o ho => ?_⟩
  · have hsame : rget R.PWR_MISUSE (retarget n w) = rget R.PWR_MISUSE a :=
      (rget_retarget ..).trans ((hset.2 _ (by simpa using hm.symm)).trans (hbregs.2 _ (by decide)))
    have h' := hmisuse h
    unfold Counted rbits at h' ⊢
    rw [hsame]
    exact h'
  · obtain ⟨hcount, hevt⟩ := hclamps (hceil.symm ▸ h)
    have hsame (o : Nat) (ho : R.PWR_Inn_CLK n ≠ o) : rget o (retarget n w) = rget o b := (rget_retarget ..).trans (hset.2 _ (by simpa using ho.symm))
    have hbase : rget R.PWR_CLAMPS a = rget R.PWR_CLAMPS s := haregs.2 _ (by decide)
    unfold Counted rbits at hcount ⊢
    rw [hsame _ hc, rbit, hsame _ he, ← hbase]
    exact ⟨hcount, hevt⟩
  · rw [wanted_retarget, (clk_retarget n n w).2.1] at hdown
    rw [wanted_retarget]
    exact retarget_down hdown (hchanging ▸ hidle)
  · have hframe := (retarget_frame n w).2
    generalize retarget n w = z at hframe ⊢
    rw [hchanging] at hframe
    exact (congrArg (fun q : State => { q with regs := s.regs }) hframe).trans hall.1
  · rw [rget_retarget]
    refine hall.2 o fun h => ho ?_
    simp only [List.mem_cons, List.not_mem_nil, or_false] at h ⊢
    tauto

theorem islandCost_lt (n f : Nat) : islandCost n f < 2 ^ 16 := by
  unfold islandCost coreCost bankCost
  split_ifs <;> decide

theorem frequencyDone_spec {n f : Nat} {s : State} (h : findKey n s.power.changing = some f) (hf : f < 256) :
    let t := frequencyDone n s
    clkCurrent n t = f ∧ clkTarget n t = clkTarget n s ∧ (clkTokens n s ≠ 0 → clkTokens n t = islandCost n f) ∧
    (∀ k < 124, k ≠ n → rget (R.PWR_Inn_CLK k) t = rget (R.PWR_Inn_CLK k) s) ∧ t.mem = s.mem := by
  obtain ⟨a, ha, harest, haregs⟩ : ∃ a : State, { s with power := { s.power with changing := s.power.changing.filter (fun x => x.1 != n) } } = a ∧
      a.mem = s.mem ∧ ∀ o, rget o a = rget o s := ⟨_, rfl, rfl, fun _ => rfl⟩
  obtain ⟨hatok, -, hatgt⟩ := clk_congr (haregs (R.PWR_Inn_CLK n))
  -- the island runs at its new frequency
  obtain ⟨b, hb, hbmem, hbregs, hbcur, hbtgt, hbtok⟩ : ∃ b, rsetBits (R.PWR_Inn_CLK n) 15 8 f a = b ∧ b.mem = s.mem ∧
      (∀ o, o ≠ R.PWR_Inn_CLK n → rget o b = rget o s) ∧ clkCurrent n b = f ∧ clkTarget n b = clkTarget n s ∧ clkTokens n b = clkTokens n s :=
    ⟨_, rfl, harest, fun o ho => (rget_rsetBits_ne _ ho _ _ _).trans (haregs o), (rbits_rsetBits_self a _ 15 8 f (by decide)).trans (Nat.mod_eq_of_lt hf),
      (rbits_rsetBits_disjoint a _ 15 8 f 7 0 (by decide) (.inl (by decide))).trans hatgt, (rbits_rsetBits_disjoint a _ 15 8 f 31 16 (by decide) (.inr (by decide))).trans hatok⟩
  -- it gives back the tokens beyond its cost
  obtain ⟨d, hd, hdmem, hdregs, hdcur, hdtgt, hdtok⟩ : ∃ d, (if clkTokens n b = 0 then b else setTokens n (islandCost n f) b) = d ∧ d.mem = s.mem ∧
      (∀ o, o ≠ R.PWR_Inn_CLK n → o ≠ R.PWR_TOK → rget o d = rget o s) ∧ clkCurrent n d = f ∧ clkTarget n d = clkTarget n s ∧
      (clkTokens n s ≠ 0 → clkTokens n d = islandCost n f) := by
    refine ⟨_, rfl, ?_⟩
    split
    case isTrue h0 => exact ⟨hbmem, fun o ho _ => hbregs o ho, hbcur, hbtgt, fun hne => absurd (hbtok.symm.trans h0) hne⟩
    case isFalse =>
      obtain ⟨honly, htok, hcur, htgt, -⟩ := setTokens_spec n (islandCost n f) b
      generalize setTokens n (islandCost n f) b = w at honly htok hcur htgt ⊢
      exact ⟨(congrArg State.mem honly.1 :).trans hbmem, fun o ho ho' => (honly.2 o (by simp [ho, ho'])).trans (hbregs o ho), hcur.trans hbcur, htgt.trans hbtgt,
        fun _ => htok.trans (Nat.mod_eq_of_lt (islandCost_lt n f))⟩
  have hrun : frequencyDone n s = retarget n (showBoost d) := by
    unfold frequencyDone
    rw [h]
    dsimp only
    rw [ha, hb, hd]
  have hboost : OnlyRegs [R.PWR_STAT] d (showBoost d) := onlyRegs_setBits ..
  have hstat (k : Nat) : R.PWR_Inn_CLK k ≠ R.PWR_STAT ∧ R.PWR_Inn_CLK k ≠ R.PWR_TOK := by
    simp only [R.PWR_Inn_CLK, R.PWR_STAT, R.PWR_TOK]
    omega
  have hsame (k : Nat) : rget (R.PWR_Inn_CLK k) (retarget n (showBoost d)) = rget (R.PWR_Inn_CLK k) d :=
    (rget_retarget ..).trans (hboost.2 _ (by simpa using (hstat k).1))
  obtain ⟨htok, hcur, htgt⟩ := clk_congr (hsame n)
  intro t
  rw [show t = _ from hrun]
  refine ⟨hcur.trans hdcur, htgt.trans hdtgt, fun hne => htok.trans (hdtok hne), fun k _ hk => (hsame k).trans (hdregs _ ?_ (hstat k).2), ?_⟩
  · simp only [R.PWR_Inn_CLK]
    omega
  · have hframe := (retarget_frame n (showBoost d)).2
    generalize retarget n (showBoost d) = w at hframe ⊢
    generalize showBoost d = z at hframe hboost
    exact (congrArg State.mem hframe :).trans ((congrArg State.mem hboost.1 :).trans hdmem)

/-! ### Requests, grants and releases (R322) -/

/-- The oldest request leaves the queue, and its wait is counted. -/
def granted (rest : List (Consumer × Nat)) (s : State) : State :=
  bumpFree (rcountBy R.PWR_WAITCYC (Config.freeNat s.freeCtr) { s with power := { s.power with requests := rest } })

theorem granted_spec (rest : List (Consumer × Nat)) (s : State) : (granted rest s).power = { s.power with requests := rest } ∧
    OnlyRegs [R.PWR_WAITCYC] s { granted rest s with power := s.power, freeCtr := s.freeCtr } :=
  ⟨rfl, rfl, fun _ ho => rget_rset_ne _ (List.ne_of_not_mem_cons ho) _⟩

theorem tokenGrant_cases {s : State} {x : Consumer} {k : Nat} {rest : List (Consumer × Nat)} (h : s.power.requests = (x, k) :: rest) :
    (tokFree s < (k : Int) → tokenGrant s = s) ∧
    ((k : Int) ≤ tokFree s →
      (∀ z, x = .vert z → tokenGrant s = putHeld (tokHeld (granted rest s) + k)
        { granted rest s with power := { (granted rest s).power with vert := (granted rest s).power.vert ++ [z.val] } }) ∧
      (∀ n, islandOf x = some n → tokenGrant s = grantIsland n k (granted rest s))) := by
  unfold tokenGrant
  rw [h]
  dsimp only
  refine ⟨fun hk => if_neg (Int.not_le.mpr hk), fun hk => ⟨fun z hz => ?_, fun n hn => ?_⟩⟩
  · subst hz
    exact if_pos hk
  · rw [if_pos hk, hn]
    rfl

theorem tokenGrant_vert {s : State} {z : StackN} {k : Nat} {rest : List (Consumer × Nat)} (h : s.power.requests = (.vert z, k) :: rest) (hk : (k : Int) ≤ tokFree s) :
    (tokenGrant s).power.vert = s.power.vert ++ [z.val] ∧ (tokenGrant s).power.requests = rest ∧ tokHeld (tokenGrant s) = (tokHeld s + k) % 2 ^ 16 ∧
    tokCeil (tokenGrant s) = tokCeil s ∧ tokReserve (tokenGrant s) = tokReserve s := by
  rw [((tokenGrant_cases h).2 hk).1 z rfl]
  obtain ⟨hpower, honly⟩ := granted_spec rest s
  have hbooks : rget R.PWR_TOK (granted rest s) = rget R.PWR_TOK s := honly.2 R.PWR_TOK (by decide)
  generalize granted rest s = g at hpower hbooks ⊢
  have hheld : tokHeld g = tokHeld s := by rw [tokHeld, tokHeld, rbits, rbits, hbooks]
  obtain ⟨w, hw, hwpower, hwbooks⟩ : ∃ w : State, { g with power := { g.power with vert := g.power.vert ++ [z.val] } } = w ∧
      w.power = { g.power with vert := g.power.vert ++ [z.val] } ∧ rget R.PWR_TOK w = rget R.PWR_TOK s := ⟨_, rfl, rfl, hbooks⟩
  rw [hw, hheld]
  obtain ⟨hput, hputHeld, hceil, hreserve⟩ := putHeld_spec (tokHeld s + k) w
  generalize putHeld (tokHeld s + k) w = t at hput hputHeld hceil hreserve ⊢
  have hpow : t.power = w.power := (congrArg State.power hput.1 :)
  rw [hpow, hwpower, hpower]
  refine ⟨rfl, rfl, hputHeld, hceil.trans ?_, hreserve.trans ?_⟩
  · rw [tokCeil, tokCeil, rbits, rbits, hwbooks]
  · rw [tokReserve, tokReserve, rbits, rbits, hwbooks]

theorem grantIsland_spec {n : Nat} (hn : n < 72) (k : Nat) (s : State) :
    (clkTokens n s = 0 → clkTokens n (grantIsland n k s) =
      islandCost n (match findKey n s.power.changing with | none => clkCurrent n s | some f => max (clkCurrent n s) f)) ∧
    (clkTokens n s ≠ 0 → clkCurrent n s < wanted n s → clkTokens n (grantIsland n k s) = (clkTokens n s + k) % 2 ^ 16 ∧
      s.power.changing.length < (grantIsland n k s).power.changing.length) := by
  refine ⟨fun h => ?_, fun h hw => ?_⟩
  · have hheading : clkHeading n s = (match findKey n s.power.changing with | none => clkCurrent n s | some f => max (clkCurrent n s) f) := by
      unfold clkHeading
      cases findKey n s.power.changing with
      | none => exact Nat.max_zero _
      | some f => rfl
    have hrun : grantIsland n k s = retarget n (setTokens n (islandCost n (clkHeading n s)) s) := by
      unfold grantIsland
      dsimp only
      rw [if_pos (.inl h), if_pos hn, if_pos hn]
    rw [← hheading, hrun, (clk_retarget n n _).1, (setTokens_spec n _ s).2.1]
    exact Nat.mod_eq_of_lt (islandCost_lt n _)
  · have hrun : ∃ f, grantIsland n k s = { setTokens n (clkTokens n s + k) s with
        power := { (setTokens n (clkTokens n s + k) s).power with changing := (setTokens n (clkTokens n s + k) s).power.changing ++ [(n, f)] } } := by
      unfold grantIsland
      dsimp only
      rw [if_neg (by omega), if_neg (Nat.not_le.mpr hw)]
      exact ⟨_, rfl⟩
    obtain ⟨f, hf⟩ := hrun
    obtain ⟨honly, htok, -⟩ := setTokens_spec n (clkTokens n s + k) s
    rw [hf]
    generalize setTokens n (clkTokens n s + k) s = t at honly htok ⊢
    have hpower : t.power = s.power := (congrArg State.power honly.1 :)
    refine ⟨htok, ?_⟩
    rw [hpower]
    exact List.length_append ▸ Nat.lt_succ_self _

/-- The tokens of an island's consumer are taken back. -/
theorem releaseIsland_spec (n : Nat) {s w : State} (hregs : w.regs = s.regs) (hmem : w.mem = s.mem) :
    clkTokens n (setTokens n 0 w) = 0 ∧ tokCeil (setTokens n 0 w) = tokCeil s ∧ tokReserve (setTokens n 0 w) = tokReserve s ∧
      (setTokens n 0 w).power.requests = w.power.requests ∧ (setTokens n 0 w).mem = s.mem := by
  obtain ⟨honly, htok, -, -, hceil, hreserve⟩ := setTokens_spec n 0 w
  generalize setTokens n 0 w = t at honly htok hceil hreserve ⊢
  refine ⟨htok, hceil.trans ?_, hreserve.trans ?_, (congrArg (fun q : State => q.power.requests) honly.1 :), (congrArg State.mem honly.1 :).trans hmem⟩
  · rw [tokCeil, tokCeil, rbits, rbits, rget_congr hregs]
  · rw [tokReserve, tokReserve, rbits, rbits, rget_congr hregs]

/-- The tokens of a vertical interface are taken back. -/
theorem releaseVert_spec (z h : Nat) {s w : State} (hregs : w.regs = s.regs) (hmem : w.mem = s.mem) (hvert : w.power.vert = s.power.vert.filter (fun y => y != z)) :
    (putHeld h w).power.vert.contains z = false ∧ tokCeil (putHeld h w) = tokCeil s ∧ tokReserve (putHeld h w) = tokReserve s ∧
      (putHeld h w).power.requests = w.power.requests ∧ (putHeld h w).mem = s.mem := by
  obtain ⟨honly, -, hceil, hreserve⟩ := putHeld_spec h w
  generalize putHeld h w = t at honly hceil hreserve ⊢
  have hpower : t.power = w.power := (congrArg State.power honly.1 :)
  refine ⟨?_, hceil.trans ?_, hreserve.trans ?_, (congrArg PowerX.requests hpower :), (congrArg State.mem honly.1 :).trans hmem⟩
  · rw [hpower, hvert]
    simp
  · rw [tokCeil, tokCeil, rbits, rbits, rget_congr hregs]
  · rw [tokReserve, tokReserve, rbits, rbits, rget_congr hregs]

/-- The request and the tokens of a consumer that has stopped are taken back. -/
theorem tokenRelease_spec (x : Consumer) (s : State) :
    (hasStopped x s = true → tokensOf x s ≠ 0 → ∃ t, tokenRelease x s = t ∧ tokensOf x t = 0 ∧ tokCeil t = tokCeil s ∧
      tokReserve t = tokReserve s ∧ t.power.requests = s.power.requests.filter (fun r => !(r.1 == x)) ∧ t.mem = s.mem) ∧
    (hasStopped x s = false ∨ tokensOf x s = 0 → tokenRelease x s = s) := by
  refine ⟨fun h hne => ⟨_, rfl, ?_⟩, fun h => if_neg ?_⟩
  · have hcond : (hasStopped x s && tokensOf x s != 0) = true := by rw [h, bne_iff_ne.mpr hne, Bool.and_self]
    unfold tokenRelease
    rw [if_pos hcond]
    cases x with
    | core n => exact releaseIsland_spec n.val rfl rfl
    | bank k => exact releaseIsland_spec (64 + k.val) rfl rfl
    | port p => exact releaseIsland_spec (89 + p.val) rfl rfl
    | vert z =>
      obtain ⟨hvert, hrest⟩ := releaseVert_spec z.val (tokHeld s - 300) (s := s) (w := { s with power := { s.power with
        requests := s.power.requests.filter (fun r => !(r.1 == .vert z)), vert := s.power.vert.filter (fun y => y != z.val) } }) rfl rfl rfl
      exact ⟨if_neg fun hc => Bool.false_ne_true (hvert.symm.trans hc), hrest⟩
  · rw [Bool.and_eq_true, bne_iff_ne, not_and_or, not_not, Bool.not_eq_true]
    exact h

/-! ### Governed fields (R324) -/

theorem onlyRegs_lower (off hi lo c : Nat) (s : State) : OnlyRegs [off] s (lower off hi lo c s) := by
  unfold lower
  split
  · exact onlyRegs_setBits ..
  · exact ⟨rfl, fun _ _ => rfl⟩

theorem rget_lower {o off : Nat} (h : o ≠ off) (hi lo c : Nat) (s : State) : rget o (lower off hi lo c s) = rget o s :=
  (onlyRegs_lower off hi lo c s).2 o (mt List.mem_singleton.mp h)

theorem rbits_lower_le (off : Nat) {hi lo : Nat} (h : lo ≤ hi) (c : Nat) (s : State) : rbits off hi lo (lower off hi lo c s) ≤ c := by
  unfold lower
  split
  · rw [rbits_rsetBits_self s off hi lo c h]
    exact Nat.mod_le ..
  · exact Nat.not_lt.mp ‹_›

theorem rbits_lower_disjoint (off : Nat) {hi lo a b : Nat} (h : lo ≤ hi) (hd : a < lo ∨ hi < b) (c : Nat) (s : State) :
    rbits off a b (lower off hi lo c s) = rbits off a b s := by
  unfold lower
  split
  · exact rbits_rsetBits_disjoint s off hi lo c a b h hd
  · rfl

/-- The islands' TARGET come down to the ceiling. -/
def lowerClocks (m : Nat) (s : State) : State := (List.range m).foldl (fun t n => lower (R.PWR_Inn_CLK n) 7 0 (ceilTarget n t) t) s

theorem lowerClocks_spec (m : Nat) (s : State) : (∀ o, (∀ n, o ≠ R.PWR_Inn_CLK n) → rget o (lowerClocks m s) = rget o s) ∧
    ∀ n < m, clkTarget n (lowerClocks m s) ≤ ceilTarget n s := by
  induction m with
  | zero => exact ⟨fun _ _ => rfl, fun n hn => absurd hn (Nat.not_lt_zero n)⟩
  | succ m ih =>
    obtain ⟨hregs, hle⟩ := ih
    have hstep : lowerClocks (m + 1) s = lower (R.PWR_Inn_CLK m) 7 0 (ceilTarget m (lowerClocks m s)) (lowerClocks m s) := by
      rw [lowerClocks, List.range_succ, List.foldl_append]
      rfl
    have hceil : ceilTarget m (lowerClocks m s) = ceilTarget m s :=
      ceilTarget_congr (hregs _ fun n => by simp only [R.PWR_CEIL_CLK, R.PWR_Inn_CLK]; omega) m
    rw [hstep, hceil]
    refine ⟨fun o ho => (rget_lower (ho m) ..).trans (hregs o ho), fun n hn => ?_⟩
    by_cases hnm : n = m
    · subst hnm
      exact rbits_lower_le _ (by decide) _ _
    · have hne : R.PWR_Inn_CLK n ≠ R.PWR_Inn_CLK m := by
        simp only [R.PWR_Inn_CLK]
        omega
      rw [(clk_congr (rget_lower hne ..)).2.2]
      exact hle n (by omega)

theorem rget_retargetAll (o : Nat) (s : State) : rget o (retargetAll s) = rget o s := by
  unfold retargetAll
  generalize List.range 72 = l
  induction l generalizing s with
  | nil => rfl
  | cons n l ih => exact (ih _).trans (rget_retarget o n s)

/-- The fields of PWR_THERM come down to their ceilings. -/
def lowerTherm (s : State) : State :=
  let t := lower R.PWR_THERM 7 0 (rbits R.PWR_CEIL_THERM 7 0 s) s
  let t := lower R.PWR_THERM 15 8 (rbits R.PWR_CEIL_THERM 15 8 t) t
  lower R.PWR_THERM 23 16 (rbits R.PWR_CEIL_THERM 31 24 t) t

theorem lowerTherm_spec (s : State) : (∀ o, o ≠ R.PWR_THERM → rget o (lowerTherm s) = rget o s) ∧ tThr (lowerTherm s) ≤ rbits R.PWR_CEIL_THERM 7 0 s ∧
    tHold (lowerTherm s) ≤ rbits R.PWR_CEIL_THERM 15 8 s ∧ tInMax (lowerTherm s) ≤ rbits R.PWR_CEIL_THERM 31 24 s := by
  have hceil (hi lo hi' lo' c : Nat) (t : State) : rbits R.PWR_CEIL_THERM hi lo (lower R.PWR_THERM hi' lo' c t) = rbits R.PWR_CEIL_THERM hi lo t := by
    rw [rbits, rbits, rget_lower (by decide)]
  unfold lowerTherm tThr tHold tInMax
  dsimp only
  refine ⟨fun o ho => ?_, ?_, ?_, ?_⟩
  · rw [rget_lower ho, rget_lower ho, rget_lower ho]
  · rw [rbits_lower_disjoint _ (by decide) (.inl (by decide)), rbits_lower_disjoint _ (by decide) (.inl (by decide))]
    exact rbits_lower_le _ (by decide) _ _
  · rw [rbits_lower_disjoint _ (by decide) (.inl (by decide)), hceil]
    exact rbits_lower_le _ (by decide) _ _
  · rw [hceil, hceil]
    exact rbits_lower_le _ (by decide) _ _

/-- The page manager's status follows the prefetch depth. -/
theorem rget_showDepthOfPool {o : Nat} (ho : o ∉ [R.KVP_FREE, R.KVP_STAT, R.KVP_EVT]) (s : State) : rget o (showDepthOfPool s) = rget o s := by
  simp only [List.mem_cons, List.not_mem_nil, or_false, not_or] at ho
  obtain ⟨hfree, hstat, hevt⟩ := ho
  have hbase (a b n : Nat) : rget o (rsetBits R.KVP_STAT 15 8 a (rsetBits R.KVP_STAT 1 1 b (rset R.KVP_FREE n s))) = rget o s := by
    rw [rget_rsetBits_ne _ hstat, rget_rsetBits_ne _ hstat, rget_rset_ne _ hfree]
  unfold showDepthOfPool showPool
  dsimp only
  split
  · split
    · exact (rget_rsetBit_ne _ hevt 0).trans (hbase ..)
    · exact hbase ..
  · rfl

/-- The governed fields outside the clocks and PWR_THERM come down to their ceilings. -/
def lowerRest (s : State) : State :=
  let t := showDepthOfPool (lower R.KVP_PF 7 0 (rbits R.PWR_CEIL_PF 7 0 s) s)
  let t := lower R.STS_WATER 31 16 (rbits R.PWR_CEIL_STS 15 0 t) t
  lower R.RLY_DEADLINE 31 0 (rget R.PWR_CEIL_DL t) t

theorem rget_lowerRest {o : Nat} (ho : o ∉ [R.KVP_PF, R.KVP_FREE, R.KVP_STAT, R.KVP_EVT, R.STS_WATER, R.RLY_DEADLINE]) (s : State) : rget o (lowerRest s) = rget o s := by
  simp only [List.mem_cons, List.not_mem_nil, or_false, not_or] at ho
  obtain ⟨hpf, hfree, hstat, hevt, hwater, hdeadline⟩ := ho
  exact (rget_lower hdeadline ..).trans ((rget_lower hwater ..).trans ((rget_showDepthOfPool (by simp [hfree, hstat, hevt]) _).trans (rget_lower hpf ..)))

theorem lowerRest_spec (s : State) : rbits R.KVP_PF 7 0 (lowerRest s) ≤ rbits R.PWR_CEIL_PF 7 0 s ∧
    rbits R.STS_WATER 31 16 (lowerRest s) ≤ rbits R.PWR_CEIL_STS 15 0 s ∧ rbits R.RLY_DEADLINE 31 0 (lowerRest s) ≤ rget R.PWR_CEIL_DL s := by
  have hpf := rbits_lower_le R.KVP_PF (hi := 7) (lo := 0) (by decide) (rbits R.PWR_CEIL_PF 7 0 s) s
  unfold lowerRest
  dsimp only
  have hdepth (o : Nat) (h : o ∉ [R.KVP_FREE, R.KVP_STAT, R.KVP_EVT]) := rget_showDepthOfPool h (lower R.KVP_PF 7 0 (rbits R.PWR_CEIL_PF 7 0 s) s)
  have hsts : rget R.PWR_CEIL_STS (showDepthOfPool (lower R.KVP_PF 7 0 (rbits R.PWR_CEIL_PF 7 0 s) s)) = rget R.PWR_CEIL_STS s :=
    (hdepth _ (by decide)).trans (rget_lower (by decide) ..)
  have hdl : rget R.PWR_CEIL_DL (showDepthOfPool (lower R.KVP_PF 7 0 (rbits R.PWR_CEIL_PF 7 0 s) s)) = rget R.PWR_CEIL_DL s :=
    (hdepth _ (by decide)).trans (rget_lower (by decide) ..)
  have hpf' := hdepth R.KVP_PF (by decide)
  generalize showDepthOfPool (lower R.KVP_PF 7 0 (rbits R.PWR_CEIL_PF 7 0 s) s) = a at hsts hdl hpf' ⊢
  refine ⟨?_, ?_, ?_⟩
  · rw [rbits, rget_lower (by decide), rget_lower (by decide), hpf']
    exact hpf
  · rw [rbits, rget_lower (by decide)]
    have hle := rbits_lower_le R.STS_WATER (hi := 31) (lo := 16) (by decide) (rbits R.PWR_CEIL_STS 15 0 a) a
    rw [show rbits R.PWR_CEIL_STS 15 0 s = rbits R.PWR_CEIL_STS 15 0 a by rw [rbits, rbits, hsts]]
    exact hle
  · have hsame : rget R.PWR_CEIL_DL (lower R.STS_WATER 31 16 (rbits R.PWR_CEIL_STS 15 0 a) a) = rget R.PWR_CEIL_DL s := (rget_lower (by decide) ..).trans hdl
    rw [hsame]
    exact rbits_lower_le _ (by decide) _ _

theorem lowerGoverned_eq (s : State) : lowerGoverned s = retargetAll (lowerRest (lowerTherm (lowerClocks 72 s))) := rfl

theorem lowerGoverned_spec (s : State) :
    let t := lowerGoverned s
    (∀ n < 72, clkTarget n t ≤ ceilTarget n t) ∧ tThr t ≤ rbits R.PWR_CEIL_THERM 7 0 t ∧ tHold t ≤ rbits R.PWR_CEIL_THERM 15 8 t ∧
    tInMax t ≤ rbits R.PWR_CEIL_THERM 31 24 t ∧ rbits R.KVP_PF 7 0 t ≤ rbits R.PWR_CEIL_PF 7 0 t ∧
    rbits R.STS_WATER 31 16 t ≤ rbits R.PWR_CEIL_STS 15 0 t ∧ rbits R.RLY_DEADLINE 31 0 t ≤ rget R.PWR_CEIL_DL t := by
  obtain ⟨hclockRegs, hclock⟩ := lowerClocks_spec 72 s
  obtain ⟨hthermRegs, hthr, hhold, hin⟩ := lowerTherm_spec (lowerClocks 72 s)
  obtain ⟨hpf, hsts, hdl⟩ := lowerRest_spec (lowerTherm (lowerClocks 72 s))
  have hrest {o : Nat} (ho : o ∉ [R.KVP_PF, R.KVP_FREE, R.KVP_STAT, R.KVP_EVT, R.STS_WATER, R.RLY_DEADLINE]) :=
    rget_lowerRest ho (lowerTherm (lowerClocks 72 s))
  have hall (o : Nat) : rget o (lowerGoverned s) = rget o (lowerRest (lowerTherm (lowerClocks 72 s))) :=
    (congrArg (rget o) (lowerGoverned_eq s)).trans (rget_retargetAll o _)
  have hceilClk : rget R.PWR_CEIL_CLK (lowerGoverned s) = rget R.PWR_CEIL_CLK s :=
    (hall _).trans ((hrest (by decide)).trans ((hthermRegs _ (by decide)).trans (hclockRegs _ fun n => by simp only [R.PWR_CEIL_CLK, R.PWR_Inn_CLK]; omega)))
  have hclk (n : Nat) : rget (R.PWR_Inn_CLK n) (lowerGoverned s) = rget (R.PWR_Inn_CLK n) (lowerClocks 72 s) := by
    refine (hall _).trans ((hrest ?_).trans (hthermRegs _ ?_))
    · simp only [List.mem_cons, List.not_mem_nil, or_false, R.PWR_Inn_CLK, R.KVP_PF, R.KVP_FREE, R.KVP_STAT, R.KVP_EVT, R.STS_WATER, R.RLY_DEADLINE]
      omega
    · simp only [R.PWR_Inn_CLK, R.PWR_THERM]
      omega
  have htherm : rget R.PWR_THERM (lowerGoverned s) = rget R.PWR_THERM (lowerTherm (lowerClocks 72 s)) := (hall _).trans (hrest (by decide))
  have hceilTherm : rget R.PWR_CEIL_THERM (lowerGoverned s) = rget R.PWR_CEIL_THERM (lowerClocks 72 s) :=
    (hall _).trans ((hrest (by decide)).trans (hthermRegs _ (by decide)))
  have hceilPf : rget R.PWR_CEIL_PF (lowerGoverned s) = rget R.PWR_CEIL_PF (lowerTherm (lowerClocks 72 s)) := (hall _).trans (hrest (by decide))
  have hceilSts : rget R.PWR_CEIL_STS (lowerGoverned s) = rget R.PWR_CEIL_STS (lowerTherm (lowerClocks 72 s)) := (hall _).trans (hrest (by decide))
  have hceilDl : rget R.PWR_CEIL_DL (lowerGoverned s) = rget R.PWR_CEIL_DL (lowerTherm (lowerClocks 72 s)) := (hall _).trans (hrest (by decide))
  unfold tThr rbits at hthr
  unfold tHold rbits at hhold
  unfold tInMax rbits at hin
  unfold rbits at hpf hsts hdl
  dsimp only
  unfold tThr tHold tInMax rbits
  rw [htherm, hceilTherm, hall R.KVP_PF, hall R.STS_WATER, hall R.RLY_DEADLINE, hceilPf, hceilSts, hceilDl]
  refine ⟨fun n hn => ?_, hthr, hhold, hin, hpf, hsts, hdl⟩
  rw [(clk_congr (hclk n)).2.2, ceilTarget_congr hceilClk]
  exact hclock n hn

/-- Settles O54: what each event does to an island's frequencies, the requests and the books, and that every governed field is lowered. -/
theorem clocksAndTokensKeepTheirBooks : Obligations.ClocksAndTokensKeepTheirBooks := by
  unfold Obligations.ClocksAndTokensKeepTheirBooks
  refine ⟨fun n v s hn => ⟨_, rfl, clockTarget_spec hn v.toNat s⟩, fun n v s hn => congrArg Host.Outcome.next (if_pos hn),
    fun n s => ⟨fun f h hf => ⟨_, rfl, frequencyDone_spec h hf⟩, fun h => congrArg Host.Outcome.next ?noChange⟩,
    fun x s => ⟨fun h => congrArg Host.Outcome.next (if_pos h), fun h => congrArg Host.Outcome.next (if_neg (by rw [h]; exact Bool.false_ne_true))⟩,
    fun s h => congrArg Host.Outcome.next ?noRequest, ?grants, fun n k s hn => grantIsland_spec hn k s, ?releases,
    fun s ceil reserve held hc hr hh => putTokens_books hc hr hh s, fun s => lowerGoverned_spec s⟩
  case noChange => rw [frequencyDone, h]
  case noRequest => rw [tokenGrant, h]
  case grants =>
    intro s x k rest h
    obtain ⟨hwaits, hgrants⟩ := tokenGrant_cases h
    refine ⟨fun hk => congrArg Host.Outcome.next (hwaits hk), fun hk => ⟨fun z hz => ?_, fun n hn => ?_⟩⟩
    · subst hz
      exact ⟨_, rfl, tokenGrant_vert h hk⟩
    · exact ⟨_, congrArg Host.Outcome.next ((hgrants hk).2 n hn), granted_spec rest s⟩
  case releases =>
    intro x s
    obtain ⟨hrelease, hkeep⟩ := tokenRelease_spec x s
    refine ⟨fun h hne => ?_, fun h => congrArg Host.Outcome.next (hkeep h)⟩
    obtain ⟨t, ht, hspec⟩ := hrelease h hne
    exact ⟨t, congrArg Host.Outcome.next ht, hspec⟩

end Sys2Proof.Machine
end
section
/-! The meter's books (R294, R301, R302, R340, R341): ticks, records, their signing, collection and acknowledgement. -/

namespace Sys2Proof.Machine
open Sys2Proof

/-! ### Ticks (R294) -/

theorem tickBin_lt (s : State) (n : Nat) (c : CoreTick) : tickBin s n c = none ∨ ∃ k < 16, tickBin s n c = some k := by
  unfold tickBin
  dsimp only
  split
  · exact .inr ⟨0, by decide, rfl⟩
  · split
    · exact .inl rfl
    · generalize idleCauses n s ++ _ = l
      refine .inr ⟨_, ?_, rfl⟩
      cases h : leastBelow 16 (fun i => l.contains i) with
      | none => exact (by decide : 15 < 16)
      | some k => exact List.mem_range.mp (List.mem_of_find?_eq_some h)

theorem tickBin_idle {s : State} (hs : inHoldfast s = false) (n : Nat) (l : List (Fin 16)) {c : Fin 16} (hc : c ∈ l) :
    ∃ k ≤ c.val, tickBin s n (.idle l) = some k := by
  have hbin : tickBin s n (.idle l) = some ((leastBelow 16 (fun i => (idleCauses n s ++ l.map (·.val)).contains i)).getD 15) := by
    unfold tickBin
    rw [if_neg (by rw [hs]; exact Bool.false_ne_true)]
    exact if_neg fun h => CoreTick.noConfusion h.1
  have hmem : (idleCauses n s ++ l.map (·.val)).contains c.val = true :=
    List.contains_iff_mem.mpr (List.mem_append_right _ (List.mem_map_of_mem hc))
  rw [hbin]
  generalize idleCauses n s ++ l.map (·.val) = m at hmem
  refine ⟨_, ?_, rfl⟩
  have hfound : ∃ k, leastBelow 16 (fun i => m.contains i) = some k := by
    refine Option.isSome_iff_exists.mp ?_
    unfold leastBelow
    rw [List.find?_isSome]
    exact ⟨c.val, List.mem_range.mpr c.isLt, hmem⟩
  obtain ⟨k, hk⟩ := hfound
  rw [hk, Option.getD_some]
  by_contra hlt
  have hbefore := (List.find?_range_eq_some.mp hk).2.2 c.val (Nat.not_le.mp hlt)
  simp only [hmem] at hbefore
  exact absurd hbefore (by decide)

theorem countBin_frame (s : State) (b : Option Nat) : { countBin s b with regs := s.regs } = s := by
  cases b <;> rfl

theorem rget_countBin_ne {o : Nat} {b : Option Nat} (h : o ≠ match b with | none => R.KPR_BUSY | some i => R.KPR_IDLE i) (s : State) :
    rget o (countBin s b) = rget o s := by
  cases b with
  | none => exact rget_rset_ne s h _
  | some i => exact rget_rset_ne s h _

/-- Each bin is a register of its own, and counts the cores that are in it. -/
theorem bins_countBins (l : List (Option Nat)) (hl : ∀ b ∈ l, b = none ∨ ∃ k < 16, b = some k) (s : State) :
    rget R.KPR_BUSY (l.foldl countBin s) % 2 ^ 64 = (rget R.KPR_BUSY s + (l.filter (fun b => b == none)).length) % 2 ^ 64 ∧
    (∀ k < 16, rget (R.KPR_IDLE k) (l.foldl countBin s) % 2 ^ 64 = (rget (R.KPR_IDLE k) s + (l.filter (fun b => b == some k)).length) % 2 ^ 64) ∧
    rget R.PWR_STAT (l.foldl countBin s) = rget R.PWR_STAT s := by
  induction l generalizing s with
  | nil => exact ⟨rfl, fun _ _ => rfl, rfl⟩
  | cons b l ih =>
    obtain ⟨hbusy, hidle, hstat⟩ := ih (fun b hb => hl b (List.mem_cons_of_mem _ hb)) (countBin s b)
    rw [List.foldl_cons, hbusy, hstat]
    rcases hl b List.mem_cons_self with rfl | ⟨i, hi, rfl⟩
    · have hself : rget R.KPR_BUSY (countBin s none) = (rget R.KPR_BUSY s + 1) % 2 ^ 64 := rget_rset_self ..
      refine ⟨?_, fun k hk => ?_, rget_countBin_ne (b := none) (by decide) s⟩
      · rw [hself, List.filter_cons_of_pos rfl, List.length_cons]
        omega
      · have hne : R.KPR_IDLE k ≠ R.KPR_BUSY := by
          simp only [R.KPR_BUSY, R.KPR_IDLE]
          omega
        rw [hidle k hk, rget_countBin_ne (b := none) hne s, List.filter_cons_of_neg (by simp)]
    · have hself : rget (R.KPR_IDLE i) (countBin s (some i)) = (rget (R.KPR_IDLE i) s + 1) % 2 ^ 64 := rget_rset_self ..
      have hreg (o : Nat) (ho : o ≠ R.KPR_IDLE i) : rget o (countBin s (some i)) = rget o s := rget_countBin_ne (b := some i) ho s
      refine ⟨?_, fun k hk => ?_, hreg _ (by simp only [R.PWR_STAT, R.KPR_IDLE]; omega)⟩
      · rw [hreg _ (by simp only [R.KPR_BUSY, R.KPR_IDLE]; omega), List.filter_cons_of_neg (by simp)]
      · rw [hidle k hk]
        by_cases hki : k = i
        · subst hki
          rw [hself, List.filter_cons_of_pos (by simp), List.length_cons]
          omega
        · have hne : R.KPR_IDLE k ≠ R.KPR_IDLE i := by
            simp only [R.KPR_IDLE]
            omega
          rw [hreg _ hne, List.filter_cons_of_neg (by simpa using Ne.symm hki)]

theorem countBins_frame (l : List (Option Nat)) (s : State) : { l.foldl countBin s with regs := s.regs } = s :=
  regsOnly_foldl countBin_frame l s

theorem getD_set_states {l : List Nat} (hl : l.length = 4) {p : Nat} (hp : p < 4) {k : Nat} (hk : k < 4) :
    (l.set p (l.getD p 0 + 1)).getD k 0 = l.getD k 0 + if k = p then 1 else 0 := by
  simp only [List.getD_eq_getElem?_getD, List.getElem?_set]
  by_cases h : k = p
  · subst h
    rw [if_pos rfl, if_pos (by omega), if_pos rfl]
    rfl
  · rw [if_neg (Ne.symm h), if_neg h]
    rfl

/-- A tick counts in the module's state. -/
def countState (w : State) : State :=
  { w with naust := { w.naust with tick := w.naust.tick + 1, states := w.naust.states.set (pwrState w) (w.naust.states.getD (pwrState w) 0 + 1) } }

theorem meterTick_spec (cores : List CoreTick) {s : State} (hn : s.boot.naust = true) (hl : s.naust.states.length = 4) :
    let bin (i : Nat) := tickBin s i (cores.getD i (.idle []))
    let t := meterTick cores s
    t.naust.tick = s.naust.tick + 1 ∧ rget R.KPR_BUSY t % 2 ^ 64 = (rget R.KPR_BUSY s + ((List.range 64).filter (fun i => bin i == none)).length) % 2 ^ 64 ∧
    (∀ k < 16, rget (R.KPR_IDLE k) t % 2 ^ 64 = (rget (R.KPR_IDLE k) s + ((List.range 64).filter (fun i => bin i == some k)).length) % 2 ^ 64) ∧
    (∀ k < 4, t.naust.states.getD k 0 = s.naust.states.getD k 0 + if k = pwrState s then 1 else 0) ∧ { t with regs := s.regs, naust := s.naust } = s := by
  intro bin t
  have hbins : ∀ b ∈ (List.range 64).map bin, b = none ∨ ∃ k < 16, b = some k := fun b hb => by
    obtain ⟨i, -, rfl⟩ := List.mem_map.mp hb
    exact tickBin_lt s i _
  obtain ⟨hbusy, hidle, hstat⟩ := bins_countBins _ hbins s
  have hframe := countBins_frame ((List.range 64).map bin) s
  have hcount (q : Option Nat) : (((List.range 64).map bin).filter (fun b => b == q)).length = ((List.range 64).filter (fun i => bin i == q)).length := by
    rw [List.filter_map, List.length_map]
    rfl
  rw [hcount] at hbusy
  have ht : t = countState (((List.range 64).map bin).foldl countBin s) := if_pos hn
  rw [ht]
  clear_value t
  generalize ((List.range 64).map bin).foldl countBin s = w at hbusy hidle hstat hframe ⊢
  have hnaust : w.naust = s.naust := (congrArg State.naust hframe :)
  have hstate : pwrState w = pwrState s := congrArg (fun v => bits v 1 0) hstat
  unfold countState
  rw [hnaust, hstate]
  refine ⟨rfl, hbusy, fun k hk => ?_, fun k hk => getD_set_states hl (Nat.mod_lt _ (by decide)) hk, (congrArg (fun q : State => { q with naust := s.naust }) hframe :)⟩
  rw [← hcount]
  exact hidle k hk

/-! ### Records (R340, R341) -/

/-- The record that a cause closes. -/
def closedRecord (cause : Nat) (s : State) : MeterRec :=
  { bootId := bootId s, seq := s.naust.seq, bytes := meterRecord (s.naust.causes ||| 2 ^ cause) (s.naust.causes != 0) s }

/-- The idle bins of a list are cleared. -/
def clearIdle (l : List Nat) (s : State) : State := l.foldl (fun t c => rset (R.KPR_IDLE c) 0 t) s

theorem clearIdle_spec (l : List Nat) (hl : ∀ k ∈ l, k < 16) (s : State) : (∀ o, (∀ k < 16, o ≠ R.KPR_IDLE k) → rget o (clearIdle l s) = rget o s) ∧
    ∀ k, (k ∈ l ∨ rget (R.KPR_IDLE k) s = 0) → rget (R.KPR_IDLE k) (clearIdle l s) = 0 := by
  induction l generalizing s with
  | nil => exact ⟨fun _ _ => rfl, fun k hk => hk.elim (fun h => absurd h (List.not_mem_nil)) id⟩
  | cons c l ih =>
    obtain ⟨hother, hzero⟩ := ih (fun k hk => hl k (List.mem_cons_of_mem _ hk)) (rset (R.KPR_IDLE c) 0 s)
    refine ⟨fun o ho => (hother o ho).trans (rget_rset_ne _ (ho c (hl c List.mem_cons_self)) 0), fun k hk => hzero k ?_⟩
    by_cases hkc : k = c
    · subst hkc
      exact .inr (rget_rset_self s (R.KPR_IDLE k) 0)
    · refine hk.imp (fun h => (List.mem_cons.mp h).resolve_left hkc) fun h => (rget_rset_ne _ ?_ 0).trans h
      simp only [R.KPR_IDLE]
      omega

theorem clearIdle_frame (l : List Nat) (s : State) : { clearIdle l s with regs := s.regs } = s := regsOnly_foldl (f := fun t c => rset (R.KPR_IDLE c) 0 t) (fun _ _ => rfl) l s

/-- The bins are cleared. -/
def clearBins (s : State) : State := clearIdle (List.range 16) (rset R.KPR_BUSY 0 s)

theorem clearBins_spec (s : State) : { clearBins s with regs := s.regs } = s ∧ rget R.KPR_BUSY (clearBins s) = 0 ∧ (∀ k < 16, rget (R.KPR_IDLE k) (clearBins s) = 0) := by
  have hbase : { rset R.KPR_BUSY 0 s with regs := s.regs } = s := rfl
  have hbusy : rget R.KPR_BUSY (rset R.KPR_BUSY 0 s) = 0 := rget_rset_self s R.KPR_BUSY 0
  obtain ⟨hother, hzero⟩ := clearIdle_spec (List.range 16) (fun k hk => List.mem_range.mp hk) (rset R.KPR_BUSY 0 s)
  have hrest := clearIdle_frame (List.range 16) (rset R.KPR_BUSY 0 s)
  unfold clearBins
  generalize rset R.KPR_BUSY 0 s = t at hbase hbusy hother hzero hrest ⊢
  generalize clearIdle (List.range 16) t = w at hother hzero hrest ⊢
  exact ⟨regsOnly_trans hbase hrest, (hother _ fun k hk => by simp only [R.KPR_BUSY, R.KPR_IDLE]; omega).trans hbusy,
    fun k hk => hzero k (.inl (List.mem_range.mpr hk))⟩

theorem openInterval_spec (s : State) : let t := openInterval s
    t.naust.start = s.naust.tick ∧ t.naust.tick = s.naust.tick ∧ t.naust.states = [0, 0, 0, 0] ∧ t.naust.held = s.naust.held ∧ t.naust.seq = s.naust.seq ∧
    t.naust.saved = s.naust.saved ∧ rget R.KPR_BUSY t = 0 ∧ (∀ k < 16, rget (R.KPR_IDLE k) t = 0) ∧ { t with regs := s.regs, naust := s.naust } = s := by
  obtain ⟨hframe, hbusy, hidle⟩ := clearBins_spec s
  intro t
  have ht : t = { clearBins s with naust := { (clearBins s).naust with start := (clearBins s).naust.tick, states := [0, 0, 0, 0], energy := 0, samples := [], peakW := 0, minCeil := rbits R.PWR_CEIL_W 11 0 (clearBins s), causes := 0 } } := rfl
  rw [ht]
  clear_value t
  generalize clearBins s = w at hframe hbusy hidle ⊢
  have hnaust : w.naust = s.naust := (congrArg State.naust hframe :)
  rw [hnaust]
  exact ⟨rfl, rfl, rfl, rfl, rfl, rfl, hbusy, hidle, (congrArg (fun q : State => { q with naust := s.naust }) hframe :)⟩

theorem showMbuf_frame (s : State) : OnlyRegs [R.NST_MBUF] s (showMbuf s) := onlyRegs_set ..

theorem rget_openInterval {o : Nat} (hbusy : o ≠ R.KPR_BUSY) (hidle : ∀ k < 16, o ≠ R.KPR_IDLE k) (s : State) : rget o (openInterval s) = rget o s := by
  have hclear : rget o (clearBins s) = rget o s :=
    ((clearIdle_spec (List.range 16) (fun k hk => List.mem_range.mp hk) (rset R.KPR_BUSY 0 s)).1 o hidle).trans (rget_rset_ne s hbusy 0)
  have hopen : openInterval s = { clearBins s with naust := { (clearBins s).naust with start := (clearBins s).naust.tick, states := [0, 0, 0, 0], energy := 0, samples := [], peakW := 0, minCeil := rbits R.PWR_CEIL_W 11 0 (clearBins s), causes := 0 } } := rfl
  rw [hopen]
  generalize clearBins s = t at hclear ⊢
  exact hclear

/-- Registers that the closing of an interval leaves. -/
theorem rget_closeInterval {o : Nat} (ho : o ∉ [R.KPR_BUSY, R.NST_EVT, R.NST_MBUF]) (hidle : ∀ k < 16, o ≠ R.KPR_IDLE k) (cause : Nat) (s : State) :
    rget o (closeInterval cause s) = rget o s := by
  simp only [List.mem_cons, List.not_mem_nil, or_false, not_or] at ho
  obtain ⟨hbusy, hevt, hmbuf⟩ := ho
  have hopen (t : State) : rget o (openInterval t) = rget o t := rget_openInterval hbusy hidle t
  unfold closeInterval
  dsimp only
  split
  · rfl
  · split
    · rfl
    · refine ((showMbuf_frame _).2 o (mt List.mem_singleton.mp hmbuf)).trans ?_
      split
      · exact (rget_rsetBit_ne _ hevt 2).trans (hopen _)
      · exact hopen _

/-- A cause with room in the buffer closes the interval. -/
theorem closeInterval_room {s : State} (hc : closedThisTick s = false) (hroom : s.naust.held.length < 64) (cause : Nat) : let t := closeInterval cause s
    t.naust.held = s.naust.held ++ [closedRecord cause s] ∧ t.naust.seq = s.naust.seq + 1 ∧ t.naust.start = s.naust.tick ∧ t.naust.tick = s.naust.tick ∧
    t.naust.states = [0, 0, 0, 0] ∧ rget R.KPR_BUSY t = 0 ∧ (∀ k < 16, rget (R.KPR_IDLE k) t = 0) ∧ (s.naust.held.length = 63 → rbit R.NST_EVT 2 t = true) ∧
    { t with regs := s.regs, naust := s.naust } = s := by
  intro t
  obtain ⟨a, ha, harest, haheld, haseq, hatick⟩ : ∃ a : State, { s with naust := { s.naust with held := s.naust.held ++ [closedRecord cause s], seq := s.naust.seq + 1 } } = a ∧
      { a with naust := s.naust } = s ∧ a.naust.held = s.naust.held ++ [closedRecord cause s] ∧ a.naust.seq = s.naust.seq + 1 ∧ a.naust.tick = s.naust.tick :=
    ⟨_, rfl, rfl, rfl, rfl, rfl⟩
  have hfull : ¬ meterBuffer ≤ s.naust.held.length := Nat.not_le.mpr hroom
  have ht : t = showMbuf (if s.naust.held.length + 1 = meterBuffer then rsetBit R.NST_EVT 2 (openInterval a) else openInterval a) := by
    rw [← ha]
    refine (if_neg ?_).trans (if_neg hfull)
    rw [hc]
    exact Bool.false_ne_true
  obtain ⟨hstart, htick, hstates, hheld, hseq, -, hbusy, hidle, hframe⟩ := openInterval_spec a
  generalize openInterval a = b at ht hstart htick hstates hheld hseq hbusy hidle hframe
  -- a full buffer is flagged
  obtain ⟨w, hw, hwregs, hwevt⟩ : ∃ w, (if s.naust.held.length + 1 = meterBuffer then rsetBit R.NST_EVT 2 b else b) = w ∧ OnlyRegs [R.NST_EVT] b w ∧
      (s.naust.held.length = 63 → rbit R.NST_EVT 2 w = true) := by
    refine ⟨_, rfl, ?_, fun h => ?_⟩
    · split
      · exact onlyRegs_set ..
      · exact ⟨rfl, fun _ _ => rfl⟩
    · rw [if_pos (show s.naust.held.length + 1 = meterBuffer from congrArg (· + 1) h)]
      exact rbit_rsetBit_self ..
  rw [hw] at ht
  have hshow := showMbuf_frame w
  have hall := onlyRegs_trans hwregs hshow
  rw [ht]
  clear_value t
  generalize showMbuf w = z at hshow hall ⊢
  have hnaust : z.naust = b.naust := (congrArg State.naust hall.1 :)
  have hreg (o : Nat) (ho : o ∉ [R.NST_EVT, R.NST_MBUF]) : rget o z = rget o b := hall.2 o ho
  rw [hnaust]
  refine ⟨hheld.trans haheld, hseq.trans haseq, hstart.trans hatick, htick.trans hatick, hstates, (hreg _ (by decide)).trans hbusy, fun k hk => (hreg _ ?_).trans (hidle k hk), fun h => ?_, ?_⟩
  · simp only [List.mem_cons, List.not_mem_nil, or_false, R.KPR_IDLE, R.NST_EVT, R.NST_MBUF]
    omega
  · rw [rbit, hshow.2 _ (by decide)]
    exact hwevt h
  · have hzb := (congrArg (fun q : State => { q with regs := s.regs, naust := s.naust }) hall.1 :)
    have hbs := (congrArg (fun q : State => { q with regs := s.regs, naust := s.naust }) hframe :)
    have has := (congrArg (fun q : State => { q with regs := s.regs, naust := s.naust }) harest :)
    exact hzb.trans (hbs.trans has)

theorem closeInterval_full {s : State} (hc : closedThisTick s = false) (hfull : 64 ≤ s.naust.held.length) (cause : Nat) :
    closeInterval cause s = { s with naust := { s.naust with causes := s.naust.causes ||| 2 ^ cause } } :=
  (if_neg (by rw [hc]; exact Bool.false_ne_true)).trans (if_pos hfull)

theorem closeInterval_join {s : State} (hc : closedThisTick s = true) (cause : Nat) : { closeInterval cause s with naust := s.naust } = s ∧
    (closeInterval cause s).naust.held.length = s.naust.held.length ∧ (closeInterval cause s).naust.seq = s.naust.seq := by
  have hrun : closeInterval cause s = { s with naust := { s.naust with held := s.naust.held.dropLast ++ (s.naust.held.getLast?.map (joinRecord cause)).toList } } := if_pos hc
  have hlast : s.naust.held.getLast? ≠ none := fun h => by
    rw [closedThisTick, h] at hc
    exact Bool.false_ne_true hc
  rw [hrun]
  refine ⟨rfl, ?_, rfl⟩
  obtain ⟨r, hr⟩ := Option.ne_none_iff_exists'.mp hlast
  have hne : s.naust.held ≠ [] := fun h => hlast (List.getLast?_eq_none_iff.mpr h)
  dsimp only
  rw [hr, List.length_append, List.length_dropLast]
  exact Nat.sub_add_cancel (List.length_pos_iff.mpr hne)

/-! ### Signing, collection and acknowledgement (R302, R341) -/

theorem signNext_spec {s : State} {r : MeterRec} (h : s.naust.held.find? (fun r => !r.signed) = some r) : let t := signNext s
    t.naust.prevHash = Config.hash 256 (signedBytes r.bytes s) ∧
    t.naust.held = signFirst (fun x => { x with bytes := signedBytes r.bytes s, signed := true }) s.naust.held ∧ t.regs = s.regs ∧ t.mem = s.mem ∧
    t.keeper = s.keeper := by
  unfold signNext
  rw [h]
  exact ⟨rfl, rfl, rfl, rfl, rfl⟩

theorem recordSigned_cases (s : State) : (s.naust.held.any (fun r => !r.signed) = false → recordSigned s = s) ∧
    (∀ r, s.naust.held.find? (fun r => !r.signed) = some r → recordSigned s = if isManager (signNext s) then collectOwn 128 (signNext s) else offerRecord (signNext s)) := by
  refine ⟨fun h => if_neg (by rw [h]; exact Bool.false_ne_true), fun r h => if_pos ?_⟩
  exact List.any_eq_true.mpr ⟨r, List.mem_of_find?_eq_some h, List.find?_some (p := fun r : MeterRec => !r.signed) h⟩

theorem offered_congr {s t : State} (h : t.naust = s.naust) : offered t = offered s := by rw [offered, offered, h]

theorem offered_showMbuf (s : State) : offered (showMbuf s) = offered s := by
  have h := (showMbuf_frame s).1
  generalize showMbuf s = t at h ⊢
  exact offered_congr (congrArg State.naust h :)

/-- The buffer without its oldest record. -/
def withoutOldest (n : NaustX) : NaustX :=
  if n.saved.isEmpty then { n with held := n.held.drop 1 } else { n with saved := n.saved.drop 1 }

theorem ackOldest_eq (s : State) : ackOldest s = showMbuf { s with naust := withoutOldest s.naust } := by
  unfold ackOldest withoutOldest
  split
  case h_1 r rest hs =>
    rw [if_neg (by rw [hs]; exact Bool.false_ne_true), show s.naust.saved.drop 1 = rest by rw [hs]; rfl]
  case h_2 hs => rw [if_pos (by rw [hs]; rfl)]

/-- The oldest record leaves; nothing else changes but what NST_MBUF shows. -/
theorem ackOldest_spec {s : State} {r : MeterRec} {rest : List MeterRec} (h : offered s = r :: rest) :
    offered (ackOldest s) = rest ∧ { ackOldest s with regs := s.regs, naust := s.naust } = s := by
  have hrest : (withoutOldest s.naust).saved ++ (withoutOldest s.naust).held = rest := by
    unfold offered at h
    cases hs : s.naust.saved with
    | nil =>
      rw [hs, List.nil_append] at h
      rw [withoutOldest, if_pos (by rw [hs]; rfl)]
      change s.naust.saved ++ s.naust.held.drop 1 = rest
      rw [hs, h]
      rfl
    | cons x t =>
      rw [hs] at h
      rw [withoutOldest, if_neg (by rw [hs]; exact Bool.false_ne_true)]
      change s.naust.saved.drop 1 ++ s.naust.held = rest
      rw [hs]
      exact (List.cons.inj h).2
  rw [ackOldest_eq, offered_showMbuf]
  refine ⟨hrest, ?_⟩
  have hshow := (showMbuf_frame { s with naust := withoutOldest s.naust }).1
  generalize showMbuf { s with naust := withoutOldest s.naust } = t at hshow ⊢
  exact (congrArg (fun q : State => { q with naust := s.naust }) hshow :)

theorem collect_naust (b : Bytes) (bad : Bool) (s : State) : (collect b bad s).naust = s.naust := by
  unfold collect
  have hw := (congrArg State.naust (writeMem_writeKeeps (rget R.KPR_MREC_BASE s + 1024 * (rget R.KPR_MREC_HEAD s % mrecSlots s)) (padTo 1024 b) bad s).rest :)
  generalize (writeMem (rget R.KPR_MREC_BASE s + 1024 * (rget R.KPR_MREC_HEAD s % mrecSlots s)) (padTo 1024 b) s bad).s = t at hw ⊢
  dsimp only
  obtain ⟨o, p, e⟩ := raiseVector_frame (if mrecFull (rset R.KPR_MREC_HEAD ((rget R.KPR_MREC_HEAD t + 1) % mrecSlots t) t) then
    rsetBit R.KPR_EVT 3 (rset R.KPR_MREC_HEAD ((rget R.KPR_MREC_HEAD t + 1) % mrecSlots t) t) else rset R.KPR_MREC_HEAD ((rget R.KPR_MREC_HEAD t + 1) % mrecSlots t) t) 134
  rw [e]
  split
  · exact hw
  · exact hw

/-- Writes to the host's memory leave every register but the capture of an unmapped address. -/
theorem rget_writeMem_host {a : Nat} {b : Bytes} (hlo : hostBase ≤ a) (hhi : a + b.length ≤ hostEnd) (bad : Bool) (s : State) {o : Nat}
    (hevt : o ≠ R.MEM_EVT) (hun : o ≠ R.MEM_UNMAPPED) : rget o (writeMem a b s bad).s = rget o s := by
  have hcapture (x : Nat) (t : State) : rget o (captureUnmapped x t) = rget o t := by
    unfold captureUnmapped
    split
    · rfl
    · rw [rget_rsetBit_ne _ hevt, rget_rset_ne _ hun]
  unfold writeMem
  split
  case h_1 =>
    unfold captureReach
    split
    · exact hcapture ..
    · rfl
  case h_2 =>
    by_cases hb : b.length = 0
    · rw [if_pos hb]
    · have hplace : stackedEnd ≤ a ∧ spillBase ≤ a ∧ spillEnd ≤ a ∧ accBase ≤ a ∧ accEnd ≤ a ∧ peerBase ≤ a ∧ peerEnd ≤ a ∧ a < hostEnd := by
        simp only [stackedEnd, spillBase, spillEnd, accBase, accEnd, peerBase, peerEnd, hostBase, hostEnd] at *
        omega
      obtain ⟨h1, h2, h3, h4, h5, h6, h7, h8⟩ := hplace
      have hedge : a + b.length ≤ nextEdge a := by
        unfold nextEdge
        rw [if_neg h1.not_gt, if_neg h2.not_gt, if_neg h3.not_gt, if_neg h4.not_gt, if_neg h5.not_gt, if_neg h6.not_gt, if_neg h7.not_gt, if_neg hlo.not_gt, if_pos h8]
        exact hhi
      have hreach : Machine.reach s a = if isManager s then .mem a else .none := by
        unfold Machine.reach
        rw [if_neg h1.not_gt, if_neg h2.not_gt, if_neg h3.not_gt, if_neg h4.not_gt, if_neg h5.not_gt, if_neg h6.not_gt, if_neg h7.not_gt, if_neg hlo.not_gt, if_pos h8]
      rw [if_neg hb, if_pos hedge]
      unfold writeIn
      rw [hreach]
      cases isManager s with
      | true => rfl
      | false => exact hcapture ..

theorem mrecSlots_pos (s : State) : 0 < mrecSlots s := Nat.two_pow_pos _

/-- A record is written at the head of the ring, which moves on. -/
theorem collect_spec (b : Bytes) (bad : Bool) {s : State} (h : inHost (rget R.KPR_MREC_BASE s) (1024 * mrecSlots s) = true) :
    rget R.KPR_MREC_HEAD (collect b bad s) = (rget R.KPR_MREC_HEAD s + 1) % mrecSlots s ∧
    (collect b bad s).mem = (writeMem (rget R.KPR_MREC_BASE s + 1024 * (rget R.KPR_MREC_HEAD s % mrecSlots s)) (padTo 1024 b) s bad).s.mem := by
  have hslot : rget R.KPR_MREC_HEAD s % mrecSlots s < mrecSlots s := Nat.mod_lt _ (mrecSlots_pos s)
  rw [inHost, Bool.and_eq_true, decide_eq_true_eq, decide_eq_true_eq] at h
  obtain ⟨hlo, hhi⟩ := h
  have hlen : (padTo 1024 b).length = 1024 := length_padTo 1024 b
  have hregs {o : Nat} (hevt : o ≠ R.MEM_EVT) (hun : o ≠ R.MEM_UNMAPPED) :=
    rget_writeMem_host (a := rget R.KPR_MREC_BASE s + 1024 * (rget R.KPR_MREC_HEAD s % mrecSlots s)) (b := padTo 1024 b) (by omega) (by omega) bad s hevt hun
  unfold collect
  generalize (writeMem (rget R.KPR_MREC_BASE s + 1024 * (rget R.KPR_MREC_HEAD s % mrecSlots s)) (padTo 1024 b) s bad).s = t at hregs ⊢
  dsimp only
  have hslots : mrecSlots t = mrecSlots s := by
    rw [mrecSlots, mrecSlots, rbits, rbits, hregs (o := R.KPR_MREC_SLOTS) (by decide) (by decide)]
  have hhead : rget R.KPR_MREC_HEAD t = rget R.KPR_MREC_HEAD s := hregs (by decide) (by decide)
  rw [hslots, hhead]
  have hset : rget R.KPR_MREC_HEAD (rset R.KPR_MREC_HEAD ((rget R.KPR_MREC_HEAD s + 1) % mrecSlots s) t) = (rget R.KPR_MREC_HEAD s + 1) % mrecSlots s := rget_rset_self ..
  have hmem : (rset R.KPR_MREC_HEAD ((rget R.KPR_MREC_HEAD s + 1) % mrecSlots s) t).mem = t.mem := rfl
  generalize rset R.KPR_MREC_HEAD ((rget R.KPR_MREC_HEAD s + 1) % mrecSlots s) t = w at hset hmem ⊢
  obtain ⟨z, hz, hzregs⟩ : ∃ z, (if mrecFull w then rsetBit R.KPR_EVT 3 w else w) = z ∧ OnlyRegs [R.KPR_EVT] w z := by
    refine ⟨_, rfl, ?_⟩
    split
    · exact onlyRegs_set ..
    · exact ⟨rfl, fun _ _ => rfl⟩
  rw [hz, rget_raiseVector]
  obtain ⟨o, p, e⟩ := raiseVector_frame z 134
  rw [e]
  exact ⟨(hzregs.2 _ (by decide)).trans hset, (congrArg State.mem hzregs.1 :).trans hmem⟩

theorem collectOwn_cases {s : State} {r : MeterRec} {rest : List MeterRec} (h : offered s = r :: rest) (n : Nat) :
    (r.signed = true → mrecFull s = false → offered (ackOldest (collect r.bytes false s)) = rest ∧
      collectOwn (n + 1) s = collectOwn n (ackOldest (collect r.bytes false s))) ∧
    (r.signed = false ∨ mrecFull s = true → collectOwn n s = s) ∧
    (r.signed = true → offerRecord s = sendCtrl 0x25 (myDom s) (managerDev s) (padTo 1024 r.bytes) s) ∧ (r.signed = false → offerRecord s = s) := by
  refine ⟨fun hs hf => ⟨(ackOldest_spec ((offered_congr (collect_naust ..)).trans h)).1, ?_⟩, fun hb => ?_, fun hs => ?_, fun hs => ?_⟩
  · rw [collectOwn, h]
    exact if_pos (by rw [hs, hf]; rfl)
  · cases n with
    | zero => rfl
    | succ n =>
      rw [collectOwn, h]
      refine if_neg ?_
      rcases hb with hb | hb <;> simp [hb]
  · rw [offerRecord, h]
    exact if_pos hs
  · rw [offerRecord, h]
    exact if_neg (by rw [hs]; exact Bool.false_ne_true)

theorem acknowledge_cases {s : State} {r : MeterRec} {rest : List MeterRec} (h : offered s = r :: rest) (seq boot : Nat) :
    (r.signed = true → r.seq = seq → r.bootId = boot → acknowledge seq boot s = ackOldest s) ∧
    (r.signed = false ∨ r.seq ≠ seq ∨ r.bootId ≠ boot → acknowledge seq boot s = misuse bNST s) := by
  rw [acknowledge, h]
  refine ⟨fun hs hq hb => if_pos ?_, fun hb => if_neg ?_⟩
  · rw [hs, hq, hb, beq_self_eq_true, beq_self_eq_true]
    rfl
  · rw [Bool.and_eq_true, Bool.and_eq_true, beq_iff_eq, beq_iff_eq]
    rintro ⟨⟨hs, hq⟩, hbt⟩
    rcases hb with hb | hb | hb
    · exact Bool.false_ne_true (hb.symm.trans hs)
    · exact hb hq
    · exact hb hbt

theorem nstMack_cases (v : Nat) (s : State) : (offered s = [] → nstMack v s = misuse bNST s) ∧
    ∀ r rest, offered s = r :: rest → nstMack v s = acknowledge v r.bootId s := by
  refine ⟨fun h => by rw [nstMack, h], fun r rest h => by rw [nstMack, h]⟩

/-! ### METER_COLLECT (R302) -/

theorem meterCollectRun_begun {x : Started} (hb : x.begun = true) (s : State) :
    meterCollectRun x s = (fun t => if (offered t).isEmpty then markDone x.id t else t) (if isManager s then collectOwn 128 s else offerRecord s) := by
  unfold meterCollectRun
  dsimp only
  rw [if_pos hb]

theorem offered_offerRecord (s : State) : offered (offerRecord s) = offered s := by
  unfold offerRecord
  split
  · split
    · exact offered_congr (congrArg State.naust (sendCtrl_writeKeeps ..).rest :)
    · rfl
  · rfl

theorem meterCollect_worker {x : Started} {s : State} (hm : isManager s = false) (hb : x.begun = true) :
    (offered s = [] → meterCollectRun x s = markDone x.id s) ∧ (offered s ≠ [] → meterCollectRun x s = offerRecord s) := by
  rw [meterCollectRun_begun hb, if_neg (by rw [hm]; exact Bool.false_ne_true)]
  refine ⟨fun h => ?_, fun h => ?_⟩
  · have hsame : offerRecord s = s := by rw [offerRecord, h]
    rw [hsame]
    exact if_pos (by rw [h]; rfl)
  · refine if_neg ?_
    rw [offered_offerRecord, List.isEmpty_iff]
    exact h

theorem meterCollect_begins {x : Started} {s : State} (hm : isManager s = false) (hb : x.begun = false) (hx : startedAt x.id s = some x)
    (hc : closedThisTick s = false) (hroom : s.naust.held.length < 64) : ∃ t, meterCollectRun x s = offerRecord t ∧
      t.naust.held.length = s.naust.held.length + 1 ∧ t.naust.seq = s.naust.seq + 1 ∧ startedAt x.id t = some { x with begun := true, prog := 0 } ∧ t.mem = s.mem := by
  have hat : startedAt x.id (setProg x.id 0 s) = some { x with begun := true, prog := 0 } := startedAt_setProg hx
  have hclosed : closedThisTick (setProg x.id 0 s) = false := hc
  have hlen : (setProg x.id 0 s).naust.held.length < 64 := hroom
  have hman : isManager (setProg x.id 0 s) = false := hm
  have hbase : (setProg x.id 0 s).naust = s.naust ∧ (setProg x.id 0 s).mem = s.mem := ⟨rfl, rfl⟩
  have hrun : meterCollectRun x s = (fun t => if (offered t).isEmpty then markDone x.id t else t)
      ((fun t => if isManager t then collectOwn 128 t else offerRecord t) (closeInterval 7 (setProg x.id 0 s))) := by
    have hstart : (if x.begun then s else closeInterval 7 (setProg x.id 0 s)) = closeInterval 7 (setProg x.id 0 s) :=
      if_neg (by rw [hb]; exact Bool.false_ne_true)
    unfold meterCollectRun
    dsimp only
    rw [hstart]
  generalize setProg x.id 0 s = w at hat hclosed hlen hman hbase hrun
  obtain ⟨hheld, hseq, -, -, -, -, -, -, hframe⟩ := closeInterval_room hclosed hlen 7
  have hcfg : rget R.KPR_CFG (closeInterval 7 w) = rget R.KPR_CFG w :=
    rget_closeInterval (by decide) (fun k _ => by simp only [R.KPR_CFG, R.KPR_IDLE]; omega) 7 w
  refine ⟨closeInterval 7 w, hrun.trans ?_, ?_⟩
  · have hman' : isManager (closeInterval 7 w) = false := by
      generalize closeInterval 7 w = t at hcfg hframe
      have hkeeper : t.keeper = w.keeper := (congrArg State.keeper hframe :)
      exact (isManager_congr hkeeper hcfg).trans hman
    have hne : offered (closeInterval 7 w) ≠ [] := by
      rw [offered, hheld]
      simp
    dsimp only
    rw [hman', if_neg Bool.false_ne_true]
    refine if_neg ?_
    rw [offered_offerRecord, List.isEmpty_iff]
    exact hne
  · generalize closeInterval 7 w = t at hheld hseq hframe ⊢
    rw [hheld, hseq, hbase.1, List.length_append]
    exact ⟨rfl, rfl, (startedAt_congr (congrArg State.started hframe :) _).trans hat, (congrArg State.mem hframe :).trans hbase.2⟩

/-- Settles O55: the bins of a tick, the closing of an interval, and the way of a record to the manager's ring. -/
theorem meterBooksAndRecords : Obligations.MeterBooksAndRecords := by
  unfold Obligations.MeterBooksAndRecords
  refine ⟨?ticks, ?off, ?closes, ?full, ?joins, fun s h => congrArg Host.Outcome.next ((recordSigned_cases s).1 h), ?signs, fun s r rest n h => collectOwn_cases h n, ?collects,
    ?macksNothing, ?macks, ?meterAcks, ?meters, ?worker, ?manager⟩
  case ticks =>
    intro cores s hn hl bin
    refine ⟨fun i => tickBin_lt s i _, fun i hs => if_pos hs, fun i hs hb hw => ?_, fun i l hs hb c hc => ?_, _, rfl, meterTick_spec cores hn hl⟩
    · change tickBin s i (cores.getD i (.idle [])) = none
      rw [hb, tickBin, if_neg (by rw [hs]; exact Bool.false_ne_true)]
      exact if_pos ⟨rfl, hw⟩
    · change ∃ k ≤ c.val, tickBin s i (cores.getD i (.idle [])) = some k
      rw [hb]
      exact tickBin_idle hs i l hc
  case off =>
    intro cores s h
    have hoff : ¬ s.boot.naust = true := by rw [h]; exact Bool.false_ne_true
    exact ⟨congrArg Host.Outcome.next (if_neg hoff), congrArg Host.Outcome.next (if_neg hoff), congrArg Host.Outcome.next (if_neg hoff)⟩
  case closes => exact fun s hn hc hroom => ⟨_, congrArg Host.Outcome.next (if_pos hn), closeInterval_room hc hroom 10⟩
  case full => exact fun s hn hc hfull => congrArg Host.Outcome.next ((if_pos hn).trans (closeInterval_full hc hfull 10))
  case joins => exact fun s hn hc => ⟨_, congrArg Host.Outcome.next (if_pos hn), closeInterval_join hc 10⟩
  case signs =>
    intro s r h
    obtain ⟨hhash, hheld, hregs, hmem, hkeeper⟩ := signNext_spec h
    have hman : isManager (signNext s) = isManager s := isManager_congr hkeeper (rget_congr hregs _)
    have hrun := (recordSigned_cases s).2 r h
    rw [hman] at hrun
    exact ⟨signNext s, hhash, hheld, hregs, hmem, fun hm => congrArg Host.Outcome.next (hrun.trans (if_pos hm)),
      fun hm => congrArg Host.Outcome.next (hrun.trans (if_neg (by rw [hm]; exact Bool.false_ne_true)))⟩
  case collects =>
    intro b bad s h
    obtain ⟨hhead, hmem⟩ := collect_spec b bad h
    exact ⟨_, rfl, hhead, collect_naust b bad s, hmem⟩
  case macksNothing => exact fun v s h => ⟨_, congrArg Host.Outcome.next ((nstMack_cases v.toNat s).1 h), misuse_counts s rfl⟩
  case macks =>
    intro v s r rest h
    have hrun := (nstMack_cases v.toNat s).2 r rest h
    obtain ⟨hack, hrefuse⟩ := acknowledge_cases h v.toNat r.bootId
    exact ⟨fun hs hq => ⟨_, congrArg Host.Outcome.next (hrun.trans (hack hs hq rfl)), ackOldest_spec h⟩,
      fun hb => ⟨_, congrArg Host.Outcome.next (hrun.trans (hrefuse (hb.imp_right .inl))), misuse_counts s rfl⟩⟩
  case meterAcks =>
    intro p m s
    refine ⟨fun h => congrArg Host.Outcome.next (by rw [meterAckIn, h]), fun t ht => ⟨acknowledge (u m.data 0 4) (u m.data 16 16) t, congrArg Host.Outcome.next (by rw [meterAckIn, ht]), fun r rest h => ?_⟩⟩
    obtain ⟨hack, hrefuse⟩ := acknowledge_cases h (u m.data 0 4) (u m.data 16 16)
    refine ⟨fun hs hq hb => ?_, fun hb => ?_⟩
    · rw [hack hs hq hb]
      exact (ackOldest_spec h).1
    · rw [hrefuse hb]
      exact ⟨(misuse_counts t rfl).1, offered_congr (congrArg State.naust (misuse_counts (b := bNST) (o := R.NST_MISUSE) t rfl).2.1 :)⟩
  case meters =>
    intro p m s
    refine ⟨fun h => congrArg Host.Outcome.next ?_, fun t hm hf ht => congrArg Host.Outcome.next ?_⟩
    · rw [meterIn]
      rcases h with h | h | h
      · exact if_pos (by rw [h]; rfl)
      · exact if_pos (by rw [h, Bool.or_true])
      · rw [h]
        exact ite_self s
    · rw [meterIn, hm, hf, ht]
      rfl
  case worker =>
    exact fun x s hm => ⟨fun hb h => (meterCollect_worker hm hb).1 h, fun hb h => (meterCollect_worker hm hb).2 h,
      fun hb hx hc hroom => meterCollect_begins hm hb hx hc hroom⟩
  case manager =>
    intro x s hm hb t
    have hrun := meterCollectRun_begun hb s
    rw [if_pos hm] at hrun
    refine ⟨fun h => hrun.trans (if_pos (List.isEmpty_iff.mpr h)), fun h => hrun.trans (if_neg ?_)⟩
    rw [List.isEmpty_iff]
    exact h

end Sys2Proof.Machine
end
section
/-! Ceiling records and the fused counters (R333, R338, R339, Table 17.5). -/

namespace Sys2Proof.Machine
open Sys2Proof

/-! ### What lowering the governed fields leaves -/

theorem rget_lowerGoverned {o : Nat} (ho : o ∉ [R.PWR_THERM, R.KVP_PF, R.KVP_FREE, R.KVP_STAT, R.KVP_EVT, R.STS_WATER, R.RLY_DEADLINE])
    (hclk : ∀ n, o ≠ R.PWR_Inn_CLK n) (s : State) : rget o (lowerGoverned s) = rget o s := by
  rw [List.mem_cons, not_or] at ho
  exact (congrArg (rget o) (lowerGoverned_eq s)).trans ((rget_retargetAll ..).trans ((rget_lowerRest ho.2 _).trans
    (((lowerTherm_spec _).1 o ho.1).trans ((lowerClocks_spec 72 s).1 o hclk))))

theorem retargetAll_frame (s : State) : { retargetAll s with power := s.power } = s := by
  unfold retargetAll
  generalize List.range 72 = l
  induction l generalizing s with
  | nil => rfl
  | cons n l ih =>
    have hstep := (retarget_frame n s).2
    have hrest := ih (retarget n s)
    rw [List.foldl_cons]
    generalize retarget n s = t at hstep hrest ⊢
    exact (congrArg (fun q : State => { q with power := s.power }) hrest).trans hstep

theorem showDepthOfPool_frame (s : State) : { showDepthOfPool s with regs := s.regs } = s := by
  unfold showDepthOfPool
  split
  · exact showPool_frame s
  · rfl

theorem lowerClocks_frame (m : Nat) (s : State) : { lowerClocks m s with regs := s.regs } = s :=
  regsOnly_foldl (f := fun t n => lower (R.PWR_Inn_CLK n) 7 0 (ceilTarget n t) t) (fun _ _ => (onlyRegs_lower ..).1) (List.range m) s

theorem lowerTherm_frame (s : State) : { lowerTherm s with regs := s.regs } = s :=
  regsOnly_trans (regsOnly_trans (onlyRegs_lower ..).1 (onlyRegs_lower ..).1) (onlyRegs_lower ..).1

theorem lowerRest_frame (s : State) : { lowerRest s with regs := s.regs } = s :=
  regsOnly_trans (regsOnly_trans (regsOnly_trans (onlyRegs_lower ..).1 (showDepthOfPool_frame _)) (onlyRegs_lower ..).1) (onlyRegs_lower ..).1

/-- Registers and the power controller's own state are all that the lowering changes. -/
theorem lowerGoverned_frame (s : State) : { lowerGoverned s with regs := s.regs, power := s.power } = s := by
  have hregs : { lowerRest (lowerTherm (lowerClocks 72 s)) with regs := s.regs } = s :=
    regsOnly_trans (lowerClocks_frame 72 s) (regsOnly_trans (lowerTherm_frame _) (lowerRest_frame _))
  rw [lowerGoverned_eq]
  generalize lowerRest (lowerTherm (lowerClocks 72 s)) = t at hregs ⊢
  have hpower := retargetAll_frame t
  generalize retargetAll t = w at hpower ⊢
  have hw := (congrArg (fun q : State => { q with regs := s.regs, power := s.power }) hpower :)
  have ht := (congrArg (fun q : State => { q with power := s.power }) hregs :)
  exact hw.trans ht

/-! ### Ceilings in force (R338) -/

/-- The images of a record's ceilings, before the governed fields follow. -/
def setCeilings (w clk therm pf sts dl : Nat) (s : State) : State :=
  rset R.PWR_CEIL_W w (rset R.PWR_CEIL_CLK clk (rset R.PWR_CEIL_THERM therm (rset R.PWR_CEIL_PF pf (rset R.PWR_CEIL_STS sts (rset R.PWR_CEIL_DL dl s)))))

theorem setCeilings_spec (w clk therm pf sts dl : Nat) (s : State) : let t := setCeilings w clk therm pf sts dl s
    rget R.PWR_CEIL_W t = w ∧ rget R.PWR_CEIL_CLK t = clk ∧ rget R.PWR_CEIL_THERM t = therm ∧ rget R.PWR_CEIL_PF t = pf ∧ rget R.PWR_CEIL_STS t = sts ∧
    rget R.PWR_CEIL_DL t = dl ∧ { t with regs := s.regs } = s := by
  intro t
  refine ⟨rget_rset_self .., ?_, ?_, ?_, ?_, ?_, rfl⟩
  · exact (rget_rset_ne _ (by decide) _).trans (rget_rset_self ..)
  · exact (rget_rset_ne _ (by decide) _).trans ((rget_rset_ne _ (by decide) _).trans (rget_rset_self ..))
  · exact (rget_rset_ne _ (by decide) _).trans ((rget_rset_ne _ (by decide) _).trans ((rget_rset_ne _ (by decide) _).trans (rget_rset_self ..)))
  · exact (rget_rset_ne _ (by decide) _).trans ((rget_rset_ne _ (by decide) _).trans ((rget_rset_ne _ (by decide) _).trans
      ((rget_rset_ne _ (by decide) _).trans (rget_rset_self ..))))
  · exact (rget_rset_ne _ (by decide) _).trans ((rget_rset_ne _ (by decide) _).trans ((rget_rset_ne _ (by decide) _).trans
      ((rget_rset_ne _ (by decide) _).trans ((rget_rset_ne _ (by decide) _).trans (rget_rset_self ..)))))

theorem putCeilings_spec (w clk therm pf sts dl : Nat) (s : State) : let t := putCeilings w clk therm pf sts dl s
    rget R.PWR_CEIL_W t = w ∧ rget R.PWR_CEIL_CLK t = clk ∧ rget R.PWR_CEIL_THERM t = therm ∧ rget R.PWR_CEIL_PF t = pf ∧ rget R.PWR_CEIL_STS t = sts ∧
    rget R.PWR_CEIL_DL t = dl ∧ tokCeil t = 8 * w % 2 ^ 16 ∧ t.naust.ceilCtr = s.naust.ceilCtr ∧ t.naust.opKeys = s.naust.opKeys ∧ t.mem = s.mem := by
  obtain ⟨hw, hclk, htherm, hpf, hsts, hdl, hframe⟩ := setCeilings_spec w clk therm pf sts dl s
  intro t
  obtain ⟨a, ha, haregs, hactr, hakeys, hamem⟩ : ∃ a : State, { setCeilings w clk therm pf sts dl s with naust := { (setCeilings w clk therm pf sts dl s).naust with minCeil := min (setCeilings w clk therm pf sts dl s).naust.minCeil w } } = a ∧
      (∀ o, rget o a = rget o (setCeilings w clk therm pf sts dl s)) ∧ a.naust.ceilCtr = s.naust.ceilCtr ∧ a.naust.opKeys = s.naust.opKeys ∧ a.mem = s.mem := by
    generalize setCeilings w clk therm pf sts dl s = q at hframe ⊢
    have hnaust : q.naust = s.naust := (congrArg State.naust hframe :)
    exact ⟨_, rfl, fun _ => rfl, (congrArg NaustX.ceilCtr hnaust :), (congrArg NaustX.opKeys hnaust :), (congrArg State.mem hframe :)⟩
  have ht : t = lowerGoverned (putTokens (8 * w) (tokReserve a) (tokHeld a) a) := by
    rw [← ha]
    rfl
  have hput := onlyRegs_putTokens (8 * w) (tokReserve a) (tokHeld a) a
  obtain ⟨hceil, -⟩ := putTokens_spec (8 * w) (tokReserve a) (tokHeld a) a
  rw [ht]
  clear_value t
  generalize putTokens (8 * w) (tokReserve a) (tokHeld a) a = b at hput hceil ⊢
  have hlow := lowerGoverned_frame b
  have hreg (o : Nat) (ho : o ∈ [R.PWR_CEIL_W, R.PWR_CEIL_CLK, R.PWR_CEIL_THERM, R.PWR_CEIL_PF, R.PWR_CEIL_STS, R.PWR_CEIL_DL, R.PWR_TOK]) :
      rget o (lowerGoverned b) = rget o b := by
    simp only [List.mem_cons, List.not_mem_nil, or_false] at ho
    refine rget_lowerGoverned ?_ (fun n => ?_) b
    · rcases ho with rfl | rfl | rfl | rfl | rfl | rfl | rfl <;> decide
    · simp only [R.PWR_CEIL_W, R.PWR_CEIL_CLK, R.PWR_CEIL_THERM, R.PWR_CEIL_PF, R.PWR_CEIL_STS, R.PWR_CEIL_DL, R.PWR_TOK, R.PWR_Inn_CLK] at ho ⊢
      omega
  have hset {o : Nat} (ho : o ∈ [R.PWR_CEIL_W, R.PWR_CEIL_CLK, R.PWR_CEIL_THERM, R.PWR_CEIL_PF, R.PWR_CEIL_STS, R.PWR_CEIL_DL, R.PWR_TOK]) (hne : o ∉ [R.PWR_TOK]) :
      rget o (lowerGoverned b) = rget o (setCeilings w clk therm pf sts dl s) := (hreg o ho).trans ((hput.2 o hne).trans (haregs o))
  have htok : tokCeil (lowerGoverned b) = tokCeil b := by rw [tokCeil, tokCeil, rbits, rbits, hreg _ (by decide)]
  have hnaust : b.naust = a.naust := (congrArg State.naust hput.1 :)
  have hmem : b.mem = a.mem := (congrArg State.mem hput.1 :)
  refine ⟨(hset (by decide) (by decide)).trans hw, (hset (by decide) (by decide)).trans hclk, (hset (by decide) (by decide)).trans htherm,
    (hset (by decide) (by decide)).trans hpf, (hset (by decide) (by decide)).trans hsts, (hset (by decide) (by decide)).trans hdl, htok.trans hceil, ?_⟩
  generalize lowerGoverned b = z at hlow ⊢
  have hz : z.naust = a.naust := (congrArg State.naust hlow :).trans hnaust
  rw [hz]
  exact ⟨hactr, hakeys, (congrArg State.mem hlow :).trans (hmem.trans hamem)⟩

/-! ### Records (R338, R339) -/

/-- A record that is accepted: its ceilings are in force, its hash is noted. -/
def recordInForce (b : Bytes) (s : State) : State :=
  let t := putCeilings (u b 64 4) (u b 68 4) (u b 72 4) (u b 76 4) (u b 80 4) (u b 84 4) s
  rsetBit R.NST_STAT 8 { t with naust := { t.naust with ceilHash := Config.hash 256 b } }

/-- An ADVANCE record moves the counter. -/
def recordAdvances (b : Bytes) (t : State) : State :=
  if recAdvance b then rsetBits R.NST_CTR 15 8 (u b 16 4) { t with naust := { t.naust with ceilCtr := u b 16 4 } } else t

theorem takeRecord_eq (b : Bytes) (s : State) : takeRecord b s =
    if recEnroll b then enrol b (recordAdvances b (recordInForce b s)) else recordAdvances b (recordInForce b s) := rfl

theorem recordInForce_spec (b : Bytes) (s : State) : let t := recordInForce b s
    rget R.PWR_CEIL_W t = u b 64 4 ∧ rget R.PWR_CEIL_CLK t = u b 68 4 ∧ rget R.PWR_CEIL_THERM t = u b 72 4 ∧
    rget R.PWR_CEIL_PF t = u b 76 4 ∧ rget R.PWR_CEIL_STS t = u b 80 4 ∧ rget R.PWR_CEIL_DL t = u b 84 4 ∧
    tokCeil t = 8 * u b 64 4 % 2 ^ 16 ∧ rbit R.NST_STAT 8 t = true ∧ t.naust.ceilHash = Config.hash 256 b ∧
    t.naust.ceilCtr = s.naust.ceilCtr ∧ t.naust.opKeys = s.naust.opKeys ∧ t.mem = s.mem := by
  obtain ⟨hw, hclk, htherm, hpf, hsts, hdl, htok, hctr, hkeys, hmem⟩ := putCeilings_spec (u b 64 4) (u b 68 4) (u b 72 4) (u b 76 4) (u b 80 4) (u b 84 4) s
  unfold recordInForce
  generalize putCeilings (u b 64 4) (u b 68 4) (u b 72 4) (u b 76 4) (u b 80 4) (u b 84 4) s = t at hw hclk htherm hpf hsts hdl htok hctr hkeys hmem ⊢
  have hreg (o : Nat) (ho : o ≠ R.NST_STAT) : rget o (rsetBit R.NST_STAT 8 { t with naust := { t.naust with ceilHash := Config.hash 256 b } }) = rget o t :=
    rget_rsetBit_ne _ ho 8
  dsimp only
  refine ⟨(hreg _ (by decide)).trans hw, (hreg _ (by decide)).trans hclk, (hreg _ (by decide)).trans htherm, (hreg _ (by decide)).trans hpf,
    (hreg _ (by decide)).trans hsts, (hreg _ (by decide)).trans hdl, ?_, rbit_rsetBit_self .., rfl, hctr, hkeys, hmem⟩
  rw [tokCeil, rbits, hreg _ (by decide)]
  exact htok

/-- ADVANCE and ENROLL leave what the record put in force. -/
structure RecordKeeps (s t : State) : Prop where
  regs : ∀ o, o ∉ [R.NST_CTR, R.NST_EVT, R.NST_STAT] → rget o t = rget o s
  noted : rbit R.NST_STAT 8 t = rbit R.NST_STAT 8 s
  hash : t.naust.ceilHash = s.naust.ceilHash
  mem : t.mem = s.mem

theorem recordAdvances_spec (b : Bytes) (t : State) : RecordKeeps t (recordAdvances b t) ∧ (recordAdvances b t).naust.opKeys = t.naust.opKeys ∧
    (recordAdvances b t).naust.ceilCtr = if recAdvance b then u b 16 4 else t.naust.ceilCtr := by
  unfold recordAdvances
  split
  · refine ⟨⟨fun o ho => rget_rsetBits_ne _ (List.ne_of_not_mem_cons ho) _ _ _, congrArg (Nat.testBit · 8) (rget_rsetBits_ne _ (by decide) _ _ _), rfl, rfl⟩, rfl, rfl⟩
  · exact ⟨⟨fun _ _ => rfl, rfl, rfl, rfl⟩, rfl, rfl⟩

theorem enrol_spec (b : Bytes) (t : State) : RecordKeeps t (enrol b t) ∧ (enrol b t).naust.opKeys = t.naust.opKeys ++ [slice b 32 32] ∧
    (enrol b t).naust.ceilCtr = t.naust.ceilCtr := by
  obtain ⟨a, ha, haregs, hakeys, hactr, hahash, hamem⟩ : ∃ a : State, { t with naust := { t.naust with opKeys := t.naust.opKeys ++ [slice b 32 32] } } = a ∧ (∀ o, rget o a = rget o t) ∧
      a.naust.opKeys = t.naust.opKeys ++ [slice b 32 32] ∧ a.naust.ceilCtr = t.naust.ceilCtr ∧ a.naust.ceilHash = t.naust.ceilHash ∧ a.mem = t.mem :=
    ⟨_, rfl, fun _ => rfl, rfl, rfl, rfl, rfl⟩
  have hrun : enrol b t = rsetBit R.NST_EVT 3 (rsetBits R.NST_STAT 7 6 t.naust.opKeys.length (rsetBit R.NST_STAT 5 a)) := by
    rw [← ha]
    rfl
  have hregs : OnlyRegs [R.NST_STAT, R.NST_STAT, R.NST_EVT] a (enrol b t) := by
    rw [hrun]
    exact onlyRegs_trans (onlyRegs_trans (onlyRegs_set R.NST_STAT _ a) (onlyRegs_setBits R.NST_STAT 7 6 _ _)) (onlyRegs_set R.NST_EVT _ _)
  have hnoted : rbit R.NST_STAT 8 (enrol b t) = rbit R.NST_STAT 8 a := by
    have hevt (w : State) : rbit R.NST_STAT 8 (rsetBit R.NST_EVT 3 w) = rbit R.NST_STAT 8 w := congrArg (Nat.testBit · 8) (rget_rsetBit_ne w (by decide) 3)
    rw [hrun, hevt, rbit_rsetBits _ _ _ _ _ _ (by decide), if_neg (by decide), rbit_rsetBit]
    rfl
  have hbit : rbit R.NST_STAT 8 a = rbit R.NST_STAT 8 t := congrArg (Nat.testBit · 8) (haregs _)
  generalize enrol b t = w at hregs hnoted ⊢
  have hnaust : w.naust = a.naust := (congrArg State.naust hregs.1 :)
  rw [hnaust]
  refine ⟨⟨fun o ho => (hregs.2 o fun h => ho ?_).trans (haregs o), hnoted.trans hbit, (congrArg NaustX.ceilHash hnaust).trans hahash, (congrArg State.mem hregs.1 :).trans hamem⟩, hakeys, hactr⟩
  simp only [List.mem_cons, List.not_mem_nil, or_false] at h ⊢
  tauto

theorem takeRecord_spec (b : Bytes) (s : State) : let t := takeRecord b s
    rget R.PWR_CEIL_W t = u b 64 4 ∧ rget R.PWR_CEIL_CLK t = u b 68 4 ∧ rget R.PWR_CEIL_THERM t = u b 72 4 ∧
    rget R.PWR_CEIL_PF t = u b 76 4 ∧ rget R.PWR_CEIL_STS t = u b 80 4 ∧ rget R.PWR_CEIL_DL t = u b 84 4 ∧
    tokCeil t = 8 * u b 64 4 % 2 ^ 16 ∧ rbit R.NST_STAT 8 t = true ∧ t.naust.ceilHash = Config.hash 256 b ∧
    t.naust.ceilCtr = (if recAdvance b then u b 16 4 else s.naust.ceilCtr) ∧
    t.naust.opKeys = (if recEnroll b then s.naust.opKeys ++ [slice b 32 32] else s.naust.opKeys) ∧ t.mem = s.mem := by
  obtain ⟨hw, hclk, htherm, hpf, hsts, hdl, htok, hnoted, hhash, hctr, hkeys, hmem⟩ := recordInForce_spec b s
  obtain ⟨hadv, hadvKeys, hadvCtr⟩ := recordAdvances_spec b (recordInForce b s)
  intro t
  obtain ⟨hkeep, htKeys, htCtr⟩ : RecordKeeps (recordInForce b s) t ∧ t.naust.opKeys = (if recEnroll b then s.naust.opKeys ++ [slice b 32 32] else s.naust.opKeys) ∧
      t.naust.ceilCtr = (if recAdvance b then u b 16 4 else s.naust.ceilCtr) := by
    rw [show t = _ from takeRecord_eq b s]
    rw [hkeys] at hadvKeys
    rw [hctr] at hadvCtr
    generalize recordInForce b s = a at hadv hadvKeys hadvCtr ⊢
    generalize recordAdvances b a = c at hadv hadvKeys hadvCtr ⊢
    split
    · obtain ⟨henr, henrKeys, henrCtr⟩ := enrol_spec b c
      exact ⟨⟨fun o ho => (henr.regs o ho).trans (hadv.regs o ho), henr.noted.trans hadv.noted, henr.hash.trans hadv.hash, henr.mem.trans hadv.mem⟩,
        henrKeys.trans (congrArg (· ++ [slice b 32 32]) hadvKeys), henrCtr.trans hadvCtr⟩
    · exact ⟨hadv, hadvKeys, hadvCtr⟩
  clear_value t
  have hceil : tokCeil t = tokCeil (recordInForce b s) := by rw [tokCeil, tokCeil, rbits, rbits, hkeep.regs _ (by decide)]
  exact ⟨(hkeep.regs _ (by decide)).trans hw, (hkeep.regs _ (by decide)).trans hclk, (hkeep.regs _ (by decide)).trans htherm, (hkeep.regs _ (by decide)).trans hpf,
    (hkeep.regs _ (by decide)).trans hsts, (hkeep.regs _ (by decide)).trans hdl, hceil.trans htok, hkeep.noted.trans hnoted, hkeep.hash.trans hhash, htCtr, htKeys, hkeep.mem.trans hmem⟩

theorem checkCeilings_cases (bus : Bool) (s : State) : let b := flashBytes 4 0 1024 s
    (b.all (fun x => x == 0xFF) = true → checkCeilings bus s = s) ∧
    (b.all (fun x => x == 0xFF) = false → recordAccepted bus b s = false → checkCeilings bus s = rsetBit R.NST_EVT 1 (rcountSat R.NST_CEIL_REJ s)) ∧
    (b.all (fun x => x == 0xFF) = false → recordAccepted bus b s = true → checkCeilings bus s = takeRecord b s) := by
  unfold checkCeilings
  dsimp only
  generalize flashBytes 4 0 1024 s = b
  refine ⟨fun h => if_pos h, fun h hr => ?_, fun h hr => ?_⟩
  · rw [if_neg (by rw [h]; exact Bool.false_ne_true), if_neg (by rw [hr]; exact Bool.false_ne_true)]
  · rw [if_neg (by rw [h]; exact Bool.false_ne_true), if_pos hr]

theorem recordAccepted_needs {bus : Bool} {b : Bytes} {s : State} (h : recordAccepted bus b s = true) : s.naust.ceilCtr ≤ u b 16 4 ∧
    (s.naust.opKeys = [] → bus = true ∧ recEnroll b = true) ∧ (recEnroll b = true → s.naust.opKeys.length < 4) := by
  simp only [recordAccepted, Bool.and_eq_true, decide_eq_true_eq] at h
  obtain ⟨⟨⟨⟨⟨-, -⟩, hkey⟩, -⟩, hctr⟩, -⟩ := h
  unfold recKeyOk activeKey at hkey
  refine ⟨hctr, fun hnone => ?_, fun henr => ?_⟩
  · rw [hnone] at hkey
    simp only [List.getLast?_nil, Bool.and_eq_true] at hkey
    exact ⟨hkey.1.2, hkey.1.1⟩
  · cases hlast : s.naust.opKeys.getLast? with
    | none =>
      rw [List.getLast?_eq_none_iff.mp hlast]
      decide
    | some a =>
      rw [hlast, henr] at hkey
      simp only [Bool.true_and, Bool.and_eq_true, Bool.not_eq_true', decide_eq_false_iff_not] at hkey
      exact Nat.not_le.mp hkey.2

/-! ### The management bus (R381) -/

theorem busCommand_cases (f : State → State) (s : State) : (busServed s = false → busCommand f s = s) ∧
    (busServed s = true → s.mgmt.held ≠ [] → busCommand f s = setResult [mBUSY] s) ∧ (busServed s = true → s.mgmt.held = [] → busCommand f s = f s) := by
  unfold busCommand
  refine ⟨fun h => ?_, fun h hh => ?_, fun h hh => ?_⟩
  · rw [h]
    rfl
  · rw [h, if_neg (by decide), if_pos (by simp [hh])]
  · rw [h, hh, if_neg (by decide)]
    rfl

theorem commitSvn_spec {s : State} (hv : s.boot.verified = true) (hc : s.naust.keeperCtr < s.naust.runSvn) : let t := commitSvn s
    t.naust.keeperCtr = s.naust.runSvn ∧ rbits R.NST_CTR 7 0 t = s.naust.runSvn % 256 ∧ OnlyRegs [R.NST_CTR] s { t with naust := s.naust } ∧
    t.naust.ceilCtr = s.naust.ceilCtr := by
  have hrun : commitSvn s = rsetBits R.NST_CTR 7 0 s.naust.runSvn { s with naust := { s.naust with keeperCtr := s.naust.runSvn } } :=
    if_pos (by rw [hv, decide_eq_true hc]; rfl)
  rw [hrun]
  have hbits := rbits_rsetBits_self { s with naust := { s.naust with keeperCtr := s.naust.runSvn } } R.NST_CTR 7 0 s.naust.runSvn (by decide)
  exact ⟨rfl, hbits, ⟨rfl, fun o ho => rget_rsetBits_ne _ (List.ne_of_not_mem_cons ho) 7 0 _⟩, rfl⟩

theorem exec_ceilReload {s : State} (hn : s.boot.naust = true) : exec .ceilReload s = .next (checkCeilings false s) := by
  have hrun : (if s.boot.naust then checkCeilings false s else s) = checkCeilings false s := if_pos hn
  exact congrArg Host.Outcome.next hrun

theorem exec_ceilLoad {s : State} (hn : s.boot.naust = true) (hs : busServed s = true) (hh : s.mgmt.held = []) :
    exec .ceilLoad s = .next (setResult [mOK] (checkCeilings true s)) := by
  have hrun : (if s.boot.naust then setResult [mOK] (checkCeilings true s) else s) = setResult [mOK] (checkCeilings true s) := if_pos hn
  exact congrArg Host.Outcome.next (((busCommand_cases _ s).2.2 hs hh).trans hrun)

/-- Settles O56: COMMIT_SVN, the way of a record to the check, and what an accepted or a refused one changes. -/
theorem ceilingsComeFromAcceptedRecords : Obligations.CeilingsComeFromAcceptedRecords := by
  unfold Obligations.CeilingsComeFromAcceptedRecords
  refine ⟨fun s => ⟨fun hv hc => ?commits, fun h => congrArg Host.Outcome.next (if_neg ?same)⟩, fun s => ?bus, ?records, fun bus b s h => recordAccepted_needs h⟩
  case commits =>
    exact ⟨commitSvn s, rfl, commitSvn_spec hv hc⟩
  case same =>
    rw [Bool.and_eq_true, decide_eq_true_eq]
    rintro ⟨hv, hc⟩
    exact h.elim (fun hn => Bool.false_ne_true (hn.symm.trans hv)) fun hn => absurd hc (Nat.not_lt.mpr hn)
  case bus =>
    obtain ⟨hoff, hheld, hruns⟩ := busCommand_cases (fun s => if s.boot.naust then setResult [mOK] (checkCeilings true s) else s) s
    refine ⟨fun h => congrArg Host.Outcome.next ?_, fun hs hh => congrArg Host.Outcome.next (hheld hs hh)⟩
    cases hs : busServed s with
    | false => exact hoff hs
    | true =>
      obtain ⟨hh, hn⟩ := h.resolve_left (by rw [hs]; exact Bool.noConfusion)
      exact (hruns hs hh).trans (if_neg (by rw [hn]; exact Bool.false_ne_true))
  case records =>
    intro bus s hn hb b run
    obtain ⟨herased, hrefused, htaken⟩ := checkCeilings_cases bus s
    refine ⟨?_, herased, fun h hr => ?_, fun h hr => ?_⟩
    · cases bus with
      | false =>
        rw [if_neg Bool.false_ne_true, if_neg Bool.false_ne_true]
        exact exec_ceilReload hn
      | true =>
        rw [if_pos rfl, if_pos rfl]
        exact exec_ceilLoad hn (hb rfl).1 (hb rfl).2
    · rw [show run = _ from hrefused h hr]
      refine ⟨?_, rbit_rsetBit_self .., onlyRegs_trans (onlyRegs_rcountSat R.NST_CEIL_REJ s) (onlyRegs_set R.NST_EVT _ _)⟩
      unfold Counted
      rw [rbits, rget_rsetBit_ne _ (by decide)]
      exact counted_rcountSat s R.NST_CEIL_REJ
    · rw [show run = _ from htaken h hr]
      exact takeRecord_spec b s

end Sys2Proof.Machine
end
section
/-! Attestation (R336, R337, Table 18.2): each request at its stage and version, and the data object exchange. -/

namespace Sys2Proof.Machine
open Sys2Proof

theorem asked_released {code : Nat} {req : Bytes} {s : State} (hr : s.boot.released = true) (hc : spdmCode req = code) (f : State → State) :
    asked code req s f = f s := if_pos (by rw [hr, hc, beq_self_eq_true]; rfl)

theorem asked_other {code : Nat} {req : Bytes} {s : State} (h : s.boot.released = false ∨ spdmCode req ≠ code) (f : State → State) : asked code req s f = s := by
  refine if_neg ?_
  rw [Bool.and_eq_true, beq_iff_eq]
  rintro ⟨hr, hc⟩
  exact h.elim (fun hn => Bool.false_ne_true (hn.symm.trans hr)) fun hn => hn hc

/-- A request outside its stage, or in another version, is answered with ERROR. -/
theorem inStage_cases (stage : Nat) (req : Bytes) (s : State) (f : State → State) :
    (s.naust.spdmStage < stage → inStage stage req s f = spdmError 4 0 s) ∧
    (stage ≤ s.naust.spdmStage → u req 0 1 ≠ s.naust.spdmVer → inStage stage req s f = spdmError 0x41 0 s) ∧
    (stage ≤ s.naust.spdmStage → u req 0 1 = s.naust.spdmVer → inStage stage req s f = f s) := by
  unfold inStage
  refine ⟨fun h => if_pos h, fun h hv => ?_, fun h hv => ?_⟩
  · rw [if_neg (Nat.not_lt.mpr h), if_pos hv]
    rfl
  · rw [if_neg (Nat.not_lt.mpr h), if_neg (not_not.mpr hv)]

/-- The stages of a request that needs one. -/
theorem staged_cases {i : Bytes → Instr} {code stage : Nat} {f : Bytes → State → State}
    (hi : ∀ req s, exec (i req) s = .next (asked code req s (fun s => inStage stage req s (f req)))) (req : Bytes) (s : State) :
    (s.boot.released = true → spdmCode req = code → s.naust.spdmStage < stage → exec (i req) s = .next (spdmError 4 0 s)) ∧
    (s.boot.released = true → spdmCode req = code → stage ≤ s.naust.spdmStage → u req 0 1 ≠ s.naust.spdmVer → exec (i req) s = .next (spdmError 0x41 0 s)) ∧
    (s.boot.released = false ∨ spdmCode req ≠ code → exec (i req) s = .next s) := by
  obtain ⟨hearly, hversion, -⟩ := inStage_cases stage req s (f req)
  rw [hi]
  exact ⟨fun hr hc hs => congrArg Host.Outcome.next ((asked_released hr hc _).trans (hearly hs)),
    fun hr hc hs hv => congrArg Host.Outcome.next ((asked_released hr hc _).trans (hversion hs hv)), fun h => congrArg Host.Outcome.next (asked_other h _)⟩

/-- A request that is asked at its stage and in the version in use is answered. -/
theorem staged_runs {i : Bytes → Instr} {code stage : Nat} {f : Bytes → State → State}
    (hi : ∀ req s, exec (i req) s = .next (asked code req s (fun s => inStage stage req s (f req)))) {req : Bytes} {s : State}
    (hr : s.boot.released = true) (hc : spdmCode req = code) (hs : stage ≤ s.naust.spdmStage) (hv : u req 0 1 = s.naust.spdmVer) :
    exec (i req) s = .next (f req s) := by
  rw [hi]
  exact congrArg Host.Outcome.next ((asked_released hr hc _).trans ((inStage_cases stage req s (f req)).2.2 hs hv))

/-! ### GET_VERSION and GET_CAPABILITIES -/

theorem getVersion_cases {req : Bytes} {s : State} (hr : s.boot.released = true) (hc : spdmCode req = 0x84) :
    let t0 : State := { s with naust := { s.naust with spdmVer := 0, spdmStage := 1, transcript := [] } }
    (u req 0 1 = 0x10 → getVersion req s = respond req ([0x10, 0x04, 0, 0, 0, 2] ++ leBytes 2 0x1200 ++ leBytes 2 0x1300) t0) ∧
    (u req 0 1 ≠ 0x10 → getVersion req s = spdmError 0x41 0 t0) := by
  intro t0
  have hrun : getVersion req s = if u req 0 1 ≠ 0x10 then spdmError errVersion 0 t0 else respond req ([0x10, 0x04, 0, 0, 0, 2] ++ leBytes 2 0x1200 ++ leBytes 2 0x1300) t0 :=
    asked_released hr hc _
  rw [hrun]
  exact ⟨fun h => if_neg (not_not.mpr h), fun h => if_pos h⟩

/-- The answer to GET_CAPABILITIES. -/
def capabilities (req : Bytes) (s : State) : Bytes := leBytes 1 (u req 0 1) ++ [0x61, 0, 0, 0, 14, 0, 0] ++ leBytes 4 0x16 ++ leBytes 8 (Config.freeNat s.freeCtr)

theorem capabilities_spec (req : Bytes) (s : State) : (capabilities req s).length = 20 ∧
    (capabilities req s).take 12 = leBytes 1 (u req 0 1) ++ [0x61, 0, 0, 0, 14, 0, 0] ++ leBytes 4 0x16 := by
  have hhead : (leBytes 1 (u req 0 1) ++ [0x61, 0, 0, 0, 14, 0, 0] ++ leBytes 4 0x16 : Bytes).length = 12 := rfl
  unfold capabilities
  refine ⟨?_, ?_⟩
  · rw [List.length_append, hhead, length_leBytes]
  · exact List.take_left' hhead

theorem getCapabilities_cases {req : Bytes} {s : State} (hr : s.boot.released = true) (hc : spdmCode req = 0xE1) :
    (s.naust.spdmStage < 1 → getCapabilities req s = spdmError 4 0 s) ∧
    (1 ≤ s.naust.spdmStage → u req 0 1 ≠ 0x12 → u req 0 1 ≠ 0x13 → getCapabilities req s = spdmError 0x41 0 s) ∧
    (1 ≤ s.naust.spdmStage → u req 0 1 = 0x12 ∨ u req 0 1 = 0x13 → getCapabilities req s =
      bumpFree (respond req (capabilities req s) { s with naust := { s.naust with spdmVer := u req 0 1, spdmStage := 2 } })) := by
  have hrun : getCapabilities req s = _ := asked_released hr hc _
  rw [hrun]
  refine ⟨fun h => if_pos h, fun h h2 h3 => ?_, fun h hv => ?_⟩
  · rw [if_neg (Nat.not_lt.mpr h)]
    exact if_pos ⟨h2, h3⟩
  · rw [if_neg (Nat.not_lt.mpr h)]
    exact if_neg fun hn => hv.elim hn.1 hn.2

/-! ### The other requests -/

theorem negotiate_cases {req : Bytes} {s : State} (hr : s.boot.released = true) (hc : spdmCode req = 0xE3) (hs : 2 ≤ s.naust.spdmStage)
    (hv : u req 0 1 = s.naust.spdmVer) : let asym := nb (bitAt (u req 8 4) 3)
    let hash := nb (bitAt (u req 12 4) 0)
    (asym + hash = 0 → exec (.negotiateAlgorithms req) s = .next (spdmError 1 0 s)) ∧
    (asym + hash ≠ 0 → exec (.negotiateAlgorithms req) s = .next (respond req (leBytes 1 s.naust.spdmVer ++ [0x63, 0, 0] ++ leBytes 2 36 ++ [1, 0] ++ leBytes 4 2
      ++ leBytes 4 (8 * asym) ++ leBytes 4 hash ++ zeros 16) { s with naust := { s.naust with spdmStage := 3 } })) := by
  intro asym hash
  have hrun : exec (.negotiateAlgorithms req) s = .next _ := staged_runs (i := .negotiateAlgorithms) (fun _ _ => rfl) hr hc hs hv
  rw [hrun]
  exact ⟨fun h => congrArg Host.Outcome.next (if_pos h), fun h => congrArg Host.Outcome.next (if_neg h)⟩

theorem getCertificate_cases {req : Bytes} {s : State} (hr : s.boot.released = true) (hc : spdmCode req = 0x82) (hs : 3 ≤ s.naust.spdmStage)
    (hv : u req 0 1 = s.naust.spdmVer) : let n := min (min (u req 6 2) 1024) (certChain.length - u req 4 2)
    (u req 2 1 % 16 = 0 → u req 4 2 < certChain.length → exec (.getCertificate req) s = .next (respond req
      (leBytes 1 s.naust.spdmVer ++ [0x02, 0, 0] ++ leBytes 2 n ++ leBytes 2 (certChain.length - u req 4 2 - n) ++ slice certChain (u req 4 2) n) s)) ∧
    (u req 2 1 % 16 ≠ 0 ∨ certChain.length ≤ u req 4 2 → exec (.getCertificate req) s = .next (spdmError 1 0 s)) := by
  intro n
  have hrun : exec (.getCertificate req) s = .next _ := staged_runs (i := .getCertificate) (fun _ _ => rfl) hr hc hs hv
  rw [hrun]
  exact ⟨fun h hoff => congrArg Host.Outcome.next (if_neg fun hn => hn.elim (fun hn => hn h) (Nat.not_le.mpr hoff)), fun h => congrArg Host.Outcome.next (if_pos h)⟩

/-- The part of CHALLENGE_AUTH that is signed. -/
def challengeBody (req : Bytes) (s : State) : Bytes :=
  leBytes 1 s.naust.spdmVer ++ [0x03, 0, 1] ++ hash32 (Config.hash 256 certChain) ++ nonce s.freeCtr
    ++ (if u req 3 1 = 0xFF then hash32 (Config.hash 256 (allMeasurements s)) else []) ++ leBytes 2 0 ++ echoContext req 36 s

theorem challenge_cases {req : Bytes} {s : State} (hr : s.boot.released = true) (hc : spdmCode req = 0x83) (hs : 3 ≤ s.naust.spdmStage)
    (hv : u req 0 1 = s.naust.spdmVer) :
    (u req 2 1 % 16 ≠ 0 ∨ (u req 3 1 ≠ 0 ∧ u req 3 1 ≠ 0xFF) → exec (.challenge req) s = .next (spdmError 1 0 s)) ∧
    (u req 2 1 % 16 = 0 → u req 3 1 = 0 ∨ u req 3 1 = 0xFF → idLost s = true → exec (.challenge req) s = .next (spdmError 5 0 s)) ∧
    (u req 2 1 % 16 = 0 → u req 3 1 = 0 ∨ u req 3 1 = 0xFF → idLost s = false → exec (.challenge req) s =
      .next (bumpFree (respond req (challengeBody req s ++ spdmSign "responder-challenge_auth signing" 4 req (challengeBody req s) s) s))) := by
  have hrun : exec (.challenge req) s = .next _ := staged_runs (i := .challenge) (fun _ _ => rfl) hr hc hs hv
  rw [hrun]
  have hgood (h : u req 2 1 % 16 = 0) (hsum : u req 3 1 = 0 ∨ u req 3 1 = 0xFF) : ¬ (u req 2 1 % 16 ≠ 0 ∨ (u req 3 1 ≠ 0 ∧ u req 3 1 ≠ 0xFF)) :=
    fun hn => hn.elim (fun hn => hn h) fun hn => hsum.elim hn.1 hn.2
  refine ⟨fun h => congrArg Host.Outcome.next (if_pos h), fun h hsum hl => congrArg Host.Outcome.next ?_, fun h hsum hl => congrArg Host.Outcome.next ?_⟩
  · exact (if_neg (hgood h hsum)).trans (if_pos hl)
  · exact (if_neg (hgood h hsum)).trans (if_neg (by rw [hl]; exact Bool.false_ne_true))

/-- Measurement record that a request's operation asks for. -/
def measurementRecord (op : Nat) (s : State) : Bytes := if op = 0 then [] else if op = 0xFF then allMeasurements s else (measurement op s).getD []

/-- The part of MEASUREMENTS that is signed on request. -/
def measurementsBody (req : Bytes) (s : State) : Bytes :=
  leBytes 1 s.naust.spdmVer ++ [0x60] ++ leBytes 1 (if u req 3 1 = 0 then 6 else 0) ++ [0]
    ++ leBytes 1 (if u req 3 1 = 0 then 0 else if u req 3 1 = 0xFF then 6 else 1) ++ leBytes 3 (measurementRecord (u req 3 1) s).length
    ++ measurementRecord (u req 3 1) s ++ nonce s.freeCtr ++ leBytes 2 0 ++ echoContext req (if bitAt (u req 2 1) 0 then 37 else 4) s

theorem measurementsBody_spec (req : Bytes) (s : State) : let v := leBytes 1 s.naust.spdmVer
    let sig := bitAt (u req 2 1) 0
    (u req 3 1 = 0 → measurementsBody req s = v ++ [0x60, 6, 0, 0, 0, 0, 0] ++ nonce s.freeCtr ++ leBytes 2 0 ++ echoContext req (if sig then 37 else 4) s) ∧
    (∀ r, 1 ≤ u req 3 1 → u req 3 1 ≤ 6 → measurement (u req 3 1) s = some r → measurementsBody req s = v ++ [0x60, 0, 0, 1] ++ leBytes 3 r.length ++ r
      ++ nonce s.freeCtr ++ leBytes 2 0 ++ echoContext req (if sig then 37 else 4) s) ∧
    (u req 3 1 = 0xFF → measurementsBody req s = v ++ [0x60, 0, 0, 6] ++ leBytes 3 (allMeasurements s).length ++ allMeasurements s
      ++ nonce s.freeCtr ++ leBytes 2 0 ++ echoContext req (if sig then 37 else 4) s) := by
  intro v sig
  unfold measurementsBody measurementRecord
  refine ⟨fun h => ?_, fun r h1 h6 hr => ?_, fun h => ?_⟩
  · rw [h, if_pos rfl, if_pos rfl, if_pos rfl, List.length_nil]
    rfl
  · rw [if_neg (by omega), if_neg (by omega), if_neg (by omega), if_neg (by omega), if_neg (by omega), hr]
    rfl
  · rw [h, if_neg (by decide), if_neg (by decide), if_pos rfl, if_neg (by decide), if_pos rfl]
    rfl

theorem getMeasurements_cases {req : Bytes} {s : State} (hr : s.boot.released = true) (hc : spdmCode req = 0xE0) (hs : 3 ≤ s.naust.spdmStage)
    (hv : u req 0 1 = s.naust.spdmVer) : let sig := bitAt (u req 2 1) 0
    ((6 < u req 3 1 ∧ u req 3 1 ≠ 0xFF) ∨ (sig = true ∧ u req 36 1 % 16 ≠ 0) → exec (.getMeasurements req) s = .next (spdmError 1 0 s)) ∧
    (sig = true → u req 36 1 % 16 = 0 → idLost s = true → u req 3 1 ≤ 6 ∨ u req 3 1 = 0xFF → exec (.getMeasurements req) s = .next (spdmError 5 0 s)) ∧
    (u req 3 1 ≤ 6 ∨ u req 3 1 = 0xFF → (sig = true → u req 36 1 % 16 = 0 ∧ idLost s = false) → exec (.getMeasurements req) s =
      .next (bumpFree (respond req (if sig then measurementsBody req s ++ spdmSign "responder-measurements signing" 6 req (measurementsBody req s) s
        else measurementsBody req s) s))) := by
  intro sig
  have hrun : exec (.getMeasurements req) s = .next _ := staged_runs (i := .getMeasurements) (fun _ _ => rfl) hr hc hs hv
  rw [hrun]
  refine ⟨fun h => congrArg Host.Outcome.next (if_pos h), fun hg h36 hl hop => congrArg Host.Outcome.next ?_, fun hop hg => congrArg Host.Outcome.next ?_⟩
  · refine (if_neg ?_).trans (if_pos ?_)
    · rintro (⟨h6, hff⟩ | ⟨-, h⟩)
      · exact hop.elim (Nat.not_le.mpr h6) hff
      · exact h h36
    · rw [Bool.and_eq_true]
      exact ⟨hg, hl⟩
  · refine (if_neg ?_).trans (if_neg ?_)
    · rintro (⟨h6, hff⟩ | ⟨hsig, h⟩)
      · exact hop.elim (Nat.not_le.mpr h6) hff
      · exact h (hg hsig).1
    · rw [Bool.and_eq_true]
      rintro ⟨hsig, hl⟩
      exact Bool.false_ne_true ((hg hsig).2.symm.trans hl)

theorem measurement_index {i : Nat} {s : State} {r : Bytes} (h : measurement i s = some r) : 1 ≤ i ∧ i ≤ 6 ∧ u r 0 1 = i := by
  have hblock {n type : Nat} {v : Bytes} (hn : n < 256) (h : some (measBlock n type v) = some r) : u r 0 1 = n := by
    rw [← Option.some.inj h]
    change (BitVec.ofNat 8 n).toNat + 256 * 0 = n
    rw [BitVec.toNat_ofNat]
    omega
  unfold measurement at h
  split at h
  case h_7 => cases h
  all_goals exact ⟨by decide, by decide, hblock (by decide) h⟩

/-- Settles O57: every request through its stage and version, then by what it asks for. -/
theorem attestationAnswersAtItsStage : Obligations.AttestationAnswersAtItsStage := by
  unfold Obligations.AttestationAnswersAtItsStage
  refine ⟨?versions, ?capabilities, ?algorithms, ?answers, ?stages, fun req s => ⟨fun h => congrArg Host.Outcome.next (asked_other h _), fun h => congrArg Host.Outcome.next (asked_other h _)⟩,
    fun s i r h => measurement_index h, fun req s => ⟨fun hr hc => congrArg Host.Outcome.next (if_pos ?unknown), fun h => congrArg Host.Outcome.next (if_neg ?known)⟩,
    fun s => rfl, ?discovery⟩
  case versions =>
    intro req s hr hc t0 resp
    obtain ⟨hv10, hother⟩ := getVersion_cases hr hc
    exact ⟨fun h => ⟨_, congrArg Host.Outcome.next (hv10 h), rfl, rfl, rfl, rfl, rfl⟩, fun h => congrArg Host.Outcome.next (hother h)⟩
  case capabilities =>
    intro req s hr hc
    obtain ⟨hearly, hversion, hruns⟩ := getCapabilities_cases hr hc
    obtain ⟨hlen, htake⟩ := capabilities_spec req s
    exact ⟨fun h => congrArg Host.Outcome.next (hearly h), fun h h2 h3 => congrArg Host.Outcome.next (hversion h h2 h3),
      fun h hv => ⟨_, capabilities req s, congrArg Host.Outcome.next (hruns h hv), rfl, hlen, htake, rfl, rfl, rfl⟩⟩
  case algorithms =>
    intro req s hr hc hs hv asym hash
    obtain ⟨hnone, hsome⟩ := negotiate_cases hr hc hs hv
    exact ⟨hnone, fun h => ⟨_, hsome h, rfl, rfl⟩⟩
  case answers =>
    intro req s hr hs hv v
    refine ⟨fun hc => staged_runs (i := .getDigests) (fun _ _ => rfl) hr hc hs hv, fun hc => getCertificate_cases hr hc hs hv, fun hc => ?_, fun hc => ?_⟩
    · obtain ⟨hbad, hlost, hsigned⟩ := challenge_cases hr hc hs hv
      exact ⟨hbad, fun h hsum => ⟨hlost h hsum, fun hl => ⟨_, challengeBody req s, hsigned h hsum hl, rfl, rfl⟩⟩⟩
    · obtain ⟨hbad, hlost, hanswer⟩ := getMeasurements_cases hr hc hs hv
      exact ⟨hbad, hlost, fun hop hg => ⟨_, measurementsBody req s, hanswer hop hg, rfl, measurementsBody_spec req s⟩⟩
  case stages =>
    intro c code stage h req s
    simp only [List.mem_cons, Prod.mk.injEq, List.not_mem_nil, or_false] at h
    rcases h with ⟨rfl, rfl, rfl⟩ | ⟨rfl, rfl, rfl⟩ | ⟨rfl, rfl, rfl⟩ | ⟨rfl, rfl, rfl⟩ | ⟨rfl, rfl, rfl⟩
    · exact staged_cases (fun _ _ => rfl) req s
    · exact staged_cases (fun _ _ => rfl) req s
    · exact staged_cases (fun _ _ => rfl) req s
    · exact staged_cases (fun _ _ => rfl) req s
    · exact staged_cases (fun _ _ => rfl) req s
  case unknown =>
    rw [hr, Bool.true_and, Bool.not_eq_true', List.contains_eq_mem, decide_eq_false_iff_not]
    exact hc
  case known =>
    rw [Bool.and_eq_true, Bool.not_eq_true', List.contains_eq_mem, decide_eq_false_iff_not]
    rintro ⟨hr, hc⟩
    exact h.elim (fun hn => Bool.false_ne_true (hn.symm.trans hr)) hc
  case discovery =>
    intro i s entry
    have hentry : doeEntry i.toNat = entry := by
      have hzero : i.toNat = 0 ↔ i = 0 := BitVec.toNat_inj (y := 0)
      have hone : i.toNat = 1 ↔ i = 1 := BitVec.toNat_inj (y := 1)
      simp only [doeEntry, entry, hzero, hone]
      rfl
    refine ⟨fun hr => congrArg Host.Outcome.next ((if_pos hr).trans ?_), fun hr => congrArg Host.Outcome.next (if_neg (by rw [hr]; exact Bool.false_ne_true))⟩
    rw [hentry]

end Sys2Proof.Machine
end
section
/-! Bring-up (R366): what KEEPER_RELEASE leaves in LNK_PORT_EN. -/

namespace Sys2Proof.Machine
open Sys2Proof

/-- A module whose Keeper may be released while port 0, which the record does not name, is UP and a fetch waits on it. A core numbered
196544 stands idle: its status register stands where LNK_PORT_EN does. -/
def releasableWithStrayCore : State :=
  { rset (R.LNK_Lnn_STAT 0) 3 (rset R.LNK_PORT_EN 1 (rset R.KPR_EXPECT 4 {})) with
    boot := { verified := true }
    cores := [(196544, {})]
    reads := [{ tag := 5 }]
    started := [{ id := 0, turn := 0, q := 0, idx := 0, unit := 0, bytes := [], outs := [] }]
    streams := [(0, { pieces := [{ c := 0 }] })]
    halves := [(0, { transfers := [{ id := 1, owner := 0, c := 0, req := some 5 }] })] }

theorem bootEnded_releasableWithStrayCore : bootEnded releasableWithStrayCore = false := by decide

theorem portsWanted_releasableWithStrayCore : portsWanted releasableWithStrayCore = 2 := by decide +kernel

theorem portEn_releasableWithStrayCore : rget R.LNK_PORT_EN (keeperRelease releasableWithStrayCore) = 0 := by decide +kernel

/-- Refutes O58: the model bounds no core's number, and on this module the release takes port 0 down, whose fetch fails; the status that
the failed command's cores then show clears LNK_PORT_EN. -/
theorem not_bringUpFollowsItsStages : ¬ Obligations.BringUpFollowsItsStages := by
  unfold Obligations.BringUpFollowsItsStages
  rintro ⟨-, -, -, -, -, -, -, -, -, -, -, -, -, -, -, -, -, hrelease, -⟩
  obtain ⟨t, ht, -, -, -, hports, -⟩ := (hrelease releasableWithStrayCore).1 rfl rfl bootEnded_releasableWithStrayCore
  have hcleared := portEn_releasableWithStrayCore
  rw [Host.Outcome.next.inj ht, hports, portsWanted_releasableWithStrayCore] at hcleared
  exact absurd hcleared (by decide)

end Sys2Proof.Machine
end
section
/-! The management bus and the test access port (R380 to R382, Tables 22.3 and 22.4). -/

namespace Sys2Proof.Machine
open Sys2Proof

/-! ### READ -/

/-- A read of a word changes the latches alone. -/
theorem readWord_frame (off : Nat) (s : State) : { (readWord off s).2 with latches := s.latches } = s := by
  unfold readWord
  split
  · rfl
  · split
    · rfl
    · split
      · rfl
      · split <;> rfl

theorem readWords_spec (n : Nat) : ∀ (off : Nat) (s : State), (readWords n off s).1.length = 4 * n ∧ { (readWords n off s).2 with latches := s.latches } = s := by
  induction n with
  | zero => exact fun _ _ => ⟨rfl, rfl⟩
  | succ n ih =>
    intro off s
    have hstep := readWord_frame off s
    obtain ⟨hlen, hrest⟩ := ih (off + 4) (readWord off s).2
    have hrun : readWords (n + 1) off s = (leBytes 4 (readWord off s).1 ++ (readWords n (off + 4) (readWord off s).2).1, (readWords n (off + 4) (readWord off s).2).2) := rfl
    rw [hrun]
    generalize readWord off s = r at hstep hlen hrest ⊢
    generalize readWords n (off + 4) r.2 = w at hlen hrest ⊢
    obtain ⟨v, t⟩ := r
    obtain ⟨b, z⟩ := w
    refine ⟨?_, (congrArg (fun q : State => { q with latches := s.latches }) hrest).trans hstep⟩
    rw [List.length_append, length_leBytes, hlen]
    omega

theorem readWords_first {n : Nat} (hn : 1 ≤ n) (off : Nat) (s : State) (x : Byte) : u (x :: (readWords n off s).1) 1 4 = (readWord off s).1 % 2 ^ 32 := by
  obtain ⟨m, rfl⟩ := Nat.exists_eq_add_of_le' hn
  have hrun : (readWords (m + 1) off s).1 = leBytes 4 (readWord off s).1 ++ (readWords m (off + 4) (readWord off s).2).1 := rfl
  have hslice : slice (x :: (leBytes 4 (readWord off s).1 ++ (readWords m (off + 4) (readWord off s).2).1)) 1 4 = leBytes 4 (readWord off s).1 :=
    List.take_left' (length_leBytes 4 _)
  rw [u, hrun, hslice, ofLe_leBytes, show 256 ^ 4 = 2 ^ 32 from rfl]

theorem busRead_cases {s : State} (hs : busServed s = true) (hh : s.mgmt.held = []) (a n : Nat) :
    (a % 4 ≠ 0 ∨ n = 0 ∨ 64 < n → busRead a n s = setResult [3] s) ∧
    (a % 4 = 0 → 1 ≤ n → n ≤ 64 → a < regBase ∨ regEnd < a + 4 * n → busRead a n s = setResult [2] s) ∧
    (a % 4 = 0 → 1 ≤ n → n ≤ 64 → regBase ≤ a → a + 4 * n ≤ regEnd →
      busRead a n s = setResult (0 :: (readWords n (a - regBase) s).1) (readWords n (a - regBase) s).2) := by
  have hrun : busRead a n s = _ := (busCommand_cases _ s).2.2 hs hh
  rw [hrun]
  refine ⟨fun h => if_pos h, fun ha h1 h64 h => ?_, fun ha h1 h64 hlo hhi => ?_⟩
  · rw [if_neg (by omega)]
    exact if_pos h
  · rw [if_neg (by omega)]
    exact if_neg (by omega)

/-! ### Flash (Table 22.4) -/

theorem findKey_getD (r : Nat) (l : List (Nat × List (Nat × Byte))) : (findKey r l).getD [] = AL.get [] r l := by
  unfold findKey
  induction l with
  | nil => rfl
  | cons p l ih =>
    obtain ⟨j, v⟩ := p
    rw [List.find?_cons]
    by_cases h : j = r
    · subst h
      simp [AL.get]
    · have hne : (j == r) = false := beq_eq_false_iff_ne.mpr h
      rw [hne, AL.get, if_neg h]
      exact ih

/-- A region's bytes after bytes were put there. -/
theorem get_putFlash (b : Bytes) : ∀ (off : Nat) (l : List (Nat × Byte)) (i : Nat), AL.get 0xFF i (putFlash off b l) =
    if off ≤ i ∧ i < off + b.length then b.getD (i - off) 0xFF else AL.get 0xFF i l := by
  induction b with
  | nil => exact fun off l i => (if_neg (by rw [List.length_nil]; omega)).symm
  | cons x b ih =>
    intro off l i
    rw [putFlash, ih, List.length_cons]
    by_cases hi : i = off
    · subst hi
      rw [if_neg (by omega), if_pos (by omega), AL.get_set_self, Nat.sub_self]
      rfl
    · rw [AL.get_set_ne _ _ hi]
      by_cases h : off ≤ i ∧ i < off + (b.length + 1)
      · rw [if_pos h, if_pos (by omega), show i - off = (i - (off + 1)) + 1 by omega]
        rfl
      · rw [if_neg h, if_neg (by omega)]

theorem flashByte_writeFlash (r off : Nat) (b : Bytes) (s : State) (x i : Nat) : flashByte x i (writeFlash r off b s) =
    if x = r then (if off ≤ i ∧ i < off + b.length then b.getD (i - off) 0xFF else if r < 2 ∧ off = 0 then 0xFF else flashByte r i s) else flashByte x i s := by
  have hold : AL.get 0xFF i (if r < 2 ∧ off = 0 then [] else (findKey r s.mgmt.flash).getD []) = if r < 2 ∧ off = 0 then 0xFF else flashByte r i s := by
    unfold flashByte
    split <;> rfl
  have hflash : (writeFlash r off b s).mgmt.flash = AL.set [] r (putFlash off b (if r < 2 ∧ off = 0 then [] else (findKey r s.mgmt.flash).getD [])) s.mgmt.flash := rfl
  rw [flashByte, findKey_getD, hflash]
  by_cases h : x = r
  · subst h
    rw [if_pos rfl, AL.get_set_self, get_putFlash, hold]
  · rw [if_neg h, AL.get_set_ne _ _ h, flashByte, findKey_getD]

theorem flashBytes_writeFlash (r off : Nat) (b : Bytes) (s : State) : flashBytes r off b.length (writeFlash r off b s) = b := by
  unfold flashBytes
  refine List.ext_getElem (by simp) fun i hi hb => ?_
  rw [List.getElem_map, List.getElem_range, flashByte_writeFlash, if_pos rfl, if_pos ⟨Nat.le_add_right .., Nat.add_lt_add_left hb off⟩, Nat.add_sub_cancel_left,
    List.getD_eq_getElem _ _ hb]

theorem flashWrite_cases {s : State} (hs : busServed s = true) (r off : Nat) (b : Bytes) :
    (4 < r ∨ b = [] ∨ 256 < b.length → flashWrite r off b s = setResult [if s.mgmt.held = [] then 3 else 1] s) ∧
    (r ≤ 4 → b ≠ [] → b.length ≤ 256 → flashSize r < off + b.length → flashWrite r off b s = setResult [if s.mgmt.held = [] then 2 else 1] s) ∧
    (r ≤ 4 → b ≠ [] → b.length ≤ 256 → off + b.length ≤ flashSize r → verifying s = true →
      flashWrite r off b s = setResult [1] { s with mgmt := { s.mgmt with held := s.mgmt.held ++ [(r, off, b)] } }) ∧
    (r ≤ 4 → b ≠ [] → b.length ≤ 256 → off + b.length ≤ flashSize r → verifying s = false → flashWrite r off b s = setResult [0] (writeFlash r off b s)) := by
  have hbusy (x : Byte) : (if s.mgmt.held.isEmpty then setResult [x] s else setResult [mBUSY] s) = setResult [if s.mgmt.held = [] then x else 1] s := by
    by_cases h : s.mgmt.held = []
    · rw [h]
      rfl
    · rw [if_neg (by rw [List.isEmpty_iff]; exact h), if_neg h]
      rfl
  have hserved : ¬ (!busServed s) = true := by rw [hs]; decide
  unfold flashWrite
  rw [if_neg hserved]
  have hgood (hr : r ≤ 4) (hb : b ≠ []) (hlen : b.length ≤ 256) : ¬ (4 < r ∨ b.length = 0 ∨ 256 < b.length) := by
    have := List.length_pos_iff.mpr hb
    omega
  refine ⟨fun h => ?_, fun hr hb hlen hsize => ?_, fun hr hb hlen hsize hv => ?_, fun hr hb hlen hsize hv => ?_⟩
  · rw [if_pos (h.imp_right (Or.imp_left List.length_eq_zero_iff.mpr))]
    exact hbusy 3
  · rw [if_neg (hgood hr hb hlen), if_pos hsize]
    exact hbusy 2
  · rw [if_neg (hgood hr hb hlen), if_neg (Nat.not_lt.mpr hsize), if_pos hv]
    rfl
  · rw [if_neg (hgood hr hb hlen), if_neg (Nat.not_lt.mpr hsize), if_neg (by rw [hv]; exact Bool.false_ne_true)]
    rfl

theorem flashRead_cases {s : State} (hs : busServed s = true) (hh : s.mgmt.held = []) (r off n : Nat) :
    (4 < r ∨ n = 0 ∨ 256 < n → flashRead r off n s = setResult [3] s) ∧
    (r ≤ 4 → 1 ≤ n → n ≤ 256 → flashSize r < off + n → flashRead r off n s = setResult [2] s) ∧
    (r ≤ 4 → 1 ≤ n → n ≤ 256 → off + n ≤ flashSize r → flashRead r off n s = setResult (0 :: flashBytes r off n s) s) := by
  have hrun : flashRead r off n s = _ := (busCommand_cases _ s).2.2 hs hh
  rw [hrun]
  refine ⟨fun h => if_pos h, fun hr h1 h2 h => ?_, fun hr h1 h2 h => ?_⟩
  · rw [if_neg (by omega)]
    exact if_pos h
  · rw [if_neg (by omega)]
    exact if_neg (Nat.not_lt.mpr h)

/-! ### RESET -/

/-- After a module reset every register but the serial number is at its reset value. -/
theorem rget_moduleReset (o : Nat) (s : State) : rget o (moduleReset s) = if o = R.NST_SERIAL then rget o s else resetOf o := by
  have hregs : rget o (moduleReset s) = AL.get (resetOf o) o (AL.set 0 R.NST_SERIAL (rget R.NST_SERIAL s) []) := rfl
  rw [hregs]
  by_cases h : o = R.NST_SERIAL
  · have hzero : resetOf R.NST_SERIAL = 0 := by decide
    rw [if_pos h, h, hzero, AL.get_set_self]
  · rw [if_neg h, AL.get_set_ne _ _ h]
    rfl

/-- Signing a record changes neither its place nor its number, and only Naust's own state. -/
theorem signNext_keeps (s : State) : (signNext s).naust.held.map (·.seq) = s.naust.held.map (·.seq) ∧ (signNext s).naust.saved = s.naust.saved ∧
    (signNext s).naust.keeperCtr = s.naust.keeperCtr ∧ { signNext s with naust := s.naust, freeCtr := s.freeCtr } = s := by
  have hfirst (f : MeterRec → MeterRec) (hf : ∀ r, (f r).seq = r.seq) (l : List MeterRec) : (signFirst f l).map (·.seq) = l.map (·.seq) := by
    induction l with
    | nil => rfl
    | cons r l ih =>
      rw [signFirst]
      split
      · rw [List.map_cons, List.map_cons, ih]
      · rw [List.map_cons, List.map_cons, hf]
  unfold signNext
  split
  case h_1 => exact ⟨rfl, rfl, rfl, rfl⟩
  case h_2 r _ => exact ⟨hfirst (fun x => { x with bytes := signedBytes r.bytes s, signed := true }) (fun _ => rfl) s.naust.held, rfl, rfl, rfl⟩

/-- Naust saves its records in the order of their numbers. -/
theorem saveRecords_spec (s : State) : (saveRecords s).naust.saved.map (·.seq) = (s.naust.saved ++ s.naust.held).map (·.seq) ∧
    (saveRecords s).naust.keeperCtr = s.naust.keeperCtr ∧ { saveRecords s with naust := s.naust, freeCtr := s.freeCtr } = s := by
  have hfold (l : List Nat) : ∀ w : State, let t := l.foldl (fun t _ => signNext t) w
      t.naust.held.map (·.seq) = w.naust.held.map (·.seq) ∧ t.naust.saved = w.naust.saved ∧ t.naust.keeperCtr = w.naust.keeperCtr ∧
      { t with naust := w.naust, freeCtr := w.freeCtr } = w := by
    induction l with
    | nil => exact fun _ => ⟨rfl, rfl, rfl, rfl⟩
    | cons n l ih =>
      intro w
      obtain ⟨hheld, hsaved, hctr, hframe⟩ := signNext_keeps w
      obtain ⟨gheld, gsaved, gctr, gframe⟩ := ih (signNext w)
      rw [List.foldl_cons]
      generalize signNext w = x at hheld hsaved hctr hframe gheld gsaved gctr gframe ⊢
      exact ⟨gheld.trans hheld, gsaved.trans hsaved, gctr.trans hctr, (congrArg (fun q : State => { q with naust := w.naust, freeCtr := w.freeCtr }) gframe).trans hframe⟩
  obtain ⟨hheld, hsaved, hctr, hframe⟩ := hfold (List.range meterBuffer) s
  have hrun : saveRecords s = (fun t : State => { t with naust := { t.naust with saved := t.naust.saved ++ t.naust.held } }) ((List.range meterBuffer).foldl (fun t _ => signNext t) s) := rfl
  rw [hrun]
  generalize (List.range meterBuffer).foldl (fun t _ => signNext t) s = t at hheld hsaved hctr hframe ⊢
  refine ⟨?_, hctr, hframe⟩
  dsimp only
  rw [List.map_append, List.map_append, hheld, hsaved]

theorem releaseWrites_frame (s : State) : { releaseWrites s with mgmt := s.mgmt } = s := by
  have hfold (l : List (Nat × Nat × Bytes)) : ∀ w : State, { l.foldl (fun t w => writeFlash w.1 w.2.1 w.2.2 t) w with mgmt := w.mgmt } = w := by
    induction l with
    | nil => exact fun _ => rfl
    | cons x l ih =>
      intro w
      have hstep : { writeFlash x.1 x.2.1 x.2.2 w with mgmt := w.mgmt } = w := rfl
      have hrest := ih (writeFlash x.1 x.2.1 x.2.2 w)
      rw [List.foldl_cons]
      generalize writeFlash x.1 x.2.1 x.2.2 w = y at hstep hrest ⊢
      exact (congrArg (fun q : State => { q with mgmt := w.mgmt }) hrest).trans hstep
  have hall := hfold s.mgmt.held s
  unfold releaseWrites
  generalize s.mgmt.held.foldl (fun t w => writeFlash w.1 w.2.1 w.2.2 t) s = t at hall ⊢
  dsimp only
  split
  · exact hall
  · exact hall

/-- What RESET with its key leaves (R361, R382). -/
theorem busReset_runs {s : State} (hs : busServed s = true) : let t := busReset 0xA5 s
    t.mgmt.result = [0] ∧ t.mgmt.held = [] ∧ (∀ o, rget o t = if o = R.NST_SERIAL then rget o s else resetOf o) ∧
    t.mem = s.mem.filter (fun c => isHost c.1) ∧ t.started = [] ∧
    t.naust.saved.map (·.seq) = (s.naust.saved ++ s.naust.held).map (·.seq) ∧ t.naust.keeperCtr = s.naust.keeperCtr ∧ busServed t = true := by
  intro t
  have hframe := releaseWrites_frame s
  obtain ⟨hsaved, hctr, hkeep⟩ := saveRecords_spec (releaseWrites s)
  have ht : t = setResult [0] (moduleReset (saveRecords (releaseWrites s))) := (if_neg (by rw [hs]; decide)).trans (if_neg (not_not.mpr rfl))
  rw [ht]
  clear_value t
  generalize releaseWrites s = a at hframe hsaved hctr hkeep ⊢
  generalize saveRecords a = b at hsaved hctr hkeep ⊢
  have hnaust : a.naust = s.naust := (congrArg State.naust hframe :)
  have hregs : b.regs = s.regs := (congrArg State.regs hkeep :).trans (congrArg State.regs hframe :)
  have hmem : b.mem = s.mem := (congrArg State.mem hkeep :).trans (congrArg State.mem hframe :)
  have hboot : b.boot = s.boot := (congrArg State.boot hkeep :).trans (congrArg State.boot hframe :)
  refine ⟨rfl, rfl, fun o => (rget_moduleReset o b).trans ?_, ?_, rfl, hsaved.trans ?_, hctr.trans (congrArg NaustX.keeperCtr hnaust), ?_⟩
  · rw [rget_congr hregs]
  · rw [← hmem]
    rfl
  · rw [hnaust]
  · have hq : busServed (setResult [0] (moduleReset b)) = (b.boot.qualified && decide (1 ≤ min 1 b.boot.supplies)) := rfl
    rw [hq, hboot]
    rw [busServed, Bool.and_eq_true, decide_eq_true_eq] at hs
    rw [hs.1, Nat.min_eq_left hs.2]
    rfl

/-- Settles O59: each bus command by its checks, the flash as it is written, RESET, and the instructions of the port. -/
theorem busAndTestPortAnswer : Obligations.BusAndTestPortAnswer := by
  unfold Obligations.BusAndTestPortAnswer
  refine ⟨?reads, ?writes, fun r off n s hs hh => ?flashReads, fun s hs hh => ⟨_, congrArg Host.Outcome.next ((busCommand_cases _ s).2.2 hs hh), rfl, rfl⟩,
    ?busy, ?resets,
    fun b cells s hs => ⟨congrArg Host.Outcome.next (if_pos hs), congrArg Host.Outcome.next (if_pos hs), congrArg Host.Outcome.next (if_pos hs), congrArg Host.Outcome.next (if_pos hs)⟩, ?unserved⟩
  case reads =>
    intro a n s hs hh
    obtain ⟨hcount, haddr, hruns⟩ := busRead_cases hs hh a.toNat n
    refine ⟨fun h => congrArg Host.Outcome.next (hcount h), fun ha h1 h64 h => congrArg Host.Outcome.next (haddr ha h1 h64 h),
      fun ha h1 h64 hlo hhi => ⟨_, congrArg Host.Outcome.next (hruns ha h1 h64 hlo hhi), rfl, (readWords_spec n _ s).1, readWords_first h1 _ s 0, ?_⟩⟩
    have hframe := (readWords_spec n (a.toNat - regBase) s).2
    generalize readWords n (a.toNat - regBase) s = r at hframe ⊢
    obtain ⟨b, t⟩ := r
    exact (congrArg (fun q : State => { q with mgmt := s.mgmt }) hframe :)
  case writes =>
    intro r off b s hs
    obtain ⟨hbad, hsize, hheld, hstored⟩ := flashWrite_cases hs r off b
    refine ⟨fun h => congrArg Host.Outcome.next (hbad h), fun hr hb hlen h => congrArg Host.Outcome.next (hsize hr hb hlen h),
      fun hr hb hlen h hv => congrArg Host.Outcome.next (hheld hr hb hlen h hv),
      fun hr hb hlen h hv => ⟨_, congrArg Host.Outcome.next (hstored hr hb hlen h hv), rfl, flashBytes_writeFlash r off b s, fun i hi => ?_, fun x i hx => ?_, rfl⟩⟩
    · refine (flashByte_writeFlash r off b s r i).trans ?_
      rw [if_pos rfl, if_neg (by omega)]
    · exact (flashByte_writeFlash r off b s x i).trans (if_neg hx)
  case flashReads =>
    obtain ⟨hcount, haddr, hruns⟩ := flashRead_cases hs hh r off n
    exact ⟨fun h => congrArg Host.Outcome.next (hcount h), fun hr h1 h2 h => congrArg Host.Outcome.next (haddr hr h1 h2 h),
      fun hr h1 h2 h => congrArg Host.Outcome.next (hruns hr h1 h2 h)⟩
  case busy =>
    intro a n r off s hs hh busy
    exact ⟨congrArg Host.Outcome.next ((busCommand_cases _ s).2.1 hs hh), congrArg Host.Outcome.next ((busCommand_cases _ s).2.1 hs hh),
      congrArg Host.Outcome.next ((busCommand_cases _ s).2.1 hs hh)⟩
  case resets =>
    intro key s hs
    refine ⟨fun h => congrArg Host.Outcome.next ((if_neg (by rw [hs]; decide)).trans (if_pos fun hk => h (BitVec.eq_of_toNat_eq hk))), fun h => ?_⟩
    subst h
    exact ⟨_, rfl, busReset_runs hs⟩
  case unserved =>
    intro a n r off key b cells s hs i hi
    have hoff : (!busServed s) = true := by rw [hs]; rfl
    have hnot : ¬ busServed s = true := by rw [hs]; exact Bool.false_ne_true
    simp only [List.mem_cons, List.not_mem_nil, or_false] at hi
    rcases hi with rfl | rfl | rfl | rfl | rfl | rfl | rfl | rfl | rfl | rfl
    · exact congrArg Host.Outcome.next (if_pos hoff)
    · exact congrArg Host.Outcome.next (if_pos hoff)
    · exact congrArg Host.Outcome.next (if_pos hoff)
    · exact congrArg Host.Outcome.next (if_pos hoff)
    · exact congrArg Host.Outcome.next (if_pos hoff)
    · exact congrArg Host.Outcome.next (if_pos hoff)
    · exact congrArg Host.Outcome.next (if_neg hnot)
    · exact congrArg Host.Outcome.next (if_neg hnot)
    · exact congrArg Host.Outcome.next (if_neg hnot)
    · exact congrArg Host.Outcome.next (if_neg hnot)

end Sys2Proof.Machine
end
